-- ==== Sys2Proof/Word.lean ====
section
/-! DEFINITION. The word types of the module and the identifiers of its units (R4, R13). -/

namespace Sys2Proof

/-- A byte, the smallest addressable unit of every memory of the module. -/
abbrev Byte := BitVec 8
/-- 16-bit words: random fields, table entries. -/
abbrev U16 := BitVec 16
/-- 32-bit words: FP32 values, lane outputs, Leaf slots. -/
abbrev U32 := BitVec 32
/-- 64-bit words: registers, accumulator entries. -/
abbrev U64 := BitVec 64

/-- Logical core ids 0 to 12,287 (R13). -/
abbrev CoreId := Fin 12288
/-- Quire ids, partition controllers and partitions, 0 to 95 (R13, R27). -/
abbrev QuireId := Fin 96
/-- LPDDR6 channels 0 to 47 (R230). -/
abbrev ChanId := Fin 48
/-- Hall ports 0 to 7 (R254). -/
abbrev HallPort := Fin 8
/-- Hall device ids 0 to 1,023 (R14). -/
abbrev PeerId := Fin 1024
/-- Semaphores 0 to 63 (R315). -/
abbrev SemId := Fin 64
/-- GTB comparators 0 to 7 (R286). -/
abbrev CmpId := Fin 8
/-- Barrier groups and multicast groups 0 to 15 (R275, R287). -/
abbrev GroupId := Fin 16
/-- Ring pairs of a host port: 0 to 95 partitions, 96 the module ring (R295). -/
abbrev RingId := Fin 97

end Sys2Proof
end

