-- ==== Sys2Proof/Machine/Bits.lean ====
section
/-! DEFINITION. Bit fields, byte order and counters (R4, R5): the helpers every other file reads words with. -/

namespace Sys2Proof

/-- Bits [hi:lo] of a number (R4: both ends included). -/
def bitsN (v hi lo : Nat) : Nat := (v >>> lo) % 2 ^ (hi + 1 - lo)

/-- Bits [hi:lo] of a word, as a number. -/
def fld {n : Nat} (w : BitVec n) (hi lo : Nat) : Nat := bitsN w.toNat hi lo

/-- Bit i of a word. -/
def bit {n : Nat} (w : BitVec n) (i : Nat) : Bool := w.getLsbD i

/-- A number with bits [hi:lo] replaced. -/
def setBitsN (v hi lo x : Nat) : Nat :=
  v - (bitsN v hi lo) * 2 ^ lo + (x % 2 ^ (hi + 1 - lo)) * 2 ^ lo

/-- A word with bits [hi:lo] replaced. -/
def setFld {n : Nat} (w : BitVec n) (hi lo x : Nat) : BitVec n := BitVec.ofNat n (setBitsN w.toNat hi lo x)

/-- The little-endian number of a byte string (R5). -/
def leNat : List Byte → Nat
  | [] => 0
  | b :: bs => b.toNat + 256 * leNat bs

/-- The little-endian bytes of a number, k of them (R5). -/
def leBytes : Nat → Nat → List Byte
  | 0, _ => []
  | k + 1, v => BitVec.ofNat 8 v :: leBytes k (v / 256)

/-- Bytes [off, off + len) of a byte string. -/
def slice (bs : List Byte) (off len : Nat) : List Byte := (bs.drop off).take len

/-- The little-endian number at an offset of a byte string; bytes beyond its end count as zero. -/
def leAt (bs : List Byte) (off len : Nat) : Nat := leNat (slice bs off len)

/-- A byte string brought to a length: cut, or filled with zero bytes. -/
def padTo (n : Nat) (bs : List Byte) : List Byte := (bs ++ List.replicate (n - bs.length) 0).take n

/-- n zero bytes. -/
def zeros (n : Nat) : List Byte := List.replicate n 0

/-- Whether a range of a byte string is zero: the check of a reserved field (R6). -/
def zeroAt (bs : List Byte) (off len : Nat) : Bool := leAt bs off len == 0

/-- ASCII bytes. -/
def ascii (s : String) : List Byte := s.toList.map (fun c => BitVec.ofNat 8 c.toNat)

/-- A count that saturates. -/
def satAdd (limit v n : Nat) : Nat := min limit (v + n)

/-- The two's-complement value of a number in w bits. -/
def signedOf (w v : Nat) : Int :=
  let u := v % 2 ^ w
  if u < 2 ^ (w - 1) then (u : Int) else (u : Int) - 2 ^ w

/-- The number in w bits of a two's-complement value. -/
def ofSigned (w : Nat) (v : Int) : Nat := (v % (2 ^ w : Int)).toNat

/-- The quotient rounded up. -/
def ceilDiv (a b : Nat) : Nat := (a + b - 1) / b

/-- A number rounded up to a multiple. -/
def roundUp (a m : Nat) : Nat := ceilDiv a m * m

/-- The positions of the set bits of a number below a width, ascending. -/
def setBitsOf (w v : Nat) : List Nat := (List.range w).filter (fun i => v.testBit i)

/-- The number whose set bits are the members of a list. -/
def bitsFrom (l : List Nat) : Nat := l.foldl (fun a i => a ||| (1 <<< i)) 0

/-- A number with one bit set or cleared. -/
def setBit (v i : Nat) (b : Bool) : Nat := if b then v ||| (1 <<< i) else v - (if v.testBit i then 1 <<< i else 0)

/-- The list with the element at a position replaced (unchanged when there is none). -/
def setAt {α : Type} (l : List α) (i : Nat) (v : α) : List α := l.set i v

/-- The longest prefix-free split of a list into pieces of n; empty for n = 0. -/
def chunks {α : Type} (n : Nat) (l : List α) : List (List α) :=
  if n = 0 then [] else (List.range (ceilDiv l.length n)).map (fun i => (l.drop (i * n)).take n)

end Sys2Proof
end

