-- ==== Sys2Proof/Syntax.lean ====
section
/-! DEFINITION. The commands of the module: one constructor of `Instr` per row of the opcode table, with the
row's operands. -/

namespace Sys2Proof

/-- The two PCIe host ports (R292). -/
inductive Port where
  | a | b
deriving DecidableEq, Repr

/-- The requesters that reach registers (R424). -/
inductive Requester where
  | gatehouse | portA | portB | hall | bar4
deriving DecidableEq, Repr

/-- The halves of the array (R13). -/
inductive Half where
  | north | south
deriving DecidableEq, Repr

/-- The four edges and their buffers, in the order of ARR_EBREGION (R163). -/
inductive Edge where
  | n | s | w | e
deriving DecidableEq, Repr

/-- The four link directions, in the order of the link slot's source field (R79). -/
inductive Dir where
  | n | e | s | w
deriving DecidableEq, Repr

/-- The four slots of a Leaf word (R68). -/
inductive Slot where
  | control | link | field | lane
deriving DecidableEq, Repr

/-- How a link word arrives: with a good check, with a failed check, or with a loss of alignment (R82, R151). -/
inductive Arrival where
  | good | failed | misaligned
deriving DecidableEq, Repr

/-- A descriptor that a ring has fetched: its port, its ring, and its number among the descriptors that its ring pair has
fetched (R297). -/
structure DescRef where
  port : Port
  ring : RingId
  idx  : U16
deriving DecidableEq, Repr

/-- The MACsec protection of a frame: the association number, the packet number, the key it was protected under and the cipher
suite, which together stand for a valid SecTAG and ICV under that key and suite (R260, log 9). -/
structure SecTag where
  an  : BitVec 2
  pn  : U64
  key : BitVec 256
  xpn : Bool := false
deriving DecidableEq, Repr

/-- An Ethernet frame on a hall port (R256). `body` is what follows the EtherType, without padding and FCS. -/
structure Frame where
  fcsOk : Bool
  dst   : BitVec 48
  src   : BitVec 48
  vlan  : Option (BitVec 12)
  sec   : Option SecTag
  etype : U16
  size  : Nat
  body  : List Byte
deriving DecidableEq, Repr

/-- What self-test, training and path tests find at one start (R369 to R375), the channels whose stored training fails its
verification (R251), and the least time that the tests take. Core positions are physical position numbers (R20). -/
structure StartTests where
  badCores      : List Nat
  badLinks      : List (Nat × Dir)
  badLoadSegs   : List Nat
  badQuires     : List QuireId
  badRouters    : List (Edge × Nat)
  badBuffers    : List Edge
  channelRate   : List (ChanId × BitVec 2)
  badHallPorts  : List HallPort
  badHostPorts  : List Port
  pathFails     : List (List Nat)
  fuseBits      : List Byte
  durationMs    : U32
  verifyFails   : List ChanId := []
deriving DecidableEq, Repr

/-- The access of a BAR4 transaction: a read of some bytes, or a write of these (R293). -/
inductive BusAccess where
  | read (len : Nat)
  | write (data : List Byte)
deriving DecidableEq, Repr

/-- The Gatehouse command sources, in their order within one cycle (R400). -/
inductive MgtSource where
  | mailboxA | mailboxB | ethernet | smbus
deriving DecidableEq, Repr

/-- The wake sources that a WAKE command can name (R406); a doorbell and a WAKE frame have causes of their own. -/
inductive WakeSource where
  | frame | linkActivity | wakeN | pcie | doorbell | comparator
deriving DecidableEq, Repr

/-- A DRAM read access that a grant carries, with the partition tag of its requester (R232, R359). -/
structure DramRead where
  addr : BitVec 40
  tag  : BitVec 7
deriving DecidableEq, Repr

/-- The commands. The rule of each row stands beside it. -/
inductive Instr where
  -- Leaf slot operations: the core, and the 32 bits of the slot (R68)
  | nop (c : CoreId) (slot : Slot) (w : U32)             -- R68
  | loop (c : CoreId) (w : U32)                          -- R72
  | wait (c : CoreId) (w : U32)                          -- R71
  | bar (c : CoreId) (w : U32)                           -- R73
  | swend (c : CoreId) (w : U32)                         -- R74
  | phase (c : CoreId) (w : U32)                         -- R76
  | flag (c : CoreId) (w : U32)                          -- R77
  | page (c : CoreId) (w : U32)                          -- R78
  | pset (c : CoreId) (w : U32)                          -- R69
  | leafHalt (c : CoreId) (w : U32)                      -- R75
  | send (c : CoreId) (w : U32)                          -- R80
  | recv (c : CoreId) (w : U32)                          -- R80
  | relay (c : CoreId) (w : U32)                         -- R80
  | recvf (c : CoreId) (w : U32)                         -- R80
  | linkWordLand (c : CoreId) (d : Dir) (how : Arrival)  -- R80
  | accOpen (c : CoreId) (w : U32)                       -- R101
  | acc (c : CoreId) (w : U32)                           -- R106
  | lds (c : CoreId) (w : U32)                           -- R83
  | close (c : CoreId) (w : U32)                         -- R115
  | closeBatch (c : CoreId)                              -- R116
  | redLocalExact (c : CoreId) (w : U32)                 -- R119
  | redTreeSend (c : CoreId) (w : U32)                   -- R119
  | redTreeAdd (c : CoreId) (w : U32)                    -- R119
  | redCanon (c : CoreId) (w : U32)                      -- R122
  | drawb (c : CoreId) (w : U32)                         -- R131
  | drawc (c : CoreId) (w : U32)                         -- R132
  | drawr (c : CoreId) (w : U32)                         -- R137
  | ldo (c : CoreId) (w : U32)                           -- R85
  | put (c : CoreId) (w : U32)                           -- R85
  | drawResultEnter (c : CoreId)                         -- R85
  -- the partition controllers and the edges
  | barrierRelease (q : QuireId)                         -- R73
  | sweepBoundary (q : QuireId)                          -- R190
  | poolOffer (q : QuireId) (pool : Nat)                 -- R205
  | planDeliver (q : QuireId) (e : Edge) (router : Fin 128) (entry : Fin 256)   -- R157
  | planCollect (q : QuireId) (e : Edge) (router : Fin 128) (entry : Fin 256)   -- R157
  | holdRaise (q : QuireId)                              -- R165
  | holdDrop (q : QuireId)                               -- R166
  | holdTimeout (q : QuireId)                            -- R167
  | pergolaStop (q : QuireId)                            -- R169
  | deliverGroupLand (q : QuireId) (ring : Fin 32)       -- R237
  | collectGroupWrite (q : QuireId) (ring : Fin 32)      -- R238
  | drainRecordWrite (q : QuireId) (ring : Fin 32)       -- R184
  -- the memory channels
  | arbiterGrant (ch : ChanId) (raised : Byte) (elapsed : Nat) (read : Option DramRead)  -- R241
  | refreshInterval (ch : ChanId)                        -- R247
  | scrubRead (ch : ChanId)                              -- R235
  | debugAccess (addr : BitVec 40) (acc : BusAccess)     -- R244
  -- the hall
  | frameReceive (p : HallPort) (f : Frame)              -- R258
  | data                                                 -- R264
  | idle                                                 -- R257
  | openMessage                                          -- R262
  | openAck                                              -- R262
  | connectionClose                                      -- R269
  | credit                                               -- R270
  | get                                                  -- R271
  | abort                                                -- R274
  | done                                                 -- R288
  | mdata                                                -- R288
  | mpoll                                                -- R288
  | nack                                                 -- R288
  | wakeFrame                                            -- R406
  | hallFrameSend (d : PeerId)                           -- R264
  | retransmissionTimeout (d : PeerId)                   -- R266
  | peerTimeout (d : PeerId)                             -- R267
  | acknowledgementDue (d : PeerId)                      -- R265
  | idleSend (p : HallPort)                              -- R277
  | hallBarrierArrive (q : QuireId)                      -- R273
  | arrived                                              -- R278
  | release                                              -- R279
  | barrierTimeout (g : GroupId)                         -- R280
  | comparatorFire (k : CmpId)                           -- R285
  | multicastPoll                                        -- R288
  | peerValidWrite (who : Requester) (d : PeerId) (valid : Bool)       -- R262
  | portModeWrite (who : Requester) (p : HallPort) (mode : BitVec 2) (medium : Bool)  -- R254
  | macsecRekey (p : HallPort) (an : BitVec 2) (xpn : Bool) (key : BitVec 256) (transmit : Bool)  -- R398
  | gtbNsRead (who : Requester)                          -- R281
  | gtbStepWrite (who : Requester) (delta : U64)         -- R284
  -- the host ports
  | sqTail (p : Port) (r : RingId) (value : U32) (size : Nat)          -- R297
  | cqHead (p : Port) (r : RingId) (value : U32) (size : Nat)          -- R298
  | drainHead (p : Port) (r : RingId) (value : U32) (size : Nat)       -- R312
  | ldrainHead (p : Port) (r : RingId) (value : U32) (size : Nat)      -- R186
  | descriptorFetch (p : Port) (r : RingId) (bytes : List Byte)        -- R297
  | descriptorStart (d : DescRef)                        -- R301
  | completionPost (p : Port) (r : RingId)               -- R298
  | interruptModerationTimeout (p : Port) (r : RingId)   -- R300
  | descriptorWatchdog (d : DescRef)                     -- R302
  | ringEnable (p : Port) (r : RingId) (sq cq : Bool)    -- R295
  | loadBinding (d : DescRef)                            -- R180
  | segmentReceive (c : CoreId) (seg : Nat) (good : Bool)  -- R177
  | loadRepairRound (q : QuireId)                        -- R182
  | loadComplete (q : QuireId)                           -- R183
  | runSweeps (d : DescRef)                              -- R67
  | colophonWrite (q : QuireId)                          -- R229
  | halt (d : DescRef)                                   -- R307
  | saveContext (d : DescRef)                            -- R331
  | restoreContext (d : DescRef)                         -- R334
  | refoldContext (d : DescRef)                          -- R336
  | copy (d : DescRef) (host : List Byte)                -- R309
  | fill (d : DescRef)                                   -- R304
  | digest (d : DescRef) (host : List Byte)              -- R319
  | getEntropy (d : DescRef)                             -- R318
  | barrierArm (d : DescRef)                             -- R275
  | barrierDisarm (d : DescRef)                          -- R311
  | drainSamples (d : DescRef)                           -- R310
  | setTable (d : DescRef)                               -- R308
  | fence (d : DescRef)                                  -- R301
  -- semaphores, partitions, registers
  | semLockRead (who : Requester) (s : SemId)            -- R315
  | semRelease (who : Requester) (s : SemId)             -- R316
  | semRenew (who : Requester) (s : SemId)               -- R316
  | semLeaseExpire (s : SemId)                           -- R317
  | prtOwnerWrite (who : Requester) (q : QuireId) (mode : BitVec 2) (sem : SemId)  -- R313
  | create (who : Requester) (q : QuireId) (qrows qcols : BitVec 4)    -- R320
  | dissolve (who : Requester) (q : QuireId)             -- R322
  | partitionReset (who : Requester) (q : QuireId)       -- R324
  | coreReset (who : Requester) (c : CoreId)             -- R93
  | arrModeWrite (who : Requester) (det : Bool)          -- R212
  | windowWrite (c : CoreId) (off : BitVec 18) (bytes : List Byte)     -- R65
  | bar4Access (p : Port) (off : BitVec 36) (acc : BusAccess)          -- R293
  | registerReadClear (who : Requester) (off : BitVec 25) (size : Nat) -- R10
  | registerWrite (who : Requester) (off : BitVec 25) (size : Nat) (value : U64)  -- R10
  | fltInfoClear (who : Requester)                       -- R363
  | fltPendClear (who : Requester) (bits : BitVec 2)     -- R365
  | faultHoldRelease (who : Requester) (part : BitVec 7) -- R365
  | faultAccept                                          -- R362
  -- the entropy source
  | noiseSample (bits : Byte)                            -- R338
  | expanderReseed                                       -- R346
  | expanderRequest                                      -- R345
  | entEnable (who : Requester)                          -- R348
  | entDisable (who : Requester)                         -- R348
  | laneSeeding                                          -- R141
  -- starts and resets
  | moduleResetRelease (t : StartTests)                  -- R368
  | supplyGoodFall                                       -- R437
  | hostPortReset (p : Port)                             -- R294
  -- the mailbox commands at the head of the Gatehouse's queue
  | moduleReset                                          -- R391
  | quireReset                                           -- R324
  | regionAlloc                                          -- R162
  | regionFree                                           -- R163
  | configWrite                                          -- R380
  | calWrite                                             -- R382
  | fwUpdate (host : List Byte)                          -- R389
  | fwCommit                                             -- R390
  | logRead                                              -- R395
  | attest                                               -- R394
  | debugOpen                                            -- R392
  | debugClose                                           -- R392
  -- the Gatehouse
  | gatehouseSign                                        -- R394
  | logProgram                                           -- R395
  | kick (who : Requester) (value : Byte)                -- R386
  | ghsWatchdog (pc : BitVec 40)                         -- R386
  | mgeDatagram (bytes : List Byte)                      -- R399
  | mctpMessage (bytes : List Byte)                      -- R400
  | sensorSample (values : List (Fin 128 × U16))         -- R396
  -- power and clocks
  | thermTrip (sensor : Fin 71) (temp : U16)             -- R418
  | throttleStep (h : Half)                              -- R417
  | governorWindow (mean : Nat)                          -- R413
  | governorPeak (sample : Nat)                          -- R413
  | powerStateRequest (who : Requester) (target : BitVec 3)            -- R403
  | handshakeReask                                       -- R404
  | powerEntryComplete                                   -- R407
  | wake (src : WakeSource)                              -- R408
  | wakeFromS3 (src : WakeSource)                        -- R409
  | pwrSchedArm (who : Requester) (time : U64) (target : BitVec 3)     -- R420
  | pwrSchedDisarm (who : Requester)                     -- R420
  | tsyncModeWrite (who : Requester) (mode : BitVec 2) (group : GroupId)  -- R419
  | ghsSel (who : Requester) (pll : Bool)                -- R410
  | laneGeneratorOutput (h : Half)                       -- R139
  -- the links and the pins
  | hallLinkDown (p : HallPort)                          -- R263
  | hallLinkUp (p : HallPort)                            -- R254
  | hostLinkUp (p : Port) (gen : BitVec 3) (width : BitVec 5)          -- R292
  | deviceTemperatureReadout (ch : ChanId) (hot : Bool)  -- R247
  | gtbLocked (within1 : Bool) (within4 : Bool) (synce : Bool)         -- R284
  | tsyncPpsEdge                                         -- R283
  | supplySag                                            -- R381
  | supplySagEnd                                         -- R381
  | supplyGoodRise                                       -- R436
  | jtagReset                                            -- R324
deriving DecidableEq, Repr

end Sys2Proof
end

