-- ==== Sys2Proof/Decode.lean ====
section
/-! DEFINITION. Reading commands from bits. No row of the opcode table gives bits, so a table word spells no command.
A Leaf word spells four: one for each slot (R68, R71, R79, R83, R84). -/

namespace Sys2Proof

/-- The command that a word spells by the table's bits: the table gives bits to no row. -/
def decodeTableWord (_nbits _w : Nat) : Option Instr := none

/-- The command of a control slot (R71). An opcode that no operation has stands as a NOP with non-zero bits, which is
an illegal word (R68, R89). -/
def decodeControl (c : CoreId) (w : U32) : Instr :=
  if fld w 31 27 = 0x01 then .loop c w
  else if fld w 31 27 = 0x02 then .wait c w
  else if fld w 31 27 = 0x03 then .bar c w
  else if fld w 31 27 = 0x04 then .swend c w
  else if fld w 31 27 = 0x05 then .phase c w
  else if fld w 31 27 = 0x06 then .flag c w
  else if fld w 31 27 = 0x07 then .page c w
  else if fld w 31 27 = 0x08 then .pset c w
  else if fld w 31 27 = 0x09 then .leafHalt c w
  else .nop c .control w

/-- The command of a link slot (R79). -/
def decodeLink (c : CoreId) (w : U32) : Instr :=
  if fld w 31 29 = 1 then .send c w
  else if fld w 31 29 = 2 then .recv c w
  else if fld w 31 29 = 3 then .relay c w
  else if fld w 31 29 = 4 then .recvf c w
  else .nop c .link w

/-- The command of a field slot (R83); the form of a RED chooses its row (R119). -/
def decodeField (c : CoreId) (w : U32) : Instr :=
  if fld w 31 28 = 1 then .accOpen c w
  else if fld w 31 28 = 2 then .acc c w
  else if fld w 31 28 = 3 then .lds c w
  else if fld w 31 28 = 4 then .close c w
  else if fld w 31 28 = 5 then
    if fld w 24 23 = 0 then .redLocalExact c w
    else if fld w 24 23 = 1 then .redTreeSend c w
    else if fld w 24 23 = 2 then .redTreeAdd c w
    else .redCanon c w
  else .nop c .field w

/-- The command of a lane slot (R84). -/
def decodeLane (c : CoreId) (w : U32) : Instr :=
  if fld w 31 28 = 1 then .drawb c w
  else if fld w 31 28 = 2 then .drawc c w
  else if fld w 31 28 = 3 then .drawr c w
  else if fld w 31 28 = 4 then .ldo c w
  else if fld w 31 28 = 5 then .put c w
  else .nop c .lane w

/-- The commands of a Leaf word, in the order in which they are carried out (log 4): control, link, lane, field. -/
def decodeWord (c : CoreId) (word : BitVec 128) : List Instr :=
  [decodeControl c (word.extractLsb' 96 32), decodeLink c (word.extractLsb' 64 32),
   decodeLane c (word.extractLsb' 0 32), decodeField c (word.extractLsb' 32 32)]

end Sys2Proof
end

