-- ==== Sys2Proof/Config.lean ====
section
/-! DEFINITION. What an implementation fixes and the manual leaves open: the free values. No constant
here has a body, so that no proof can see a value of it. -/

namespace Sys2Proof.Config

/-- The fraction of a NaN that an operation makes, in a format with the given number of fraction bits (R109 says
only that it is not zero). Free value, log 8; `Fp.nanFraction` brings it into the non-zero range. -/
opaque nanFraction : Nat → Nat

/-- The integer that a term of an exact group adds when one of its operands is NaN or infinite: the coupling's, the
scale's and the state's bits, and the binary point (R106 converts a term to an integer, and states none for such a
term; the group's range flag is set). Free value, log 8. -/
opaque rangeTerm : Nat → Nat → Nat → Nat → Int

/-- The place at which a lookup reads its table for an argument that is NaN (R130 gives a place to every other argument). Free
value, log 36. -/
opaque nanPlace : Nat

/-- The Falcon-1024 signature, in Falcon's compressed format, of a message under the attestation key, with the
64 B of entropy drawn for it (R394). Free value, log 9. -/
opaque falconSign : List Byte → List Byte → List Byte

/-- Whether a signature verifies under a Falcon-1024 public key over a message (R387). Free value, log 9. -/
opaque falconVerify : List Byte → List Byte → List Byte → Bool

/-- Whether a word sent on a neighbour link keeps its check on the way: noise on the link, by time, receiving core
and direction (R82). Free value, log 8. -/
opaque linkGood : Nat → Nat → Nat → Bool

/-- The reply of the Gatehouse endpoint to an MCTP, PLDM or SPDM message, from the message, the attestation facts, and each
sensor's minimum, maximum and mean; the named standards give its contents (R400). Free value, log 9. -/
opaque mctpReply : List Byte → List Byte → List (Nat × Int × Int × Int) → List Byte

/-- The firmware image whose transfer a PLDM message at a time completes; none for another message (R400). Free value,
log 9. -/
opaque mctpImage : Nat → List Byte → Option (List Byte)

/-- The device identity facts that only the DMTF and IEEE standards lay out in a management frame's answer
(R255, R282). Free value, log 9. -/
opaque managementReply : List Byte → List Byte

/-- The bytes of a pad record's header that R186 and R312 do not give (they give KIND and PAYLOAD), by the pad's offset in
its ring and the byte's offset in the header. Free value, log 8. -/
opaque padByte : Nat → Nat → Byte

/-- The local range (address, length) that a remote stream writes or reads at the module that serves it, by the sending
peer and the stream id; none for a stream it does not know. No frame or message of the manual carries REMOTE or LENGTH
(R269, R270). Free value, log 25. -/
opaque remoteRange : Nat → Nat → Option (Nat × Nat)

/-- The places of a statistic in a drain record (R184: "in the order the Binding lists them"; no table of the image carries
the list): by image digest, window and record, each unit's places of n, S1 and S2 among the 16 B records of the payload, and
its binary point q. Free value, log 59. -/
opaque statUnits : List (BitVec 8) → Nat → Nat → List (Nat × Nat × Nat × Nat)

/-- The mean and variance of a statistic in free mode, whose last bits R125 leaves to the order of the updates, by image
digest, window, take, record and unit. Free value, log 59. -/
opaque welford : List (BitVec 8) → Nat → Nat → Nat → Nat → BitVec 64 × BitVec 64

/-- Whether an acknowledgement that comes from a peer at a time, after a frame was resent, answers the frame's first copy: R268
discards that one and lets the resent copy's own complete the frame, and no field of a frame tells them apart. Free value, log
123. -/
opaque firstCopyAck : Nat → Nat → Nat → Bool

/-- How many 4 KiB blocks a data mover has passed when its watchdog stops it, by the time (R302: it stops at its next 4 KiB
boundary, and no rule gives its pace). Free value, log 125. -/
opaque moverBlocks : Nat → Nat

/-- The pieces of 16 B beyond 32 that a MACsec key agreement draws: R349 gives 32 to 64 B per event. Free value, log 129. -/
opaque keyingPieces : Nat → Nat

/-- The message of a log entry of the Gatehouse's own for which no rule gives one: a unit of a kind on which fuses and test
disagree (R371; kinds 0 load segment, 1 partition controller, 2 edge router, 3 edge buffer, 4 host port), a failed edge buffer (5)
and a regulator that does not answer (6; R397). Free value, log 8. -/
opaque ownEntry : Nat → Nat → BitVec 64

/-- The training results of a channel, from the calibration seeds, the time and the channel (R250). Free value, log 130. -/
opaque training : List (BitVec 8) → Nat → Nat → List (BitVec 8)

/-- Whether a channel's training fails its verification at a wake, and the rate at which it then trains, by time and channel
(R251, R408). Free values, log 130. -/
opaque wakeVerifyFails : Nat → Nat → Bool
opaque wakeRate : Nat → Nat → Nat

/-- The physical cores whose paths fail the path-test round of a wake from S2, by time (R375, R408). Free value, log 130. -/
opaque wakePaths : Nat → List Nat

/-- The equalisation that the links find in training, from the calibration presets and the time (R379). Free value, log 130. -/
opaque equalisation : List (BitVec 8) → Nat → List (BitVec 8)

/-- The timestamp latencies TX_LAT and RX_LAT of a port by the calibration set, whose layout no rule gives (R282, R382). Free
value, log 130. -/
opaque ptpLatency : List (BitVec 8) → Nat → BitVec 32

/-- The voltage in mV of an AVS rail for its fused code and the hottest die temperature (R397, R412). Free value, log 131. -/
opaque avsVoltage : Nat → BitVec 8 → Int → Nat

/-- Whether a PMBus transaction with a rail fails its PEC or is not acknowledged, by time, rail and attempt (R397). Free value, log
131. -/
opaque pmbusFails : Nat → Nat → Nat → Bool

/-- What the boot ROM reads on its second pass over the host's port or SMBus, by time and the bytes of the first pass (R388). Free
value, log 132. -/
opaque secondPass : Nat → List (BitVec 8) → List (BitVec 8)

/-- The 64-bit word of its SRAM that the management processor reads in a unit of time, if any (R385). Free value, log 133. -/
opaque ghsReads : Nat → Option Nat

/-- Whether the attestation key record authenticates under the key-wrapping key of the fuses: AES-256-GCM over a layout that no
rule gives (R393). Free value, log 9. -/
opaque keyRecordGood : BitVec 256 → List (BitVec 8) → Bool

/-- The reply to an SPDM request that asks for signed measurements, from the request, the measurements and the signature (R400).
Free value, log 9. -/
opaque spdmReply : List (BitVec 8) → List (BitVec 8) → List (BitVec 8) → List (BitVec 8)

/-- The key that MKA agrees from a connectivity association key, by port and time (R398). Free value, log 9. -/
opaque agreedKey : List (BitVec 8) → Nat → Nat → BitVec 256

/-- The message of the log entry that a coordinator writes for a late barrier (R278 gives no fault kind), by group. Free
value, log 8. -/
opaque lateEntry : Nat → BitVec 64

/-- The 16 B record by which the CONTROL section of a context image says that the best energy is still +∞, for exact
energies (R196 and R328 give none), by byte. Free value, log 8. -/
opaque exactInfinity : Nat → BitVec 8

end Sys2Proof.Config
end

