-- ==== Sys2Proof/Machine/Crypto.lean ====
section
/-! DEFINITION. The fixed functions the manual names: CRC-32C, SHAKE256, and the ChaCha block function at eight
rounds (R143). -/

namespace Sys2Proof

/-- One bit of CRC-32C, reflected. -/
def crc32cBit (c : U32) : U32 := if c.getLsbD 0 then (c >>> 1) ^^^ 0x82F63B78#32 else c >>> 1

/-- One byte of CRC-32C. -/
def crc32cByte (c : U32) (b : Byte) : U32 :=
  (List.range 8).foldl (fun a _ => crc32cBit a) (c ^^^ b.setWidth 32)

/-- CRC-32C of a byte string (R149, R173, R184, R256). -/
def crc32c (bs : List Byte) : U32 := ~~~ (bs.foldl crc32cByte 0xFFFFFFFF#32)

/-- Word i of a list of words, zero beyond its end. -/
def wordAt {n : Nat} (l : List (BitVec n)) (i : Nat) : BitVec n := l.getD i 0

/-- The round constants of Keccak-f[1600]. -/
def keccakRC : List U64 :=
  [0x0000000000000001, 0x0000000000008082, 0x800000000000808A, 0x8000000080008000, 0x000000000000808B,
   0x0000000080000001, 0x8000000080008081, 0x8000000000008009, 0x000000000000008A, 0x0000000000000088,
   0x0000000080008009, 0x000000008000000A] ++
  [0x000000008000808B, 0x800000000000008B, 0x8000000000008089, 0x8000000000008003, 0x8000000000008002,
   0x8000000000000080, 0x000000000000800A, 0x800000008000000A, 0x8000000080008081, 0x8000000000008080,
   0x0000000080000001, 0x8000000080008008]

/-- The rotation offsets of Keccak, lane (x, y) at x + 5y. -/
def keccakRot : List Nat :=
  [0, 1, 62, 28, 27, 36, 44, 6, 55, 20, 3, 10, 43, 25, 39, 41, 45, 15, 21, 8, 18, 2, 61, 56, 14]

/-- The theta step. -/
def keccakTheta (a : List U64) : List U64 :=
  let c := (List.range 5).map (fun x => wordAt a x ^^^ wordAt a (x + 5) ^^^ wordAt a (x + 10)
    ^^^ wordAt a (x + 15) ^^^ wordAt a (x + 20))
  let d := (List.range 5).map (fun x => wordAt c ((x + 4) % 5) ^^^ (wordAt c ((x + 1) % 5)).rotateLeft 1)
  (List.range 25).map (fun i => wordAt a i ^^^ wordAt d (i % 5))

/-- The rho and pi steps: lane (X, Y) of the result comes from lane (x, y) with X = y and Y = 2x + 3y. -/
def keccakRhoPi (a : List U64) : List U64 :=
  (List.range 25).map (fun i =>
    let y := i % 5
    let x := (i / 5 + 2 * y) * 3 % 5
    (wordAt a (x + 5 * y)).rotateLeft (keccakRot.getD (x + 5 * y) 0))

/-- The chi step. -/
def keccakChi (b : List U64) : List U64 :=
  (List.range 25).map (fun i =>
    let x := i % 5
    let r := i - x
    wordAt b i ^^^ (~~~ (wordAt b (r + (x + 1) % 5)) &&& wordAt b (r + (x + 2) % 5)))

/-- One round. -/
def keccakRound (a : List U64) (rc : U64) : List U64 :=
  match keccakChi (keccakRhoPi (keccakTheta a)) with
  | [] => []
  | h :: t => (h ^^^ rc) :: t

/-- Keccak-f[1600]. -/
def keccakF (a : List U64) : List U64 := keccakRC.foldl keccakRound a

/-- Absorb one block of 136 bytes. -/
def keccakAbsorb (a : List U64) (block : List Byte) : List U64 :=
  keccakF ((List.range 25).map (fun i =>
    wordAt a i ^^^ (if i < 17 then BitVec.ofNat 64 (leAt block (8 * i) 8) else 0)))

/-- The padding of SHAKE256: 0x1F, zeros, and the top bit of the last byte of the block. -/
def shakePad (len : Nat) : List Byte :=
  let gap := 136 - len % 136
  if gap = 1 then [0x9F#8] else 0x1F#8 :: (List.replicate (gap - 2) 0 ++ [0x80#8])

/-- SHAKE256 with an output of at most 136 bytes, which is all the module uses. -/
def shake256 (outBytes : Nat) (msg : List Byte) : List Byte :=
  let a := (chunks 136 (msg ++ shakePad msg.length)).foldl keccakAbsorb (List.replicate 25 0)
  ((List.range 17).flatMap (fun i => leBytes 8 (wordAt a i).toNat)).take outBytes

/-- SHAKE256 with a 256-bit output. -/
def shake256_256 (msg : List Byte) : List Byte := shake256 32 msg

/-- The ChaCha quarter round of RFC 8439 on words a, b, c, d of the state. -/
def quarterRound (s : List U32) (a b c d : Nat) : List U32 :=
  let a1 := wordAt s a + wordAt s b
  let d1 := (wordAt s d ^^^ a1).rotateLeft 16
  let c1 := wordAt s c + d1
  let b1 := (wordAt s b ^^^ c1).rotateLeft 12
  let a2 := a1 + b1
  let d2 := (d1 ^^^ a2).rotateLeft 8
  let c2 := c1 + d2
  let b2 := (b1 ^^^ c2).rotateLeft 7
  (((s.set a a2).set b b2).set c c2).set d d2

/-- A column round followed by a diagonal round. -/
def chachaDoubleRound (s : List U32) : List U32 :=
  let s := quarterRound s 0 4 8 12
  let s := quarterRound s 1 5 9 13
  let s := quarterRound s 2 6 10 14
  let s := quarterRound s 3 7 11 15
  let s := quarterRound s 0 5 10 15
  let s := quarterRound s 1 6 11 12
  let s := quarterRound s 2 7 8 13
  quarterRound s 3 4 9 14

/-- The ChaCha block function at eight rounds, four double rounds, on a 16-word state (R143). -/
def chacha8 (init : List U32) : List U32 :=
  let f := chachaDoubleRound (chachaDoubleRound (chachaDoubleRound (chachaDoubleRound init)))
  (List.range 16).map (fun i => wordAt f i + wordAt init i)

end Sys2Proof
end

