-- ==== Sys2Proof/Machine/RegMap.lean ====
section
/-! DEFINITION. The register map (R421): the registers by name, their fields with access codes and reset values,
and the place of every register in the 32 MiB register space. -/

namespace Sys2Proof.Machine

/-- The access codes of R10. -/
inductive Access where
  | ro | rw | w1c | w1s | wo | rc
deriving DecidableEq, Repr

/-- One field of a register: its bits, its access code and its reset value. -/
structure FieldSpec where
  hi    : Nat
  lo    : Nat
  acc   : Access
  reset : Nat
deriving DecidableEq, Repr

/-- The registers of the register map (R421), one name per register of the manual; instances share a name.
HST_SQ and HST_CQ have one layout and share `hstRing`. -/
inductive RegName where
  | coreId | coreCtrl | coreStatus | coreEntry | coreLanecfg | coreFault
  | corePtr | coreIdreg | coreOutprof | prtAccstat | arrSpare | arrEbregion
  | prtHoldstat | prtLoadstat | prtAnneal | prtExstat | prtPoolstat | arrMode
  | genDetClass | memCtrl | memStatus | memRefstat | memArbstat | memEccstat
  | hfbPortcfg | hfbPortstat | hfbStrcnt | hfbPtpcal | hftCfg | hftTimer
  | hftBarcfg | hftBarstat | hftPeerstat | hftPeer | gtbNs | gtbStatus
  | gtbRate | gtbStep | gtbCmp | hstPortcfg | hstPortstat | hstRing
  | hstRingcfg | hstRingstat | hstDrain | semLock | semCfg | semStat
  | prtOwner | prtCtrl | prtStatus | entCtrl | entStatus | entHtcfg
  | entExp | entStat | entSrcstat | fltFirst | fltInfo | fltTime
  | fltPend | fltCount | fltStat | fltCtrl | fltLastreset | fltAction
  | genCaps | cfgStatus | cfgCalpage | mgtCmd | mgtStatus | mgtFwinfo
  | mgtWdt | mgtHealth | pwrCtrl | pwrStatus | pwrSched | pwrGov
  | pwrClk | pwrTherm | pwrTsync | pwrWake | genIdent | genStarts
  | arrStatus | arrHoldcfg | arrHoldmap | arrFholdmap | prtTick | prtSweep
  | prtFlags | mgtArg
deriving DecidableEq, Repr

/-- The fields of a register: high bit, low bit, access code, reset value (the field tables of the chapters;
`boot` stands as 0 until bring-up loads it, log 6). -/
def RegName.fields : RegName → List FieldSpec
  -- CORE_ID: LOGICAL PHYSICAL
  | .coreId => [⟨13, 0, .ro, 0⟩, ⟨29, 16, .ro, 0⟩]
  -- CORE_CTRL: RESET
  | .coreCtrl => [⟨0, 0, .wo, 0⟩]
  -- CORE_STATUS: STATE PC LOOP_DEPTH PHASE WIN_DROPS
  | .coreStatus => [⟨2, 0, .ro, 0⟩, ⟨13, 4, .ro, 0⟩, ⟨18, 16, .ro, 0⟩, ⟨31, 24, .ro, 0⟩, ⟨47, 32, .rc, 0⟩]
  -- CORE_ENTRY: START SWEEP
  | .coreEntry => [⟨9, 0, .rw, 0⟩, ⟨25, 16, .rw, 0⟩]
  -- CORE_LANECFG: ACTIVE
  | .coreLanecfg => [⟨1, 0, .rw, 2⟩]
  -- CORE_FAULT: STOPPED KIND PC TICK_LO
  | .coreFault => [⟨0, 0, .w1c, 0⟩, ⟨15, 8, .ro, 0⟩, ⟨25, 16, .ro, 0⟩, ⟨63, 32, .ro, 0⟩]
  -- CORE_PTR: ADDR BASE LIMIT STRIDE SCALED
  | .corePtr => [⟨13, 0, .rw, 0⟩, ⟨29, 16, .rw, 0⟩, ⟨45, 32, .rw, 0⟩, ⟨62, 48, .rw, 0⟩, ⟨63, 63, .rw, 0⟩]
  -- CORE_IDREG: UNIT CHAIN BETA
  | .coreIdreg => [⟨39, 0, .rw, 0⟩, ⟨95, 64, .rw, 0⟩, ⟨127, 96, .rw, 1065353216⟩]
  -- CORE_OUTPROF: SCALE OFFSET
  | .coreOutprof => [⟨31, 0, .rw, 1065353216⟩, ⟨63, 32, .rw, 0⟩]
  -- PRT_ACCSTAT: REPLAY_L1 REPLAY_L2
  | .prtAccstat => [⟨23, 0, .rc, 0⟩, ⟨47, 24, .rc, 0⟩]
  -- ARR_SPARE: SKIP0 SKIP1 SKIP2 SKIP3 RETIRED
  | .arrSpare => [⟨7, 0, .ro, 0⟩, ⟨15, 8, .ro, 0⟩, ⟨23, 16, .ro, 0⟩, ⟨31, 24, .ro, 0⟩, ⟨39, 32, .ro, 0⟩]
  -- ARR_EBREGION: FIRST BLOCKS PARTITION USE VALID
  | .arrEbregion => [⟨7, 0, .ro, 0⟩, ⟨15, 8, .ro, 0⟩, ⟨22, 16, .ro, 0⟩, ⟨27, 24, .ro, 0⟩, ⟨31, 31, .ro, 0⟩]
  -- PRT_HOLDSTAT: COUNT LONGEST RING
  | .prtHoldstat => [⟨23, 0, .rc, 0⟩, ⟨47, 24, .rc, 0⟩, ⟨52, 48, .ro, 0⟩]
  -- PRT_LOADSTAT: FIRST_FAIL FAILED_CORES ROUNDS RESENT
  | .prtLoadstat => [⟨6, 0, .ro, 127⟩, ⟨15, 8, .ro, 0⟩, ⟨17, 16, .ro, 0⟩, ⟨63, 32, .ro, 0⟩]
  -- PRT_ANNEAL: K STUCK IMPROVED
  | .prtAnneal => [⟨5, 0, .ro, 0⟩, ⟨31, 8, .ro, 0⟩, ⟨63, 32, .rc, 0⟩]
  -- PRT_EXSTAT: PROPOSED ACCEPTED
  | .prtExstat => [⟨31, 0, .rc, 0⟩, ⟨63, 32, .rc, 0⟩]
  -- PRT_POOLSTAT: OFFERS INSERTS PENDING
  | .prtPoolstat => [⟨23, 0, .rc, 0⟩, ⟨47, 24, .rc, 0⟩, ⟨55, 48, .ro, 0⟩]
  -- ARR_MODE: DET REJECTED
  | .arrMode => [⟨0, 0, .rw, 0⟩, ⟨8, 8, .w1c, 0⟩]
  -- GEN_DET_CLASS: STEPPING TABLES GRADE
  | .genDetClass => [⟨7, 0, .ro, 0⟩, ⟨15, 8, .ro, 0⟩, ⟨23, 16, .ro, 0⟩]
  -- MEM_CTRL: AGE_N SCRUB_EN SCRUB_RATE
  | .memCtrl => [⟨6, 0, .rw, 8⟩, ⟨7, 7, .rw, 1⟩, ⟨15, 8, .rw, 16⟩]
  -- MEM_STATUS: RATE0 RATE1 RATE2 RATE3 HOT0 HOT1 HOT2 HOT3
  | .memStatus => [⟨1, 0, .ro, 0⟩, ⟨9, 8, .ro, 0⟩, ⟨17, 16, .ro, 0⟩, ⟨25, 24, .ro, 0⟩, ⟨2, 2, .ro, 0⟩,
      ⟨10, 10, .ro, 0⟩, ⟨18, 18, .ro, 0⟩, ⟨26, 26, .ro, 0⟩]
  -- MEM_REFSTAT: OWED EMERGENCY DEBUG
  | .memRefstat => [⟨3, 0, .ro, 0⟩, ⟨31, 8, .rc, 0⟩, ⟨47, 32, .rc, 0⟩]
  -- MEM_ARBSTAT: GHOST AGE_GRANTS MAX_AGE
  | .memArbstat => [⟨23, 0, .rc, 0⟩, ⟨47, 24, .rc, 0⟩, ⟨63, 48, .rc, 0⟩]
  -- MEM_ECCSTAT: CE UE
  | .memEccstat => [⟨23, 0, .rc, 0⟩, ⟨39, 24, .rc, 0⟩]
  -- HFB_PORTCFG: MODE MEDIUM MACSEC VLAN MAC
  | .hfbPortcfg => [⟨1, 0, .rw, 0⟩, ⟨2, 2, .rw, 0⟩, ⟨3, 3, .rw, 0⟩, ⟨15, 4, .rw, 0⟩, ⟨63, 16, .rw, 0⟩]
  -- HFB_PORTSTAT: LINK RATE FCS_ERR LINK_DROPS
  | .hfbPortstat => [⟨0, 0, .ro, 0⟩, ⟨3, 2, .ro, 0⟩, ⟨31, 8, .rc, 0⟩, ⟨47, 32, .rc, 0⟩]
  -- HFB_STRCNT: SIZE ADDR MACSEC ETYPE VLAN HEADER HALL PEER
  | .hfbStrcnt => [⟨7, 0, .rc, 0⟩, ⟨15, 8, .rc, 0⟩, ⟨23, 16, .rc, 0⟩, ⟨31, 24, .rc, 0⟩, ⟨39, 32, .rc, 0⟩,
      ⟨47, 40, .rc, 0⟩, ⟨55, 48, .rc, 0⟩, ⟨63, 56, .rc, 0⟩]
  -- HFB_PTPCAL: TX_LAT RX_LAT ASYM
  | .hfbPtpcal => [⟨15, 0, .rw, 0⟩, ⟨31, 16, .rw, 0⟩, ⟨47, 32, .rw, 0⟩]
  -- HFT_CFG: DEVICE ENABLE REMOTE_REG WIN_REFUSED HALL_ID ETYPE MJOIN
  | .hftCfg => [⟨9, 0, .rw, 0⟩, ⟨10, 10, .rw, 0⟩, ⟨11, 11, .rw, 0⟩, ⟨12, 12, .w1c, 0⟩, ⟨31, 16, .rw, 0⟩,
      ⟨47, 32, .rw, 34997⟩, ⟨63, 48, .rw, 0⟩]
  -- HFT_TIMER: RTO RETX_LIMIT PEER_TIMEOUT BAR_LIMIT
  | .hftTimer => [⟨11, 0, .rw, 80⟩, ⟨15, 12, .rw, 8⟩, ⟨31, 16, .rw, 1000⟩, ⟨47, 32, .rw, 10000⟩]
  -- HFT_BARCFG: MARGIN SLOT
  | .hftBarcfg => [⟨15, 0, .rw, 2000⟩, ⟨23, 16, .rw, 1⟩]
  -- HFT_BARSTAT: LATE MOVED LATE_ARR BAD_SEQ
  | .hftBarstat => [⟨15, 0, .rc, 0⟩, ⟨31, 16, .rc, 0⟩, ⟨47, 32, .rc, 0⟩, ⟨63, 48, .rc, 0⟩]
  -- HFT_PEERSTAT: OUT_WIN DUPS LATE RETX
  | .hftPeerstat => [⟨15, 0, .rc, 0⟩, ⟨31, 16, .rc, 0⟩, ⟨47, 32, .rc, 0⟩, ⟨63, 48, .rc, 0⟩]
  -- HFT_PEER: MAC PORTMASK PORT VALID STATE WINDOW
  | .hftPeer => [⟨47, 0, .rw, 0⟩, ⟨55, 48, .rw, 0⟩, ⟨58, 56, .rw, 0⟩, ⟨60, 60, .rw, 0⟩, ⟨62, 61, .ro, 0⟩,
      ⟨75, 64, .rw, 0⟩]
  -- GTB_NS: NS
  | .gtbNs => [⟨63, 0, .ro, 0⟩]
  -- GTB_STATUS: FRAC LOCKED SYNCE_LOCK STEP_REFUSED SYNCE_PORT SYNCE_EN
  | .gtbStatus => [⟨15, 0, .ro, 0⟩, ⟨16, 16, .ro, 0⟩, ⟨17, 17, .ro, 0⟩, ⟨18, 18, .w1c, 0⟩, ⟨22, 20, .rw, 0⟩,
      ⟨23, 23, .rw, 0⟩]
  -- GTB_RATE: RATE
  | .gtbRate => [⟨31, 0, .rw, 131072⟩]
  -- GTB_STEP: DELTA
  | .gtbStep => [⟨63, 0, .wo, 0⟩]
  -- GTB_CMP: TIME OWNER INDEX ARMED
  | .gtbCmp => [⟨63, 0, .ro, 0⟩, ⟨66, 64, .ro, 0⟩, ⟨79, 72, .ro, 0⟩, ⟨80, 80, .ro, 0⟩]
  -- HST_PORTCFG: WIN_BASE FAULT_VEC SEM_VEC
  | .hstPortcfg => [⟨17, 0, .rw, 0⟩, ⟨25, 18, .rw, 0⟩, ⟨33, 26, .rw, 1⟩]
  -- HST_PORTSTAT: LINK GEN WIDTH BAD_DOORBELL LATE
  | .hstPortstat => [⟨0, 0, .ro, 0⟩, ⟨3, 1, .ro, 0⟩, ⟨8, 4, .ro, 0⟩, ⟨31, 16, .rc, 0⟩, ⟨47, 32, .rc, 0⟩]
  -- HST_RING: LOG2 ENABLE BASE
  | .hstRing => [⟨4, 0, .rw, 4⟩, ⟨5, 5, .rw, 0⟩, ⟨63, 12, .rw, 0⟩]
  -- HST_RINGCFG: VECTOR MOD_COUNT MOD_TIME
  | .hstRingcfg => [⟨7, 0, .rw, 0⟩, ⟨15, 8, .rw, 0⟩, ⟨31, 16, .rw, 0⟩]
  -- HST_RINGSTAT: SQ_HEAD CQ_TAIL RUNNING STALLED
  | .hstRingstat => [⟨15, 0, .ro, 0⟩, ⟨31, 16, .ro, 0⟩, ⟨39, 32, .ro, 0⟩, ⟨40, 40, .ro, 0⟩]
  -- HST_DRAIN: LOG2 ENABLE BASE
  | .hstDrain => [⟨4, 0, .rw, 16⟩, ⟨5, 5, .rw, 0⟩, ⟨63, 12, .rw, 0⟩]
  -- SEM_LOCK: OWNER GRANTED ACTION
  | .semLock => [⟨1, 0, .ro, 0⟩, ⟨2, 2, .ro, 0⟩, ⟨1, 0, .wo, 0⟩]
  -- SEM_CFG: LEASE
  | .semCfg => [⟨15, 0, .rw, 100⟩]
  -- SEM_STAT: EXPIRED LATE FOREIGN
  | .semStat => [⟨15, 0, .rc, 0⟩, ⟨31, 16, .rc, 0⟩, ⟨47, 32, .rc, 0⟩]
  -- PRT_OWNER: MODE SEM REJECTED
  | .prtOwner => [⟨1, 0, .rw, 0⟩, ⟨7, 2, .rw, 0⟩, ⟨8, 8, .w1c, 0⟩]
  -- PRT_CTRL: QROWS QCOLS CREATE DISSOLVE RESET
  | .prtCtrl => [⟨3, 0, .rw, 0⟩, ⟨7, 4, .rw, 0⟩, ⟨8, 8, .wo, 0⟩, ⟨9, 9, .wo, 0⟩, ⟨10, 10, .wo, 0⟩]
  -- PRT_STATUS: STATE FAULTED RESULT REJECTED POINT
  | .prtStatus => [⟨2, 0, .ro, 0⟩, ⟨3, 3, .ro, 0⟩, ⟨6, 4, .ro, 0⟩, ⟨7, 7, .w1c, 0⟩, ⟨17, 16, .ro, 0⟩]
  -- ENT_CTRL: ENABLE
  | .entCtrl => [⟨0, 0, .rw, 0⟩]
  -- ENT_STATUS: STATE HEALTHY RESTARTING ENABLED QUEUE SEEDS FATAL_CAUSE
  | .entStatus => [⟨2, 0, .ro, 0⟩, ⟨15, 8, .ro, 0⟩, ⟨23, 16, .ro, 0⟩, ⟨31, 24, .ro, 0⟩, ⟨44, 32, .ro, 0⟩,
      ⟨47, 45, .ro, 0⟩, ⟨49, 48, .ro, 0⟩]
  -- ENT_HTCFG: RCT_CUTOFF APT_CUTOFF APT_WINDOW
  | .entHtcfg => [⟨7, 0, .ro, 41⟩, ⟨17, 8, .ro, 793⟩, ⟨28, 18, .ro, 1024⟩]
  -- ENT_EXP: COUNT RESEEDS
  | .entExp => [⟨20, 0, .ro, 0⟩, ⟨63, 32, .rc, 0⟩]
  -- ENT_STAT: FAILURES STRETCHED LIMITS RETRIES
  | .entStat => [⟨15, 0, .rc, 0⟩, ⟨31, 16, .rc, 0⟩, ⟨47, 32, .rc, 0⟩, ⟨63, 48, .rc, 0⟩]
  -- ENT_SRCSTAT: RCT_FAIL APT_FAIL STARTS
  | .entSrcstat => [⟨15, 0, .rc, 0⟩, ⟨31, 16, .rc, 0⟩, ⟨47, 32, .rc, 0⟩]
  -- FLT_FIRST: MESSAGE
  | .fltFirst => [⟨63, 0, .ro, 0⟩]
  -- FLT_INFO: VALID OVERFLOW CLASS PART
  | .fltInfo => [⟨0, 0, .w1c, 0⟩, ⟨1, 1, .ro, 0⟩, ⟨3, 2, .ro, 0⟩, ⟨10, 4, .ro, 0⟩]
  -- FLT_TIME: NS
  | .fltTime => [⟨63, 0, .ro, 0⟩]
  -- FLT_PEND: A B A_MORE B_MORE
  | .fltPend => [⟨0, 0, .w1c, 0⟩, ⟨1, 1, .w1c, 0⟩, ⟨2, 2, .ro, 0⟩, ⟨3, 3, .ro, 0⟩]
  -- FLT_COUNT: CORRECTED DEFERRED CONTAINED FATAL
  | .fltCount => [⟨15, 0, .rc, 0⟩, ⟨31, 16, .rc, 0⟩, ⟨47, 32, .rc, 0⟩, ⟨63, 48, .rc, 0⟩]
  -- FLT_STAT: DROPPED LOG_LOST QUEUE
  | .fltStat => [⟨15, 0, .rc, 0⟩, ⟨31, 16, .rc, 0⟩, ⟨38, 32, .ro, 0⟩]
  -- FLT_CTRL: PART RELEASE
  | .fltCtrl => [⟨6, 0, .wo, 0⟩, ⟨7, 7, .wo, 0⟩]
  -- FLT_LASTRESET: MESSAGE
  | .fltLastreset => [⟨63, 0, .ro, 0⟩]
  -- FLT_ACTION: IRQ_A IRQ_B IRQ_OWNER LOG HOLD STOP CORE_RESET QUIRE_RESET PART_RESET CLASS FIXED DEFINED
  | .fltAction => [⟨0, 0, .rw, 0⟩, ⟨1, 1, .rw, 0⟩, ⟨2, 2, .rw, 0⟩, ⟨3, 3, .rw, 0⟩, ⟨4, 4, .rw, 0⟩, ⟨5, 5, .rw, 0⟩,
      ⟨6, 6, .rw, 0⟩, ⟨7, 7, .rw, 0⟩, ⟨8, 8, .rw, 0⟩, ⟨13, 12, .ro, 0⟩, ⟨14, 14, .ro, 0⟩, ⟨15, 15, .ro, 0⟩]
  -- GEN_CAPS: QUIRES QUIRE_COUNT HALL_PORTS HOST_PORTS LPDDR6_SIDES BAR4 CAL_VALID WARM SLOW_CHANNEL PUBLISHED ENTROPY_SOURCES START_MS
  | .genCaps => [⟨95, 0, .ro, 0⟩, ⟨102, 96, .ro, 0⟩, ⟨111, 104, .ro, 0⟩, ⟨113, 112, .ro, 0⟩, ⟨115, 114, .ro, 0⟩,
      ⟨116, 116, .ro, 0⟩, ⟨117, 117, .ro, 0⟩, ⟨118, 118, .ro, 0⟩, ⟨119, 119, .ro, 0⟩, ⟨120, 120, .ro, 0⟩,
      ⟨135, 128, .ro, 0⟩, ⟨223, 192, .ro, 0⟩]
  -- CFG_STATUS: ACTIVE_COPY STORE_VALID CAL_VALID CAL_FACTORY WRITE SAG_REFUSED STORE_SEQ
  | .cfgStatus => [⟨0, 0, .ro, 0⟩, ⟨1, 1, .ro, 0⟩, ⟨2, 2, .ro, 0⟩, ⟨3, 3, .ro, 0⟩, ⟨5, 4, .ro, 0⟩, ⟨6, 6, .w1c, 0⟩,
      ⟨39, 8, .ro, 0⟩]
  -- CFG_CALPAGE: PAGE
  | .cfgCalpage => [⟨3, 0, .rw, 0⟩]
  -- MGT_CMD: OPCODE IRQ VECTOR
  | .mgtCmd => [⟨7, 0, .wo, 0⟩, ⟨8, 8, .wo, 0⟩, ⟨23, 16, .wo, 0⟩]
  -- MGT_STATUS: BUSY DROPPED STATUS RESULT
  | .mgtStatus => [⟨0, 0, .ro, 0⟩, ⟨1, 1, .w1c, 0⟩, ⟨15, 8, .ro, 0⟩, ⟨63, 32, .ro, 0⟩]
  -- MGT_FWINFO: SLOT B_VALID COUNTER ROLLBACK SEQ
  | .mgtFwinfo => [⟨0, 0, .ro, 0⟩, ⟨7, 7, .ro, 0⟩, ⟨14, 8, .ro, 0⟩, ⟨22, 16, .ro, 0⟩, ⟨63, 32, .ro, 0⟩]
  -- MGT_WDT: KICK LIMIT
  | .mgtWdt => [⟨7, 0, .wo, 0⟩, ⟨39, 8, .ro, 50000000⟩]
  -- MGT_HEALTH: SRAM_CE SIGN_REFUSED PMBUS_FAIL
  | .mgtHealth => [⟨15, 0, .rc, 0⟩, ⟨31, 16, .rc, 0⟩, ⟨47, 32, .rc, 0⟩]
  -- PWR_CTRL: TARGET GO DEFER_MAX REJECTED
  | .pwrCtrl => [⟨2, 0, .wo, 0⟩, ⟨3, 3, .wo, 0⟩, ⟨10, 4, .rw, 100⟩, ⟨11, 11, .w1c, 0⟩]
  -- PWR_STATUS: STATE RESULT REFUSER_CLASS REFUSER_INST
  | .pwrStatus => [⟨2, 0, .ro, 0⟩, ⟨15, 8, .ro, 0⟩, ⟨21, 16, .ro, 0⟩, ⟨29, 22, .ro, 0⟩]
  -- PWR_SCHED: TIME TARGET ARM ARMED
  | .pwrSched => [⟨63, 0, .rw, 0⟩, ⟨66, 64, .rw, 0⟩, ⟨67, 67, .wo, 0⟩, ⟨68, 68, .ro, 0⟩]
  -- PWR_GOV: CAP PEAK HYST FMAX
  | .pwrGov => [⟨9, 0, .rw, 600⟩, ⟨19, 10, .rw, 720⟩, ⟨27, 20, .rw, 15⟩, ⟨39, 28, .rw, 1200⟩]
  -- PWR_CLK: GOV NORTH SOUTH GHS_SEL GHS_PLL_LOCK
  | .pwrClk => [⟨10, 0, .ro, 1200⟩, ⟨21, 11, .ro, 1200⟩, ⟨32, 22, .ro, 1200⟩, ⟨40, 40, .rw, 0⟩, ⟨41, 41, .ro, 0⟩]
  -- PWR_THERM: WARN THROT TRIP HOTTEST HOT_TEMP N_THROTTLED S_THROTTLED
  | .pwrTherm => [⟨7, 0, .rw, 95⟩, ⟨15, 8, .rw, 100⟩, ⟨23, 16, .ro, 115⟩, ⟨31, 24, .ro, 0⟩, ⟨47, 32, .ro, 0⟩,
      ⟨48, 48, .ro, 0⟩, ⟨49, 49, .ro, 0⟩]
  -- PWR_TSYNC: MODE GROUP CONFLICT
  | .pwrTsync => [⟨1, 0, .rw, 0⟩, ⟨5, 2, .rw, 0⟩, ⟨6, 6, .w1c, 0⟩]
  -- PWR_WAKE: CAUSE LOST_EDGES
  | .pwrWake => [⟨3, 0, .ro, 0⟩, ⟨23, 8, .rc, 0⟩]
  -- GEN_IDENT: VENDOR DEVICE STEPPING SERIAL
  | .genIdent => [⟨15, 0, .ro, 0⟩, ⟨31, 16, .ro, 3090⟩, ⟨39, 32, .ro, 0⟩, ⟨103, 64, .ro, 0⟩]
  -- GEN_STARTS: COUNT
  | .genStarts => [⟨31, 0, .ro, 0⟩]
  -- ARR_STATUS: STOPPED PARTITIONS ACTIVE
  | .arrStatus => [⟨0, 0, .ro, 1⟩, ⟨14, 8, .ro, 0⟩, ⟨22, 16, .ro, 0⟩]
  -- ARR_HOLDCFG: LIMIT
  | .arrHoldcfg => [⟨19, 0, .rw, 1000⟩]
  -- ARR_HOLDMAP: HELD
  | .arrHoldmap => [⟨95, 0, .ro, 0⟩]
  -- ARR_FHOLDMAP: FAULT
  | .arrFholdmap => [⟨95, 0, .ro, 0⟩]
  -- PRT_TICK: TICK
  | .prtTick => [⟨63, 0, .ro, 0⟩]
  -- PRT_SWEEP: SWEEP
  | .prtSweep => [⟨39, 0, .ro, 0⟩]
  -- PRT_FLAGS: S MISSING LOADED STOP ARRIVE
  | .prtFlags => [⟨3, 0, .ro, 0⟩, ⟨4, 4, .ro, 0⟩, ⟨5, 5, .ro, 0⟩, ⟨6, 6, .ro, 0⟩, ⟨7, 7, .ro, 0⟩]
  -- MGT_ARG: VALUE
  | .mgtArg => [⟨63, 0, .rw, 0⟩]

/-- A place in the register space: the register, the instance number, and the 8 B unit of the register. -/
structure RegPlace where
  reg  : RegName
  inst : Nat
  unit : Nat
deriving DecidableEq, Repr

/-- The bytes of a register: 8, or the sizes of the register index for wider ones. -/
def RegName.units : RegName → Nat
  | .genIdent | .arrHoldmap | .arrFholdmap | .hftPeer | .gtbCmp | .pwrSched | .coreIdreg => 2
  | .genCaps => 4
  | _ => 1

/-- One row of the register index: the first offset, the distance of instances, their number, and the register. -/
structure RegRow where
  base   : Nat
  stride : Nat
  count  : Nat
  reg    : RegName
deriving DecidableEq, Repr

/-- The register index of R421, with the block tables of the chapters. -/
def regIndex : List RegRow :=
  [⟨0x0, 16, 1, .genIdent⟩, ⟨0x10, 8, 1, .genStarts⟩, ⟨0x20, 32, 1, .genCaps⟩, ⟨0x40, 8, 1, .genDetClass⟩,
   ⟨0x10000, 16, 64, .semLock⟩, ⟨0x10008, 16, 64, .semCfg⟩, ⟨0x10400, 8, 1, .semStat⟩,
   ⟨0x20000, 0x8000, 2, .hstPortcfg⟩, ⟨0x20008, 0x8000, 2, .hstPortstat⟩] ++
  [⟨0x20100, 32, 97, .hstRing⟩, ⟨0x20108, 32, 97, .hstRing⟩, ⟨0x20110, 32, 97, .hstRingcfg⟩,
   ⟨0x20118, 32, 97, .hstRingstat⟩, ⟨0x28100, 32, 97, .hstRing⟩, ⟨0x28108, 32, 97, .hstRing⟩,
   ⟨0x28110, 32, 97, .hstRingcfg⟩, ⟨0x28118, 32, 97, .hstRingstat⟩, ⟨0x29000, 8, 96, .hstDrain⟩] ++
  [⟨0x40000, 0x100, 96, .prtCtrl⟩, ⟨0x40008, 0x100, 96, .prtStatus⟩, ⟨0x40010, 0x100, 96, .prtOwner⟩,
   ⟨0x40018, 0x100, 96, .prtTick⟩, ⟨0x40020, 0x100, 96, .prtSweep⟩, ⟨0x40028, 0x100, 96, .prtFlags⟩,
   ⟨0x40030, 0x100, 96, .prtHoldstat⟩, ⟨0x40038, 0x100, 96, .prtLoadstat⟩, ⟨0x40040, 0x100, 96, .prtAccstat⟩,
   ⟨0x40048, 0x100, 96, .prtAnneal⟩, ⟨0x40050, 0x100, 96, .prtExstat⟩, ⟨0x40058, 0x100, 96, .prtPoolstat⟩] ++
  [⟨0x80000, 8, 1, .arrMode⟩, ⟨0x80008, 8, 1, .arrStatus⟩, ⟨0x80010, 8, 1, .arrHoldcfg⟩,
   ⟨0x80020, 16, 1, .arrHoldmap⟩, ⟨0x80030, 16, 1, .arrFholdmap⟩, ⟨0x81000, 8, 96, .arrSpare⟩,
   ⟨0x82000, 8, 128, .arrEbregion⟩,
   ⟨0xC0000, 0x1000, 12, .memCtrl⟩, ⟨0xC0008, 0x1000, 12, .memStatus⟩] ++
  (List.range 12).flatMap (fun k => [⟨0xC0040 + k * 0x1000, 8, 4, .memRefstat⟩,
    ⟨0xC0060 + k * 0x1000, 8, 4, .memArbstat⟩, ⟨0xC0080 + k * 0x1000, 8, 4, .memEccstat⟩]) ++
  [⟨0x100000, 0x4000, 8, .hfbPortcfg⟩, ⟨0x100008, 0x4000, 8, .hfbPortstat⟩, ⟨0x100010, 0x4000, 8, .hfbStrcnt⟩,
   ⟨0x100018, 0x4000, 8, .hfbPtpcal⟩, ⟨0x120000, 8, 1, .hftCfg⟩, ⟨0x120008, 8, 1, .hftTimer⟩,
   ⟨0x120010, 8, 1, .hftBarcfg⟩, ⟨0x120018, 8, 1, .hftBarstat⟩, ⟨0x120040, 8, 1, .hftPeerstat⟩,
   ⟨0x130000, 16, 1024, .hftPeer⟩] ++
  [⟨0x140000, 8, 1, .gtbNs⟩, ⟨0x140008, 8, 1, .gtbStatus⟩, ⟨0x140010, 8, 1, .gtbRate⟩,
   ⟨0x140018, 8, 1, .gtbStep⟩, ⟨0x140040, 16, 8, .gtbCmp⟩,
   ⟨0x180000, 8, 1, .entCtrl⟩, ⟨0x180008, 8, 1, .entStatus⟩, ⟨0x180010, 8, 1, .entHtcfg⟩,
   ⟨0x180018, 8, 1, .entExp⟩, ⟨0x180020, 8, 1, .entStat⟩, ⟨0x180040, 8, 8, .entSrcstat⟩] ++
  [⟨0x190000, 8, 1, .fltFirst⟩, ⟨0x190008, 8, 1, .fltInfo⟩, ⟨0x190010, 8, 1, .fltTime⟩,
   ⟨0x190018, 8, 1, .fltPend⟩, ⟨0x190020, 8, 1, .fltCount⟩, ⟨0x190028, 8, 1, .fltStat⟩,
   ⟨0x190030, 8, 1, .fltCtrl⟩, ⟨0x190038, 8, 1, .fltLastreset⟩, ⟨0x190800, 8, 256, .fltAction⟩] ++
  [⟨0x1A0000, 8, 1, .pwrCtrl⟩, ⟨0x1A0008, 8, 1, .pwrStatus⟩, ⟨0x1A0010, 16, 1, .pwrSched⟩,
   ⟨0x1A0020, 8, 1, .pwrGov⟩, ⟨0x1A0028, 8, 1, .pwrClk⟩, ⟨0x1A0030, 8, 1, .pwrTherm⟩,
   ⟨0x1A0038, 8, 1, .pwrTsync⟩, ⟨0x1A0040, 8, 1, .pwrWake⟩] ++
  [⟨0x1B0000, 0x100, 2, .mgtCmd⟩, ⟨0x1B0008, 0x100, 2, .mgtStatus⟩, ⟨0x1B0010, 8, 14, .mgtArg⟩,
   ⟨0x1B0110, 8, 14, .mgtArg⟩, ⟨0x1B0200, 8, 1, .mgtFwinfo⟩, ⟨0x1B0208, 8, 1, .mgtWdt⟩,
   ⟨0x1B0210, 8, 1, .mgtHealth⟩, ⟨0x1C0000, 8, 1, .cfgStatus⟩, ⟨0x1C0008, 8, 1, .cfgCalpage⟩] ++
  [⟨0x1000000, 0x400, 12288, .coreId⟩, ⟨0x1000008, 0x400, 12288, .coreCtrl⟩,
   ⟨0x1000010, 0x400, 12288, .coreStatus⟩, ⟨0x1000018, 0x400, 12288, .coreEntry⟩,
   ⟨0x1000020, 0x400, 12288, .coreLanecfg⟩, ⟨0x1000028, 0x400, 12288, .coreFault⟩] ++
  (List.range 16).map (fun k => ⟨0x1000040 + k * 8, 0x400, 12288, .corePtr⟩) ++
  (List.range 8).map (fun k => ⟨0x10000C0 + k * 16, 0x400, 12288, .coreIdreg⟩) ++
  (List.range 4).map (fun k => ⟨0x1000140 + k * 8, 0x400, 12288, .coreOutprof⟩)

/-- Where a row places an 8 B unit, if it does. -/
def RegRow.place (r : RegRow) (off : Nat) : Option RegPlace :=
  if r.base ≤ off ∧ (off - r.base) / r.stride < r.count ∧ (off - r.base) % r.stride < 8 * r.reg.units then
    some ⟨r.reg, (off - r.base) / r.stride, (off - r.base) % r.stride / 8⟩
  else none

/-- The register that an 8 B unit of the register space belongs to (R421); none at reserved offsets. -/
def regPlace (off : Nat) : Option RegPlace := regIndex.findSome? (fun r => r.place off)

/-- A register of the map at an 8 B unit holds this at reset: its fields' reset values. -/
def regResetVal (n : RegName) (u : Nat) : Nat :=
  bitsN (n.fields.foldl (fun v f => if f.acc = .wo then v else v ||| (f.reset <<< f.lo)) 0) (64 * u + 63) (64 * u)

/-- The default actions of a fault kind (R364, R367): IRQ_A 1, IRQ_B 2, IRQ_OWNER 4, LOG 8, STOP 0x20. -/
def actionReset (k : Nat) : Nat :=
  if k ∈ [0x10, 0x60, 0x50, 0x72, 0xA0, 0xA1, 0x30, 0x90] then 0x08
  else if k ∈ [0x11, 0x20, 0x21, 0x22, 0x32, 0x40, 0x41, 0x73, 0x31] then 0x0C
  else if k = 0x61 then 0x2C
  else if k ∈ [0x51, 0x71, 0x80, 0x81, 0xB0] then 0x0B
  else 0

/-- FLT_ACTION holds, after reset, the default actions; every other register its fields' reset values. -/
def regReset (off : Nat) : BitVec 64 :=
  match regPlace (off / 8 * 8) with
  | none => 0
  | some p => if p.reg = .fltAction then BitVec.ofNat 64 (actionReset p.inst)
    else BitVec.ofNat 64 (regResetVal p.reg p.unit)

/-! Named offsets, for the meanings. -/

/-- Offset of the instance of `prtCtrl`. -/
abbrev Reg.prtCtrl (q : Nat) : Nat := 0x40000 + q * 0x100
/-- Offset of the instance of `prtStatus`. -/
abbrev Reg.prtStatus (q : Nat) : Nat := 0x40008 + q * 0x100
/-- Offset of the instance of `prtOwner`. -/
abbrev Reg.prtOwner (q : Nat) : Nat := 0x40010 + q * 0x100
/-- Offset of the instance of `prtTick`. -/
abbrev Reg.prtTick (q : Nat) : Nat := 0x40018 + q * 0x100
/-- Offset of the instance of `prtSweep`. -/
abbrev Reg.prtSweep (q : Nat) : Nat := 0x40020 + q * 0x100
/-- Offset of the instance of `prtFlags`. -/
abbrev Reg.prtFlags (q : Nat) : Nat := 0x40028 + q * 0x100
/-- Offset of the instance of `prtHoldstat`. -/
abbrev Reg.prtHoldstat (q : Nat) : Nat := 0x40030 + q * 0x100
/-- Offset of the instance of `prtLoadstat`. -/
abbrev Reg.prtLoadstat (q : Nat) : Nat := 0x40038 + q * 0x100
/-- Offset of the instance of `prtAccstat`. -/
abbrev Reg.prtAccstat (q : Nat) : Nat := 0x40040 + q * 0x100
/-- Offset of the instance of `prtAnneal`. -/
abbrev Reg.prtAnneal (q : Nat) : Nat := 0x40048 + q * 0x100
/-- Offset of the instance of `prtExstat`. -/
abbrev Reg.prtExstat (q : Nat) : Nat := 0x40050 + q * 0x100
/-- Offset of the instance of `prtPoolstat`. -/
abbrev Reg.prtPoolstat (q : Nat) : Nat := 0x40058 + q * 0x100
/-- Offset of the instance of `semLock`. -/
abbrev Reg.semLock (s : Nat) : Nat := 0x10000 + s * 16
/-- Offset of the instance of `semCfg`. -/
abbrev Reg.semCfg (s : Nat) : Nat := 0x10008 + s * 16
/-- Offset of the instance of `hstPortcfg`. -/
abbrev Reg.hstPortcfg (p : Nat) : Nat := 0x20000 + p * 0x8000
/-- Offset of the instance of `hstPortstat`. -/
abbrev Reg.hstPortstat (p : Nat) : Nat := 0x20008 + p * 0x8000
/-- Offset of the instance of `arrSpare`. -/
abbrev Reg.arrSpare (r : Nat) : Nat := 0x81000 + r * 8
/-- Offset of the instance of `arrEbregion`. -/
abbrev Reg.arrEbregion (i : Nat) : Nat := 0x82000 + i * 8
/-- Offset of the instance of `memCtrl`. -/
abbrev Reg.memCtrl (k : Nat) : Nat := 0xC0000 + k * 0x1000
/-- Offset of the instance of `memStatus`. -/
abbrev Reg.memStatus (k : Nat) : Nat := 0xC0008 + k * 0x1000
/-- Offset of the instance of `memRefstat`. -/
abbrev Reg.memRefstat (c : Nat) : Nat := 0xC0040 + c / 4 * 0x1000 + c % 4 * 8
/-- Offset of the instance of `memArbstat`. -/
abbrev Reg.memArbstat (c : Nat) : Nat := 0xC0060 + c / 4 * 0x1000 + c % 4 * 8
/-- Offset of the instance of `memEccstat`. -/
abbrev Reg.memEccstat (c : Nat) : Nat := 0xC0080 + c / 4 * 0x1000 + c % 4 * 8
/-- Offset of the instance of `hfbPortcfg`. -/
abbrev Reg.hfbPortcfg (p : Nat) : Nat := 0x100000 + p * 0x4000
/-- Offset of the instance of `hfbPortstat`. -/
abbrev Reg.hfbPortstat (p : Nat) : Nat := 0x100008 + p * 0x4000
/-- Offset of the instance of `hfbStrcnt`. -/
abbrev Reg.hfbStrcnt (p : Nat) : Nat := 0x100010 + p * 0x4000
/-- Offset of the instance of `hfbPtpcal`. -/
abbrev Reg.hfbPtpcal (p : Nat) : Nat := 0x100018 + p * 0x4000
/-- Offset of the instance of `hftPeer`. -/
abbrev Reg.hftPeer (d : Nat) : Nat := 0x130000 + d * 16
/-- Offset of the instance of `gtbCmp`. -/
abbrev Reg.gtbCmp (k : Nat) : Nat := 0x140040 + k * 16
/-- Offset of the instance of `entSrcstat`. -/
abbrev Reg.entSrcstat (i : Nat) : Nat := 0x180040 + i * 8
/-- Offset of the instance of `fltAction`. -/
abbrev Reg.fltAction (k : Nat) : Nat := 0x190800 + k * 8
/-- Offset of the instance of `mgtCmd`. -/
abbrev Reg.mgtCmd (p : Nat) : Nat := 0x1B0000 + p * 0x100
/-- Offset of the instance of `mgtStatus`. -/
abbrev Reg.mgtStatus (p : Nat) : Nat := 0x1B0008 + p * 0x100
/-- Offset of the instance of `coreId`. -/
abbrev Reg.coreId (n : Nat) : Nat := 0x1000000 + n * 0x400
/-- Offset of the instance of `coreCtrl`. -/
abbrev Reg.coreCtrl (n : Nat) : Nat := 0x1000008 + n * 0x400
/-- Offset of the instance of `coreStatus`. -/
abbrev Reg.coreStatus (n : Nat) : Nat := 0x1000010 + n * 0x400
/-- Offset of the instance of `coreEntry`. -/
abbrev Reg.coreEntry (n : Nat) : Nat := 0x1000018 + n * 0x400
/-- Offset of the instance of `coreLanecfg`. -/
abbrev Reg.coreLanecfg (n : Nat) : Nat := 0x1000020 + n * 0x400
/-- Offset of the instance of `coreFault`. -/
abbrev Reg.coreFault (n : Nat) : Nat := 0x1000028 + n * 0x400
/-- Offset of the instance of `hstDrain`. -/
abbrev Reg.hstDrain (q : Nat) : Nat := 0x29000 + q * 8
/-- Offset of `hstSq` of ring r of port p. -/
abbrev Reg.hstSq (p r : Nat) : Nat := 0x20100 + p * 0x8000 + r * 32
/-- Offset of `hstCq` of ring r of port p. -/
abbrev Reg.hstCq (p r : Nat) : Nat := 0x20108 + p * 0x8000 + r * 32
/-- Offset of `hstRingcfg` of ring r of port p. -/
abbrev Reg.hstRingcfg (p r : Nat) : Nat := 0x20110 + p * 0x8000 + r * 32
/-- Offset of `hstRingstat` of ring r of port p. -/
abbrev Reg.hstRingstat (p r : Nat) : Nat := 0x20118 + p * 0x8000 + r * 32
/-- Offset of MGT_ARG[i] of mailbox p. -/
abbrev Reg.mgtArg (p i : Nat) : Nat := 0x1B0010 + p * 0x100 + i * 8
/-- Offset of CORE_PTR[k] of core n. -/
abbrev Reg.corePtr (n k : Nat) : Nat := 0x1000040 + n * 0x400 + k * 8
/-- Offset of CORE_IDREG[k] of core n. -/
abbrev Reg.coreIdreg (n k : Nat) : Nat := 0x10000C0 + n * 0x400 + k * 16
/-- Offset of CORE_OUTPROF[k] of core n. -/
abbrev Reg.coreOutprof (n k : Nat) : Nat := 0x1000140 + n * 0x400 + k * 8
/-- Offset of `genIdent`. -/
abbrev Reg.genIdent : Nat := 0x0
/-- Offset of `genStarts`. -/
abbrev Reg.genStarts : Nat := 0x10
/-- Offset of `genCaps`. -/
abbrev Reg.genCaps : Nat := 0x20
/-- Offset of `genDetClass`. -/
abbrev Reg.genDetClass : Nat := 0x40
/-- Offset of `semStat`. -/
abbrev Reg.semStat : Nat := 0x10400
/-- Offset of `arrMode`. -/
abbrev Reg.arrMode : Nat := 0x80000
/-- Offset of `arrStatus`. -/
abbrev Reg.arrStatus : Nat := 0x80008
/-- Offset of `arrHoldcfg`. -/
abbrev Reg.arrHoldcfg : Nat := 0x80010
/-- Offset of `arrHoldmap`. -/
abbrev Reg.arrHoldmap : Nat := 0x80020
/-- Offset of `arrFholdmap`. -/
abbrev Reg.arrFholdmap : Nat := 0x80030
/-- Offset of `hftCfg`. -/
abbrev Reg.hftCfg : Nat := 0x120000
/-- Offset of `hftTimer`. -/
abbrev Reg.hftTimer : Nat := 0x120008
/-- Offset of `hftBarcfg`. -/
abbrev Reg.hftBarcfg : Nat := 0x120010
/-- Offset of `hftBarstat`. -/
abbrev Reg.hftBarstat : Nat := 0x120018
/-- Offset of `hftPeerstat`. -/
abbrev Reg.hftPeerstat : Nat := 0x120040
/-- Offset of `gtbNs`. -/
abbrev Reg.gtbNs : Nat := 0x140000
/-- Offset of `gtbStatus`. -/
abbrev Reg.gtbStatus : Nat := 0x140008
/-- Offset of `gtbRate`. -/
abbrev Reg.gtbRate : Nat := 0x140010
/-- Offset of `gtbStep`. -/
abbrev Reg.gtbStep : Nat := 0x140018
/-- Offset of `entCtrl`. -/
abbrev Reg.entCtrl : Nat := 0x180000
/-- Offset of `entStatus`. -/
abbrev Reg.entStatus : Nat := 0x180008
/-- Offset of `entHtcfg`. -/
abbrev Reg.entHtcfg : Nat := 0x180010
/-- Offset of `entExp`. -/
abbrev Reg.entExp : Nat := 0x180018
/-- Offset of `entStat`. -/
abbrev Reg.entStat : Nat := 0x180020
/-- Offset of `fltFirst`. -/
abbrev Reg.fltFirst : Nat := 0x190000
/-- Offset of `fltInfo`. -/
abbrev Reg.fltInfo : Nat := 0x190008
/-- Offset of `fltTime`. -/
abbrev Reg.fltTime : Nat := 0x190010
/-- Offset of `fltPend`. -/
abbrev Reg.fltPend : Nat := 0x190018
/-- Offset of `fltCount`. -/
abbrev Reg.fltCount : Nat := 0x190020
/-- Offset of `fltStat`. -/
abbrev Reg.fltStat : Nat := 0x190028
/-- Offset of `fltCtrl`. -/
abbrev Reg.fltCtrl : Nat := 0x190030
/-- Offset of `fltLastreset`. -/
abbrev Reg.fltLastreset : Nat := 0x190038
/-- Offset of `pwrCtrl`. -/
abbrev Reg.pwrCtrl : Nat := 0x1A0000
/-- Offset of `pwrStatus`. -/
abbrev Reg.pwrStatus : Nat := 0x1A0008
/-- Offset of `pwrSched`. -/
abbrev Reg.pwrSched : Nat := 0x1A0010
/-- Offset of `pwrGov`. -/
abbrev Reg.pwrGov : Nat := 0x1A0020
/-- Offset of `pwrClk`. -/
abbrev Reg.pwrClk : Nat := 0x1A0028
/-- Offset of `pwrTherm`. -/
abbrev Reg.pwrTherm : Nat := 0x1A0030
/-- Offset of `pwrTsync`. -/
abbrev Reg.pwrTsync : Nat := 0x1A0038
/-- Offset of `pwrWake`. -/
abbrev Reg.pwrWake : Nat := 0x1A0040
/-- Offset of `mgtFwinfo`. -/
abbrev Reg.mgtFwinfo : Nat := 0x1B0200
/-- Offset of `mgtWdt`. -/
abbrev Reg.mgtWdt : Nat := 0x1B0208
/-- Offset of `mgtHealth`. -/
abbrev Reg.mgtHealth : Nat := 0x1B0210
/-- Offset of `cfgStatus`. -/
abbrev Reg.cfgStatus : Nat := 0x1C0000
/-- Offset of `cfgCalpage`. -/
abbrev Reg.cfgCalpage : Nat := 0x1C0008

end Sys2Proof.Machine
end

