-- ==== Sys2Proof/Machine/Table.lean ====
section
/-! DEFINITION. Sparse data by key, in one canonical form: keys strictly rising, and no entry equal to what an
unlisted key reads as. Every memory, register file and per-unit store of the module is one of these. -/

namespace Sys2Proof

/-- A store of values by key. What an unlisted key reads as is an argument of the operations. -/
abbrev Table (α : Type) := List (Nat × α)

namespace Table

variable {α : Type}

/-- The value at a key; `d` says what an unlisted key reads as. -/
def look (d : Nat → α) : Table α → Nat → α
  | [], k => d k
  | (a, v) :: m, k => if a = k then v else look d m k

/-- The store without a key. -/
def erase : Table α → Nat → Table α
  | [], _ => []
  | (a, v) :: m, k => if a = k then erase m k else (a, v) :: erase m k

/-- The store with an entry put in its place among rising keys. -/
def place : Table α → Nat → α → Table α
  | [], k, v => [(k, v)]
  | (a, w) :: m, k, v => if k < a then (k, v) :: (a, w) :: m else (a, w) :: place m k v

/-- Write one key: writing what an unlisted key reads as removes the entry. -/
def put [DecidableEq α] (d : Nat → α) (m : Table α) (k : Nat) (v : α) : Table α :=
  if v = d k then erase m k else place (erase m k) k v

/-- Change the value at a key. -/
def upd [DecidableEq α] (d : Nat → α) (m : Table α) (k : Nat) (f : α → α) : Table α :=
  put d m k (f (look d m k))

/-- The canonical form. -/
def wf [DecidableEq α] (d : Nat → α) : Table α → Bool
  | [] => true
  | (a, v) :: m => decide (v ≠ d a) && m.all (fun e => decide (a < e.1)) && wf d m

/-- Values at n consecutive keys. -/
def span (d : Nat → α) (m : Table α) (k : Nat) : Nat → List α
  | 0 => []
  | n + 1 => look d m k :: span d m (k + 1) n

/-- Write consecutive keys. -/
def putSpan [DecidableEq α] (d : Nat → α) (m : Table α) (k : Nat) : List α → Table α
  | [] => m
  | v :: vs => putSpan d (put d m k v) (k + 1) vs

end Table

end Sys2Proof
end

