-- ==== Sys2Proof/Machine/State.lean ====
section
/-! DEFINITION. The state of the module: every register, memory, queue, counter and mode the manual gives it, as
plain data, and the queue of waiting commands. INVENTORY.md lists each piece with its rule and its reset value. -/

namespace Sys2Proof.Machine

/-! ## Clocks and generators -/

/-- Clocks. `wall` counts the model's unit of time, 5/6 ns, one nominal array period (1,200 units are 1 µs). `accN`,
`accS` and `accG` are the phases of ARR_N, ARR_S and the GTB domain against it (R19, R26, log 1). GTIME is a count of nanoseconds with a 16-bit fraction (R281). -/
structure Clocks where
  wall      : Nat := 0
  accN      : Nat := 0
  accS      : Nat := 0
  accG      : Nat := 0
  gtimeNs   : U64 := 0
  gtimeFrac : U16 := 0
deriving DecidableEq, Repr

/-- A lane generator: seventeen lag words, oldest first, the Weyl value, and the output of the present cycle
(R139). -/
structure LaneGen where
  y   : List U32 := []
  w   : U64 := 0
  out : U32 := 0
deriving DecidableEq, Repr

/-! ## One core -/

/-- One level of the loop stack: first body word, end word, iterations left (R72). -/
structure LoopLevel where
  first : Nat
  last  : Nat
  left  : Nat
deriving DecidableEq, Repr

/-- A live identity register (R70). -/
structure IdReg where
  unit  : BitVec 40 := 0
  chain : U32 := 0
  beta  : U32 := 0x3F800000
deriving DecidableEq, Repr

/-- A link word: its payload, its length in bytes, and the kind under which it is marked bad (R80, R82). -/
structure LinkWord where
  bytes : List Byte
  len   : Nat
  bad   : Option Byte := none
deriving DecidableEq, Repr

/-- The empty word of R80. -/
def LinkWord.empty : LinkWord := ⟨zeros 64, 64, none⟩

/-- The categorical carry (R134). -/
structure CatCarry where
  best  : U32 := 0
  state : Nat := 0
  k     : Nat := 0
  damp  : Bool := false
  chunk : Nat := 0
deriving DecidableEq, Repr

/-- What a core's Leaf reads and changes from tick to tick (R61). -/
structure CoreLive where
  pc        : Nat := 0
  loops     : List LoopLevel := []
  ptr       : Table Int := []
  ids       : Table IdReg := []
  phase     : Nat := 0
  q         : Nat := 0
  flags     : Nat := 0
  stateReg  : List Byte := zeros 128
  oldReg    : List Byte := zeros 128
  outReg    : List Byte := zeros 128
  outCursor : Nat := 0
  args      : List U32 := List.replicate 64 0
  argCursor : Nat := 0
  landing   : Table LinkWord := []
  cat       : CatCarry := {}
deriving DecidableEq, Repr

/-- An accumulation group: its mode and binary point, its rows, its range flag, and the first tick at which a CLOSE
or RED of it is not too early (R100, R101). -/
structure Group where
  isOpen   : Bool := false
  isFloat  : Bool := false
  point    : Nat := 0
  range    : Bool := false
  firstRow : Nat := 0
  rows     : Nat := 0
  readyAt  : Nat := 0
deriving DecidableEq, Repr

/-- A CLOSE whose batches are due: its tick, what it fixed at issue, and how many batches it has delivered
(R115, R116). -/
structure CloseDue where
  at_      : Nat
  group    : Nat
  isFloat  : Bool
  point    : Nat
  range    : Bool
  entries  : List (BitVec 72)
  scale    : U32
  offset   : U32
  id       : IdReg
  toMem    : Bool
  memType  : Nat
  stoch    : Bool
  table    : Nat
  addr     : Nat
  done     : Nat := 0
deriving DecidableEq, Repr

/-- Draw results due: the tick they enter, the byte or bit position they take, and the bits (R85). -/
structure DrawDue where
  at_    : Nat
  bitPos : Nat
  bits   : List Bool
deriving DecidableEq, Repr

/-- A register filling due at a tick: LDS and LDO contents (R87). -/
structure FillDue where
  at_   : Nat
  bytes : List Byte
deriving DecidableEq, Repr

/-- One tick of a PAGE: the granules it reads and the Leaf words it writes (R78). -/
structure PageDue where
  at_   : Nat
  tile  : Nat
  word  : Nat
  count : Nat
deriving DecidableEq, Repr

/-- One tick of a RED of form 2 after its first: the records it reads and the entries it adds them to (R119). -/
structure AddDue where
  at_   : Nat
  group : Nat
  tile  : Nat
  entry : Nat
  count : Nat
deriving DecidableEq, Repr

/-- A CANON record to write back (R119). -/
structure CanonDue where
  at_  : Nat
  tile : Nat
  rec_ : List Byte
deriving DecidableEq, Repr

/-- A word of a tree send to put on a link (R119). -/
structure TreeDue where
  at_  : Nat
  dir  : Dir
  word : LinkWord
deriving DecidableEq, Repr

/-- A word on its way to a core: the link it arrives on and its landing tick (R80, R149). -/
structure LandDue where
  at_  : Nat
  dir  : Dir
  word : LinkWord
deriving DecidableEq, Repr

/-- The modes of a core (CORE_STATUS.STATE; HELD is read from the partition's freeze). `halted` and `loaded` both
read LOADED. -/
inductive CoreMode where
  | empty | loaded | halted | running | barrier | waiting | faulted | resetting
deriving DecidableEq, Repr

/-- One core. `live` is its state at the start of the present tick; the slots of the tick's word read it and write
`next`, which takes its place at the tick's end (R63, R69, log 4). `reload` says that the present word returns the identity
registers to their set-up values (R70), and `arrival` that it arrives at the barrier, with whether it ends a sweep and
whether its scope is the hall (R73, R74). -/
structure CoreState where
  mode       : CoreMode := .empty
  nextMode   : Option CoreMode := none
  absorb     : Bool := false
  live       : CoreLive := {}
  next       : CoreLive := {}
  tags       : Table Nat := []
  groups     : Table Group := []
  engineFree : Nat := 0
  closes     : List CloseDue := []
  releases   : List (Nat × Nat) := []
  canon      : List CanonDue := []
  adds       : List AddDue := []
  trees      : List TreeDue := []
  treeUntil  : Nat := 0
  draws      : List DrawDue := []
  ldsDue     : List FillDue := []
  ldoDue     : List FillDue := []
  pages      : List PageDue := []
  newDraws   : List DrawDue := []
  newLdo     : List FillDue := []
  newPages   : List PageDue := []
  newSplit   : Option Nat := none
  arriving   : List LandDue := []
  linkBad    : Table Nat := []
  linkDown   : List Dir := []
  waitUntil  : Nat := 0
  splitAt    : Option Nat := none
  fePort     : Bool := false
  linkPort   : Bool := false
  eventWrites : List (Nat × List Byte) := []
  feWrites   : List (Nat × List Byte) := []
  linkWrites : List (Nat × List Byte) := []
  outbox     : List (Dir × LinkWord) := []
  pset       : Option (Nat × Int) := none
  reload     : Bool := false
  arrival    : Option (Bool × Bool) := none
  wordPc     : Nat := 0
  receipts   : List Nat := []
  expect     : Option Nat := none
  class_     : Nat := 0
deriving DecidableEq, Repr

/-! ## Partitions -/

/-- The stopped and running states of a partition (PRT_STATUS.STATE; HELD and BARRIER are read from the hold and
the barrier). -/
inductive PartRun where
  | none | empty | loaded | running | resetting
deriving DecidableEq, Repr

/-- An allocated region of an edge buffer: buffer in ARR_EBREGION order, first block, blocks less one, use, and its
entry in the buffer (R161, R179). -/
structure Region where
  buffer : Nat
  first  : Nat
  blocks : Nat
  use    : Nat
  entry  : Nat
deriving DecidableEq, Repr

/-- An edge-router plan entry (R157), its address taken from the buffer's start. -/
structure PlanEntry where
  phase  : Nat
  offset : Nat
  count  : Nat
  stride : Nat
  len    : Nat
  op     : Nat
  all    : Bool
  addr   : Nat
  step   : Int
  region : Nat
deriving DecidableEq, Repr

/-- The plan of one edge router: its edge, its index on the edge, and its entries (R157, R179). -/
structure RouterPlan where
  edge    : Edge
  router  : Nat
  entries : List PlanEntry
deriving DecidableEq, Repr

/-- A stream ring descriptor (R236). -/
structure RingDesc where
  region   : Nat
  kind     : Nat
  endpoint : Nat
  loop     : Bool
  offset   : Nat
  bytes    : Nat
  lw       : Nat
  hw       : Nat
  rate     : Nat
  addr     : Nat
  groups   : Nat
deriving DecidableEq, Repr

/-- A range of LPDDR6 the Binding reads as already present (section type 7). -/
structure MemRange where
  addr   : Nat
  len    : Nat
  weight : Bool
deriving DecidableEq, Repr

/-- The Binding of a partition: what later rules read of its image (R172, R173). -/
structure Binding where
  digest   : List Byte
  flags    : Nat
  chains   : Nat
  regions  : List Region
  plans    : List RouterPlan
  rings    : List RingDesc
  control  : Option (List Byte)
  results  : Option (List Byte)
  ranges   : List MemRange
  weights  : List (Nat × List (List Byte))
deriving DecidableEq, Repr

/-- A stream ring at run time: bytes ready or free (R443), stopped, the stream bytes the plan has used and the engine
has moved, and the stream byte up to which a sweep end asks a collect ring to write (R238). -/
structure RingRun where
  fill    : Nat := 0
  stopped : Bool := false
  used    : Nat := 0
  moved   : Nat := 0
  flush   : Nat := 0
deriving DecidableEq, Repr

/-- A pending barrier: whether it ends a sweep, whether its scope is the hall, the cores that have arrived, the last
arrival's tick and time, whether the boundary's work is done, and the release tick once it is fixed (R73, R74, R191). -/
structure BarrierWait where
  sweepEnd : Bool
  hall     : Bool
  arrived  : List Nat
  lastTick : Nat
  lastAt   : Nat := 0
  decided  : Bool := false
  forwarded : Bool := false
  release  : Option Nat := none
deriving DecidableEq, Repr

/-- A ring hold: the ring, the tick T, the freeze tick F, the time it was raised, the HOLD_LIMIT that stood then, whether
its expiry was reported, and whether every ring has reached its high-water mark before F (R165 to R167, R427). -/
structure Hold where
  ring     : Nat
  raised   : Nat
  freeze   : Nat
  since    : Nat
  limit    : Nat
  reported : Bool := false
  full     : Bool := false
deriving DecidableEq, Repr

/-- A run in progress: its descriptor, the sweeps asked and taken, the first sweep, the Colophon it owes, and how it
is asked to stop (R306, R307, R302). `stop` is 0 at the next sweep end, 1 at the next barrier; `det` is ARR_MODE.DET as the
run began (R226). -/
structure Job where
  desc     : DescRef
  sweeps   : Nat
  taken    : Nat := 0
  first    : Nat
  going    : Bool := false
  stop     : Option Nat := none
  colophon : Option Nat := none
  sign     : Bool := false
  modelTag : List Byte := []
  wDigest  : List Byte := []
  iDigest  : List Byte := []
  wWritten : Bool := false
  iWritten : Bool := false
  det      : Bool := false
  ended    : Option Nat := none
deriving DecidableEq, Repr

/-- A SET_TABLE waiting for its boundary: its descriptor and the data read at its start (R308). -/
structure TableWrite where
  desc   : DescRef
  kind   : Nat
  slot   : Nat
  index  : Nat
  target : Nat
  data   : List Byte
deriving DecidableEq, Repr

/-- What the module derives from a statistic of a drain record (R124): the record's place in its take, the unit's place in the
record, the count, the mean and the variance. -/
structure StatValue where
  record : Nat
  unit   : Nat
  count  : Nat
  mean   : U64
  var    : U64
deriving DecidableEq, Repr

/-- The LPDDR6 and host drain rings and the records of each window (R184, R186, R312). `staged` is the collect ring whose
record waits in the host ring staging region, with the record's length (R160, log 119), and `stats` what the newest record of
a statistics window gives, by window (R124). -/
structure Drain where
  lHead  : Nat := 64
  lTail  : Nat := 64
  hHead  : Nat := 64
  hTail  : Nat := 64
  seq    : Table Nat := []
  staged : Option (Nat × Nat) := none
  stats  : Table (List StatValue) := []
deriving DecidableEq, Repr

/-- A pool offer waiting: the pool's index, the sweep of the take, its energy record and binary point once known, whether
the staging slot has received bytes of it, and whether all of them (R205, R206). -/
structure PoolOffer where
  pool   : Nat
  sweep  : Nat
  energy : Option (List Byte × Nat) := none
  begun  : Bool := false
  staged : Bool := false
deriving DecidableEq, Repr

/-- A load in progress (R181, R182): its descriptor, the image, the Gatehouse cycle in which it arrived, the repair rounds
run, the run seed of the descriptor and the key drawn for the controller (R200, R214), by core the place in SEGMENTS order up to
which the broadcast has come, the resends of a round that are still to go out (core and segment), whether the broadcast or
round has ended, and the array cycles since. -/
structure Load where
  desc   : DescRef
  image  : List Byte
  since  : Nat := 0
  round  : Nat := 0
  seed   : Option (List Byte)
  key    : Option (List Byte)
  places : Table Nat := []
  resend : List (Nat × Nat) := []
  gone   : Bool := false
  quiet  : Nat := 0
deriving DecidableEq, Repr

/-- The controller's state (R210): best energy (none is +∞), stuck counter, noise index, the noise index that the sweep in progress uses (R197), rung maps, exchange-log
SEQ and the key of R200. -/
structure Control where
  best   : Option (List Byte) := none
  stuck  : Nat := 0
  k      : Nat := 0
  inUse  : Nat := 0
  rungs  : List (List Nat) := []
  seq    : Nat := 0
  key    : Option (List Byte) := none
deriving DecidableEq, Repr

/-- What the Colophons of a partition report (R226, R228). -/
structure ColophonState where
  seq       : Nat := 0
  restored  : Bool := false
  window    : Bool := false
  tables    : Bool := false
  weight    : Option (List Byte) := none
  start     : List Byte := zeros 32
deriving DecidableEq, Repr

/-- One partition controller and its partition (R27, R320). `tick` is the lower of the two copies of a spanning partition and
`lead` the north copy less the south one (R153). `resumeIn` counts the array cycles to the resumption after a
drop (R166) or to a scheduled start (R306). `inTick` says that the present
tick has begun and not ended, and `issued` that the cores have issued its words. `froze` says that the words of the freeze
tick are issued and the tick stands (R165), and `heldAt` is the Gatehouse cycle of the newest fault hold (R366). `resetAt` is the Gatehouse cycle of the partition's last reset (R326).
`restore` is
a restore or refold that waits for its rings, with its DETAIL (R334). -/
structure Partition where
  run        : PartRun := .none
  qrows      : Nat := 0
  qcols      : Nat := 0
  faulted    : Bool := false
  point      : Nat := 0
  tick       : Nat := 0
  lead       : Int := 0
  sweep      : Nat := 0
  epoch      : Nat := 0
  barrier    : Option BarrierWait := none
  hold       : Option Hold := none
  faultHold  : Bool := false
  heldAt     : Option Nat := none
  resetAt    : Option Nat := none
  freezeAt   : Option Nat := none
  froze      : Bool := false
  stopLine   : Bool := false
  stopped    : Bool := false
  resumeIn   : Option Nat := none
  seed       : Option (List Byte) := none
  binding    : Option Binding := none
  rings      : Table RingRun := []
  ctl        : Control := {}
  load       : Option Load := none
  restore    : Option (DescRef × Nat) := none
  job        : Option Job := none
  halts      : List DescRef := []
  drain      : Drain := {}
  tables     : List TableWrite := []
  colo       : ColophonState := {}
  offers     : List PoolOffer := []
  group      : Option GroupId := none
  edgeOut    : List (Edge × Nat × Nat × LinkWord) := []
  inTick     : Bool := false
  issued     : Bool := false
deriving DecidableEq, Repr

/-! ## The edge buffers -/

/-- A distinct read that an edge buffer serves in a cycle, with the word it delivers to every router that asks for it
(R158): the buffer, the granule and the length code. -/
structure EdgeRead where
  buffer  : Nat
  granule : Nat
  len     : Nat
  word    : LinkWord
deriving DecidableEq, Repr

/-- A collect write of a cycle: the buffer, the place, the bytes, and the partition and collect ring that they enter. -/
structure EdgeWrite where
  buffer : Nat
  offset : Nat
  bytes  : List Byte
  ring   : Option (Nat × Nat)
deriving DecidableEq, Repr

/-- What the edge buffers have done on their router side in the present array cycle (R158, R159): the distinct reads
served, the collect writes, which land at the cycle's end, and the buffers that reported a refusal. -/
structure EdgeCycle where
  reads   : List EdgeRead := []
  writes  : List EdgeWrite := []
  refused : List Nat := []
deriving DecidableEq, Repr

/-! ## The host ports -/

/-- Where a fetched descriptor stands. -/
inductive DescPhase where
  | waiting | running | done
deriving DecidableEq, Repr

/-- A fetched descriptor: its 64 bytes, the submission head after its fetch, where it stands, the Gatehouse cycle of its fetch,
the time it started, and whether its completion is discarded because its ring was disabled (R294, R297). -/
structure Desc where
  ref    : DescRef
  bytes  : List Byte
  head   : Nat
  phase  : DescPhase := .waiting
  fetchedAt : Nat := 0
  since  : Nat := 0
  orphan : Bool := false
  expired : Bool := false
deriving DecidableEq, Repr

/-- A ring pair of a host port: the number of descriptors fetched, heads and tails, the completion phase, completions owed
with their IRQ flags, interrupt moderation, and the Gatehouse cycle in which its last descriptor completed (R295 to R301). -/
structure RingPair where
  fetched : Nat := 0
  sqHead  : Nat := 0
  sqTail  : Nat := 0
  cqHead  : Nat := 0
  cqTail  : Nat := 0
  phase   : Bool := true
  owed    : List (List Byte × Bool) := []
  irqs    : Nat := 0
  irqSince : Option Nat := none
  serialEnd : Nat := 0
deriving DecidableEq, Repr

/-- A semaphore: the owner's code (0 free), the end of its lease, and the owner codes whose own lease expired since
their last acquisition (R315 to R317). -/
structure Semaphore where
  owner  : Nat := 0
  leaseEnd : Option Nat := none
  lapsed : List Nat := []
deriving DecidableEq, Repr

/-! ## Faults -/

/-- A fault message with its partition tag (R353, R359) and the Gatehouse cycle in which it entered the queue that it stands in,
which orders the messages of one cycle (R360). -/
structure FaultMsg where
  msg : U64
  tag : Nat
  at_ : Nat
deriving DecidableEq, Repr

/-- The writes to an action entry in a Gatehouse cycle (R364): the cycle, the place of the last taken writer in their order, and
the entry before them. -/
structure ActionWrite where
  at_    : Nat
  rank   : Nat
  before : U64
deriving DecidableEq, Repr

/-- The fault collector's queues: the 64-entry input queue, reporters waiting for room, and the log queue of message,
tag and GTIME (R360, R361, R365); the message last accepted with its Gatehouse cycle and GTIME (R360, R363), and the newest
writes to the action entries (R364). -/
structure Faults where
  accepted : Option (Nat × FaultMsg × U64) := none
  acts    : Table (Option ActionWrite) := []
  queue   : List FaultMsg := []
  waiting : List FaultMsg := []
  log     : List (FaultMsg × U64) := []
deriving DecidableEq, Repr

/-! ## The memory channels -/

/-- One channel (R235, R237, R239 to R249): the arbiter's owner, with the cycles it has had the channel and the time of its
grant; the grant number and the wait ages by line, the line chosen for the coming cycle and whether by age, and the lines raised
at the last look; the owed count, an emergency refresh in progress (its start, and the cycles left), and the end of the last
refresh interval; the scrub's next burst-group and the time of its last read; the time of the last debug access; and by buffer
the deliver ring (partition and ring) whose group its engine has requested; and the training results in force (R250, R251). -/
structure Channel where
  owner   : Option Nat := none
  ownedFor : Nat := 0
  ownedAt : Nat := 0
  chosen  : Option (Nat × Bool) := none
  grants  : Nat := 0
  ages    : Table Nat := []
  raised  : Byte := 0
  owed    : Nat := 0
  emergency : Option (Nat × Nat) := none
  intervalAt : Option Nat := none
  scrub   : Nat := 0
  scrubAt : Option Nat := none
  debugAt : Option Nat := none
  flight  : Table (Option (Nat × Nat)) := []
  training : List Byte := []
deriving DecidableEq, Repr

/-! ## The hall fabric -/

/-- A secure association of a port: its key, association number, suite and next packet number (R260, R398). -/
structure Sa where
  an   : Nat
  xpn  : Bool
  key  : BitVec 256
  pn   : Nat
deriving DecidableEq, Repr

/-- A hall port: whether a stranger was reported since HFB_STRCNT was read (R259), management frames accepted in the
present second (R255), secure associations (R260), when it last sent a frame, the peer its last idle frame went to (R277), and
its queue: thirds of a byte still to send at a time (R263, log 58). -/
structure HallPortState where
  stranger : Bool := false
  mgmt     : Nat := 0
  mgmtSec  : Nat := 0
  tx       : List Sa := []
  rx       : List Sa := []
  lastSent : Nat := 0
  turn     : Nat := 0
  backlog  : Nat := 0
  backAt   : Nat := 0
deriving DecidableEq, Repr

/-- The states of a connection (R262). -/
inductive ConnState where
  | closed | opening | opened | lost
deriving DecidableEq, Repr

/-- A frame to send in sequence: CTRL or DATA, its stream, its payload; once sent, its number and how often it was sent
(R264, R266). `place` is where its payload lies in the hall send staging region, a buffer and an offset, with its length `len`;
`payload` is then empty (R271, log 27). `ports` masks the ports that the ring of its stream reaches (R22). -/
structure TxFrame where
  seq     : Nat := 0
  isCtrl  : Bool
  stream  : Nat := 0
  payload : List Byte
  sends   : Nat := 0
  place   : Option (Nat × Nat) := none
  len     : Nat := 0
  ports   : Nat := 255
deriving DecidableEq, Repr

/-- A sequenced frame received and not yet delivered (R264, R265): a CTRL frame with its messages, or a DATA frame with
its stream, its length and the place of its payload in the receive staging region, a buffer and an offset (R272, log 27). -/
structure RxFrame where
  seq     : Nat
  isCtrl  : Bool
  stream  : Nat
  payload : List Byte := []
  buffer  : Nat := 0
  offset  : Nat := 0
  len     : Nat := 0
deriving DecidableEq, Repr

/-- A connection with a peer (R262 to R268): frames queued and unacknowledged, the peer's window, frames held for order,
the window granted, the retransmission timer, and owed acknowledgements. `expired` is the frame whose timer ran out
last, until its late acknowledgement has come (R268). -/
structure Conn where
  state     : ConnState := .closed
  txSeq     : Nat := 0
  queue     : List TxFrame := []
  unacked   : List TxFrame := []
  peerWin   : Nat := 0
  rxNext    : Nat := 0
  held      : List RxFrame := []
  granted   : Nat := 0
  rto       : Nat := 0
  deadline  : Option Nat := none
  expiries  : Nat := 0
  expired   : Option Nat := none
  heard     : Nat := 0
  delivered : Nat := 0
  firstDel  : Option Nat := none
  outOfOrder : Bool := false
  owedAck   : Bool := false
  barTurn   : Nat := 0
  barDue    : Bool := false
deriving DecidableEq, Repr

/-- A remote stream with a peer: the partition and ring it belongs to (none at a serving side), its kind code (0 PAIR,
1 PUT, 2 GET), whether this module sends, the remote range, bytes moved, bytes acknowledged, the byte count up to which
the sender may send or GET has asked, whether it has stopped, and whether the partition that received it was reset (R270 to R274,
R325). -/
structure Stream where
  peer    : Nat
  id      : Nat
  part    : Option (Nat × Nat)
  kind    : Nat
  send    : Bool
  remote  : Nat
  length  : Nat
  moved   : Nat := 0
  acked   : Nat := 0
  credit  : Nat := 0
  stopped : Bool := false
  ended   : Bool := false
deriving DecidableEq, Repr

/-- An armed barrier group (R275 to R280): its partition, coordinator, participants, present barrier number and
comparator; the devices whose arrival at the present barrier is recorded, the time of the first, whether that barrier is
late, the time of the own partition's arrival, the release time T, whether a timeout was reported, the field that frames repeat, and
by peer the number of fields accepted and the last one. -/
structure BarGroup where
  part     : Nat
  coord    : Nat
  members  : List Nat
  number   : Nat := 0
  cmp      : Nat
  arrived  : List Nat := []
  first    : Option Nat := none
  late     : Bool := false
  own      : Option Nat := none
  release  : Option Nat := none
  timedOut : Bool := false
  field    : Nat := 0
  seen     : Table Nat := []
  last     : Table Nat := []
deriving DecidableEq, Repr

/-- A multicast transfer at its source (R288). -/
structure McastTx where
  desc    : DescRef
  group   : Nat
  dest    : Nat
  object  : List Byte
  members : List Nat
  done    : List Nat := []
  wanted  : List Nat := []
  round   : Nat := 0
  id      : Nat
  pollAt  : Nat
  polled  : Bool := false
deriving DecidableEq, Repr

/-- A multicast transfer at a receiver: its source, its id, the frames received, the last frame's index (R287). -/
structure McastRx where
  source : Nat
  id     : Nat
  got    : List Nat
  last   : Option Nat := none
deriving DecidableEq, Repr

/-- A frame that passed the receive checks and waits for the command of its type (R258). -/
structure Accepted where
  port : HallPort
  hdr  : List Byte
  body : List Byte
deriving DecidableEq, Repr

/-- A control message taken from a CTRL frame, with its sender (R269). -/
structure CtrlMsg where
  peer  : Nat
  bytes : List Byte
deriving DecidableEq, Repr

/-- A barrier field to act on, with its sender (R276). -/
structure BarMsg where
  peer   : Nat
  field  : Nat
deriving DecidableEq, Repr

/-- A secure association that waits for the entropy of its key agreement (R349, R398): its port, its direction and itself. -/
structure Rekey where
  port     : HallPort
  transmit : Bool
  sa       : Sa
deriving DecidableEq, Repr

/-- The hall transport. `stamps` are the timestamps of PTP event messages, oldest first: the port, whether the message was
sent, and the corrected time in units of 0.25 ns (R282). -/
structure Hall where
  ports    : Table HallPortState := []
  conns    : Table Conn := []
  streams  : List Stream := []
  groups   : Table (Option BarGroup) := []
  frames   : List Accepted := []
  msgs     : List CtrlMsg := []
  bars     : List BarMsg := []
  mtx      : List McastTx := []
  mtxNext  : Nat := 0
  mrx      : Table (Option McastRx) := []
  mgmtIn   : List (HallPort × Frame) := []
  stamps   : List (HallPort × Bool × Int) := []
  keying   : List Rekey := []
  wire     : List (HallPort × Frame) := []
deriving DecidableEq, Repr

/-! ## Entropy -/

/-- The states of the entropy source. -/
inductive EntState where
  | off | startup | normal | recovery | limit | fatal
deriving DecidableEq, Repr

/-- A noise source: whether it runs, samples seen in start-up, the repetition run, the adaptive window, whether it is
healthy (R338 to R342). -/
structure NoiseSource where
  running : Bool := false
  seen    : Nat := 0
  last    : Option Bool := none
  runLen  : Nat := 0
  winPos  : Nat := 0
  winBit  : Bool := false
  winHits : Nat := 0
  healthy : Bool := false
deriving DecidableEq, Repr

/-- The entropy source, its conditioner and expander (R343 to R352), and the lane seeding that draws on it. `taker` is the
consumer whose turn it was last among lane seeding, port A and port B, and `taken` the bytes of that turn (R349). -/
structure Entropy where
  state   : EntState := .off
  cause   : Nat := 0
  sources : Table NoiseSource := []
  block   : List Bool := []
  seeds   : List (List Byte) := []
  key     : Option (List Byte) := none
  count   : Nat := 0
  reseeds : Nat := 0
  out     : List Byte := []
  fails   : List Nat := []
  seedNext : Nat := 0
  seeding : Bool := false
  seeded  : Bool := false
  failedSeed : Bool := false
  taker   : Nat := 0
  taken   : Nat := 0
deriving DecidableEq, Repr

/-! ## Bring-up, the Gatehouse, power -/

/-- What fuses hold: identity, the firmware key digest, the anti-rollback counter, the units marked bad (R371), the voltage code
of each AVS rail (R397), the key-wrapping key, whether an attestation key was provisioned (R393), and whether the calibration set
is still the factory's (CFG_STATUS.CAL_FACTORY). -/
structure Fuses where
  vendor    : U16 := 0
  serial    : BitVec 40 := 0
  keyDigest : List Byte := zeros 32
  rollback  : Nat := 0
  sources   : Byte := 0xFF
  macs      : List (BitVec 48) := List.replicate 8 0
  badCores  : List Nat := []
  badLinks  : List (Nat × Dir) := []
  badHall   : List HallPort := []
  badChans  : List ChanId := []
  badLoadSegs : List Nat := []
  badQuires : List QuireId := []
  badRouters : List (Edge × Nat) := []
  badBuffers : List Edge := []
  badHost   : List Port := []
  volt      : List Byte := []
  wrapKey   : BitVec 256 := 0
  attest    : Bool := false
  calFactory : Bool := true
deriving DecidableEq, Repr

/-- A start that has not yet published GEN_CAPS: when module reset was released, the least milliseconds that its tests take, and
whether it takes the warm path (R369, R377). -/
structure Start where
  since : Nat
  ms    : Nat
  warm  : Bool
deriving DecidableEq, Repr

/-- Bring-up (R368 to R384): publication, supplies, resets and what the last start found: the unusable cores and the quires
retired whatever the remap, the calibration set in force (empty: nominal values), the equalisation of the links, the usable ports,
and the entries that the configuration store takes after publication. -/
structure Boot where
  published   : Bool := false
  start       : Option Start := none
  bad         : List Nat := []
  gone        : List Nat := []
  trims       : List Byte := []
  eq          : List Byte := []
  hostPorts   : List Nat := []
  toStore     : List (Nat × List Byte) := []
  bootRom     : Bool := false
  supplies    : Bool := true
  cold        : Bool := true
  memKept     : Bool := false
  inReset     : Bool := true
  pgAt        : Option Nat := none
  sag         : Bool := false
  retired     : List Nat := []
  skips       : Table (List Nat) := []
  badSides    : List Bool := []
  hallPorts   : List Nat := []
  bar4        : Bool := false
deriving DecidableEq, Repr

/-- A mailbox or network command waiting in the Gatehouse's queue, with a datagram's request SEQ and data (R391, R399,
R400), and the Gatehouse cycle of its arrival. -/
structure MgtCmd where
  src    : MgtSource
  opcode : Nat
  irq    : Bool
  vector : Nat
  args   : List U64
  seq    : Nat := 0
  bytes  : List Byte := []
  at_    : Nat := 0
deriving DecidableEq, Repr

/-- What a flash write writes: a configuration copy with its SEQ, the calibration set, or a firmware slot (R380, R382, R389). -/
inductive FlashGoal where
  | store (copy seq : Nat) | calibration | slot (k : Nat)
deriving DecidableEq, Repr

/-- A flash write in progress (R380, R381, R389): what it writes, the command that asked for it, its place, its bytes, how many
are programmed, and when the page in progress is complete. -/
structure FlashJob where
  goal   : FlashGoal
  cmd    : Option MgtCmd
  place  : Nat
  image  : List Byte
  next   : Nat := 0
  pageAt : Nat
deriving DecidableEq, Repr

/-- A signing job: what is signed, where it lies, and the run, the ATTEST command or the SPDM request that waits for it (R229,
R394, R400). -/
structure SignJob where
  message : List Byte
  dest    : Nat
  run     : Option (Nat × DescRef)
  cmd     : Option MgtCmd
  spdm    : Option (List Byte) := none
deriving DecidableEq, Repr

/-- The Gatehouse (R385 to R400). `logSeq` is the SEQ of the next log entry, `lastStart` the start count of the newest
bring-up entry in the log, `sensors` each sensor's samples of the last second, newest first, and `gram` the datagram
command whose data is still arriving. `job` is the flash write in progress; `sram` its SRAM, with the 64-bit words of it whose
code fails (1 correctable, 2 not), and `halted` whether an uncorrectable one has halted the processor (R385); `smbAddr` and `cak`
are what the settings entry gave at the start (R398, R400). -/
structure Gatehouse where
  queue     : List MgtCmd := []
  job       : Option FlashJob := none
  sram      : Table Byte := []
  sramErr   : Table Nat := []
  halted    : Bool := false
  smbAddr   : Nat := 0x4C
  cak       : List Byte := []
  sign      : List SignJob := []
  slot      : Nat := 0
  debugOpen : Bool := false
  wdtAt     : Nat := 0
  logSeq    : Nat := 0
  lastStart : Nat := 0
  sensors   : Table (List Int) := []
  gram      : Option MgtCmd := none
  mctpOut   : List (List Byte) := []
  ethOut    : List (List Byte) := []
deriving DecidableEq, Repr

/-- The power states of the module. -/
inductive PowerState where
  | s0 | s1 | s2 | s3
deriving DecidableEq, Repr

/-- A power-state request in its handshake (R404): its target, and the blocks still deferring with their DEFER answers. -/
structure PowerRequest where
  target   : Nat
  deferred : List (Nat × Nat) := []
deriving DecidableEq, Repr

/-- Power, clocks and thermal control (R401 to R420). Clocks are in MHz. `waking` is when the wake event was latched of a wake
in progress (R408), `level` the level-type sources present at the pins (R406), and `rails` the voltages written to the regulators,
in mV (R397). `windowAt` is the start of the governor's window (R413), and `stepN` and `stepS` when the thermal limits were last
looked at (R417). -/
structure Power where
  state    : PowerState := .s0
  waking   : Option (Nat × WakeSource) := none
  level    : List WakeSource := []
  rails    : Table Nat := []
  request  : Option PowerRequest := none
  entry    : Option (Nat × Nat) := none
  heldWake : Option WakeSource := none
  gov      : Nat := 1200
  thN      : Nat := 1200
  thS      : Nat := 1200
  lastStep : Option Nat := none
  coolN    : Nat := 0
  coolS    : Nat := 0
  windowAt : Nat := 0
  stepN    : Option Nat := none
  stepS    : Option Nat := none
  tripped  : Bool := false
  warned   : List Nat := []
  temps    : Table Int := []
  pulses   : Nat := 0
deriving DecidableEq, Repr

/-! ## The whole module -/

/-- What the module's own events have done to a register unit within the present cycle (R11): the unit as it stood before
them, and the events alone, as they would stand in a unit of zeros. -/
structure RegNow where
  before : U64
  fresh  : U64 := 0
deriving DecidableEq, Repr

/-- The state of the module. Memories list what differs from zero (flash: from 0xFF). `msix` are the interrupt messages sent,
`msixTable` the MSI-X tables of the ports, 4 KiB each from port A's on, and `msixHeld` the bits set in their pending-bit arrays
(R292, log 126). `pending` is the queue of commands that wait, first in first out. -/
structure State where
  clk      : Clocks := {}
  regs     : Table U64 := []
  now      : Table (Option RegNow) := []
  readData : U64 := 0
  readBytes : List Byte := []
  mem      : Table Byte := []
  carry    : Table Byte := []
  sramErr  : Table Nat := []
  dramErr  : Table Nat := []
  hostA    : Table Byte := []
  hostB    : Table Byte := []
  flash    : Table Byte := []
  fuse     : Fuses := {}
  boot     : Boot := {}
  cores    : Table CoreState := []
  lanes    : Table LaneGen := []
  parts    : Table Partition := []
  chans    : Table Channel := []
  edge     : EdgeCycle := {}
  hall     : Hall := {}
  rings    : Table RingPair := []
  descs    : List Desc := []
  sems     : Table Semaphore := []
  ent      : Entropy := {}
  flt      : Faults := {}
  mgt      : Gatehouse := {}
  pwr      : Power := {}
  msix     : List (Port × Nat) := []
  msixTable : Table Byte := []
  msixHeld : List (Port × Nat) := []
  pending  : List Instr := []
deriving DecidableEq, Repr

/-- The module right after reset: nothing is listed in any memory, every register holds its reset value, no partition
exists, and no command waits (R368, R370, R376). -/
def State.reset : State := {}

/-- The machine has no fault: no command of the manual stops the module (a block fails by changing its state). -/
inductive Fault where
deriving DecidableEq, Repr

/-- Why a command has no meaning. -/
inductive Refusal where
  /-- Raised by `exec` for a command whose meaning is not written yet, with its mnemonic. Safe: the model stops where
  the hardware goes on. -/
  | notModelled (mnemonic : String)
deriving DecidableEq, Repr

end Sys2Proof.Machine
end

