-- ==== Sys2Proof/Machine/Ops.lean ====
section
/-! DEFINITION. The named operations over registers, memories, cores, partitions and fault messages that the meanings
of the commands share. -/

namespace Sys2Proof

/-- The code of a link in fault addresses and in the link slot (R79, R355). -/
def Dir.code : Dir → Nat
  | .n => 0 | .e => 1 | .s => 2 | .w => 3

/-- The link with a code. -/
def Dir.ofCode (k : Nat) : Dir := if k % 4 = 0 then .n else if k % 4 = 1 then .e else if k % 4 = 2 then .s else .w

/-- The link at the other end. -/
def Dir.opposite : Dir → Dir
  | .n => .s | .e => .w | .s => .n | .w => .e

/-- The code of an edge and its buffer (R163). -/
def Edge.code : Edge → Nat
  | .n => 0 | .s => 1 | .w => 2 | .e => 3

/-- The edge with a code. -/
def Edge.ofCode (k : Nat) : Edge := if k % 4 = 0 then .n else if k % 4 = 1 then .s else if k % 4 = 2 then .w else .e

/-- The link of the attached core that faces an edge. -/
def Edge.dir : Edge → Dir
  | .n => .n | .s => .s | .w => .w | .e => .e

/-- The number of a port. -/
def Port.num : Port → Nat
  | .a => 0 | .b => 1

end Sys2Proof

namespace Sys2Proof.Machine

/-- The outcome of a command. -/
abbrev Out := Host.Outcome State Fault Refusal

/-! ## Registers -/

/-- The stored word of the 8 B register unit at an offset. -/
def State.reg (s : State) (off : Nat) : U64 := Table.look regReset s.regs off

/-- The state with a register unit stored. -/
def State.setReg (s : State) (off : Nat) (v : U64) : State := { s with regs := Table.put regReset s.regs off v }

/-- A field of a register. -/
def State.rf (s : State) (off hi lo : Nat) : Nat := fld (s.reg off) hi lo

/-- The state with a field of a register stored. -/
def State.setRf (s : State) (off hi lo v : Nat) : State := s.setReg off (setFld (s.reg off) hi lo v)

/-- The number of the present Gatehouse cycle, 1.25 ns (R7). -/
def Clocks.mc (c : Clocks) : Nat := c.wall * 2 / 3

/-- The number of the present Gatehouse cycle, 1.25 ns (R7). -/
def State.mc (s : State) : Nat := s.clk.mc

/-- What the module's events have done to a unit in the present Gatehouse cycle (R11, log 103). -/
def State.regNow (s : State) (off : Nat) : RegNow := (Table.look (fun _ => none) s.now off).getD ⟨s.reg off, 0⟩

/-- The record of a cycle with a field of its events set. -/
def State.noteEvent (s : State) (off hi lo v : Nat) : State :=
  let e := s.regNow off
  { s with now := Table.put (fun _ => none) s.now off (some ⟨e.before, setFld e.fresh hi lo v⟩) }

/-- The module sets a field by an event of its own: a w1c bit, or an rc value (R11). -/
def State.raise (s : State) (off hi lo v : Nat) : State := (s.noteEvent off hi lo v).setRf off hi lo v

/-- The state with a counter field raised, saturating at the field's largest value. -/
def State.count (s : State) (off hi lo n : Nat) : State :=
  let top := 2 ^ (hi + 1 - lo) - 1
  (s.noteEvent off hi lo (satAdd top (fld (s.regNow off).fresh hi lo) n)).setRf off hi lo (satAdd top (s.rf off hi lo) n)

/-- The state with a field that keeps the largest value since its last read brought up to a value. -/
def State.peak (s : State) (off hi lo v : Nat) : State :=
  (s.noteEvent off hi lo (max v (fld (s.regNow off).fresh hi lo))).setRf off hi lo (max v (s.rf off hi lo))

/-- Whether the module runs in deterministic mode (R211). -/
def State.det (s : State) : Bool := s.rf Reg.arrMode 0 0 == 1

/-! ## Units of the state -/

/-- Core n. -/
def State.core (s : State) (n : Nat) : CoreState := Table.look (fun _ => {}) s.cores n

/-- The state with core n replaced. -/
def State.setCore (s : State) (n : Nat) (c : CoreState) : State :=
  { s with cores := Table.put (fun _ => {}) s.cores n c }

/-- The state with core n changed. -/
def State.updCore (s : State) (n : Nat) (f : CoreState → CoreState) : State := s.setCore n (f (s.core n))

/-- Partition controller q. -/
def State.part (s : State) (q : Nat) : Partition := Table.look (fun _ => {}) s.parts q

/-- The state with partition controller q replaced. -/
def State.setPart (s : State) (q : Nat) (p : Partition) : State :=
  { s with parts := Table.put (fun _ => {}) s.parts q p }

/-- The state with partition controller q changed. -/
def State.updPart (s : State) (q : Nat) (f : Partition → Partition) : State := s.setPart q (f (s.part q))

/-- Channel c. -/
def State.chan (s : State) (c : Nat) : Channel := Table.look (fun _ => {}) s.chans c

/-- The state with channel c changed. -/
def State.updChan (s : State) (c : Nat) (f : Channel → Channel) : State :=
  { s with chans := Table.put (fun _ => {}) s.chans c (f (s.chan c)) }

/-- Controller cycles of an all-bank refresh, 280 ns (R247). -/
abbrev refreshCycles : Nat := 448

/-- An emergency refresh after some cycles: done, it lowers the owed count by one (R248). The channel, and the cycles that are
left for its owner. A refresh also ends with its 280 ns, 336 units of `wall`. -/
def Channel.runEmergency (c : Channel) (elapsed wall : Nat) : Channel × Nat :=
  match c.emergency with
  | none => (c, elapsed)
  | some (t, left) =>
    if left ≤ elapsed ∨ t + 336 ≤ wall then ({ c with emergency := none, owed := c.owed - 1 }, elapsed - left)
    else ({ c with emergency := some (t, left - elapsed) }, 0)

/-- The owner of a channel after some cycles, a burst-group taking `group` of them: line 7 drops its request after its
refresh, which lowers the owed count, and any other line at the burst-group's end (R239, R240, R247). The channel, and the line
that has dropped. -/
def Channel.runOwner (c : Channel) (group cycles wall : Nat) : Channel × Option Nat :=
  match c.owner with
  | none => (c, none)
  | some o =>
    let n := c.ownedFor + cycles
    if o = 7 then
      if refreshCycles ≤ n ∨ c.ownedAt + 336 ≤ wall then
        ({ c with owner := none, ownedFor := 0, owed := c.owed - 1 }, some o)
      else ({ c with ownedFor := n }, none)
    else if group ≤ n then ({ c with owner := none, ownedFor := 0 }, some o)
    else ({ c with ownedFor := n }, none)

/-- The channel after some cycles, with the line that drops its request in this one. -/
def Channel.run (c : Channel) (group elapsed wall : Nat) : Channel × Option Nat :=
  (c.runEmergency elapsed wall).1.runOwner group (c.runEmergency elapsed wall).2 wall

/-- The owed count as the refreshes that have ended leave it (R247, R248). -/
def Channel.owedNow (c : Channel) (wall : Nat) : Nat := (c.run 1 0 wall).1.owed

/-- Semaphore n. -/
def State.sem (s : State) (n : Nat) : Semaphore := Table.look (fun _ => {}) s.sems n

/-- The state with semaphore n replaced. -/
def State.setSem (s : State) (n : Nat) (x : Semaphore) : State :=
  { s with sems := Table.put (fun _ => {}) s.sems n x }

/-! ## Geometry (R13, R20, R320) -/

/-- The core whose window an address lies in, and the offset in it (R24, R25). -/
def windowOf (a : Nat) : Nat × Nat := ((a - 0x4000000000) / 0x40000, (a - 0x4000000000) % 0x40000)

/-- The quire of a core. -/
def quireOf (n : Nat) : Nat := n / 128 / 8 * 8 + n % 128 / 16

/-- Whether partition q exists. -/
def Partition.exists_ (p : Partition) : Bool := p.run != .none

/-- The quires of the rectangle at q. -/
def rectQuires (q rows cols : Nat) : List Nat :=
  (List.range rows).flatMap (fun i => (List.range cols).map (fun j => q + 8 * i + j))

/-- Whether a quire lies in the rectangle at q. -/
def inRect (q rows cols x : Nat) : Bool :=
  q / 8 ≤ x / 8 && x / 8 < q / 8 + rows && q % 8 ≤ x % 8 && x % 8 < q % 8 + cols

/-- The partitions that exist, by controller number. -/
def State.partIds (s : State) : List Nat := (s.parts.filter (fun e => e.2.exists_)).map Prod.fst

/-- The partition that holds a quire, if any. -/
def State.partOfQuire (s : State) (x : Nat) : Option Nat :=
  (s.parts.find? (fun e => e.2.exists_ && inRect e.1 e.2.qrows e.2.qcols x)).map Prod.fst

/-- The partition that holds a core, if any. -/
def State.partOfCore (s : State) (n : Nat) : Option Nat := s.partOfQuire (quireOf n)

/-- The cores of partition q in partition-relative index order (R174). -/
def State.partCores (s : State) (q : Nat) : List Nat :=
  let p := s.part q
  (List.range (8 * p.qrows)).flatMap (fun i =>
    (List.range (16 * p.qcols)).map (fun j => (q / 8 * 8 + i) * 128 + q % 8 * 16 + j))

/-- The cores of a quire. -/
def quireCores (x : Nat) : List Nat :=
  (List.range 8).flatMap (fun i => (List.range 16).map (fun j => (x / 8 * 8 + i) * 128 + x % 8 * 16 + j))

/-- The half a core lies in. -/
def halfOfCore (n : Nat) : Half := if n / 128 < 48 then .north else .south

/-- Whether a partition spans the Gutter (R29). -/
def Partition.spans (p : Partition) (q : Nat) : Bool := q / 8 < 6 && 6 < q / 8 + p.qrows

/-- The logical neighbour of a core on a link; none off the array. -/
def neighbour (n : Nat) : Dir → Option Nat
  | .n => if n / 128 = 0 then none else some (n - 128)
  | .s => if n / 128 = 95 then none else some (n + 128)
  | .w => if n % 128 = 0 then none else some (n - 1)
  | .e => if n % 128 = 127 then none else some (n + 1)

/-- The core an edge router attaches to (R22, R156). -/
def routerCore (edge : Edge) (r : Nat) : Nat :=
  match edge with
  | .n => r
  | .s => 95 * 128 + r
  | .w => r * 128
  | .e => r * 128 + 127

/-- The edge router that serves a core's link off the array, if one does (R81). -/
def routerOf (n : Nat) : Dir → Option (Edge × Nat)
  | .n => if n / 128 = 0 then some (.n, n % 128) else none
  | .s => if n / 128 = 95 then some (.s, n % 128) else none
  | .w => if n % 128 = 0 then some (.w, n / 128) else none
  | .e => if n % 128 = 127 then some (.e, n / 128) else none

/-- Ticks from send to landing between two neighbours (R149). -/
def linkTicks (a b : Nat) : Nat := if halfOfCore a = halfOfCore b then 2 else 6

/-! ## Time -/

/-- Whether a tick of a partition is the present one of a core's partition: the tick, 0 outside a partition. -/
def State.tickOf (s : State) (n : Nat) : Nat :=
  match s.partOfCore n with
  | some q => (s.part q).tick
  | none => 0

/-- The GTIME nanosecond count. -/
def State.gtime (s : State) : Nat := s.clk.gtimeNs.toNat

/-- Microseconds in units of `wall` (log 1). -/
abbrev usec (n : Nat) : Nat := n * 1200

/-! ## Fault messages (R353 to R361) -/

/-- The class of a kind: 0 CORRECTED, 1 DEFERRED, 2 CONTAINED, 3 FATAL; none for an encoding that is not a kind
(R355). -/
def kindClass (k : Nat) : Option Nat :=
  if k ∈ [0x00, 0x10, 0x50, 0x60, 0x70, 0x72, 0xA0, 0xA1] then some 0
  else if k ∈ [0x30, 0x31, 0x40, 0x41, 0x80] then some 1
  else if k ∈ [0x11, 0x20, 0x21, 0x22, 0x32, 0x51, 0x61, 0x71, 0x73, 0x90] then some 2
  else if k ∈ [0x81, 0xB0] then some 3
  else none

/-- The source field of a block: its class and instance (R354). -/
def blockSrc (cls inst : Nat) : Nat := 0x4000 + cls * 256 + inst

/-- A fault message (R353). -/
def faultMsg (src kind addr : Nat) : U64 :=
  BitVec.ofNat 64 (src % 65536 * 2 ^ 48 + kind % 256 * 2 ^ 40 + addr % 2 ^ 40)

/-- The class of a message. -/
def FaultMsg.cls (m : FaultMsg) : Nat := (kindClass (fld m.msg 47 40)).getD 0

/-- Whether a message stands before another of the same cycle (R360). -/
def FaultMsg.before (a b : FaultMsg) : Bool :=
  a.at_ == b.at_ && (b.cls < a.cls || (a.cls == b.cls && fld a.msg 63 48 < fld b.msg 63 48))

/-- A message put in its place in a queue: behind earlier cycles, and within its own cycle by R360. -/
def placeMsg (m : FaultMsg) : List FaultMsg → List FaultMsg
  | [] => [m]
  | x :: xs => if m.before x then m :: x :: xs else x :: placeMsg m xs

/-- Whether a waiting reporter goes before another: by class and source (R360, log 31). -/
def FaultMsg.ahead (a b : FaultMsg) : Bool :=
  b.cls < a.cls || (a.cls == b.cls && fld a.msg 63 48 < fld b.msg 63 48)

/-- A reporter put in its place among those that wait. -/
def placeWaiting (m : FaultMsg) : List FaultMsg → List FaultMsg
  | [] => [m]
  | x :: xs => if m.ahead x then m :: x :: xs else x :: placeWaiting m xs

/-- A message that finds no room: a CORRECTED one is dropped and counted, a reporter of another class waits (R361). -/
def State.noRoom (s : State) (m : FaultMsg) : State :=
  if m.cls = 0 then s.count Reg.fltStat 15 0 1
  else { s with flt := { s.flt with waiting := placeWaiting m s.flt.waiting } }

/-- A message enters the input queue at its place (R360); of the messages of one cycle those that stand last find no room when
64 are there (R361). -/
def State.enterQueue (s : State) (m : FaultMsg) : State :=
  let l := placeMsg m s.flt.queue
  let s := { s with flt := { s.flt with queue := l.take 64 } }
  (l.drop 64).foldl State.noRoom s

/-- A block reports a fault, with its partition tag (R359 to R361). -/
def State.report (s : State) (src kind addr tag : Nat) : State := s.enterQueue ⟨faultMsg src kind addr, tag, s.mc⟩

/-- The partition tag of a core's message (R359): 127 for none. -/
def State.coreTag (s : State) (n : Nat) : Nat := (s.partOfCore n).getD 127

/-! ## Local memory (R24, R25, R62, R64) -/

/-- The local address of a core's window. -/
abbrev coreBase (n : Nat) : Nat := 0x4000000000 + n * 0x40000
/-- The local address of a tile granule. -/
abbrev tileAt (n g : Nat) : Nat := coreBase n + g * 8
/-- The local address of a table entry. -/
abbrev tableAt (n slot i : Nat) : Nat := coreBase n + 0x1E000 + slot * 2048 + 2 * i
/-- The local address of an accumulator entry. -/
abbrev entryAt (n e : Nat) : Nat := coreBase n + 0x20000 + e * 8
/-- The local address of a Leaf word. -/
abbrev leafAt (n w : Nat) : Nat := coreBase n + 0x24000 + w * 16
/-- The local address of an edge buffer. -/
abbrev bufferBase (b : Nat) : Nat := 0x4100000000 + b * 0x1000000
/-- The local address of the register space. -/
abbrev regBase : Nat := 0x4200000000
/-- The bytes of LPDDR6. -/
abbrev dramBytes : Nat := 0x3000000000

/-- What an unlisted byte of a memory reads as (log 5). -/
def zeroByte : Nat → Byte := fun _ => 0

/-- The bytes at a local address. -/
def State.rd (s : State) (a n : Nat) : List Byte := Table.span zeroByte s.mem a n

/-- The little-endian number at a local address. -/
def State.rdN (s : State) (a n : Nat) : Nat := leNat (s.rd a n)

/-- The state with bytes written at a local address. -/
def State.wr (s : State) (a : Nat) (bs : List Byte) : State := { s with mem := Table.putSpan zeroByte s.mem a bs }

/-- The error mark of a granule: 0 good, 1 single-bit error, 2 double-bit error (log 11). -/
def State.granuleErr (s : State) (a : Nat) : Nat := Table.look (fun _ => 0) s.sramErr (a / 8)

/-- The granule addresses an access covers. -/
def granules (a n : Nat) : List Nat :=
  if n = 0 then [] else (List.range ((a + n - 1) / 8 - a / 8 + 1)).map (fun i => a / 8 + i)

/-- The state with fresh codes for some granules. -/
def State.clearGranules (s : State) (gs : List Nat) : State :=
  { s with sramErr := gs.foldl (fun t g => Table.erase t g) s.sramErr }

/-- Whether an access meets a double-bit error. -/
def State.sramUe (s : State) (a n : Nat) : Option Nat :=
  (granules a n).find? (fun g => Table.look (fun _ => 0) s.sramErr g == 2)

/-- The granules of an access that a read corrects. -/
def State.sramCe (s : State) (a n : Nat) : List Nat :=
  (granules a n).filter (fun g => Table.look (fun _ => 0) s.sramErr g == 1)

/-- SRAM_CE reports for the corrected granules of a core's window (R64). -/
def State.reportCe (s : State) (n : Nat) (gs : List Nat) : State :=
  gs.foldl (fun t g => t.report n 0x10 (g * 8 - coreBase n) (s.coreTag n)) s

/-- A write to a core's SRAM in whole granules, or a read-modify-write where a granule is covered in part (R64). A
read-modify-write that meets a double-bit error writes nothing and reports SRAM_UE. -/
def State.wrSram (s : State) (n a : Nat) (bs : List Byte) : State :=
  let len := bs.length
  let parts := (granules a len).filter (fun g => g * 8 < a || a + len < g * 8 + 8)
  match parts.find? (fun g => Table.look (fun _ => 0) s.sramErr g == 2) with
  | some g => s.report n 0x11 (g * 8 - coreBase n) (s.coreTag n)
  | none =>
    let ces := parts.filter (fun g => Table.look (fun _ => 0) s.sramErr g == 1)
    ((s.reportCe n ces).wr a bs).clearGranules (granules a len)

/-! ## LPDDR6 (R231 to R234) -/

/-- The channel of an LPDDR6 address (R231). -/
def chanOf (a : Nat) : Nat :=
  let side := if 0x1800000000 ≤ a then 1 else 0
  side * 24 + (a - side * 0x1800000000) / 4096 % 24

/-- The offset of an LPDDR6 address within its channel (R231). -/
def chanOffset (a : Nat) : Nat :=
  let side := if 0x1800000000 ≤ a then 1 else 0
  let t := a - side * 0x1800000000
  t / 4096 / 24 * 4096 + t % 4096

/-- The LPDDR6 address of an offset in a channel. -/
def chanAddr (ch off : Nat) : Nat := ch / 24 * 0x1800000000 + (off / 4096 * 24 + ch % 24) * 4096 + off % 4096

/-- Whether a side's LPDDR6 answers: false after a failed channel (R250). -/
def State.sideUp (s : State) (a : Nat) : Bool := !(s.boot.badSides.getD (if 0x1800000000 ≤ a then 1 else 0) false)

/-- Whether a range lies wholly in LPDDR6 that answers. -/
def State.inDram (s : State) (a n : Nat) : Bool :=
  a + n ≤ dramBytes && s.sideUp a && (n == 0 || s.sideUp (a + n - 1))

/-- The 64 B accesses a range covers, by number. -/
def accesses (a n : Nat) : List Nat :=
  if n = 0 then [] else (List.range ((a + n - 1) / 64 - a / 64 + 1)).map (fun i => a / 64 + i)

/-- The error mark of a 64 B access: 0 good, 1 correctable, 2 uncorrectable (log 11). -/
def State.accessErr (s : State) (k : Nat) : Nat := Table.look (fun _ => 0) s.dramErr k

/-- The first uncorrectable access of a range. -/
def State.dramUe (s : State) (a n : Nat) : Option Nat :=
  (s.dramErr.find? (fun e => e.2 == 2 && a / 64 ≤ e.1 && decide (0 < n) && e.1 ≤ (a + n - 1) / 64)).map Prod.fst

/-- A correctable access is read: DRAM_CE and its count (R232). -/
def State.dramCeAt (s : State) (tag k : Nat) : State :=
  let ch := chanOf (k * 64)
  (s.count (Reg.memEccstat ch) 23 0 1).report (blockSrc 2 ch) 0x60 (k * 64) tag

/-- An uncorrectable access is read: DRAM_UE and its count (R232). -/
def State.dramUeAt (s : State) (tag k : Nat) : State :=
  let ch := chanOf (k * 64)
  (s.count (Reg.memEccstat ch) 39 24 1).report (blockSrc 2 ch) 0x61 (k * 64) tag

/-- The reports of a read of LPDDR6: a DRAM_CE for each corrected access up to the first uncorrectable one, and that
one's DRAM_UE. -/
def State.dramRead (s : State) (tag a n : Nat) : State :=
  let stop := s.dramUe a n
  let ces := s.dramErr.filter (fun e => e.2 == 1 && a / 64 ≤ e.1 && decide (0 < n) && e.1 ≤ (a + n - 1) / 64
    && (match stop with | some k => decide (e.1 < k) | none => true))
  let s := ces.foldl (fun t e => t.dramCeAt tag e.1) s
  match stop with
  | some k => s.dramUeAt tag k
  | none => s

/-- Whether two ranges of addresses meet. -/
def meets (a n b m : Nat) : Bool := a < b + m && b < a + n && 0 < n && 0 < m

/-- A partition takes note of a write to LPDDR6 (R225, R226, R228): to a weight range it voids the cached weight digest,
and it marks the run in progress. -/
def Partition.noteWrite (p : Partition) (a n : Nat) : Partition :=
  match p.binding with
  | none => p
  | some b =>
    let hit (w : Bool) := b.ranges.any (fun r => r.weight == w && meets a n r.addr r.len)
    { p with
      colo := if hit true then { p.colo with weight := none } else p.colo
      job := p.job.map (fun j => if j.ended.isSome then j else
        { j with wWritten := j.wWritten || hit true, iWritten := j.iWritten || hit false }) }

/-- Every partition takes note of a write. -/
def State.noteWrite (s : State) (a n : Nat) : State :=
  { s with parts := s.parts.map (fun e => (e.1, e.2.noteWrite a n)) }

/-- A write to LPDDR6 (R233): whole accesses take a fresh code; a part of an access is a read-modify-write, which
writes nothing and reports DRAM_UE when its read fails. -/
def State.wrDram (s : State) (tag a : Nat) (bs : List Byte) : State :=
  let n := bs.length
  let s := s.noteWrite a n
  let parts := (accesses a n).filter (fun k => k * 64 < a || a + n < k * 64 + 64)
  let bad := parts.filter (fun k => s.accessErr k == 2)
  let ces := parts.filter (fun k => s.accessErr k == 1)
  let s := ces.foldl (fun t k => t.dramCeAt tag k) s
  let s := bad.foldl (fun t k => t.dramUeAt tag k) s
  let s := { s with dramErr := s.dramErr.filter (fun e => e.1 ∈ bad || e.1 < a / 64 || decide (n = 0)
    || (a + n - 1) / 64 < e.1) }
  if bad.isEmpty then s.wr a bs
  else (accesses a n).foldl (fun t k =>
    if k ∈ bad then t
    else
      let lo := max a (k * 64)
      let hi := min (a + n) (k * 64 + 64)
      t.wr lo (slice bs (lo - a) (hi - lo))) s

/-! ## The local address map (R24) -/

/-- What a local address reaches. -/
inductive Place where
  | dram
  | core (n off : Nat)
  | buffer (b off : Nat)
  | reg (off : Nat)
  | nowhere
deriving DecidableEq, Repr

/-- The place of a local address (R24, R25, R250): reserved parts are nowhere. -/
def State.place (s : State) (a : Nat) : Place :=
  if a < dramBytes then if s.sideUp a then .dram else .nowhere
  else if 0x4000000000 ≤ a ∧ a < 0x40C0000000 then
    if (a - 0x4000000000) % 0x40000 < 0x28000 then .core ((a - 0x4000000000) / 0x40000) ((a - 0x4000000000) % 0x40000)
    else .nowhere
  else if 0x4100000000 ≤ a ∧ a < 0x4104000000 then .buffer ((a - 0x4100000000) / 0x1000000) ((a - 0x4100000000) % 0x1000000)
  else if regBase ≤ a ∧ a < regBase + 0x2000000 then .reg (a - regBase)
  else .nowhere

/-! ## Completions and interrupts -/

/-- Whether the entry of a vector in a port's MSI-X table is masked: bit 0 of its vector control (R292, log 126). -/
def State.vectorMasked (s : State) (p : Port) (v : Nat) : Bool :=
  ((Table.look zeroByte s.msixTable (p.num * 4096 + 16 * v + 12)).toNat).testBit 0

/-- MSI-X vector of a port sent, when the port's link is up; a masked one is held in the pending-bit array. -/
def State.interrupt (s : State) (p : Port) (v : Nat) : State :=
  if s.rf (Reg.hstPortstat p.num) 0 0 ≠ 1 then s
  else if s.vectorMasked p v then
    if (p, v) ∈ s.msixHeld then s else { s with msixHeld := s.msixHeld ++ [(p, v)] }
  else { s with msix := s.msix ++ [(p, v)] }

end Sys2Proof.Machine
end

