-- ==== Sys2Proof/Machine/CoreOps.lean ====
section
/-! DEFINITION. What the slots of a Leaf word share: whether a core issues, the stop of a core, its reads of tile
memory, pointers, ports and the advance of its program counter (R63 to R70, R88, R89). -/

namespace Sys2Proof.Machine

/-- Whether a core issues Leaf words: it runs, and so does its partition (R67). -/
def State.issues (s : State) (n : Nat) : Bool :=
  (s.core n).mode == .running &&
    match s.partOfCore n with
    | some q => (s.part q).run == .running
    | none => false

/-- The program counter that CORE_FAULT.PC names. -/
def CoreState.faultPc (c : CoreState) : Nat := if c.mode = .running then c.live.pc else c.wordPc

/-- A core drops what the present tick's word has done (R89): no operation of the tick takes effect. -/
def CoreState.dropWord (c : CoreState) : CoreState :=
  { c with next := c.live, nextMode := none, feWrites := [], linkWrites := [], outbox := [], pset := none,
           reload := false, arrival := none, newDraws := [], newLdo := [], newPages := [], newSplit := none }

/-- A core asserts STOP and its partition is marked faulted (R89, R103, R169). -/
def State.assertStop (s : State) (n : Nat) : State :=
  match s.partOfCore n with
  | some q => s.updPart q (fun p => { p with faulted := true, stopLine := true })
  | none => s

/-- A core stops on a fault (R64, R82, R89, R103, R113): the present word has no effect, CORE_FAULT records the stop,
and the core asserts STOP. A core that is stopped already keeps the CORE_FAULT of its first stop (DESIGN CHOICE, log 19). -/
def State.haltOn (s : State) (n kind : Nat) : State :=
  let c := s.core n
  let s' := s.setCore n { c.dropWord with mode := .faulted }
  (if c.mode = .faulted then s'
   else (s'.setReg (Reg.coreFault n)
    (BitVec.ofNat 64 (kind * 2 ^ 8 + c.faultPc % 1024 * 2 ^ 16 + s.tickOf n % 2 ^ 32 * 2 ^ 32))).raise (Reg.coreFault n) 0 0 1).assertStop n

/-- The address of a core's message for ACC_CONFLICT, ACC_OVERFLOW and LEAF_ILLEGAL (R355). -/
def State.stopAddr (s : State) (n : Nat) : Nat := (s.core n).faultPc % 1024 + s.tickOf n % 2 ^ 30 * 1024

/-- A core stops on a fault of a kind whose address is the program counter and tick. -/
def State.stopWith (s : State) (n kind : Nat) : State :=
  (s.haltOn n kind).report n kind (s.stopAddr n) (s.coreTag n)

/-- LEAF_ILLEGAL (R89). -/
def State.illegal (s : State) (n : Nat) : State := s.stopWith n 0x22

/-- ACC_CONFLICT (R103). -/
def State.conflict (s : State) (n : Nat) : State := s.stopWith n 0x20

/-- A core reads its own SRAM (R64): corrections are reported; a double-bit error stops the core before the result is
used. -/
def State.coreRead (s : State) (n a len : Nat) : Option (List Byte) × State :=
  let s1 := s.reportCe n (s.sramCe a len)
  match s.sramUe a len with
  | some g => (none, (s1.haltOn n 0x11).report n 0x11 (g * 8 - coreBase n) (s.coreTag n))
  | none => (some (s.rd a len), s1)

/-- A read of granules of tile memory. -/
def State.tileRead (s : State) (n : Nat) (g : Int) (count : Nat) : Option (List Byte) × State :=
  s.coreRead n (tileAt n g.toNat) (8 * count)

/-- Whether a run of granules lies in tile memory (R62). -/
def tileOk (g : Int) (count : Nat) : Bool := 0 ≤ g && g + count ≤ 15360

/-- The live address of a pointer at the start of the tick. -/
def CoreState.ptrAt (c : CoreState) (k : Nat) : Int := Table.look (fun _ => 0) c.live.ptr k

/-- Post-advance of a pointer with the fields of its CORE_PTR register (R69). -/
def advancePtr (reg : U64) (addr : Int) : Int :=
  let base : Int := fld reg 29 16
  let limit : Int := fld reg 45 32
  let a := addr + signedOf 15 (fld reg 62 48)
  if limit = 0 then a
  else
    let a := if limit ≤ a then a - (limit - base) else a
    if a < base then a + (limit - base) else a

/-- The core with pointer k advanced once when asked. -/
def CoreState.advance (c : CoreState) (reg : U64) (k : Nat) (go : Bool) : CoreState :=
  if go then
    { c with next := { c.next with
        ptr := Table.put (fun _ => 0) c.next.ptr k (advancePtr reg (Table.look (fun _ => 0) c.next.ptr k)) } }
  else c

/-- The state with pointer k of a core advanced once when asked. -/
def State.advance (s : State) (n k : Nat) (go : Bool) : State :=
  s.updCore n (fun c => c.advance (s.reg (Reg.corePtr n k)) k go)

/-- Where the word after the present one stands (R67, R72): the loop stack and the program counter after a word at
`pc` issues. -/
def loopStep (pc : Nat) : List LoopLevel → Nat × List LoopLevel
  | [] => ((pc + 1) % 1024, [])
  | l :: ls =>
    if l.last = pc then
      if 1 < l.left then (l.first, { l with left := l.left - 1 } :: ls) else loopStep pc ls
    else ((pc + 1) % 1024, l :: ls)

/-- The core with its program counter moved past the present word. -/
def CoreState.passWord (c : CoreState) : CoreState :=
  { c with next := { c.next with pc := (loopStep c.live.pc c.live.loops).1,
                                 loops := (loopStep c.live.pc c.live.loops).2 } }

/-- An identity register at the start of the tick. -/
def CoreState.idAt (c : CoreState) (k : Nat) : IdReg := Table.look (fun _ => {}) c.live.ids k

/-- The set-up values of identity register k of a core. -/
def State.setupId (s : State) (n k : Nat) : IdReg :=
  ⟨BitVec.ofNat 40 (s.rf (Reg.coreIdreg n k) 39 0), BitVec.ofNat 32 (s.rf (Reg.coreIdreg n k + 8) 31 0),
   BitVec.ofNat 32 (s.rf (Reg.coreIdreg n k + 8) 63 32)⟩

/-- Identity registers with UNIT and CHAIN at their set-up values and the live β kept (R70, R74, R76). -/
def State.reloadIds (s : State) (n : Nat) (ids : Table IdReg) : Table IdReg :=
  (List.range 8).foldl (fun t k =>
    let live := Table.look (fun _ => ({} : IdReg)) t k
    Table.put (fun _ => ({} : IdReg)) t k { s.setupId n k with beta := live.beta }) ids

/-- A landing register: the word present, or the empty word (R80). -/
def CoreState.landed (c : CoreState) (d : Dir) : LinkWord := Table.look (fun _ => .empty) c.live.landing d.code

/-- A word with a byte string laid over its bytes from an offset. -/
def overlay (base : List Byte) (off : Nat) (bs : List Byte) : List Byte :=
  base.take off ++ bs ++ base.drop (off + bs.length)

/-- The words of a core's table slot (R61). -/
def State.tableEntry (s : State) (n slot i : Nat) : Nat := s.rdN (tableAt n slot i) 2

/-- Whether the present word's lane slot, or the second tick of a split draw, uses the indexed generator (R148). -/
def State.genBusy (s : State) (n : Nat) : Bool :=
  let c := s.core n
  let op := bitsN (s.rdN (leafAt n c.live.pc) 4) 31 28
  c.splitAt == some (s.tickOf n) || (s.issues n && (op == 1 || op == 2 || op == 3))

/-! ## Ports (R88) -/

/-- A change of the core at the start of a tick, before its word issues: the present state and the next one alike. -/
def State.setLive (s : State) (n : Nat) (f : CoreLive → CoreLive) : State :=
  s.updCore n (fun c => { c with live := f c.live, next := f c.next })

/-- Run an operation that needs the field-engine port; a second claim in the tick is illegal. -/
def State.withFe (s : State) (n : Nat) (f : State → State) : State :=
  if (s.core n).fePort then s.illegal n else f (s.updCore n (fun c => { c with fePort := true }))

/-- Run an operation that needs the link and sequencer port; a second claim in the tick is illegal. -/
def State.withLink (s : State) (n : Nat) (f : State → State) : State :=
  if (s.core n).linkPort then s.illegal n else f (s.updCore n (fun c => { c with linkPort := true }))

/-- Whether a CLOSE or RED of a group meets no conflict at a tick: the group is open, and no ACC of it is too recent (R100,
R102). -/
def Group.settled (x : Group) (t : Nat) : Bool := x.isOpen && x.readyAt ≤ t

/-- Carry out a slot of the present word when the core issues. -/
def slotOp (s : State) (n : Nat) (legal : Bool) (f : State → State) : Out :=
  .next (if s.issues n then (if legal then f s else s.illegal n) else s)

end Sys2Proof.Machine
end

