-- ==== Sys2Proof/Machine/Fp.lean ====
section
/-! DEFINITION. The floating-point formats of the module and their arithmetic: exact rationals, rounded once to
nearest, ties to even (R109, R111, R115). -/

namespace Sys2Proof

/-- A binary format in the IEEE 754 pattern: exponent bits and fraction bits. -/
structure FFmt where
  ebits : Nat
  fbits : Nat
deriving DecidableEq, Repr

/-- FP32, IEEE 754 binary32. -/
def fp32 : FFmt := ⟨8, 23⟩
/-- FP64, IEEE 754 binary64. -/
def fp64 : FFmt := ⟨11, 52⟩
/-- BF16. -/
def bf16 : FFmt := ⟨8, 7⟩
/-- FP32x, the 12-bit exponent format of float groups (R109). -/
def fp32x : FFmt := ⟨12, 23⟩

/-- The exponent bias. -/
def FFmt.bias (f : FFmt) : Nat := 2 ^ (f.ebits - 1) - 1
/-- The exponent of the least significant bit of a subnormal. -/
def FFmt.minExp (f : FFmt) : Int := 1 - (f.bias : Int) - f.fbits

/-- A floating-point value: NaN, an infinity, or (-1)^neg × m × 2^e, with zero signed. -/
inductive FVal where
  | nan
  | inf (neg : Bool)
  | fin (neg : Bool) (m : Nat) (e : Int)
deriving DecidableEq, Repr

/-- Two to an integer power. -/
def pow2 (e : Int) : ℚ := if 0 ≤ e then ((2 ^ e.toNat : Nat) : ℚ) else mkRat 1 (2 ^ (-e).toNat)

/-- A rational as its numerator's magnitude over its denominator, rounded to nearest, ties to even. -/
def rneDiv (n d : Nat) : Nat :=
  let q := n / d
  let r := n % d
  if 2 * r < d then q else if d < 2 * r then q + 1 else q + q % 2

/-- A rational rounded to an integer, ties to even (`rne_int` of the manual's pseudocode). -/
def rneInt (x : ℚ) : Int :=
  let a := rneDiv x.num.natAbs x.den
  if x < 0 then -(a : Int) else a

/-- The value V / 2^k of an integer, rounded to nearest, ties to even (`rne_shift`, R113). -/
def rneShift (v : Int) (k : Nat) : Int :=
  let a := rneDiv v.natAbs (2 ^ k)
  if v < 0 then -(a : Int) else a

/-- The real value of a finite float; zero for the others. -/
def FVal.toRat : FVal → ℚ
  | .fin neg m e => (if neg then -1 else 1) * (m : ℚ) * pow2 e
  | _ => 0

/-- Whether a float is finite. -/
def FVal.isFin : FVal → Bool
  | .fin .. => true
  | _ => false

/-- Whether a float is NaN. -/
def FVal.isNan : FVal → Bool
  | .nan => true
  | _ => false

/-- The sign of a float. -/
def FVal.isNeg : FVal → Bool
  | .fin neg .. => neg
  | .inf neg => neg
  | .nan => false

/-- The floor of the base-2 logarithm of a positive rational. -/
def floorLog2 (n d : Nat) : Int :=
  let l : Int := (n.log2 : Int) - d.log2
  if (n : ℚ) < d * pow2 l then l - 1 else l

/-- A magnitude n/d rounded once to a format with the given sign (ties to even, gradual underflow, overflow to
infinity). -/
def roundMag (f : FFmt) (neg : Bool) (n d : Nat) : FVal :=
  if n = 0 then .fin neg 0 f.minExp else
  let u := max (floorLog2 n d - f.fbits) f.minExp
  let m := if 0 ≤ u then rneDiv n (d * 2 ^ u.toNat) else rneDiv (n * 2 ^ (-u).toNat) d
  if (m.log2 : Int) + u > f.bias then .inf neg else .fin neg m u

/-- A rational rounded once to a format; an exact zero takes the given sign. -/
def roundRat (f : FFmt) (zeroNeg : Bool) (x : ℚ) : FVal :=
  roundMag f (if x = 0 then zeroNeg else x < 0) x.num.natAbs x.den

/-- The fraction of a NaN made by an operation: not zero, otherwise free (log 8). -/
def Fp.nanFraction (f : FFmt) : Nat := 1 + Config.nanFraction f.fbits % (2 ^ f.fbits - 1)

/-- The bits of a value of a format. -/
def encodeF (f : FFmt) : FVal → Nat
  | .nan => (2 ^ f.ebits - 1) * 2 ^ f.fbits + Fp.nanFraction f
  | .inf neg => (if neg then 2 ^ (f.ebits + f.fbits) else 0) + (2 ^ f.ebits - 1) * 2 ^ f.fbits
  | .fin neg m e =>
    let s := if neg then 2 ^ (f.ebits + f.fbits) else 0
    if m = 0 then s
    else if m < 2 ^ f.fbits then s + m
    else
      let sh := m.log2 - f.fbits
      let ex := (e + sh + f.fbits + f.bias).toNat
      s + ex * 2 ^ f.fbits + (m / 2 ^ sh) % 2 ^ f.fbits

/-- The value of the bits of a format. -/
def decodeF (f : FFmt) (b : Nat) : FVal :=
  let neg := b.testBit (f.ebits + f.fbits)
  let ex := (b / 2 ^ f.fbits) % 2 ^ f.ebits
  let fr := b % 2 ^ f.fbits
  if ex = 2 ^ f.ebits - 1 then (if fr = 0 then .inf neg else .nan)
  else if ex = 0 then .fin neg fr f.minExp
  else .fin neg (2 ^ f.fbits + fr) (f.minExp + ex - 1)

/-- The value of an FP8 E4M3 byte: bias 7, no infinity, NaN at exponent and fraction all ones (PRESUMED, log 23). -/
def decodeE4M3 (b : Nat) : FVal :=
  let neg := b.testBit 7
  let ex := (b / 8) % 16
  let fr := b % 8
  if ex = 15 ∧ fr = 7 then .nan
  else if ex = 0 then .fin neg fr (-9)
  else .fin neg (8 + fr) ((ex : Int) - 10)

/-- The sign change of a float. -/
def FVal.negate : FVal → FVal
  | .nan => .nan
  | .inf s => .inf (!s)
  | .fin s m e => .fin (!s) m e

/-- IEEE 754 addition in a format. -/
def fadd (f : FFmt) : FVal → FVal → FVal
  | .nan, _ => .nan
  | _, .nan => .nan
  | .inf s, .inf t => if s = t then .inf s else .nan
  | .inf s, .fin .. => .inf s
  | .fin .., .inf t => .inf t
  | .fin s m e, .fin t n g =>
    roundRat f (s && t && m == 0 && n == 0) ((FVal.fin s m e).toRat + (FVal.fin t n g).toRat)

/-- IEEE 754 subtraction in a format. -/
def fsub (f : FFmt) (a b : FVal) : FVal := fadd f a b.negate

/-- The exact product of two floats, as a value of no particular format: IEEE 754 rules for the special values. -/
def fmulExact : FVal → FVal → FVal
  | .nan, _ => .nan
  | _, .nan => .nan
  | .inf s, .inf t => .inf (s != t)
  | .inf s, .fin t m _ => if m = 0 then .nan else .inf (s != t)
  | .fin s m _, .inf t => if m = 0 then .nan else .inf (s != t)
  | .fin s m e, .fin t n g => .fin (s != t) (m * n) (e + g)

/-- A value of no particular format rounded once to a format. -/
def roundF (f : FFmt) : FVal → FVal
  | .fin s m e => if 0 ≤ e then roundMag f s (m * 2 ^ e.toNat) 1 else roundMag f s m (2 ^ (-e).toNat)
  | v => v

/-- IEEE 754 multiplication in a format. -/
def fmul (f : FFmt) (a b : FVal) : FVal := roundF f (fmulExact a b)

/-- The largest finite value of a format, with a sign. -/
def maxFin (f : FFmt) (neg : Bool) : FVal :=
  .fin neg (2 ^ (f.fbits + 1) - 1) ((f.bias : Int) - f.fbits)

/-- Step 4 of R115: an infinity becomes the largest finite value with its sign, NaN becomes +0.0. -/
def saturateF (f : FFmt) : FVal → FVal
  | .nan => .fin false 0 f.minExp
  | .inf s => maxFin f s
  | v => v

/-- An infinity becomes the largest finite value with its sign (R43, R137, R194); NaN is left. -/
def clampF (f : FFmt) : FVal → FVal
  | .inf s => maxFin f s
  | v => v

/-- Numeric order: −∞ < finite < +∞, zeros equal; NaN has no order. -/
def fltB : FVal → FVal → Bool
  | .nan, _ => false
  | _, .nan => false
  | .inf s, .inf t => s && !t
  | .inf s, .fin .. => s
  | .fin .., .inf t => !t
  | a, b => a.toRat < b.toRat

/-- Numeric equality (R132, R196): −0.0 equals +0.0. -/
def feqB : FVal → FVal → Bool
  | .nan, _ => false
  | _, .nan => false
  | .inf s, .inf t => s == t
  | .inf _, .fin .. => false
  | .fin .., .inf _ => false
  | a, b => a.toRat == b.toRat

/-- Greater or equal in magnitude, for the Neumaier step (R111). -/
def fabsGe : FVal → FVal → Bool
  | .nan, _ => false
  | _, .nan => false
  | .inf _, _ => true
  | .fin .., .inf _ => false
  | a, b => |b.toRat| ≤ |a.toRat|

/-- Whether a value is minus zero. -/
def FVal.isNegZero : FVal → Bool
  | .fin s m _ => s && m == 0
  | _ => false

/-- The sum of terms, computed exactly and rounded once (step 3 of R115, step 2 of R137): IEEE 754 rules for infinities and
NaN; an exact zero is positive unless every term is minus zero (log 33). -/
def sumOnce (f : FFmt) (ts : List FVal) : FVal :=
  if ts.any FVal.isNan then .nan
  else
    let pos := ts.any (fun t => t == .inf false)
    let neg := ts.any (fun t => t == .inf true)
    if pos && neg then .nan
    else if pos then .inf false
    else if neg then .inf true
    else roundRat f (ts.all FVal.isNegZero) ((ts.map FVal.toRat).foldl (· + ·) 0)

/-- One Neumaier step (R111): the new running sum and compensation. -/
def neumaier (f : FFmt) (s e tau : FVal) : FVal × FVal :=
  let t := fadd f s tau
  let e' := if fabsGe s tau then fadd f e (fadd f (fsub f s t) tau)
            else fadd f e (fadd f (fsub f tau t) s)
  (t, e')

/-- One level of the pairwise tree: adjacent results added in ascending order (R111). -/
def pairLevel (f : FFmt) : List FVal → List FVal
  | a :: b :: rest => fadd f a b :: pairLevel f rest
  | l => l

/-- The pairwise tree of R111 over 2^levels products. -/
def pairTree (f : FFmt) : Nat → List FVal → List FVal
  | 0, l => l
  | k + 1, l => pairTree f k (pairLevel f l)

/-- D / √β correctly rounded to FP32 (step 1 of R137): the integer square root to 160 further bits, with its
remainder as a sticky bit. Any β that is not a positive finite value gives +0.0. -/
def divSqrt32 (d beta : FVal) : FVal :=
  match d, beta with
  | .fin s dm de, .fin false bm be =>
    if bm = 0 then .fin false 0 fp32.minExp
    else if dm = 0 then .fin s 0 fp32.minExp
    else
      -- the square of the result is dm² 2^(2 de) / (bm 2^be)
      let x : ℚ := (dm * dm : Nat) * pow2 (2 * de) / ((bm : ℚ) * pow2 be)
      let k : Nat := 480
      let n := x.num.natAbs * 2 ^ (2 * k) / x.den
      let r := Nat.sqrt n
      let exact := r * r * x.den == x.num.natAbs * 2 ^ (2 * k)
      roundMag fp32 s (2 * r + (if exact then 0 else 1)) (2 ^ (k + 1))
  | .inf s, .fin false bm _ => if bm = 0 then .fin false 0 fp32.minExp else .inf s
  | .nan, .fin false bm _ => if bm = 0 then .fin false 0 fp32.minExp else .nan
  | _, _ => .fin false 0 fp32.minExp

/-- An FP32 value from its bits. -/
def f32 (w : U32) : FVal := decodeF fp32 w.toNat
/-- The bits of an FP32 value. -/
def b32 (v : FVal) : U32 := BitVec.ofNat 32 (encodeF fp32 v)
/-- An FP64 value from its bits. -/
def f64 (w : U64) : FVal := decodeF fp64 w.toNat
/-- The bits of an FP64 value. -/
def b64 (v : FVal) : U64 := BitVec.ofNat 64 (encodeF fp64 v)

/-- B0 × STEP^d correctly rounded to FP32, with the IEEE 754 rules for special values (mode 2 of R194). -/
def geomF (b0 step : FVal) (d : Nat) : FVal :=
  let p : FVal := match step with
    | .nan => if d = 0 then .fin false 1 0 else .nan
    | .inf s => if d = 0 then .fin false 1 0 else .inf (s && d % 2 == 1)
    | .fin s m e => .fin (s && d % 2 == 1) (m ^ d) (e * d)
  roundF fp32 (fmulExact b0 p)

/-- B0 + d × STEP computed exactly and rounded once to FP32 (mode 1 of R194). -/
def linearF (b0 step : FVal) (d : Nat) : FVal :=
  let t := fmulExact step (.fin false d 0)
  match b0, t with
  | .fin s m e, .fin t' n g => fadd fp32 (.fin s m e) (.fin t' n g)
  | a, b => sumOnce fp32 [a, b]

end Sys2Proof
end

