-- ==== Sys2Proof/Machine/Accum.lean ====
section
/-! DEFINITION. Accumulator entries, coupling tiles, state windows and replay levels (R94 to R98, R106 to R113). -/

namespace Sys2Proof.Machine

/-! ## Entries -/

/-- The carry counter of an entry: the key of its byte in the side array. -/
abbrev carryAt (n e : Nat) : Nat := n * 2048 + e

/-- The 72 bits of an entry: carry counter above the 64-bit entry (R106). -/
def State.entry (s : State) (n e : Nat) : BitVec 72 :=
  BitVec.ofNat 72 ((Table.look zeroByte s.carry (carryAt n e)).toNat * 2 ^ 64 + s.rdN (entryAt n e) 8)

/-- The state with an entry written. -/
def State.setEntry (s : State) (n e : Nat) (v : BitVec 72) : State :=
  { s.wr (entryAt n e) (leBytes 8 (v.toNat % 2 ^ 64)) with
    carry := Table.put zeroByte s.carry (carryAt n e) (BitVec.ofNat 8 (v.toNat / 2 ^ 64)) }

/-- The state with consecutive entries changed. -/
def State.mapEntries (s : State) (n e : Nat) : List (BitVec 72 → BitVec 72) → State
  | [] => s
  | f :: fs => State.mapEntries (s.setEntry n e (f (s.entry n e))) n (e + 1) fs

/-- The running sum and the compensation of a float entry, in FP32x (R109). -/
def floatParts (v : BitVec 72) : FVal × FVal :=
  let part (w hi : Nat) : FVal :=
    decodeF fp32x (bitsN w 31 31 * 2 ^ 35 + (hi * 256 + bitsN w 30 23) * 2 ^ 23 + bitsN w 22 0)
  (part (fld v 31 0) (fld v 67 64), part (fld v 63 32) (fld v 71 68))

/-- A float entry from its running sum and compensation (R109). -/
def packFloat (s e : FVal) : BitVec 72 :=
  let low (b : Nat) : Nat := bitsN b 35 35 * 2 ^ 31 + bitsN b 30 23 * 2 ^ 23 + bitsN b 22 0
  let a := encodeF fp32x s
  let b := encodeF fp32x e
  BitVec.ofNat 72 (low a + low b * 2 ^ 32 + bitsN a 34 31 * 2 ^ 64 + bitsN b 34 31 * 2 ^ 68)

/-- The value S + E of a float entry, rounded once in FP32x (R111). -/
def floatValue (v : BitVec 72) : FVal := fadd fp32x (floatParts v).1 (floatParts v).2

/-- A float entry with a contribution added by one Neumaier step (R111). -/
def addFloat (tau : FVal) (v : BitVec 72) : BitVec 72 :=
  let r := neumaier fp32x (floatParts v).1 (floatParts v).2 tau
  packFloat r.1 r.2

/-- An exact entry with an integer added modulo 2^72 (R106). -/
def addExact (k : Int) (v : BitVec 72) : BitVec 72 := v + BitVec.ofInt 72 k

/-! ## Tiles and windows -/

/-- Targets of a tile (R94). -/
def tileU (shape : Nat) : Nat := 64 / 2 ^ shape
/-- Columns of a tile (R94): formats 0 INT4, 1 INT8, 2 FP8, 3 BF16. -/
def tileC (fmt shape : Nat) : Nat := (if fmt = 0 then 4 else if fmt = 3 then 1 else 2) * 2 ^ shape

/-- The bits of coupling k of a tile (R94). -/
def couplingBits (fmt : Nat) (tile : List Byte) (k : Nat) : Nat :=
  if fmt = 0 then
    let b := (tile.getD (k / 2) 0).toNat
    if k % 2 = 0 then b % 16 else b / 16
  else if fmt = 3 then leAt tile (2 * k) 2
  else (tile.getD k 0).toNat

/-- An integer as a float value. -/
def FVal.ofInt (k : Int) : FVal := .fin (k < 0) k.natAbs 0

/-- The value of a coupling's bits (R94). -/
def couplingVal (fmt b : Nat) : FVal :=
  if fmt = 0 then FVal.ofInt (signedOf 4 b)
  else if fmt = 1 then FVal.ofInt (signedOf 8 b)
  else if fmt = 2 then decodeE4M3 b
  else decodeF bf16 b

/-- Bytes of a state window (R95): kinds 0 binary, 1 categorical, 2 BF16, 3 FP32. -/
def windowBytes (fmt shape kind : Nat) : Nat :=
  if kind = 0 then tileU shape * tileC fmt shape / 8
  else if kind = 1 then tileU shape
  else if kind = 2 then 2 * tileC fmt shape
  else 4 * tileC fmt shape

/-- The engine occupancy of an ACC (R99). -/
def accTicks (fmt kind : Nat) (isFloat : Bool) : Nat :=
  if kind < 2 then 1 else if fmt = 1 then 1 else if fmt = 2 then 2 else if isFloat then 2 else 4

/-- A term: its coupling, scale and state with the bits they came from, and whether it is subtracted (R95, R96,
R98). -/
structure Term where
  w  : FVal
  sc : FVal
  x  : FVal
  wb : Nat
  sb : Nat
  xb : Nat

/-- The scale byte of a target (R98). -/
def scaleIndex (shape t : Nat) : Nat := if tileU shape = 4 then t else 8 * t / tileU shape

/-- The term of target t and column c, if there is one (R95, R96). `pm1` says that bits stand for ±1. -/
def termOf (fmt shape kind : Nat) (pm1 : Bool) (tile scales window : List Byte) (scaled : Bool) (t c : Nat) :
    Option Term :=
  let cols := tileC fmt shape
  let wb := couplingBits fmt tile (t * cols + c)
  let sb := if scaled then (scales.getD (scaleIndex shape t) 0).toNat else 0x38
  let mk (x : FVal) (xb : Nat) : Term := ⟨couplingVal fmt wb, if scaled then decodeE4M3 sb else FVal.ofInt 1, x, wb, sb, xb⟩
  if kind = 0 then
    let k := t * cols + c
    if (window.getD (k / 8) 0).getLsbD (k % 8) then some (mk (FVal.ofInt 1) 1)
    else if pm1 then some (mk (FVal.ofInt (-1)) 0) else none
  else if kind = 1 then
    if (window.getD t 0).toNat = c then some (mk (FVal.ofInt 1) 1) else none
  else if kind = 2 then some (mk (decodeF bf16 (leAt window (2 * c) 2)) (leAt window (2 * c) 2))
  else some (mk (decodeF fp32 (leAt window (4 * c) 4)) (leAt window (4 * c) 4))

/-- The terms of a target, in ascending column order. -/
def termsOf (fmt shape kind : Nat) (pm1 : Bool) (tile scales window : List Byte) (scaled : Bool) (t : Nat) :
    List Term :=
  (List.range (tileC fmt shape)).filterMap (termOf fmt shape kind pm1 tile scales window scaled t)

/-- Whether every operand of a term is finite (the range flag's first condition). -/
def Term.finite (z : Term) : Bool := z.w.isFin && z.sc.isFin && z.x.isFin

/-- The exact product of a term. -/
def Term.product (z : Term) : FVal := fmulExact (fmulExact z.w z.sc) z.x

/-- The integer of a term at binary point p (R106). -/
def Term.fixed (p : Nat) (z : Term) : Int :=
  if z.finite then rneInt (z.product.toRat * pow2 p) else Config.rangeTerm z.wb z.sb z.xb p

/-- Whether a term sets the range flag of an exact group (R112). -/
def Term.outOfRange (p : Nat) (z : Term) : Bool := !z.finite || 2 ^ 71 ≤ (z.fixed p).natAbs

/-- The contribution of a target in a float group (R111): products rounded to FP32, summed by the pairwise tree. -/
def floatSum (fmt shape : Nat) (zs : List Term) : FVal :=
  let levels := if fmt = 3 then shape else shape + 1
  (pairTree fp32 levels (zs.map (fun z => roundF fp32 z.product))).headD (FVal.ofInt 0)

/-! ## Replay levels -/

/-- The replay level of an exact entry (R113). -/
def exactLevel (v : Int) : Option Nat :=
  (List.range 3).find? (fun l => -(2 ^ 63) ≤ rneShift v (8 * l) && rneShift v (8 * l) < 2 ^ 63)

/-- A value scaled by a power of two and rounded to FP32 (R112). -/
def scaledDown (v : FVal) (k : Nat) : FVal := roundF fp32 (fmulExact v (.fin false 1 (-(k : Int))))

/-- The replay level of a float entry (R112). -/
def floatLevel (v : BitVec 72) : Option Nat :=
  if (floatParts v).1.isFin && (floatParts v).2.isFin && (floatValue v).isFin then
    (List.range 3).find? (fun l => (scaledDown (floatValue v) (8 * l)).isFin)
  else none

/-- The replay level of an entry. -/
def entryLevel (isFloat : Bool) (v : BitVec 72) : Option Nat :=
  if isFloat then floatLevel v else exactLevel v.toInt

/-- The field's real value H (step 1 of R115). -/
def fieldValue (isFloat : Bool) (point : Nat) (v : BitVec 72) : FVal :=
  let l := (entryLevel isFloat v).getD 0
  if isFloat then fmulExact (scaledDown (floatValue v) (8 * l)) (.fin false 1 (8 * l : Nat))
  else
    let h := rneShift v.toInt (8 * l)
    .fin (h < 0) h.natAbs (8 * (l : Int) - point)

/-! ## Records (R119) -/

/-- The record of an entry. -/
def toRecord (isFloat : Bool) (v : BitVec 72) : List Byte :=
  if isFloat then leBytes 16 v.toNat else leBytes 16 (ofSigned 128 v.toInt)

/-- The entry bits a record carries. -/
def ofRecord (bs : List Byte) : BitVec 72 := BitVec.ofNat 72 (leNat bs)

end Sys2Proof.Machine
end

