-- ==== Sys2Proof/Machine/Binding.lean ====
section
/-! DEFINITION. What later rules read of a loaded Binding's image: the controller tables (R188) and the result windows
(R184, R445). -/

namespace Sys2Proof.Machine

/-! ## Controller tables -/

/-- The controller tables as the image holds them. -/
abbrev Ctl := List Byte

/-- CHAINS. -/
def Ctl.chains (c : Ctl) : Nat := leAt c 0x04 2
/-- POOLS. -/
def Ctl.pools (c : Ctl) : Nat := leAt c 0x06 2
/-- LADDERS. -/
def Ctl.ladders (c : Ctl) : Nat := leAt c 0x08 2
/-- SEGMENTS. -/
def Ctl.segments (c : Ctl) : Nat := leAt c 0x0A 2
/-- SCHEDULES. -/
def Ctl.schedules (c : Ctl) : Nat := leAt c 0x0C 1
/-- FLAGS.NOISE. -/
def Ctl.noise (c : Ctl) : Bool := (leAt c 0x0D 1).testBit 0
/-- FLAGS.WRAP. -/
def Ctl.wrap (c : Ctl) : Bool := (leAt c 0x0D 1).testBit 1
/-- FLAGS.EXLOG. -/
def Ctl.exlog (c : Ctl) : Bool := (leAt c 0x0D 1).testBit 2
/-- DECIDE_TICKS. -/
def Ctl.decideTicks (c : Ctl) : Nat := leAt c 0x0E 2
/-- DFIRST. -/
def Ctl.dfirst (c : Ctl) : Nat := leAt c 0x10 5
/-- DSTRIDE. -/
def Ctl.dstride (c : Ctl) : Nat := leAt c 0x18 4
/-- STUCK_S. -/
def Ctl.stuckS (c : Ctl) : Nat := leAt c 0x1C 4
/-- ENERGY_POINT. -/
def Ctl.point (c : Ctl) : Nat := leAt c 0x20 1
/-- MAILBOX_REGION. -/
def Ctl.mailRegion (c : Ctl) : Nat := leAt c 0x21 1
/-- MAILBOX_OFFSET. -/
def Ctl.mailOffset (c : Ctl) : Nat := leAt c 0x24 4
/-- EXLOG_BASE. -/
def Ctl.exlogBase (c : Ctl) : Nat := leAt c 0x28 8
/-- EXLOG_RECORDS. -/
def Ctl.exlogRecords (c : Ctl) : Nat := leAt c 0x30 4
/-- Offset of the chain table. -/
abbrev ctlChainTable : Nat := 0x940
/-- Offset of the schedule directory. -/
def Ctl.dirAt (c : Ctl) : Nat := ctlChainTable + 16 * c.chains
/-- Offset of the schedule segments. -/
def Ctl.segAt (c : Ctl) : Nat := roundUp (c.dirAt + 4 * c.schedules) 16
/-- Offset of the ladders. -/
def Ctl.ladderBase (c : Ctl) : Nat := c.segAt + 16 * c.segments
/-- Offset of ladder j. -/
def Ctl.ladderAt (c : Ctl) : Nat → Nat
  | 0 => c.ladderBase
  | j + 1 => c.ladderAt j + roundUp (16 + 4 * leAt c (c.ladderAt j + 4) 2) 16
/-- Offset of the pool table. -/
def Ctl.poolAt (c : Ctl) (i : Nat) : Nat := c.ladderAt c.ladders + 24 * i
/-- RUNGS of ladder j. -/
def Ctl.rungs (c : Ctl) (j : Nat) : Nat := leAt c (c.ladderAt j + 4) 2
/-- LADDER_ID of ladder j. -/
def Ctl.ladderId (c : Ctl) (j : Nat) : Nat := leAt c (c.ladderAt j) 4
/-- β of rung r of ladder j. -/
def Ctl.rungBeta (c : Ctl) (j r : Nat) : U32 := BitVec.ofNat 32 (leAt c (c.ladderAt j + 16 + 4 * r) 4)

/-- A chain table entry (R188). -/
structure ChainEntry where
  chain   : Nat
  sched   : Nat
  rung    : Nat
  monitor : Bool
  ladder  : Nat
deriving DecidableEq, Repr

/-- The chain table entry of a chain index. -/
def Ctl.chain (c : Ctl) (i : Nat) : ChainEntry :=
  let o := ctlChainTable + 16 * i
  ⟨leAt c o 4, leAt c (o + 4) 1, leAt c (o + 6) 1, (leAt c (o + 7) 1).testBit 0, leAt c (o + 8) 2⟩

/-- The chain table. -/
def Ctl.chainTable (c : Ctl) : List ChainEntry := (List.range c.chains).map c.chain

/-- A schedule segment (R194). -/
structure Segment where
  first : Nat
  mode  : Nat
  b0    : U32
  step  : U32
deriving DecidableEq, Repr

/-- A schedule segment from its 16 bytes. -/
def Segment.ofBytes (b : List Byte) : Segment :=
  ⟨leAt b 0 5, leAt b 5 1, BitVec.ofNat 32 (leAt b 8 4), BitVec.ofNat 32 (leAt b 12 4)⟩

/-- Schedule segment i. -/
def Ctl.segment (c : Ctl) (i : Nat) : Segment := Segment.ofBytes (slice c (c.segAt + 16 * i) 16)

/-- The segments of schedule k, by the schedule directory. -/
def Ctl.schedule (c : Ctl) (k : Nat) : List Segment :=
  (List.range (leAt c (c.dirAt + 4 * k + 2) 2)).map (fun i => c.segment (leAt c (c.dirAt + 4 * k) 2 + i))

/-- A pool table entry (R188). -/
structure PoolEntry where
  chainIdx   : Nat
  capacity   : Nat
  swin       : Nat
  ewin       : Nat
  stateBytes : Nat
  base       : Nat
deriving DecidableEq, Repr

/-- Pool table entry i. -/
def Ctl.pool (c : Ctl) (i : Nat) : PoolEntry :=
  let o := c.poolAt i
  ⟨leAt c o 2, leAt c (o + 2) 1, leAt c (o + 3) 1, leAt c (o + 4) 1, leAt c (o + 8) 4, leAt c (o + 16) 8⟩

/-- Bytes of a slot of a pool (R204): STATE_BYTES up to a multiple of 64. -/
def PoolEntry.slotBytes (p : PoolEntry) : Nat := roundUp p.stateBytes 64

/-- Address of slot k of a pool (R204). -/
def PoolEntry.slotAt (p : PoolEntry) (k : Nat) : Nat := p.base + 64 + 64 * p.capacity + k * p.slotBytes

/-- Address of the pool entry at a position (R204). -/
def PoolEntry.entryAt (p : PoolEntry) (i : Nat) : Nat := p.base + 64 + 64 * i

/-! ## β (R194) -/

/-- β of sweep n under a segment; a NaN becomes the quiet NaN 0x7FC0_0000 and an overflow the largest finite value. -/
def Segment.beta (g : Segment) (n : Nat) : U32 :=
  let d := n - g.first
  let v := if g.mode = 0 then f32 g.b0 else if g.mode = 1 then linearF (f32 g.b0) (f32 g.step) d
    else geomF (f32 g.b0) (f32 g.step) d
  match clampF fp32 v with
  | .nan => 0x7FC00000#32
  | w => b32 w

/-- β of sweep n under a schedule; none before its first segment. -/
def scheduleBeta (gs : List Segment) (n : Nat) : Option U32 :=
  ((gs.filter (fun g => g.first ≤ n)).getLast?).map (fun g => g.beta n)

/-! ## Result windows (R184, R445) -/

/-- A record list entry. -/
structure WinRecord where
  chain     : Nat
  payload   : Nat
  unitFirst : Nat
deriving DecidableEq, Repr

/-- A result window with its record list. -/
structure Window where
  kind    : Nat
  dest    : Nat
  ring    : Nat
  first   : Nat
  last    : Nat
  stride  : Nat
  ticks   : Nat
  records : List WinRecord
deriving DecidableEq, Repr

/-- Result windows read one after another. -/
def windowsFrom (bs : List Byte) : Nat → Nat → List Window
  | _, 0 => []
  | o, n + 1 =>
    let k := leAt bs (o + 4) 4
    { kind := leAt bs o 1, dest := leAt bs (o + 1) 1, ring := leAt bs (o + 2) 1, first := leAt bs (o + 8) 5
      last := leAt bs (o + 16) 5, stride := leAt bs (o + 24) 4, ticks := leAt bs (o + 28) 4
      records := (List.range (min k (bs.length / 16))).map (fun i =>
        ⟨leAt bs (o + 32 + 16 * i) 4, leAt bs (o + 36 + 16 * i) 4, leAt bs (o + 40 + 16 * i) 5⟩) } ::
      windowsFrom bs (o + 32 + 16 * k) n

/-- The windows of a RESULTS section. -/
def resultWindows (bs : List Byte) : List Window := windowsFrom bs 64 (leAt bs 0 4)

/-- The windows of a loaded Binding. -/
def Binding.windows (b : Binding) : List Window := match b.results with | some r => resultWindows r | none => []

/-- LDRAIN_BASE; none without a drain ring. -/
def Binding.ldrain (b : Binding) : Option (Nat × Nat) :=
  match b.results with
  | some r => if leAt r 8 8 = 0 then none else some (leAt r 8 8, 2 ^ leAt r 16 1)
  | none => none

/-- Whether a ring is cut into drain records. -/
def Binding.ringIsDrain (b : Binding) (ring : Nat) : Bool := b.windows.any (fun w => w.ring == ring)

/-- The buffer and first byte of a ring. -/
def Binding.ringPlace (b : Binding) (d : RingDesc) : Nat × Nat :=
  match b.regions[d.region]? with
  | some r => (r.buffer, r.first * 0x10000 + d.offset)
  | none => (0, 0)

/-- Whether the Binding has barriers of hall scope (FLAGS.HALL). -/
def Binding.isHall (b : Binding) : Bool := b.flags.testBit 3

/-! ## Statistics (R58, R124) -/

/-- The mean of a statistic from its exact sums, with one rounding to FP64 (R124). -/
def statMean (n : Nat) (s1 : Int) (q : Nat) : FVal :=
  if n = 0 then .fin false 0 0 else roundRat fp64 false (mkRat s1 (n * 2 ^ q))

/-- The population variance of a statistic from its exact sums, with one rounding to FP64 (R124). -/
def statVariance (n : Nat) (s1 s2 : Int) (q : Nat) : FVal :=
  if n = 0 then .fin false 0 0 else roundRat fp64 false (mkRat (n * s2 - s1 * s1) (n * n * 2 ^ (2 * q)))

end Sys2Proof.Machine
end

