-- ==== Sys2Proof/Machine/PartOps.lean ====
section
/-! DEFINITION. The operations on partitions that the families share: freeze and resume, ends of runs, region ownership,
and completions of descriptors (R165, R169, R298). -/

namespace Sys2Proof.Machine

/-! ## Freeze -/

/-- The partition freezes at tick T + 40, or at an earlier freeze tick already fixed (R165, R169). -/
def Partition.freeze (p : Partition) : Partition := { p with freezeAt := some (min (p.freezeAt.getD (p.tick + 40)) (p.tick + 40)) }

/-- The partition is marked faulted and frozen as by the STOP line (R169). -/
def Partition.stop (p : Partition) : Partition := { p.freeze with faulted := true, stopped := true, resumeIn := none }

/-- The state of partition q with its STOP drawn. -/
def State.stopPart (s : State) (q : Nat) : State := s.updPart q Partition.stop

/-- Whether the tick has come to the freeze tick: its words issue now, or have issued (R165). -/
def Partition.atFreeze (p : Partition) : Bool := match p.freezeAt with | some f => f ≤ p.tick | none => false

/-! ## Rings -/

/-- Stream ring r at run time. -/
def Partition.ring (p : Partition) (r : Nat) : RingRun := Table.look (fun _ => {}) p.rings r

/-- The partition with a stream ring changed. -/
def Partition.updRing (p : Partition) (r : Nat) (f : RingRun → RingRun) : Partition :=
  { p with rings := Table.put (fun _ => {}) p.rings r (f (p.ring r)) }

/-- The ring descriptors of the loaded Binding. -/
def Partition.ringDescs (p : Partition) : List RingDesc := match p.binding with | some b => b.rings | none => []

/-- The lowest ring below its low-water mark. -/
def Partition.lowRing (p : Partition) : Option Nat :=
  ((p.ringDescs.zipIdx).find? (fun e => (p.ring e.2).fill < e.1.lw)).map Prod.snd

/-- Whether every ring is at or above its high-water mark. -/
def Partition.ringsHigh (p : Partition) : Bool := (p.ringDescs.zipIdx).all (fun e => e.1.hw ≤ (p.ring e.2).fill)

/-! ## Edge-buffer regions (R161 to R163) -/

/-- The region register k of buffer b. -/
def State.regionReg (s : State) (b k : Nat) : U64 := s.reg (Reg.arrEbregion (b * 32 + k))

/-- Whether a region register is valid and covers a block. -/
def regionCovers (v : U64) (block : Nat) : Bool := bit v 31 && fld v 7 0 ≤ block && block ≤ fld v 7 0 + fld v 15 8

/-- The owner of a byte of a buffer: its region's partition, 127 for none (R359). -/
def State.bufferTag (s : State) (b off : Nat) : Nat :=
  match (List.range 32).find? (fun k => regionCovers (s.regionReg b k) (off / 0x10000)) with
  | some k => fld (s.regionReg b k) 22 16
  | none => 127

/-- A buffer reports a fault with the tag of the region that an access lay in. -/
def State.reportBuffer (s : State) (b kind addr off : Nat) : State := s.report (blockSrc 1 b) kind addr (s.bufferTag b off)

/-- A read of a buffer: the bytes; corrections are reported, and a double-bit error is reported with its granule. -/
def State.bufferRead (s : State) (b off n : Nat) : Option Nat × List Byte × State :=
  let a := bufferBase b + off
  let s1 := (s.sramCe a n).foldl (fun t g => t.reportBuffer b 0x10 (g * 8 - bufferBase b) off) s
  match s.sramUe a n with
  | some g => (some (g * 8 - bufferBase b), s.rd a n, s1.reportBuffer b 0x11 (g * 8 - bufferBase b) off)
  | none => (none, s.rd a n, s1)

/-- A write to a buffer, with fresh codes. A part of a granule with a double-bit error is not written (R64, R129). -/
def State.bufferWrite (s : State) (b off : Nat) (bs : List Byte) : State :=
  let a := bufferBase b + off
  let len := bs.length
  let parts := (granules a len).filter (fun g => g * 8 < a || a + len < g * 8 + 8)
  match parts.find? (fun g => Table.look (fun _ => 0) s.sramErr g == 2) with
  | some g => s.reportBuffer b 0x11 (g * 8 - bufferBase b) off
  | none => (s.wr a bs).clearGranules (granules a len)

/-! ## Completions (R298, R299, R302) -/

/-- Ring pair r of a port. -/
def State.ringPair (s : State) (p : Port) (r : Nat) : RingPair := Table.look (fun _ => {}) s.rings (p.num * 97 + r)

/-- The state with a ring pair changed. -/
def State.updRing (s : State) (p : Port) (r : Nat) (f : RingPair → RingPair) : State :=
  { s with rings := Table.put (fun _ => {}) s.rings (p.num * 97 + r) (f (s.ringPair p r)) }

/-- A fetched descriptor. -/
def State.desc (s : State) (d : DescRef) : Option Desc := s.descs.find? (fun x => x.ref == d)

/-- The state with a fetched descriptor changed. -/
def State.updDesc (s : State) (d : DescRef) (f : Desc → Desc) : State :=
  { s with descs := s.descs.map (fun x => if x.ref = d then f x else x) }

/-- Completion status codes. -/
abbrev stDone : Nat := 0x00
/-- RETRY. -/
abbrev stRetry : Nat := 0x01
/-- NOT_READY. -/
abbrev stNotReady : Nat := 0x02
/-- GEOMETRY. -/
abbrev stGeometry : Nat := 0x03
/-- CONFLICT. -/
abbrev stConflict : Nat := 0x04
/-- CAPACITY. -/
abbrev stCapacity : Nat := 0x05
/-- PARTIAL. -/
abbrev stPartial : Nat := 0x06
/-- DIGEST_MISMATCH. -/
abbrev stMismatch : Nat := 0x07
/-- TIMEOUT. -/
abbrev stTimeout : Nat := 0x08
/-- FAULTED. -/
abbrev stFaulted : Nat := 0x09
/-- REFUSED. -/
abbrev stRefused : Nat := 0x0A
/-- BAD_DESCRIPTOR. -/
abbrev stBad : Nat := 0x0B
/-- ENTROPY_FAILED. -/
abbrev stEntropyFailed : Nat := 0x0C

/-- The 32 bytes of a completion, its phase bit clear. -/
def completionBytes (d : Desc) (status detail result gtime : Nat) : List Byte :=
  slice d.bytes 4 4 ++ leBytes 1 status ++ slice d.bytes 0 1 ++ leBytes 2 0 ++ leBytes 4 d.head ++ leBytes 4 detail ++
  leBytes 8 result ++ leBytes 8 gtime

/-- A completion put in the ring's queue of completions owed. -/
def State.owe (s : State) (d : Desc) (status detail result : Nat) : State :=
  s.updRing d.ref.port d.ref.ring (fun r => { r with
    owed := r.owed ++ [(completionBytes d status detail result s.gtime, (leAt d.bytes 1 1).testBit 0)] })

/-- A descriptor completes. Its completion is discarded when its ring was disabled (R294), and a finish after a watchdog's
expiry is counted instead (R302). -/
def State.complete (s : State) (ref : DescRef) (status detail result : Nat) : State :=
  match s.desc ref with
  | none => s
  | some d =>
    let s := { s with descs := s.descs.filter (fun x => x.ref != ref) }.updRing ref.port ref.ring (fun r =>
      { r with serialEnd := s.mc })
    if d.expired then s.count (Reg.hstPortstat d.ref.port.num) 47 32 1
    else if d.orphan then s
    else s.owe d status detail result

/-! ## Ends of runs -/

/-- The pending HALTs of a partition complete when its run stops (R307). -/
def State.haltsDone (s : State) (q : Nat) : State :=
  let hs := (s.part q).halts
  hs.foldl (fun t d => t.complete d stDone 0 0) (s.updPart q (fun p => { p with halts := [] }))

/-- The pool offers that a partition's end of run, save or power-down waits for (R206): in a faulted partition only those
whose state and energy are there (log 117). -/
def Partition.owedOffers (p : Partition) : List PoolOffer :=
  p.offers.filter (fun o => !p.faulted || (o.staged && o.energy.isSome))

/-- A run whose sweeps are over completes once no pool offer waits and no Colophon or signature is owed (R206, R229,
R306). -/
def State.settleJob (s : State) (q : Nat) : State :=
  match (s.part q).job with
  | none => s
  | some j =>
    match j.ended with
    | none => s
    | some st =>
      if (s.part q).owedOffers.isEmpty && j.colophon.isNone && !j.sign then
        (s.updPart q (fun p => { p with job := none })).complete j.desc st 0 j.taken
      else s

/-- A run ends with a status; the completion follows the last pool offer and the Colophon. -/
def State.endJob (s : State) (q status : Nat) : State :=
  (s.updPart q (fun p => { p with job := p.job.map (fun j => { j with ended := some (j.ended.getD status) }) })).settleJob q

/-- The cores of a partition that run stand in LOADED; faulted and empty cores stay so. -/
def CoreState.loadedAgain (c : CoreState) : CoreState :=
  { c with mode := if c.mode = .faulted || c.mode = .empty then c.mode else .loaded, nextMode := none }

/-- The partition stops at a point (R67): its cores stand in LOADED, and neither its rings nor a STOP hold it any more. -/
def State.stopAtPoint (s : State) (q point : Nat) : State :=
  let s := (s.partCores q).foldl (fun t n => t.updCore n CoreState.loadedAgain) s
  s.updPart q (fun p => { p with
    run := .loaded, point := point, barrier := none, hold := none, freezeAt := none, froze := false
    resumeIn := none })

end Sys2Proof.Machine
end

