-- ==== Sys2Proof/Machine/Flags.lean ====
section
/-! DEFINITION. What a read of each register unit shows: the stored bits with the live status fields laid over them, when
a block answers, and the semaphores and latches that a read moves (R10, R281, R315, R370, R406, R421 to R431). -/

namespace Sys2Proof

/-- The requesters that are host ports, which reach registers under the rules of publication and of the power states. -/
def Requester.isPort : Requester → Bool
  | .portA => true | .portB => true | _ => false

/-- The owner code of a requester at the semaphores (R315). -/
def Requester.semCode : Requester → Nat
  | .portA => 1 | .portB => 2 | .gatehouse => 3 | _ => 0

end Sys2Proof

namespace Sys2Proof.Machine

/-! ## Live status -/

/-- PRT_STATUS.STATE: 0 NONE, 1 EMPTY, 2 LOADED, 3 RUNNING, 4 HELD, 5 BARRIER, 6 RESETTING (R322, R423). -/
def State.partStateCode (s : State) (q : Nat) : Nat :=
  let p := s.part q
  match p.run with
  | .none => 0
  | .resetting => 6
  | .empty => if p.faultHold then 4 else 1
  | .loaded => if p.faultHold then 4 else 2
  | .running =>
    if p.hold.isSome || p.faultHold then 4
    else match p.barrier with
      | some b => if (s.partCores q).all (fun n => n ∈ b.arrived) then 5 else 3
      | none => 3

/-- The tick a partition shows: it stands at the freeze tick of a STOP while issued operations complete (R169). -/
def Partition.tickSeen (p : Partition) : Nat := if p.stopped then min p.tick (p.freezeAt.getD p.tick) else p.tick

/-- CORE_STATUS.STATE (R93): a running, waiting or arrived core of a frozen partition reads HELD. -/
def State.coreStateCode (s : State) (n : Nat) : Nat :=
  let c := s.core n
  let held : Bool := match s.partOfCore n with
    | some q => (s.part q).run == .running && (s.part q).froze
    | none => false
  match c.mode with
  | .empty => 0
  | .loaded => 1
  | .halted => 1
  | .running => if held then 4 else 2
  | .barrier => if held then 4 else 3
  | .waiting => if held then 4 else 5
  | .faulted => 6
  | .resetting => 7

/-- Whether the array is stopped (R212): every core is EMPTY, LOADED or FAULTED and no LOAD_BINDING, RESTORE_CONTEXT or
REFOLD_CONTEXT is in progress. -/
def State.arrayStopped (s : State) : Bool :=
  s.cores.all (fun e => [CoreMode.empty, .loaded, .halted, .faulted].contains e.2.mode) &&
  s.parts.all (fun e => e.2.load.isNone) &&
  s.descs.all (fun d => d.phase != .running || !(List.contains [1, 5, 6] (leAt d.bytes 0 1)))

/-- A number with one bit per partition that meets a test. -/
def State.partBits (s : State) (f : Partition → Bool) : Nat :=
  bitsFrom ((s.parts.filter (fun e => e.2.exists_ && f e.2)).map Prod.fst)

/-- Whether a core has every segment of the load it was told of. -/
def CoreState.complete (c : CoreState) : Bool := c.expect == some c.receipts.length

/-- PRT_FLAGS of a partition (R77, R182, R431). -/
def State.prtFlags (s : State) (q : Nat) : Nat :=
  let cores := s.partCores q
  let p := s.part q
  let lines := (List.range 4).filter (fun k => cores.any (fun n => (s.core n).live.flags.testBit k))
  let missing := p.load.isSome && cores.any (fun n => !(s.core n).complete)
  let loaded := cores.all (fun n => (s.core n).complete)
  let arrive := match p.barrier with
    | some b => cores.all (fun n => n ∈ b.arrived) && b.lastTick + 20 ≤ p.tick
    | none => false
  bitsFrom lines + (if missing then 16 else 0) + (if loaded then 32 else 0) + (if p.stopLine then 64 else 0) +
    (if arrive then 128 else 0)

/-- ENT_STATUS.STATE. -/
def EntState.code : EntState → Nat
  | .off => 0 | .startup => 1 | .normal => 2 | .recovery => 3 | .limit => 4 | .fatal => 5

/-- Noise source i. -/
def State.noise (s : State) (i : Nat) : NoiseSource := Table.look (fun _ => {}) s.ent.sources i

/-- ENT_STATUS. -/
def State.entStatus (s : State) : Nat :=
  s.ent.state.code + bitsFrom ((List.range 8).filter (fun i => (s.noise i).healthy)) * 2 ^ 8 +
  bitsFrom ((List.range 8).filter (fun i => (s.noise i).running && !(s.noise i).healthy)) * 2 ^ 16 +
  s.rf Reg.entStatus 31 24 * 2 ^ 24 + s.ent.out.length * 2 ^ 32 + s.ent.seeds.length * 2 ^ 45 + s.ent.cause * 2 ^ 48

/-- The clock of a half in MHz (R411). -/
def Power.clock (p : Power) : Half → Nat
  | .north => min p.gov p.thN
  | .south => min p.gov p.thS

/-- The hottest on-die sensor and its temperature (R415); sensor 0 among equals the lowest number. -/
def Power.hottest (p : Power) : Nat × Int :=
  (List.range 71).foldl (fun b i =>
    let t := Table.look (fun _ => (0 : Int)) p.temps i
    if b.2 < t then (i, t) else b) (0, Table.look (fun _ => (0 : Int)) p.temps 0)

/-- The skips of a row's remap (R156); a row without bad cores skips its last four positions. -/
def State.rowSkips (s : State) (r : Nat) : List Nat := Table.look (fun _ => [128, 129, 130, 131]) s.boot.skips r

/-- The physical position that carries logical column c of a row (R20, R373). -/
def physColumn (skips : List Nat) (c : Nat) : Nat := skips.foldl (fun p k => if k ≤ p then p + 1 else p) c

/-- FLT_ACTION's read-only fields of kind k: CLASS, FIXED, DEFINED (R364). -/
def actionFixed (k : Nat) : Nat :=
  match kindClass k with
  | none => 0x4000
  | some c => c * 2 ^ 12 + (if k = 0 ∨ c = 3 then 0x4000 else 0) + 0x8000

/-- Running descriptors of a ring. -/
def State.runningOn (s : State) (p : Port) (r : Nat) : Nat :=
  (s.descs.filter (fun d => d.ref.port == p && d.ref.ring.val == r && d.phase == .running && !d.expired)).length

/-- Entries of a ring register. -/
def ringSize (v : U64) : Nat := 2 ^ fld v 4 0

/-- Whether a completion ring is full (R298). -/
def State.cqFull (s : State) (p : Port) (r : Nat) : Bool :=
  let x := s.ringPair p r
  (x.cqTail + 1) % ringSize (s.reg (Reg.hstCq p.num r)) == x.cqHead

/-- HST_RINGSTAT. -/
def State.ringStat (s : State) (p : Port) (r : Nat) : Nat :=
  let x := s.ringPair p r
  x.sqHead + x.cqTail * 2 ^ 16 + min 255 (s.runningOn p r) * 2 ^ 32 +
    (if bit (s.reg (Reg.hstCq p.num r)) 5 && s.cqFull p r then 2 ^ 40 else 0)

/-- HFT_PEER.STATE. -/
def ConnState.code : ConnState → Nat
  | .closed => 0 | .opening => 1 | .opened => 2 | .lost => 3

/-- The low or high 64 bits of a number. -/
def unitOf (v u : Nat) : U64 := BitVec.ofNat 64 (v / 2 ^ (64 * u))

/-- The stored unit with bits [hi:lo] replaced by a live value. -/
def State.live (s : State) (off hi lo v : Nat) : U64 := setFld (s.reg off) hi lo v

/-- The offset of the calibration window (R382). -/
abbrev calWindow : Nat := 0x1C1000

/-- What an unlisted flash byte reads as: erased. -/
def blankByte : Nat → Byte := fun _ => 0xFF

/-- The present value of the 8 B unit at a register offset (R10, R421). -/
def State.regView (s : State) (off : Nat) : U64 :=
  match regPlace off with
  | none =>
    if calWindow ≤ off ∧ off < calWindow + 0x1000 then
      BitVec.ofNat 64 (leNat (Table.span blankByte s.flash
        (0x2080000 + s.rf Reg.cfgCalpage 3 0 * 4096 + (off - calWindow)) 8))
    else 0
  | some p =>
    let q := p.inst
    match p.reg with
    | .prtStatus =>
      if (s.part q).exists_ then
        setFld (setFld (setFld (s.reg off) 2 0 (s.partStateCode q)) 3 3 (if (s.part q).faulted then 1 else 0)) 17 16
          (s.part q).point
      else setFld (s.reg off) 3 0 0
    | .prtTick => if (s.part q).exists_ then BitVec.ofNat 64 (s.part q).tickSeen else 0
    | .prtSweep => if (s.part q).exists_ then BitVec.ofNat 64 ((s.part q).sweep % 2 ^ 40) else 0
    | .prtFlags => if (s.part q).exists_ then BitVec.ofNat 64 (s.prtFlags q) else 0
    | .prtAnneal =>
      if (s.part q).exists_ then setFld (s.live off 5 0 (s.part q).ctl.k) 31 8 (s.part q).ctl.stuck else 0
    | .prtPoolstat =>
      if (s.part q).exists_ then s.live off 55 48 (min 255 ((s.part q).offers.filter (fun o => o.begun || o.energy.isSome)).length) else 0
    | .prtHoldstat | .prtLoadstat | .prtAccstat | .prtExstat => if (s.part q).exists_ then s.reg off else 0
    | .coreId =>
      BitVec.ofNat 64 (q + (q / 128 * 132 + physColumn (s.rowSkips (q / 128)) (q % 128)) * 2 ^ 16)
    | .coreStatus =>
      let c := (s.core q).live
      setFld (s.reg off) 31 0 (s.coreStateCode q + c.pc % 1024 * 2 ^ 4 + c.loops.length * 2 ^ 16 + c.phase * 2 ^ 24)
    | .coreIdreg =>
      if p.unit = 1 then s.live off 63 32 ((s.core q).idAt ((off - 0x10000C0) % 0x400 / 16)).beta.toNat else s.reg off
    | .arrStatus =>
      BitVec.ofNat 64 ((if s.arrayStopped then 1 else 0) + s.partIds.length * 2 ^ 8 +
        (s.partIds.filter (fun q => 3 ≤ s.partStateCode q && s.partStateCode q ≤ 5)).length * 2 ^ 16)
    | .arrHoldmap => unitOf (s.partBits (fun p => p.hold.isSome)) p.unit
    | .arrFholdmap => unitOf (s.partBits (fun p => p.faultHold)) p.unit
    | .memRefstat => s.live off 3 0 ((s.chan ((off - 0xC0040) / 0x1000 * 4 + q)).owedNow s.clk.wall)
    | .hstRingstat => BitVec.ofNat 64 (s.ringStat (if off < 0x28000 then .a else .b) q)
    | .semLock => BitVec.ofNat 64 (s.sem q).owner
    | .entStatus => BitVec.ofNat 64 s.entStatus
    | .entExp => s.live off 20 0 s.ent.count
    | .gtbNs => s.clk.gtimeNs
    | .hftPeer =>
      if p.unit = 0 then s.live off 62 61 (Table.look (fun _ => ({} : Conn)) s.hall.conns q).state.code else s.reg off
    | .fltStat => s.live off 38 32 s.flt.queue.length
    | .fltAction => BitVec.ofNat 64 (fld (s.reg off) 8 0 + actionFixed q)
    | .pwrStatus =>
      s.live off 2 0 (if s.pwr.entry.isSome then 1 else if s.pwr.waking.isSome then 2
        else match s.pwr.state with | .s1 => 3 | .s2 => 4 | _ => 0)
    | .pwrClk =>
      s.live off 32 0 (s.pwr.gov + s.pwr.clock .north * 2 ^ 11 + s.pwr.clock .south * 2 ^ 22)
    | .pwrTherm =>
      let h := s.pwr.hottest
      setFld (setFld (setFld (s.live off 31 24 h.1) 47 32 (ofSigned 16 h.2)) 48 48 (if s.pwr.thN < 1200 then 1 else 0)) 49 49
        (if s.pwr.thS < 1200 then 1 else 0)
    | .coreCtrl | .mgtCmd | .gtbStep | .fltCtrl => 0
    | _ => s.reg off

/-! ## When a block answers -/

/-- The block of a register offset: 0 GEN, 1 SEM, 2 HST, 4 PRT, 8 ARR and so on, by 64 KiB range. -/
def blockOf (off : Nat) : Nat := off / 0x10000

/-- Whether a block's reads return present values before publication (R370). -/
def earlyRead (off : Nat) : Bool :=
  [0x1, 0x2, 0x3, 0x1B, 0x19, 0x1C].contains (blockOf off) || off < 0x20 || off == Reg.genDetClass

/-- Whether a block takes a port's writes before publication (R370). -/
def earlyWrite (off : Nat) : Bool := [0x1, 0x2, 0x3, 0x1B].contains (blockOf off)

/-- Whether a block's reads are served in S1 and S2 (R406). -/
def asleepRead (off : Nat) : Bool := [0x0, 0x1A, 0x19, 0x1B, 0x1C, 0x1].contains (blockOf off)

/-- Whether the module is in a sleep state. -/
def State.asleep (s : State) : Bool := s.pwr.state != .s0

/-- The unit at an offset as a reader finds it: before publication a block that does not answer yet shows its reset value,
and GEN_CAPS zero (R370). -/
def State.regSeen (s : State) (who : Requester) (off : Nat) : U64 :=
  if s.boot.published || who == .gatehouse || earlyRead off then s.regView off
  else if Reg.genCaps ≤ off ∧ off < Reg.genCaps + 32 then 0 else regReset off

/-! ## Reads with their effects -/

/-- The lease's end for a semaphore acquired or renewed now: LEASE × 10 µs; none for LEASE 0 (R317). -/
def State.leaseEnd (s : State) (n : Nat) : Option Nat :=
  let l := s.rf (Reg.semCfg n) 15 0
  if l = 0 then none else some (s.clk.wall + usec (10 * l))

/-- A read of SEM_LOCK (R315): a port or the Gatehouse acquires a free semaphore. The value and the state after it. -/
def State.semRead (s : State) (who : Requester) (n : Nat) : Nat × State :=
  let x := s.sem n
  let w := who.semCode
  if w = 0 ∨ x.owner ≠ 0 then (x.owner, s)
  else (w + 4, s.setSem n ⟨w, s.leaseEnd n, x.lapsed.filter (· != w)⟩)

/-- The unit `v` with every rc field that lies wholly within the bits [hi:lo] taken from another word (R10, R423). -/
def withRc (n : RegName) (unit hi lo : Nat) (w v : U64) : U64 :=
  n.fields.foldl (fun v f =>
    if f.acc = .rc ∧ f.lo / 64 = unit ∧ lo ≤ f.lo % 64 ∧ f.hi / 64 = unit ∧ f.hi % 64 ≤ hi then
      setFld v (f.hi % 64) (f.lo % 64) (fld w (f.hi % 64) (f.lo % 64)) else v) v

/-- A read of the rc fields within the bits [hi:lo] of a unit that shows `v` (R10, R11, R423): they return what they held
before the present cycle, and hold afterwards only the events of it. The value, and the state after the read. -/
def State.readRc (s : State) (n : RegName) (off unit hi lo : Nat) (v : U64) : U64 × State :=
  let r := s.regNow off
  let s' := s.setReg off (withRc n unit hi lo r.fresh (s.reg off))
  (withRc n unit hi lo r.before v,
    match Table.look (fun _ => none) s.now off with
    | some _ =>
      { s' with now := Table.put (fun _ => none) s.now off (some ⟨withRc n unit hi lo 0 r.before, r.fresh⟩) }
    | none => s')

/-- Whether a register read has a legal size and alignment (R422). -/
def accessOk (off size : Nat) : Bool := (size == 4 && off % 4 == 0) || (size == 8 && off % 8 == 0)

/-- The effects of a served read of a unit's bytes: rc fields clear, GTB_NS latches its fraction (R281), SEM_LOCK is
acquired (R315), and a port's next stranger is reported again (R259). -/
def State.readEffects (s : State) (who : Requester) (off size : Nat) : U64 × State :=
  let u := off / 8 * 8
  let lo := off % 8 * 8
  let v := s.regSeen who u
  match regPlace u with
  | none => (v, s)
  | some p =>
    match p.reg with
    | .semLock => if off % 8 = 0 then let r := s.semRead who p.inst; (BitVec.ofNat 64 r.1, r.2) else (v, s)
    | .gtbNs =>
      if s.boot.published || who == .gatehouse then (v, s.setRf Reg.gtbStatus 15 0 s.clk.gtimeFrac.toNat) else (v, s)
    | .hfbStrcnt =>
      if s.boot.published || who == .gatehouse then
        let ports := Table.upd (fun _ => ({} : HallPortState)) s.hall.ports p.inst (fun x => { x with stranger := false })
        let r := s.readRc .hfbStrcnt u 0 (lo + 8 * size - 1) lo v
        (r.1, { r.2 with hall := { r.2.hall with ports := ports } })
      else (v, s)
    | n =>
      if (s.boot.published || who == .gatehouse || earlyRead u) && v != 0 then
        s.readRc n u p.unit (lo + 8 * size - 1) lo v
      else (v, s)

/-- A register read by a requester, with its effects (R10, R370, R406, R422 to R424): the value and the state after it;
none when the module answers Unsupported Request. A hall or BAR4 read has no effect. -/
def State.regRead (s : State) (who : Requester) (off size : Nat) : Option U64 × State :=
  if who.isPort && s.asleep && !asleepRead off then (none, s)
  else if !accessOk off size then (some 0, s)
  else
    let r := if who = .hall ∨ who = .bar4 then (s.regSeen who (off / 8 * 8), s) else s.readEffects who off size
    (some (BitVec.ofNat 64 (bitsN r.1.toNat (off % 8 * 8 + 8 * size - 1) (off % 8 * 8))), r.2)

/-- The outcome of a register read: the data returned; no data with Unsupported Request. -/
def State.answerRead (s : State) (who : Requester) (off size : Nat) : State :=
  match s.regRead who off size with
  | (some v, t) => { t with readData := v, readBytes := leBytes size v.toNat }
  | (none, t) => { t with readData := 0, readBytes := [] }

/-- REGISTER_READ_CLEAR: a read of a register (R10, R422 to R424). -/
def execRegisterReadClear (who : Requester) (off : BitVec 25) (size : Nat) (s : State) : Out :=
  .next (s.answerRead who off.toNat size)

/-- SEM_LOCK_READ: a read of SEM_LOCK[s] (R315). -/
def execSemLockRead (who : Requester) (n : SemId) (s : State) : Out := .next (s.answerRead who (Reg.semLock n) 8)

/-- GTB_NS_READ: a read of GTB_NS, which latches the fraction (R281). -/
def execGtbNsRead (who : Requester) (s : State) : Out := .next (s.answerRead who Reg.gtbNs 8)

/-! ## Ownership (R313) -/

/-- Whether a requester's write meets the conditions of R313 for partition q. -/
def State.mayOwn (s : State) (who : Requester) (q : Nat) : Bool :=
  let v := s.reg (Reg.prtOwner q)
  let mode := fld v 1 0
  match who with
  | .gatehouse => true
  | .portA => mode == 0 || mode == 1 || (mode == 3 && (s.sem (fld v 7 2)).owner == 1) ||
      (mode == 2 && s.rf (Reg.hstPortstat 1) 0 0 == 0)
  | .portB => mode == 0 || mode == 2 || (mode == 3 && (s.sem (fld v 7 2)).owner == 2) ||
      (mode == 1 && s.rf (Reg.hstPortstat 0) 0 0 == 0)
  | _ => false

/-- Whether a port holds a partition for its descriptors (R303, R314). -/
def State.holdsPart (s : State) (p : Port) (q : Nat) : Bool :=
  let v := s.reg (Reg.prtOwner q)
  let me := p.num + 1
  fld v 1 0 == me || (fld v 1 0 == 3 && (s.sem (fld v 7 2)).owner == me)

/-- A write of MODE and SEM to PRT_OWNER takes effect under R313; another, as every hall write (R424), is discarded and
sets REJECTED. -/
def State.ownerWrite (s : State) (who : Requester) (q mode sem : Nat) : State :=
  if s.mayOwn who q then (s.setRf (Reg.prtOwner q) 1 0 mode).setRf (Reg.prtOwner q) 7 2 sem
  else s.raise (Reg.prtOwner q) 8 8 1

/-- Whether a port's register writes reach a block now (R370, R406). -/
def State.writeReaches (s : State) (who : Requester) (off : Nat) : Bool :=
  match who with
  | .gatehouse => true
  | .portA => !s.asleep && (s.boot.published || earlyWrite off)
  | .portB => !s.asleep && (s.boot.published || earlyWrite off)
  | .hall => s.rf Reg.hftCfg 11 11 == 1 && !s.asleep && s.boot.published
  | .bar4 => false

/-- PRT_OWNER_WRITE (R313). -/
def execPrtOwnerWrite (who : Requester) (q : QuireId) (mode : BitVec 2) (sem : SemId) (s : State) : Out :=
  .next (if s.writeReaches who (Reg.prtOwner q) then s.ownerWrite who q mode.toNat sem else s)

/-! ## Semaphores (R316, R317) -/

/-- A write to SEM_LOCK (R316): the owner releases or renews; another requester's write is counted. -/
def State.semWrite (s : State) (who : Requester) (n action : Nat) : State :=
  let x := s.sem n
  let w := who.semCode
  if w = 0 then s
  else if x.owner = w then
    if action = 1 then s.setSem n { x with owner := 0, leaseEnd := none }
    else if action = 2 then s.setSem n { x with leaseEnd := s.leaseEnd n }
    else s
  else if w ∈ x.lapsed then s.count Reg.semStat 31 16 1
  else s.count Reg.semStat 47 32 1

/-- SEM_RELEASE: ACTION 1 written to SEM_LOCK (R316). -/
def execSemRelease (who : Requester) (n : SemId) (s : State) : Out :=
  .next (if s.writeReaches who (Reg.semLock n) then s.semWrite who n 1 else s)

/-- SEM_RENEW: ACTION 2 written to SEM_LOCK (R316). -/
def execSemRenew (who : Requester) (n : SemId) (s : State) : Out :=
  .next (if s.writeReaches who (Reg.semLock n) then s.semWrite who n 2 else s)

/-- A lease ends: the semaphore is free, its former owner port is interrupted and EXPIRED rises (R317). -/
def State.loseLease (s : State) (n : Nat) : State :=
  let x := s.sem n
  let s := (s.setSem n ⟨0, none, x.owner :: x.lapsed.filter (· != x.owner)⟩).count Reg.semStat 15 0 1
  if x.owner = 1 then s.interrupt .a (s.rf (Reg.hstPortcfg 0) 33 26)
  else if x.owner = 2 then s.interrupt .b (s.rf (Reg.hstPortcfg 1) 33 26)
  else s

/-- SEM_LEASE_EXPIRE: the lease of a semaphore has run out (R317, R9). -/
def execSemLeaseExpire (n : SemId) (s : State) : Out :=
  .next (match (s.sem n).leaseEnd with
    | some t => if (s.sem n).owner ≠ 0 ∧ t < s.clk.wall then s.loseLease n else s
    | none => s)

/-! ## ARR_MODE (R212) -/

/-- A write to ARR_MODE.DET (R212): no change has no effect; a change is taken while the array is stopped and else
discarded with REJECTED set. -/
def State.modeWrite (s : State) (det : Bool) : State :=
  if s.det = det then s
  else if s.arrayStopped then s.setRf Reg.arrMode 0 0 (if det then 1 else 0)
  else s.raise Reg.arrMode 8 8 1

/-- Whether a reset of a partition waits in the queue, and so falls in the present cycle: it takes effect before a barrier
release or a hold drop of that cycle, which then does not happen (R326, log 127). -/
def State.resetWaits (s : State) (q : Nat) : Bool :=
  s.pending.any (fun c => match c with
    | .partitionReset who r => r.val == q && s.writeReaches who (Reg.prtCtrl q) && s.mayOwn who q
    | _ => false)

/-- The writes to ARR_MODE.DET of the present cycle are taken before the start of a descriptor that ends the stopped state
(R212): those that wait in the queue fall in the same cycle, since time passes only while it is empty (log 121). -/
def State.modeFirst (s : State) : State :=
  s.pending.foldl (fun t c => match c with
    | .arrModeWrite who det => if t.writeReaches who Reg.arrMode then t.modeWrite det else t
    | _ => t) s

end Sys2Proof.Machine
end

