-- ==== Sys2Proof/Machine/HallOps.lean ====
section
/-! DEFINITION. The hall transport's shared operations: frames, connections, acknowledgements, streams, barrier groups and
GTB comparators (R256 to R280, R286). -/

namespace Sys2Proof.Machine

/-! ## Header fields (R256) -/

/-- Frame type. -/
def hdrType (h : List Byte) : Nat := bitsN (leAt h 0 1) 3 0
/-- Version. -/
def hdrVersion (h : List Byte) : Nat := bitsN (leAt h 0 1) 7 4
/-- FLAGS. -/
def hdrFlags (h : List Byte) : Nat := leAt h 1 1
/-- HALL_ID. -/
def hdrHall (h : List Byte) : Nat := leAt h 2 2
/-- SRC. -/
def hdrSrc (h : List Byte) : Nat := bitsN (leAt h 4 2) 9 0
/-- DST. -/
def hdrDst (h : List Byte) : Nat := leAt h 6 2
/-- SEQ. -/
def hdrSeq (h : List Byte) : Nat := leAt h 8 4
/-- ACK. -/
def hdrAck (h : List Byte) : Nat := leAt h 12 4
/-- SACK. -/
def hdrSack (h : List Byte) : Nat := leAt h 16 4
/-- LENGTH. -/
def hdrLength (h : List Byte) : Nat := bitsN (leAt h 0x14 2) 13 0
/-- STREAM. -/
def hdrStream (h : List Byte) : Nat := bitsN (leAt h 0x16 2) 11 0
/-- BARRIER. -/
def hdrBarrier (h : List Byte) : Nat := leAt h 0x18 4

/-- A transport header with its check. -/
def mkHeader (ty flags hall src dst seq ack sack len stream barrier : Nat) : List Byte :=
  let h := leBytes 1 (ty + 16) ++ leBytes 1 flags ++ leBytes 2 hall ++ leBytes 2 src ++ leBytes 2 dst ++ leBytes 4 seq ++
    leBytes 4 ack ++ leBytes 4 sack ++ leBytes 2 len ++ leBytes 2 stream ++ leBytes 4 barrier
  h ++ leBytes 4 (crc32c h).toNat

/-! ## Ports and connections -/

/-- The state of a hall port. -/
def State.hport (s : State) (p : Nat) : HallPortState := Table.look (fun _ => {}) s.hall.ports p

/-- The state with a hall port changed. -/
def State.updPort (s : State) (p : Nat) (f : HallPortState → HallPortState) : State :=
  { s with hall := { s.hall with ports := Table.put (fun _ => {}) s.hall.ports p (f (s.hport p)) } }

/-- The connection with a peer. -/
def State.conn (s : State) (d : Nat) : Conn := Table.look (fun _ => {}) s.hall.conns d

/-- The state with a connection changed. -/
def State.updConn (s : State) (d : Nat) (f : Conn → Conn) : State :=
  { s with hall := { s.hall with conns := Table.put (fun _ => {}) s.hall.conns d (f (s.conn d)) } }

/-- The module's device id. -/
def State.device (s : State) : Nat := s.rf Reg.hftCfg 9 0

/-- Whether the transport is enabled. -/
def State.hallOn (s : State) : Bool := s.rf Reg.hftCfg 10 10 == 1

/-- Whether a hall port's link is up. -/
def State.linkUp (s : State) (p : Nat) : Bool := s.rf (Reg.hfbPortstat p) 0 0 == 1

/-- Thirds of a byte that a port sends in a unit of `wall`: 100 B/ns at 800 Gb/s, half of that at 400 Gb/s (R254). -/
def State.portPace (s : State) (p : Nat) : Nat := if s.rf (Reg.hfbPortstat p) 3 2 = 1 then 250 else 125

/-- What a port has still to send, in thirds of a byte (R263, log 58). -/
def State.portQueue (s : State) (p : Nat) : Nat :=
  (s.hport p).backlog - (s.clk.wall - (s.hport p).backAt) * s.portPace p

/-- The least-queued of some ports, the first of equals. -/
def State.leastQueued (s : State) (ps : List Nat) : Option Nat :=
  ps.foldl (fun best p => match best with
    | none => some p
    | some b => if s.portQueue p < s.portQueue b then some p else some b) none

/-- The port, of those in a mask, that a frame to a peer leaves on (R263): in deterministic mode the peer's port, in free mode
the least-queued of its ports whose link is up, the lower number winning a tie. None while no link serves. -/
def State.portAmong (s : State) (d mask : Nat) : Option Nat :=
  if s.det then
    let p := s.rf (Reg.hftPeer d) 58 56
    if mask.testBit p && s.linkUp p then some p else none
  else s.leastQueued ((List.range 8).filter (fun p =>
    (s.rf (Reg.hftPeer d) 55 48).testBit p && mask.testBit p && s.linkUp p))

/-- The port a frame to a peer leaves on when no ring binds it to an edge (R263). -/
def State.portFor (s : State) (d : Nat) : Option Nat := s.portAmong d 255

/-- The hall ports that an edge reaches: 0 to 3 from the north, 4 to 7 from the south (R22). -/
def edgePorts (buffer : Nat) : Nat := if buffer = 0 then 0x0F else if buffer = 1 then 0xF0 else 0

/-- A barrier group. -/
def State.barGroup (s : State) (g : Nat) : Option BarGroup := Table.look (fun _ => none) s.hall.groups g

/-- The state with a barrier group set. -/
def State.setGroup (s : State) (g : Nat) (x : Option BarGroup) : State :=
  { s with hall := { s.hall with groups := Table.put (fun _ => none) s.hall.groups g x } }

/-- Whether a group's state concerns a peer: the coordinator for a participant, every participant for the coordinator
(R276). -/
def BarGroup.concerns (x : BarGroup) (dev d : Nat) : Bool :=
  x.field != 0 && (if x.coord = dev then d ∈ x.members && d != dev else d == x.coord)

/-- The groups whose state concerns a peer, ascending. -/
def State.groupsFor (s : State) (d : Nat) : List (Nat × BarGroup) :=
  (List.range 16).filterMap (fun g => match s.barGroup g with
    | some x => if x.concerns s.device d then some (g, x) else none
    | none => none)

/-- The barrier field of the next frame to a peer, and the group it names: the groups take turns (R276). -/
def State.barrierFor (s : State) (d : Nat) : Nat × Nat :=
  let gs := s.groupsFor d
  match (gs.filter (fun e => (s.conn d).barTurn ≤ e.1)).head? <|> gs.head? with
  | some (g, x) => (x.field, g + 1)
  | none => (0, 0)

/-- The SACK bits of a connection: CTRL frames received above the next expected one (R256). A DATA frame that waits for order is
still in receive staging, and so not acknowledged (R265). DEDUCED, log 122. -/
def Conn.sack (c : Conn) : Nat :=
  bitsFrom (((c.held.filter RxFrame.isCtrl).map (fun f => (f.seq + 2 ^ 32 - c.rxNext) % 2 ^ 32)).filterMap (fun k =>
    if 1 ≤ k ∧ k ≤ 32 then some (k - 1) else none))

/-- A secure association installed at a port: the newest of at most two per direction (R260, R398). -/
def State.installSa (s : State) (r : Rekey) : State :=
  s.updPort r.port (fun x => if r.transmit then { x with tx := r.sa :: x.tx.take 1 } else { x with rx := r.sa :: x.rx.take 1 })

/-! ## Sending -/

/-- The wire size of a frame body with the port's tags (R255, R256). -/
def frameSize (vlan sec : Bool) (body : Nat) : Nat :=
  max 64 (18 + (if vlan then 4 else 0) + (if sec then 32 else 0) + body)

/-- A frame joins a port's queue and the wire; on the wire it takes 20 B more, for preamble and gap (R256). -/
def State.putOnWire (s : State) (p : Nat) (f : Frame) : State :=
  let t := s.updPort p (fun x => { x with
    lastSent := s.clk.wall, backlog := s.portQueue p + 3 * (f.size + 20), backAt := s.clk.wall })
  { t with hall := { t.hall with wire := t.hall.wire ++ [(Fin.ofNat 8 p, f)] } }

/-- The packet number of the GCM-AES-256 suite from which on the Gatehouse agrees a fresh association, well before 0xC000_0000 (R398,
log 137). -/
abbrev rekeyFrom : Nat := 0xBFF00000

/-- A transmit association that nears its packet limit has a fresh one agreed, which is installed when its entropy is drawn
(R349, R398). -/
def State.renewSa (s : State) (p : Nat) (a : Sa) : State :=
  if !a.xpn && decide (rekeyFrom ≤ a.pn) && !s.hall.keying.any (fun r => r.transmit && r.port.val == p % 8) then
    { s with hall := { s.hall with keying := s.hall.keying ++
      [⟨Fin.ofNat 8 p, true, ⟨(a.an + 1) % 4, false, Config.agreedKey s.mgt.cak p s.clk.wall, 1⟩⟩] } }
  else s

/-- A frame leaves a port to an Ethernet address: with the port's VLAN tag and, with MACsec on, under its newest transmit
association, whose packet number rises, and which is renewed in time (R260, R398). Without such an association the frame cannot leave. -/
def State.emit (s : State) (p : Nat) (mac : BitVec 48) (etype : Nat) (body : List Byte) : State :=
  let cfg := s.reg (Reg.hfbPortcfg p)
  let vlan := fld cfg 15 4
  let sec := bit cfg 3
  let frame (st : Option SecTag) : Frame :=
    { fcsOk := true, dst := mac, src := BitVec.ofNat 48 (fld cfg 63 16)
      vlan := if vlan = 0 then none else some (BitVec.ofNat 12 vlan), sec := st
      etype := BitVec.ofNat 16 etype, size := frameSize (vlan != 0) sec body.length, body := body }
  if sec then
    match (s.hport p).tx with
    | a :: as =>
      if a.pn < (if a.xpn then 2 ^ 64 else 2 ^ 32) then
        ((s.renewSa p a).updPort p (fun x => { x with tx := { a with pn := a.pn + 1 } :: as })).putOnWire p
          (frame (some ⟨BitVec.ofNat 2 a.an, BitVec.ofNat 64 a.pn, a.key, a.xpn⟩))
      else s
    | [] => s
  else s.putOnWire p (frame none)

/-- A transport frame to a peer, by a port of a mask: it carries ACK, SACK and a barrier field, and with it no acknowledgement
is owed any more (R265, R276, R277). Nothing leaves without a port or with the transport disabled. -/
def State.sendBy (s : State) (mask d ty flags seq stream : Nat) (payload : List Byte) : State :=
  match s.portAmong d mask with
  | none => s
  | some p =>
    if s.hallOn then
      let c := s.conn d
      let b := s.barrierFor d
      let h := mkHeader ty (flags ||| 1) (s.rf Reg.hftCfg 31 16) s.device d seq c.rxNext c.sack payload.length stream b.1
      let s := s.updConn d (fun c => { c with
        owedAck := false, delivered := 0, firstDel := none, outOfOrder := false, barDue := false, barTurn := b.2 })
      s.emit p (BitVec.ofNat 48 (s.rf (Reg.hftPeer d) 47 0)) (s.rf Reg.hftCfg 47 32) (h ++ payload)
    else s

/-- A transport frame to a peer by any of its ports. -/
def State.sendTo (s : State) (d ty flags seq stream : Nat) (payload : List Byte) : State :=
  s.sendBy 255 d ty flags seq stream payload

/-- RTO in units of `wall`: 100 ns are 120 units (R266). -/
def State.rtoBase (s : State) : Nat := s.rf Reg.hftTimer 11 0 * 120

/-! ## Hall staging (R163, R271, R272, log 27) -/

/-- The 8 KiB slots of the regions of a use, in ARR_EBREGION order: buffer and offset. -/
def State.slotsOf (s : State) (use : Nat) : List (Nat × Nat) :=
  (List.range 128).flatMap (fun i =>
    let v := s.reg (Reg.arrEbregion i)
    if bit v 31 && fld v 27 24 == use then
      (List.range (8 * (fld v 15 8 + 1))).map (fun k => (i / 32, fld v 7 0 * 0x10000 + k * 8192))
    else [])

/-- The slots of the receive staging regions. -/
def State.slots (s : State) : List (Nat × Nat) := s.slotsOf 3

/-- The bytes of a frame's payload. -/
def TxFrame.size (f : TxFrame) : Nat := if f.place.isSome then f.len else f.payload.length

/-- The lowest free slot of the send staging regions. -/
def State.freeSlot (s : State) : Option (Nat × Nat) :=
  let used := s.hall.conns.flatMap (fun e => (e.2.queue ++ e.2.unacked).filterMap TxFrame.place)
  (s.slotsOf 4).find? (fun p => p ∉ used)

/-- A frame staged for sending; without a free slot it stays outside memory (R271, log 27). -/
def State.stageTx (s : State) (f : TxFrame) : TxFrame × State :=
  match s.freeSlot with
  | some (b, off) =>
    ({ f with payload := [], place := some (b, off), len := f.payload.length }, s.bufferWrite b off f.payload)
  | none => (f, s)

/-- The payload of a frame; none after an uncorrectable granule of its staging slot (R160). -/
def State.txPayload (s : State) (f : TxFrame) : Option (List Byte) × State :=
  match f.place with
  | none => (some f.payload, s)
  | some (b, off) =>
    let r := s.bufferRead b off f.len
    (if r.1.isSome then none else some r.2.1, r.2.2)

/-- A payload that is sent at once passes through a free slot of send staging (R271, log 27). -/
def State.passStaging (s : State) (payload : List Byte) : State :=
  match s.freeSlot with
  | some (b, off) => s.bufferWrite b off payload
  | none => s

/-- A frame queued for a peer. -/
def State.queueFrame (s : State) (d : Nat) (f : TxFrame) : State := s.updConn d (fun c => { c with queue := c.queue ++ [f] })

/-- A frame staged and queued for a peer. -/
def State.queueStaged (s : State) (d : Nat) (f : TxFrame) : State := (s.stageTx f).2.queueFrame d (s.stageTx f).1

/-- A control message of 16 B (R269). -/
def ctrlMsg (code id : Nat) (rest : List Byte) : List Byte :=
  padTo 16 (leBytes 1 code ++ leBytes 1 0 ++ leBytes 2 id ++ rest)

/-- A control message queued for a peer, in a frame of its own. -/
def State.queueCtrl (s : State) (d : Nat) (m : List Byte) : State := s.queueStaged d { isCtrl := true, payload := m }

/-- An ABORT message with its reason. -/
def State.abortTo (s : State) (d id reason : Nat) : State := s.queueCtrl d (ctrlMsg 6 id (leBytes 1 reason))

/-- The state with the streams changed. -/
def State.mapStreams (s : State) (f : Stream → Stream) : State :=
  { s with hall := { s.hall with streams := s.hall.streams.map f } }

/-- A frame whose staging has failed cannot be sent: the GET that it serves is ended with ABORT reason 5 (R160). -/
def State.stagingFailed (s : State) (d : Nat) (f : TxFrame) : State :=
  if f.isCtrl then s
  else
    (s.mapStreams (fun x => if x.peer == d && x.id == f.stream && x.part.isNone then { x with stopped := true } else x)).abortTo
      d f.stream 5

/-- A sequenced frame goes out, or goes out again (R264, R266). -/
def State.sendSeq (s : State) (d : Nat) (f : TxFrame) : State :=
  match s.txPayload f with
  | (none, t) => t.stagingFailed d f
  | (some bs, t) => t.sendBy f.ports d (if f.isCtrl then 1 else 0) (if 1 < f.sends then 2 else 0) f.seq f.stream bs

/-- The frame that a connection sends next and the rest of its queue: with no window, CTRL frames alone (R272). -/
def Conn.nextTx (c : Conn) : Option (TxFrame × List TxFrame) :=
  if c.peerWin = 0 then (c.queue.find? TxFrame.isCtrl).map (fun f => (f, c.queue.erase f))
  else match c.queue with
    | [] => none
    | f :: fs => some (f, fs)

/-- A frame takes its number, is sent and waits for its acknowledgement; the timer starts with the first unacknowledged
frame (R264, R266). -/
def State.sendFrame (s : State) (d : Nat) (f : TxFrame) (rest : List TxFrame) : State :=
  let f := { f with seq := (s.conn d).txSeq, sends := 1 }
  (s.updConn d (fun c => { c with
    queue := rest, txSeq := (c.txSeq + 1) % 2 ^ 32, unacked := c.unacked ++ [f]
    rto := if c.unacked.isEmpty then s.rtoBase else c.rto
    deadline := if c.unacked.isEmpty then some (s.clk.wall + s.rtoBase) else c.deadline })).sendSeq d f

/-- The next frame of a connection is sent. One whose staging has failed leaves the queue unsent (R160). -/
def State.sendNext (s : State) (d : Nat) : State :=
  match (s.conn d).nextTx with
  | none => s
  | some (f, rest) =>
    match s.txPayload f with
    | (none, t) => (t.updConn d (fun c => { c with queue := rest })).stagingFailed d f
    | (some _, _) => s.sendFrame d f rest

/-! ## Windows (R272) -/

/-- The number of receive staging slots. -/
def State.stagingSlots (s : State) : Nat := s.slots.length

/-- The window that an OPEN or OPEN_ACK grants a peer, with WIN_REFUSED set when the staging region is too small
(R272). -/
def State.grantWindow (s : State) (d : Nat) : Nat × State :=
  let want := fld (s.reg (Reg.hftPeer d + 8)) 11 0
  let others := (s.hall.conns.filter (fun e => e.1 != d)).foldl (fun n e => n + e.2.granted) 0
  if s.stagingSlots = 0 then (0, s)
  else if s.stagingSlots < others + want then (0, s.raise Reg.hftCfg 12 12 1)
  else (want, s)

/-! ## Streams -/

/-- A stream's ring stops (R274). -/
def State.stopStreamRing (s : State) (x : Stream) : State :=
  match x.part with
  | some (q, r) => s.updPart q (fun p => p.updRing r (fun y => { y with stopped := true }))
  | none => s

/-- The streams that a test picks stop, and so do their rings. -/
def State.stopStreams (s : State) (f : Stream → Bool) : State :=
  let hit := s.hall.streams.filter (fun x => f x && !x.stopped)
  (hit.foldl State.stopStreamRing s).mapStreams (fun x => if f x then { x with stopped := true } else x)

/-- A connection is lost: it is reported and every remote stream with the peer stops (R267). -/
def State.loseConn (s : State) (d : Nat) : State :=
  let s := s.updConn d (fun c => { c with state := .lost, queue := [], unacked := [], deadline := none })
  (s.stopStreams (fun x => x.peer == d)).report (blockSrc 4 0) 0x71 d 127

/-! ## Acknowledgements (R264, R266, R268) -/

/-- Whether an ACK and SACK name a frame. -/
def names (ack sack seq : Nat) : Bool :=
  let behind := (ack + 2 ^ 32 - seq) % 2 ^ 32
  let ahead := (seq + 2 ^ 32 - ack) % 2 ^ 32
  (1 ≤ behind && behind ≤ 2 ^ 31) || (1 ≤ ahead && ahead ≤ 32 && sack.testBit (ahead - 1))

/-- Bytes of a stream acknowledged; a collect ring frees them (R272). -/
def State.ackStream (s : State) (d : Nat) (f : TxFrame) : State :=
  if f.isCtrl then s
  else
    let n := f.size
    let hit := s.hall.streams.filter (fun x => x.peer == d && x.id == f.stream && x.send)
    let s := hit.foldl (fun t x => match x.part with
      | some (q, r) => t.updPart q (fun p => p.updRing r (fun y => { y with fill := y.fill + n, moved := y.moved + n }))
      | none => t) s
    s.mapStreams (fun x => if x.peer == d && x.id == f.stream && x.send then { x with acked := x.acked + n } else x)

/-- The frames of a gap below three or more received frames (R266). -/
def gapFrames (ack sack : Nat) (l : List TxFrame) : List TxFrame :=
  l.filter (fun f => !names ack sack f.seq &&
    3 ≤ ((List.range 32).filter (fun i => sack.testBit i &&
      (f.seq + 2 ^ 32 - ack) % 2 ^ 32 < 1 + i)).length && (f.seq + 2 ^ 32 - ack) % 2 ^ 32 < 33)

/-- A frame is sent again with RETX set and counted. -/
def State.resend (s : State) (d : Nat) (f : TxFrame) : State :=
  let f' := { f with sends := f.sends + 1 }
  let s := s.updConn d (fun c => { c with unacked := c.unacked.map (fun x => if x.seq = f.seq then f' else x) })
  (s.sendSeq d f').count Reg.hftPeerstat 63 48 1

/-- Whether an acknowledgement comes after the expiry that it should have prevented (R268): the timed frame's timer has run
out and nothing is resent yet, or it answers the copy sent before the expiry (log 123). -/
def State.lateAck (s : State) (d ack sack : Nat) : Bool :=
  let c := s.conn d
  (match c.deadline, c.unacked with
    | some t, f :: _ => decide (t < s.clk.wall) && names ack sack f.seq
    | _, _ => false) ||
  (match c.expired with
    | some q => names ack sack q && Config.firstCopyAck d q s.clk.wall
    | none => false)

/-- The ACK and SACK of a frame from a peer: acknowledged frames leave, the timer starts again when the oldest one
changes, and a gap is resent at once. A late acknowledgement is discarded and counted (R268). -/
def State.takeAck (s : State) (d : Nat) (h : List Byte) : State :=
  let c := s.conn d
  let ack := hdrAck h
  let sack := hdrSack h
  let late := s.lateAck d ack sack
  if !(hdrFlags h).testBit 0 then s
  else if late then (s.updConn d (fun c => { c with expired := none })).count Reg.hftPeerstat 47 32 1
  else
    let gone := c.unacked.filter (fun f => names ack sack f.seq)
    let left := c.unacked.filter (fun f => !names ack sack f.seq)
    let s := gone.foldl (fun t f => t.ackStream d f) s
    let advanced := gone.any (fun f => names ack 0 f.seq)
    let s := s.updConn d (fun c => { c with
      unacked := left
      expiries := if advanced then 0 else c.expiries
      expired := if advanced then none else c.expired
      rto := if advanced then s.rtoBase else c.rto
      deadline := if left.isEmpty then none
        else if left.head? = c.unacked.head? then c.deadline
        else some (s.clk.wall + (if advanced then s.rtoBase else c.rto)) })
    (gapFrames ack sack left).foldl (fun t f => t.resend d f) s

/-! ## Barrier fields (R276) -/

/-- The barrier field of an accepted frame waits for the command of its code when its number is the expected one; a
repeat of the last accepted field is ignored and any other number counted (R276). -/
def State.takeBarrier (s : State) (d : Nat) (field : Nat) : State :=
  let code := bitsN field 5 4
  let g := bitsN field 3 0
  if code = 0 then s
  else
    match s.barGroup g with
    | none => s
    | some x =>
      if Table.look (fun _ => 0) x.last d = field ∧ 0 < Table.look (fun _ => 0) x.seen d then s
      else if bitsN field 13 6 = Table.look (fun _ => 0) x.seen d % 256 ∧ code ≠ 3 then
        { s.setGroup g (some { x with
            seen := Table.put (fun _ => 0) x.seen d (Table.look (fun _ => 0) x.seen d + 1)
            last := Table.put (fun _ => 0) x.last d field }) with
          hall := { (s.setGroup g (some { x with
            seen := Table.put (fun _ => 0) x.seen d (Table.look (fun _ => 0) x.seen d + 1)
            last := Table.put (fun _ => 0) x.last d field })).hall with bars := s.hall.bars ++ [⟨d, field⟩] } }
      else s.count Reg.hftBarstat 63 48 1

/-- The ACK, SACK and barrier fields of an accepted frame (R257, R265). -/
def State.takeFields (s : State) (d : Nat) (h : List Byte) : State := (s.takeAck d h).takeBarrier d (hdrBarrier h)

/-! ## The log queue (R365) -/

/-- A message enters the Gatehouse's log queue; at a full queue it is counted as lost (R365). -/
def State.enterLog (s : State) (m : FaultMsg) : State :=
  if s.flt.log.length < 256 then { s with flt := { s.flt with log := s.flt.log ++ [({ m with at_ := s.mc }, s.clk.gtimeNs)] } }
  else s.count Reg.fltStat 31 16 1

/-! ## GTB comparators (R286) -/

/-- The owner code of a comparator; 0 free. -/
def State.cmpOwner (s : State) (k : Nat) : Nat := fld (s.reg (Reg.gtbCmp k + 8)) 2 0

/-- Whether a comparator waits for its time. -/
def State.cmpArmed (s : State) (k : Nat) : Bool := bit (s.reg (Reg.gtbCmp k + 8)) 16

/-- The lowest free comparator. -/
def State.freeCmp (s : State) : Option Nat := (List.range 8).find? (fun k => s.cmpOwner k == 0)

/-- A comparator set: owner, index, time and whether it waits. -/
def State.setCmp (s : State) (k owner index : Nat) (time : Nat) (armed : Bool) : State :=
  (s.setReg (Reg.gtbCmp k) (BitVec.ofNat 64 time)).setReg (Reg.gtbCmp k + 8)
    (BitVec.ofNat 64 (owner + index % 256 * 2 ^ 8 + (if armed then 2 ^ 16 else 0)))

/-- A comparator freed. -/
def State.freeCmpAt (s : State) (k : Nat) : State := s.setCmp k 0 0 0 false

/-- A barrier group disarmed, its comparator freed (R311, R325). -/
def State.disarm (s : State) (g : Nat) : State :=
  match s.barGroup g with
  | none => s
  | some x => ((s.setGroup g none).freeCmpAt x.cmp).updPart x.part (fun p => { p with group := none })

end Sys2Proof.Machine
end

