-- ==== Sys2Proof/Machine/Entropy.lean ====
section
/-! DEFINITION. The entropy source: noise samples and their tests, the conditioner, the expander, its states, and the lane
generators it seeds (R139 to R142, R338 to R352). -/

namespace Sys2Proof.Machine

/-! ## States -/

/-- The module's 40-bit serial number. -/
def State.serial (s : State) : Nat := s.rf (Reg.genIdent + 8) 39 0

/-- The noise sources in use (R338). -/
def State.enabledSources (s : State) : List Nat := setBitsOf 8 (s.rf Reg.entStatus 31 24)

/-- The number of healthy sources. -/
def State.healthyCount (s : State) : Nat := (s.enabledSources.filter (fun i => (s.noise i).healthy)).length

/-- Whether the source serves its output: it has become ready and is not fatal (R348). -/
def EntState.serves : EntState → Bool
  | .normal => true | .recovery => true | .limit => true | _ => false

/-- Requests between reseeds (R346). -/
abbrev reseedAfter : Nat := 4096
/-- The expander's limit (R346). -/
abbrev expanderLimit : Nat := 1048576

/-- Whether a sample of the present cycle is still to be taken: its seed would come in the cycle in which the expander reaches
its limit, and wins (R346, R9, log 127). -/
def State.sampleWaits (s : State) : Bool := s.pending.any (fun c => match c with | .noiseSample _ => true | _ => false)

/-- The state that the sources and the expander now call for (the states table, R346, R348). -/
def State.entNext (s : State) : EntState :=
  let all := s.enabledSources.all (fun i => (s.noise i).healthy)
  match s.ent.state with
  | .off => .off
  | .fatal => .fatal
  | .startup => if all && s.ent.key.isSome then .normal else .startup
  | _ =>
    if expanderLimit ≤ s.ent.count ∧ s.ent.seeds.isEmpty ∧ !s.sampleWaits then .limit
    else if !all || (decide (reseedAfter ≤ s.ent.count) && s.ent.seeds.isEmpty) then .recovery
    else .normal

/-- The running GET_ENTROPY descriptors. -/
def State.entropyWaiters (s : State) : List Desc := s.descs.filter (fun d => d.phase == .running && leAt d.bytes 0 1 == 0x0A)

/-- A GET_ENTROPY completes RETRY and is counted (R350). -/
def State.entRetry (s : State) (d : DescRef) : State := (s.count Reg.entStat 63 48 1).complete d stRetry 0 0

/-- The expander reaches its limit: it is counted, and waiting requests complete RETRY unless the queue holds their LENGTH
(R346, R350). -/
def State.reachLimit (s : State) : State :=
  (s.entropyWaiters.filter (fun d => decide (s.ent.out.length < leAt d.bytes 0x18 4))).foldl (fun t d => t.entRetry d.ref)
    (s.count Reg.entStat 47 32 1)

/-- The source in the state that holds now; lane seeding begins when the source first becomes ready (R142). -/
def State.entSettle (s : State) : State :=
  let st := s.entNext
  let s := if st = .limit ∧ s.ent.state ≠ .limit then s.reachLimit else s
  { s with ent := { s.ent with state := st, seeding := s.ent.seeding || (st.serves && !s.ent.seeded) } }

/-- The fatal alarm (R349, R351, R352): the sources stop, every queue is cleared, waiting requests, key agreements and lane
seeding end. -/
def State.entFatal (s : State) (cause : Nat) : State :=
  let s := { s with ent := { s.ent with
    state := .fatal, cause := cause, sources := [], block := [], seeds := [], key := none, count := 0, reseeds := 0
    out := [], seeding := false, failedSeed := s.ent.failedSeed || !s.ent.seeded }, hall := { s.hall with keying := [] } }
  (s.report (blockSrc 6 8) 0x51 cause 127) |> fun s =>
    s.entropyWaiters.foldl (fun t d => t.complete d.ref stEntropyFailed 0 0) s

/-! ## Samples (R340 to R343) -/

/-- A source after a sample: its tests go on, and which test failed, if one did (0 repetition count, 1 adaptive
proportion). -/
def NoiseSource.sample (x : NoiseSource) (b : Bool) : Option Nat × NoiseSource :=
  let run := if x.last = some b then x.runLen + 1 else 1
  let bit := if x.winPos = 0 then b else x.winBit
  let hits := if x.winPos = 0 then 1 else if b = x.winBit then x.winHits + 1 else x.winHits
  let seen := min 1024 (x.seen + 1)
  (if 41 ≤ run then some 0 else if 793 ≤ hits then some 1 else none,
   { x with seen := seen, last := some b, runLen := run, winPos := (x.winPos + 1) % 1024, winBit := bit, winHits := hits,
            healthy := x.healthy || seen == 1024 })

/-- Bits packed into bytes, the first bit lowest. -/
def packBits (l : List Bool) : List Byte :=
  (chunks 8 l).map (fun c => BitVec.ofNat 8 (bitsFrom ((List.range 8).filter (fun i => c.getD i false))))

/-- A bit appended to the conditioner's block; the 2,048th closes it into a seed. A full seed queue takes none (R343). -/
def Entropy.collect (e : Entropy) (b : Bool) : Entropy :=
  if 4 ≤ e.seeds.length then e
  else if e.block.length + 1 < 2048 then { e with block := e.block ++ [b] }
  else { e with block := [], seeds := e.seeds ++ [shake256_256 (packBits (e.block ++ [b]))] }

/-- The failures that a sample of all sources brings: source and address field (R342). -/
def State.sampleFails (s : State) (bits : Byte) : List (Nat × Nat) :=
  s.enabledSources.filterMap (fun i =>
    let x := s.noise i
    if x.running then ((x.sample (bits.getLsbD i)).1).map (fun f => (i, f + (if x.healthy then 0 else 2))) else none)

/-- One failure: counted, reported, its source restarted, and fatal when it is the fourth within 1 s (R342, R351). -/
def State.noiseFail (s : State) (f : Nat × Nat) : State :=
  let s := s.count (Reg.entSrcstat f.1) (if f.2 % 2 = 0 then 15 else 31) (if f.2 % 2 = 0 then 0 else 16) 1
  let s := (s.count Reg.entStat 15 0 1).report (blockSrc 6 f.1) 0x50 f.2 127
  { s with ent := { s.ent with
    block := []
    fails := (s.clk.wall :: s.ent.fails).take 4
    sources := Table.put (fun _ => ({} : NoiseSource)) s.ent.sources f.1 { running := true } } }

/-- Whether four failures lie within 1 s of AON time. -/
def Entropy.tooOften (e : Entropy) (now : Nat) : Bool :=
  match e.fails[3]? with
  | some t => decide (now ≤ t + usec 1000000)
  | none => false

/-- The sources after a sample, with the start-up tests counted that pass with it: a source fails its test when a continuous
test fails on the last sample (R341). -/
def State.advanceSources (s : State) (bits : Byte) : State :=
  s.enabledSources.foldl (fun t i =>
    let x := t.noise i
    if x.running then
      let r := x.sample (bits.getLsbD i)
      let y := r.2
      let t := if y.healthy && !x.healthy && r.1.isNone then t.count (Reg.entSrcstat i) 47 32 1 else t
      { t with ent := { t.ent with sources := Table.put (fun _ => ({} : NoiseSource)) t.ent.sources i y } }
    else t) s

/-- NOISE_SAMPLE: one bit of every enabled source, tested and, from healthy sources, conditioned (R338 to R343). -/
def execNoiseSample (bits : Byte) (s : State) : Out :=
  if s.ent.state = .off ∨ s.ent.state = .fatal then .next s
  else
    let fails := s.sampleFails bits
    let good := s.enabledSources.filter (fun i => (s.noise i).healthy)
    let ready := s.ent.state.serves
    let s := s.advanceSources bits
    if fails.isEmpty then
      .next ({ s with ent := good.foldl (fun e i => e.collect (bits.getLsbD i)) s.ent }.entSettle)
    else
      let s := fails.foldl State.noiseFail s
      if s.ent.tooOften s.clk.wall then .next (s.entFatal 0)
      else if ready && decide (s.healthyCount < 2) then .next (s.entFatal 1)
      else .next s.entSettle

/-! ## The expander (R345 to R347) -/

/-- The expander instantiated from the first seed, or reseeded from a later one (R345). -/
def State.reseed (s : State) : State :=
  match s.ent.seeds with
  | [] => s
  | seed :: rest =>
    match s.ent.key with
    | none =>
      { s with ent := { s.ent with
        key := some (shake256_256 (ascii "VXB-ENT-I" ++ leBytes 5 s.serial ++ seed)), count := 0, reseeds := 0
        seeds := rest } }
    | some k =>
      let r := s.ent.reseeds + 1
      let s := s.count Reg.entExp 63 32 1
      let s := if reseedAfter < s.ent.count then s.count Reg.entStat 31 16 1 else s
      { s with ent := { s.ent with
        key := some (shake256_256 (ascii "VXB-ENT-R" ++ k ++ seed ++ leBytes 8 r)), count := 0, reseeds := r
        seeds := rest } }

/-- Whether the expander takes a seed before its next request (R345, R346). -/
def Entropy.wantsSeed (e : Entropy) : Bool :=
  !e.seeds.isEmpty && (e.key.isNone || decide (reseedAfter ≤ e.count))

/-- EXPANDER_RESEED: the expander takes the first seed, or a later one when 4,096 requests have passed (R345, R346). -/
def execExpanderReseed (s : State) : Out :=
  .next (if s.ent.state ≠ .fatal ∧ s.ent.state ≠ .off ∧ s.ent.wantsSeed then s.reseed.entSettle else s)

/-- One request: 16 B to the output queue and the key's forward update (R345). -/
def Entropy.request (e : Entropy) (key : List Byte) : Entropy :=
  let b := shake256 48 (key ++ leBytes 8 e.count)
  { e with out := e.out ++ b.take 16, key := some (b.drop 16), count := e.count + 1 }

/-- Output taken by a consumer in whole requests (R347); none when the queue holds too little. -/
def State.takeOut (s : State) (n : Nat) : Option (List Byte × State) :=
  let k := roundUp n 16
  if s.ent.state.serves && decide (k ≤ s.ent.out.length) then
    some (s.ent.out.take n, { s with ent := { s.ent with out := s.ent.out.drop k } })
  else none

/-- The consumers of output: lane seeding, the keying of the hall transport, attestation, the controller key of a load, and the
requests of a host port (R349). -/
inductive Consumer where
  | seeding | hall | signing | keying | host (p : Port)
deriving DecidableEq, Repr

/-- The priority of a consumer (R349). -/
def Consumer.rank (normal : Bool) : Consumer → Nat
  | .seeding => if normal then 4 else 1
  | .hall => if normal then 1 else 2
  | .signing => if normal then 2 else 3
  | .keying => if normal then 3 else 4
  | .host _ => if normal then 4 else 5

/-- The place of a consumer among those that take turns: lane seeding, port A, port B. -/
def Consumer.seat : Consumer → Option Nat
  | .seeding => some 0
  | .host .a => some 1
  | .host .b => some 2
  | _ => none

/-- Whether a consumer waits for output: a load that draws its key is a LOAD_BINDING without SEED that has not begun. -/
def State.consumerWaits (s : State) : Consumer → Bool
  | .seeding => s.ent.seeding
  | .hall => !s.hall.keying.isEmpty
  | .signing => !s.mgt.sign.isEmpty
  | .keying => s.descs.any (fun d => d.phase == .running && leAt d.bytes 0 1 == 1 && leAt d.bytes 0x18 1 == 0 &&
      (s.part d.ref.ring).load.isNone)
  | .host p => s.entropyWaiters.any (fun d => d.ref.port == p)

/-- Every consumer. -/
def allConsumers : List Consumer := [.seeding, .hall, .signing, .keying, .host .a, .host .b]

/-- The seats whose consumers wait at a rank, in turn: the last taker first until it has taken 4 KiB (R349, log 128). -/
def State.seats (s : State) (rank : Nat) : List Nat :=
  let from_ := if 4096 ≤ s.ent.taken then s.ent.taker + 1 else s.ent.taker
  let waiting := (allConsumers.filter (fun x => s.consumerWaits x && x.rank (s.ent.state == .normal) == rank)).filterMap
    Consumer.seat
  ((List.range 3).map (fun i => (from_ + i) % 3)).filter (fun k => k ∈ waiting)

/-- Whether it is a consumer's turn: no consumer of higher priority waits, and among equals it is next (R349). -/
def State.turn (s : State) (c : Consumer) : Bool :=
  let n := s.ent.state == .normal
  allConsumers.all (fun x => !s.consumerWaits x || c.rank n ≤ x.rank n) &&
  (match c.seat, (s.seats (c.rank n)).head? with
    | some k, some h => k == h
    | _, _ => true)

/-- Output taken by a consumer in its turn (R347, R349). -/
def State.takeFor (s : State) (c : Consumer) (n : Nat) : Option (List Byte × State) :=
  if s.turn c then
    (s.takeOut n).map (fun r => (r.1, match c.seat with
      | none => r.2
      | some k =>
        { r.2 with ent := { r.2.ent with
          taker := k, taken := if k = s.ent.taker ∧ s.ent.taken < 4096 then s.ent.taken + n else n } }))
  else none

/-- The oldest waiting key agreement of the hall transport takes its entropy, and its association is installed (R349, R398,
log 129). -/
def State.settleKeying (s : State) : State :=
  match s.hall.keying with
  | [] => s
  | r :: rs =>
    match s.takeFor .hall (32 + 16 * (Config.keyingPieces s.clk.wall % 3)) with
    | some (_, t) => State.installSa { t with hall := { t.hall with keying := rs } } r
    | none => s

/-- EXPANDER_REQUEST: the ready expander generates one request while the output queue has room; a due reseed comes first,
and nothing comes at the limit (R346, R347). Waiting key agreements are served from the queue at once (R349). -/
def execExpanderRequest (s : State) : Out :=
  if !s.ent.state.serves || decide (4096 < s.ent.out.length + 16) then .next s
  else
    let s := if s.ent.wantsSeed then s.reseed else s
    match s.ent.key with
    | none => .next s
    | some k =>
      .next (if s.ent.count < expanderLimit then State.settleKeying (State.entSettle { s with ent := s.ent.request k })
        else s.entSettle)

/-! ## Enable (R348, R351) -/

/-- ENT_CTRL.ENABLE written 1: the sources start; fewer than two sources are fatal at once (R348, R351). -/
def State.entOn (s : State) : State :=
  if s.ent.state = .off then
    let s := s.setRf Reg.entCtrl 0 0 1
    let src := s.enabledSources
    let s := { s with ent := { s.ent with
      state := .startup
      sources := src.foldl (fun t i => Table.put (fun _ => ({} : NoiseSource)) t i { running := true }) [] } }
    if src.length < 2 then s.entFatal 2 else s
  else s

/-- ENT_CTRL.ENABLE written 0: the source returns to OFF and its queues are cleared; FATAL stays (R344, R352), and failures still
count towards it by their AON time (R351). -/
def State.entOff (s : State) : State :=
  if s.ent.state = .fatal then s
  else
    let s := s.setRf Reg.entCtrl 0 0 0
    { s with ent := { seeded := s.ent.seeded, seedNext := s.ent.seedNext, failedSeed := s.ent.failedSeed, fails := s.ent.fails } }

/-- ENT_ENABLE: the Gatehouse alone writes ENT_CTRL (R348, R424). -/
def execEntEnable (who : Requester) (s : State) : Out := .next (if who = .gatehouse then s.entOn else s)

/-- ENT_DISABLE (R348). -/
def execEntDisable (who : Requester) (s : State) : Out := .next (if who = .gatehouse then s.entOff else s)

/-! ## Lane generators (R139 to R141) -/

/-- The increment of a lane (R140). -/
def laneInc (serial l : Nat) : U64 := BitVec.ofNat 64 ((serial * 2 ^ 21 + l * 2 + 1) * 0x9F1C5A273B6DE0C5)

/-- The mixer (R139). -/
def laneMix (x : U32) : U32 :=
  let x := x ^^^ (x >>> 16)
  let x := x * 0x6C8E9CF5#32
  let x := x ^^^ (x >>> 15)
  let x := x * 0xB5297A4D#32
  x ^^^ (x >>> 16)

/-- One output of a lane generator (R139). -/
def LaneGen.step (g : LaneGen) (inc : U64) : LaneGen :=
  let y := wordAt g.y 0 + wordAt g.y 12
  let w := g.w + inc
  { y := g.y.drop 1 ++ [y], w := w, out := laneMix (y + BitVec.ofNat 32 (fld w 63 32)) }

/-- A lane generator from its 84 B record (R141). -/
def laneRecord (bs : List Byte) : LaneGen :=
  { y := (List.range 17).map (fun i => BitVec.ofNat 32 (leAt bs (4 * i) 4) ||| (if i = 0 then 1 else 0))
    w := BitVec.ofNat 64 (leAt bs 68 8) }

/-- The lanes of the module. -/
abbrev laneCount : Nat := 786432

/-- LANE_SEEDING: the next four lanes take their records, 21 requests, from the output queue (R141, R349). -/
def execLaneSeeding (s : State) : Out :=
  if s.ent.seeding then
    match s.takeFor .seeding 336 with
    | none => .next s
    | some (bs, s) =>
      let l := s.ent.seedNext
      let lanes := (List.range 4).foldl (fun t i =>
        Table.put (fun _ => ({} : LaneGen)) t (l + i) (laneRecord (slice bs (84 * i) 84))) s.lanes
      let done := decide (laneCount ≤ l + 4)
      .next { s with lanes := lanes, ent := { s.ent with seedNext := l + 4, seeded := done, seeding := !done } }
  else .next s

/-- LANE_GENERATOR_OUTPUT: every seeded lane of a half produces one output, in each cycle of the half's array clock
(R139). -/
def execLaneGeneratorOutput (h : Half) (s : State) : Out :=
  .next { s with lanes := s.lanes.map (fun e =>
    if halfOfCore (e.1 / 64) = h then (e.1, e.2.step (laneInc s.serial e.1)) else e) }

end Sys2Proof.Machine
end

