-- ==== Sys2Proof/Machine/Colophon.lean ====
section
/-! DEFINITION. The digest tree and the Colophon record (R226 to R229, R332). -/

namespace Sys2Proof.Machine

/-! ## The digest tree (R227) -/

/-- An item of a digest: its length and the digests of its chunks of 16 MiB. -/
abbrev DigestItem := Nat × List (List Byte)

/-- The item of a byte string. -/
def itemOf (bs : List Byte) : DigestItem := (bs.length, (chunks (2 ^ 24) bs).map shake256_256)

/-- The digest over items (R227). -/
def treeDigest (items : List DigestItem) : List Byte :=
  shake256_256 (leBytes 8 items.length ++ items.flatMap (fun i => leBytes 8 i.1 ++ i.2.flatten))

/-- Bytes of a range that a Binding says it reads from LPDDR6: LOAD_BINDING does not check it (R173), and addresses outside
LPDDR6 read as zero (log 111). -/
def State.rdRange (s : State) (a n : Nat) : List Byte :=
  let k := min n (dramBytes - a)
  s.rd a k ++ zeros (n - k)

/-- Ranges of LPDDR6 read for a digest, one after another: their items, none after an uncorrectable access. -/
def State.readItems (s : State) (tag : Nat) : List (Nat × Nat) → Option (List DigestItem) × State
  | [] => (some [], s)
  | (a, n) :: rs =>
    let k := min n (dramBytes - a)
    let t := s.dramRead tag a k
    if (s.dramUe a k).isSome then (none, t)
    else
      let r := t.readItems tag rs
      (r.1.map (itemOf (s.rdRange a n) :: ·), r.2)

/-- The ranges of a Binding with or without WEIGHT. -/
def Binding.rangesOf (b : Binding) (weight : Bool) : List (Nat × Nat) :=
  (b.ranges.filter (fun r => r.weight == weight)).map (fun r => (r.addr, r.len))

/-! ## The record (R224 to R226) -/

/-- The FLAGS field of a Colophon record (R226); DET is ARR_MODE.DET during the run. -/
def colophonFlags (signed : Bool) (p : Partition) (j : Job) : Nat :=
  bitsFrom ([(j.det, 0), (p.colo.restored, 1), (p.colo.window, 2), (p.colo.tables, 3), (signed, 4), (j.iWritten, 5),
    (j.wWritten, 6)].filterMap (fun x => if x.1 then some x.2 else none))

/-- The 256 bytes of a Colophon record. -/
def State.colophonRecord (s : State) (q : Nat) (j : Job) (signed : Bool) : List Byte :=
  let p := s.part q
  let digest := match p.binding with
    | some b => b.digest
    | none => zeros 32
  leBytes 4 0x4F4C4F43 ++ leBytes 2 1 ++ leBytes 2 (colophonFlags signed p j) ++
  leBytes 4 (s.rf Reg.genDetClass 31 0) ++ leBytes 1 q ++ leBytes 1 (j.ended.getD 0) ++ leBytes 2 0 ++
  leBytes 8 (s.rf (Reg.genIdent + 8) 39 0) ++ leBytes 8 (j.first % 2 ^ 40) ++ leBytes 8 j.taken ++ leBytes 8 s.gtime ++
  padTo 32 digest ++ padTo 32 j.wDigest ++ padTo 32 j.iDigest ++ padTo 32 p.colo.start ++
  padTo 32 (p.seed.getD []) ++ padTo 32 j.modelTag ++ leBytes 4 p.colo.seq ++ zeros 12

/-- Whether an attestation key counts as provisioned: its record in flash authenticates under the key-wrapping key (R393). -/
def State.provisioned (s : State) : Bool :=
  s.fuse.attest && Config.keyRecordGood s.fuse.wrapKey (Table.span (fun _ => 0xFF) s.flash 0x20A0000 0x10000)

/-- A signature request joins the Gatehouse's queue; refused when the queue is full, the source is fatal, or no key is
provisioned (R229, R394). -/
def State.askSign (s : State) (job : SignJob) : Bool × State :=
  if !s.provisioned then (false, s)
  else if 64 ≤ s.mgt.sign.length ∨ s.ent.state = .fatal then (false, s.count Reg.mgtHealth 31 16 1)
  else (true, { s with mgt := { s.mgt with sign := s.mgt.sign ++ [job] } })

/-- The record of an ended run is written and its signature asked for (R229). -/
def State.writeColophon (s : State) (q : Nat) : State :=
  match (s.part q).job with
  | none => s
  | some j =>
    match j.ended, j.colophon with
    | some _, some dest =>
      if (s.part q).owedOffers.isEmpty then
        let rec_ := s.colophonRecord q j false
        let s := s.wrDram q dest (rec_ ++ zeros 1536)
        let r := if j.sign then s.askSign ⟨s.colophonRecord q j true, dest, some (q, j.desc), none, none⟩ else (false, s)
        (r.2.updPart q (fun p => { p with
          colo := { p.colo with seq := p.colo.seq + 1 }
          job := p.job.map (fun j => { j with colophon := none, sign := r.1 }) })).settleJob q
      else s
    | _, _ => s

/-- COLOPHON_WRITE: after the last pool offer of an ended run its Colophon is written (R229). -/
def execColophonWrite (q : QuireId) (s : State) : Out := .next (s.writeColophon q)

end Sys2Proof.Machine
end

