-- ==== Sys2Proof/Machine/Normal.lean ====
section
/-! DEFINITION. The normal variate Φ^(-1)((w + 0.5) / 2^n) correctly rounded to FP32 (R135, R147). The rounding is
decided by comparing the probability with Φ at the midpoints of neighbouring FP32 values, with Φ evaluated in
fixed point to 320 bits (DEDUCED, log 10). -/

namespace Sys2Proof.Normal

/-- Fixed-point fraction bits of the evaluation. -/
def prec : Nat := 320

/-- The arctangent of 1/n in fixed point, by its series. -/
def atanInv (n : Nat) : Nat → Int
  | 0 => 0
  | k + 1 =>
    let term : Int := ((2 ^ prec / ((2 * k + 1) * n ^ (2 * k + 1)) : Nat) : Int)
    atanInv n k + (if k % 2 = 0 then term else -term)

/-- π in fixed point, by Machin's formula. -/
def piFix : Int := 4 * (4 * atanInv 5 72 - atanInv 239 24)

/-- The terms of the series of Φ(x) − 1/2 without its factor 1/√(2π): Σ (−1)^k x^(2k+1) / (2^k k! (2k+1)), with
`t` the present power x^(2k+1) / (2^k k!) in fixed point and `x2` the square of x in fixed point. -/
def erfSum (x2 : Int) : Nat → Nat → Int → Int
  | 0, _, _ => 0
  | fuel + 1, k, t =>
    (if k % 2 = 0 then t / (2 * k + 1 : Nat) else -(t / (2 * k + 1 : Nat)))
      + erfSum x2 fuel (k + 1) (t * x2 / 2 ^ prec / (2 * (k + 1) : Nat))

/-- √(2π) (Φ(x) − 1/2) for a non-negative rational x below 8, in fixed point. -/
def halfPhi (x : ℚ) : Int :=
  let xf : Int := (x.num * 2 ^ prec) / x.den
  erfSum (xf * xf / 2 ^ prec) 220 0 xf

/-- Whether Φ(x) − 1/2 lies below p, for a non-negative rational x below 8 and a rational 0 ≤ p < 1/2. -/
def phiBelow (x p : ℚ) : Bool :=
  let s := halfPhi x
  -- s² < p² · 2π, all in fixed point
  let lhs := s * s * (p.den * p.den : Nat)
  let rhs := p.num * p.num * (2 * piFix) * 2 ^ prec
  lhs < rhs

/-- The largest b with the bits below 0x41000000 (the value 8.0) such that the midpoint under the FP32 value of b + 1
lies below the quantile: binary search over the bits of non-negative FP32 values. -/
def searchBits (p : ℚ) : Nat → Nat → Nat
  | 0, b => b
  | k + 1, b =>
    let c := b + 2 ^ k
    if c < 0x41000000 then
      let lo := (decodeF fp32 (c - 1)).toRat
      let hi := (decodeF fp32 c).toRat
      if phiBelow ((lo + hi) / 2) p then searchBits p k c else searchBits p k b
    else searchBits p k b

/-- Φ^(-1)((w + 0.5) / 2^n) correctly rounded to FP32. -/
def quantile (n w : Nat) : FVal :=
  let y : ℚ := ((2 * w + 1 : Nat) : ℚ) / ((2 ^ (n + 1) : Nat) : ℚ)
  let p := if y < 1 / 2 then 1 / 2 - y else y - 1 / 2
  let v := decodeF fp32 (searchBits p 31 0)
  if y < 1 / 2 then v.negate else v

end Sys2Proof.Normal
end

