-- ==== Sys2Proof/Machine/Random.lean ====
section
/-! DEFINITION. The two generators as their consumers see them, and the table lookups (R130, R138, R143 to R148). -/

namespace Sys2Proof.Machine

/-- What addresses a block of the indexed generator (R143). -/
structure BlockAddr where
  group   : Nat
  layout  : Nat
  purpose : Nat
  stream  : Nat
  phase   : Nat
  sweep   : Nat
  chain   : Nat
deriving DecidableEq, Repr

/-- The sixteen input words of a block (R143). -/
def blockInput (seed : List Byte) (a : BlockAddr) : List U32 :=
  let w (v : Nat) : U32 := BitVec.ofNat 32 v
  [0x61707865#32, 0x3320646E#32, 0x79622D32#32, 0x6B206574#32] ++
  (List.range 8).map (fun i => w (leAt seed (4 * i) 4)) ++
  [w (a.group % 2 ^ 32),
   w (bitsN a.group 39 32 + a.layout % 16 * 2 ^ 8 + a.purpose % 4 * 2 ^ 12 + a.stream % 4 * 2 ^ 14
      + a.phase % 256 * 2 ^ 16 + bitsN a.sweep 39 32 * 2 ^ 24),
   w (a.sweep % 2 ^ 32), w (a.chain % 2 ^ 32)]

/-- Field f of a block (R143). -/
def blockField (seed : List Byte) (a : BlockAddr) (f : Nat) : Nat :=
  let x := (wordAt (chacha8 (blockInput seed a)) (f / 2)).toNat
  if f % 2 = 0 then x % 65536 else x / 65536

/-- Where the field of slot s of unit i lies, for slot width W (R144): layout code, group index and field. -/
def fieldPlace (width i slot : Nat) : Nat × Nat × Nat :=
  if width ≤ 32 then
    let l := Nat.log2 width
    (l, i / 2 ^ (5 - l), i % 2 ^ (5 - l) * width + slot)
  else (6 + slot / 32, i, slot % 32)

/-- The run seed of a core's partition; zero when it has none. -/
def State.seedOf (s : State) (n : Nat) : List Byte :=
  match s.partOfCore n with
  | some q => ((s.part q).seed).getD (zeros 32)
  | none => zeros 32

/-- The sweep number of a core's partition. -/
def State.sweepOf (s : State) (n : Nat) : Nat :=
  match s.partOfCore n with
  | some q => (s.part q).sweep % 2 ^ 40
  | none => 0

/-- Lane generator j of a core: the output of the present cycle (R138, R139). -/
def State.laneOut (s : State) (n j : Nat) : U32 := (Table.look (fun _ => ({} : LaneGen)) s.lanes (n * 64 + j)).out

/-- The address of the block for entry i of the output stage (R144). -/
def outputBlock (s : State) (n : Nat) (id : IdReg) (i : Nat) : BlockAddr :=
  ⟨i / 32, 0, 1, 0, (s.core n).live.phase, s.sweepOf n, id.chain.toNat⟩

/-- The field of entry e of a CLOSE's batch, if it gets one (R138, R144, R148). UNIT base and chain are those of the
identity register as the CLOSE issued, the colour phase and the sweep those of the batch's tick (DESIGN CHOICE, log 106);
an id beyond 40 bits wraps modulo 2^40 (DESIGN CHOICE, log 104). -/
def State.entryField (s : State) (n : Nat) (id : IdReg) (first e : Nat) : Option Nat :=
  if s.det then
    let i := (id.unit.toNat + e) % 2 ^ 40
    let i0 := (id.unit.toNat + first) % 2 ^ 40
    if !s.genBusy n && i / 32 == i0 / 32 then some (blockField (s.seedOf n) (outputBlock s n id i) (i % 32)) else none
  else some (fld (s.laneOut n (e % 64)) 31 16)

/-! ## Table lookups -/

/-- The position q + 32,768 of an argument in a table's domain (R130); infinities clamp, and the place of a
NaN is free (log 36). -/
def tablePos (a : FVal) : Nat :=
  match a with
  | .inf neg => if neg then 0 else 65535
  | .nan => Config.nanPlace % 65536
  | v => (max (-32768) (min 32767 (rneInt (v.toRat * 1024))) + 32768).toNat

/-- The entries a position interpolates between (R130). -/
def tablePair (j : Nat) : Nat × Nat := (j / 64, min 1023 (j / 64 + 1))

/-- The interpolation of R130 between two unsigned entries. -/
def interp (j e0 e1 : Nat) : Nat := (e0 * (64 - j % 64) + e1 * (j % 64) + 32) / 64

/-- The interpolation between two signed entries (R132), with an arithmetic shift. -/
def interpSigned (j : Nat) (e0 e1 : Int) : Int := (e0 * (64 - (j % 64 : Nat)) + e1 * (j % 64 : Nat) + 32) / 64

/-- Whether a field falls below a table value, 0xFFFF counting as 65,536 (R131). -/
def below (r t : Nat) : Bool := t == 0xFFFF || r < t

/-- The transfer-table value T(a) from a core's slot (R130). -/
def State.transfer (s : State) (n slot : Nat) (a : FVal) : Nat :=
  let j := tablePos a
  interp j (s.tableEntry n slot (tablePair j).1) (s.tableEntry n slot (tablePair j).2)

/-- The Gumbel variate G(r) from a core's slot (R132). -/
def State.gumbel (s : State) (n slot r : Nat) : FVal :=
  let p := tablePair r
  let g := interpSigned r (signedOf 16 (s.tableEntry n slot p.1)) (signedOf 16 (s.tableEntry n slot p.2))
  .fin (g < 0) g.natAbs (-11)

/-- A read of table entries with their codes (R64): the four-entry groups at some positions. -/
def State.tableRead (s : State) (n slot : Nat) (positions : List Nat) (f : State → State) : State :=
  let gs := (positions.flatMap (fun j => [(tablePair j).1, (tablePair j).2])).map (fun i => tableAt n slot i / 8)
  let gs := gs.eraseDups
  let s1 := s.reportCe n (gs.filter (fun g => Table.look (fun _ => 0) s.sramErr g == 1))
  match gs.find? (fun g => Table.look (fun _ => 0) s.sramErr g == 2) with
  | some g => (s1.haltOn n 0x11).report n 0x11 (g * 8 - coreBase n) (s.coreTag n)
  | none => f s1

end Sys2Proof.Machine
end

