-- ==== Sys2Proof/Machine/Streams.lean ====
section
/-! DEFINITION. The stream engines on the far side of the edge buffers: deliver groups, collect groups and drain records
(R160, R184 to R186, R234, R237, R238, R312, R445). -/

namespace Sys2Proof.Machine

/-- The partition serves streams: its Binding is loaded. -/
def Partition.streams (p : Partition) : Bool := p.run == .loaded || p.run == .running

/-- A ring descriptor of a partition, with its Binding, while its streams are served. -/
def Partition.ringDesc (p : Partition) (r : Nat) : Option (Binding × RingDesc) :=
  if p.streams then
    match p.binding with
    | some b => (b.rings[r]?).map (fun d => (b, d))
    | none => none
  else none

/-- The LPDDR6 address of a byte of a ring's stream: with LOOP set the stream starts again at ADDR (R237, R238). -/
def RingDesc.streamAddr (d : RingDesc) (i : Nat) : Nat :=
  d.addr + (if 0 < d.groups then i % (d.groups * 4096) else i)

/-- Whether a stream has ended: without LOOP after its last group. -/
def RingDesc.ended (d : RingDesc) (i : Nat) : Bool := !d.loop && d.groups * 4096 ≤ i

/-- Bytes of a ring from a stream byte on, by the piece before the ring's end and the rest. -/
def State.ringRead (s : State) (b : Binding) (d : RingDesc) (i n : Nat) : Option Nat × List Byte × State :=
  let pl := b.ringPlace d
  let o := if 0 < d.bytes then i % d.bytes else 0
  let k := min n (d.bytes - o)
  let x := s.bufferRead pl.1 (pl.2 + o) k
  if n ≤ k then x
  else
    let y := x.2.2.bufferRead pl.1 pl.2 (n - k)
    (x.1 <|> y.1, x.2.1 ++ y.2.1, y.2.2)

/-- Whether a deliver ring has a next group that its engine may request (R237). -/
def RingDesc.wantsGroup (d : RingDesc) (x : RingRun) : Bool :=
  d.kind == 0 && d.endpoint == 0 && !x.stopped && !d.ended x.moved && decide (x.fill + 4096 ≤ d.hw) && d.bytes != 0

/-- The rings whose next group the engine of a buffer may request on a channel: partition, ring and ready bytes, by controller
number and ring index. -/
def State.groupRings (s : State) (buf ch : Nat) : List (Nat × Nat × Nat) :=
  s.parts.flatMap (fun e => match e.2.binding with
    | some b => if e.2.streams then
        b.rings.zipIdx.filterMap (fun x =>
          let r := e.2.ring x.2
          if x.1.wantsGroup r ∧ (b.ringPlace x.1).1 = buf ∧ chanOf (x.1.streamAddr r.moved) = ch then some (e.1, x.2, r.fill)
          else none) else []
    | none => [])

/-- The ring whose group the engine of a buffer has requested on a channel: one group in flight at most, for the ring with the
fewest ready bytes, among equals the lower controller number and then the lower ring index (R237). -/
def State.groupInFlight (s : State) (buf ch : Nat) : Option (Nat × Nat) :=
  let rings := s.groupRings buf ch
  match Table.look (fun _ => none) (s.chan ch).flight buf with
  | some x => if rings.any (fun r => (r.1, r.2.1) == x) then some x else none
  | none => none
  |>.orElse (fun _ => (rings.foldl (fun (m : Option (Nat × Nat × Nat)) r => match m with
      | some x => if r.2.2 < x.2.2 then some r else m
      | none => some r) none).map (fun r => (r.1, r.2.1)))

/-- The engine of a buffer notes its request on a channel. -/
def State.setFlight (s : State) (buf ch : Nat) (x : Option (Nat × Nat)) : State :=
  s.updChan ch (fun c => { c with flight := Table.put (fun _ => none) c.flight buf x })

/-- The next burst-group of a deliver ring lands and adds to its fill counter (R237). An uncorrectable access stops the ring;
nothing of that access is written (R234). -/
def State.landGroup (s : State) (q ring : Nat) (b : Binding) (d : RingDesc) : State :=
  let x := (s.part q).ring ring
  let a := d.streamAddr x.moved
  let n := match s.dramUe a 4096 with
    | some k => k * 64 - a
    | none => 4096
  let bytes := s.rd a n
  let s := s.dramRead q a 4096
  let pl := b.ringPlace d
  let s := s.bufferWrite pl.1 (pl.2 + x.moved % d.bytes) bytes
  s.updPart q (fun p => p.updRing ring (fun x => { x with
    fill := x.fill + n, moved := x.moved + n, stopped := n < 4096 }))

/-- DELIVER_GROUP_LAND: the burst-group that an engine has requested for a deliver ring lands (R237). While the engine's
request on the channel is another ring's, none of this ring's lands. -/
def execDeliverGroupLand (q : QuireId) (ring : Fin 32) (s : State) : Out :=
  match (s.part q).ringDesc ring with
  | none => .next s
  | some (b, d) =>
    let x := (s.part q).ring ring
    let buf := (b.ringPlace d).1
    let ch := chanOf (d.streamAddr x.moved)
    if !d.wantsGroup x then .next s
    else if s.groupInFlight buf ch = some (q.val, ring.val) then .next ((s.setFlight buf ch none).landGroup q ring b d)
    else .next (s.setFlight buf ch (s.groupInFlight buf ch))

/-- COLLECT_GROUP_WRITE: a collect ring writes the burst-group it holds, or its remainder at a sweep-end release, to
LPDDR6 (R238, R233). A granule with a double-bit error stops the ring, and nothing of its burst-group is written (R160). -/
def execCollectGroupWrite (q : QuireId) (ring : Fin 32) (s : State) : Out :=
  match (s.part q).ringDesc ring with
  | none => .next s
  | some (b, d) =>
    let x := (s.part q).ring ring
    let edge := (x.moved / 4096 + 1) * 4096
    let upTo := if edge ≤ x.used then edge else x.flush
    if d.kind != 1 || d.endpoint != 0 || x.stopped || d.ended x.moved || upTo ≤ x.moved || b.ringIsDrain ring then .next s
    else
      let n := min upTo edge - x.moved
      let r := s.ringRead b d x.moved n
      let a := d.streamAddr x.moved
      let good := if r.1.isSome then 0 else n
      let s := if r.1.isSome then r.2.2 else r.2.2.wrDram q a r.2.1
      .next (s.updPart q (fun p => p.updRing ring (fun x => { x with
        fill := x.fill + good, moved := x.moved + good, stopped := r.1.isSome })))

/-! ## Drain records -/

/-- The next take of a ring among its windows (R445): the window's index, the window and the take's sweep, the lowest
sweep first and among equals the lowest window. -/
def nextTake (ws : List Window) (ring : Nat) (seq : Table Nat) : Option (Nat × Window × Nat) :=
  (ws.zipIdx.filterMap (fun e =>
      let n := e.1.records.length
      let sweep := e.1.first + Table.look (fun _ => 0) seq e.2 / n * max 1 e.1.stride
      if e.1.ring = ring ∧ 0 < n ∧ sweep ≤ e.1.last then some (e.2, e.1, sweep) else none)).foldl
    (fun best x => match best with
      | none => some x
      | some y => if x.2.2 < y.2.2 then some x else some y) none

/-- A drain record (R184): header with its CRC, payload, and padding to 32 B. -/
def drainRecord (r : WinRecord) (kind window sweep seq : Nat) (payload : List Byte) : List Byte :=
  let h := leBytes 4 r.chain ++ leBytes 4 r.payload ++ leBytes 5 r.unitFirst ++ leBytes 1 kind ++ leBytes 1 window ++
    leBytes 1 0 ++ leBytes 8 (sweep % 2 ^ 40) ++ leBytes 4 seq
  h ++ leBytes 4 (crc32c (h ++ payload)).toNat ++ payload ++ zeros (roundUp payload.length 32 - payload.length)

/-- A pad record's header (R186, R312): KIND 0xFF and the bytes left to the ring's end. -/
def padRecord (at_ left : Nat) : List Byte :=
  (List.range 32).map (fun i =>
    if 4 ≤ i ∧ i < 8 then BitVec.ofNat 8 (left / 256 ^ (i - 4)) else if i = 13 then 0xFF#8 else if i = 15 then 0#8
    else Config.padByte at_ i)

/-- Whether the next record needs a pad record first, and there is room for it: the record does not fit before the ring's
end, and the tail does not come to the head by going on from 64 (R186, R312). -/
def drainPads (size head tail len : Nat) : Bool := decide (size < tail + len ∧ head ≤ tail ∧ head ≠ 64)

/-- The tail after a record at a tail; none while the ring is full: the record would reach the head from behind (R186,
R312). A record that ends at the ring's end leaves the tail at 64. -/
def drainNext (size head tail len : Nat) : Option Nat :=
  let next := if tail + len = size then 64 else tail + len
  if tail + len ≤ size ∧ ((tail < head ∧ tail + len < head) ∨ (head ≤ tail ∧ next ≠ head)) then some next else none

/-- A record and the tail after it written into the LPDDR6 drain ring (R186). -/
def State.lDrainPut (s : State) (q base tail next : Nat) (rec_ : List Byte) : State :=
  ((s.wrDram q (base + tail) rec_).wrDram q base (leBytes 8 next ++ zeros 56)).updPart q (fun p =>
    { p with drain := { p.drain with lTail := next } })

/-- The pad record of the LPDDR6 drain ring, when the next record of a length needs one. -/
def State.lDrainPad (s : State) (q base size len : Nat) : State :=
  let dr := (s.part q).drain
  if drainPads size dr.lHead dr.lTail len then
    s.lDrainPut q base dr.lTail 64 (padRecord dr.lTail (size - dr.lTail - 32))
  else s

/-- A record written into the LPDDR6 drain ring; none while there is no room. -/
def State.lDrainWrite (s : State) (q base size : Nat) (rec_ : List Byte) : Option State :=
  let dr := (s.part q).drain
  (drainNext size dr.lHead dr.lTail rec_.length).map (fun next => s.lDrainPut q base dr.lTail next rec_)

/-- Bytes written to the host memory behind a port. -/
def State.wrHost (s : State) (p : Port) (a : Nat) (bs : List Byte) : State :=
  match p with
  | .a => { s with hostA := Table.putSpan zeroByte s.hostA a bs }
  | .b => { s with hostB := Table.putSpan zeroByte s.hostB a bs }

/-- Base and size of a partition's host drain ring. -/
def State.hDrainRing (s : State) (q : Nat) : Nat × Nat :=
  (fld (s.reg (Reg.hstDrain q)) 63 12 * 4096, 2 ^ fld (s.reg (Reg.hstDrain q)) 4 0)

/-- A record and the tail after it written into the host drain ring of port B (R312). -/
def State.hDrainPut (s : State) (q tail next : Nat) (rec_ : List Byte) : State :=
  let base := (s.hDrainRing q).1
  ((s.wrHost .b (base + tail) rec_).wrHost .b base (leBytes 8 next ++ zeros 56)).updPart q (fun p =>
    { p with drain := { p.drain with hTail := next } })

/-- The pad record of the host drain ring, when the next record of a length needs one. -/
def State.hDrainPad (s : State) (q len : Nat) : State :=
  let dr := (s.part q).drain
  let size := (s.hDrainRing q).2
  if drainPads size dr.hHead dr.hTail len then s.hDrainPut q dr.hTail 64 (padRecord dr.hTail (size - dr.hTail - 32))
  else s

/-- The tail after a record of a length in the host drain ring; none while there is no room. -/
def State.hDrainNext (s : State) (q len : Nat) : Option Nat :=
  let dr := (s.part q).drain
  drainNext (s.hDrainRing q).2 dr.hHead dr.hTail len

/-- The host ring staging region (R161): its buffer, first byte and bytes; none while the Gatehouse has allocated none. -/
def State.hostStaging (s : State) : Option (Nat × Nat × Nat) :=
  ((List.range 128).find? (fun i => bit (s.reg (Reg.arrEbregion i)) 31 && fld (s.reg (Reg.arrEbregion i)) 27 24 == 5)).map
    (fun i => let v := s.reg (Reg.arrEbregion i)
              (i / 32, fld v 7 0 * 0x10000, (fld v 15 8 + 1) * 0x10000))

/-- Whether a record waits in the host ring staging region. -/
def State.stagingHeld (s : State) : Bool := s.parts.any (fun e => e.2.drain.staged.isSome)

/-- The pools of a partition: each with its index and its chain id (R203). -/
def Binding.poolList (b : Binding) : List (Nat × PoolEntry × Nat) :=
  match b.control with
  | none => []
  | some c =>
    let c : Ctl := c
    (List.range c.pools).map (fun i => let e := c.pool i; (i, e, (c.chain e.chainIdx).chain))

/-- The offer of a pool for a sweep, changed; a new one when there is none. -/
def Partition.updOffer (p : Partition) (pool sweep : Nat) (f : PoolOffer → PoolOffer) : Partition :=
  if p.offers.any (fun o => o.pool == pool && o.sweep == sweep) then
    { p with offers := p.offers.map (fun o => if o.pool == pool && o.sweep == sweep then f o else o) }
  else { p with offers := p.offers ++ [f { pool := pool, sweep := sweep }] }

/-- The pools that take part in a record of a window: those whose SWIN, or whose EWIN, is the window. -/
def poolsOf (b : Binding) (chain win : Nat) (energies : Bool) : List (Nat × PoolEntry) :=
  (b.poolList.filter (fun e => e.2.2 == chain && (if energies then e.2.1.ewin else e.2.1.swin) == win)).map
    (fun e => (e.1, e.2.1))

/-- Where a record's payload stands among the payloads of its chain in a take, and whether it is the last of them. -/
def chainOffset (w : Window) (i chain : Nat) : Nat × Bool :=
  (((w.records.take i).filter (fun r => r.chain == chain)).foldl (fun a r => a + r.payload) 0,
   !(w.records.drop (i + 1)).any (fun r => r.chain == chain))

/-- The staging slot of a pool, from its header. -/
def State.staging (s : State) (e : PoolEntry) : Nat := s.rdN (e.base + 0x0A) 1

/-- A record's payload handed to the pools (R205): a state's bytes go to the staging slot, an energy to its offer. -/
def State.feedPools (s : State) (q : Nat) (b : Binding) (w : Window) (wi i sweep : Nat) (r : WinRecord)
    (payload : List Byte) : State :=
  let o := chainOffset w i r.chain
  let s := (poolsOf b r.chain wi false).foldl (fun t e =>
    (t.wrDram q (e.2.slotAt (t.staging e.2) + o.1) payload).updPart q (fun p =>
      p.updOffer e.1 sweep (fun x => { x with begun := true, staged := x.staged || o.2 }))) s
  (poolsOf b r.chain wi true).foldl (fun t e => t.updPart q (fun p =>
    p.updOffer e.1 sweep (fun x => { x with energy := some (payload.take 16, leAt payload 16 1) }))) s

/-! ## Statistics (R58, R124, R125) -/

/-- The exact record at a place of a statistic payload. -/
def statRecord (payload : List Byte) (i : Nat) : BitVec 72 := ofRecord (slice payload (16 * i) 16)

/-- What the module derives from a statistic record (R58, R124): in deterministic mode from the exact sums, each value with one
rounding to FP64; in free mode the last bits are open (R125). -/
def State.statValues (s : State) (b : Binding) (window record seq : Nat) (payload : List Byte) : List StatValue :=
  ((Config.statUnits b.digest window record).zipIdx).map (fun x =>
    let n := (statRecord payload x.1.1).toNat
    let s1 := (statRecord payload x.1.2.1).toInt
    let s2 := (statRecord payload x.1.2.2.1).toInt
    let v : U64 × U64 := if s.det || n == 0 then (b64 (statMean n s1 x.1.2.2.2), b64 (statVariance n s1 s2 x.1.2.2.2))
      else Config.welford b.digest window seq record x.2
    ⟨record, x.2, n, v.1, v.2⟩)

/-- A statistic record reported: its values take the place of those of an earlier take. -/
def State.reportStats (s : State) (q : Nat) (b : Binding) (window record seq : Nat) (payload : List Byte) : State :=
  let vs := s.statValues b window record seq payload
  s.updPart q (fun p =>
    let old := Table.look (fun _ => ([] : List StatValue)) p.drain.stats window
    { p with drain := { p.drain with
      stats := Table.put (fun _ => []) p.drain.stats window (old.filter (fun v => v.record != record) ++ vs) } })

/-! ## The cutting of records -/

/-- A record of a ring's takes that is next to be cut (R445): its window and index, the take's sweep, the records written for
the window before it, and its entry in the record list. -/
structure Cut where
  window : Nat
  win    : Window
  sweep  : Nat
  seq    : Nat
  rec_   : WinRecord
deriving DecidableEq, Repr

/-- The place of a cut's record in its take. -/
def Cut.index (c : Cut) : Nat := c.seq % c.win.records.length

/-- The next record of a ring's takes; none after the last. -/
def Partition.nextCut (p : Partition) (b : Binding) (ring : Nat) : Option Cut :=
  match nextTake b.windows ring p.drain.seq with
  | none => none
  | some (wi, w, sweep) =>
    let seq := Table.look (fun _ => 0) p.drain.seq wi
    (w.records[seq % w.records.length]?).map (fun r => ⟨wi, w, sweep, seq, r⟩)

/-- A record has left for its destination: the pools and the statistics take its payload, and its bytes leave the collect
ring. -/
def State.cutDone (s : State) (q : Nat) (b : Binding) (ring : Nat) (c : Cut) (payload : List Byte) : State :=
  let s := s.feedPools q b c.win c.window c.index c.sweep c.rec_ payload
  let s := if c.win.kind = 2 then s.reportStats q b c.window c.index c.seq payload else s
  s.updPart q (fun p => { p.updRing ring (fun x => { x with
      fill := x.fill + c.rec_.payload, moved := x.moved + c.rec_.payload }) with
    drain := { p.drain with seq := Table.put (fun _ => 0) p.drain.seq c.window (c.seq + 1), staged := none } })

/-- A stream ring stops (R160, R312). -/
def State.stopRing (s : State) (q ring : Nat) : State :=
  s.updPart q (fun p => { p.updRing ring (fun x => { x with stopped := true }) with
    drain := { p.drain with staged := none } })

/-- A record goes to the host drain ring of port B (R312), through the host ring staging region where there is one that holds
it (R160, log 119): it is first staged when the ring has room for it, and then read back and written; a double-bit error in
staging stops the ring. -/
def State.cutToHost (s : State) (q : Nat) (b : Binding) (ring : Nat) (c : Cut) (rec_ payload : List Byte) : State :=
  let s := s.hDrainPad q rec_.length
  match s.hDrainNext q rec_.length with
  | none => s
  | some next =>
    let tail := (s.part q).drain.hTail
    match s.hostStaging with
    | some (buf, off, room) =>
      if (s.part q).drain.staged = some (ring, rec_.length) then
        let r := s.bufferRead buf off rec_.length
        if r.1.isSome then r.2.2.stopRing q ring
        else (r.2.2.hDrainPut q tail next r.2.1).cutDone q b ring c payload
      else if rec_.length ≤ room then
        if s.stagingHeld then s
        else (s.bufferWrite buf off rec_).updPart q (fun p =>
          { p with drain := { p.drain with staged := some (ring, rec_.length) } })
      else (s.hDrainPut q tail next rec_).cutDone q b ring c payload
    | none => (s.hDrainPut q tail next rec_).cutDone q b ring c payload

/-- A record goes to the LPDDR6 drain ring (R186). -/
def State.cutToMem (s : State) (q : Nat) (b : Binding) (ring : Nat) (c : Cut) (rec_ payload : List Byte) : State :=
  match b.ldrain with
  | none => s
  | some (base, size) =>
    let s := s.lDrainPad q base size rec_.length
    match s.lDrainWrite q base size rec_ with
    | none => s
    | some t => t.cutDone q b ring c payload

/-- Whether a pool whose staging slot a record enters still has an earlier take's offer (R206). -/
def Partition.stagingBusy (p : Partition) (b : Binding) (c : Cut) : Bool :=
  (poolsOf b c.rec_.chain c.window false).any (fun e =>
    p.offers.any (fun o => o.pool == e.1 && o.begun && o.sweep != c.sweep))

/-- DRAIN_RECORD_WRITE: the south stream engine cuts the next record of a ring's takes and writes it when its bytes are
collected, its staging slot is free and its destination has room (R184 to R186, R205, R206, R312, R445). DESIGN CHOICE
(log 116): the engine takes nothing of a record out of the collect ring before its whole payload is there. -/
def execDrainRecordWrite (q : QuireId) (ring : Fin 32) (s : State) : Out :=
  match (s.part q).ringDesc ring with
  | none => .next s
  | some (b, d) =>
    let p := s.part q
    let x := p.ring ring
    if d.kind != 1 || x.stopped || !b.ringIsDrain ring || (b.ringPlace d).1 != 1 then .next s
    else
      match p.nextCut b ring with
      | none => .next (s.updPart q (fun p => p.updRing ring (fun x => { x with
          fill := x.fill + (x.used - x.moved), moved := x.used })))
      | some c =>
        if x.used - x.moved < c.rec_.payload || p.stagingBusy b c then .next s
        else if c.win.dest = 1 ∧ !bit (s.reg (Reg.hstDrain q)) 5 then .next (s.stopRing q ring)
        else
          let rd := s.ringRead b d x.moved c.rec_.payload
          if rd.1.isSome then .next (rd.2.2.stopRing q ring)
          else
            let rec_ := drainRecord c.rec_ c.win.kind c.window c.sweep c.seq rd.2.1
            .next (if c.win.dest = 1 then rd.2.2.cutToHost q b ring c rec_ rd.2.1
              else rd.2.2.cutToMem q b ring c rec_ rd.2.1)

end Sys2Proof.Machine
end

