-- ==== Sys2Proof/Machine/Controller.lean ====
section
/-! DEFINITION. The partition controller: barrier releases, the sweep boundary with its decisions, table writes and the
low-state pools (R59, R60, R66, R73, R74, R190 to R206, R308, R444). -/

namespace Sys2Proof.Machine

/-- The loaded Binding's controller tables. -/
def Partition.tables? (p : Partition) : Option Ctl := match p.binding with | some b => b.control | none => none

/-! ## SET_TABLE (R308) -/

/-- The cores of a partition that a TARGET field reaches, each with the part of the payload it takes: its offset and
length (R174). -/
def State.targets (s : State) (q target len : Nat) : List (Nat × Nat × Nat) :=
  let cores := s.partCores q
  let v := bitsN target 13 0
  let n := bitsN target 29 16
  if bitsN target 31 30 = 0 then (cores[v]?).toList.map (fun c => (c, 0, len))
  else if bitsN target 31 30 = 1 then cores.map (fun c => (c, 0, len))
  else if bitsN target 31 30 = 2 then
    (cores.filter (fun c => (s.core c).expect.isSome && (s.core c).class_ == v)).map (fun c => (c, 0, len))
  else if n = 0 then []
  else (List.range n).filterMap (fun k => (cores[v + k]?).map (fun c => (c, k * (len / n), len / n)))

/-- The bytes of the controller section that a table write replaces (R188). -/
def TableWrite.place (t : TableWrite) (c : Ctl) : Nat :=
  if t.kind = 1 then 0x40 else if t.kind = 2 then 0x140 else c.segAt + 16 * t.index

/-- A SET_TABLE lands and completes (R66, R193, R308). -/
def State.applyTable (s : State) (q : Nat) (t : TableWrite) : State :=
  let s :=
    if t.kind = 0 then
      (s.targets q t.target 2048).foldl (fun u x => u.wrSram x.1 (tableAt x.1 t.slot 0) (slice t.data x.2.1 x.2.2)) s
    else s.updPart q (fun p => { p with binding := p.binding.map (fun b => { b with
      control := b.control.map (fun c => overlay c (t.place c) t.data) }) })
  (s.updPart q (fun p => { p with colo := { p.colo with tables := true } })).complete t.desc stDone 0 0

/-- The pending SET_TABLEs of a partition land in the order they started. -/
def State.applyTables (s : State) (q : Nat) : State :=
  let ts := (s.part q).tables
  ts.foldl (fun u t => u.applyTable q t) (s.updPart q (fun p => { p with tables := [] }))

/-! ## The end of a run -/

/-- A run ends at a point with a status: the partition stops, pending table writes land, the run's completion follows its
last offer and its Colophon, and the HALTs that wait are done (R67, R306 to R308). -/
def State.endRun (s : State) (q point status : Nat) : State :=
  (((s.stopAtPoint q point).applyTables q).endJob q status).haltsDone q

/-! ## Barrier release -/

/-- DECIDE_TICKS of the loaded Binding; 0 without controller tables (R188, R191). -/
def Partition.decideTicks (p : Partition) : Nat := match p.tables? with | some c => c.decideTicks | none => 0

/-- Whether a sweep-end barrier has hall scope: the Binding has barriers of scope 1 (log 24). -/
def Partition.hallSweeps (p : Partition) : Bool := match p.binding with | some b => b.isHall | none => false

/-- Whether a pending barrier waits for the hall. -/
def BarrierWait.ofHall (b : BarrierWait) (p : Partition) : Bool := b.hall || (b.sweepEnd && p.hallSweeps)

/-- Whether every core of a partition has arrived. -/
def State.allArrived (s : State) (q : Nat) (b : BarrierWait) : Bool := (s.partCores q).all (fun n => n ∈ b.arrived)

/-- The release tick of a pending barrier (R73, R191), once it is fixed. -/
def BarrierWait.releaseTick (b : BarrierWait) (p : Partition) : Option Nat :=
  if b.ofHall p then b.release
  else some (b.lastTick + 42 + (if b.sweepEnd then p.decideTicks else 0))

/-- A core at the release of a sweep-end barrier (R74, R76, R134): its loop stack, phase, Q and categorical carry are
cleared, and its next word is CORE_ENTRY.SWEEP. -/
def CoreLive.sweepStart (l : CoreLive) (entry : Nat) : CoreLive :=
  { l with loops := [], phase := 0, q := 0, cat := {}, pc := entry }

/-- A core that goes on at a barrier release. -/
def CoreState.goOn (c : CoreState) : CoreState :=
  { c with mode := if c.mode = .barrier then .running else c.mode, nextMode := none }

/-- The cores at the release of a sweep-end barrier. -/
def State.sweepStart (s : State) (n : Nat) : State :=
  let e := s.rf (Reg.coreEntry n) 25 16
  s.updCore n (fun c => { c with live := c.live.sweepStart e, next := c.next.sweepStart e })

/-- Whether a run ends at the present release: at a sweep end when its sweeps are taken or a stop was asked for, at a
colour-phase barrier when the stop names one (R74, R302, R307). -/
def Job.endsAt (j : Job) (sweepEnd : Bool) : Bool :=
  if sweepEnd then j.sweeps ≤ j.taken || j.stop.isSome else j.stop == some 1

/-- The TSYNC output goes high at a release of the barrier group it shows (R419). -/
def State.tsyncPulse (s : State) (q : Nat) (b : BarrierWait) : State :=
  let p := s.part q
  if b.ofHall p ∧ s.rf Reg.pwrTsync 1 0 = 2 ∧ p.group.map Fin.val = some (s.rf Reg.pwrTsync 5 2) then
    { s with pwr := { s.pwr with pulses := s.pwr.pulses + 1 } }
  else s

/-- The release of a barrier at the present tick. At a sweep-end release the pending table writes land, before the first tick
of the next sweep (R66, R190). The sweep number is not wrapped: a deterministic run past 2^40 is refused (R145). -/
def State.releaseBarrier (s : State) (q : Nat) (b : BarrierWait) : State :=
  let cores := s.partCores q
  let s := s.tsyncPulse q b
  let s := s.updPart q (fun p => { p with
    barrier := none, epoch := p.tick
    sweep := if b.sweepEnd then p.sweep + 1 else p.sweep
    ctl := if b.sweepEnd then { p.ctl with inUse := p.ctl.k } else p.ctl
    rings := if b.sweepEnd then p.rings.map (fun e => (e.1, { e.2 with flush := e.2.used })) else p.rings })
  let s := if b.sweepEnd then (cores.foldl State.sweepStart s).applyTables q else s
  let s := cores.foldl (fun t n => t.updCore n CoreState.goOn) s
  match (s.part q).job with
  | some j =>
    if j.endsAt b.sweepEnd then
      s.endRun q (if b.sweepEnd then 0 else 1) stDone
    else s
  | none => s

/-- BARRIER_RELEASE: every core of the partition goes on at the release tick (R31, R73, R74, R191). A sweep-end barrier
is released after the boundary's decisions; a stopped partition releases none (R444). -/
def execBarrierRelease (q : QuireId) (s : State) : Out :=
  let p := s.part q
  match p.barrier with
  | none => .next s
  | some b =>
    match b.releaseTick p with
    | none => .next s
    | some t =>
      .next (if p.run = .running && s.allArrived q b && t ≤ p.tick && (!b.sweepEnd || b.decided) && !p.stopped &&
          !s.resetWaits q then
        s.releaseBarrier q b else s)

/-! ## Energies (R196) -/

/-- Whether one energy record is below another: 72-bit integers, or FP64 values when the binary point is 0xFF. -/
def energyBelow (point : Nat) (a b : List Byte) : Bool :=
  if point = 0xFF then fltB (decodeF fp64 (leAt a 0 8)) (decodeF fp64 (leAt b 0 8))
  else decide ((ofRecord a).toInt < (ofRecord b).toInt)

/-- Whether an energy is an FP64 NaN, which has no order. -/
def energyNan (point : Nat) (a : List Byte) : Bool := point == 0xFF && (decodeF fp64 (leAt a 0 8)).isNan

/-- Whether an energy is strictly below +∞, as every integer is. -/
def energyFinite (point : Nat) (a : List Byte) : Bool :=
  point != 0xFF || fltB (decodeF fp64 (leAt a 0 8)) (.inf false)

/-- The lowest of some energies; NaN is left out. -/
def lowestEnergy (point : Nat) (l : List (List Byte)) : Option (List Byte) :=
  (l.filter (fun e => !energyNan point e)).foldl (fun m e => match m with
    | none => some e
    | some x => if energyBelow point e x then some e else some x) none

/-! ## The decisions of a boundary -/

/-- The event number of a decision sweep; none for another sweep. -/
def Ctl.event (c : Ctl) (n : Nat) : Option Nat :=
  if c.dfirst ≤ n ∧ (n - c.dfirst) % max 1 c.dstride = 0 then some ((n - c.dfirst) / max 1 c.dstride) else none

/-- The noise index after a rise (R196). -/
def raiseK (wrap : Bool) (k : Nat) : Nat := if k = 63 then (if wrap then 0 else 63) else k + 1

/-- The update of the best energy, the stuck counter and the noise index (R196, R197), and whether it improved. -/
def noiseStep (c : Ctl) (x : Control) (low : Option (List Byte)) : Control × Bool :=
  let better := match low, x.best with
    | some e, some b => energyBelow c.point e b
    | some e, none => energyFinite c.point e
    | none, _ => false
  if better then ({ x with best := low, stuck := 0, k := 0 }, true)
  else if c.noise then
    if c.stuckS ≤ x.stuck + 1 then ({ x with stuck := 0, k := raiseK c.wrap x.k }, false)
    else ({ x with stuck := x.stuck + 1 }, false)
  else (x, false)

/-- The pairs proposed at an event (R198): their lower rungs. -/
def proposed (rungs event : Nat) : List Nat := (List.range (rungs - 1)).filter (fun r => r % 2 == event % 2)

/-- ΔE of two chains (R199). -/
def deltaE (point : Nat) (a b : List Byte) : FVal :=
  if point = 0xFF then fsub fp64 (decodeF fp64 (leAt a 0 8)) (decodeF fp64 (leAt b 0 8))
  else
    let d := (ofRecord a).toInt - (ofRecord b).toInt
    roundF fp64 (.fin (d < 0) d.natAbs (-(point : Int)))

/-- Δ of a pair (R199). -/
def deltaOf (point : Nat) (betaLow betaHigh : U32) (a b : List Byte) : FVal :=
  roundF fp32 (fmul fp64 (fsub fp64 (f32 betaLow) (f32 betaHigh)) (deltaE point a b))

/-- T(Δ) from the ACCEPT table (R130, R199). -/
def Ctl.accept (c : Ctl) (d : FVal) : Nat :=
  let j := tablePos d
  interp j (leAt c (0x140 + 2 * (tablePair j).1) 2) (leAt c (0x140 + 2 * (tablePair j).2) 2)

/-- The controller's field for a pair (R200). -/
def pairField (key : List Byte) (sweep ladderId r : Nat) : Nat :=
  blockField key ⟨r / 32, 0, 2, 0, 0, sweep, ladderId⟩ (r % 32)

/-- Whether a pair swaps (R199). -/
def swaps (c : Ctl) (key : List Byte) (sweep j r : Nat) (ea eb : List Byte) : Bool :=
  let d := deltaOf c.point (c.rungBeta j r) (c.rungBeta j (r + 1)) ea eb
  !d.isNan && below (pairField key sweep (c.ladderId j) r) (c.accept d)

/-- A rung map with the pairs of some lower rungs swapped (R201). -/
def swapRungs (m : List Nat) (l : List Nat) : List Nat :=
  l.foldl (fun m r => (m.set r (m.getD (r + 1) 0)).set (r + 1) (m.getD r 0)) m

/-- The exchange log record of a ladder (R202). -/
def exlogRecord (sweep ladder event seq : Nat) (swapped : List Nat) : List Byte :=
  leBytes 5 (sweep % 2 ^ 40) ++ leBytes 1 ladder ++ leBytes 1 (event % 2) ++ leBytes 1 0 ++ leBytes 4 seq ++
  leBytes 4 0 ++ leBytes 32 (bitsFrom swapped)

/-- The address of an energy record in the mailbox: its buffer and byte offset (R196). -/
def Binding.mailboxAt (b : Binding) (c : Ctl) (i : Nat) : Nat × Nat :=
  match b.regions[c.mailRegion]? with
  | some r => (r.buffer, r.first * 0x10000 + 8 * (c.mailOffset + 2 * i))
  | none => (0, 0)

/-- The chain indices whose records the controller reads. -/
def Ctl.readChains (c : Ctl) : List Nat :=
  (List.range c.chains).filter (fun i => (c.chain i).monitor || (c.chain i).ladder != 0xFFFF)

/-- The decision of one ladder (R198 to R202). DESIGN CHOICE (log 118): the index SEQ mod EXLOG_RECORDS follows a count that
does not wrap, while the 4 B field of the record does. -/
def State.exchange (s : State) (q : Nat) (c : Ctl) (sweep event j : Nat) (energy : Nat → List Byte) : State :=
  let p := s.part q
  let key := (p.seed <|> p.ctl.key).getD (zeros 32)
  let map := p.ctl.rungs.getD j []
  let pairs := proposed (c.rungs j) event
  let won := pairs.filter (fun r => swaps c key sweep j r (energy (map.getD r 0)) (energy (map.getD (r + 1) 0)))
  let s := (s.count (Reg.prtExstat q) 31 0 pairs.length).count (Reg.prtExstat q) 63 32 won.length
  let s := s.updPart q (fun p => { p with ctl := { p.ctl with rungs := p.ctl.rungs.set j (swapRungs map won) } })
  if c.exlog then
    let seq := (s.part q).ctl.seq
    (s.wrDram q (c.exlogBase + seq % max 1 c.exlogRecords * 48) (exlogRecord sweep j event seq won)).updPart q
      (fun p => { p with ctl := { p.ctl with seq := seq + 1 } })
  else s

/-- β of every chain with a schedule or a ladder for a sweep, by chain id (R190, R194, R201); none for the set-up β, before
the first segment of a schedule. -/
def betasFor (c : Ctl) (rungs : List (List Nat)) (sweep : Nat) : List (Nat × Option U32) :=
  (List.range c.chains).filterMap (fun i =>
    let e := c.chain i
    if e.ladder != 0xFFFF then
      (((rungs.getD e.ladder []).zipIdx).find? (fun x => x.1 == i)).map (fun x =>
        (e.chain, some (c.rungBeta e.ladder x.2)))
    else if e.sched != 0xFF then some (e.chain, scheduleBeta (c.schedule e.sched) sweep)
    else none)

/-- Identity registers with β written where CHAIN names a chain (R195), from `setup` where it is the set-up β (R194). -/
def writeBetas (bs : List (Nat × Option U32)) (setup : Nat → U32) (ids : Table IdReg) : Table IdReg :=
  (List.range 8).foldl (fun t k =>
    let r := Table.look (fun _ => ({} : IdReg)) t k
    match bs.find? (fun x => x.1 == r.chain.toNat) with
    | some x => Table.put (fun _ => ({} : IdReg)) t k { r with beta := x.2.getD (setup k) }
    | none => t) ids

/-- β written into the cores of a partition. -/
def State.setBetas (s : State) (q : Nat) (bs : List (Nat × Option U32)) : State :=
  (s.partCores q).foldl (fun t n =>
    t.setLive n (fun l => { l with ids := writeBetas bs (fun k => (t.setupId n k).beta) l.ids })) s

/-! ## The boundary -/

/-- Steps 2 to 4 of R190 under controller tables: best energy and noise, exchanges, and β for the next sweep. -/
def State.takeDecisions (s : State) (q : Nat) (c : Ctl) (energy : Nat → List Byte) : State :=
  let n := (s.part q).sweep
  let s := match c.event n with
    | none => s
    | some m =>
      let mon := (List.range c.chains).filter (fun i => (c.chain i).monitor)
      let r := noiseStep c (s.part q).ctl (lowestEnergy c.point (mon.map energy))
      let s := if mon.isEmpty then s else
        let s := s.updPart q (fun p => { p with ctl := r.1 })
        if r.2 then s.count (Reg.prtAnneal q) 63 32 1 else s
      (List.range c.ladders).foldl (fun t j => t.exchange q c n m j energy) s
  s.setBetas q (betasFor c (s.part q).ctl.rungs (n + 1))

/-- Whether a window takes a sweep (R445). -/
def Window.takes (w : Window) (sweep : Nat) : Bool :=
  decide (w.first ≤ sweep ∧ sweep ≤ w.last) && (sweep - w.first) % max 1 w.stride == 0 && !w.records.isEmpty

/-- Whether the records of a chain in a window's take of a sweep have all been cut: a Leaf may send a take's bytes before its
sweep ends (R445). -/
def Partition.takeCut (p : Partition) (b : Binding) (win chain sweep : Nat) : Bool :=
  match b.windows[win]? with
  | none => true
  | some w =>
    let last := ((w.records.zipIdx.filter (fun r => r.1.chain == chain)).map (fun r => r.2 + 1)).foldl max 0
    last == 0 || decide ((sweep - w.first) / max 1 w.stride * w.records.length + last ≤
      Table.look (fun _ => 0) p.drain.seq win)

/-- The offers of a sweep that the pools of a partition owe: those whose SWIN takes it (R206), without those whose state and
energy have come already. -/
def Partition.openOffers (p : Partition) (b : Binding) (sweep : Nat) : Partition :=
  (b.poolList.filter (fun e => (b.windows[e.2.1.swin]?).any (fun w => w.takes sweep) &&
      !(p.takeCut b e.2.1.swin e.2.2 sweep && p.takeCut b e.2.1.ewin e.2.2 sweep))).foldl
    (fun p e => p.updOffer e.1 sweep id) p

/-- SWEEP_BOUNDARY: at a sweep-end barrier, once the last arrival is observed, the controller takes the sweep's results, with
the offers that follow from them, decides and writes β (R190, R191, R206); pending table writes land at the release. An
uncorrectable mailbox granule freezes the partition before any decision (R444). -/
def execSweepBoundary (q : QuireId) (s : State) : Out :=
  let p := s.part q
  match p.barrier with
  | none => .next s
  | some b =>
    if p.run = .running && b.sweepEnd && !b.decided && s.allArrived q b && b.lastTick + 20 ≤ p.tick && !p.stopped then
      let s := s.updPart q (fun p =>
        let p := match p.binding with | some bd => p.openOffers bd p.sweep | none => p
        { p with
          job := p.job.map (fun j => { j with taken := j.taken + 1 })
          barrier := some { b with decided := true } })
      match p.tables?, p.binding with
      | some c, some bd =>
        let reads := c.readChains.map (fun i => (i, s.bufferRead (bd.mailboxAt c i).1 (bd.mailboxAt c i).2 16))
        match reads.find? (fun r => r.2.1.isSome) with
        | some r =>
          .next ((s.bufferRead (bd.mailboxAt c r.1).1 (bd.mailboxAt c r.1).2 16).2.2.updPart q (fun p =>
            { p.stop with barrier := some b }))
        | none =>
          let energy (i : Nat) : List Byte := s.rd (bufferBase (bd.mailboxAt c i).1 + (bd.mailboxAt c i).2) 16
          let t := c.readChains.foldl (fun t i => (t.bufferRead (bd.mailboxAt c i).1 (bd.mailboxAt c i).2 16).2.2) s
          .next (t.takeDecisions q c energy)
      | _, _ => .next s
    else .next s

/-! ## Low-state pools (R59, R60, R203 to R206) -/

/-- An entry of a pool as LPDDR6 holds it (R204). -/
structure PoolSlot where
  energy : List Byte
  point  : Nat
  slot   : Nat
  sweep  : Nat
  digest : List Byte
deriving DecidableEq, Repr

/-- A pool entry from its 64 bytes. -/
def PoolSlot.ofBytes (b : List Byte) : PoolSlot := ⟨slice b 0 16, leAt b 16 1, leAt b 17 1, leAt b 24 5, slice b 32 32⟩

/-- The 64 bytes of a pool entry. -/
def PoolSlot.bytes (e : PoolSlot) : List Byte :=
  padTo 16 e.energy ++ leBytes 1 e.point ++ leBytes 1 e.slot ++ zeros 6 ++ leBytes 8 (e.sweep % 2 ^ 40) ++ padTo 32 e.digest

/-- The entries of a pool, lowest energy first. -/
def State.poolEntries (s : State) (e : PoolEntry) : List PoolSlot :=
  (List.range (s.rdN (e.base + 9) 1)).map (fun i => PoolSlot.ofBytes (s.rd (e.entryAt i) 64))

/-- The entries with a new one in its place: behind every entry of equal energy (R205). -/
def insertEntry (x : PoolSlot) : List PoolSlot → List PoolSlot
  | [] => [x]
  | y :: ys => if energyBelow x.point x.energy y.energy then x :: y :: ys else y :: insertEntry x ys

/-- The lowest slot that holds no entry. -/
def firstFreeSlot (capacity : Nat) (l : List PoolSlot) : Nat :=
  ((List.range (capacity + 1)).find? (fun k => !l.any (fun e => e.slot == k))).getD 0

/-- The outcome of an offer (R59, R205): the new entries and staging slot; none when nothing changes. -/
def State.offerOutcome (s : State) (e : PoolEntry) (sweep : Nat) (energy : List Byte) (point : Nat) :
    Option (List PoolSlot × Nat) :=
  let es := s.poolEntries e
  let slot := s.staging e
  let state := s.rd (e.slotAt slot) e.stateBytes
  let dig := shake256_256 state
  if energyNan point energy then none
  else if es.any (fun x => x.digest == dig && s.rd (e.slotAt x.slot) e.stateBytes == state) then none
  else
    let new : PoolSlot := ⟨energy, point, slot, sweep, dig⟩
    if es.length < e.capacity then
      let l := insertEntry new es
      some (l, firstFreeSlot e.capacity l)
    else
      match es.getLast? with
      | none => none
      | some z => if energyBelow point energy z.energy then some ((insertEntry new es).dropLast, z.slot) else none

/-- The LPDDR6 ranges an offer reads: header and entries, the staged state, and every state whose digest matches. -/
def State.offerReads (s : State) (e : PoolEntry) : List (Nat × Nat) :=
  let slot := e.slotAt (s.staging e)
  let dig := shake256_256 (s.rd slot e.stateBytes)
  [(e.base, 64 + 64 * e.capacity), (slot, e.stateBytes)] ++
  ((s.poolEntries e).filter (fun x => x.digest == dig)).map (fun x => (e.slotAt x.slot, e.stateBytes))

/-- The collect ring of a pool's SWIN window. -/
def Binding.poolRing (b : Binding) (e : PoolEntry) : Nat := ((b.windows[e.swin]?).map Window.ring).getD 0

/-- POOL_OFFER: a state that is staged whole and whose energy is known is offered to its pool (R205). An uncorrectable
LPDDR6 access stops the stream that the pool engine serves, the ring of the pool's SWIN: the offer stays, and the partition
holds (R234). -/
def execPoolOffer (q : QuireId) (pool : Nat) (s : State) : Out :=
  let p := s.part q
  match p.binding, p.offers.find? (fun o => o.pool == pool && o.staged && o.energy.isSome) with
  | some b, some o =>
    match b.poolList.find? (fun x => x.1 == pool), o.energy with
    | some (_, e, _), some (energy, point) =>
      let ring := b.poolRing e
      let reads := s.offerReads e
      let s1 := reads.foldl (fun (t : State) x => t.dramRead q x.1 x.2) s
      if (p.ring ring).stopped then .next s
      else if reads.any (fun x => (s.dramUe x.1 x.2).isSome) then .next (s1.stopRing q ring)
      else
        let r := s1.offerOutcome e o.sweep energy point
        let s2 := match r with
          | some (l, st) =>
            let t := l.zipIdx.foldl (fun (t : State) (x : PoolSlot × Nat) => t.wrDram q (e.entryAt x.2) x.1.bytes) s1
            let t := t.wrDram q (e.base + 9) (leBytes 1 l.length ++ leBytes 1 st)
            (t.wrDram q (e.base + 0x14) (leBytes 4 (t.rdN (e.base + 0x14) 4 + 1))).count (Reg.prtPoolstat q) 47 24 1
          | none => s1
        let s3 := s2.wrDram q (e.base + 0x10) (leBytes 4 (s2.rdN (e.base + 0x10) 4 + 1))
        .next (((s3.count (Reg.prtPoolstat q) 23 0 1).updPart q (fun p => { p with offers := p.offers.erase o })).settleJob q)
    | _, _ => .next s
  | _, _ => .next s

end Sys2Proof.Machine
end

