-- ==== Sys2Proof/Machine/CoreControl.lean ====
section
/-! DEFINITION. The control slot: NOP of every slot, loops, waits, barriers, phase, flags, page-in, pointer set and
halt (R68 to R78). -/

namespace Sys2Proof.Machine

/-- The core passes the present word. -/
def State.pass (s : State) (n : Nat) : State := s.updCore n CoreState.passWord

/-- A NOP slot does nothing (R68); in the control slot the program counter passes the word. A NOP slot with a non-zero
bit, as one whose opcode no operation has, makes its word illegal (R89). -/
def execNop (c : CoreId) (slot : Slot) (w : U32) (s : State) : Out :=
  slotOp s c (w == 0) (fun s => if slot = .control then s.pass c else s)

/-- Whether a LOOP is legal (R72, R89). -/
def State.loopLegal (s : State) (c : CoreId) (w : U32) : Bool :=
  let x := (s.core c).live
  fld w 0 0 == 0 && x.loops.length < 4 && fld w 10 1 != x.pc && x.loops.all (fun l => l.last != x.pc)

/-- LOOP pushes a level and its body follows (R72). -/
def execLoop (c : CoreId) (w : U32) (s : State) : Out :=
  let x := (s.core c).live
  let last := fld w 10 1
  slotOp s c (s.loopLegal c w)
    (fun s => s.updCore c (fun k => { k with next := { k.next with
      pc := (x.pc + 1) % 1024
      loops := ⟨(x.pc + 1) % 1024, last, fld w 26 11 + 1⟩ :: x.loops } }))

/-- WAIT: the next word issues at tick t + 1 + n (R71). -/
def execWait (c : CoreId) (w : U32) (s : State) : Out :=
  slotOp s c true (fun s =>
    let t := s.tickOf c
    (s.pass c).updCore c (fun k =>
      if fld w 26 0 = 0 then k else { k with nextMode := some .waiting, waitUntil := t + 1 + fld w 26 0 }))

/-- An arrival at the partition's barrier, at a time (R73, R168). -/
def Partition.arrive (p : Partition) (n : Nat) (sweepEnd hall : Bool) (wall : Nat) : Partition :=
  let b := p.barrier.getD { sweepEnd := sweepEnd, hall := hall, arrived := [], lastTick := p.tick }
  { p with barrier := some { b with arrived := if n ∈ b.arrived then b.arrived else n :: b.arrived,
                                    lastTick := p.tick, lastAt := wall,
                                    hall := b.hall || hall, sweepEnd := b.sweepEnd || sweepEnd } }

/-- A core's arrival, when it belongs to a partition. -/
def State.arrive (s : State) (n : Nat) (sweepEnd hall : Bool) : State :=
  match s.partOfCore n with
  | some q => s.updPart q (fun p => p.arrive n sweepEnd hall s.clk.wall)
  | none => s

/-- BAR arrives at the barrier, at the tick's end unless the word is illegal or stops the core (R89); the next word issues at
the release tick (R73). -/
def execBar (c : CoreId) (w : U32) (s : State) : Out :=
  slotOp s c (fld w 25 0 == 0) (fun s =>
    (s.pass c).updCore c (fun k => { k with nextMode := some .barrier, arrival := some (false, bit w 26) }))

/-- SWEND arrives at the sweep-end barrier like a BAR and returns UNIT and CHAIN of the live identity registers to their
set-up values (R74). -/
def execSwend (c : CoreId) (w : U32) (s : State) : Out :=
  slotOp s c (fld w 26 0 == 0) (fun s =>
    (s.pass c).updCore c (fun k => { k with
      nextMode := some .barrier, arrival := some (true, false), reload := true
      next := { k.next with ids := s.reloadIds c k.next.ids } }))

/-- PHASE sets the colour phase and Q from the next tick, and reloads the identity registers when asked (R76). -/
def execPhase (c : CoreId) (w : U32) (s : State) : Out :=
  slotOp s c (fld w 1 0 == 0) (fun s =>
    (s.pass c).updCore c (fun k => { k with next := { k.next with
      phase := fld w 26 19
      q := fld w 18 3
      ids := if bit w 2 then s.reloadIds c k.next.ids else k.next.ids }, reload := k.reload || bit w 2 }))

/-- FLAG sets and clears the core's status lines; a line in both masks is set (R77). -/
def execFlag (c : CoreId) (w : U32) (s : State) : Out :=
  slotOp s c (fld w 18 0 == 0) (fun s =>
    (s.pass c).updCore c (fun k => { k with next := { k.next with
      flags := (k.next.flags &&& (15 - fld w 22 19)) ||| fld w 26 23 } }))

/-- The Leaf words of one tick of a PAGE, as writes. -/
def pageWrites (n : Nat) (d : PageDue) (bs : List Byte) : List (Nat × List Byte) :=
  (List.range d.count).map (fun i => (leafAt n ((d.word + i) % 1024), slice bs (16 * i) 16))

/-- One tick of a PAGE: up to four Leaf words from tile memory (R78). Its first tick belongs to the word that issues
it; the later ones belong to no word. -/
def State.pageTick (s : State) (n : Nat) (d : PageDue) (first : Bool) : State :=
  s.withLink n (fun s =>
    match s.tileRead n d.tile (2 * d.count) with
    | (none, s') => s'
    | (some bs, s') => s'.updCore n (fun k =>
      if first then { k with linkWrites := k.linkWrites ++ pageWrites n d bs }
      else { k with eventWrites := k.eventWrites ++ pageWrites n d bs }))

/-- Whether a PAGE is legal (R62, R78, R89). -/
def State.pageLegal (s : State) (c : CoreId) (w : U32) : Bool :=
  fld w 5 0 == 0 && tileOk ((s.core c).ptrAt (fld w 26 23)) (2 * (fld w 11 6 + 1))

/-- PAGE copies words from tile memory into the Leaf store, four a tick (R78). -/
def execPage (c : CoreId) (w : U32) (s : State) : Out :=
  let k := fld w 26 23
  let count := fld w 11 6 + 1
  let first := fld w 21 12
  let g := (s.core c).ptrAt k
  slotOp s c (s.pageLegal c w) (fun s =>
    let t := s.tickOf c
    let dues := (List.range (ceilDiv count 4)).map (fun i =>
      (⟨t + i, g.toNat + 8 * i, (first + 4 * i) % 1024, min 4 (count - 4 * i)⟩ : PageDue))
    let s := (s.pass c).updCore c (fun x => { x with newPages := dues.drop 1 })
    let s := s.advance c k (bit w 22)
    match dues with
    | d :: _ => s.pageTick c d true
    | [] => s)

/-- PSET sets a pointer's live address from the next tick; it stands over the tick's advances (R69). -/
def execPset (c : CoreId) (w : U32) (s : State) : Out :=
  slotOp s c (fld w 8 0 == 0) (fun s =>
    (s.pass c).updCore c (fun k => { k with pset := some (fld w 26 23, (fld w 22 9 : Int)) }))

/-- HALT stops the core in state LOADED at the next tick, its program counter at the word that would have issued
(R75). -/
def execLeafHalt (c : CoreId) (w : U32) (s : State) : Out :=
  slotOp s c (fld w 26 0 == 0) (fun s =>
    (s.pass c).updCore c (fun k => { k with nextMode := some .halted }))

end Sys2Proof.Machine
end

