-- ==== Sys2Proof/Machine/Link.lean ====
section
/-! DEFINITION. The link slot and the landing of link words (R79 to R82, R149 to R151). -/

namespace Sys2Proof.Machine

/-- The length in bytes that the link slot's length field names. -/
def linkLen (w : U32) : Nat := 8 * 2 ^ fld w 22 21

/-- The links that the destination mask names (R79). -/
def linkDests (w : U32) : List Dir :=
  (if bit w 26 then [Dir.n] else []) ++ (if bit w 25 then [Dir.e] else []) ++
  (if bit w 24 then [Dir.s] else []) ++ (if bit w 23 then [Dir.w] else [])

/-- Whether a tree send holds the core's sending side (R120). -/
def State.treeBusy (s : State) (n : Nat) : Bool := s.tickOf n < (s.core n).treeUntil

/-- A word put on links at the end of the tick. -/
def State.putOut (s : State) (n : Nat) (ds : List Dir) (x : LinkWord) : State :=
  s.updCore n (fun c => { c with outbox := c.outbox ++ ds.map (fun d => (d, x)) })

/-- The bytes a RECV writes: the operation's length from the start of the word, zero beyond the word's own length
(R80). -/
def recvBytes (x : LinkWord) (len : Nat) : List Byte := padTo len (x.bytes.take x.len)

/-- The word a RELAY forwards, at its arrived length (R80). -/
def relayWord (x : LinkWord) : LinkWord := ⟨padTo x.len x.bytes, x.len, none⟩

/-- Use a landing register: a word marked bad stops the core under the kind of its mark, with no message (R82). -/
def State.withLanded (s : State) (n : Nat) (x : LinkWord) (f : State → State) : State :=
  match x.bad with
  | some k => s.haltOn n k.toNat
  | none => f s

/-- Whether a SEND is legal (R62, R79, R89, R120). -/
def State.sendLegal (s : State) (c : CoreId) (w : U32) : Bool :=
  fld w 15 0 == 0 && fld w 26 23 != 0 && tileOk ((s.core c).ptrAt (fld w 20 17)) (linkLen w / 8) && !s.treeBusy c

/-- Whether a RECV is legal. -/
def State.recvLegal (s : State) (c : CoreId) (w : U32) : Bool :=
  fld w 15 0 == 0 && tileOk ((s.core c).ptrAt (fld w 20 17)) (linkLen w / 8)

/-- Whether a RELAY is legal. -/
def State.relayLegal (s : State) (c : CoreId) (w : U32) : Bool := fld w 15 0 == 0 && fld w 26 23 != 0 && !s.treeBusy c

/-- SEND sends a word from tile memory on the named links (R80). -/
def execSend (c : CoreId) (w : U32) (s : State) : Out :=
  let k := fld w 20 17
  let g := (s.core c).ptrAt k
  slotOp s c (s.sendLegal c w) (fun s =>
    s.withLink c (fun s =>
      match s.tileRead c g (linkLen w / 8) with
      | (none, s') => s'
      | (some bs, s') => (s'.putOut c (linkDests w) ⟨bs, linkLen w, none⟩).advance c k (bit w 16)))

/-- A write of landed bytes to tile memory through the link and sequencer port. -/
def State.recvWrite (s : State) (n : Nat) (g : Int) (bs : List Byte) : State :=
  s.updCore n (fun c => { c with linkWrites := c.linkWrites ++ [(tileAt n g.toNat, bs)] })

/-- RECV writes the word in a landing register into tile memory (R80). -/
def execRecv (c : CoreId) (w : U32) (s : State) : Out :=
  let k := fld w 20 17
  let g := (s.core c).ptrAt k
  let x := (s.core c).landed (Dir.ofCode (fld w 28 27))
  slotOp s c (s.recvLegal c w) (fun s =>
    s.withLink c (fun s => s.withLanded c x (fun s =>
      (s.recvWrite c g (recvBytes x (linkLen w))).advance c k (bit w 16))))

/-- RELAY forwards the word in a landing register on the named links; it uses no port (R80, R88). -/
def execRelay (c : CoreId) (w : U32) (s : State) : Out :=
  let x := (s.core c).landed (Dir.ofCode (fld w 28 27))
  slotOp s c (s.relayLegal c w) (fun s =>
    s.withLanded c x (fun s => s.putOut c (linkDests w) (relayWord x)))

/-- RECVF writes the word in a landing register into tile memory and forwards it (R80). -/
def execRecvf (c : CoreId) (w : U32) (s : State) : Out :=
  let k := fld w 20 17
  let g := (s.core c).ptrAt k
  let x := (s.core c).landed (Dir.ofCode (fld w 28 27))
  slotOp s c (s.sendLegal c w) (fun s =>
    s.withLink c (fun s => s.withLanded c x (fun s =>
      ((s.recvWrite c g (recvBytes x (linkLen w))).putOut c (linkDests w) (relayWord x)).advance c k (bit w 16))))

/-- A word on its way to a partition's core, or to an edge router, or nowhere (R81, R149, R157). -/
def State.sendWord (s : State) (n : Nat) (d : Dir) (x : LinkWord) : State :=
  let t := s.tickOf n
  match neighbour n d with
  | some m =>
    if s.partOfCore m = s.partOfCore n ∧ (s.partOfCore n).isSome then
      s.updCore m (fun c => { c with arriving := c.arriving ++ [⟨t + linkTicks n m, d.opposite, x⟩] })
    else s
  | none =>
    match routerOf n d, s.partOfCore n with
    | some (ed, r), some q => s.updPart q (fun p => { p with edgeOut := p.edgeOut ++ [(ed, r, t, x)] })
    | _, _ => s

/-- Report a link fault with its receiving core (R151). -/
def State.linkFault (s : State) (n : Nat) (d : Dir) (kind : Nat) : State := s.report n kind d.code (s.coreTag n)

/-- What the receiver makes of an arriving word (R82, R151): the word with its mark, the count of consecutive failed
words, and whether the link is then down. -/
def landWord (x : LinkWord) (bad : Nat) (down : Bool) (how : Arrival) : LinkWord × Nat × Bool :=
  match how with
  | .good => (if down then { x with bad := some 0x31 } else x, 0, down)
  | .failed => ({ x with bad := some (if down then 0x31 else 0x30) }, bad + 1, down || 4 ≤ bad + 1)
  | .misaligned => ({ x with bad := some 0x31 }, bad, true)

/-- LINK_WORD_LAND: the word due on a link lands in the landing register of its direction (R80, R82, R151). A core
under reset absorbs it (R93). -/
def execLinkWordLand (c : CoreId) (d : Dir) (how : Arrival) (s : State) : Out :=
  let k := s.core c
  match k.arriving.find? (fun a => a.dir == d && a.at_ ≤ s.tickOf c) with
  | none => .next s
  | some a =>
    let s := s.updCore c (fun k => { k with arriving := k.arriving.erase a })
    if k.absorb then .next s
    else
      let down := d ∈ k.linkDown
      let r := landWord a.word (Table.look (fun _ => 0) k.linkBad d.code) down how
      let s := s.setLive c (fun l => { l with landing := Table.put (fun _ => LinkWord.empty) l.landing d.code r.1 })
      let s := s.updCore c (fun k => { k with
        linkBad := Table.put (fun _ => 0) k.linkBad d.code r.2.1
        linkDown := if r.2.2 && !down then d :: k.linkDown else k.linkDown })
      let s := if how = .failed then s.linkFault c d 0x30 else s
      .next (if r.2.2 && !down then s.linkFault c d 0x31 else s)

end Sys2Proof.Machine
end

