-- ==== Sys2Proof/Machine/FieldEngine.lean ====
section
/-! DEFINITION. The field slot: groups, accumulation, the fused output stage and reductions (R99 to R122). -/

namespace Sys2Proof.Machine

/-- Accumulation group g of a core. -/
def CoreState.group (c : CoreState) (g : Nat) : Group := c.groups.look (fun _ => ({} : Group)) g

/-- The core with group g replaced. -/
def CoreState.setGroup (c : CoreState) (g : Nat) (x : Group) : CoreState :=
  { c with groups := Table.put (fun _ => ({} : Group)) c.groups g x }

/-- The owner of a tile-row: 0 for none, g + 1 for group g (R101). -/
def CoreState.owner (c : CoreState) (row : Nat) : Nat := Table.look (fun _ => 0) c.tags row

/-- The core with the tags of consecutive rows written. -/
def CoreState.tagRows (c : CoreState) (first rows v : Nat) : CoreState :=
  { c with tags := Table.putSpan (fun _ => 0) c.tags first (List.replicate rows v) }

/-- The binary encoding of the loaded Binding: true for ±1 (R96). -/
def State.pm1 (s : State) (n : Nat) : Bool :=
  match s.partOfCore n with
  | some q => match (s.part q).binding with
    | some b => b.flags.testBit 2
    | none => false
  | none => false

/-- A field-slot operation that a conflict stops (R102, R103): an illegal word reports LEAF_ILLEGAL only (R89). -/
def fieldOp (s : State) (n : Nat) (legal free : Bool) (f : State → State) : Out :=
  slotOp s n legal (fun s => if free then f s else s.conflict n)

/-! ## OPEN, ACC, LDS -/

/-- Whether an OPEN is legal (R89, R101, R110). -/
def State.openLegal (s : State) (w : U32) : Bool :=
  fld w 1 0 == 0 && fld w 24 17 + (fld w 16 9 + 1) ≤ 256 && !(bit w 8 && s.det)

/-- Whether an OPEN meets no conflict (R102). -/
def State.openFree (s : State) (c : CoreId) (w : U32) : Bool :=
  !((s.core c).group (fld w 27 25)).isOpen &&
    (List.range (fld w 16 9 + 1)).all (fun i => (s.core c).owner (fld w 24 17 + i) == 0)

/-- OPEN claims tile-rows for a group; they then read as zero (R101, R102, R110). -/
def execAccOpen (c : CoreId) (w : U32) (s : State) : Out :=
  let g := fld w 27 25
  let first := fld w 24 17
  let rows := fld w 16 9 + 1
  let isFloat := bit w 8
  fieldOp s c (s.openLegal w) (s.openFree c w)
    (fun s =>
      let s := s.updCore c (fun k => (k.tagRows first rows (g + 1)).setGroup g
        { isOpen := true, isFloat := isFloat, point := fld w 7 2, range := false, firstRow := first, rows := rows,
          readyAt := 0 })
      s.mapEntries c (8 * first) (List.replicate (8 * rows) (fun _ => 0)))

/-- The effect of an ACC once its tile and window are latched (R106, R111, R112). -/
def State.accumulate (s : State) (n g fmt shape kind row : Nat) (scaled : Bool) (tile scales window : List Byte) :
    State :=
  let k := s.core n
  let x := k.group g
  let zs := (List.range (tileU shape)).map (termsOf fmt shape kind (s.pm1 n) tile scales window scaled)
  let range := x.range || zs.any (fun l => l.any (fun z => if x.isFloat then !z.finite else z.outOfRange x.point))
  let m := accTicks fmt kind x.isFloat
  let t := s.tickOf n
  let s := s.updCore n (fun k => { k.setGroup g { x with range := range, readyAt := max x.readyAt (t + 3 + m) } with
    engineFree := t + m })
  s.mapEntries n (8 * row) (zs.map (fun l =>
    if x.isFloat then addFloat (floatSum fmt shape l)
    else addExact ((l.map (Term.fixed x.point)).foldl (· + ·) 0)))

/-- Granules that an ACC reads: its tile, and its scale granule when its pointer is marked SCALED (R98). -/
def State.accNeed (s : State) (c : CoreId) (w : U32) : Nat :=
  if bit (s.reg (Reg.corePtr c (fld w 17 14))) 63 then 17 else 16

/-- Whether an ACC is legal (R89, R94, R95, R97, R99, R110). -/
def State.accLegal (s : State) (c : CoreId) (w : U32) : Bool :=
  let k := s.core c
  let x := k.group (fld w 27 25)
  fld w 22 20 < 5 && !(fld w 24 23 == 0 && 2 ≤ fld w 19 18)
    && 4 * fld w 12 8 + windowBytes (fld w 24 23) (fld w 22 20) (fld w 19 18) ≤ 128 && k.engineFree ≤ s.tickOf c
    && tileOk (k.ptrAt (fld w 17 14)) (s.accNeed c w) && !(x.isOpen && x.isFloat && fld w 19 18 < 2) && !k.fePort

/-- Whether an ACC meets no conflict (R102). -/
def State.accFree (s : State) (c : CoreId) (w : U32) : Bool :=
  let g := fld w 27 25
  ((s.core c).group g).isOpen && (List.range ((tileU (fld w 22 20) + 7) / 8)).all (fun i =>
    fld w 7 0 + i < 256 && (s.core c).owner (fld w 7 0 + i) == g + 1)

/-- ACC adds the terms of one coupling tile and a state window into the group's target entries (R94 to R102, R106,
R110, R111). -/
def execAcc (c : CoreId) (w : U32) (s : State) : Out :=
  let g := fld w 27 25
  let fmt := fld w 24 23
  let shape := fld w 22 20
  let kind := fld w 19 18
  let p := fld w 17 14
  let row := fld w 7 0
  let k := s.core c
  let scaled := bit (s.reg (Reg.corePtr c p)) 63
  let need := s.accNeed c w
  let len := windowBytes fmt shape kind
  fieldOp s c (s.accLegal c w) (s.accFree c w)
    (fun s => s.withFe c (fun s =>
      match s.tileRead c (k.ptrAt p) need with
      | (none, s') => s'
      | (some bs, s') =>
        let tile := if scaled then bs.drop 8 else bs
        (s'.accumulate c g fmt shape kind row scaled tile (bs.take 8)
          (slice k.live.stateReg (4 * fld w 12 8) len)).advance c p (bit w 13)))

/-- Whether an LDS is legal (R62, R89). -/
def State.ldsLegal (s : State) (c : CoreId) (w : U32) : Bool :=
  fld w 18 0 == 0 && tileOk ((s.core c).ptrAt (fld w 27 24)) (fld w 22 19 + 1)

/-- LDS loads granules into the state register, usable by ACC from t + 2 (R83, R87). -/
def execLds (c : CoreId) (w : U32) (s : State) : Out :=
  let p := fld w 27 24
  let count := fld w 22 19 + 1
  let k := s.core c
  slotOp s c (s.ldsLegal c w) (fun s => s.withFe c (fun s =>
    match s.tileRead c (k.ptrAt p) count with
    | (none, s') => s'
    | (some bs, s') => (s'.updCore c (fun k => { k with ldsDue := k.ldsDue ++ [⟨s.tickOf c + 2, bs⟩] })).advance c p
        (bit w 23)))

/-! ## CLOSE -/

/-- Bytes of an element of a CLOSE to tile memory (R116): 0 BF16, 1 FP32, 2 INT16, 3 INT8. -/
def elemBytes (memType : Nat) : Nat := if memType = 1 then 4 else if memType = 3 then 1 else 2

/-- Whether a CLOSE is legal (R62, R89, R118). -/
def State.closeLegal (s : State) (c : CoreId) (w : U32) : Bool :=
  let k := s.core c
  let x := k.group (fld w 27 25)
  fld w 8 0 == 0 && k.closes.all (fun d => d.at_ + 4 + ceilDiv d.entries.length 64 ≤ s.tickOf c + 4)
    && !(bit w 20 && x.isOpen && !tileOk (k.ptrAt (fld w 19 16)) (8 * x.rows * elemBytes (fld w 14 13) / 8))

/-- CLOSE passes a group to the output stage; its batches follow from t + 4 (R100, R104, R115, R118). -/
def execClose (c : CoreId) (w : U32) (s : State) : Out :=
  let g := fld w 27 25
  let p := fld w 19 16
  let toMem := bit w 20
  let k := s.core c
  let x := k.group g
  let t := s.tickOf c
  let n := 8 * x.rows
  let batches := ceilDiv n 64
  let prof := s.reg (Reg.coreOutprof c (fld w 24 23))
  fieldOp s c (s.closeLegal c w) (x.settled t)
    (fun s =>
      let due : CloseDue :=
        { at_ := t, group := g, isFloat := x.isFloat, point := x.point, range := x.range
          entries := (List.range n).map (fun i => s.entry c (8 * x.firstRow + i))
          scale := BitVec.ofNat 32 (fld prof 31 0), offset := BitVec.ofNat 32 (fld prof 63 32)
          id := k.idAt (fld w 11 9), toMem := toMem, memType := fld w 14 13, stoch := bit w 12
          table := fld w 22 21, addr := (k.ptrAt p).toNat }
      (s.updCore c (fun k => { k with closes := k.closes ++ [due]
                                      releases := k.releases ++ [(t + 4 + batches - 1, g)] })).advance c p
        (toMem && bit w 15))

/-- The noise term ν of an entry (R115, R147): σ_k × n, zero to tile memory, at noise index 0, or without a field. -/
def State.noiseOf (s : State) (n : Nat) (d : CloseDue) (first e : Nat) : FVal :=
  let zero : FVal := .fin false 0 0
  if d.toMem then zero
  else
    match s.partOfCore n with
    | none => zero
    | some q =>
      let p := s.part q
      if p.ctl.inUse = 0 then zero
      else
        match p.binding with
        | none => zero
        | some b =>
          match b.control with
          | none => zero
          | some ctl =>
            match s.entryField n d.id first e with
            | none => zero
            | some r => fmulExact (decodeF fp32 (leAt ctl (0x40 + 4 * p.ctl.inUse) 4)) (Normal.quantile 16 r)

/-- The argument a of an entry (steps 2 to 4 of R115). -/
def State.argument (s : State) (n : Nat) (d : CloseDue) (first e : Nat) : FVal :=
  let m := fmul fp32 (f32 d.scale) (f32 d.id.beta)
  let h := fieldValue d.isFloat d.point (d.entries.getD e 0)
  saturateF fp32 (sumOnce fp32 [fmulExact m h, f32 d.offset, s.noiseOf n d first e])

/-- FP32 bits narrowed to BF16 (R117): nearest, ties to even, or by adding a random 16-bit integer to the cut-off part
and truncating; a result past the largest finite value is that value. -/
def narrowBf16 (b : Nat) (r : Option Nat) : Nat :=
  let mag := b % 2 ^ 31
  let m := match r with
    | some f => (mag + f) / 65536
    | none => rneDiv mag 65536
  b / 2 ^ 31 * 32768 + min m 0x7F7F

/-- A 16-bit table value narrowed to 8 bits (R117). -/
def narrowInt8 (t : Nat) (r : Option Nat) : Nat :=
  min 0xFF (match r with
    | some f => (t + f % 256) / 256
    | none => rneDiv t 256)

/-- The bytes an entry writes to tile memory (R116). -/
def State.closeBytes (s : State) (n : Nat) (d : CloseDue) (first e : Nat) : List Byte :=
  let a := s.argument n d first e
  let r := if d.stoch then s.entryField n d.id first e else none
  if d.memType = 0 then leBytes 2 (narrowBf16 (b32 a).toNat r)
  else if d.memType = 1 then leBytes 4 (b32 a).toNat
  else if d.memType = 2 then leBytes 2 (s.transfer n d.table a)
  else leBytes 1 (narrowInt8 (s.transfer n d.table a) r)

/-- The highest replay level of a CLOSE; none when it overflows (R112, R113). -/
def CloseDue.level (d : CloseDue) : Option Nat :=
  if d.range then none
  else d.entries.foldl (fun a v => match a, entryLevel d.isFloat v with
    | some x, some y => some (max x y)
    | _, _ => none) (some 0)

/-- PRT_ACCSTAT counts a CLOSE by its highest replay level (R114). -/
def State.countReplay (s : State) (n l : Nat) : State :=
  match s.partOfCore n with
  | some q => if l = 1 then s.count (Reg.prtAccstat q) 23 0 1
              else if l = 2 then s.count (Reg.prtAccstat q) 47 24 1 else s
  | none => s

/-- A batch to the lanes replaces the argument register and sets its cursor to 0 (R116, R129). -/
def State.batchToLanes (s : State) (n : Nat) (d : CloseDue) : State :=
  let first := 64 * d.done
  let args := (List.range (min 64 (d.entries.length - first))).map (fun i => b32 (s.argument n d first (first + i)))
  s.setLive n (fun l => { l with args := args ++ List.replicate (64 - args.length) 0, argCursor := 0 })

/-- A batch to tile memory goes through the field-engine port; it is readable one tick later (R116). -/
def State.batchToMem (s : State) (n : Nat) (d : CloseDue) : State :=
  let first := 64 * d.done
  let count := min 64 (d.entries.length - first)
  s.withFe n (fun s =>
    let go (s : State) : State := s.updCore n (fun k => { k with
      eventWrites := k.eventWrites ++ [(tileAt n d.addr + first * elemBytes d.memType,
        (List.range count).flatMap (fun i => s.closeBytes n d first (first + i)))] })
    if 2 ≤ d.memType then
      s.tableRead n d.table ((List.range count).map (fun i => tablePos (s.argument n d first (first + i)))) go
    else go s)

/-- CLOSE_BATCH: the batch due at this tick (R116). Before batch 0 an overflow stops the core (R113), and no batch of
that CLOSE is delivered. -/
def execCloseBatch (c : CoreId) (s : State) : Out :=
  match (s.core c).closes.find? (fun d => d.at_ + 4 + d.done ≤ s.tickOf c) with
  | none => .next s
  | some d =>
    let rest := (s.core c).closes.erase d
    match d.level with
    | none => .next ((s.updCore c (fun k => { k with closes := rest })).stopWith c 0x21)
    | some l =>
      let s := if d.done = 0 then s.countReplay c l else s
      let s := s.updCore c (fun k => { k with
        closes := if 64 * (d.done + 1) < d.entries.length then { d with done := d.done + 1 } :: rest else rest })
      .next (if d.toMem then s.batchToMem c d else s.batchToLanes c d)

/-! ## RED -/

/-- The value of an entry as one float contribution (R121). -/
def asContribution (isFloat : Bool) (v acc : BitVec 72) : BitVec 72 :=
  if isFloat then addFloat (floatValue v) acc else acc + v

/-- Whether n entries are no more than an open group's (R119). -/
def Group.holds (x : Group) (n : Nat) : Bool := !(x.isOpen && 8 * x.rows < n)

/-- Whether a RED of form 0 is legal (R89, R99, R119). -/
def State.red0Legal (s : State) (c : CoreId) (w : U32) : Bool :=
  fld w 7 0 == 0 && (s.core c).engineFree ≤ s.tickOf c && ((s.core c).group (fld w 27 25)).holds (fld w 15 8 + 1)

/-- Whether a RED of form 1 is legal (R89, R119, R120). -/
def State.red1Legal (s : State) (c : CoreId) (w : U32) : Bool :=
  fld w 7 0 == 0 && (s.core c).treeUntil ≤ s.tickOf c && (s.core c).outbox.isEmpty &&
    ((s.core c).group (fld w 27 25)).holds (fld w 15 8 + 1)

/-- Whether a RED of form 2 or 3, which reads some granules, is legal (R62, R89, R99, R119). -/
def State.redReadLegal (s : State) (c : CoreId) (w : U32) (count : Nat) : Bool :=
  fld w 7 0 == 0 && (s.core c).engineFree ≤ s.tickOf c && tileOk ((s.core c).ptrAt (fld w 20 17)) count &&
    !(s.core c).fePort && ((s.core c).group (fld w 27 25)).holds (fld w 15 8 + 1)

/-- RED form 0 adds the first n entries into entry 0 and clears the others (R119, R121). -/
def execRedLocalExact (c : CoreId) (w : U32) (s : State) : Out :=
  let g := fld w 27 25
  let n := fld w 15 8 + 1
  let k := s.core c
  let x := k.group g
  let t := s.tickOf c
  let m := ceilDiv n 8
  fieldOp s c (s.red0Legal c w) (x.settled t)
    (fun s =>
      let e0 := 8 * x.firstRow
      let total := (List.range (n - 1)).foldl (fun a i => asContribution x.isFloat (s.entry c (e0 + 1 + i)) a)
        (s.entry c e0)
      let s := s.updCore c (fun k => { k.setGroup g { x with readyAt := max x.readyAt (t + 3 + m) } with
        engineFree := t + m })
      s.mapEntries c e0 ((fun _ => total) :: List.replicate (n - 1) (fun _ => 0)))

/-- The words of a tree send: four records each, zero bytes after the last (R119). -/
def treeWords (recs : List (List Byte)) : List LinkWord :=
  (chunks 4 recs).map (fun l => ⟨padTo 64 l.flatten, 64, none⟩)

/-- RED form 1 sends n records on a link, four per word, and releases the group (R119, R120). -/
def execRedTreeSend (c : CoreId) (w : U32) (s : State) : Out :=
  let g := fld w 27 25
  let n := fld w 15 8 + 1
  let d := Dir.ofCode (fld w 22 21)
  let k := s.core c
  let x := k.group g
  let t := s.tickOf c
  fieldOp s c (s.red1Legal c w) (x.settled t)
    (fun s =>
      let ws := treeWords ((List.range n).map (fun i => toRecord x.isFloat (s.entry c (8 * x.firstRow + i))))
      s.updCore c (fun k => { k with
        outbox := k.outbox ++ (ws.take 1).map (fun x => (d, x))
        trees := k.trees ++ (ws.drop 1).zipIdx.map (fun e => ⟨t + 1 + e.2, d, e.1⟩)
        treeUntil := t + ceilDiv n 4
        releases := k.releases ++ [(t + ceilDiv n 4 - 1, g)] }))

/-- One tick of a tree add: up to eight records from tile memory into entries (R119, R121). -/
def State.addTick (s : State) (n : Nat) (d : AddDue) : State :=
  s.withFe n (fun s =>
    match s.tileRead n d.tile (2 * d.count) with
    | (none, s') => s'
    | (some bs, s') =>
      let x := (s'.core n).group d.group
      s'.mapEntries n (8 * x.firstRow + d.entry) ((List.range d.count).map (fun i =>
        asContribution x.isFloat (ofRecord (slice bs (16 * i) 16)))))

/-- RED form 2 reads n records from tile memory, eight a tick, and adds them into the group's entries (R119). -/
def execRedTreeAdd (c : CoreId) (w : U32) (s : State) : Out :=
  let g := fld w 27 25
  let n := fld w 15 8 + 1
  let p := fld w 20 17
  let k := s.core c
  let x := k.group g
  let t := s.tickOf c
  let m := ceilDiv n 8
  fieldOp s c (s.redReadLegal c w (2 * n)) (x.settled t)
    (fun s =>
      let dues := (List.range m).map (fun i =>
        (⟨t + i, g, (k.ptrAt p).toNat + 16 * i, 8 * i, min 8 (n - 8 * i)⟩ : AddDue))
      let s := s.updCore c (fun k => { k.setGroup g { x with readyAt := max x.readyAt (t + 3 + m) } with
        engineFree := t + m, adds := k.adds ++ dues.drop 1 })
      let s := s.advance c p (bit w 16)
      match dues with
      | d :: _ => s.addTick c d
      | [] => s)

/-- The value of an entry as FP64, rounded once (R122). -/
def entryF64 (isFloat : Bool) (point : Nat) (v : BitVec 72) : FVal :=
  if isFloat then sumOnce fp64 [(floatParts v).1, (floatParts v).2]
  else roundF fp64 (.fin (v.toInt < 0) v.toInt.natAbs (-(point : Int)))

/-- RED form 3 adds the entries in order into an FP64 running-state record and writes the record back at t + n + 1
(R119, R122). -/
def execRedCanon (c : CoreId) (w : U32) (s : State) : Out :=
  let g := fld w 27 25
  let n := fld w 15 8 + 1
  let p := fld w 20 17
  let k := s.core c
  let x := k.group g
  let t := s.tickOf c
  fieldOp s c (s.redReadLegal c w 2) (x.settled t)
    (fun s => s.withFe c (fun s =>
      match s.tileRead c (k.ptrAt p) 2 with
      | (none, s') => s'
      | (some bs, s') =>
        let r := (List.range n).foldl (fun a i =>
            neumaier fp64 a.1 a.2 (entryF64 x.isFloat x.point (s.entry c (8 * x.firstRow + i))))
          (decodeF fp64 (leAt bs 0 8), decodeF fp64 (leAt bs 8 8))
        (s'.updCore c (fun k => { k with
          engineFree := t + n
          canon := k.canon ++ [⟨t + n + 1, (k.ptrAt p).toNat, leBytes 8 (encodeF fp64 r.1) ++ leBytes 8 (encodeF fp64 r.2)⟩]
          releases := k.releases ++ [(t + n - 1, g)] })).advance c p (bit w 16)))

/-- The CANON record written back through the field-engine port (R119). -/
def State.canonTick (s : State) (n : Nat) (d : CanonDue) : State :=
  s.withFe n (fun s => s.updCore n (fun k => { k with eventWrites := k.eventWrites ++ [(tileAt n d.tile, d.rec_)] }))

end Sys2Proof.Machine
end

