-- ==== Sys2Proof/Machine/Lanes.lean ====
section
/-! DEFINITION. The lane slot: draws, the old-state register and PUT, and the entry of draw results (R84 to R86,
R126 to R137). -/

namespace Sys2Proof.Machine

/-- Active lanes of a core (R128): CORE_LANECFG.ACTIVE 0, 1, 2 for 16, 32, 64. -/
def State.activeLanes (s : State) (n : Nat) : Nat := 16 * 2 ^ min 2 (s.rf (Reg.coreLanecfg n) 1 0)

/-- The smallest power of two at least n (R127). -/
def slotWidth (n : Nat) : Nat := if n ≤ 1 then 1 else 2 ^ (Nat.log2 (n - 1) + 1)

/-- What a draw fixes at its issue (R85): its core, stream, identity, phase, Q, sweep, active lanes and slot layout. -/
structure DrawCtx where
  n      : Nat
  stream : Nat
  id     : IdReg
  phase  : Nat
  q      : Nat
  sweep  : Nat
  lanes  : Nat
  slots  : Nat
  width  : Nat
  table  : Nat
  chunk  : Nat := 0

/-- The context of a draw with N slots. -/
def State.drawCtx (s : State) (n : Nat) (w : U32) (slots : Nat) : DrawCtx :=
  let k := s.core n
  { n := n, stream := fld w 25 24, id := k.idAt (fld w 10 8), phase := k.live.phase, q := k.live.q,
    sweep := s.sweepOf n, lanes := s.activeLanes n, slots := slots, width := slotWidth slots, table := fld w 27 26 }

/-- The unit and slot that a lane serves (R128); none for an idle lane. -/
def DrawCtx.place (d : DrawCtx) (lane : Nat) : Option (Nat × Nat) :=
  if d.width ≤ d.lanes then
    if lane % d.width < d.slots then some (lane / d.width, lane % d.width) else none
  else if d.chunk * d.lanes + lane < d.slots then some (0, d.chunk * d.lanes + lane) else none

/-- The global id of unit u of a draw (R128). A sum beyond 40 bits wraps modulo 2^40 (DESIGN CHOICE, log 104). -/
def DrawCtx.unitId (d : DrawCtx) (u : Nat) : Nat := (d.id.unit.toNat + u) % 2 ^ 40

/-- The block of the indexed generator for a unit and slot (R144). -/
def DrawCtx.block (d : DrawCtx) (u slot : Nat) : BlockAddr :=
  let f := fieldPlace d.width (d.unitId u) slot
  ⟨f.2.1, f.1, 0, d.stream, d.phase, d.sweep, d.id.chain.toNat⟩

/-- The first lane of the tick that a lane draws in (R86): deterministic draws use 32 lanes a tick. -/
def tickLane (lane : Nat) : Nat := lane / 32 * 32

/-- The field of a lane (R138, R144, R146): in deterministic mode every lane of a tick reads the block of the tick's
first lane in use. -/
def State.laneField (s : State) (d : DrawCtx) (lane : Nat) : Nat :=
  if s.det then
    match d.place lane with
    | none => 0
    | some (u, slot) =>
      let first := (List.range 32).findSome? (fun i => d.place (tickLane lane + i))
      let b := match first with
        | some (u0, slot0) => d.block u0 slot0
        | none => d.block u slot
      blockField (s.seedOf d.n) b (fieldPlace d.width (d.unitId u) slot).2.2
  else fld (s.laneOut d.n lane) 15 0

/-- The argument that a lane reads (R129). -/
def State.laneArg (s : State) (d : DrawCtx) (lane : Nat) : FVal :=
  let l := (s.core d.n).live
  f32 (wordAt l.args ((l.argCursor + lane) % 64))

/-- The lane that serves slot s of unit u (R128). -/
def DrawCtx.lane (d : DrawCtx) (u slot : Nat) : Nat :=
  if d.width ≤ d.lanes then u * d.width + slot else slot - d.chunk * d.lanes

/-- Whether a damped draw keeps the old state (R136). -/
def State.keepsOld (s : State) (d : DrawCtx) (damp : Bool) (u : Nat) : Bool :=
  damp && d.q != 0 && d.q ≤ s.laneField d (d.lane u (d.slots - 1))

/-- The bits of a number, least significant first. -/
def bitsOf (n v : Nat) : List Bool := (List.range n).map (fun i => v.testBit i)

/-- Bits of a byte string from a bit position. -/
def bitSlice (bs : List Byte) (pos n : Nat) : List Bool :=
  (List.range n).map (fun i => (bs.getD ((pos + i) / 8) 0).getLsbD ((pos + i) % 8))

/-- Whether a draw runs as a split draw (R86). -/
def State.splits (s : State) (n : Nat) : Bool := s.det && s.activeLanes n == 64

/-- A draw fixes the places of its results, which enter at t + 2, and those of lanes 32 to 63 of a split draw at t + 3
(R85 to R87); it moves both cursors and the identity register, whose advance gives way to a reload by the same word (R70).
`units` are the units counted by identity advance 1. The byte that a split chunked draw appends enters at t + 3, also
when only lanes 0 to 31 serve slots of its last chunk (DESIGN CHOICE, log 32). -/
def State.issueDraw (s : State) (d : DrawCtx) (w : U32) (bitsPerUnit units : Nat) (results : List (List Bool)) :
    State :=
  let t := s.tickOf d.n
  let split := s.splits d.n
  let half := 32 / d.width
  let pos := 8 * (s.core d.n).live.outCursor
  let low := if split then results.take half else results
  let high := if split then results.drop half else []
  let dues := (if low.isEmpty then [] else [(⟨t + 2, pos, low.flatten⟩ : DrawDue)]) ++
    (if high.isEmpty then [] else [(⟨t + 3, pos + bitsPerUnit * low.length, high.flatten⟩ : DrawDue)])
  s.updCore d.n (fun k => { k with
    newDraws := k.newDraws ++ dues
    newSplit := if split then some (t + 1) else none
    next := { k.next with
      outCursor := k.next.outCursor + ceilDiv (bitsPerUnit * results.length) 8
      argCursor := (k.next.argCursor + d.lanes) % 64
      ids := if k.reload then k.next.ids else
        Table.upd (fun _ => ({} : IdReg)) k.next.ids (fld w 10 8) (fun r =>
          if fld w 7 6 = 1 then { r with unit := r.unit + BitVec.ofNat 40 units }
          else if fld w 7 6 = 2 then { r with chain := r.chain + 1 } else r) } })

/-- Whether a lane operation may issue: its reserved bits are zero, and it is not the word after a split draw (R84, R86). -/
def State.laneFree (s : State) (n : Nat) (w : U32) : Bool := fld w 4 0 == 0 && (s.core n).splitAt != some (s.tickOf n)

/-- Whether a draw that appends some bytes is legal: its identity advance is none that R84 calls illegal, and its place does
not carry the cursor past 128 B (R85). -/
def State.drawLegal (s : State) (n : Nat) (w : U32) (bytes : Nat) : Bool :=
  s.laneFree n w && (fld w 7 6 != 3 && (s.core n).live.outCursor + bytes ≤ 128)

/-- Slots of a DRAWB or DRAWR, which need some and one more when damped (R127). -/
def drawSlots (w : U32) (base : Nat) : Nat := if bit w 5 then base + 1 else base

/-- Units of a draw that is not chunked (R128). -/
def DrawCtx.units (d : DrawCtx) : Nat := d.lanes / d.width

/-- Whether a DRAWB is legal. -/
def State.drawbLegal (s : State) (c : CoreId) (w : U32) : Bool :=
  s.drawLegal c w ((s.drawCtx c w (drawSlots w 1)).units / 8)

/-- DRAWB: the upper value when the decision field falls below T(a) (R131, R136). -/
def execDrawb (c : CoreId) (w : U32) (s : State) : Out :=
  let damp := bit w 5
  let d := s.drawCtx c w (drawSlots w 1)
  let units := d.units
  slotOp s c (s.drawbLegal c w) (fun s =>
    let lanes := (List.range units).map (fun u => d.lane u 0)
    s.tableRead c d.table (lanes.map (fun j => tablePos (s.laneArg d j))) (fun s =>
      let pos := 8 * (s.core c).live.outCursor
      s.issueDraw d w 1 units ((List.range units).map (fun u =>
        if s.keepsOld d damp u then bitSlice (s.core c).live.oldReg (pos + u) 1
        else [below (s.laneField d (d.lane u 0)) (s.transfer c d.table (s.laneArg d (d.lane u 0)))]))))

/-- The score of a state: its argument and its Gumbel variate, rounded once to FP32 (R132). -/
def State.score (s : State) (d : DrawCtx) (lane : Nat) : FVal :=
  fadd fp32 (s.laneArg d lane) (s.gumbel d.n d.table (s.laneField d lane))

/-- The best of some states by score, the lowest index among equals, starting from a running best that only a strictly
larger score replaces (R132, R134). A NaN score, which only a context image can bring in, compares with no other: it neither
replaces a best nor is replaced (DESIGN CHOICE, log 105). -/
def bestState (start : Option (FVal × Nat)) (l : List (FVal × Nat)) : Option (FVal × Nat) :=
  l.foldl (fun b x => match b with
    | none => some x
    | some y => if fltB y.1 x.1 then some x else some y) start

/-- A chunk of a categorical draw wider than the lanes (R134). -/
def State.drawChunk (s : State) (n : Nat) (w : U32) : State :=
  let cat := (s.core n).live.cat
  let k := if cat.chunk = 0 then fld w 23 16 + 1 else cat.k
  let damp := if cat.chunk = 0 then bit w 5 else cat.damp
  let d := { s.drawCtx n w (if damp then k + 1 else k) with chunk := cat.chunk }
  let slots := (List.range d.lanes).filterMap (fun j =>
    let slot := cat.chunk * d.lanes + j
    if slot < k then some (j, slot) else none)
  s.tableRead n d.table (slots.map (fun e => s.laneField d e.1)) (fun s =>
    let start := if cat.chunk = 0 then none else some (f32 cat.best, cat.state)
    let best := (bestState start (slots.map (fun e => (s.score d e.1, e.2)))).getD (f32 cat.best, cat.state)
    let final := d.slots ≤ (cat.chunk + 1) * d.lanes
    let pos := 8 * (s.core n).live.outCursor
    let s' := s.issueDraw d w 8 (if final then 1 else 0)
      (if final then [if s.keepsOld d damp 0 then bitSlice (s.core n).live.oldReg pos 8 else bitsOf 8 best.2] else [])
    s'.updCore n (fun x => { x with next := { x.next with
      cat := if final then { best := b32 best.1, state := best.2, k := k, damp := damp, chunk := 0 }
             else { best := b32 best.1, state := best.2, k := k, damp := damp, chunk := cat.chunk + 1 } } }))

/-- The states of a whole categorical draw (R132, R133, R136). -/
def State.drawWhole (s : State) (n : Nat) (w : U32) (k : Nat) (damp : Bool) : State :=
  let d := s.drawCtx n w (if damp then k + 1 else k)
  let units := d.lanes / d.width
  let fields := (List.range units).flatMap (fun u => (List.range k).map (fun i => s.laneField d (d.lane u i)))
  s.tableRead n d.table fields (fun s =>
    let pos := 8 * (s.core n).live.outCursor
    s.issueDraw d w 8 units ((List.range units).map (fun u =>
      if s.keepsOld d damp u then bitSlice (s.core n).live.oldReg (pos + 8 * u) 8
      else
        match bestState none ((List.range k).map (fun i => (s.score d (d.lane u i), i))) with
        | some b => bitsOf 8 b.2
        | none => bitsOf 8 0)))

/-- Whether a DRAWC is a chunk: its own encoding needs more slots than the active lanes (R128, R134). -/
def State.chunked (s : State) (n : Nat) (w : U32) : Bool :=
  s.activeLanes n < slotWidth (if bit w 5 then fld w 23 16 + 2 else fld w 23 16 + 1)

/-- The bytes a DRAWC appends. -/
def State.drawcBytes (s : State) (n : Nat) (w : U32) : Nat :=
  if s.chunked n w then
    let cat := (s.core n).live.cat
    let slots := if cat.chunk = 0 then (if bit w 5 then fld w 23 16 + 2 else fld w 23 16 + 1)
                 else (if cat.damp then cat.k + 1 else cat.k)
    if slots ≤ (cat.chunk + 1) * s.activeLanes n then 1 else 0
  else s.activeLanes n / slotWidth (if bit w 5 then fld w 23 16 + 2 else fld w 23 16 + 1)

/-- Whether a DRAWC is legal; K runs from 2 to 256 (R84, log 34). -/
def State.drawcLegal (s : State) (c : CoreId) (w : U32) : Bool := s.drawLegal c w (s.drawcBytes c w) && fld w 23 16 != 0

/-- DRAWC draws categorical states by the Gumbel-max rule; a wide unit goes in chunks through the categorical carry
(R132 to R134). -/
def execDrawc (c : CoreId) (w : U32) (s : State) : Out :=
  slotOp s c (s.drawcLegal c w) (fun s =>
    if s.chunked c w then s.drawChunk c w else s.drawWhole c w (fld w 23 16 + 1) (bit w 5))

/-- The result of a real unit (R135, R137): μ + d × z, saturated; the bits in FP32 or BF16. -/
def State.realResult (s : State) (d : DrawCtx) (single : Bool) (u : Nat) : List Bool :=
  let mu := s.laneArg d (d.lane u 0)
  let dev := divSqrt32 (s.laneArg d (d.lane u 1)) (f32 d.id.beta)
  let word := s.laneField d (d.lane u 0) + s.laneField d (d.lane u 1) * 65536
  let x := clampF fp32 (sumOnce fp32 [mu, fmulExact dev (Normal.quantile 32 word)])
  if single then bitsOf 32 (encodeF fp32 x) else bitsOf 16 (encodeF bf16 (clampF bf16 (roundF bf16 x)))

/-- Bytes of a real unit's result (R85). -/
def realBytes (w : U32) : Nat := if bit w 16 then 4 else 2

/-- Whether a DRAWR is legal. -/
def State.drawrLegal (s : State) (c : CoreId) (w : U32) : Bool :=
  s.drawLegal c w ((s.drawCtx c w (drawSlots w 2)).units * realBytes w)

/-- DRAWR draws real unit values (R135 to R137). -/
def execDrawr (c : CoreId) (w : U32) (s : State) : Out :=
  let damp := bit w 5
  let single := bit w 16
  let d := s.drawCtx c w (drawSlots w 2)
  let units := d.units
  let size := 8 * realBytes w
  slotOp s c (s.drawrLegal c w) (fun s =>
    let pos := 8 * (s.core c).live.outCursor
    s.issueDraw d w size units ((List.range units).map (fun u =>
      if s.keepsOld d damp u then bitSlice (s.core c).live.oldReg (pos + size * u) size
      else s.realResult d single u)))

/-- Whether an LDO or PUT is legal (R62, R84, R89). -/
def State.moveLegal (s : State) (c : CoreId) (w : U32) : Bool :=
  s.laneFree c w && tileOk ((s.core c).ptrAt (fld w 15 12)) (fld w 19 16 + 1)

/-- LDO fills the lane old-state register from tile memory, usable by draws from t + 2 (R85, R87). -/
def execLdo (c : CoreId) (w : U32) (s : State) : Out :=
  let p := fld w 15 12
  let count := fld w 19 16 + 1
  slotOp s c (s.moveLegal c w) (fun s => s.withFe c (fun s =>
    match s.tileRead c ((s.core c).ptrAt p) count with
    | (none, s') => s'
    | (some bs, s') => (s'.updCore c (fun k => { k with newLdo := k.newLdo ++ [⟨s.tickOf c + 2, bs⟩] })).advance c p
        (bit w 11)))

/-- PUT writes the first granules of the lane output register to tile memory, clears the register and sets its cursor
to 0 (R85). -/
def execPut (c : CoreId) (w : U32) (s : State) : Out :=
  let p := fld w 15 12
  let count := fld w 19 16 + 1
  let g := (s.core c).ptrAt p
  slotOp s c (s.moveLegal c w) (fun s => s.withFe c (fun s =>
    (s.updCore c (fun k => { k with
      feWrites := k.feWrites ++ [(tileAt c g.toNat, k.live.outReg.take (8 * count))]
      next := { k.next with outReg := zeros 128, outCursor := 0 } })).advance c p (bit w 11)))

/-- A byte string with bits laid over it from a bit position. -/
def overlayBits (bs : List Byte) (pos : Nat) (l : List Bool) : List Byte :=
  (bs.zipIdx).map (fun e => BitVec.ofNat 8 (bitsFrom ((List.range 8).filter (fun j =>
    let at_ := 8 * e.2 + j
    if pos ≤ at_ && at_ < pos + l.length then l.getD (at_ - pos) false else e.1.getLsbD j))))

/-- DRAW_RESULT_ENTER: the results due at this tick enter the lane output register at their places (R85). -/
def execDrawResultEnter (c : CoreId) (s : State) : Out :=
  match (s.core c).draws.find? (fun d => d.at_ ≤ s.tickOf c) with
  | none => .next s
  | some d =>
    .next ((s.updCore c (fun k => { k with draws := k.draws.erase d })).setLive c
      (fun l => { l with outReg := overlayBits l.outReg d.bitPos d.bits }))

end Sys2Proof.Machine
end

