-- ==== Sys2Proof/Machine/Tick.lean ====
section
/-! DEFINITION. A core's tick around its slots: what falls due at the start of a tick, the commands a tick calls for,
and what takes effect at its end (R63, R67, R87, R104). -/

namespace Sys2Proof.Machine

/-- Writes of a core's ports carried out (R63). -/
def State.flushWrites (s : State) (n : Nat) (ws : List (Nat × List Byte)) : State :=
  ws.foldl (fun t w => t.wrSram n w.1 w.2) s

/-- The core with the groups released whose last read tick has ended (R104): a group that a later CLOSE or RED in flight
still reads stays until that one's tick. -/
def CoreState.releaseDue (c : CoreState) (t : Nat) : CoreState :=
  let later := c.releases.filter (fun r => t < r.1)
  (c.releases.filter (fun r => r.1 ≤ t && later.all (fun l => l.2 != r.2))).foldl (fun k r =>
    let x := k.group r.2
    (k.tagRows x.firstRow x.rows 0).setGroup r.2 {}) { c with releases := later }

/-- The live state at a tick's end: the next one, with a PSET standing over the tick's advances (R69). -/
def CoreState.settled (c : CoreState) : CoreLive :=
  match c.pset with
  | some (k, a) => { c.next with ptr := Table.put (fun _ => 0) c.next.ptr k a }
  | none => c.next

/-- The end of a core's tick t: writes land, words leave, an arrival is made, and the next state takes its place. -/
def State.endTick (s : State) (n t : Nat) : State :=
  let c := s.core n
  let s := ((s.flushWrites n c.eventWrites).flushWrites n c.feWrites).flushWrites n c.linkWrites
  let s := match c.arrival with
    | some (sweepEnd, hall) => s.arrive n sweepEnd hall
    | none => s
  let s := c.outbox.foldl (fun u e => u.sendWord n e.1 e.2) s
  s.updCore n (fun k => ({ k with
    live := k.settled, next := k.settled, mode := k.nextMode.getD k.mode, nextMode := none
    draws := k.draws ++ k.newDraws, ldoDue := k.ldoDue ++ k.newLdo, pages := k.pages ++ k.newPages
    splitAt := k.newSplit, newDraws := [], newLdo := [], newPages := [], newSplit := none
    fePort := false, linkPort := false, eventWrites := [], feWrites := [], linkWrites := [], outbox := []
    pset := none, reload := false, arrival := none } : CoreState).releaseDue t)

/-- What falls due at the start of a core's tick t without a command of its own: the end of a WAIT, LDS and LDO
contents, further ticks of a PAGE and of a tree add, a CANON write-back, further words of a tree send. -/
def State.beginTick (s : State) (n t : Nat) : State :=
  let c := s.core n
  let s := s.updCore n (fun k => { k with
    mode := if k.mode = .waiting && k.waitUntil ≤ t then .running else k.mode
    ldsDue := k.ldsDue.filter (fun d => t < d.at_), ldoDue := k.ldoDue.filter (fun d => t < d.at_)
    pages := k.pages.filter (fun d => t < d.at_), adds := k.adds.filter (fun d => t < d.at_)
    canon := k.canon.filter (fun d => t < d.at_), trees := k.trees.filter (fun d => t < d.at_)
    wordPc := if k.mode = .running then k.live.pc else k.wordPc })
  let s := s.setLive n (fun l => { l with
    stateReg := (c.ldsDue.filter (fun d => d.at_ ≤ t)).foldl (fun r d => overlay r 0 d.bytes) l.stateReg
    oldReg := (c.ldoDue.filter (fun d => d.at_ ≤ t)).foldl (fun r d => overlay r 0 d.bytes) l.oldReg })
  let s := (c.trees.filter (fun d => d.at_ ≤ t)).foldl (fun u d => u.sendWord n d.dir d.word) s
  let s := (c.pages.filter (fun d => d.at_ ≤ t)).foldl (fun u d => u.pageTick n d false) s
  let s := (c.canon.filter (fun d => d.at_ ≤ t)).foldl (fun u d => u.canonTick n d) s
  (c.adds.filter (fun d => d.at_ ≤ t)).foldl (fun u d => u.addTick n d) s

/-- The commands of a core's tick t that come before its word: words that land, batches and draw results due. -/
def State.tickEvents (s : State) (c : CoreId) (t : Nat) : List Instr :=
  let k := s.core c
  (k.arriving.filter (fun a => a.at_ ≤ t)).map (fun a =>
    Instr.linkWordLand c a.dir (if Config.linkGood s.clk.wall c a.dir.code then .good else .failed)) ++
  (k.draws.filter (fun d => d.at_ ≤ t)).map (fun _ => Instr.drawResultEnter c) ++
  (k.closes.filter (fun d => d.at_ + 4 + d.done ≤ t)).map (fun _ => Instr.closeBatch c)

/-! ## The check of a word as it issues (R89, R103) -/

/-- Whether a slot command is legal by the rules of its own slot; the ports are counted apart. -/
def State.slotLegal (s : State) : Instr → Bool
  | .nop _ _ w => w == 0
  | .loop c w => s.loopLegal c w
  | .bar _ w => fld w 25 0 == 0
  | .swend _ w => fld w 26 0 == 0
  | .phase _ w => fld w 1 0 == 0
  | .flag _ w => fld w 18 0 == 0
  | .page c w => s.pageLegal c w
  | .pset _ w => fld w 8 0 == 0
  | .leafHalt _ w => fld w 26 0 == 0
  | .send c w => s.sendLegal c w
  | .recv c w => s.recvLegal c w
  | .relay c w => s.relayLegal c w
  | .recvf c w => s.sendLegal c w
  | .accOpen _ w => s.openLegal w
  | .acc c w => s.accLegal c w
  | .lds c w => s.ldsLegal c w
  | .close c w => s.closeLegal c w
  | .redLocalExact c w => s.red0Legal c w
  | .redTreeSend c w => s.red1Legal c w
  | .redTreeAdd c w => s.redReadLegal c w (2 * (fld w 15 8 + 1))
  | .redCanon c w => s.redReadLegal c w 2
  | .drawb c w => s.drawbLegal c w
  | .drawc c w => s.drawcLegal c w
  | .drawr c w => s.drawrLegal c w
  | .ldo c w | .put c w => s.moveLegal c w
  | _ => true

/-- Whether a slot command meets no conflict (R102). -/
def State.slotFree (s : State) : Instr → Bool
  | .accOpen c w => s.openFree c w
  | .acc c w => s.accFree c w
  | .close c w | .redLocalExact c w | .redTreeSend c w | .redTreeAdd c w | .redCanon c w =>
    ((s.core c).group (fld w 27 25)).settled (s.tickOf c)
  | _ => true

/-- Whether a slot command claims the field-engine port in its tick (R88). -/
def usesFe : Instr → Bool
  | .acc .. | .lds .. | .redTreeAdd .. | .redCanon .. | .ldo .. | .put .. => true
  | _ => false

/-- Whether a slot command claims the link and sequencer port in its tick (R88). -/
def usesLink : Instr → Bool
  | .page .. | .send .. | .recv .. | .recvf .. => true
  | _ => false

/-- Whether a slot command claims the core's sending side in its tick (R120, R150). -/
def usesOut : Instr → Bool
  | .send .. | .relay .. | .recvf .. | .redTreeSend .. => true
  | _ => false

/-- The CLOSE whose batch is due at the present tick. -/
def State.batchDue (s : State) (n : Nat) : Option CloseDue :=
  (s.core n).closes.find? (fun d => d.at_ + 4 + d.done ≤ s.tickOf n)

/-- Whether a word is illegal (R89): a slot breaks a rule of its own, or a port or the sending side is claimed twice in
the tick (R88, R120), a batch of a CLOSE to tile memory counted among the claims. -/
def State.wordIllegal (s : State) (n : Nat) (slots : List Instr) : Bool :=
  let k := s.core n
  let batch := match s.batchDue n with
    | some d => d.toMem
    | none => false
  slots.any (fun i => !s.slotLegal i) || 1 < slots.countP usesOut ||
  1 < slots.countP usesFe + (if k.fePort then 1 else 0) + (if batch then 1 else 0) ||
  1 < slots.countP usesLink + (if k.linkPort then 1 else 0)

/-- The Leaf word a core issues, as its four slot commands (R67). A double-bit error in it stops the core (R64). The word is
checked as it issues: an illegal word stops the core under LEAF_ILLEGAL and a conflict under ACC_CONFLICT, and none of its
slots is carried out (R89, R103). A core whose CLOSE overflows at this tick issues no word (R113). -/
def State.issueWord (s : State) (c : CoreId) : State × List Instr :=
  let overflow := match s.batchDue c with
    | some d => d.level == none
    | none => false
  if s.issues c && !overflow then
    match s.coreRead c (leafAt c (s.core c).live.pc) 16 with
    | (none, s') => (s', [])
    | (some bs, s') =>
      let slots := decodeWord c (BitVec.ofNat 128 (leNat bs))
      if s'.wordIllegal c slots then (s'.illegal c, [])
      else if slots.all s'.slotFree then (s', slots)
      else (s'.conflict c, [])
  else (s, [])

end Sys2Proof.Machine
end

