-- ==== Sys2Proof/Machine/Resets.lean ====
section
/-! DEFINITION. Partitions created and removed, the resets of cores, quires, partitions and host ports (R93, R294, R320 to
R326). -/

namespace Sys2Proof.Machine

/-! ## Cores and quires -/

/-- A core after its reset (R93): its live state is clear, its set-up and its stores are kept, and arriving words are
absorbed until the next load or restore. -/
def CoreState.afterReset (c : CoreState) : CoreState :=
  { mode := if c.mode = .empty then .empty else .loaded, absorb := true, linkBad := c.linkBad, linkDown := c.linkDown,
    receipts := c.receipts, expect := c.expect, class_ := c.class_ }

/-- Whether a core's partition was reset in the present cycle: a reset of narrower scope merges into that one (R326,
log 127). -/
def State.coreMerges (s : State) (n : Nat) : Bool :=
  match s.partOfCore n with
  | some q => (s.part q).resetAt == some s.mc
  | none => false

/-- A core reset, at the end of the core's present tick, whose words leave (R93). The core's partition is marked faulted
and its STOP line driven. -/
def State.resetCore (s : State) (n : Nat) : State :=
  if s.coreMerges n then s
  else
    let t := (s.endTick n (s.tickOf n)).updCore n CoreState.afterReset
    match s.partOfCore n with
    | some q => t.updPart q (fun p => { p with faulted := true, stopLine := true })
    | none => t

/-- A quire reset: its cores as by core resets, and one STOP for the quire (R324). -/
def State.resetQuire (s : State) (x : Nat) : State := (quireCores x).foldl State.resetCore s

/-- CORE_RESET: a write of CORE_CTRL.RESET (R93). -/
def execCoreReset (who : Requester) (c : CoreId) (s : State) : Out :=
  .next (if s.writeReaches who (Reg.coreCtrl c) then s.resetCore c else s)

/-! ## Partitions -/

/-- The partition's regions freed in the region registers (R163). -/
def State.freeRegions (s : State) (q : Nat) : State :=
  (List.range 128).foldl (fun t i =>
    let v := t.reg (Reg.arrEbregion i)
    if bit v 31 && fld v 22 16 == q then t.setReg (Reg.arrEbregion i) 0 else t) s

/-- A core after a partition reset: its Leaf store is no longer valid and its links are trained again (R151, R324). -/
def CoreState.afterPartReset (c : CoreState) : CoreState :=
  { c.afterReset with mode := .empty, linkBad := [], linkDown := [], receipts := [], expect := none, class_ := 0 }

/-- The complete groups of a collect ring written out (R325). -/
def State.drainCollect (s : State) (q r : Nat) : State :=
  let x := (s.part q).ring r
  (List.range (x.used / 4096 - x.moved / 4096)).foldl (fun t _ =>
    match execCollectGroupWrite (Fin.ofNat 96 q) (Fin.ofNat 32 r) t with
    | .next u => u
    | _ => t) s

/-- The drain record that is being written, from host ring staging, is completed (R325). -/
def State.drainStaged (s : State) (q : Nat) : State :=
  match (s.part q).drain.staged with
  | some (r, _) => match execDrainRecordWrite (Fin.ofNat 96 q) (Fin.ofNat 32 r) s with
    | .next t => t
    | _ => s
  | none => s

/-- What a partition reset carries to its end (R325): the drain record being written, complete collect groups, and pool offers
in progress. -/
def State.drainPart (s : State) (q : Nat) : State :=
  let s := s.drainStaged q
  let s := s.updPart q (fun p => { p with rings := p.rings.map (fun e => (e.1, { e.2 with flush := 0 })) })
  let s := (List.range (s.part q).ringDescs.length).foldl (fun t r => t.drainCollect q r) s
  (List.range (s.part q).offers.length).foldl (fun t _ =>
    match (t.part q).offers.find? (fun o => o.staged && o.energy.isSome) with
    | some o => match execPoolOffer (Fin.ofNat 96 q) o.pool t with
      | .next u => u
      | _ => t
    | none => t) s

/-- A stream that a reset partition received: its frames are discarded from now on (R325). -/
def Stream.closed (x : Stream) : Stream := { x with part := none, kind := 1, stopped := true, ended := true }

/-- The remote streams of a partition end: unacknowledged frames are abandoned and each peer is told with reason 3
(R325). -/
def State.endStreams (s : State) (q : Nat) : State :=
  let mine := s.hall.streams.filter (fun x => match x.part with | some (p, _) => p == q | none => false)
  let left := s.hall.streams.filter (fun x => !mine.contains x)
  let s := { s with hall := { s.hall with streams := left ++ (mine.filter (fun x => !x.send)).map Stream.closed } }
  mine.foldl (fun t x =>
    (t.updConn x.peer (fun c => { c with
      queue := c.queue.filter (fun f => f.isCtrl || f.stream != x.id)
      unacked := c.unacked.filter (fun f => f.isCtrl || f.stream != x.id) })).abortTo x.peer x.id 3) s

/-- The comparators of a partition's scheduled start freed. -/
def State.freeStart (s : State) (q : Nat) : State :=
  (List.range 8).foldl (fun t k =>
    if t.cmpOwner k = 2 ∧ fld (t.reg (Reg.gtbCmp k + 8)) 15 8 = q then t.freeCmpAt k else t) s

/-- What a partition keeps of itself through a reset: its rectangle, the pointers of its host drain ring, and a run that
still owes a signature. -/
def Partition.afterReset (p : Partition) : Partition :=
  { run := .empty, qrows := p.qrows, qcols := p.qcols, job := p.job, resetAt := p.resetAt,
    drain := { hHead := p.drain.hHead, hTail := p.drain.hTail } }

/-- The running descriptors of a partition's rings complete FAULTED and move nothing more (R325); the one that resets the
partition, and a run that still owes its Colophon or signature, end by themselves. -/
def State.endDescs (s : State) (q : Nat) (keep : Option DescRef) : State :=
  let mine := (s.descs.filter (fun d => d.ref.ring.val == q && d.phase == .running && some d.ref != keep &&
    ((s.part q).job.map Job.desc) != some d.ref)).map Desc.ref
  let s := { s with hall := { s.hall with mtx := s.hall.mtx.filter (fun x => !mine.contains x.desc) } }
  mine.foldl (fun t d => t.complete d stFaulted 0 0) s

/-- A partition reset (R324, R325, R428), asked for by a descriptor or none: traffic is drained or absorbed, its descriptors
complete FAULTED and its HALTs DONE, its barrier group is disarmed, its regions are freed, and the partition is EMPTY with
FAULTED clear. It is complete within its command, well within 50 µs (log 127). -/
def State.resetPartFor (s : State) (q : Nat) (keep : Option DescRef) : State :=
  let s := s.drainPart q
  let p := s.part q
  let s := s.updPart q (fun p => { p with
    offers := [], tables := [], load := none, restore := none, resetAt := some s.mc
    job := p.job.map (fun j => { j with ended := some (j.ended.getD stFaulted) }) })
  let s := ((s.writeColophon q).haltsDone q).endDescs q keep
  let s := (s.endStreams q).freeStart q
  let s := match p.group with
    | some g => s.disarm g
    | none => s
  let s := (s.partCores q).foldl (fun t n => t.updCore n CoreState.afterPartReset) s
  ((s.freeRegions q).updPart q Partition.afterReset).settleJob q

/-- A partition reset that no descriptor asks for (R324). -/
def State.resetPart (s : State) (q : Nat) : State := s.resetPartFor q none

/-- PRT_STATUS.RESULT of a CREATE (R320): 4 size out of range, 2 outside the grid, 1 overlap, 3 a retired quire, else 0. -/
def State.createResult (s : State) (q rows cols : Nat) : Nat :=
  let quires := rectQuires q rows cols
  if rows = 0 ∨ 12 < rows ∨ cols = 0 ∨ 8 < cols then 4
  else if 12 < q / 8 + rows ∨ 8 < q % 8 + cols then 2
  else if quires.any (fun x => (s.partOfQuire x).isSome) then 1
  else if quires.any (fun x => x ∈ s.boot.retired) then 3
  else 0

/-- A partition created at q (R320, R321). -/
def State.createPart (s : State) (q rows cols : Nat) : State :=
  let r := s.createResult q rows cols
  let s := s.setRf (Reg.prtStatus q) 6 4 r
  if r = 0 then s.updPart q (fun p => { run := .empty, qrows := rows, qcols := cols,
                                         drain := { hHead := p.drain.hHead, hTail := p.drain.hTail } })
  else s

/-- A partition removed, when its STATE is EMPTY or LOADED (R322). -/
def State.dissolvePart (s : State) (q : Nat) : State :=
  let st := s.partStateCode q
  if st = 1 ∨ st = 2 then
    ((s.resetPart q).setRf (Reg.prtStatus q) 6 4 0).updPart q (fun p => { p with run := .none, qrows := 0, qcols := 0 })
  else s.setRf (Reg.prtStatus q) 6 4 5

/-- A write to PRT_CTRL[q] under the ownership conditions (R321): discarded and REJECTED set when they do not hold. -/
def State.ctrlWrite (s : State) (who : Requester) (q : Nat) (f : State → State) : State :=
  if s.writeReaches who (Reg.prtCtrl q) then
    if s.mayOwn who q then f s else s.raise (Reg.prtStatus q) 7 7 1
  else s

/-- The size fields stored. -/
def State.setSize (s : State) (q rows cols : Nat) : State :=
  (s.setRf (Reg.prtCtrl q) 3 0 rows).setRf (Reg.prtCtrl q) 7 4 cols

/-- CREATE: QROWS, QCOLS and CREATE written to PRT_CTRL[q] (R320, R321). -/
def execCreate (who : Requester) (q : QuireId) (qrows qcols : BitVec 4) (s : State) : Out :=
  .next (s.ctrlWrite who q (fun s => (s.setSize q qrows.toNat qcols.toNat).createPart q qrows.toNat qcols.toNat))

/-- DISSOLVE: DISSOLVE written to PRT_CTRL[q] (R322). -/
def execDissolve (who : Requester) (q : QuireId) (s : State) : Out :=
  .next (s.ctrlWrite who q (fun s => s.dissolvePart q))

/-- A requested partition reset acts on a partition that exists. -/
def State.resetIf (s : State) (q : Nat) : State := if (s.part q).exists_ then s.resetPart q else s

/-- PARTITION_RESET: RESET written to PRT_CTRL[q] (R324). -/
def execPartitionReset (who : Requester) (q : QuireId) (s : State) : Out :=
  .next (s.ctrlWrite who q (fun s => s.resetIf q))

/-! ## Host ports (R294) -/

/-- The descriptors of a port after its reset: those not started are gone, those started lose their completions. -/
def orphanDescs (p : Port) (l : List Desc) : List Desc :=
  (l.filter (fun d => d.ref.port != p || d.phase != .waiting)).map (fun d =>
    if d.ref.port = p then { d with orphan := true } else d)

/-- HOST_PORT_RESET: an FLR, PERST or link-down of a port (R294): its link is down, its rings are disabled, completions
owed are discarded and its semaphores are free (R317). Work already started runs on. -/
def State.resetPort (s : State) (p : Port) : State :=
  let s := s.setRf (Reg.hstPortstat p.num) 8 0 0
  let s := (List.range 97).foldl (fun t r =>
    ((t.setRf (Reg.hstSq p.num r) 5 5 0).setRf (Reg.hstCq p.num r) 5 5 0).updRing p r (fun x => { x with
      owed := [], irqs := 0, irqSince := none })) s
  let s := { s with descs := orphanDescs p s.descs }
  (List.range 64).foldl (fun t n => if (t.sem n).owner = p.num + 1 then t.loseLease n else t) s

/-- HOST_PORT_RESET (R294). -/
def execHostPortReset (p : Port) (s : State) : Out := .next (s.resetPort p)

end Sys2Proof.Machine
end

