-- ==== Sys2Proof/Machine/Faults.lean ====
section
/-! DEFINITION. The fault collector: accepting a message, its latch and its actions, and software's acknowledgements
(R360 to R367). -/

namespace Sys2Proof.Machine

/-! ## Interrupts (R365) -/

/-- A fault interrupt to a port: sent when the pending bit was clear, noted in the MORE bit otherwise. -/
def State.faultIrq (s : State) (p : Port) : State :=
  let k := p.num
  if s.rf Reg.fltPend k k = 1 then s.setRf Reg.fltPend (k + 2) (k + 2) 1
  else (s.setRf Reg.fltPend k k 1).interrupt p (s.rf (Reg.hstPortcfg k) 25 18)

/-- Software writes 1 to a pending bit: with MORE set, MORE clears and the vector is sent again. -/
def State.pendClear (s : State) (p : Port) : State :=
  let k := p.num
  if s.rf Reg.fltPend k k = 0 then s
  else if s.rf Reg.fltPend (k + 2) (k + 2) = 1 then
    (s.setRf Reg.fltPend (k + 2) (k + 2) 0).interrupt p (s.rf (Reg.hstPortcfg k) 25 18)
  else s.setRf Reg.fltPend k k 0

/-- FLT_PEND_CLEAR: ones written to FLT_PEND.A and FLT_PEND.B (R365). -/
def State.pendWrite (s : State) (bits : Nat) : State :=
  let s := if bits.testBit 0 then s.pendClear .a else s
  if bits.testBit 1 then s.pendClear .b else s

/-- FLT_PEND_CLEAR (R365). -/
def execFltPendClear (who : Requester) (bits : BitVec 2) (s : State) : Out :=
  .next (if s.writeReaches who Reg.fltPend then s.pendWrite bits.toNat else s)

/-! ## Holds -/

/-- A fault hold on a partition, with the Gatehouse cycle of it (R365, R366). -/
def State.faultHold (s : State) (q : Nat) : State :=
  if (s.part q).exists_ then s.updPart q (fun p => { p.freeze with faultHold := true, heldAt := some s.mc, resumeIn := none }) else s

/-- The release of a fault hold: the partition resumes by R166 once its rings also allow it. -/
def Partition.releaseHold (p : Partition) : Partition :=
  if p.faultHold then
    { p with
      faultHold := false
      resumeIn := if p.run = .running ∧ p.hold.isNone ∧ !p.stopped then some 40 else p.resumeIn
      freezeAt := if p.run = .running ∨ p.stopped then p.freezeAt else none
      froze := p.froze && (p.run == .running || p.stopped) }
  else p

/-- FLT_CTRL written with RELEASE, under the ownership conditions of R313 (R365). In the cycle of a new hold on the
partition it is discarded (R366). -/
def State.holdRelease (s : State) (who : Requester) (part : Nat) : State :=
  if part < 96 ∧ s.mayOwn who part ∧ (s.part part).heldAt ≠ some s.mc then s.updPart part Partition.releaseHold else s

/-- FAULT_HOLD_RELEASE (R365). -/
def execFaultHoldRelease (who : Requester) (part : BitVec 7) (s : State) : Out :=
  .next (if s.writeReaches who Reg.fltCtrl then s.holdRelease who part.toNat else s)

/-! ## Acceptance (R362) -/

/-- The latch: the first message since VALID was cleared, with class, tag and time; OVERFLOW for a later one. -/
def State.latch (s : State) (m : FaultMsg) (time : U64) : State :=
  if s.rf Reg.fltInfo 0 0 = 1 then s.setRf Reg.fltInfo 1 1 1
  else ((s.setReg Reg.fltFirst m.msg).setReg Reg.fltTime time).setReg Reg.fltInfo
    (BitVec.ofNat 64 (1 + m.cls * 4 + m.tag % 128 * 16))

/-- FLT_INFO.VALID written 1: VALID and OVERFLOW clear; a message accepted in the same cycle is latched (R363). -/
def State.infoClear (s : State) : State :=
  let t := s.setRf Reg.fltInfo 1 0 0
  match s.flt.accepted with
  | some (c, m, time) => if c = s.mc then t.latch m time else t
  | none => t

/-- FLT_INFO_CLEAR (R363). -/
def execFltInfoClear (who : Requester) (s : State) : Out :=
  .next (if s.writeReaches who Reg.fltInfo then s.infoClear else s)

/-- The class counter of a message. -/
def State.countClass (s : State) (c : Nat) : State := s.count Reg.fltCount (16 * c + 15) (16 * c) 1

/-- The ports that IRQ_OWNER names for a tag. -/
def State.ownerPorts (s : State) (tag : Nat) : List Port :=
  if 96 ≤ tag then []
  else match s.rf (Reg.prtOwner tag) 1 0 with
    | 1 => [.a] | 2 => [.b] | 3 => [.a, .b] | _ => []

/-- The ports that a message interrupts, for its action bits. -/
def State.irqPorts (s : State) (act tag : Nat) : List Port :=
  let own := if act.testBit 2 then s.ownerPorts tag else []
  [Port.a, Port.b].filter (fun p => act.testBit p.num || own.contains p)

/-- The partition and reset actions of a message: the widest reset wins, a reset supersedes STOP and HOLD, and STOP
supersedes HOLD (R365, R366). -/
def State.partActions (s : State) (act src tag : Nat) : State :=
  let here := decide (tag < 96) && (s.part tag).exists_
  if act.testBit 8 && here then s.resetPart tag
  else if act.testBit 7 && decide (src < 12288) then s.resetQuire (quireOf src)
  else if act.testBit 6 && decide (src < 12288) then s.resetCore src
  else if act.testBit 5 && here then s.stopPart tag
  else if act.testBit 4 && here then s.faultHold tag
  else s

/-- The newest writes to an action entry, when they fall in the present cycle. -/
def State.actionWrites (s : State) (kind : Nat) : Option ActionWrite :=
  match Table.look (fun _ => none) s.flt.acts kind with
  | some x => if x.at_ = s.mc then some x else none
  | none => none

/-- The actions for a kind: a write of the present cycle takes effect in the next one (R364). -/
def State.actionsNow (s : State) (kind : Nat) : Nat :=
  match s.actionWrites kind with
  | some x => fld x.before 8 0
  | none => s.rf (Reg.fltAction kind) 8 0

/-- The collector accepts a message (R362, R365). -/
def State.acceptMsg (s : State) (m : FaultMsg) : State :=
  let act := s.actionsNow (fld m.msg 47 40)
  let s := { s with flt := { s.flt with accepted := some (s.mc, m, s.clk.gtimeNs) } }
  let s := (s.latch m s.clk.gtimeNs).countClass m.cls
  let s := (s.irqPorts act m.tag).foldl State.faultIrq s
  let s := if act.testBit 3 then s.enterLog m else s
  s.partActions act (fld m.msg 63 48) m.tag

/-- Whether the collector has taken its message of the present cycle (R360). -/
def State.accepting (s : State) : Bool := (s.flt.accepted.map Prod.fst) == some s.mc

/-- A waiting reporter finds room: its message enters the queue now (R361). -/
def State.letIn (s : State) : State :=
  match s.flt.waiting with
  | w :: ws => State.enterQueue { s with flt := { s.flt with waiting := ws } } { w with at_ := s.mc }
  | [] => s

/-- FAULT_ACCEPT: the collector takes the first message of its input queue, one per cycle, and a waiting reporter finds room
(R360, R361). -/
def execFaultAccept (s : State) : Out :=
  match s.flt.queue with
  | [] => .next s
  | m :: ms =>
    if s.accepting then .next s
    else .next ((State.letIn { s with flt := { s.flt with queue := ms } }).acceptMsg m)

end Sys2Proof.Machine
end

