-- ==== Sys2Proof/Machine/Boot.lean ====
section
/-! DEFINITION. Module reset and bring-up: the paths of a start, the merge of fuses and tests, remap and retirement, the
configuration store and the publication of GEN_CAPS (R324, R327, R358, R368 to R384). -/

namespace Sys2Proof.Machine

/-! ## Module reset (R324, R327) -/

/-- What outlives a module reset in the register space: FLT_LASTRESET. -/
def keptRegs (t : Table U64) : Table U64 := t.filter (fun e => e.1 == Reg.fltLastreset)

/-- Bytes of flash. -/
def State.flashRd (s : State) (a n : Nat) : List Byte := Table.span blankByte s.flash a n

/-- Bytes written to flash. -/
def State.flashWr (s : State) (a : Nat) (bs : List Byte) : State :=
  { s with flash := Table.putSpan blankByte s.flash a bs }

/-- A range of flash erased. -/
def State.flashErase (s : State) (a n : Nat) : State :=
  { s with flash := s.flash.filter (fun e => !(decide (a ≤ e.1 ∧ e.1 < a + n))) }

/-- Bytes of a flash page (log 134). -/
abbrev pageBytes : Nat := 256

/-- The page in progress of a flash write programmed (R380, R389). -/
def State.programPage (s : State) (j : FlashJob) : State := s.flashWr (j.place + j.next) (slice j.image j.next pageBytes)

/-- A flash write stopped at its next page boundary: the page in progress is completed, and no further one (R381, R391, R437). -/
def State.stopWrite (s : State) : State :=
  match s.mgt.job with
  | some j => { s.programPage j with mgt := { s.mgt with job := none } }
  | none => s

/-- The module under reset: everything is as after State.reset, but for fuses, flash, the log's place, the always-on
FLT_LASTRESET, LPDDR6 when every supply stayed good, and what lies outside the module. -/
def State.underReset (s : State) (keepMem full : Bool) : State :=
  let s := s.stopWrite
  { clk := { wall := s.clk.wall }
    regs := keptRegs s.regs
    mem := if keepMem then s.mem.filter (fun e => decide (e.1 < dramBytes)) else []
    dramErr := if keepMem then s.dramErr else []
    hostA := s.hostA, hostB := s.hostB, flash := s.flash, fuse := s.fuse
    boot := { supplies := s.boot.supplies, cold := !keepMem || full, memKept := keepMem, pgAt := s.boot.pgAt
              sag := s.boot.sag }
    hall := { wire := s.hall.wire }
    mgt := { logSeq := s.mgt.logSeq, lastStart := s.mgt.lastStart, mctpOut := s.mgt.mctpOut, ethOut := s.mgt.ethOut }
    pwr := { pulses := s.pwr.pulses, tripped := s.pwr.tripped, rails := s.pwr.rails }
    msix := s.msix, readData := s.readData, readBytes := s.readBytes, pending := s.pending }

/-- A module reset during which every supply stays good (R327). Before the release of an earlier reset it changes nothing of what
that one found: after a fall of a supply, or with a full test asked for, the next start is cold (R368). -/
def State.moduleReset (s : State) (full : Bool) : State :=
  s.underReset (!s.boot.inReset || s.boot.memKept) (full || (s.boot.inReset && s.boot.cold))

/-- A FATAL message is accepted, and FLT_LASTRESET keeps it (R358). -/
def State.fatalMsg (s : State) (src kind addr : Nat) : State :=
  (s.acceptMsg ⟨faultMsg src kind addr, 127, s.mc⟩).setReg Reg.fltLastreset (faultMsg src kind addr)

/-- SUPPLY_GOOD_FALL: a supply-good input falls: a module reset with LPDDR6 lost; the next start is cold (R327, R437).
FLT_LASTRESET is cleared by the power-up that follows. -/
def execSupplyGoodFall (s : State) : Out :=
  let s := s.underReset false true
  .next { s with regs := [], boot := { s.boot with supplies := false, pgAt := none }, pwr := { s.pwr with tripped := false } }

/-- SUPPLY_GOOD_RISE: the last of the supply-good inputs is high; release follows 100 µs later (R436). -/
def execSupplyGoodRise (s : State) : Out :=
  .next (if s.boot.supplies then s
    else { s with boot := { s.boot with supplies := true, pgAt := some s.clk.wall } })

/-- JTAG_RESET: a module reset through JTAG (R324). -/
def execJtagReset (s : State) : Out := .next (s.moduleReset false)

/-- SUPPLY_SAG_END: the sag is over (R381). -/
def execSupplySagEnd (s : State) : Out := .next { s with boot := { s.boot with sag := false } }

/-! ## Firmware images (R387, R388) -/

/-- Flash offset of a firmware slot. -/
abbrev fwSlot (k : Nat) : Nat := k * 0x1000000

/-- The number of burnt anti-rollback fuses. -/
def State.rollback (s : State) : Nat := s.fuse.rollback

/-- The checks of R387 but for the anti-rollback one, on an image: its 4 KiB header and the body after it. -/
def State.imageSound (s : State) (h body : List Byte) : Bool :=
  leAt h 0 4 == 0x57464847 && leAt h 4 2 == 1 && zeroAt h 6 2 && zeroAt h 0x18 8 && zeroAt h 0x741 191 &&
  zeroAt h 0xE00 512 && decide (1 ≤ leAt h 0x10 4 ∧ leAt h 0x10 4 ≤ 16773120) &&
  shake256_256 (slice h 0x40 1793) == s.fuse.keyDigest &&
  Config.falconVerify (slice h 0x40 1793) (slice h 0x800 1536) (shake256_256 (slice h 0 0x800)) &&
  shake256_256 (body.take (leAt h 0x10 4)) == slice h 0x20 32

/-- Whether an image is valid (R387). -/
def State.imageValid (s : State) (h body : List Byte) : Bool :=
  s.imageSound h body && decide (s.rollback ≤ leAt h 0x0C 4 ∧ leAt h 0x0C 4 ≤ 64)

/-- The header of a slot. -/
def State.slotHeader (s : State) (k : Nat) : List Byte := s.flashRd (fwSlot k) 4096

/-- Whether a firmware slot holds a valid image. -/
def State.slotValid (s : State) (k : Nat) : Bool :=
  let h := s.slotHeader k
  s.imageValid h (s.flashRd (fwSlot k + 4096) (min 16773120 (leAt h 0x10 4)))

/-- The slot the boot ROM starts: A when valid, else B when valid (R388). -/
def State.bootSlot (s : State) : Option Nat := if s.slotValid 0 then some 0 else if s.slotValid 1 then some 1 else none

/-! ## The configuration store (R379, R380) -/

/-- Flash offset of a configuration copy. -/
abbrev cfgCopy (k : Nat) : Nat := 0x2000000 + k * 0x40000

/-- The bytes of a configuration copy, by its LENGTH. -/
def State.cfgBytes (s : State) (k : Nat) : List Byte :=
  s.flashRd (cfgCopy k) (max 64 (min 0x40000 (leNat (s.flashRd (cfgCopy k + 12) 4))))

/-- Whether a configuration copy is valid. -/
def cfgValid (b : List Byte) : Bool :=
  leAt b 0 4 == 0x47464343 && leAt b 4 2 == 1 && leAt b 12 4 == b.length &&
  shake256_256 (overlay b 16 (zeros 32)) == slice b 16 32

/-- SEQ of a copy. -/
def cfgSeq (b : List Byte) : Nat := leAt b 8 4

/-- The winning copy (R379). -/
def State.cfgWinner (s : State) : Option Nat :=
  let v0 := cfgValid (s.cfgBytes 0)
  let v1 := cfgValid (s.cfgBytes 1)
  if v0 && v1 then some (if cfgSeq (s.cfgBytes 0) < cfgSeq (s.cfgBytes 1) then 1 else 0)
  else if v0 then some 0 else if v1 then some 1 else none

/-- The entries of a copy: type and data. -/
def cfgEntries (b : List Byte) : Nat → Nat → List (Nat × List Byte)
  | _, 0 => []
  | o, n + 1 =>
    let len := leAt b (o + 4) 4
    (leAt b o 4, slice b (o + 8) len) :: cfgEntries b (o + 8 + roundUp (min len b.length) 8) n

/-- The entries of the store; none without a valid copy. -/
def State.store (s : State) : List (Nat × List Byte) :=
  match s.cfgWinner with
  | some k => let b := s.cfgBytes k; cfgEntries b 64 (min (leAt b 6 2) (b.length / 8))
  | none => []

/-- An entry's data. -/
def State.storeEntry (s : State) (ty : Nat) : Option (List Byte) :=
  (s.store.find? (fun e => e.1 == ty)).map Prod.snd

/-- A configuration copy with entries and a SEQ (R379). -/
def cfgImage (seq : Nat) (es : List (Nat × List Byte)) : List Byte :=
  let data := es.flatMap (fun e => leBytes 4 e.1 ++ leBytes 4 e.2.length ++ padTo (roundUp e.2.length 8) e.2)
  let b := leBytes 4 0x47464343 ++ leBytes 2 1 ++ leBytes 2 es.length ++ leBytes 4 seq ++ leBytes 4 (64 + data.length) ++
    zeros 48 ++ data
  overlay b 16 (shake256_256 b)

/-- The entries with some replaced, added or, without data, left as they are (R380). -/
def mergeEntries (old new : List (Nat × List Byte)) : List (Nat × List Byte) :=
  old.map (fun e => match new.find? (fun x => x.1 == e.1) with | some x => x | none => e) ++
  new.filter (fun x => !old.any (fun e => e.1 == x.1))

/-- The time in which a page is erased and programmed, at 2 MB/s (R389). -/
abbrev pageTime : Nat := usec 128

/-- A flash write begins: its place is erased, and its first page is in progress (R380, R389). -/
def State.startWrite (s : State) (goal : FlashGoal) (cmd : Option MgtCmd) (place size : Nat) (image : List Byte) : State :=
  let running := match goal with | .store _ _ => 1 | .calibration => 2 | .slot _ => 0
  let s := (s.flashErase place size).setRf Reg.cfgStatus 5 4 running
  { s with mgt := { s.mgt with
    job := some { goal := goal, cmd := cmd, place := place, image := image, pageAt := s.clk.wall + pageTime } } }

/-- A complete new copy of the store goes to the other copy's place, SEQ one above the winning copy's; the winning copy is never
touched (R380). -/
def State.writeStore (s : State) (cmd : Option MgtCmd) (new : List (Nat × List Byte)) : State :=
  let k := match s.cfgWinner with | some 0 => 1 | _ => 0
  let seq := match s.cfgWinner with | some w => (cfgSeq (s.cfgBytes w) + 1) % 2 ^ 32 | none => 0
  s.startWrite (.store k seq) cmd (cfgCopy k) 0x40000 (cfgImage seq (mergeEntries s.store new))

/-- Whether the calibration set passes its digest, which its last 32 bytes hold (R382). -/
def State.calValid (s : State) : Bool :=
  shake256_256 (s.flashRd 0x2080000 65504) == s.flashRd (0x2080000 + 65504) 32

/-! ## Merging fuses and tests (R371, R372) -/

/-- The physical core that a bad link makes unusable, and the unit code of the report: 4 for a west link, 1 for a north
one (R372). -/
def linkUnit (l : Nat × Dir) : Nat × Nat :=
  match l.2 with
  | .n => (l.1, 1) | .s => (l.1 + 132, 1) | .w => (l.1, 4) | .e => (l.1 + 1, 4)

/-- The core id of a physical position: its logical core, or its spare id (R13, R20). -/
def State.idOfPos (s : State) (pos : Nat) : Nat :=
  let r := pos / 132
  let p := pos % 132
  let skips := s.rowSkips r
  match skips.idxOf? p with
  | some k => 12288 + 4 * r + k
  | none => r * 128 + (p - (skips.filter (· < p)).length)

/-- FUSE_TEST_MISMATCH of a unit that one side marks bad and the other does not (R371). -/
def State.mismatch (s : State) (src unit : Nat) (fuse test : Bool) : State :=
  if fuse = test then s else s.report src 0xA0 (unit + (if fuse then 16 else 0) + (if test then 32 else 0)) 127

/-- A log entry of the Gatehouse's own whose message no rule gives (R371, R397). -/
def State.ownLog (s : State) (kind unit : Nat) : State := s.enterLog ⟨Config.ownEntry kind unit, 127, s.mc⟩

/-- The disagreements on units of one kind that only the persistent log shows (R371). -/
def State.ownMismatches (s : State) (kind : Nat) (fuses tests : List Nat) : State :=
  (fuses ++ tests).dedup.foldl (fun u x => if fuses.contains x = tests.contains x then u else u.ownLog kind x) s

/-- The number of an edge router among all. -/
def routerNum (x : Edge × Nat) : Nat := x.1.code * 128 + x.2

/-- The mismatches between fuses and the core self-test (R371). -/
def State.coreMismatches (s : State) (t : StartTests) : State :=
  (s.fuse.badCores ++ t.badCores).dedup.foldl (fun u c =>
    u.mismatch (s.idOfPos c) 0 (s.fuse.badCores.contains c) (t.badCores.contains c)) s

/-- The mismatches between fuses and the tests of a cold start (R371); a failed edge buffer is also reported in the persistent
log. -/
def State.mismatches (s : State) (t : StartTests) : State :=
  let fl := s.fuse.badLinks.map linkUnit
  let tl := t.badLinks.map linkUnit
  let s := s.coreMismatches t
  let s := ((((s.ownMismatches 0 s.fuse.badLoadSegs t.badLoadSegs).ownMismatches 1 (s.fuse.badQuires.map Fin.val)
    (t.badQuires.map Fin.val)).ownMismatches 2 (s.fuse.badRouters.map routerNum) (t.badRouters.map routerNum)).ownMismatches 3
    (s.fuse.badBuffers.map Edge.code) (t.badBuffers.map Edge.code)).ownMismatches 4 (s.fuse.badHost.map Port.num)
    (t.badHostPorts.map Port.num)
  let s := t.badBuffers.foldl (fun u e => u.ownLog 5 e.code) s
  let s := ((fl ++ tl).dedup).foldl (fun u l => u.mismatch (s.idOfPos l.1) l.2 (fl.contains l) (tl.contains l)) s
  let s := (List.finRange 8).foldl (fun (u : State) (p : HallPort) => u.mismatch (blockSrc 3 p) 0 (s.fuse.badHall.contains p)
    (t.badHallPorts.contains p)) s
  (List.finRange 48).foldl (fun (u : State) (c : ChanId) => u.mismatch (blockSrc 2 c) 0 (s.fuse.badChans.contains c)
    ((c, 2#2) ∈ t.channelRate)) s

/-- The unusable physical cores: bad cores, and those that a bad link or load-channel segment makes unusable (R372). -/
def unusable (f : Fuses) (t : StartTests) : List Nat :=
  (f.badCores ++ t.badCores ++ (f.badLinks ++ t.badLinks).map (fun l => (linkUnit l).1) ++ f.badLoadSegs ++ t.badLoadSegs).dedup

/-! ## Remap and retirement (R373 to R375) -/

/-- One logical column placed: skips so far and the next position, or none when more than four are skipped. -/
def placeColumn (bad : List Nat) (absorb : Bool) : Nat → List Nat × Nat → Option (List Nat × Nat)
  | 0, _ => none
  | n + 1, (skips, p) =>
    if !absorb && bad.contains p then
      if 4 ≤ skips.length then none else placeColumn bad absorb n (skips ++ [p], p + 1)
    else some (skips, p + 1)

/-- The skips of a row for a retired mask; none when infeasible (R373). -/
def rowRemap (bad : List Nat) (mask : Nat) : Option (List Nat) :=
  ((List.range 128).foldl (fun a c => a.bind (placeColumn bad (mask.testBit (c / 16)) 6)) (some ([], 0))).map
    (fun x => x.1 ++ (List.range (132 - x.2)).map (fun i => x.2 + i))

/-- The retired masks in the order bring-up tries them (R374). -/
def maskOrder : List Nat :=
  (List.range 9).flatMap (fun k => (List.range 256).filter (fun m => (setBitsOf 8 m).length == k))

/-- The bad positions of a row among physical cores. -/
def rowBad (bad : List Nat) (r : Nat) : List Nat := (bad.filter (fun c => c / 132 == r)).map (· % 132)

/-- The first feasible mask of a quire-row that retires the given quire-columns, with the skips of its eight rows
(R374). -/
def quireRowRemap (bad : List Nat) (qr base : Nat) : Nat × List (List Nat) :=
  ((maskOrder.filter (fun m => m &&& base == base)).findSome? (fun m =>
    ((List.range 8).mapM (fun i => rowRemap (rowBad bad (8 * qr + i)) m)).map (fun l => (m, l)))).getD
    (255, List.replicate 8 [128, 129, 130, 131])

/-- Remap and retirement of the whole array: the retired quires and the skips by row. -/
def remap (bad : List Nat) (retired : List Nat) : List Nat × List (List Nat) :=
  let rows := (List.range 12).map (fun qr =>
    quireRowRemap bad qr (bitsFrom ((retired.filter (fun x => x / 8 == qr)).map (· % 8))))
  (rows.zipIdx.flatMap (fun e => (setBitsOf 8 e.1.1).map (fun c => 8 * e.2 + c)), rows.flatMap Prod.snd)

/-- The quire that an edge router's row or column attaches to (R372). -/
def routerQuire (e : Edge) (r : Nat) : Nat := quireOf (routerCore e r)

/-- The quire of a physical position under a remap. -/
def posQuire (skips : List (List Nat)) (pos : Nat) : Nat :=
  let r := pos / 132
  let p := pos % 132
  r / 8 * 8 + min 127 (p - ((skips.getD r []).filter (· < p)).length) / 16

/-- Remap with its path tests: up to three rounds; a path that fails makes its core unusable, and after a third failing
round its quire is retired (R375). -/
def remapTested (bad retired : List Nat) : List (List Nat) → Nat → List Nat × List (List Nat) × List Nat
  | [], _ => let m := remap bad retired; (m.1, m.2, bad)
  | f :: fs, round =>
    let m := remap bad retired
    if f.isEmpty then (m.1, m.2, bad)
    else if 3 ≤ round then ((m.1 ++ f.map (posQuire m.2)).dedup, m.2, bad)
    else remapTested (bad ++ f) retired fs (round + 1)

/-- The quires that a bad partition controller, Pergola node or edge router retires (R372). -/
def goneQuires (f : Fuses) (t : StartTests) : List Nat :=
  ((f.badQuires ++ t.badQuires).map Fin.val ++ (f.badRouters ++ t.badRouters).map (fun x => routerQuire x.1 x.2)).dedup

/-- Remap on the warm path: one round of path tests over the stored map, and a second when the first fails; none when that one
fails too (R377, R378). -/
def remapWarm (bad retired : List Nat) (fails : List (List Nat)) : Option (List Nat × List (List Nat) × List Nat) :=
  let bad := bad ++ fails.getD 0 []
  let m := remap bad retired
  if (fails.getD 0 []).isEmpty || (fails.getD 1 []).isEmpty then some (m.1, m.2, bad) else none

/-- The merged map entry of the configuration store: per row 132 bits of unusable cores and the retired mask in 24 B
(R379). -/
def mergedMap (bad retired : List Nat) : List Byte :=
  (List.range 96).flatMap (fun r => leBytes 24 (bitsFrom (rowBad bad r) +
    bitsFrom ((retired.filter (fun x => x / 8 == r / 8)).map (· % 8)) * 2 ^ 132))

/-- The unusable cores and retired quires of a stored merged map. -/
def readMap (b : List Byte) : List Nat × List Nat :=
  ((List.range 96).flatMap (fun r => (setBitsOf 132 (leAt b (24 * r) 24)).map (fun p => r * 132 + p)),
   (List.range 12).flatMap (fun qr => (setBitsOf 8 (leAt b (24 * (8 * qr)) 24 / 2 ^ 132)).map (fun c => 8 * qr + c)))

/-! ## The steps of a start (R369, R376, R377) -/

/-- Identity registers, MACs and ENABLED from fuses (R338, R369). -/
def State.loadFuses (s : State) : State :=
  let s := (s.setReg Reg.genIdent (BitVec.ofNat 64 (s.fuse.vendor.toNat + 0x0C12 * 2 ^ 16 + 0xB1 * 2 ^ 32))).setReg
    (Reg.genIdent + 8) (s.fuse.serial.setWidth 64)
  let s := (s.setReg Reg.genDetClass 0x000101B1#64).setRf Reg.entStatus 31 24 s.fuse.sources.toNat
  (List.range 8).foldl (fun t p => t.setRf (Reg.hfbPortcfg p) 63 16 (s.fuse.macs.getD p 0).toNat) s

/-- MGT_FWINFO of the running image; the Gatehouse has switched to its PLL (R369, R388, R410). -/
def State.loadFw (s : State) (slot : Nat) : State :=
  let h := s.slotHeader slot
  (s.setRf Reg.pwrClk 41 40 3).setReg Reg.mgtFwinfo (BitVec.ofNat 64 (slot + (if s.slotValid (1 - slot) then 0x80 else 0) + min 64 s.rollback * 2 ^ 8 +
    leAt h 0x0C 4 % 128 * 2 ^ 16 + leAt h 8 4 * 2 ^ 32))

/-- CONFIG_COPY_BAD of an invalid copy (R379). -/
def State.reportCopy (s : State) (k : Nat) : State :=
  let b := s.cfgBytes k
  if cfgValid b then s else s.report (blockSrc 8 1) 0xA1 (k + cfgSeq b * 256) 127

/-- The configuration store selected and applied: CFG_STATUS, FLT_ACTION values, BAR4, the Gatehouse's settings, and the
calibration set, nominal where it fails its digest (R364, R379, R383, R398, R400, log 50). -/
def State.applyStore (s : State) : State :=
  let s := (s.reportCopy 0).reportCopy 1
  let win := s.cfgWinner
  let cal := if s.calValid then 1 else 0
  let s := s.setReg Reg.cfgStatus (BitVec.ofNat 64 (win.getD 0 + (if win.isSome then 2 else 0) + cal * 4 +
    (if s.fuse.calFactory then 8 else 0) + (match win with | some k => cfgSeq (s.cfgBytes k) | none => 0) * 2 ^ 8))
  let s := match s.storeEntry 5 with
    | some b => (List.range 256).foldl (fun (t : State) k =>
        if (kindClass k).isSome && k != 0 && kindClass k != some 3 && (leAt b (8 * k) 8).testBit 15 then
          t.setRf (Reg.fltAction k) 8 0 (leAt b (8 * k) 8)
        else t) s
    | none => s
  let set := (s.storeEntry 7).getD []
  let trims := if s.calValid then s.flashRd 0x2080000 65504 else []
  let s := { s with
    boot := { s.boot with trims := trims }
    mgt := { s.mgt with smbAddr := if leAt set 1 1 = 0 then 0x4C else leAt set 1 1, cak := slice set 32 32 } }
  let s := (List.range 8).foldl (fun t p => t.setRf (Reg.hfbPtpcal p) 31 0 (Config.ptpLatency trims p).toNat) s
  match s.storeEntry 6 with
  | some b =>
    let s := (s.setRf (Reg.hstPortcfg 0) 17 0 (leAt b 8 8)).setRf (Reg.hstPortcfg 1) 17 0 (leAt b 8 8)
    { s with boot := { s.boot with bar4 := (leAt b 0 1).testBit 0 } }
  | none => s

/-- The FATAL message kept by the always-on domain is the first one latched after the reset (R358). -/
def State.latchLast (s : State) : State :=
  if s.reg Reg.fltLastreset = 0 then s
  else (s.setReg Reg.fltFirst (s.reg Reg.fltLastreset)).setReg Reg.fltInfo (BitVec.ofNat 64 (1 + 3 * 4 + 127 * 16))

/-- Whether a start takes the warm fast path (R368). -/
def State.warmStart (s : State) (fuseDigest : List Byte) : Bool :=
  s.boot.memKept && !s.boot.cold && (s.storeEntry 1).isSome && s.storeEntry 2 == some fuseDigest

/-- The training record of a channel: its rate, then 63 B of results (R250, log 130). -/
def State.trained (s : State) (c : ChanId) (rate : Nat) : List Byte :=
  leBytes 1 rate ++ padTo 63 (if rate < 2 then Config.training s.boot.trims s.clk.wall c else [])

/-- The channels as training left them: MEM_STATUS.RATE, the results in force, and the sides that a failed channel disables
(R250). -/
def State.setChannels (s : State) (records : ChanId → List Byte) : State :=
  let rate (c : ChanId) : Nat := leAt (records c) 0 1 % 4
  let s := (List.finRange 48).foldl (fun (u : State) (c : ChanId) =>
    (u.setRf (Reg.memStatus (c / 4)) (c % 4 * 8 + 1) (c % 4 * 8) (rate c)).updChan c (fun x => { x with training := records c })) s
  let bad (side : Nat) : Bool := (List.finRange 48).any (fun (c : ChanId) => decide (c.val / 24 = side ∧ 2 ≤ rate c))
  { s with boot := { s.boot with badSides := [bad 0, bad 1] } }

/-- The training of a start (R250, R251): the fuses' bad channels fail; a warm start keeps the stored results that pass their
verification; every other channel trains in full. -/
def State.startRecords (s : State) (t : StartTests) (warm : Bool) (c : ChanId) : List Byte :=
  let old := (s.storeEntry 3).getD []
  if c ∈ s.fuse.badChans then s.trained c 2
  else if warm && old.length == 3072 && !t.verifyFails.contains c then slice old (64 * c) 64
  else s.trained c (((t.channelRate.find? (fun e => e.1 == c)).map (fun e => e.2.toNat)).getD 0)

/-- Entry 3 of the configuration store: the training results of every channel (R379, log 130). -/
def State.trainingEntry (s : State) : List Byte := (List.range 48).flatMap (fun c => padTo 64 (s.chan c).training)

/-! ## Regulators (R397, R412) -/

/-- Nominal voltage in mV of a rail, in the order of the rail table (R434). -/
def railNominal (k : Nat) : Nat := [750, 750, 800, 750, 800, 1200, 1800, 1050, 500, 3300].getD k 0

/-- Highest AVS voltage in mV of a rail; none for a fixed rail (R434). -/
def railTop (k : Nat) : Option Nat := if k = 0 ∨ k = 1 then some 820 else if k = 3 then some 800 else none

/-- Whether a PMBus transaction with a rail fails three times (R397). -/
def State.railLost (s : State) (k : Nat) : Bool := (List.range 3).all (fun i => Config.pmbusFails s.clk.wall k i)

/-- A regulator that does not answer: it is counted, THERM_WARN is raised with the rail's sensor number, and the failure is logged;
the rail's voltage stays (R397, log 131). -/
def State.railFailed (s : State) (k : Nat) : State :=
  ((s.count Reg.mgtHealth 47 32 1).report (blockSrc 7 (96 + k)) 0x80
    (ofSigned 16 (Table.look (fun _ => 0) s.pwr.temps (96 + k))) 127).ownLog 6 k

/-- A rail's voltage written: an AVS rail within its range for its fused code and the hottest die temperature, a fixed rail its
nominal voltage (R397, R412). -/
def State.setRail (s : State) (k : Nat) : State :=
  if s.railLost k then s.railFailed k
  else
    let v := match railTop k with
      | some top => max 700 (min top (Config.avsVoltage k (s.fuse.volt.getD k 0) s.pwr.hottest.2))
      | none => railNominal k
    { s with pwr := { s.pwr with rails := Table.put (fun _ => 0) s.pwr.rails k v } }

/-- The AVS rails set, at a start or a wake from S1 or S2; at a start the fixed ones as well (R397). -/
def State.setRails (s : State) (start : Bool) : State :=
  ((List.range 10).filter (fun k => start || (railTop k).isSome)).foldl State.setRail s

/-! ## The array (R369 to R378) -/

/-- ARR_SPARE of every row (R156, R374). -/
def State.setSpare (s : State) (retired : List Nat) (skips : List (List Nat)) : State :=
  (List.range 96).foldl (fun t r => t.setReg (Reg.arrSpare r) (BitVec.ofNat 64 (
    leNat ((skips.getD r []).map (BitVec.ofNat 8)) +
    bitsFrom ((retired.filter (fun x => x / 8 == r / 8)).map (· % 8)) * 2 ^ 32)))
    { s with boot := { s.boot with
      retired := retired
      skips := skips.zipIdx.foldl (fun u e => Table.put (fun _ => [128, 129, 130, 131]) u e.2 e.1) [] } }

/-- GEN_CAPS published in one cycle, with the duration of the start (R376), and the bring-up entry of the log (R395). -/
def State.publish (s : State) (x : Start) : State :=
  let quires := (List.range 96).filter (fun q => !s.boot.retired.contains q)
  let slow := (List.range 48).any (fun c => s.rf (Reg.memStatus (c / 4)) (c % 4 * 8 + 1) (c % 4 * 8) == 1)
  let flag (b : Bool) (i : Nat) : Nat := if b then 2 ^ i else 0
  let ms := (s.clk.wall - x.since) / usec 1000 % 2 ^ 32
  let v := bitsFrom quires + quires.length * 2 ^ 96 + bitsFrom s.boot.hallPorts * 2 ^ 104 +
    bitsFrom s.boot.hostPorts * 2 ^ 112 + flag (s.boot.badSides.getD 0 false == false) 114 +
    flag (s.boot.badSides.getD 1 false == false) 115 + flag s.boot.bar4 116 + s.rf Reg.cfgStatus 2 2 * 2 ^ 117 +
    flag x.warm 118 + flag slow 119 + flag true 120 + s.rf Reg.entStatus 31 24 * 2 ^ 128 + ms * 2 ^ 192
  let s := (List.range 4).foldl (fun u i => u.setReg (Reg.genCaps + 8 * i) (unitOf v i)) s
  let s := s.enterLog ⟨faultMsg (blockSrc 9 0) 0 1, 127, s.mc⟩
  { s with boot := { s.boot with published := true, start := none } }

/-- Whether a start publishes now: its tests have taken their time, and the lanes are seeded or the entropy source has failed for
good (R369, R384). -/
def State.startDone (s : State) : Bool :=
  match s.boot.start with
  | some x => decide (x.since + x.ms * usec 1000 ≤ s.clk.wall) && (s.ent.seeded || s.ent.state == .fatal)
  | none => false

/-- The end of a start in its cycle (R369, R376). -/
def State.endStart (s : State) : State :=
  match s.boot.start with
  | some x => if s.startDone then s.publish x else s
  | none => s

/-- The ports that a start finds usable (R372): the fuses', and on the cold path the tests'; a warm start runs no loopback
(R377). -/
def State.setPorts (s : State) (t : StartTests) (warm : Bool) : State :=
  let hall := (List.finRange 8).filter (fun (p : HallPort) => !s.fuse.badHall.contains p && (warm || !t.badHallPorts.contains p))
  let host := [Port.a, Port.b].filter (fun p => !s.fuse.badHost.contains p && (warm || !t.badHostPorts.contains p))
  { s with boot := { s.boot with hallPorts := hall.map Fin.val, hostPorts := host.map Port.num } }

/-- A remap in force: the unusable cores and the quires retired whatever the remap are kept for the path test of a wake. -/
def State.useRemap (s : State) (m : List Nat × List (List Nat) × List Nat) (gone : List Nat) : State :=
  State.setSpare { s with boot := { s.boot with bad := m.2.2, gone := gone } } m.1 m.2.1

/-- What bring-up writes to the configuration store after publication: nothing when the stored merged map, fuse-map digest and
training results are the ones found (R380). -/
def State.noteStore (s : State) (map dig : List Byte) : State :=
  if s.storeEntry 1 == some map && s.storeEntry 2 == some dig && s.storeEntry 3 == some s.trainingEntry then s
  else { s with boot := { s.boot with toStore := [(1, map), (2, dig), (3, s.trainingEntry), (4, s.boot.eq)] } }

/-- The array's part of a cold start: merged map, remap and retirement, and the reports (R371 to R375). A failed edge buffer
retires every quire. -/
def State.coldArray (s : State) (t : StartTests) (dig : List Byte) : State :=
  let gone := goneQuires s.fuse t
  let m := remapTested (unusable s.fuse t) gone t.pathFails 1
  let retired := if (s.fuse.badBuffers ++ t.badBuffers).isEmpty then m.1 else List.range 96
  let gone := if (s.fuse.badBuffers ++ t.badBuffers).isEmpty then gone else List.range 96
  ((s.useRemap (retired, m.2) gone).mismatches t).noteStore (mergedMap m.2.2 retired) dig

/-- The array's part of a warm start: the stored map with one round of path tests; when a second round fails as well, the cold
path from the core self-test on (R377, R378). The state, and whether the path stayed warm. -/
def State.warmArray (s : State) (t : StartTests) (dig : List Byte) : State × Bool :=
  let stored := readMap ((s.storeEntry 1).getD [])
  match remapWarm stored.1 stored.2 t.pathFails with
  | some m => (s.useRemap m stored.2, true)
  | none =>
    let m := remapTested (stored.1 ++ t.badCores).dedup stored.2 (t.pathFails.drop 2) 1
    (((s.useRemap m stored.2).coreMismatches t).noteStore (mergedMap m.2.2 m.1) dig, false)

/-- The start count (R425). -/
def State.countStart (s : State) : State :=
  s.setReg Reg.genStarts (BitVec.ofNat 64 (min 0xFFFFFFFF (s.mgt.lastStart + 1)))

/-- The firmware's body in the Gatehouse SRAM (R385, log 133). -/
def State.loadSram (s : State) (slot : Nat) : State :=
  let n := min 0x400000 (leAt (s.slotHeader slot) 0x10 4)
  { s with mgt := { s.mgt with slot := slot, sram := Table.putSpan (fun _ => 0) [] 0 (s.flashRd (fwSlot slot + 4096) n) } }

/-- What bring-up does up to the end of the path tests, on the path that R368 selects (R369, R377): firmware, fuses, store and
calibration set, entropy source, regulators, memory (filled with zeros by a cold start), the ports and the array. GEN_CAPS is
published later. -/
def State.bringUp (s : State) (t : StartTests) (slot : Nat) : State :=
  let dig := shake256_256 t.fuseBits
  let s := ((((s.loadSram slot).loadFuses).loadFw slot).countStart).applyStore
  let warm := s.warmStart dig
  let s := s.entOn.setRails true
  let s := (s.setChannels (s.startRecords t warm)).setPorts t warm
  let eq := if warm then (s.storeEntry 4).getD s.boot.trims else Config.equalisation s.boot.trims s.clk.wall
  let s := { s with boot := { s.boot with inReset := false, eq := eq } }
  let r := if warm then s.warmArray t dig else (State.coldArray { s with mem := [], dramErr := [] } t dig, false)
  { r.1 with boot := { r.1.boot with start := some ⟨s.clk.wall, t.durationMs.toNat, r.2⟩ } }

/-- MODULE_RESET_RELEASE: release of module reset starts bring-up (R368 to R378), which ends with GEN_CAPS published once its
tests have taken their time and the lanes are seeded. With no valid firmware image the Gatehouse stays in its boot ROM (R388).
Nothing happens while a supply is low, before its 100 µs have passed (R436), or after a thermal trip (R438). -/
def execModuleResetRelease (t : StartTests) (s : State) : Out :=
  let early := match s.boot.pgAt with
    | some a => decide (s.clk.wall < a + usec 100)
    | none => false
  if !s.boot.inReset || !s.boot.supplies || early || s.pwr.tripped || s.boot.bootRom then .next s
  else
    let s := { s with boot := { s.boot with pgAt := none }, mgt := { s.mgt with wdtAt := s.clk.wall } }
    match s.bootSlot with
    | none => .next (State.setPorts { s.latchLast with boot := { s.boot with bootRom := true } } t true)
    | some slot => .next (s.latchLast.bringUp t slot)

end Sys2Proof.Machine
end

