-- ==== Sys2Proof/Machine/Power.lean ====
section
/-! DEFINITION. Power states, clocks and thermal control: requests and their handshake, wake, the governor, throttling and
trips, TSYNC and the scheduled transitions (R401 to R420). -/

namespace Sys2Proof.Machine

/-! ## Requests and the handshake (R403 to R405) -/

/-- A block's answer in the entry handshake. -/
inductive Answer where
  | ack | defer | refuse (cls inst : Nat)
deriving DecidableEq, Repr

/-- Whether a collect ring of a partition holds a complete group or record bytes still to be written. -/
def Partition.collectPending (p : Partition) : Bool :=
  match p.binding with
  | none => false
  | some b => (b.rings.zipIdx).any (fun e =>
      let x := p.ring e.2
      e.1.kind == 1 && !x.stopped && (if b.ringIsDrain e.2 then decide (x.moved < x.used)
        else decide (x.moved / 4096 < x.used / 4096 ∨ x.moved < x.flush)))

/-- The blocks of the entry handshake, by number: partitions, host ports, stream engines, hall transport, Gatehouse,
entropy source, memory controllers (R404). -/
def State.answer (s : State) (target : Nat) : Nat → Answer
  | 0 =>
    match s.partIds.find? (fun q => decide (3 ≤ s.partStateCode q ∧ s.partStateCode q ≤ 5)) with
    | some q => .refuse 0 q
    | none => if s.partIds.any (fun q => (s.part q).load.isSome || (s.part q).restore.isSome) then .defer else .ack
  | 1 => if s.descs.any (fun d => d.phase == .running) || s.rings.any (fun e => !e.2.owed.isEmpty) then .defer else .ack
  | 2 => if s.partIds.any (fun q => !(s.part q).owedOffers.isEmpty || (s.part q).collectPending) then .defer else .ack
  | 3 =>
    if target = 3 then (if s.hall.conns.any (fun e => !e.2.unacked.isEmpty) then .defer else .ack)
    else if s.hallOn then .refuse 4 0 else .ack
  | 4 => if s.mgt.queue.isEmpty && s.mgt.sign.isEmpty && s.mgt.job.isNone then .ack else .defer
  | 5 => if s.ent.seeding then .defer else .ack
  | _ => if s.chans.any (fun e => decide (0 < e.2.owed)) then .defer else .ack

/-- The number of blocks asked. -/
abbrev askedBlocks : List Nat := [0, 1, 2, 3, 4, 5, 6]

/-- A handshake ends without an entry, with a completion status. -/
def State.endRequest (s : State) (status : Nat) : State :=
  { s.setRf Reg.pwrStatus 15 8 status with pwr := { s.pwr with request := none, heldWake := none } }

/-- The refreshes owed are carried out, with rank set aside (R249). -/
def State.payRefreshes (s : State) : State :=
  { s with chans := s.chans.map (fun e => (e.1, { e.2 with owed := 0, emergency := none })) }

/-- A block's answer when it is asked again or for the first time: the memory controllers, asked before, have carried out the
refreshes they owed (R249, R404). -/
def State.answerNow (s : State) (r : PowerRequest) (b : Nat) : Answer :=
  if b = 6 ∧ r.deferred.any (fun d => d.1 == 6) then .ack else s.answer r.target b

/-- Blocks are asked and answer (R404, R405): a REFUSE or too many DEFERs end the request; entry begins when all have
answered ACK, with LPDDR6 going to self-refresh and no refresh owed (R249). -/
def State.askBlocks (s : State) (r : PowerRequest) (blocks : List Nat) : State :=
  let answers := blocks.map (fun b => (b, s.answerNow r b))
  match answers.findSome? (fun a => match a.2 with | .refuse c i => some (c, i) | _ => none) with
  | some (c, i) => ((s.endRequest stRefused).setRf Reg.pwrStatus 21 16 c).setRf Reg.pwrStatus 29 22 i
  | none =>
    let deferred := (answers.filter (fun a => a.2 == .defer)).map (fun a =>
      (a.1, ((r.deferred.find? (fun x => x.1 == a.1)).map Prod.snd).getD 0 + 1))
    if deferred.any (fun d => decide (s.rf Reg.pwrCtrl 10 4 ≤ d.2)) then s.endRequest stTimeout
    else if deferred.isEmpty then
      let t := ((s.setRf Reg.pwrClk 40 40 0).setRf Reg.pwrStatus 15 8 stDone).payRefreshes
      { t with pwr := { t.pwr with request := none, entry := some (r.target, s.clk.wall) } }
    else { s with pwr := { s.pwr with request := some { r with deferred := deferred } } }

/-- Whether a port may request a module state: every partition's owner allows it (R403). -/
def State.mayPower (s : State) (who : Requester) : Bool :=
  match who with
  | .gatehouse => true
  | .portA => s.partIds.all (fun q => let v := s.reg (Reg.prtOwner q)
      fld v 1 0 == 0 || fld v 1 0 == 1 || (fld v 1 0 == 3 && (s.sem (fld v 7 2)).owner == 1))
  | .portB => s.partIds.all (fun q => let v := s.reg (Reg.prtOwner q)
      fld v 1 0 == 0 || fld v 1 0 == 2 || (fld v 1 0 == 3 && (s.sem (fld v 7 2)).owner == 2))
  | _ => false

/-- A request for a module state by a comparator or a requester that may make it: discarded with REJECTED set while another
entry runs; the targets are 3 S1, 4 S2 and 5 S3 (R403). -/
def State.requestPower (s : State) (target : Nat) : State :=
  if target < 3 ∨ 5 < target then s
  else if s.pwr.request.isSome || s.pwr.entry.isSome || s.asleep then s.raise Reg.pwrCtrl 11 11 1
  else s.askBlocks { target := target } askedBlocks

/-- PWR_CTRL written with GO (R403). -/
def State.powerGo (s : State) (who : Requester) (target : Nat) : State :=
  if s.mayPower who then s.requestPower target else s.raise Reg.pwrCtrl 11 11 1

/-- POWER_STATE_REQUEST (R403). -/
def execPowerStateRequest (who : Requester) (target : BitVec 3) (s : State) : Out :=
  .next (if s.writeReaches who Reg.pwrCtrl then s.powerGo who target.toNat else s)

/-- HANDSHAKE_REASK: the blocks that deferred are asked again (R404). -/
def execHandshakeReask (s : State) : Out :=
  match s.pwr.request with
  | some r => .next (s.askBlocks r (r.deferred.map Prod.fst))
  | none => .next s

/-! ## Wake (R406 to R409) -/

end Sys2Proof.Machine

namespace Sys2Proof

/-- Whether a wake source is edge-type (R406). -/
def WakeSource.edge : WakeSource → Bool
  | .frame => true | .linkActivity => true | _ => false

/-- PWR_WAKE.CAUSE of a source. -/
def WakeSource.cause : WakeSource → Nat
  | .frame => 1 | .linkActivity => 2 | .wakeN => 3 | .pcie => 4 | .doorbell => 5 | .comparator => 6

end Sys2Proof

namespace Sys2Proof.Machine

/-- What S2 loses (R401, R408): every partition is EMPTY with its regions freed, the array's SRAM is written to zero, and
the core registers stand at their reset values. -/
def State.afterS2 (s : State) : State :=
  let s := s.partIds.foldl State.resetPart s
  { s with
    cores := []
    carry := []
    sramErr := []
    mem := s.mem.filter (fun e => decide (e.1 < dramBytes))
    regs := s.regs.filter (fun e => decide (e.1 < 0x1000000)) }

/-- The training check of a wake (R251, R408): a channel that fails it trains in full (log 130). -/
def State.wakeRecords (s : State) (c : ChanId) : List Byte :=
  if Config.wakeVerifyFails s.clk.wall c then s.trained c (Config.wakeRate s.clk.wall c % 3) else (s.chan c).training

/-- LPDDR6 out of self-refresh: no refresh is owed and the interval starts again (R249); the channels' training is checked. -/
def State.memoryWakes (s : State) : State :=
  let s := s.setChannels s.wakeRecords
  { s with chans := s.chans.map (fun e =>
      (e.1, { e.2 with owed := 0, emergency := none, owner := none, chosen := none, intervalAt := some s.clk.wall })) }

/-- The path-test round of a wake from S2 (R375, R408): the cores of failing paths become unusable and the remap is run again
(log 130). -/
def State.wakePathTest (s : State) : State :=
  match Config.wakePaths s.clk.wall with
  | [] => s
  | f => let m := remap (s.boot.bad ++ f) s.boot.gone; s.useRemap (m.1, m.2, s.boot.bad ++ f) s.boot.gone

/-- A wake event is latched: the module is waking (R408). -/
def State.wakeUp (s : State) (src : WakeSource) : State :=
  if s.pwr.waking.isSome then s
  else { s with pwr := { s.pwr with waking := some (s.clk.wall, src), heldWake := none } }

/-- The time in which a module wakes: 8.1 ms from S1, 188 ms from S2 (R408). -/
def wakeTime (st : PowerState) : Nat := if st = .s1 then usec 8100 else usec 188000

/-- The module returns to A0 from S1 or S2: the AVS rails are set, the array's state is lost after S2, the memory and the paths are
checked, the Gatehouse runs on the fast oscillator, and the lanes are seeded again (R142, R249, R397, R408, R410). -/
def State.awake (s : State) (src : WakeSource) : State :=
  let deep := s.pwr.state = .s2
  let s := (s.setRails false).memoryWakes
  let s := if deep then s.afterS2.wakePathTest else s
  let s := (s.setRf Reg.pwrWake 3 0 src.cause).setRf Reg.pwrClk 40 40 0
  { s with
    pwr := { s.pwr with state := .s0, waking := none, heldWake := none, level := [] }
    lanes := []
    ent := { s.ent with seeded := false, seedNext := 0, failedSeed := s.ent.state == .fatal, seeding := s.ent.state.serves } }

/-- A wake in progress ends when its time is over (R408). -/
def State.wakeCycle (s : State) : State :=
  match s.pwr.waking with
  | some (t, src) => if t + wakeTime s.pwr.state ≤ s.clk.wall then s.awake src else s
  | none => s

/-- A level-type source is present at its pin until the module has woken (R406). -/
def Power.addLevel (p : Power) (src : WakeSource) : Power :=
  if (src = .wakeN ∨ src = .pcie) ∧ src ∉ p.level then { p with level := p.level ++ [src] } else p

/-- A wake event (R406, R407): in S1 and S2 it wakes; during a handshake it is held; in the entry window an edge is lost and
a level held; at any other time WAKE_N and a PCIe request stay pending (log 136). Without supplies the inputs read inactive
(R440). -/
def State.wakeBy (s : State) (src : WakeSource) : State :=
  if !s.boot.supplies then s
  else if s.pwr.state = .s1 ∨ s.pwr.state = .s2 then s.wakeUp src
  else if s.pwr.state = .s0 then
    if s.pwr.entry.isSome ∧ src.edge then s.count Reg.pwrWake 23 8 1
    else if s.pwr.entry.isSome ∨ s.pwr.request.isSome then
      { s with pwr := { s.pwr.addLevel src with heldWake := some (s.pwr.heldWake.getD src) } }
    else { s with pwr := s.pwr.addLevel src }
  else s

/-- WAKE: a wake event in S1 or S2 (R406, R408). -/
def execWake (src : WakeSource) (s : State) : Out := .next (s.wakeBy src)

/-- The state that a target names. -/
def stateOf (target : Nat) : PowerState := if target = 3 then .s1 else if target = 4 then .s2 else .s3

/-- In S3 only the always-on domain is alive (R401): what remains is what a power-up finds. -/
def State.powerOff (s : State) : State :=
  { s.underReset false true with
    pwr := { state := .s3, tripped := s.pwr.tripped, pulses := s.pwr.pulses, rails := s.pwr.rails } }

/-- The restart of a module in S3 by WAKE_N or a PCIe request, through the cold path (R406, R409). -/
def State.restart (s : State) (src : WakeSource) : State :=
  State.setRf { s.underReset false true with pwr := { pulses := s.pwr.pulses, rails := s.pwr.rails } } Reg.pwrWake 3 0 src.cause

/-- POWER_ENTRY_COMPLETE: 240 ns after the last ACK the module is in its target state; an event held, or a level still present,
wakes it at once where it is valid (R406, R407). -/
def execPowerEntryComplete (s : State) : Out :=
  match s.pwr.entry with
  | none => .next s
  | some (target, at_) =>
    if s.clk.wall < at_ + 288 then .next s
    else
      let held := s.pwr.heldWake.toList ++ s.pwr.level
      let s := { s with pwr := { s.pwr with entry := none, heldWake := none, state := stateOf target } }
      if target = 5 then
        match held.find? (fun x => x == .wakeN || x == .pcie) with
        | some src => .next (s.powerOff.restart src)
        | none => .next s.powerOff
      else match held with
        | src :: _ => .next (s.wakeUp src)
        | [] => .next s

/-- WAKE_FROM_S3: WAKE_N or a PCIe request restarts the module through the cold path; after a trip nothing does
(R406, R409). -/
def execWakeFromS3 (src : WakeSource) (s : State) : Out :=
  .next (if s.pwr.state = .s3 ∧ !s.pwr.tripped ∧ (src = .wakeN ∨ src = .pcie) then
      s.restart src
    else s)

/-- WAKE_FRAME: a WAKE frame that passed the receive checks (R257, R406). -/
def execWakeFrame (s : State) : Out :=
  match s.hall.frames with
  | f :: fs => .next (if hdrType f.hdr = 6 then { s with hall := { s.hall with frames := fs } }.wakeBy .frame else s)
  | [] => .next s

/-! ## The governor (R411, R413) -/

/-- A clock in MHz lowered by steps of 25, never below 600. -/
def stepDown (f n : Nat) : Nat := max 600 (f - 25 * n)

/-- A governor step to a clock at a time: the next window begins after the step has slewed, within 1 µs (R411, R413). -/
def Power.step (p : Power) (gov wall : Nat) : Power :=
  { p with gov := gov, lastStep := some wall, windowAt := wall + usec 1 }

/-- GOVERNOR_WINDOW: at the end of a window of 100 µs its mean power is compared with PWR_GOV (R413). -/
def execGovernorWindow (mean : Nat) (s : State) : Out :=
  let cap := s.rf Reg.pwrGov 9 0
  let p := s.pwr
  let quiet : Bool := match p.lastStep with
    | some t => decide (t + usec 1000 ≤ s.clk.wall)
    | none => true
  if s.clk.wall < p.windowAt + usec 100 then .next s
  else if cap < mean ∧ 600 < p.gov then .next { s with pwr := p.step (stepDown p.gov 1) s.clk.wall }
  else if mean + s.rf Reg.pwrGov 27 20 < cap ∧ quiet ∧ p.gov < s.rf Reg.pwrGov 39 28 then
    .next { s with pwr := p.step (min (p.gov + 25) (s.rf Reg.pwrGov 39 28)) s.clk.wall }
  else .next { s with pwr := { p with windowAt := s.clk.wall } }

/-- GOVERNOR_PEAK: a sample above PEAK lowers the clock by four steps at once, and a new window begins (R413). -/
def execGovernorPeak (sample : Nat) (s : State) : Out :=
  .next (if s.rf Reg.pwrGov 19 10 < sample then
      (if 600 < s.pwr.gov then { s with pwr := s.pwr.step (stepDown s.pwr.gov 4) s.clk.wall }
       else { s with pwr := { s.pwr with windowAt := s.clk.wall } })
    else s)

/-! ## Temperature (R415 to R418) -/

/-- A threshold in 1/16 °C as the controller applies it: 10 °C lower with untrimmed sensors (R415). -/
def State.threshold (s : State) (celsius : Nat) : Int :=
  ((celsius : Int) - (if s.rf (Reg.genCaps + 8) 53 53 = 1 then 0 else 10)) * 16

/-- The temperature of a sensor. -/
def State.temp (s : State) (i : Nat) : Int := Table.look (fun _ => 0) s.pwr.temps i

/-- The sensors that throttle a half: its own group and the periphery (R417). -/
def throttleSensors (h : Half) : List Nat :=
  (match h with | .north => List.range 24 | .south => (List.range 24).map (· + 24)) ++ (List.range 23).map (· + 48)

/-- The thermal limit of a half after a step of 100 µs (R417): one step down while a sensor is at THROT, one step up per
1 ms once every sensor of the half is below THROT − 3 °C. -/
def throttled (f cool : Nat) (hot cold : Bool) : Nat × Nat :=
  if hot then (stepDown f 1, 0)
  else if cold ∧ f < 1200 then (if 9 ≤ cool then (f + 25, 0) else (f, cool + 1))
  else (f, 0)

/-- Whether a half's thermal limit is due to be looked at: 100 µs after the last time (R417). -/
def State.throttleDue (s : State) (h : Half) : Bool :=
  match (match h with | .north => s.pwr.stepN | .south => s.pwr.stepS) with
  | some t => decide (t + usec 100 ≤ s.clk.wall)
  | none => true

/-- THROTTLE_STEP: a half's thermal limit is stepped, every 100 µs (R417). -/
def execThrottleStep (h : Half) (s : State) : Out :=
  let lim := s.threshold (s.rf Reg.pwrTherm 15 8)
  let hot := (throttleSensors h).any (fun i => decide (lim ≤ s.temp i))
  let own := match h with | .north => List.range 24 | .south => (List.range 24).map (· + 24)
  let cold := own.all (fun i => decide (s.temp i < lim - 48))
  if !s.throttleDue h then .next s
  else
    match h with
    | .north =>
      let r := throttled s.pwr.thN s.pwr.coolN hot cold
      .next { s with pwr := { s.pwr with thN := r.1, coolN := r.2, stepN := some s.clk.wall } }
    | .south =>
      let r := throttled s.pwr.thS s.pwr.coolS hot cold
      .next { s with pwr := { s.pwr with thS := r.1, coolS := r.2, stepS := some s.clk.wall } }

/-- THERM_WARN of a sensor that has risen to WARN, once until it falls below WARN − 3 °C (R415, R416). On-die sensors
take the untrimmed margin; voltage monitors have no threshold. -/
def State.warn (s : State) (i : Nat) : State :=
  let w := s.rf Reg.pwrTherm 7 0
  let lim : Int := if i < 71 then s.threshold w else w * 16
  let t := s.temp i
  if 112 ≤ i then s
  else if lim ≤ t ∧ i ∉ s.pwr.warned then
    { s with pwr := { s.pwr with warned := i :: s.pwr.warned } }.report (blockSrc 7 i) 0x80 (ofSigned 16 t) 127
  else if t < lim - 48 then { s with pwr := { s.pwr with warned := s.pwr.warned.filter (· != i) } }
  else s

/-- THERM_TRIP: an on-die sensor at TRIP powers the module down at once; the message is kept in FLT_LASTRESET
(R358, R418). -/
def execThermTrip (sensor : Fin 71) (temp : U16) (s : State) : Out :=
  if s.threshold (s.rf Reg.pwrTherm 23 16) ≤ temp.toInt ∧ s.pwr.state ≠ .s3 then
    let s := s.fatalMsg (blockSrc 7 sensor) 0x81 temp.toNat
    .next { s with pwr := { s.pwr with tripped := true } }.powerOff
  else .next s

/-! ## TSYNC, schedules and the Gatehouse clock (R283, R410, R419, R420) -/

/-- PWR_TSYNC written (R419): MODE 2 is discarded with CONFLICT while MODE is 1; MODE 3 is discarded. -/
def State.tsyncMode (s : State) (mode group : Nat) : State :=
  if mode = 3 then s
  else if mode = 2 ∧ s.rf Reg.pwrTsync 1 0 = 1 then s.raise Reg.pwrTsync 6 6 1
  else (s.setRf Reg.pwrTsync 1 0 mode).setRf Reg.pwrTsync 5 2 group

/-- TSYNC_MODE_WRITE (R419). -/
def execTsyncModeWrite (who : Requester) (mode : BitVec 2) (group : GroupId) (s : State) : Out :=
  .next (if s.writeReaches who Reg.pwrTsync then s.tsyncMode mode.toNat group else s)

/-- TSYNC_PPS_EDGE: with TSYNC a 1PPS input the time base takes phase from the rising edge: the nearest second (R283,
log 26). -/
def execTsyncPpsEdge (s : State) : Out :=
  if s.rf Reg.pwrTsync 1 0 = 1 then
    let t := (s.clk.gtimeNs.toNat + 500000000) / 1000000000 * 1000000000
    .next { s with clk := { s.clk with gtimeNs := BitVec.ofNat 64 t, gtimeFrac := 0 } }
  else .next s

/-- PWR_SCHED written with ARM: a GTB comparator is reserved and armed; RESULT reads CONFLICT when none is free (R420). -/
def State.schedArm (s : State) (time target : Nat) : State :=
  if s.rf (Reg.pwrSched + 8) 4 4 = 1 then s
  else
    match s.freeCmp with
    | none => s.setRf Reg.pwrStatus 15 8 stConflict
    | some k =>
      let s := (s.setReg Reg.pwrSched (BitVec.ofNat 64 time)).setRf (Reg.pwrSched + 8) 2 0 target
      ((s.setCmp k 3 target time true).setRf (Reg.pwrSched + 8) 4 4 1).setRf Reg.pwrStatus 15 8 stDone

/-- PWR_SCHED written with ARM clear: an armed comparator is disarmed and freed (R420). -/
def State.schedDisarm (s : State) : State :=
  if s.rf (Reg.pwrSched + 8) 4 4 = 1 then
    (((List.range 8).filter (fun k => s.cmpOwner k == 3)).foldl State.freeCmpAt s).setRf (Reg.pwrSched + 8) 4 4 0
  else s

/-- PWR_SCHED_ARM (R420). -/
def execPwrSchedArm (who : Requester) (time : U64) (target : BitVec 3) (s : State) : Out :=
  .next (if s.writeReaches who Reg.pwrSched then s.schedArm time.toNat target.toNat else s)

/-- PWR_SCHED_DISARM (R420). -/
def execPwrSchedDisarm (who : Requester) (s : State) : Out :=
  .next (if s.writeReaches who Reg.pwrSched then s.schedDisarm else s)

/-- GHS_SEL: the Gatehouse alone switches its clock; discarded while its PLL is not locked (R410). -/
def State.ghsSel (s : State) (pll : Bool) : State :=
  if s.rf Reg.pwrClk 41 41 = 0 then s else s.setRf Reg.pwrClk 40 40 (if pll then 1 else 0)

/-- GHS_SEL (R410). -/
def execGhsSel (who : Requester) (pll : Bool) (s : State) : Out :=
  .next (if who = .gatehouse then s.ghsSel pll else s)

/-! ## Comparators (R286) -/

/-- A comparator of a barrier group fires: the partition's release tick is 42 ticks on (R73, R279). -/
def State.fireBarrier (s : State) (g : Nat) : State :=
  match s.barGroup g with
  | none => s
  | some x => (s.setGroup g (some { x with release := none })).updPart x.part (fun p => { p with
      barrier := p.barrier.map (fun b => if b.forwarded then { b with release := some (p.tick + 42) } else b) })

/-- A scheduled start fires: the partition's first tick follows 42 ticks later (R306). -/
def State.fireStart (s : State) (q : Nat) : State := s.updPart q (fun p => { p with resumeIn := some 42 })

/-- A scheduled power transition fires: a wake, or the request for its target (R420). -/
def State.firePower (s : State) (target : Nat) : State :=
  let s := s.setRf (Reg.pwrSched + 8) 4 4 0
  if target = 0 then s.wakeBy .comparator else s.requestPower target

/-- COMPARATOR_FIRE: GTIME has reached an armed comparator's time; it fires once, for its owner (R285, R286). -/
def execComparatorFire (k : CmpId) (s : State) : Out :=
  let v := s.reg (Reg.gtbCmp k + 8)
  if s.cmpArmed k && decide ((s.reg (Reg.gtbCmp k)).toNat ≤ s.gtime) then
    let idx := fld v 15 8
    if fld v 2 0 = 1 then .next ((s.setCmp k 1 idx (s.reg (Reg.gtbCmp k)).toNat false).fireBarrier idx)
    else if fld v 2 0 = 2 then .next ((s.freeCmpAt k).fireStart idx)
    else .next ((s.freeCmpAt k).firePower idx)
  else .next s

end Sys2Proof.Machine
end

