-- ==== Sys2Proof/Machine/HostRings.lean ====
section
/-! DEFINITION. The host rings: doorbells, fetch, the checks and the start of descriptors, completions, interrupts and
watchdogs (R6, R295 to R305, R312). -/

namespace Sys2Proof

/-- The requester that a host port is. -/
def Port.who : Port → Requester
  | .a => .portA | .b => .portB

end Sys2Proof

namespace Sys2Proof.Machine

/-! ## Ring pairs (R295) -/

/-- Whether a ring pair is enabled: both its rings are. -/
def State.pairOn (s : State) (p : Port) (r : Nat) : Bool :=
  bit (s.reg (Reg.hstSq p.num r)) 5 && bit (s.reg (Reg.hstCq p.num r)) 5

/-- The descriptors of a ring that is disabled: those not started are gone, the others lose their completions. -/
def orphanRing (p : Port) (r : Nat) (l : List Desc) : List Desc :=
  (l.filter (fun d => !(d.ref.port == p && d.ref.ring.val == r && d.phase == .waiting))).map (fun d =>
    if d.ref.port = p ∧ d.ref.ring.val = r then { d with orphan := true } else d)

/-- A ring pair when its ENABLE bits change: enabling sets heads, tails and phase anew; disabling discards what is owed
(R294, R295). -/
def State.pairChange (s : State) (p : Port) (r : Nat) (was : Bool) : State :=
  let now := s.pairOn p r
  if was = now then s
  else if now then s.updRing p r (fun x => { fetched := x.fetched })
  else { s.updRing p r (fun x => { x with owed := [], irqs := 0, irqSince := none }) with descs := orphanRing p r s.descs }

/-- The ENABLE bit of one ring of a pair written. -/
def State.ringSwitch (s : State) (p : Port) (r : Nat) (cq on : Bool) : State :=
  let off := if cq then Reg.hstCq p.num r else Reg.hstSq p.num r
  (s.setRf off 5 5 (if on then 1 else 0)).pairChange p r (s.pairOn p r)

/-- RING_ENABLE: the port's host writes the ENABLE bits of a pair (R295). -/
def execRingEnable (p : Port) (r : RingId) (sq cq : Bool) (s : State) : Out :=
  .next (if s.writeReaches p.who (Reg.hstSq p.num r) then
      (s.ringSwitch p r false sq).ringSwitch p r true cq
    else s)

/-! ## Doorbells (R296, R297) -/

/-- A discarded doorbell is counted. -/
def State.badDoorbell (s : State) (p : Port) : State := s.count (Reg.hstPortstat p.num) 31 16 1

/-- A doorbell write of 4 B: in S1 and S2 it first wakes the module (R406); in S3 nothing answers. -/
def State.doorbell (s : State) (size : Nat) (f : State → State) : State :=
  if size ≠ 4 ∨ s.pwr.state = .s3 then s else f (s.wakeBy .doorbell)

/-- SQ_TAIL (R297). -/
def execSqTail (p : Port) (r : RingId) (value : U32) (size : Nat) (s : State) : Out :=
  .next (s.doorbell size (fun s =>
    if s.pairOn p r && decide (value.toNat < ringSize (s.reg (Reg.hstSq p.num r))) then
      s.updRing p r (fun x => { x with sqTail := value.toNat })
    else s.badDoorbell p))

/-- CQ_HEAD frees completion entries (R297, R298). -/
def execCqHead (p : Port) (r : RingId) (value : U32) (size : Nat) (s : State) : Out :=
  .next (s.doorbell size (fun s =>
    if s.pairOn p r && decide (value.toNat < ringSize (s.reg (Reg.hstCq p.num r))) then
      s.updRing p r (fun x => { x with cqHead := value.toNat })
    else s.badDoorbell p))

/-- Where a drain ring's record at an offset ends in ring order: the next boundary, 64 at the ring's end. -/
def nextRecord (size payload kind at_ : Nat) : Nat :=
  let n := at_ + 32 + (if kind = 0xFF then payload else roundUp payload 32)
  if size ≤ n then 64 else n

/-- Whether an offset is a record boundary from a head up to a tail, by the records' headers: `hdr` gives KIND and PAYLOAD
at an offset. -/
def onBoundary (size tail want : Nat) (hdr : Nat → Nat × Nat) : Nat → Nat → Bool
  | 0, _ => false
  | n + 1, at_ =>
    at_ == want || (at_ != tail && onBoundary size tail want hdr n (nextRecord size (hdr at_).2 (hdr at_).1 at_))

/-- KIND and PAYLOAD of the record header at an address of a memory. -/
def drainHeader (m : Table Byte) (a : Nat) : Nat × Nat :=
  ((Table.look zeroByte m (a + 13)).toNat, leNat (Table.span zeroByte m (a + 4) 4))

/-- Whether a head value frees whole records of a drain ring (R297). -/
def headOk (m : Table Byte) (base size head tail value : Nat) : Bool :=
  decide (64 ≤ value ∧ value < size ∧ value % 32 = 0) &&
  onBoundary size tail value (fun o => drainHeader m (base + o)) (size / 32) head

/-- DRAIN_HEAD frees consumed space of the host drain ring behind port B (R297, R312). -/
def execDrainHead (p : Port) (r : RingId) (value : U32) (size : Nat) (s : State) : Out :=
  if p = .a ∨ 96 ≤ r.val then .next s
  else .next (s.doorbell size (fun s =>
    let v := s.reg (Reg.hstDrain r)
    let d := (s.part r).drain
    if bit v 5 && headOk s.hostB (fld v 63 12 * 4096) (2 ^ fld v 4 0) d.hHead d.hTail value.toNat then
      s.updPart r (fun q => { q with drain := { q.drain with hHead := value.toNat } })
    else s.badDoorbell p))

/-- The LPDDR6 drain ring of a partition: base and size; none without one. -/
def Partition.ldrain (p : Partition) : Option (Nat × Nat) := if p.streams then p.binding.bind Binding.ldrain else none

/-- LDRAIN_HEAD frees consumed records of the LPDDR6 drain ring (R186, R297). -/
def execLdrainHead (p : Port) (r : RingId) (value : U32) (size : Nat) (s : State) : Out :=
  if 96 ≤ r.val then .next s
  else .next (s.doorbell size (fun s =>
    match (s.part r).ldrain with
    | none => s.badDoorbell p
    | some (base, n) =>
      let d := (s.part r).drain
      if headOk s.mem base n d.lHead d.lTail value.toNat then
        s.updPart r (fun q => { q with drain := { q.drain with lHead := value.toNat } })
      else s.badDoorbell p))

/-! ## Fetch (R297, R298) -/

/-- DESCRIPTOR_FETCH: the descriptor at the submission head is fetched, while the completion ring is not full. -/
def execDescriptorFetch (p : Port) (r : RingId) (bytes : List Byte) (s : State) : Out :=
  let x := s.ringPair p r
  let ref : DescRef := ⟨p, r, BitVec.ofNat 16 x.fetched⟩
  if s.pairOn p r && x.sqHead != x.sqTail && !s.cqFull p r && !s.asleep && (s.desc ref).isNone then
    let head := (x.sqHead + 1) % ringSize (s.reg (Reg.hstSq p.num r))
    .next { s.updRing p r (fun x => { x with sqHead := head, fetched := x.fetched + 1 }) with
      descs := s.descs ++ [{ ref := ref, bytes := padTo 64 bytes, head := head, fetchedAt := s.mc }] }
  else .next s

/-! ## Checks of a descriptor (R6, R303 to R305) -/

/-- OPCODE. -/
def Desc.opcode (d : Desc) : Nat := leAt d.bytes 0 1
/-- FLAGS. -/
def Desc.flags (d : Desc) : Nat := leAt d.bytes 1 1
/-- WATCHDOG. -/
def Desc.watchdog (d : Desc) : Nat := leAt d.bytes 8 4
/-- An operand field. -/
def Desc.arg (d : Desc) (off len : Nat) : Nat := leAt d.bytes off len

/-- The operand fields of an opcode: offset and size (R304). -/
def operandFields (op : Nat) : List (Nat × Nat) :=
  if op = 1 then [(0x10, 9), (0x20, 32)]
  else if op = 2 then [(0x10, 0x19)]
  else if op = 3 then [(0x10, 1)]
  else if op = 4 then [(0x10, 0x11)]
  else if op = 5 ∨ op = 6 then [(0x10, 16)]
  else if op = 7 then [(0x10, 0x1A), (0x30, 8)]
  else if op = 8 then [(0x10, 24)]
  else if op = 9 then [(0x10, 0x19)]
  else if op = 10 then [(0x10, 12)]
  else if op = 11 then [(0x10, 4), (0x18, 8)]
  else if op = 12 then [(0x10, 13)]
  else if op = 13 then [(0x10, 16)]
  else []

/-- Whether every byte that the layouts do not list is zero. -/
def Desc.restZero (d : Desc) : Bool :=
  (List.range 48).all (fun i =>
    (operandFields d.opcode).any (fun f => f.1 ≤ i + 16 && i + 16 < f.1 + f.2) || leAt d.bytes (i + 16) 1 == 0)

/-- Whether a TARGET field is well formed for a payload (R174). DESIGN CHOICE (log 112): n is zero in every mode but SLICE. -/
def targetOk (t len : Nat) : Bool :=
  bitsN t 15 14 == 0 && (if bitsN t 31 30 = 3 then bitsN t 29 16 != 0 && len % bitsN t 29 16 == 0
    else bitsN t 29 16 == 0 && (bitsN t 31 30 != 1 || bitsN t 13 0 == 0))

/-- The bytes of SET_TABLE data by kind (R308). -/
def tableBytes (kind : Nat) : Nat := if kind = 1 then 256 else if kind = 3 then 16 else 2048

/-- Whether the operands of a descriptor hold values of their lists and ranges, aligned as the layouts say (R304, R305,
R319). -/
def State.argsOk (s : State) (d : Desc) : Bool :=
  let a := d.arg
  match d.opcode with
  | 1 => a 0x10 8 % 64 == 0 && a 0x18 1 ≤ 1
  | 2 => 1 ≤ a 0x10 8 && a 0x10 8 < 2 ^ 40 && a 0x28 1 ≤ 3
  | 3 => a 0x10 1 ≤ 1
  | 4 => a 0x10 8 % 4096 == 0 && a 0x20 1 ≤ 1
  | 5 => a 0x10 8 % 4096 == 0
  | 6 => a 0x10 8 % 4096 == 0
  | 7 => 1 ≤ a 0x20 8 && a 0x28 1 ≤ 7 && a 0x29 1 ≤ 15
  | 8 => a 0x10 8 % 8 == 0 && a 0x18 8 % 8 == 0
  | 9 => a 0x28 1 ≤ 7 && s.inDram (a 0x10 8) (a 0x18 8)
  | 10 => a 0x10 8 % 32 == 0 && 32 ≤ a 0x18 4 && a 0x18 4 ≤ 4096 && a 0x18 4 % 32 == 0
  | 11 => a 0x10 1 ≤ 15 && a 0x11 1 ≤ 1
  | 12 => a 0x10 8 % 32 == 0
  | 13 => a 0x18 1 ≤ 3 && (a 0x18 1 != 0 || (a 0x19 1 ≤ 3 && targetOk (a 0x1C 4) 2048))
  | 14 => true
  | _ => false

/-- The opcodes that the module ring takes. -/
def moduleOp (op : Nat) : Bool := [7, 8, 9, 10, 14].contains op

/-- Whether a descriptor is well formed (R6, R303, R305). -/
def State.descOk (s : State) (d : Desc) : Bool :=
  leAt d.bytes 2 2 == 0 && leAt d.bytes 0xC 4 == 0 && d.flags ≤ 7 && (!d.flags.testBit 2 || d.opcode == 2) &&
  d.restZero && s.argsOk d && (d.ref.ring.val != 96 || moduleOp d.opcode)

/-! ## Start (R301, R303, R314) -/

/-- The serial opcodes. -/
def serialOp (op : Nat) : Bool := [1, 2, 4, 5, 6, 11].contains op

/-- The descriptors of a ring fetched before a descriptor and not completed. -/
def State.earlier (s : State) (d : Desc) : List Desc :=
  (s.descs.takeWhile (fun x => x.ref != d.ref)).filter (fun x =>
    x.ref.port == d.ref.port && x.ref.ring == d.ref.ring && !x.expired)

/-- Whether a waiting serial descriptor gives way to another of its partition that was ready before it, or in the same cycle
from port A (R301). A descriptor is ready from its fetch, or from the end of the partition's last serial descriptor. -/
def State.givesWay (s : State) (d : Desc) : Bool :=
  let free := max (s.ringPair .a d.ref.ring).serialEnd (s.ringPair .b d.ref.ring).serialEnd
  s.descs.any (fun x => x.phase == .waiting && x.ref.ring == d.ref.ring && x.ref.port != d.ref.port && serialOp x.opcode &&
    !(s.earlier x).any (fun y => y.opcode == 14 || serialOp y.opcode || x.flags.testBit 1) &&
    (if d.ref.port = .b then decide (max free x.fetchedAt ≤ max free d.fetchedAt)
     else decide (max free x.fetchedAt < max free d.fetchedAt)))

/-- Whether a serial descriptor of a partition is running, from either port. -/
def State.serialBusy (s : State) (q : Nat) : Bool :=
  s.descs.any (fun x => x.phase == .running && x.ref.ring.val == q && serialOp x.opcode) ||
  (s.part q).job.isSome || (s.part q).load.isSome

/-- Whether a waiting descriptor may start (R301). -/
def State.mayStart (s : State) (d : Desc) : Bool :=
  let before := s.earlier d
  !before.any (fun x => x.opcode == 14) &&
  ((d.opcode != 14 && !d.flags.testBit 1) || before.isEmpty) &&
  (if d.opcode = 14 then true
   else if serialOp d.opcode then !s.serialBusy d.ref.ring && !s.givesWay d
   else decide (s.runningOn d.ref.port d.ref.ring < 16))

/-- The status with which a descriptor completes at its start without any effect (R303, R305, R314, R370), and LOAD_BINDING with no quire in service (R384); none when its
operation begins. -/
def State.startStatus (s : State) (d : Desc) : Option Nat :=
  if !s.descOk d then some stBad
  else if !s.boot.published && d.opcode != 10 && d.opcode != 14 then some stNotReady
  else if d.opcode = 1 ∧ s.rf (Reg.genCaps + 8) 38 32 = 0 then some stCapacity
  else if d.ref.ring.val < 96 ∧ !((s.part d.ref.ring).exists_ && s.holdsPart d.ref.port d.ref.ring) then some stRefused
  else none

/-- DESCRIPTOR_START: a fetched descriptor starts when its class and ORDER allow (R301). A write to ARR_MODE.DET of the same
cycle goes before a start that ends the array's stopped state (R212). -/
def execDescriptorStart (d : DescRef) (s : State) : Out :=
  match s.desc d with
  | none => .next s
  | some x =>
    if x.phase = .waiting ∧ s.mayStart x ∧ !s.asleep then
      let s := if List.contains [1, 5, 6] x.opcode then s.modeFirst else s
      let s' := s.updDesc d (fun x => { x with phase := .running, since := s.clk.wall })
      match s.startStatus x with
      | some st => .next (s'.complete d st 0 0)
      | none => .next s'
    else .next s

/-- A started descriptor of an opcode whose operation has not been stopped. -/
def State.begun (s : State) (d : DescRef) (op : Nat) : Option Desc :=
  match s.desc d with
  | some x => if x.phase = .running ∧ !x.expired ∧ x.opcode = op then some x else none
  | none => none

/-! ## Completions and interrupts (R298 to R300) -/

/-- An IRQ completion of a ring is signalled, at once or under moderation (R300). -/
def State.signal (s : State) (p : Port) (r : Nat) : State :=
  let v := s.reg (Reg.hstRingcfg p.num r)
  let x := s.ringPair p r
  if fld v 15 8 ≤ x.irqs + 1 then
    (s.updRing p r (fun x => { x with irqs := 0, irqSince := none })).interrupt p (fld v 7 0)
  else s.updRing p r (fun x => { x with irqs := x.irqs + 1, irqSince := some (x.irqSince.getD s.clk.wall) })

/-- COMPLETION_POST: the oldest completion owed is written with its phase bit while the completion ring is not full
(R298, R299). -/
def execCompletionPost (p : Port) (r : RingId) (s : State) : Out :=
  let x := s.ringPair p r
  match x.owed with
  | [] => .next s
  | (bs, irq) :: rest =>
    if s.pairOn p r && !s.cqFull p r && !s.asleep then
      let v := s.reg (Reg.hstCq p.num r)
      let tail := (x.cqTail + 1) % ringSize v
      let out := bs.set 6 (if x.phase then 1 else 0)
      let s := (s.wrHost p (fld v 63 12 * 4096 + 32 * x.cqTail) out).updRing p r (fun x => { x with
        owed := rest, cqTail := tail, phase := if tail = 0 then !x.phase else x.phase })
      .next (if irq then s.signal p r else s)
    else .next s

/-- INTERRUPT_MODERATION_TIMEOUT: MOD_TIME after the first unsignalled IRQ completion the vector is sent (R300). -/
def execInterruptModerationTimeout (p : Port) (r : RingId) (s : State) : Out :=
  let v := s.reg (Reg.hstRingcfg p.num r)
  match (s.ringPair p r).irqSince with
  | some t =>
    .next (if t + usec (fld v 31 16) ≤ s.clk.wall then
        (s.updRing p r (fun x => { x with irqs := 0, irqSince := none })).interrupt p (fld v 7 0)
      else s)
  | none => .next s

/-! ## Watchdogs (R302) -/

/-- The operation of a descriptor whose watchdog expired is stopped: a run at the next barrier, a waiting operation at
once. A load, a data mover and a run that goes on finish later, which is then counted. -/
def State.stopOp (s : State) (d : DescRef) (q : Nat) : State :=
  let s := { s with hall := { s.hall with mtx := s.hall.mtx.filter (fun x => x.desc != d) } }
  s.updPart q (fun p => { p with
    tables := p.tables.filter (fun t => t.desc != d)
    halts := p.halts.filter (· != d)
    restore := p.restore.filter (fun r => r.1 != d)
    job := match p.job with
      | some j => if j.desc = d then (if j.going || j.ended.isSome then some { j with stop := some 1 } else none) else some j
      | none => none })

/-- Whether a descriptor's operation goes on after its watchdog's expiry: a run, a load, or a data mover up to its next 4 KiB
boundary. -/
def State.opGoesOn (s : State) (d : DescRef) : Bool :=
  (match s.desc d with
    | some x => x.opcode == 8 || (x.opcode == 7 && !(x.arg 0x28 1).testBit 2)
    | none => false) ||
  (match (s.part d.ring).job with | some j => j.desc == d | none => false) ||
  (match (s.part d.ring).load with | some l => l.desc == d | none => false)

/-- DESCRIPTOR_WATCHDOG: a descriptor runs longer than its WATCHDOG: it completes TIMEOUT and its operation is stopped
(R302, R9). -/
def execDescriptorWatchdog (d : DescRef) (s : State) : Out :=
  match s.desc d with
  | none => .next s
  | some x =>
    if x.phase = .running ∧ !x.expired ∧ x.watchdog ≠ 0 ∧ x.since + usec x.watchdog < s.clk.wall then
      let waits := match (s.part d.ring).job with
        | some j => j.desc == d && !j.going && j.ended.isNone
        | none => false
      let s := (if waits then s.freeStart d.ring else s).stopOp d d.ring
      if s.opGoesOn d then
        .next ((if x.orphan then s else s.owe x stTimeout 0 0).updDesc d (fun x => { x with expired := true }))
      else .next (s.complete d stTimeout 0 0)
    else .next s

end Sys2Proof.Machine
end

