-- ==== Sys2Proof/Machine/Image.lean ====
section
/-! DEFINITION. A Binding image: its header and sections, and the rules that step 1 of LOAD_BINDING checks (R89, R157,
R164, R172 to R179, R184, R186, R188, R189, R192, R203, R225, R236, R270). -/

namespace Sys2Proof.Machine

/-- The bytes of an image. -/
abbrev Image := List Byte

/-! ## Header and sections (R172, R173) -/

/-- FLAGS. -/
def Image.flags (m : Image) : Nat := leAt m 6 2
/-- QROWS. -/
def Image.qrows (m : Image) : Nat := leAt m 8 1
/-- QCOLS. -/
def Image.qcols (m : Image) : Nat := leAt m 9 1
/-- BASE_QUIRE. -/
def Image.base (m : Image) : Nat := leAt m 0x0A 1
/-- EDGES. -/
def Image.edges (m : Image) : Nat := leAt m 0x0B 1
/-- CHAINS. -/
def Image.chains (m : Image) : Nat := leAt m 0x0C 2
/-- SECTIONS. -/
def Image.sectionCount (m : Image) : Nat := leAt m 0x0E 2
/-- IMAGE_DIGEST. -/
def Image.digest (m : Image) : List Byte := slice m 0x40 32
/-- FLAGS.RELOC. -/
def Image.reloc (m : Image) : Bool := m.flags.testBit 0
/-- FLAGS.DET. -/
def Image.det (m : Image) : Bool := m.flags.testBit 1

/-- A section table entry, of a Binding or of a context image. -/
structure SectionEntry where
  kind  : Nat
  flags : Nat
  count : Nat
  off   : Nat
  len   : Nat
  rsvd  : Nat
deriving DecidableEq, Repr

/-- A section table entry from its 32 bytes. -/
def SectionEntry.ofBytes (b : List Byte) : SectionEntry :=
  ⟨leAt b 0 2, leAt b 2 2, leAt b 4 4, leAt b 8 8, leAt b 16 8, leAt b 24 8⟩

/-- A section table at an offset. -/
def sectionTable (m : List Byte) (at_ n : Nat) : List SectionEntry :=
  (List.range n).map (fun i => SectionEntry.ofBytes (slice m (at_ + 32 * i) 32))

/-- The image's section table. -/
def Image.sections (m : Image) : List SectionEntry := sectionTable m (leAt m 0x18 8) m.sectionCount

/-- The bytes of a section. -/
def sectionBytes (m : List Byte) (e : SectionEntry) : List Byte := slice m e.off e.len

/-- The section of a type, when there is one. -/
def Image.sect (m : Image) (k : Nat) : Option SectionEntry := m.sections.find? (fun e => e.kind == k)

/-- The records of a fixed size in the section of a type. -/
def Image.records (m : Image) (k size : Nat) : List (List Byte) :=
  match m.sect k with
  | some e => chunks size (sectionBytes m e)
  | none => []

/-- Bytes of a record of the section types whose records have one size. -/
def recordSize (k : Nat) : Option Nat :=
  if k = 1 then some 4128 else if k = 3 then some 32 else if k = 4 then some 8 else if k = 7 then some 16 else none

/-- Whether no two sections of a list overlap. -/
def apart : List SectionEntry → Bool
  | [] => true
  | e :: es => es.all (fun f => !meets e.off e.len f.off f.len) && apart es

/-- The rules of the header. -/
def Image.headerOk (m : Image) : Bool :=
  leAt m 0 4 == 0x444E4250 && leAt m 4 2 == 1 && decide (m.flags < 16) &&
  1 ≤ m.qrows && m.qrows ≤ 12 && 1 ≤ m.qcols && m.qcols ≤ 8 &&
  (if m.reloc then m.base == 0 else decide (m.base < 96)) && decide (m.edges < 16) &&
  1 ≤ m.chains && m.chains ≤ 4096 && 1 ≤ m.sectionCount && m.sectionCount ≤ 64 &&
  zeroAt m 0x28 24 && zeroAt m 0x60 160 && leAt m 0x18 8 + 32 * m.sectionCount ≤ m.length

/-- The rules of the section table. -/
def Image.sectionsOk (m : Image) : Bool :=
  m.sections.all (fun e => 1 ≤ e.kind && e.kind ≤ 7 && e.flags ≤ 1 && e.rsvd == 0 && e.off % 64 == 0 &&
    e.off + e.len ≤ m.length && (match recordSize e.kind with | some z => e.len == e.count * z | none => true)) &&
  apart m.sections &&
  (List.range 7).all (fun k => k == 7 || (m.sections.filter (fun e => e.kind == k)).length ≤ 1)

/-! ## Regions and rings (R164, R179, R236, R270) -/

/-- A region request. -/
structure RegionReq where
  buffer : Nat
  first  : Nat
  blocks : Nat
  use    : Nat
  flags  : Nat
  rsvd   : Nat
deriving DecidableEq, Repr

/-- A region request from its 8 bytes. -/
def RegionReq.ofBytes (b : List Byte) : RegionReq :=
  ⟨leAt b 0 1, leAt b 1 1, leAt b 2 1, leAt b 3 1, leAt b 4 1, leAt b 5 3⟩

/-- Whether a request names its blocks. -/
def RegionReq.fixed (r : RegionReq) : Bool := r.flags.testBit 0

/-- Bytes of a region. -/
def RegionReq.bytes (r : RegionReq) : Nat := (r.blocks + 1) * 0x10000

/-- The region requests. -/
def Image.regionReqs (m : Image) : List RegionReq := (m.records 4 8).map RegionReq.ofBytes

/-- The rules of a region request; the uses of a Binding are those of R161. -/
def RegionReq.ok (r : RegionReq) : Bool :=
  r.buffer ≤ 3 && [0, 1, 2, 6, 7].contains r.use && r.flags ≤ 1 && r.rsvd == 0 && (!r.fixed || r.first + r.blocks ≤ 255)

/-- A ring descriptor from its 32 bytes. -/
def RingDesc.ofBytes (b : List Byte) : RingDesc :=
  { region := leAt b 0 1, kind := leAt b 1 1, endpoint := leAt b 2 1, loop := (leAt b 3 1).testBit 0
    offset := leAt b 4 4, bytes := leAt b 8 4, lw := leAt b 0x0C 4, hw := leAt b 0x10 4, rate := leAt b 0x14 2
    addr := leAt b 0x18 5, groups := leAt b 0x1D 3 }

/-- The ring descriptors. -/
def Image.rings (m : Image) : List RingDesc := (m.records 3 32).map RingDesc.ofBytes

/-- The hall stream record at an image offset. -/
structure HallRecord where
  peer   : Nat
  kind   : Nat
  id     : Nat
  remote : Nat
  length : Nat
deriving DecidableEq, Repr

/-- A hall stream record. -/
def HallRecord.ofBytes (b : List Byte) : HallRecord := ⟨leAt b 0 2, leAt b 2 1, leAt b 4 2, leAt b 8 8, leAt b 16 8⟩

/-- The rules of a hall stream record at an offset for a ring of a kind, on a module (R270): PUT pairs with collect,
GET with deliver, PAIR with either. -/
def Image.hallRecordOk (m : Image) (own off ringKind : Nat) : Bool :=
  let b := slice m off 32
  let r := HallRecord.ofBytes b
  off % 32 == 0 && off + 32 ≤ m.length && r.peer < 1024 && r.peer != own && r.id < 4096 && zeroAt b 3 1 && zeroAt b 6 2 &&
  zeroAt b 0x18 8 && (r.kind == 0 || (r.kind == 1 && ringKind == 1) || (r.kind == 2 && ringKind == 0)) &&
  r.remote % 64 == 0 && r.length % 64 == 0

/-- Whether a range lies in the LPDDR6 of the side of a west (2) or east (3) buffer. -/
def sideHolds (buffer a n : Nat) : Bool :=
  if buffer = 2 then a + n ≤ 0x1800000000 else decide (0x1800000000 ≤ a) && a + n ≤ dramBytes

/-- The rules of a ring descriptor (R164, R236, R270). -/
def Image.ringOk (m : Image) (own : Nat) (raw : List Byte) : Bool :=
  let d := RingDesc.ofBytes raw
  match m.regionReqs[d.region]? with
  | none => false
  | some r =>
    d.kind ≤ 1 && d.endpoint ≤ 2 && leAt raw 3 1 ≤ 1 && zeroAt raw 0x16 2 && d.offset % 4096 == 0 && d.bytes % 4096 == 0 &&
    1 ≤ d.rate && d.rate ≤ 1024 && 48 * d.rate ≤ d.lw && d.lw + 4096 ≤ d.hw && d.hw ≤ d.bytes &&
    d.offset + d.bytes ≤ r.bytes &&
    (if 2 ≤ r.buffer then d.endpoint == 0 && sideHolds r.buffer d.addr (d.groups * 4096) else true) &&
    (if d.endpoint = 0 then d.addr % 4096 == 0 && 1 ≤ d.groups && d.addr + d.groups * 4096 ≤ dramBytes
     else if d.endpoint = 2 then m.hallRecordOk own d.addr d.kind else true)

/-! ## Plans (R157, R178, R179) -/

/-- A group of plan entries: its edge, relative router, region index, and its entries' bytes. -/
structure PlanGroup where
  edge    : Nat
  router  : Nat
  region  : Nat
  rsvd    : Bool
  entries : List (List Byte)
deriving DecidableEq, Repr

/-- Plan groups read one after another; none when they run past the section. -/
def planGroups : Nat → List Byte → Option (List PlanGroup)
  | 0, _ => some []
  | n + 1, bs =>
    let k := leAt bs 4 2
    if bs.length < 16 + 16 * k then none
    else (planGroups n (bs.drop (16 + 16 * k))).map (fun gs =>
      { edge := leAt bs 0 1, router := leAt bs 1 1, region := leAt bs 2 1, rsvd := zeroAt bs 3 1 && zeroAt bs 6 10
        entries := chunks 16 (slice bs 16 (16 * k)) } :: gs)

/-- The plan groups of an image. -/
def Image.plans (m : Image) : Option (List PlanGroup) :=
  match m.sect 2 with
  | some e => planGroups e.count (sectionBytes m e)
  | none => some []

/-- A plan entry from its 16 bytes, in a region whose first granule in its buffer is given (R157, R179). -/
def PlanEntry.ofBytes (b : List Byte) (region base : Nat) : PlanEntry :=
  let w := leAt b 0 16
  { phase := bitsN w 7 0, offset := bitsN w 31 8, count := bitsN w 43 32, stride := bitsN w 51 44, len := bitsN w 53 52
    op := bitsN w 55 54, all := w.testBit 56, addr := base + bitsN w 84 64, step := signedOf 16 (bitsN w 111 96)
    region := region }

/-- The rules of a plan entry in a region of some granules: every word lies wholly in the region (R157). -/
def planEntryOk (b : List Byte) (regionGranules : Nat) : Bool :=
  let w := leAt b 0 16
  let e := PlanEntry.ofBytes b 0 0
  bitsN w 63 57 == 0 && bitsN w 95 85 == 0 && bitsN w 127 112 == 0 && e.stride != 0 && e.op ≤ 1 &&
  [0, e.count].all (fun k => let a : Int := e.addr + k * e.step
                             0 ≤ a && a + 2 ^ e.len ≤ (regionGranules : Int))

/-- The rules of a group of plan entries: its edge is set in EDGES, its router lies in the partition's shape, its region
in its buffer. -/
def Image.planGroupOk (m : Image) (g : PlanGroup) : Bool :=
  g.edge ≤ 3 && m.edges.testBit g.edge && g.rsvd &&
  decide (g.router < (if g.edge ≤ 1 then 16 * m.qcols else 8 * m.qrows)) &&
  (match m.regionReqs[g.region]? with
    | some r => r.buffer == g.edge && g.entries.all (fun b => planEntryOk b (r.bytes / 8))
    | none => false)

/-- The rules of the PLANS section: 256 entries at most for one router (R179). -/
def Image.plansOk (m : Image) : Bool :=
  match m.plans with
  | none => false
  | some gs => gs.all m.planGroupOk && gs.all (fun g =>
      ((gs.filter (fun h => h.edge == g.edge && h.router == g.router)).flatMap PlanGroup.entries).length ≤ 256)

/-! ## Results (R184, R186) -/

/-- Bytes that the windows of a RESULTS section take from an offset on. -/
def windowsEnd (bs : List Byte) : Nat → Nat → Nat
  | o, 0 => o
  | o, n + 1 => windowsEnd bs (o + 32 + 16 * leAt bs (o + 4) 4) n

/-- Offsets of the windows of a RESULTS section. -/
def windowOffs (bs : List Byte) : Nat → Nat → List Nat
  | _, 0 => []
  | o, n + 1 => o :: windowOffs bs (o + 32 + 16 * leAt bs (o + 4) 4) n

/-- The rules of a window at an offset. -/
def windowOk (bs : List Byte) (rings : List RingDesc) (o : Nat) : Bool :=
  leAt bs o 1 ≤ 2 && leAt bs (o + 1) 1 ≤ 1 && zeroAt bs (o + 3) 1 && leAt bs (o + 8) 8 < 2 ^ 40 &&
  leAt bs (o + 16) 8 < 2 ^ 40 && 1 ≤ leAt bs (o + 24) 4 &&
  (match rings[leAt bs (o + 2) 1]? with | some d => d.kind == 1 | none => false) &&
  (leAt bs (o + 1) 1 != 0 || leAt bs 8 8 != 0) &&
  (List.range (leAt bs (o + 4) 4)).all (fun i =>
    leAt bs (o + 36 + 16 * i) 4 % 8 == 0 && zeroAt bs (o + 45 + 16 * i) 3)

/-- The rules of the RESULTS section. -/
def Image.resultsOk (m : Image) : Bool :=
  match m.sect 6 with
  | none => true
  | some e =>
    let bs := sectionBytes m e
    let n := leAt bs 0 4
    let base := leAt bs 8 8
    let log := leAt bs 16 1
    decide (64 ≤ bs.length) && 1 ≤ n && n ≤ 255 && zeroAt bs 4 4 && zeroAt bs 17 47 &&
    (if base = 0 then log == 0
     else base % 4096 == 0 && 16 ≤ log && log ≤ 32 && base + 2 ^ log ≤ dramBytes) &&
    windowsEnd bs 64 n ≤ bs.length && (windowOffs bs 64 n).all (windowOk bs m.rings)

/-! ## The controller (R188, R189, R192, R203) -/

/-- Whether the tables of a CONTROLLER section lie within it, with their counts in range. DESIGN CHOICE (log 108): an
ENERGY_POINT of 64 to 254 is refused. -/
def Ctl.shapeOk (c : Ctl) : Bool :=
  leAt c 0 4 == 0x4C544E43 && 1 ≤ c.chains && c.chains ≤ 4096 && c.pools ≤ 4096 && c.ladders ≤ 256 && c.segments ≤ 1024 &&
  c.schedules ≤ 64 && leAt c 0x0D 1 < 8 && leAt c 0x10 8 < 2 ^ 40 && 1 ≤ c.dstride && 1 ≤ c.stuckS && c.stuckS < 2 ^ 24 &&
  zeroAt c 0x22 2 && zeroAt c 0x34 12 && (c.point == 0xFF || decide (c.point < 64)) &&
  c.poolAt c.pools ≤ c.length &&
  (List.range c.ladders).all (fun j => 2 ≤ c.rungs j && c.rungs j ≤ 256 && zeroAt c (c.ladderAt j + 6) 10 &&
    zeroAt c (c.ladderAt j + 16 + 4 * c.rungs j) (c.ladderAt (j + 1) - (c.ladderAt j + 16 + 4 * c.rungs j)))

/-- The chains that a controller reads or changes β of. -/
def Ctl.movesBeta (e : ChainEntry) : Bool := e.sched != 0xFF || e.ladder != 0xFFFF

/-- The least DECIDE_TICKS (R192). -/
def Ctl.leastDecide (c : Ctl) : Nat :=
  16 + ceilDiv c.readChains.length 4 + 2 * ((List.range c.ladders).map (fun j => c.rungs j / 2)).sum +
  (c.chainTable.filter Ctl.movesBeta).length

/-- The rules of a chain table entry. -/
def Ctl.chainOk (c : Ctl) (i : Nat) : Bool :=
  let e := c.chain i
  let o := ctlChainTable + 16 * i
  zeroAt c (o + 5) 1 && leAt c (o + 7) 1 ≤ 1 && zeroAt c (o + 10) 6 &&
  (e.sched == 0xFF || e.ladder == 0xFFFF) && (e.sched == 0xFF || decide (e.sched < c.schedules)) &&
  (e.ladder == 0xFFFF || (decide (e.ladder < c.ladders) && decide (e.rung < c.rungs e.ladder)))

/-- Whether FIRST_SWEEP rises strictly. -/
def rising : List Segment → Bool
  | a :: b :: gs => decide (a.first < b.first) && rising (b :: gs)
  | _ => true

/-- The rules of the schedules. -/
def Ctl.schedulesOk (c : Ctl) : Bool :=
  (List.range c.schedules).all (fun k =>
    leAt c (c.dirAt + 4 * k) 2 + leAt c (c.dirAt + 4 * k + 2) 2 ≤ c.segments && rising (c.schedule k)) &&
  (List.range c.segments).all (fun i => (c.segment i).mode ≤ 2 && zeroAt c (c.segAt + 16 * i + 6) 2)

/-- Whether every rung of every ladder has exactly one chain. -/
def Ctl.rungsOk (c : Ctl) : Bool :=
  (List.range c.ladders).all (fun j => (List.range (c.rungs j)).all (fun r =>
    (c.chainTable.filter (fun e => e.ladder == j && e.rung == r)).length == 1))

/-- The rules of a pool (R189, R203). -/
def Ctl.poolOk (c : Ctl) (ws : List Window) (i : Nat) : Bool :=
  let p := c.pool i
  let chain := (c.chain p.chainIdx).chain
  zeroAt c (c.poolAt i + 5) 3 && zeroAt c (c.poolAt i + 12) 4 && p.base % 64 == 0 && 1 ≤ p.capacity && p.capacity ≤ 64 &&
  decide (p.chainIdx < c.chains) &&
  (match ws[p.swin]?, ws[p.ewin]? with
    | some a, some b => a.first == b.first && a.last == b.last && a.stride == b.stride &&
        a.records.any (fun r => r.chain == chain) && b.records.any (fun r => r.chain == chain)
    | _, _ => false)

/-- The rules of the mailbox and the exchange log. -/
def Ctl.placesOk (c : Ctl) (regions : List RegionReq) : Bool :=
  (c.readChains.isEmpty || (match regions[c.mailRegion]? with
    | some r => r.use == 1 && 8 * (c.mailOffset + 2 * c.chains) ≤ r.bytes
    | none => false)) &&
  (!c.exlog || (c.exlogRecords != 0 && c.exlogBase % 64 == 0 && c.exlogBase + 48 * c.exlogRecords ≤ dramBytes))

/-- The rules of a CONTROLLER section. -/
def Ctl.ok (c : Ctl) (regions : List RegionReq) (ws : List Window) : Bool :=
  c.shapeOk && (List.range c.chains).all c.chainOk && c.rungsOk && c.schedulesOk &&
  (!c.noise || c.chainTable.any ChainEntry.monitor) && (List.range c.pools).all (c.poolOk ws) && c.placesOk regions &&
  decide (c.leastDecide ≤ c.decideTicks)

/-- The windows of the RESULTS section. -/
def Image.windows (m : Image) : List Window :=
  match m.sect 6 with
  | some e => resultWindows (sectionBytes m e)
  | none => []

/-- The rules of the CONTROLLER section of an image. -/
def Image.controllerOk (m : Image) : Bool :=
  match m.sect 5 with
  | some e => Ctl.ok (sectionBytes m e) m.regionReqs m.windows
  | none => true

/-! ## Ranges of LPDDR6 (R173, R225) -/

/-- The ranges of type-7 sections. -/
def Image.ranges (m : Image) : List MemRange :=
  (m.sections.filter (fun e => e.kind == 7)).flatMap (fun e =>
    (chunks 16 (sectionBytes m e)).map (fun b => ⟨leAt b 0 8, leAt b 8 8, e.flags.testBit 0⟩))

/-! ## Leaf words (R89) -/

/-- The static rules of a control slot (R71 to R78): `w` is the word's place in the Leaf store. -/
def controlStatic (w : Nat) (x : U32) : Bool :=
  let op := fld x 31 27
  if op = 1 then fld x 0 0 == 0 && fld x 10 1 != w
  else if op = 2 then true
  else if op = 3 then fld x 25 0 == 0
  else if op = 5 then fld x 1 0 == 0
  else if op = 6 then fld x 18 0 == 0
  else if op = 7 then fld x 5 0 == 0
  else if op = 8 then fld x 8 0 == 0
  else (op == 0 || op == 4 || op == 9) && fld x 26 0 == 0

/-- The static rules of a link slot (R79). -/
def linkStatic (x : U32) : Bool :=
  let op := fld x 31 29
  if op = 0 then x == 0
  else fld x 15 0 == 0 && op ≤ 4 && (op == 2 || fld x 26 23 != 0)

/-- The static rules of a field slot: those of the word alone, not of ARR_MODE (R83, R100, R101, R105, R110). -/
def fieldStatic (x : U32) : Bool :=
  let op := fld x 31 28
  if op = 0 then x == 0
  else if op = 1 then fld x 1 0 == 0 && fld x 24 17 + fld x 16 9 + 1 ≤ 256
  else if op = 2 then
    fld x 22 20 < 5 && !(fld x 24 23 == 0 && 2 ≤ fld x 19 18) &&
    4 * fld x 12 8 + windowBytes (fld x 24 23) (fld x 22 20) (fld x 19 18) ≤ 128
  else if op = 3 then fld x 18 0 == 0
  else if op = 4 then fld x 8 0 == 0
  else op == 5 && fld x 7 0 == 0

/-- The static rules of a lane slot (R84). -/
def laneStatic (x : U32) : Bool :=
  let op := fld x 31 28
  if op = 0 then x == 0
  else fld x 4 0 == 0 && op ≤ 5 && (4 ≤ op || fld x 7 6 != 3) && (op != 2 || fld x 23 16 != 0)

/-- The static rules of a Leaf word. -/
def leafStatic (w : Nat) (b : List Byte) : Bool :=
  controlStatic w (BitVec.ofNat 32 (leAt b 12 4)) && linkStatic (BitVec.ofNat 32 (leAt b 8 4)) &&
  fieldStatic (BitVec.ofNat 32 (leAt b 4 4)) && laneStatic (BitVec.ofNat 32 (leAt b 0 4))

/-! ## Segments (R174 to R177) -/

/-- A segment of an image. -/
structure Seg where
  id     : Nat
  target : Nat
  dest   : Nat
  len    : Nat
  index  : Nat
  rsvd   : Bool
  crcOk  : Bool
  data   : List Byte
deriving DecidableEq, Repr

/-- A segment from its 4,128 bytes; its CRC covers header and payload field. -/
def Seg.ofBytes (b : List Byte) : Seg :=
  { id := leAt b 0 4, target := leAt b 4 4, dest := leAt b 8 4, len := leAt b 12 2, index := leAt b 14 1
    rsvd := zeroAt b 15 13, crcOk := (crc32c (b.take 28 ++ slice b 32 4096)).toNat == leAt b 28 4
    data := slice b 32 (leAt b 12 2) }

/-- TARGET mode: 0 CORE, 1 ALL, 2 CLASS, 3 SLICE. -/
def Seg.mode (g : Seg) : Nat := bitsN g.target 31 30
/-- TARGET n. -/
def Seg.n (g : Seg) : Nat := bitsN g.target 29 16
/-- TARGET value. -/
def Seg.value (g : Seg) : Nat := bitsN g.target 13 0

/-- Bytes that one core takes of a segment (R174). -/
def Seg.pieceLen (g : Seg) : Nat := if g.mode = 3 then g.len / max 1 g.n else g.len

/-- What the core of an index takes of a segment that reaches it. -/
def Seg.piece (g : Seg) (core : Nat) : List Byte :=
  if g.mode = 3 then slice g.data ((core - g.value) * g.pieceLen) g.pieceLen else g.data

/-- Whether a segment reaches the core of an index with a class, none before its class-map entry (R174, R175). -/
def Seg.reaches (g : Seg) (core : Nat) (cls : Option Nat) : Bool :=
  if g.mode = 0 then core == g.value
  else if g.mode = 1 then true
  else if g.mode = 2 then cls == some g.value
  else g.value ≤ core && core < g.value + g.n

/-- DEST of the set-up record. -/
abbrev setupDest : Nat := 0x40000
/-- DEST of the class-map entry. -/
abbrev classDest : Nat := 0x41000

/-- The reserved fields of the set-up registers in a set-up record (R92). -/
def setupOk (b : List Byte) : Bool :=
  leAt b 0x18 8 == bitsN (leAt b 0x18 8) 9 0 + bitsN (leAt b 0x18 8) 25 16 * 2 ^ 16 && leAt b 0x20 8 < 3 &&
  (List.range 16).all (fun k => let v := leAt b (0x40 + 8 * k) 8
                                bitsN v 15 14 == 0 && bitsN v 31 30 == 0 && bitsN v 47 46 == 0) &&
  (List.range 8).all (fun k => bitsN (leAt b (0xC0 + 16 * k) 8) 63 40 == 0)

/-- The rules of what a core takes at a DEST. -/
def pieceOk (dest : Nat) (b : List Byte) : Bool :=
  if dest = setupDest then setupOk b
  else if dest = classDest then leAt b 0 4 < 2 ^ 18
  else if 0x24000 ≤ dest then
    ((chunks 16 b).zipIdx).all (fun x => leafStatic ((dest - 0x24000) / 16 + x.2) x.1)
  else true

/-- Whether a DEST takes pieces of a length from a segment: the core window without its accumulator memory, a set-up
record, or the class map by SLICE with INDEX 0. -/
def Seg.destOk (g : Seg) : Bool :=
  let n := g.pieceLen
  if g.dest = setupDest then n ≤ 352
  else if g.dest = classDest then g.mode == 3 && g.index == 0 && n == 4
  else g.dest % 64 == 0 && (g.dest + n ≤ 0x20000 || (decide (0x24000 ≤ g.dest) && g.dest + n ≤ 0x28000))

/-- The rules of a segment of a partition of some cores. -/
def Seg.ok (g : Seg) (cores : Nat) : Bool :=
  targetOk g.target g.len && (g.mode != 0 || decide (g.value < cores)) && (g.mode != 2 || g.value ≤ 0xFFF) &&
  (g.mode != 3 || g.value + g.n ≤ cores) && g.rsvd && 1 ≤ g.len && g.len ≤ 4096 && g.index ≤ 63 && g.destOk &&
  (if g.mode = 3 then (List.range g.n).all (fun k => pieceOk g.dest (g.piece (g.value + k)))
   else pieceOk g.dest g.data)

/-- The segments of an image. -/
def Image.segments (m : Image) : List Seg := (m.records 1 4128).map Seg.ofBytes

/-- The cores of an image's shape. -/
def Image.cores (m : Image) : Nat := 128 * m.qrows * m.qcols

/-- Whether no number stands twice in a list. -/
def distinct : List Nat → Bool
  | [] => true
  | x :: xs => !xs.contains x && distinct xs

/-! ## Step 1 -/

/-- Whether the image stages its broadcast for a partition at q of some quire-columns: a USE 6 region in the buffer of
every side that the partition holds (R180). -/
def Image.stages (m : Image) (q cols : Nat) : Bool :=
  (q % 8 > 3 || m.regionReqs.any (fun r => r.use == 6 && r.buffer == 2)) &&
  (q % 8 + cols ≤ 4 || m.regionReqs.any (fun r => r.use == 6 && r.buffer == 3))

/-- Whether an image passes step 1 of R180 for a partition at q, on a module, with or without a run seed in the
descriptor. -/
def Image.ok (m : Image) (own q cols : Nat) (seed : Bool) : Bool :=
  decide (256 ≤ m.length) && m.headerOk && m.sectionsOk && m.regionReqs.all RegionReq.ok && m.rings.length ≤ 32 &&
  (m.records 3 32).all (m.ringOk own) && m.plansOk && m.resultsOk && m.controllerOk &&
  m.ranges.length ≤ 64 &&
  distinct (m.segments.map Seg.id) && m.segments.all (fun g => g.ok m.cores) && m.stages q cols && (!m.det || seed)

end Sys2Proof.Machine
end

