-- ==== Sys2Proof/Machine/Regions.lean ====
section
/-! DEFINITION. The allocator of edge-buffer regions (R161 to R163). -/

namespace Sys2Proof.Machine

/-- Whether a region register holds a region that stands, the regions of partition `old` taken as free. -/
def regionStands (old : Nat) (v : U64) : Bool := bit v 31 && fld v 22 16 != old

/-- Whether some blocks of a buffer meet no region that stands. -/
def State.blocksFree (s : State) (old b first blocks : Nat) : Bool :=
  (List.range 32).all (fun k =>
    let v := s.regionReg b k
    !regionStands old v || !meets first (blocks + 1) (fld v 7 0) (fld v 15 8 + 1))

/-- The lowest free entry of a buffer. -/
def State.freeEntry (s : State) (old b : Nat) : Option Nat :=
  (List.range 32).find? (fun k => !regionStands old (s.regionReg b k))

/-- A region register. -/
def regionWord (first blocks owner use : Nat) : U64 :=
  BitVec.ofNat 64 (first + blocks * 2 ^ 8 + owner * 2 ^ 16 + use * 2 ^ 24 + 2 ^ 31)

/-- One region allocated at given blocks: the state and its entry; none when it is refused (R162). -/
def State.allocAt (s : State) (old b first blocks owner use : Nat) : Option (State × Nat) :=
  if s.blocksFree old b first blocks then
    (s.freeEntry old b).map (fun k =>
      (s.setReg (Reg.arrEbregion (b * 32 + k)) (regionWord first blocks owner use), k))
  else none

/-- A region register cleared. -/
def State.freeAt (s : State) (b k : Nat) : State := s.setReg (Reg.arrEbregion (b * 32 + k)) 0

/-- Whether a Gatehouse-owned region is in use: hall staging while a connection stands, host staging while a descriptor
runs (R163, log 45). -/
def State.stagingBusy (s : State) (use : Nat) : Bool :=
  if use = 5 then s.descs.any (fun d => d.phase == .running) || s.parts.any (fun e => e.2.drain.staged.isSome)
  else s.hall.conns.any (fun e => e.2.state == .opening || e.2.state == .opened)

end Sys2Proof.Machine
end

