-- ==== Sys2Proof/Machine/Load.lean ====
section
/-! DEFINITION. LOAD_BINDING: its checks, the segments that cores receive, the repair rounds and the completion of a load
(R92, R175 to R183, R195, R200, R204, R214). -/

namespace Sys2Proof.Machine

/-! ## Regions (R162, R163, R179) -/

/-- The lowest free run of a request's blocks in its buffer, clear of blocks taken: buffer, first block and blocks less
one. -/
def State.lowestRun (s : State) (old : Nat) (taken : List (Nat × Nat × Nat)) (r : RegionReq) : Option Nat :=
  (List.range (256 - r.blocks)).find? (fun f => s.blocksFree old r.buffer f r.blocks &&
    taken.all (fun t => t.1 != r.buffer || !meets f (r.blocks + 1) t.2.1 (t.2.2 + 1)))

/-- The first blocks of some requests in order; none when one finds no free run. -/
def State.placeRest (s : State) (old : Nat) : List (Nat × Nat × Nat) → List RegionReq → Option (List Nat)
  | _, [] => some []
  | taken, r :: rs =>
    if r.fixed then (s.placeRest old taken rs).map (r.first :: ·)
    else match s.lowestRun old taken r with
      | none => none
      | some f => (s.placeRest old ((r.buffer, f, r.blocks) :: taken) rs).map (f :: ·)

/-- The first blocks of an image's requests: every FIXED request is placed first, then the others in the order of the
section (R179). The regions of partition q count as free. -/
def State.placeRegions (s : State) (q : Nat) (rs : List RegionReq) : Option (List Nat) :=
  s.placeRest q ((rs.filter RegionReq.fixed).map (fun r => (r.buffer, r.first, r.blocks))) rs

/-- The requests allocated one after another; none when one is refused. -/
def State.allocAll (s : State) (q : Nat) : List (RegionReq × Nat) → Option (State × List Region)
  | [] => some (s, [])
  | (r, f) :: rs =>
    match s.allocAt 128 r.buffer f r.blocks q r.use with
    | none => none
    | some (t, k) => (t.allocAll q rs).map (fun x => (x.1, ⟨r.buffer, f, r.blocks, r.use, k⟩ :: x.2))

/-! ## The checks (R180) -/

/-- Whether RELOC is 0 and a quire of the rectangle at BASE_QUIRE is retired. -/
def State.baseRetired (s : State) (m : Image) : Bool :=
  !m.reloc && s.boot.retired.any (fun x => inRect m.base m.qrows m.qcols x)

/-- The chains that other partitions carry under a digest. -/
def State.chainsUnder (s : State) (q : Nat) (dig : List Byte) : Nat :=
  (s.parts.map (fun e => match e.2.binding with
    | some b => if e.1 ≠ q ∧ e.2.streams ∧ b.digest = dig then b.chains else 0
    | none => 0)).sum

/-- The edges that the rectangle of partition q touches, in the bits of EDGES (R178). -/
def touched (q rows cols : Nat) : Nat :=
  bitsFrom ([(q / 8 == 0, 0), (q / 8 + rows == 12, 1), (q % 8 == 0, 2), (q % 8 + cols == 8, 3)].filterMap (fun x =>
    if x.1 then some x.2 else none))

/-- Whether an image fits the shape and place of partition q. -/
def Image.fits (m : Image) (q : Nat) (p : Partition) : Bool :=
  p.qrows == m.qrows && p.qcols == m.qcols && (m.reloc || q == m.base) &&
  m.edges &&& touched q p.qrows p.qcols == m.edges

/-- The digest of an image, its digest field taken as zero (R172). -/
def Image.computed (m : Image) : List Byte := shake256_256 (overlay m 0x40 (zeros 32))

/-- Whether a range meets the LPDDR6 of a side that bring-up disabled (R250). -/
def State.onBadSide (s : State) (a n : Nat) : Bool :=
  (s.boot.badSides.getD 0 false && meets a n 0 0x1800000000) ||
  (s.boot.badSides.getD 1 false && meets a n 0x1800000000 (dramBytes - 0x1800000000))

/-- Whether a ring or a type-7 range of an image names a failed side (R250). -/
def State.namesBadSide (s : State) (m : Image) : Bool :=
  m.rings.any (fun d => d.endpoint == 0 && s.onBadSide d.addr (d.groups * 4096)) ||
  m.ranges.any (fun r => s.onBadSide r.addr r.len)

/-- The first failure of steps 2 to 5 of R180; none when they pass. A failed side counts as capacity (R250). -/
def State.loadStatus (s : State) (q : Nat) (m : Image) : Option Nat :=
  let p := s.part q
  let st := s.partStateCode q
  if (3 ≤ st ∧ st ≤ 5) ∨ m.det ≠ s.det then some stRefused
  else if s.baseRetired m ∨ 4096 < m.chains + s.chainsUnder q m.digest ∨ (s.placeRegions q m.regionReqs).isNone ∨
      s.namesBadSide m then some stCapacity
  else if !m.fits q p then some stGeometry
  else if m.computed ≠ m.digest then some stMismatch
  else none

/-- Step 6: the key of the controller's draws, for a free-mode load without a run seed (R180, R200, R349). -/
inductive KeyStep where
  | key (k : Option (List Byte)) (s : State)
  | fails (status : Nat)
  | waits

/-- Step 6 of R180. -/
def State.keyStep (s : State) (m : Image) (seed : Option (List Byte)) : KeyStep :=
  if m.det ∨ seed.isSome then .key none s
  else if s.ent.state = .off then .fails stNotReady
  else if s.ent.state = .fatal then .fails stEntropyFailed
  else match s.takeFor .keying 32 with
    | some (k, t) => .key (some k) t
    | none => .waits

/-! ## The Binding of an image -/

/-- The absolute index of a plan group's router for the partition at q (R179). -/
def routerIndex (q edge router : Nat) : Nat := if edge ≤ 1 then q % 8 * 16 + router else q / 8 * 8 + router

/-- The plan of one group, its addresses moved to its region (R179). -/
def PlanGroup.plan (g : PlanGroup) (q : Nat) (regions : List Region) : RouterPlan :=
  let base := match regions[g.region]? with | some r => r.first * 8192 | none => 0
  { edge := Edge.ofCode g.edge, router := routerIndex q g.edge g.router
    entries := g.entries.map (fun b => PlanEntry.ofBytes b g.region base) }

/-- What is kept of an image on the partition at q. -/
def Image.binding (m : Image) (q : Nat) (regions : List Region) : Binding :=
  { digest := m.digest, flags := m.flags, chains := m.chains, regions := regions
    plans := (m.plans.getD []).map (fun g => g.plan q regions), rings := m.rings
    control := (m.sect 5).map (sectionBytes m), results := (m.sect 6).map (sectionBytes m), ranges := m.ranges
    weights := (m.sections.filter (fun e => e.flags.testBit 0 && e.kind != 7)).map (fun e => itemOf (sectionBytes m e)) }

/-! ## The start of the broadcast -/

/-- A core as a load finds it: EMPTY, without receipts. -/
def CoreState.toLoad (c : CoreState) : CoreState :=
  { mode := .empty, absorb := c.absorb, linkBad := c.linkBad, linkDown := c.linkDown }

/-- The remote streams of a partition's rings removed. -/
def State.dropStreams (s : State) (q : Nat) : State :=
  { s with hall := { s.hall with streams := s.hall.streams.filter (fun x =>
      match x.part with | some (p, _) => p != q | none => true) } }

/-- Whether an address lies in the tile memory of a core of some cores. -/
def inTiles (cores : List Nat) (a : Nat) : Bool :=
  decide (0x4000000000 ≤ a ∧ (windowOf a).2 < 0x1E000) && cores.contains (windowOf a).1

/-- The tile memory of some cores zeroed: a unit that the Binding gives no state holds 0, −1 or +0.0, all of which are
stored as zeros (R34, log 115). -/
def State.clearTiles (s : State) (cores : List Nat) : State :=
  { s with mem := s.mem.filter (fun e => !inTiles cores e.1)
           sramErr := s.sramErr.filter (fun e => !inTiles cores (e.1 * 8)) }

/-- The broadcast starts: the previous Binding is gone, the cores are EMPTY, and their tile memory holds the initial states
of units that get none (R34, R180, R182). -/
def State.startLoad (s : State) (q : Nat) (l : Load) (b : Binding) : State :=
  let s := (s.partCores q).foldl (fun t n => t.updCore n CoreState.toLoad) ((s.dropStreams q).clearTiles (s.partCores q))
  (s.setReg (Reg.prtLoadstat q) 127).updPart q (fun p => { p with
    run := .empty, binding := some b, load := some l, rings := [], ctl := {}, colo := {}, edgeOut := [] })

/-- The image that a LOAD_BINDING names: the status of a failure, or the image; with the state after its reads. -/
def State.readImage (s : State) (q a : Nat) : Except Nat Image × State :=
  if !s.inDram a 256 then (.error stBad, s)
  else
    let t := s.dramRead q a 256
    let n := leAt (s.rd a 256) 0x10 8
    if (s.dramUe a 256).isSome then (.error stFaulted, t)
    else if leAt (s.rd a 6) 0 6 ≠ 0x0001444E4250 ∨ n < 256 ∨ !s.inDram a n then (.error stBad, t)
    else if (s.dramUe a n).isSome then (.error stFaulted, s.dramRead q a n)
    else (.ok (s.rd a n), s.dramRead q a n)

/-- LOAD_BINDING: the checks in their order, and the start of the broadcast (R180, R214). -/
def execLoadBinding (d : DescRef) (s : State) : Out :=
  .next (match s.begun d 1 with
    | none => s
    | some x =>
      let q := d.ring.val
      if (s.part q).load.isSome then s
      else
        let seed := if (x.arg 0x18 1).testBit 0 then some (slice x.bytes 0x20 32) else none
        match s.readImage q (x.arg 0x10 8) with
        | (.error st, t) => t.complete d st 0 0
        | (.ok m, t) =>
          if !m.ok s.device q (s.part q).qcols seed.isSome then t.complete d stBad 0 0
          else match t.loadStatus q m with
            | some st => t.complete d st 0 0
            | none =>
              match t.keyStep m seed with
              | .waits => s
              | .fails st => t.complete d st 0 0
              | .key k u =>
                let firsts := (u.placeRegions q m.regionReqs).getD []
                match (u.freeRegions q).allocAll q (m.regionReqs.zip firsts) with
                | none => u.complete d stConflict 0 0
                | some (v, regions) =>
                  v.startLoad q { desc := d, image := m, since := s.mc, seed := seed, key := k, gone := m.segments.isEmpty }
                    (m.binding q regions))

/-! ## Segments at a core (R175 to R177) -/

/-- The index of a core in partition q (R174). -/
def State.coreIndex (s : State) (q n : Nat) : Nat :=
  (n / 128 - q / 8 * 8) * (16 * (s.part q).qcols) + (n % 128 - q % 8 * 16)

/-- The class that the image's class map gives a core. -/
def Image.classOf (m : Image) (core : Nat) : Option Nat :=
  (m.segments.find? (fun g => g.dest == classDest && g.reaches core none)).map (fun g => leAt (g.piece core) 0 4 % 2 ^ 12)

/-- The core with its class-map entry (R175). -/
def CoreState.takeEntry (c : CoreState) (entry : Nat) : CoreState :=
  { c with expect := some (bitsN entry 17 12 + 1), class_ := bitsN entry 11 0 }

/-- A set-up record written to a core's set-up registers (R176, R91). -/
def State.writeSetup (s : State) (n : Nat) (b : List Byte) : State :=
  let put (t : State) (off k : Nat) : State := t.setReg off (BitVec.ofNat 64 (leAt b k 8))
  let s := put (put s (Reg.coreEntry n) 0x18) (Reg.coreLanecfg n) 0x20
  let s := (List.range 16).foldl (fun t k => put t (Reg.corePtr n k) (0x40 + 8 * k)) s
  let s := (List.range 8).foldl (fun t k =>
    put (put t (Reg.coreIdreg n k) (0xC0 + 16 * k)) (Reg.coreIdreg n k + 8) (0xC8 + 16 * k)) s
  (List.range 4).foldl (fun t k => put t (Reg.coreOutprof n k) (0x140 + 8 * k)) s

/-- What an accepted segment writes in a core. -/
def State.writePayload (s : State) (n : Nat) (g : Seg) (core : Nat) : State :=
  if g.dest = setupDest then s.writeSetup n (padTo 352 (g.piece core))
  else if g.dest = classDest then s
  else s.wrSram n (coreBase n + g.dest) (g.piece core)

/-- The core takes a segment when its CRC is good, its INDEX below E and its receipt bit clear; any other segment is
discarded unwritten (R177). -/
def State.takeSegment (s : State) (n core : Nat) (g : Seg) (good : Bool) : State :=
  let x := s.core n
  let y := if g.dest = classDest ∧ x.expect.isNone then x.takeEntry (leAt (g.piece core) 0 4) else x
  if good && decide (g.index < y.expect.getD 0) && !x.receipts.contains g.index then
    (s.setCore n { y with receipts := g.index :: x.receipts }).writePayload n g core
  else s

/-- The halves of a row whose channels a partition's cores lie on: west for logical columns 0 to 63, east for the rest. -/
def sides (q cols : Nat) : Bool × Bool := (decide (q % 8 ≤ 3), decide (4 < q % 8 + cols))

/-- Whether two partitions have cores on one row-half channel (R181). -/
def State.shareChannel (s : State) (q r : Nat) : Bool :=
  let a := s.part q
  let b := s.part r
  meets (q / 8) a.qrows (r / 8) b.qrows &&
  (((sides q a.qcols).1 && (sides r b.qcols).1) || ((sides q a.qcols).2 && (sides r b.qcols).2))

/-- Whether a load arrived before another: by Gatehouse cycle, and within one port A first (R162, R181). -/
def Load.before (l m : Load) : Bool :=
  decide (l.since < m.since) || (l.since == m.since && (decide (l.desc.port.num < m.desc.port.num) ||
    (l.desc.port == m.desc.port && decide (l.desc.ring.val < m.desc.ring.val))))

/-- Whether a load waits for an earlier load on one of its row-half channels (R181). -/
def State.loadWaits (s : State) (q : Nat) (l : Load) : Bool :=
  s.partIds.any (fun r => r != q && s.shareChannel q r && (match (s.part r).load with
    | some m => m.before l
    | none => false))

/-- The bytes of a segment as the image holds it. -/
def Image.segmentBytes (m : Image) (i : Nat) : List Byte := ((m.records 1 4128)[i]?).getD []

/-- The loader stages a segment in the USE 6 region of a side's buffer (R181); its place in the region is the model's choice
(log 114): the region is a ring of whole segments. -/
def State.stageSegment (s : State) (q side i : Nat) (bytes : List Byte) : State :=
  match (s.part q).binding with
  | none => s
  | some b =>
    match b.regions.find? (fun r => r.use == 6 && r.buffer == side) with
    | some r => s.bufferWrite side (r.first * 0x10000 + i % ((r.blocks + 1) * 0x10000 / 4128) * 4128) bytes
    | none => s

/-- Whether the broadcast of some segments has gone past every core that they reach. -/
def Load.broadcastOver (l : Load) : Bool :=
  ((Image.segments l.image).zipIdx.reverse).all (fun e => (List.range (Image.cores l.image)).all (fun k =>
    decide (e.2 < Table.look (fun _ => 0) l.places k) || !e.1.reaches k (Image.classOf l.image k)))

/-- Whether a segment may come past a core now: of the broadcast, in SEGMENTS order (R181); of a repair round, when its resend
to the core is still to go out (R182). -/
def Load.comes (l : Load) (core seg : Nat) : Bool :=
  if l.round = 0 then decide (Table.look (fun _ => 0) l.places core ≤ seg) else l.resend.contains (core, seg)

/-- The load after a segment has come past a core. -/
def Load.past (l : Load) (core seg : Nat) : Load :=
  if l.round = 0 then
    let l := { l with places := Table.put (fun _ => 0) l.places core (seg + 1) }
    { l with gone := l.broadcastOver }
  else
    let rest := l.resend.filter (· != (core, seg))
    { l with resend := rest, gone := rest.isEmpty }

/-- Whether a segment of the broadcast reaches a core, or a resend, which goes in CORE mode to the core that lacks it with a
CRC of its own (R177, R182). -/
def Load.sends (l : Load) (g : Seg) (core : Nat) (c : CoreState) : Bool :=
  if l.round = 0 then g.reaches core (c.expect.map (fun _ => c.class_)) && g.crcOk
  else g.reaches core (Image.classOf l.image core)

/-- SEGMENT_RECEIVE: a segment of the load in progress comes past a core, with a good CRC or not, in SEGMENTS order or as a
resend of the present round; the core takes it by R177. While an earlier load holds one of its channels, none comes (R181). -/
def execSegmentReceive (c : CoreId) (seg : Nat) (good : Bool) (s : State) : Out :=
  .next (match s.partOfCore c with
    | none => s
    | some q =>
      match (s.part q).load with
      | none => s
      | some l =>
        match (Image.segments l.image)[seg]? with
        | none => s
        | some g =>
          let core := s.coreIndex q c
          if s.loadWaits q l || !l.comes core seg then s
          else
            let s := s.stageSegment q (if c.val % 128 < 64 then 2 else 3) seg (Image.segmentBytes l.image seg)
            let s := s.updPart q (fun p => { p with load := some (l.past core seg) })
            s.takeSegment c core g (good && l.sends g core (s.core c)))

/-! ## Repair (R182) -/

/-- The receipt indices a core lacks; before its class-map entry, the entry's. -/
def CoreState.absent (c : CoreState) : List Nat :=
  match c.expect with
  | none => [0]
  | some e => (List.range e).filter (fun i => !c.receipts.contains i)

/-- The segment of a core with a receipt index, and its place in SEGMENTS; before its class-map entry, the segment that
carries the entry. -/
def Image.segmentFor (m : Image) (core i : Nat) (entry : Bool) : Option (Seg × Nat) :=
  m.segments.zipIdx.find? (fun g => g.1.index == i && g.1.reaches core (m.classOf core) && (entry || g.1.dest == classDest))

/-- The cores that lack segments, with their partition-relative indices, each with the segments it lacks; none where the image
has no such segment. -/
def State.lacking (s : State) (q : Nat) (m : Image) : List ((Nat × Nat) × List (Option (Seg × Nat))) :=
  ((s.partCores q).zipIdx.filter (fun e => !(s.core e.1).complete)).map (fun e =>
    (e, (s.core e.1).absent.map (fun i => m.segmentFor e.2 i (s.core e.1).expect.isSome)))

/-- A load ends PARTIAL: every absent segment is reported, the partition is marked faulted and stays EMPTY, and the cores
that have everything are loaded (R182, R183). -/
def State.failLoad (s : State) (q : Nat) (l : Load) : State :=
  let bad := s.lacking q l.image
  let s := bad.foldl (fun t e => e.2.foldl (fun u g =>
    u.report e.1.1 0x90 ((g.map (fun x => x.1.id)).getD 0) (u.coreTag e.1.1)) t) s
  let quires := bad.map (fun e => quireOf e.1.1)
  let low := quires.foldl min 127
  let s := (s.setRf (Reg.prtLoadstat q) 6 0 low).setRf (Reg.prtLoadstat q) 15 8 (min 255 bad.length)
  let s := (s.partCores q).foldl (fun t n => t.updCore n (fun c =>
    if c.complete then { c with mode := .loaded, absorb := false } else c)) s
  (s.updPart q (fun p => { p with load := none, binding := none, faulted := true })).complete l.desc stPartial low 0

/-- The resends of a repair round: each core's absent segments. -/
def resendsOf (bad : List ((Nat × Nat) × List (Option (Seg × Nat)))) : List (Nat × Nat) :=
  bad.flatMap (fun e => e.2.filterMap (fun g => g.map (fun x => (e.1.2, x.2))))

/-- LOAD_REPAIR_ROUND: 40 ac after the broadcast or a round has ended, absent segments are sent again; after the second round
each is reported (R182). -/
def execLoadRepairRound (q : QuireId) (s : State) : Out :=
  .next (match (s.part q).load with
    | none => s
    | some l =>
      let bad := s.lacking q l.image
      if bad.isEmpty || !l.gone || l.quiet < 40 then s
      else if l.round < 2 then
        let again := resendsOf bad
        ((s.setRf (Reg.prtLoadstat q) 17 16 (l.round + 1)).count (Reg.prtLoadstat q) 63 32 again.length).updPart q
          (fun p => { p with load := some { l with
            round := l.round + 1, resend := again, gone := again.isEmpty, quiet := 0 } })
      else s.failLoad q l)

/-! ## Completion (R92, R183, R195, R204) -/

/-- The live state that the set-up registers give a core (R92). -/
def State.setupLive (s : State) (n : Nat) : CoreLive :=
  { ptr := (List.range 16).foldl (fun t k => Table.put (fun _ => 0) t k ((s.rf (Reg.corePtr n k) 13 0 : Nat) : Int)) []
    ids := (List.range 8).foldl (fun t k => Table.put (fun _ => ({} : IdReg)) t k (s.setupId n k)) [] }

/-- A core enters LOADED with a live state; words reach it again. -/
def CoreState.installed (c : CoreState) (l : CoreLive) : CoreState :=
  { mode := .loaded, live := l, next := l, linkBad := c.linkBad, linkDown := c.linkDown,
    receipts := c.receipts, expect := c.expect, class_ := c.class_ }

/-- The rings as a load leaves them: a deliver ring empty, a collect ring free (R443). -/
def freshRings (rings : List RingDesc) : Table RingRun :=
  (rings.zipIdx).foldl (fun t e => Table.put (fun _ => ({} : RingRun)) t e.2
    { fill := if e.1.kind = 1 then e.1.bytes else 0 }) []

/-- The rung maps at load (R198). -/
def Ctl.firstRungs (c : Ctl) : List (List Nat) :=
  (List.range c.ladders).map (fun j => (List.range (c.rungs j)).map (fun r =>
    ((List.range c.chains).find? (fun i => (c.chain i).ladder == j && (c.chain i).rung == r)).getD 0))

/-- The header of a pool at load (R204). -/
def poolHeader (e : PoolEntry) (chain : Nat) : List Byte :=
  leBytes 4 0x4C4F4F50 ++ leBytes 4 chain ++ leBytes 1 e.capacity ++ zeros 3 ++ leBytes 4 e.stateBytes ++ zeros 48

/-- The remote streams of a Binding's rings, from the image's hall stream records (R270). -/
def streamsOf (m : Image) (q : Nat) : List Stream :=
  ((m.rings.zipIdx).filter (fun e => e.1.endpoint == 2)).map (fun e =>
    let r := HallRecord.ofBytes (slice m e.1.addr 32)
    { peer := r.peer, id := r.id, part := some (q, e.2), kind := r.kind, send := e.1.kind == 1, remote := r.remote
      length := r.length })

/-- The partition with a freshly loaded Binding (R28, R183, R196, R214). -/
def Partition.loadedWith (p : Partition) (b : Binding) (l : Load) : Partition :=
  { p with
    run := .loaded, faulted := false, point := 3, tick := 0, lead := 0, sweep := 0, epoch := 0, barrier := none, hold := none
    freezeAt := none, froze := false, faultHold := false, stopLine := false, stopped := false, resumeIn := none, seed := l.seed, load := none
    rings := freshRings b.rings, tables := [], offers := [], edgeOut := [], inTick := false, issued := false
    ctl := { rungs := match b.control with | some c => Ctl.firstRungs c | none => [], key := l.key }
    drain := { hHead := p.drain.hHead, hTail := p.drain.hTail }, colo := {} }

/-- The live β that LOAD_BINDING leaves: of sweep 0 for scheduled chains, of its rung for a ladder chain (R195). -/
def State.loadBetas (s : State) (q : Nat) (b : Binding) : State :=
  match b.control with
  | some c => s.setBetas q (betasFor c (Ctl.firstRungs c) 0)
  | none => s

/-- The load of a partition completes. -/
def State.finishLoad (s : State) (q : Nat) (l : Load) (b : Binding) : State :=
  let s := (s.partCores q).foldl (fun t n => t.updCore n (fun c => c.installed (t.setupLive n))) s
  let s := s.updPart q (fun p => p.loadedWith b l)
  let s := s.loadBetas q b
  let s := b.poolList.foldl (fun t e => t.wrDram q e.2.1.base (poolHeader e.2.1 e.2.2)) s
  let s := { s with hall := { s.hall with streams := s.hall.streams ++ streamsOf l.image q } }
  s.complete l.desc stDone 0 0

/-- LOAD_COMPLETE: when every core drives LOADED, the load is done (R183). -/
def execLoadComplete (q : QuireId) (s : State) : Out :=
  .next (match (s.part q).load, (s.part q).binding with
    | some l, some b => if (s.partCores q).all (fun n => (s.core n).complete) then s.finishLoad q l b else s
    | _, _ => s)

end Sys2Proof.Machine
end

