-- ==== Sys2Proof/Machine/Local.lean ====
section
/-! DEFINITION. Reads and writes of the local address space from outside a Binding: by BAR4, COPY, FILL, hall streams and
the Gatehouse (R24, R65, R234, R293, R424, R442). -/

namespace Sys2Proof.Machine

/-! ## Core windows (R65, R442) -/

/-- A write from outside the Binding into a core's window (R65): discarded and counted while the core's partition runs, is
held or waits at a barrier; carried out otherwise, which the Colophons of the partition report (R226). -/
def State.windowWrite (s : State) (n off : Nat) (bs : List Byte) : State :=
  let busy := match s.partOfCore n with
    | some q => decide (3 ≤ s.partStateCode q ∧ s.partStateCode q ≤ 5)
    | none => false
  let bs := bs.take (0x28000 - off)
  if busy then s.count (Reg.coreStatus n) 47 32 1
  else if bs.isEmpty then s
  else
    let s := s.wrSram n (coreBase n + off) bs
    match s.partOfCore n with
    | some q => s.updPart q (fun p => { p with colo := { p.colo with window := true } })
    | none => s

/-- A read through a core's window checks each granule (R442); none when a granule has a double-bit error, which stops no
core. -/
def State.windowRead (s : State) (n off len : Nat) : Option (List Byte) × State :=
  let a := coreBase n + off
  let s1 := s.reportCe n (s.sramCe a len)
  match s.sramUe a len with
  | some g => (none, s1.report n 0x11 (g * 8 - coreBase n) (s.coreTag n))
  | none => (some (s.rd a len), s1)

/-! ## Local accesses -/

/-- Register bytes read without side effects, by 8 B units (R424). -/
def State.regBytes (s : State) (off n : Nat) : List Byte :=
  slice ((List.range ((off % 8 + n + 7) / 8)).flatMap (fun i => leBytes 8 (s.regSeen .bar4 (off / 8 * 8 + 8 * i)).toNat))
    (off % 8) n

/-- A local read that lies within one 64 B access: the bytes, or none where a check fails (R24, R234, R442). -/
def State.readPiece (s : State) (tag a n : Nat) : Option (List Byte) × State :=
  match s.place a with
  | .dram =>
    let t := s.dramRead tag a n
    if (s.dramUe a n).isSome then (none, t) else (some (s.rd a n), t)
  | .core c off => s.windowRead c off n
  | .buffer b off =>
    let r := s.bufferRead b off n
    (if r.1.isSome then none else some r.2.1, r.2.2)
  | .reg off => (some (s.regBytes off n), s)
  | .nowhere => (some (zeros n), s)

/-- The pieces of a range: first byte and length of each part within one 64 B access. -/
def pieces (a n : Nat) : List (Nat × Nat) :=
  (accesses a n).map (fun k => (max a (64 * k), min (a + n) (64 * k + 64) - max a (64 * k)))

/-- Pieces read in order up to the first that fails. -/
def State.readPieces (s : State) (tag : Nat) : List (Nat × Nat) → List Byte × Option Nat × State
  | [] => ([], none, s)
  | (a, n) :: ps =>
    match s.readPiece tag a n with
    | (none, t) => ([], some a, t)
    | (some bs, t) =>
      let r := t.readPieces tag ps
      (bs ++ r.1, r.2.1, r.2.2)

/-- A local read (R24): the bytes before the first failing access, the failing address if any, and the state after it. -/
def State.localRead (s : State) (tag a n : Nat) : List Byte × Option Nat × State := s.readPieces tag (pieces a n)

/-- A local write that lies within one 64 B access (R24, R65, R424): writes into the register space and into reserved parts
are discarded. -/
def State.writePiece (s : State) (tag a : Nat) (bs : List Byte) : State :=
  match s.place a with
  | .dram => s.wrDram tag a bs
  | .core c off => s.windowWrite c off bs
  | .buffer b off => s.bufferWrite b off bs
  | .reg _ => s
  | .nowhere => s

/-- A local write by BAR4, a data mover or the Gatehouse. -/
def State.localWrite (s : State) (tag a : Nat) (bs : List Byte) : State :=
  (pieces a bs.length).foldl (fun t p => t.writePiece tag p.1 (slice bs (p.1 - a) p.2)) s

/-! ## Commands -/

/-- WINDOW_WRITE: a write from outside the Binding into a core window (R65). -/
def execWindowWrite (c : CoreId) (off : BitVec 18) (bytes : List Byte) (s : State) : Out :=
  .next (s.windowWrite c off.toNat bytes)

/-- The local address that BAR4 offset 0 of a port reaches (R293). -/
def State.bar4Base (s : State) (p : Port) : Nat := s.rf (Reg.hstPortcfg p.num) 17 0 * 2 ^ 36

/-- BAR4_ACCESS: an access to the BAR4 window acts as the local access it maps to (R293); a read that meets an
uncorrectable error returns no data (Completer Abort), and so does every access without BAR4 or in a sleep state
(R406). -/
def execBar4Access (p : Port) (off : BitVec 36) (acc : BusAccess) (s : State) : Out :=
  if !s.boot.bar4 || s.asleep then .next { s with readBytes := [] }
  else
    let a := s.bar4Base p + off.toNat
    match acc with
    | .read n =>
      let r := s.localRead 127 a n
      .next { r.2.2 with readBytes := if r.2.1.isSome then [] else r.1 }
    | .write bs => .next (s.localWrite 127 a bs)

end Sys2Proof.Machine
end

