-- ==== Sys2Proof/Machine/Mcast.lean ====
section
/-! DEFINITION. What a multicast source sends (R287, R288). -/

namespace Sys2Proof.Machine

/-- Object bytes of one MDATA frame. -/
abbrev mcastPiece : Nat := 8184

/-- The multicast address of a group in a hall (R287). -/
def mcastMac (hall g : Nat) : BitVec 48 := BitVec.ofNat 48 (0x035658 * 2 ^ 24 + hall % 2 ^ 16 * 2 ^ 8 + g % 16)

/-- A multicast frame of the group, sent on the lowest-numbered port with its link up (R256, R257, R288). -/
def State.sendMcast (s : State) (ty flags seq id g : Nat) (payload : List Byte) : State :=
  if s.hallOn then
    match (List.range 8).find? (fun p => s.linkUp p) with
    | some p =>
      let hall := s.rf Reg.hftCfg 31 16
      (s.passStaging payload).emit p (mcastMac hall g) (s.rf Reg.hftCfg 47 32)
        (mkHeader ty flags hall s.device (0x8000 + g) seq 0 0 payload.length id 0 ++ payload)
    | none => s
  else s

/-- The number of frames of a transfer. -/
def McastTx.frames (x : McastTx) : Nat := ceilDiv x.object.length mcastPiece

/-- Frame i of a transfer: its destination address and its part of the object; the last one carries LAST. -/
def State.sendPart (s : State) (x : McastTx) (i : Nat) : State :=
  s.sendMcast 3 (if i + 1 = x.frames then 4 else 0) i x.id x.group
    (leBytes 8 (x.dest + i * mcastPiece) ++ slice x.object (i * mcastPiece) mcastPiece)

/-- Some frames of a transfer. -/
def State.sendParts (s : State) (x : McastTx) (l : List Nat) : State := l.foldl (fun t i => t.sendPart x i) s

/-- The MPOLL of a transfer, with its frame count. -/
def State.sendPoll (s : State) (x : McastTx) : State := s.sendMcast 4 0 0 x.id x.group (leBytes 4 x.frames)

end Sys2Proof.Machine
end

