-- ==== Sys2Proof/Machine/Movers.lean ====
section
/-! DEFINITION. The concurrent descriptors and the barrier groups: COPY, FILL, DIGEST, GET_ENTROPY, DRAIN_SAMPLES,
SET_TABLE, HALT, FENCE, and BARRIER_ARM (R234, R275, R301 to R311, R318, R319, R323, R350). -/

namespace Sys2Proof.Machine

/-- Run a descriptor of an opcode that has begun. -/
def State.onDesc (s : State) (d : DescRef) (op : Nat) (f : Desc → State → State) : Out :=
  .next (match s.begun d op with
    | some x => f x s
    | none => s)

/-! ## COPY, FILL, DIGEST -/

/-- A started data mover of an opcode, its watchdog expired or not. -/
def State.mover (s : State) (d : DescRef) (op : Nat) : Option Desc :=
  match s.desc d with
  | some x => if x.phase = .running ∧ x.opcode = op then some x else none
  | none => none

/-- A data mover of `n` bytes runs to its end and completes; one whose watchdog has expired stops at a 4 KiB boundary of its
destination and leaves what it wrote, or has finished late (R302, log 125). `run` moves a number of bytes and gives the offset of
a failing access. -/
def State.moverRuns (s : State) (x : Desc) (dest n : Nat) (run : Nat → Option Nat × State) : State :=
  let k := if x.expired then min n (Config.moverBlocks s.clk.wall * 4096 - dest % 4096) else n
  let w := run k
  if k < n then { w.2 with descs := w.2.descs.filter (fun y => y.ref != x.ref) }
  else match w.1 with
    | some o => w.2.complete x.ref stFaulted 0 o
    | none => w.2.complete x.ref stDone 0 0

/-- The first byte of a local range whose write meets an uncorrectable access or granule that it covers in part, and so
discards that part (R64, R233). -/
def State.writeFails (s : State) (a n : Nat) : Option Nat :=
  ((pieces a n).find? (fun p => match s.place p.1 with
    | .dram => decide (p.2 < 64) && s.accessErr (p.1 / 64) == 2
    | .core _ _ | .buffer _ _ => (granules p.1 p.2).any (fun g =>
        (decide (g * 8 < p.1) || decide (p.1 + p.2 < g * 8 + 8)) && Table.look (fun _ => 0) s.sramErr g == 2)
    | _ => false)).map Prod.fst

/-- The bytes at a source: host memory as the command carries it, or a local range; with the offset of a failing access
(R234). -/
def State.sourceRead (s : State) (isHost : Bool) (host : List Byte) (a n : Nat) : List Byte × Option Nat × State :=
  if isHost then (padTo n host, none, s)
  else
    let r := s.localRead 127 a n
    (r.1, r.2.1.map (· - a), r.2.2)

/-- Bytes written to a destination in host or local memory: the state, and the offset of a failing access. -/
def State.destWrite (s : State) (isHost : Bool) (p : Port) (a : Nat) (bs : List Byte) : Option Nat × State :=
  if isHost then (none, s.wrHost p a bs)
  else ((s.writeFails a bs.length).map (· - a), s.localWrite 127 a bs)

/-- A multicast COPY begins: its frames are sent, and its first poll follows after 20 µs (R288). -/
def State.mcastStart (s : State) (x : Desc) (host : List Byte) : State :=
  if s.hall.mtx.any (fun t => t.desc == x.ref) then s
  else if 2 ^ 34 < x.arg 0x20 8 then s.complete x.ref stBad 0 0
  else
    let m := s.localRead 127 (x.arg 0x30 8) 128
    let r := m.2.2.sourceRead (x.arg 0x28 1 |>.testBit 0) host (x.arg 0x10 8) (x.arg 0x20 8)
    match m.2.1, r.2.1 with
    | some _, _ => m.2.2.complete x.ref stFaulted 0 0
    | none, some o => r.2.2.complete x.ref stFaulted 0 o
    | none, none =>
      let s := r.2.2
      let t : McastTx := { desc := x.ref, group := x.arg 0x29 1, dest := x.arg 0x18 8, object := r.1
                           members := setBitsOf 1024 (leNat m.1), id := s.hall.mtxNext % 4096
                           pollAt := s.clk.wall + usec 20 }
      let s := s.sendParts t (List.range t.frames)
      if t.members.isEmpty then s.complete x.ref stDone 0 0
      else { s with hall := { s.hall with mtx := s.hall.mtx ++ [t], mtxNext := (t.id + 1) % 4096 } }

/-- The lower of two offsets of failing accesses. -/
def lowerOffset : Option Nat → Option Nat → Option Nat
  | some a, some b => some (min a b)
  | some a, none => some a
  | none, o => o

/-- The first bytes of a COPY moved: the offset of a failing access, and the state. -/
def State.copyBytes (s : State) (x : Desc) (host : List Byte) (n : Nat) : Option Nat × State :=
  let flags := x.arg 0x28 1
  let r := s.sourceRead (flags.testBit 0) host (x.arg 0x10 8) n
  let w := r.2.2.destWrite (flags.testBit 1) x.ref.port (x.arg 0x18 8) r.1
  (lowerOffset r.2.1 w.1, w.2)

/-- COPY moves bytes between local and host memory, or starts a multicast transfer (R234, R302, R309, R442). `host` is what the
memory behind the port holds at SOURCE. -/
def execCopy (d : DescRef) (host : List Byte) (s : State) : Out :=
  .next (match s.mover d 7 with
    | none => s
    | some x =>
      if (x.arg 0x28 1).testBit 2 then s.mcastStart x host
      else s.moverRuns x (x.arg 0x18 8) (x.arg 0x20 8) (s.copyBytes x host))

/-- FILL writes PATTERN over a range (R302, R304). -/
def execFill (d : DescRef) (s : State) : Out :=
  .next (match s.mover d 8 with
    | none => s
    | some x => s.moverRuns x (x.arg 0x10 8) (x.arg 0x18 8) (fun n =>
        s.destWrite false d.port (x.arg 0x10 8)
          (((List.replicate (x.arg 0x18 8 / 8) (slice x.bytes 0x20 8)).flatten).take n)))

/-- The partition tag of the accesses of a descriptor's ring: 127 for the module ring (R359). -/
def descTag (d : DescRef) : Nat := if d.ring.val < 96 then d.ring.val else 127

/-- DIGEST: SHAKE256 or the digest tree over an LPDDR6 range, written or compared (R227, R234, R319). `host` is what the
memory behind the port holds at DEST. -/
def execDigest (d : DescRef) (host : List Byte) (s : State) : Out :=
  s.onDesc d 9 (fun x s =>
    let flags := x.arg 0x28 1
    let a := x.arg 0x10 8
    let n := x.arg 0x18 8
    let t := s.dramRead (descTag d) a n
    match s.dramUe a n with
    | some k => t.complete d stFaulted 0 (max a (k * 64) - a)
    | none =>
      let bs := s.rd a n
      let dig := if flags.testBit 1 then treeDigest [itemOf bs] else shake256_256 bs
      if flags.testBit 2 then
        let r := t.sourceRead (flags.testBit 0) host (x.arg 0x20 8) 32
        if r.2.1.isSome then r.2.2.complete d stFaulted 0 0
        else r.2.2.complete d (if r.1 = dig then stDone else stMismatch) 0 0
      else
        let w := t.destWrite (flags.testBit 0) d.port (x.arg 0x20 8) dig
        w.2.complete d (if w.1.isSome then stFaulted else stDone) 0 0)

/-! ## GET_ENTROPY -/

/-- GET_ENTROPY writes expander output to host memory in one piece, or waits for it (R318, R349, R350). -/
def execGetEntropy (d : DescRef) (s : State) : Out :=
  s.onDesc d 10 (fun x s =>
    let n := x.arg 0x18 4
    if s.ent.state = .off ∨ s.ent.state = .startup then s.complete d stNotReady 0 0
    else if s.ent.state = .fatal then s.complete d stEntropyFailed 0 0
    else if s.ent.state = .limit ∧ s.ent.out.length < n then s.entRetry d
    else match s.takeFor (.host d.port) n with
      | some (bs, t) => (t.wrHost d.port (x.arg 0x10 8) bs).complete d stDone 0 0
      | none => s)

/-! ## Barrier groups (R275, R311) -/

/-- Whether a barrier of a group is in progress. -/
def BarGroup.busy (x : BarGroup) : Bool := x.first.isSome || x.own.isSome || x.release.isSome

/-- BARRIER_ARM with ACTION 0 arms a group and reserves a comparator (R275, R323). -/
def execBarrierArm (d : DescRef) (s : State) : Out :=
  s.onDesc d 11 (fun x s =>
    let g := x.arg 0x10 1
    let q := d.ring.val
    let coord := x.arg 0x12 2
    if x.arg 0x11 1 ≠ 0 then s
    else if (s.part q).faulted then s.complete d stRefused 0 0
    else
      let m := if coord = s.device then s.localRead 127 (x.arg 0x18 8) 128 else ([], none, s)
      let s := m.2.2
      let members := setBitsOf 1024 (leNat m.1)
      if m.2.1.isSome then s.complete d stFaulted 0 0
      else if (s.barGroup g).isSome || (s.part q).group.isSome then s.complete d stConflict 0 0
      else match s.freeCmp with
        | none => s.complete d stConflict 0 0
        | some k =>
          if (coord ≠ s.device ∨ members.any (· != s.device)) ∧ s.rf Reg.gtbStatus 16 16 = 0 then
            s.complete d stNotReady 0 0
          else
            let s := (s.setCmp k 1 g 0 false).setGroup g
              (some { part := q, coord := coord, members := members.filter (· != s.device), cmp := k })
            (s.updPart q (fun p => { p with group := some (Fin.ofNat 16 g) })).complete d stDone 0 0)

/-- BARRIER_ARM with ACTION 1 disarms the group and frees its comparator; refused while a barrier of it is in progress, or
for another partition's group (R311, R323). -/
def execBarrierDisarm (d : DescRef) (s : State) : Out :=
  s.onDesc d 11 (fun x s =>
    let g := x.arg 0x10 1
    if x.arg 0x11 1 ≠ 1 then s
    else match s.barGroup g with
      | some b =>
        if b.busy ∨ b.part ≠ d.ring.val then s.complete d stRefused 0 0 else (s.disarm g).complete d stDone 0 0
      | none => s.complete d stDone 0 0)

/-! ## DRAIN_SAMPLES (R234, R310) -/

/-- What a DRAIN_SAMPLES has copied: its bytes, their records, the head behind them, and the status it ends with. -/
structure Drained where
  bytes   : List Byte := []
  records : Nat := 0
  head    : Nat
  status  : Nat := stDone
deriving DecidableEq, Repr

/-- Records copied from a drain ring, oldest first: pads are passed over; it ends at the tail, at a record of another
window, at one that does not fit, or at one that fails its code. -/
def State.drainSome (s : State) (q base size tail room win : Nat) : Nat → Drained → Drained × State
  | 0, x => (x, s)
  | fuel + 1, x =>
    if x.head = tail then (x, s)
    else
      let a := base + x.head
      let t := s.dramRead q a 32
      if (s.dramUe a 32).isSome then ({ x with status := stFaulted }, t)
      else
        let h := drainHeader s.mem a
        let len := 32 + roundUp h.2 32
        if h.1 = 0xFF then t.drainSome q base size tail room win fuel { x with head := nextRecord size h.2 h.1 x.head }
        else if win ≠ 0xFF ∧ s.rdN (a + 14) 1 ≠ win then (x, t)
        else if room < x.bytes.length + len then ({ x with status := if room < len ∧ x.records = 0 then stBad else stDone }, t)
        else
          let u := s.dramRead q a len
          if (s.dramUe a len).isSome then ({ x with status := stFaulted }, u)
          else u.drainSome q base size tail room win fuel { x with
            bytes := x.bytes ++ s.rd a len, records := x.records + 1, head := nextRecord size h.2 h.1 x.head }

/-- DRAIN_SAMPLES copies whole records of the LPDDR6 drain ring to the host and frees them (R310). -/
def execDrainSamples (d : DescRef) (s : State) : Out :=
  s.onDesc d 12 (fun x s =>
    let q := d.ring.val
    match (s.part q).ldrain with
    | none => s.complete d stRefused 0 0
    | some (base, size) =>
      let p := (s.part q).drain
      let r := s.drainSome q base size p.lTail (x.arg 0x18 4) (x.arg 0x1C 1) (size / 32) { head := p.lHead }
      if r.1.status = stBad then r.2.complete d stBad 0 0
      else
        let s := (r.2.wrHost d.port (x.arg 0x10 8) r.1.bytes).updPart q (fun p => { p with
          drain := { p.drain with lHead := r.1.head } })
        s.complete d r.1.status r.1.records r.1.bytes.length)

/-! ## SET_TABLE, HALT, FENCE -/

/-- Whether a SET_TABLE meets R308 on the loaded Binding. -/
def tableFits (p : Partition) (kind index : Nat) : Bool :=
  kind == 0 || (match p.tables? with
    | some c => kind != 3 || decide (index < c.segments)
    | none => false)

/-- SET_TABLE lands at once on a stopped partition, and otherwise at the next sweep boundary (R308, R323). -/
def execSetTable (d : DescRef) (s : State) : Out :=
  s.onDesc d 13 (fun x s =>
    let q := d.ring.val
    let p := s.part q
    let kind := x.arg 0x18 1
    if p.faulted then s.complete d stFaulted 0 0
    else if p.run = .empty then s.complete d stRefused 0 0
    else if !tableFits p kind (x.arg 0x1A 2) then s.complete d stBad 0 0
    else if p.tables.any (fun t => t.desc == d) then s
    else
      let r := s.localRead 127 (x.arg 0x10 8) (tableBytes kind)
      if r.2.1.isSome then r.2.2.complete d stFaulted 0 0
      else if kind = 3 ∧ 3 ≤ leAt r.1 5 1 then r.2.2.complete d stBad 0 0
      else
        let t : TableWrite := { desc := d, kind := kind, slot := x.arg 0x19 1, index := x.arg 0x1A 2
                                target := x.arg 0x1C 4, data := r.1 }
        if p.run = .running then r.2.2.updPart q (fun p => { p with tables := p.tables ++ [t] })
        else r.2.2.applyTable q t)

/-- HALT asks a running partition to stop, and completes when it has (R307, R323). -/
def execHalt (d : DescRef) (s : State) : Out :=
  s.onDesc d 3 (fun x s =>
    let q := d.ring.val
    let p := s.part q
    let mode := x.arg 0x10 1
    if p.faulted || p.run != .running then s.complete d stDone 0 0
    else if d ∈ p.halts then s
    else s.updPart q (fun p => { p with
      halts := p.halts ++ [d]
      job := p.job.map (fun j => { j with stop := some (max mode (j.stop.getD 0)) }) }))

/-- FENCE: every earlier descriptor of its ring has completed, and every write of theirs stands in memory (R246, R301). -/
def execFence (d : DescRef) (s : State) : Out := s.onDesc d 14 (fun _ s => s.complete d stDone 0 0)

end Sys2Proof.Machine
end

