-- ==== Sys2Proof/Machine/Context.lean ====
section
/-! DEFINITION. Context images: SAVE_CONTEXT, RESTORE_CONTEXT and REFOLD_CONTEXT (R210, R328 to R337). -/

namespace Sys2Proof.Machine

/-! ## Core records (R328) -/

/-- The loop stack of a core record, the outermost level first. -/
def loopBytes (l : List LoopLevel) : List Byte :=
  padTo 32 (l.reverse.flatMap (fun x => leBytes 8 (x.first % 1024 + x.last % 1024 * 2 ^ 10 + x.left % 2 ^ 17 * 2 ^ 20)))

/-- An identity register in the layout of CORE_IDREG. -/
def IdReg.bytes (r : IdReg) : List Byte := leBytes 8 r.unit.toNat ++ leBytes 4 r.chain.toNat ++ leBytes 4 r.beta.toNat

/-- The ownership nibble of a tile-row. -/
def CoreState.tagBits (c : CoreState) (row : Nat) : Nat := if c.owner row = 0 then 0 else 8 + (c.owner row - 1) % 8

/-- A group in a core record. -/
def Group.bits (x : Group) : Nat :=
  (if x.isOpen then 1 else 0) + (if x.isFloat then 2 else 0) + x.point % 64 * 4 + (if x.range then 256 else 0)

/-- The categorical carry of a core record. -/
def CatCarry.bytes (x : CatCarry) : List Byte :=
  padTo 16 (leBytes 4 x.best.toNat ++ leBytes 1 x.state ++ leBytes 1 (x.k - 1) ++ leBytes 1 (if x.damp then 1 else 0) ++
    leBytes 1 x.chunk)

/-- The live state of a core record, 1,024 B. -/
def CoreState.liveBytes (c : CoreState) : List Byte :=
  let l := c.live
  padTo 1024 (leBytes 2 l.pc ++ leBytes 1 l.loops.length ++ leBytes 1 l.phase ++ leBytes 2 l.q ++ leBytes 1 l.flags ++ zeros 1 ++
    loopBytes l.loops ++ (List.range 16).flatMap (fun k => leBytes 2 (ofSigned 16 (c.ptrAt k))) ++
    (List.range 8).flatMap (fun k => (c.idAt k).bytes) ++
    (List.range 128).flatMap (fun i => leBytes 1 (c.tagBits (2 * i) + 16 * c.tagBits (2 * i + 1))) ++
    (List.range 8).flatMap (fun g => leBytes 2 (c.group g).bits) ++ l.cat.bytes)

/-- The live state that a record's 1,024 bytes give; the registers that R329 names are zero. -/
def liveOf (b : List Byte) : CoreLive :=
  { pc := leAt b 0 2 % 1024
    loops := ((List.range (min 4 (leAt b 2 1))).map (fun i =>
      let v := leAt b (8 + 8 * i) 8
      (⟨bitsN v 9 0, bitsN v 19 10, bitsN v 36 20⟩ : LoopLevel))).reverse
    ptr := (List.range 16).foldl (fun t k => Table.put (fun _ => 0) t k (signedOf 16 (leAt b (0x28 + 2 * k) 2))) []
    ids := (List.range 8).foldl (fun t k => Table.put (fun _ => ({} : IdReg)) t k
      ⟨BitVec.ofNat 40 (leAt b (0x48 + 16 * k) 8), BitVec.ofNat 32 (leAt b (0x50 + 16 * k) 4),
       BitVec.ofNat 32 (leAt b (0x54 + 16 * k) 4)⟩) []
    phase := leAt b 3 1, q := leAt b 4 2, flags := leAt b 6 1 % 16
    cat := { best := BitVec.ofNat 32 (leAt b 0x158 4), state := leAt b 0x15C 1, k := leAt b 0x15D 1 + 1
             damp := (leAt b 0x15E 1).testBit 0, chunk := leAt b 0x15F 1 } }

/-- The owner of a tile-row in a record: 0 none, else the group plus 1. -/
def tagOf (b : List Byte) (row : Nat) : Nat :=
  let v := bitsN (leAt b (0xC8 + row / 2) 1) (4 * (row % 2) + 3) (4 * (row % 2))
  if v.testBit 3 then v % 8 + 1 else 0

/-- The group of a record; its rows are those it owns. -/
def groupOf (b : List Byte) (g : Nat) : Group :=
  let v := leAt b (0x148 + 2 * g) 2
  let rows := (List.range 256).filter (fun i => tagOf b i == g + 1)
  if v.testBit 0 then
    { isOpen := true, isFloat := v.testBit 1, point := bitsN v 7 2, range := v.testBit 8, firstRow := rows.headD 0
      rows := rows.length }
  else {}

/-- A core with the live state of a record. DESIGN CHOICE (log 107): R134 clears the categorical carry on RESTORE_CONTEXT and
R328 gives the record one; the carry is cleared with the rest of the live state and then takes the record's. -/
def CoreState.withRecord (c : CoreState) (b : List Byte) : CoreState :=
  { c.installed (liveOf b) with
    tags := (List.range 256).foldl (fun t i => Table.put (fun _ => 0) t i (tagOf b i)) []
    groups := (List.range 8).foldl (fun t g => Table.put (fun _ => ({} : Group)) t g (groupOf b g)) [] }

/-- The 167,936 bytes of a core record. -/
def State.coreRecord (s : State) (n : Nat) : List Byte :=
  s.rd (coreBase n) 0x28000 ++ Table.span zeroByte s.carry (carryAt n 0) 2048 ++ (s.core n).liveBytes ++ zeros 1024

/-- Bytes of a core record. -/
abbrev recordBytes : Nat := 167936

/-- Bytes laid at an offset of a core's record: its memories, its carry counters, its live state. -/
def State.writeRecord (s : State) (n off : Nat) (bs : List Byte) : State :=
  let part (lo hi : Nat) : List Byte := slice bs (lo - off) (min hi (off + bs.length) - max lo off)
  let s := if off < 0x28000 ∧ !bs.isEmpty then s.wrSram n (coreBase n + off) (part 0 0x28000) else s
  let lo := max off 0x28000
  let s := { s with carry := Table.putSpan zeroByte s.carry (carryAt n (lo - 0x28000)) (part 0x28000 0x28800) }
  let live := part 0x28800 0x28C00
  if live.isEmpty then s
  else s.updCore n (fun c => c.withRecord (overlay c.liveBytes (max off 0x28800 - 0x28800) live))

/-! ## The other sections (R210, R328) -/

/-- The binary point of a partition's energies. -/
def Partition.energyPoint (p : Partition) : Nat := match p.tables? with | some c => c.point | none => 0

/-- The record of a best energy that is still +∞. -/
def infinityRecord (point : Nat) : List Byte :=
  if point = 0xFF then leBytes 16 0x7FF0000000000000 else (List.range 16).map Config.exactInfinity

/-- The CONTROL section. -/
def Partition.controlBytes (p : Partition) : List Byte :=
  let x := p.ctl
  padTo 64 (padTo 16 (x.best.getD (infinityRecord p.energyPoint)) ++ leBytes 4 x.stuck ++ leBytes 1 x.k ++ leBytes 4 x.seq ++
    padTo 32 (x.key.getD [])) ++
  (match p.tables? with
    | some c => ((x.rungs.zipIdx).flatMap (fun e => leBytes 4 (c.ladderId e.2) ++ leBytes 2 e.1.length ++ zeros 2 ++
        e.1.flatMap (fun i => leBytes 4 (c.chain i).chain)))
    | none => [])

/-- The RINGS section. -/
def Partition.ringBytes (p : Partition) : List Byte :=
  (List.range p.ringDescs.length).flatMap (fun r => leBytes 1 r ++ zeros 7 ++ leBytes 8 (p.ring r).used)

/-- The USE 1 regions of a Binding. -/
def Binding.useOne (b : Binding) : List Region := b.regions.filter (fun r => r.use == 1)

/-- Bytes of a region. -/
def Region.bytes (r : Region) : Nat := (r.blocks + 1) * 0x10000

/-! ## Saving (R330 to R332) -/

/-- The sections of a save: type, records, offset and bytes. -/
abbrev SavedSection := Nat × Nat × Nat × List Byte

/-- A section table entry's bytes. -/
def entryBytes (x : SavedSection) : List Byte :=
  leBytes 2 x.1 ++ zeros 2 ++ leBytes 4 x.2.1 ++ leBytes 8 x.2.2.1 ++ leBytes 8 x.2.2.2.length ++ zeros 8

/-- The sections of a partition's context: CORES from 0x1000, the others each at the next multiple of 64. -/
def State.contextSections (s : State) (q : Nat) (b : Binding) : List SavedSection :=
  let p := s.part q
  let cores := s.partCores q
  let rings := p.ringBytes
  let regions := b.useOne.flatMap (fun r => s.rd (bufferBase r.buffer + r.first * 0x10000) r.bytes)
  let o2 := 0x1000 + cores.length * recordBytes
  let o3 := roundUp (o2 + rings.length) 64
  let o4 := roundUp (o3 + regions.length) 64
  [(1, cores.length, 0x1000, cores.flatMap s.coreRecord), (2, p.ringDescs.length, o2, rings),
   (3, b.useOne.length, o3, regions), (4, p.ctl.rungs.length, o4, p.controlBytes)]

/-- The length of a context image. -/
def contextLength (l : List SavedSection) : Nat := (l.map (fun x => x.2.2.1 + x.2.2.2.length)).foldl max 0

/-- The Endpaper of a partition's context (R328). -/
def State.endpaper (s : State) (q : Nat) (b : Binding) (sections : List SavedSection) (digest : List Byte) : List Byte :=
  let p := s.part q
  let first := (s.partCores q).headD 0
  padTo 256 (leBytes 4 0x50444E45 ++ leBytes 2 1 ++
    leBytes 2 ((if s.det then 1 else 0) + (if p.seed.isSome then 2 else 0) + (if b.isHall then 4 else 0) + p.point * 8) ++
    leBytes 1 p.qrows ++ leBytes 1 p.qcols ++ leBytes 1 q ++ leBytes 1 (s.rf (Reg.coreLanecfg first) 1 0) ++
    leBytes 2 (s.partCores q).length ++ leBytes 2 sections.length ++ leBytes 4 (s.rf Reg.genDetClass 31 0) ++ zeros 4 ++
    leBytes 8 (s.rf (Reg.genIdent + 8) 39 0) ++ leBytes 8 (contextLength sections) ++ leBytes 8 0x100 ++
    leBytes 8 (p.sweep % 2 ^ 40) ++ leBytes 1 (if p.point = 1 then (s.core first).live.phase else 0) ++ zeros 7 ++
    leBytes 8 p.tick ++ zeros 8 ++ padTo 32 b.digest ++ padTo 32 (p.seed.getD []) ++ padTo 32 digest)

/-- CONTEXT_DIGEST of an Endpaper whose digest field is zero, a section table, and the sections but FOLD (R332). -/
def contextDigest (endpaper table : List Byte) (sections : List (List Byte)) : List Byte :=
  treeDigest (itemOf endpaper :: itemOf table :: sections.map itemOf)

/-- Writes to LPDDR6 one after another, up to the first that an uncorrectable access fails. -/
def State.writeAll (s : State) (q : Nat) : List (Nat × List Byte) → Bool × State
  | [] => (true, s)
  | (a, bs) :: ws =>
    if (s.writeFails a bs.length).isSome then (false, s.wrDram q a bs) else (s.wrDram q a bs).writeAll q ws

/-- The memories a save reads: whether all were free of uncorrectable errors, with what they report. -/
def State.readForSave (s : State) (q : Nat) (b : Binding) : Bool × State :=
  let c := (s.partCores q).foldl (fun (a : Bool × State) n =>
    let r := a.2.windowRead n 0 0x28000
    (a.1 && r.1.isSome, r.2)) (true, s)
  b.useOne.foldl (fun (a : Bool × State) r =>
    let x := a.2.bufferRead r.buffer (r.first * 0x10000) r.bytes
    (a.1 && x.1.isNone, x.2.2)) c

/-- The writes of a save in their order: MAGIC zero, section table and sections, the Endpaper (R331). -/
def State.saveWrites (s : State) (q a : Nat) (b : Binding) : List (Nat × List Byte) :=
  let l := s.contextSections q b
  let table := l.flatMap entryBytes
  let dig := contextDigest (s.endpaper q b l (zeros 32)) table (l.map (fun x => x.2.2.2))
  [(a, zeros 4), (a + 0x100, table)] ++ l.map (fun x => (a + x.2.2.1, x.2.2.2)) ++ [(a, s.endpaper q b l dig)]

/-- SAVE_CONTEXT writes a stopped partition's state as a context image, once no pool offer of the swept range waits (R206, R323,
R330, R331). -/
def execSaveContext (d : DescRef) (s : State) : Out :=
  s.onDesc d 4 (fun x s =>
    let q := d.ring.val
    let p := s.part q
    let a := x.arg 0x10 8
    let n := x.arg 0x18 8
    match p.faulted, p.binding with
    | true, _ => s.complete d stFaulted 0 0
    | false, none => s.complete d stRefused 0 0
    | false, some b =>
      if !p.owedOffers.isEmpty then s
      else if p.run ≠ .loaded ∨ (x.arg 0x20 1 = 0 ∧ p.point ≠ 0) ∨ 1 < p.point then s.complete d stRefused 0 0
      else
        let need := contextLength (s.contextSections q b)
        if n < need then s.complete d stCapacity 0 need
        else if !s.inDram a need then s.complete d stBad 0 0
        else
          let m := s.writeAll q [(a, zeros 4)]
          let r := m.2.readForSave q b
          if !m.1 || !r.1 then r.2.complete d stFaulted 0 0
          else
            let w := r.2.writeAll q (s.saveWrites q a b)
            w.2.complete d (if w.1 then stDone else stFaulted) 0 0)

/-! ## A context image (R333) -/

/-- A context image's bytes. -/
abbrev Context := List Byte

/-- FLAGS. -/
def Context.flags (m : Context) : Nat := leAt m 6 2
/-- POINT. -/
def Context.point (m : Context) : Nat := bitsN m.flags 4 3
/-- The section table. -/
def Context.sections (m : Context) : List SectionEntry := sectionTable m (leAt m 0x28 8) (leAt m 0x0E 2)
/-- The bytes of a section type. -/
def Context.sect (m : Context) (k : Nat) : Option (List Byte) :=
  (m.sections.find? (fun e => e.kind == k)).map (sectionBytes m)
/-- The bytes of a section type; none as an empty string. -/
def Context.bytesOf (m : Context) (k : Nat) : List Byte := (m.sect k).getD []

/-- The rules of the core records: reserved bytes are zero, and so are the reserved bits of the status lines, the loop stack,
the live identity registers and the groups (R6, R328). -/
def recordOk (b : List Byte) : Bool :=
  leAt b 0x28806 1 < 16 && zeroAt b 0x28807 1 && zeroAt b 0x28968 (664 + 1024) &&
  (List.range 4).all (fun i => leAt b (0x28808 + 8 * i) 8 < 2 ^ 37) &&
  (List.range 8).all (fun k => leAt b (0x28848 + 16 * k) 8 < 2 ^ 40 && leAt b (0x28948 + 2 * k) 2 < 2 ^ 9)

/-- Ladders of a CONTROL section, one after another: LADDER_ID and the chain ids of the rungs; none when they run past
its end. -/
def savedLadders : Nat → List Byte → Option (List (Nat × List Nat))
  | 0, bs => if bs.isEmpty then some [] else none
  | n + 1, bs =>
    let k := leAt bs 4 2
    if bs.isEmpty then some []
    else if bs.length < 8 + 4 * k ∨ !zeroAt bs 6 2 then none
    else (savedLadders n (bs.drop (8 + 4 * k))).map (fun l =>
      (leAt bs 0 4, (List.range k).map (fun r => leAt bs (8 + 4 * r) 4)) :: l)

/-- The ladders of a context. -/
def Context.ladders (m : Context) : Option (List (Nat × List Nat)) :=
  let c := m.bytesOf 4
  savedLadders c.length (c.drop 64)

/-- Step 1 of R333 on an image read whole. -/
def Context.ok (m : Context) : Bool :=
  let cores := leAt m 0x0C 2
  m.flags < 16 && m.point ≤ 1 && zeroAt m 0x14 4 && leAt m 0x18 8 < 2 ^ 40 && leAt m 0x30 8 < 2 ^ 40 && zeroAt m 0x39 7 && zeroAt m 0x48 8 && zeroAt m 0xB0 80 &&
  leAt m 0x28 8 + 32 * leAt m 0x0E 2 ≤ m.length && cores == 128 * leAt m 8 1 * leAt m 9 1 &&
  m.sections.all (fun e => 1 ≤ e.kind && e.kind ≤ 5 && e.flags == 0 && e.rsvd == 0 && e.off % 64 == 0 &&
    e.off + e.len ≤ m.length) && apart m.sections && distinct (m.sections.map SectionEntry.kind) &&
  (match m.sections.find? (fun e => e.kind == 1) with
    | some e => e.off % 4096 == 0 && e.len == cores * recordBytes
    | none => false) &&
  (chunks recordBytes (m.bytesOf 1)).all recordOk && (m.bytesOf 2).length % 16 == 0 &&
  (chunks 16 (m.bytesOf 2)).all (fun b => zeroAt b 1 7) && 64 ≤ (m.bytesOf 4).length && zeroAt (m.bytesOf 4) 57 7 &&
  m.ladders.isSome

/-- Whether CONTEXT_DIGEST is right (R332). -/
def Context.digestOk (m : Context) : Bool :=
  contextDigest (overlay (m.take 256) 0x90 (zeros 32)) (slice m (leAt m 0x28 8) (32 * leAt m 0x0E 2))
    ((m.sections.filter (fun e => e.kind != 5)).map (sectionBytes m)) == slice m 0x90 32

/-- The context image at an address: the status of a failure of step 1, or the image; with the state after its reads. -/
def State.readContext (s : State) (q a space : Nat) : Except Nat Context × State :=
  if !s.inDram a 256 then (.error stBad, s)
  else
    let t := s.dramRead q a 256
    let n := leAt (s.rd a 256) 0x20 8
    if (s.dramUe a 256).isSome then (.error stFaulted, t)
    else if leAt (s.rd a 6) 0 6 ≠ 0x000150444E45 ∨ space < n ∨ n < 256 ∨ !s.inDram a n then (.error stBad, t)
    else
      let u := s.dramRead q a n
      if (s.dramUe a n).isSome then (.error stFaulted, u)
      else if Context.ok (s.rd a n) then (.ok (s.rd a n), u)
      else (.error stBad, u)

/-- The ring offsets of a RINGS section. -/
def Context.ringOffs (m : Context) : List (Nat × Nat) := (chunks 16 (m.bytesOf 2)).map (fun b => (leAt b 0 1, leAt b 8 8))

/-- Step 2 of R333: the partition stands, with a Binding, in the image's mode. -/
def State.contextRefused (s : State) (q : Nat) (m : Context) : Bool :=
  s.partStateCode q != 2 || m.flags.testBit 0 != s.det

/-- The first failure of steps 2 to 5 of R333 with its DETAIL. -/
def State.restoreStatus (s : State) (q : Nat) (b : Binding) (m : Context) : Option (Nat × Nat) :=
  let p := s.part q
  if s.contextRefused q m then some (stRefused, 0)
  else if leAt m 8 1 ≠ p.qrows ∨ leAt m 9 1 ≠ p.qcols ∨
      leAt m 0x0B 1 ≠ s.rf (Reg.coreLanecfg ((s.partCores q).headD 0)) 1 0 ∨
      (s.det ∧ leAt m 0x10 4 ≠ s.rf Reg.genDetClass 31 0) then some (stGeometry, 0)
  else if !m.digestOk then some (stMismatch, 1)
  else if slice m 0x50 32 ≠ b.digest then some (stMismatch, 2)
  else if (b.useOne.map Region.bytes).sum < (m.bytesOf 3).length ∨ m.ringOffs.any (fun e => b.rings.length ≤ e.1) then
    some (stCapacity, 0)
  else none

/-! ## The work of a restore (R334) -/

/-- A remote stream from its start. -/
def Stream.anew (x : Stream) : Stream := { x with moved := 0, acked := 0, credit := 0, stopped := false }

/-- A partition reset that leaves the Binding, its regions, its streams and what the cores know of the class map; the Colophon
state is as the drains leave it (R228, R334). -/
def State.resetKeeping (s : State) (q : Nat) (b : Binding) (d : DescRef) : State :=
  let s := s.drainPart q
  let p := s.part q
  let mine := s.hall.streams.filter (fun x => match x.part with | some (y, _) => y == q | none => false)
  let t := s.resetPartFor q (some d)
  let t := b.regions.foldl (fun u r =>
    u.setReg (Reg.arrEbregion (r.buffer * 32 + r.entry)) (regionWord r.first r.blocks q r.use)) t
  let t := (s.partCores q).foldl (fun u n => u.updCore n (fun c => { c with
    mode := .loaded, absorb := false, receipts := (s.core n).receipts, expect := (s.core n).expect
    class_ := (s.core n).class_ })) t
  let others := t.hall.streams.filter (fun x => !(mine.map Stream.closed).contains x)
  let t := { t with hall := { t.hall with streams := others ++ mine.map Stream.anew } }
  t.updPart q (fun r => { r with run := .loaded, binding := some b, colo := p.colo, rings := freshRings b.rings
                                 drain := { p.drain with seq := [] } })

/-- The takes of a ring whose records lie wholly before a stream byte: the records cut of each window, and the bytes left
(R445). -/
def takesBefore (ws : List Window) (ring : Nat) : Nat → Nat → Table Nat → Table Nat × Nat
  | 0, left, seq => (seq, left)
  | fuel + 1, left, seq =>
    match nextTake ws ring seq with
    | none => (seq, left)
    | some (wi, w, _) =>
      let n := Table.look (fun _ => 0) seq wi
      match w.records[n % max 1 w.records.length]? with
      | none => (seq, left)
      | some r =>
        if left = 0 ∨ left < r.payload then (seq, left)
        else takesBefore ws ring fuel (left - r.payload) (Table.put (fun _ => 0) seq wi (n + 1))

/-- A ring restarts at a stream byte offset (R334): a collect ring free, a deliver ring empty; a ring that is cut into
records goes on with the record that holds the byte. A deliver ring in the middle of a burst-group reads that group
anew; none after an uncorrectable access. -/
def State.restartRing (s : State) (q : Nat) (b : Binding) (r : Nat) (d : RingDesc) (off : Nat) : Option State :=
  let s := s.mapStreams (fun x => if x.part = some (q, r) then { x with moved := off, acked := off } else x)
  if d.kind = 1 then
    if b.ringIsDrain r then
      let t := takesBefore b.windows r (off + 1) off (s.part q).drain.seq
      some (s.updPart q (fun p => { p.updRing r (fun _ => { fill := d.bytes - t.2, used := off, moved := off - t.2,
                                                            flush := off }) with
        drain := { p.drain with seq := t.1 } }))
    else some (s.updPart q (fun p => p.updRing r (fun _ => { fill := d.bytes, used := off, moved := off, flush := off })))
  else if d.endpoint = 0 then
    let s := s.updPart q (fun p => p.updRing r (fun _ => { used := off, moved := off / 4096 * 4096 }))
    if off % 4096 = 0 then some s
    else
      let t := if d.wantsGroup ((s.part q).ring r) then s.landGroup q r b d else s
      if ((t.part q).ring r).stopped then none
      else some (t.updPart q (fun p => p.updRing r (fun x => { x with fill := x.fill - off % 4096 })))
  else some (s.updPart q (fun p => p.updRing r (fun _ => { used := off, moved := off })))

/-- Every ring of a Binding restarted, at the offset that a list gives its index and otherwise at 0. -/
def State.restartRings (s : State) (q : Nat) (b : Binding) (offs : List (Nat × Nat)) : Option State :=
  (b.rings.zipIdx).foldl (fun a e => match a with
    | some t => t.restartRing q b e.2 e.1 (((offs.find? (fun o => o.1 == e.2)).map Prod.snd).getD 0)
    | none => none) (some s)

/-- The controller state of a CONTROL section on a Binding's tables, by chain id and LADDER_ID (R210, R335). -/
def controlOf (p : Partition) (m : Context) (free : Bool) : Control :=
  let b := m.bytesOf 4
  let best := slice b 0 16
  let saved := m.ladders.getD []
  { best := if best = infinityRecord p.energyPoint then none else some best
    stuck := leAt b 16 4, k := leAt b 20 1 % 64, inUse := leAt b 20 1 % 64, seq := leAt b 21 4
    key := if free then some (slice b 25 32) else none
    rungs := match p.tables? with
      | none => []
      | some c => (List.range c.ladders).map (fun j =>
          match saved.find? (fun e => e.1 == c.ladderId j) with
          | some e => e.2.map (fun id => ((List.range c.chains).find? (fun i => (c.chain i).chain == id)).getD 0)
          | none => c.firstRungs.getD j []) }

/-- The partition with what a context says of it (R334). -/
def Partition.restored (p : Partition) (m : Context) (tick point detail : Nat) (d : DescRef) : Partition :=
  let seed := if m.flags.testBit 1 then some (slice m 0x70 32) else none
  { p with
    tick := tick, epoch := tick, sweep := leAt m 0x30 8, point := point, seed := seed
    ctl := controlOf p m (!m.flags.testBit 0 && seed.isNone)
    colo := { p.colo with restored := true, start := slice m 0x90 32 }
    restore := some (d, detail) }

/-- Whether every ring is at HW; a deliver ring whose stream has ended is full (R334, R237). -/
def Partition.ringsReady (p : Partition) : Bool :=
  (p.ringDescs.zipIdx).all (fun e => let x := p.ring e.2
                                     e.1.hw ≤ x.fill || (e.1.kind == 0 && e.1.endpoint == 0 && e.1.ended x.moved))

/-- Whether a ring of a partition has stopped. -/
def Partition.ringStopped (p : Partition) : Bool := (List.range p.ringDescs.length).any (fun r => (p.ring r).stopped)

/-- A restore or refold completes once its rings are ready; a ring that an uncorrectable read has stopped ends it FAULTED with
the partition EMPTY (R334). -/
def State.settleRestore (s : State) (q : Nat) : State :=
  match (s.part q).restore with
  | some (d, detail) =>
    if (s.part q).ringStopped then s.resetPart q
    else if (s.part q).ringsReady then
      (s.updPart q (fun p => { p with restore := none, faulted := false })).complete d stDone detail 0
    else s
  | none => s

/-- The core records of a context written. -/
def State.writeRecords (s : State) (q : Nat) (m : Context) : State :=
  ((s.partCores q).zip (chunks recordBytes (m.bytesOf 1))).foldl (fun t e => t.writeRecord e.1 0 (e.2.take 0x28C00)) s

/-- The regions of a context written into the USE 1 regions, in their order. -/
def State.writeRegions (s : State) : List Region → List Byte → State
  | [], _ => s
  | r :: rs, bs => (s.bufferWrite r.buffer (r.first * 0x10000) (bs.take r.bytes)).writeRegions rs (bs.drop r.bytes)

/-- RESTORE_CONTEXT: the checks, the work, and the wait for the rings (R323, R333, R334). -/
def execRestoreContext (d : DescRef) (s : State) : Out :=
  s.onDesc d 5 (fun x s =>
    let q := d.ring.val
    if ((s.part q).restore.map Prod.fst) = some d then s.settleRestore q
    else match s.readContext q (x.arg 0x10 8) (x.arg 0x18 8) with
      | (.error st, t) => t.complete d st 0 0
      | (.ok m, t) =>
        match (t.part q).binding with
        | none => t.complete d stRefused 0 0
        | some b =>
          match t.restoreStatus q b m with
          | some st => t.complete d st.1 st.2 0
          | none =>
            let u := ((t.resetKeeping q b d).writeRecords q m).writeRegions b.useOne (m.bytesOf 3)
            let u := u.updPart q (fun p => p.restored m (leAt m 0x40 8) m.point 0 d)
            match u.restartRings q b m.ringOffs with
            | none => (u.updPart q (fun p => { p with restore := none })).resetPart q
            | some v => v.settleRestore q)

/-! ## Refolding (R335 to R337) -/

/-- A fold entry. -/
structure FoldEntry where
  source : Nat
  len    : Nat
  index  : Nat
  off    : Nat
  kind   : Nat
deriving DecidableEq, Repr

/-- A fold entry from its 16 bytes. -/
def FoldEntry.ofBytes (b : List Byte) : FoldEntry := ⟨leAt b 0 5, leAt b 5 3, leAt b 8 2, leAt b 10 3, leAt b 13 1⟩

/-- The addresses of the further images of a FOLD section. -/
def foldOthers (f : List Byte) : List Nat := (List.range (leAt f 0x24 1)).map (fun i => leAt f (64 + 8 * i) 8)

/-- The bytes of the fold entries. -/
def foldRaw (f : List Byte) : List (List Byte) :=
  let o := 64 + 8 * leAt f 0x24 1
  (List.range (min (leAt f 0x20 4) (f.length / 16))).map (fun i => slice f (o + 16 * i) 16)

/-- The reserved bytes and the extent of a FOLD section. -/
def foldOk (f : List Byte) : Bool :=
  64 ≤ f.length && leAt f 0x24 1 ≤ 15 && zeroAt f 0x25 27 && 64 + 8 * leAt f 0x24 1 + 16 * leAt f 0x20 4 ≤ f.length &&
  (foldRaw f).all (fun b => zeroAt b 14 2 && leAt b 5 3 != 0)

/-- The further images of a refold, read one after another, each with its address. -/
def State.readOthers (s : State) (q : Nat) : List Nat → Except Nat (List (Nat × Context)) × State
  | [] => (.ok [], s)
  | a :: as =>
    match s.readContext q a (2 ^ 40) with
    | (.error st, t) => (.error st, t)
    | (.ok m, t) =>
      match t.readOthers q as with
      | (.error st, u) => (.error st, u)
      | (.ok l, u) => (.ok ((a, m) :: l), u)

/-- Whether the target and the source of a fold entry exist (R336). -/
def FoldEntry.fits (e : FoldEntry) (p : Partition) (b : Binding) (images : List (Nat × Context)) : Bool :=
  (if e.kind = 0 then decide (e.index < 128 * p.qrows * p.qcols) && e.off + e.len ≤ 0x28C00
   else if e.kind = 1 then (match b.regions[e.index]? with
     | some r => r.use == 1 && e.off + e.len ≤ r.bytes
     | none => false)
   else e.kind == 2 && decide (e.index < b.rings.length) && e.len == 8 && e.off == 0) &&
  images.any (fun i => i.1 ≤ e.source && e.source + e.len ≤ i.1 + i.2.length)

/-- Whether a chain id or a ladder of CONTROL is missing from the target's tables (R336). -/
def controlMissing (p : Partition) (m : Context) : Bool :=
  (m.ladders.getD []).any (fun e => match p.tables? with
    | none => true
    | some c => !(List.range c.ladders).any (fun j => c.ladderId j == e.1 && c.rungs j == e.2.length) ||
        e.2.any (fun id => !c.chainTable.any (fun x => x.chain == id)))

/-- The first failure of steps 2 to 5 of R336 with its DETAIL. -/
def State.refoldStatus (s : State) (q : Nat) (b : Binding) (m : Context) (images : List (Nat × Context)) :
    Option (Nat × Nat) :=
  let p := s.part q
  if s.contextRefused q m then some (stRefused, 0)
  else match m.sect 5 with
    | none => some (stGeometry, 0)
    | some f =>
      if !(foldRaw f).all (fun e => (FoldEntry.ofBytes e).fits p b images) then some (stGeometry, 0)
      else if !images.all (fun i => Context.digestOk i.2) then some (stMismatch, 1)
      else if slice f 0 32 ≠ b.digest then some (stMismatch, 2)
      else if controlMissing p m then some (stCapacity, 0)
      else none

/-- A fold entry carried out (R335); a ring's offset is taken apart from these. -/
def State.foldEntry (s : State) (q : Nat) (b : Binding) (e : FoldEntry) : State :=
  let bs := s.rd e.source e.len
  if e.kind = 0 then
    match (s.partCores q)[e.index]? with
    | some n => s.writeRecord n e.off bs
    | none => s
  else if e.kind = 1 then
    match b.regions[e.index]? with
    | some r => s.bufferWrite r.buffer (r.first * 0x10000 + e.off) bs
    | none => s
  else s

/-- REFOLD_CONTEXT: the checks, the copies of the fold table, and the wait for the rings (R335 to R337). -/
def execRefoldContext (d : DescRef) (s : State) : Out :=
  s.onDesc d 6 (fun x s =>
    let q := d.ring.val
    if ((s.part q).restore.map Prod.fst) = some d then s.settleRestore q
    else match s.readContext q (x.arg 0x10 8) (x.arg 0x18 8) with
      | (.error st, t) => t.complete d st 0 0
      | (.ok m, t) =>
        let f := m.bytesOf 5
        if (m.sect 5).isSome && !foldOk f then t.complete d stBad 0 0
        else match t.readOthers q (foldOthers f) with
          | (.error st, t) => t.complete d st 0 0
          | (.ok others, t) =>
            match (t.part q).binding with
            | none => t.complete d stRefused 0 0
            | some b =>
              match t.refoldStatus q b m ((x.arg 0x10 8, m) :: others) with
              | some st => t.complete d st.1 st.2 0
              | none =>
                let es := (foldRaw f).map FoldEntry.ofBytes
                let u := t.resetKeeping q b d
                let u := (u.partCores q).foldl (fun v n => v.updCore n (fun c => c.installed (v.setupLive n))) u
                let u := u.loadBetas q b
                let u := es.foldl (fun v e => v.foldEntry q b e) u
                let offs := (es.filter (fun e => e.kind == 2)).map (fun e => (e.index, leNat (t.rd e.source 8)))
                let exact := m.point == 0 && t.det
                let u := u.updPart q (fun p => p.restored m 0 0 (if exact then 0 else 1) d)
                match u.restartRings q b offs with
                | none => (u.updPart q (fun p => { p with restore := none })).resetPart q
                | some v => v.settleRestore q)

end Sys2Proof.Machine
end

