-- ==== Sys2Proof/Machine/Edges.lean ====
section
/-! DEFINITION. The edge routers' plan entries, hold, and the Pergola STOP (R157 to R169, R443). -/

namespace Sys2Proof.Machine

/-! ## Plan entries -/

/-- The word of an entry that is transferred at a tick, for an epoch tick (R157). -/
def PlanEntry.wordAt (e : PlanEntry) (epoch tick : Nat) : Option Nat :=
  let d := tick - (epoch + e.offset)
  if epoch + e.offset ≤ tick ∧ 0 < e.stride ∧ d % e.stride = 0 ∧ d / e.stride ≤ e.count then some (d / e.stride) else none

/-- The length in bytes of an entry's words. -/
def PlanEntry.bytes (e : PlanEntry) : Nat := 8 * 2 ^ e.len

/-- The first byte of word k of an entry in its buffer (R157). -/
def PlanEntry.byteAt (e : PlanEntry) (k : Nat) : Nat := ((e.addr : Int) + k * e.step).toNat * 8

/-- A plan entry of a partition. -/
def Partition.planEntry (p : Partition) (ed : Edge) (r i : Nat) : Option PlanEntry :=
  match p.binding with
  | some b => ((b.plans.filter (fun x => x.edge == ed && x.router == r)).flatMap RouterPlan.entries)[i]?
  | none => none

/-- The word that a plan entry transfers at the present tick: the entry and its word, when the partition runs, the entry
is of this kind and the attached core is in its colour phase (R157). -/
def State.planDue (s : State) (q : Nat) (ed : Edge) (r i op : Nat) : Option (PlanEntry × Nat) :=
  let p := s.part q
  match p.planEntry ed r i with
  | none => none
  | some e =>
    if p.run = .running ∧ !(p.stopped ∧ p.froze) ∧ e.op = op ∧ (e.all ∨ (s.core (routerCore ed r)).live.phase = e.phase) then
      (e.wordAt p.epoch p.tick).map (fun k => (e, k))
    else none

/-- The ring of a kind that holds a run of bytes of a buffer (R443): its index and its size. -/
def Partition.ringAt (p : Partition) (b off n kind : Nat) : Option Nat :=
  match p.binding with
  | none => none
  | some bd => ((bd.rings.zipIdx).find? (fun e =>
      let pl := bd.ringPlace e.1
      e.1.kind == kind && pl.1 == b && pl.2 ≤ off && off + n ≤ pl.2 + e.1.bytes)).map Prod.snd

/-- The word of a read that a buffer already serves in the present cycle (R158). -/
def EdgeCycle.served (e : EdgeCycle) (b granule len : Nat) : Option LinkWord :=
  (e.reads.find? (fun x => x.buffer == b && x.granule == granule && x.len == len)).map EdgeRead.word

/-- A buffer refuses a router's access (R159): EDGE_PLAN once for the buffer in the cycle, and every partition that owns
the region of a refused access is marked faulted. -/
def State.refuse (s : State) (b router off : Nat) : State :=
  let s := if b ∈ s.edge.refused then s else
    { s.reportBuffer b 0x32 router off with edge := { s.edge with refused := b :: s.edge.refused } }
  let tag := s.bufferTag b off
  if tag < 96 then s.updPart tag (fun p => { p with faulted := true }) else s

/-- A delivered word on its way to the attached core's landing register (R157). -/
def State.deliverWord (s : State) (ed : Edge) (r tick : Nat) (x : LinkWord) : State :=
  s.updCore (routerCore ed r) (fun c => { c with arriving := c.arriving ++ [⟨tick + 2, ed.dir, x⟩] })

/-- The read of a word by a partition's deliver entry for a router: the word, and the state in which its ring has given its
bytes (R157, R443). The word is bad when the ring holds too few bytes, which is reported for the router, or when a granule has
a double-bit error (R129). -/
def State.planRead (s : State) (q b off n router : Nat) : LinkWord × State :=
  let ring := (s.part q).ringAt b off n 0
  let short := match ring with
    | some r => decide (((s.part q).ring r).fill < n)
    | none => false
  let s := match ring with
    | some r => s.updPart q (fun p => p.updRing r (fun x => { x with fill := x.fill - n, used := x.used + n }))
    | none => s
  let s := if short then s.refuse b router off else s
  let rd := s.bufferRead b off n
  let mark : Option Byte := if rd.1.isSome then some 0x11 else if short then some 0x32 else none
  (⟨padTo 64 (if mark.isSome then [] else rd.2.1), n, mark⟩, rd.2.2)

/-- PLAN_DELIVER: the entry's word of this tick is read and lands two ticks later (R157, R443). A read that the buffer
already serves in the tick is merged: the word read once goes to this router too (R158). A further distinct read after sixteen
is refused, and its word is bad (R159). -/
def execPlanDeliver (q : QuireId) (ed : Edge) (router : Fin 128) (entry : Fin 256) (s : State) : Out :=
  match s.planDue q ed router entry 0 with
  | none => .next s
  | some (en, k) =>
    let b := ed.code
    let off := en.byteAt k
    let n := en.bytes
    let tick := (s.part q).tick
    match s.edge.served b (off / 8) en.len with
    | some x => .next (s.deliverWord ed router tick x)
    | none =>
      if 16 ≤ (s.edge.reads.filter (fun x => x.buffer == b)).length then
        .next ((s.refuse b router off).deliverWord ed router tick ⟨zeros 64, n, some 0x32⟩)
      else
        let r := s.planRead q b off n router
        .next ({ r.2 with edge := { r.2.edge with reads := ⟨b, off / 8, en.len, r.1⟩ :: r.2.edge.reads } }.deliverWord
          ed router tick r.1)

/-- The word that a core sent toward an edge at a tick. -/
def Partition.sentTo (p : Partition) (ed : Edge) (r t : Nat) : Option LinkWord :=
  (p.edgeOut.find? (fun w => w.1 == ed && w.2.1 == r && w.2.2.1 == t)).map (fun w => w.2.2.2)

/-- PLAN_COLLECT: the word that the core sent two ticks ago is written to the buffer, zeros when it sent none (R157 to
R159, R443). The write lands at the end of the cycle, so that the highest router's word of a granule stands and the stream
engines see it from the next tick. DESIGN CHOICE (log 110): a write discarded for want of free space does not count against
the sixteen of R158. -/
def execPlanCollect (q : QuireId) (ed : Edge) (router : Fin 128) (entry : Fin 256) (s : State) : Out :=
  match s.planDue q ed router entry 1 with
  | none => .next s
  | some (en, k) =>
    let b := ed.code
    let off := en.byteAt k
    let n := en.bytes
    let tick := (s.part q).tick
    let bytes := match (s.part q).sentTo ed router (tick - 2) with
      | some x => if 2 ≤ tick then padTo n (x.bytes.take x.len) else zeros n
      | none => zeros n
    let ring := (s.part q).ringAt b off n 1
    let short := match ring with
      | some r => decide (((s.part q).ring r).fill < n)
      | none => false
    if 16 ≤ (s.edge.writes.filter (fun x => x.buffer == b)).length || short then .next (s.refuse b router off)
    else
      let s := match ring with
        | some r => s.updPart q (fun p => p.updRing r (fun x => { x with fill := x.fill - n }))
        | none => s
      .next { s with edge := { s.edge with writes := s.edge.writes ++ [⟨b, off, bytes, ring.map (fun r => (q.val, r))⟩] } }

/-- A collected word lands: its bytes are stored, and its ring shows them to the stream engines (R157, R443). -/
def State.landCollected (s : State) (w : EdgeWrite) : State :=
  let s := s.bufferWrite w.buffer w.offset w.bytes
  match w.ring with
  | some (q, r) => s.updPart q (fun p => p.updRing r (fun x => { x with used := x.used + w.bytes.length }))
  | none => s

/-- The end of an array cycle at the edges: the collected words land, and the counts start again (R157, R158). -/
def State.endEdgeCycle (s : State) : State :=
  s.edge.writes.foldl State.landCollected { s with edge := {} }

/-! ## Hold -/

/-- HOLD_RAISE: a ring is below its low-water mark (R165). While a drop waits for its resume cycle, the hold stays in
force instead (R166). -/
def execHoldRaise (q : QuireId) (s : State) : Out :=
  let p := s.part q
  match p.run, p.lowRing with
  | .running, some r =>
    match p.hold with
    | some h => .next (s.updPart q (fun p => { p with resumeIn := none, hold := some { h with full := false } }))
    | none =>
      let s := s.updPart q (fun p => { p.freeze with
        resumeIn := none
        hold := some { ring := r, raised := p.tick, freeze := min (p.freezeAt.getD (p.tick + 40)) (p.tick + 40)
                       since := s.clk.wall, limit := s.rf Reg.arrHoldcfg 19 0 } })
      .next ((s.count (Reg.prtHoldstat q) 23 0 1).setRf (Reg.prtHoldstat q) 52 48 r)
  | _, _ => .next s

/-- Whether the controller may drop a hold: the freeze tick issues or has issued, every ring stands at its high-water mark
or did so before the freeze tick, and none has fallen below its low-water mark again (R166). -/
def Partition.mayDrop (p : Partition) (h : Hold) : Bool :=
  p.atFreeze && p.resumeIn.isNone && (p.ringsHigh || h.full) && p.lowRing.isNone

/-- Before the freeze tick a hold notes that every ring has reached its high-water mark, until one falls below its low-water
mark again (R166). -/
def Partition.watchRings (p : Partition) : Partition :=
  match p.hold with
  | some h => if p.atFreeze then p else { p with hold := some { h with full := (h.full || p.ringsHigh) && p.lowRing.isNone } }
  | none => p

/-- HOLD_DROP: every ring has reached its high-water mark; the partition resumes 40 cycles later, and the hold counts for
LONGEST (R166, R167). DESIGN CHOICE (log 109): LONGEST measures from the raise to the drop, in whole microseconds rounded
down, and a hold that a STOP or a reset ends leaves it. -/
def execHoldDrop (q : QuireId) (s : State) : Out :=
  let p := s.part q
  match p.hold with
  | some h =>
    if p.mayDrop h && !s.resetWaits q then
      let us := (s.clk.wall - h.since) / 1200
      let s := s.updPart q (fun p => { p with resumeIn := some 40 })
      .next (s.peak (Reg.prtHoldstat q) 47 24 (min 0xFFFFFF us))
    else .next s
  | none => .next s

/-- HOLD_TIMEOUT: the hold has lasted longer than the HOLD_LIMIT in µs that stood when it was raised; it is reported
once and stays in force (R167, R427). -/
def execHoldTimeout (q : QuireId) (s : State) : Out :=
  match (s.part q).hold with
  | some h =>
    if !h.reported && (s.part q).resumeIn.isNone && decide (h.since + usec h.limit < s.clk.wall) then
      .next ((s.updPart q (fun p => { p with hold := some { h with reported := true } })).report
        (blockSrc 0 q) 0x40 h.ring q)
    else .next s
  | none => .next s

/-- PERGOLA_STOP: a core asserts STOP; the partition is marked faulted and freezes by the freeze-tick rule (R169). -/
def execPergolaStop (q : QuireId) (s : State) : Out :=
  let p := s.part q
  .next (if p.exists_ && p.stopLine && !p.stopped then s.stopPart q else s)

end Sys2Proof.Machine
end

