-- ==== Sys2Proof/Machine/Gatehouse.lean ====
section
/-! DEFINITION. The Gatehouse: its command queue with the mailbox commands, signing, the persistent log, the watchdog,
sensors, and management Ethernet and SMBus (R385 to R400). -/

namespace Sys2Proof

/-- The requester that a command source stands for (R313, R424). -/
def MgtSource.who : MgtSource → Requester
  | .mailboxA => .portA | .mailboxB => .portB | .ethernet => .gatehouse | .smbus => .gatehouse

/-- The mailbox of a source. -/
def MgtSource.box : MgtSource → Option Port
  | .mailboxA => some .a | .mailboxB => some .b | _ => none

/-- The source that a mailbox is. -/
def Port.source : Port → MgtSource
  | .a => .mailboxA | .b => .mailboxB

end Sys2Proof

namespace Sys2Proof.Machine

/-! ## Commands and their ends (R391) -/

/-- Argument i. -/
def MgtCmd.arg (c : MgtCmd) (i : Nat) : Nat := (c.args.getD i 0).toNat

/-- The arguments of an opcode: how many the table lists, and the bits of ARG0 that are reserved. -/
def argShape (op : Nat) : Option (Nat × Nat) :=
  match op with
  | 1 => some (1, 1) | 2 => some (1, 7) | 3 => some (1, 32) | 4 => some (1, 16) | 5 => some (2, 64) | 6 => some (1, 64)
  | 7 => some (2, 64) | 8 => some (0, 0) | 9 => some (3, 64) | 10 => some (2, 64) | 11 => some (1, 1) | _ => none

/-- Whether the Gatehouse serves an opcode; its boot ROM serves two (R388). -/
def State.serves (s : State) (op : Nat) : Bool :=
  (argShape op).isSome && (!s.boot.bootRom || op == 1 || op == 7)

/-- Whether an opcode is known and the reserved arguments are zero. -/
def MgtCmd.ok (c : MgtCmd) : Bool :=
  match argShape c.opcode with
  | none => false
  | some (n, bits) => (c.args.drop n).all (· == 0) && decide (c.arg 0 < 2 ^ bits)

/-- A reply over management Ethernet, in datagrams of up to 1,400 B of data (R399). -/
def ethReply (c : MgtCmd) (status : Nat) (data : List Byte) : List (List Byte) :=
  (if data.isEmpty then [[]] else chunks 1400 data).map (fun p =>
    leBytes 4 c.seq ++ leBytes 1 c.opcode ++ leBytes 1 status ++ leBytes 2 p.length ++ zeros 8 ++ p)

/-- A command ends (R391): a mailbox reads STATUS and RESULT with BUSY clear and may be interrupted; a datagram is
answered. -/
def State.endCmd (s : State) (c : MgtCmd) (status result : Nat) (data : List Byte) : State :=
  match c.src.box with
  | some p =>
    let off := Reg.mgtStatus p.num
    let s := ((s.setRf off 0 0 0).setRf off 15 8 status).setRf off 63 32 result
    if c.irq then s.interrupt p c.vector else s
  | none =>
    if c.src = .ethernet then { s with mgt := { s.mgt with ethOut := s.mgt.ethOut ++ ethReply c status data } } else s

/-- Commands at the head of the queue that no row serves end BAD_DESCRIPTOR. -/
def State.dropUnknown (s : State) : Nat → State
  | 0 => s
  | n + 1 =>
    match s.mgt.queue with
    | c :: cs =>
      if s.serves c.opcode then s
      else ({ s with mgt := { s.mgt with queue := cs } }.endCmd c stBad 0 []).dropUnknown n
    | [] => s

/-- The place of a source in the order of one cycle (R400). -/
def MgtSource.rank : MgtSource → Nat
  | .mailboxA => 0 | .mailboxB => 1 | .ethernet => 2 | .smbus => 3

/-- A command put among waiting ones: in order of arrival, and within one cycle in the order of the sources (R400). -/
def queueCmd (c : MgtCmd) (l : List MgtCmd) : List MgtCmd :=
  let later (x : MgtCmd) : Bool := x.at_ == c.at_ && decide (MgtSource.rank c.src < MgtSource.rank x.src)
  l.filter (fun x => !later x) ++ c :: l.filter later

/-- A command joins the Gatehouse's queue. -/
def State.pushCmd (s : State) (c : MgtCmd) : State :=
  let s := { s with mgt := { s.mgt with queue := queueCmd { c with at_ := s.mc } s.mgt.queue } }
  s.dropUnknown s.mgt.queue.length

/-- The head of the queue leaves it. -/
def State.popCmd (s : State) : State := { s with mgt := { s.mgt with queue := s.mgt.queue.drop 1 } }

/-- Whether a command waits for the flash write in progress: commands that write flash are taken one at a time (R380). -/
def State.writeWaits (s : State) (op : Nat) : Bool := s.mgt.job.isSome && [5, 6, 7].contains op

/-- Serve the head of the queue when it is a command of an opcode: a malformed one ends BAD_DESCRIPTOR (R391); some are
refused over management Ethernet without MGE_WRITE (R399). A halted processor serves none (R385). -/
def State.serve (s : State) (op : Nat) (f : MgtCmd → State → State) : State :=
  match s.mgt.queue with
  | [] => s
  | c :: _ =>
    if c.opcode ≠ op ∨ !s.serves op ∨ (s.boot.inReset ∧ !s.boot.bootRom) ∨ s.pwr.state = .s3 ∨ s.mgt.halted ∨
        s.writeWaits op then s
    else
      let t := s.popCmd
      let t :=
        if !c.ok then t.endCmd c stBad 0 []
        else if c.src = .ethernet ∧ op ∈ [1, 5, 6, 8, 11] ∧ !(leAt ((s.storeEntry 7).getD []) 0 1).testBit 1 then
          t.endCmd c stRefused 0 []
        else f c t
      t.dropUnknown t.mgt.queue.length

/-- A non-volatile write asked for under a sag is refused (R381). -/
def State.sagRefused (s : State) (c : MgtCmd) : State :=
  (s.raise Reg.cfgStatus 6 6 1).endCmd c stRefused 0 []

/-- The data of a command: staged in LPDDR6 for a mailbox, carried by the datagrams otherwise; none after an uncorrectable
access. -/
def State.cmdData (s : State) (c : MgtCmd) (a n : Nat) : Option (List Byte) × State :=
  if c.src.box.isNone then (some c.bytes, s)
  else
    let t := s.dramRead 127 a n
    if (s.dramUe a n).isSome then (none, t) else (some (s.rd a n), t)

/-- Whether a mailbox's staged range lies in LPDDR6. -/
def State.staged (s : State) (c : MgtCmd) (a n : Nat) : Bool := c.src.box.isNone || s.inDram a n

/-- A command whose data may be staged in LPDDR6: a bad address ends it BAD_DESCRIPTOR, an uncorrectable access FAULTED
(log 46). -/
def State.withData (s : State) (c : MgtCmd) (a n : Nat) (f : List Byte → State → State) : State :=
  if !s.staged c a n then s.endCmd c stBad 0 []
  else
    match s.cmdData c a n with
    | (none, t) => t.endCmd c stFaulted 0 []
    | (some bs, t) => f bs t

/-- A log entry of the Gatehouse's own (R355, R395): 1 start, 2 firmware update, 3 CAL write, 4 fuse burn. -/
def State.ghsEvent (s : State) (event : Nat) : State := s.enterLog ⟨faultMsg (blockSrc 9 0) 0 event, 127, s.mc⟩

/-! ## Flash writes in progress (R380, R381, R389) -/

/-- The end of a flash write: the command that asked for it ends with a status. -/
def State.endWrite (s : State) (j : FlashJob) (status : Nat) : State :=
  let s := { s.setRf Reg.cfgStatus 5 4 0 with mgt := { s.mgt with job := none } }
  match j.cmd with
  | some c => s.endCmd c status 0 []
  | none => s

/-- A flash write cut short by a sag or a module reset: it stops at the next page boundary and ends REFUSED (R381, R391). -/
def State.cutWrite (s : State) : State :=
  match s.mgt.job with
  | some j => ((s.programPage j).raise Reg.cfgStatus 6 6 1).endWrite j stRefused
  | none => s

/-- A firmware slot is written with an image (R389). -/
def State.writeSlot (s : State) (k : Nat) (cmd : Option MgtCmd) (img : List Byte) : State :=
  s.startWrite (.slot k) cmd (fwSlot k) 0x1000000 img

/-- Whether a firmware slot, read back, holds a sound image (R389). -/
def State.slotSound (s : State) (k : Nat) : Bool :=
  let h := s.slotHeader k
  s.imageSound h (s.flashRd (fwSlot k + 4096) (min 16773120 (leAt h 0x10 4)))

/-- The last page of a flash write is programmed (R380, R382, R389): a configuration copy is in force, a calibration set is entered
in the log, slot B is read back and verified and slot A follows, and after slot A the update is done. -/
def State.wroteAll (s : State) (j : FlashJob) : State :=
  match j.goal with
  | .store k seq => (((s.setRf Reg.cfgStatus 0 0 k).setRf Reg.cfgStatus 1 1 1).setRf Reg.cfgStatus 39 8 seq).endWrite j stDone
  | .calibration => (s.ghsEvent 3).endWrite j stDone
  | .slot k =>
    if !s.slotSound k then s.endWrite j stMismatch
    else if k = 0 then (s.ghsEvent 2).endWrite j stDone
    else if s.boot.sag then (s.raise Reg.cfgStatus 6 6 1).endWrite j stRefused
    else s.writeSlot 0 j.cmd j.image

/-- The flash write in progress in a unit of time: the page in progress is complete after its time, and the next one follows. -/
def State.flashCycle (s : State) : State :=
  match s.mgt.job with
  | none => s
  | some j =>
    if s.mgt.halted || decide (s.clk.wall < j.pageAt) then s
    else
      let t := s.programPage j
      if j.image.length ≤ j.next + pageBytes then t.wroteAll j
      else { t with mgt := { t.mgt with job := some { j with next := j.next + pageBytes, pageAt := s.clk.wall + pageTime } } }

/-- What bring-up writes to the configuration store once GEN_CAPS is published and no other write runs; refused under a sag
(R369, R380, R381). -/
def State.storeCycle (s : State) : State :=
  if s.boot.toStore.isEmpty || !s.boot.published || s.mgt.job.isSome then s
  else
    let es := s.boot.toStore
    let s := { s with boot := { s.boot with toStore := [] } }
    if s.boot.sag then s.raise Reg.cfgStatus 6 6 1 else s.writeStore none es

/-- SUPPLY_SAG: VAUX is low or the core supply monitor reports a sag: a running write stops at its next page boundary, and none
begins (R381). -/
def execSupplySag (s : State) : Out :=
  let s := s.cutWrite
  .next { s with boot := { s.boot with sag := true } }

/-! ## Resets, regions (R162, R163, R324) -/

/-- MODULE_RESET: the module reset follows, with no completion; a running flash write stops first (R391). -/
def execModuleReset (s : State) : Out :=
  .next (s.serve 1 (fun c s => s.cutWrite.moduleReset ((c.arg 0).testBit 0)))

/-- QUIRE_RESET: refused where the partition's PRT_OWNER would refuse the port (R313, R324). -/
def execQuireReset (s : State) : Out :=
  .next (s.serve 2 (fun c s =>
    let q := c.arg 0
    if 96 ≤ q then s.endCmd c stBad 0 []
    else
      match s.partOfQuire q with
      | some p => if s.mayOwn c.src.who p then (s.resetQuire q).endCmd c stDone 0 [] else s.endCmd c stRefused 0 []
      | none => (s.resetQuire q).endCmd c stDone 0 []))

/-- REGION_ALLOC: ARG0 holds buffer, first block, blocks − 1 and USE in its bytes (R162, log 47). -/
def execRegionAlloc (s : State) : Out :=
  .next (s.serve 3 (fun c s =>
    let a := c.arg 0
    let b := bitsN a 7 0
    let first := bitsN a 15 8
    let blocks := bitsN a 23 16
    let use := bitsN a 31 24
    if 3 < b ∨ use < 3 ∨ 5 < use ∨ 255 < first + blocks then s.endCmd c stBad 0 []
    else
      match s.allocAt 128 b first blocks 127 use with
      | some (s, k) => s.endCmd c stDone k []
      | none => s.endCmd c stConflict 0 []))

/-- REGION_FREE: ARG0 holds buffer and region index (R163, log 47). -/
def execRegionFree (s : State) : Out :=
  .next (s.serve 4 (fun c s =>
    let b := bitsN (c.arg 0) 7 0
    let k := bitsN (c.arg 0) 15 8
    if 3 < b ∨ 31 < k then s.endCmd c stBad 0 []
    else
      let v := s.regionReg b k
      if !bit v 31 then s.endCmd c stDone 0 []
      else if fld v 22 16 < 96 then s.endCmd c stRefused 0 []
      else if s.stagingBusy (fld v 27 24) then s.endCmd c stConflict 0 []
      else (s.freeAt b k).endCmd c stDone 1 []))

/-! ## Non-volatile writes (R380 to R383, R389, R390) -/

/-- The configuration entries in a byte string; none when they do not fill it. -/
def parseEntries : Nat → List Byte → Option (List (Nat × List Byte))
  | _, [] => some []
  | 0, _ => none
  | n + 1, bs =>
    let len := leAt bs 4 4
    let whole := 8 + roundUp len 8
    if bs.length < whole then none
    else (parseEntries n (bs.drop whole)).map (fun es => (leAt bs 0 4, slice bs 8 len) :: es)

/-- CONFIG_WRITE: a new copy of the configuration store with the given entries (R380, R381). -/
def execConfigWrite (s : State) : Out :=
  .next (s.serve 5 (fun c s =>
    if 0x40000 < c.arg 1 then s.endCmd c stBad 0 []
    else s.withData c (c.arg 0) (c.arg 1) (fun bs s =>
      match parseEntries (bs.length / 8) bs with
      | none => s.endCmd c stBad 0 []
      | some es =>
        if 0x40000 < (cfgImage 0 (mergeEntries s.store es)).length then s.endCmd c stBad 0 []
        else if s.boot.sag then s.sagRefused c
        else s.writeStore (some c) es)))

/-- CAL_WRITE: the calibration set is replaced as a whole when its digest matches (R381, R382). -/
def execCalWrite (s : State) : Out :=
  .next (s.serve 6 (fun c s =>
    s.withData c (c.arg 0) 65536 (fun bs s =>
      if bs.length ≠ 65536 ∨ shake256_256 (bs.take 65504) ≠ bs.drop 65504 then s.endCmd c stMismatch 0 []
      else if s.boot.sag then s.sagRefused c
      else
        let s := { s.setRf Reg.cfgStatus 3 3 0 with fuse := { s.fuse with calFactory := false } }
        s.startWrite .calibration (some c) 0x2080000 0x10000 bs)))

/-- A firmware image written into slot B and then slot A, once it is verified (R389). The boot ROM reads it a second time for
that (R388, log 132). -/
def State.updateFw (s : State) (c : MgtCmd) (img : List Byte) : State :=
  let h := img.take 4096
  if !s.imageSound h (img.drop 4096) || decide (64 < leAt h 0x0C 4 ∨ img.length < 4096 + leAt h 0x10 4 ∨
      0x1000000 < img.length) then s.endCmd c stMismatch 0 []
  else if leAt h 0x0C 4 < s.rollback then s.endCmd c stRefused 0 []
  else if s.boot.sag then s.sagRefused c
  else s.writeSlot 1 (some c) (if s.boot.bootRom then padTo img.length (Config.secondPass s.clk.wall img) else img)

/-- FW_UPDATE: the image is staged in LPDDR6; the boot ROM reads it from the host behind the mailbox's port, whose memory
holds `host` there (R388, R389). -/
def execFwUpdate (host : List Byte) (s : State) : Out :=
  .next (s.serve 7 (fun c s =>
    if s.boot.bootRom ∧ c.src.box.isSome then s.updateFw c (host.take (c.arg 1))
    else s.withData c (c.arg 0) (c.arg 1) (fun bs s => s.updateFw c bs)))

/-- FW_COMMIT: the anti-rollback counter rises to the running image's ROLLBACK (R390). -/
def execFwCommit (s : State) : Out :=
  .next (s.serve 8 (fun c s =>
    let want := s.rf Reg.mgtFwinfo 22 16
    if s.rollback = want then s.endCmd c stDone 0 []
    else if !([0, 1].all (fun k => s.slotValid k && decide (want ≤ leAt (s.slotHeader k) 0x0C 4))) then
      s.endCmd c stRefused 0 []
    else if s.boot.sag then s.sagRefused c
    else
      let s := { s with fuse := { s.fuse with rollback := max s.rollback want } }
      ((s.setRf Reg.mgtFwinfo 14 8 s.fuse.rollback).ghsEvent 4).endCmd c stDone 0 []))

/-! ## The persistent log (R395) -/

/-- Entries of the log ring. -/
abbrev logEntries : Nat := 1015808

/-- Flash offset of the entry with a SEQ. -/
def logAt (seq : Nat) : Nat := 0x2100000 + seq % logEntries * 32

/-- A sector of flash erased. -/
def State.eraseSector (s : State) (a : Nat) : State :=
  s.flashErase a 0x10000

/-- The 32 B of a log entry (log 48). -/
def logEntry (m : FaultMsg) (time : U64) (start seq : Nat) : List Byte :=
  leBytes 8 m.msg.toNat ++ leBytes 8 time.toNat ++ leBytes 4 start ++ leBytes 4 (seq % 2 ^ 32) ++ leBytes 1 m.tag ++ zeros 7

/-- One entry programmed, its sector erased first when the ring wraps onto it. -/
def State.programEntry (s : State) (e : FaultMsg × U64) : State :=
  let seq := s.mgt.logSeq
  let start := s.rf Reg.genStarts 31 0
  let a := logAt seq
  let s := if seq % 2048 = 0 then s.eraseSector a else s
  let begins : Bool := fld e.1.msg 47 40 == 0 && fld e.1.msg 7 0 == 1
  { s.flashWr a (logEntry e.1 e.2 start seq) with mgt := { s.mgt with
      logSeq := seq + 1, lastStart := if begins then start else s.mgt.lastStart } }

/-- LOG_PROGRAM: the waiting entries are programmed when 64 wait, or 100 ms after the oldest arrived; under a sag they
stay (R381, R395). -/
def execLogProgram (s : State) : Out :=
  match s.flt.log with
  | [] => .next s
  | e :: _ =>
    if !s.boot.sag && !s.mgt.halted &&
        (decide (64 ≤ s.flt.log.length) || decide (e.1.at_ + 80000000 ≤ s.mc)) then
      .next (s.flt.log.foldl State.programEntry { s with flt := { s.flt with log := [] } })
    else .next s

/-- The log entries of a run of SEQs that the log holds. -/
def State.logRun (s : State) (first n : Nat) : List Byte :=
  ((List.range (min n logEntries)).map (fun i => (first + i, s.flashRd (logAt (first + i)) 32))
    |>.takeWhile (fun e => decide (e.1 < s.mgt.logSeq) && leAt e.2 20 4 == e.1 % 2 ^ 32)).flatMap Prod.snd

/-- LOG_READ: entries copied to LPDDR6, or returned in datagrams (R391, R399). -/
def execLogRead (s : State) : Out :=
  .next (s.serve 9 (fun c s =>
    let bs := s.logRun (c.arg 0) (c.arg 1)
    let n := bs.length / 32
    if !s.staged c (c.arg 2) bs.length then s.endCmd c stBad 0 []
    else if c.src.box.isSome then (s.wrDram 127 (c.arg 2) bs).endCmd c stDone n []
    else s.endCmd c stDone n bs))

/-! ## Attestation and signing (R393, R394) -/

/-- The attestation facts after the nonce: serial number, GEN_DET_CLASS, the running slot with its SEQ and ROLLBACK, the
anti-rollback counter, STORE_SEQ and CAL_FACTORY, and the digests of both slots' headers (log 49). -/
def State.attestFacts (s : State) : List Byte :=
  leBytes 8 s.serial ++ leBytes 4 (s.rf Reg.genDetClass 31 0) ++ leBytes 4 s.mgt.slot ++
  leBytes 4 (s.rf Reg.mgtFwinfo 63 32) ++ leBytes 4 (s.rf Reg.mgtFwinfo 22 16) ++ leBytes 4 s.rollback ++
  leBytes 4 (s.rf Reg.cfgStatus 39 8) ++ leBytes 4 (s.rf Reg.cfgStatus 3 3) ++
  shake256_256 (s.slotHeader 0) ++ shake256_256 (s.slotHeader 1)

/-- ATTEST: the report joins the signing queue, and the command ends with its signature (R391, R394). -/
def execAttest (s : State) : Out :=
  .next (s.serve 10 (fun c s =>
    if !s.staged c (c.arg 1) 2048 then s.endCmd c stBad 0 []
    else s.withData c (c.arg 0) 32 (fun nonce s =>
      if !s.provisioned then s.endCmd c stRefused 0 []
      else if s.ent.state = .fatal then (s.count Reg.mgtHealth 31 16 1).endCmd c stEntropyFailed 0 []
      else if !s.ent.state.serves then s.endCmd c stNotReady 0 []
      else
        match s.askSign ⟨padTo 512 (padTo 32 nonce ++ s.attestFacts), c.arg 1, none, some c, none⟩ with
        | (true, t) => t
        | (false, t) => t.endCmd c stRefused 0 [])))

/-- The signature area: length, signature, zero padding. -/
def signatureArea (sig : List Byte) : List Byte := padTo 1536 (leBytes 2 sig.length ++ sig)

/-- A reply leaves the SMBus endpoint. -/
def State.mctpSend (s : State) (bs : List Byte) : State := { s with mgt := { s.mgt with mctpOut := s.mgt.mctpOut ++ [bs] } }

/-- A signing job ends: a Colophon takes its signature and its run may complete; a report is handed over; measurements are
returned. Without a signature the length is 0 and SIGNED stays clear (R229). -/
def State.endSign (s : State) (j : SignJob) (sig : Option (List Byte)) : State :=
  match j.run, j.cmd with
  | some (q, d), _ =>
    let s := match sig with
      | some g => (s.wrDram q j.dest j.message).wrDram q (j.dest + 0x100) (signatureArea g)
      | none => s
    (s.updPart q (fun p => { p with job := p.job.map (fun x => if x.desc = d then { x with sign := false } else x) })).settleJob q
  | none, some c =>
    match sig with
    | some g =>
      let bs := j.message ++ signatureArea g
      if c.src.box.isSome then (s.wrDram 127 j.dest bs).endCmd c stDone 0 [] else s.endCmd c stDone 0 bs
    | none => s.endCmd c stEntropyFailed 0 []
  | none, none =>
    match j.spdm with
    | some req => s.mctpSend (Config.spdmReply req j.message (sig.getD []))
    | none => s

/-- GATEHOUSE_SIGN: the oldest request is signed with 64 B of entropy; after ENT_FATAL it is refused (R349, R352, R394). -/
def execGatehouseSign (s : State) : Out :=
  match s.mgt.sign with
  | [] => .next s
  | j :: js =>
    let t := { s with mgt := { s.mgt with sign := js } }
    if s.mgt.halted then .next s
    else if s.ent.state = .fatal then .next ((t.count Reg.mgtHealth 31 16 1).endSign j none)
    else match s.takeFor .signing 64 with
      | some (bs, u) =>
        .next (State.endSign { u with mgt := { u.mgt with sign := js } } j (some (Config.falconSign j.message bs)))
      | none => .next s

/-! ## Debug port (R392) -/

/-- DEBUG with ARG0 1: opened only when the Gatehouse settings allow it (log 50). -/
def execDebugOpen (s : State) : Out :=
  match s.mgt.queue with
  | c :: _ =>
    .next (if c.opcode = 11 ∧ c.ok ∧ c.arg 0 = 0 then s
      else s.serve 11 (fun c s =>
        if (leAt ((s.storeEntry 7).getD []) 0 1).testBit 0 then
          { s with mgt := { s.mgt with debugOpen := true } }.endCmd c stDone 0 []
        else s.endCmd c stRefused 0 []))
  | [] => .next s

/-- DEBUG with ARG0 0. -/
def execDebugClose (s : State) : Out :=
  match s.mgt.queue with
  | c :: _ =>
    .next (if c.opcode = 11 ∧ c.ok ∧ c.arg 0 = 1 then s
      else s.serve 11 (fun c s => { s with mgt := { s.mgt with debugOpen := false } }.endCmd c stDone 0 []))
  | [] => .next s

/-! ## Watchdog (R386) -/

/-- MGT_WDT.KICK written: 0xA5 from the Gatehouse restarts the watchdog; a halted processor writes nothing (R385). -/
def State.kickWdt (s : State) (who : Requester) (value : Nat) : State :=
  if who = .gatehouse ∧ value = 0xA5 ∧ !s.mgt.halted then { s with mgt := { s.mgt with wdtAt := s.clk.wall } } else s

/-- KICK (R386). -/
def execKick (who : Requester) (value : Byte) (s : State) : Out := .next (s.kickWdt who value.toNat)

/-- GHS_WATCHDOG: the watchdog expires LIMIT rc (40 ns, 48 units of `wall`) after its last restart: it is reported with
the program counter and a module reset follows (R358, R386). -/
def execGhsWatchdog (pc : BitVec 40) (s : State) : Out :=
  if (s.boot.inReset ∧ !s.boot.bootRom) ∨ s.pwr.state = .s3 then .next s
  else if s.mgt.wdtAt + s.rf Reg.mgtWdt 39 8 * 48 < s.clk.wall then
    .next ((s.fatalMsg (blockSrc 9 0) 0xB0 pc.toNat).moduleReset false)
  else .next s

/-- The management processor's reads of its SRAM: a corrected word is counted, an uncorrectable one halts the processor
(R385). -/
def State.sramCycle (s : State) : State :=
  if s.mgt.sramErr.isEmpty || s.mgt.halted then s
  else
    match Config.ghsReads s.clk.wall with
    | none => s
    | some w =>
      let e := Table.look (fun _ => 0) s.mgt.sramErr w
      if e = 1 then s.count Reg.mgtHealth 15 0 1
      else if e = 2 then { s with mgt := { s.mgt with halted := true } }
      else s

/-! ## Sensors (R396, R397, R415, R416) -/

/-- One sensor's sample: it enters the window of the last second, and is compared with WARN. -/
def State.sampleSensor (s : State) (x : Fin 128 × U16) : State :=
  let i := x.1.val
  let v := x.2.toInt
  let old := Table.look (fun _ => []) s.mgt.sensors i
  State.warn { s with
    mgt := { s.mgt with sensors := Table.put (fun _ => []) s.mgt.sensors i ((v :: old).take 1000) }
    pwr := { s.pwr with temps := Table.put (fun _ => 0) s.pwr.temps i v } } i

/-- One value of the Gatehouse's sample: a rail's comes over PMBus, and after three failed transactions is not read (R397). -/
def State.takeSensor (s : State) (x : Fin 128 × U16) : State :=
  if 96 ≤ x.1.val ∧ x.1.val < 112 ∧ s.railLost (x.1.val - 96) then s.railFailed (x.1.val - 96) else s.sampleSensor x

/-- SENSOR_SAMPLE: the Gatehouse's 1 ms sample of its sensors (R396, R397, R416). -/
def execSensorSample (values : List (Fin 128 × U16)) (s : State) : Out :=
  .next (if s.boot.inReset ∨ s.mgt.halted then s else values.foldl State.takeSensor s)

/-- A sensor's minimum, maximum and mean over the last second. -/
def sensorFacts (e : Nat × List Int) : Nat × Int × Int × Int :=
  (e.1, e.2.foldl min (e.2.headD 0), e.2.foldl max (e.2.headD 0), e.2.foldl (· + ·) 0 / max 1 e.2.length)

/-! ## Management Ethernet and SMBus (R399, R400) -/

/-- Bytes of data that a datagram command waits for. -/
def MgtCmd.wants (c : MgtCmd) : Nat :=
  if c.opcode = 5 ∨ c.opcode = 7 then min 0x1000000 (c.arg 1) else if c.opcode = 6 then 65536 else if c.opcode = 10 then 32
  else 0

/-- The command that a datagram begins: header, arguments, data (log 51). -/
def gramCmd (bs : List Byte) : MgtCmd :=
  let op := leAt bs 4 1
  let n := match argShape op with
    | some (n, _) => n
    | none => 0
  let body := (bs.drop 16).take (leAt bs 6 2)
  { src := .ethernet, opcode := op, irq := false, vector := 0, seq := leAt bs 0 4
    args := (List.range n).map (fun i => BitVec.ofNat 64 (leAt body (8 * i) 8)), bytes := body.drop (8 * n) }

/-- MGE_DATAGRAM: a datagram on UDP port 7,641 carries a command, or goes on with the data of the one before it
(R399). -/
def execMgeDatagram (bytes : List Byte) (s : State) : Out :=
  if bytes.length < 16 ∨ 1416 < bytes.length ∨ s.boot.inReset ∨ s.mgt.halted then .next s
  else
    let c := match s.mgt.gram with
      | some g =>
        if g.seq = leAt bytes 0 4 ∧ g.opcode = leAt bytes 4 1 then
          { g with bytes := g.bytes ++ (bytes.drop 16).take (leAt bytes 6 2) }
        else gramCmd bytes
      | none => gramCmd bytes
    if c.bytes.length < c.wants then .next { s with mgt := { s.mgt with gram := some c } }
    else .next ({ s with mgt := { s.mgt with gram := none } }.pushCmd c)

/-- The MCTP message type of a packet: 0 control, 1 PLDM, 5 SPDM (log 135). -/
def mctpType (bs : List Byte) : Nat := leAt bs 8 1 % 128

/-- Whether the endpoint serves a packet: its address is the endpoint's, and the boot ROM serves MCTP control and PLDM firmware
update only (R388, R400, log 135). -/
def State.mctpServes (s : State) (bs : List Byte) : Bool :=
  leAt bs 0 1 / 2 == s.mgt.smbAddr &&
  (!s.boot.bootRom || mctpType bs == 0 || (mctpType bs == 1 && leAt bs 10 1 % 64 == 5))

/-- Whether a packet is SPDM GET_MEASUREMENTS (R400, log 135). -/
def asksMeasurements (bs : List Byte) : Bool := mctpType bs == 5 && leAt bs 10 1 == 0xE0

/-- MCTP_MESSAGE: a message to the Gatehouse's endpoint is answered as the named standards give; GET_MEASUREMENTS waits for its
signature; and a completed firmware transfer becomes a firmware update (R400). -/
def execMctpMessage (bytes : List Byte) (s : State) : Out :=
  if (s.boot.inReset ∧ !s.boot.bootRom) ∨ s.mgt.halted ∨ !s.mctpServes bytes then .next s
  else
    let asked := asksMeasurements bytes && s.ent.state.serves
    let r := if asked then s.askSign ⟨padTo 512 (zeros 32 ++ s.attestFacts), 0, none, none, some bytes⟩ else (false, s)
    let s := if r.1 then r.2 else r.2.mctpSend (Config.mctpReply bytes s.attestFacts (s.mgt.sensors.map sensorFacts))
    .next (match Config.mctpImage s.clk.wall bytes with
      | some img => s.pushCmd { src := .smbus, opcode := 7, irq := false, vector := 0
                                args := [0, BitVec.ofNat 64 img.length], bytes := img }
      | none => s)

/-! ## Host links (R292) -/

/-- HOST_LINK_UP: a host port's link trains at a PCIe rate and width (R292). -/
def execHostLinkUp (p : Port) (gen : BitVec 3) (width : BitVec 5) (s : State) : Out :=
  let off := Reg.hstPortstat p.num
  let usable := s.boot.hostPorts.contains p.num
  .next (if (s.boot.inReset ∧ !s.boot.bootRom) ∨ !usable ∨ gen.toNat < 4 ∨ 6 < gen.toNat ∨ width.toNat ∉ [4, 8, 16] then s
    else ((s.setRf off 0 0 1).setRf off 3 1 gen.toNat).setRf off 8 4 width.toNat)

end Sys2Proof.Machine
end

