-- ==== Sys2Proof/Machine/HallCtl.lean ====
section
/-! DEFINITION. The hall's control from software and from the links: connections defined and removed, port modes and links,
MACsec keys, and the global time base (R254, R262, R263, R284, R398). -/

namespace Sys2Proof.Machine

/-! ## Connections (R262) -/

/-- An OPEN or OPEN_ACK message with the window this module grants. -/
def openMsg (code window : Nat) : List Byte := padTo 16 (leBytes 1 code ++ zeros 3 ++ leBytes 2 window)

/-- A connection enters OPENING: an OPEN goes out with SEQ 0 and the window granted (R262, R272). -/
def State.openConn (s : State) (d : Nat) : State :=
  let g := s.grantWindow d
  ((g.2.updConn d (fun _ => { state := .opening, granted := g.1, heard := s.clk.wall })).queueCtrl d (openMsg 1 g.1)).sendNext d

/-- A connection enters CLOSED; an OPEN one sends CLOSE first. Its streams stop. -/
def State.closeConn (s : State) (d : Nat) : State :=
  let c := s.conn d
  let s := if c.state = .opened then s.sendTo d 1 0 c.txSeq 0 (ctrlMsg 3 0 []) else s
  (s.stopStreams (fun x => x.peer == d)).updConn d (fun _ => {})

/-- VALID of HFT_PEER[d] written (R262). The entry of the module's own id is ignored. -/
def State.peerValid (s : State) (d : Nat) (valid : Bool) : State :=
  let was := bit (s.reg (Reg.hftPeer d)) 60
  let s := s.setRf (Reg.hftPeer d) 60 60 (if valid then 1 else 0)
  if d = s.device ∨ was = valid then s
  else if valid then s.openConn d
  else s.closeConn d

/-- PEER_VALID_WRITE: VALID of a hall-table entry written (R262). -/
def execPeerValidWrite (who : Requester) (d : PeerId) (valid : Bool) (s : State) : Out :=
  .next (if s.writeReaches who (Reg.hftPeer d) then s.peerValid d valid else s)

/-- Whether every connection is CLOSED (R261). -/
def State.allClosed (s : State) : Bool := s.hall.conns.all (fun e => e.2.state == .closed)

/-! ## Ports (R254, R263) -/

/-- A hall port's link goes down; a link that was up counts a drop. -/
def State.hallDown (s : State) (p : Nat) : State :=
  let s' := (s.setRf (Reg.hfbPortstat p) 0 0 0).setRf (Reg.hfbPortstat p) 3 2 0
  if s.linkUp p then s'.count (Reg.hfbPortstat p) 47 32 1 else s'

/-- MODE and MEDIUM of a port written: reserved MODE 3 is discarded; a write takes the link down, which then trains again
(R254). -/
def State.portMode (s : State) (p mode : Nat) (medium : Bool) : State :=
  if mode = 3 then s
  else (((s.setRf (Reg.hfbPortcfg p) 1 0 mode).setRf (Reg.hfbPortcfg p) 2 2 (if medium then 1 else 0)).hallDown p)

/-- PORT_MODE_WRITE (R254). -/
def execPortModeWrite (who : Requester) (p : HallPort) (mode : BitVec 2) (medium : Bool) (s : State) : Out :=
  .next (if s.writeReaches who (Reg.hfbPortcfg p) then s.portMode p mode.toNat medium else s)

/-- HALL_LINK_DOWN: a port's link goes down (R263). -/
def execHallLinkDown (p : HallPort) (s : State) : Out := .next (s.hallDown p)

/-- HALL_LINK_UP: a port's link trains in its mode and comes up (R254); a disabled or unusable port stays down (R372). -/
def execHallLinkUp (p : HallPort) (s : State) : Out :=
  let mode := s.rf (Reg.hfbPortcfg p) 1 0
  .next (if (mode = 1 ∨ mode = 2) ∧ p.val ∈ s.boot.hallPorts then
      (s.setRf (Reg.hfbPortstat p) 0 0 1).setRf (Reg.hfbPortstat p) 3 2 mode
    else s)

/-- MACSEC_REKEY: the Gatehouse agrees a secure association, which draws entropy, and installs it, the newest of at most two
per direction (R260, R349, R398). It waits for the entropy; after ENT_FATAL it is refused. -/
def execMacsecRekey (p : HallPort) (an : BitVec 2) (xpn : Bool) (key : BitVec 256) (transmit : Bool) (s : State) : Out :=
  let r : Rekey := ⟨p, transmit, ⟨an.toNat, xpn, key, 1⟩⟩
  .next (if s.ent.state = .fatal then s
    else State.settleKeying { s with hall := { s.hall with keying := s.hall.keying ++ [r] } })

/-! ## Global time (R281, R284) -/

/-- A step of GTIME: taken while no comparator is armed, else discarded with STEP_REFUSED set (R284). -/
def State.gtbStep (s : State) (delta : U64) : State :=
  if (List.range 8).any (fun k => s.cmpArmed k) then s.raise Reg.gtbStatus 18 18 1
  else { s with clk := { s.clk with gtimeNs := s.clk.gtimeNs + delta } }

/-- GTB_STEP_WRITE (R284). -/
def execGtbStepWrite (who : Requester) (delta : U64) (s : State) : Out :=
  .next (if s.writeReaches who Reg.gtbStep then s.gtbStep delta else s)

/-- GTB_LOCKED: the servo's offset has been within 1 ns for 1 s, or has left 4 ns, with SyncE in lock or not (R284). -/
def execGtbLocked (within1 within4 synce : Bool) (s : State) : Out :=
  let was := s.rf Reg.gtbStatus 16 16
  let now := if within1 && synce then 1 else if within4 then was else 0
  .next ((s.setRf Reg.gtbStatus 17 17 (if synce then 1 else 0)).setRf Reg.gtbStatus 16 16 now)

end Sys2Proof.Machine
end

