-- ==== Sys2Proof/Machine/Registers.lean ====
section
/-! DEFINITION. Register writes (R10, R92, R212, R421 to R424, R427): which fields of a unit a write stores, and what the
writes of the registers that act do. -/

namespace Sys2Proof.Machine

/-! ## What a write covers (R422, R423) -/

/-- A write to a unit: the value in the unit's place, and the covered bits. -/
structure UnitWrite where
  who   : Requester
  unit  : Nat
  lo    : Nat
  hi    : Nat
  value : Nat
deriving DecidableEq, Repr

/-- The bits [hi:lo] of the unit are wholly written. -/
def UnitWrite.covers (w : UnitWrite) (hi lo : Nat) : Bool := decide (w.lo ≤ lo ∧ hi ≤ w.hi)

/-- The written value of bits [hi:lo] of the unit, when they are wholly written. -/
def UnitWrite.get (w : UnitWrite) (hi lo : Nat) : Option Nat := if w.covers hi lo then some (bitsN w.value hi lo) else none

/-- Whether bit i is written as 1. -/
def UnitWrite.one (w : UnitWrite) (i : Nat) : Bool := w.get i i == some 1

/-! ## Stored fields -/

/-- The port and ring side of a ring register's offset: the port, and whether it is the completion ring (R295). -/
def ringSide (off : Nat) : Port × Bool := (if off < 0x28000 then .a else .b, off % 32 == 8)

/-- Whether a port's write to a core's set-up registers is discarded (R92). -/
def State.coreBusy (s : State) (who : Requester) (n : Nat) : Bool :=
  who.isPort && (match s.partOfCore n with
    | some q => decide (3 ≤ s.partStateCode q ∧ s.partStateCode q ≤ 5)
    | none => false)

/-- Whether a value may be stored in the rw field at bit `lo` of a register unit that already holds `v` (the field tables,
R92, R245, R254, R261, R284, R295, R312, R364, R414, R424, R427; log 16). The fields whose write acts are stored by the
act, and are not accepted here. -/
def State.accepts (s : State) (w : UnitWrite) (p : RegPlace) (lo x : Nat) (v : U64) : Bool :=
  match p.reg with
  | .coreEntry | .corePtr | .coreIdreg | .coreOutprof => !s.coreBusy w.who p.inst
  | .coreLanecfg => !s.coreBusy w.who p.inst && decide (x < 3)
  | .arrHoldcfg => decide (1 ≤ x ∧ x ≤ 1000000)
  | .memCtrl => lo != 0 || decide (4 ≤ x ∧ x ≤ 64)
  | .hfbPortcfg => !(lo == 0 || lo == 2) && (lo != 3 || w.who == .gatehouse)
  | .hftCfg => !(lo == 0 || lo == 16) || s.allClosed
  | .hftTimer => decide (1 ≤ x)
  | .hftBarcfg => lo != 16 || decide (1 ≤ x)
  | .hftPeer => p.unit == 1 || lo != 60
  | .gtbRate => decide (131059 ≤ x ∧ x ≤ 131085)
  | .hstRing => lo != 5 && !bit (s.reg w.unit) 5 && (lo != 0 || decide (4 ≤ x ∧ x ≤ 16))
  | .hstDrain => lo != 0 || (!bit (s.reg w.unit) 5 && decide (16 ≤ x ∧ x ≤ 30))
  | .fltAction => fld (BitVec.ofNat 64 (actionFixed p.inst)) 15 14 == 2
  | .pwrCtrl => decide (1 ≤ x)
  | .pwrSched => p.unit == 0
  | .pwrGov =>
    if lo = 0 then decide (300 ≤ x ∧ x ≤ 600)
    else if lo = 10 then decide (fld v 9 0 ≤ x ∧ x ≤ 1000)
    else if lo = 20 then decide (11 ≤ x)
    else decide (600 ≤ x ∧ x ≤ 1200 ∧ x % 25 = 0)
  | .pwrTherm => if lo = 0 then decide (80 ≤ x ∧ x ≤ 105) else decide (fld v 7 0 ≤ x ∧ x ≤ 110)
  | .arrMode | .prtOwner | .prtCtrl | .entCtrl | .pwrClk | .pwrTsync => false
  | _ => true

/-- The unit after the fields that a write stores or clears (R10, R423); a w1c bit set in the present cycle stays set
(R11). -/
def State.stored (s : State) (w : UnitWrite) (p : RegPlace) : U64 :=
  p.reg.fields.foldl (fun v f =>
    if f.lo / 64 = p.unit then
      match f.acc, w.get (f.hi % 64) (f.lo % 64) with
      | .rw, some x => if s.accepts w p (f.lo % 64) x v then setFld v (f.hi % 64) (f.lo % 64) x else v
      | .w1c, some x =>
        if x = 1 then setFld v (f.hi % 64) (f.lo % 64) (fld (s.regNow w.unit).fresh (f.hi % 64) (f.lo % 64)) else v
      | _, _ => v
    else v) (s.reg w.unit)

/-- The state with a unit's stored fields written. -/
def State.storeUnit (s : State) (w : UnitWrite) (p : RegPlace) : State := s.setReg w.unit (s.stored w p)

/-! ## Writes that act -/

/-- ARR_MODE_WRITE (R212). -/
def execArrModeWrite (who : Requester) (det : Bool) (s : State) : Out :=
  .next (if s.writeReaches who Reg.arrMode then s.modeWrite det else s)

/-- A write to PRT_CTRL[q]: the size fields, then CREATE, DISSOLVE and RESET (R320 to R324). -/
def State.prtCtrlWrite (s : State) (w : UnitWrite) (q : Nat) : State :=
  if w.covers 10 0 then
    s.ctrlWrite w.who q (fun s =>
      let rows := bitsN w.value 3 0
      let cols := bitsN w.value 7 4
      let s := s.setSize q rows cols
      let s := if w.one 8 then s.createPart q rows cols else s
      let s := if w.one 9 then s.dissolvePart q else s
      if w.one 10 then s.resetIf q else s)
  else s

/-- A write to PRT_OWNER[q] (R313). -/
def State.prtOwnerWrite (s : State) (w : UnitWrite) (p : RegPlace) : State :=
  if w.covers 8 0 then
    (if s.mayOwn w.who p.inst then s.storeUnit w p else s).ownerWrite w.who p.inst (bitsN w.value 1 0) (bitsN w.value 7 2)
  else s

/-- A write to a ring register: base and size while the ring is disabled, then ENABLE (R295). -/
def State.ringWrite (s : State) (w : UnitWrite) (p : RegPlace) : State :=
  let s := s.storeUnit w p
  match w.get 5 5 with
  | some x => s.ringSwitch (ringSide w.unit).1 p.inst (ringSide w.unit).2 (x == 1)
  | none => s

/-- A write to HST_DRAIN[q]: enabling empties the ring (R312). -/
def State.drainWrite (s : State) (w : UnitWrite) (p : RegPlace) : State :=
  let was := bit (s.reg w.unit) 5
  let s := s.storeUnit w p
  if !was && bit (s.reg w.unit) 5 then
    s.updPart p.inst (fun q => { q with drain := { q.drain with hHead := 64, hTail := 64 } })
  else s

/-- The mailbox of a mailbox register's offset. -/
def boxOf (off : Nat) : Nat := (off - 0x1B0000) / 0x100

/-- A write to MGT_CMD starts a command with the arguments in MGT_ARG; while the mailbox is busy any write is discarded (R391). -/
def State.cmdWrite (s : State) (w : UnitWrite) : State :=
  let b := boxOf w.unit
  if s.rf (Reg.mgtStatus b) 0 0 = 1 then s.raise (Reg.mgtStatus b) 1 1 1
  else if w.covers 23 0 then
      (s.setRf (Reg.mgtStatus b) 0 0 1).pushCmd
        { src := if b = 0 then .mailboxA else .mailboxB, opcode := bitsN w.value 7 0, irq := w.one 8
          vector := bitsN w.value 23 16, args := (List.range 14).map (fun i => s.reg (Reg.mgtArg b i)) }
  else s

/-- A write to MGT_ARG is discarded while the mailbox is busy (R391). -/
def State.argWrite (s : State) (w : UnitWrite) (p : RegPlace) : State :=
  let b := boxOf w.unit
  if s.rf (Reg.mgtStatus b) 0 0 = 1 then s.raise (Reg.mgtStatus b) 1 1 1 else s.storeUnit w p

/-- A write to PWR_CTRL (R403, R424). -/
def State.pwrCtrlWrite (s : State) (w : UnitWrite) (p : RegPlace) : State :=
  if w.who = .hall then (if w.one 3 then s.raise Reg.pwrCtrl 11 11 1 else s)
  else if w.one 3 then
    if s.mayPower w.who then (s.storeUnit w p).requestPower (bitsN w.value 2 0) else s.raise Reg.pwrCtrl 11 11 1
  else s.storeUnit w p

/-- A write to PWR_SCHED: TIME, and with ARM the arming or disarming (R420). -/
def State.schedWrite (s : State) (w : UnitWrite) (p : RegPlace) : State :=
  if p.unit = 0 then s.storeUnit w p
  else if w.one 3 then s.schedArm (s.reg Reg.pwrSched).toNat (bitsN w.value 2 0)
  else if w.covers 3 0 then
    let s := s.schedDisarm
    if bitsN w.value 2 0 ∈ [0, 3, 4, 5] then s.setRf (Reg.pwrSched + 8) 2 0 (bitsN w.value 2 0) else s
  else s

/-- A write to MGT_WDT by the Gatehouse: the limit it sets, and a kick (R386). -/
def State.wdtWrite (s : State) (w : UnitWrite) : State :=
  let s := if w.who = .gatehouse ∧ w.covers 39 8 then s.setRf Reg.mgtWdt 39 8 (bitsN w.value 39 8) else s
  if w.covers 7 0 then s.kickWdt w.who (bitsN w.value 7 0) else s

/-- A write to HFB_PORTCFG: MODE and MEDIUM take the link down (R254). -/
def State.portcfgWrite (s : State) (w : UnitWrite) (p : RegPlace) : State :=
  let s := s.storeUnit w p
  if w.covers 2 0 then s.portMode p.inst (bitsN w.value 1 0) (w.one 2) else s

/-- A write to HFT_PEER[d]: VALID acts after the other fields are stored (R262). -/
def State.peerWrite (s : State) (w : UnitWrite) (p : RegPlace) : State :=
  let s := s.storeUnit w p
  if p.unit = 0 ∧ w.covers 60 60 then s.peerValid p.inst (w.one 60) else s

/-- The place of a requester in the order of one cycle's writes (R364). -/
def Requester.rank : Requester → Nat
  | .gatehouse => 0 | .portA => 1 | .portB => 2 | .hall => 3 | .bar4 => 4

/-- A write to an action entry (R364): of one cycle's writes, taken Gatehouse, A, B, the last one stands. -/
def State.actionWrite (s : State) (w : UnitWrite) (p : RegPlace) : State :=
  let old := s.actionWrites p.inst
  if old.any (fun x => Requester.rank w.who < x.rank) then s
  else
    let x : ActionWrite := ⟨s.mc, Requester.rank w.who, (old.map ActionWrite.before).getD (s.reg (Reg.fltAction p.inst))⟩
    let t := s.storeUnit w p
    { t with flt := { t.flt with acts := Table.put (fun _ => none) t.flt.acts p.inst (some x) } }

/-- A write to a unit that holds a register (R10, R423, R424). -/
def State.unitWrite (s : State) (w : UnitWrite) (p : RegPlace) : State :=
  match p.reg with
  | .coreCtrl => if w.one 0 then s.resetCore p.inst else s
  | .arrMode =>
    let s := s.storeUnit w p
    match w.get 0 0 with
    | some x => s.modeWrite (x == 1)
    | none => s
  | .prtCtrl => s.prtCtrlWrite w p.inst
  | .prtOwner => s.prtOwnerWrite w p
  | .hstRing => s.ringWrite w p
  | .hstDrain => s.drainWrite w p
  | .semLock => if w.covers 1 0 then s.semWrite w.who p.inst (bitsN w.value 1 0) else s
  | .gtbStep => if w.covers 63 0 then s.gtbStep (BitVec.ofNat 64 w.value) else s
  | .hfbPortcfg => s.portcfgWrite w p
  | .hftPeer => s.peerWrite w p
  | .entCtrl =>
    if w.who = .gatehouse ∧ w.covers 0 0 then (if w.one 0 then s.entOn else s.entOff) else s
  | .fltAction => s.actionWrite w p
  | .fltInfo => if w.one 0 then s.infoClear else s
  | .fltPend => s.pendWrite ((if w.one 0 then 1 else 0) + (if w.one 1 then 2 else 0))
  | .fltCtrl => if w.one 7 then s.holdRelease w.who (bitsN w.value 6 0) else s
  | .mgtCmd => s.cmdWrite w
  | .mgtArg => s.argWrite w p
  | .mgtWdt => s.wdtWrite w
  | .pwrCtrl => s.pwrCtrlWrite w p
  | .pwrSched => s.schedWrite w p
  | .pwrClk => if w.who = .gatehouse ∧ w.covers 40 40 then s.ghsSel (w.one 40) else s
  | .pwrTsync =>
    let s := s.storeUnit w p
    if w.covers 5 0 then s.tsyncMode (bitsN w.value 1 0) (bitsN w.value 5 2) else s
  | _ => s.storeUnit w p

/-- A register write by a requester (R421 to R424): one that does not reach the block, has a wrong size or alignment, or
names no register is discarded. -/
def State.regWrite (s : State) (who : Requester) (off size value : Nat) : State :=
  if s.writeReaches who off && accessOk off size then
    let lo := off % 8 * 8
    match regPlace (off / 8 * 8) with
    | none => s
    | some p => s.unitWrite ⟨who, off / 8 * 8, lo, lo + 8 * size - 1, value % 2 ^ (8 * size) * 2 ^ lo⟩ p
  else s

/-- REGISTER_WRITE (R10, R421 to R424). -/
def execRegisterWrite (who : Requester) (off : BitVec 25) (size : Nat) (value : U64) (s : State) : Out :=
  .next (s.regWrite who off.toNat size value.toNat)

end Sys2Proof.Machine
end

