-- ==== Sys2Proof/Machine/HallRx.lean ====
section
/-! DEFINITION. The hall transport's receiving side: the receive checks, sequence order, receive staging and delivery
(R160, R255, R257 to R260, R264, R265, R269, R271, R272, R287). -/

namespace Sys2Proof.Machine

/-! ## The receive checks (R258) -/

/-- The management EtherTypes (R255). -/
abbrev managementTypes : List Nat := [0x88F7, 0x8809, 0x888E, 0x88CC]

/-- The group addresses of each management EtherType's standard (R255). -/
def managementGroups (etype : Nat) : List Nat :=
  if etype = 0x88F7 then [0x011B19000000, 0x0180C200000E]
  else if etype = 0x8809 then [0x0180C2000002]
  else if etype = 0x888E then [0x0180C2000003]
  else if etype = 0x88CC then [0x0180C200000E]
  else []

/-- Every management group address. -/
def allManagementGroups : List Nat := managementTypes.flatMap managementGroups

/-- How a frame fares at the receive checks: noise, a stranger at a step, a management frame or a transport frame. -/
inductive Verdict where
  | noise | stranger (step : Nat) | management | transport
deriving DecidableEq, Repr

/-- The packet number that a receive association reads from a SecTAG's 32 bits: the number itself, or with an extended packet
number the one with those low bits that is next from the lowest acceptable number on, as IEEE 802.1AE recovers it (log 54). -/
def Sa.recover (a : Sa) (low : Nat) : Nat :=
  if !a.xpn then low
  else if low < a.pn % 2 ^ 32 ∧ 2 ^ 31 ≤ a.pn % 2 ^ 32 ∧ low < 2 ^ 31 then (a.pn / 2 ^ 32 + 1) * 2 ^ 32 + low
  else a.pn / 2 ^ 32 * 2 ^ 32 + low

/-- Whether a receive association takes a frame: its number, key and suite, and a packet number that is the recovered one and
not below the lowest acceptable (R260, log 54). -/
def Sa.takes (a : Sa) (t : SecTag) : Bool :=
  a.an == t.an.toNat && a.key == t.key && a.xpn == t.xpn && t.pn.toNat == a.recover (t.pn.toNat % 2 ^ 32) &&
    decide (a.pn ≤ t.pn.toNat)

/-- Whether a received frame's protection holds under one of the port's receive associations (R260). -/
def HallPortState.secOk (x : HallPortState) (t : SecTag) : Bool := t.pn != 0 && x.rx.any (fun a => a.takes t)

/-- The lowest acceptable packet number of the association that takes a frame rises past it (R260, log 54). -/
def HallPortState.noteSec (x : HallPortState) (t : SecTag) : HallPortState :=
  { x with rx := x.rx.map (fun a => if a.takes t then { a with pn := t.pn.toNat + 1 } else a) }

/-- The address groups of the transport that the module has joined (R287). -/
def State.joinedGroup (s : State) (dst : BitVec 48) : Bool :=
  (List.range 16).any (fun g => (s.rf Reg.hftCfg 63 48).testBit g && mcastMac (s.rf Reg.hftCfg 31 16) g == dst)

/-- The second that a time lies in. -/
def secondOf (wall : Nat) : Nat := wall / 1200000000

/-- Management frames that a port has accepted in the present second (R255). -/
def State.mgmtCount (s : State) (p : Nat) : Nat :=
  if (s.hport p).mgmtSec = secondOf s.clk.wall then (s.hport p).mgmt else 0

/-- Whether every message of a CTRL payload has a known code (R269). -/
def ctrlOk (body : List Byte) : Bool :=
  0 < body.length && body.length % 16 == 0 && (chunks 16 body).all (fun m => 1 ≤ leAt m 0 1 && leAt m 0 1 ≤ 7)

/-- Step 7: the header (R256, R257). -/
def headerOk (h payload : List Byte) : Bool :=
  h.length == 32 && leAt h 0x1C 4 == (crc32c (h.take 28)).toNat && hdrVersion h == 1 && hdrType h ≤ 6 &&
  hdrFlags h < 8 && leAt h 4 2 < 1024 && bitsN (hdrDst h) 14 (if (hdrDst h).testBit 15 then 4 else 10) == 0 &&
  leAt h 0x14 2 < 16384 && leAt h 0x16 2 < 4096 && hdrLength h == payload.length && payload.length ≤ 8192 &&
  (hdrType h != 1 || ctrlOk payload)

/-- Whether SRC has a valid entry in the hall table; the module's own entry is ignored (R261). -/
def State.peerKnown (s : State) (d : Nat) : Bool := d != s.device && bit (s.reg (Reg.hftPeer d)) 60

/-- Step 9: the destination and the peer. -/
def State.peerOk (s : State) (h : List Byte) : Bool :=
  s.peerKnown (hdrSrc h) &&
  (if (hdrDst h).testBit 15 then (s.rf Reg.hftCfg 63 48).testBit (bitsN (hdrDst h) 3 0) else hdrDst h == s.device)

/-- The receive checks in order (R258). -/
def State.verdict (s : State) (p : Nat) (f : Frame) : Verdict :=
  let cfg := s.reg (Reg.hfbPortcfg p)
  let etype := f.etype.toNat
  let dst := f.dst.toNat
  let own := dst == fld cfg 63 16
  let group := allManagementGroups.contains dst
  let joined := s.joinedGroup f.dst
  let transport := etype == s.rf Reg.hftCfg 47 32
  let management := !transport && managementTypes.contains etype
  if !f.fcsOk then .noise
  else if f.size < 64 ∨ (if f.vlan.isSome then 9238 else 9234) < f.size then .stranger 2
  else if !(own || joined || group) then .stranger 3
  else if bit cfg 3 && !(match f.sec with | some t => (s.hport p).secOk t | none => management) then .stranger 4
  else if !(transport || management) || (!bit cfg 3 && f.sec.isSome) || (management && joined) || (transport && group) ||
      (management && group && !(managementGroups etype).contains dst) ||
      (management && decide (10000 ≤ s.mgmtCount p)) then .stranger 5
  else if management then .management
  else if f.vlan != (if fld cfg 15 4 = 0 then none else some (BitVec.ofNat 12 (fld cfg 15 4))) then .stranger 6
  else
    let h := f.body.take 32
    if !headerOk h (f.body.drop 32) then .stranger 7
    else if hdrHall h != s.rf Reg.hftCfg 31 16 then .stranger 8
    else if !s.peerOk h then .stranger 9
    else .transport

/-- A stranger is counted at its step, and reported once until the port's counters are read (R258, R259). -/
def State.stranger (s : State) (p step : Nat) : State :=
  let s' := s.count (Reg.hfbStrcnt p) (8 * (step - 2) + 7) (8 * (step - 2)) 1
  if (s.hport p).stranger then s'
  else (s'.updPort p (fun x => { x with stranger := true })).report (blockSrc 3 p) 0x72 p 127

/-- Whether a frame is a PTP event message: messageType 0 to 3 of IEEE 1588 (R282, log 124). -/
def ptpEvent (f : Frame) : Bool := f.etype.toNat == 0x88F7 && decide (bitsN (leAt f.body 0 1) 3 0 ≤ 3)

/-- The timestamp of an event message at a port, in units of 0.25 ns: GTIME corrected by the port's latency and asymmetry
(R282, log 124). -/
def State.stampNow (s : State) (p : Nat) (sent : Bool) : Int :=
  let cal := s.reg (Reg.hfbPtpcal p)
  let now : Int := (s.clk.gtimeNs.toNat * 16 + s.clk.gtimeFrac.toNat / 4096 : Nat)
  let asym : Int := if bit cal 47 then (fld cal 47 32 : Int) - 2 ^ 16 else (fld cal 47 32 : Int)
  ((if sent then now + (fld cal 15 0 : Int) else now - (fld cal 31 16 : Int)) - asym) / 4

/-- An event message is timestamped (R282). -/
def State.stamp (s : State) (p : HallPort) (sent : Bool) (f : Frame) : State :=
  if ptpEvent f then { s with hall := { s.hall with stamps := s.hall.stamps ++ [(p, sent, s.stampNow p sent)] } } else s

/-- A management frame goes to the Gatehouse, whose firmware may answer it (R255, R282, log 9). -/
def State.management (s : State) (p : HallPort) (f : Frame) : State :=
  let n := s.mgmtCount p + 1
  let s := (s.updPort p (fun x => { x with mgmt := n, mgmtSec := secondOf s.clk.wall })).stamp p false f
  let body := Config.managementReply f.body
  let reply : Frame := { fcsOk := true, dst := f.src, src := BitVec.ofNat 48 (s.rf (Reg.hfbPortcfg p) 63 16), vlan := f.vlan
                         sec := none, etype := f.etype, size := frameSize f.vlan.isSome false body.length, body := body }
  let s := { s with hall := { s.hall with mgmtIn := s.hall.mgmtIn ++ [(p, f)] } }
  if body.isEmpty then s else (s.stamp p true reply).putOnWire p reply

/-! ## Receive staging (R272, log 27) -/

/-- The slot of a frame from a peer: the peers' shares follow one another by device id, and a frame takes the slot of its
number in the share. -/
def State.slotOf (s : State) (d seq : Nat) : Option (Nat × Nat) :=
  let before := (s.hall.conns.filter (fun e => decide (e.1 < d))).foldl (fun n e => n + e.2.granted) 0
  if (s.conn d).granted = 0 then none else s.slots[before + seq % (s.conn d).granted]?

/-! ## Sequence order (R264, R265) -/

/-- Whether every frame from the next expected one up to a distance is held. -/
def Conn.noGap (c : Conn) (dist : Nat) : Bool :=
  (List.range dist).all (fun k => c.held.any (fun f => f.seq == (c.rxNext + k) % 2 ^ 32))

/-- A sequenced frame is taken into order: outside the window it is discarded and counted, a second copy is discarded and
counted; a DATA frame is staged. -/
def State.acceptSeq (s : State) (d seq : Nat) (isCtrl : Bool) (stream : Nat) (payload : List Byte) : State :=
  let c := s.conn d
  let dist := (seq + 2 ^ 32 - c.rxNext) % 2 ^ 32
  if max 1 c.granted ≤ dist ∨ (!isCtrl ∧ c.granted = 0) then s.count Reg.hftPeerstat 15 0 1
  else if c.held.any (fun f => f.seq == seq) then s.count Reg.hftPeerstat 31 16 1
  else
    let mark (c : Conn) (f : RxFrame) : Conn :=
      { c with held := c.held ++ [f], outOfOrder := c.outOfOrder || !c.noGap dist }
    if isCtrl then s.updConn d (fun c => mark c { seq := seq, isCtrl := true, stream := stream, payload := payload })
    else match s.slotOf d seq with
      | none => s
      | some (b, off) =>
        (s.bufferWrite b off payload).updConn d (fun c =>
          mark c { seq := seq, isCtrl := false, stream := stream, buffer := b, offset := off, len := payload.length })

/-- A frame leaves the held ones. -/
def State.dropHeld (s : State) (d seq : Nat) : State :=
  s.updConn d (fun c => { c with held := c.held.filter (fun f => f.seq != seq) })

/-- The next expected frame has been delivered (R265). -/
def State.delivered (s : State) (d : Nat) : State :=
  s.updConn d (fun c => { c with
    held := c.held.filter (fun f => f.seq != c.rxNext)
    rxNext := (c.rxNext + 1) % 2 ^ 32
    delivered := c.delivered + 1
    firstDel := some (c.firstDel.getD s.clk.wall) })

/-- The messages of a CTRL payload wait for the commands of their codes (R269). -/
def State.pushMsgs (s : State) (d : Nat) (body : List Byte) : State :=
  { s with hall := { s.hall with msgs := s.hall.msgs ++ (chunks 16 body).map (fun m => ⟨d, m⟩) } }

/-! ## Delivery (R265, R270, R271) -/

/-- Whether a peer may reach a local range: LPDDR6, the edge buffers, one core's SRAM window, or the register space while
REMOTE_REG is set (R271). -/
def State.hallRange (s : State) (a n : Nat) : Bool :=
  s.inDram a n || (match s.place a with
    | .core _ off => decide (off + n ≤ 0x28000)
    | .buffer _ _ => decide (a + n ≤ 0x4104000000)
    | .reg off => decide (off + n ≤ 0x2000000) && s.rf Reg.hftCfg 11 11 == 1
    | _ => false)

/-- A write that a hall stream makes (R65, R271, R424): register space in 8 B accesses. -/
def State.hallWrite (s : State) (a : Nat) (bs : List Byte) : State :=
  if regBase ≤ a then
    ((chunks 8 bs).zipIdx).foldl (fun t e => t.regWrite .hall (a - regBase + 8 * e.2) 8 (leNat e.1)) s
  else s.localWrite 127 a bs

/-- The parts of a stream's bytes in a range that wraps after its length: address, first byte and count. -/
def wrapParts (a len : Nat) : Nat → Nat → Nat → Nat → List (Nat × Nat × Nat)
  | 0, _, _, _ => []
  | fuel + 1, at_, done, n =>
    let k := min n (len - at_ % len)
    if n = 0 then [] else (a + at_ % len, done, k) :: wrapParts a len fuel (at_ + k) (done + k) (n - k)

/-- The outcome of delivering a DATA frame: it must wait for room, its staging failed its code, or it is delivered. -/
inductive Delivery where
  | wait | failed (s : State) | done (s : State)

/-- The staged payload of a frame; none after an uncorrectable granule (R160). -/
def State.stagedFrame (s : State) (f : RxFrame) : Option (List Byte) × State :=
  let r := s.bufferRead f.buffer f.offset f.len
  (if r.1.isSome then none else some r.2.1, r.2.2)

/-- Bytes enter a deliver ring from the hall. -/
def State.enterRing (s : State) (q r : Nat) (b : Binding) (d : RingDesc) (bs : List Byte) : State :=
  let pl := b.ringPlace d
  let o := ((s.part q).ring r).moved % d.bytes
  let k := min bs.length (d.bytes - o)
  let s := s.bufferWrite pl.1 (pl.2 + o) (bs.take k)
  let s := if k < bs.length then s.bufferWrite pl.1 pl.2 (bs.drop k) else s
  s.updPart q (fun p => p.updRing r (fun x => { x with fill := x.fill + bs.length, moved := x.moved + bs.length }))

/-- A stream with a peer changed. -/
def State.updStream (s : State) (d id : Nat) (send : Bool) (f : Stream → Stream) : State :=
  s.mapStreams (fun x => if x.peer == d && x.id == id && x.send == send then f x else x)

/-- The stream that this module serves for a peer: a PUT that it writes or a GET that it reads. -/
def State.served (s : State) (d id kind : Nat) : Option Stream :=
  s.hall.streams.find? (fun x => x.peer == d && x.id == id && x.part.isNone && x.kind == kind)

/-- The served stream noted, its bytes moved or its stop. -/
def State.noteServed (s : State) (x : Stream) : State :=
  { s with hall := { s.hall with streams := x :: s.hall.streams.filter (fun y =>
      !(y.peer == x.peer && y.id == x.id && y.part.isNone && y.kind == x.kind)) } }

/-- Whether a part of a PUT would meet an uncorrectable error of the LPDDR6 access that it covers in part (R233, R274). -/
def State.putUe (s : State) (a n : Nat) : Bool :=
  s.inDram a n && (accesses a n).any (fun k => (k * 64 < a || a + n < k * 64 + 64) && s.accessErr k == 2)

/-- The parts of a PUT are written in order, up to one that meets an uncorrectable error; whether none did (R274). -/
def State.putParts (s : State) (bs : List Byte) : List (Nat × Nat × Nat) → Bool × State
  | [] => (true, s)
  | w :: ws =>
    let t := s.hallWrite w.1 (slice bs w.2.1 w.2.2)
    if s.putUe w.1 w.2.2 then (false, t) else t.putParts bs ws

/-- A DATA frame of a PUT stream is written where the peer's stream goes, or refused; DRAM_UE stops the stream with ABORT
reason 1 (R271, R274, log 25). -/
def State.servePut (s : State) (d : Nat) (f : RxFrame) : Delivery :=
  let x := (s.served d f.stream 1).getD
    { peer := d, id := f.stream, part := none, kind := 1, send := false, remote := 0, length := 0 }
  if x.stopped then .done (if x.ended then s.abortTo d f.stream 3 else s)
  else match Config.remoteRange d f.stream with
    | none => .done ((s.noteServed { x with stopped := true }).abortTo d f.stream 3)
    | some (a, n) =>
      if n = 0 ∨ !s.hallRange a n then .done ((s.noteServed { x with stopped := true }).abortTo d f.stream 2)
      else match s.stagedFrame f with
        | (none, t) => .failed t
        | (some bs, t) =>
          let w := t.putParts bs (wrapParts a n bs.length x.moved 0 bs.length)
          let x := { x with remote := a, length := n, moved := x.moved + bs.length, stopped := !w.1 }
          .done (if w.1 then w.2.noteServed x else (w.2.noteServed x).abortTo d f.stream 1)

/-- A DATA frame is delivered: into the deliver ring of its stream, once the ring has room, or by a PUT (R265, R270). A
stopped stream's bytes are discarded. -/
def State.deliverData (s : State) (d : Nat) (f : RxFrame) : Delivery :=
  match s.hall.streams.find? (fun x => x.peer == d && x.id == f.stream && !x.send && x.part.isSome) with
  | none => s.servePut d f
  | some x =>
    match x.part with
    | none => s.servePut d f
    | some (q, r) =>
      match (s.part q).ringDesc r with
      | none => .done s
      | some (b, dsc) =>
        if x.stopped then .done s
        else if dsc.bytes < ((s.part q).ring r).fill + f.len then .wait
        else match s.stagedFrame f with
          | (none, t) => .failed t
          | (some bs, t) => .done ((t.enterRing q r b dsc bs).updStream d f.stream false (fun x =>
              { x with moved := x.moved + bs.length }))

/-- The held frames of a connection delivered in order, up to the first that must wait; CTRL frames alone, or DATA frames
too. A frame whose staging fails is discarded unacknowledged (R160). -/
def State.deliverHeld (s : State) (d : Nat) (data : Bool) : Nat → State
  | 0 => s
  | n + 1 =>
    match (s.conn d).held.find? (fun f => f.seq == (s.conn d).rxNext) with
    | none => s
    | some f =>
      if f.isCtrl then ((s.pushMsgs d f.payload).delivered d).deliverHeld d data n
      else if data then
        match s.deliverData d f with
        | .wait => s
        | .failed t => t.dropHeld d f.seq
        | .done t => (t.delivered d).deliverHeld d data n
      else s

/-- Every connection delivers what it can. -/
def State.deliverAll (s : State) : State :=
  s.hall.conns.foldl (fun t e => t.deliverHeld e.1 true (t.conn e.1).held.length) s

/-! ## FRAME_RECEIVE -/

/-- Whether a connection takes part in the transport. -/
def Conn.live (c : Conn) : Bool := c.state == .opening || c.state == .opened

/-- A CTRL frame from a peer: an OPEN with SEQ 0 starts the receiving side anew, any other frame is taken in order
(R262, R264). -/
def State.receiveCtrl (s : State) (d : Nat) (h body : List Byte) : State :=
  if !(s.conn d).live then s
  else
    let s := s.takeFields d h
    if leAt body 0 1 = 1 ∧ hdrSeq h = 0 then
      (s.updConn d (fun c => { c with rxNext := 0, held := [], outOfOrder := false })).pushMsgs d body |>.delivered d
    else
      let t := s.acceptSeq d (hdrSeq h) true 0 body
      t.deliverHeld d false (t.conn d).held.length

/-- Whether a connection's peer has been silent for longer than PEER_TIMEOUT, or the connection is lost: a frame that comes now
comes after the expiry (R267, R268). -/
def State.peerExpired (s : State) (d : Nat) : Bool :=
  let c := s.conn d
  c.state == .lost || (c.live && decide (c.heard + usec (s.rf Reg.hftTimer 31 16) < s.clk.wall))

/-- A transport frame that passed the checks: CTRL frames are taken at once, the others wait for the command of their type.
Asleep, only WAKE is kept; with the transport disabled nothing else is received (R257, R406). A frame with an acknowledgement
that comes after the expiry of its connection is discarded and counted as late (R268). -/
def State.receive (s : State) (p : HallPort) (h body : List Byte) : State :=
  let d := hdrSrc h
  let keep (s : State) : State := { s with hall := { s.hall with frames := s.hall.frames ++ [⟨p, h, body⟩] } }
  if hdrType h = 6 then keep s
  else if s.asleep ∨ !s.hallOn then s
  else if s.peerExpired d ∧ (hdrFlags h).testBit 0 then s.count Reg.hftPeerstat 47 32 1
  else
    let s := s.updConn d (fun c => { c with heard := s.clk.wall })
    if hdrType h = 1 then s.receiveCtrl d h body else keep s

/-- With MACsec on, the association of an accepted frame takes note of its packet number (R260). -/
def State.noteSec (s : State) (p : HallPort) (f : Frame) : State :=
  match f.sec with
  | some t => if s.rf (Reg.hfbPortcfg p) 3 3 = 1 then s.updPort p (fun x => x.noteSec t) else s
  | none => s

/-- FRAME_RECEIVE: a frame passes the receive checks, or fails one and is counted (R258, R259). -/
def execFrameReceive (p : HallPort) (f : Frame) (s : State) : Out :=
  .next (if s.linkUp p then
    match s.verdict p f with
    | .noise => s.count (Reg.hfbPortstat p) 31 8 1
    | .stranger k => s.stranger p k
    | .management => (s.noteSec p f).management p f
    | .transport => (s.noteSec p f).receive p (f.body.take 32) (f.body.drop 32)
  else s)

/-- The first waiting frame, when it has a type. -/
def State.onFrame (s : State) (ty : Nat) (f : Accepted → State → State) : State :=
  match s.hall.frames with
  | x :: xs => if hdrType x.hdr = ty then f x { s with hall := { s.hall with frames := xs } } else s
  | [] => s

/-- DATA: a DATA frame inside the window is staged, and every connection delivers what it can (R160, R264, R265, R272). -/
def execData (s : State) : Out :=
  .next (s.onFrame 0 (fun x s =>
    let d := hdrSrc x.hdr
    if (s.conn d).live then
      (s.takeFields d x.hdr).acceptSeq d (hdrSeq x.hdr) false (hdrStream x.hdr) x.body
    else s)).deliverAll

/-- IDLE: an IDLE frame's ACK, SACK and barrier fields are read (R257). -/
def execIdle (s : State) : Out :=
  .next (s.onFrame 2 (fun x s =>
    if (s.conn (hdrSrc x.hdr)).live then s.takeFields (hdrSrc x.hdr) x.hdr else s))

end Sys2Proof.Machine
end

