-- ==== Sys2Proof/Machine/HallMsgs.lean ====
section
/-! DEFINITION. The control messages of the hall and the timers and frames that a connection sends (R262 to R277). -/

namespace Sys2Proof.Machine

/-- The first waiting control message, when it has a code. -/
def State.onMsg (s : State) (code : Nat) (f : CtrlMsg → State → State) : State :=
  match s.hall.msgs with
  | m :: ms => if leAt m.bytes 0 1 = code then f m { s with hall := { s.hall with msgs := ms } } else s
  | [] => s

/-- The stream id or transfer id of a message. -/
def CtrlMsg.id (m : CtrlMsg) : Nat := leAt m.bytes 2 2

/-! ## Connections (R262) -/

/-- What this module serves for a peer is forgotten. -/
def State.forgetServed (s : State) (d : Nat) : State :=
  { s with hall := { s.hall with streams := s.hall.streams.filter (fun x => !(x.peer == d && x.part.isNone)) } }

/-- An OPEN on an OPEN connection: the peer has restarted. The connection starts again at SEQ 0 and answers OPEN_ACK, its
streams stop with ABORT reason 4, and the loss is reported (R262). -/
def State.restartConn (s : State) (d w : Nat) : State :=
  let ids := (s.hall.streams.filter (fun x => x.peer == d && x.part.isSome)).map Stream.id
  let g := s.grantWindow d
  let c := s.conn d
  let s := (g.2.stopStreams (fun x => x.peer == d)).forgetServed d
  let s := s.updConn d (fun _ => { state := .opened, peerWin := w, granted := g.1, rxNext := c.rxNext, held := c.held
                                   delivered := c.delivered, firstDel := c.firstDel, heard := c.heard })
  let s := s.queueCtrl d (openMsg 2 g.1)
  (ids.foldl (fun t i => t.abortTo d i 4) s).report (blockSrc 4 0) 0x71 d 127

/-- OPEN_MESSAGE: an OPEN opens an OPENING connection, after answering OPEN_ACK, or restarts an OPEN one (R262, R272). -/
def execOpenMessage (s : State) : Out :=
  .next (s.onMsg 1 (fun m s =>
    let w := leAt m.bytes 4 2
    match (s.conn m.peer).state with
    | .opening => (s.updConn m.peer (fun c => { c with state := .opened, peerWin := w })).queueCtrl m.peer
        (openMsg 2 (s.conn m.peer).granted)
    | .opened => s.restartConn m.peer w
    | .closed => s
    | .lost => s))

/-- OPEN_ACK: an OPENING connection is OPEN with the peer's window (R262). -/
def execOpenAck (s : State) : Out :=
  .next (s.onMsg 2 (fun m s =>
    if (s.conn m.peer).state = .opening then
      s.updConn m.peer (fun c => { c with state := .opened, peerWin := leAt m.bytes 4 2 })
    else s))

/-- CONNECTION_CLOSE: a CLOSE from the peer closes the connection, and its streams stop (R269). -/
def execConnectionClose (s : State) : Out :=
  .next (s.onMsg 3 (fun m s =>
    if (s.conn m.peer).live then
      ((s.stopStreams (fun x => x.peer == m.peer)).forgetServed m.peer).updConn m.peer (fun _ => {})
    else s))

/-! ## Streams (R269 to R271, R274) -/

/-- CREDIT: the byte count up to which a PAIR stream may send rises (R270). -/
def execCredit (s : State) : Out :=
  .next (s.onMsg 4 (fun m s =>
    s.updStream m.peer m.id true (fun x => { x with credit := max x.credit (leAt m.bytes 8 8) })))

/-- The ABORT reason for a failing read of a served range (R269). -/
def State.abortReason (s : State) (a : Nat) : Nat :=
  match s.place a with
  | .core _ _ => 6
  | .buffer _ _ => 5
  | _ => 1

/-- The bytes of a served range, or the reason of the first failing access (R234, R271, R442). -/
def State.readParts (s : State) : List (Nat × Nat × Nat) → Except Nat (List Byte) × State
  | [] => (.ok [], s)
  | w :: ws =>
    let r := s.localRead 127 w.1 w.2.2
    match r.2.1 with
    | some a => (.error (s.abortReason a), r.2.2)
    | none =>
      let t := r.2.2.readParts ws
      (t.1.map (fun bs => r.1 ++ bs), t.2)

/-- GET: units of a remote range are read and queued as DATA frames, or the stream is stopped with an ABORT (R271, R274,
log 25). -/
def State.serveGet (s : State) (d id off units : Nat) : State :=
  let x := (s.served d id 2).getD { peer := d, id := id, part := none, kind := 2, send := false, remote := 0, length := 0 }
  let stop (s : State) (reason : Nat) : State := (s.noteServed { x with stopped := true }).abortTo d id reason
  if x.stopped then s
  else match Config.remoteRange d id with
    | none => stop s 3
    | some (a, n) =>
      if n = 0 ∨ !s.hallRange a n ∨ off % 4096 ≠ 0 ∨ units = 0 ∨ 16 < units then stop s 2
      else
        let r := s.readParts (wrapParts a n (units * 4096) off 0 (units * 4096))
        match r.1 with
        | .error reason => stop r.2 reason
        | .ok bs =>
          (chunks 8192 bs).foldl (fun t b => t.queueStaged d { isCtrl := false, stream := id, payload := b })
            (r.2.noteServed { x with remote := a, length := n, moved := x.moved + bs.length })

/-- GET (R271). -/
def execGet (s : State) : Out :=
  .next (s.onMsg 5 (fun m s => s.serveGet m.peer m.id (leAt m.bytes 4 8) (leAt m.bytes 12 2)))

/-- HF_STREAM_ABORT of a ring that an ABORT stops (R274, R355). -/
def State.reportAbort (s : State) (d reason : Nat) (x : Stream) : State :=
  match x.part with
  | some (q, _) => s.report (blockSrc 0 q) 0x73 (d + x.id * 2 ^ 10 + reason % 8 * 2 ^ 22) q
  | none => s

/-- ABORT: the rings of the named stream stop and it is reported; a served stream is forgotten (R274). -/
def execAbort (s : State) : Out :=
  .next (s.onMsg 6 (fun m s =>
    let hit := s.hall.streams.filter (fun x => x.peer == m.peer && x.id == m.id && !x.stopped)
    let s := s.stopStreams (fun x => x.peer == m.peer && x.id == m.id)
    let s := { s with hall := { s.hall with streams := s.hall.streams.filter (fun x =>
      !(x.peer == m.peer && x.id == m.id && x.part.isNone)) } }
    hit.foldl (fun t x => t.reportAbort m.peer (leAt m.bytes 4 1) x) s))

/-! ## Sending (R264, R270, R273) -/

/-- The next DATA frame of a collect ring, from the bytes that the plan has collected, within the credit of a PAIR; an
uncorrectable granule ends the stream with reason 5 (R160, R264, R270). -/
def State.sendRing (s : State) (x : Stream) (q r : Nat) (b : Binding) (d : RingDesc) : Option State :=
  let y := (s.part q).ring r
  let at_ := y.moved + (x.moved - x.acked)
  let n := min 8192 (min (y.used - at_) (if x.kind = 0 then x.credit - x.moved else 8192))
  if n = 0 ∨ (s.conn x.peer).peerWin = 0 then none
  else
    let g := s.ringRead b d at_ n
    if g.1.isSome then
      some ((g.2.2.stopStreams (fun z => z.peer == x.peer && z.id == x.id && z.send)).abortTo x.peer x.id 5)
    else
      some ((g.2.2.queueFrame x.peer { isCtrl := false, stream := x.id, payload := g.2.1
                                       ports := edgePorts (b.ringPlace d).1 }).updStream x.peer x.id true
        (fun z => { z with moved := z.moved + n }))

/-- What a deliver ring asks of its peer: CREDIT up to its free space, or GET for one unit after another while the ready,
in-flight and requested bytes total at most HW − 4 KiB, with at most 16 outstanding (R270). -/
def State.askRing (s : State) (x : Stream) (q r : Nat) (d : RingDesc) : Option State :=
  let y := (s.part q).ring r
  if x.kind = 0 then
    let upTo := x.moved + (d.bytes - y.fill)
    if x.credit < upTo then
      some ((s.queueCtrl x.peer (ctrlMsg 4 x.id (zeros 4 ++ leBytes 8 upTo))).updStream x.peer x.id false
        (fun z => { z with credit := upTo }))
    else none
  else
    let out := x.credit - x.moved
    let n := min (16 - ceilDiv out 4096) ((d.hw - (y.fill + out)) / 4096)
    if n = 0 then none
    else
      some ((s.queueCtrl x.peer (ctrlMsg 5 x.id (leBytes 8 (y.moved + out) ++ leBytes 2 n))).updStream x.peer x.id false
        (fun z => { z with credit := x.moved + out + n * 4096 }))

/-- What a stream has to send, if anything. -/
def State.streamDemand (s : State) (x : Stream) : Option State :=
  match x.part with
  | none => none
  | some (q, r) =>
    match (s.part q).ringDesc r with
    | none => none
    | some (b, d) =>
      if x.stopped then none else if x.send then s.sendRing x q r b d else s.askRing x q r d

/-- With nothing queued, the first stream of a peer that has something to send queues it. -/
def State.demand (s : State) (d : Nat) : State :=
  if (s.conn d).queue.isEmpty then
    ((s.hall.streams.filter (fun x => x.peer == d)).findSome? s.streamDemand).getD s
  else s

/-- Whether a peer's window has room for the frame that its connection sends next, and a port that it may leave by serves
(R263, R264, R272). -/
def State.maySend (s : State) (d : Nat) : Bool :=
  match (s.conn d).nextTx with
  | none => false
  | some (f, _) => (s.conn d).state == .opened && decide ((s.conn d).unacked.length < max 1 (s.conn d).peerWin) &&
      (s.portAmong d f.ports).isSome && s.hallOn

/-- The next frame to a peer, or an IDLE frame when it has nothing else for it (R277). -/
def State.sendAny (s : State) (d : Nat) : State :=
  if s.maySend d then s.sendNext d else s.sendTo d 2 0 (s.conn d).txSeq 0 []

/-- The peers whose traffic a port carries. -/
def State.peersOn (s : State) (p : Nat) : List Nat :=
  (s.hall.conns.filter (fun e => e.2.state == .opened && s.portFor e.1 == some p)).map Prod.fst

/-- The port that carries a peer's traffic sends its frames for other peers with a barrier change first (R277). -/
def State.barrierFirst (s : State) (d : Nat) : State :=
  match s.portFor d with
  | none => s
  | some p => ((s.peersOn p).filter (fun e => e != d && (s.conn e).barDue && !(s.conn d).barDue)).foldl State.sendAny s

/-- HALL_FRAME_SEND: the transport sends the next sequenced frame to a peer while the peer's window has room and a link
serves, behind the frames that carry a barrier change to other peers (R263, R264, R272, R277). -/
def execHallFrameSend (d : PeerId) (s : State) : Out :=
  let t := (s.barrierFirst d).demand d
  .next (if (s.conn d).state = .opened ∧ (s.portFor d).isSome ∧ s.hallOn then if t.maySend d then t.sendNext d else t else s)

/-! ## Timers (R265 to R268) -/

/-- RETRANSMISSION_TIMEOUT: the oldest unacknowledged frame is resent and reported, and the timer doubles; after RETX_LIMIT
expiries without progress the connection is lost (R9, R266, R267). -/
def execRetransmissionTimeout (d : PeerId) (s : State) : Out :=
  let c := s.conn d
  .next (match c.deadline, c.unacked with
    | some t, f :: _ =>
      if t < s.clk.wall then
        let s := (s.resend d f).report (blockSrc 4 0) 0x70 d 127
        let rto := min (2 * c.rto) (64 * s.rtoBase)
        let s := s.updConn d (fun c => { c with
          rto := rto, deadline := some (s.clk.wall + rto), expiries := c.expiries + 1, expired := some f.seq })
        if s.rf Reg.hftTimer 15 12 ≤ c.expiries + 1 then s.loseConn d else s
      else s
    | _, _ => s)

/-- PEER_TIMEOUT: a connection from whose peer no valid frame has come for PEER_TIMEOUT is lost (R267). -/
def execPeerTimeout (d : PeerId) (s : State) : Out :=
  let c := s.conn d
  .next (if c.live ∧ c.heard + usec (s.rf Reg.hftTimer 31 16) < s.clk.wall then s.loseConn d else s)

/-- ACKNOWLEDGEMENT_DUE: an acknowledgement is owed after 8 deliveries, 1 µs after the first one not acknowledged, or after
an arrival out of order (R265). -/
def execAcknowledgementDue (d : PeerId) (s : State) : Out :=
  let c := s.conn d
  let due : Bool := decide (8 ≤ c.delivered) || c.outOfOrder ||
    (match c.firstDel with | some t => decide (t + usec 1 ≤ s.clk.wall) | none => false)
  .next (if c.live ∧ due then s.updConn d (fun c => { c with owedAck := true }) else s)

/-- IDLE_SEND: a port sends the next frame to a peer with a barrier change or an owed acknowledgement, an IDLE frame when it
has nothing else for it, and else, once 256 ns have passed since its last frame, an IDLE frame to its peers in turn (R265,
R277). -/
def execIdleSend (p : HallPort) (s : State) : Out :=
  let peers := s.peersOn p
  let idle (d : Nat) (s : State) : State := s.sendTo d 2 0 (s.conn d).txSeq 0 []
  .next (match peers.find? (fun d => (s.conn d).barDue || (s.conn d).owedAck) with
    | some d => s.sendAny d
    | none =>
      if (s.hport p).lastSent * 5 + 256 * 6 ≤ s.clk.wall * 5 then
        match (peers.find? (fun d => decide ((s.hport p).turn ≤ d))) <|> peers.head? with
        | some d => (idle d s).updPort p (fun x => { x with turn := d + 1 })
        | none => s
      else s)

end Sys2Proof.Machine
end

