-- ==== Sys2Proof/Machine/HallBarrier.lean ====
section
/-! DEFINITION. Hall barriers and multicast transfers (R73, R191, R273 to R280, R287 to R289). -/

namespace Sys2Proof.Machine

/-! ## Barrier groups (R276 to R280) -/

/-- A barrier field (R276). -/
def barField (g code number slot : Nat) : Nat := g % 16 + code * 2 ^ 4 + number % 256 * 2 ^ 6 + slot % 2 ^ 18 * 2 ^ 14

/-- The barrier state toward some peers has changed: their next frames carry it (R277). -/
def State.barChanged (s : State) (peers : List Nat) : State :=
  peers.foldl (fun t d => t.updConn d (fun c => { c with barDue := true })) s

/-- A slot's length in nanoseconds (R278). -/
def State.slotNs (s : State) : Nat := 1024 * s.rf Reg.hftBarcfg 23 16

/-- A group's comparator is armed for a release time, and the group goes on to its next barrier. -/
def State.armRelease (s : State) (g : Nat) (x : BarGroup) (t field : Nat) : State :=
  (s.setCmp x.cmp 1 g t true).setGroup g (some { x with
    release := some t, first := none, own := none, arrived := [], late := false, timedOut := false
    number := x.number + 1, field := field })

/-- The coordinator records an arrival; after the last one it sets the release time T and sends RELEASE (R278). An arrival
more than MARGIN after the first one makes the barrier late. -/
def State.recordArrival (s : State) (g : Nat) (x : BarGroup) (dev : Nat) : State :=
  if dev ∈ x.arrived then s
  else
    let now := s.clk.wall
    let late : Bool := match x.first with
      | some t => decide (s.rf Reg.hftBarcfg 15 0 * 6 < (now - t) * 5) && !x.late
      | none => false
    let s := if late then (s.count Reg.hftBarstat 15 0 1).enterLog ⟨Config.lateEntry g, 127, now⟩ else s
    let x := { x with arrived := dev :: x.arrived, first := some (x.first.getD now), late := x.late || late }
    if (s.device :: x.members).all (fun d => d ∈ x.arrived) then
      let t := roundUp (s.gtime + s.rf Reg.hftBarcfg 15 0) s.slotNs
      (s.armRelease g x t (barField g 2 x.number (t / 1024))).barChanged x.members
    else s.setGroup g (some x)

/-- Whether every byte that the PAIR and PUT rings of a partition have collected is acknowledged (R273). -/
def State.collectsAcked (s : State) (q : Nat) : Bool :=
  s.hall.streams.all (fun x => match x.part with
    | some (p, r) => p != q || !x.send || decide (((s.part q).ring r).used ≤ ((s.part q).ring r).moved)
    | none => true)

/-- Whether a partition's arrival at a barrier may go to the hall: every core has arrived and the controller has seen it,
the interval of a sweep end is over, and collected bytes are acknowledged (R73, R191, R273). -/
def State.mayForward (s : State) (q : Nat) (b : BarrierWait) : Bool :=
  let p := s.part q
  p.run == .running && b.ofHall p && !b.forwarded && !p.stopped && s.allArrived q b &&
  decide (b.lastTick + 20 ≤ p.tick) &&
  (!b.sweepEnd || (b.decided && decide (b.lastTick + p.decideTicks ≤ p.tick))) && s.collectsAcked q

/-- HALL_BARRIER_ARRIVE: a partition's arrival is sent to the hall: to the coordinator, or recorded there (R273, R278). -/
def execHallBarrierArrive (q : QuireId) (s : State) : Out :=
  let p := s.part q
  .next (match p.barrier, p.group with
    | some b, some g =>
      match s.barGroup g with
      | some x =>
        if s.mayForward q b then
          let s := s.updPart q (fun p => { p with barrier := some { b with forwarded := true } })
          if x.coord = s.device then s.recordArrival g { x with own := some b.lastAt } s.device
          else
            (s.setGroup g (some { x with own := some b.lastAt, field := barField g 1 x.number 0 })).barChanged [x.coord]
        else s
      | none => s
    | _, _ => s)

/-- The first waiting barrier field, when it has a code and its group is armed. -/
def State.onField (s : State) (code : Nat) (f : BarMsg → Nat → BarGroup → State → State) : State :=
  match s.hall.bars with
  | m :: ms =>
    if bitsN m.field 5 4 = code then
      let s := { s with hall := { s.hall with bars := ms } }
      match s.barGroup (bitsN m.field 3 0) with
      | some x => f m (bitsN m.field 3 0) x s
      | none => s
    else s
  | [] => s

/-- ARRIVED: the coordinator records a participant's arrival; one that follows the timeout is counted (R278, R280). -/
def execArrived (s : State) : Out :=
  .next (s.onField 1 (fun m g x s =>
    if x.coord = s.device ∧ m.peer ∈ x.members then
      (if x.timedOut then s.count Reg.hftBarstat 47 32 1 else s).recordArrival g x m.peer
    else s))

/-- The release time that a SLOT field names near a GTIME: the one in the half-open interval of 2^28 ns around it
(R279). -/
def extendSlot (gtime slot : Nat) : Nat :=
  let lo : Int := (gtime : Int) - 2 ^ 27 + 1
  (lo + ((slot * 1024 : Nat) - lo) % 2 ^ 28).toNat

/-- RELEASE: a participant arms its comparator for T, or moves its release to the first slot at least 64 ns after receipt
(R279, R280). -/
def execRelease (s : State) : Out :=
  .next (s.onField 2 (fun m g x s =>
    if x.coord = m.peer ∧ x.coord ≠ s.device then
      let s := if x.timedOut then s.count Reg.hftBarstat 47 32 1 else s
      let t := extendSlot s.gtime (bitsN m.field 31 14)
      if s.gtime + 64 ≤ t then s.armRelease g x t x.field
      else (s.count Reg.hftBarstat 31 16 1).armRelease g x (roundUp (s.gtime + 64) s.slotNs) x.field
    else s))

/-- The time of a group's own arrival at its present barrier: that of the partition, whether or not it has gone to the hall yet
(R273, R280). -/
def State.ownArrival (s : State) (x : BarGroup) : Option Nat :=
  match x.own, (s.part x.part).barrier with
  | some t, _ => some t
  | none, some b => if b.ofHall (s.part x.part) ∧ !b.forwarded ∧ s.allArrived x.part b then some b.lastAt else none
  | none, none => none

/-- BARRIER_TIMEOUT: BAR_LIMIT has passed since the own arrival without a RELEASE, or at the coordinator since the first
arrival without all; it is reported once per barrier and the module waits on (R280, R9). -/
def execBarrierTimeout (g : GroupId) (s : State) : Out :=
  .next (match s.barGroup g with
    | some x =>
      let coord := x.coord = s.device
      match if coord then x.first <|> s.ownArrival x else s.ownArrival x with
      | some t =>
        if !x.timedOut ∧ t + usec (s.rf Reg.hftTimer 47 32) < s.clk.wall then
          (s.setGroup g (some { x with timedOut := true })).report (blockSrc 0 x.part) 0x41
            (g.val + (if coord then 16 else 0)) x.part
        else s
      | none => s
    | none => s)

/-! ## Multicast at a receiver (R287, R288) -/

/-- The transfer that a group receives, when it is the one named. -/
def State.mrxOf (s : State) (g src id : Nat) : Option McastRx :=
  match Table.look (fun _ => (none : Option McastRx)) s.hall.mrx g with
  | some x => if x.source = src ∧ x.id = id then some x else none
  | none => none

/-- MDATA: a part of a multicast object is written at its address, unless it is held already (R287, R288). A new transfer
takes the place of the group's last one. -/
def execMdata (s : State) : Out :=
  .next (s.onFrame 3 (fun f s =>
    let g := bitsN (hdrDst f.hdr) 3 0
    let i := hdrSeq f.hdr
    let x := (s.mrxOf g (hdrSrc f.hdr) (hdrStream f.hdr)).getD { source := hdrSrc f.hdr, id := hdrStream f.hdr, got := [] }
    if i ∈ x.got then s
    else
      let x := { x with got := i :: x.got, last := if (hdrFlags f.hdr).testBit 2 then some i else x.last }
      let s := { s with hall := { s.hall with mrx := Table.put (fun _ => none) s.hall.mrx g (some x) } }
      s.localWrite 127 (leAt f.body 0 8) (f.body.drop 8)))

/-- The ranges of frames missing from those received, counted up from a frame: first frame and count. -/
def missing (got : List Nat) : Nat → Nat → List (Nat × Nat)
  | 0, _ => []
  | n + 1, i =>
    if i ∈ got then missing got n (i + 1)
    else match missing got n (i + 1) with
      | (a, k) :: rest => if a = i + 1 then (i, k + 1) :: rest else (i, 1) :: (a, k) :: rest
      | [] => [(i, 1)]

/-- MPOLL: a member answers with NACK ranges, or with DONE when it holds every frame (R288). -/
def execMpoll (s : State) : Out :=
  .next (s.onFrame 4 (fun f s =>
    let d := hdrSrc f.hdr
    let id := hdrStream f.hdr
    let got := match s.mrxOf (bitsN (hdrDst f.hdr) 3 0) d id with | some x => x.got | none => []
    let gaps := missing got (leAt f.body 0 4) 0
    if (s.conn d).state ≠ .opened then s
    else if gaps.isEmpty then s.queueCtrl d (ctrlMsg 7 id [])
    else
      let body := (gaps.take 1024).flatMap (fun r => leBytes 4 r.1 ++ leBytes 4 r.2)
      (s.passStaging body).sendTo d 5 0 (s.conn d).txSeq id body))

/-! ## Multicast at the source (R288, R289) -/

/-- The transfers with an id changed. -/
def State.updMtx (s : State) (id : Nat) (f : McastTx → McastTx) : State :=
  { s with hall := { s.hall with mtx := s.hall.mtx.map (fun x => if x.id = id then f x else x) } }

/-- NACK: the missing ranges of a member join the next repair round (R288). -/
def execNack (s : State) : Out :=
  .next (s.onFrame 5 (fun f s =>
    let s := if (s.conn (hdrSrc f.hdr)).live then s.takeFields (hdrSrc f.hdr) f.hdr else s
    s.updMtx (hdrStream f.hdr) (fun x =>
      if hdrSrc f.hdr ∈ x.members then
        let asked := (chunks 8 f.body).flatMap (fun r =>
          (List.range (min (leAt r 4 4) (x.frames - leAt r 0 4))).map (fun k => leAt r 0 4 + k))
        { x with wanted := (x.wanted ++ asked.filter (fun i => i ∉ x.wanted)) }
      else x)))

/-- DONE: a multicast member is complete (R288). -/
def execDone (s : State) : Out :=
  .next (s.onMsg 7 (fun m s => s.updMtx m.id (fun x => if m.peer ∈ x.done then x else { x with done := m.peer :: x.done })))

/-- The members without DONE. -/
def McastTx.left (x : McastTx) : List Nat := x.members.filter (fun d => d ∉ x.done)

/-- A transfer ends PARTIAL: MEMBERS is overwritten with those that sent no DONE (R289, R309). -/
def State.endPartial (s : State) (x : McastTx) : State :=
  let s := match s.desc x.desc with
    | some d => s.localWrite 127 (leAt d.bytes 0x30 8) (leBytes 128 (bitsFrom x.left))
    | none => s
  s.complete x.desc stPartial (x.left.headD 0) x.left.length

/-- A transfer whose time has come takes its next step: MPOLL after 20 µs, then after the 50 µs for answers the frames asked
for, up to eight rounds (R288, R289). It is done once every member has sent DONE. -/
def State.mcastStep (s : State) (x : McastTx) : State :=
  let now := s.clk.wall
  let drop (s : State) : State := { s with hall := { s.hall with mtx := s.hall.mtx.filter (fun y => y.desc != x.desc) } }
  if x.left.isEmpty then (drop s).complete x.desc stDone 0 0
  else if now < x.pollAt then s
  else if !x.polled then (s.sendPoll x).updMtx x.id (fun y => { y with polled := true, pollAt := now + usec 50 })
  else
    let s := s.sendParts x x.wanted
    if 8 ≤ x.round + 1 then (drop s).endPartial x
    else s.updMtx x.id (fun y => { y with polled := false, wanted := [], round := x.round + 1, pollAt := now + usec 20 })

/-- MULTICAST_POLL: each transfer of this source whose time has come takes its next step (R288, R289). -/
def execMulticastPoll (s : State) : Out := .next (s.hall.mtx.foldl State.mcastStep s)

end Sys2Proof.Machine
end

