-- ==== Sys2Proof/Machine/Memory.lean ====
section
/-! DEFINITION. The memory channels: arbitration, refresh, scrub, the debug port and the temperature readout (R232 to R249). -/

namespace Sys2Proof.Machine

/-- The lines raised, in rank order: lines 0 to 6 as given, line 7 while a refresh is owed and none is granted (R247). Each
channel lies on one side, whose stream engine raises lines 0 and 1 (R239). -/
abbrev Channel.raisedLines (c : Channel) (raised : Byte) : List Nat :=
  (List.range 7).filter (fun i => raised.getLsbD i) ++ (if 1 ≤ c.owed && c.owner != some 7 then [7] else [])

/-- The wait age of a line (R242). -/
def Channel.age (c : Channel) (l : Nat) : Nat := Table.look (fun _ => 0) c.ages l

/-- The channel after some cycles with these lines raised (R242): the age of a raised line that does not own the channel
grows, any other age is zero. A line newly raised starts at zero. -/
def Channel.wait (c : Channel) (lines : List Nat) (elapsed : Nat) : Channel :=
  { c with
    ages := (List.range 8).foldl (fun t l => Table.put (fun _ => 0) t l
      (if l ∈ lines && c.owner != some l && c.raised.getLsbD l then min 65535 (c.age l + elapsed) else 0)) c.ages
    raised := BitVec.ofNat 8 (bitsFrom lines) }

/-- The raised line with the largest wait age, the higher rank among equals (R241). -/
def Channel.oldest (c : Channel) (lines : List Nat) : Option Nat :=
  lines.foldl (fun b l => match b with
    | none => some l
    | some m => if c.age m < c.age l then some l else some m) none

/-- The choice of R241 among raised lines (in rank order), for AGE_N: every AGE_N-th grant goes to the longest waiter. -/
def Channel.choose (c : Channel) (ageN : Nat) (lines : List Nat) : Option (Nat × Bool) :=
  if (c.grants + 1) % ageN = 0 then (c.oldest lines).map (fun l => (l, true)) else (lines.head?).map (fun l => (l, false))

/-- The line chosen owns the channel (R241, R242): its grant is counted. -/
def State.grant (s : State) (ch l : Nat) (aged : Bool) : State :=
  let age := (s.chan ch).age l
  let s := s.updChan ch (fun c => { c with
    owner := some l, ownedFor := 0, ownedAt := s.clk.wall, chosen := none, grants := c.grants + 1
    ages := Table.put (fun _ => 0) c.ages l 0 })
  let s := if aged then s.count (Reg.memArbstat ch) 47 24 1 else s
  s.peak (Reg.memArbstat ch) 63 48 age

/-- The arbiter chooses among the raised lines for the next cycle. -/
def State.chooseOwner (s : State) (ch : Nat) (lines : List Nat) : State :=
  let n := s.rf (Reg.memCtrl (ch / 4)) 6 0
  s.updChan ch (fun c => { c with owner := none, ownedFor := 0, chosen := c.choose n lines })

/-- Controller cycles of 0.625 ns that a burst-group occupies a channel: 4 KiB at 38.4 GB/s, or at 32 GB/s in a channel that
runs at 10.667 Gb/s (R230, R239, R250). -/
def State.groupCycles (s : State) (ch : Nat) : Nat :=
  if fld (s.reg (Reg.memStatus (ch / 4))) (8 * (ch % 4) + 1) (8 * (ch % 4)) = 1 then 205 else 171

/-- The partition tag of an access by a line: host, hall and scrub accesses carry none (R359). -/
def lineTag (l : Nat) (tag : Nat) : Nat := if l = 3 ∨ l = 4 ∨ l = 6 then 127 else tag

/-- What the arbiter finds at a look after some cycles: the channel, and the lines raised, without one that drops its request
in this cycle (R240). -/
def State.look (s : State) (ch : Nat) (raised : Byte) (elapsed : Nat) : Channel × List Nat :=
  let r := (s.chan ch).run (s.groupCycles ch) elapsed s.clk.wall
  let lines := (r.1.raisedLines raised).filter (fun l => r.2 != some l)
  (r.1.wait lines elapsed, lines)

/-- ARBITER_GRANT: one look of the arbiter at its request lines. A line chosen in the cycle before owns the channel when
its request is still raised, and its read is checked (R232, R234); with its request low the grant is a ghost (R243).
Without an owner, or when the owner drops its request, the next owner is chosen (R240, R241). Line 7 is raised while a
refresh is owed, and holds the channel until its refresh ends (R247). -/
def execArbiterGrant (ch : ChanId) (raised : Byte) (elapsed : Nat) (read : Option DramRead) (s : State) : Out :=
  let lines := (s.look ch raised elapsed).2
  let s := s.updChan ch (fun _ => (s.look ch raised elapsed).1)
  let c := s.chan ch
  match c.chosen with
  | some (l, aged) =>
    if l ∈ lines then
      let s := s.grant ch l aged
      match read with
      | some r => .next (if r.addr.toNat < dramBytes && chanOf r.addr.toNat == ch && l != 7 then
          s.dramRead (lineTag l r.tag.toNat) r.addr.toNat 1 else s)
      | none => .next s
    else .next ((s.count (Reg.memArbstat ch) 23 0 1).chooseOwner ch lines)
  | none =>
    match c.owner with
    | some o => .next (if o ∈ lines ∨ o = 7 then s else s.chooseOwner ch lines)
    | none => .next (s.chooseOwner ch lines)

/-- Whether the memory channels run: in S0 and outside a power entry, since LPDDR6 is in self-refresh in S1 and S2 (R249,
R401). -/
def State.memRuns (s : State) : Bool := s.pwr.state == .s0 && s.pwr.entry.isNone

/-- Whether a refresh interval of a channel has ended: 3.904 µs after the last, or 1.952 µs while its devices report a
temperature above 85 °C (R247), in units of `wall`; the first one's start is not given, and any time ends it. -/
def State.intervalOver (s : State) (ch : Nat) : Bool :=
  match (s.chan ch).intervalAt with
  | none => true
  | some t => decide ((if bit (s.reg (Reg.memStatus (ch / 4))) (8 * (ch % 4) + 2) then 23424 else 46848) ≤ 10 * (s.clk.wall - t))

/-- The owed count rises by one at the end of an interval; at 8 an emergency refresh begins (R247, R248). -/
def Channel.owe (c : Channel) (wall : Nat) : Channel :=
  { c with owed := min 8 (c.owed + 1), intervalAt := some wall
           emergency := if 7 ≤ c.owed ∧ c.emergency.isNone then some (wall, refreshCycles) else c.emergency }

/-- REFRESH_INTERVAL: at the end of a refresh interval the owed count rises by one; at 8 an emergency refresh pre-empts, and is
counted (R247, R248). A refresh that ends in the same cycle lowers the count as well. -/
def execRefreshInterval (ch : ChanId) (s : State) : Out :=
  if s.memRuns && s.intervalOver ch then
    let c := ((s.chan ch).run (s.groupCycles ch) 0 s.clk.wall).1
    let s := s.updChan ch (fun _ => c.owe s.clk.wall)
    .next (if 7 ≤ c.owed ∧ c.emergency.isNone then s.count (Reg.memRefstat ch) 31 8 1 else s)
  else .next s

/-- Whether the scrub line of a channel is due: SCRUB_RATE burst-groups in each millisecond (R235). -/
def State.scrubDue (s : State) (ch : Nat) : Bool :=
  let rate := fld (s.reg (Reg.memCtrl (ch / 4))) 15 8
  rate != 0 && (match (s.chan ch).scrubAt with
    | none => true
    | some t => decide (1200000 ≤ rate * (s.clk.wall - t)))

/-- SCRUB_READ: at its pace the scrub line reads the next burst-group of its channel; a correctable access is reported and written
back, an uncorrectable one only reported (R234, R235). -/
def execScrubRead (ch : ChanId) (s : State) : Out :=
  let ctrl := s.reg (Reg.memCtrl (ch / 4))
  if bit ctrl 7 && s.scrubDue ch && s.memRuns then
    let g := (s.chan ch).scrub
    let k := chanAddr ch (g * 4096) / 64
    let hits := s.dramErr.filter (fun e => k ≤ e.1 && e.1 < k + 64)
    let s := hits.foldl (fun t e => if e.2 = 1 then t.dramCeAt 127 e.1 else t.dramUeAt 127 e.1) s
    let s := { s with dramErr := s.dramErr.filter (fun e => !(k ≤ e.1 && e.1 < k + 64 && e.2 == 1)) }
    .next (s.updChan ch (fun c => { c with scrub := (g + 1) % 2 ^ 20, scrubAt := some s.clk.wall }))
  else .next s

/-- An access through the JTAG pins to the array, the buffers or the registers, while the debug port is open (R392). -/
def State.jtagAccess (s : State) (a : Nat) (acc : BusAccess) : State :=
  match acc with
  | .read n =>
    let r := s.localRead 127 a n
    { r.2.2 with readBytes := if r.2.1.isSome then [] else r.1 }
  | .write bs => s.localWrite 127 a bs

/-- DEBUG_ACCESS: the open debug port makes one access of at most 64 B to LPDDR6, at most once in 256 controller cycles (R244);
256 cycles of 0.625 ns are 192 units of `wall`. An address elsewhere is reached through JTAG (R392). -/
def execDebugAccess (addr : BitVec 40) (acc : BusAccess) (s : State) : Out :=
  let a := addr.toNat
  let ch := chanOf a
  let len := match acc with
    | .read n => n
    | .write bs => bs.length
  let ready := match (s.chan ch).debugAt with
    | some t => decide (t + 192 ≤ s.clk.wall)
    | none => true
  if s.mgt.debugOpen && s.inDram a len && a % 64 + len ≤ 64 && 0 < len && ready then
    let s := (s.updChan ch (fun c => { c with debugAt := some s.clk.wall })).count (Reg.memRefstat ch) 47 32 1
    match acc with
    | .read n => .next { s.dramRead 127 a n with readBytes := if (s.dramUe a n).isSome then [] else s.rd a n }
    | .write bs => .next (s.wrDram 127 a bs)
  else if s.mgt.debugOpen && !s.inDram a len && a % 64 + len ≤ 64 && 0 < len then .next (s.jtagAccess a acc)
  else .next s

/-- DEVICE_TEMPERATURE_READOUT: the controller reads its devices' temperature and sets HOT, which halves the refresh
interval (R247). -/
def execDeviceTemperatureReadout (ch : ChanId) (hot : Bool) (s : State) : Out :=
  let b := 8 * (ch.val % 4) + 2
  .next (s.setRf (Reg.memStatus (ch / 4)) b b (if hot then 1 else 0))

end Sys2Proof.Machine
end

