-- ==== Sys2Proof/Machine/Run.lean ====
section
/-! DEFINITION. RUN_SWEEPS: its checks, the Colophon's digests at its start, and the release of the partition (R67, R142,
R145, R213, R224 to R228, R306). -/

namespace Sys2Proof.Machine

/-! ## The release of a partition (R67) -/

/-- A core that a run releases: its continuation word by the point at which the partition stands. -/
def State.releaseCore (s : State) (point n : Nat) : State :=
  let e := s.reg (Reg.coreEntry n)
  s.updCore n (fun c =>
    if c.mode = .faulted ∨ c.mode = .empty then c
    else
      let go (l : CoreLive) : CoreLive :=
        if point = 3 then { l with pc := fld e 9 0 } else if point = 0 then l.sweepStart (fld e 25 16) else l
      { c with mode := .running, nextMode := none, live := go c.live, next := go c.next })

/-- A run releases its partition: its epoch tick is its first tick (R67, R157), and a fault hold freezes it by the
freeze-tick rule (R365). -/
def State.startRun (s : State) (q : Nat) : State :=
  let point := (s.part q).point
  let s := (s.partCores q).foldl (fun t n => t.releaseCore point n) s
  s.updPart q (fun p => { p with
    run := .running, epoch := p.tick, resumeIn := none
    freezeAt := if p.faultHold then some (p.tick + 40) else none, froze := false
    job := p.job.map (fun j => { j with going := true }) })

/-! ## Colophon requests (R224, R228) -/

/-- Whether a Colophon destination is one that R224 allows. -/
def State.coloDestOk (s : State) (p : Partition) (dest : Nat) : Bool :=
  dest % 64 == 0 && s.inDram dest 1792 &&
  (match p.binding with
    | some b => b.ranges.all (fun r => !meets dest 1792 r.addr r.len)
    | none => true)

/-- MODEL_TAG, weight digest and input digest of a run (R228); none after an uncorrectable access. The weight digest stays
cached. -/
def State.coloStart (s : State) (q : Nat) (b : Binding) (dest : Nat) :
    Option (List Byte × List Byte × List Byte) × State :=
  let t := s.dramRead q (dest + 0xD0) 32
  if (s.dramUe (dest + 0xD0) 32).isSome then (none, t)
  else
    let tag := s.rd (dest + 0xD0) 32
    let w := match (t.part q).colo.weight with
      | some dig => (some dig, t)
      | none =>
        let r := t.readItems q (b.rangesOf true)
        (r.1.map (fun items => treeDigest (b.weights ++ items)), r.2)
    match w.1 with
    | none => (none, w.2)
    | some wd =>
      let s := w.2.updPart q (fun p => { p with colo := { p.colo with weight := some wd } })
      let r := s.readItems q (b.rangesOf false)
      (r.1.map (fun items => (tag, wd, treeDigest items)), r.2)

/-! ## RUN_SWEEPS -/

/-- The status with which a RUN_SWEEPS completes without a sweep, but for the digests; none when it may run. -/
def State.runStatus (s : State) (x : Desc) (p : Partition) (b : Binding) : Option Nat :=
  let rflags := x.arg 0x28 1
  if b.flags.testBit 1 ≠ s.det then some stRefused
  else if s.det ∧ 2 ^ 40 < p.sweep + x.arg 0x10 8 then some stRefused
  else if rflags.testBit 0 ∧ !s.coloDestOk p (x.arg 0x20 8) then some stBad
  else if !s.det ∧ !s.ent.seeded then some (if s.ent.failedSeed then stEntropyFailed else stNotReady)
  else if x.flags.testBit 2 ∧ s.freeCmp.isNone then some stConflict
  else none

/-- The run's record, with what its Colophon takes at the start. -/
def runJob (x : Desc) (first : Nat) (det : Bool) (colo : Option (List Byte × List Byte × List Byte)) : Job :=
  { desc := x.ref, sweeps := x.arg 0x10 8, first := first, det := det
    colophon := colo.map (fun _ => x.arg 0x20 8), sign := colo.isSome && (x.arg 0x28 1).testBit 1
    modelTag := (colo.map (fun c => c.1)).getD (zeros 32), wDigest := (colo.map (fun c => c.2.1)).getD (zeros 32)
    iDigest := (colo.map (fun c => c.2.2)).getD (zeros 32) }

/-- A run that may start: released at once, or by its comparator at START_TIME (R306). -/
def State.beginRun (s : State) (x : Desc) (q : Nat) (colo : Option (List Byte × List Byte × List Byte)) : State :=
  let s := s.updPart q (fun p => { p with job := some (runJob x p.sweep s.det colo) })
  let time := x.arg 0x18 8
  match s.freeCmp with
  | some k => if x.flags.testBit 2 ∧ s.gtime < time then s.setCmp k 2 q time true else s.startRun q
  | none => s.startRun q

/-- RUN_SWEEPS: the checks, the Colophon's digests, and the release of the partition (R67, R213, R224, R228, R306,
R323). -/
def execRunSweeps (d : DescRef) (s : State) : Out :=
  .next (match s.begun d 2 with
    | none => s
    | some x =>
      let s := s.modeFirst
      let q := d.ring.val
      let p := s.part q
      if p.job.isSome then s
      else if p.faulted then s.complete d stFaulted 0 0
      else match p.binding with
        | none => s.complete d stRefused 0 0
        | some b =>
          if p.run ≠ .loaded then s.complete d stRefused 0 0
          else match s.runStatus x p b with
            | some st => s.complete d st 0 0
            | none =>
              if (x.arg 0x28 1).testBit 0 then
                let r := s.coloStart q b (x.arg 0x20 8)
                match r.1 with
                | some c => r.2.beginRun x q (some c)
                | none => r.2.complete d stFaulted 0 0
              else s.beginRun x q none)

end Sys2Proof.Machine
end

