-- ==== Sys2Proof/Machine/Dispatch.lean ====
section
/-! DEFINITION. The dispatch of a command to its meaning: one arm per row of the opcode table. -/

namespace Sys2Proof.Machine

/-- The effect of a command on everything but the queue. -/
def exec (i : Instr) (s : State) : Host.Outcome State Fault Refusal :=
  match i with
  | .nop c slot w => Sys2Proof.Machine.execNop c slot w s
  | .loop c w => Sys2Proof.Machine.execLoop c w s
  | .wait c w => Sys2Proof.Machine.execWait c w s
  | .bar c w => Sys2Proof.Machine.execBar c w s
  | .swend c w => Sys2Proof.Machine.execSwend c w s
  | .phase c w => Sys2Proof.Machine.execPhase c w s
  | .flag c w => Sys2Proof.Machine.execFlag c w s
  | .page c w => Sys2Proof.Machine.execPage c w s
  | .pset c w => Sys2Proof.Machine.execPset c w s
  | .leafHalt c w => Sys2Proof.Machine.execLeafHalt c w s
  | .send c w => Sys2Proof.Machine.execSend c w s
  | .recv c w => Sys2Proof.Machine.execRecv c w s
  | .relay c w => Sys2Proof.Machine.execRelay c w s
  | .recvf c w => Sys2Proof.Machine.execRecvf c w s
  | .linkWordLand c d how => Sys2Proof.Machine.execLinkWordLand c d how s
  | .accOpen c w => Sys2Proof.Machine.execAccOpen c w s
  | .acc c w => Sys2Proof.Machine.execAcc c w s
  | .lds c w => Sys2Proof.Machine.execLds c w s
  | .close c w => Sys2Proof.Machine.execClose c w s
  | .closeBatch c => Sys2Proof.Machine.execCloseBatch c s
  | .redLocalExact c w => Sys2Proof.Machine.execRedLocalExact c w s
  | .redTreeSend c w => Sys2Proof.Machine.execRedTreeSend c w s
  | .redTreeAdd c w => Sys2Proof.Machine.execRedTreeAdd c w s
  | .redCanon c w => Sys2Proof.Machine.execRedCanon c w s
  | .drawb c w => Sys2Proof.Machine.execDrawb c w s
  | .drawc c w => Sys2Proof.Machine.execDrawc c w s
  | .drawr c w => Sys2Proof.Machine.execDrawr c w s
  | .ldo c w => Sys2Proof.Machine.execLdo c w s
  | .put c w => Sys2Proof.Machine.execPut c w s
  | .drawResultEnter c => Sys2Proof.Machine.execDrawResultEnter c s
  | .barrierRelease q => Sys2Proof.Machine.execBarrierRelease q s
  | .sweepBoundary q => Sys2Proof.Machine.execSweepBoundary q s
  | .poolOffer q pool => Sys2Proof.Machine.execPoolOffer q pool s
  | .planDeliver q e router entry => Sys2Proof.Machine.execPlanDeliver q e router entry s
  | .planCollect q e router entry => Sys2Proof.Machine.execPlanCollect q e router entry s
  | .holdRaise q => Sys2Proof.Machine.execHoldRaise q s
  | .holdDrop q => Sys2Proof.Machine.execHoldDrop q s
  | .holdTimeout q => Sys2Proof.Machine.execHoldTimeout q s
  | .pergolaStop q => Sys2Proof.Machine.execPergolaStop q s
  | .deliverGroupLand q ring => Sys2Proof.Machine.execDeliverGroupLand q ring s
  | .collectGroupWrite q ring => Sys2Proof.Machine.execCollectGroupWrite q ring s
  | .drainRecordWrite q ring => Sys2Proof.Machine.execDrainRecordWrite q ring s
  | .arbiterGrant ch raised elapsed read => Sys2Proof.Machine.execArbiterGrant ch raised elapsed read s
  | .refreshInterval ch => Sys2Proof.Machine.execRefreshInterval ch s
  | .scrubRead ch => Sys2Proof.Machine.execScrubRead ch s
  | .debugAccess addr acc => Sys2Proof.Machine.execDebugAccess addr acc s
  | .frameReceive p f => Sys2Proof.Machine.execFrameReceive p f s
  | .data => Sys2Proof.Machine.execData s
  | .idle => Sys2Proof.Machine.execIdle s
  | .openMessage => Sys2Proof.Machine.execOpenMessage s
  | .openAck => Sys2Proof.Machine.execOpenAck s
  | .connectionClose => Sys2Proof.Machine.execConnectionClose s
  | .credit => Sys2Proof.Machine.execCredit s
  | .get => Sys2Proof.Machine.execGet s
  | .abort => Sys2Proof.Machine.execAbort s
  | .done => Sys2Proof.Machine.execDone s
  | .mdata => Sys2Proof.Machine.execMdata s
  | .mpoll => Sys2Proof.Machine.execMpoll s
  | .nack => Sys2Proof.Machine.execNack s
  | .wakeFrame => Sys2Proof.Machine.execWakeFrame s
  | .hallFrameSend d => Sys2Proof.Machine.execHallFrameSend d s
  | .retransmissionTimeout d => Sys2Proof.Machine.execRetransmissionTimeout d s
  | .peerTimeout d => Sys2Proof.Machine.execPeerTimeout d s
  | .acknowledgementDue d => Sys2Proof.Machine.execAcknowledgementDue d s
  | .idleSend p => Sys2Proof.Machine.execIdleSend p s
  | .hallBarrierArrive q => Sys2Proof.Machine.execHallBarrierArrive q s
  | .arrived => Sys2Proof.Machine.execArrived s
  | .release => Sys2Proof.Machine.execRelease s
  | .barrierTimeout g => Sys2Proof.Machine.execBarrierTimeout g s
  | .comparatorFire k => Sys2Proof.Machine.execComparatorFire k s
  | .multicastPoll => Sys2Proof.Machine.execMulticastPoll s
  | .peerValidWrite who d valid => Sys2Proof.Machine.execPeerValidWrite who d valid s
  | .portModeWrite who p mode medium => Sys2Proof.Machine.execPortModeWrite who p mode medium s
  | .macsecRekey p an xpn key transmit => Sys2Proof.Machine.execMacsecRekey p an xpn key transmit s
  | .gtbNsRead who => Sys2Proof.Machine.execGtbNsRead who s
  | .gtbStepWrite who delta => Sys2Proof.Machine.execGtbStepWrite who delta s
  | .sqTail p r value size => Sys2Proof.Machine.execSqTail p r value size s
  | .cqHead p r value size => Sys2Proof.Machine.execCqHead p r value size s
  | .drainHead p r value size => Sys2Proof.Machine.execDrainHead p r value size s
  | .ldrainHead p r value size => Sys2Proof.Machine.execLdrainHead p r value size s
  | .descriptorFetch p r bytes => Sys2Proof.Machine.execDescriptorFetch p r bytes s
  | .descriptorStart d => Sys2Proof.Machine.execDescriptorStart d s
  | .completionPost p r => Sys2Proof.Machine.execCompletionPost p r s
  | .interruptModerationTimeout p r => Sys2Proof.Machine.execInterruptModerationTimeout p r s
  | .descriptorWatchdog d => Sys2Proof.Machine.execDescriptorWatchdog d s
  | .ringEnable p r sq cq => Sys2Proof.Machine.execRingEnable p r sq cq s
  | .loadBinding d => Sys2Proof.Machine.execLoadBinding d s
  | .segmentReceive c seg good => Sys2Proof.Machine.execSegmentReceive c seg good s
  | .loadRepairRound q => Sys2Proof.Machine.execLoadRepairRound q s
  | .loadComplete q => Sys2Proof.Machine.execLoadComplete q s
  | .runSweeps d => Sys2Proof.Machine.execRunSweeps d s
  | .colophonWrite q => Sys2Proof.Machine.execColophonWrite q s
  | .halt d => Sys2Proof.Machine.execHalt d s
  | .saveContext d => Sys2Proof.Machine.execSaveContext d s
  | .restoreContext d => Sys2Proof.Machine.execRestoreContext d s
  | .refoldContext d => Sys2Proof.Machine.execRefoldContext d s
  | .copy d host => Sys2Proof.Machine.execCopy d host s
  | .fill d => Sys2Proof.Machine.execFill d s
  | .digest d host => Sys2Proof.Machine.execDigest d host s
  | .getEntropy d => Sys2Proof.Machine.execGetEntropy d s
  | .barrierArm d => Sys2Proof.Machine.execBarrierArm d s
  | .barrierDisarm d => Sys2Proof.Machine.execBarrierDisarm d s
  | .drainSamples d => Sys2Proof.Machine.execDrainSamples d s
  | .setTable d => Sys2Proof.Machine.execSetTable d s
  | .fence d => Sys2Proof.Machine.execFence d s
  | .semLockRead who n => Sys2Proof.Machine.execSemLockRead who n s
  | .semRelease who n => Sys2Proof.Machine.execSemRelease who n s
  | .semRenew who n => Sys2Proof.Machine.execSemRenew who n s
  | .semLeaseExpire n => Sys2Proof.Machine.execSemLeaseExpire n s
  | .prtOwnerWrite who q mode sem => Sys2Proof.Machine.execPrtOwnerWrite who q mode sem s
  | .create who q qrows qcols => Sys2Proof.Machine.execCreate who q qrows qcols s
  | .dissolve who q => Sys2Proof.Machine.execDissolve who q s
  | .partitionReset who q => Sys2Proof.Machine.execPartitionReset who q s
  | .coreReset who c => Sys2Proof.Machine.execCoreReset who c s
  | .arrModeWrite who det => Sys2Proof.Machine.execArrModeWrite who det s
  | .windowWrite c off bytes => Sys2Proof.Machine.execWindowWrite c off bytes s
  | .bar4Access p off acc => Sys2Proof.Machine.execBar4Access p off acc s
  | .registerReadClear who off size => Sys2Proof.Machine.execRegisterReadClear who off size s
  | .registerWrite who off size value => Sys2Proof.Machine.execRegisterWrite who off size value s
  | .fltInfoClear who => Sys2Proof.Machine.execFltInfoClear who s
  | .fltPendClear who bits => Sys2Proof.Machine.execFltPendClear who bits s
  | .faultHoldRelease who part => Sys2Proof.Machine.execFaultHoldRelease who part s
  | .faultAccept => Sys2Proof.Machine.execFaultAccept s
  | .noiseSample bits => Sys2Proof.Machine.execNoiseSample bits s
  | .expanderReseed => Sys2Proof.Machine.execExpanderReseed s
  | .expanderRequest => Sys2Proof.Machine.execExpanderRequest s
  | .entEnable who => Sys2Proof.Machine.execEntEnable who s
  | .entDisable who => Sys2Proof.Machine.execEntDisable who s
  | .laneSeeding => Sys2Proof.Machine.execLaneSeeding s
  | .moduleResetRelease t => Sys2Proof.Machine.execModuleResetRelease t s
  | .supplyGoodFall => Sys2Proof.Machine.execSupplyGoodFall s
  | .hostPortReset p => Sys2Proof.Machine.execHostPortReset p s
  | .moduleReset => Sys2Proof.Machine.execModuleReset s
  | .quireReset => Sys2Proof.Machine.execQuireReset s
  | .regionAlloc => Sys2Proof.Machine.execRegionAlloc s
  | .regionFree => Sys2Proof.Machine.execRegionFree s
  | .configWrite => Sys2Proof.Machine.execConfigWrite s
  | .calWrite => Sys2Proof.Machine.execCalWrite s
  | .fwUpdate host => Sys2Proof.Machine.execFwUpdate host s
  | .fwCommit => Sys2Proof.Machine.execFwCommit s
  | .logRead => Sys2Proof.Machine.execLogRead s
  | .attest => Sys2Proof.Machine.execAttest s
  | .debugOpen => Sys2Proof.Machine.execDebugOpen s
  | .debugClose => Sys2Proof.Machine.execDebugClose s
  | .gatehouseSign => Sys2Proof.Machine.execGatehouseSign s
  | .logProgram => Sys2Proof.Machine.execLogProgram s
  | .kick who value => Sys2Proof.Machine.execKick who value s
  | .ghsWatchdog pc => Sys2Proof.Machine.execGhsWatchdog pc s
  | .mgeDatagram bytes => Sys2Proof.Machine.execMgeDatagram bytes s
  | .mctpMessage bytes => Sys2Proof.Machine.execMctpMessage bytes s
  | .sensorSample values => Sys2Proof.Machine.execSensorSample values s
  | .thermTrip sensor temp => Sys2Proof.Machine.execThermTrip sensor temp s
  | .throttleStep h => Sys2Proof.Machine.execThrottleStep h s
  | .governorWindow mean => Sys2Proof.Machine.execGovernorWindow mean s
  | .governorPeak sample => Sys2Proof.Machine.execGovernorPeak sample s
  | .powerStateRequest who target => Sys2Proof.Machine.execPowerStateRequest who target s
  | .handshakeReask => Sys2Proof.Machine.execHandshakeReask s
  | .powerEntryComplete => Sys2Proof.Machine.execPowerEntryComplete s
  | .wake src => Sys2Proof.Machine.execWake src s
  | .wakeFromS3 src => Sys2Proof.Machine.execWakeFromS3 src s
  | .pwrSchedArm who time target => Sys2Proof.Machine.execPwrSchedArm who time target s
  | .pwrSchedDisarm who => Sys2Proof.Machine.execPwrSchedDisarm who s
  | .tsyncModeWrite who mode group => Sys2Proof.Machine.execTsyncModeWrite who mode group s
  | .ghsSel who pll => Sys2Proof.Machine.execGhsSel who pll s
  | .laneGeneratorOutput h => Sys2Proof.Machine.execLaneGeneratorOutput h s
  | .hallLinkDown p => Sys2Proof.Machine.execHallLinkDown p s
  | .hallLinkUp p => Sys2Proof.Machine.execHallLinkUp p s
  | .hostLinkUp p gen width => Sys2Proof.Machine.execHostLinkUp p gen width s
  | .deviceTemperatureReadout ch hot => Sys2Proof.Machine.execDeviceTemperatureReadout ch hot s
  | .gtbLocked within1 within4 synce => Sys2Proof.Machine.execGtbLocked within1 within4 synce s
  | .tsyncPpsEdge => Sys2Proof.Machine.execTsyncPpsEdge s
  | .supplySag => Sys2Proof.Machine.execSupplySag s
  | .supplySagEnd => Sys2Proof.Machine.execSupplySagEnd s
  | .supplyGoodRise => Sys2Proof.Machine.execSupplyGoodRise s
  | .jtagReset => Sys2Proof.Machine.execJtagReset s

end Sys2Proof.Machine
end

