-- ==== Sys2Proof/Machine/Sequencer.lean ====
section
/-! DEFINITION. The array's own time: what an empty command queue does. An idle step is either the start of the next unit of
time, in which the array cycles end and begin, or the issue of the words of the ticks that have begun (R19, R26 to R31, R67,
R139, R153, R157, R165, R166, R169, R281). -/

namespace Sys2Proof.Machine

/-! ## Clocks -/

/-- GTIME after one GTB cycle (R281). -/
def Clocks.gtbCycle (c : Clocks) (rate : Nat) : Clocks :=
  let v := c.gtimeNs.toNat * 2 ^ 16 + c.gtimeFrac.toNat + rate
  { c with gtimeNs := BitVec.ofNat 64 (v / 2 ^ 16), gtimeFrac := BitVec.ofNat 16 v }

/-- Whether the module's clocks run: not in S3 and not under reset. -/
def State.clocked (s : State) : Bool := !s.boot.inReset && s.pwr.state != .s3

/-- One unit of time: the clocks move, the events of a Gatehouse cycle that ends are past (R11), and which halves begin an
array cycle (log 1). -/
def State.advanceClocks (s : State) : State × Bool × Bool :=
  let c := { s.clk with wall := s.clk.wall + 1 }
  let now := if c.mc = s.mc then s.now else []
  if s.clocked then
    let n := c.accN + s.pwr.clock .north
    let h := c.accS + s.pwr.clock .south
    let g := c.accG + 500
    let c := { c with accN := n % 1200, accS := h % 1200, accG := g % 1200 }
    ({ s with now := now, clk := if 1200 ≤ g then c.gtbCycle (s.rf Reg.gtbRate 31 0) else c },
     decide (1200 ≤ n) && !s.asleep, decide (1200 ≤ h) && !s.asleep)
  else ({ s with now := now, clk := c }, false, false)

/-- A spanning partition's copies after the cycles of the halves (R153): whether the lower copy moves, and the new lead. -/
def moveCopies (lead : Int) (n h : Bool) : Bool × Int :=
  let x : Bool × Int := if n then (if lead < 0 then (true, lead + 1) else (false, min 2 (lead + 1))) else (false, lead)
  if h then (if 0 < x.2 then (true, x.2 - 1) else (x.1, max (-2) (x.2 - 1))) else x

/-- Whether a partition has an array cycle now, and the state with the lead of its copies: a partition in one half cycles
with it; a spanning one with its slower copy, and while it stands with its slower half (R29, R153, R154). -/
def State.partCycle (s : State) (q : Nat) (n h : Bool) : Bool × State :=
  let p := s.part q
  if p.spans q then
    if p.run = .running ∧ !p.froze then
      let m := moveCopies p.lead n h
      (m.1, s.updPart q (fun p => { p with lead := m.2 }))
    else (if s.pwr.clock .north < s.pwr.clock .south then n else h, s.updPart q (fun p => { p with lead := 0 }))
  else (if q / 8 < 6 then n else h, s)

/-! ## A partition's cycle -/

/-- The present tick of a partition ends: its cores' writes land and its words leave, and the next tick follows. At the
end of the freeze tick the tick stands (R165); after a STOP's freeze tick the ticks in which issued operations complete go on
(R169). -/
def State.endPartTick (s : State) (q : Nat) : State :=
  let p := s.part q
  if p.inTick then
    let s := (s.partCores q).foldl (fun t n => t.endTick n p.tick) s
    s.updPart q (fun p =>
      let runs := p.run == .running
      let tick := if runs && (!p.atFreeze || p.stopped) then p.tick + 1 else p.tick
      { p with inTick := false, issued := false, tick := tick, froze := p.froze || (runs && p.atFreeze), edgeOut := p.edgeOut.filter (fun w => tick ≤ w.2.2.1 + 2) })
  else s

/-- Whether a core issues no more words of its own: it has halted, stopped, or stands loaded. -/
def CoreState.stands (c : CoreState) : Bool := !([CoreMode.running, .barrier, .waiting].contains c.mode)

/-- Whether every operation a core has issued is complete. -/
def CoreState.settledAll (c : CoreState) : Bool :=
  c.closes.isEmpty && c.draws.isEmpty && c.ldsDue.isEmpty && c.ldoDue.isEmpty && c.pages.isEmpty && c.adds.isEmpty &&
  c.canon.isEmpty && c.trees.isEmpty && c.arriving.isEmpty

/-- A tick begins. -/
def State.openTick (s : State) (q : Nat) : State := s.updPart q (fun p => { p with inTick := true, issued := false })

/-- The partition resumes after its holds: the tick after the freeze tick begins (R166); under a fault hold or a STOP it
stays frozen. -/
def State.resumePart (s : State) (q : Nat) : State :=
  let s := s.updPart q (fun p => { p with hold := none, resumeIn := none })
  if (s.part q).faultHold || (s.part q).stopped then s
  else (s.updPart q (fun p => { p with freezeAt := none, froze := false, tick := p.tick + 1 })).openTick q

/-- The cores of a partition stop issuing after a STOP's freeze tick (R169). -/
def State.standStill (s : State) (q : Nat) : State :=
  let p := s.part q
  if p.stopped && p.froze then
    ((s.partCores q).foldl (fun t n => t.updCore n CoreState.loadedAgain) s).updPart q (fun p =>
      { p with tick := max p.tick (p.freezeAt.getD p.tick + 1) })
  else s

/-- A run whose cores have all halted, or that a STOP has ended, is over once the operations issued are complete (R75, R169):
at POINT 2, with the tick at the freeze tick after a STOP. -/
def State.endStanding (s : State) (q : Nat) : State :=
  let p := s.part q
  if (s.partCores q).all (fun n => (s.core n).settledAll) then
    (s.updPart q (fun p => { p with tick := if p.stopped then min p.tick (p.freezeAt.getD p.tick) else p.tick })).endRun q 2
      (if p.faulted then stFaulted else stDone)
  else s.openTick q

/-- An array cycle of a load that waits after its broadcast or a round (R182). -/
def Partition.loadCycle (p : Partition) : Partition :=
  { p with load := p.load.map (fun l => if l.gone then { l with quiet := l.quiet + 1 } else l) }

/-- An array cycle of a partition: its tick ends; then it stops, waits frozen, resumes, starts, or begins the next tick. -/
def State.cyclePart (s : State) (q : Nat) : State :=
  let s := ((s.endPartTick q).standStill q).updPart q Partition.watchRings
  let p := s.part q
  let left := p.resumeIn.map (fun k => k - 1)
  if p.run = .running then
    if p.froze && !p.stopped then
      if left = some 0 then s.resumePart q else s.updPart q (fun p => { p with resumeIn := left })
    else if (s.partCores q).all (fun n => (s.core n).stands) then s.endStanding q
    else s.openTick q
  else if p.run = .loaded ∧ p.job.isSome then
    if left = some 0 then (s.startRun q).openTick q else s.updPart q (fun p => { p with resumeIn := left })
  else s.updPart q Partition.loadCycle

/-- The commands of a partition at the start of its cycle: what its controller and its rings call for. -/
def State.controlEvents (s : State) (q : QuireId) : List Instr :=
  let p := s.part q
  (if p.stopLine && !p.stopped then [Instr.pergolaStop q] else []) ++
  (if p.run = .running then
    (match p.barrier with
      | some b => if b.sweepEnd && !b.decided then [.sweepBoundary q, .barrierRelease q] else [.barrierRelease q]
      | none => []) ++
    (if p.lowRing.isSome && (p.hold.isNone || p.resumeIn.isSome) then [.holdRaise q] else []) ++
    (match p.hold with
      | some h => (if p.mayDrop h then [.holdDrop q] else []) ++
        (if h.reported then [] else [.holdTimeout q])
      | none => [])
  else [])

/-- A unit of time outside the array: a flash write goes on, the management processor reads its SRAM, a start ends with GEN_CAPS
published and its store written, and a wake ends (R369, R376, R380, R385, R408). -/
def State.moduleCycle (s : State) : State := ((s.flashCycle.sramCycle).endStart.storeCycle).wakeCycle

/-- The start of a unit of time: the edges' cycle ends, the clocks move, the module's own work goes on, and every partition whose half begins a cycle takes
it. The commands that follow are queued: lane generators first, then each partition's (log 2). -/
def State.cycle (s : State) : State :=
  let y := s.endEdgeCycle.advanceClocks
  let x := (y.1.moduleCycle, y.2)
  let ids := (List.finRange 96).filter (fun q => (x.1.part q.val).exists_)
  let r := ids.foldl (fun (a : State × List QuireId) (q : QuireId) =>
    let c := a.1.partCycle q.val x.2.1 x.2.2
    if c.1 then (c.2.cyclePart q.val, a.2 ++ [q]) else (c.2, a.2)) (x.1, [])
  let s := r.1
  { s with pending := s.pending ++
      (if s.lanes.isEmpty then [] else (if x.2.1 then [.laneGeneratorOutput .north] else []) ++
        (if x.2.2 then [.laneGeneratorOutput .south] else [])) ++
      r.2.flatMap (fun (q : QuireId) => s.controlEvents q) }

/-! ## The issue of a tick -/

/-- The plan commands of a router for a partition's tick, entries ascending (R157). -/
def State.routerEvents (s : State) (e : Edge) (r : Fin 128) (q : QuireId) : List Instr :=
  match (s.part q).binding with
  | none => []
  | some b =>
    if b.plans.any (fun x => x.edge == e && x.router == r.val) then
      (List.finRange 256).flatMap (fun (i : Fin 256) =>
        (if (s.planDue q e r.val i.val 0).isSome then [Instr.planDeliver q e r i] else []) ++
        (if (s.planDue q e r.val i.val 1).isSome then [Instr.planCollect q e r i] else []))
    else []

/-- The plan commands of a cycle: edge by edge, the routers of every partition in it ascending (R158, R159). -/
def State.planEvents (s : State) (qs : List QuireId) : List Instr :=
  [Edge.n, .s, .w, .e].flatMap (fun e =>
    (List.finRange 128).flatMap (fun (r : Fin 128) => qs.flatMap (s.routerEvents e r)))

/-- A core's tick begins; its commands of the tick are what falls due and then its word. -/
def State.beginCore (t : Nat) (a : State × List Instr) (n : Nat) : State × List Instr :=
  let c : CoreId := Fin.ofNat 12288 n
  let s := a.1.beginTick c t
  let w := s.issueWord c
  (w.1, a.2 ++ s.tickEvents c t ++ w.2)

/-- A partition's tick is issued core by core. -/
def State.issuePart (s : State) (q : QuireId) : State :=
  let r := (s.partCores q).foldl (State.beginCore (s.part q).tick) (s, [])
  { r.1.updPart q (fun p => { p with issued := true }) with pending := r.1.pending ++ r.2 }

/-- The ticks of a cycle are issued: the plan entries of every edge, then partition by partition (R159). -/
def State.issueAll (s : State) (qs : List QuireId) : State :=
  qs.foldl State.issuePart { s with pending := s.pending ++ s.planEvents qs }

/-- The partitions whose tick has begun and whose words are still to be issued. -/
def State.toIssue (s : State) : List QuireId :=
  (List.finRange 96).filter (fun q => (s.part q).inTick && !(s.part q).issued && (s.part q).run == .running)

/-- An idle step (log 1, log 2). -/
def State.idle (s : State) : State :=
  if s.toIssue.isEmpty then s.cycle else s.issueAll s.toIssue

end Sys2Proof.Machine
end

