-- ==== Sys2Proof/Safety.lean ====
section
/-! DEFINITION. What counts as a safe step and a safe state, and the words in which statements say what a command
leaves alone. -/

namespace Sys2Proof.Machine

/-- A command completes in a state when its outcome is a next state. -/
def Completes (i : Instr) (s : State) : Prop := ∃ t, exec i s = .next t

/-- A step answers a next state. -/
def StepsOn (s : State) : Prop := ∃ t, step s = .next t

/-- The pieces of the state: registers together with what their unit's events did in the present cycle, and the interrupt messages
sent together with those held. -/
inductive Piece where
  | clk | regs | readData | readBytes | mem | carry | sramErr | dramErr | hostA | hostB | flash | fuse | boot
  | cores | lanes | parts | chans | edge | hall | rings | descs | sems | ent | flt | mgt | pwr | msix | msixTable | pending
deriving DecidableEq, Repr

/-- A piece holds the same in two states. -/
def Piece.same (p : Piece) (s t : State) : Prop :=
  match p with
  | .clk => t.clk = s.clk
  | .regs => t.regs = s.regs ∧ t.now = s.now
  | .readData => t.readData = s.readData
  | .readBytes => t.readBytes = s.readBytes
  | .mem => t.mem = s.mem
  | .carry => t.carry = s.carry
  | .sramErr => t.sramErr = s.sramErr
  | .dramErr => t.dramErr = s.dramErr
  | .hostA => t.hostA = s.hostA
  | .hostB => t.hostB = s.hostB
  | .flash => t.flash = s.flash
  | .fuse => t.fuse = s.fuse
  | .boot => t.boot = s.boot
  | .cores => t.cores = s.cores
  | .lanes => t.lanes = s.lanes
  | .parts => t.parts = s.parts
  | .chans => t.chans = s.chans
  | .edge => t.edge = s.edge
  | .hall => t.hall = s.hall
  | .rings => t.rings = s.rings
  | .descs => t.descs = s.descs
  | .sems => t.sems = s.sems
  | .ent => t.ent = s.ent
  | .flt => t.flt = s.flt
  | .mgt => t.mgt = s.mgt
  | .pwr => t.pwr = s.pwr
  | .msix => t.msix = s.msix ∧ t.msixHeld = s.msixHeld
  | .msixTable => t.msixTable = s.msixTable
  | .pending => t.pending = s.pending

/-- Every piece but those of a list is the same in the second state as in the first. -/
def OnlyTouches (ps : List Piece) (s t : State) : Prop := ∀ p : Piece, p ∉ ps → p.same s t

/-- One byte of the local memory. -/
def State.byteAt (s : State) (a : Nat) : Byte := Table.look zeroByte s.mem a

/-- Every byte of local memory outside a range reads as before. -/
def KeepsBytes (a n : Nat) (s t : State) : Prop := ∀ k, (k < a ∨ a + n ≤ k) → t.byteAt k = s.byteAt k

/-- Every register unit but those of a list holds what it held. -/
def KeepsRegs (offs : List Nat) (s t : State) : Prop := ∀ o, o ∉ offs → t.reg o = s.reg o

/-- The registers that a report can count in. -/
def faultRegs : List Nat := [Reg.fltStat]

/-- The registers that an access to LPDDR6 can count in: each channel's error counts, and those of reports. -/
def dramRegs : List Nat := Reg.fltStat :: (List.range 48).map Reg.memEccstat

/-- The registers that a completion can count in. -/
def hostRegs : List Nat := [Reg.hstPortstat 0, Reg.hstPortstat 1]

/-- The pieces that a partition reset can touch. -/
def resetPieces : List Piece :=
  [.regs, .mem, .sramErr, .dramErr, .hostB, .cores, .parts, .hall, .rings, .descs, .flt, .mgt]

/-- Every core but those of a list is as before. -/
def KeepsCores (cs : List Nat) (s t : State) : Prop := ∀ n, n ∉ cs → t.core n = s.core n

/-- Every partition controller but those of a list is as before. -/
def KeepsParts (qs : List Nat) (s t : State) : Prop := ∀ q, q ∉ qs → t.part q = s.part q

/-- Every hall connection but those of a list is as before. -/
def KeepsConns (ds : List Nat) (s t : State) : Prop := ∀ d, d ∉ ds → t.conn d = s.conn d

/-- Every partition controller but those of a list is as before, save for what it notes of a write to LPDDR6 (R226, R228). -/
def KeepsPartsSaveNotes (qs : List Nat) (s t : State) : Prop :=
  ∀ q, q ∉ qs → t.part q = { s.part q with colo := (t.part q).colo, job := (t.part q).job }

/-- The state with the first waiting control message of the hall taken. -/
def State.nextMsg (s : State) : State := { s with hall := { s.hall with msgs := s.hall.msgs.drop 1 } }

/-- The state with the first waiting frame of the hall taken. -/
def State.nextFrame (s : State) : State := { s with hall := { s.hall with frames := s.hall.frames.drop 1 } }

/-- The state with the first waiting barrier field of the hall taken. -/
def State.nextField (s : State) : State := { s with hall := { s.hall with bars := s.hall.bars.drop 1 } }

/-- The registers of the GTB comparators. -/
def cmpRegs : List Nat := (List.range 8).flatMap (fun k => [Reg.gtbCmp k, Reg.gtbCmp k + 8])

/-- A descriptor whose watchdog has not expired completes: it leaves the fetched descriptors, and its completion is owed by its
ring, unless its ring was disabled since (R294, R298). -/
def DoneAs (x : Desc) (status detail result : Nat) (s t : State) : Prop :=
  t.descs = s.descs.filter (fun y => y.ref != x.ref) ∧
  (x.orphan = false → (t.ringPair x.ref.port x.ref.ring).owed = (s.ringPair x.ref.port x.ref.ring).owed ++
    [(completionBytes x status detail result s.gtime, (leAt x.bytes 1 1).testBit 0)]) ∧
  (x.orphan = true → (t.ringPair x.ref.port x.ref.ring).owed = (s.ringPair x.ref.port x.ref.ring).owed)

/-- The host memory behind a port. -/
def State.host (s : State) (p : Port) (a n : Nat) : List Byte :=
  match p with
  | .a => Table.span zeroByte s.hostA a n
  | .b => Table.span zeroByte s.hostB a n

/-- A command of the Gatehouse that is served next: it is at the head of the queue, well formed and permitted, it waits for no
flash write, the processor runs, and the command behind it, if any, is one that the Gatehouse serves (R380, R385, R391, R399). -/
structure AtHead (s : State) (op : Nat) (c : MgtCmd) (cs : List MgtCmd) : Prop where
  queue   : s.mgt.queue = c :: cs
  opcode  : c.opcode = op
  served  : s.serves op = true
  ok      : c.ok = true
  awake   : s.pwr.state ≠ .s3
  started : s.boot.inReset = false ∨ s.boot.bootRom = true
  running : s.mgt.halted = false
  free    : s.writeWaits op = false
  allowed : c.src = .ethernet → op ∈ [1, 5, 6, 8, 11] → (leAt ((s.storeEntry 7).getD []) 0 1).testBit 1 = true
  behind  : ∀ y, cs.head? = some y → s.serves y.opcode = true

/-- A command of the Gatehouse ends: a mailbox shows STATUS and RESULT with BUSY clear, and is interrupted when it asked for
it; a datagram is answered (R391, R399). The commands behind it stay. -/
def EndsAs (c : MgtCmd) (cs : List MgtCmd) (status result : Nat) (data : List Byte) (s t : State) : Prop :=
  t.mgt.queue = cs ∧
  (∀ p, c.src.box = some p → t.rf (Reg.mgtStatus p.num) 0 0 = 0 ∧ t.rf (Reg.mgtStatus p.num) 15 8 = status ∧
    t.rf (Reg.mgtStatus p.num) 63 32 = result % 2 ^ 32 ∧
    (c.irq = false → t.msix = s.msix) ∧
    (c.irq = true → s.rf (Reg.hstPortstat p.num) 0 0 = 1 → s.vectorMasked p c.vector = false →
      t.msix = s.msix ++ [(p, c.vector)])) ∧
  (c.src = .ethernet → t.mgt.ethOut = s.mgt.ethOut ++ ethReply c status data)

/-- What a module reset leaves (R324, R327, R437): reset is on and nothing is published; every register stands at its reset value
but FLT_LASTRESET, which holds a message; the array, the units and the Gatehouse's queues are empty; LPDDR6 is kept or lost; a
flash write in progress has ended with its page; the fuses, the host memories, the log's place and the time go on. -/
structure ResetLeaves (keepMem : Bool) (last : U64) (s t : State) : Prop where
  boot    : t.boot.inReset = true ∧ t.boot.published = false ∧ t.boot.start = none ∧ t.boot.bootRom = false
  regs    : ∀ o, t.reg o = if o = Reg.fltLastreset then last else regReset o
  array   : t.cores = [] ∧ t.parts = [] ∧ t.lanes = [] ∧ t.chans = [] ∧ t.carry = [] ∧ t.sramErr = [] ∧ t.edge = {}
  units   : t.rings = [] ∧ t.descs = [] ∧ t.sems = [] ∧ t.flt = {} ∧ t.ent = {} ∧ t.hall = { wire := s.hall.wire }
  queues  : t.mgt.queue = [] ∧ t.mgt.sign = [] ∧ t.mgt.job = none ∧ t.mgt.debugOpen = false
  kept    : keepMem = true → (∀ a, a < dramBytes → t.byteAt a = s.byteAt a) ∧ t.dramErr = s.dramErr
  lost    : keepMem = false → t.mem = [] ∧ t.dramErr = []
  sram    : ∀ a, dramBytes ≤ a → t.byteAt a = 0
  flash   : (s.mgt.job = none → t.flash = s.flash) ∧ (∀ j, s.mgt.job = some j → t.flash = (s.programPage j).flash)
  outside : t.fuse = s.fuse ∧ t.hostA = s.hostA ∧ t.hostB = s.hostB ∧ t.mgt.logSeq = s.mgt.logSeq ∧
    t.clk.wall = s.clk.wall ∧ t.pending = s.pending

/-- The registers in which a command of the Gatehouse ends. -/
def mailRegs : List Nat := [Reg.mgtStatus 0, Reg.mgtStatus 1]

/-- A command completes, changes one core as a function says, and leaves every other core and every other piece of the
state alone. -/
def CoreEffect (i : Instr) (s : State) (c : Nat) (f : CoreState → CoreState) : Prop :=
  ∃ t, exec i s = .next t ∧ t.core c = f (s.core c) ∧ KeepsCores [c] s t ∧ OnlyTouches [.cores] s t

/-- No granule of an access to SRAM carries an error mark (R64). -/
def State.cleanAt (s : State) (a n : Nat) : Prop := ∀ g ∈ granules a n, Table.look (fun _ => 0) s.sramErr g = 0

/-- The messages that a command sends, each a source, a kind and an address, stand in the collector's queue when it has room
for them (R353, R359, R360). -/
def Reports (l : List (Nat × Nat × Nat)) (tag : Nat) (s t : State) : Prop :=
  s.flt.queue.length + l.length ≤ 64 → ∀ x ∈ l, ⟨faultMsg x.1 x.2.1 x.2.2, tag, s.mc⟩ ∈ t.flt.queue

/-- A core stops (R89, R103, R113, R169, R353): what its word had done, in the core as given, is dropped; CORE_FAULT holds VALID,
the kind, the program counter and the tick; the core's partition is marked faulted and its STOP line is raised; and the core's
message, of that kind with an address, is sent when it sends one. -/
def CoreStops (c kind : Nat) (k : CoreState) (note : Option Nat) (s t : State) : Prop :=
  t.core c = { k.dropWord with mode := .faulted } ∧
  t.reg (Reg.coreFault c) =
    BitVec.ofNat 64 (1 + kind * 2 ^ 8 + k.faultPc % 1024 * 2 ^ 16 + s.tickOf c % 2 ^ 32 * 2 ^ 32) ∧
  (∀ q, s.partOfCore c = some q →
    t.part q = { s.part q with faulted := true, stopLine := true } ∧ KeepsParts [q] s t) ∧
  (∀ addr, note = some addr → Reports [(c, kind, addr)] (s.coreTag c) s t) ∧ (note = none → t.flt = s.flt) ∧
  KeepsCores [c] s t ∧ KeepsRegs (Reg.coreFault c :: faultRegs) s t ∧ OnlyTouches [.cores, .regs, .parts, .flt] s t

/-- An edge buffer refuses a router's access (R159): EDGE_PLAN is reported once for the buffer in the cycle, and the partition
that owns the region of the access is marked faulted. -/
def Refuses (b router off : Nat) (s t : State) : Prop :=
  b ∈ t.edge.refused ∧
  (b ∉ s.edge.refused → Reports [(blockSrc 1 b, 0x32, router)] (s.bufferTag b off) s t) ∧
  (b ∈ s.edge.refused → t.flt = s.flt) ∧
  (s.bufferTag b off < 96 → (t.part (s.bufferTag b off)).faulted = true)

/-- A frame can leave by a port: MACsec is off, or its newest transmit association has packet numbers left (R260). -/
def State.emits (s : State) (p : Nat) : Prop :=
  bit (s.reg (Reg.hfbPortcfg p)) 3 = false ∨
    ∃ a as, (s.hport p).tx = a :: as ∧ a.pn < (if a.xpn then 2 ^ 64 else 2 ^ 32)

/-- Every accumulator entry outside a run of one core's entries holds what it held. -/
def KeepsEntries (c first count : Nat) (s t : State) : Prop :=
  ∀ n e, e < 2048 → (n ≠ c ∨ e < first ∨ first + count ≤ e) → t.entry n e = s.entry n e

/-- No granule of any SRAM carries an error mark. -/
def State.sramGood (s : State) : Prop := ∀ g, Table.look (fun _ => 0) s.sramErr g = 0

/-- The core whose word a slot command belongs to; none for a command that is no slot of a word. -/
def slotCore : Instr → Option CoreId
  | .nop c _ _ | .loop c _ | .wait c _ | .bar c _ | .swend c _ | .phase c _ | .flag c _ | .page c _ | .pset c _
  | .leafHalt c _ | .send c _ | .recv c _ | .relay c _ | .recvf c _ | .accOpen c _ | .acc c _ | .lds c _ | .close c _
  | .redLocalExact c _ | .redTreeSend c _ | .redTreeAdd c _ | .redCanon c _ | .drawb c _ | .drawc c _ | .drawr c _
  | .ldo c _ | .put c _ => some c
  | _ => none

/-- A memory in canonical form: addresses strictly rising, and no entry equal to what an unlisted address reads as. -/
def Memory.wf (m : Table Byte) : Bool := Table.wf zeroByte m

/-- Every memory of the module is in canonical form: local memory, the carry bytes of the accumulators, both host
memories, and flash. -/
def State.memOk (s : State) : Bool :=
  Memory.wf s.mem && Memory.wf s.carry && Memory.wf s.hostA && Memory.wf s.hostB && Table.wf blankByte s.flash

end Sys2Proof.Machine
end

