-- ==== Sys2Proof/WellFormed.lean ====
section
/-! DEFINITION. Well-formed commands: the operands a sender of the command can give. -/

namespace Sys2Proof

/-- The number of routers on an edge (R22). -/
def Edge.routers : Edge → Nat
  | .n => 128 | .s => 128 | .w => 96 | .e => 96

/-- Whether a slot command carries the opcode bits of its row (R71, R79, R83, R84). -/
def Instr.slotWf : Instr → Bool
  | .nop c .control w => decodeControl c w == .nop c .control w
  | .nop c .link w => decodeLink c w == .nop c .link w
  | .nop c .field w => decodeField c w == .nop c .field w
  | .nop c .lane w => decodeLane c w == .nop c .lane w
  | .loop c w => decodeControl c w == .loop c w
  | .wait c w => decodeControl c w == .wait c w
  | .bar c w => decodeControl c w == .bar c w
  | .swend c w => decodeControl c w == .swend c w
  | .phase c w => decodeControl c w == .phase c w
  | .flag c w => decodeControl c w == .flag c w
  | .page c w => decodeControl c w == .page c w
  | .pset c w => decodeControl c w == .pset c w
  | .leafHalt c w => decodeControl c w == .leafHalt c w
  | .send c w => decodeLink c w == .send c w
  | .recv c w => decodeLink c w == .recv c w
  | .relay c w => decodeLink c w == .relay c w
  | .recvf c w => decodeLink c w == .recvf c w
  | .accOpen c w => decodeField c w == .accOpen c w
  | .acc c w => decodeField c w == .acc c w
  | .lds c w => decodeField c w == .lds c w
  | .close c w => decodeField c w == .close c w
  | .redLocalExact c w => decodeField c w == .redLocalExact c w
  | .redTreeSend c w => decodeField c w == .redTreeSend c w
  | .redTreeAdd c w => decodeField c w == .redTreeAdd c w
  | .redCanon c w => decodeField c w == .redCanon c w
  | .drawb c w => decodeLane c w == .drawb c w
  | .drawc c w => decodeLane c w == .drawc c w
  | .drawr c w => decodeLane c w == .drawr c w
  | .ldo c w => decodeLane c w == .ldo c w
  | .put c w => decodeLane c w == .put c w
  | _ => true

/-- Well-formed commands. A slot command carries its own opcode; a plan command names a router of its edge; a
descriptor fetch carries one descriptor of 64 B (R297); a write into a core window has bytes and stays in the
window (R25); register accesses carry 1 to 8 bytes (R422); a debug access has at most 64 B (R244); a frame is not
empty (R255). -/
def Instr.wf (i : Instr) : Bool :=
  i.slotWf && match i with
  | .planDeliver _ e r _ => r.val < e.routers
  | .planCollect _ e r _ => r.val < e.routers
  | .descriptorFetch _ _ bs => bs.length == 64
  | .windowWrite _ off bs => 0 < bs.length && off.toNat + bs.length ≤ 0x40000
  | .registerReadClear _ _ size => 0 < size && size ≤ 8
  | .registerWrite _ _ size _ => 0 < size && size ≤ 8
  | .debugAccess _ (.read n) => 0 < n && n ≤ 64
  | .debugAccess _ (.write bs) => 0 < bs.length && bs.length ≤ 64
  | .frameReceive _ f => 0 < f.size
  | .poolOffer _ pool => pool < 4096
  | .segmentReceive _ seg _ => seg < 2 ^ 32
  | _ => true

end Sys2Proof
end

