-- ==== Sys2Proof/Certificates/Slice0/Obligations.lean ====
section
/-! DEFINITION. The statements about the module: what each command does when it completes, what it leaves alone, and the
rules that every step keeps. -/

open Sys2Proof Sys2Proof.Machine

/-! ## The step -/

/-- A step takes the command at the front of the queue and runs it on the rest of the queue. -/
def Obligations.StepRunsFront : Prop :=
  ∀ (c : Instr) (rest : List Instr) (s : State),
    step { s with pending := c :: rest } = exec c { s with pending := rest }

/-! ## The control slot (R67 to R77) -/

/-- The control operations that change their own core alone. A NOP passes its word (R68); LOOP pushes a level and its
body follows (R72); WAIT holds the next word until tick t + 1 + n (R71); PHASE sets the colour phase and Q (R76); FLAG
sets and clears status lines (R77); PSET fixes a pointer's next address (R69); HALT leaves the core LOADED (R75). What
follows a word (R67, R72): the program counter moves to the next word modulo 1,024; at the end word of the innermost
loop it returns to the loop's first word while iterations are left, and the level goes when none is. The model's own
choices it rests on: log 4. -/
def Obligations.ControlSlotEffects : Prop :=
  (∀ (c : CoreId) (w : U32) (s : State), s.issues c = true →
      (∀ slot, w = 0 → CoreEffect (.nop c slot w) s c (fun k => if slot = .control then k.passWord else k)) ∧
      (fld w 0 0 = 0 → (s.core c).live.loops.length < 4 → fld w 10 1 ≠ (s.core c).live.pc →
        (∀ l ∈ (s.core c).live.loops, l.last ≠ (s.core c).live.pc) →
        CoreEffect (.loop c w) s c (fun k => { k with next := { k.next with
          pc := (k.live.pc + 1) % 1024
          loops := ⟨(k.live.pc + 1) % 1024, fld w 10 1, fld w 26 11 + 1⟩ :: k.live.loops } })) ∧
      (0 < fld w 26 0 → CoreEffect (.wait c w) s c (fun k =>
        { k.passWord with nextMode := some .waiting, waitUntil := s.tickOf c + 1 + fld w 26 0 })) ∧
      (fld w 26 0 = 0 → CoreEffect (.wait c w) s c CoreState.passWord) ∧
      (fld w 1 0 = 0 → bit w 2 = false → CoreEffect (.phase c w) s c (fun k =>
        { k.passWord with next := { k.passWord.next with phase := fld w 26 19, q := fld w 18 3 } })) ∧
      (fld w 1 0 = 0 → bit w 2 = true → CoreEffect (.phase c w) s c (fun k =>
        { k.passWord with
            next := { k.passWord.next with phase := fld w 26 19, q := fld w 18 3, ids := s.reloadIds c k.next.ids }
            reload := true })) ∧
      (fld w 18 0 = 0 → CoreEffect (.flag c w) s c (fun k =>
        { k.passWord with next := { k.passWord.next with
            flags := (k.next.flags &&& (15 - fld w 22 19)) ||| fld w 26 23 } })) ∧
      (fld w 8 0 = 0 → CoreEffect (.pset c w) s c (fun k =>
        { k.passWord with pset := some (fld w 26 23, (fld w 22 9 : Int)) })) ∧
      (fld w 26 0 = 0 → CoreEffect (.leafHalt c w) s c (fun k => { k.passWord with nextMode := some .halted }))) ∧
  ((∀ pc, loopStep pc [] = ((pc + 1) % 1024, [])) ∧
    (∀ pc l ls, l.last ≠ pc → loopStep pc (l :: ls) = ((pc + 1) % 1024, l :: ls)) ∧
    (∀ pc l ls, l.last = pc → 1 < l.left → loopStep pc (l :: ls) = (l.first, { l with left := l.left - 1 } :: ls)) ∧
    (∀ pc l ls, l.last = pc → l.left ≤ 1 → loopStep pc (l :: ls) = loopStep pc ls))

/-- BAR and SWEND note their arrival, to be made at the tick's end, and their core waits for the release of its
barrier; SWEND also returns UNIT and CHAIN of the live identity registers to their set-up values (R73, R74). The core
alone changes. At the tick's end the arrival is recorded on the barrier of the core's partition, once, with its tick
and time, beside the arrivals recorded before; the barrier ends a sweep when a SWEND arrives and has hall scope when a
BAR of hall scope arrives; and the core waits (R73, R74). The model's own choices it rests on: log 4 and log 24. -/
def Obligations.BarrierWordsArrive : Prop :=
  (∀ (c : CoreId) (w : U32) (s : State), s.issues c = true →
      (fld w 25 0 = 0 → CoreEffect (.bar c w) s c (fun k =>
        { k.passWord with nextMode := some .barrier, arrival := some (false, bit w 26) })) ∧
      (fld w 26 0 = 0 → CoreEffect (.swend c w) s c (fun k =>
        { k.passWord with
          nextMode := some .barrier, arrival := some (true, false), reload := true
          next := { k.passWord.next with ids := s.reloadIds c k.next.ids } }))) ∧
  (∀ (s : State) (n t q : Nat) (sweepEnd hall : Bool),
      (s.core n).arrival = some (sweepEnd, hall) → s.partOfCore n = some q →
      ((s.core n).nextMode = some .barrier → ((s.endTick n t).core n).mode = .barrier) ∧
      ∃ b, ((s.endTick n t).part q).barrier = some b ∧ b.lastTick = (s.part q).tick ∧ b.lastAt = s.clk.wall ∧
        (sweepEnd = true → b.sweepEnd = true) ∧ (hall = true → b.hall = true) ∧
        ((s.part q).barrier = none →
          b = { sweepEnd := sweepEnd, hall := hall, arrived := [n], lastTick := b.lastTick, lastAt := b.lastAt }) ∧
        (∀ b', (s.part q).barrier = some b' →
          b = { b' with arrived := if n ∈ b'.arrived then b'.arrived else n :: b'.arrived, lastTick := b.lastTick
                        lastAt := b.lastAt, hall := b'.hall || hall, sweepEnd := b'.sweepEnd || sweepEnd }))

/-- PAGE copies the granules a pointer names into the Leaf store, four words a tick: the words of the first tick are
written with the word that issues it, and those of the ticks that follow, at their ticks, with no word; word first + i
takes the two granules from the pointer's 2 i on (R78). Each of these ticks claims the link and sequencer port (R88).
The pointer is advanced once when asked. Its own core alone changes. A granule of the first tick with a double-bit
error stops the core (R64). The model's own choices it rests on: log 4. -/
def Obligations.PageCopiesGranules : Prop :=
  (∀ (c : CoreId) (w : U32) (s : State) (g n : Nat), s.issues c = true → fld w 5 0 = 0 →
      (s.core c).ptrAt (fld w 26 23) = (g : Int) → n = fld w 11 6 + 1 → g + 2 * n ≤ 15360 → (s.core c).linkPort = false →
      (s.cleanAt (tileAt c g) (16 * min 4 n) →
        CoreEffect (.page c w) s c (fun k => ({ k.passWord with
          newPages := (List.range (ceilDiv n 4 - 1)).map (fun i =>
            (⟨s.tickOf c + (i + 1), g + 8 * (i + 1), (fld w 21 12 + 4 * (i + 1)) % 1024, min 4 (n - 4 * (i + 1))⟩ : PageDue))
          linkPort := true
          linkWrites := k.linkWrites ++ pageWrites c ⟨s.tickOf c, g, fld w 21 12 % 1024, min 4 n⟩
            (s.rd (tileAt c g) (16 * min 4 n)) }).advance
          (s.reg (Reg.corePtr c (fld w 26 23))) (fld w 26 23) (bit w 22))) ∧
      (∀ k, s.sramCe (tileAt c g) (16 * min 4 n) = [] → s.sramUe (tileAt c g) (16 * min 4 n) = some k →
        ∃ t, exec (.page c w) s = .next t ∧
          CoreStops c 0x11 { s.core c with linkPort := true } (some (k * 8 - coreBase c)) s t)) ∧
  (∀ (s : State) (n : Nat) (d : PageDue), (s.core n).linkPort = false → s.cleanAt (tileAt n d.tile) (16 * d.count) →
      s.pageTick n d false = s.updCore n (fun k => { k with
        linkPort := true
        eventWrites := k.eventWrites ++ pageWrites n d (s.rd (tileAt n d.tile) (16 * d.count)) })) ∧
  (∀ (n i : Nat) (d : PageDue) (bs : List Byte), i < d.count →
      (pageWrites n d bs)[i]? = some (leafAt n ((d.word + i) % 1024), slice bs (16 * i) 16))

/-! ## Links (R79 to R82) -/

/-- SEND puts a word from tile memory on every link its mask names; RECV writes the landed word, cut or padded to the
operation's length, into tile memory; RELAY forwards the landed word at its arrived length; RECVF does both (R80).
SEND, RECV and RECVF advance their pointer once when asked. RECV, RELAY and RECVF of a word marked bad stop the core
under the kind of its mark, with no message (R82). A word sent to a neighbour of the same partition is due there two
ticks later, six across the Gutter (R81, R149). A word due on a link lands in the landing register of its direction
(R80): unmarked when its check is good on a link that is up; marked LINK_CRC, and reported, when its check fails, the
fourth such word in a row taking the link down under LINK_DOWN; marked LINK_DOWN on a link that is down, or when its
lanes are misaligned, which takes the link down as well (R82, R151). A core under reset absorbs it (R93). Other cores,
and everything but the core and its report, stay. The model's own choices it rests on: log 4, log 8 and log 19. -/
def Obligations.LinkWordsMove : Prop :=
  (∀ (c : CoreId) (w : U32) (s : State) (g : Nat), s.issues c = true → fld w 15 0 = 0 →
      (s.core c).ptrAt (fld w 20 17) = (g : Int) → g + linkLen w / 8 ≤ 15360 → (s.core c).linkPort = false →
      (fld w 26 23 ≠ 0 → s.treeBusy c = false → s.cleanAt (tileAt c g) (8 * (linkLen w / 8)) →
        CoreEffect (.send c w) s c (fun k => ({ k with
          linkPort := true
          outbox := k.outbox ++ (linkDests w).map (fun d =>
            (d, (⟨s.rd (tileAt c g) (8 * (linkLen w / 8)), linkLen w, none⟩ : LinkWord))) }).advance
          (s.reg (Reg.corePtr c (fld w 20 17))) (fld w 20 17) (bit w 16))) ∧
      (∀ x, (s.core c).landed (Dir.ofCode (fld w 28 27)) = x →
        (x.bad = none →
          CoreEffect (.recv c w) s c (fun k => ({ k with
            linkPort := true
            linkWrites := k.linkWrites ++ [(tileAt c g, recvBytes x (linkLen w))] }).advance
            (s.reg (Reg.corePtr c (fld w 20 17))) (fld w 20 17) (bit w 16)) ∧
          (fld w 26 23 ≠ 0 → s.treeBusy c = false →
            CoreEffect (.recvf c w) s c (fun k => ({ k with
              linkPort := true
              linkWrites := k.linkWrites ++ [(tileAt c g, recvBytes x (linkLen w))]
              outbox := k.outbox ++ (linkDests w).map (fun d => (d, relayWord x)) }).advance
              (s.reg (Reg.corePtr c (fld w 20 17))) (fld w 20 17) (bit w 16)))) ∧
        (∀ kind, x.bad = some kind →
          (∃ t, exec (.recv c w) s = .next t ∧ CoreStops c kind.toNat { s.core c with linkPort := true } none s t) ∧
          (fld w 26 23 ≠ 0 → s.treeBusy c = false →
            ∃ t, exec (.recvf c w) s = .next t ∧ CoreStops c kind.toNat { s.core c with linkPort := true } none s t)))) ∧
  (∀ (c : CoreId) (w : U32) (s : State) (x : LinkWord), s.issues c = true → fld w 15 0 = 0 → fld w 26 23 ≠ 0 →
      s.treeBusy c = false → (s.core c).landed (Dir.ofCode (fld w 28 27)) = x →
      (x.bad = none → CoreEffect (.relay c w) s c (fun k => { k with
        outbox := k.outbox ++ (linkDests w).map (fun d => (d, relayWord x)) })) ∧
      (∀ kind, x.bad = some kind →
        ∃ t, exec (.relay c w) s = .next t ∧ CoreStops c kind.toNat (s.core c) none s t)) ∧
  (∀ (s : State) (n m : Nat) (d : Dir) (x : LinkWord), neighbour n d = some m → s.partOfCore m = s.partOfCore n →
      (s.partOfCore n).isSome = true →
      s.sendWord n d x = s.updCore m (fun k => { k with arriving := k.arriving ++
        [(⟨s.tickOf n + (if halfOfCore n = halfOfCore m then 2 else 6), d.opposite, x⟩ : LandDue)] })) ∧
  (∀ (c : CoreId) (d : Dir) (how : Arrival) (s : State) (a : LandDue) (bad : Nat),
      (s.core c).arriving.find? (fun a => a.dir == d && a.at_ ≤ s.tickOf c) = some a →
      bad = Table.look (fun _ => 0) (s.core c).linkBad d.code →
      ∃ t, exec (.linkWordLand c d how) s = .next t ∧ (t.core c).arriving = (s.core c).arriving.erase a ∧
        ((s.core c).absorb = true → t = s.updCore c (fun k => { k with arriving := k.arriving.erase a })) ∧
        ((s.core c).absorb = false → (∀ d', d' ≠ d → (t.core c).landed d' = (s.core c).landed d') ∧
          (how = .good → d ∉ (s.core c).linkDown → (t.core c).landed d = a.word ∧
            (t.core c).linkDown = (s.core c).linkDown ∧ t.flt = s.flt) ∧
          (how = .failed → d ∉ (s.core c).linkDown → (t.core c).landed d = { a.word with bad := some 0x30 } ∧
            (bad < 3 → (t.core c).linkDown = (s.core c).linkDown ∧ Reports [(c, 0x30, d.code)] (s.coreTag c) s t) ∧
            (3 ≤ bad → (t.core c).linkDown = d :: (s.core c).linkDown ∧
              Reports [(c, 0x30, d.code), (c, 0x31, d.code)] (s.coreTag c) s t)) ∧
          (how = .misaligned → d ∉ (s.core c).linkDown → (t.core c).landed d = { a.word with bad := some 0x31 } ∧
            (t.core c).linkDown = d :: (s.core c).linkDown ∧ Reports [(c, 0x31, d.code)] (s.coreTag c) s t) ∧
          (d ∈ (s.core c).linkDown → (t.core c).landed d = { a.word with bad := some 0x31 } ∧
            (t.core c).linkDown = (s.core c).linkDown)) ∧
        KeepsCores [c.val] s t ∧ KeepsRegs faultRegs s t ∧ OnlyTouches [.cores, .flt, .regs] s t)

/-! ## The field slot (R99 to R122) -/

/-- OPEN sets the ownership tags of the rows it names to its group, keeps the mode and binary point, and the group's
entries and carry counters then read as zero, with its range flag clear (R101). Other cores, other entries, and
everything but the core and its accumulator memory stay. An OPEN of rows of which one is owned, or of an open group,
and an ACC of rows that its group does not own, or a CLOSE or RED of a group that is not open or of which an ACC is
too recent, is a conflict: the core stops under ACC_CONFLICT and reports it, and the word has no effect (R102, R103).
The model's own choices it rests on: log 4. -/
def Obligations.OpenTakesRows : Prop :=
  (∀ (c : CoreId) (w : U32) (s : State), s.issues c = true → fld w 1 0 = 0 →
      fld w 24 17 + (fld w 16 9 + 1) ≤ 256 → ¬ (bit w 8 = true ∧ s.det = true) →
      (((s.core c).group (fld w 27 25)).isOpen = false →
        (∀ i, i < fld w 16 9 + 1 → (s.core c).owner (fld w 24 17 + i) = 0) →
        ∃ t, exec (.accOpen c w) s = .next t ∧
          t.core c = ((s.core c).tagRows (fld w 24 17) (fld w 16 9 + 1) (fld w 27 25 + 1)).setGroup (fld w 27 25)
            { isOpen := true, isFloat := bit w 8, point := fld w 7 2, range := false, firstRow := fld w 24 17
              rows := fld w 16 9 + 1, readyAt := 0 } ∧
          (∀ r, (t.core c).owner r =
            if fld w 24 17 ≤ r ∧ r < fld w 24 17 + (fld w 16 9 + 1) then fld w 27 25 + 1 else (s.core c).owner r) ∧
          (∀ e, 8 * fld w 24 17 ≤ e → e < 8 * (fld w 24 17 + (fld w 16 9 + 1)) → t.entry c e = 0) ∧
          KeepsCores [c.val] s t ∧ KeepsBytes (entryAt c (8 * fld w 24 17)) (64 * (fld w 16 9 + 1)) s t ∧
          KeepsEntries c (8 * fld w 24 17) (8 * (fld w 16 9 + 1)) s t ∧ OnlyTouches [.cores, .mem, .carry] s t) ∧
      ((((s.core c).group (fld w 27 25)).isOpen = true ∨
          ∃ i, i < fld w 16 9 + 1 ∧ (s.core c).owner (fld w 24 17 + i) ≠ 0) →
        ∃ t, exec (.accOpen c w) s = .next t ∧ CoreStops c 0x20 (s.core c) (some (s.stopAddr c)) s t)) ∧
  (∀ (i : Instr) (c : CoreId) (s : State), slotCore i = some c → s.issues c = true → s.slotLegal i = true →
      s.slotFree i = false → ∃ t, exec i s = .next t ∧ CoreStops c 0x20 (s.core c) (some (s.stopAddr c)) s t)

/-- ACC adds, for each target of its tile, the target's terms to its entry: in an exact group the terms' fixed-point
integers, modulo 2^72 (R106); in a float group the terms' sum by the pairwise tree, by one Neumaier step (R111). It
holds the engine for its ticks (R98, R99), sets the group's range flag when a term is out of range (R112), and
advances its pointer once when asked. Every byte outside the entries of the tile's targets stays, and so does every
other core. The model's own choices it rests on: log 8 and log 33. -/
def Obligations.AccAddsTerms : Prop :=
  ∀ (c : CoreId) (w : U32) (s : State) (g need : Nat) (x : Group) (scaled : Bool) (bs : List Byte) (ts : Nat → List Term),
    s.issues c = true → fld w 22 20 < 5 → ¬ (fld w 24 23 = 0 ∧ 2 ≤ fld w 19 18) →
    4 * fld w 12 8 + windowBytes (fld w 24 23) (fld w 22 20) (fld w 19 18) ≤ 128 →
    (s.core c).engineFree ≤ s.tickOf c → (s.core c).fePort = false → (s.core c).ptrAt (fld w 17 14) = (g : Int) →
    scaled = bit (s.reg (Reg.corePtr c (fld w 17 14))) 63 → need = (if scaled then 17 else 16) → g + need ≤ 15360 →
    s.cleanAt (tileAt c g) (8 * need) →
    bs = s.rd (tileAt c g) (8 * need) → (s.core c).group (fld w 27 25) = x → x.isOpen = true →
    ¬ (x.isFloat = true ∧ fld w 19 18 < 2) →
    (∀ i, i < (tileU (fld w 22 20) + 7) / 8 →
      fld w 7 0 + i < 256 ∧ (s.core c).owner (fld w 7 0 + i) = fld w 27 25 + 1) →
    ts = (fun u => termsOf (fld w 24 23) (fld w 22 20) (fld w 19 18) (s.pm1 c) (if scaled then bs.drop 8 else bs) (bs.take 8)
      (slice (s.core c).live.stateReg (4 * fld w 12 8) (windowBytes (fld w 24 23) (fld w 22 20) (fld w 19 18))) scaled u) →
    ∃ t, exec (.acc c w) s = .next t ∧
      (∀ u, u < tileU (fld w 22 20) →
        t.entry c (8 * fld w 7 0 + u) =
          if x.isFloat then addFloat (floatSum (fld w 24 23) (fld w 22 20) (ts u)) (s.entry c (8 * fld w 7 0 + u))
          else s.entry c (8 * fld w 7 0 + u) + BitVec.ofInt 72 (((ts u).map (Term.fixed x.point)).sum)) ∧
      t.core c = ({ ({ s.core c with fePort := true }).setGroup (fld w 27 25) { x with
          range := x.range || ((List.range (tileU (fld w 22 20))).map ts).any (fun l =>
            l.any (fun z => if x.isFloat then !z.finite else z.outOfRange x.point))
          readyAt := max x.readyAt (s.tickOf c + 3 + accTicks (fld w 24 23) (fld w 19 18) x.isFloat) } with
        engineFree := s.tickOf c + accTicks (fld w 24 23) (fld w 19 18) x.isFloat }).advance
          (s.reg (Reg.corePtr c (fld w 17 14))) (fld w 17 14) (bit w 13) ∧
      KeepsCores [c.val] s t ∧ KeepsBytes (entryAt c (8 * fld w 7 0)) (8 * tileU (fld w 22 20)) s t ∧
      KeepsEntries c (8 * fld w 7 0) (tileU (fld w 22 20)) s t ∧ OnlyTouches [.cores, .mem, .carry] s t

/-- LDS and LDO read granules of tile memory that fill their register from its start two ticks later, as that tick
begins (R83, R85, R87); PUT hands the first granules of the output register to the field-engine port, and clears the
register and its cursor (R85). Each claims the field-engine port and advances its pointer once when asked; its own
core alone changes. What a port was handed is in memory at the tick's end (R63). The model's own choices it rests on:
log 4. -/
def Obligations.RegisterFillsArriveLater : Prop :=
  (∀ (c : CoreId) (w : U32) (s : State) (g : Nat), s.issues c = true → (s.core c).fePort = false →
    (fld w 18 0 = 0 → (s.core c).ptrAt (fld w 27 24) = (g : Int) → g + (fld w 22 19 + 1) ≤ 15360 →
      s.cleanAt (tileAt c g) (8 * (fld w 22 19 + 1)) →
      CoreEffect (.lds c w) s c (fun k => ({ k with
        fePort := true
        ldsDue := k.ldsDue ++ [(⟨s.tickOf c + 2, s.rd (tileAt c g) (8 * (fld w 22 19 + 1))⟩ : FillDue)] }).advance
        (s.reg (Reg.corePtr c (fld w 27 24))) (fld w 27 24) (bit w 23))) ∧
    (fld w 4 0 = 0 → (s.core c).splitAt ≠ some (s.tickOf c) → (s.core c).ptrAt (fld w 15 12) = (g : Int) →
      g + (fld w 19 16 + 1) ≤ 15360 →
      (s.cleanAt (tileAt c g) (8 * (fld w 19 16 + 1)) → CoreEffect (.ldo c w) s c (fun k => ({ k with
        fePort := true
        newLdo := k.newLdo ++ [(⟨s.tickOf c + 2, s.rd (tileAt c g) (8 * (fld w 19 16 + 1))⟩ : FillDue)] }).advance
        (s.reg (Reg.corePtr c (fld w 15 12))) (fld w 15 12) (bit w 11))) ∧
      CoreEffect (.put c w) s c (fun k => ({ k with
        fePort := true
        feWrites := k.feWrites ++ [(tileAt c g, k.live.outReg.take (8 * (fld w 19 16 + 1)))]
        next := { k.next with outReg := zeros 128, outCursor := 0 } }).advance
        (s.reg (Reg.corePtr c (fld w 15 12))) (fld w 15 12) (bit w 11)))) ∧
  (∀ (s : State) (n t : Nat),
    ((s.beginTick n t).core n).live.stateReg =
      ((s.core n).ldsDue.filter (fun d => d.at_ ≤ t)).foldl (fun r d => overlay r 0 d.bytes) (s.core n).live.stateReg ∧
    ((s.beginTick n t).core n).live.oldReg =
      ((s.core n).ldoDue.filter (fun d => d.at_ ≤ t)).foldl (fun r d => overlay r 0 d.bytes) (s.core n).live.oldReg) ∧
  (∀ (s : State) (n t a : Nat) (bs : List Byte),
    (s.core n).eventWrites ++ (s.core n).feWrites ++ (s.core n).linkWrites = [(a, bs)] → s.cleanAt a bs.length →
    (s.endTick n t).rd a bs.length = bs ∧ KeepsBytes a bs.length s (s.endTick n t))

/-- An exact entry's value is its 72 bits as a two's-complement integer. It fits, at replay level 0, when its carry
counter is 0x00 and entry bit 63 is 0, or its carry counter is 0xFF and entry bit 63 is 1, and otherwise it overflows;
only the value decides (R107). -/
def Obligations.EntryFitsByValue : Prop :=
  ∀ (v : BitVec 72) (p : Nat),
    (entryLevel false v = some 0 ↔
      ((fld v 71 64 = 0x00 ∧ fld v 63 63 = 0) ∨ (fld v 71 64 = 0xFF ∧ fld v 63 63 = 1))) ∧
    (entryLevel false v = some 0 → fieldValue false p v = .fin (decide (v.toInt < 0)) v.toInt.natAbs (-(p : Int)))

/-- A CLOSE issued while an earlier CLOSE of the core still has a batch due at or after the new CLOSE's batch-0 tick
is illegal: the core stops under LEAF_ILLEGAL, and no CLOSE is added (R118, with R89). -/
def Obligations.OverlappingCloseIsIllegal : Prop :=
  ∀ (c : CoreId) (w : U32) (s : State) (d : CloseDue), s.issues c = true → d ∈ (s.core c).closes →
    0 < d.entries.length → s.tickOf c + 4 ≤ d.at_ + 4 + ceilDiv d.entries.length 64 - 1 →
    ∃ t, exec (.close c w) s = .next t ∧ (t.core c).mode = .faulted ∧ (t.core c).closes = (s.core c).closes ∧
      t.rf (Reg.coreFault c) 15 8 = 0x22 ∧ (t.core c).next = (s.core c).live ∧ KeepsCores [c.val] s t

/-- CLOSE fixes the group's entries, its output profile and its identity register for the output stage, notes the
release of the group's rows for the end of the tick of its last batch, and advances its pointer once when asked (R100,
R104, R115). Its own core alone changes. A batch of a CLOSE to the lanes replaces the argument register, zeros behind
its entries' arguments, and sets its cursor to 0; one to tile memory writes its elements through the field-engine port
(R116); the first batch counts its replay level in PRT_ACCSTAT (R114). A CLOSE whose replay level overflows stops the
core under ACC_OVERFLOW, which the core reports, and none of its batches is delivered (R113). The model's own choices
it rests on: log 4, log 36 and log 106. -/
def Obligations.CloseDeliversBatches : Prop :=
  (∀ (c : CoreId) (w : U32) (s : State) (x : Group), s.issues c = true → fld w 8 0 = 0 →
      (∀ d ∈ (s.core c).closes, d.at_ + 4 + ceilDiv d.entries.length 64 ≤ s.tickOf c + 4) →
      (s.core c).group (fld w 27 25) = x → x.isOpen = true → x.readyAt ≤ s.tickOf c →
      (bit w 20 = true → tileOk ((s.core c).ptrAt (fld w 19 16)) (8 * x.rows * elemBytes (fld w 14 13) / 8) = true) →
      CoreEffect (.close c w) s c (fun k => ({ k with
        closes := k.closes ++ [
          ({ at_ := s.tickOf c, group := fld w 27 25, isFloat := x.isFloat, point := x.point, range := x.range
             entries := (List.range (8 * x.rows)).map (fun i => s.entry c (8 * x.firstRow + i))
             scale := BitVec.ofNat 32 (fld (s.reg (Reg.coreOutprof c (fld w 24 23))) 31 0)
             offset := BitVec.ofNat 32 (fld (s.reg (Reg.coreOutprof c (fld w 24 23))) 63 32)
             id := (s.core c).idAt (fld w 11 9), toMem := bit w 20, memType := fld w 14 13, stoch := bit w 12
             table := fld w 22 21, addr := ((s.core c).ptrAt (fld w 19 16)).toNat } : CloseDue)]
        releases := k.releases ++ [(s.tickOf c + 4 + ceilDiv (8 * x.rows) 64 - 1, fld w 27 25)] }).advance
        (s.reg (Reg.corePtr c (fld w 19 16))) (fld w 19 16) (bit w 20 && bit w 15))) ∧
  (∀ (c : CoreId) (s : State) (d : CloseDue) (n : Nat) (rest : List CloseDue),
      (s.core c).closes.find? (fun d => d.at_ + 4 + d.done ≤ s.tickOf c) = some d →
      n = min 64 (d.entries.length - 64 * d.done) →
      rest = (if 64 * (d.done + 1) < d.entries.length then { d with done := d.done + 1 } :: (s.core c).closes.erase d
        else (s.core c).closes.erase d) →
      (∀ l, d.level = some l →
        (d.toMem = false →
          ∃ t, exec (.closeBatch c) s = .next t ∧
            (∀ args, args = (List.range n).map (fun i => b32 (s.argument c d (64 * d.done) (64 * d.done + i))) ++
                List.replicate (64 - n) 0 →
              t.core c = { s.core c with
                closes := rest
                live := { (s.core c).live with args := args, argCursor := 0 }
                next := { (s.core c).next with args := args, argCursor := 0 } }) ∧
            (∀ q, s.partOfCore c = some q →
              t.rf (Reg.prtAccstat q) 23 0 = (if d.done = 0 ∧ l = 1 then
                satAdd (2 ^ 24 - 1) (s.rf (Reg.prtAccstat q) 23 0) 1 else s.rf (Reg.prtAccstat q) 23 0) ∧
              t.rf (Reg.prtAccstat q) 47 24 = (if d.done = 0 ∧ l = 2 then
                satAdd (2 ^ 24 - 1) (s.rf (Reg.prtAccstat q) 47 24) 1 else s.rf (Reg.prtAccstat q) 47 24) ∧
              KeepsRegs [Reg.prtAccstat q] s t) ∧
            KeepsCores [c.val] s t ∧ OnlyTouches [.cores, .regs] s t) ∧
        (d.toMem = true → (s.core c).fePort = false →
          (2 ≤ d.memType → ∀ i, i < n → ∀ e, e = (tablePair (tablePos (s.argument c d (64 * d.done) (64 * d.done + i)))).1 ∨
              e = (tablePair (tablePos (s.argument c d (64 * d.done) (64 * d.done + i)))).2 →
            s.cleanAt (tableAt c d.table e) 2) →
          ∃ t, exec (.closeBatch c) s = .next t ∧
            t.core c = { s.core c with
              closes := rest
              fePort := true
              eventWrites := (s.core c).eventWrites ++ [(tileAt c d.addr + 64 * d.done * elemBytes d.memType,
                (List.range n).flatMap (fun i => s.closeBytes c d (64 * d.done) (64 * d.done + i)))] } ∧
            KeepsCores [c.val] s t ∧ (∀ q, s.partOfCore c = some q → KeepsRegs [Reg.prtAccstat q] s t) ∧
            OnlyTouches [.cores, .regs] s t)) ∧
      (d.level = none → (s.core c).mode ≠ .faulted →
        ∃ t, exec (.closeBatch c) s = .next t ∧ CoreStops c 0x21
          { s.core c with closes := (s.core c).closes.erase d } (some (s.stopAddr c)) s t))

/-- RED forms 1, 2 and 3. A tree send puts four records a word on its link, a word a tick, and holds the link for its
ticks; a tree add reads its records from tile memory, eight a tick, and adds them to the entries; a CANON folds the
entries and writes its record back at tick t + n + 1 (R119, R120, R122). A send and a CANON release their group. RED
form 0 leaves the fold of the first n entries in the group's entry 0 and clears the others: the sum modulo 2^72 in an
exact group, Neumaier steps in ascending order in a float group (R119, R121). The model's own choices it rests on: log
4 and log 33. -/
def Obligations.ReductionsFoldAndSend : Prop :=
  (∀ (c : CoreId) (w : U32) (s : State) (x : Group) (g n : Nat), s.issues c = true → fld w 7 0 = 0 →
      n = fld w 15 8 + 1 →
      (s.core c).group (fld w 27 25) = x → x.isOpen = true → x.readyAt ≤ s.tickOf c → n ≤ 8 * x.rows →
      ((s.core c).treeUntil ≤ s.tickOf c → (s.core c).outbox = [] →
        CoreEffect (.redTreeSend c w) s c (fun k =>
          let ws := treeWords ((List.range n).map (fun i => toRecord x.isFloat (s.entry c (8 * x.firstRow + i))))
          { k with
            outbox := (ws.take 1).map (fun y => (Dir.ofCode (fld w 22 21), y))
            trees := k.trees ++ (ws.drop 1).zipIdx.map (fun e => ⟨s.tickOf c + 1 + e.2, Dir.ofCode (fld w 22 21), e.1⟩)
            treeUntil := s.tickOf c + ceilDiv n 4
            releases := k.releases ++ [(s.tickOf c + ceilDiv n 4 - 1, fld w 27 25)] })) ∧
      ((s.core c).engineFree ≤ s.tickOf c → (s.core c).fePort = false → (s.core c).ptrAt (fld w 20 17) = (g : Int) →
        g + 2 * n ≤ 15360 → s.cleanAt (tileAt c g) (16 * min 8 n) →
        (∃ t, exec (.redTreeAdd c w) s = .next t ∧
          t.core c = ({ ({ s.core c with fePort := true }).setGroup (fld w 27 25) { x with
              readyAt := max x.readyAt (s.tickOf c + 3 + ceilDiv n 8) } with
            engineFree := s.tickOf c + ceilDiv n 8
            adds := (s.core c).adds ++ (List.range (ceilDiv n 8 - 1)).map (fun i =>
              (⟨s.tickOf c + (i + 1), fld w 27 25, g + 16 * (i + 1), 8 * (i + 1), min 8 (n - 8 * (i + 1))⟩ : AddDue)) }).advance
            (s.reg (Reg.corePtr c (fld w 20 17))) (fld w 20 17) (bit w 16) ∧
          (∀ i, i < min 8 n → t.entry c (8 * x.firstRow + i) =
            asContribution x.isFloat (ofRecord (s.rd (tileAt c (g + 2 * i)) 16)) (s.entry c (8 * x.firstRow + i))) ∧
          KeepsCores [c.val] s t ∧ KeepsBytes (entryAt c (8 * x.firstRow)) (8 * min 8 n) s t ∧
          OnlyTouches [.cores, .mem, .carry] s t)) ∧
      ((s.core c).engineFree ≤ s.tickOf c → (s.core c).fePort = false → (s.core c).ptrAt (fld w 20 17) = (g : Int) →
        g + 2 ≤ 15360 → s.cleanAt (tileAt c g) 16 →
        CoreEffect (.redCanon c w) s c (fun k =>
          let r := (List.range n).foldl (fun a i =>
              neumaier fp64 a.1 a.2 (entryF64 x.isFloat x.point (s.entry c (8 * x.firstRow + i))))
            (decodeF fp64 (s.rdN (tileAt c g) 8), decodeF fp64 (s.rdN (tileAt c g + 8) 8))
          ({ k with
            fePort := true
            engineFree := s.tickOf c + n
            canon := k.canon ++
              [(⟨s.tickOf c + n + 1, g, leBytes 8 (encodeF fp64 r.1) ++ leBytes 8 (encodeF fp64 r.2)⟩ : CanonDue)]
            releases := k.releases ++ [(s.tickOf c + n - 1, fld w 27 25)] }).advance
            (s.reg (Reg.corePtr c (fld w 20 17))) (fld w 20 17) (bit w 16)))) ∧
  (∀ (s : State) (n : Nat) (d : CanonDue), (s.core n).fePort = false →
      s.canonTick n d = s.updCore n (fun k => { k with
        fePort := true, eventWrites := k.eventWrites ++ [(tileAt n d.tile, d.rec_)] })) ∧
  (∀ (s : State) (n : Nat) (d : AddDue), (s.core n).fePort = false → s.cleanAt (tileAt n d.tile) (16 * d.count) →
      ∀ i, i < d.count → (s.addTick n d).entry n (8 * ((s.core n).group d.group).firstRow + d.entry + i) =
        asContribution ((s.core n).group d.group).isFloat (ofRecord (s.rd (tileAt n (d.tile + 2 * i)) 16))
          (s.entry n (8 * ((s.core n).group d.group).firstRow + d.entry + i))) ∧
  (∀ (c : CoreId) (w : U32) (s : State) (x : Group), s.issues c = true → fld w 7 0 = 0 →
      (s.core c).engineFree ≤ s.tickOf c → (s.core c).group (fld w 27 25) = x → x.isOpen = true →
      x.readyAt ≤ s.tickOf c → fld w 15 8 + 1 ≤ 8 * x.rows →
      ∃ t, exec (.redLocalExact c w) s = .next t ∧
        (x.isFloat = false → t.entry c (8 * x.firstRow) =
          ((List.range (fld w 15 8 + 1)).map (fun i => s.entry c (8 * x.firstRow + i))).sum) ∧
        (x.isFloat = true → t.entry c (8 * x.firstRow) =
          (List.range (fld w 15 8)).foldl (fun a i => addFloat (floatValue (s.entry c (8 * x.firstRow + 1 + i))) a)
            (s.entry c (8 * x.firstRow))) ∧
        (∀ i, 0 < i → i < fld w 15 8 + 1 → t.entry c (8 * x.firstRow + i) = 0) ∧
        t.core c = { (s.core c).setGroup (fld w 27 25) { x with
            readyAt := max x.readyAt (s.tickOf c + 3 + ceilDiv (fld w 15 8 + 1) 8) } with
          engineFree := s.tickOf c + ceilDiv (fld w 15 8 + 1) 8 } ∧
        KeepsCores [c.val] s t ∧ KeepsBytes (entryAt c (8 * x.firstRow)) (8 * (fld w 15 8 + 1)) s t ∧
        OnlyTouches [.cores, .mem, .carry] s t)

/-! ## The lane slot (R84 to R86, R126 to R137) -/

/-- A draw fixes its results for tick t + 2 at the output cursor (R85); a split draw fixes those of its lanes 32 to 63
for t + 3 and takes the next tick too (R86). It moves the output cursor by the bytes of its results and the argument
cursor by the active lanes, and advances its identity register as asked, unless a reload by the same word stands
before it (R70, R128, R129). Draw results due enter the lane output register at their places (R85). The model's own
choices it rests on: log 4 and log 32. -/
def Obligations.DrawResultsEnter : Prop :=
  (∀ (s : State) (d : DrawCtx) (w : U32) (size units : Nat) (results : List (List Bool)), results ≠ [] →
      (s.splits d.n = false →
        ((s.issueDraw d w size units results).core d.n).newDraws = (s.core d.n).newDraws ++
          [⟨s.tickOf d.n + 2, 8 * (s.core d.n).live.outCursor, results.flatten⟩] ∧
        ((s.issueDraw d w size units results).core d.n).newSplit = none) ∧
      (s.splits d.n = true → 0 < 32 / d.width → 32 / d.width < results.length →
        ((s.issueDraw d w size units results).core d.n).newDraws = (s.core d.n).newDraws ++
          [⟨s.tickOf d.n + 2, 8 * (s.core d.n).live.outCursor, (results.take (32 / d.width)).flatten⟩,
           ⟨s.tickOf d.n + 3, 8 * (s.core d.n).live.outCursor + size * (32 / d.width),
             (results.drop (32 / d.width)).flatten⟩] ∧
        ((s.issueDraw d w size units results).core d.n).newSplit = some (s.tickOf d.n + 1)) ∧
      ((s.issueDraw d w size units results).core d.n).next = (let k := s.core d.n
        { k.next with
          outCursor := k.next.outCursor + ceilDiv (size * results.length) 8
          argCursor := (k.next.argCursor + d.lanes) % 64
          ids := if k.reload then k.next.ids else
            Table.upd (fun _ => ({} : IdReg)) k.next.ids (fld w 10 8) (fun r =>
              if fld w 7 6 = 1 then { r with unit := r.unit + BitVec.ofNat 40 units }
              else if fld w 7 6 = 2 then { r with chain := r.chain + 1 } else r) }) ∧
      ((s.issueDraw d w size units results).core d.n).live = (s.core d.n).live ∧
      KeepsCores [d.n] s (s.issueDraw d w size units results) ∧ OnlyTouches [.cores] s (s.issueDraw d w size units results)) ∧
  (∀ (c : CoreId) (s : State) (d : DrawDue), (s.core c).draws.find? (fun d => d.at_ ≤ s.tickOf c) = some d →
      CoreEffect (.drawResultEnter c) s c (fun k => { k with
        draws := k.draws.erase d
        live := { k.live with outReg := overlayBits k.live.outReg d.bitPos d.bits }
        next := { k.next with outReg := overlayBits k.next.outReg d.bitPos d.bits } }))

/-- DRAWB decides each unit by its field and the transfer value of its argument, a damped unit that keeps its old
state excepted (R131, R136); DRAWR draws each unit's real value (R137); DRAWC, when one word serves its units, takes
each unit's state of best score (R132), and as a chunk it carries the best score so far on to the next chunk, the last
chunk giving the unit's state (R134). Their results enter as a draw's do. The model's own choices it rests on: log 4,
log 10, log 34, log 36, log 104 and log 105. -/
def Obligations.DrawsDecideUnits : Prop :=
  ∀ (c : CoreId) (w : U32) (s : State), s.issues c = true → s.sramGood → fld w 4 0 = 0 →
    (s.core c).splitAt ≠ some (s.tickOf c) → fld w 7 6 ≠ 3 →
    (∀ d, d = s.drawCtx c w (if bit w 5 then 2 else 1) →
      (s.core c).live.outCursor + d.lanes / d.width / 8 ≤ 128 →
      exec (.drawb c w) s = .next (s.issueDraw d w 1 (d.lanes / d.width) ((List.range (d.lanes / d.width)).map (fun u =>
        if s.keepsOld d (bit w 5) u then bitSlice (s.core c).live.oldReg (8 * (s.core c).live.outCursor + u) 1
        else [below (s.laneField d (d.lane u 0)) (s.transfer c d.table (s.laneArg d (d.lane u 0)))])))) ∧
    (∀ d size, d = s.drawCtx c w (if bit w 5 then 3 else 2) → size = (if bit w 16 then 32 else 16) →
      (s.core c).live.outCursor + d.lanes / d.width * size / 8 ≤ 128 →
      exec (.drawr c w) s = .next (s.issueDraw d w size (d.lanes / d.width) ((List.range (d.lanes / d.width)).map (fun u =>
        if s.keepsOld d (bit w 5) u then bitSlice (s.core c).live.oldReg (8 * (s.core c).live.outCursor + size * u) size
        else s.realResult d (bit w 16) u)))) ∧
    (∀ d, d = s.drawCtx c w (if bit w 5 then fld w 23 16 + 2 else fld w 23 16 + 1) → fld w 23 16 ≠ 0 →
      s.chunked c w = false → (s.core c).live.outCursor + s.drawcBytes c w ≤ 128 →
      exec (.drawc c w) s = .next (s.issueDraw d w 8 (d.lanes / d.width) ((List.range (d.lanes / d.width)).map (fun u =>
        if s.keepsOld d (bit w 5) u then bitSlice (s.core c).live.oldReg (8 * (s.core c).live.outCursor + 8 * u) 8
        else match bestState none ((List.range (fld w 23 16 + 1)).map (fun i => (s.score d (d.lane u i), i))) with
          | some b => bitsOf 8 b.2
          | none => bitsOf 8 0)))) ∧
    (∀ cat k damp d best, cat = (s.core c).live.cat → k = (if cat.chunk = 0 then fld w 23 16 + 1 else cat.k) →
      damp = (if cat.chunk = 0 then bit w 5 else cat.damp) →
      d = { s.drawCtx c w (if damp then k + 1 else k) with chunk := cat.chunk } →
      best = (bestState (if cat.chunk = 0 then none else some (f32 cat.best, cat.state))
        ((List.range d.lanes).filterMap (fun j => if cat.chunk * d.lanes + j < k
          then some (s.score d j, cat.chunk * d.lanes + j) else none))).getD (f32 cat.best, cat.state) →
      fld w 23 16 ≠ 0 → s.chunked c w = true → (s.splits c = true → 32 < d.width) →
      (s.core c).live.outCursor + s.drawcBytes c w ≤ 128 →
      ∃ t, exec (.drawc c w) s = .next t ∧
        ((cat.chunk + 1) * d.lanes < d.slots →
          (t.core c).next.cat = { best := b32 best.1, state := best.2, k := k, damp := damp, chunk := cat.chunk + 1 } ∧
          (t.core c).newDraws = (s.core c).newDraws ∧ (t.core c).next.outCursor = (s.core c).next.outCursor) ∧
        (d.slots ≤ (cat.chunk + 1) * d.lanes →
          (t.core c).next.cat = { best := b32 best.1, state := best.2, k := k, damp := damp, chunk := 0 } ∧
          (t.core c).newDraws = (s.core c).newDraws ++ [(⟨s.tickOf c + (if s.splits c then 3 else 2),
            8 * (s.core c).live.outCursor, if s.keepsOld d damp 0
              then bitSlice (s.core c).live.oldReg (8 * (s.core c).live.outCursor) 8 else bitsOf 8 best.2⟩ : DrawDue)] ∧
          (t.core c).next.outCursor = (s.core c).next.outCursor + 1) ∧
        (t.core c).next.argCursor = ((s.core c).next.argCursor + d.lanes) % 64 ∧ (t.core c).live = (s.core c).live ∧
        KeepsCores [c.val] s t ∧ OnlyTouches [.cores] s t)

/-! ## Cores that do not issue, and illegal words (R67, R89) -/

/-- An illegal word stops its core: no operation of the word takes effect, CORE_FAULT records LEAF_ILLEGAL with the
program counter and the tick, the partition is marked faulted and its STOP line is raised, and a message of kind
LEAF_ILLEGAL from the core joins the collector's queue when it has room (R89, R169, R353). It is illegal when a slot
breaks a rule of its own, as an operation that no opcode names does; a word is checked as it issues, so that none of
its slots is carried out when one is illegal, or when one meets a conflict (R89, R103). A core that does not issue
carries out no slot of a word: every slot command leaves the state as it is. The model's own choices it rests on: log
3, log 4 and log 19. -/
def Obligations.IllegalWordStopsCore : Prop :=
  (∀ (c : CoreId) (slot : Slot) (w : U32) (s : State) (q : Nat), s.issues c = true → w ≠ 0 →
      s.partOfCore c = some q → s.flt.queue.length < 64 →
      ∃ t, exec (.nop c slot w) s = .next t ∧
        (t.core c).mode = .faulted ∧ (t.core c).next = (s.core c).live ∧ (t.core c).live = (s.core c).live ∧
        t.reg (Reg.coreFault c) = BitVec.ofNat 64 (1 + 0x22 * 2 ^ 8 + (s.core c).live.pc % 1024 * 2 ^ 16 +
          s.tickOf c % 2 ^ 32 * 2 ^ 32) ∧
        (t.part q).faulted = true ∧ (t.part q).stopLine = true ∧
        (∃ m ∈ t.flt.queue, m.msg = faultMsg c 0x22 ((s.core c).live.pc % 1024 + s.tickOf c % 2 ^ 30 * 1024)) ∧
        KeepsCores [c.val] s t ∧ KeepsParts [q] s t ∧ KeepsRegs [Reg.coreFault c] s t ∧
        OnlyTouches [.cores, .regs, .parts, .flt] s t) ∧
  (∀ (i : Instr) (c : CoreId) (s : State), slotCore i = some c → s.issues c = true → s.slotLegal i = false →
      ∃ t, exec i s = .next t ∧ CoreStops c 0x22 (s.core c) (some (s.stopAddr c)) s t) ∧
  (∀ (c : CoreId) (s : State) (slots : List Instr), s.issues c = true → s.batchDue c = none →
      s.cleanAt (leafAt c (s.core c).live.pc) 16 →
      slots = decodeWord c (BitVec.ofNat 128 (leNat (s.rd (leafAt c (s.core c).live.pc) 16))) →
      (s.wordIllegal c slots = true →
        (s.issueWord c).2 = [] ∧ CoreStops c 0x22 (s.core c) (some (s.stopAddr c)) s (s.issueWord c).1) ∧
      (s.wordIllegal c slots = false → slots.all s.slotFree = false →
        (s.issueWord c).2 = [] ∧ CoreStops c 0x20 (s.core c) (some (s.stopAddr c)) s (s.issueWord c).1) ∧
      (s.wordIllegal c slots = false → slots.all s.slotFree = true → s.issueWord c = (s, slots))) ∧
  (∀ (i : Instr) (c : CoreId) (s : State), slotCore i = some c → s.issues c = false → exec i s = .next s)


/-! ## The partition controllers and the edges (R59, R73, R74, R157 to R169, R184 to R206, R237, R238) -/

/-- A barrier whose cores have all arrived is released at its tick, unless a reset of the partition falls in the same
cycle (R73, R74, R191, R326). The cores that wait go on, and the epoch is the release tick. At a sweep end the sweep
number rises, every core starts at CORE_ENTRY.SWEEP with its loop stack, phase, Q and categorical carry cleared, and
no table write waits any more. A run that ends at the release stops there: the partition and its cores stand LOADED,
the point is the sweep end or the barrier, no HALT waits, and the run is over, or waits for what it still owes (R206,
R229). The model's own choices it rests on: log 101. -/
def Obligations.FullBarrierReleases : Prop :=
  ∀ (q : QuireId) (s : State) (b : BarrierWait) (at_ : Nat),
    (s.part q).barrier = some b → b.releaseTick (s.part q) = some at_ → at_ ≤ (s.part q).tick →
    (s.part q).run = .running → (s.part q).stopped = false → s.allArrived q b = true →
    (b.sweepEnd = true → b.decided = true) → s.resetWaits q = false →
    ((∀ j, (s.part q).job = some j → j.endsAt b.sweepEnd = false) →
      ∃ t, exec (.barrierRelease q) s = .next t ∧
        (t.part q).barrier = none ∧ (t.part q).epoch = (s.part q).tick ∧ (t.part q).run = .running ∧
        (t.part q).tick = (s.part q).tick ∧ (t.part q).job = (s.part q).job ∧
        (t.part q).sweep = (if b.sweepEnd then (s.part q).sweep + 1 else (s.part q).sweep) ∧
        (∀ n ∈ s.partCores q, (t.core n).mode = (if (s.core n).mode = .barrier then .running else (s.core n).mode)) ∧
        (b.sweepEnd = true → (t.part q).tables = [] ∧
          (∀ n ∈ s.partCores q, (t.core n).live = (s.core n).live.sweepStart (s.rf (Reg.coreEntry n) 25 16)) ∧
          OnlyTouches [.regs, .mem, .sramErr, .cores, .parts, .rings, .descs, .flt, .pwr] s t) ∧
        (b.sweepEnd = false → (∀ n, (t.core n).live = (s.core n).live) ∧ OnlyTouches [.cores, .parts, .pwr] s t) ∧
        KeepsCores (s.partCores q) s t ∧ KeepsParts [q.val] s t) ∧
    (∀ j, (s.part q).job = some j → j.endsAt b.sweepEnd = true →
      ∃ t, exec (.barrierRelease q) s = .next t ∧ (t.part q).run = .loaded ∧ (t.part q).barrier = none ∧
        (t.part q).point = (if b.sweepEnd then 0 else 1) ∧ (t.part q).tables = [] ∧ (t.part q).halts = [] ∧
        (t.part q).sweep = (if b.sweepEnd then (s.part q).sweep + 1 else (s.part q).sweep) ∧
        (∀ n ∈ s.partCores q, (s.core n).mode = .barrier → (t.core n).mode = .loaded) ∧
        (t.part q).job = (if (s.part q).owedOffers.isEmpty && j.colophon.isNone && !j.sign then none
          else some { j with ended := some (j.ended.getD stDone) }) ∧
        KeepsCores (s.partCores q) s t ∧ KeepsParts [q.val] s t ∧
        OnlyTouches [.regs, .mem, .sramErr, .cores, .parts, .rings, .descs, .flt, .pwr] s t)

/-- At a sweep-end barrier, 20 ticks after the last arrival, the controller takes the sweep and decides (R190, R191).
At a decision sweep the best energy, the stuck counter and the noise index follow the energies of the monitored
chains, an improvement being counted (R196, R197), and every ladder's rung map takes the swaps of its pairs (R198 to
R201); at another sweep these stay. β of the next sweep is written into the live identity registers of every core
(R194, R195). The table writes that wait go on waiting. An uncorrectable granule of the mailbox freezes the partition
before any decision, and the boundary stays undecided (R444). The model's own choices it rests on: log 101, log 118
and log 140. -/
def Obligations.SweepBoundaryDecides : Prop :=
  ∀ (q : QuireId) (s : State) (b : BarrierWait) (c : Ctl) (bd : Binding),
    (s.part q).barrier = some b → b.sweepEnd = true → b.decided = false → (s.part q).run = .running →
    (s.part q).stopped = false → s.allArrived q b = true → b.lastTick + 20 ≤ (s.part q).tick →
    (s.part q).tables? = some c → (s.part q).binding = some bd →
    (s.sramGood → ∀ energy mon, energy = (fun i => s.rd (bufferBase (bd.mailboxAt c i).1 + (bd.mailboxAt c i).2) 16) →
      mon = (List.range c.chains).filter (fun i => (c.chain i).monitor) →
      ∃ t, exec (.sweepBoundary q) s = .next t ∧
        (t.part q).barrier = some { b with decided := true } ∧ (t.part q).tables = (s.part q).tables ∧
        (∀ j, (s.part q).job = some j → ∃ j', (t.part q).job = some j' ∧ j'.taken = j.taken + 1) ∧
        (t.part q).sweep = (s.part q).sweep ∧ (t.part q).tick = (s.part q).tick ∧
        (c.event (s.part q).sweep = none → (t.part q).ctl = (s.part q).ctl ∧
          t.rf (Reg.prtAnneal q) 63 32 = s.rf (Reg.prtAnneal q) 63 32) ∧
        (∀ m r, c.event (s.part q).sweep = some m →
          r = noiseStep c (s.part q).ctl (lowestEnergy c.point (mon.map energy)) →
          (mon ≠ [] → (t.part q).ctl.best = r.1.best ∧ (t.part q).ctl.stuck = r.1.stuck ∧ (t.part q).ctl.k = r.1.k ∧
            t.rf (Reg.prtAnneal q) 63 32 = (if r.2 then satAdd (2 ^ 32 - 1) (s.rf (Reg.prtAnneal q) 63 32) 1
              else s.rf (Reg.prtAnneal q) 63 32)) ∧
          (mon = [] → (t.part q).ctl.best = (s.part q).ctl.best ∧ (t.part q).ctl.stuck = (s.part q).ctl.stuck ∧
            (t.part q).ctl.k = (s.part q).ctl.k) ∧
          (∀ j map, j < c.ladders → map = (s.part q).ctl.rungs.getD j [] →
            (t.part q).ctl.rungs.getD j [] = swapRungs map ((proposed (c.rungs j) m).filter (fun r =>
              swaps c (((s.part q).seed <|> (s.part q).ctl.key).getD (zeros 32)) (s.part q).sweep j r
                (energy (map.getD r 0)) (energy (map.getD (r + 1) 0)))))) ∧
        (∀ n ∈ s.partCores q, (t.core n).live.ids =
          writeBetas (betasFor c (t.part q).ctl.rungs ((s.part q).sweep + 1)) (fun k => (s.setupId n k).beta)
            (s.core n).live.ids) ∧
        KeepsCores (s.partCores q) s t ∧ (c.exlog = false → KeepsParts [q.val] s t ∧ t.mem = s.mem) ∧
        OnlyTouches [.regs, .mem, .dramErr, .cores, .parts, .flt] s t) ∧
    (∀ i, i ∈ c.readChains → (s.sramUe (bufferBase (bd.mailboxAt c i).1 + (bd.mailboxAt c i).2) 16).isSome = true →
      ∃ t, exec (.sweepBoundary q) s = .next t ∧ (t.part q).barrier = some b ∧ (t.part q).faulted = true ∧
        (t.part q).stopped = true ∧ (t.part q).freezeAt.isSome = true ∧ (t.part q).ctl = (s.part q).ctl ∧
        KeepsParts [q.val] s t ∧ KeepsRegs faultRegs s t ∧ OnlyTouches [.regs, .parts, .flt] s t)

/-- A staged state with its energy is offered to its pool (R59, R204, R205): the offer leaves the queue and is
counted, in PRT_POOLSTAT and in the pool's header. When the pool takes it, it is counted too, and the entries stand in
their order in LPDDR6 with their number and the new staging slot in the header; otherwise only the header's count of
offers changes. An uncorrectable access among those that the offer reads stops the ring of the pool's states; the
offer stays, and LPDDR6 too (R234). The model's own choices it rests on: log 3 and log 117. -/
def Obligations.PoolOffersInsert : Prop :=
  ∀ (q : QuireId) (pool : Nat) (s : State) (b : Binding) (o : PoolOffer) (e : PoolEntry) (k ch : Nat)
    (energy : List Byte) (point : Nat),
    (s.part q).binding = some b →
    (s.part q).offers.find? (fun o => o.pool == pool && o.staged && o.energy.isSome) = some o →
    o.energy = some (energy, point) → b.poolList.find? (fun x => x.1 == pool) = some (k, e, ch) →
    ((s.part q).ring (b.poolRing e)).stopped = false →
    (s.dramErr = [] → ∃ t, exec (.poolOffer q pool) s = .next t ∧
      (t.part q).offers = (s.part q).offers.erase o ∧
      t.rdN (e.base + 0x10) 4 = (s.rdN (e.base + 0x10) 4 + 1) % 2 ^ 32 ∧
      t.rf (Reg.prtPoolstat q) 23 0 = satAdd (2 ^ 24 - 1) (s.rf (Reg.prtPoolstat q) 23 0) 1 ∧
      (s.offerOutcome e o.sweep energy point = none →
        t.rf (Reg.prtPoolstat q) 47 24 = s.rf (Reg.prtPoolstat q) 47 24 ∧ KeepsBytes (e.base + 0x10) 4 s t) ∧
      (∀ l st, s.offerOutcome e o.sweep energy point = some (l, st) →
        t.rf (Reg.prtPoolstat q) 47 24 = satAdd (2 ^ 24 - 1) (s.rf (Reg.prtPoolstat q) 47 24) 1 ∧
        (∀ i x, l[i]? = some x → t.rd (e.entryAt i) 64 = x.bytes) ∧
        t.rdN (e.base + 9) 1 = l.length % 256 ∧ t.rdN (e.base + 10) 1 = st % 256 ∧
        t.rdN (e.base + 0x14) 4 = (s.rdN (e.base + 0x14) 4 + 1) % 2 ^ 32 ∧
        KeepsBytes (e.base + 9) (55 + 64 * l.length) s t) ∧
      KeepsRegs (Reg.prtPoolstat q :: hostRegs) s t ∧ OnlyTouches [.regs, .mem, .parts, .rings, .descs] s t) ∧
    ((∃ x ∈ s.offerReads e, (s.dramUe x.1 x.2).isSome = true) → ∃ t, exec (.poolOffer q pool) s = .next t ∧
      ((t.part q).ring (b.poolRing e)).stopped = true ∧ (t.part q).offers = (s.part q).offers ∧
      KeepsParts [q.val] s t ∧ KeepsRegs dramRegs s t ∧ OnlyTouches [.regs, .parts, .flt] s t)

/-- A plan entry due at the tick transfers its word (R157). A deliver entry's word lands at the attached core two
ticks later, and uses up its bytes of the ring that holds them (R443). A read that the buffer already serves in the
cycle is merged, and its word goes to this router too (R158). A word that its ring does not hold lands marked
EDGE_PLAN, and a word with a double-bit error marked SRAM_UE (R129, R443); a further distinct read after sixteen in
the cycle lands marked EDGE_PLAN (R159). A collect entry's word is what the core sent two ticks ago, zeros when it
sent none; it takes its space of the ring at once, and is in the buffer, and counts as collected, at the cycle's end.
A seventeenth write, or one that its ring has no room for, is discarded. A refused access is reported once for the
buffer in the cycle, and marks the owner of its region faulted (R159). The model's own choices it rests on: log 37 and
log 110. -/
def Obligations.PlanWordsTransfer : Prop :=
  (∀ (q : QuireId) (ed : Edge) (router : Fin 128) (entry : Fin 256) (s : State) (en : PlanEntry) (k off n : Nat),
    off = en.byteAt k → n = en.bytes →
    (s.planDue q ed router entry 0 = some (en, k) → ∀ due, due = (fun x t => t.core (routerCore ed router) =
        { s.core (routerCore ed router) with
          arriving := (s.core (routerCore ed router)).arriving ++ [(⟨(s.part q).tick + 2, ed.dir, x⟩ : LandDue)] } ∧
        KeepsCores [routerCore ed router] s t) →
      (∀ x, s.edge.served ed.code (off / 8) en.len = some x →
        ∃ t, exec (.planDeliver q ed router entry) s = .next t ∧ due x t ∧ OnlyTouches [.cores] s t) ∧
      (s.edge.served ed.code (off / 8) en.len = none →
        (s.edge.reads.filter (fun x => x.buffer == ed.code)).length < 16 →
        ((∀ r, (s.part q).ringAt ed.code off n 0 = some r → n ≤ ((s.part q).ring r).fill) →
          ∀ x, x = (if (s.sramUe (bufferBase ed.code + off) n).isSome then ⟨zeros 64, n, some 0x11⟩
            else ⟨padTo 64 (s.rd (bufferBase ed.code + off) n), n, none⟩) →
          ∃ t, exec (.planDeliver q ed router entry) s = .next t ∧ due x t ∧
            t.edge = { s.edge with reads := ⟨ed.code, off / 8, en.len, x⟩ :: s.edge.reads } ∧
            (∀ r, (s.part q).ringAt ed.code off n 0 = some r →
              t.part q = (s.part q).updRing r (fun y => { y with fill := y.fill - n, used := y.used + n })) ∧
            ((s.part q).ringAt ed.code off n 0 = none → t.parts = s.parts) ∧
            (s.cleanAt (bufferBase ed.code + off) n → t.regs = s.regs ∧ t.flt = s.flt) ∧
            KeepsParts [q.val] s t ∧ KeepsRegs faultRegs s t ∧ OnlyTouches [.regs, .cores, .parts, .edge, .flt] s t) ∧
        (∀ r, (s.part q).ringAt ed.code off n 0 = some r → ((s.part q).ring r).fill < n →
          s.cleanAt (bufferBase ed.code + off) n →
          ∃ t, exec (.planDeliver q ed router entry) s = .next t ∧ due ⟨zeros 64, n, some 0x32⟩ t ∧ Refuses ed.code router off s t ∧
            (t.part q).ring r = { (s.part q).ring r with fill := 0, used := ((s.part q).ring r).used + n } ∧
            KeepsParts [q.val, s.bufferTag ed.code off] s t ∧ OnlyTouches [.regs, .cores, .parts, .edge, .flt] s t)) ∧
      (s.edge.served ed.code (off / 8) en.len = none →
        16 ≤ (s.edge.reads.filter (fun x => x.buffer == ed.code)).length →
        ∃ t, exec (.planDeliver q ed router entry) s = .next t ∧ due ⟨zeros 64, n, some 0x32⟩ t ∧ Refuses ed.code router off s t ∧
          t.edge.reads = s.edge.reads ∧ KeepsParts [s.bufferTag ed.code off] s t ∧
          OnlyTouches [.regs, .cores, .parts, .edge, .flt] s t)) ∧
    (s.planDue q ed router entry 1 = some (en, k) →
      ((s.edge.writes.filter (fun x => x.buffer == ed.code)).length < 16 →
        (∀ r, (s.part q).ringAt ed.code off n 1 = some r → n ≤ ((s.part q).ring r).fill) →
        ∃ t, exec (.planCollect q ed router entry) s = .next t ∧
          t.edge = { s.edge with writes := s.edge.writes ++ [⟨ed.code, off,
            match (s.part q).sentTo ed router ((s.part q).tick - 2) with
            | some x => if 2 ≤ (s.part q).tick then padTo n (x.bytes.take x.len) else zeros n
            | none => zeros n, ((s.part q).ringAt ed.code off n 1).map (fun r => (q.val, r))⟩] } ∧
          (∀ r, (s.part q).ringAt ed.code off n 1 = some r →
            t.part q = (s.part q).updRing r (fun y => { y with fill := y.fill - n })) ∧
          ((s.part q).ringAt ed.code off n 1 = none → t.parts = s.parts) ∧
          KeepsParts [q.val] s t ∧ OnlyTouches [.parts, .edge] s t) ∧
      ((16 ≤ (s.edge.writes.filter (fun x => x.buffer == ed.code)).length ∨
          ∃ r, (s.part q).ringAt ed.code off n 1 = some r ∧ ((s.part q).ring r).fill < n) →
        ∃ t, exec (.planCollect q ed router entry) s = .next t ∧ t.edge.writes = s.edge.writes ∧ Refuses ed.code router off s t ∧
          KeepsParts [s.bufferTag ed.code off] s t ∧ OnlyTouches [.regs, .parts, .edge, .flt] s t))) ∧
  (∀ (s : State) (w : EdgeWrite), s.edge.writes = [w] → s.cleanAt (bufferBase w.buffer + w.offset) w.bytes.length →
    (s.endEdgeCycle).edge = {} ∧ (s.endEdgeCycle).rd (bufferBase w.buffer + w.offset) w.bytes.length = w.bytes ∧
    (∀ q r, w.ring = some (q, r) → ((s.endEdgeCycle).part q).ring r =
      { (s.part q).ring r with used := ((s.part q).ring r).used + w.bytes.length }) ∧
    KeepsBytes (bufferBase w.buffer + w.offset) w.bytes.length s s.endEdgeCycle ∧
    OnlyTouches [.mem, .sramErr, .parts, .edge] s s.endEdgeCycle)

/-- Hold and STOP of a partition. A ring below its low-water mark raises a hold, counted in PRT_HOLDSTAT, that freezes
the partition at tick T + 40 (R165); while a drop waits for its resume cycle, the hold stays in force instead (R166).
Once the freeze tick has come and every ring is at its high-water mark, or was before the freeze tick, and none is
below its low-water mark, the hold drops: the partition resumes 40 cycles later, and PRT_HOLDSTAT keeps the longest
hold (R166, R167). A hold longer than its limit is reported once (R167); a STOP line marks the partition faulted and
freezes it by the same rule (R169). Only the partition and its hold register change. The model's own choices it rests
on: log 17, log 18, log 109 and log 138. -/
def Obligations.HoldsFreezeAndResume : Prop :=
  ∀ (q : QuireId) (s : State),
    (∀ r, (s.part q).run = .running → (s.part q).lowRing = some r →
      ((s.part q).hold = none →
        ∃ t, exec (.holdRaise q) s = .next t ∧
          t.part q = { s.part q with
            freezeAt := some (min ((s.part q).freezeAt.getD ((s.part q).tick + 40)) ((s.part q).tick + 40))
            resumeIn := none
            hold := some { ring := r, raised := (s.part q).tick, since := s.clk.wall, limit := s.rf Reg.arrHoldcfg 19 0
                           freeze := min ((s.part q).freezeAt.getD ((s.part q).tick + 40)) ((s.part q).tick + 40) } } ∧
          t.rf (Reg.prtHoldstat q) 23 0 = satAdd (2 ^ 24 - 1) (s.rf (Reg.prtHoldstat q) 23 0) 1 ∧
          t.rf (Reg.prtHoldstat q) 52 48 = r % 32 ∧
          KeepsParts [q.val] s t ∧ KeepsRegs [Reg.prtHoldstat q] s t ∧ OnlyTouches [.regs, .parts] s t) ∧
      (∀ h, (s.part q).hold = some h →
        ∃ t, exec (.holdRaise q) s = .next t ∧
          t.part q = { s.part q with resumeIn := none, hold := some { h with full := false } } ∧
          KeepsParts [q.val] s t ∧ OnlyTouches [.parts] s t)) ∧
    (∀ h f, (s.part q).hold = some h → (s.part q).freezeAt = some f → f ≤ (s.part q).tick →
      ((s.part q).ringsHigh = true ∨ h.full = true) → (s.part q).lowRing = none → (s.part q).resumeIn = none →
      s.resetWaits q = false →
      ∃ t, exec (.holdDrop q) s = .next t ∧ t.part q = { s.part q with resumeIn := some 40 } ∧
        t.rf (Reg.prtHoldstat q) 47 24 =
          max (min 0xFFFFFF ((s.clk.wall - h.since) / 1200)) (s.rf (Reg.prtHoldstat q) 47 24) ∧
        KeepsParts [q.val] s t ∧ KeepsRegs [Reg.prtHoldstat q] s t ∧ OnlyTouches [.regs, .parts] s t) ∧
    (∀ h, (s.part q).hold = some h → h.reported = false → (s.part q).resumeIn = none →
      h.since + usec h.limit < s.clk.wall → s.flt.queue.length < 64 →
      ∃ t, exec (.holdTimeout q) s = .next t ∧ t.part q = { s.part q with hold := some { h with reported := true } } ∧
        (∃ m ∈ t.flt.queue, m.msg = faultMsg (blockSrc 0 q) 0x40 h.ring ∧ m.tag = q) ∧
        KeepsParts [q.val] s t ∧ KeepsRegs faultRegs s t ∧ OnlyTouches [.regs, .parts, .flt] s t) ∧
    ((s.part q).exists_ = true → (s.part q).stopLine = true → (s.part q).stopped = false →
      ∃ t, exec (.pergolaStop q) s = .next t ∧
        t.part q = { s.part q with
          freezeAt := some (min ((s.part q).freezeAt.getD ((s.part q).tick + 40)) ((s.part q).tick + 40))
          faulted := true, stopped := true, resumeIn := none } ∧
        KeepsParts [q.val] s t ∧ OnlyTouches [.parts] s t)

/-- The stream engines move one burst-group at a time between LPDDR6 and a ring (R237, R238). The group that a
buffer's engine has requested for a deliver ring with room lands at the ring's stream position; while the engine's
request on the channel is another ring's, nothing lands. An uncorrectable access stops the ring after the good
accesses before it (R234). A collect ring that holds a group, or a remainder at a sweep end, writes it; an
uncorrectable granule stops it with nothing written (R160). The model's own choices it rests on: log 28 and log 139.
-/
def Obligations.StreamGroupsMove : Prop :=
  ∀ (q : QuireId) (ring : Fin 32) (s : State) (b : Binding) (d : RingDesc) (x : RingRun) (place : Nat),
    (s.part q).ringDesc ring = some (b, d) → (s.part q).ring ring = x →
    place = bufferBase (b.ringPlace d).1 + ((b.ringPlace d).2 + x.moved % d.bytes) →
    (d.wantsGroup x = true →
      (s.groupInFlight (b.ringPlace d).1 (chanOf (d.streamAddr x.moved)) = some (q.val, ring.val) → s.sramGood →
        (s.dramErr = [] →
          ∃ t, exec (.deliverGroupLand q ring) s = .next t ∧
            t.part q = (s.part q).updRing ring (fun y => { y with fill := y.fill + 4096, moved := y.moved + 4096, stopped := false }) ∧
            t.rd place 4096 = s.rd (d.streamAddr x.moved) 4096 ∧ KeepsBytes place 4096 s t ∧
            KeepsParts [q.val] s t ∧ OnlyTouches [.mem, .sramErr, .parts, .chans] s t) ∧
        (∀ k n, s.dramUe (d.streamAddr x.moved) 4096 = some k → n = k * 64 - d.streamAddr x.moved →
          ∃ t, exec (.deliverGroupLand q ring) s = .next t ∧
            t.part q = (s.part q).updRing ring (fun y => { y with fill := y.fill + n, moved := y.moved + n, stopped := true }) ∧
            t.rd place n = s.rd (d.streamAddr x.moved) n ∧ KeepsBytes place n s t ∧
            KeepsParts [q.val] s t ∧ KeepsRegs dramRegs s t ∧
            OnlyTouches [.regs, .mem, .sramErr, .parts, .chans, .flt] s t)) ∧
      (s.groupInFlight (b.ringPlace d).1 (chanOf (d.streamAddr x.moved)) ≠ some (q.val, ring.val) →
        ∃ t, exec (.deliverGroupLand q ring) s = .next t ∧ OnlyTouches [.chans] s t)) ∧
    (∀ n, d.kind = 1 → d.endpoint = 0 → x.stopped = false → d.ended x.moved = false → b.ringIsDrain ring = false →
      (if (x.moved / 4096 + 1) * 4096 ≤ x.used then (x.moved / 4096 + 1) * 4096
        else min x.flush ((x.moved / 4096 + 1) * 4096)) = x.moved + n → 0 < n →
      (s.sramGood → s.dramErr = [] →
        ∃ t, exec (.collectGroupWrite q ring) s = .next t ∧
          (t.part q).ring ring = { x with fill := x.fill + n, moved := x.moved + n } ∧
          t.rd (d.streamAddr x.moved) n = (s.ringRead b d x.moved n).2.1 ∧
          KeepsBytes (d.streamAddr x.moved) n s t ∧ OnlyTouches [.mem, .parts] s t) ∧
      ((s.ringRead b d x.moved n).1.isSome = true →
        ∃ t, exec (.collectGroupWrite q ring) s = .next t ∧
          t.part q = (s.part q).updRing ring (fun y => { y with stopped := true }) ∧
          KeepsParts [q.val] s t ∧ KeepsRegs faultRegs s t ∧ OnlyTouches [.regs, .parts, .flt] s t))

/-- The next record of a drain ring's takes is cut once its bytes are collected and its staging slots are free (R184,
R185, R206, R445), and written when its destination has room (R186, R312): header, payload and padding at the drain
ring's tail, and then the tail itself at the ring's start, in LPDDR6 or in the host memory behind port B; a record
that does not fit before the ring's end has a pad record written first, which brings the tail to 64. A record for the
host goes through the host ring staging region when one holds it: it is written there first, and from there to the
host (R160). The record's bytes of the collect ring are then free again, the window's SEQ rises, and a statistics
record's means and variances are derived (R124). An uncorrectable granule of the ring or of the staging region, or a
host drain ring that is disabled, stops the ring (R160, R312). The model's own choices it rests on: log 8, log 59, log
113, log 116 and log 119. -/
def Obligations.DrainRecordsAppend : Prop :=
  ∀ (q : QuireId) (ring : Fin 32) (s : State) (b : Binding) (d : RingDesc) (c : Cut) (payload rec_ : List Byte),
    (s.part q).ringDesc ring = some (b, d) → d.kind = 1 → ((s.part q).ring ring).stopped = false →
    b.ringIsDrain ring = true → (b.ringPlace d).1 = 1 → (s.part q).nextCut b ring = some c →
    c.rec_.payload ≤ ((s.part q).ring ring).used - ((s.part q).ring ring).moved → (s.part q).stagingBusy b c = false →
    payload = (s.ringRead b d ((s.part q).ring ring).moved c.rec_.payload).2.1 →
    rec_ = drainRecord c.rec_ c.win.kind c.window c.sweep c.seq payload →
    ∀ cut : State → Prop, cut = (fun t =>
      (t.part q).ring ring = (let x := (s.part q).ring ring
        { x with fill := x.fill + c.rec_.payload, moved := x.moved + c.rec_.payload }) ∧
      Table.look (fun _ => 0) (t.part q).drain.seq c.window = c.seq + 1 ∧ (t.part q).drain.staged = none ∧
      (c.win.kind = 2 → Table.look (fun _ => []) (t.part q).drain.stats c.window =
        (Table.look (fun _ => []) (s.part q).drain.stats c.window).filter (fun v => v.record != c.index) ++
          s.statValues b c.window c.index c.seq payload) ∧
      OnlyTouches [.mem, .hostB, .parts] s t) →
    ((c.win.dest = 1 → bit (s.reg (Reg.hstDrain q)) 5 = true) →
      (s.ringRead b d ((s.part q).ring ring).moved c.rec_.payload).1.isSome = true →
      ∃ t, exec (.drainRecordWrite q ring) s = .next t ∧ ((t.part q).ring ring).stopped = true ∧
        KeepsParts [q.val] s t ∧ KeepsRegs faultRegs s t ∧ OnlyTouches [.regs, .parts, .flt] s t) ∧
    (c.win.dest = 1 → bit (s.reg (Reg.hstDrain q)) 5 = false →
      ∃ t, exec (.drainRecordWrite q ring) s = .next t ∧ ((t.part q).ring ring).stopped = true ∧
        KeepsParts [q.val] s t ∧ OnlyTouches [.parts] s t) ∧
    (∀ base size dr, c.win.dest ≠ 1 → s.sramGood → s.dramErr = [] → b.ldrain = some (base, size) →
      dr = (s.part q).drain → 64 ≤ dr.lTail →
      (∀ next, drainPads size dr.lHead dr.lTail rec_.length = false →
        drainNext size dr.lHead dr.lTail rec_.length = some next →
        ∃ t, exec (.drainRecordWrite q ring) s = .next t ∧ cut t ∧ (t.part q).drain.lTail = next ∧ t.hostB = s.hostB ∧
          (poolsOf b c.rec_.chain c.window false = [] →
            t.rd (base + dr.lTail) rec_.length = rec_ ∧ t.rd base 8 = leBytes 8 next)) ∧
      (∀ next, drainPads size dr.lHead dr.lTail rec_.length = true → drainNext size dr.lHead 64 rec_.length = some next →
        ∃ t, exec (.drainRecordWrite q ring) s = .next t ∧ cut t ∧ (t.part q).drain.lTail = next ∧
          (poolsOf b c.rec_.chain c.window false = [] → t.rd (base + 64) rec_.length = rec_ ∧ t.rd base 8 = leBytes 8 next)) ∧
      (drainPads size dr.lHead dr.lTail rec_.length = true → drainNext size dr.lHead 64 rec_.length = none →
        ∃ t, exec (.drainRecordWrite q ring) s = .next t ∧ (t.part q).drain = { dr with lTail := 64 } ∧
          (t.part q).rings = (s.part q).rings ∧ t.rd base 8 = leBytes 8 64 ∧
          t.rd (base + dr.lTail) 32 = padRecord dr.lTail (size - dr.lTail - 32) ∧ OnlyTouches [.mem, .parts] s t) ∧
      (drainPads size dr.lHead dr.lTail rec_.length = false → drainNext size dr.lHead dr.lTail rec_.length = none →
        exec (.drainRecordWrite q ring) s = .next s)) ∧
    (∀ base size dr next, c.win.dest = 1 → bit (s.reg (Reg.hstDrain q)) 5 = true → s.sramGood → s.dramErr = [] →
      s.hDrainRing q = (base, size) → dr = (s.part q).drain → 64 ≤ dr.hTail →
      drainPads size dr.hHead dr.hTail rec_.length = false → drainNext size dr.hHead dr.hTail rec_.length = some next →
      (s.hostStaging = none →
        ∃ t, exec (.drainRecordWrite q ring) s = .next t ∧ cut t ∧ (t.part q).drain.hTail = next ∧
          Table.span zeroByte t.hostB (base + dr.hTail) rec_.length = rec_ ∧
          Table.span zeroByte t.hostB base 8 = leBytes 8 next ∧
          (poolsOf b c.rec_.chain c.window false = [] → t.mem = s.mem)) ∧
      (∀ buf off room, s.hostStaging = some (buf, off, room) →
        (rec_.length ≤ room → s.stagingHeld = false →
          ∃ t, exec (.drainRecordWrite q ring) s = .next t ∧ (t.part q).rings = (s.part q).rings ∧
            (t.part q).drain = { dr with staged := some (ring.val, rec_.length) } ∧
            t.rd (bufferBase buf + off) rec_.length = rec_ ∧ KeepsBytes (bufferBase buf + off) rec_.length s t ∧
            KeepsParts [q.val] s t ∧ OnlyTouches [.mem, .sramErr, .parts] s t) ∧
        (dr.staged = some (ring.val, rec_.length) →
          ∃ t, exec (.drainRecordWrite q ring) s = .next t ∧ cut t ∧ (t.part q).drain.hTail = next ∧
            Table.span zeroByte t.hostB (base + dr.hTail) rec_.length = s.rd (bufferBase buf + off) rec_.length ∧
            Table.span zeroByte t.hostB base 8 = leBytes 8 next))) ∧
    (∀ base size dr next buf off room, c.win.dest = 1 → bit (s.reg (Reg.hstDrain q)) 5 = true →
      s.hDrainRing q = (base, size) → dr = (s.part q).drain →
      drainPads size dr.hHead dr.hTail rec_.length = false → drainNext size dr.hHead dr.hTail rec_.length = some next →
      s.hostStaging = some (buf, off, room) → dr.staged = some (ring.val, rec_.length) →
      (s.ringRead b d ((s.part q).ring ring).moved c.rec_.payload).1 = none →
      (s.sramUe (bufferBase buf + off) rec_.length).isSome = true →
      ∃ t, exec (.drainRecordWrite q ring) s = .next t ∧ ((t.part q).ring ring).stopped = true ∧ t.hostB = s.hostB ∧
        KeepsParts [q.val] s t ∧ KeepsRegs faultRegs s t ∧ OnlyTouches [.regs, .parts, .flt] s t)

/-! ## The memory channels (R232 to R249) -/

/-- One look of an arbiter (R239 to R243), with the owner's use of the channel and the refreshes as they have run
since the last one. A channel without an owner, or whose owner's line has dropped, chooses the owner of the coming
cycle, and nothing is granted; an owner whose line stays raised, and a refresh that has not ended, keep the channel; a
chosen line that is still raised is granted, its grant counted, with an aged choice and the longest wait; a chosen
line that is low is a ghost grant, counted, and the choice is made again. The model's own choices it rests on: log 57
and log 120. -/
def Obligations.ArbiterChoosesAndGrants : Prop :=
  ∀ (ch : ChanId) (raised : Byte) (elapsed : Nat) (read : Option DramRead) (s : State) (c : Channel) (lines : List Nat),
    s.look ch raised elapsed = (c, lines) →
    (c.chosen = none → (∀ o, c.owner = some o → o ∉ lines ∧ o ≠ 7) →
      ∃ t, exec (.arbiterGrant ch raised elapsed read) s = .next t ∧
        t.chan ch = { c with owner := none, ownedFor := 0, chosen := c.choose (s.rf (Reg.memCtrl (ch / 4)) 6 0) lines } ∧
        (∀ k, k ≠ ch.val → t.chan k = s.chan k) ∧ OnlyTouches [.chans] s t) ∧
    (∀ o, c.chosen = none → c.owner = some o → (o ∈ lines ∨ o = 7) →
      ∃ t, exec (.arbiterGrant ch raised elapsed read) s = .next t ∧ t.chan ch = c ∧
        (∀ k, k ≠ ch.val → t.chan k = s.chan k) ∧ OnlyTouches [.chans] s t) ∧
    (∀ l aged, c.chosen = some (l, aged) → l ∈ lines → (read = none ∨ s.dramErr = []) →
      ∃ t, exec (.arbiterGrant ch raised elapsed read) s = .next t ∧
        t.chan ch = { c with owner := some l, ownedFor := 0, ownedAt := s.clk.wall, chosen := none, grants := c.grants + 1
                             ages := Table.put (fun _ => 0) c.ages l 0 } ∧
        t.rf (Reg.memArbstat ch) 47 24 = (if aged then satAdd (2 ^ 24 - 1) (s.rf (Reg.memArbstat ch) 47 24) 1
          else s.rf (Reg.memArbstat ch) 47 24) ∧
        t.rf (Reg.memArbstat ch) 23 0 = s.rf (Reg.memArbstat ch) 23 0 ∧
        t.rf (Reg.memArbstat ch) 63 48 = max (c.age l) (s.rf (Reg.memArbstat ch) 63 48) ∧
        (∀ k, k ≠ ch.val → t.chan k = s.chan k) ∧ KeepsRegs [Reg.memArbstat ch] s t ∧
        OnlyTouches [.regs, .chans] s t) ∧
    (∀ l aged, c.chosen = some (l, aged) → l ∉ lines →
      ∃ t, exec (.arbiterGrant ch raised elapsed read) s = .next t ∧
        t.chan ch = { c with owner := none, ownedFor := 0, chosen := c.choose (s.rf (Reg.memCtrl (ch / 4)) 6 0) lines } ∧
        t.rf (Reg.memArbstat ch) 23 0 = satAdd (2 ^ 24 - 1) (s.rf (Reg.memArbstat ch) 23 0) 1 ∧
        (∀ k, k ≠ ch.val → t.chan k = s.chan k) ∧ KeepsRegs [Reg.memArbstat ch] s t ∧
        OnlyTouches [.regs, .chans] s t)

/-- Refresh, scrub, the debug port and the temperature readout of a channel (R235, R244, R247 to R249, R392). At the
end of a refresh interval the owed count, as the refreshes that have ended leave it, rises by one, to 8 at most; at 8
an emergency refresh begins and is counted. At its pace the scrub reads one burst-group, corrects its correctable
accesses and moves on. The open debug port reads or writes one range of at most 64 B of LPDDR6, and is counted;
another address it reaches as a local access, through JTAG; the closed one does nothing. A readout sets HOT of its
channel alone. The model's own choices it rests on: log 12 and log 120. -/
def Obligations.ChannelEventsAct : Prop :=
  ∀ (ch : ChanId) (s : State),
    (∀ c, s.memRuns = true → s.intervalOver ch = true → c = ((s.chan ch).run (s.groupCycles ch) 0 s.clk.wall).1 →
      ∃ t, exec (.refreshInterval ch) s = .next t ∧
        t.chan ch = { c with
          owed := min 8 (c.owed + 1), intervalAt := some s.clk.wall
          emergency := if 7 ≤ c.owed ∧ c.emergency = none then some (s.clk.wall, 448) else c.emergency } ∧
        t.rf (Reg.memRefstat ch) 31 8 = (if 7 ≤ c.owed ∧ c.emergency = none
          then satAdd (2 ^ 24 - 1) (s.rf (Reg.memRefstat ch) 31 8) 1 else s.rf (Reg.memRefstat ch) 31 8) ∧
        (∀ k, k ≠ ch.val → t.chan k = s.chan k) ∧ KeepsRegs [Reg.memRefstat ch] s t ∧
        OnlyTouches [.regs, .chans] s t) ∧
    (∀ k, s.memRuns = true → bit (s.reg (Reg.memCtrl (ch / 4))) 7 = true → s.scrubDue ch = true →
      k = chanAddr ch ((s.chan ch).scrub * 4096) / 64 →
      ∃ t, exec (.scrubRead ch) s = .next t ∧
        t.chan ch = { s.chan ch with scrub := ((s.chan ch).scrub + 1) % 2 ^ 20, scrubAt := some s.clk.wall } ∧
        t.dramErr = s.dramErr.filter (fun e => !(k ≤ e.1 && e.1 < k + 64 && e.2 == 1)) ∧
        (∀ i, i ≠ ch.val → t.chan i = s.chan i) ∧ KeepsRegs dramRegs s t ∧
        OnlyTouches [.regs, .dramErr, .chans, .flt] s t) ∧
    (∀ (addr : BitVec 40) (n : Nat) (bs : List Byte), chanOf addr.toNat = ch → s.mgt.debugOpen = true → s.dramErr = [] →
      (∀ u, (s.chan ch).debugAt = some u → u + 192 ≤ s.clk.wall) →
      (s.inDram addr.toNat n = true → addr.toNat % 64 + n ≤ 64 → 0 < n →
        ∃ t, exec (.debugAccess addr (.read n)) s = .next t ∧ t.readBytes = s.rd addr.toNat n ∧
          t.rf (Reg.memRefstat ch) 47 32 = satAdd (2 ^ 16 - 1) (s.rf (Reg.memRefstat ch) 47 32) 1 ∧
          t.chan ch = { s.chan ch with debugAt := some s.clk.wall } ∧ KeepsRegs [Reg.memRefstat ch] s t ∧
          OnlyTouches [.regs, .readBytes, .chans] s t) ∧
      (s.inDram addr.toNat bs.length = true → addr.toNat % 64 + bs.length ≤ 64 → 0 < bs.length →
        ∃ t, exec (.debugAccess addr (.write bs)) s = .next t ∧ t.rd addr.toNat bs.length = bs ∧
          t.rf (Reg.memRefstat ch) 47 32 = satAdd (2 ^ 16 - 1) (s.rf (Reg.memRefstat ch) 47 32) 1 ∧
          KeepsBytes addr.toNat bs.length s t ∧ KeepsRegs [Reg.memRefstat ch] s t ∧
          OnlyTouches [.regs, .mem, .parts, .chans] s t)) ∧
    (∀ (addr : BitVec 40) (n : Nat) (bs : List Byte),
      (s.mgt.debugOpen = false → ∀ acc, exec (.debugAccess addr acc) s = .next s) ∧
      (s.mgt.debugOpen = true → s.inDram addr.toNat n = false → addr.toNat % 64 + n ≤ 64 → 0 < n →
        exec (.debugAccess addr (.read n)) s = .next { (s.localRead 127 addr.toNat n).2.2 with
          readBytes := if (s.localRead 127 addr.toNat n).2.1.isSome then [] else (s.localRead 127 addr.toNat n).1 }) ∧
      (s.mgt.debugOpen = true → s.inDram addr.toNat bs.length = false → addr.toNat % 64 + bs.length ≤ 64 → 0 < bs.length →
        exec (.debugAccess addr (.write bs)) s = .next (s.localWrite 127 addr.toNat bs))) ∧
    (∀ hot, ∃ t, exec (.deviceTemperatureReadout ch hot) s = .next t ∧
      t.rf (Reg.memStatus (ch / 4)) (8 * (ch.val % 4) + 2) (8 * (ch.val % 4) + 2) = (if hot then 1 else 0) ∧
      (∀ i, i < 64 → i ≠ 8 * (ch.val % 4) + 2 →
        bit (t.reg (Reg.memStatus (ch / 4))) i = bit (s.reg (Reg.memStatus (ch / 4))) i) ∧
      KeepsRegs [Reg.memStatus (ch / 4)] s t ∧ OnlyTouches [.regs] s t)

/-! ## The hall (R254 to R289, R398) -/

/-- What a port does with a frame, by the receive checks (R255, R258, R259, R262, R264, R268, R282, R406). On a link
that is down nothing is received. Noise is counted on the port. A stranger is counted at its step, and reported once
until the counters are read. A management frame goes to the Gatehouse and is counted, and a PTP event message is
timestamped. A WAKE frame always waits for its command; no other frame is taken in a sleep state or with the transport
off. One that acknowledges after its connection has expired is counted as late; any other but a CTRL frame waits for
its command. The next CTRL frame in order, on a connection that holds none, is delivered at once: its messages wait,
and the next frame is expected. The model's own choices it rests on: log 9, log 53, log 54, log 55, log 56 and log
124. -/
def Obligations.FrameReceiveChecks : Prop :=
  ∀ (p : HallPort) (f : Frame) (s : State),
    (s.linkUp p = false → exec (.frameReceive p f) s = .next s) ∧
    (s.linkUp p = true →
      (s.verdict p f = .noise → exec (.frameReceive p f) s = .next (s.count (Reg.hfbPortstat p) 31 8 1)) ∧
      (∀ k, s.verdict p f = .stranger k → s.flt.queue.length < 64 →
        ∃ t, exec (.frameReceive p f) s = .next t ∧
          t.rf (Reg.hfbStrcnt p) (8 * (k - 2) + 7) (8 * (k - 2)) =
            satAdd 255 (s.rf (Reg.hfbStrcnt p) (8 * (k - 2) + 7) (8 * (k - 2))) 1 ∧
          t.hport p = { s.hport p with stranger := true } ∧
          ((s.hport p).stranger = true → t.flt = s.flt) ∧
          ((s.hport p).stranger = false → ∃ m ∈ t.flt.queue, m.msg = faultMsg (blockSrc 3 p) 0x72 p) ∧
          KeepsRegs [Reg.hfbStrcnt p] s t ∧ OnlyTouches [.regs, .hall, .flt] s t) ∧
      (s.verdict p f = .management →
        ∃ t, exec (.frameReceive p f) s = .next t ∧ t.hall.mgmtIn = s.hall.mgmtIn ++ [(p, f)] ∧
          (t.hport p).mgmt = s.mgmtCount p + 1 ∧ (ptpEvent f = true → (p, false, s.stampNow p false) ∈ t.hall.stamps) ∧
          t.hall.conns = s.hall.conns ∧ t.hall.frames = s.hall.frames ∧ OnlyTouches [.hall] s t) ∧
      (s.verdict p f = .transport →
        (hdrType f.body = 6 →
          ∃ t, exec (.frameReceive p f) s = .next t ∧
            t.hall.frames = s.hall.frames ++ [⟨p, f.body.take 32, f.body.drop 32⟩] ∧ t.hall.conns = s.hall.conns ∧
            t.hall.msgs = s.hall.msgs ∧ OnlyTouches [.hall] s t) ∧
        ((s.asleep = true ∨ s.hallOn = false) → hdrType f.body ≠ 6 →
          ∃ t, exec (.frameReceive p f) s = .next t ∧ t.hall.frames = s.hall.frames ∧ t.hall.conns = s.hall.conns ∧
            t.hall.msgs = s.hall.msgs ∧ OnlyTouches [.hall] s t) ∧
        (s.asleep = false → s.hallOn = true → hdrType f.body ≠ 6 → s.peerExpired (hdrSrc f.body) = true →
          (hdrFlags f.body).testBit 0 = true →
          ∃ t, exec (.frameReceive p f) s = .next t ∧ t.hall.frames = s.hall.frames ∧ t.hall.conns = s.hall.conns ∧
            t.rf Reg.hftPeerstat 47 32 = satAdd (2 ^ 16 - 1) (s.rf Reg.hftPeerstat 47 32) 1 ∧
            KeepsRegs [Reg.hftPeerstat] s t ∧ OnlyTouches [.regs, .hall] s t) ∧
        (s.asleep = false → s.hallOn = true → hdrType f.body ≠ 6 →
          ¬ (s.peerExpired (hdrSrc f.body) = true ∧ (hdrFlags f.body).testBit 0 = true) →
          (hdrType f.body ≠ 1 →
            ∃ t, exec (.frameReceive p f) s = .next t ∧
              t.hall.frames = s.hall.frames ++ [⟨p, f.body.take 32, f.body.drop 32⟩] ∧
              t.conn (hdrSrc f.body) = { s.conn (hdrSrc f.body) with heard := s.clk.wall } ∧
              KeepsConns [hdrSrc f.body] s t ∧ OnlyTouches [.hall] s t) ∧
          (hdrType f.body = 1 → (s.conn (hdrSrc f.body)).live = true → (s.conn (hdrSrc f.body)).held = [] →
            hdrSeq f.body = (s.conn (hdrSrc f.body)).rxNext → ¬ (leAt (f.body.drop 32) 0 1 = 1 ∧ hdrSeq f.body = 0) →
            ∃ t, exec (.frameReceive p f) s = .next t ∧
              t.hall.msgs = s.hall.msgs ++ (chunks 16 (f.body.drop 32)).map (fun m => ⟨hdrSrc f.body, m⟩) ∧
              (t.conn (hdrSrc f.body)).rxNext = ((s.conn (hdrSrc f.body)).rxNext + 1) % 2 ^ 32 ∧
              (t.conn (hdrSrc f.body)).held = [] ∧ (t.conn (hdrSrc f.body)).state = (s.conn (hdrSrc f.body)).state ∧
              KeepsConns [hdrSrc f.body] s t ∧ OnlyTouches [.regs, .mem, .sramErr, .parts, .hall, .flt] s t))))

/-- The order of a connection's frames (R264, R265, R268, R270, R272). A DATA frame of a connection that is opening or
open is taken by its fields and its number, and every connection then delivers what it can; an IDLE frame gives its
fields alone; a frame of any other connection is dropped. A frame outside the window, or of a window that is not
granted, is discarded and counted, and so is a second copy; a new CTRL frame inside is held, and a new DATA frame is
held with its payload in the staging slot of its number. Acknowledged frames leave; an acknowledgement that names the
timed frame after its timer has run out is discarded and counted. Bytes that enter a deliver ring are written from its
write position on, around its end, and count in its fill. The model's own choices it rests on: log 25, log 27, log 38
and log 122. -/
def Obligations.FramesDeliverInOrder : Prop :=
  (∀ (s : State) (x : Accepted) (xs : List Accepted), s.hall.frames = x :: xs →
    (hdrType x.hdr = 0 →
      ((s.conn (hdrSrc x.hdr)).live = true →
        exec .data s = .next ((s.nextFrame.takeFields (hdrSrc x.hdr) x.hdr).acceptSeq (hdrSrc x.hdr) (hdrSeq x.hdr) false
          (hdrStream x.hdr) x.body).deliverAll) ∧
      ((s.conn (hdrSrc x.hdr)).live = false → exec .data s = .next s.nextFrame.deliverAll)) ∧
    (hdrType x.hdr = 2 →
      ((s.conn (hdrSrc x.hdr)).live = true → exec .idle s = .next (s.nextFrame.takeFields (hdrSrc x.hdr) x.hdr)) ∧
      ((s.conn (hdrSrc x.hdr)).live = false → exec .idle s = .next s.nextFrame))) ∧
  (∀ (s : State) (d seq stream : Nat) (isCtrl : Bool) (payload : List Byte) (dist : Nat),
    dist = (seq + 2 ^ 32 - (s.conn d).rxNext) % 2 ^ 32 →
    ((max 1 (s.conn d).granted ≤ dist ∨ (isCtrl = false ∧ (s.conn d).granted = 0)) →
      s.acceptSeq d seq isCtrl stream payload = s.count Reg.hftPeerstat 15 0 1) ∧
    (dist < max 1 (s.conn d).granted → (isCtrl = true ∨ 0 < (s.conn d).granted) →
      ((∃ f ∈ (s.conn d).held, f.seq = seq) →
        s.acceptSeq d seq isCtrl stream payload = s.count Reg.hftPeerstat 31 16 1) ∧
      ((∀ f ∈ (s.conn d).held, f.seq ≠ seq) →
        (isCtrl = true →
          ((s.acceptSeq d seq isCtrl stream payload).conn d).held = (s.conn d).held ++
            [({ seq := seq, isCtrl := true, stream := stream, payload := payload } : RxFrame)] ∧
          KeepsConns [d] s (s.acceptSeq d seq isCtrl stream payload) ∧
          OnlyTouches [.hall] s (s.acceptSeq d seq isCtrl stream payload)) ∧
        (∀ b off, isCtrl = false → s.slotOf d seq = some (b, off) → s.cleanAt (bufferBase b + off) payload.length →
          ((s.acceptSeq d seq isCtrl stream payload).conn d).held = (s.conn d).held ++
            [({ seq := seq, isCtrl := false, stream := stream, buffer := b, offset := off, len := payload.length } : RxFrame)] ∧
          (s.acceptSeq d seq isCtrl stream payload).rd (bufferBase b + off) payload.length = payload ∧
          KeepsConns [d] s (s.acceptSeq d seq isCtrl stream payload) ∧
          KeepsBytes (bufferBase b + off) payload.length s (s.acceptSeq d seq isCtrl stream payload) ∧
          OnlyTouches [.mem, .sramErr, .hall] s (s.acceptSeq d seq isCtrl stream payload))))) ∧
  (∀ (s : State) (d : Nat) (h : List Byte), (hdrFlags h).testBit 0 = true →
    ((∀ u f fs, (s.conn d).deadline = some u → (s.conn d).unacked = f :: fs → u < s.clk.wall →
        names (hdrAck h) (hdrSack h) f.seq = false) →
      (∀ e, (s.conn d).expired = some e → names (hdrAck h) (hdrSack h) e = false) →
      ((s.takeAck d h).conn d).unacked.map TxFrame.seq =
        ((s.conn d).unacked.filter (fun f => !names (hdrAck h) (hdrSack h) f.seq)).map TxFrame.seq ∧
      KeepsConns [d] s (s.takeAck d h) ∧ OnlyTouches [.regs, .mem, .sramErr, .parts, .hall, .flt] s (s.takeAck d h)) ∧
    (∀ u f fs, (s.conn d).deadline = some u → (s.conn d).unacked = f :: fs → u < s.clk.wall →
      names (hdrAck h) (hdrSack h) f.seq = true →
      (s.takeAck d h).conn d = { s.conn d with expired := none } ∧
      (s.takeAck d h).rf Reg.hftPeerstat 47 32 = satAdd (2 ^ 16 - 1) (s.rf Reg.hftPeerstat 47 32) 1 ∧
      KeepsConns [d] s (s.takeAck d h) ∧ KeepsRegs [Reg.hftPeerstat] s (s.takeAck d h) ∧
      OnlyTouches [.regs, .hall] s (s.takeAck d h))) ∧
  (∀ (s : State) (q r : Nat) (b : Binding) (d : RingDesc) (bs : List Byte) (at_ o k : Nat),
    at_ = bufferBase (b.ringPlace d).1 + (b.ringPlace d).2 → o = ((s.part q).ring r).moved % d.bytes →
    k = min bs.length (d.bytes - o) → bs.length ≤ d.bytes → s.sramGood →
    ((s.enterRing q r b d bs).part q).ring r = (let x := (s.part q).ring r
      { x with fill := x.fill + bs.length, moved := x.moved + bs.length }) ∧
    (s.enterRing q r b d bs).rd (at_ + o) k = bs.take k ∧ (s.enterRing q r b d bs).rd at_ (bs.length - k) = bs.drop k ∧
    KeepsBytes at_ d.bytes s (s.enterRing q r b d bs) ∧
    KeepsParts [q] s (s.enterRing q r b d bs) ∧ OnlyTouches [.mem, .sramErr, .parts] s (s.enterRing q r b d bs))

/-- The control messages of connections (R262, R267, R269, R272): OPEN opens an OPENING connection with the peer's
window and queues OPEN_ACK, and restarts an OPEN one at SEQ 0 with OPEN_ACK queued first, its streams and their rings
stopped and the loss reported; OPEN_ACK opens an OPENING connection; CLOSE closes a connection and stops its streams.
A message for a connection in another state has no effect. The model's own choices it rests on: log 39 and log 40. -/
def Obligations.ConnectionMessagesSetState : Prop :=
  ∀ (s : State) (m : CtrlMsg) (ms : List CtrlMsg), s.hall.msgs = m :: ms →
    (leAt m.bytes 0 1 = 1 →
      ((s.conn m.peer).state = .opening →
        exec .openMessage s = .next ((s.nextMsg.updConn m.peer (fun c => { c with
          state := .opened, peerWin := leAt m.bytes 4 2 })).queueCtrl m.peer (openMsg 2 (s.conn m.peer).granted))) ∧
      ((s.conn m.peer).state = .opened →
        ∃ t, exec .openMessage s = .next t ∧ (t.conn m.peer).state = .opened ∧ (t.conn m.peer).txSeq = 0 ∧
          (t.conn m.peer).peerWin = leAt m.bytes 4 2 ∧ (t.conn m.peer).unacked = [] ∧
          (t.conn m.peer).rxNext = (s.conn m.peer).rxNext ∧
          (∃ y ys, (t.conn m.peer).queue = y :: ys ∧ y.isCtrl = true ∧
            (s.slotsOf 4 = [] → y.payload = openMsg 2 (t.conn m.peer).granted)) ∧
          (∀ x ∈ t.hall.streams, x.peer = m.peer → x.stopped = true ∧ x.part.isSome = true) ∧
          (∀ x ∈ s.hall.streams, x.peer = m.peer → x.stopped = false → ∀ q r, x.part = some (q, r) →
            ((t.part q).ring r).stopped = true) ∧
          (s.slotsOf 4 = [] → Reports [(blockSrc 4 0, 0x71, m.peer)] 127 s t) ∧
          KeepsConns [m.peer] s t ∧ OnlyTouches [.regs, .mem, .sramErr, .parts, .hall, .flt] s t) ∧
      ((s.conn m.peer).live = false → exec .openMessage s = .next s.nextMsg)) ∧
    (leAt m.bytes 0 1 = 2 →
      ((s.conn m.peer).state = .opening →
        exec .openAck s = .next (s.nextMsg.updConn m.peer (fun c => { c with
          state := .opened, peerWin := leAt m.bytes 4 2 }))) ∧
      ((s.conn m.peer).state ≠ .opening → exec .openAck s = .next s.nextMsg)) ∧
    (leAt m.bytes 0 1 = 3 →
      ((s.conn m.peer).live = true →
        ∃ t, exec .connectionClose s = .next t ∧ t.conn m.peer = {} ∧
          (∀ x ∈ t.hall.streams, x.peer = m.peer → x.stopped = true ∧ x.part.isSome = true) ∧
          (∀ x ∈ s.hall.streams, x.peer = m.peer → x.stopped = false → ∀ q r, x.part = some (q, r) →
            ((t.part q).ring r).stopped = true) ∧
          KeepsConns [m.peer] s t ∧ OnlyTouches [.parts, .hall] s t) ∧
      ((s.conn m.peer).live = false → exec .connectionClose s = .next s.nextMsg))

/-- The control messages of streams and transfers (R269 to R271, R274, R288): CREDIT raises the byte count of a stream
that the module sends; GET queues the bytes of the units it names, cut into DATA frames of at most 8 KiB and staged;
it is answered by ABORT with reason 3 when the peer has no range, with reason 2 for a range it may not reach or units
that are none, and with the reason of an access that fails, and then stops; a stream that has stopped is not served.
ABORT stops the streams it names and their rings; DONE notes a multicast member. A frame for a peer is staged in a
free slot, and stays outside memory without one (R271). The model's own choices it rests on: log 25, log 44 and log
52. -/
def Obligations.StreamMessagesAct : Prop :=
  (∀ (s : State) (m : CtrlMsg) (ms : List CtrlMsg), s.hall.msgs = m :: ms →
    (leAt m.bytes 0 1 = 4 →
      exec .credit s = .next { s with hall := { s.hall with
        msgs := ms
        streams := s.hall.streams.map (fun x =>
          if x.peer == m.peer && x.id == m.id && x.send == true then { x with credit := max x.credit (leAt m.bytes 8 8) }
          else x) } }) ∧
    (leAt m.bytes 0 1 = 5 → ∀ x off units, off = leAt m.bytes 4 8 → units = leAt m.bytes 12 2 →
      x = (s.served m.peer m.id 2).getD
        { peer := m.peer, id := m.id, part := none, kind := 2, send := false, remote := 0, length := 0 } →
      (x.stopped = true → exec .get s = .next s.nextMsg) ∧
      (x.stopped = false →
        (Config.remoteRange m.peer m.id = none →
          exec .get s = .next ((s.nextMsg.noteServed { x with stopped := true }).abortTo m.peer m.id 3)) ∧
        (∀ a n, Config.remoteRange m.peer m.id = some (a, n) →
          ((n = 0 ∨ s.hallRange a n = false ∨ off % 4096 ≠ 0 ∨ units = 0 ∨ 16 < units) →
            exec .get s = .next ((s.nextMsg.noteServed { x with stopped := true }).abortTo m.peer m.id 2)) ∧
          (0 < n → s.hallRange a n = true → off % 4096 = 0 → 0 < units → units ≤ 16 →
            ∀ r, r = s.nextMsg.readParts (wrapParts a n (units * 4096) off 0 (units * 4096)) →
            (∀ bs, r.1 = .ok bs → exec .get s = .next
              ((chunks 8192 bs).foldl (fun t b => t.queueStaged m.peer { isCtrl := false, stream := m.id, payload := b })
                (r.2.noteServed { x with remote := a, length := n, moved := x.moved + bs.length }))) ∧
            (∀ reason, r.1 = .error reason →
              exec .get s = .next ((r.2.noteServed { x with stopped := true }).abortTo m.peer m.id reason)))))) ∧
    (leAt m.bytes 0 1 = 6 →
      ∃ t, exec .abort s = .next t ∧
        (∀ x ∈ t.hall.streams, x.peer = m.peer → x.id = m.id → x.stopped = true ∧ x.part.isSome = true) ∧
        (∀ x ∈ s.hall.streams, x.peer = m.peer → x.id = m.id → x.stopped = false → ∀ q r, x.part = some (q, r) →
          ((t.part q).ring r).stopped = true) ∧
        t.hall.conns = s.hall.conns ∧ OnlyTouches [.regs, .parts, .hall, .flt] s t) ∧
    (leAt m.bytes 0 1 = 7 →
      exec .done s = .next { s with hall := { s.hall with
        msgs := ms
        mtx := s.hall.mtx.map (fun x =>
          if x.id = m.id then (if m.peer ∈ x.done then x else { x with done := m.peer :: x.done }) else x) } })) ∧
  (∀ (s : State) (d : Nat) (f : TxFrame),
    (s.freeSlot = none → s.queueStaged d f = s.updConn d (fun c => { c with queue := c.queue ++ [f] })) ∧
    (∀ b off, s.freeSlot = some (b, off) → s.cleanAt (bufferBase b + off) f.payload.length →
      (s.queueStaged d f).conn d = { s.conn d with queue := (s.conn d).queue ++
        [{ f with payload := [], place := some (b, off), len := f.payload.length }] } ∧
      (s.queueStaged d f).rd (bufferBase b + off) f.payload.length = f.payload ∧
      KeepsConns [d] s (s.queueStaged d f) ∧ KeepsBytes (bufferBase b + off) f.payload.length s (s.queueStaged d f) ∧
      OnlyTouches [.mem, .sramErr, .hall] s (s.queueStaged d f)))

/-- What a connection sends (R260, R263 to R268, R277). The next queued frame that its window admits takes the next
number, waits for its acknowledgement and leaves, read from its staging slot, on a port that it may take, when no
other peer of the port has a barrier change to send first. A timer that runs out resends the oldest frame, counts and
reports it, and doubles; at RETX_LIMIT expiries the connection is lost, as it is when the peer is silent for
PEER_TIMEOUT. An acknowledgement falls due after eight deliveries, 1 µs, or an arrival out of order. A port sends the
peer that is owed one its next frame, or an IDLE frame when there is none, and an IDLE frame to its peers in turn
after 256 ns without a frame. The model's own choices it rests on: log 17, log 27, log 41, log 58, log 123 and log
137. -/
def Obligations.SendingAndResending : Prop :=
  ∀ (d : PeerId) (s : State) (c : Conn), s.conn d = c →
    (∀ p f rest bs, c.state = .opened → (s.portFor d).isSome = true → s.portAmong d f.ports = some p → s.hallOn = true →
      c.nextTx = some (f, rest) → c.unacked.length < max 1 c.peerWin → s.txPayload f = (some bs, s) →
      (c.barDue = true ∨ ∀ e, (s.conn e).barDue = false) →
      ∃ t, exec (.hallFrameSend d) s = .next t ∧ (t.conn d).queue = rest ∧ (t.conn d).txSeq = (c.txSeq + 1) % 2 ^ 32 ∧
        (t.conn d).unacked = c.unacked ++ [{ f with seq := c.txSeq, sends := 1 }] ∧ (t.conn d).owedAck = false ∧
        (c.unacked = [] → (t.conn d).deadline = some (s.clk.wall + s.rtoBase)) ∧
        (s.emits p → ∃ g : Frame, t.hall.wire = s.hall.wire ++ [(Fin.ofNat 8 p, g)] ∧
          g.dst = BitVec.ofNat 48 (s.rf (Reg.hftPeer d) 47 0) ∧ g.body.drop 32 = bs ∧
          hdrSeq g.body = c.txSeq % 2 ^ 32 ∧ hdrAck g.body = c.rxNext % 2 ^ 32 ∧
          hdrType g.body = (if f.isCtrl then 1 else 0)) ∧
        KeepsConns [d.val] s t ∧ OnlyTouches [.hall] s t) ∧
    (∀ u f fs, c.deadline = some u → c.unacked = f :: fs → u < s.clk.wall → (s.txPayload f).2 = s →
      ∃ t, exec (.retransmissionTimeout d) s = .next t ∧
        t.rf Reg.hftPeerstat 63 48 = satAdd (2 ^ 16 - 1) (s.rf Reg.hftPeerstat 63 48) 1 ∧
        (c.expiries + 1 < s.rf Reg.hftTimer 15 12 →
          (t.conn d).state = c.state ∧ (t.conn d).rto = min (2 * c.rto) (64 * s.rtoBase) ∧
          (t.conn d).deadline = some (s.clk.wall + min (2 * c.rto) (64 * s.rtoBase)) ∧
          (t.conn d).expiries = c.expiries + 1 ∧ (t.conn d).expired = some f.seq ∧
          (t.conn d).unacked.map TxFrame.seq = c.unacked.map TxFrame.seq ∧
          Reports [(blockSrc 4 0, 0x70, d.val)] 127 s t) ∧
        (s.rf Reg.hftTimer 15 12 ≤ c.expiries + 1 →
          (t.conn d).state = .lost ∧ (t.conn d).unacked = [] ∧ (t.conn d).queue = [] ∧
          (∀ x ∈ t.hall.streams, x.peer = d → x.stopped = true) ∧
          Reports [(blockSrc 4 0, 0x70, d.val), (blockSrc 4 0, 0x71, d.val)] 127 s t) ∧
        KeepsConns [d.val] s t ∧ OnlyTouches [.regs, .parts, .hall, .flt] s t) ∧
    (c.live = true → c.heard + usec (s.rf Reg.hftTimer 31 16) < s.clk.wall →
      ∃ t, exec (.peerTimeout d) s = .next t ∧ (t.conn d).state = .lost ∧ (t.conn d).unacked = [] ∧
        (∀ x ∈ t.hall.streams, x.peer = d → x.stopped = true) ∧
        Reports [(blockSrc 4 0, 0x71, d.val)] 127 s t ∧
        KeepsConns [d.val] s t ∧ KeepsRegs faultRegs s t ∧ OnlyTouches [.regs, .parts, .hall, .flt] s t) ∧
    (c.live = true → (8 ≤ c.delivered ∨ c.outOfOrder = true ∨ ∃ u, c.firstDel = some u ∧ u + usec 1 ≤ s.clk.wall) →
      exec (.acknowledgementDue d) s = .next (s.updConn d (fun c => { c with owedAck := true }))) ∧
    (∀ p : HallPort, s.portFor d = some p.val → s.hallOn = true → ∀ idle : State → Prop, idle = (fun t =>
        (t.conn d).owedAck = false ∧ (t.conn d).barDue = false ∧ (t.conn d).delivered = 0 ∧
        (s.emits p → ∃ g : Frame, t.hall.wire = s.hall.wire ++ [(p, g)] ∧ hdrType g.body = 2 ∧
          hdrAck g.body = c.rxNext % 2 ^ 32 ∧ hdrBarrier g.body = (s.barrierFor d).1 % 2 ^ 32) ∧
        KeepsConns [d.val] s t ∧ OnlyTouches [.hall] s t) →
      ((s.peersOn p).find? (fun d => (s.conn d).barDue || (s.conn d).owedAck) = some d.val →
        (s.maySend d = true → exec (.idleSend p) s = .next (s.sendNext d)) ∧
        (s.maySend d = false → ∃ t, exec (.idleSend p) s = .next t ∧ idle t)) ∧
      ((s.peersOn p).find? (fun d => (s.conn d).barDue || (s.conn d).owedAck) = none →
        (s.hport p).lastSent * 5 + 256 * 6 ≤ s.clk.wall * 5 →
        ((s.peersOn p).find? (fun d => decide ((s.hport p).turn ≤ d)) <|> (s.peersOn p).head?) = some d.val →
        ∃ t, exec (.idleSend p) s = .next t ∧ idle t ∧ (t.hport p).turn = d.val + 1))

/-- Hall barriers (R73, R273, R276 to R280). A participant's arrival becomes the field that its frames to the
coordinator carry; the coordinator records arrivals and, after the last, sets T, the first slot at least MARGIN on,
arms its comparator and sends RELEASE; a participant arms its comparator for T, or, when T is nearer than 64 ns, for
the first slot that is not, counted as moved; a barrier that waits longer than BAR_LIMIT, from the partition's own
arrival or at the coordinator from the first, is reported once; at T the partition's release tick is 42 ticks on. A
comparator of a scheduled start brings the partition's first tick 42 ticks later (R306), and one of a scheduled power
transition asks for its target (R420). The model's own choices it rests on: log 17, log 42 and log 101. -/
def Obligations.HallBarriersRelease : Prop :=
  (∀ (q : QuireId) (s : State) (b : BarrierWait) (g : GroupId) (x : BarGroup),
    (s.part q).barrier = some b → (s.part q).group = some g → s.barGroup g = some x → s.mayForward q b = true →
    ∃ t, exec (.hallBarrierArrive q) s = .next t ∧ (t.part q).barrier = some { b with forwarded := true } ∧
      (x.coord ≠ s.device →
        t.barGroup g = some { x with own := some b.lastAt, field := barField g 1 x.number 0 } ∧
        (t.conn x.coord).barDue = true ∧ KeepsConns [x.coord] s t) ∧
      (x.coord = s.device → s.device ∉ x.arrived → (∃ d ∈ x.members, d ∉ s.device :: x.arrived) →
        ∃ y, t.barGroup g = some y ∧ y.arrived = s.device :: x.arrived ∧ y.first = some (x.first.getD s.clk.wall) ∧
          y.number = x.number ∧ y.release = x.release) ∧
      KeepsParts [q.val] s t ∧ OnlyTouches [.regs, .parts, .hall, .flt] s t) ∧
  (∀ (s : State) (m : BarMsg) (ms : List BarMsg) (g : Nat) (x : BarGroup),
    s.hall.bars = m :: ms → bitsN m.field 3 0 = g → s.barGroup g = some x →
    (bitsN m.field 5 4 = 1 → x.coord = s.device → m.peer ∈ x.members → m.peer ∉ x.arrived → x.cmp < 8 →
      ∃ t y, exec .arrived s = .next t ∧ t.hall.bars = ms ∧ t.barGroup g = some y ∧
        ((∃ d ∈ s.device :: x.members, d ≠ m.peer ∧ d ∉ x.arrived) →
          y.arrived = m.peer :: x.arrived ∧ y.number = x.number) ∧
        ((∀ d ∈ s.device :: x.members, d = m.peer ∨ d ∈ x.arrived) →
          ∀ T, T = roundUp (s.gtime + s.rf Reg.hftBarcfg 15 0) s.slotNs →
          y.arrived = [] ∧ y.number = x.number + 1 ∧ y.release = some T ∧
          (t.reg (Reg.gtbCmp x.cmp)).toNat = T % 2 ^ 64 ∧ t.cmpArmed x.cmp = true ∧
          y.field = barField g 2 x.number (T / 1024) ∧ (∀ d ∈ x.members, (t.conn d).barDue = true)) ∧
        OnlyTouches [.regs, .hall, .flt] s t) ∧
    (bitsN m.field 5 4 = 2 → x.coord = m.peer → x.coord ≠ s.device → x.cmp < 8 →
      ∀ T U, T = extendSlot s.gtime (bitsN m.field 31 14) →
        U = (if s.gtime + 64 ≤ T then T else roundUp (s.gtime + 64) s.slotNs) →
      ∃ t y, exec .release s = .next t ∧ t.hall.bars = ms ∧ t.barGroup g = some y ∧ y.number = x.number + 1 ∧
        y.release = some U ∧ (t.reg (Reg.gtbCmp x.cmp)).toNat = U % 2 ^ 64 ∧ t.cmpArmed x.cmp = true ∧
        t.rf Reg.hftBarstat 31 16 = (if s.gtime + 64 ≤ T then s.rf Reg.hftBarstat 31 16
          else satAdd (2 ^ 16 - 1) (s.rf Reg.hftBarstat 31 16) 1) ∧
        OnlyTouches [.regs, .hall] s t)) ∧
  (∀ (g : GroupId) (s : State) (x : BarGroup) (u : Nat), s.barGroup g = some x → x.timedOut = false →
    (if x.coord = s.device then x.first <|> s.ownArrival x else s.ownArrival x) = some u →
    u + usec (s.rf Reg.hftTimer 47 32) < s.clk.wall →
    ∃ t, exec (.barrierTimeout g) s = .next t ∧ t.barGroup g = some { x with timedOut := true } ∧
      Reports [(blockSrc 0 x.part, 0x41, g.val + (if x.coord = s.device then 16 else 0))] x.part s t ∧
      KeepsRegs faultRegs s t ∧ OnlyTouches [.regs, .hall, .flt] s t) ∧
  (∀ (k : CmpId) (s : State) (i : Nat), s.cmpArmed k = true → (s.reg (Reg.gtbCmp k)).toNat ≤ s.gtime →
    i = fld (s.reg (Reg.gtbCmp k + 8)) 15 8 →
    (∀ x, fld (s.reg (Reg.gtbCmp k + 8)) 2 0 = 1 → s.barGroup i = some x →
      ∃ t, exec (.comparatorFire k) s = .next t ∧ t.cmpArmed k = false ∧ t.barGroup i = some { x with release := none } ∧
        (∀ b, (s.part x.part).barrier = some b → b.forwarded = true →
          (t.part x.part).barrier = some { b with release := some ((s.part x.part).tick + 42) }) ∧
        KeepsParts [x.part] s t ∧ KeepsRegs [Reg.gtbCmp k, Reg.gtbCmp k + 8] s t ∧
        OnlyTouches [.regs, .parts, .hall] s t) ∧
    (fld (s.reg (Reg.gtbCmp k + 8)) 2 0 = 2 →
      ∃ t, exec (.comparatorFire k) s = .next t ∧ t.cmpArmed k = false ∧ t.cmpOwner k = 0 ∧
        t.part i = { s.part i with resumeIn := some 42 } ∧ KeepsParts [i] s t ∧
        KeepsRegs [Reg.gtbCmp k, Reg.gtbCmp k + 8] s t ∧ OnlyTouches [.regs, .parts] s t) ∧
    (fld (s.reg (Reg.gtbCmp k + 8)) 2 0 = 3 → exec (.comparatorFire k) s = .next ((s.freeCmpAt k).firePower i)))

/-- Multicast transfers and WAKE frames (R257, R287 to R289, R406). A receiver writes a part it does not hold at its
address; it answers MPOLL by DONE when nothing is missing, and else by NACK with the missing ranges; the source notes
what a NACK asks, polls when a transfer's time has come, sends what was asked after the 50 µs for answers, completes
the descriptor when every member is done, and after the eighth round ends it PARTIAL. A WAKE frame wakes a module in
S1 or S2. The model's own choices it rests on: log 43 and log 82. -/
def Obligations.MulticastRepairs : Prop :=
  ∀ (s : State),
    (∀ f fs, s.hall.frames = f :: fs →
      (hdrType f.hdr = 3 → (∀ x, s.mrxOf (bitsN (hdrDst f.hdr) 3 0) (hdrSrc f.hdr) (hdrStream f.hdr) = some x →
          hdrSeq f.hdr ∉ x.got) → s.dramErr = [] →
        s.inDram (leAt f.body 0 8) (f.body.drop 8).length = true →
        ∃ t y, exec .mdata s = .next t ∧ t.rd (leAt f.body 0 8) (f.body.drop 8).length = f.body.drop 8 ∧
          t.mrxOf (bitsN (hdrDst f.hdr) 3 0) (hdrSrc f.hdr) (hdrStream f.hdr) = some y ∧ hdrSeq f.hdr ∈ y.got ∧
          t.hall.frames = fs ∧ KeepsBytes (leAt f.body 0 8) (f.body.drop 8).length s t ∧
          OnlyTouches [.mem, .parts, .hall] s t) ∧
      (hdrType f.hdr = 4 → (s.conn (hdrSrc f.hdr)).state = .opened → ∀ got gaps body,
        got = (match s.mrxOf (bitsN (hdrDst f.hdr) 3 0) (hdrSrc f.hdr) (hdrStream f.hdr) with
          | some x => x.got
          | none => []) →
        gaps = missing got (leAt f.body 0 4) 0 →
        body = (gaps.take 1024).flatMap (fun r => leBytes 4 r.1 ++ leBytes 4 r.2) →
        ((∀ i, i < leAt f.body 0 4 → i ∈ got) →
          exec .mpoll s = .next (s.nextFrame.queueCtrl (hdrSrc f.hdr) (ctrlMsg 7 (hdrStream f.hdr) []))) ∧
        ((∃ i, i < leAt f.body 0 4 ∧ i ∉ got) →
          exec .mpoll s = .next ((s.nextFrame.passStaging body).sendTo (hdrSrc f.hdr) 5 0 (s.conn (hdrSrc f.hdr)).txSeq
            (hdrStream f.hdr) body))) ∧
      (hdrType f.hdr = 5 → ∃ t, exec .nack s = .next t ∧ t.hall.frames = fs ∧
        (∀ x ∈ s.hall.mtx, x.id = hdrStream f.hdr → hdrSrc f.hdr ∈ x.members →
          ∃ y ∈ t.hall.mtx, y.id = x.id ∧ y.desc = x.desc ∧
            (∀ i, i ∈ y.wanted ↔ i ∈ x.wanted ∨ i ∈ (chunks 8 f.body).flatMap (fun r =>
              (List.range (min (leAt r 4 4) (x.frames - leAt r 0 4))).map (fun k => leAt r 0 4 + k)))) ∧
        OnlyTouches [.regs, .mem, .sramErr, .parts, .hall, .flt] s t) ∧
      (hdrType f.hdr = 6 → (s.pwr.state = .s1 ∨ s.pwr.state = .s2) → s.boot.supplies = true → s.pwr.waking = none →
        ∃ t, exec .wakeFrame s = .next t ∧ t.hall.frames = fs ∧
          t.pwr = { s.pwr with waking := some (s.clk.wall, .frame), heldWake := none } ∧ OnlyTouches [.hall, .pwr] s t)) ∧
    (∀ x, s.hall.mtx = [x] →
      (x.left = [] → exec .multicastPoll s =
        .next (({ s with hall := { s.hall with mtx := [] } } : State).complete x.desc stDone 0 0)) ∧
      (x.left ≠ [] → x.pollAt ≤ s.clk.wall →
        (x.polled = false →
          ∃ t, exec .multicastPoll s = .next t ∧
            t.hall.mtx = [{ x with polled := true, pollAt := s.clk.wall + usec 50 }] ∧ t.hall.conns = s.hall.conns ∧
            OnlyTouches [.regs, .mem, .sramErr, .hall, .flt] s t) ∧
        (x.polled = true → x.round < 7 →
          ∃ t, exec .multicastPoll s = .next t ∧
            t.hall.mtx = [{ x with polled := false, wanted := [], round := x.round + 1, pollAt := s.clk.wall + usec 20 }] ∧
            t.hall.conns = s.hall.conns ∧ OnlyTouches [.regs, .mem, .sramErr, .hall, .flt] s t) ∧
        (x.polled = true → 7 ≤ x.round → ∀ u, u = s.sendParts x x.wanted →
          exec .multicastPoll s = .next (({ u with hall := { u.hall with mtx := [] } } : State).endPartial x))))

/-- The hall's control (R254, R260, R262, R263, R281, R284, R349, R398). VALID written 1 opens a connection with an
OPEN at SEQ 0, and written 0 closes it and stops its streams; MODE and MEDIUM take the link down; a link goes down and
comes up in its mode; a secure association that is agreed waits for its entropy and then becomes the newest of at most
two; GTIME is stepped while no comparator is armed; a read of GTB_NS latches the fraction; SLOCK and LOCK follow the
servo. The model's own choices it rests on: log 40, log 70 and log 129. -/
def Obligations.HallControlWrites : Prop :=
  ∀ (s : State) (who : Requester),
    (∀ d : PeerId, s.writeReaches who (Reg.hftPeer d) = true → d.val ≠ s.device →
      (bit (s.reg (Reg.hftPeer d)) 60 = false →
        ∃ t f, exec (.peerValidWrite who d true) s = .next t ∧ (t.conn d).state = .opening ∧ (t.conn d).txSeq = 1 ∧
          (t.conn d).unacked = [f] ∧ f.isCtrl = true ∧ f.seq = 0 ∧ f.sends = 1 ∧
          (s.slotsOf 4 = [] → f.payload = openMsg 1 (t.conn d).granted) ∧
          (t.conn d).heard = s.clk.wall ∧ bit (t.reg (Reg.hftPeer d)) 60 = true ∧
          KeepsConns [d.val] s t ∧ KeepsRegs [Reg.hftPeer d, Reg.hftCfg] s t ∧
          OnlyTouches [.regs, .mem, .sramErr, .hall] s t) ∧
      (bit (s.reg (Reg.hftPeer d)) 60 = true →
        ∃ t, exec (.peerValidWrite who d false) s = .next t ∧ t.conn d = {} ∧ bit (t.reg (Reg.hftPeer d)) 60 = false ∧
          (∀ x ∈ t.hall.streams, x.peer = d → x.stopped = true) ∧
          KeepsConns [d.val] s t ∧ KeepsRegs [Reg.hftPeer d] s t ∧ OnlyTouches [.regs, .parts, .hall] s t)) ∧
    (∀ (p : HallPort) (mode : BitVec 2) (medium : Bool), s.writeReaches who (Reg.hfbPortcfg p) = true →
      (mode ≠ 3 → ∃ t, exec (.portModeWrite who p mode medium) s = .next t ∧ t.rf (Reg.hfbPortcfg p) 1 0 = mode.toNat ∧
        bit (t.reg (Reg.hfbPortcfg p)) 2 = medium ∧ t.linkUp p = false ∧
        KeepsRegs [Reg.hfbPortcfg p, Reg.hfbPortstat p] s t ∧ OnlyTouches [.regs] s t) ∧
      (mode = 3 → exec (.portModeWrite who p mode medium) s = .next s)) ∧
    (∀ p : HallPort,
      (∃ t, exec (.hallLinkDown p) s = .next t ∧ t.linkUp p = false ∧
        t.rf (Reg.hfbPortstat p) 47 32 = (if s.linkUp p then satAdd (2 ^ 16 - 1) (s.rf (Reg.hfbPortstat p) 47 32) 1
          else s.rf (Reg.hfbPortstat p) 47 32) ∧
        KeepsRegs [Reg.hfbPortstat p] s t ∧ OnlyTouches [.regs] s t) ∧
      ((s.rf (Reg.hfbPortcfg p) 1 0 = 1 ∨ s.rf (Reg.hfbPortcfg p) 1 0 = 2) → p.val ∈ s.boot.hallPorts →
        ∃ t, exec (.hallLinkUp p) s = .next t ∧ t.linkUp p = true ∧
          t.rf (Reg.hfbPortstat p) 3 2 = s.rf (Reg.hfbPortcfg p) 1 0 ∧
          KeepsRegs [Reg.hfbPortstat p] s t ∧ OnlyTouches [.regs] s t) ∧
      (∀ (an : BitVec 2) (xpn transmit : Bool) (key : BitVec 256),
        (s.ent.state = .fatal → exec (.macsecRekey p an xpn key transmit) s = .next s) ∧
        (s.ent.state.serves = false → s.ent.state ≠ .fatal →
          exec (.macsecRekey p an xpn key transmit) s = .next { s with hall := { s.hall with
            keying := s.hall.keying ++ [⟨p, transmit, ⟨an.toNat, xpn, key, 1⟩⟩] } }) ∧
        (s.ent.state = .normal → s.hall.keying = [] → 64 ≤ s.ent.out.length →
          ∃ t n, exec (.macsecRekey p an xpn key transmit) s = .next t ∧ 32 ≤ n ∧ n ≤ 64 ∧
            t.ent = { s.ent with out := s.ent.out.drop n } ∧ t.hall.keying = [] ∧
            (transmit = true → t.hport p = { s.hport p with tx := ⟨an.toNat, xpn, key, 1⟩ :: (s.hport p).tx.take 1 }) ∧
            (transmit = false → t.hport p = { s.hport p with rx := ⟨an.toNat, xpn, key, 1⟩ :: (s.hport p).rx.take 1 }) ∧
            t.hall.conns = s.hall.conns ∧ OnlyTouches [.hall, .ent] s t))) ∧
    (∀ delta : U64, s.writeReaches who Reg.gtbStep = true →
      ((∀ k, k < 8 → s.cmpArmed k = false) →
        exec (.gtbStepWrite who delta) s = .next { s with clk := { s.clk with gtimeNs := s.clk.gtimeNs + delta } }) ∧
      ((∃ k, k < 8 ∧ s.cmpArmed k = true) →
        ∃ t, exec (.gtbStepWrite who delta) s = .next t ∧ t.rf Reg.gtbStatus 18 18 = 1 ∧
          KeepsRegs [Reg.gtbStatus] s t ∧ OnlyTouches [.regs] s t)) ∧
    (s.boot.published = true → (who.isPort = true → s.asleep = false ∨ asleepRead Reg.gtbNs = true) →
      ∃ t, exec (.gtbNsRead who) s = .next t ∧ t.readData = s.clk.gtimeNs ∧ t.readBytes = leBytes 8 s.gtime ∧
        (who ≠ .hall → who ≠ .bar4 → t.rf Reg.gtbStatus 15 0 = s.clk.gtimeFrac.toNat) ∧
        KeepsRegs [Reg.gtbStatus] s t ∧ OnlyTouches [.regs, .readData, .readBytes] s t) ∧
    (∀ within1 within4 synce, ∃ t, exec (.gtbLocked within1 within4 synce) s = .next t ∧
      t.rf Reg.gtbStatus 17 17 = (if synce then 1 else 0) ∧
      t.rf Reg.gtbStatus 16 16 = (if within1 && synce then 1 else if within4 then s.rf Reg.gtbStatus 16 16 else 0) ∧
      KeepsRegs [Reg.gtbStatus] s t ∧ OnlyTouches [.regs] s t)

/-! ## The host ports (R186, R224 to R229, R275, R294 to R312, R318, R319, R328 to R337) -/

/-- The rings of a port (R295, R297 to R300). A descriptor is fetched from an enabled pair with work while the
completion ring has room; the oldest completion owed is written with its phase bit, and signalled when asked, at once
or when IRQ_COUNT such have come; the moderation time sends the vector; enabling starts a pair anew, and disabling
discards what it owes. Doorbells (R296, R297, R312, R186): a 4 B write of a tail or head inside an enabled ring moves
it, and a head of a drain ring moves to a record boundary; any other value is discarded and counted; a write of
another size, or in S3, has no effect; in a sleep state the write also wakes the module (R406). The model's own
choices it rests on: log 12, log 77, log 78 and log 126. -/
def Obligations.HostRingsMove : Prop :=
  (∀ (p : Port) (r : RingId) (s : State) (x : RingPair), s.ringPair p r = x →
      (∀ bytes, s.pairOn p r = true → x.sqHead ≠ x.sqTail → s.cqFull p r = false → s.asleep = false →
        s.desc ⟨p, r, BitVec.ofNat 16 x.fetched⟩ = none →
        ∃ t, exec (.descriptorFetch p r bytes) s = .next t ∧
          t.descs = s.descs ++ [({ ref := ⟨p, r, BitVec.ofNat 16 x.fetched⟩, bytes := padTo 64 bytes
                                   head := (x.sqHead + 1) % ringSize (s.reg (Reg.hstSq p.num r)), fetchedAt := s.mc } : Desc)] ∧
          t.ringPair p r = { x with sqHead := (x.sqHead + 1) % ringSize (s.reg (Reg.hstSq p.num r))
                                    fetched := x.fetched + 1 } ∧
          OnlyTouches [.rings, .descs] s t) ∧
      (∀ bytes, (s.pairOn p r = false ∨ x.sqHead = x.sqTail ∨ s.cqFull p r = true ∨ s.asleep = true) →
        exec (.descriptorFetch p r bytes) s = .next s) ∧
      (∀ bs irq rest v n a, x.owed = (bs, irq) :: rest → s.pairOn p r = true → s.cqFull p r = false → s.asleep = false →
        v = s.reg (Reg.hstCq p.num r) → a = fld v 63 12 * 4096 + 32 * x.cqTail →
        n = fld (s.reg (Reg.hstRingcfg p.num r)) 15 8 →
        ∃ t, exec (.completionPost p r) s = .next t ∧
          t.host p a bs.length = bs.set 6 (if x.phase then 1 else 0) ∧
          (∀ k, (k < a ∨ a + bs.length ≤ k) → t.host p k 1 = s.host p k 1) ∧
          (t.ringPair p r).owed = rest ∧ (t.ringPair p r).cqTail = (x.cqTail + 1) % ringSize v ∧
          (t.ringPair p r).phase = (if (x.cqTail + 1) % ringSize v = 0 then !x.phase else x.phase) ∧
          ((irq = false ∨ x.irqs + 1 < n) → t.msix = s.msix) ∧
          (irq = true → x.irqs + 1 < n → (t.ringPair p r).irqs = x.irqs + 1 ∧
            (t.ringPair p r).irqSince = some (x.irqSince.getD s.clk.wall)) ∧
          (irq = true → n ≤ x.irqs + 1 → (t.ringPair p r).irqs = 0 ∧ (t.ringPair p r).irqSince = none ∧
            (s.rf (Reg.hstPortstat p.num) 0 0 = 1 →
              s.vectorMasked p (fld (s.reg (Reg.hstRingcfg p.num r)) 7 0) = false →
              t.msix = s.msix ++ [(p, fld (s.reg (Reg.hstRingcfg p.num r)) 7 0)])) ∧
          OnlyTouches [if p = .a then .hostA else .hostB, .rings, .msix] s t) ∧
      (∀ u, x.irqSince = some u →
        (u + usec (fld (s.reg (Reg.hstRingcfg p.num r)) 31 16) ≤ s.clk.wall →
          ∃ t, exec (.interruptModerationTimeout p r) s = .next t ∧
            (s.rf (Reg.hstPortstat p.num) 0 0 = 1 →
              s.vectorMasked p (fld (s.reg (Reg.hstRingcfg p.num r)) 7 0) = false →
              t.msix = s.msix ++ [(p, fld (s.reg (Reg.hstRingcfg p.num r)) 7 0)]) ∧
            t.ringPair p r = { x with irqs := 0, irqSince := none } ∧ OnlyTouches [.rings, .msix] s t) ∧
        (s.clk.wall < u + usec (fld (s.reg (Reg.hstRingcfg p.num r)) 31 16) →
          exec (.interruptModerationTimeout p r) s = .next s)) ∧
      (∀ sq cq : Bool,
        (s.writeReaches p.who (Reg.hstSq p.num r) = false → exec (.ringEnable p r sq cq) s = .next s) ∧
        (s.writeReaches p.who (Reg.hstSq p.num r) = true →
          ∃ t, exec (.ringEnable p r sq cq) s = .next t ∧
            bit (t.reg (Reg.hstSq p.num r)) 5 = sq ∧ bit (t.reg (Reg.hstCq p.num r)) 5 = cq ∧
            (s.pairOn p r = false → sq = true → cq = true →
              t.ringPair p r = { fetched := x.fetched } ∧ t.descs = s.descs) ∧
            (s.pairOn p r = true → (sq = false ∨ cq = false) →
              t.ringPair p r = { x with owed := [], irqs := 0, irqSince := none } ∧ t.descs = orphanRing p r s.descs) ∧
            (s.pairOn p r = true → sq = true → cq = true → t.ringPair p r = x ∧ t.descs = s.descs) ∧
            (s.pairOn p r = false → (sq = false ∨ (cq = false ∧ bit (s.reg (Reg.hstCq p.num r)) 5 = false)) →
              t.ringPair p r = x ∧ t.descs = s.descs) ∧
            (s.pairOn p r = false → sq = true → cq = false → bit (s.reg (Reg.hstCq p.num r)) 5 = true →
              t.ringPair p r = { fetched := x.fetched } ∧ t.descs = orphanRing p r s.descs) ∧
            KeepsRegs [Reg.hstSq p.num r, Reg.hstCq p.num r] s t ∧ OnlyTouches [.regs, .rings, .descs] s t))) ∧
  (∀ (p : Port) (r : RingId) (v : U32) (s u : State),
      ((s.pwr.state = .s0 ∧ s.pwr.entry = none ∧ s.pwr.request = none ∧ u = s) ∨
        (s.pwr.state ≠ .s3 ∧ s.boot.supplies = false ∧ u = s) ∨
        ((s.pwr.state = .s1 ∨ s.pwr.state = .s2) ∧ s.pwr.waking.isSome = true ∧ u = s) ∨
        (s.pwr.state = .s0 ∧ (s.pwr.entry.isSome = true ∨ s.pwr.request.isSome = true) ∧ s.boot.supplies = true ∧
          u = { s with pwr := { s.pwr with heldWake := some (s.pwr.heldWake.getD .doorbell) } }) ∨
        ((s.pwr.state = .s1 ∨ s.pwr.state = .s2) ∧ s.boot.supplies = true ∧ s.pwr.waking = none ∧
          u = { s with pwr := { s.pwr with waking := some (s.clk.wall, .doorbell), heldWake := none } })) →
      (s.pairOn p r = true → v.toNat < ringSize (s.reg (Reg.hstSq p.num r)) →
        exec (.sqTail p r v 4) s = .next (u.updRing p r (fun x => { x with sqTail := v.toNat }))) ∧
      (s.pairOn p r = true → v.toNat < ringSize (s.reg (Reg.hstCq p.num r)) →
        exec (.cqHead p r v 4) s = .next (u.updRing p r (fun x => { x with cqHead := v.toNat }))) ∧
      ((s.pairOn p r = false ∨ ringSize (s.reg (Reg.hstSq p.num r)) ≤ v.toNat) →
        exec (.sqTail p r v 4) s = .next (u.count (Reg.hstPortstat p.num) 31 16 1)) ∧
      ((s.pairOn p r = false ∨ ringSize (s.reg (Reg.hstCq p.num r)) ≤ v.toNat) →
        exec (.cqHead p r v 4) s = .next (u.count (Reg.hstPortstat p.num) 31 16 1)) ∧
      (∀ ok, r.val < 96 →
        ok = (bit (s.reg (Reg.hstDrain r)) 5 && headOk s.hostB (fld (s.reg (Reg.hstDrain r)) 63 12 * 4096)
          (2 ^ fld (s.reg (Reg.hstDrain r)) 4 0) (s.part r).drain.hHead (s.part r).drain.hTail v.toNat) →
        (ok = true → exec (.drainHead .b r v 4) s =
          .next (u.updPart r (fun q => { q with drain := { q.drain with hHead := v.toNat } }))) ∧
        (ok = false → exec (.drainHead .b r v 4) s = .next (u.count (Reg.hstPortstat 1) 31 16 1))) ∧
      (r.val < 96 →
        (∀ base n, (s.part r).ldrain = some (base, n) →
          (headOk s.mem base n (s.part r).drain.lHead (s.part r).drain.lTail v.toNat = true →
            exec (.ldrainHead p r v 4) s =
              .next (u.updPart r (fun q => { q with drain := { q.drain with lHead := v.toNat } }))) ∧
          (headOk s.mem base n (s.part r).drain.lHead (s.part r).drain.lTail v.toNat = false →
            exec (.ldrainHead p r v 4) s = .next (u.count (Reg.hstPortstat p.num) 31 16 1))) ∧
        ((s.part r).ldrain = none →
          exec (.ldrainHead p r v 4) s = .next (u.count (Reg.hstPortstat p.num) 31 16 1)))) ∧
  (∀ (p : Port) (r : RingId) (v : U32) (size : Nat) (s : State), (size ≠ 4 ∨ s.pwr.state = .s3) →
      exec (.sqTail p r v size) s = .next s ∧ exec (.cqHead p r v size) s = .next s ∧
      exec (.drainHead p r v size) s = .next s ∧ exec (.ldrainHead p r v size) s = .next s)

/-- The life of a descriptor (R301 to R303, R305, R307, R314). It starts when its class and ORDER allow, after the
writes to ARR_MODE of the same cycle where it is one that they go before (R212), or completes at once with the status
of the first failing check; a FENCE completes; a HALT of a stopped or faulted partition completes, and of a running
one asks the run to stop and waits. A watchdog completes its descriptor TIMEOUT: a waiting operation ends at once, and
a run, a load or a data mover goes on to the place where it stops. The model's own choices it rests on: log 17, log 84
and log 121. -/
def Obligations.DescriptorsStartAndEnd : Prop :=
  ∀ (d : DescRef) (s : State) (x : Desc),
    (s.desc d = some x → x.phase = .waiting → x.expired = false →
      ((s.mayStart x = false ∨ s.asleep = true) → exec (.descriptorStart d) s = .next s) ∧
      (∀ u, s.mayStart x = true → s.asleep = false → u = (if x.opcode ∈ [1, 5, 6] then s.modeFirst else s) →
        (u.startStatus x = none → exec (.descriptorStart d) s =
          .next (u.updDesc d (fun x => { x with phase := .running, since := s.clk.wall }))) ∧
        (∀ st, u.startStatus x = some st →
          ∃ t, exec (.descriptorStart d) s = .next t ∧ DoneAs x st 0 0 s t ∧ t.regs = u.regs ∧
            OnlyTouches [.regs, .rings, .descs] s t))) ∧
    (s.begun d 14 = some x →
      ∃ t, exec (.fence d) s = .next t ∧ DoneAs x stDone 0 0 s t ∧ OnlyTouches [.rings, .descs] s t) ∧
    (s.begun d 3 = some x →
      (((s.part d.ring).run ≠ .running ∨ (s.part d.ring).faulted = true) →
        ∃ t, exec (.halt d) s = .next t ∧ DoneAs x stDone 0 0 s t ∧ OnlyTouches [.rings, .descs] s t) ∧
      ((s.part d.ring).run = .running → (s.part d.ring).faulted = false → d ∉ (s.part d.ring).halts →
        exec (.halt d) s = .next (s.updPart d.ring (fun p => { p with
          halts := p.halts ++ [d]
          job := p.job.map (fun j => { j with stop := some (max (x.arg 0x10 1) (j.stop.getD 0)) }) }))) ∧
      ((s.part d.ring).run = .running → (s.part d.ring).faulted = false → d ∈ (s.part d.ring).halts →
        exec (.halt d) s = .next s)) ∧
    (s.desc d = some x → x.phase = .running → x.expired = false → x.watchdog ≠ 0 →
      (s.clk.wall ≤ x.since + usec x.watchdog → exec (.descriptorWatchdog d) s = .next s) ∧
      (x.since + usec x.watchdog < s.clk.wall →
        (x.opcode ≠ 8 → (x.opcode = 7 → (x.arg 0x28 1).testBit 2 = true) →
          (∀ l, (s.part d.ring).load = some l → l.desc ≠ d) →
          (∀ j, (s.part d.ring).job = some j → j.desc = d → j.going = false ∧ j.ended = none) →
          ∃ t, exec (.descriptorWatchdog d) s = .next t ∧ DoneAs x stTimeout 0 0 s t ∧
            d ∉ (t.part d.ring).halts ∧ (∀ y ∈ (t.part d.ring).tables, y.desc ≠ d) ∧
            (∀ y, (t.part d.ring).restore = some y → y.1 ≠ d) ∧
            (∀ j, (s.part d.ring).job = some j → (t.part d.ring).job = if j.desc = d then none else some j) ∧
            t.hall.mtx = s.hall.mtx.filter (fun y => y.desc != d) ∧ t.hall.conns = s.hall.conns ∧
            KeepsParts [d.ring.val] s t ∧ KeepsRegs cmpRegs s t ∧ OnlyTouches [.regs, .parts, .hall, .rings, .descs] s t) ∧
        ((x.opcode = 8 ∨ (x.opcode = 7 ∧ (x.arg 0x28 1).testBit 2 = false) ∨
            (∃ l, (s.part d.ring).load = some l ∧ l.desc = d) ∨
            (∃ j, (s.part d.ring).job = some j ∧ j.desc = d ∧ (j.going = true ∨ j.ended.isSome = true))) →
          ∃ t, exec (.descriptorWatchdog d) s = .next t ∧ t.desc d = some { x with expired := true } ∧
            (t.ringPair d.port d.ring).owed = (s.ringPair d.port d.ring).owed ++ (if x.orphan then [] else
              [(completionBytes x stTimeout 0 0 s.gtime, (leAt x.bytes 1 1).testBit 0)]) ∧
            (∀ j, (s.part d.ring).job = some j → j.desc = d → (j.going = true ∨ j.ended.isSome = true) →
              (t.part d.ring).job = some { j with stop := some 1 }) ∧
            (t.part d.ring).load = (s.part d.ring).load ∧ t.hall.conns = s.hall.conns ∧
            KeepsParts [d.ring.val] s t ∧ KeepsRegs cmpRegs s t ∧ OnlyTouches [.regs, .parts, .hall, .rings, .descs] s t)))

/-- A load (R34, R92, R175 to R183). A LOAD_BINDING whose checks pass starts the broadcast: the cores are EMPTY with
their tile memory zeroed, the partition holds the new Binding, and the descriptor goes on; one whose image or checks
fail completes with the first failure, the partition as before. No segment comes while an earlier load holds a
channel; a core accepts a good segment that it was sent and does not hold, and writes its bytes, and discards any
other unwritten. Forty ac after the broadcast or a round has ended the absent segments are sent again, twice, and then
the load ends PARTIAL with every absent segment reported. When every core has all, the partition is LOADED at tick 0,
sweep 0, and the load is done. The model's own choices it rests on: log 93, log 94, log 95, log 114 and log 115. -/
def Obligations.LoadsComplete : Prop :=
  (∀ (d : DescRef) (s : State) (x : Desc), s.begun d 1 = some x →
    ((s.part d.ring).load.isSome = true → exec (.loadBinding d) s = .next s) ∧
    ((s.part d.ring).load = none →
      (∀ st u, s.readImage d.ring (x.arg 0x10 8) = (.error st, u) →
        exec (.loadBinding d) s = .next (u.complete d st 0 0)) ∧
      (∀ m u seed, s.readImage d.ring (x.arg 0x10 8) = (.ok m, u) →
        seed = (if (x.arg 0x18 1).testBit 0 then some (slice x.bytes 0x20 32) else none) →
        (Image.ok m s.device d.ring (s.part d.ring).qcols seed.isSome = false →
          exec (.loadBinding d) s = .next (u.complete d stBad 0 0)) ∧
        (Image.ok m s.device d.ring (s.part d.ring).qcols seed.isSome = true →
          (∀ st, u.loadStatus d.ring m = some st → exec (.loadBinding d) s = .next (u.complete d st 0 0)) ∧
          (u.loadStatus d.ring m = none →
            (∀ st, u.keyStep m seed = .fails st → exec (.loadBinding d) s = .next (u.complete d st 0 0)) ∧
            (u.keyStep m seed = .waits → exec (.loadBinding d) s = .next s) ∧
            (∀ k v, u.keyStep m seed = .key k v →
              ((v.freeRegions d.ring).allocAll d.ring
                  (m.regionReqs.zip ((v.placeRegions d.ring m.regionReqs).getD [])) = none →
                exec (.loadBinding d) s = .next (v.complete d stConflict 0 0)) ∧
              (∀ w regions, (v.freeRegions d.ring).allocAll d.ring
                  (m.regionReqs.zip ((v.placeRegions d.ring m.regionReqs).getD [])) = some (w, regions) →
                ∃ t, exec (.loadBinding d) s = .next t ∧ (t.part d.ring).run = .empty ∧
                  (t.part d.ring).binding = some (m.binding d.ring regions) ∧
                  (t.part d.ring).load = some { desc := d, image := m, since := s.mc, seed := seed, key := k,
                                                gone := (Image.segments m).isEmpty } ∧
                  (t.part d.ring).rings = [] ∧ t.reg (Reg.prtLoadstat d.ring) = 127 ∧
                  (∀ n ∈ s.partCores d.ring, t.core n = (s.core n).toLoad ∧
                    ∀ a, a < 0x20000 → t.byteAt (coreBase n + a) = 0) ∧
                  (∀ a, (∀ n ∈ s.partCores d.ring, a < coreBase n ∨ coreBase n + 0x20000 ≤ a) → t.byteAt a = s.byteAt a) ∧
                  t.hall.conns = s.hall.conns ∧
                  KeepsRegs (Reg.prtLoadstat d.ring :: dramRegs ++ (List.range 128).map Reg.arrEbregion) s t ∧
                  KeepsCores (s.partCores d.ring) s t ∧ KeepsParts [d.ring.val] s t ∧
                  OnlyTouches [.regs, .mem, .sramErr, .cores, .parts, .hall, .ent, .flt] s t))))))) ∧
  (∀ (c : CoreId) (seg : Nat) (good : Bool) (s : State) (q : Nat) (l : Load) (g : Seg) (k : Nat) (y : CoreState)
      (takes : Bool),
    s.partOfCore c = some q → (s.part q).load = some l → (Image.segments l.image)[seg]? = some g → k = s.coreIndex q c →
    y = (if g.dest = classDest ∧ (s.core c).expect.isNone then (s.core c).takeEntry (leAt (g.piece k) 0 4) else s.core c) →
    takes = (good && l.sends g k (s.core c) && decide (g.index < y.expect.getD 0) &&
      !(s.core c).receipts.contains g.index) →
    ((s.loadWaits q l = true ∨ l.comes k seg = false) → exec (.segmentReceive c seg good) s = .next s) ∧
    (s.loadWaits q l = false → l.comes k seg = true →
      ∃ t, exec (.segmentReceive c seg good) s = .next t ∧ t.part q = { s.part q with load := some (l.past k seg) } ∧
        KeepsParts [q] s t ∧ KeepsCores [c.val] s t ∧
        (takes = false → t.cores = s.cores ∧ (∀ a, a < 0x4100000000 → t.byteAt a = s.byteAt a) ∧
          KeepsRegs faultRegs s t ∧ OnlyTouches [.regs, .mem, .sramErr, .parts, .flt] s t) ∧
        (takes = true → t.core c = { y with receipts := g.index :: (s.core c).receipts } ∧
          (g.dest ≠ setupDest → g.dest ≠ classDest → s.cleanAt (coreBase c + g.dest) (g.piece k).length →
            t.rd (coreBase c + g.dest) (g.piece k).length = g.piece k ∧
            (∀ a, a < 0x4100000000 → (a < coreBase c + g.dest ∨ coreBase c + g.dest + (g.piece k).length ≤ a) →
              t.byteAt a = s.byteAt a) ∧ KeepsRegs faultRegs s t) ∧
          (g.dest = setupDest → (∀ a, a < 0x4100000000 → t.byteAt a = s.byteAt a) ∧
            t.reg (Reg.coreEntry c) = BitVec.ofNat 64 (leAt (padTo 352 (g.piece k)) 0x18 8) ∧
            t.reg (Reg.coreLanecfg c) = BitVec.ofNat 64 (leAt (padTo 352 (g.piece k)) 0x20 8) ∧
            (∀ i, i < 16 → t.reg (Reg.corePtr c i) = BitVec.ofNat 64 (leAt (padTo 352 (g.piece k)) (0x40 + 8 * i) 8)) ∧
            (∀ i, i < 8 → t.reg (Reg.coreIdreg c i) = BitVec.ofNat 64 (leAt (padTo 352 (g.piece k)) (0xC0 + 16 * i) 8) ∧
              t.reg (Reg.coreIdreg c i + 8) = BitVec.ofNat 64 (leAt (padTo 352 (g.piece k)) (0xC8 + 16 * i) 8)) ∧
            (∀ i, i < 4 → t.reg (Reg.coreOutprof c i) =
              BitVec.ofNat 64 (leAt (padTo 352 (g.piece k)) (0x140 + 8 * i) 8))) ∧
          OnlyTouches [.regs, .mem, .sramErr, .cores, .parts, .flt] s t))) ∧
  (∀ (q : QuireId) (s : State) (l : Load) (bad : List ((Nat × Nat) × List (Option (Seg × Nat)))),
    (s.part q).load = some l → bad = s.lacking q l.image →
    ((bad = [] ∨ l.gone = false ∨ l.quiet < 40) → exec (.loadRepairRound q) s = .next s) ∧
    (bad ≠ [] → l.gone = true → 40 ≤ l.quiet → l.round < 2 →
      ∃ t, exec (.loadRepairRound q) s = .next t ∧
        t.part q = { s.part q with load := some { l with
          round := l.round + 1, resend := resendsOf bad, gone := (resendsOf bad).isEmpty, quiet := 0 } } ∧
        t.rf (Reg.prtLoadstat q) 17 16 = l.round + 1 ∧
        t.rf (Reg.prtLoadstat q) 63 32 = satAdd (2 ^ 32 - 1) (s.rf (Reg.prtLoadstat q) 63 32) (resendsOf bad).length ∧
        KeepsParts [q.val] s t ∧ KeepsRegs [Reg.prtLoadstat q] s t ∧ OnlyTouches [.regs, .parts] s t) ∧
    (∀ low, bad ≠ [] → l.gone = true → 40 ≤ l.quiet → 2 ≤ l.round →
      low = (bad.map (fun e => quireOf e.1.1)).foldl min 127 →
      ∃ t, exec (.loadRepairRound q) s = .next t ∧
        t.part q = { s.part q with load := none, binding := none, faulted := true } ∧
        (∀ x, s.desc l.desc = some x → x.expired = false → DoneAs x stPartial low 0 s t) ∧
        t.rf (Reg.prtLoadstat q) 6 0 = low ∧ t.rf (Reg.prtLoadstat q) 15 8 = min 255 bad.length ∧
        (s.flt.queue.length + (bad.flatMap (fun e => e.2)).length ≤ 64 → ∀ e ∈ bad, ∀ g ∈ e.2,
          ⟨faultMsg e.1.1 0x90 ((g.map (fun x => x.1.id)).getD 0), s.coreTag e.1.1, s.mc⟩ ∈ t.flt.queue) ∧
        (∀ n ∈ s.partCores q, t.core n = if (s.core n).complete then { s.core n with mode := .loaded, absorb := false }
          else s.core n) ∧
        KeepsCores (s.partCores q) s t ∧ KeepsParts [q.val] s t ∧
        KeepsRegs (Reg.prtLoadstat q :: hostRegs ++ faultRegs) s t ∧
        OnlyTouches [.regs, .cores, .parts, .rings, .descs, .flt] s t) ∧
    (∀ b, (s.part q).binding = some b →
      ((∃ n ∈ s.partCores q, (s.core n).complete = false) → exec (.loadComplete q) s = .next s) ∧
      ((∀ n ∈ s.partCores q, (s.core n).complete = true) →
        ∃ t, exec (.loadComplete q) s = .next t ∧ (t.part q).run = .loaded ∧ (t.part q).point = 3 ∧
          (t.part q).tick = 0 ∧ (t.part q).sweep = 0 ∧ (t.part q).faulted = false ∧ (t.part q).faultHold = false ∧
          (t.part q).load = none ∧ (t.part q).binding = some b ∧ (t.part q).seed = l.seed ∧ (t.part q).ctl.key = l.key ∧
          (t.part q).rings = freshRings b.rings ∧
          (∀ x, s.desc l.desc = some x → x.expired = false → DoneAs x stDone 0 0 s t) ∧
          (∀ n ∈ s.partCores q, (t.core n).mode = .loaded ∧ (t.core n).live.pc = 0 ∧ (t.core n).live.loops = [] ∧
            (∀ k, k < 16 → (t.core n).ptrAt k = (s.rf (Reg.corePtr n k) 13 0 : Nat)) ∧
            (∀ k, k < 8 → ((t.core n).idAt k).unit = (s.setupId n k).unit ∧
              ((t.core n).idAt k).chain = (s.setupId n k).chain ∧
              (b.control = none → (t.core n).idAt k = s.setupId n k))) ∧
          t.hall = { s.hall with streams := s.hall.streams ++ streamsOf l.image q } ∧
          (∀ a, (∀ e ∈ b.poolList, a < e.2.1.base ∨ e.2.1.base + 64 ≤ a) → t.byteAt a = s.byteAt a) ∧
          KeepsCores (s.partCores q) s t ∧ KeepsPartsSaveNotes [q.val] s t ∧ KeepsRegs (hostRegs ++ dramRegs) s t ∧
          OnlyTouches [.regs, .mem, .dramErr, .cores, .parts, .hall, .rings, .descs, .flt] s t)))

/-- A run (R67, R206, R224 to R229, R306). A RUN_SWEEPS whose checks pass, after the writes to ARR_MODE of the same
cycle (R212), releases its partition, each core at its continuation word, or arms a comparator for START_TIME; one
whose checks or digests fail completes with the first failure. After the last offer of an ended run its Colophon is
written and the signature that it asks for requested, and the run completes with the sweeps taken once no signature is
waited for. The model's own choices it rests on: log 91, log 92 and log 117. -/
def Obligations.RunsStartAndEnd : Prop :=
  (∀ (d : DescRef) (s u : State) (x : Desc), s.begun d 2 = some x → u = s.modeFirst →
    ((s.part d.ring).job.isSome = true → exec (.runSweeps d) s = .next u) ∧
    ((s.part d.ring).job = none →
      ((s.part d.ring).faulted = true → exec (.runSweeps d) s = .next (u.complete d stFaulted 0 0)) ∧
      ((s.part d.ring).faulted = false → ((s.part d.ring).binding = none ∨ (s.part d.ring).run ≠ .loaded) →
        exec (.runSweeps d) s = .next (u.complete d stRefused 0 0)) ∧
      (∀ b, (s.part d.ring).faulted = false → (s.part d.ring).binding = some b → (s.part d.ring).run = .loaded →
        (∀ st, u.runStatus x (s.part d.ring) b = some st → exec (.runSweeps d) s = .next (u.complete d st 0 0)) ∧
        (u.runStatus x (s.part d.ring) b = none →
          ((x.arg 0x28 1).testBit 0 = true → (u.coloStart d.ring b (x.arg 0x20 8)).1 = none →
            exec (.runSweeps d) s = .next ((u.coloStart d.ring b (x.arg 0x20 8)).2.complete d stFaulted 0 0)) ∧
          (∀ colo, (((x.arg 0x28 1).testBit 0 = false ∧ colo = none) ∨
              ((x.arg 0x28 1).testBit 0 = true ∧ colo.isSome = true ∧ (u.coloStart d.ring b (x.arg 0x20 8)).1 = colo)) →
            ((x.flags.testBit 2 = false ∨ x.arg 0x18 8 ≤ s.gtime) →
              ∃ t, exec (.runSweeps d) s = .next t ∧
                t.part d.ring = { s.part d.ring with
                  run := .running, epoch := (s.part d.ring).tick, resumeIn := none, froze := false
                  freezeAt := if (s.part d.ring).faultHold then some ((s.part d.ring).tick + 40) else none
                  job := some { runJob x (s.part d.ring).sweep u.det colo with going := true }
                  colo := (t.part d.ring).colo } ∧
                (∀ n ∈ s.partCores d.ring,
                  ((s.core n).mode = .empty ∨ (s.core n).mode = .faulted → t.core n = s.core n) ∧
                  ((s.core n).mode ≠ .empty → (s.core n).mode ≠ .faulted →
                    (t.core n).mode = .running ∧ (t.core n).nextMode = none ∧
                    ((s.part d.ring).point = 3 →
                      (t.core n).live = { (s.core n).live with pc := s.rf (Reg.coreEntry n) 9 0 }) ∧
                    ((s.part d.ring).point = 0 →
                      (t.core n).live = (s.core n).live.sweepStart (s.rf (Reg.coreEntry n) 25 16)) ∧
                    ((s.part d.ring).point ≠ 3 → (s.part d.ring).point ≠ 0 → (t.core n).live = (s.core n).live))) ∧
                KeepsCores (s.partCores d.ring) s t ∧ KeepsParts [d.ring.val] s t ∧
                KeepsRegs (Reg.arrMode :: dramRegs) s t ∧ OnlyTouches [.regs, .cores, .parts, .flt] s t) ∧
            (x.flags.testBit 2 = true → s.gtime < x.arg 0x18 8 → ∀ k, s.freeCmp = some k →
              ∃ t, exec (.runSweeps d) s = .next t ∧
                t.part d.ring = { s.part d.ring with
                  job := some (runJob x (s.part d.ring).sweep u.det colo), colo := (t.part d.ring).colo } ∧
                t.cmpArmed k = true ∧ t.cmpOwner k = 2 ∧ t.rf (Reg.gtbCmp k + 8) 15 8 = d.ring.val ∧
                t.reg (Reg.gtbCmp k) = BitVec.ofNat 64 (x.arg 0x18 8) ∧ KeepsParts [d.ring.val] s t ∧
                KeepsRegs (Reg.arrMode :: Reg.gtbCmp k :: (Reg.gtbCmp k + 8) :: dramRegs) s t ∧
                OnlyTouches [.regs, .parts, .flt] s t)))))) ∧
  (∀ (q : QuireId) (s : State) (j : Job) (st dest : Nat) (y : SignJob), (s.part q).job = some j → j.ended = some st →
    j.colophon = some dest → y = ⟨s.colophonRecord q j true, dest, some (q.val, j.desc), none, none⟩ →
    ((s.part q).owedOffers ≠ [] → exec (.colophonWrite q) s = .next s) ∧
    ((s.part q).owedOffers = [] → s.dramErr = [] →
      ∃ t, exec (.colophonWrite q) s = .next t ∧ t.rd dest 256 = s.colophonRecord q j false ∧
        t.rd (dest + 256) 1536 = zeros 1536 ∧ KeepsBytes dest 1792 s t ∧
        (t.part q).colo.seq = (s.part q).colo.seq + 1 ∧
        (∀ asked, asked = (j.sign && s.provisioned && decide (s.mgt.sign.length < 64) && s.ent.state != .fatal) →
          (asked = false → (t.part q).job = none ∧ t.mgt = s.mgt ∧
            (∀ x, s.desc j.desc = some x → x.expired = false → DoneAs x st 0 j.taken s t)) ∧
          (asked = true → (t.part q).job = some { j with colophon := none, sign := true } ∧
            t.mgt = { s.mgt with sign := s.mgt.sign ++ [y] } ∧ t.descs = s.descs ∧ t.rings = s.rings)) ∧
        (j.sign = true → s.provisioned = true → (64 ≤ s.mgt.sign.length ∨ s.ent.state = .fatal) →
          t.rf Reg.mgtHealth 31 16 = satAdd (2 ^ 16 - 1) (s.rf Reg.mgtHealth 31 16) 1) ∧
        KeepsPartsSaveNotes [q.val] s t ∧ KeepsRegs (Reg.mgtHealth :: hostRegs) s t ∧
        OnlyTouches [.regs, .mem, .parts, .rings, .descs, .mgt] s t))

/-- SET_TABLE (R66, R193, R308, R323): on a running partition its data, read at its start, waits for the sweep
boundary; on a stopped one it lands at once, in the tables of the cores its TARGET names or in the controller tables,
and completes. A faulted or empty partition, a table that the Binding has not, data that cannot be read and a schedule
segment of no mode end it with a status. -/
def Obligations.TableWritesLand : Prop :=
  ∀ (d : DescRef) (s : State) (x : Desc) (r : List Byte × Option Nat × State) (w : TableWrite), s.begun d 13 = some x →
    r = s.localRead 127 (x.arg 0x10 8) (tableBytes (x.arg 0x18 1)) →
    w = { desc := d, kind := x.arg 0x18 1, slot := x.arg 0x19 1, index := x.arg 0x1A 2, target := x.arg 0x1C 4
          data := r.1 } →
    ((s.part d.ring).faulted = true → exec (.setTable d) s = .next (s.complete d stFaulted 0 0)) ∧
    ((s.part d.ring).faulted = false →
      ((s.part d.ring).run = .empty → exec (.setTable d) s = .next (s.complete d stRefused 0 0)) ∧
      ((s.part d.ring).run ≠ .empty →
        (tableFits (s.part d.ring) (x.arg 0x18 1) (x.arg 0x1A 2) = false →
          exec (.setTable d) s = .next (s.complete d stBad 0 0)) ∧
        (tableFits (s.part d.ring) (x.arg 0x18 1) (x.arg 0x1A 2) = true →
          ((∃ y ∈ (s.part d.ring).tables, y.desc = d) → exec (.setTable d) s = .next s) ∧
          ((∀ y ∈ (s.part d.ring).tables, y.desc ≠ d) →
            (r.2.1.isSome = true → exec (.setTable d) s = .next (r.2.2.complete d stFaulted 0 0)) ∧
            (r.2.1 = none →
              (x.arg 0x18 1 = 3 → 3 ≤ leAt r.1 5 1 → exec (.setTable d) s = .next (r.2.2.complete d stBad 0 0)) ∧
              (¬ (x.arg 0x18 1 = 3 ∧ 3 ≤ leAt r.1 5 1) →
                ((s.part d.ring).run = .running →
                  ∃ t, exec (.setTable d) s = .next t ∧
                    t.part d.ring = { s.part d.ring with tables := (s.part d.ring).tables ++ [w] } ∧
                    KeepsParts [d.ring.val] s t ∧ KeepsRegs dramRegs s t ∧ OnlyTouches [.regs, .parts, .flt] s t) ∧
                ((s.part d.ring).run ≠ .running →
                  ∃ t, exec (.setTable d) s = .next t ∧ DoneAs x stDone 0 0 s t ∧ (t.part d.ring).colo.tables = true ∧
                    (w.kind ≠ 0 → t.mem = s.mem ∧ ∀ b c, (s.part d.ring).binding = some b → b.control = some c →
                      (t.part d.ring).binding = some { b with control := some (overlay c (w.place c) w.data) }) ∧
                    (w.kind = 0 → (t.part d.ring).binding = (s.part d.ring).binding ∧
                      (w.slot ≤ 3 → ((s.targets d.ring w.target 2048).map Prod.fst).Nodup →
                        (∀ y ∈ s.targets d.ring w.target 2048, s.cleanAt (tableAt y.1 w.slot 0) 2048) →
                        ∀ y ∈ s.targets d.ring w.target 2048,
                          t.rd (tableAt y.1 w.slot 0) (slice w.data y.2.1 y.2.2).length = slice w.data y.2.1 y.2.2)) ∧
                    KeepsParts [d.ring.val] s t ∧ KeepsRegs dramRegs s t ∧
                    OnlyTouches [.regs, .mem, .sramErr, .parts, .rings, .descs, .flt] s t)))))))

/-- Context images (R206, R210, R323, R328 to R337). A save of a stopped partition, once no pool offer of its sweeps
waits, writes its four sections and then the Endpaper, and completes; the first check that fails ends it with its
status. A restore or a refold whose checks pass gives the partition the image's tick, sweep and point, a refold tick
0, with its Binding kept, and completes when its rings are ready; a ring that an uncorrectable access stops ends it
FAULTED with the partition EMPTY. The model's own choices it rests on: log 97, log 98 and log 107. -/
def Obligations.ContextsSaveAndRestore : Prop :=
  ∀ (d : DescRef) (s : State) (x : Desc),
    (s.begun d 4 = some x →
      ((s.part d.ring).faulted = true → exec (.saveContext d) s = .next (s.complete d stFaulted 0 0)) ∧
      ((s.part d.ring).faulted = false → (s.part d.ring).binding = none →
        exec (.saveContext d) s = .next (s.complete d stRefused 0 0)) ∧
      (∀ b l a, (s.part d.ring).faulted = false → (s.part d.ring).binding = some b → l = s.contextSections d.ring b →
        a = x.arg 0x10 8 →
        ((s.part d.ring).owedOffers ≠ [] → exec (.saveContext d) s = .next s) ∧
        ((s.part d.ring).owedOffers = [] →
          (((s.part d.ring).run ≠ .loaded ∨ (x.arg 0x20 1 = 0 ∧ (s.part d.ring).point ≠ 0) ∨ 1 < (s.part d.ring).point) →
            exec (.saveContext d) s = .next (s.complete d stRefused 0 0)) ∧
          ((s.part d.ring).run = .loaded → (x.arg 0x20 1 = 0 → (s.part d.ring).point = 0) → (s.part d.ring).point ≤ 1 →
            (x.arg 0x18 8 < contextLength l →
              exec (.saveContext d) s = .next (s.complete d stCapacity 0 (contextLength l))) ∧
            (contextLength l ≤ x.arg 0x18 8 → s.inDram a (contextLength l) = false →
              exec (.saveContext d) s = .next (s.complete d stBad 0 0)) ∧
            (∀ dig, contextLength l ≤ x.arg 0x18 8 → s.inDram a (contextLength l) = true → s.dramErr = [] →
              (∀ n ∈ s.partCores d.ring, s.cleanAt (coreBase n) 0x28000) →
              (∀ r ∈ b.useOne, s.cleanAt (bufferBase r.buffer + r.first * 0x10000) r.bytes) →
              dig = contextDigest (s.endpaper d.ring b l (zeros 32)) (l.flatMap entryBytes) (l.map (fun y => y.2.2.2)) →
              ∃ t, exec (.saveContext d) s = .next t ∧ DoneAs x stDone 0 0 s t ∧
                t.rd a 256 = s.endpaper d.ring b l dig ∧ t.rd (a + 0x100) 128 = l.flatMap entryBytes ∧
                (∀ y ∈ l, t.rd (a + y.2.2.1) y.2.2.2.length = y.2.2.2) ∧
                KeepsBytes a (contextLength l) s t ∧ KeepsPartsSaveNotes [] s t ∧
                OnlyTouches [.mem, .parts, .rings, .descs] s t))))) ∧
    (∀ detail (i : Instr), ((i = .restoreContext d ∧ s.begun d 5 = some x) ∨ (i = .refoldContext d ∧ s.begun d 6 = some x)) →
      (s.part d.ring).restore = some (d, detail) →
      ((s.part d.ring).ringStopped = true → (∀ j, (s.part d.ring).job = some j → j.desc ≠ d) →
        ∃ t, exec i s = .next t ∧ (t.part d.ring).run = .empty ∧ (t.part d.ring).binding = none ∧
          (t.part d.ring).faulted = false ∧ t.desc d = none ∧ OnlyTouches resetPieces s t) ∧
      ((s.part d.ring).ringStopped = false → (s.part d.ring).ringsReady = true →
        ∃ t, exec i s = .next t ∧ DoneAs x stDone detail 0 s t ∧
          t.part d.ring = { s.part d.ring with restore := none, faulted := false } ∧ KeepsParts [d.ring.val] s t ∧
          OnlyTouches [.parts, .rings, .descs] s t) ∧
      ((s.part d.ring).ringStopped = false → (s.part d.ring).ringsReady = false → exec i s = .next s)) ∧
    (s.begun d 5 = some x → (s.part d.ring).restore.map Prod.fst ≠ some d →
      (∀ st u, s.readContext d.ring (x.arg 0x10 8) (x.arg 0x18 8) = (.error st, u) →
        exec (.restoreContext d) s = .next (u.complete d st 0 0)) ∧
      (∀ m u, s.readContext d.ring (x.arg 0x10 8) (x.arg 0x18 8) = (.ok m, u) →
        ((s.part d.ring).binding = none → exec (.restoreContext d) s = .next (u.complete d stRefused 0 0)) ∧
        (∀ b, (s.part d.ring).binding = some b →
          (∀ st, u.restoreStatus d.ring b m = some st → exec (.restoreContext d) s = .next (u.complete d st.1 st.2 0)) ∧
          (∀ v, u.restoreStatus d.ring b m = none →
            v = (((u.resetKeeping d.ring b d).writeRecords d.ring m).writeRegions b.useOne (m.bytesOf 3)).updPart d.ring
              (fun p => p.restored m (leAt m 0x40 8) m.point 0 d) →
            (v.restartRings d.ring b m.ringOffs = none → ∃ t, exec (.restoreContext d) s = .next t ∧
              (t.part d.ring).run = .empty ∧ (t.part d.ring).binding = none ∧ OnlyTouches (.carry :: resetPieces) s t) ∧
            (∀ w, v.restartRings d.ring b m.ringOffs = some w → (w.part d.ring).ringStopped = false →
              ∃ t, exec (.restoreContext d) s = .next t ∧ (t.part d.ring).run = .loaded ∧
                (t.part d.ring).binding = some b ∧ (t.part d.ring).tick = leAt m 0x40 8 ∧
                (t.part d.ring).sweep = leAt m 0x30 8 ∧ (t.part d.ring).point = m.point ∧
                (t.part d.ring).colo.restored = true ∧
                (t.part d.ring).restore = (if (w.part d.ring).ringsReady then none else some (d, 0)) ∧
                ((w.part d.ring).ringsReady = true → t.desc d = none) ∧
                KeepsCores (s.partCores d.ring) s t ∧ OnlyTouches (.carry :: resetPieces) s t))))) ∧
    (s.begun d 6 = some x → (s.part d.ring).restore.map Prod.fst ≠ some d →
      (∀ st u, s.readContext d.ring (x.arg 0x10 8) (x.arg 0x18 8) = (.error st, u) →
        exec (.refoldContext d) s = .next (u.complete d st 0 0)) ∧
      (∀ m u, s.readContext d.ring (x.arg 0x10 8) (x.arg 0x18 8) = (.ok m, u) →
        (((m.sect 5).isSome && !foldOk (m.bytesOf 5)) = true →
          exec (.refoldContext d) s = .next (u.complete d stBad 0 0)) ∧
        (((m.sect 5).isSome && !foldOk (m.bytesOf 5)) = false →
          (∀ st v, u.readOthers d.ring (foldOthers (m.bytesOf 5)) = (.error st, v) →
            exec (.refoldContext d) s = .next (v.complete d st 0 0)) ∧
          (∀ others v, u.readOthers d.ring (foldOthers (m.bytesOf 5)) = (.ok others, v) →
            ((s.part d.ring).binding = none → exec (.refoldContext d) s = .next (v.complete d stRefused 0 0)) ∧
            (∀ b, (s.part d.ring).binding = some b →
              (∀ st, v.refoldStatus d.ring b m ((x.arg 0x10 8, m) :: others) = some st →
                exec (.refoldContext d) s = .next (v.complete d st.1 st.2 0)) ∧
              (∀ es y z detail offs, v.refoldStatus d.ring b m ((x.arg 0x10 8, m) :: others) = none →
                es = (foldRaw (m.bytesOf 5)).map FoldEntry.ofBytes → y = v.resetKeeping d.ring b d →
                z = es.foldl (fun a e => a.foldEntry d.ring b e)
                  (((y.partCores d.ring).foldl (fun a n => a.updCore n (fun c => c.installed (a.setupLive n))) y).loadBetas
                    d.ring b) →
                detail = (if m.point == 0 && v.det then 0 else 1) →
                offs = (es.filter (fun e => e.kind == 2)).map (fun e => (e.index, leNat (v.rd e.source 8))) →
                ((z.updPart d.ring (fun p => p.restored m 0 0 detail d)).restartRings d.ring b offs = none →
                  ∃ t, exec (.refoldContext d) s = .next t ∧ (t.part d.ring).run = .empty ∧
                    (t.part d.ring).binding = none ∧ OnlyTouches (.carry :: resetPieces) s t) ∧
                (∀ w, (z.updPart d.ring (fun p => p.restored m 0 0 detail d)).restartRings d.ring b offs = some w →
                  (w.part d.ring).ringStopped = false →
                  ∃ t, exec (.refoldContext d) s = .next t ∧ (t.part d.ring).run = .loaded ∧
                    (t.part d.ring).binding = some b ∧ (t.part d.ring).tick = 0 ∧ (t.part d.ring).sweep = leAt m 0x30 8 ∧
                    (t.part d.ring).point = 0 ∧ (t.part d.ring).colo.restored = true ∧
                    (t.part d.ring).restore = (if (w.part d.ring).ringsReady then none else some (d, detail)) ∧
                    ((w.part d.ring).ringsReady = true → t.desc d = none) ∧
                    KeepsCores (s.partCores d.ring) s t ∧ OnlyTouches (.carry :: resetPieces) s t)))))))

/-- The data movers (R227, R234, R288, R302, R304, R309, R318, R319, R347, R349, R350). COPY moves its bytes between
local and host memory, read before any is written, and completes DONE, or FAULTED with the offset of the first failing
access; with MULTICAST set it becomes a transfer; FILL repeats its pattern; a mover whose watchdog has expired stops
at a 4 KiB boundary of its destination, leaves what it wrote, and completes nothing. DIGEST writes or compares the
digest of its range, and names the failing access. GET_ENTROPY writes output of the expander, which takes it once, in
its turn; with the source off, fatal or at its limit it completes with a status. The model's own choices it rests on:
log 12, log 80, log 81 and log 125. -/
def Obligations.MoversCopyAndDigest : Prop :=
  ∀ (d : DescRef) (host : List Byte) (s : State) (x : Desc),
    (s.mover d 7 = some x → (x.arg 0x28 1).testBit 2 = false → ∀ src dst n, src = x.arg 0x10 8 → dst = x.arg 0x18 8 →
      n = x.arg 0x20 8 →
      (x.expired = false → ∀ o u, s.copyBytes x host n = (o, u) →
        exec (.copy d host) s = .next (match o with
          | none => u.complete d stDone 0 0
          | some k => u.complete d stFaulted 0 k)) ∧
      (s.dramErr = [] → ((x.arg 0x28 1).testBit 0 = true ∨ s.inDram src n = true) →
        ((x.arg 0x28 1).testBit 1 = true ∨ s.inDram dst n = true) →
        ∃ t k, exec (.copy d host) s = .next t ∧ k ≤ n ∧ (k < n → x.expired = true ∧ (k = 0 ∨ (dst + k) % 4096 = 0)) ∧
          (x.expired = false → k = n ∧ DoneAs x stDone 0 0 s t) ∧
          (x.expired = true → t.desc d = none ∧ (t.ringPair d.port d.ring).owed = (s.ringPair d.port d.ring).owed) ∧
          (if (x.arg 0x28 1).testBit 1 then t.host d.port dst k else t.rd dst k) =
            (if (x.arg 0x28 1).testBit 0 then padTo k host else s.rd src k) ∧
          ((x.arg 0x28 1).testBit 1 = true → t.mem = s.mem) ∧
          ((x.arg 0x28 1).testBit 1 = false → KeepsBytes dst k s t ∧ t.hostA = s.hostA ∧ t.hostB = s.hostB) ∧
          KeepsPartsSaveNotes [] s t ∧ KeepsRegs hostRegs s t ∧
          OnlyTouches [.regs, .mem, .hostA, .hostB, .parts, .rings, .descs] s t)) ∧
    (s.mover d 7 = some x → (x.arg 0x28 1).testBit 2 = true →
      ((∃ y ∈ s.hall.mtx, y.desc = d) → exec (.copy d host) s = .next s) ∧
      ((∀ y ∈ s.hall.mtx, y.desc ≠ d) →
        (2 ^ 34 < x.arg 0x20 8 → exec (.copy d host) s = .next (s.complete d stBad 0 0)) ∧
        (∀ m e u bs o v, x.arg 0x20 8 ≤ 2 ^ 34 → s.localRead 127 (x.arg 0x30 8) 128 = (m, e, u) →
          u.sourceRead ((x.arg 0x28 1).testBit 0) host (x.arg 0x10 8) (x.arg 0x20 8) = (bs, o, v) →
          (e.isSome = true → exec (.copy d host) s = .next (u.complete d stFaulted 0 0)) ∧
          (∀ k, e = none → o = some k → exec (.copy d host) s = .next (v.complete d stFaulted 0 k)) ∧
          (e = none → o = none → setBitsOf 1024 (leNat m) ≠ [] →
            ∃ t, exec (.copy d host) s = .next t ∧
              t.hall.mtx = s.hall.mtx ++ [({ desc := d, group := x.arg 0x29 1, dest := x.arg 0x18 8, object := bs
                                             members := setBitsOf 1024 (leNat m), id := s.hall.mtxNext % 4096
                                             pollAt := s.clk.wall + usec 20 } : McastTx)] ∧
              t.hall.mtxNext = (s.hall.mtxNext % 4096 + 1) % 4096 ∧ t.hall.conns = s.hall.conns ∧
              OnlyTouches [.regs, .mem, .sramErr, .hall, .flt] s t)))) ∧
    (s.mover d 8 = some x → x.bytes.length = 64 → ∀ a n, a = x.arg 0x10 8 → n = x.arg 0x18 8 →
      (x.expired = false → ∀ o u,
        s.destWrite false d.port a (((List.replicate (n / 8) (slice x.bytes 0x20 8)).flatten).take n) = (o, u) →
        exec (.fill d) s = .next (match o with
          | none => u.complete d stDone 0 0
          | some k => u.complete d stFaulted 0 k)) ∧
      (s.dramErr = [] → s.inDram a n = true →
        ∃ t k, exec (.fill d) s = .next t ∧ k ≤ n ∧ (k < n → x.expired = true ∧ (k = 0 ∨ (a + k) % 4096 = 0)) ∧
          (x.expired = false → k = n ∧ DoneAs x stDone 0 0 s t) ∧
          (x.expired = true → t.desc d = none ∧ (t.ringPair d.port d.ring).owed = (s.ringPair d.port d.ring).owed) ∧
          (∀ i, 8 * i + 8 ≤ k → t.rd (a + 8 * i) 8 = slice x.bytes 0x20 8) ∧ KeepsBytes a k s t ∧
          KeepsPartsSaveNotes [] s t ∧ KeepsRegs hostRegs s t ∧ OnlyTouches [.regs, .mem, .parts, .rings, .descs] s t)) ∧
    (s.begun d 9 = some x → ∀ a n flags dest t, a = x.arg 0x10 8 → n = x.arg 0x18 8 → flags = x.arg 0x28 1 →
      dest = x.arg 0x20 8 → t = s.dramRead (descTag d) a n →
      (∀ k, s.dramUe a n = some k → exec (.digest d host) s = .next (t.complete d stFaulted 0 (max a (k * 64) - a))) ∧
      (∀ dig, s.dramUe a n = none →
        dig = (if flags.testBit 1 then treeDigest [itemOf (s.rd a n)] else shake256_256 (s.rd a n)) →
        (∀ bs o u, flags.testBit 2 = true → t.sourceRead (flags.testBit 0) host dest 32 = (bs, o, u) →
          exec (.digest d host) s = .next (if o.isSome then u.complete d stFaulted 0 0
            else u.complete d (if bs = dig then stDone else stMismatch) 0 0)) ∧
        (flags.testBit 2 = true → flags.testBit 0 = true → s.dramErr = [] →
          ∃ v, exec (.digest d host) s = .next v ∧
            DoneAs x (if padTo 32 host = dig then stDone else stMismatch) 0 0 s v ∧ OnlyTouches [.rings, .descs] s v) ∧
        (∀ o u, flags.testBit 2 = false → t.destWrite (flags.testBit 0) d.port dest dig = (o, u) →
          exec (.digest d host) s = .next (u.complete d (if o.isSome then stFaulted else stDone) 0 0)) ∧
        (flags.testBit 2 = false → flags.testBit 0 = true → s.dramErr = [] →
          ∃ v, exec (.digest d host) s = .next v ∧ DoneAs x stDone 0 0 s v ∧ v.host d.port dest dig.length = dig ∧
            OnlyTouches [.hostA, .hostB, .rings, .descs] s v) ∧
        (flags.testBit 2 = false → flags.testBit 0 = false → s.dramErr = [] → s.inDram dest dig.length = true →
          ∃ v, exec (.digest d host) s = .next v ∧ DoneAs x stDone 0 0 s v ∧ v.rd dest dig.length = dig ∧
            KeepsBytes dest dig.length s v ∧ KeepsPartsSaveNotes [] s v ∧
            OnlyTouches [.mem, .parts, .rings, .descs] s v))) ∧
    (s.begun d 10 = some x → ∀ n, n = x.arg 0x18 4 →
      ((s.ent.state = .off ∨ s.ent.state = .startup) → exec (.getEntropy d) s = .next (s.complete d stNotReady 0 0)) ∧
      (s.ent.state = .fatal → exec (.getEntropy d) s = .next (s.complete d stEntropyFailed 0 0)) ∧
      (s.ent.state = .limit → s.ent.out.length < n →
        ∃ t, exec (.getEntropy d) s = .next t ∧ DoneAs x stRetry 0 0 s t ∧
          t.rf Reg.entStat 63 48 = satAdd (2 ^ 16 - 1) (s.rf Reg.entStat 63 48) 1 ∧ KeepsRegs [Reg.entStat] s t ∧
          OnlyTouches [.regs, .rings, .descs] s t) ∧
      (s.ent.state.serves = true → (s.ent.state = .limit → n ≤ s.ent.out.length) →
        (s.turn (.host d.port) = true → roundUp n 16 ≤ s.ent.out.length →
          ∃ t, exec (.getEntropy d) s = .next t ∧ DoneAs x stDone 0 0 s t ∧
            t.host d.port (x.arg 0x10 8) n = s.ent.out.take n ∧
            t.ent = { s.ent with
              out := s.ent.out.drop (roundUp n 16), taker := d.port.num + 1
              taken := if d.port.num + 1 = s.ent.taker ∧ s.ent.taken < 4096 then s.ent.taken + n else n } ∧
            OnlyTouches [.hostA, .hostB, .rings, .descs, .ent] s t) ∧
        ((s.turn (.host d.port) = false ∨ s.ent.out.length < roundUp n 16) → exec (.getEntropy d) s = .next s)))

/-- Barrier groups and drain rings of a partition (R275, R310, R311, R323). BARRIER_ARM reserves the lowest free
comparator and records the group; a group or partition in use, or no free comparator, is a conflict, a group with
remote members needs the time base locked, and a faulted partition is refused; a disarm frees both, and is refused
while a barrier of the group is in progress or for another partition's group; DRAIN_SAMPLES copies whole records to
the host and frees them. The model's own choices it rests on: log 83, log 88 and log 89. -/
def Obligations.GroupsArmAndDrainsCopy : Prop :=
  ∀ (d : DescRef) (s : State) (x : Desc) (g q : Nat), g = x.arg 0x10 1 → q = d.ring.val →
    (s.begun d 11 = some x → x.arg 0x11 1 = 0 →
      ((s.part q).faulted = true → exec (.barrierArm d) s = .next (s.complete d stRefused 0 0)) ∧
      (∀ m e u mem, (s.part q).faulted = false →
        (m, e, u) = (if x.arg 0x12 2 = s.device then s.localRead 127 (x.arg 0x18 8) 128 else ([], none, s)) →
        mem = setBitsOf 1024 (leNat m) →
        (e.isSome = true → exec (.barrierArm d) s = .next (u.complete d stFaulted 0 0)) ∧
        (e = none →
          (((s.barGroup g).isSome = true ∨ (s.part q).group.isSome = true ∨ s.freeCmp = none) →
            exec (.barrierArm d) s = .next (u.complete d stConflict 0 0)) ∧
          (∀ k, s.barGroup g = none → (s.part q).group = none → s.freeCmp = some k →
            ((x.arg 0x12 2 ≠ s.device ∨ ∃ y ∈ mem, y ≠ s.device) → s.rf Reg.gtbStatus 16 16 = 0 →
              exec (.barrierArm d) s = .next (u.complete d stNotReady 0 0)) ∧
            (g < 16 → ((x.arg 0x12 2 = s.device ∧ ∀ y ∈ mem, y = s.device) ∨ s.rf Reg.gtbStatus 16 16 = 1) →
              ∃ t, exec (.barrierArm d) s = .next t ∧ DoneAs x stDone 0 0 s t ∧
                t.barGroup g = some { part := q, coord := x.arg 0x12 2, members := mem.filter (· != s.device), cmp := k } ∧
                (∀ h, h ≠ g → t.barGroup h = s.barGroup h) ∧
                (t.part q).group.map Fin.val = some g ∧ t.cmpOwner k = 1 ∧ t.cmpArmed k = false ∧
                KeepsParts [q] s t ∧ KeepsRegs (Reg.gtbCmp k :: (Reg.gtbCmp k + 8) :: dramRegs) s t ∧
                OnlyTouches [.regs, .parts, .hall, .rings, .descs, .flt] s t))))) ∧
    (s.begun d 11 = some x → x.arg 0x11 1 = 1 →
      (s.barGroup g = none → exec (.barrierDisarm d) s = .next (s.complete d stDone 0 0)) ∧
      (∀ y, s.barGroup g = some y →
        (y.busy = false → y.part = q →
          ∃ t, exec (.barrierDisarm d) s = .next t ∧ DoneAs x stDone 0 0 s t ∧ t.barGroup g = none ∧
            (t.part q).group = none ∧ t.cmpOwner y.cmp = 0 ∧ t.cmpArmed y.cmp = false ∧ KeepsParts [q] s t ∧
            KeepsRegs [Reg.gtbCmp y.cmp, Reg.gtbCmp y.cmp + 8] s t ∧ OnlyTouches [.regs, .parts, .hall, .rings, .descs] s t) ∧
        ((y.busy = true ∨ y.part ≠ q) → exec (.barrierDisarm d) s = .next (s.complete d stRefused 0 0)))) ∧
    (s.begun d 12 = some x →
      ((s.part q).ldrain = none → exec (.drainSamples d) s = .next (s.complete d stRefused 0 0)) ∧
      (∀ base size r u, (s.part q).ldrain = some (base, size) →
        s.drainSome q base size (s.part q).drain.lTail (x.arg 0x18 4) (x.arg 0x1C 1) (size / 32)
          { head := (s.part q).drain.lHead } = (r, u) →
        (r.status = stBad → exec (.drainSamples d) s = .next (u.complete d stBad 0 0)) ∧
        (r.status ≠ stBad →
          ∃ t, exec (.drainSamples d) s = .next t ∧ DoneAs x r.status r.records r.bytes.length s t ∧
            t.host d.port (x.arg 0x10 8) r.bytes.length = r.bytes ∧
            t.part q = { s.part q with drain := { (s.part q).drain with lHead := r.head } } ∧
            KeepsParts [q] s t ∧ KeepsRegs dramRegs s t ∧
            OnlyTouches [.regs, .hostA, .hostB, .parts, .rings, .descs, .flt] s t)))

/-! ## Semaphores, partitions and registers (R10, R11, R65, R93, R212, R293, R313 to R326, R360 to R367, R421 to R424) -/

/-- Semaphores and ownership (R313, R315 to R317, R424). A port or the Gatehouse that reads a free semaphore acquires
it and reads its own code with ACQUIRED; a reader of a held one, and a hall or BAR4 reader, reads its owner. The owner
releases and renews; another requester's write is counted; a hall write has no effect. A lease that has run out frees
the semaphore, is counted, and interrupts the port that held it. PRT_OWNER is written under the conditions of R313,
and another write sets REJECTED. The model's own choices it rests on: log 17 and log 64. -/
def Obligations.SemaphoresAreOwned : Prop :=
  ∀ (who : Requester) (n : SemId) (s : State),
    (who.semCode ≠ 0 → (s.sem n).owner = 0 →
      ∃ t, exec (.semLockRead who n) s = .next t ∧ t.readData = BitVec.ofNat 64 (who.semCode + 4) ∧
        t.readBytes = leBytes 8 (who.semCode + 4) ∧
        t.sem n = { owner := who.semCode, leaseEnd := s.leaseEnd n
                    lapsed := (s.sem n).lapsed.filter (· != who.semCode) } ∧
        (∀ m, m ≠ n.val → t.sem m = s.sem m) ∧ OnlyTouches [.readData, .readBytes, .sems] s t) ∧
    ((who.semCode = 0 ∨ (s.sem n).owner ≠ 0) → (s.sem n).owner < 2 ^ 64 →
      exec (.semLockRead who n) s = .next { s with
        readData := BitVec.ofNat 64 (s.sem n).owner, readBytes := leBytes 8 (s.sem n).owner }) ∧
    (s.writeReaches who (Reg.semLock n) = true →
      (who.semCode ≠ 0 → (s.sem n).owner = who.semCode →
        exec (.semRelease who n) s = .next (s.setSem n { s.sem n with owner := 0, leaseEnd := none }) ∧
        exec (.semRenew who n) s = .next (s.setSem n { s.sem n with leaseEnd := s.leaseEnd n })) ∧
      (∀ u, who.semCode ≠ 0 → (s.sem n).owner ≠ who.semCode →
        u = (if who.semCode ∈ (s.sem n).lapsed then s.count Reg.semStat 31 16 1 else s.count Reg.semStat 47 32 1) →
        exec (.semRelease who n) s = .next u ∧ exec (.semRenew who n) s = .next u)) ∧
    ((s.writeReaches who (Reg.semLock n) = false ∨ who.semCode = 0) →
      exec (.semRelease who n) s = .next s ∧ exec (.semRenew who n) s = .next s) ∧
    (∀ u, (s.sem n).leaseEnd = some u →
      ((s.sem n).owner ≠ 0 → u < s.clk.wall →
        ∃ t, exec (.semLeaseExpire n) s = .next t ∧ (t.sem n).owner = 0 ∧ (t.sem n).leaseEnd = none ∧
          (s.sem n).owner ∈ (t.sem n).lapsed ∧
          t.rf Reg.semStat 15 0 = satAdd (2 ^ 16 - 1) (s.rf Reg.semStat 15 0) 1 ∧
          (∀ p : Port, (s.sem n).owner = p.num + 1 → s.rf (Reg.hstPortstat p.num) 0 0 = 1 →
            s.vectorMasked p (s.rf (Reg.hstPortcfg p.num) 33 26) = false →
            t.msix = s.msix ++ [(p, s.rf (Reg.hstPortcfg p.num) 33 26)]) ∧
          (∀ m, m ≠ n.val → t.sem m = s.sem m) ∧ KeepsRegs [Reg.semStat] s t ∧ OnlyTouches [.regs, .sems, .msix] s t) ∧
      (s.clk.wall ≤ u → exec (.semLeaseExpire n) s = .next s)) ∧
    (∀ (q : QuireId) (mode : BitVec 2),
      (s.writeReaches who (Reg.prtOwner q) = false → exec (.prtOwnerWrite who q mode n) s = .next s) ∧
      (s.writeReaches who (Reg.prtOwner q) = true →
        ∃ t, exec (.prtOwnerWrite who q mode n) s = .next t ∧
          (s.mayOwn who q = true → t.rf (Reg.prtOwner q) 1 0 = mode.toNat ∧ t.rf (Reg.prtOwner q) 7 2 = n ∧
            t.rf (Reg.prtOwner q) 8 8 = s.rf (Reg.prtOwner q) 8 8) ∧
          (s.mayOwn who q = false → t.rf (Reg.prtOwner q) 8 8 = 1 ∧
            t.rf (Reg.prtOwner q) 7 0 = s.rf (Reg.prtOwner q) 7 0) ∧
          KeepsRegs [Reg.prtOwner q] s t ∧ OnlyTouches [.regs] s t))

/-- Partitions, core resets and the mode (R93, R212, R320 to R326). A write of PRT_CTRL that R313 does not allow sets
REJECTED. CREATE makes an EMPTY partition where nothing forbids it and else shows why not; DISSOLVE removes a stopped
partition and refuses another; a reset leaves the partition EMPTY and not FAULTED, its Binding gone, its cores EMPTY,
its regions free and its running descriptors ended; a core reset clears the core's live state and marks its partition
faulted, and merges into a reset of its partition of the same cycle; DET changes while the array is stopped, and a
refused change sets REJECTED. The model's own choices it rests on: log 60, log 64, log 66 and log 127. -/
def Obligations.PartitionsCreateAndReset : Prop :=
  ∀ (who : Requester) (q : QuireId) (s : State),
    (∀ (rows cols : BitVec 4) (i : Instr), i ∈ [.create who q rows cols, .dissolve who q, .partitionReset who q] →
      (s.writeReaches who (Reg.prtCtrl q) = false → exec i s = .next s) ∧
      (s.writeReaches who (Reg.prtCtrl q) = true → s.mayOwn who q = false →
        ∃ t, exec i s = .next t ∧ t.rf (Reg.prtStatus q) 7 7 = 1 ∧
          t.rf (Reg.prtStatus q) 6 0 = s.rf (Reg.prtStatus q) 6 0 ∧
          KeepsRegs [Reg.prtStatus q] s t ∧ OnlyTouches [.regs] s t)) ∧
    (s.writeReaches who (Reg.prtCtrl q) = true → s.mayOwn who q = true →
      (∀ rows cols : BitVec 4,
        ∃ t, exec (.create who q rows cols) s = .next t ∧
          t.rf (Reg.prtStatus q) 6 4 = s.createResult q rows.toNat cols.toNat ∧
          t.rf (Reg.prtCtrl q) 3 0 = rows.toNat ∧ t.rf (Reg.prtCtrl q) 7 4 = cols.toNat ∧
          (s.createResult q rows.toNat cols.toNat = 0 → t.part q = { run := .empty, qrows := rows.toNat, qcols := cols.toNat
                                                                     drain := (t.part q).drain }) ∧
          (s.createResult q rows.toNat cols.toNat ≠ 0 → t.parts = s.parts) ∧
          KeepsParts [q.val] s t ∧ KeepsRegs [Reg.prtStatus q, Reg.prtCtrl q] s t ∧ OnlyTouches [.regs, .parts] s t) ∧
      ((s.partStateCode q = 1 ∨ s.partStateCode q = 2) →
        ∃ t, exec (.dissolve who q) s = .next t ∧ (t.part q).exists_ = false ∧ t.rf (Reg.prtStatus q) 6 4 = 0 ∧
          (∀ n ∈ s.partCores q, (t.core n).mode = .empty) ∧ OnlyTouches resetPieces s t) ∧
      (s.partStateCode q ≠ 1 → s.partStateCode q ≠ 2 →
        ∃ t, exec (.dissolve who q) s = .next t ∧ t.rf (Reg.prtStatus q) 6 4 = 5 ∧
          KeepsRegs [Reg.prtStatus q] s t ∧ OnlyTouches [.regs] s t) ∧
      ((s.part q).exists_ = false → exec (.partitionReset who q) s = .next s) ∧
      ((s.part q).exists_ = true →
        ∃ t, exec (.partitionReset who q) s = .next t ∧ (t.part q).run = .empty ∧ (t.part q).faulted = false ∧
          (t.part q).binding = none ∧ (t.part q).tick = 0 ∧ (t.part q).qrows = (s.part q).qrows ∧
          (t.part q).qcols = (s.part q).qcols ∧ (t.part q).offers = [] ∧ (t.part q).halts = [] ∧
          (∀ n ∈ s.partCores q, (t.core n).mode = .empty ∧ (t.core n).live = {}) ∧
          (∀ i, i < 128 → ¬ (bit (t.reg (Reg.arrEbregion i)) 31 = true ∧ fld (t.reg (Reg.arrEbregion i)) 22 16 = q)) ∧
          (∀ x ∈ s.descs, x.ref.ring.val = q → x.phase = .running →
            (∀ j, (s.part q).job = some j → j.desc ≠ x.ref) → t.desc x.ref = none) ∧
          OnlyTouches resetPieces s t)) ∧
    (∀ c : CoreId,
      ((s.writeReaches who (Reg.coreCtrl c) = false ∨ s.coreMerges c = true) → exec (.coreReset who c) s = .next s) ∧
      (s.writeReaches who (Reg.coreCtrl c) = true → s.coreMerges c = false →
        ∃ t, exec (.coreReset who c) s = .next t ∧ (t.core c).live = {} ∧ (t.core c).next = {} ∧
          (t.core c).absorb = true ∧ ((t.core c).mode = .loaded ∨ (t.core c).mode = .empty) ∧
          (t.core c).closes = [] ∧ (t.core c).arriving = [] ∧
          (∀ p, s.partOfCore c = some p → (t.part p).faulted = true ∧ (t.part p).stopLine = true) ∧
          OnlyTouches [.regs, .mem, .sramErr, .cores, .parts, .flt] s t)) ∧
    (∀ det : Bool,
      (s.writeReaches who Reg.arrMode = false → exec (.arrModeWrite who det) s = .next s) ∧
      (s.writeReaches who Reg.arrMode = true →
        (s.det = det → exec (.arrModeWrite who det) s = .next s) ∧
        (s.det ≠ det → s.arrayStopped = true →
          ∃ t, exec (.arrModeWrite who det) s = .next t ∧ t.det = det ∧ t.rf Reg.arrMode 8 8 = s.rf Reg.arrMode 8 8 ∧
            KeepsRegs [Reg.arrMode] s t ∧ OnlyTouches [.regs] s t) ∧
        (s.det ≠ det → s.arrayStopped = false →
          ∃ t, exec (.arrModeWrite who det) s = .next t ∧ t.det = s.det ∧ t.rf Reg.arrMode 8 8 = 1 ∧
            KeepsRegs [Reg.arrMode] s t ∧ OnlyTouches [.regs] s t)))

/-- Windows and registers (R10, R11, R65, R226, R293, R364, R422, R423). A window write of a stopped partition's core
is carried out and noted for its Colophons, and of a running one is discarded and counted; a BAR4 access acts as the
local access it maps to, and without BAR4 or in a sleep state answers nothing; a register write stores the fields it
covers, and one that does not reach its block or has a wrong size or alignment none; a read returns the rc fields that
it covers as they stood before the present Gatehouse cycle, and leaves in them the events of this cycle alone. The
model's own choices it rests on: log 14, log 16, log 65 and log 103. -/
def Obligations.RegisterAccesses : Prop :=
  ∀ (s : State),
    (∀ (c : CoreId) (off : BitVec 18) (bytes ws : List Byte), ws = bytes.take (0x28000 - off.toNat) → ws ≠ [] →
      ((∀ q, s.partOfCore c = some q → s.partStateCode q < 3 ∨ 5 < s.partStateCode q) →
        s.cleanAt (coreBase c + off.toNat) ws.length →
        ∃ t, exec (.windowWrite c off bytes) s = .next t ∧ t.rd (coreBase c + off.toNat) ws.length = ws ∧
          (∀ q, s.partOfCore c = some q → (t.part q).colo.window = true ∧ KeepsParts [q] s t) ∧
          (s.partOfCore c = none → t.parts = s.parts) ∧
          KeepsBytes (coreBase c + off.toNat) ws.length s t ∧ OnlyTouches [.mem, .sramErr, .parts] s t) ∧
      (∀ q, s.partOfCore c = some q → 3 ≤ s.partStateCode q → s.partStateCode q ≤ 5 →
        ∃ t, exec (.windowWrite c off bytes) s = .next t ∧
          t.rf (Reg.coreStatus c) 47 32 = satAdd (2 ^ 16 - 1) (s.rf (Reg.coreStatus c) 47 32) 1 ∧
          KeepsRegs [Reg.coreStatus c] s t ∧ OnlyTouches [.regs] s t)) ∧
    (∀ (p : Port) (off : BitVec 36) (n : Nat) (bs : List Byte) (a : Nat), a = s.bar4Base p + off.toNat →
      ((s.boot.bar4 = false ∨ s.asleep = true) →
        exec (.bar4Access p off (.read n)) s = .next { s with readBytes := [] } ∧
        exec (.bar4Access p off (.write bs)) s = .next { s with readBytes := [] }) ∧
      (s.boot.bar4 = true → s.asleep = false →
        (∀ r e u, s.localRead 127 a n = (r, e, u) →
          exec (.bar4Access p off (.read n)) s = .next { u with readBytes := if e.isSome then [] else r }) ∧
        (s.dramErr = [] → s.inDram a n = true →
          exec (.bar4Access p off (.read n)) s = .next { s with readBytes := s.rd a n }) ∧
        exec (.bar4Access p off (.write bs)) s = .next (s.localWrite 127 a bs) ∧
        (s.dramErr = [] → s.inDram a bs.length = true →
          (s.localWrite 127 a bs).rd a bs.length = bs ∧ KeepsBytes a bs.length s (s.localWrite 127 a bs) ∧
          OnlyTouches [.mem, .parts] s (s.localWrite 127 a bs)))) ∧
    (∀ (who : Requester) (off : BitVec 25) (size : Nat) (value : U64),
      ((accessOk off.toNat size = false ∨ s.writeReaches who off.toNat = false) →
        exec (.registerWrite who off size value) s = .next s) ∧
      (∀ k, k < 256 → off.toNat = Reg.fltAction k → size = 8 → s.writeReaches who off.toNat = true →
        fld (BitVec.ofNat 64 (actionFixed k)) 15 14 = 2 →
        ((∀ y, s.actionWrites k = some y → y.rank ≤ Requester.rank who) →
          ∃ t, exec (.registerWrite who off size value) s = .next t ∧ t.rf (Reg.fltAction k) 8 0 = fld value 8 0 ∧
            t.actionsNow k = s.actionsNow k ∧ t.flt.queue = s.flt.queue ∧
            KeepsRegs [Reg.fltAction k] s t ∧ OnlyTouches [.regs, .flt] s t) ∧
        (∀ y, s.actionWrites k = some y → Requester.rank who < y.rank →
          exec (.registerWrite who off size value) s = .next s))) ∧
    (∀ (ch : ChanId) (off : BitVec 25) (e : RegNow), off.toNat = Reg.memEccstat ch → s.boot.published = true →
      e = s.regNow off.toNat → s.reg off.toNat ≠ 0 →
      ∃ t, exec (.registerReadClear .gatehouse off 8) s = .next t ∧
        fld t.readData 23 0 = fld e.before 23 0 ∧ fld t.readData 39 24 = fld e.before 39 24 ∧
        t.readBytes = leBytes 8 t.readData.toNat ∧ t.rf off.toNat 23 0 = fld e.fresh 23 0 ∧
        t.rf off.toNat 39 24 = fld e.fresh 39 24 ∧ KeepsRegs [off.toNat] s t ∧
        OnlyTouches [.regs, .readData, .readBytes] s t)

/-- BAR0 takes accesses of 4 B and of 8 B, each aligned to its own size: such a read returns the register's bytes, and
such a write is stored, shown on GEN_DET_CLASS and on FLT_ACTION. A write of any other size or alignment is discarded;
a read of any other size or alignment completes with zero data and no side effect, and neither is counted (R422). In
the sleep states R406 stands before this rule. -/
def Obligations.AccessSizesTaken : Prop :=
  ∀ (p : Port) (off : BitVec 25) (size : Nat) (value : U64) (s : State) (who : Requester),
    who = (match p with | .a => .portA | .b => .portB) → s.asleep = false →
    (¬ ((size = 4 ∨ size = 8) ∧ off.toNat % size = 0) →
      exec (.registerWrite who off size value) s = .next s ∧
      exec (.registerReadClear who off size) s = .next { s with readData := 0, readBytes := zeros size }) ∧
    ((size = 4 ∨ size = 8) → off.toNat % size = 0 → s.boot.published = true →
      ((∃ k, off.toNat = Reg.genDetClass + 4 * k ∧ k < 2) →
        ∃ t, exec (.registerReadClear who off size) s = .next t ∧
          t.readBytes = slice (leBytes 8 (s.reg Reg.genDetClass).toNat) (off.toNat % 8) size ∧
          t.readData.toNat = leNat t.readBytes ∧ KeepsRegs [] s t ∧ OnlyTouches [.regs, .readData, .readBytes] s t) ∧
      (∀ k, k < 256 → off.toNat = Reg.fltAction k → fld (BitVec.ofNat 64 (actionFixed k)) 15 14 = 2 →
        (∀ y, s.actionWrites k = some y → y.rank ≤ Requester.rank who) →
        ∃ t, exec (.registerWrite who off size value) s = .next t ∧ t.rf (Reg.fltAction k) 8 0 = fld value 8 0 ∧
          KeepsRegs [Reg.fltAction k] s t ∧ OnlyTouches [.regs, .flt] s t))

/-- A fault message is 64 bits, with the source in bits 63 to 48, the kind in bits 47 to 40 and the address in bits 39
to 0; it is little-endian in every structure that holds it: the log entry, and FLT_FIRST and FLT_LASTRESET as they are
read (R353). -/
def Obligations.FaultMessageLayout : Prop :=
  ∀ src kind addr : Nat, src < 2 ^ 16 → kind < 2 ^ 8 → addr < 2 ^ 40 →
    fld (faultMsg src kind addr) 63 48 = src ∧ fld (faultMsg src kind addr) 47 40 = kind ∧
    fld (faultMsg src kind addr) 39 0 = addr ∧
    (∀ (m : FaultMsg) (time : U64) (start seq : Nat), m.msg = faultMsg src kind addr →
      leAt (logEntry m time start seq) 0 5 = addr ∧ leAt (logEntry m time start seq) 5 1 = kind ∧
      leAt (logEntry m time start seq) 6 2 = src) ∧
    (∀ (s : State) (off : BitVec 25), (off.toNat = Reg.fltFirst ∨ off.toNat = Reg.fltLastreset) →
      s.reg off.toNat = faultMsg src kind addr →
      ∃ t, exec (.registerReadClear .gatehouse off 8) s = .next t ∧ leAt t.readBytes 0 5 = addr ∧
        leAt t.readBytes 5 1 = kind ∧ leAt t.readBytes 6 2 = src)

/-- The fault collector (R360 to R366). It accepts the first message of its queue, one in a Gatehouse cycle, latches
it when nothing is latched and counts its class, and a waiting reporter takes the room; one without actions does no
more. Writing VALID clears VALID and OVERFLOW, and a message accepted in the same cycle is latched; writing a pending
bit clears it, or sends the vector again when MORE is set; RELEASE ends a fault hold under the conditions of R313, but
not one of the same cycle. The model's own choices it rests on: log 31, log 103 and log 127. -/
def Obligations.FaultCollectorAccepts : Prop :=
  ∀ (who : Requester) (s : State),
    ((s.flt.queue = [] ∨ s.accepting = true) → exec .faultAccept s = .next s) ∧
    (∀ m ms, s.flt.queue = m :: ms → ms.length < 64 → s.accepting = false → s.actionsNow (fld m.msg 47 40) = 0 →
      ∃ t, exec .faultAccept s = .next t ∧ t.accepting = true ∧
        (s.flt.waiting = [] → t.flt.queue = ms ∧ t.flt.waiting = []) ∧
        (∀ w ws, s.flt.waiting = w :: ws → t.flt.queue = placeMsg { w with at_ := s.mc } ms ∧ t.flt.waiting = ws) ∧
        (s.rf Reg.fltInfo 0 0 = 0 → t.reg Reg.fltFirst = m.msg ∧ t.reg Reg.fltTime = s.clk.gtimeNs ∧
          t.reg Reg.fltInfo = BitVec.ofNat 64 (1 + m.cls * 4 + m.tag % 128 * 16)) ∧
        (s.rf Reg.fltInfo 0 0 = 1 → t.reg Reg.fltFirst = s.reg Reg.fltFirst ∧ t.rf Reg.fltInfo 1 1 = 1) ∧
        t.rf Reg.fltCount (16 * m.cls + 15) (16 * m.cls) =
          satAdd (2 ^ 16 - 1) (s.rf Reg.fltCount (16 * m.cls + 15) (16 * m.cls)) 1 ∧
        KeepsRegs [Reg.fltFirst, Reg.fltTime, Reg.fltInfo, Reg.fltCount] s t ∧ OnlyTouches [.regs, .flt] s t) ∧
    (s.writeReaches who Reg.fltInfo = false → exec (.fltInfoClear who) s = .next s) ∧
    (s.writeReaches who Reg.fltInfo = true →
      (s.accepting = false →
        ∃ t, exec (.fltInfoClear who) s = .next t ∧ t.rf Reg.fltInfo 1 0 = 0 ∧
          fld (t.reg Reg.fltInfo) 63 2 = fld (s.reg Reg.fltInfo) 63 2 ∧ KeepsRegs [Reg.fltInfo] s t ∧
          OnlyTouches [.regs] s t) ∧
      (∀ m time, s.flt.accepted = some (s.mc, m, time) →
        ∃ t, exec (.fltInfoClear who) s = .next t ∧ t.reg Reg.fltFirst = m.msg ∧ t.reg Reg.fltTime = time ∧
          t.reg Reg.fltInfo = BitVec.ofNat 64 (1 + m.cls * 4 + m.tag % 128 * 16) ∧
          KeepsRegs [Reg.fltFirst, Reg.fltTime, Reg.fltInfo] s t ∧ OnlyTouches [.regs] s t)) ∧
    (∀ bits : BitVec 2,
      (s.writeReaches who Reg.fltPend = false → exec (.fltPendClear who bits) s = .next s) ∧
      (s.writeReaches who Reg.fltPend = true →
        ∃ t, exec (.fltPendClear who bits) s = .next t ∧
          (∀ p : Port,
            ((bits.getLsbD p.num = false ∨ s.rf Reg.fltPend p.num p.num = 0) →
              t.rf Reg.fltPend p.num p.num = s.rf Reg.fltPend p.num p.num ∧
              t.rf Reg.fltPend (p.num + 2) (p.num + 2) = s.rf Reg.fltPend (p.num + 2) (p.num + 2)) ∧
            (bits.getLsbD p.num = true → s.rf Reg.fltPend p.num p.num = 1 →
              (s.rf Reg.fltPend (p.num + 2) (p.num + 2) = 0 → t.rf Reg.fltPend p.num p.num = 0 ∧
                t.rf Reg.fltPend (p.num + 2) (p.num + 2) = 0) ∧
              (s.rf Reg.fltPend (p.num + 2) (p.num + 2) = 1 → t.rf Reg.fltPend p.num p.num = 1 ∧
                t.rf Reg.fltPend (p.num + 2) (p.num + 2) = 0 ∧
                (s.rf (Reg.hstPortstat p.num) 0 0 = 1 → s.vectorMasked p (s.rf (Reg.hstPortcfg p.num) 25 18) = false →
                  (p, s.rf (Reg.hstPortcfg p.num) 25 18) ∈ t.msix)))) ∧
          KeepsRegs [Reg.fltPend] s t ∧ OnlyTouches [.regs, .msix] s t)) ∧
    (∀ q : BitVec 7,
      ((s.writeReaches who Reg.fltCtrl = false ∨ 96 ≤ q.toNat ∨ s.mayOwn who q.toNat = false ∨
          (s.part q.toNat).heldAt = some s.mc) → exec (.faultHoldRelease who q) s = .next s) ∧
      (q.toNat < 96 → s.writeReaches who Reg.fltCtrl = true → s.mayOwn who q.toNat = true →
        (s.part q.toNat).heldAt ≠ some s.mc → (s.part q.toNat).faultHold = true →
        ∃ t, exec (.faultHoldRelease who q) s = .next t ∧
          t.part q.toNat = { s.part q.toNat with
            faultHold := false
            resumeIn := (if (s.part q.toNat).run = .running ∧ (s.part q.toNat).hold = none ∧
              (s.part q.toNat).stopped = false then some 40 else (s.part q.toNat).resumeIn)
            freezeAt := (if (s.part q.toNat).run = .running ∨ (s.part q.toNat).stopped = true then
              (s.part q.toNat).freezeAt else none)
            froze := (t.part q.toNat).froze } ∧
          KeepsParts [q.toNat] s t ∧ OnlyTouches [.parts] s t))

/-! ## Entropy (R139 to R142, R338 to R352) -/

/-- The entropy source (R141, R142, R338 to R352). Every running source takes its bit and its tests go on; a failing
source starts again, its failure counted and reported and the block discarded; the expander takes a seed into its key
and answers a request with 16 B and a new key; the Gatehouse alone switches the source on and off, and failures still
count after; fewer than two sources are fatal; a seeding takes 336 B for four lanes in its turn. The model's own
choices it rests on: log 68, log 69, log 127, log 128 and log 129. -/
def Obligations.EntropySourceRuns : Prop :=
  ∀ (s : State),
    (∀ bits : Byte,
      ((s.ent.state = .off ∨ s.ent.state = .fatal) → exec (.noiseSample bits) s = .next s) ∧
      (s.ent.state ≠ .off → s.ent.state ≠ .fatal →
        (s.sampleFails bits = [] →
          ∃ t, exec (.noiseSample bits) s = .next t ∧
            (∀ i ∈ s.enabledSources, (s.noise i).running = true →
              t.noise i = ((s.noise i).sample (bits.getLsbD i)).2) ∧
            t.ent.key = s.ent.key ∧ t.ent.out = s.ent.out ∧ t.ent.fails = s.ent.fails ∧
            OnlyTouches [.regs, .ent, .rings, .descs] s t) ∧
        (∀ i f, s.sampleFails bits = [(i, f)] → s.ent.fails.length < 3 → s.ent.state = .startup →
          ∃ t, exec (.noiseSample bits) s = .next t ∧ t.noise i = { running := true } ∧ t.ent.block = [] ∧
            t.ent.fails = s.clk.wall :: s.ent.fails ∧
            t.rf Reg.entStat 15 0 = satAdd (2 ^ 16 - 1) (s.rf Reg.entStat 15 0) 1 ∧
            Reports [(blockSrc 6 i, 0x50, f)] 127 s t ∧ OnlyTouches [.regs, .ent, .flt] s t))) ∧
    ((s.ent.state = .fatal ∨ s.ent.state = .off ∨ s.ent.wantsSeed = false) → exec .expanderReseed s = .next s) ∧
    (∀ seed rest, s.ent.state ≠ .fatal → s.ent.state ≠ .off → s.ent.seeds = seed :: rest →
      (s.ent.key = none →
        ∃ t, exec .expanderReseed s = .next t ∧ t.ent.seeds = rest ∧ t.ent.count = 0 ∧ t.ent.reseeds = 0 ∧
          t.ent.key = some (shake256_256 (ascii "VXB-ENT-I" ++ leBytes 5 s.serial ++ seed)) ∧
          OnlyTouches [.regs, .ent] s t) ∧
      (∀ k, s.ent.key = some k → 4096 ≤ s.ent.count →
        ∃ t, exec .expanderReseed s = .next t ∧ t.ent.seeds = rest ∧ t.ent.count = 0 ∧
          t.ent.reseeds = s.ent.reseeds + 1 ∧
          t.ent.key = some (shake256_256 (ascii "VXB-ENT-R" ++ k ++ seed ++ leBytes 8 (s.ent.reseeds + 1))) ∧
          OnlyTouches [.regs, .ent] s t)) ∧
    ((s.ent.state.serves = false ∨ 4096 < s.ent.out.length + 16) → exec .expanderRequest s = .next s) ∧
    (∀ k, s.ent.state.serves = true → s.ent.out.length + 16 ≤ 4096 → s.ent.wantsSeed = false → s.ent.key = some k →
      s.hall.keying = [] → s.ent.count + 1 < 1048576 →
      ∃ t, exec .expanderRequest s = .next t ∧
        t.ent.out = s.ent.out ++ (shake256 48 (k ++ leBytes 8 s.ent.count)).take 16 ∧
        t.ent.key = some ((shake256 48 (k ++ leBytes 8 s.ent.count)).drop 16) ∧ t.ent.count = s.ent.count + 1 ∧
        t.ent.seeds = s.ent.seeds ∧ OnlyTouches [.ent] s t) ∧
    (s.ent.state = .off →
      (2 ≤ s.enabledSources.length →
        ∃ t, exec (.entEnable .gatehouse) s = .next t ∧ t.ent.state = .startup ∧ t.rf Reg.entCtrl 0 0 = 1 ∧
          t.ent.fails = s.ent.fails ∧
          (∀ i ∈ s.enabledSources, t.noise i = { running := true }) ∧ KeepsRegs [Reg.entCtrl] s t ∧
          OnlyTouches [.regs, .ent] s t) ∧
      (s.enabledSources.length < 2 →
        ∃ t, exec (.entEnable .gatehouse) s = .next t ∧ t.ent.state = .fatal ∧ t.ent.cause = 2 ∧ t.ent.key = none ∧
          t.ent.out = [] ∧ Reports [(blockSrc 6 8, 0x51, 2)] 127 s t ∧
          (∀ x ∈ t.descs, ¬ (x.phase = .running ∧ leAt x.bytes 0 1 = 0x0A)) ∧
          OnlyTouches [.regs, .ent, .hall, .rings, .descs, .flt] s t)) ∧
    (s.ent.state ≠ .off → exec (.entEnable .gatehouse) s = .next s) ∧
    (s.ent.state = .fatal → exec (.entDisable .gatehouse) s = .next s) ∧
    (s.ent.state ≠ .fatal →
      ∃ t, exec (.entDisable .gatehouse) s = .next t ∧ t.rf Reg.entCtrl 0 0 = 0 ∧
        t.ent = { seeded := s.ent.seeded, seedNext := s.ent.seedNext, failedSeed := s.ent.failedSeed
                  fails := s.ent.fails } ∧
        KeepsRegs [Reg.entCtrl] s t ∧ OnlyTouches [.regs, .ent] s t) ∧
    (∀ who : Requester, who ≠ .gatehouse →
      exec (.entEnable who) s = .next s ∧ exec (.entDisable who) s = .next s) ∧
    (s.ent.seeding = true → s.turn .seeding = true → s.ent.state.serves = true → 336 ≤ s.ent.out.length →
      ∃ t, exec .laneSeeding s = .next t ∧ t.ent.out = s.ent.out.drop 336 ∧ t.ent.seedNext = s.ent.seedNext + 4 ∧
        (∀ i, i < 4 → Table.look (fun _ => ({} : LaneGen)) t.lanes (s.ent.seedNext + i) =
          laneRecord (slice s.ent.out (84 * i) 84)) ∧
        t.ent.seeded = decide (laneCount ≤ s.ent.seedNext + 4) ∧ t.ent.seeding = !t.ent.seeded ∧
        OnlyTouches [.lanes, .ent] s t) ∧
    ((s.ent.seeding = false ∨ s.turn .seeding = false ∨ s.ent.state.serves = false ∨ s.ent.out.length < 336) →
      exec .laneSeeding s = .next s) ∧
    (∀ h : Half, ∃ t, exec (.laneGeneratorOutput h) s = .next t ∧
      t.lanes.map Prod.fst = s.lanes.map Prod.fst ∧
      (∀ e ∈ s.lanes, halfOfCore (e.1 / 64) = h → (e.1, e.2.step (laneInc s.serial e.1)) ∈ t.lanes) ∧
      (∀ e ∈ s.lanes, halfOfCore (e.1 / 64) ≠ h → e ∈ t.lanes) ∧ OnlyTouches [.lanes] s t)

/-! ## Resets, starts and the Gatehouse (R292 to R294, R324, R327, R358, R368 to R400, R425, R436 to R438) -/

/-- Module resets (R324, R327, R358, R386, R391, R437). A module reset by JTAG, by MODULE_RESET or by the watchdog
leaves what ResetLeaves says: LPDDR6 is kept unless a fall of a supply came before it while the module was in reset,
and the next start is cold when ARG0 asks for it or an earlier reset that was not released asks for it. The watchdog
acts once its limit has passed and keeps its message in FLT_LASTRESET. A fall of a supply loses LPDDR6 and
FLT_LASTRESET and makes the next start cold. The model's own choices it rests on: log 7, log 74 and log 142. -/
def Obligations.ModuleResetKeeps : Prop :=
  ∀ (s : State),
    (∃ t, exec .jtagReset s = .next t ∧
      ResetLeaves (!s.boot.inReset || s.boot.memKept) (s.reg Reg.fltLastreset) s t ∧
      t.boot.cold = (s.boot.inReset && (s.boot.cold || !s.boot.memKept))) ∧
    (∀ c cs, AtHead s 1 c cs →
      ∃ t, exec .moduleReset s = .next t ∧
        ResetLeaves (!s.boot.inReset || s.boot.memKept) (s.reg Reg.fltLastreset) s t ∧
        t.boot.cold = ((c.arg 0).testBit 0 || (s.boot.inReset && (s.boot.cold || !s.boot.memKept)))) ∧
    (∀ pc : BitVec 40,
      ((s.boot.inReset = true ∧ s.boot.bootRom = false) ∨ s.pwr.state = .s3 ∨
          s.clk.wall ≤ s.mgt.wdtAt + s.rf Reg.mgtWdt 39 8 * 48 → exec (.ghsWatchdog pc) s = .next s) ∧
      ((s.boot.inReset = false ∨ s.boot.bootRom = true) → s.pwr.state ≠ .s3 →
        s.mgt.wdtAt + s.rf Reg.mgtWdt 39 8 * 48 < s.clk.wall →
        ∃ t, exec (.ghsWatchdog pc) s = .next t ∧
          ResetLeaves (!s.boot.inReset || s.boot.memKept) (faultMsg (blockSrc 9 0) 0xB0 pc.toNat) s t ∧
          t.boot.cold = (s.boot.inReset && (s.boot.cold || !s.boot.memKept)))) ∧
    (∃ t, exec .supplyGoodFall s = .next t ∧ ResetLeaves false (regReset Reg.fltLastreset) s t ∧ t.boot.cold = true ∧
      t.boot.supplies = false ∧ t.boot.pgAt = none ∧ t.pwr.tripped = false)

/-- A start and the pins around it (R292, R294, R317, R368 to R378, R381, R388, R425, R436, R438). A release of module
reset does nothing while a supply is low, before its 100 µs have passed, after a thermal trip, or in the boot ROM.
With a valid firmware image it counts the start, leaves reset and runs its tests; where LPDDR6 was not kept or a cold
start is asked for it clears LPDDR6, and on the warm path it keeps it; without a valid image the Gatehouse stays in
its boot ROM. A start publishes GEN_CAPS, with a bit for every quire that is not retired and their count, once its
tests have taken their time and the lanes are seeded or the entropy source is fatal. The supplies' rise and sags are
noted, and a sag ends a flash write in progress with REFUSED after its page. A host port's reset takes its link down,
disables its rings, drops what they owe and frees its semaphores; a usable port's link trains at a rate and width that
PCIe gives. The model's own choices it rests on: log 30, log 130, log 131 and log 134. -/
def Obligations.StartsPublish : Prop :=
  ∀ (s : State),
    (∀ tests, (s.boot.inReset = false ∨ s.boot.supplies = false ∨ s.pwr.tripped = true ∨ s.boot.bootRom = true ∨
        (∃ a, s.boot.pgAt = some a ∧ s.clk.wall < a + usec 100)) → exec (.moduleResetRelease tests) s = .next s) ∧
    (∀ tests, s.boot.inReset = true → s.boot.supplies = true → s.pwr.tripped = false → s.boot.bootRom = false →
      (∀ a, s.boot.pgAt = some a → a + usec 100 ≤ s.clk.wall) →
      (∀ slot, s.bootSlot = some slot →
        ∃ t, exec (.moduleResetRelease tests) s = .next t ∧ t.boot.inReset = false ∧
          t.boot.published = s.boot.published ∧
          (∃ warm, t.boot.start = some ⟨s.clk.wall, tests.durationMs.toNat, warm⟩ ∧
            (s.warmStart (shake256_256 tests.fuseBits) = false → warm = false)) ∧
          ((s.boot.memKept = false ∨ s.boot.cold = true) → t.mem = [] ∧ t.dramErr = []) ∧
          (s.warmStart (shake256_256 tests.fuseBits) = true → t.mem = s.mem ∧ t.dramErr = s.dramErr) ∧
          t.reg Reg.genStarts = BitVec.ofNat 64 (min 0xFFFFFFFF (s.mgt.lastStart + 1)) ∧ t.mgt.slot = slot ∧
          t.mgt.wdtAt = s.clk.wall ∧
          OnlyTouches [.regs, .mem, .dramErr, .boot, .chans, .hall, .rings, .descs, .ent, .flt, .mgt, .pwr] s t) ∧
      (s.bootSlot = none →
        ∃ t, exec (.moduleResetRelease tests) s = .next t ∧ t.boot.bootRom = true ∧ t.boot.inReset = true ∧
          t.boot.published = s.boot.published ∧ t.boot.start = s.boot.start ∧ t.mgt.wdtAt = s.clk.wall ∧
          OnlyTouches [.regs, .boot, .mgt] s t)) ∧
    (s.startDone = true →
      s.endStart.boot.published = true ∧ s.endStart.boot.start = none ∧
      (∀ q, q < 96 → bit (s.endStart.reg (Reg.genCaps + 8 * (q / 64))) (q % 64) = !s.boot.retired.contains q) ∧
      s.endStart.rf (Reg.genCaps + 8) 39 32 = ((List.range 96).filter (fun q => !s.boot.retired.contains q)).length ∧
      KeepsRegs (Reg.fltStat :: (List.range 4).map (fun i => Reg.genCaps + 8 * i)) s s.endStart ∧
      OnlyTouches [.regs, .boot, .flt] s s.endStart) ∧
    (∀ x, s.pending = [] → s.toIssue = [] → s.boot.start = some x → x.since + x.ms * usec 1000 ≤ s.clk.wall + 1 →
      (s.ent.seeded = true ∨ s.ent.state = .fatal) →
      ∃ t, step s = .next t ∧ t.boot.published = true ∧ t.boot.start = none) ∧
    (s.boot.supplies = true → exec .supplyGoodRise s = .next s) ∧
    (s.boot.supplies = false → exec .supplyGoodRise s =
      .next { s with boot := { s.boot with supplies := true, pgAt := some s.clk.wall } }) ∧
    (s.mgt.job = none → exec .supplySag s = .next { s with boot := { s.boot with sag := true } }) ∧
    (∀ j, s.mgt.job = some j →
      ∃ t, exec .supplySag s = .next t ∧ t.boot = { s.boot with sag := true } ∧ t.mgt.job = none ∧
        t.flash = (s.programPage j).flash ∧ t.rf Reg.cfgStatus 6 6 = 1 ∧ t.rf Reg.cfgStatus 5 4 = 0 ∧
        (∀ c, j.cmd = some c → EndsAs c s.mgt.queue stRefused 0 [] s t) ∧ t.mgt.queue = s.mgt.queue ∧
        KeepsRegs (Reg.cfgStatus :: mailRegs) s t ∧ OnlyTouches [.regs, .flash, .boot, .mgt, .msix] s t) ∧
    exec .supplySagEnd s = .next { s with boot := { s.boot with sag := false } } ∧
    (∀ p : Port,
      ∃ t, exec (.hostPortReset p) s = .next t ∧ t.rf (Reg.hstPortstat p.num) 8 0 = 0 ∧
        (∀ r, r < 97 → t.pairOn p r = false ∧ (t.ringPair p r).owed = [] ∧ (t.ringPair p r).irqs = 0) ∧
        t.descs = orphanDescs p s.descs ∧
        (∀ n, n < 64 → (s.sem n).owner = p.num + 1 → (t.sem n).owner = 0 ∧ (t.sem n).leaseEnd = none) ∧
        (∀ n, n < 64 → (s.sem n).owner ≠ p.num + 1 → t.sem n = s.sem n) ∧
        OnlyTouches [.regs, .rings, .descs, .sems] s t) ∧
    (∀ (p : Port) (gen : BitVec 3) (width : BitVec 5),
      ((s.boot.inReset = true ∧ s.boot.bootRom = false) ∨ p.num ∉ s.boot.hostPorts ∨ gen.toNat < 4 ∨ 6 < gen.toNat ∨
        width.toNat ∉ [4, 8, 16] → exec (.hostLinkUp p gen width) s = .next s) ∧
      ((s.boot.inReset = false ∨ s.boot.bootRom = true) → p.num ∈ s.boot.hostPorts → 4 ≤ gen.toNat → gen.toNat ≤ 6 →
        width.toNat ∈ [4, 8, 16] →
        ∃ t, exec (.hostLinkUp p gen width) s = .next t ∧ t.rf (Reg.hstPortstat p.num) 0 0 = 1 ∧
          t.rf (Reg.hstPortstat p.num) 3 1 = gen.toNat ∧ t.rf (Reg.hstPortstat p.num) 8 4 = width.toNat ∧
          KeepsRegs [Reg.hstPortstat p.num] s t ∧ OnlyTouches [.regs] s t))

/-- Commands at the head of the Gatehouse's queue that act on the array and on what survives (R162, R163, R324, R380
to R383, R387 to R390). A region is allocated in free blocks, or CONFLICT where there are none, and freed where it is
the Gatehouse's and not in use; a quire's cores are reset where the owner allows it. CONFIG_WRITE, CAL_WRITE and
FW_UPDATE check their data, erase their place and begin to write it; the write goes on page by page, and its end puts
the copy in force or ends the command. The anti-rollback counter rises to the running image's where both slots hold
one. Under a sag no non-volatile write begins. The model's own choices it rests on: log 46, log 47, log 71, log 86,
log 87, log 132 and log 134. -/
def Obligations.MailboxWritesComplete : Prop :=
  ∀ (s : State) (c : MgtCmd) (cs : List MgtCmd),
    (AtHead s 3 c cs → ∀ b first blocks use, b = bitsN (c.arg 0) 7 0 → first = bitsN (c.arg 0) 15 8 →
      blocks = bitsN (c.arg 0) 23 16 → use = bitsN (c.arg 0) 31 24 →
      ((3 < b ∨ use < 3 ∨ 5 < use ∨ 255 < first + blocks) →
        ∃ t, exec .regionAlloc s = .next t ∧ EndsAs c cs stBad 0 [] s t ∧ KeepsRegs mailRegs s t ∧
          OnlyTouches [.regs, .mgt, .msix] s t) ∧
      (b ≤ 3 → 3 ≤ use → use ≤ 5 → first + blocks ≤ 255 →
        (∀ k, s.blocksFree 128 b first blocks = true → s.freeEntry 128 b = some k →
          ∃ t, exec .regionAlloc s = .next t ∧ EndsAs c cs stDone k [] s t ∧
            t.regionReg b k = regionWord first blocks 127 use ∧
            KeepsRegs (Reg.arrEbregion (b * 32 + k) :: mailRegs) s t ∧ OnlyTouches [.regs, .mgt, .msix] s t) ∧
        ((s.blocksFree 128 b first blocks = false ∨ s.freeEntry 128 b = none) →
          ∃ t, exec .regionAlloc s = .next t ∧ EndsAs c cs stConflict 0 [] s t ∧ KeepsRegs mailRegs s t ∧
            OnlyTouches [.regs, .mgt, .msix] s t))) ∧
    (AtHead s 4 c cs → ∀ b k, b = bitsN (c.arg 0) 7 0 → k = bitsN (c.arg 0) 15 8 →
      (∀ st r, (((3 < b ∨ 31 < k) ∧ st = stBad ∧ r = 0) ∨
          (b ≤ 3 ∧ k ≤ 31 ∧ bit (s.regionReg b k) 31 = false ∧ st = stDone ∧ r = 0) ∨
          (b ≤ 3 ∧ k ≤ 31 ∧ bit (s.regionReg b k) 31 = true ∧ fld (s.regionReg b k) 22 16 < 96 ∧ st = stRefused ∧
            r = 0) ∨
          (b ≤ 3 ∧ k ≤ 31 ∧ bit (s.regionReg b k) 31 = true ∧ 96 ≤ fld (s.regionReg b k) 22 16 ∧
            s.stagingBusy (fld (s.regionReg b k) 27 24) = true ∧ st = stConflict ∧ r = 0)) →
        ∃ t, exec .regionFree s = .next t ∧ EndsAs c cs st r [] s t ∧ KeepsRegs mailRegs s t ∧
          OnlyTouches [.regs, .mgt, .msix] s t) ∧
      (b ≤ 3 → k ≤ 31 → bit (s.regionReg b k) 31 = true → 96 ≤ fld (s.regionReg b k) 22 16 →
        s.stagingBusy (fld (s.regionReg b k) 27 24) = false →
        ∃ t, exec .regionFree s = .next t ∧ EndsAs c cs stDone 1 [] s t ∧ t.regionReg b k = 0 ∧
          KeepsRegs (Reg.arrEbregion (b * 32 + k) :: mailRegs) s t ∧ OnlyTouches [.regs, .mgt, .msix] s t)) ∧
    (AtHead s 2 c cs →
      (96 ≤ c.arg 0 →
        ∃ t, exec .quireReset s = .next t ∧ EndsAs c cs stBad 0 [] s t ∧ KeepsRegs mailRegs s t ∧
          OnlyTouches [.regs, .mgt, .msix] s t) ∧
      (∀ p, c.arg 0 < 96 → s.partOfQuire (c.arg 0) = some p → s.mayOwn c.src.who p = false →
        ∃ t, exec .quireReset s = .next t ∧ EndsAs c cs stRefused 0 [] s t ∧ KeepsRegs mailRegs s t ∧
          OnlyTouches [.regs, .mgt, .msix] s t) ∧
      (c.arg 0 < 96 → (∀ p, s.partOfQuire (c.arg 0) = some p → s.mayOwn c.src.who p = true) →
        ((∀ q, (s.part q).resetAt ≠ some s.mc) →
          ∃ t, exec .quireReset s = .next t ∧ EndsAs c cs stDone 0 [] s t ∧
            (∀ n ∈ quireCores (c.arg 0), (t.core n).live = {} ∧ (t.core n).absorb = true) ∧
            (∀ p, s.partOfQuire (c.arg 0) = some p → (t.part p).faulted = true ∧ (t.part p).stopLine = true) ∧
            OnlyTouches [.regs, .mem, .sramErr, .cores, .parts, .flt, .mgt, .msix] s t) ∧
        (∀ p, s.partOfQuire (c.arg 0) = some p → (s.part p).resetAt = some s.mc →
          ∃ t, exec .quireReset s = .next t ∧ EndsAs c cs stDone 0 [] s t ∧ KeepsRegs mailRegs s t ∧
            OnlyTouches [.regs, .mgt, .msix] s t))) ∧
    (∀ bs es, AtHead s 5 c cs → c.arg 1 ≤ 0x40000 → s.dramErr = [] → s.staged c (c.arg 0) (c.arg 1) = true →
      bs = (if c.src.box.isNone then c.bytes else s.rd (c.arg 0) (c.arg 1)) → parseEntries (bs.length / 8) bs = some es →
      (cfgImage 0 (mergeEntries s.store es)).length ≤ 0x40000 →
      (s.boot.sag = false →
        ∃ t k seq, exec .configWrite s = .next t ∧ some k ≠ s.cfgWinner ∧ k ≤ 1 ∧
          (∀ w, s.cfgWinner = some w → seq = (cfgSeq (s.cfgBytes w) + 1) % 2 ^ 32) ∧
          t.mgt = { s.mgt with
            queue := cs
            job := some { goal := .store k seq, cmd := some c, place := cfgCopy k
                          image := cfgImage seq (mergeEntries s.store es), pageAt := s.clk.wall + pageTime } } ∧
          (∀ a, Table.look blankByte t.flash a =
            if cfgCopy k ≤ a ∧ a < cfgCopy k + 0x40000 then 0xFF else Table.look blankByte s.flash a) ∧
          t.rf Reg.cfgStatus 5 4 = 1 ∧ KeepsRegs [Reg.cfgStatus] s t ∧ OnlyTouches [.regs, .flash, .mgt] s t) ∧
      (s.boot.sag = true →
        ∃ t, exec .configWrite s = .next t ∧ EndsAs c cs stRefused 0 [] s t ∧ t.rf Reg.cfgStatus 6 6 = 1 ∧
          KeepsRegs (Reg.cfgStatus :: mailRegs) s t ∧ OnlyTouches [.regs, .mgt, .msix] s t)) ∧
    (AtHead s 5 c cs → (0x40000 < c.arg 1 ∨ s.staged c (c.arg 0) (c.arg 1) = false ∨
        (s.dramErr = [] ∧ ∀ bs, bs = (if c.src.box.isNone then c.bytes else s.rd (c.arg 0) (c.arg 1)) →
          parseEntries (bs.length / 8) bs = none)) →
      ∃ t, exec .configWrite s = .next t ∧ EndsAs c cs stBad 0 [] s t ∧ KeepsRegs mailRegs s t ∧
        OnlyTouches [.regs, .mgt, .msix] s t) ∧
    (∀ bs, AtHead s 6 c cs → s.dramErr = [] → s.staged c (c.arg 0) 65536 = true →
      bs = (if c.src.box.isNone then c.bytes else s.rd (c.arg 0) 65536) →
      (bs.length = 65536 → shake256_256 (bs.take 65504) = bs.drop 65504 → s.boot.sag = false →
        ∃ t, exec .calWrite s = .next t ∧ t.fuse = { s.fuse with calFactory := false } ∧
          t.mgt = { s.mgt with
            queue := cs
            job := some { goal := .calibration, cmd := some c, place := 0x2080000, image := bs
                          pageAt := s.clk.wall + pageTime } } ∧
          t.rf Reg.cfgStatus 3 3 = 0 ∧ t.rf Reg.cfgStatus 5 4 = 2 ∧ KeepsRegs [Reg.cfgStatus] s t ∧
          OnlyTouches [.regs, .flash, .fuse, .mgt] s t) ∧
      (bs.length = 65536 → shake256_256 (bs.take 65504) = bs.drop 65504 → s.boot.sag = true →
        ∃ t, exec .calWrite s = .next t ∧ EndsAs c cs stRefused 0 [] s t ∧ t.rf Reg.cfgStatus 6 6 = 1 ∧
          KeepsRegs (Reg.cfgStatus :: mailRegs) s t ∧ OnlyTouches [.regs, .mgt, .msix] s t) ∧
      ((bs.length ≠ 65536 ∨ shake256_256 (bs.take 65504) ≠ bs.drop 65504) →
        ∃ t, exec .calWrite s = .next t ∧ EndsAs c cs stMismatch 0 [] s t ∧ KeepsRegs mailRegs s t ∧
          OnlyTouches [.regs, .mgt, .msix] s t)) ∧
    (∀ (i : Instr) op a n host, (i, op, a, n) ∈ [(Instr.configWrite, 5, c.arg 0, c.arg 1), (.calWrite, 6, c.arg 0, 65536),
        (.fwUpdate host, 7, c.arg 0, c.arg 1)] → AtHead s op c cs → c.src.box.isSome = true → s.boot.bootRom = false →
      (op = 5 → c.arg 1 ≤ 0x40000) → s.staged c a n = true → (s.dramUe a n).isSome →
      ∃ t, exec i s = .next t ∧ EndsAs c cs stFaulted 0 [] s t ∧ KeepsRegs (mailRegs ++ dramRegs) s t ∧
        OnlyTouches [.regs, .flt, .mgt, .msix] s t) ∧
    (∀ host img, AtHead s 7 c cs →
      ((s.boot.bootRom = true ∧ c.src.box.isSome = true ∧ img = host.take (c.arg 1)) ∨
        (c.src.box.isNone = true ∧ img = c.bytes) ∨
        (s.boot.bootRom = false ∧ c.src.box.isSome = true ∧ s.dramErr = [] ∧ s.staged c (c.arg 0) (c.arg 1) = true ∧
          img = s.rd (c.arg 0) (c.arg 1))) →
      ((s.imageSound (img.take 4096) (img.drop 4096) = false ∨ 64 < leAt (img.take 4096) 0x0C 4 ∨
          img.length < 4096 + leAt (img.take 4096) 0x10 4 ∨ 0x1000000 < img.length) →
        ∃ t, exec (.fwUpdate host) s = .next t ∧ EndsAs c cs stMismatch 0 [] s t ∧ KeepsRegs mailRegs s t ∧
          OnlyTouches [.regs, .mgt, .msix] s t) ∧
      (s.imageSound (img.take 4096) (img.drop 4096) = true → leAt (img.take 4096) 0x0C 4 ≤ 64 →
        4096 + leAt (img.take 4096) 0x10 4 ≤ img.length → img.length ≤ 0x1000000 →
        (leAt (img.take 4096) 0x0C 4 < s.rollback →
          ∃ t, exec (.fwUpdate host) s = .next t ∧ EndsAs c cs stRefused 0 [] s t ∧ KeepsRegs mailRegs s t ∧
            OnlyTouches [.regs, .mgt, .msix] s t) ∧
        (s.rollback ≤ leAt (img.take 4096) 0x0C 4 → s.boot.sag = true →
          ∃ t, exec (.fwUpdate host) s = .next t ∧ EndsAs c cs stRefused 0 [] s t ∧ t.rf Reg.cfgStatus 6 6 = 1 ∧
            KeepsRegs (Reg.cfgStatus :: mailRegs) s t ∧ OnlyTouches [.regs, .mgt, .msix] s t) ∧
        (s.rollback ≤ leAt (img.take 4096) 0x0C 4 → s.boot.sag = false →
          ∃ t, exec (.fwUpdate host) s = .next t ∧
            t.mgt = { s.mgt with
              queue := cs
              job := some { goal := .slot 1, cmd := some c, place := fwSlot 1
                            image := if s.boot.bootRom then padTo img.length (Config.secondPass s.clk.wall img) else img
                            pageAt := s.clk.wall + pageTime } } ∧
            KeepsRegs [Reg.cfgStatus] s t ∧ OnlyTouches [.regs, .flash, .mgt] s t))) ∧
    (∀ want, AtHead s 8 c cs → want = s.rf Reg.mgtFwinfo 22 16 →
      (s.rollback = want →
        ∃ t, exec .fwCommit s = .next t ∧ EndsAs c cs stDone 0 [] s t ∧ KeepsRegs mailRegs s t ∧
          OnlyTouches [.regs, .mgt, .msix] s t) ∧
      (s.rollback ≠ want → (∀ k, k < 2 → s.slotValid k = true ∧ want ≤ leAt (s.slotHeader k) 0x0C 4) →
        (s.boot.sag = false →
          ∃ t, exec .fwCommit s = .next t ∧ EndsAs c cs stDone 0 [] s t ∧
            t.fuse = { s.fuse with rollback := max s.rollback want } ∧
            t.rf Reg.mgtFwinfo 14 8 = max s.rollback want % 128 ∧
            KeepsRegs (Reg.fltStat :: Reg.mgtFwinfo :: mailRegs) s t ∧
            OnlyTouches [.regs, .fuse, .flt, .mgt, .msix] s t) ∧
        (s.boot.sag = true →
          ∃ t, exec .fwCommit s = .next t ∧ EndsAs c cs stRefused 0 [] s t ∧ t.rf Reg.cfgStatus 6 6 = 1 ∧
            KeepsRegs (Reg.cfgStatus :: mailRegs) s t ∧ OnlyTouches [.regs, .mgt, .msix] s t)) ∧
      (∀ k, s.rollback ≠ want → k < 2 → (s.slotValid k = false ∨ leAt (s.slotHeader k) 0x0C 4 < want) →
        ∃ t, exec .fwCommit s = .next t ∧ EndsAs c cs stRefused 0 [] s t ∧ KeepsRegs mailRegs s t ∧
          OnlyTouches [.regs, .mgt, .msix] s t)) ∧
    (∀ j, s.mgt.job = some j → s.mgt.halted = false → j.pageAt ≤ s.clk.wall →
      (j.next + pageBytes < j.image.length →
        s.flashCycle.mgt = { s.mgt with
          job := some { j with next := j.next + pageBytes, pageAt := s.clk.wall + pageTime } } ∧
        (s.flashRd j.place j.next = j.image.take j.next →
          s.flashCycle.flashRd j.place (j.next + pageBytes) = j.image.take (j.next + pageBytes)) ∧
        OnlyTouches [.flash, .mgt] s s.flashCycle) ∧
      (∀ k seq, j.image.length ≤ j.next + pageBytes → j.goal = .store k seq →
        (s.flashRd j.place j.next = j.image.take j.next →
          s.flashCycle.flashRd j.place j.image.length = j.image) ∧
        s.flashCycle.rf Reg.cfgStatus 0 0 = k % 2 ∧ s.flashCycle.rf Reg.cfgStatus 1 1 = 1 ∧
        s.flashCycle.rf Reg.cfgStatus 39 8 = seq % 2 ^ 32 ∧ s.flashCycle.mgt.job = none ∧
        (∀ x, j.cmd = some x → EndsAs x s.mgt.queue stDone 0 [] s s.flashCycle) ∧
        OnlyTouches [.regs, .flash, .mgt, .msix] s s.flashCycle) ∧
      (j.image.length ≤ j.next + pageBytes → j.goal = .slot 1 → (s.programPage j).slotSound 1 = true →
        s.boot.sag = false →
        s.flashCycle.mgt.job = some { goal := .slot 0, cmd := j.cmd, place := fwSlot 0, image := j.image
                                      pageAt := s.clk.wall + pageTime }) ∧
      (∀ x, j.image.length ≤ j.next + pageBytes → j.goal = .calibration → j.cmd = some x →
        EndsAs x s.mgt.queue stDone 0 [] s s.flashCycle ∧ s.flashCycle.mgt.job = none) ∧
      (∀ x, j.image.length ≤ j.next + pageBytes → j.goal = .slot 1 → (s.programPage j).slotSound 1 = true →
        s.boot.sag = true → j.cmd = some x →
        EndsAs x s.mgt.queue stRefused 0 [] s s.flashCycle ∧ s.flashCycle.rf Reg.cfgStatus 6 6 = 1) ∧
      (∀ k x, j.image.length ≤ j.next + pageBytes → j.goal = .slot k → j.cmd = some x →
        (s.programPage j).slotSound k = false →
        EndsAs x s.mgt.queue stMismatch 0 [] s s.flashCycle ∧ s.flashCycle.mgt.job = none) ∧
      (∀ x, j.image.length ≤ j.next + pageBytes → j.goal = .slot 0 → j.cmd = some x →
        (s.programPage j).slotSound 0 = true →
        EndsAs x s.mgt.queue stDone 0 [] s s.flashCycle ∧ s.flashCycle.mgt.job = none))

/-- Commands that read, attest and open, and the signing behind them (R391 to R395). LOG_READ copies the entries asked
for; ATTEST queues its report for a signature, or ends REFUSED without a key or with a full queue, ENTROPY_FAILED with
the entropy source fatal and NOT_READY before it is ready; a signature takes 64 B of entropy and ends the command or
lets a run complete, and the debug port opens where the settings allow it, and closes. The model's own choices it
rests on: log 9, log 48, log 49 and log 50. -/
def Obligations.MailboxReadsComplete : Prop :=
  ∀ (s : State) (c : MgtCmd) (cs : List MgtCmd),
    (∀ bs, AtHead s 9 c cs → bs = s.logRun (c.arg 0) (c.arg 1) →
      (s.staged c (c.arg 2) bs.length = false →
        ∃ t, exec .logRead s = .next t ∧ EndsAs c cs stBad 0 [] s t ∧ KeepsRegs mailRegs s t ∧
          OnlyTouches [.regs, .mgt, .msix] s t) ∧
      (c.src.box.isSome = true → s.staged c (c.arg 2) bs.length = true → s.dramErr = [] →
        ∃ t, exec .logRead s = .next t ∧ EndsAs c cs stDone (bs.length / 32) [] s t ∧ t.rd (c.arg 2) bs.length = bs ∧
          KeepsBytes (c.arg 2) bs.length s t ∧ KeepsPartsSaveNotes [] s t ∧ KeepsRegs mailRegs s t ∧
          OnlyTouches [.regs, .mem, .parts, .mgt, .msix] s t) ∧
      (c.src.box.isNone = true →
        ∃ t, exec .logRead s = .next t ∧ EndsAs c cs stDone (bs.length / 32) bs s t ∧ OnlyTouches [.mgt] s t)) ∧
    (AtHead s 10 c cs → (s.staged c (c.arg 1) 2048 = false ∨ s.staged c (c.arg 0) 32 = false) →
      ∃ t, exec .attest s = .next t ∧ EndsAs c cs stBad 0 [] s t ∧ KeepsRegs mailRegs s t ∧
        OnlyTouches [.regs, .mgt, .msix] s t) ∧
    (AtHead s 10 c cs → c.src.box.isSome = true → s.staged c (c.arg 1) 2048 = true → s.staged c (c.arg 0) 32 = true →
      (s.dramUe (c.arg 0) 32).isSome →
      ∃ t, exec .attest s = .next t ∧ EndsAs c cs stFaulted 0 [] s t ∧ KeepsRegs (mailRegs ++ dramRegs) s t ∧
        OnlyTouches [.regs, .flt, .mgt, .msix] s t) ∧
    (∀ nonce, AtHead s 10 c cs → s.staged c (c.arg 1) 2048 = true → s.staged c (c.arg 0) 32 = true → s.dramErr = [] →
      nonce = (if c.src.box.isNone then c.bytes else s.rd (c.arg 0) 32) →
      (s.provisioned = true → s.ent.state.serves = true → s.mgt.sign.length < 64 →
        exec .attest s = .next { s with mgt := { s.mgt with
          queue := cs
          sign := s.mgt.sign ++ [⟨padTo 512 (padTo 32 nonce ++ s.attestFacts), c.arg 1, none, some c, none⟩] } }) ∧
      (∀ st, ((s.provisioned = true ∧ s.ent.state = .fatal ∧ st = stEntropyFailed) ∨
          (s.provisioned = true ∧ s.ent.state.serves = true ∧ 64 ≤ s.mgt.sign.length ∧ st = stRefused)) →
        ∃ t, exec .attest s = .next t ∧ EndsAs c cs st 0 [] s t ∧ t.mgt.sign = s.mgt.sign ∧
          t.rf Reg.mgtHealth 31 16 = satAdd (2 ^ 16 - 1) (s.rf Reg.mgtHealth 31 16) 1 ∧
          KeepsRegs (Reg.mgtHealth :: mailRegs) s t ∧ OnlyTouches [.regs, .mgt, .msix] s t) ∧
      (∀ st, ((s.provisioned = false ∧ st = stRefused) ∨
          (s.provisioned = true ∧ s.ent.state ≠ .fatal ∧ s.ent.state.serves = false ∧ st = stNotReady)) →
        ∃ t, exec .attest s = .next t ∧ EndsAs c cs st 0 [] s t ∧ t.mgt.sign = s.mgt.sign ∧ KeepsRegs mailRegs s t ∧
          OnlyTouches [.regs, .mgt, .msix] s t)) ∧
    ((s.mgt.sign = [] ∨ s.mgt.halted = true ∨ (s.ent.state ≠ .fatal ∧ s.turn .signing = false) ∨
        (s.ent.state ≠ .fatal ∧ (s.ent.state.serves = false ∨ s.ent.out.length < 64))) →
      exec .gatehouseSign s = .next s) ∧
    (∀ j js, s.mgt.sign = j :: js → s.mgt.halted = false → s.ent.state = .fatal →
      (∀ q d x, j.run = some (q, d) → (s.part q).job = some x → x.desc = d →
        ∃ t, exec .gatehouseSign s = .next t ∧ t.mgt = { s.mgt with sign := js } ∧
          (∀ y, (t.part q).job = some y → y.sign = false) ∧
          t.rf Reg.mgtHealth 31 16 = satAdd (2 ^ 16 - 1) (s.rf Reg.mgtHealth 31 16) 1 ∧ KeepsParts [q] s t ∧
          OnlyTouches [.regs, .parts, .rings, .descs, .mgt] s t) ∧
      (∀ a, j.run = none → j.cmd = some a →
        ∃ t, exec .gatehouseSign s = .next t ∧ t.mgt.sign = js ∧ EndsAs a s.mgt.queue stEntropyFailed 0 [] s t ∧
          t.rf Reg.mgtHealth 31 16 = satAdd (2 ^ 16 - 1) (s.rf Reg.mgtHealth 31 16) 1 ∧
          KeepsRegs (Reg.mgtHealth :: mailRegs) s t ∧ OnlyTouches [.regs, .mgt, .msix] s t)) ∧
    (∀ j js sig, s.mgt.sign = j :: js → s.mgt.halted = false → s.ent.state.serves = true → s.turn .signing = true →
      64 ≤ s.ent.out.length → sig = signatureArea (Config.falconSign j.message (s.ent.out.take 64)) →
      (∀ q d x, s.dramErr = [] → j.run = some (q, d) → (s.part q).job = some x → x.desc = d →
        ∃ t, exec .gatehouseSign s = .next t ∧ t.mgt = { s.mgt with sign := js } ∧
          t.ent = { s.ent with out := s.ent.out.drop 64 } ∧
          (j.message.length = 256 → t.rd j.dest 256 = j.message ∧ KeepsBytes j.dest (256 + sig.length) s t) ∧
          t.rd (j.dest + 0x100) sig.length = sig ∧ (∀ y, (t.part q).job = some y → y.sign = false) ∧
          KeepsPartsSaveNotes [q] s t ∧ OnlyTouches [.regs, .mem, .parts, .rings, .descs, .ent, .mgt] s t) ∧
      (∀ a, j.run = none → j.cmd = some a → a.src.box.isNone = true →
        ∃ t, exec .gatehouseSign s = .next t ∧ t.mgt.sign = js ∧ t.ent = { s.ent with out := s.ent.out.drop 64 } ∧
          EndsAs a s.mgt.queue stDone 0 (j.message ++ sig) s t ∧ OnlyTouches [.ent, .mgt] s t) ∧
      (∀ a, s.dramErr = [] → j.run = none → j.cmd = some a → a.src.box.isSome = true →
        ∃ t, exec .gatehouseSign s = .next t ∧ t.mgt.sign = js ∧ t.ent = { s.ent with out := s.ent.out.drop 64 } ∧
          EndsAs a s.mgt.queue stDone 0 [] s t ∧ t.rd j.dest (j.message ++ sig).length = j.message ++ sig ∧
          KeepsBytes j.dest (j.message ++ sig).length s t ∧ KeepsPartsSaveNotes [] s t ∧ KeepsRegs mailRegs s t ∧
          OnlyTouches [.regs, .mem, .parts, .ent, .mgt, .msix] s t) ∧
      (∀ req, j.run = none → j.cmd = none → j.spdm = some req →
        exec .gatehouseSign s = .next { s with
          ent := { s.ent with out := s.ent.out.drop 64 }
          mgt := { s.mgt with
            sign := js
            mctpOut := s.mgt.mctpOut ++
              [Config.spdmReply req j.message (Config.falconSign j.message (s.ent.out.take 64))] } })) ∧
    (AtHead s 11 c cs → c.arg 0 = 1 →
      ((leAt ((s.storeEntry 7).getD []) 0 1).testBit 0 = true →
        ∃ t, exec .debugOpen s = .next t ∧ EndsAs c cs stDone 0 [] s t ∧ t.mgt.debugOpen = true ∧
          KeepsRegs mailRegs s t ∧ OnlyTouches [.regs, .mgt, .msix] s t) ∧
      ((leAt ((s.storeEntry 7).getD []) 0 1).testBit 0 = false →
        ∃ t, exec .debugOpen s = .next t ∧ EndsAs c cs stRefused 0 [] s t ∧ t.mgt.debugOpen = s.mgt.debugOpen ∧
          KeepsRegs mailRegs s t ∧ OnlyTouches [.regs, .mgt, .msix] s t)) ∧
    (AtHead s 11 c cs → c.arg 0 = 0 →
      ∃ t, exec .debugClose s = .next t ∧ EndsAs c cs stDone 0 [] s t ∧ t.mgt.debugOpen = false ∧
        KeepsRegs mailRegs s t ∧ OnlyTouches [.regs, .mgt, .msix] s t)

/-- The Gatehouse's own events (R386, R395 to R397, R399, R400, R415, R416). KICK of 0xA5 by the Gatehouse restarts
the watchdog; 64 waiting log entries, or an entry of 100 ms, are programmed into the log; a datagram joins its data to
the command before it or begins one, which joins the queue once no more data is to come and ends at once when no
opcode is its own; an MCTP message that the endpoint serves is answered, GET_MEASUREMENTS waits for its signature, and
a message that completes a firmware image becomes an update; a sensor sample enters its window and its temperature,
one that rises to WARN is reported, and a rail that cannot be read is counted and reported. The model's own choices it
rests on: log 48, log 51, log 56, log 131, log 133 and log 135. -/
def Obligations.GatehouseEventsAct : Prop :=
  ∀ (s : State),
    (s.mgt.halted = false →
      exec (.kick .gatehouse 0xA5) s = .next { s with mgt := { s.mgt with wdtAt := s.clk.wall } }) ∧
    (∀ (who : Requester) (v : Byte), (who ≠ .gatehouse ∨ v ≠ 0xA5 ∨ s.mgt.halted = true) →
      exec (.kick who v) s = .next s) ∧
    (∀ e es, s.flt.log = e :: es → s.boot.sag = false → s.mgt.halted = false →
      (64 ≤ s.flt.log.length ∨ e.1.at_ + 80000000 ≤ s.mc) →
      ∃ t, exec .logProgram s = .next t ∧ t.flt = { s.flt with log := [] } ∧
        t.mgt.logSeq = s.mgt.logSeq + s.flt.log.length ∧
        (∀ k x, s.flt.log.length ≤ 2048 → s.flt.log[k]? = some x →
          t.flashRd (logAt (s.mgt.logSeq + k)) 32 = logEntry x.1 x.2 (s.rf Reg.genStarts 31 0) (s.mgt.logSeq + k)) ∧
        OnlyTouches [.flash, .flt, .mgt] s t) ∧
    ((s.flt.log = [] ∨ s.boot.sag = true ∨ s.mgt.halted = true ∨
        (∃ e es, s.flt.log = e :: es ∧ s.flt.log.length < 64 ∧ s.mc < e.1.at_ + 80000000)) →
      exec .logProgram s = .next s) ∧
    (∀ bytes,
      (bytes.length < 16 ∨ 1416 < bytes.length ∨ s.boot.inReset = true ∨ s.mgt.halted = true →
        exec (.mgeDatagram bytes) s = .next s) ∧
      (∀ x : MgtCmd, 16 ≤ bytes.length → bytes.length ≤ 1416 → s.boot.inReset = false → s.mgt.halted = false →
        ((x = gramCmd bytes ∧ ∀ g, s.mgt.gram = some g → ¬ (g.seq = leAt bytes 0 4 ∧ g.opcode = leAt bytes 4 1)) ∨
          (∃ g, s.mgt.gram = some g ∧ g.seq = leAt bytes 0 4 ∧ g.opcode = leAt bytes 4 1 ∧
            x = { g with bytes := g.bytes ++ (bytes.drop 16).take (leAt bytes 6 2) })) →
        (x.bytes.length < x.wants →
          exec (.mgeDatagram bytes) s = .next { s with mgt := { s.mgt with gram := some x } }) ∧
        (x.wants ≤ x.bytes.length →
          (∀ y, (queueCmd { x with at_ := s.mc } s.mgt.queue).head? = some y → s.serves y.opcode = true) →
          exec (.mgeDatagram bytes) s = .next { s with mgt := { s.mgt with
            gram := none, queue := queueCmd { x with at_ := s.mc } s.mgt.queue } }) ∧
        (x.wants ≤ x.bytes.length → s.mgt.queue = [] → s.serves x.opcode = false → x.src = .ethernet →
          exec (.mgeDatagram bytes) s = .next { s with mgt := { s.mgt with
            gram := none, ethOut := s.mgt.ethOut ++ ethReply x stBad [] } }))) ∧
    (∀ bytes,
      ((s.boot.inReset = true ∧ s.boot.bootRom = false) ∨ s.mgt.halted = true ∨ s.mctpServes bytes = false →
        exec (.mctpMessage bytes) s = .next s) ∧
      ((s.boot.inReset = false ∨ s.boot.bootRom = true) → s.mgt.halted = false → s.mctpServes bytes = true →
        s.mgt.queue = [] →
        ((asksMeasurements bytes = false ∨ s.ent.state.serves = false ∨ s.provisioned = false) →
          exec (.mctpMessage bytes) s = .next { s with mgt := { s.mgt with
            mctpOut := s.mgt.mctpOut ++ [Config.mctpReply bytes s.attestFacts (s.mgt.sensors.map sensorFacts)]
            queue := match Config.mctpImage s.clk.wall bytes with
              | some img => [{ src := .smbus, opcode := 7, irq := false, vector := 0
                               args := [0, BitVec.ofNat 64 img.length], bytes := img, at_ := s.mc }]
              | none => [] } }) ∧
        (asksMeasurements bytes = true → s.ent.state.serves = true → s.provisioned = true → s.mgt.sign.length < 64 →
          Config.mctpImage s.clk.wall bytes = none →
          exec (.mctpMessage bytes) s = .next { s with mgt := { s.mgt with
            sign := s.mgt.sign ++ [⟨padTo 512 (zeros 32 ++ s.attestFacts), 0, none, none, some bytes⟩] } }))) ∧
    (∀ l : List (Fin 128 × U16), (s.boot.inReset = true ∨ s.mgt.halted = true ∨ l = []) →
      exec (.sensorSample l) s = .next s) ∧
    (∀ (x : Fin 128 × U16) (l : List (Fin 128 × U16)),
      ∃ t, exec (.sensorSample [x]) s = .next t ∧ exec (.sensorSample (x :: l)) s = exec (.sensorSample l) t) ∧
    (∀ (i : Fin 128) (v : U16), s.boot.inReset = false → s.mgt.halted = false →
      (96 ≤ i.val → i.val < 112 → s.railLost (i.val - 96) = true →
        ∃ t, exec (.sensorSample [(i, v)]) s = .next t ∧
          t.rf Reg.mgtHealth 47 32 = satAdd (2 ^ 16 - 1) (s.rf Reg.mgtHealth 47 32) 1 ∧
          Reports [(blockSrc 7 i, 0x80, ofSigned 16 (s.temp i))] 127 s t ∧
          KeepsRegs (Reg.mgtHealth :: faultRegs) s t ∧ OnlyTouches [.regs, .flt] s t) ∧
      (∀ lim : Int, ¬ (96 ≤ i.val ∧ i.val < 112 ∧ s.railLost (i.val - 96) = true) →
        lim = (if i.val < 71 then s.threshold (s.rf Reg.pwrTherm 7 0) else s.rf Reg.pwrTherm 7 0 * 16) →
        ∃ t, exec (.sensorSample [(i, v)]) s = .next t ∧ t.temp i = v.toInt ∧
          Table.look (fun _ => []) t.mgt.sensors i.val =
            (v.toInt :: Table.look (fun _ => []) s.mgt.sensors i.val).take 1000 ∧
          (i.val < 112 → lim ≤ v.toInt → i.val ∉ s.pwr.warned →
            t.pwr.warned = i.val :: s.pwr.warned ∧
            Reports [(blockSrc 7 i, 0x80, ofSigned 16 v.toInt)] 127 s t) ∧
          ((112 ≤ i.val ∨ v.toInt < lim ∨ i.val ∈ s.pwr.warned) → t.flt = s.flt ∧ t.regs = s.regs) ∧
          (i.val < 112 → v.toInt < lim - 48 → t.pwr.warned = s.pwr.warned.filter (· != i.val)) ∧
          (∀ n, n ≠ i.val → t.temp n = s.temp n) ∧
          KeepsRegs faultRegs s t ∧ OnlyTouches [.regs, .flt, .mgt, .pwr] s t))

/-! ## Power and clocks (R139, R283, R401 to R420) -/

/-- Power states (R249, R403 to R409, R418, R420). A request of a port that may make it asks the seven blocks: all ACK
begin the entry, with no refresh owed and the Gatehouse back on its own oscillator; a REFUSE ends it with REFUSED and
the first block's reason; DEFERs are counted and asked again, and end it with TIMEOUT at the limit. 240 ns later the
module is in its state, or wakes at once for a source held or still at its pin. In S1 or S2 a source begins the wake,
which ends after its time with the module in S0, its lanes unseeded and, after S2, its array empty; in S0 an edge
within the entry is lost and counted and anything else is held. WAKE_N and PCIe restart the module out of S3; a trip
powers the module down; a schedule reserves and frees a comparator. The model's own choices it rests on: log 99, log
130, log 131 and log 136. -/
def Obligations.PowerStatesEnterAndWake : Prop :=
  ∀ (who : Requester) (s : State),
    (∀ target : BitVec 3,
      (s.writeReaches who Reg.pwrCtrl = false → exec (.powerStateRequest who target) s = .next s) ∧
      (s.writeReaches who Reg.pwrCtrl = true →
        ((s.mayPower who = false ∨ (3 ≤ target.toNat ∧ target.toNat ≤ 5 ∧
            (s.pwr.request.isSome ∨ s.pwr.entry.isSome ∨ s.asleep = true))) →
          ∃ t, exec (.powerStateRequest who target) s = .next t ∧ t.rf Reg.pwrCtrl 11 11 = 1 ∧
            t.rf Reg.pwrCtrl 10 0 = s.rf Reg.pwrCtrl 10 0 ∧ KeepsRegs [Reg.pwrCtrl] s t ∧ OnlyTouches [.regs] s t) ∧
        (s.mayPower who = true →
          ((target.toNat < 3 ∨ 5 < target.toNat) → exec (.powerStateRequest who target) s = .next s) ∧
          (3 ≤ target.toNat → target.toNat ≤ 5 → s.pwr.request = none → s.pwr.entry = none → s.asleep = false →
            ((∀ b, b < 7 → s.answer target.toNat b = .ack) →
              ∃ t, exec (.powerStateRequest who target) s = .next t ∧
                t.pwr = { s.pwr with entry := some (target.toNat, s.clk.wall) } ∧ t.rf Reg.pwrClk 40 40 = 0 ∧
                t.rf Reg.pwrStatus 15 8 = stDone ∧ (∀ c, (t.chan c).owed = 0) ∧
                KeepsRegs [Reg.pwrClk, Reg.pwrStatus] s t ∧ OnlyTouches [.regs, .chans, .pwr] s t) ∧
            (∀ b c i, b < 7 → s.answer target.toNat b = .refuse c i →
              (∀ b' c' i', b' < b → s.answer target.toNat b' ≠ .refuse c' i') →
              ∃ t, exec (.powerStateRequest who target) s = .next t ∧ t.pwr = { s.pwr with heldWake := none } ∧
                t.rf Reg.pwrStatus 15 8 = stRefused ∧ t.rf Reg.pwrStatus 21 16 = c % 64 ∧
                t.rf Reg.pwrStatus 29 22 = i % 256 ∧ KeepsRegs [Reg.pwrStatus] s t ∧ OnlyTouches [.regs, .pwr] s t) ∧
            ((∀ b c i, b < 7 → s.answer target.toNat b ≠ .refuse c i) →
              (∃ b, b < 7 ∧ s.answer target.toNat b = .defer) →
              (2 ≤ s.rf Reg.pwrCtrl 10 4 →
                exec (.powerStateRequest who target) s = .next { s with pwr := { s.pwr with
                  request := some ⟨target.toNat,
                    (askedBlocks.filter (fun b => s.answer target.toNat b == .defer)).map (·, 1)⟩ } }) ∧
              (s.rf Reg.pwrCtrl 10 4 ≤ 1 →
                ∃ t, exec (.powerStateRequest who target) s = .next t ∧ t.pwr = { s.pwr with heldWake := none } ∧
                  t.rf Reg.pwrStatus 15 8 = stTimeout ∧ KeepsRegs [Reg.pwrStatus] s t ∧
                  OnlyTouches [.regs, .pwr] s t)))))) ∧
    (s.pwr.request = none → exec .handshakeReask s = .next s) ∧
    (∀ r, s.pwr.request = some r →
      ((∀ d ∈ r.deferred, s.answerNow r d.1 = .ack) →
        ∃ t, exec .handshakeReask s = .next t ∧
          t.pwr = { s.pwr with request := none, entry := some (r.target, s.clk.wall) } ∧ t.rf Reg.pwrClk 40 40 = 0 ∧
          t.rf Reg.pwrStatus 15 8 = stDone ∧ (∀ c, (t.chan c).owed = 0) ∧
          KeepsRegs [Reg.pwrClk, Reg.pwrStatus] s t ∧ OnlyTouches [.regs, .chans, .pwr] s t) ∧
      (∀ b k, r.deferred = [(b, k)] → s.answerNow r b = .defer →
        (k + 1 < s.rf Reg.pwrCtrl 10 4 →
          exec .handshakeReask s = .next { s with pwr := { s.pwr with request := some ⟨r.target, [(b, k + 1)]⟩ } }) ∧
        (s.rf Reg.pwrCtrl 10 4 ≤ k + 1 →
          ∃ t, exec .handshakeReask s = .next t ∧ t.pwr = { s.pwr with request := none, heldWake := none } ∧
            t.rf Reg.pwrStatus 15 8 = stTimeout ∧ KeepsRegs [Reg.pwrStatus] s t ∧ OnlyTouches [.regs, .pwr] s t))) ∧
    (s.pwr.entry = none → exec .powerEntryComplete s = .next s) ∧
    (∀ target u held, s.pwr.entry = some (target, u) → held = s.pwr.heldWake.toList ++ s.pwr.level →
      (s.clk.wall < u + 288 → exec .powerEntryComplete s = .next s) ∧
      (u + 288 ≤ s.clk.wall → target ≠ 5 →
        (held = [] → exec .powerEntryComplete s = .next { s with pwr := { s.pwr with
          entry := none, heldWake := none, state := stateOf target } }) ∧
        (∀ src rest, s.pwr.waking = none → held = src :: rest →
          exec .powerEntryComplete s = .next { s with pwr := { s.pwr with
            entry := none, heldWake := none, state := stateOf target, waking := some (s.clk.wall, src) } })) ∧
      (u + 288 ≤ s.clk.wall → target = 5 →
        ((∀ src ∈ held, src ≠ .wakeN ∧ src ≠ .pcie) →
          ∃ t, exec .powerEntryComplete s = .next t ∧ t.pwr.state = .s3 ∧
            ResetLeaves false (s.reg Reg.fltLastreset) s t ∧ t.boot.cold = true) ∧
        (∀ before src rest, held = before ++ src :: rest → (src = .wakeN ∨ src = .pcie) →
          (∀ x ∈ before, x ≠ .wakeN ∧ x ≠ .pcie) →
          ∃ t, exec .powerEntryComplete s = .next t ∧ t.pwr.state = .s0 ∧ t.boot.inReset = true ∧
            t.boot.cold = true ∧ t.rf Reg.pwrWake 3 0 = src.cause ∧ t.mem = [] ∧ t.cores = [] ∧ t.parts = []))) ∧
    (∀ src : WakeSource,
      ((s.boot.supplies = false ∨ s.pwr.state = .s3) → exec (.wake src) s = .next s) ∧
      (s.boot.supplies = true → (s.pwr.state = .s1 ∨ s.pwr.state = .s2) →
        (s.pwr.waking.isSome → exec (.wake src) s = .next s) ∧
        (s.pwr.waking = none → exec (.wake src) s = .next { s with pwr := { s.pwr with
          waking := some (s.clk.wall, src), heldWake := none } })) ∧
      (s.boot.supplies = true → s.pwr.state = .s0 →
        (s.pwr.entry.isSome → src.edge = true →
          ∃ t, exec (.wake src) s = .next t ∧
            t.rf Reg.pwrWake 23 8 = satAdd (2 ^ 16 - 1) (s.rf Reg.pwrWake 23 8) 1 ∧
            KeepsRegs [Reg.pwrWake] s t ∧ OnlyTouches [.regs] s t) ∧
        ((s.pwr.entry.isSome ∨ s.pwr.request.isSome) → (s.pwr.entry = none ∨ src.edge = false) →
          exec (.wake src) s = .next { s with pwr := { s.pwr.addLevel src with
            heldWake := some (s.pwr.heldWake.getD src) } }) ∧
        (s.pwr.entry = none → s.pwr.request = none →
          exec (.wake src) s = .next { s with pwr := s.pwr.addLevel src }))) ∧
    (∀ u src, s.pwr.waking = some (u, src) →
      (s.clk.wall < u + wakeTime s.pwr.state → s.wakeCycle = s) ∧
      (u + wakeTime s.pwr.state ≤ s.clk.wall →
        s.wakeCycle.pwr.state = .s0 ∧ s.wakeCycle.pwr.waking = none ∧
        s.wakeCycle.rf Reg.pwrWake 3 0 = src.cause ∧ s.wakeCycle.rf Reg.pwrClk 40 40 = 0 ∧ s.wakeCycle.lanes = [] ∧
        s.wakeCycle.ent.seeded = false ∧ (∀ c, (s.wakeCycle.chan c).owed = 0) ∧
        (s.pwr.state = .s1 → s.wakeCycle.cores = s.cores ∧ s.wakeCycle.parts = s.parts ∧ s.wakeCycle.mem = s.mem) ∧
        (s.pwr.state = .s2 → s.wakeCycle.cores = [] ∧ (∀ a, dramBytes ≤ a → s.wakeCycle.byteAt a = 0) ∧
          (∀ q ∈ s.partIds, (s.wakeCycle.part q).run = .empty)))) ∧
    (∀ u src, s.pending = [] → s.toIssue = [] → s.pwr.waking = some (u, src) →
      u + wakeTime s.pwr.state ≤ s.clk.wall + 1 →
      ∃ t, step s = .next t ∧ t.pwr.state = .s0 ∧ t.pwr.waking = none) ∧
    (∀ src, s.pwr.state = .s3 → s.pwr.tripped = false → (src = .wakeN ∨ src = .pcie) →
      ∃ t, exec (.wakeFromS3 src) s = .next t ∧ t.pwr.state = .s0 ∧ t.boot.inReset = true ∧ t.boot.cold = true ∧
        t.rf Reg.pwrWake 3 0 = src.cause ∧ t.mem = [] ∧ (s.mgt.job = none → t.flash = s.flash)) ∧
    (∀ src, (s.pwr.state ≠ .s3 ∨ s.pwr.tripped = true ∨ (src ≠ .wakeN ∧ src ≠ .pcie)) →
      exec (.wakeFromS3 src) s = .next s) ∧
    (∀ (sensor : Fin 71) (temp : U16),
      ((temp.toInt < s.threshold (s.rf Reg.pwrTherm 23 16) ∨ s.pwr.state = .s3) →
        exec (.thermTrip sensor temp) s = .next s) ∧
      (s.threshold (s.rf Reg.pwrTherm 23 16) ≤ temp.toInt → s.pwr.state ≠ .s3 →
        ∃ t, exec (.thermTrip sensor temp) s = .next t ∧ t.pwr.state = .s3 ∧ t.pwr.tripped = true ∧
          ResetLeaves false (faultMsg (blockSrc 7 sensor) 0x81 temp.toNat) s t)) ∧
    (∀ (time : U64) (target : BitVec 3),
      ((s.writeReaches who Reg.pwrSched = false ∨ s.rf (Reg.pwrSched + 8) 4 4 = 1) →
        exec (.pwrSchedArm who time target) s = .next s) ∧
      (s.writeReaches who Reg.pwrSched = true → s.rf (Reg.pwrSched + 8) 4 4 = 0 →
        (s.freeCmp = none →
          ∃ t, exec (.pwrSchedArm who time target) s = .next t ∧ t.rf Reg.pwrStatus 15 8 = stConflict ∧
            KeepsRegs [Reg.pwrStatus] s t ∧ OnlyTouches [.regs] s t) ∧
        (∀ k, s.freeCmp = some k →
          ∃ t, exec (.pwrSchedArm who time target) s = .next t ∧ t.rf (Reg.pwrSched + 8) 4 4 = 1 ∧
            t.reg Reg.pwrSched = time ∧ t.rf (Reg.pwrSched + 8) 2 0 = target.toNat ∧ t.cmpOwner k = 3 ∧
            t.cmpArmed k = true ∧ t.reg (Reg.gtbCmp k) = time ∧ t.rf Reg.pwrStatus 15 8 = stDone ∧
            KeepsRegs [Reg.pwrSched, Reg.pwrSched + 8, Reg.gtbCmp k, Reg.gtbCmp k + 8, Reg.pwrStatus] s t ∧
            OnlyTouches [.regs] s t))) ∧
    ((s.writeReaches who Reg.pwrSched = false ∨ s.rf (Reg.pwrSched + 8) 4 4 = 0) →
      exec (.pwrSchedDisarm who) s = .next s) ∧
    (s.writeReaches who Reg.pwrSched = true → s.rf (Reg.pwrSched + 8) 4 4 = 1 →
      ∃ t, exec (.pwrSchedDisarm who) s = .next t ∧ t.rf (Reg.pwrSched + 8) 4 4 = 0 ∧
        (∀ k, k < 8 → s.cmpOwner k = 3 → t.cmpOwner k = 0 ∧ t.cmpArmed k = false) ∧
        (∀ k, k < 8 → s.cmpOwner k ≠ 3 → t.cmpOwner k = s.cmpOwner k ∧ t.cmpArmed k = s.cmpArmed k) ∧
        KeepsRegs ((Reg.pwrSched + 8) :: cmpRegs) s t ∧ OnlyTouches [.regs] s t)

/-- Clocks and temperature (R283, R410, R411, R413, R417, R419). At the end of a window of 100 µs the governor lowers
the clock a step when the mean is above the cap, or raises it a step when the mean is below the cap less the margin, 1
ms after the last step; a peak lowers it four steps, and in every case a new window begins, after a step once the step
has slewed; every 100 µs a half's thermal limit falls a step while one of its sensors is at THROT and rises one after
ten looks in a row at a group that stays below THROT less 3 °C; TSYNC takes its mode, and its edge takes GTIME to the
nearest second; the Gatehouse alone moves its clock, once its PLL is locked. The model's own choices it rests on: log
26 and log 141. -/
def Obligations.ClocksStep : Prop :=
  ∀ (s : State),
    (∀ mean, s.clk.wall < s.pwr.windowAt + usec 100 → exec (.governorWindow mean) s = .next s) ∧
    (∀ mean, s.pwr.windowAt + usec 100 ≤ s.clk.wall →
      (s.rf Reg.pwrGov 9 0 < mean → 600 < s.pwr.gov →
        exec (.governorWindow mean) s = .next { s with pwr := { s.pwr with
          gov := max 600 (s.pwr.gov - 25), lastStep := some s.clk.wall, windowAt := s.clk.wall + usec 1 } }) ∧
      (mean + s.rf Reg.pwrGov 27 20 < s.rf Reg.pwrGov 9 0 → s.pwr.gov < s.rf Reg.pwrGov 39 28 →
        (∀ u, s.pwr.lastStep = some u → u + usec 1000 ≤ s.clk.wall) →
        exec (.governorWindow mean) s = .next { s with pwr := { s.pwr with
          gov := min (s.pwr.gov + 25) (s.rf Reg.pwrGov 39 28), lastStep := some s.clk.wall
          windowAt := s.clk.wall + usec 1 } }) ∧
      ((mean ≤ s.rf Reg.pwrGov 9 0 ∨ s.pwr.gov ≤ 600) →
        (s.rf Reg.pwrGov 9 0 ≤ mean + s.rf Reg.pwrGov 27 20 ∨ s.rf Reg.pwrGov 39 28 ≤ s.pwr.gov ∨
          (∃ u, s.pwr.lastStep = some u ∧ s.clk.wall < u + usec 1000)) →
        exec (.governorWindow mean) s = .next { s with pwr := { s.pwr with windowAt := s.clk.wall } })) ∧
    (∀ sample,
      (sample ≤ s.rf Reg.pwrGov 19 10 → exec (.governorPeak sample) s = .next s) ∧
      (s.rf Reg.pwrGov 19 10 < sample → 600 < s.pwr.gov →
        exec (.governorPeak sample) s = .next { s with pwr := { s.pwr with
          gov := max 600 (s.pwr.gov - 100), lastStep := some s.clk.wall, windowAt := s.clk.wall + usec 1 } }) ∧
      (s.rf Reg.pwrGov 19 10 < sample → s.pwr.gov ≤ 600 →
        exec (.governorPeak sample) s = .next { s with pwr := { s.pwr with windowAt := s.clk.wall } })) ∧
    (∀ h : Half, s.throttleDue h = false → exec (.throttleStep h) s = .next s) ∧
    (∀ (h : Half) (i : Nat), s.throttleDue h = true → i ∈ throttleSensors h →
      s.threshold (s.rf Reg.pwrTherm 15 8) ≤ s.temp i →
      ∃ t, exec (.throttleStep h) s = .next t ∧ OnlyTouches [.pwr] s t ∧
        (h = .north → t.pwr = { s.pwr with thN := max 600 (s.pwr.thN - 25), coolN := 0, stepN := some s.clk.wall }) ∧
        (h = .south → t.pwr = { s.pwr with thS := max 600 (s.pwr.thS - 25), coolS := 0, stepS := some s.clk.wall })) ∧
    (∀ lim, lim = s.threshold (s.rf Reg.pwrTherm 15 8) →
      (s.throttleDue .north = true → (∀ i ∈ throttleSensors .north, s.temp i < lim) →
        ((∀ i, i < 24 → s.temp i < lim - 48) → s.pwr.thN < 1200 →
          (9 ≤ s.pwr.coolN → exec (.throttleStep .north) s = .next { s with pwr := { s.pwr with
            thN := s.pwr.thN + 25, coolN := 0, stepN := some s.clk.wall } }) ∧
          (s.pwr.coolN < 9 → exec (.throttleStep .north) s = .next { s with pwr := { s.pwr with
            coolN := s.pwr.coolN + 1, stepN := some s.clk.wall } })) ∧
        (((∃ i, i < 24 ∧ lim - 48 ≤ s.temp i) ∨ 1200 ≤ s.pwr.thN) →
          exec (.throttleStep .north) s = .next { s with pwr := { s.pwr with
            coolN := 0, stepN := some s.clk.wall } })) ∧
      (s.throttleDue .south = true → (∀ i ∈ throttleSensors .south, s.temp i < lim) →
        ((∀ i, 24 ≤ i → i < 48 → s.temp i < lim - 48) → s.pwr.thS < 1200 →
          (9 ≤ s.pwr.coolS → exec (.throttleStep .south) s = .next { s with pwr := { s.pwr with
            thS := s.pwr.thS + 25, coolS := 0, stepS := some s.clk.wall } }) ∧
          (s.pwr.coolS < 9 → exec (.throttleStep .south) s = .next { s with pwr := { s.pwr with
            coolS := s.pwr.coolS + 1, stepS := some s.clk.wall } })) ∧
        (((∃ i, 24 ≤ i ∧ i < 48 ∧ lim - 48 ≤ s.temp i) ∨ 1200 ≤ s.pwr.thS) →
          exec (.throttleStep .south) s = .next { s with pwr := { s.pwr with
            coolS := 0, stepS := some s.clk.wall } }))) ∧
    (∀ (who : Requester) (mode : BitVec 2) (g : GroupId),
      ((s.writeReaches who Reg.pwrTsync = false ∨ mode.toNat = 3) → exec (.tsyncModeWrite who mode g) s = .next s) ∧
      (s.writeReaches who Reg.pwrTsync = true →
        (mode.toNat ≠ 3 → ¬ (mode.toNat = 2 ∧ s.rf Reg.pwrTsync 1 0 = 1) →
          ∃ t, exec (.tsyncModeWrite who mode g) s = .next t ∧ t.rf Reg.pwrTsync 1 0 = mode.toNat ∧
            t.rf Reg.pwrTsync 5 2 = g ∧ KeepsRegs [Reg.pwrTsync] s t ∧ OnlyTouches [.regs] s t) ∧
        (mode.toNat = 2 → s.rf Reg.pwrTsync 1 0 = 1 →
          ∃ t, exec (.tsyncModeWrite who mode g) s = .next t ∧ t.rf Reg.pwrTsync 1 0 = 1 ∧ t.rf Reg.pwrTsync 6 6 = 1 ∧
            KeepsRegs [Reg.pwrTsync] s t ∧ OnlyTouches [.regs] s t))) ∧
    (s.rf Reg.pwrTsync 1 0 ≠ 1 → exec .tsyncPpsEdge s = .next s) ∧
    (s.rf Reg.pwrTsync 1 0 = 1 → exec .tsyncPpsEdge s = .next { s with clk := { s.clk with
      gtimeNs := BitVec.ofNat 64 ((s.gtime + 500000000) / 1000000000 * 1000000000), gtimeFrac := 0 } }) ∧
    (∀ pll, s.rf Reg.pwrClk 41 41 = 1 →
      ∃ t, exec (.ghsSel .gatehouse pll) s = .next t ∧ t.rf Reg.pwrClk 40 40 = (if pll then 1 else 0) ∧
        KeepsRegs [Reg.pwrClk] s t ∧ OnlyTouches [.regs] s t) ∧
    (∀ who pll, (who ≠ Requester.gatehouse ∨ s.rf Reg.pwrClk 41 41 = 0) → exec (.ghsSel who pll) s = .next s)

/-! ## The whole module -/

/-- On an empty queue a step is the array's own cycle, or the issue of the ticks that have begun (the model's choice,
log 1 and log 2): a unit of time passes in a cycle alone, in which the module's own work goes on after the edges'
cycle; it runs no command. -/
def Obligations.IdleStepIsCycle : Prop :=
  ∀ s : State, s.pending = [] →
    ∃ t, step s = .next t ∧
      (∀ m, s.toIssue = [] → m = s.endEdgeCycle.advanceClocks.1.moduleCycle →
        t.clk = m.clk ∧ t.clk.wall = s.clk.wall + 1 ∧ t.edge = m.edge ∧ t.flash = m.flash ∧ t.boot = m.boot ∧
        t.ent = m.ent ∧ t.pwr = m.pwr ∧ t.fuse = s.fuse ∧ t.hostA = m.hostA ∧ t.hostB = m.hostB) ∧
      (s.toIssue ≠ [] → t.clk = s.clk ∧ t.edge = s.edge ∧ (∀ q ∈ s.toIssue, (t.part q).issued = true) ∧
        t.flash = s.flash ∧ t.fuse = s.fuse ∧ t.boot = s.boot ∧ t.ent = s.ent ∧ t.pwr = s.pwr ∧ t.mgt = s.mgt ∧
        t.hostA = s.hostA ∧ t.hostB = s.hostB)

/-- What reset leaves: the values of some registers, no partition, every core EMPTY, the entropy source OFF, power
state S0, nothing published, and the invariants of the memories and of the fault queue. The model's own choices it
rests on: log 6 and log 7. -/
def Obligations.ResetLeavesValues : Prop :=
  (∀ q, (State.reset.part q).exists_ = false) ∧ (∀ n, (State.reset.core n).mode = .empty) ∧
  (∀ n, (State.reset.sem n).owner = 0) ∧ (∀ a, State.reset.byteAt a = 0) ∧
  State.reset.ent.state = .off ∧ State.reset.pwr.state = .s0 ∧ State.reset.boot.published = false ∧
  State.reset.pending = [] ∧ State.reset.memOk = true ∧ State.reset.flt.queue.length ≤ 64 ∧
  State.reset.reg Reg.gtbRate = 0x20000 ∧ State.reset.rf Reg.arrHoldcfg 19 0 = 1000 ∧
  State.reset.reg (Reg.fltAction 0x61) = 0x2C ∧ State.reset.reg (Reg.fltAction 0x00) = 0

/-- Every command answers a next state in every state: no command of the manual stops the module. The model's own
choices it rests on: log 3. -/
def Obligations.EveryCommandAnswers : Prop := ∀ (i : Instr) (s : State), Completes i s

/-- A command has its effect on everything but the queue. -/
def Obligations.CommandsKeepQueue : Prop := ∀ (i : Instr) (s t : State), exec i s = .next t → t.pending = s.pending

/-- Every step keeps every memory of the module in canonical form. The model's own choices it rests on: log 5. -/
def Obligations.StepKeepsMemory : Prop :=
  ∀ s t : State, s.memOk = true → step s = .next t → t.memOk = true

/-- Every step keeps the collector's input queue within its 64 entries (R360). The model's own choices it rests on:
log 31. -/
def Obligations.StepKeepsFaultQueue : Prop :=
  ∀ s t : State, s.flt.queue.length ≤ 64 → step s = .next t → t.flt.queue.length ≤ 64
end

