-- ==== Sys2Proof/Laws/Bits.lean ====
section
/-! SUPPORT. Bit fields and byte order: a field written reads back, fields that do not meet stay, and bytes written
little-endian read back. -/

namespace Sys2Proof

/-! ## Fields -/

theorem bitsN_eq (v hi lo : Nat) : bitsN v hi lo = v / 2 ^ lo % 2 ^ (hi + 1 - lo) := by
  simp [bitsN, Nat.shiftRight_eq_div_pow]

theorem bitsN_lt (v hi lo : Nat) : bitsN v hi lo < 2 ^ (hi + 1 - lo) := by
  rw [bitsN_eq]; exact Nat.mod_lt _ (Nat.two_pow_pos _)

theorem testBit_bitsN (v hi lo i : Nat) : (bitsN v hi lo).testBit i = (decide (i < hi + 1 - lo) && v.testBit (lo + i)) := by
  simp [bitsN, Nat.testBit_mod_two_pow, Nat.testBit_shiftRight]

/-- A number by the parts above, in and below a field. -/
theorem split_bitsN (v hi lo : Nat) (h : lo ≤ hi) :
    v = v / 2 ^ (hi + 1) * 2 ^ (hi + 1) + bitsN v hi lo * 2 ^ lo + v % 2 ^ lo := by
  have e : 2 ^ (hi + 1) = 2 ^ (hi + 1 - lo) * 2 ^ lo := by rw [← Nat.pow_add]; congr 1; omega
  have h1 : v / 2 ^ (hi + 1) = v / 2 ^ lo / 2 ^ (hi + 1 - lo) := by
    rw [Nat.div_div_eq_div_mul, ← Nat.pow_add]; congr 2; omega
  have h2 := Nat.div_add_mod v (2 ^ lo)
  have h3 := Nat.div_add_mod (v / 2 ^ lo) (2 ^ (hi + 1 - lo))
  rw [bitsN_eq, h1, e]
  calc v = 2 ^ lo * (v / 2 ^ lo) + v % 2 ^ lo := h2.symm
    _ = 2 ^ lo * (2 ^ (hi + 1 - lo) * (v / 2 ^ lo / 2 ^ (hi + 1 - lo)) + v / 2 ^ lo % 2 ^ (hi + 1 - lo)) + v % 2 ^ lo := by
        rw [h3]
    _ = _ := by ring

/-- A field replaced: the parts above and below stay. -/
theorem setBitsN_eq (v hi lo x : Nat) (h : lo ≤ hi) :
    setBitsN v hi lo x = v / 2 ^ (hi + 1) * 2 ^ (hi + 1) + x % 2 ^ (hi + 1 - lo) * 2 ^ lo + v % 2 ^ lo := by
  have hs := split_bitsN v hi lo h
  unfold setBitsN
  omega

theorem setBitsN_below_lt (v hi lo x : Nat) (h : lo ≤ hi) :
    x % 2 ^ (hi + 1 - lo) * 2 ^ lo + v % 2 ^ lo < 2 ^ (hi + 1) := by
  have e : 2 ^ (hi + 1) = 2 ^ (hi + 1 - lo) * 2 ^ lo := by rw [← Nat.pow_add]; congr 1; omega
  have h1 : x % 2 ^ (hi + 1 - lo) + 1 ≤ 2 ^ (hi + 1 - lo) := Nat.mod_lt _ (Nat.two_pow_pos _)
  have h2 : v % 2 ^ lo < 2 ^ lo := Nat.mod_lt _ (Nat.two_pow_pos _)
  have h3 := Nat.mul_le_mul_right (2 ^ lo) h1
  rw [e]
  calc _ < x % 2 ^ (hi + 1 - lo) * 2 ^ lo + 2 ^ lo := by omega
    _ = (x % 2 ^ (hi + 1 - lo) + 1) * 2 ^ lo := by ring
    _ ≤ _ := h3

theorem setBitsN_lt (v hi lo x n : Nat) (h : lo ≤ hi) (hn : hi < n) (hv : v < 2 ^ n) : setBitsN v hi lo x < 2 ^ n := by
  rw [setBitsN_eq v hi lo x h]
  have e : 2 ^ n = 2 ^ (n - (hi + 1)) * 2 ^ (hi + 1) := by rw [← Nat.pow_add]; congr 1; omega
  have h1 : v / 2 ^ (hi + 1) + 1 ≤ 2 ^ (n - (hi + 1)) := by
    have : v / 2 ^ (hi + 1) < 2 ^ (n - (hi + 1)) := Nat.div_lt_of_lt_mul (by rw [Nat.mul_comm, ← e]; exact hv)
    omega
  have h2 := setBitsN_below_lt v hi lo x h
  have h3 := Nat.mul_le_mul_right (2 ^ (hi + 1)) h1
  rw [e]
  calc _ < v / 2 ^ (hi + 1) * 2 ^ (hi + 1) + 2 ^ (hi + 1) := by omega
    _ = (v / 2 ^ (hi + 1) + 1) * 2 ^ (hi + 1) := by ring
    _ ≤ _ := h3

/-- A field replaced reads back. -/
theorem bitsN_setBitsN_self (v hi lo x : Nat) (h : lo ≤ hi) : bitsN (setBitsN v hi lo x) hi lo = x % 2 ^ (hi + 1 - lo) := by
  have e : 2 ^ (hi + 1) = 2 ^ (hi + 1 - lo) * 2 ^ lo := by rw [← Nat.pow_add]; congr 1; omega
  have h2 : v % 2 ^ lo < 2 ^ lo := Nat.mod_lt _ (Nat.two_pow_pos _)
  have h1 : setBitsN v hi lo x = 2 ^ lo * (v / 2 ^ (hi + 1) * 2 ^ (hi + 1 - lo) + x % 2 ^ (hi + 1 - lo)) + v % 2 ^ lo := by
    rw [setBitsN_eq v hi lo x h, e]; ring
  rw [bitsN_eq, h1, Nat.mul_add_div (Nat.two_pow_pos _), Nat.div_eq_of_lt h2, Nat.add_zero,
    Nat.mul_add_mod_self_right, Nat.mod_mod]

/-- A field above the one replaced stays. -/
theorem bitsN_setBitsN_above (v hi lo x : Nat) {h2 l2 : Nat} (h : lo ≤ hi) (k : hi < l2) :
    bitsN (setBitsN v hi lo x) h2 l2 = bitsN v h2 l2 := by
  have e : (2 : Nat) ^ l2 = 2 ^ (hi + 1) * 2 ^ (l2 - (hi + 1)) := by rw [← Nat.pow_add]; congr 1; omega
  have h1 : setBitsN v hi lo x / 2 ^ (hi + 1) = v / 2 ^ (hi + 1) := by
    rw [setBitsN_eq v hi lo x h, Nat.add_assoc, Nat.mul_comm, Nat.mul_add_div (Nat.two_pow_pos _),
      Nat.div_eq_of_lt (setBitsN_below_lt v hi lo x h), Nat.add_zero]
  rw [bitsN_eq, bitsN_eq, e, ← Nat.div_div_eq_div_mul, ← Nat.div_div_eq_div_mul, h1]

/-- A field below the one replaced stays. -/
theorem bitsN_setBitsN_below (v hi lo x : Nat) {h2 l2 : Nat} (h : lo ≤ hi) (k : h2 < lo) :
    bitsN (setBitsN v hi lo x) h2 l2 = bitsN v h2 l2 := by
  have e : 2 ^ (hi + 1) = 2 ^ (hi + 1 - lo) * 2 ^ lo := by rw [← Nat.pow_add]; congr 1; omega
  have h1 : setBitsN v hi lo x % 2 ^ lo = v % 2 ^ lo := by
    have : setBitsN v hi lo x =
        2 ^ lo * (v / 2 ^ (hi + 1) * 2 ^ (hi + 1 - lo) + x % 2 ^ (hi + 1 - lo)) + v % 2 ^ lo := by
      rw [setBitsN_eq v hi lo x h, e]; ring
    rw [this, Nat.mul_add_mod, Nat.mod_mod]
  apply Nat.eq_of_testBit_eq
  intro i
  rw [testBit_bitsN, testBit_bitsN]
  by_cases hi2 : i < h2 + 1 - l2
  · have hl : l2 + i < lo := by omega
    have := congrArg (fun z => Nat.testBit z (l2 + i)) h1
    simp only [Nat.testBit_mod_two_pow, hl, decide_true, Bool.true_and] at this
    simp [this]
  · simp [hi2]

/-- A field of a word written reads back. -/
theorem fld_setFld_self {n : Nat} (w : BitVec n) (hi lo x : Nat) (h : lo ≤ hi) (hn : hi < n) :
    fld (setFld w hi lo x) hi lo = x % 2 ^ (hi + 1 - lo) := by
  rw [fld, setFld, BitVec.toNat_ofNat, Nat.mod_eq_of_lt (setBitsN_lt _ _ _ _ n h hn w.isLt), bitsN_setBitsN_self _ _ _ _ h]

/-- A field of a word that does not meet the one written stays. -/
theorem fld_setFld_other {n : Nat} (w : BitVec n) (hi lo x : Nat) {h2 l2 : Nat} (h : lo ≤ hi) (hn : hi < n)
    (k : hi < l2 ∨ h2 < lo) : fld (setFld w hi lo x) h2 l2 = fld w h2 l2 := by
  rw [fld, setFld, BitVec.toNat_ofNat, Nat.mod_eq_of_lt (setBitsN_lt _ _ _ _ n h hn w.isLt)]
  rcases k with k | k
  · exact bitsN_setBitsN_above _ _ _ _ h k
  · exact bitsN_setBitsN_below _ _ _ _ h k

theorem fld_lt {n : Nat} (w : BitVec n) (hi lo : Nat) : fld w hi lo < 2 ^ (hi + 1 - lo) := bitsN_lt _ _ _

/-! ## Bytes -/

@[simp] theorem length_leBytes (k v : Nat) : (leBytes k v).length = k := by
  induction k generalizing v with
  | zero => rfl
  | succ k ih => simp [leBytes, ih]

/-- A number's bytes read back, modulo their range. -/
@[simp] theorem leNat_leBytes (k v : Nat) : leNat (leBytes k v) = v % 256 ^ k := by
  induction k generalizing v with
  | zero => simp [leBytes, leNat, Nat.mod_one]
  | succ k ih =>
    have e : 256 ^ (k + 1) = 256 * 256 ^ k := by ring
    rw [leBytes, leNat, ih, BitVec.toNat_ofNat, e, Nat.mod_mul]

theorem leNat_lt (bs : List Byte) : leNat bs < 256 ^ bs.length := by
  induction bs with
  | nil => simp [leNat]
  | cons b bs ih =>
    have hb : b.toNat < 256 := b.isLt
    rw [leNat, List.length_cons, Nat.pow_succ]
    omega

@[simp] theorem length_zeros (n : Nat) : (zeros n).length = n := by simp [zeros]

@[simp] theorem length_padTo (n : Nat) (bs : List Byte) : (padTo n bs).length = n := by
  simp [padTo]; omega

/-- The set bits of a number below a width, in ascending order and without repeats. -/
theorem mem_setBitsOf (w v i : Nat) : i ∈ setBitsOf w v ↔ i < w ∧ v.testBit i = true := by simp [setBitsOf]

theorem nodup_setBitsOf (w v : Nat) : (setBitsOf w v).Nodup := (List.nodup_range).filter _

/-- A saturating count stays in range. -/
theorem satAdd_le (limit v n : Nat) : satAdd limit v n ≤ limit := Nat.min_le_left _ _

end Sys2Proof
end

