-- ==== Sys2Proof/Laws/Table.lean ====
section
/-! SUPPORT. The laws of sparse tables: a read after a write, and the canonical form kept by every operation. -/

namespace Sys2Proof.Table

variable {α : Type}

theorem look_erase_self (d : Nat → α) (m : Table α) (k : Nat) : look d (erase m k) k = d k := by
  induction m with
  | nil => rfl
  | cons e m ih =>
    obtain ⟨a, v⟩ := e
    rcases eq_or_ne a k with rfl | h <;> simp [erase, look, *]

theorem look_erase_other (d : Nat → α) (m : Table α) {j k : Nat} (h : j ≠ k) : look d (erase m k) j = look d m j := by
  induction m with
  | nil => rfl
  | cons e m ih =>
    obtain ⟨a, v⟩ := e
    by_cases hk : a = k
    · subst hk
      simp [erase, look, ih, Ne.symm h]
    · rcases eq_or_ne a j with rfl | hj <;> simp [erase, look, *]

theorem look_place_other (d : Nat → α) (m : Table α) {j k : Nat} (v : α) (h : j ≠ k) :
    look d (place m k v) j = look d m j := by
  induction m with
  | nil => simp [place, look, Ne.symm h]
  | cons e m ih =>
    obtain ⟨a, w⟩ := e
    by_cases hk : k < a
    · simp [place, hk, look, Ne.symm h]
    · rcases eq_or_ne a j with rfl | hj <;> simp [place, hk, look, *]

theorem look_place_self (d : Nat → α) (m : Table α) (k : Nat) (v : α) (h : ∀ e ∈ m, e.1 ≠ k) :
    look d (place m k v) k = v := by
  induction m with
  | nil => simp [place, look]
  | cons e m ih =>
    obtain ⟨a, w⟩ := e
    have ha : a ≠ k := h (a, w) (by simp)
    by_cases hk : k < a
    · simp [place, hk, look]
    · simp only [place, hk, if_false, look, ha]
      exact ih (fun e he => h e (by simp [he]))

theorem erase_key_ne (m : Table α) (k : Nat) : ∀ e ∈ erase m k, e.1 ≠ k := by
  induction m with
  | nil => simp [erase]
  | cons e m ih =>
    obtain ⟨a, v⟩ := e
    by_cases h : a = k
    · simpa [erase, h] using ih
    · intro e he
      simp only [erase, h, if_false, List.mem_cons] at he
      rcases he with rfl | he
      · exact h
      · exact ih e he

theorem mem_of_mem_erase (m : Table α) (k : Nat) : ∀ e ∈ erase m k, e ∈ m := by
  induction m with
  | nil => simp [erase]
  | cons e m ih =>
    obtain ⟨a, v⟩ := e
    intro e he
    by_cases h : a = k
    · simp only [erase, h, if_true] at he
      exact List.mem_cons_of_mem _ (ih e he)
    · simp only [erase, h, if_false, List.mem_cons] at he
      rcases he with rfl | he
      · exact List.mem_cons_self
      · exact List.mem_cons_of_mem _ (ih e he)

theorem erase_erase (m : Table α) (k : Nat) : erase (erase m k) k = erase m k := by
  induction m with
  | nil => rfl
  | cons e m ih =>
    obtain ⟨a, v⟩ := e
    by_cases h : a = k <;> simp [erase, h, ih]

theorem erase_place (m : Table α) (k : Nat) (v : α) : erase (place m k v) k = erase m k := by
  induction m with
  | nil => simp [place, erase]
  | cons e m ih =>
    obtain ⟨a, w⟩ := e
    by_cases hk : k < a
    · simp [place, hk, erase]
    · by_cases h : a = k <;> simp [place, hk, erase, h, ih]

variable [DecidableEq α]

/-- A second write to a key stands for the first. -/
@[simp] theorem put_put (d : Nat → α) (m : Table α) (k : Nat) (v w : α) : put d (put d m k v) k w = put d m k w := by
  by_cases hv : v = d k <;> by_cases hw : w = d k <;> simp [put, hv, hw, erase_erase, erase_place]

/-- A read after a write to the same key gives the value written. -/
@[simp] theorem look_put_self (d : Nat → α) (m : Table α) (k : Nat) (v : α) : look d (put d m k v) k = v := by
  by_cases h : v = d k
  · simp [put, h, look_erase_self]
  · simp only [put, h, if_false]
    exact look_place_self d _ k v (erase_key_ne m k)

/-- A write leaves every other key alone. -/
theorem look_put_other (d : Nat → α) (m : Table α) {j k : Nat} (v : α) (h : j ≠ k) :
    look d (put d m k v) j = look d m j := by
  by_cases hv : v = d k
  · simp [put, hv, look_erase_other d m h]
  · simp [put, hv, look_place_other d _ v h, look_erase_other d m h]

theorem look_put (d : Nat → α) (m : Table α) (j k : Nat) (v : α) :
    look d (put d m k v) j = if j = k then v else look d m j := by
  by_cases h : j = k
  · subst h
    simp
  · simp [h, look_put_other d m v h]

/-- A write of consecutive keys leaves every other key alone. -/
theorem look_putSpan_other (d : Nat → α) (m : Table α) (k : Nat) (vs : List α) {j : Nat}
    (h : j < k ∨ k + vs.length ≤ j) : look d (putSpan d m k vs) j = look d m j := by
  induction vs generalizing m k with
  | nil => rfl
  | cons v vs ih =>
    simp only [putSpan]
    rw [ih]
    · apply look_put_other
      simp only [List.length_cons] at h
      omega
    · simp only [List.length_cons] at h
      omega

/-- A write of consecutive keys puts each value at its key. -/
theorem look_putSpan_inside (d : Nat → α) (m : Table α) (k : Nat) (vs : List α) (i : Nat) (h : i < vs.length) :
    look d (putSpan d m k vs) (k + i) = vs[i] := by
  induction vs generalizing m k i with
  | nil => simp at h
  | cons v vs ih =>
    cases i with
    | zero =>
      simp only [putSpan, Nat.add_zero, List.getElem_cons_zero]
      rw [look_putSpan_other _ _ _ _ (by omega)]
      simp
    | succ i =>
      simp only [putSpan, List.getElem_cons_succ]
      have := ih (put d m k v) (k + 1) i (by simpa using h)
      rwa [Nat.add_assoc, Nat.add_comm 1 i] at this

@[simp] theorem span_length (d : Nat → α) (m : Table α) (k n : Nat) : (span d m k n).length = n := by
  induction n generalizing k with
  | zero => rfl
  | succ n ih => simp [span, ih]

/-- A read of consecutive keys after a write of them gives the values written. -/
theorem span_putSpan (d : Nat → α) (m : Table α) (k : Nat) (vs : List α) :
    span d (putSpan d m k vs) k vs.length = vs := by
  induction vs generalizing m k with
  | nil => rfl
  | cons v vs ih =>
    simp only [List.length_cons, span, putSpan]
    rw [ih, look_putSpan_other _ _ _ _ (by omega)]
    simp

/-- A read of consecutive keys away from a write gives what it gave before. -/
theorem span_putSpan_other (d : Nat → α) (m : Table α) (k : Nat) (vs : List α) (j n : Nat)
    (h : j + n ≤ k ∨ k + vs.length ≤ j) : span d (putSpan d m k vs) j n = span d m j n := by
  induction n generalizing j with
  | zero => rfl
  | succ n ih =>
    simp only [span]
    rw [ih (j + 1) (by omega), look_putSpan_other _ _ _ _ (by omega)]

/-! ## The canonical form -/

theorem wf_cons (d : Nat → α) (a : Nat) (v : α) (m : Table α) :
    wf d ((a, v) :: m) = true ↔ v ≠ d a ∧ (∀ e ∈ m, a < e.1) ∧ wf d m = true := by
  simp [wf, and_assoc]

theorem wf_erase (d : Nat → α) (m : Table α) (k : Nat) (h : wf d m = true) : wf d (erase m k) = true := by
  induction m with
  | nil => rfl
  | cons e m ih =>
    obtain ⟨a, v⟩ := e
    rw [wf_cons] at h
    by_cases hk : a = k
    · simpa [erase, hk] using ih h.2.2
    · simp only [erase, hk, if_false]
      rw [wf_cons]
      exact ⟨h.1, fun e he => h.2.1 e (mem_of_mem_erase m k e he), ih h.2.2⟩

theorem mem_place (m : Table α) (k : Nat) (v : α) : ∀ e ∈ place m k v, e = (k, v) ∨ e ∈ m := by
  induction m with
  | nil => simp [place]
  | cons x m ih =>
    obtain ⟨a, w⟩ := x
    intro e he
    by_cases hk : k < a
    · simpa [place, hk] using he
    · simp only [place, hk, if_false, List.mem_cons] at he
      rcases he with rfl | he
      · simp
      · rcases ih e he with h | h
        · exact Or.inl h
        · exact Or.inr (List.mem_cons_of_mem _ h)

theorem wf_place (d : Nat → α) (m : Table α) (k : Nat) (v : α) (h : wf d m = true) (hk : ∀ e ∈ m, e.1 ≠ k)
    (hv : v ≠ d k) : wf d (place m k v) = true := by
  induction m with
  | nil => simp [place, wf, hv]
  | cons x m ih =>
    obtain ⟨a, w⟩ := x
    have h' := h
    rw [wf_cons] at h
    by_cases hlt : k < a
    · simp only [place, hlt, if_true]
      rw [wf_cons]
      refine ⟨hv, fun e he => ?_, h'⟩
      rcases List.mem_cons.mp he with rfl | he
      · exact hlt
      · exact Nat.lt_trans hlt (h.2.1 e he)
    · simp only [place, hlt, if_false]
      rw [wf_cons]
      refine ⟨h.1, fun e he => ?_, ih h.2.2 (fun e he => hk e (List.mem_cons_of_mem _ he))⟩
      rcases mem_place m k v e he with rfl | he
      · have := hk (a, w) List.mem_cons_self
        simp only at this ⊢
        omega
      · exact h.2.1 e he

/-- A write keeps the canonical form. -/
theorem wf_put (d : Nat → α) (m : Table α) (k : Nat) (v : α) (h : wf d m = true) : wf d (put d m k v) = true := by
  by_cases hv : v = d k
  · simpa [put, hv] using wf_erase d m k h
  · simp only [put, hv, if_false]
    exact wf_place d _ k v (wf_erase d m k h) (erase_key_ne m k) hv

/-- A write of consecutive keys keeps the canonical form. -/
theorem wf_putSpan (d : Nat → α) (m : Table α) (k : Nat) (vs : List α) (h : wf d m = true) :
    wf d (putSpan d m k vs) = true := by
  induction vs generalizing m k with
  | nil => exact h
  | cons v vs ih => exact ih _ _ (wf_put d m k v h)

/-- Leaving entries out keeps the canonical form. -/
theorem wf_filter (d : Nat → α) (m : Table α) (p : Nat × α → Bool) (h : wf d m = true) : wf d (m.filter p) = true := by
  induction m with
  | nil => rfl
  | cons e m ih =>
    obtain ⟨a, v⟩ := e
    rw [wf_cons] at h
    by_cases hp : p (a, v) = true
    · rw [List.filter_cons_of_pos hp, wf_cons]
      exact ⟨h.1, fun e he => h.2.1 e (List.mem_filter.mp he).1, ih h.2.2⟩
    · rw [List.filter_cons_of_neg hp]
      exact ih h.2.2

end Sys2Proof.Table
end

