-- ==== Sys2Proof/Laws/State.lean ====
section
/-! SUPPORT. What each named update of the state leaves alone, field by field, and what it reads back as. -/

namespace Sys2Proof.Machine

/-! ### setReg -/

@[simp] theorem State.setReg_clk (s : State) (off : Nat) (v : U64) : (s.setReg off v).clk = s.clk := rfl
@[simp] theorem State.setReg_now (s : State) (off : Nat) (v : U64) : (s.setReg off v).now = s.now := rfl
@[simp] theorem State.setReg_readData (s : State) (off : Nat) (v : U64) : (s.setReg off v).readData = s.readData := rfl
@[simp] theorem State.setReg_readBytes (s : State) (off : Nat) (v : U64) : (s.setReg off v).readBytes = s.readBytes := rfl
@[simp] theorem State.setReg_mem (s : State) (off : Nat) (v : U64) : (s.setReg off v).mem = s.mem := rfl
@[simp] theorem State.setReg_carry (s : State) (off : Nat) (v : U64) : (s.setReg off v).carry = s.carry := rfl
@[simp] theorem State.setReg_sramErr (s : State) (off : Nat) (v : U64) : (s.setReg off v).sramErr = s.sramErr := rfl
@[simp] theorem State.setReg_dramErr (s : State) (off : Nat) (v : U64) : (s.setReg off v).dramErr = s.dramErr := rfl
@[simp] theorem State.setReg_hostA (s : State) (off : Nat) (v : U64) : (s.setReg off v).hostA = s.hostA := rfl
@[simp] theorem State.setReg_hostB (s : State) (off : Nat) (v : U64) : (s.setReg off v).hostB = s.hostB := rfl
@[simp] theorem State.setReg_flash (s : State) (off : Nat) (v : U64) : (s.setReg off v).flash = s.flash := rfl
@[simp] theorem State.setReg_fuse (s : State) (off : Nat) (v : U64) : (s.setReg off v).fuse = s.fuse := rfl
@[simp] theorem State.setReg_boot (s : State) (off : Nat) (v : U64) : (s.setReg off v).boot = s.boot := rfl
@[simp] theorem State.setReg_cores (s : State) (off : Nat) (v : U64) : (s.setReg off v).cores = s.cores := rfl
@[simp] theorem State.setReg_lanes (s : State) (off : Nat) (v : U64) : (s.setReg off v).lanes = s.lanes := rfl
@[simp] theorem State.setReg_parts (s : State) (off : Nat) (v : U64) : (s.setReg off v).parts = s.parts := rfl
@[simp] theorem State.setReg_chans (s : State) (off : Nat) (v : U64) : (s.setReg off v).chans = s.chans := rfl
@[simp] theorem State.setReg_edge (s : State) (off : Nat) (v : U64) : (s.setReg off v).edge = s.edge := rfl
@[simp] theorem State.setReg_hall (s : State) (off : Nat) (v : U64) : (s.setReg off v).hall = s.hall := rfl
@[simp] theorem State.setReg_rings (s : State) (off : Nat) (v : U64) : (s.setReg off v).rings = s.rings := rfl
@[simp] theorem State.setReg_descs (s : State) (off : Nat) (v : U64) : (s.setReg off v).descs = s.descs := rfl
@[simp] theorem State.setReg_sems (s : State) (off : Nat) (v : U64) : (s.setReg off v).sems = s.sems := rfl
@[simp] theorem State.setReg_ent (s : State) (off : Nat) (v : U64) : (s.setReg off v).ent = s.ent := rfl
@[simp] theorem State.setReg_flt (s : State) (off : Nat) (v : U64) : (s.setReg off v).flt = s.flt := rfl
@[simp] theorem State.setReg_mgt (s : State) (off : Nat) (v : U64) : (s.setReg off v).mgt = s.mgt := rfl
@[simp] theorem State.setReg_pwr (s : State) (off : Nat) (v : U64) : (s.setReg off v).pwr = s.pwr := rfl
@[simp] theorem State.setReg_msix (s : State) (off : Nat) (v : U64) : (s.setReg off v).msix = s.msix := rfl
@[simp] theorem State.setReg_msixTable (s : State) (off : Nat) (v : U64) : (s.setReg off v).msixTable = s.msixTable := rfl
@[simp] theorem State.setReg_msixHeld (s : State) (off : Nat) (v : U64) : (s.setReg off v).msixHeld = s.msixHeld := rfl
@[simp] theorem State.setReg_pending (s : State) (off : Nat) (v : U64) : (s.setReg off v).pending = s.pending := rfl

/-! ### setRf -/

@[simp] theorem State.setRf_clk (s : State) (off hi lo v : Nat) : (s.setRf off hi lo v).clk = s.clk := rfl
@[simp] theorem State.setRf_now (s : State) (off hi lo v : Nat) : (s.setRf off hi lo v).now = s.now := rfl
@[simp] theorem State.setRf_readData (s : State) (off hi lo v : Nat) : (s.setRf off hi lo v).readData = s.readData := rfl
@[simp] theorem State.setRf_readBytes (s : State) (off hi lo v : Nat) : (s.setRf off hi lo v).readBytes = s.readBytes := rfl
@[simp] theorem State.setRf_mem (s : State) (off hi lo v : Nat) : (s.setRf off hi lo v).mem = s.mem := rfl
@[simp] theorem State.setRf_carry (s : State) (off hi lo v : Nat) : (s.setRf off hi lo v).carry = s.carry := rfl
@[simp] theorem State.setRf_sramErr (s : State) (off hi lo v : Nat) : (s.setRf off hi lo v).sramErr = s.sramErr := rfl
@[simp] theorem State.setRf_dramErr (s : State) (off hi lo v : Nat) : (s.setRf off hi lo v).dramErr = s.dramErr := rfl
@[simp] theorem State.setRf_hostA (s : State) (off hi lo v : Nat) : (s.setRf off hi lo v).hostA = s.hostA := rfl
@[simp] theorem State.setRf_hostB (s : State) (off hi lo v : Nat) : (s.setRf off hi lo v).hostB = s.hostB := rfl
@[simp] theorem State.setRf_flash (s : State) (off hi lo v : Nat) : (s.setRf off hi lo v).flash = s.flash := rfl
@[simp] theorem State.setRf_fuse (s : State) (off hi lo v : Nat) : (s.setRf off hi lo v).fuse = s.fuse := rfl
@[simp] theorem State.setRf_boot (s : State) (off hi lo v : Nat) : (s.setRf off hi lo v).boot = s.boot := rfl
@[simp] theorem State.setRf_cores (s : State) (off hi lo v : Nat) : (s.setRf off hi lo v).cores = s.cores := rfl
@[simp] theorem State.setRf_lanes (s : State) (off hi lo v : Nat) : (s.setRf off hi lo v).lanes = s.lanes := rfl
@[simp] theorem State.setRf_parts (s : State) (off hi lo v : Nat) : (s.setRf off hi lo v).parts = s.parts := rfl
@[simp] theorem State.setRf_chans (s : State) (off hi lo v : Nat) : (s.setRf off hi lo v).chans = s.chans := rfl
@[simp] theorem State.setRf_edge (s : State) (off hi lo v : Nat) : (s.setRf off hi lo v).edge = s.edge := rfl
@[simp] theorem State.setRf_hall (s : State) (off hi lo v : Nat) : (s.setRf off hi lo v).hall = s.hall := rfl
@[simp] theorem State.setRf_rings (s : State) (off hi lo v : Nat) : (s.setRf off hi lo v).rings = s.rings := rfl
@[simp] theorem State.setRf_descs (s : State) (off hi lo v : Nat) : (s.setRf off hi lo v).descs = s.descs := rfl
@[simp] theorem State.setRf_sems (s : State) (off hi lo v : Nat) : (s.setRf off hi lo v).sems = s.sems := rfl
@[simp] theorem State.setRf_ent (s : State) (off hi lo v : Nat) : (s.setRf off hi lo v).ent = s.ent := rfl
@[simp] theorem State.setRf_flt (s : State) (off hi lo v : Nat) : (s.setRf off hi lo v).flt = s.flt := rfl
@[simp] theorem State.setRf_mgt (s : State) (off hi lo v : Nat) : (s.setRf off hi lo v).mgt = s.mgt := rfl
@[simp] theorem State.setRf_pwr (s : State) (off hi lo v : Nat) : (s.setRf off hi lo v).pwr = s.pwr := rfl
@[simp] theorem State.setRf_msix (s : State) (off hi lo v : Nat) : (s.setRf off hi lo v).msix = s.msix := rfl
@[simp] theorem State.setRf_msixTable (s : State) (off hi lo v : Nat) : (s.setRf off hi lo v).msixTable = s.msixTable := rfl
@[simp] theorem State.setRf_msixHeld (s : State) (off hi lo v : Nat) : (s.setRf off hi lo v).msixHeld = s.msixHeld := rfl
@[simp] theorem State.setRf_pending (s : State) (off hi lo v : Nat) : (s.setRf off hi lo v).pending = s.pending := rfl

/-! ### count -/

@[simp] theorem State.count_clk (s : State) (off hi lo n : Nat) : (s.count off hi lo n).clk = s.clk := rfl
@[simp] theorem State.count_readData (s : State) (off hi lo n : Nat) : (s.count off hi lo n).readData = s.readData := rfl
@[simp] theorem State.count_readBytes (s : State) (off hi lo n : Nat) : (s.count off hi lo n).readBytes = s.readBytes := rfl
@[simp] theorem State.count_mem (s : State) (off hi lo n : Nat) : (s.count off hi lo n).mem = s.mem := rfl
@[simp] theorem State.count_carry (s : State) (off hi lo n : Nat) : (s.count off hi lo n).carry = s.carry := rfl
@[simp] theorem State.count_sramErr (s : State) (off hi lo n : Nat) : (s.count off hi lo n).sramErr = s.sramErr := rfl
@[simp] theorem State.count_dramErr (s : State) (off hi lo n : Nat) : (s.count off hi lo n).dramErr = s.dramErr := rfl
@[simp] theorem State.count_hostA (s : State) (off hi lo n : Nat) : (s.count off hi lo n).hostA = s.hostA := rfl
@[simp] theorem State.count_hostB (s : State) (off hi lo n : Nat) : (s.count off hi lo n).hostB = s.hostB := rfl
@[simp] theorem State.count_flash (s : State) (off hi lo n : Nat) : (s.count off hi lo n).flash = s.flash := rfl
@[simp] theorem State.count_fuse (s : State) (off hi lo n : Nat) : (s.count off hi lo n).fuse = s.fuse := rfl
@[simp] theorem State.count_boot (s : State) (off hi lo n : Nat) : (s.count off hi lo n).boot = s.boot := rfl
@[simp] theorem State.count_cores (s : State) (off hi lo n : Nat) : (s.count off hi lo n).cores = s.cores := rfl
@[simp] theorem State.count_lanes (s : State) (off hi lo n : Nat) : (s.count off hi lo n).lanes = s.lanes := rfl
@[simp] theorem State.count_parts (s : State) (off hi lo n : Nat) : (s.count off hi lo n).parts = s.parts := rfl
@[simp] theorem State.count_chans (s : State) (off hi lo n : Nat) : (s.count off hi lo n).chans = s.chans := rfl
@[simp] theorem State.count_edge (s : State) (off hi lo n : Nat) : (s.count off hi lo n).edge = s.edge := rfl
@[simp] theorem State.count_hall (s : State) (off hi lo n : Nat) : (s.count off hi lo n).hall = s.hall := rfl
@[simp] theorem State.count_rings (s : State) (off hi lo n : Nat) : (s.count off hi lo n).rings = s.rings := rfl
@[simp] theorem State.count_descs (s : State) (off hi lo n : Nat) : (s.count off hi lo n).descs = s.descs := rfl
@[simp] theorem State.count_sems (s : State) (off hi lo n : Nat) : (s.count off hi lo n).sems = s.sems := rfl
@[simp] theorem State.count_ent (s : State) (off hi lo n : Nat) : (s.count off hi lo n).ent = s.ent := rfl
@[simp] theorem State.count_flt (s : State) (off hi lo n : Nat) : (s.count off hi lo n).flt = s.flt := rfl
@[simp] theorem State.count_mgt (s : State) (off hi lo n : Nat) : (s.count off hi lo n).mgt = s.mgt := rfl
@[simp] theorem State.count_pwr (s : State) (off hi lo n : Nat) : (s.count off hi lo n).pwr = s.pwr := rfl
@[simp] theorem State.count_msix (s : State) (off hi lo n : Nat) : (s.count off hi lo n).msix = s.msix := rfl
@[simp] theorem State.count_msixTable (s : State) (off hi lo n : Nat) : (s.count off hi lo n).msixTable = s.msixTable := rfl
@[simp] theorem State.count_msixHeld (s : State) (off hi lo n : Nat) : (s.count off hi lo n).msixHeld = s.msixHeld := rfl
@[simp] theorem State.count_pending (s : State) (off hi lo n : Nat) : (s.count off hi lo n).pending = s.pending := rfl

/-! ### noteEvent -/

@[simp] theorem State.noteEvent_clk (s : State) (off hi lo v : Nat) : (s.noteEvent off hi lo v).clk = s.clk := rfl
@[simp] theorem State.noteEvent_readData (s : State) (off hi lo v : Nat) : (s.noteEvent off hi lo v).readData = s.readData := rfl
@[simp] theorem State.noteEvent_readBytes (s : State) (off hi lo v : Nat) : (s.noteEvent off hi lo v).readBytes = s.readBytes := rfl
@[simp] theorem State.noteEvent_mem (s : State) (off hi lo v : Nat) : (s.noteEvent off hi lo v).mem = s.mem := rfl
@[simp] theorem State.noteEvent_carry (s : State) (off hi lo v : Nat) : (s.noteEvent off hi lo v).carry = s.carry := rfl
@[simp] theorem State.noteEvent_sramErr (s : State) (off hi lo v : Nat) : (s.noteEvent off hi lo v).sramErr = s.sramErr := rfl
@[simp] theorem State.noteEvent_dramErr (s : State) (off hi lo v : Nat) : (s.noteEvent off hi lo v).dramErr = s.dramErr := rfl
@[simp] theorem State.noteEvent_hostA (s : State) (off hi lo v : Nat) : (s.noteEvent off hi lo v).hostA = s.hostA := rfl
@[simp] theorem State.noteEvent_hostB (s : State) (off hi lo v : Nat) : (s.noteEvent off hi lo v).hostB = s.hostB := rfl
@[simp] theorem State.noteEvent_flash (s : State) (off hi lo v : Nat) : (s.noteEvent off hi lo v).flash = s.flash := rfl
@[simp] theorem State.noteEvent_fuse (s : State) (off hi lo v : Nat) : (s.noteEvent off hi lo v).fuse = s.fuse := rfl
@[simp] theorem State.noteEvent_boot (s : State) (off hi lo v : Nat) : (s.noteEvent off hi lo v).boot = s.boot := rfl
@[simp] theorem State.noteEvent_cores (s : State) (off hi lo v : Nat) : (s.noteEvent off hi lo v).cores = s.cores := rfl
@[simp] theorem State.noteEvent_lanes (s : State) (off hi lo v : Nat) : (s.noteEvent off hi lo v).lanes = s.lanes := rfl
@[simp] theorem State.noteEvent_parts (s : State) (off hi lo v : Nat) : (s.noteEvent off hi lo v).parts = s.parts := rfl
@[simp] theorem State.noteEvent_chans (s : State) (off hi lo v : Nat) : (s.noteEvent off hi lo v).chans = s.chans := rfl
@[simp] theorem State.noteEvent_edge (s : State) (off hi lo v : Nat) : (s.noteEvent off hi lo v).edge = s.edge := rfl
@[simp] theorem State.noteEvent_hall (s : State) (off hi lo v : Nat) : (s.noteEvent off hi lo v).hall = s.hall := rfl
@[simp] theorem State.noteEvent_rings (s : State) (off hi lo v : Nat) : (s.noteEvent off hi lo v).rings = s.rings := rfl
@[simp] theorem State.noteEvent_descs (s : State) (off hi lo v : Nat) : (s.noteEvent off hi lo v).descs = s.descs := rfl
@[simp] theorem State.noteEvent_sems (s : State) (off hi lo v : Nat) : (s.noteEvent off hi lo v).sems = s.sems := rfl
@[simp] theorem State.noteEvent_ent (s : State) (off hi lo v : Nat) : (s.noteEvent off hi lo v).ent = s.ent := rfl
@[simp] theorem State.noteEvent_flt (s : State) (off hi lo v : Nat) : (s.noteEvent off hi lo v).flt = s.flt := rfl
@[simp] theorem State.noteEvent_mgt (s : State) (off hi lo v : Nat) : (s.noteEvent off hi lo v).mgt = s.mgt := rfl
@[simp] theorem State.noteEvent_pwr (s : State) (off hi lo v : Nat) : (s.noteEvent off hi lo v).pwr = s.pwr := rfl
@[simp] theorem State.noteEvent_msix (s : State) (off hi lo v : Nat) : (s.noteEvent off hi lo v).msix = s.msix := rfl
@[simp] theorem State.noteEvent_msixTable (s : State) (off hi lo v : Nat) : (s.noteEvent off hi lo v).msixTable = s.msixTable := rfl
@[simp] theorem State.noteEvent_msixHeld (s : State) (off hi lo v : Nat) : (s.noteEvent off hi lo v).msixHeld = s.msixHeld := rfl
@[simp] theorem State.noteEvent_pending (s : State) (off hi lo v : Nat) : (s.noteEvent off hi lo v).pending = s.pending := rfl
@[simp] theorem State.noteEvent_regs (s : State) (off hi lo v : Nat) : (s.noteEvent off hi lo v).regs = s.regs := rfl

/-! ### raise -/

@[simp] theorem State.raise_clk (s : State) (off hi lo v : Nat) : (s.raise off hi lo v).clk = s.clk := rfl
@[simp] theorem State.raise_readData (s : State) (off hi lo v : Nat) : (s.raise off hi lo v).readData = s.readData := rfl
@[simp] theorem State.raise_readBytes (s : State) (off hi lo v : Nat) : (s.raise off hi lo v).readBytes = s.readBytes := rfl
@[simp] theorem State.raise_mem (s : State) (off hi lo v : Nat) : (s.raise off hi lo v).mem = s.mem := rfl
@[simp] theorem State.raise_carry (s : State) (off hi lo v : Nat) : (s.raise off hi lo v).carry = s.carry := rfl
@[simp] theorem State.raise_sramErr (s : State) (off hi lo v : Nat) : (s.raise off hi lo v).sramErr = s.sramErr := rfl
@[simp] theorem State.raise_dramErr (s : State) (off hi lo v : Nat) : (s.raise off hi lo v).dramErr = s.dramErr := rfl
@[simp] theorem State.raise_hostA (s : State) (off hi lo v : Nat) : (s.raise off hi lo v).hostA = s.hostA := rfl
@[simp] theorem State.raise_hostB (s : State) (off hi lo v : Nat) : (s.raise off hi lo v).hostB = s.hostB := rfl
@[simp] theorem State.raise_flash (s : State) (off hi lo v : Nat) : (s.raise off hi lo v).flash = s.flash := rfl
@[simp] theorem State.raise_fuse (s : State) (off hi lo v : Nat) : (s.raise off hi lo v).fuse = s.fuse := rfl
@[simp] theorem State.raise_boot (s : State) (off hi lo v : Nat) : (s.raise off hi lo v).boot = s.boot := rfl
@[simp] theorem State.raise_cores (s : State) (off hi lo v : Nat) : (s.raise off hi lo v).cores = s.cores := rfl
@[simp] theorem State.raise_lanes (s : State) (off hi lo v : Nat) : (s.raise off hi lo v).lanes = s.lanes := rfl
@[simp] theorem State.raise_parts (s : State) (off hi lo v : Nat) : (s.raise off hi lo v).parts = s.parts := rfl
@[simp] theorem State.raise_chans (s : State) (off hi lo v : Nat) : (s.raise off hi lo v).chans = s.chans := rfl
@[simp] theorem State.raise_edge (s : State) (off hi lo v : Nat) : (s.raise off hi lo v).edge = s.edge := rfl
@[simp] theorem State.raise_hall (s : State) (off hi lo v : Nat) : (s.raise off hi lo v).hall = s.hall := rfl
@[simp] theorem State.raise_rings (s : State) (off hi lo v : Nat) : (s.raise off hi lo v).rings = s.rings := rfl
@[simp] theorem State.raise_descs (s : State) (off hi lo v : Nat) : (s.raise off hi lo v).descs = s.descs := rfl
@[simp] theorem State.raise_sems (s : State) (off hi lo v : Nat) : (s.raise off hi lo v).sems = s.sems := rfl
@[simp] theorem State.raise_ent (s : State) (off hi lo v : Nat) : (s.raise off hi lo v).ent = s.ent := rfl
@[simp] theorem State.raise_flt (s : State) (off hi lo v : Nat) : (s.raise off hi lo v).flt = s.flt := rfl
@[simp] theorem State.raise_mgt (s : State) (off hi lo v : Nat) : (s.raise off hi lo v).mgt = s.mgt := rfl
@[simp] theorem State.raise_pwr (s : State) (off hi lo v : Nat) : (s.raise off hi lo v).pwr = s.pwr := rfl
@[simp] theorem State.raise_msix (s : State) (off hi lo v : Nat) : (s.raise off hi lo v).msix = s.msix := rfl
@[simp] theorem State.raise_msixTable (s : State) (off hi lo v : Nat) : (s.raise off hi lo v).msixTable = s.msixTable := rfl
@[simp] theorem State.raise_msixHeld (s : State) (off hi lo v : Nat) : (s.raise off hi lo v).msixHeld = s.msixHeld := rfl
@[simp] theorem State.raise_pending (s : State) (off hi lo v : Nat) : (s.raise off hi lo v).pending = s.pending := rfl

/-! ### peak -/

@[simp] theorem State.peak_clk (s : State) (off hi lo v : Nat) : (s.peak off hi lo v).clk = s.clk := rfl
@[simp] theorem State.peak_readData (s : State) (off hi lo v : Nat) : (s.peak off hi lo v).readData = s.readData := rfl
@[simp] theorem State.peak_readBytes (s : State) (off hi lo v : Nat) : (s.peak off hi lo v).readBytes = s.readBytes := rfl
@[simp] theorem State.peak_mem (s : State) (off hi lo v : Nat) : (s.peak off hi lo v).mem = s.mem := rfl
@[simp] theorem State.peak_carry (s : State) (off hi lo v : Nat) : (s.peak off hi lo v).carry = s.carry := rfl
@[simp] theorem State.peak_sramErr (s : State) (off hi lo v : Nat) : (s.peak off hi lo v).sramErr = s.sramErr := rfl
@[simp] theorem State.peak_dramErr (s : State) (off hi lo v : Nat) : (s.peak off hi lo v).dramErr = s.dramErr := rfl
@[simp] theorem State.peak_hostA (s : State) (off hi lo v : Nat) : (s.peak off hi lo v).hostA = s.hostA := rfl
@[simp] theorem State.peak_hostB (s : State) (off hi lo v : Nat) : (s.peak off hi lo v).hostB = s.hostB := rfl
@[simp] theorem State.peak_flash (s : State) (off hi lo v : Nat) : (s.peak off hi lo v).flash = s.flash := rfl
@[simp] theorem State.peak_fuse (s : State) (off hi lo v : Nat) : (s.peak off hi lo v).fuse = s.fuse := rfl
@[simp] theorem State.peak_boot (s : State) (off hi lo v : Nat) : (s.peak off hi lo v).boot = s.boot := rfl
@[simp] theorem State.peak_cores (s : State) (off hi lo v : Nat) : (s.peak off hi lo v).cores = s.cores := rfl
@[simp] theorem State.peak_lanes (s : State) (off hi lo v : Nat) : (s.peak off hi lo v).lanes = s.lanes := rfl
@[simp] theorem State.peak_parts (s : State) (off hi lo v : Nat) : (s.peak off hi lo v).parts = s.parts := rfl
@[simp] theorem State.peak_chans (s : State) (off hi lo v : Nat) : (s.peak off hi lo v).chans = s.chans := rfl
@[simp] theorem State.peak_edge (s : State) (off hi lo v : Nat) : (s.peak off hi lo v).edge = s.edge := rfl
@[simp] theorem State.peak_hall (s : State) (off hi lo v : Nat) : (s.peak off hi lo v).hall = s.hall := rfl
@[simp] theorem State.peak_rings (s : State) (off hi lo v : Nat) : (s.peak off hi lo v).rings = s.rings := rfl
@[simp] theorem State.peak_descs (s : State) (off hi lo v : Nat) : (s.peak off hi lo v).descs = s.descs := rfl
@[simp] theorem State.peak_sems (s : State) (off hi lo v : Nat) : (s.peak off hi lo v).sems = s.sems := rfl
@[simp] theorem State.peak_ent (s : State) (off hi lo v : Nat) : (s.peak off hi lo v).ent = s.ent := rfl
@[simp] theorem State.peak_flt (s : State) (off hi lo v : Nat) : (s.peak off hi lo v).flt = s.flt := rfl
@[simp] theorem State.peak_mgt (s : State) (off hi lo v : Nat) : (s.peak off hi lo v).mgt = s.mgt := rfl
@[simp] theorem State.peak_pwr (s : State) (off hi lo v : Nat) : (s.peak off hi lo v).pwr = s.pwr := rfl
@[simp] theorem State.peak_msix (s : State) (off hi lo v : Nat) : (s.peak off hi lo v).msix = s.msix := rfl
@[simp] theorem State.peak_msixTable (s : State) (off hi lo v : Nat) : (s.peak off hi lo v).msixTable = s.msixTable := rfl
@[simp] theorem State.peak_msixHeld (s : State) (off hi lo v : Nat) : (s.peak off hi lo v).msixHeld = s.msixHeld := rfl
@[simp] theorem State.peak_pending (s : State) (off hi lo v : Nat) : (s.peak off hi lo v).pending = s.pending := rfl

/-! ### setCore -/

@[simp] theorem State.setCore_clk (s : State) (n : Nat) (x : CoreState) : (s.setCore n x).clk = s.clk := rfl
@[simp] theorem State.setCore_regs (s : State) (n : Nat) (x : CoreState) : (s.setCore n x).regs = s.regs := rfl
@[simp] theorem State.setCore_now (s : State) (n : Nat) (x : CoreState) : (s.setCore n x).now = s.now := rfl
@[simp] theorem State.setCore_readData (s : State) (n : Nat) (x : CoreState) : (s.setCore n x).readData = s.readData := rfl
@[simp] theorem State.setCore_readBytes (s : State) (n : Nat) (x : CoreState) : (s.setCore n x).readBytes = s.readBytes := rfl
@[simp] theorem State.setCore_mem (s : State) (n : Nat) (x : CoreState) : (s.setCore n x).mem = s.mem := rfl
@[simp] theorem State.setCore_carry (s : State) (n : Nat) (x : CoreState) : (s.setCore n x).carry = s.carry := rfl
@[simp] theorem State.setCore_sramErr (s : State) (n : Nat) (x : CoreState) : (s.setCore n x).sramErr = s.sramErr := rfl
@[simp] theorem State.setCore_dramErr (s : State) (n : Nat) (x : CoreState) : (s.setCore n x).dramErr = s.dramErr := rfl
@[simp] theorem State.setCore_hostA (s : State) (n : Nat) (x : CoreState) : (s.setCore n x).hostA = s.hostA := rfl
@[simp] theorem State.setCore_hostB (s : State) (n : Nat) (x : CoreState) : (s.setCore n x).hostB = s.hostB := rfl
@[simp] theorem State.setCore_flash (s : State) (n : Nat) (x : CoreState) : (s.setCore n x).flash = s.flash := rfl
@[simp] theorem State.setCore_fuse (s : State) (n : Nat) (x : CoreState) : (s.setCore n x).fuse = s.fuse := rfl
@[simp] theorem State.setCore_boot (s : State) (n : Nat) (x : CoreState) : (s.setCore n x).boot = s.boot := rfl
@[simp] theorem State.setCore_lanes (s : State) (n : Nat) (x : CoreState) : (s.setCore n x).lanes = s.lanes := rfl
@[simp] theorem State.setCore_parts (s : State) (n : Nat) (x : CoreState) : (s.setCore n x).parts = s.parts := rfl
@[simp] theorem State.setCore_chans (s : State) (n : Nat) (x : CoreState) : (s.setCore n x).chans = s.chans := rfl
@[simp] theorem State.setCore_edge (s : State) (n : Nat) (x : CoreState) : (s.setCore n x).edge = s.edge := rfl
@[simp] theorem State.setCore_hall (s : State) (n : Nat) (x : CoreState) : (s.setCore n x).hall = s.hall := rfl
@[simp] theorem State.setCore_rings (s : State) (n : Nat) (x : CoreState) : (s.setCore n x).rings = s.rings := rfl
@[simp] theorem State.setCore_descs (s : State) (n : Nat) (x : CoreState) : (s.setCore n x).descs = s.descs := rfl
@[simp] theorem State.setCore_sems (s : State) (n : Nat) (x : CoreState) : (s.setCore n x).sems = s.sems := rfl
@[simp] theorem State.setCore_ent (s : State) (n : Nat) (x : CoreState) : (s.setCore n x).ent = s.ent := rfl
@[simp] theorem State.setCore_flt (s : State) (n : Nat) (x : CoreState) : (s.setCore n x).flt = s.flt := rfl
@[simp] theorem State.setCore_mgt (s : State) (n : Nat) (x : CoreState) : (s.setCore n x).mgt = s.mgt := rfl
@[simp] theorem State.setCore_pwr (s : State) (n : Nat) (x : CoreState) : (s.setCore n x).pwr = s.pwr := rfl
@[simp] theorem State.setCore_msix (s : State) (n : Nat) (x : CoreState) : (s.setCore n x).msix = s.msix := rfl
@[simp] theorem State.setCore_msixTable (s : State) (n : Nat) (x : CoreState) : (s.setCore n x).msixTable = s.msixTable := rfl
@[simp] theorem State.setCore_msixHeld (s : State) (n : Nat) (x : CoreState) : (s.setCore n x).msixHeld = s.msixHeld := rfl
@[simp] theorem State.setCore_pending (s : State) (n : Nat) (x : CoreState) : (s.setCore n x).pending = s.pending := rfl

/-! ### updCore -/

@[simp] theorem State.updCore_clk (s : State) (n : Nat) (f : CoreState → CoreState) : (s.updCore n f).clk = s.clk := rfl
@[simp] theorem State.updCore_regs (s : State) (n : Nat) (f : CoreState → CoreState) : (s.updCore n f).regs = s.regs := rfl
@[simp] theorem State.updCore_now (s : State) (n : Nat) (f : CoreState → CoreState) : (s.updCore n f).now = s.now := rfl
@[simp] theorem State.updCore_readData (s : State) (n : Nat) (f : CoreState → CoreState) : (s.updCore n f).readData = s.readData := rfl
@[simp] theorem State.updCore_readBytes (s : State) (n : Nat) (f : CoreState → CoreState) : (s.updCore n f).readBytes = s.readBytes := rfl
@[simp] theorem State.updCore_mem (s : State) (n : Nat) (f : CoreState → CoreState) : (s.updCore n f).mem = s.mem := rfl
@[simp] theorem State.updCore_carry (s : State) (n : Nat) (f : CoreState → CoreState) : (s.updCore n f).carry = s.carry := rfl
@[simp] theorem State.updCore_sramErr (s : State) (n : Nat) (f : CoreState → CoreState) : (s.updCore n f).sramErr = s.sramErr := rfl
@[simp] theorem State.updCore_dramErr (s : State) (n : Nat) (f : CoreState → CoreState) : (s.updCore n f).dramErr = s.dramErr := rfl
@[simp] theorem State.updCore_hostA (s : State) (n : Nat) (f : CoreState → CoreState) : (s.updCore n f).hostA = s.hostA := rfl
@[simp] theorem State.updCore_hostB (s : State) (n : Nat) (f : CoreState → CoreState) : (s.updCore n f).hostB = s.hostB := rfl
@[simp] theorem State.updCore_flash (s : State) (n : Nat) (f : CoreState → CoreState) : (s.updCore n f).flash = s.flash := rfl
@[simp] theorem State.updCore_fuse (s : State) (n : Nat) (f : CoreState → CoreState) : (s.updCore n f).fuse = s.fuse := rfl
@[simp] theorem State.updCore_boot (s : State) (n : Nat) (f : CoreState → CoreState) : (s.updCore n f).boot = s.boot := rfl
@[simp] theorem State.updCore_lanes (s : State) (n : Nat) (f : CoreState → CoreState) : (s.updCore n f).lanes = s.lanes := rfl
@[simp] theorem State.updCore_parts (s : State) (n : Nat) (f : CoreState → CoreState) : (s.updCore n f).parts = s.parts := rfl
@[simp] theorem State.updCore_chans (s : State) (n : Nat) (f : CoreState → CoreState) : (s.updCore n f).chans = s.chans := rfl
@[simp] theorem State.updCore_edge (s : State) (n : Nat) (f : CoreState → CoreState) : (s.updCore n f).edge = s.edge := rfl
@[simp] theorem State.updCore_hall (s : State) (n : Nat) (f : CoreState → CoreState) : (s.updCore n f).hall = s.hall := rfl
@[simp] theorem State.updCore_rings (s : State) (n : Nat) (f : CoreState → CoreState) : (s.updCore n f).rings = s.rings := rfl
@[simp] theorem State.updCore_descs (s : State) (n : Nat) (f : CoreState → CoreState) : (s.updCore n f).descs = s.descs := rfl
@[simp] theorem State.updCore_sems (s : State) (n : Nat) (f : CoreState → CoreState) : (s.updCore n f).sems = s.sems := rfl
@[simp] theorem State.updCore_ent (s : State) (n : Nat) (f : CoreState → CoreState) : (s.updCore n f).ent = s.ent := rfl
@[simp] theorem State.updCore_flt (s : State) (n : Nat) (f : CoreState → CoreState) : (s.updCore n f).flt = s.flt := rfl
@[simp] theorem State.updCore_mgt (s : State) (n : Nat) (f : CoreState → CoreState) : (s.updCore n f).mgt = s.mgt := rfl
@[simp] theorem State.updCore_pwr (s : State) (n : Nat) (f : CoreState → CoreState) : (s.updCore n f).pwr = s.pwr := rfl
@[simp] theorem State.updCore_msix (s : State) (n : Nat) (f : CoreState → CoreState) : (s.updCore n f).msix = s.msix := rfl
@[simp] theorem State.updCore_msixTable (s : State) (n : Nat) (f : CoreState → CoreState) : (s.updCore n f).msixTable = s.msixTable := rfl
@[simp] theorem State.updCore_msixHeld (s : State) (n : Nat) (f : CoreState → CoreState) : (s.updCore n f).msixHeld = s.msixHeld := rfl
@[simp] theorem State.updCore_pending (s : State) (n : Nat) (f : CoreState → CoreState) : (s.updCore n f).pending = s.pending := rfl

/-! ### setPart -/

@[simp] theorem State.setPart_clk (s : State) (q : Nat) (x : Partition) : (s.setPart q x).clk = s.clk := rfl
@[simp] theorem State.setPart_regs (s : State) (q : Nat) (x : Partition) : (s.setPart q x).regs = s.regs := rfl
@[simp] theorem State.setPart_now (s : State) (q : Nat) (x : Partition) : (s.setPart q x).now = s.now := rfl
@[simp] theorem State.setPart_readData (s : State) (q : Nat) (x : Partition) : (s.setPart q x).readData = s.readData := rfl
@[simp] theorem State.setPart_readBytes (s : State) (q : Nat) (x : Partition) : (s.setPart q x).readBytes = s.readBytes := rfl
@[simp] theorem State.setPart_mem (s : State) (q : Nat) (x : Partition) : (s.setPart q x).mem = s.mem := rfl
@[simp] theorem State.setPart_carry (s : State) (q : Nat) (x : Partition) : (s.setPart q x).carry = s.carry := rfl
@[simp] theorem State.setPart_sramErr (s : State) (q : Nat) (x : Partition) : (s.setPart q x).sramErr = s.sramErr := rfl
@[simp] theorem State.setPart_dramErr (s : State) (q : Nat) (x : Partition) : (s.setPart q x).dramErr = s.dramErr := rfl
@[simp] theorem State.setPart_hostA (s : State) (q : Nat) (x : Partition) : (s.setPart q x).hostA = s.hostA := rfl
@[simp] theorem State.setPart_hostB (s : State) (q : Nat) (x : Partition) : (s.setPart q x).hostB = s.hostB := rfl
@[simp] theorem State.setPart_flash (s : State) (q : Nat) (x : Partition) : (s.setPart q x).flash = s.flash := rfl
@[simp] theorem State.setPart_fuse (s : State) (q : Nat) (x : Partition) : (s.setPart q x).fuse = s.fuse := rfl
@[simp] theorem State.setPart_boot (s : State) (q : Nat) (x : Partition) : (s.setPart q x).boot = s.boot := rfl
@[simp] theorem State.setPart_cores (s : State) (q : Nat) (x : Partition) : (s.setPart q x).cores = s.cores := rfl
@[simp] theorem State.setPart_lanes (s : State) (q : Nat) (x : Partition) : (s.setPart q x).lanes = s.lanes := rfl
@[simp] theorem State.setPart_chans (s : State) (q : Nat) (x : Partition) : (s.setPart q x).chans = s.chans := rfl
@[simp] theorem State.setPart_edge (s : State) (q : Nat) (x : Partition) : (s.setPart q x).edge = s.edge := rfl
@[simp] theorem State.setPart_hall (s : State) (q : Nat) (x : Partition) : (s.setPart q x).hall = s.hall := rfl
@[simp] theorem State.setPart_rings (s : State) (q : Nat) (x : Partition) : (s.setPart q x).rings = s.rings := rfl
@[simp] theorem State.setPart_descs (s : State) (q : Nat) (x : Partition) : (s.setPart q x).descs = s.descs := rfl
@[simp] theorem State.setPart_sems (s : State) (q : Nat) (x : Partition) : (s.setPart q x).sems = s.sems := rfl
@[simp] theorem State.setPart_ent (s : State) (q : Nat) (x : Partition) : (s.setPart q x).ent = s.ent := rfl
@[simp] theorem State.setPart_flt (s : State) (q : Nat) (x : Partition) : (s.setPart q x).flt = s.flt := rfl
@[simp] theorem State.setPart_mgt (s : State) (q : Nat) (x : Partition) : (s.setPart q x).mgt = s.mgt := rfl
@[simp] theorem State.setPart_pwr (s : State) (q : Nat) (x : Partition) : (s.setPart q x).pwr = s.pwr := rfl
@[simp] theorem State.setPart_msix (s : State) (q : Nat) (x : Partition) : (s.setPart q x).msix = s.msix := rfl
@[simp] theorem State.setPart_msixTable (s : State) (q : Nat) (x : Partition) : (s.setPart q x).msixTable = s.msixTable := rfl
@[simp] theorem State.setPart_msixHeld (s : State) (q : Nat) (x : Partition) : (s.setPart q x).msixHeld = s.msixHeld := rfl
@[simp] theorem State.setPart_pending (s : State) (q : Nat) (x : Partition) : (s.setPart q x).pending = s.pending := rfl

/-! ### updPart -/

@[simp] theorem State.updPart_clk (s : State) (q : Nat) (f : Partition → Partition) : (s.updPart q f).clk = s.clk := rfl
@[simp] theorem State.updPart_regs (s : State) (q : Nat) (f : Partition → Partition) : (s.updPart q f).regs = s.regs := rfl
@[simp] theorem State.updPart_now (s : State) (q : Nat) (f : Partition → Partition) : (s.updPart q f).now = s.now := rfl
@[simp] theorem State.updPart_readData (s : State) (q : Nat) (f : Partition → Partition) : (s.updPart q f).readData = s.readData := rfl
@[simp] theorem State.updPart_readBytes (s : State) (q : Nat) (f : Partition → Partition) : (s.updPart q f).readBytes = s.readBytes := rfl
@[simp] theorem State.updPart_mem (s : State) (q : Nat) (f : Partition → Partition) : (s.updPart q f).mem = s.mem := rfl
@[simp] theorem State.updPart_carry (s : State) (q : Nat) (f : Partition → Partition) : (s.updPart q f).carry = s.carry := rfl
@[simp] theorem State.updPart_sramErr (s : State) (q : Nat) (f : Partition → Partition) : (s.updPart q f).sramErr = s.sramErr := rfl
@[simp] theorem State.updPart_dramErr (s : State) (q : Nat) (f : Partition → Partition) : (s.updPart q f).dramErr = s.dramErr := rfl
@[simp] theorem State.updPart_hostA (s : State) (q : Nat) (f : Partition → Partition) : (s.updPart q f).hostA = s.hostA := rfl
@[simp] theorem State.updPart_hostB (s : State) (q : Nat) (f : Partition → Partition) : (s.updPart q f).hostB = s.hostB := rfl
@[simp] theorem State.updPart_flash (s : State) (q : Nat) (f : Partition → Partition) : (s.updPart q f).flash = s.flash := rfl
@[simp] theorem State.updPart_fuse (s : State) (q : Nat) (f : Partition → Partition) : (s.updPart q f).fuse = s.fuse := rfl
@[simp] theorem State.updPart_boot (s : State) (q : Nat) (f : Partition → Partition) : (s.updPart q f).boot = s.boot := rfl
@[simp] theorem State.updPart_cores (s : State) (q : Nat) (f : Partition → Partition) : (s.updPart q f).cores = s.cores := rfl
@[simp] theorem State.updPart_lanes (s : State) (q : Nat) (f : Partition → Partition) : (s.updPart q f).lanes = s.lanes := rfl
@[simp] theorem State.updPart_chans (s : State) (q : Nat) (f : Partition → Partition) : (s.updPart q f).chans = s.chans := rfl
@[simp] theorem State.updPart_edge (s : State) (q : Nat) (f : Partition → Partition) : (s.updPart q f).edge = s.edge := rfl
@[simp] theorem State.updPart_hall (s : State) (q : Nat) (f : Partition → Partition) : (s.updPart q f).hall = s.hall := rfl
@[simp] theorem State.updPart_rings (s : State) (q : Nat) (f : Partition → Partition) : (s.updPart q f).rings = s.rings := rfl
@[simp] theorem State.updPart_descs (s : State) (q : Nat) (f : Partition → Partition) : (s.updPart q f).descs = s.descs := rfl
@[simp] theorem State.updPart_sems (s : State) (q : Nat) (f : Partition → Partition) : (s.updPart q f).sems = s.sems := rfl
@[simp] theorem State.updPart_ent (s : State) (q : Nat) (f : Partition → Partition) : (s.updPart q f).ent = s.ent := rfl
@[simp] theorem State.updPart_flt (s : State) (q : Nat) (f : Partition → Partition) : (s.updPart q f).flt = s.flt := rfl
@[simp] theorem State.updPart_mgt (s : State) (q : Nat) (f : Partition → Partition) : (s.updPart q f).mgt = s.mgt := rfl
@[simp] theorem State.updPart_pwr (s : State) (q : Nat) (f : Partition → Partition) : (s.updPart q f).pwr = s.pwr := rfl
@[simp] theorem State.updPart_msix (s : State) (q : Nat) (f : Partition → Partition) : (s.updPart q f).msix = s.msix := rfl
@[simp] theorem State.updPart_msixTable (s : State) (q : Nat) (f : Partition → Partition) : (s.updPart q f).msixTable = s.msixTable := rfl
@[simp] theorem State.updPart_msixHeld (s : State) (q : Nat) (f : Partition → Partition) : (s.updPart q f).msixHeld = s.msixHeld := rfl
@[simp] theorem State.updPart_pending (s : State) (q : Nat) (f : Partition → Partition) : (s.updPart q f).pending = s.pending := rfl

/-! ### updChan -/

@[simp] theorem State.updChan_clk (s : State) (n : Nat) (f : Channel → Channel) : (s.updChan n f).clk = s.clk := rfl
@[simp] theorem State.updChan_regs (s : State) (n : Nat) (f : Channel → Channel) : (s.updChan n f).regs = s.regs := rfl
@[simp] theorem State.updChan_now (s : State) (n : Nat) (f : Channel → Channel) : (s.updChan n f).now = s.now := rfl
@[simp] theorem State.updChan_readData (s : State) (n : Nat) (f : Channel → Channel) : (s.updChan n f).readData = s.readData := rfl
@[simp] theorem State.updChan_readBytes (s : State) (n : Nat) (f : Channel → Channel) : (s.updChan n f).readBytes = s.readBytes := rfl
@[simp] theorem State.updChan_mem (s : State) (n : Nat) (f : Channel → Channel) : (s.updChan n f).mem = s.mem := rfl
@[simp] theorem State.updChan_carry (s : State) (n : Nat) (f : Channel → Channel) : (s.updChan n f).carry = s.carry := rfl
@[simp] theorem State.updChan_sramErr (s : State) (n : Nat) (f : Channel → Channel) : (s.updChan n f).sramErr = s.sramErr := rfl
@[simp] theorem State.updChan_dramErr (s : State) (n : Nat) (f : Channel → Channel) : (s.updChan n f).dramErr = s.dramErr := rfl
@[simp] theorem State.updChan_hostA (s : State) (n : Nat) (f : Channel → Channel) : (s.updChan n f).hostA = s.hostA := rfl
@[simp] theorem State.updChan_hostB (s : State) (n : Nat) (f : Channel → Channel) : (s.updChan n f).hostB = s.hostB := rfl
@[simp] theorem State.updChan_flash (s : State) (n : Nat) (f : Channel → Channel) : (s.updChan n f).flash = s.flash := rfl
@[simp] theorem State.updChan_fuse (s : State) (n : Nat) (f : Channel → Channel) : (s.updChan n f).fuse = s.fuse := rfl
@[simp] theorem State.updChan_boot (s : State) (n : Nat) (f : Channel → Channel) : (s.updChan n f).boot = s.boot := rfl
@[simp] theorem State.updChan_cores (s : State) (n : Nat) (f : Channel → Channel) : (s.updChan n f).cores = s.cores := rfl
@[simp] theorem State.updChan_lanes (s : State) (n : Nat) (f : Channel → Channel) : (s.updChan n f).lanes = s.lanes := rfl
@[simp] theorem State.updChan_parts (s : State) (n : Nat) (f : Channel → Channel) : (s.updChan n f).parts = s.parts := rfl
@[simp] theorem State.updChan_edge (s : State) (n : Nat) (f : Channel → Channel) : (s.updChan n f).edge = s.edge := rfl
@[simp] theorem State.updChan_hall (s : State) (n : Nat) (f : Channel → Channel) : (s.updChan n f).hall = s.hall := rfl
@[simp] theorem State.updChan_rings (s : State) (n : Nat) (f : Channel → Channel) : (s.updChan n f).rings = s.rings := rfl
@[simp] theorem State.updChan_descs (s : State) (n : Nat) (f : Channel → Channel) : (s.updChan n f).descs = s.descs := rfl
@[simp] theorem State.updChan_sems (s : State) (n : Nat) (f : Channel → Channel) : (s.updChan n f).sems = s.sems := rfl
@[simp] theorem State.updChan_ent (s : State) (n : Nat) (f : Channel → Channel) : (s.updChan n f).ent = s.ent := rfl
@[simp] theorem State.updChan_flt (s : State) (n : Nat) (f : Channel → Channel) : (s.updChan n f).flt = s.flt := rfl
@[simp] theorem State.updChan_mgt (s : State) (n : Nat) (f : Channel → Channel) : (s.updChan n f).mgt = s.mgt := rfl
@[simp] theorem State.updChan_pwr (s : State) (n : Nat) (f : Channel → Channel) : (s.updChan n f).pwr = s.pwr := rfl
@[simp] theorem State.updChan_msix (s : State) (n : Nat) (f : Channel → Channel) : (s.updChan n f).msix = s.msix := rfl
@[simp] theorem State.updChan_msixTable (s : State) (n : Nat) (f : Channel → Channel) : (s.updChan n f).msixTable = s.msixTable := rfl
@[simp] theorem State.updChan_msixHeld (s : State) (n : Nat) (f : Channel → Channel) : (s.updChan n f).msixHeld = s.msixHeld := rfl
@[simp] theorem State.updChan_pending (s : State) (n : Nat) (f : Channel → Channel) : (s.updChan n f).pending = s.pending := rfl

/-! ### setSem -/

@[simp] theorem State.setSem_clk (s : State) (n : Nat) (x : Semaphore) : (s.setSem n x).clk = s.clk := rfl
@[simp] theorem State.setSem_regs (s : State) (n : Nat) (x : Semaphore) : (s.setSem n x).regs = s.regs := rfl
@[simp] theorem State.setSem_now (s : State) (n : Nat) (x : Semaphore) : (s.setSem n x).now = s.now := rfl
@[simp] theorem State.setSem_readData (s : State) (n : Nat) (x : Semaphore) : (s.setSem n x).readData = s.readData := rfl
@[simp] theorem State.setSem_readBytes (s : State) (n : Nat) (x : Semaphore) : (s.setSem n x).readBytes = s.readBytes := rfl
@[simp] theorem State.setSem_mem (s : State) (n : Nat) (x : Semaphore) : (s.setSem n x).mem = s.mem := rfl
@[simp] theorem State.setSem_carry (s : State) (n : Nat) (x : Semaphore) : (s.setSem n x).carry = s.carry := rfl
@[simp] theorem State.setSem_sramErr (s : State) (n : Nat) (x : Semaphore) : (s.setSem n x).sramErr = s.sramErr := rfl
@[simp] theorem State.setSem_dramErr (s : State) (n : Nat) (x : Semaphore) : (s.setSem n x).dramErr = s.dramErr := rfl
@[simp] theorem State.setSem_hostA (s : State) (n : Nat) (x : Semaphore) : (s.setSem n x).hostA = s.hostA := rfl
@[simp] theorem State.setSem_hostB (s : State) (n : Nat) (x : Semaphore) : (s.setSem n x).hostB = s.hostB := rfl
@[simp] theorem State.setSem_flash (s : State) (n : Nat) (x : Semaphore) : (s.setSem n x).flash = s.flash := rfl
@[simp] theorem State.setSem_fuse (s : State) (n : Nat) (x : Semaphore) : (s.setSem n x).fuse = s.fuse := rfl
@[simp] theorem State.setSem_boot (s : State) (n : Nat) (x : Semaphore) : (s.setSem n x).boot = s.boot := rfl
@[simp] theorem State.setSem_cores (s : State) (n : Nat) (x : Semaphore) : (s.setSem n x).cores = s.cores := rfl
@[simp] theorem State.setSem_lanes (s : State) (n : Nat) (x : Semaphore) : (s.setSem n x).lanes = s.lanes := rfl
@[simp] theorem State.setSem_parts (s : State) (n : Nat) (x : Semaphore) : (s.setSem n x).parts = s.parts := rfl
@[simp] theorem State.setSem_chans (s : State) (n : Nat) (x : Semaphore) : (s.setSem n x).chans = s.chans := rfl
@[simp] theorem State.setSem_edge (s : State) (n : Nat) (x : Semaphore) : (s.setSem n x).edge = s.edge := rfl
@[simp] theorem State.setSem_hall (s : State) (n : Nat) (x : Semaphore) : (s.setSem n x).hall = s.hall := rfl
@[simp] theorem State.setSem_rings (s : State) (n : Nat) (x : Semaphore) : (s.setSem n x).rings = s.rings := rfl
@[simp] theorem State.setSem_descs (s : State) (n : Nat) (x : Semaphore) : (s.setSem n x).descs = s.descs := rfl
@[simp] theorem State.setSem_ent (s : State) (n : Nat) (x : Semaphore) : (s.setSem n x).ent = s.ent := rfl
@[simp] theorem State.setSem_flt (s : State) (n : Nat) (x : Semaphore) : (s.setSem n x).flt = s.flt := rfl
@[simp] theorem State.setSem_mgt (s : State) (n : Nat) (x : Semaphore) : (s.setSem n x).mgt = s.mgt := rfl
@[simp] theorem State.setSem_pwr (s : State) (n : Nat) (x : Semaphore) : (s.setSem n x).pwr = s.pwr := rfl
@[simp] theorem State.setSem_msix (s : State) (n : Nat) (x : Semaphore) : (s.setSem n x).msix = s.msix := rfl
@[simp] theorem State.setSem_msixTable (s : State) (n : Nat) (x : Semaphore) : (s.setSem n x).msixTable = s.msixTable := rfl
@[simp] theorem State.setSem_msixHeld (s : State) (n : Nat) (x : Semaphore) : (s.setSem n x).msixHeld = s.msixHeld := rfl
@[simp] theorem State.setSem_pending (s : State) (n : Nat) (x : Semaphore) : (s.setSem n x).pending = s.pending := rfl

/-! ### wr -/

@[simp] theorem State.wr_clk (s : State) (a : Nat) (bs : List Byte) : (s.wr a bs).clk = s.clk := rfl
@[simp] theorem State.wr_regs (s : State) (a : Nat) (bs : List Byte) : (s.wr a bs).regs = s.regs := rfl
@[simp] theorem State.wr_now (s : State) (a : Nat) (bs : List Byte) : (s.wr a bs).now = s.now := rfl
@[simp] theorem State.wr_readData (s : State) (a : Nat) (bs : List Byte) : (s.wr a bs).readData = s.readData := rfl
@[simp] theorem State.wr_readBytes (s : State) (a : Nat) (bs : List Byte) : (s.wr a bs).readBytes = s.readBytes := rfl
@[simp] theorem State.wr_carry (s : State) (a : Nat) (bs : List Byte) : (s.wr a bs).carry = s.carry := rfl
@[simp] theorem State.wr_sramErr (s : State) (a : Nat) (bs : List Byte) : (s.wr a bs).sramErr = s.sramErr := rfl
@[simp] theorem State.wr_dramErr (s : State) (a : Nat) (bs : List Byte) : (s.wr a bs).dramErr = s.dramErr := rfl
@[simp] theorem State.wr_hostA (s : State) (a : Nat) (bs : List Byte) : (s.wr a bs).hostA = s.hostA := rfl
@[simp] theorem State.wr_hostB (s : State) (a : Nat) (bs : List Byte) : (s.wr a bs).hostB = s.hostB := rfl
@[simp] theorem State.wr_flash (s : State) (a : Nat) (bs : List Byte) : (s.wr a bs).flash = s.flash := rfl
@[simp] theorem State.wr_fuse (s : State) (a : Nat) (bs : List Byte) : (s.wr a bs).fuse = s.fuse := rfl
@[simp] theorem State.wr_boot (s : State) (a : Nat) (bs : List Byte) : (s.wr a bs).boot = s.boot := rfl
@[simp] theorem State.wr_cores (s : State) (a : Nat) (bs : List Byte) : (s.wr a bs).cores = s.cores := rfl
@[simp] theorem State.wr_lanes (s : State) (a : Nat) (bs : List Byte) : (s.wr a bs).lanes = s.lanes := rfl
@[simp] theorem State.wr_parts (s : State) (a : Nat) (bs : List Byte) : (s.wr a bs).parts = s.parts := rfl
@[simp] theorem State.wr_chans (s : State) (a : Nat) (bs : List Byte) : (s.wr a bs).chans = s.chans := rfl
@[simp] theorem State.wr_edge (s : State) (a : Nat) (bs : List Byte) : (s.wr a bs).edge = s.edge := rfl
@[simp] theorem State.wr_hall (s : State) (a : Nat) (bs : List Byte) : (s.wr a bs).hall = s.hall := rfl
@[simp] theorem State.wr_rings (s : State) (a : Nat) (bs : List Byte) : (s.wr a bs).rings = s.rings := rfl
@[simp] theorem State.wr_descs (s : State) (a : Nat) (bs : List Byte) : (s.wr a bs).descs = s.descs := rfl
@[simp] theorem State.wr_sems (s : State) (a : Nat) (bs : List Byte) : (s.wr a bs).sems = s.sems := rfl
@[simp] theorem State.wr_ent (s : State) (a : Nat) (bs : List Byte) : (s.wr a bs).ent = s.ent := rfl
@[simp] theorem State.wr_flt (s : State) (a : Nat) (bs : List Byte) : (s.wr a bs).flt = s.flt := rfl
@[simp] theorem State.wr_mgt (s : State) (a : Nat) (bs : List Byte) : (s.wr a bs).mgt = s.mgt := rfl
@[simp] theorem State.wr_pwr (s : State) (a : Nat) (bs : List Byte) : (s.wr a bs).pwr = s.pwr := rfl
@[simp] theorem State.wr_msix (s : State) (a : Nat) (bs : List Byte) : (s.wr a bs).msix = s.msix := rfl
@[simp] theorem State.wr_msixTable (s : State) (a : Nat) (bs : List Byte) : (s.wr a bs).msixTable = s.msixTable := rfl
@[simp] theorem State.wr_msixHeld (s : State) (a : Nat) (bs : List Byte) : (s.wr a bs).msixHeld = s.msixHeld := rfl
@[simp] theorem State.wr_pending (s : State) (a : Nat) (bs : List Byte) : (s.wr a bs).pending = s.pending := rfl

/-! ### clearGranules -/

@[simp] theorem State.clearGranules_clk (s : State) (gs : List Nat) : (s.clearGranules gs).clk = s.clk := rfl
@[simp] theorem State.clearGranules_regs (s : State) (gs : List Nat) : (s.clearGranules gs).regs = s.regs := rfl
@[simp] theorem State.clearGranules_now (s : State) (gs : List Nat) : (s.clearGranules gs).now = s.now := rfl
@[simp] theorem State.clearGranules_readData (s : State) (gs : List Nat) : (s.clearGranules gs).readData = s.readData := rfl
@[simp] theorem State.clearGranules_readBytes (s : State) (gs : List Nat) : (s.clearGranules gs).readBytes = s.readBytes := rfl
@[simp] theorem State.clearGranules_mem (s : State) (gs : List Nat) : (s.clearGranules gs).mem = s.mem := rfl
@[simp] theorem State.clearGranules_carry (s : State) (gs : List Nat) : (s.clearGranules gs).carry = s.carry := rfl
@[simp] theorem State.clearGranules_dramErr (s : State) (gs : List Nat) : (s.clearGranules gs).dramErr = s.dramErr := rfl
@[simp] theorem State.clearGranules_hostA (s : State) (gs : List Nat) : (s.clearGranules gs).hostA = s.hostA := rfl
@[simp] theorem State.clearGranules_hostB (s : State) (gs : List Nat) : (s.clearGranules gs).hostB = s.hostB := rfl
@[simp] theorem State.clearGranules_flash (s : State) (gs : List Nat) : (s.clearGranules gs).flash = s.flash := rfl
@[simp] theorem State.clearGranules_fuse (s : State) (gs : List Nat) : (s.clearGranules gs).fuse = s.fuse := rfl
@[simp] theorem State.clearGranules_boot (s : State) (gs : List Nat) : (s.clearGranules gs).boot = s.boot := rfl
@[simp] theorem State.clearGranules_cores (s : State) (gs : List Nat) : (s.clearGranules gs).cores = s.cores := rfl
@[simp] theorem State.clearGranules_lanes (s : State) (gs : List Nat) : (s.clearGranules gs).lanes = s.lanes := rfl
@[simp] theorem State.clearGranules_parts (s : State) (gs : List Nat) : (s.clearGranules gs).parts = s.parts := rfl
@[simp] theorem State.clearGranules_chans (s : State) (gs : List Nat) : (s.clearGranules gs).chans = s.chans := rfl
@[simp] theorem State.clearGranules_edge (s : State) (gs : List Nat) : (s.clearGranules gs).edge = s.edge := rfl
@[simp] theorem State.clearGranules_hall (s : State) (gs : List Nat) : (s.clearGranules gs).hall = s.hall := rfl
@[simp] theorem State.clearGranules_rings (s : State) (gs : List Nat) : (s.clearGranules gs).rings = s.rings := rfl
@[simp] theorem State.clearGranules_descs (s : State) (gs : List Nat) : (s.clearGranules gs).descs = s.descs := rfl
@[simp] theorem State.clearGranules_sems (s : State) (gs : List Nat) : (s.clearGranules gs).sems = s.sems := rfl
@[simp] theorem State.clearGranules_ent (s : State) (gs : List Nat) : (s.clearGranules gs).ent = s.ent := rfl
@[simp] theorem State.clearGranules_flt (s : State) (gs : List Nat) : (s.clearGranules gs).flt = s.flt := rfl
@[simp] theorem State.clearGranules_mgt (s : State) (gs : List Nat) : (s.clearGranules gs).mgt = s.mgt := rfl
@[simp] theorem State.clearGranules_pwr (s : State) (gs : List Nat) : (s.clearGranules gs).pwr = s.pwr := rfl
@[simp] theorem State.clearGranules_msix (s : State) (gs : List Nat) : (s.clearGranules gs).msix = s.msix := rfl
@[simp] theorem State.clearGranules_msixTable (s : State) (gs : List Nat) : (s.clearGranules gs).msixTable = s.msixTable := rfl
@[simp] theorem State.clearGranules_msixHeld (s : State) (gs : List Nat) : (s.clearGranules gs).msixHeld = s.msixHeld := rfl
@[simp] theorem State.clearGranules_pending (s : State) (gs : List Nat) : (s.clearGranules gs).pending = s.pending := rfl

/-! ### noteWrite -/

@[simp] theorem State.noteWrite_clk (s : State) (a n : Nat) : (s.noteWrite a n).clk = s.clk := rfl
@[simp] theorem State.noteWrite_regs (s : State) (a n : Nat) : (s.noteWrite a n).regs = s.regs := rfl
@[simp] theorem State.noteWrite_now (s : State) (a n : Nat) : (s.noteWrite a n).now = s.now := rfl
@[simp] theorem State.noteWrite_readData (s : State) (a n : Nat) : (s.noteWrite a n).readData = s.readData := rfl
@[simp] theorem State.noteWrite_readBytes (s : State) (a n : Nat) : (s.noteWrite a n).readBytes = s.readBytes := rfl
@[simp] theorem State.noteWrite_mem (s : State) (a n : Nat) : (s.noteWrite a n).mem = s.mem := rfl
@[simp] theorem State.noteWrite_carry (s : State) (a n : Nat) : (s.noteWrite a n).carry = s.carry := rfl
@[simp] theorem State.noteWrite_sramErr (s : State) (a n : Nat) : (s.noteWrite a n).sramErr = s.sramErr := rfl
@[simp] theorem State.noteWrite_dramErr (s : State) (a n : Nat) : (s.noteWrite a n).dramErr = s.dramErr := rfl
@[simp] theorem State.noteWrite_hostA (s : State) (a n : Nat) : (s.noteWrite a n).hostA = s.hostA := rfl
@[simp] theorem State.noteWrite_hostB (s : State) (a n : Nat) : (s.noteWrite a n).hostB = s.hostB := rfl
@[simp] theorem State.noteWrite_flash (s : State) (a n : Nat) : (s.noteWrite a n).flash = s.flash := rfl
@[simp] theorem State.noteWrite_fuse (s : State) (a n : Nat) : (s.noteWrite a n).fuse = s.fuse := rfl
@[simp] theorem State.noteWrite_boot (s : State) (a n : Nat) : (s.noteWrite a n).boot = s.boot := rfl
@[simp] theorem State.noteWrite_cores (s : State) (a n : Nat) : (s.noteWrite a n).cores = s.cores := rfl
@[simp] theorem State.noteWrite_lanes (s : State) (a n : Nat) : (s.noteWrite a n).lanes = s.lanes := rfl
@[simp] theorem State.noteWrite_chans (s : State) (a n : Nat) : (s.noteWrite a n).chans = s.chans := rfl
@[simp] theorem State.noteWrite_edge (s : State) (a n : Nat) : (s.noteWrite a n).edge = s.edge := rfl
@[simp] theorem State.noteWrite_hall (s : State) (a n : Nat) : (s.noteWrite a n).hall = s.hall := rfl
@[simp] theorem State.noteWrite_rings (s : State) (a n : Nat) : (s.noteWrite a n).rings = s.rings := rfl
@[simp] theorem State.noteWrite_descs (s : State) (a n : Nat) : (s.noteWrite a n).descs = s.descs := rfl
@[simp] theorem State.noteWrite_sems (s : State) (a n : Nat) : (s.noteWrite a n).sems = s.sems := rfl
@[simp] theorem State.noteWrite_ent (s : State) (a n : Nat) : (s.noteWrite a n).ent = s.ent := rfl
@[simp] theorem State.noteWrite_flt (s : State) (a n : Nat) : (s.noteWrite a n).flt = s.flt := rfl
@[simp] theorem State.noteWrite_mgt (s : State) (a n : Nat) : (s.noteWrite a n).mgt = s.mgt := rfl
@[simp] theorem State.noteWrite_pwr (s : State) (a n : Nat) : (s.noteWrite a n).pwr = s.pwr := rfl
@[simp] theorem State.noteWrite_msix (s : State) (a n : Nat) : (s.noteWrite a n).msix = s.msix := rfl
@[simp] theorem State.noteWrite_msixTable (s : State) (a n : Nat) : (s.noteWrite a n).msixTable = s.msixTable := rfl
@[simp] theorem State.noteWrite_msixHeld (s : State) (a n : Nat) : (s.noteWrite a n).msixHeld = s.msixHeld := rfl
@[simp] theorem State.noteWrite_pending (s : State) (a n : Nat) : (s.noteWrite a n).pending = s.pending := rfl

/-! ### Reading back -/

theorem State.reg_setReg (s : State) (o off : Nat) (v : U64) :
    (s.setReg off v).reg o = if o = off then v else s.reg o := Table.look_put _ _ _ _ _

@[simp] theorem State.reg_setReg_self (s : State) (off : Nat) (v : U64) : (s.setReg off v).reg off = v := by
  simp [State.reg_setReg]

theorem State.reg_setReg_other (s : State) {o off : Nat} (v : U64) (h : o ≠ off) :
    (s.setReg off v).reg o = s.reg o := by
  simp [State.reg_setReg, h]

theorem State.reg_setRf_other (s : State) {o off : Nat} (hi lo v : Nat) (h : o ≠ off) :
    (s.setRf off hi lo v).reg o = s.reg o := State.reg_setReg_other s _ h

@[simp] theorem State.reg_setRf_self (s : State) (off hi lo v : Nat) :
    (s.setRf off hi lo v).reg off = setFld (s.reg off) hi lo v := State.reg_setReg_self s _ _

theorem State.core_setCore (s : State) (m n : Nat) (x : CoreState) :
    (s.setCore n x).core m = if m = n then x else s.core m := Table.look_put _ _ _ _ _

@[simp] theorem State.core_setCore_self (s : State) (n : Nat) (x : CoreState) : (s.setCore n x).core n = x := by
  simp [State.core_setCore]

theorem State.core_setCore_other (s : State) {m n : Nat} (x : CoreState) (h : m ≠ n) :
    (s.setCore n x).core m = s.core m := by
  simp [State.core_setCore, h]

theorem State.core_updCore (s : State) (m n : Nat) (f : CoreState → CoreState) :
    (s.updCore n f).core m = if m = n then f (s.core n) else s.core m := State.core_setCore s m n _

@[simp] theorem State.core_updCore_self (s : State) (n : Nat) (f : CoreState → CoreState) :
    (s.updCore n f).core n = f (s.core n) := State.core_setCore_self s n _

theorem State.core_updCore_other (s : State) {m n : Nat} (f : CoreState → CoreState) (h : m ≠ n) :
    (s.updCore n f).core m = s.core m := State.core_setCore_other s _ h

@[simp] theorem State.setCore_setCore (s : State) (n : Nat) (x y : CoreState) :
    (s.setCore n x).setCore n y = s.setCore n y := by
  simp [State.setCore]

/-- Two changes of one core are one change. -/
@[simp] theorem State.updCore_updCore (s : State) (n : Nat) (f g : CoreState → CoreState) :
    (s.updCore n f).updCore n g = s.updCore n (fun k => g (f k)) := by
  simp [State.updCore]

theorem State.part_setPart (s : State) (p q : Nat) (x : Partition) :
    (s.setPart q x).part p = if p = q then x else s.part p := Table.look_put _ _ _ _ _

@[simp] theorem State.part_setPart_self (s : State) (q : Nat) (x : Partition) : (s.setPart q x).part q = x := by
  simp [State.part_setPart]

theorem State.part_updPart (s : State) (p q : Nat) (f : Partition → Partition) :
    (s.updPart q f).part p = if p = q then f (s.part q) else s.part p := State.part_setPart s p q _

@[simp] theorem State.part_updPart_self (s : State) (q : Nat) (f : Partition → Partition) :
    (s.updPart q f).part q = f (s.part q) := State.part_setPart_self s q _

theorem State.part_updPart_other (s : State) {p q : Nat} (f : Partition → Partition) (h : p ≠ q) :
    (s.updPart q f).part p = s.part p := by
  simp [State.part_updPart, h]

@[simp] theorem State.setPart_setPart (s : State) (q : Nat) (x y : Partition) :
    (s.setPart q x).setPart q y = s.setPart q y := by
  simp [State.setPart]

/-- Two changes of one partition are one change. -/
@[simp] theorem State.updPart_updPart (s : State) (q : Nat) (f g : Partition → Partition) :
    (s.updPart q f).updPart q g = s.updPart q (fun p => g (f p)) := by
  simp [State.updPart]

theorem State.chan_updChan (s : State) (m n : Nat) (f : Channel → Channel) :
    (s.updChan n f).chan m = if m = n then f (s.chan n) else s.chan m := Table.look_put _ _ _ _ _

@[simp] theorem State.chan_updChan_self (s : State) (n : Nat) (f : Channel → Channel) :
    (s.updChan n f).chan n = f (s.chan n) := by
  simp [State.chan_updChan]

theorem State.sem_setSem (s : State) (m n : Nat) (x : Semaphore) :
    (s.setSem n x).sem m = if m = n then x else s.sem m := Table.look_put _ _ _ _ _

@[simp] theorem State.sem_setSem_self (s : State) (n : Nat) (x : Semaphore) : (s.setSem n x).sem n = x := by
  simp [State.sem_setSem]

/-- Bytes read back after a write of them. -/
@[simp] theorem State.rd_wr_self (s : State) (a : Nat) (bs : List Byte) : (s.wr a bs).rd a bs.length = bs :=
  Table.span_putSpan _ _ _ _

/-- Bytes read away from a write. -/
theorem State.rd_wr_other (s : State) (a : Nat) (bs : List Byte) (b n : Nat) (h : b + n ≤ a ∨ a + bs.length ≤ b) :
    (s.wr a bs).rd b n = s.rd b n := Table.span_putSpan_other _ _ _ _ _ _ h

end Sys2Proof.Machine
end

