-- ==== Sys2Proof/Laws/Touch.lean ====
section
/-! SUPPORT. The calculus of frames: `OnlyTouches` and its fellows compose, widen, and go through a fold; and what each
named update touches. -/

namespace Sys2Proof.Machine

variable {s t u : State} {ps qs : List Piece}

/-! ## Pieces -/

@[simp] theorem Piece.same_self (p : Piece) (s : State) : p.same s s := by cases p <;> simp [Piece.same]

theorem Piece.same_trans {p : Piece} (h : p.same s t) (k : p.same t u) : p.same s u := by
  cases p <;> simp_all [Piece.same]

@[simp] theorem OnlyTouches.refl (ps : List Piece) (s : State) : OnlyTouches ps s s := fun p _ => p.same_self s

theorem OnlyTouches.trans (h : OnlyTouches ps s t) (k : OnlyTouches ps t u) : OnlyTouches ps s u :=
  fun p hp => Piece.same_trans (h p hp) (k p hp)

theorem OnlyTouches.mono (h : OnlyTouches ps s t) (k : ∀ p ∈ ps, p ∈ qs) : OnlyTouches qs s t :=
  fun p hp => h p (fun hq => hp (k p hq))

/-- A fold of steps that touch only some pieces touches only those. -/
theorem OnlyTouches.foldl {α : Type} {f : State → α → State} (h : ∀ s a, OnlyTouches ps s (f s a)) (l : List α) (s : State) :
    OnlyTouches ps s (l.foldl f s) := by
  induction l generalizing s with
  | nil => exact .refl ps s
  | cons a l ih => exact (h s a).trans (ih _)

/-- A choice between two ends that touch only some pieces touches only those. -/
theorem OnlyTouches.ite {c : Prop} [Decidable c] (h : OnlyTouches ps s t) (k : OnlyTouches ps s u) :
    OnlyTouches ps s (if c then t else u) := by
  split
  · exact h
  · exact k

/-! ## Registers, cores, partitions -/

@[simp] theorem KeepsRegs.refl (l : List Nat) (s : State) : KeepsRegs l s s := fun _ _ => rfl

theorem KeepsRegs.trans {l : List Nat} (h : KeepsRegs l s t) (k : KeepsRegs l t u) : KeepsRegs l s u :=
  fun o ho => (k o ho).trans (h o ho)

theorem KeepsRegs.mono {l m : List Nat} (h : KeepsRegs l s t) (k : ∀ o ∈ l, o ∈ m) : KeepsRegs m s t :=
  fun o ho => h o (fun ho' => ho (k o ho'))

theorem KeepsRegs.foldl {α : Type} {l : List Nat} {f : State → α → State} (h : ∀ s a, KeepsRegs l s (f s a)) (as : List α)
    (s : State) : KeepsRegs l s (as.foldl f s) := by
  induction as generalizing s with
  | nil => exact .refl l s
  | cons a as ih => exact (h s a).trans (ih _)

/-- A step that leaves the whole register space keeps every register. -/
theorem KeepsRegs.of_regs (l : List Nat) (h : t.regs = s.regs) : KeepsRegs l s t := fun o _ => by
  simp [State.reg, h]

theorem OnlyTouches.keepsRegs (h : OnlyTouches ps s t) (hp : Piece.regs ∉ ps) (l : List Nat) : KeepsRegs l s t :=
  .of_regs l (h .regs hp).1

@[simp] theorem KeepsCores.refl (l : List Nat) (s : State) : KeepsCores l s s := fun _ _ => rfl

theorem KeepsCores.trans {l : List Nat} (h : KeepsCores l s t) (k : KeepsCores l t u) : KeepsCores l s u :=
  fun n hn => (k n hn).trans (h n hn)

theorem KeepsCores.of_cores (l : List Nat) (h : t.cores = s.cores) : KeepsCores l s t := fun n _ => by
  simp [State.core, h]

theorem OnlyTouches.keepsCores (h : OnlyTouches ps s t) (hp : Piece.cores ∉ ps) (l : List Nat) : KeepsCores l s t :=
  .of_cores l (h .cores hp)

@[simp] theorem KeepsParts.refl (l : List Nat) (s : State) : KeepsParts l s s := fun _ _ => rfl

theorem KeepsParts.trans {l : List Nat} (h : KeepsParts l s t) (k : KeepsParts l t u) : KeepsParts l s u :=
  fun q hq => (k q hq).trans (h q hq)

theorem KeepsParts.of_parts (l : List Nat) (h : t.parts = s.parts) : KeepsParts l s t := fun q _ => by
  simp [State.part, h]

theorem OnlyTouches.keepsParts (h : OnlyTouches ps s t) (hp : Piece.parts ∉ ps) (l : List Nat) : KeepsParts l s t :=
  .of_parts l (h .parts hp)

/-! ## Memory -/

@[simp] theorem KeepsBytes.refl (a n : Nat) (s : State) : KeepsBytes a n s s := fun _ _ => rfl

theorem KeepsBytes.trans {a n : Nat} (h : KeepsBytes a n s t) (k : KeepsBytes a n t u) : KeepsBytes a n s u :=
  fun b hb => (k b hb).trans (h b hb)

theorem KeepsBytes.of_mem (a n : Nat) (h : t.mem = s.mem) : KeepsBytes a n s t := fun b _ => by simp [State.byteAt, h]

/-- A write changes no byte outside its range. -/
theorem keepsBytes_wr (s : State) (a : Nat) (bs : List Byte) : KeepsBytes a bs.length s (s.wr a bs) := fun k hk => by
  simpa [State.byteAt, State.wr] using Table.look_putSpan_other zeroByte s.mem a bs hk

/-! ## What the named updates touch -/

theorem touches_setReg (s : State) (off : Nat) (v : U64) : OnlyTouches [.regs] s (s.setReg off v) := fun p hp => by
  cases p <;> simp_all [Piece.same]

theorem touches_setRf (s : State) (off hi lo v : Nat) : OnlyTouches [.regs] s (s.setRf off hi lo v) :=
  touches_setReg s off _

theorem touches_noteEvent (s : State) (off hi lo v : Nat) : OnlyTouches [.regs] s (s.noteEvent off hi lo v) := fun p hp => by
  cases p <;> simp_all [Piece.same]

theorem touches_raise (s : State) (off hi lo v : Nat) : OnlyTouches [.regs] s (s.raise off hi lo v) :=
  (touches_noteEvent s off hi lo v).trans (touches_setRf _ off hi lo _)

theorem touches_count (s : State) (off hi lo n : Nat) : OnlyTouches [.regs] s (s.count off hi lo n) :=
  (touches_noteEvent s off hi lo _).trans (touches_setRf _ off hi lo _)

theorem touches_peak (s : State) (off hi lo v : Nat) : OnlyTouches [.regs] s (s.peak off hi lo v) :=
  (touches_noteEvent s off hi lo _).trans (touches_setRf _ off hi lo _)

theorem touches_setCore (s : State) (n : Nat) (c : CoreState) : OnlyTouches [.cores] s (s.setCore n c) := fun p hp => by
  cases p <;> simp_all [Piece.same]

theorem touches_updCore (s : State) (n : Nat) (f : CoreState → CoreState) : OnlyTouches [.cores] s (s.updCore n f) :=
  touches_setCore s n _

theorem touches_setPart (s : State) (q : Nat) (p : Partition) : OnlyTouches [.parts] s (s.setPart q p) := fun x hx => by
  cases x <;> simp_all [Piece.same]

theorem touches_updPart (s : State) (q : Nat) (f : Partition → Partition) : OnlyTouches [.parts] s (s.updPart q f) :=
  touches_setPart s q _

theorem touches_setSem (s : State) (n : Nat) (x : Semaphore) : OnlyTouches [.sems] s (s.setSem n x) := fun p hp => by
  cases p <;> simp_all [Piece.same, State.setSem]

theorem touches_wr (s : State) (a : Nat) (bs : List Byte) : OnlyTouches [.mem] s (s.wr a bs) := fun p hp => by
  cases p <;> simp_all [Piece.same]

theorem touches_clearGranules (s : State) (gs : List Nat) : OnlyTouches [.sramErr] s (s.clearGranules gs) := fun p hp => by
  cases p <;> simp_all [Piece.same, State.clearGranules]

theorem touches_noteWrite (s : State) (a n : Nat) : OnlyTouches [.parts] s (s.noteWrite a n) := fun p hp => by
  cases p <;> simp_all [Piece.same, State.noteWrite]

theorem touches_interrupt (s : State) (p : Port) (v : Nat) : OnlyTouches [.msix] s (s.interrupt p v) := fun x hx => by
  have hx : x ≠ .msix := by simpa using hx
  unfold State.interrupt
  split
  · exact x.same_self s
  · split
    · split
      · exact x.same_self s
      · cases x <;> simp_all [Piece.same]
    · cases x <;> simp_all [Piece.same]

theorem keepsRegs_setReg (s : State) (off : Nat) (v : U64) : KeepsRegs [off] s (s.setReg off v) := fun o ho => by
  simp only [List.mem_singleton] at ho
  simpa [State.reg, State.setReg] using Table.look_put_other regReset s.regs v ho

theorem keepsRegs_setRf (s : State) (off hi lo v : Nat) : KeepsRegs [off] s (s.setRf off hi lo v) :=
  keepsRegs_setReg s off _

theorem keepsRegs_raise (s : State) (off hi lo v : Nat) : KeepsRegs [off] s (s.raise off hi lo v) :=
  (KeepsRegs.of_regs _ (State.noteEvent_regs _ _ _ _ _)).trans (keepsRegs_setRf _ off hi lo _)

theorem keepsRegs_count (s : State) (off hi lo n : Nat) : KeepsRegs [off] s (s.count off hi lo n) :=
  (KeepsRegs.of_regs _ (State.noteEvent_regs _ _ _ _ _)).trans (keepsRegs_setRf _ off hi lo _)

theorem keepsCores_setCore (s : State) (n : Nat) (c : CoreState) : KeepsCores [n] s (s.setCore n c) := fun m hm => by
  simp only [List.mem_singleton] at hm
  simpa [State.core, State.setCore] using Table.look_put_other (fun _ => {}) s.cores c hm

theorem keepsCores_updCore (s : State) (n : Nat) (f : CoreState → CoreState) : KeepsCores [n] s (s.updCore n f) :=
  keepsCores_setCore s n _

theorem keepsParts_setPart (s : State) (q : Nat) (p : Partition) : KeepsParts [q] s (s.setPart q p) := fun r hr => by
  simp only [List.mem_singleton] at hr
  simpa [State.part, State.setPart] using Table.look_put_other (fun _ => {}) s.parts p hr

theorem keepsParts_updPart (s : State) (q : Nat) (f : Partition → Partition) : KeepsParts [q] s (s.updPart q f) :=
  keepsParts_setPart s q _

/-- A command whose meaning changes one core alone has a core effect. -/
theorem coreEffect_of_updCore {i : Instr} {c : Nat} {f : CoreState → CoreState} (h : exec i s = .next (s.updCore c f)) :
    CoreEffect i s c f :=
  ⟨_, h, by simp, keepsCores_updCore s c f, touches_updCore s c f⟩

end Sys2Proof.Machine
end

