-- ==== Sys2Proof/Laws/Ops.lean ====
section
/-! SUPPORT. One lemma for each shared operation that says what it can do: registers and counters, reports, the stop of a
core, reads and writes of memory, entries, ports and completions. -/

namespace Sys2Proof.Machine

/-! ## Registers -/

theorem State.reg_of_regs {s t : State} (h : t.regs = s.regs) (o : Nat) : t.reg o = s.reg o := by simp [State.reg, h]

/-! ## Messages -/

/-- Placing a message adds it, and keeps the others. -/
theorem mem_placeMsg (m : FaultMsg) (l : List FaultMsg) (x : FaultMsg) : x ∈ placeMsg m l ↔ x = m ∨ x ∈ l := by
  induction l with
  | nil => simp [placeMsg]
  | cons y l ih =>
    unfold placeMsg
    split
    · simp
    · simp [ih]; tauto

@[simp] theorem length_placeMsg (m : FaultMsg) (l : List FaultMsg) : (placeMsg m l).length = l.length + 1 := by
  induction l with
  | nil => rfl
  | cons y l ih =>
    unfold placeMsg
    split <;> simp [ih]

/-- A report with room: the message joins the queue at its place (R360). -/
theorem report_spec (s : State) (src kind addr tag : Nat) (h : s.flt.queue.length < 64) :
    s.report src kind addr tag =
      { s with flt := { s.flt with queue := placeMsg ⟨faultMsg src kind addr, tag, s.mc⟩ s.flt.queue } } := by
  have e : (placeMsg ⟨faultMsg src kind addr, tag, s.mc⟩ s.flt.queue).length ≤ 64 := by simp; omega
  simp [State.report, State.enterQueue, List.take_of_length_le e, List.drop_eq_nil_of_le e]

theorem touches_noRoom (s : State) (m : FaultMsg) : OnlyTouches [.regs, .flt] s (s.noRoom m) := by
  unfold State.noRoom
  split
  · exact (touches_count _ _ _ _ _).mono (by simp)
  · intro p hp
    cases p <;> simp_all [Piece.same]

theorem keepsRegs_noRoom (s : State) (m : FaultMsg) : KeepsRegs faultRegs s (s.noRoom m) := by
  unfold State.noRoom
  split
  · exact keepsRegs_count _ _ _ _ _
  · exact .of_regs _ rfl

@[simp] theorem noRoom_queue (s : State) (m : FaultMsg) : (s.noRoom m).flt.queue = s.flt.queue := by
  unfold State.noRoom
  split <;> rfl

theorem touches_enterQueue (s : State) (m : FaultMsg) : OnlyTouches [.regs, .flt] s (s.enterQueue m) := by
  refine OnlyTouches.trans (t := { s with flt := { s.flt with queue := (placeMsg m s.flt.queue).take 64 } }) (fun p hp => ?_)
    (.foldl (fun _ _ => touches_noRoom _ _) _ _)
  cases p <;> simp_all [Piece.same]

theorem keepsRegs_enterQueue (s : State) (m : FaultMsg) : KeepsRegs faultRegs s (s.enterQueue m) :=
  (KeepsRegs.of_regs _ (t := { s with flt := { s.flt with queue := (placeMsg m s.flt.queue).take 64 } }) rfl).trans
    (.foldl (fun _ _ => keepsRegs_noRoom _ _) _ _)

/-- The input queue holds 64 messages at most after a message has entered (R361). -/
theorem enterQueue_queue (s : State) (m : FaultMsg) : (s.enterQueue m).flt.queue = (placeMsg m s.flt.queue).take 64 := by
  have h : ∀ (l : List FaultMsg) (t : State), (l.foldl State.noRoom t).flt.queue = t.flt.queue := by
    intro l
    induction l with
    | nil => exact fun _ => rfl
    | cons x l ih => exact fun t => (ih _).trans (noRoom_queue _ _)
  exact h _ _

theorem touches_report (s : State) (src kind addr tag : Nat) : OnlyTouches [.regs, .flt] s (s.report src kind addr tag) :=
  touches_enterQueue s _

theorem keepsRegs_report (s : State) (src kind addr tag : Nat) : KeepsRegs faultRegs s (s.report src kind addr tag) :=
  keepsRegs_enterQueue s _

/-- A report leaves at most 64 messages in the input queue. -/
theorem report_queue_le (s : State) (src kind addr tag : Nat) : (s.report src kind addr tag).flt.queue.length ≤ 64 := by
  rw [State.report, enterQueue_queue, List.length_take]
  omega

theorem touches_reportCe (s : State) (n : Nat) (gs : List Nat) : OnlyTouches [.regs, .flt] s (s.reportCe n gs) :=
  .foldl (fun _ _ => touches_report _ _ _ _ _) gs s

@[simp] theorem reportCe_nil (s : State) (n : Nat) : s.reportCe n [] = s := rfl

/-! ## The stop of a core -/

theorem touches_assertStop (s : State) (n : Nat) : OnlyTouches [.parts] s (s.assertStop n) := by
  unfold State.assertStop
  split
  · exact touches_updPart _ _ _
  · exact .refl _ _

/-- The stop line of a core's partition: driven, with the partition marked faulted; nothing outside a partition. -/
theorem assertStop_part (s : State) (n q : Nat) (h : s.partOfCore n = some q) :
    s.assertStop n = s.updPart q (fun p => { p with faulted := true, stopLine := true }) := by
  simp only [State.assertStop, h]

/-- The lowest bit set in an even word. -/
theorem setFld_low (x : Nat) (h : x % 2 = 0) : setFld (BitVec.ofNat 64 x) 0 0 1 = BitVec.ofNat 64 (1 + x) := by
  have e : bitsN (x % 2 ^ 64) 0 0 = 0 := by
    rw [bitsN_eq]
    omega
  apply BitVec.eq_of_toNat_eq
  simp only [setFld, setBitsN, BitVec.toNat_ofNat, e]
  omega

/-- The state of a stopping core before its STOP line rises. -/
def State.halted (s : State) (n kind : Nat) : State :=
  let t := s.setCore n { (s.core n).dropWord with mode := .faulted }
  if (s.core n).mode = .faulted then t
  else (t.setReg (Reg.coreFault n) (BitVec.ofNat 64
    (kind * 2 ^ 8 + (s.core n).faultPc % 1024 * 2 ^ 16 + s.tickOf n % 2 ^ 32 * 2 ^ 32))).raise (Reg.coreFault n) 0 0 1

theorem haltOn_eq (s : State) (n kind : Nat) : s.haltOn n kind = (s.halted n kind).assertStop n := rfl

theorem touches_halted (s : State) (n kind : Nat) : OnlyTouches [.cores, .regs] s (s.halted n kind) := by
  unfold State.halted
  refine ((touches_setCore _ _ _).mono (by simp)).trans (.ite (.refl _ _) ?_)
  exact ((touches_setReg _ _ _).mono (by simp)).trans ((touches_raise _ _ _ _ _).mono (by simp))

theorem parts_halted (s : State) (n kind : Nat) : (s.halted n kind).parts = s.parts := touches_halted s n kind .parts (by simp)

theorem partOfCore_of_parts {s t : State} (h : t.parts = s.parts) (n : Nat) : t.partOfCore n = s.partOfCore n := by
  simp only [State.partOfCore, State.partOfQuire, h]

theorem part_of_parts {s t : State} (h : t.parts = s.parts) (q : Nat) : t.part q = s.part q := by simp only [State.part, h]

theorem core_of_cores {s t : State} (h : t.cores = s.cores) (n : Nat) : t.core n = s.core n := by simp only [State.core, h]

theorem cores_halted (s : State) (n kind : Nat) :
    (s.halted n kind).cores = (s.setCore n { (s.core n).dropWord with mode := .faulted }).cores := by
  unfold State.halted
  simp only
  split
  · rfl
  · exact ((touches_setReg _ _ _).trans (touches_raise _ _ _ _ _)) .cores (by simp)

theorem core_halted (s : State) (n kind : Nat) :
    (s.halted n kind).core n = { (s.core n).dropWord with mode := .faulted } := by
  rw [core_of_cores (cores_halted s n kind), State.core_setCore_self]

theorem keepsRegs_halted (s : State) (n kind : Nat) : KeepsRegs [Reg.coreFault n] s (s.halted n kind) := by
  unfold State.halted
  simp only
  split
  · exact .of_regs _ rfl
  · exact ((KeepsRegs.of_regs _ rfl).trans (keepsRegs_setReg _ _ _)).trans (keepsRegs_raise _ _ _ _ _)

theorem reg_halted (s : State) (n kind : Nat) (h : (s.core n).mode ≠ .faulted) :
    (s.halted n kind).reg (Reg.coreFault n) = BitVec.ofNat 64 (1 + kind * 2 ^ 8 +
      (s.core n).faultPc % 1024 * 2 ^ 16 + s.tickOf n % 2 ^ 32 * 2 ^ 32) := by
  simp only [State.halted, h, if_false, State.raise, State.setRf, State.reg_setReg_self]
  rw [State.reg_of_regs (State.noteEvent_regs _ _ _ _ _), State.reg_setReg_self, setFld_low _ (by omega)]
  congr 1
  omega

/-- A stop of a core (R89, R169): the core is FAULTED with the word's effects dropped, CORE_FAULT holds the cause of its first
stop, and the partition, if any, is marked faulted with its STOP line driven. -/
theorem haltOn_spec (s : State) (n kind : Nat) :
    (s.haltOn n kind).core n = { (s.core n).dropWord with mode := .faulted } ∧
    ((s.core n).mode ≠ .faulted → (s.haltOn n kind).reg (Reg.coreFault n) = BitVec.ofNat 64 (1 + kind * 2 ^ 8 +
      (s.core n).faultPc % 1024 * 2 ^ 16 + s.tickOf n % 2 ^ 32 * 2 ^ 32)) ∧
    (∀ q, s.partOfCore n = some q → (s.haltOn n kind).part q = { s.part q with faulted := true, stopLine := true }) ∧
    KeepsCores [n] s (s.haltOn n kind) ∧ KeepsRegs [Reg.coreFault n] s (s.haltOn n kind) ∧
    OnlyTouches [.cores, .regs, .parts] s (s.haltOn n kind) := by
  rw [haltOn_eq]
  have ha := touches_assertStop (s.halted n kind) n
  refine ⟨?_, fun h => ?_, fun q hq => ?_, ?_, ?_, ?_⟩
  · rw [core_of_cores (ha .cores (by simp)), core_halted]
  · rw [State.reg_of_regs (ha .regs (by simp)).1, reg_halted s n kind h]
  · rw [assertStop_part _ n q (by rw [partOfCore_of_parts (parts_halted s n kind), hq]), State.part_updPart_self,
      part_of_parts (parts_halted s n kind)]
  · refine KeepsCores.trans (fun m hm => ?_) (ha.keepsCores (by simp) _)
    rw [core_of_cores (cores_halted s n kind), keepsCores_setCore s n _ m hm]
  · exact (keepsRegs_halted s n kind).trans (ha.keepsRegs (by simp) _)
  · exact ((touches_halted s n kind).mono (by simp)).trans (ha.mono (by simp))

/-- A stop whose report carries the program counter and the tick. -/
theorem stopWith_spec (s : State) (n kind : Nat) :
    (s.stopWith n kind).core n = { (s.core n).dropWord with mode := .faulted } ∧
    KeepsCores [n] s (s.stopWith n kind) ∧ OnlyTouches [.cores, .regs, .parts, .flt] s (s.stopWith n kind) ∧
    (s.flt.queue.length < 64 → ⟨faultMsg n kind (s.stopAddr n), s.coreTag n, s.mc⟩ ∈ (s.stopWith n kind).flt.queue) := by
  obtain ⟨hc, -, -, hk, -, ht⟩ := haltOn_spec s n kind
  have hr := touches_report (s.haltOn n kind) n kind (s.stopAddr n) (s.coreTag n)
  refine ⟨?_, hk.trans (hr.keepsCores (by simp) _), (ht.mono (by simp)).trans (hr.mono (by simp)), fun h => ?_⟩
  · have e : (s.stopWith n kind).cores = (s.haltOn n kind).cores := hr .cores (by simp)
    simpa [State.core, e] using hc
  · have e : (s.haltOn n kind).flt = s.flt := ht .flt (by simp)
    have e' : (s.haltOn n kind).mc = s.mc := congrArg Clocks.mc (ht .clk (by simp))
    unfold State.stopWith
    rw [report_spec _ n kind _ _ (by simpa [e] using h), ← e']
    exact (mem_placeMsg _ _ _).mpr (.inl rfl)

/-! ## Slots and ports -/

theorem slotOp_silent (s : State) (n : Nat) (legal : Bool) (f : State → State) (h : s.issues n = false) :
    slotOp s n legal f = .next s := by simp [slotOp, h]

theorem slotOp_legal (s : State) (n : Nat) (legal : Bool) (f : State → State) (h : s.issues n = true) (k : legal = true) :
    slotOp s n legal f = .next (f s) := by simp [slotOp, h, k]

theorem slotOp_illegal (s : State) (n : Nat) (legal : Bool) (f : State → State) (h : s.issues n = true)
    (k : legal = false) : slotOp s n legal f = .next (s.illegal n) := by simp [slotOp, h, k]

theorem withFe_free (s : State) (n : Nat) (f : State → State) (h : (s.core n).fePort = false) :
    s.withFe n f = f (s.updCore n (fun c => { c with fePort := true })) := by simp [State.withFe, h]

theorem withLink_free (s : State) (n : Nat) (f : State → State) (h : (s.core n).linkPort = false) :
    s.withLink n f = f (s.updCore n (fun c => { c with linkPort := true })) := by simp [State.withLink, h]

/-- An advance of a pointer changes its core alone. -/
theorem advance_spec (s : State) (n k : Nat) (go : Bool) :
    (s.advance n k go).core n = (s.core n).advance (s.reg (Reg.corePtr n k)) k go ∧
    KeepsCores [n] s (s.advance n k go) ∧ OnlyTouches [.cores] s (s.advance n k go) :=
  ⟨by simp [State.advance], keepsCores_updCore _ _ _, touches_updCore _ _ _⟩

/-! ## Memory -/

/-- A write is read back. -/
theorem rd_wr_self (s : State) (a : Nat) (bs : List Byte) : (s.wr a bs).rd a bs.length = bs := by
  simpa [State.rd, State.wr] using Table.span_putSpan zeroByte s.mem a bs

/-- A write is not seen outside its range. -/
theorem rd_wr_other (s : State) (a : Nat) (bs : List Byte) (b n : Nat) (h : b + n ≤ a ∨ a + bs.length ≤ b) :
    (s.wr a bs).rd b n = s.rd b n := by
  simpa [State.rd, State.wr] using Table.span_putSpan_other zeroByte s.mem a bs b n h

@[simp] theorem rd_length (s : State) (a n : Nat) : (s.rd a n).length = n := by simp [State.rd]

/-- Without error marks no granule is uncorrectable, and none is corrected. -/
theorem sramUe_none {s : State} (h : s.sramGood) (a n : Nat) : s.sramUe a n = none := by
  simp [State.sramUe, h _]

theorem sramCe_nil {s : State} (h : s.sramGood) (a n : Nat) : s.sramCe a n = [] := by
  simp [State.sramCe, h _]

/-- A core's read of its own SRAM (R64): without error marks, the bytes and the state as it was. -/
theorem coreRead_good {s : State} (h : s.sramGood) (n a len : Nat) : s.coreRead n a len = (some (s.rd a len), s) := by
  simp [State.coreRead, sramUe_none h, sramCe_nil h]

/-- Without error marks in its granules an access meets no uncorrectable one, and corrects none. -/
theorem sramUe_clean {s : State} {a n : Nat} (h : s.cleanAt a n) : s.sramUe a n = none := by
  rw [State.sramUe, List.find?_eq_none]
  intro g hg
  simp [h g hg]

theorem sramCe_clean {s : State} {a n : Nat} (h : s.cleanAt a n) : s.sramCe a n = [] := by
  rw [State.sramCe, List.filter_eq_nil_iff]
  intro g hg
  simp [h g hg]

/-- A core's read of granules without error marks (R64): the bytes, and the state as it was. -/
theorem coreRead_clean {s : State} {a len : Nat} (h : s.cleanAt a len) (n : Nat) :
    s.coreRead n a len = (some (s.rd a len), s) := by
  simp [State.coreRead, sramUe_clean h, sramCe_clean h]

/-- A core's read of its own SRAM changes nothing but what a stop and its reports change; memory stays. -/
theorem touches_coreRead (s : State) (n a len : Nat) :
    OnlyTouches [.cores, .regs, .parts, .flt] s (s.coreRead n a len).2 := by
  unfold State.coreRead
  have h1 := touches_reportCe s n (s.sramCe a len)
  split
  · exact ((h1.mono (by simp)).trans ((haltOn_spec _ n 0x11).2.2.2.2.2.mono (by simp))).trans
      ((touches_report _ _ _ _ _).mono (by simp))
  · exact h1.mono (by simp)

/-- A write to a core's SRAM (R64): without error marks the bytes are written and nothing is reported. -/
theorem wrSram_good {s : State} (h : s.sramGood) (n a : Nat) (bs : List Byte) :
    s.wrSram n a bs = (s.wr a bs).clearGranules (granules a bs.length) := by
  have e : ∀ l : List Nat, l.find? (fun g => Table.look (fun _ => 0) s.sramErr g == 2) = none := fun l => by simp [h _]
  have e' : ∀ l : List Nat, l.filter (fun g => Table.look (fun _ => 0) s.sramErr g == 1) = [] := fun l => by simp [h _]
  simp only [State.wrSram, e, e', reportCe_nil]

/-- A write to granules without error marks (R64): the bytes are written and nothing is reported. -/
theorem wrSram_clean {s : State} {a : Nat} {bs : List Byte} (h : s.cleanAt a bs.length) (n : Nat) :
    s.wrSram n a bs = (s.wr a bs).clearGranules (granules a bs.length) := by
  have e : ∀ p : Nat → Bool, ((granules a bs.length).filter p).find? (fun g => Table.look (fun _ => 0) s.sramErr g == 2) = none := by
    intro p
    rw [List.find?_eq_none]
    intro g hg
    simp [h g (List.mem_filter.mp hg).1]
  have e' : ∀ p : Nat → Bool, ((granules a bs.length).filter p).filter (fun g => Table.look (fun _ => 0) s.sramErr g == 1) = [] := by
    intro p
    rw [List.filter_eq_nil_iff]
    intro g hg
    simp [h g (List.mem_filter.mp hg).1]
  simp only [State.wrSram, e, e', reportCe_nil]

/-- A write to a core's SRAM touches the memory, its error marks and what reports touch. -/
theorem touches_wrSram (s : State) (n a : Nat) (bs : List Byte) :
    OnlyTouches [.mem, .sramErr, .regs, .flt] s (s.wrSram n a bs) := by
  unfold State.wrSram
  simp only
  split
  · exact (touches_report _ _ _ _ _).mono (by simp)
  · exact (((touches_reportCe _ _ _).mono (by simp)).trans ((touches_wr _ _ _).mono (by simp))).trans
      ((touches_clearGranules _ _).mono (by simp))

theorem touches_dramCeAt (s : State) (tag k : Nat) : OnlyTouches [.regs, .flt] s (s.dramCeAt tag k) :=
  ((touches_count _ _ _ _ _).mono (by simp)).trans (touches_report _ _ _ _ _)

theorem touches_dramUeAt (s : State) (tag k : Nat) : OnlyTouches [.regs, .flt] s (s.dramUeAt tag k) :=
  ((touches_count _ _ _ _ _).mono (by simp)).trans (touches_report _ _ _ _ _)

/-- A read of LPDDR6 without error marks changes nothing. -/
theorem dramRead_good {s : State} (h : s.dramErr = []) (tag a n : Nat) : s.dramRead tag a n = s := by
  simp [State.dramRead, State.dramUe, h]

theorem dramUe_none {s : State} (h : s.dramErr = []) (a n : Nat) : s.dramUe a n = none := by simp [State.dramUe, h]

theorem touches_dramRead (s : State) (tag a n : Nat) : OnlyTouches [.regs, .flt] s (s.dramRead tag a n) := by
  unfold State.dramRead
  simp only
  split
  · exact (OnlyTouches.foldl (fun _ _ => touches_dramCeAt _ _ _) _ s).trans (touches_dramUeAt _ _ _)
  · exact OnlyTouches.foldl (fun _ _ => touches_dramCeAt _ _ _) _ s

/-- A write to LPDDR6 without error marks writes its bytes, and every partition takes note of it (R225 to R233). -/
theorem wrDram_good {s : State} (h : s.dramErr = []) (tag a : Nat) (bs : List Byte) :
    s.wrDram tag a bs = (s.noteWrite a bs.length).wr a bs := by
  have e : ∀ k, (s.noteWrite a bs.length).accessErr k = 0 := fun k => by
    simp [State.accessErr, h, Table.look]
  simp [State.wrDram, e, h]
  congr 1
  simp [State.noteWrite, h]

/-! ## Completions (R294, R298, R302) -/

/-- A completion of a descriptor that is not there changes nothing. -/
theorem complete_none (s : State) (ref : DescRef) (status detail result : Nat) (h : s.desc ref = none) :
    s.complete ref status detail result = s := by simp [State.complete, h]

theorem touches_complete (s : State) (ref : DescRef) (status detail result : Nat) :
    OnlyTouches [.regs, .rings, .descs] s (s.complete ref status detail result) := by
  unfold State.complete
  split
  · exact .refl _ _
  · simp only
    refine OnlyTouches.trans (t := { s with descs := s.descs.filter (fun x => x.ref != ref) }.updRing ref.port ref.ring
      (fun r => { r with serialEnd := s.mc })) (fun p hp => ?_) (.ite ?_ (.ite (.refl _ _) ?_))
    · cases p <;> simp_all [Piece.same, State.updRing]
    · exact (touches_count _ _ _ _ _).mono (by simp)
    · intro p hp
      cases p <;> simp_all [Piece.same, State.owe, State.updRing]

end Sys2Proof.Machine
end

