-- ==== Sys2Proof/Laws/Memory.lean ====
section
/-! SUPPORT. Every memory operation keeps the canonical form of the memories, and entries of the accumulators read back. -/

namespace Sys2Proof.Machine

/-! ## The canonical form -/

theorem memOk_iff (s : State) : s.memOk = true ↔
    Memory.wf s.mem = true ∧ Memory.wf s.carry = true ∧ Memory.wf s.hostA = true ∧ Memory.wf s.hostB = true ∧
    Table.wf blankByte s.flash = true := by
  simp [State.memOk, and_assoc]

/-- What holds the memories keeps their form. -/
theorem memOk_of_touches {s t : State} {ps : List Piece} (h : OnlyTouches ps s t)
    (hp : Piece.mem ∉ ps ∧ Piece.carry ∉ ps ∧ Piece.hostA ∉ ps ∧ Piece.hostB ∉ ps ∧ Piece.flash ∉ ps)
    (hs : s.memOk = true) : t.memOk = true := by
  have h1 : t.mem = s.mem := h .mem hp.1
  have h2 : t.carry = s.carry := h .carry hp.2.1
  have h3 : t.hostA = s.hostA := h .hostA hp.2.2.1
  have h4 : t.hostB = s.hostB := h .hostB hp.2.2.2.1
  have h5 : t.flash = s.flash := h .flash hp.2.2.2.2
  simpa [State.memOk, h1, h2, h3, h4, h5] using hs

theorem memOk_wr (s : State) (a : Nat) (bs : List Byte) (h : s.memOk = true) : (s.wr a bs).memOk = true := by
  rw [memOk_iff] at h ⊢
  exact ⟨Table.wf_putSpan _ _ _ _ h.1, h.2⟩

theorem memOk_setEntry (s : State) (n e : Nat) (v : BitVec 72) (h : s.memOk = true) : (s.setEntry n e v).memOk = true := by
  rw [memOk_iff] at h ⊢
  exact ⟨Table.wf_putSpan _ _ _ _ h.1, Table.wf_put _ _ _ _ h.2.1, h.2.2⟩

theorem memOk_mapEntries (s : State) (n e : Nat) (fs : List (BitVec 72 → BitVec 72)) (h : s.memOk = true) :
    (s.mapEntries n e fs).memOk = true := by
  induction fs generalizing s e with
  | nil => exact h
  | cons f fs ih => exact ih _ _ (memOk_setEntry _ _ _ _ h)

theorem memOk_wrSram (s : State) (n a : Nat) (bs : List Byte) (h : s.memOk = true) : (s.wrSram n a bs).memOk = true := by
  unfold State.wrSram
  simp only
  split
  · exact memOk_of_touches (touches_report _ _ _ _ _) (by simp) h
  · exact memOk_of_touches (touches_clearGranules _ _) (by simp)
      (memOk_wr _ _ _ (memOk_of_touches (touches_reportCe _ _ _) (by simp) h))

theorem memOk_bufferWrite (s : State) (b off : Nat) (bs : List Byte) (h : s.memOk = true) :
    (s.bufferWrite b off bs).memOk = true := by
  unfold State.bufferWrite
  simp only
  split
  · exact memOk_of_touches (touches_report _ _ _ _ _) (by simp) h
  · exact memOk_of_touches (touches_clearGranules _ _) (by simp) (memOk_wr _ _ _ h)

/-- A fold of steps that keep the form keeps it. -/
theorem memOk_foldl {α : Type} {f : State → α → State} (hf : ∀ s a, s.memOk = true → (f s a).memOk = true) (l : List α)
    (s : State) (h : s.memOk = true) : (l.foldl f s).memOk = true := by
  induction l generalizing s with
  | nil => exact h
  | cons a l ih => exact ih _ (hf _ _ h)

theorem memOk_wrDram (s : State) (tag a : Nat) (bs : List Byte) (h : s.memOk = true) : (s.wrDram tag a bs).memOk = true := by
  have h1 := memOk_of_touches (touches_noteWrite s a bs.length) (by simp) h
  have h2 : ∀ (l : List Nat) (t : State), t.memOk = true → (l.foldl (fun t k => t.dramCeAt tag k) t).memOk = true :=
    fun l t => memOk_foldl (fun t k ht => memOk_of_touches (touches_dramCeAt t tag k) (by simp) ht) l t
  have h3 : ∀ (l : List Nat) (t : State), t.memOk = true → (l.foldl (fun t k => t.dramUeAt tag k) t).memOk = true :=
    fun l t => memOk_foldl (fun t k ht => memOk_of_touches (touches_dramUeAt t tag k) (by simp) ht) l t
  unfold State.wrDram
  simp only
  split
  · exact memOk_wr _ _ _ (h3 _ _ (h2 _ _ h1))
  · refine memOk_foldl (fun t k ht => ?_) _ _ (h3 _ _ (h2 _ _ h1))
    split
    · exact ht
    · exact memOk_wr _ _ _ ht

theorem memOk_flashWr (s : State) (a : Nat) (bs : List Byte) (h : s.memOk = true) : (s.flashWr a bs).memOk = true := by
  rw [memOk_iff] at h ⊢
  exact ⟨h.1, h.2.1, h.2.2.1, h.2.2.2.1, Table.wf_putSpan _ _ _ _ h.2.2.2.2⟩

theorem memOk_flashErase (s : State) (a n : Nat) (h : s.memOk = true) : (s.flashErase a n).memOk = true := by
  rw [memOk_iff] at h ⊢
  exact ⟨h.1, h.2.1, h.2.2.1, h.2.2.2.1, Table.wf_filter _ _ _ h.2.2.2.2⟩

theorem memOk_eraseSector (s : State) (a : Nat) (h : s.memOk = true) : (s.eraseSector a).memOk = true :=
  memOk_flashErase s a _ h

theorem memOk_programPage (s : State) (j : FlashJob) (h : s.memOk = true) : (s.programPage j).memOk = true :=
  memOk_flashWr s _ _ h

theorem memOk_stopWrite (s : State) (h : s.memOk = true) : s.stopWrite.memOk = true := by
  unfold State.stopWrite
  split
  · exact memOk_programPage s _ h
  · exact h

/-- The begin of a flash write changes the flash, CFG_STATUS and the job. -/
theorem touches_startWrite (s : State) (goal : FlashGoal) (cmd : Option MgtCmd) (place size : Nat) (image : List Byte) :
    OnlyTouches [.regs, .flash, .mgt] s (s.startWrite goal cmd place size image) := by
  intro p hp
  cases p <;> simp_all [Piece.same, State.startWrite, State.flashErase]

theorem memOk_startWrite (s : State) (goal : FlashGoal) (cmd : Option MgtCmd) (place size : Nat) (image : List Byte)
    (h : s.memOk = true) : (s.startWrite goal cmd place size image).memOk = true :=
  memOk_flashErase s place size h

theorem memOk_wrHost (s : State) (p : Port) (a : Nat) (bs : List Byte) (h : s.memOk = true) :
    (s.wrHost p a bs).memOk = true := by
  rw [memOk_iff] at h ⊢
  cases p
  · exact ⟨h.1, h.2.1, Table.wf_putSpan _ _ _ _ h.2.2.1, h.2.2.2⟩
  · exact ⟨h.1, h.2.1, h.2.2.1, Table.wf_putSpan _ _ _ _ h.2.2.2.1, h.2.2.2.2⟩

theorem memOk_writeRecord (s : State) (n off : Nat) (bs : List Byte) (h : s.memOk = true) :
    (s.writeRecord n off bs).memOk = true := by
  have h1 : ∀ t : State, t.memOk = true → ∀ k v, { t with carry := Table.putSpan zeroByte t.carry k v }.memOk = true := by
    intro t ht k v
    rw [memOk_iff] at ht ⊢
    exact ⟨ht.1, Table.wf_putSpan _ _ _ _ ht.2.1, ht.2.2⟩
  unfold State.writeRecord
  simp only
  split
  · split
    · exact h1 _ (memOk_wrSram _ _ _ _ h) _ _
    · exact h1 _ h _ _
  · refine memOk_of_touches (touches_updCore _ _ _) (by simp) ?_
    split
    · exact h1 _ (memOk_wrSram _ _ _ _ h) _ _
    · exact h1 _ h _ _

theorem memOk_reset : State.reset.memOk = true := rfl

theorem memOk_underReset (s : State) (keepMem full : Bool) (h : s.memOk = true) : (s.underReset keepMem full).memOk = true := by
  have h := memOk_stopWrite s h
  rw [memOk_iff] at h ⊢
  refine ⟨?_, rfl, h.2.2.1, h.2.2.2.1, h.2.2.2.2⟩
  cases keepMem
  · rfl
  · exact Table.wf_filter _ _ _ h.1

/-! ## Accumulator entries (R106) -/

theorem carry_setEntry_self (s : State) (n e : Nat) (v : BitVec 72) :
    Table.look zeroByte (s.setEntry n e v).carry (carryAt n e) = BitVec.ofNat 8 (v.toNat / 2 ^ 64) := by
  simp [State.setEntry]

theorem rd_setEntry_self (s : State) (n e : Nat) (v : BitVec 72) :
    (s.setEntry n e v).rd (entryAt n e) 8 = leBytes 8 (v.toNat % 2 ^ 64) := by
  have h := rd_wr_self s (entryAt n e) (leBytes 8 (v.toNat % 2 ^ 64))
  rw [length_leBytes] at h
  exact h

/-- An entry written holds its value. -/
@[simp] theorem entry_setEntry_self (s : State) (n e : Nat) (v : BitVec 72) : (s.setEntry n e v).entry n e = v := by
  have h72 : v.toNat < 2 ^ 72 := v.isLt
  have h1 : v.toNat / 2 ^ 64 < 256 := by omega
  unfold State.entry State.rdN
  rw [carry_setEntry_self, rd_setEntry_self, leNat_leBytes, BitVec.toNat_ofNat, Nat.mod_eq_of_lt h1,
    Nat.mod_eq_of_lt (show v.toNat % 2 ^ 64 < 256 ^ 8 by omega), Nat.mul_comm, Nat.div_add_mod, BitVec.ofNat_toNat]
  simp

/-- Another entry of the core stays. -/
theorem entry_setEntry_other (s : State) (n : Nat) {e d : Nat} (v : BitVec 72) (h : d ≠ e) :
    (s.setEntry n e v).entry n d = s.entry n d := by
  have h1 : Table.look zeroByte (s.setEntry n e v).carry (carryAt n d) = Table.look zeroByte s.carry (carryAt n d) :=
    Table.look_put_other _ _ _ (by unfold carryAt; omega)
  have h2 : (s.setEntry n e v).rd (entryAt n d) 8 = s.rd (entryAt n d) 8 :=
    rd_wr_other s _ _ _ _ (by simp only [length_leBytes, entryAt]; omega)
  simp only [State.entry, State.rdN, h1, h2]

/-- Entries changed in a row: each by its own function, and no other. -/
theorem entry_mapEntries (s : State) (n e : Nat) (fs : List (BitVec 72 → BitVec 72)) (d : Nat) :
    (s.mapEntries n e fs).entry n d =
      if e ≤ d then (match fs[d - e]? with | some f => f (s.entry n d) | none => s.entry n d) else s.entry n d := by
  induction fs generalizing s e with
  | nil => simp [State.mapEntries]
  | cons f fs ih =>
    rw [State.mapEntries, ih]
    rcases Nat.lt_trichotomy d e with h | h | h
    · rw [if_neg (by omega), if_neg (by omega), entry_setEntry_other _ _ _ (by omega)]
    · subst h
      rw [if_neg (by omega), if_pos (le_refl _)]
      simp
    · rw [if_pos (by omega), if_pos (by omega), show d - e = d - (e + 1) + 1 by omega, List.getElem?_cons_succ,
        entry_setEntry_other _ _ _ (by omega)]

theorem touches_setEntry (s : State) (n e : Nat) (v : BitVec 72) : OnlyTouches [.mem, .carry] s (s.setEntry n e v) := by
  intro p hp
  cases p <;> simp_all [Piece.same, State.setEntry]

theorem touches_mapEntries (s : State) (n e : Nat) (fs : List (BitVec 72 → BitVec 72)) :
    OnlyTouches [.mem, .carry] s (s.mapEntries n e fs) := by
  induction fs generalizing s e with
  | nil => exact .refl _ _
  | cons f fs ih => exact (touches_setEntry s n e _).trans (ih _ _)

/-! ## Digests -/

/-- SHAKE256 with a 256-bit output gives 32 bytes. -/
@[simp] theorem length_shake256_256 (bs : List Byte) : (shake256_256 bs).length = 32 := by
  simp [shake256_256, shake256, List.length_take, List.length_flatMap]

end Sys2Proof.Machine
end

