-- ==== Sys2Proof/Tests/Slice0.lean ====
section
/-! SUPPORT. Tests: ill-formed commands that WellFormed refuses; slot words written out from the spec's encodings; reset
values; single steps worked out by hand from the spec; and, for each statement with hypotheses, a state and operands that
meet them together (a statement over several cases has a witness for each). A hypothesis on a free value of Config (a
signature that verifies, the range of a remote stream) cannot be met by a number: such a witness takes it as its premise. -/

namespace Sys2Proof.Tests

open Sys2Proof Sys2Proof.Machine

-- One theorem after another: the kernel evaluations of many tests at once would need too much memory.
set_option Elab.async false

/-! ## Small states -/

/-- A command for each operand, with core 0. -/
abbrev c0 : CoreId := 0

/-- A partition of quire 0 that runs, at tick 100. -/
def runs : Partition := { run := .running, qrows := 1, qcols := 1, tick := 100 }

/-- The module awake, published and out of reset, its partition 0 as given. -/
def withPart (p : Partition) : State :=
  { boot := { published := true, inReset := false }, parts := [(0, p)], clk := { wall := 1000000 } }

/-- The same with core 0 as given; the core runs. -/
def withCore (k : CoreState) : State := { withPart runs with cores := [(0, { k with mode := .running })] }

theorem good (s : State) (h : s.sramErr = []) : s.sramGood := fun g => by rw [h]; rfl

theorem clean (s : State) (h : s.sramErr = []) (a n : Nat) : s.cleanAt a n := fun _ _ => by rw [h]; rfl

/-! ## WellFormed -/

theorem test_wf_slot_other_opcode : (Instr.loop c0 0x10000003).wf = false := by decide
theorem test_wf_slot_nop_of_other_slot : (Instr.nop c0 .lane 0x10000000).wf = false := by decide
theorem test_wf_slot_ok : (Instr.wait c0 0x10000003).wf = true := by decide
theorem test_wf_router : (Instr.planDeliver 0 .w 96 0).wf = false ∧ (Instr.planCollect 0 .e 127 0).wf = false ∧
    (Instr.planCollect 0 .n 127 0).wf = true := by decide
theorem test_wf_fetch : (Instr.descriptorFetch .a 0 (zeros 63)).wf = false := by decide
theorem test_wf_window : (Instr.windowWrite c0 0 []).wf = false ∧ (Instr.windowWrite c0 0x3FFFF [0, 0]).wf = false := by
  decide
theorem test_wf_sizes : (Instr.registerReadClear .portA 0 0).wf = false ∧ (Instr.registerWrite .portA 0 9 0).wf = false := by
  decide
theorem test_wf_debug : (Instr.debugAccess 0 (.read 65)).wf = false ∧ (Instr.debugAccess 0 (.write [])).wf = false := by
  decide
theorem test_wf_frame : (Instr.frameReceive 0 ⟨true, 0, 0, none, none, 0, 0, []⟩).wf = false := by decide
theorem test_wf_pool : (Instr.poolOffer 0 4096).wf = false := by decide
theorem test_wf_segment : (Instr.segmentReceive c0 (2 ^ 32) true).wf = false := by decide

/-! ## Slot words from the encodings of R71, R79, R83 and R84 -/

/-- R71: LOOP is 0x01, count − 1, end word, a reserved bit. -/
theorem test_decode_loop : decodeControl c0 (0x01#5 ++ 9#16 ++ 5#10 ++ 0#1 : BitVec 32) = .loop c0 0x0800480A := by decide
theorem test_decode_wait : decodeControl c0 (0x02#5 ++ 3#27 : BitVec 32) = .wait c0 0x10000003 := by decide
theorem test_decode_bar : decodeControl c0 (0x03#5 ++ 1#1 ++ 0#26 : BitVec 32) = .bar c0 0x1C000000 := by decide
theorem test_decode_swend : decodeControl c0 (0x04#5 ++ 0#27 : BitVec 32) = .swend c0 0x20000000 := by decide
/-- R71: PHASE is 0x05, phase number, damping value, identity reload, two reserved bits. -/
theorem test_decode_phase : decodeControl c0 (0x05#5 ++ 7#8 ++ 9#16 ++ 1#1 ++ 0#2 : BitVec 32) = .phase c0 0x2838004C := by
  decide
theorem test_decode_flag : decodeControl c0 (0x06#5 ++ 1#4 ++ 2#4 ++ 0#19 : BitVec 32) = .flag c0 0x30900000 := by decide
theorem test_decode_page : decodeControl c0 (0x07#5 ++ 2#4 ++ 0#1 ++ 16#10 ++ 4#6 ++ 0#6 : BitVec 32) =
    .page c0 0x39010100 := by decide
theorem test_decode_pset : decodeControl c0 (0x08#5 ++ 1#4 ++ 100#14 ++ 0#9 : BitVec 32) = .pset c0 0x4080C800 := by decide
theorem test_decode_halt : decodeControl c0 (0x09#5 ++ 0#27 : BitVec 32) = .leafHalt c0 0x48000000 := by decide
/-- R71: 0x0A is no operation. -/
theorem test_decode_control_illegal : decodeControl c0 (0x0A#5 ++ 0#27 : BitVec 32) = .nop c0 .control 0x50000000 := by decide
/-- R79: SEND of 64 B to N and E through P3, advancing. -/
theorem test_decode_send : decodeLink c0 (1#3 ++ 0#2 ++ 12#4 ++ 3#2 ++ 3#4 ++ 1#1 ++ 0#16 : BitVec 32) =
    .send c0 0x26670000 := by decide
theorem test_decode_recv : decodeLink c0 (2#3 ++ 0#2 ++ 0#4 ++ 0#2 ++ 3#4 ++ 1#1 ++ 0#16 : BitVec 32) =
    .recv c0 0x40070000 := by decide
theorem test_decode_relay : decodeLink c0 (3#3 ++ 0#2 ++ 1#4 ++ 0#23 : BitVec 32) = .relay c0 0x60800000 := by decide
theorem test_decode_recvf : decodeLink c0 (4#3 ++ 0#2 ++ 1#4 ++ 0#2 ++ 3#4 ++ 1#1 ++ 0#16 : BitVec 32) =
    .recvf c0 0x80870000 := by decide
/-- R83: OPEN of group 1, rows 4 and 5, exact, binary point 16. -/
theorem test_decode_open : decodeField c0 (1#4 ++ 1#3 ++ 4#8 ++ 1#8 ++ 0#1 ++ 16#6 ++ 0#2 : BitVec 32) =
    .accOpen c0 0x12080240 := by decide
/-- R83: ACC of group 1, INT8, shape 2, categorical state, pointer 5, window 3, row 4. -/
theorem test_decode_acc : decodeField c0 (2#4 ++ 1#3 ++ 1#2 ++ 2#3 ++ 1#2 ++ 5#4 ++ 0#1 ++ 3#5 ++ 4#8 : BitVec 32) =
    .acc c0 0x22A54304 := by decide
theorem test_decode_lds : decodeField c0 (3#4 ++ 2#4 ++ 1#1 ++ 7#4 ++ 0#19 : BitVec 32) = .lds c0 0x32B80000 := by decide
theorem test_decode_close : decodeField c0 (4#4 ++ 1#3 ++ 2#2 ++ 0#2 ++ 1#1 ++ 6#4 ++ 0#1 ++ 2#2 ++ 0#1 ++ 3#3 ++ 0#9 : BitVec 32) =
    .close c0 0x43164600 := by decide
theorem test_decode_red_forms :
    decodeField c0 (5#4 ++ 1#3 ++ 0#2 ++ 0#7 ++ 7#8 ++ 0#8 : BitVec 32) = .redLocalExact c0 0x52000700 ∧
    decodeField c0 (5#4 ++ 1#3 ++ 1#2 ++ 0#7 ++ 7#8 ++ 0#8 : BitVec 32) = .redTreeSend c0 0x52800700 ∧
    decodeField c0 (5#4 ++ 1#3 ++ 2#2 ++ 0#7 ++ 7#8 ++ 0#8 : BitVec 32) = .redTreeAdd c0 0x53000700 ∧
    decodeField c0 (5#4 ++ 1#3 ++ 3#2 ++ 0#7 ++ 7#8 ++ 0#8 : BitVec 32) = .redCanon c0 0x53800700 := by decide
/-- R84: the lane slot. -/
theorem test_decode_draws :
    decodeLane c0 (1#4 ++ 2#2 ++ 1#2 ++ 0#8 ++ 0#5 ++ 3#3 ++ 1#2 ++ 0#6 : BitVec 32) = .drawb c0 0x19000340 ∧
    decodeLane c0 (2#4 ++ 0#2 ++ 0#2 ++ 3#8 ++ 0#16 : BitVec 32) = .drawc c0 0x20030000 ∧
    decodeLane c0 (3#4 ++ 0#2 ++ 0#2 ++ 1#8 ++ 0#16 : BitVec 32) = .drawr c0 0x30010000 := by decide
theorem test_decode_ldo_put :
    decodeLane c0 (4#4 ++ 0#4 ++ 3#8 ++ 2#4 ++ 1#1 ++ 0#11 : BitVec 32) = .ldo c0 0x40032800 ∧
    decodeLane c0 (5#4 ++ 0#4 ++ 3#8 ++ 2#4 ++ 1#1 ++ 0#11 : BitVec 32) = .put c0 0x50032800 := by decide
/-- R68: word bits 127:96 hold the control slot, 95:64 the link slot, 63:32 the field slot and 31:0 the lane slot. -/
theorem test_decode_word : decodeWord c0 (0x48000000#32 ++ 0x60800000#32 ++ 0x32B80000#32 ++ 0x19000340#32 : BitVec 128) =
    [.leafHalt c0 0x48000000, .relay c0 0x60800000, .drawb c0 0x19000340, .lds c0 0x32B80000] := by decide

/-! ## Witnesses: the Leaf slots -/

/-- LOOP from word 2 to word 5; WAIT of 1 and of 0; PHASE; FLAG; PSET; HALT. -/
theorem test_ControlSlot :
    (withCore { live := { pc := 1 } }).issues 0 = true ∧
    (fld 0x0800480A#32 0 0 = 0 ∧ ([] : List LoopLevel).length < 4 ∧ fld 0x0800480A#32 10 1 ≠ 1 ∧ ∀ l ∈ ([] : List LoopLevel), l.last ≠ 1) ∧
    0 < fld 0x10000001#32 26 0 ∧ fld 0x10000000#32 26 0 = 0 ∧
    (fld 0x28380048#32 1 0 = 0 ∧ bit 0x28380048#32 2 = false) ∧ (fld 0x2838004C#32 1 0 = 0 ∧ bit 0x2838004C#32 2 = true) ∧
    fld 0x30900000#32 18 0 = 0 ∧ fld 0x4080C800#32 8 0 = 0 ∧ fld 0x48000000#32 26 0 = 0 := by decide

/-- The last word of a loop with two iterations left goes back to its first word, and with one left goes on. -/
theorem test_loopStep : loopStep 5 [⟨2, 5, 2⟩] = (2, [⟨2, 5, 1⟩]) ∧ loopStep 5 [⟨2, 5, 1⟩] = (6, []) ∧
    loopStep 1023 [] = (0, []) := by decide

/-- BAR and SWEND; a core whose word arrives, at a barrier that has begun and at one that has not. -/
theorem test_BarrierWords :
    let s := withCore { arrival := some (true, false), nextMode := some .barrier }
    (withCore {}).issues 0 = true ∧ fld 0x1C000000#32 25 0 = 0 ∧ fld 0x20000000#32 26 0 = 0 ∧
      (s.core 0).arrival = some (true, false) ∧ s.partOfCore 0 = some 0 ∧ (s.core 0).nextMode = some .barrier ∧
      (s.part 0).barrier = none ∧
      (((s.updPart 0 (fun p => { p with barrier := some ⟨false, false, [127], 90, 0, false, false, none⟩ })).part 0).barrier).isSome =
        true := by decide +kernel

/-- A PAGE of five words through P2 that ends at the last granule; the same with its first granule beyond repair. -/
theorem test_Page :
    let s := withCore { live := { ptr := [(2, 15350)] } }
    let u := ({ s with sramErr := [(coreBase 0 / 8 + 15350, 2)] } : State)
    (s.issues 0 = true ∧ fld 0x39010100#32 5 0 = 0 ∧ (s.core 0).ptrAt (fld 0x39010100#32 26 23) = ((15350 : Nat) : Int) ∧
      15350 + 2 * (fld 0x39010100#32 11 6 + 1) ≤ 15360 ∧ (s.core 0).linkPort = false ∧
      u.sramCe (tileAt 0 15350) (16 * min 4 5) = [] ∧
      u.sramUe (tileAt 0 15350) (16 * min 4 5) = some (coreBase 0 / 8 + 15350)) ∧
    s.cleanAt (tileAt 0 15350) (16 * min 4 5) ∧ s.cleanAt (tileAt 0 15358) (16 * 1) :=
  ⟨by decide +kernel, clean _ rfl _ _, clean _ rfl _ _⟩

/-- A send of 64 B at the last granules of P3, and the same word received, relayed and both. -/
def linkState : State := withCore { live := { ptr := [(3, 15352)] } }

theorem test_Links_send :
    (linkState.issues 0 = true ∧ fld 0x26670000#32 15 0 = 0 ∧
      (linkState.core 0).ptrAt (fld 0x26670000#32 20 17) = ((15352 : Nat) : Int) ∧
      15352 + linkLen 0x26670000#32 / 8 ≤ 15360 ∧ (linkState.core 0).linkPort = false ∧
      fld 0x26670000#32 26 23 ≠ 0 ∧ linkState.treeBusy 0 = false ∧ neighbour 0 .e = some 1 ∧
      linkState.partOfCore 1 = linkState.partOfCore 0 ∧ (linkState.partOfCore 0).isSome = true) ∧
    linkState.cleanAt (tileAt 0 15352) (8 * (linkLen 0x26670000#32 / 8)) := ⟨by decide, clean _ rfl _ _⟩

/-- RECV and RECVF of a good word and of a bad one; RELAY of both. -/
theorem test_Links_recv (b : Option Byte) (hb : b = none ∨ b = some 0x31) :
    let s := withCore { live := { ptr := [(3, 15352)], landing := [(0, { LinkWord.empty with bad := b })] } }
    s.issues 0 = true ∧ fld 0x80870000#32 15 0 = 0 ∧ (s.core 0).ptrAt (fld 0x80870000#32 20 17) = ((15352 : Nat) : Int) ∧
      15352 + linkLen 0x80870000#32 / 8 ≤ 15360 ∧ (s.core 0).linkPort = false ∧
      ((s.core 0).landed (Dir.ofCode (fld 0x80870000#32 28 27))).bad = b ∧ fld 0x80870000#32 26 23 ≠ 0 ∧
      fld 0x60800000#32 15 0 = 0 ∧ fld 0x60800000#32 26 23 ≠ 0 ∧ s.treeBusy 0 = false ∧
      ((s.core 0).landed (Dir.ofCode (fld 0x60800000#32 28 27))).bad = b := by
  rcases hb with rfl | rfl <;> decide +kernel

/-- A word due at tick 100 from the east: on a core under reset, on a link with two and with three failed words before it, and on
a link that is down. -/
theorem test_Links_land (n : Nat) (down absorb : Bool) (hn : n = 2 ∨ n = 3) :
    let s := withCore { arriving := [⟨100, .e, .empty⟩], linkBad := [(1, n)], linkDown := if down then [.e] else [], absorb := absorb }
    (s.core 0).arriving.find? (fun a => a.dir == .e && a.at_ ≤ s.tickOf 0) = some ⟨100, .e, .empty⟩ ∧
    Table.look (fun _ => 0) (s.core 0).linkBad Dir.e.code = n ∧ (s.core 0).absorb = absorb ∧
    (Dir.e ∈ (s.core 0).linkDown ↔ down = true) := by
  rcases hn with rfl | rfl <;> cases down <;> cases absorb <;> decide +kernel

/-- OPEN of rows 254 and 255, free; and of rows of which one is owned, and of an open group; an ACC of a row that its group does
not own. -/
theorem test_Opens :
    let s := withCore { tags := [(255, 3)] }
    ((withCore {}).issues 0 = true ∧ fld 0x13FC0240#32 1 0 = 0 ∧
      fld 0x13FC0240#32 24 17 + (fld 0x13FC0240#32 16 9 + 1) ≤ 256 ∧
      ¬ (bit 0x13FC0240#32 8 = true ∧ (withCore {}).det = true) ∧
      (((withCore {}).core 0).group (fld 0x13FC0240#32 27 25)).isOpen = false ∧
      ∀ i, i < fld 0x13FC0240#32 16 9 + 1 → ((withCore {}).core 0).owner (fld 0x13FC0240#32 24 17 + i) = 0) ∧
    (∃ i, i < fld 0x13FC0240#32 16 9 + 1 ∧ (s.core 0).owner (fld 0x13FC0240#32 24 17 + i) ≠ 0) ∧
    (((withCore { groups := [(1, { isOpen := true })] }).core 0).group (fld 0x13FC0240#32 27 25)).isOpen = true ∧
    (slotCore (.accOpen c0 0x13FC0240) = some c0 ∧ s.slotLegal (.accOpen c0 0x13FC0240) = true ∧
      s.slotFree (.accOpen c0 0x13FC0240) = false) := by
  decide +kernel

/-- A group of one row, open, exact, its row 4 owned; a state for a CLOSE or RED of it. -/
def groupState (k : CoreState) : State :=
  withCore { k with groups := [(1, { isOpen := true, firstRow := 4, rows := 1, readyAt := 100 })], tags := [(4, 2)] }

/-- ACC of one INT8 tile of 8 targets, categorical, the last window, into group 1 at row 4; the pointer at the tile's last place. -/
theorem test_AccAdds :
    let s := groupState { live := { ptr := [(5, 15344)] } }
    let w := (2#4 ++ 1#3 ++ 1#2 ++ 3#3 ++ 1#2 ++ 5#4 ++ 0#1 ++ 30#5 ++ 4#8 : BitVec 32)
    (s.issues 0 = true ∧ fld w 22 20 < 5 ∧ ¬ (fld w 24 23 = 0 ∧ 2 ≤ fld w 19 18) ∧
      4 * fld w 12 8 + windowBytes (fld w 24 23) (fld w 22 20) (fld w 19 18) ≤ 128 ∧
      (s.core 0).engineFree ≤ s.tickOf 0 ∧ (s.core 0).fePort = false ∧
      (s.core 0).ptrAt (fld w 17 14) = ((15344 : Nat) : Int) ∧
      bit (s.reg (Reg.corePtr 0 (fld w 17 14))) 63 = false ∧ 15344 + 16 ≤ 15360 ∧
      ((s.core 0).group (fld w 27 25)).isOpen = true ∧
      ¬ (((s.core 0).group (fld w 27 25)).isFloat = true ∧ fld w 19 18 < 2) ∧
      ∀ i, i < (tileU (fld w 22 20) + 7) / 8 →
        fld w 7 0 + i < 256 ∧ (s.core 0).owner (fld w 7 0 + i) = fld w 27 25 + 1) ∧ s.cleanAt (tileAt 0 15344) (8 * 16) :=
  ⟨by decide +kernel, clean _ rfl _ _⟩

/-- LDS, LDO and PUT of eight and four granules at the end of tile memory; a port that was handed one write. -/
theorem test_RegisterFills :
    let s := withCore { live := { ptr := [(2, 15352)] } }
    let u := withCore { feWrites := [(tileAt 0 15352, zeros 8)] }
    (s.issues 0 = true ∧ (s.core 0).fePort = false ∧ (s.core 0).splitAt ≠ some (s.tickOf 0) ∧
      (fld 0x32B80000#32 18 0 = 0 ∧ (s.core 0).ptrAt (fld 0x32B80000#32 27 24) = ((15352 : Nat) : Int) ∧
        15352 + (fld 0x32B80000#32 22 19 + 1) ≤ 15360) ∧
      (fld 0x40032800#32 4 0 = 0 ∧ (s.core 0).ptrAt (fld 0x40032800#32 15 12) = ((15352 : Nat) : Int) ∧
        15352 + (fld 0x40032800#32 19 16 + 1) ≤ 15360) ∧
      (fld 0x50032800#32 4 0 = 0 ∧ (s.core 0).ptrAt (fld 0x50032800#32 15 12) = ((15352 : Nat) : Int)) ∧
      (u.core 0).eventWrites ++ (u.core 0).feWrites ++ (u.core 0).linkWrites = [(tileAt 0 15352, zeros 8)]) ∧
    s.cleanAt (tileAt 0 15352) (8 * 8) ∧ u.cleanAt (tileAt 0 15352) (zeros 8).length :=
  ⟨by decide +kernel, clean _ rfl _ _, clean _ rfl _ _⟩

/-- R107: an entry of value −1 fits; one of value 2^63 does not, whatever its carry counter was. -/
theorem test_EntryFits : entryLevel false (BitVec.ofInt 72 (-1)) = some 0 ∧
    entryLevel false (BitVec.ofInt 72 (2 ^ 63 - 1)) = some 0 ∧ entryLevel false (BitVec.ofInt 72 (2 ^ 63)) ≠ some 0 := by
  decide +kernel

/-- A CLOSE of tick 99 of one full batch, with its level and without. -/
def close99 (toMem range : Bool) : CloseDue :=
  { at_ := 99, group := 0, isFloat := false, point := 0, range := range, entries := List.replicate 64 1, scale := 0, offset := 0
    id := {}, toMem := toMem, memType := 0, stoch := false, table := 0, addr := 64 }

/-- An earlier CLOSE of 128 entries issued at tick 99 has a batch due at tick 104, the batch-0 tick of a CLOSE at 100. -/
theorem test_CloseTooSoon :
    let d := { close99 false false with entries := List.replicate 128 1 }
    let s := withCore { closes := [d] }
    s.issues 0 = true ∧ d ∈ (s.core 0).closes ∧ 0 < d.entries.length ∧
      s.tickOf 0 + 4 ≤ d.at_ + 4 + ceilDiv d.entries.length 64 - 1 := by decide +kernel

theorem test_Closes_issue :
    let s := groupState { closes := [close99 false false] }
    (s.issues 0 = true ∧ fld 0x43164600#32 8 0 = 0 ∧
      (∀ d ∈ (s.core 0).closes, d.at_ + 4 + ceilDiv d.entries.length 64 ≤ s.tickOf 0 + 4) ∧
      ((s.core 0).group (fld 0x43164600#32 27 25)).isOpen = true ∧
      ((s.core 0).group (fld 0x43164600#32 27 25)).readyAt ≤ s.tickOf 0 ∧ bit 0x43164600#32 20 = true ∧
      tileOk ((s.core 0).ptrAt (fld 0x43164600#32 19 16)) (8 * 1 * elemBytes (fld 0x43164600#32 14 13) / 8) = true) := by
  decide +kernel

/-- At tick 103 the batch of a CLOSE of tick 99 is due: to the lanes, to memory, and with the range flag set. -/
theorem test_Closes_batch (toMem range : Bool) :
    let s := ({ withCore { closes := [close99 toMem range] } with parts := [(0, { runs with tick := 103 })] } : State)
    (s.core 0).closes.find? (fun d => d.at_ + 4 + d.done ≤ s.tickOf 0) = some (close99 toMem range) ∧
      ((close99 toMem range).level = none ↔ range = true) ∧ (s.core 0).fePort = false ∧ (s.core 0).mode ≠ .faulted ∧
      s.partOfCore 0 = some 0 := by
  cases toMem <;> cases range <;> decide +kernel

/-- The four forms of RED over the eight entries of group 1; further ticks of a tree add and of a CANON. -/
theorem test_Reductions :
    let s := groupState { live := { ptr := [(0, 15344)] } }
    (s.issues 0 = true ∧ fld 0x53000700#32 7 0 = 0 ∧ ((s.core 0).group (fld 0x53000700#32 27 25)).isOpen = true ∧
      ((s.core 0).group (fld 0x53000700#32 27 25)).readyAt ≤ s.tickOf 0 ∧
      fld 0x53000700#32 15 8 + 1 ≤ 8 * ((s.core 0).group (fld 0x53000700#32 27 25)).rows ∧
      ((s.core 0).treeUntil ≤ s.tickOf 0 ∧ (s.core 0).outbox = []) ∧
      ((s.core 0).engineFree ≤ s.tickOf 0 ∧ (s.core 0).fePort = false ∧
        (s.core 0).ptrAt (fld 0x53000700#32 20 17) = ((15344 : Nat) : Int) ∧
        15344 + 2 * (fld 0x53000700#32 15 8 + 1) ≤ 15360 ∧ 15344 + 2 ≤ 15360)) ∧
    s.cleanAt (tileAt 0 15344) (16 * 8) ∧ s.cleanAt (tileAt 0 15358) (16 * 1) :=
  ⟨by decide +kernel, clean _ rfl _ _, clean _ rfl _ _⟩

/-- Deterministic mode, set up in a register. -/
def inDet (s : State) : State := s.setRf Reg.arrMode 0 0 1

/-- A draw result due at tick 100, and the two cases of a draw of 64 lanes: free mode, and a split in deterministic mode. -/
theorem test_DrawResults :
    let s := withCore { draws := [⟨100, 8, [true]⟩] }
    (s.core 0).draws.find? (fun d => d.at_ ≤ s.tickOf 0) = some ⟨100, 8, [true]⟩ ∧ s.splits 0 = false ∧
    (inDet (withCore {})).splits 0 = true ∧ 0 < 32 / slotWidth 1 ∧ 32 / slotWidth 1 < (List.replicate 64 [true]).length ∧
    [[true]] ≠ [] := by
  decide +kernel

/-- DRAWB and DRAWR of 64 units, DRAWC of K = 4 in one word, and DRAWC of K = 256 in chunks: its first, and its last in
deterministic mode. -/
theorem test_Draws :
    let s := withCore {}
    let u := inDet (withCore { live := { cat := { k := 256, chunk := 3 } } })
    (s.issues 0 = true ∧ (s.core 0).splitAt ≠ some (s.tickOf 0) ∧
      (fld 0x19000340#32 4 0 = 0 ∧ fld 0x19000340#32 7 6 ≠ 3 ∧
        (s.core 0).live.outCursor + (s.drawCtx 0 0x19000340#32 1).lanes / (s.drawCtx 0 0x19000340#32 1).width / 8 ≤ 128) ∧
      (fld 0x30000000#32 7 6 ≠ 3 ∧
        (s.core 0).live.outCursor + (s.drawCtx 0 0x30000000#32 2).lanes / (s.drawCtx 0 0x30000000#32 2).width * 16 / 8 ≤ 128) ∧
      (fld 0x20030000#32 23 16 ≠ 0 ∧ s.chunked 0 0x20030000#32 = false ∧
        (s.core 0).live.outCursor + s.drawcBytes 0 0x20030000#32 ≤ 128) ∧
      (fld 0x20FF0000#32 23 16 ≠ 0 ∧ s.chunked 0 0x20FF0000#32 = true ∧ s.splits 0 = false ∧
        (s.core 0).live.outCursor + s.drawcBytes 0 0x20FF0000#32 ≤ 128 ∧
        (0 + 1) * (s.drawCtx 0 0x20FF0000#32 256).lanes < (s.drawCtx 0 0x20FF0000#32 256).slots) ∧
      (u.chunked 0 0x20FF0000#32 = true ∧ u.splits 0 = true ∧ 32 < (u.drawCtx 0 0x20FF0000#32 256).width ∧
        (u.core 0).live.outCursor + u.drawcBytes 0 0x20FF0000#32 ≤ 128 ∧
        (u.drawCtx 0 0x20FF0000#32 256).slots ≤ (3 + 1) * (u.drawCtx 0 0x20FF0000#32 256).lanes)) ∧ s.sramGood ∧ u.sramGood :=
  ⟨by decide +kernel, good _ rfl, good _ rfl⟩

/-- A word with an unknown operation; one in which two slots send; one whose OPEN meets an owned row; and a legal one. -/
theorem test_IllegalWord :
    let s := withCore { live := { ptr := [(3, 15352)] } }
    let u := withCore { tags := [(255, 3)] }
    ((withCore {}).issues 0 = true ∧ (1 : U32) ≠ 0 ∧ (withCore {}).partOfCore 0 = some 0 ∧
      (withCore {}).flt.queue.length < 64 ∧ slotCore (.drawb c0 0) = some c0 ∧ (withPart runs).issues 0 = false ∧
      s.slotLegal (.nop c0 .link 1) = false ∧ s.batchDue 0 = none ∧
      s.wordIllegal 0 [.send c0 0x26670000, .relay c0 0x60800000] = true ∧
      u.wordIllegal 0 [.accOpen c0 0x13FC0240] = false ∧ [Instr.accOpen c0 0x13FC0240].all u.slotFree = false ∧
      s.wordIllegal 0 (decodeWord c0 (BitVec.ofNat 128 (leNat (s.rd (leafAt 0 0) 16)))) = false ∧
      (decodeWord c0 (BitVec.ofNat 128 (leNat (s.rd (leafAt 0 0) 16)))).all s.slotFree = true) ∧
    s.cleanAt (leafAt 0 (s.core 0).live.pc) 16 :=
  ⟨by decide +kernel, clean _ rfl _ _⟩


/-! ## Witnesses: the partition controllers and the edges -/

/-- Bytes with fields put at their offsets in zeros. -/
def bytesOf (n : Nat) (l : List (Nat × List Byte)) : List Byte := l.foldl (fun b x => overlay b x.1 x.2) (zeros n)

/-- A Binding of one chain and one region of 1 MiB in buffer N, whose one pool lies at 0x1000 with room for four states of
64 B (R188). -/
def bnd : Binding :=
  { digest := [], flags := 0, chains := 1, regions := [⟨0, 0, 15, 1, 0⟩], plans := [], rings := []
    control := some (bytesOf 0x970 [(4, [1]), (6, [1]), (0x20, [0xFF]), (0x947, [1]), (0x952, [4]), (0x958, [64]), (0x961, [0x10])])
    results := none, ranges := [], weights := [] }

/-- A barrier on which every core of partition 0 arrived by tick 58. -/
def arrived58 (sweepEnd decided : Bool) : BarrierWait :=
  { sweepEnd := sweepEnd, hall := false, arrived := (withPart runs).partCores 0, lastTick := 58, decided := decided }

/-- A run that has taken one sweep of one. -/
def job1 : Job := { desc := ⟨.a, 0, 0⟩, sweeps := 1, taken := 1, first := 0, going := true }

theorem test_BarrierRelease (sweepEnd : Bool) :
    let p := { runs with barrier := some (arrived58 sweepEnd true), job := some { job1 with stop := some 1 } }
    ((withPart p).part 0).barrier = some (arrived58 sweepEnd true) ∧
      (arrived58 sweepEnd true).releaseTick p = some 100 ∧ p.run = .running ∧ p.stopped = false ∧
      (withPart p).allArrived 0 (arrived58 sweepEnd true) = true ∧ (arrived58 sweepEnd true).decided = true ∧
      (withPart p).resetWaits 0 = false ∧ { job1 with stop := some 1 }.endsAt sweepEnd = true ∧
      { job1 with sweeps := 2 }.endsAt sweepEnd = false := by
  cases sweepEnd <;> decide +kernel

/-- The boundary of a sweep end is due at tick 78; its mailbox is good, and then its first granule is not. -/
theorem test_SweepBoundary :
    let p := { runs with tick := 78, barrier := some (arrived58 true false), binding := some bnd, job := some job1 }
    (p.barrier = some (arrived58 true false) ∧ (withPart p).allArrived 0 (arrived58 true false) = true ∧
      (arrived58 true false).lastTick + 20 ≤ ((withPart p).part 0).tick ∧
      (∃ c, ((withPart p).part 0).tables? = some c ∧ 0 ∈ c.readChains ∧
        (({ withPart p with sramErr := [(0x820000000, 2)] } : State).sramUe
          (bufferBase (bnd.mailboxAt c 0).1 + (bnd.mailboxAt c 0).2) 16).isSome = true)) ∧ (withPart p).sramGood :=
  ⟨⟨rfl, by decide +kernel, by decide +kernel, _, rfl, by decide +kernel, by decide +kernel⟩, good _ rfl⟩

/-- An offer to an empty pool enters it; one whose energy is NaN does not; a header that cannot be read stops the ring. -/
def offer (energy : List Byte) : PoolOffer := { pool := 0, sweep := 3, energy := some (energy, 0xFF), staged := true }

theorem test_PoolOffers :
    let p (e : List Byte) := { runs with binding := some bnd, offers := [offer e] }
    let nan := zeros 6 ++ [0xF8, 0x7F] ++ zeros 8
    let e : PoolEntry := ⟨0, 4, 0, 0, 64, 0x1000⟩
    let bad := ({ withPart (p nan) with dramErr := [(0x40, 2)] } : State)
    (withPart (p nan)).dramErr = [] ∧
      (p nan).offers.find? (fun o => o.pool == 0 && o.staged && o.energy.isSome) = some (offer nan) ∧
      bnd.poolList.find? (fun x => x.1 == 0) = some (0, e, 0) ∧ ((p nan).ring (bnd.poolRing e)).stopped = false ∧
      (withPart (p nan)).offerOutcome e 3 nan 0xFF = none ∧
      ((withPart (p (zeros 16))).offerOutcome e 3 (zeros 16) 0xFF).isSome = true ∧
      (∃ x ∈ bad.offerReads e, (bad.dramUe x.1 x.2).isSome = true) := by
  decide +kernel

/-- A partition whose plan moves one 8 B word at router 0 of edge N each tick, between its ring 0 and the core there. -/
def planPart (kind fill : Nat) : Partition :=
  { runs with
    epoch := 100
    rings := [(0, { fill := fill })]
    binding := some { bnd with
      plans := [⟨.n, 0, [{ phase := 0, offset := 0, count := 9, stride := 1, len := 0, op := kind, all := true, addr := 0, step := 1, region := 0 }]⟩]
      rings := [{ region := 0, kind := kind, endpoint := 0, loop := true, offset := 0, bytes := 8192, lw := 4096, hw := 8192, rate := 0, addr := 0, groups := 0 }] } }

/-- Sixteen reads, or writes, of buffer N that do not include granule 0. -/
def full : EdgeCycle :=
  { reads := (List.range 16).map (fun i => ⟨0, i + 1, 0, .empty⟩)
    writes := (List.range 16).map (fun i => ⟨0, 8 * (i + 1), zeros 8, none⟩) }

/-- The word due is served by no read, by an earlier one, and comes after sixteen others; its ring holds it, and does not. A
collected word lands. -/
theorem test_PlanWords :
    let due (s : State) (op : Nat) := (s.planDue 0 .n 0 0 op).map (fun e => (e.1.byteAt e.2, e.1.bytes))
    let w : EdgeWrite := ⟨0, 0, zeros 8, some (0, 0)⟩
    let s := withPart (planPart 0 8)
    let u := ({ s with edge := { writes := [w] } } : State)
    (due s 0 = some (0, 8) ∧ due (withPart (planPart 1 8)) 1 = some (0, 8) ∧
      (planPart 0 8).ringAt 0 0 8 0 = some 0 ∧ 8 ≤ ((planPart 0 8).ring 0).fill ∧ ((planPart 0 7).ring 0).fill < 8 ∧
      (planPart 1 8).ringAt 0 0 8 1 = some 0 ∧ ((planPart 1 7).ring 0).fill < 8 ∧
      (full.reads.filter (fun x => x.buffer == 0)).length = 16 ∧ full.served 0 0 0 = none ∧
      ({ reads := [⟨0, 0, 0, .empty⟩] } : EdgeCycle).served 0 0 0 = some .empty ∧
      s.edge.served 0 0 0 = none ∧ (s.edge.reads.filter (fun x => x.buffer == 0)).length < 16 ∧
      (full.writes.filter (fun x => x.buffer == 0)).length = 16 ∧
      due { s with edge := full } 0 = some (0, 8) ∧ due { withPart (planPart 1 8) with edge := full } 1 = some (0, 8) ∧
      u.edge.writes = [w]) ∧ s.cleanAt (bufferBase 0) 8 ∧ u.cleanAt (bufferBase w.buffer + w.offset) w.bytes.length :=
  ⟨by decide +kernel, clean _ rfl _ _, clean _ rfl _ _⟩

/-- A hold raised at wall 0 with a limit of 10 µs. -/
def hold0 : Hold := { ring := 0, raised := 0, freeze := 40, since := 0, limit := 10 }

theorem test_Holds :
    (planPart 0 4095).run = .running ∧ (planPart 0 4095).lowRing = some 0 ∧ (planPart 0 4095).hold = none ∧
    { planPart 0 8192 with freezeAt := some 100 }.ringsHigh = true ∧ (planPart 0 8192).lowRing = none ∧
    100 ≤ (planPart 0 8192).tick ∧ { hold0 with full := true }.full = true ∧ (planPart 0 4096).lowRing = none ∧
    (planPart 0 8192).resumeIn = none ∧ (withPart (planPart 0 8192)).resetWaits 0 = false ∧
    hold0.reported = false ∧ hold0.since + usec hold0.limit < (withPart runs).clk.wall ∧
    (withPart runs).flt.queue.length < 64 ∧ runs.exists_ = true ∧ { runs with stopLine := true }.exists_ = true ∧
    runs.stopped = false := by decide +kernel

/-- A deliver ring whose group is the one in flight, and one while the engine has requested another ring's; a group with an
access beyond repair; a collect ring with a whole group, with a remainder, and with an uncorrectable granule. -/
theorem test_StreamGroups :
    let d : RingDesc := { region := 0, kind := 0, endpoint := 0, loop := true, offset := 0, bytes := 8192, lw := 4096, hw := 8192, rate := 0, addr := 0, groups := 0 }
    let s := withPart (planPart 0 4096)
    let other := ({ s with parts := [(0, planPart 0 4096), (1, planPart 0 0)] } : State)
    let u := ({ withPart (planPart 1 0) with sramErr := [(0x820000000, 2)] } : State)
    (((s.part 0).ringDesc 0).map Prod.snd = some d ∧ d.wantsGroup ((s.part 0).ring 0) = true ∧
      s.groupInFlight 0 (chanOf (d.streamAddr 0)) = some (0, 0) ∧
      other.groupInFlight 0 (chanOf (d.streamAddr 0)) ≠ some (0, 0) ∧
      ({ s with dramErr := [(1, 2)] } : State).dramUe (d.streamAddr 0) 4096 = some 1 ∧
      { d with kind := 1 }.ended 0 = false ∧ bnd.ringIsDrain 0 = false ∧
      (if (0 / 4096 + 1) * 4096 ≤ 4096 then (0 / 4096 + 1) * 4096 else min 0 ((0 / 4096 + 1) * 4096)) = 0 + 4096 ∧
      (if (0 / 4096 + 1) * 4096 ≤ 24 then (0 / 4096 + 1) * 4096 else min 24 ((0 / 4096 + 1) * 4096)) = 0 + 24 ∧
      (u.ringRead bnd { d with kind := 1 } 0 4096).1.isSome = true) ∧ s.sramGood ∧ (withPart (planPart 1 0)).sramGood := by
  exact ⟨by decide +kernel, good _ rfl, good _ rfl⟩

/-- A Binding with one window of ring 0 to LPDDR6 (or to the host) and one record of 64 B; its drain ring of 4 KiB at 0x100000
(R184). -/
def winBytes (dest : Byte) : List Byte :=
  bytesOf 112 [(0, [1]), (10, [0x10]), (16, [12]), (64, [1, dest, 0]), (80, [9]), (88, [1]), (68, [1]), (100, [64])]

/-- The Binding with that window and a collect ring 0 in its region of buffer S. -/
def winBnd (dest : Byte) : Binding :=
  { bnd with
    results := some (winBytes dest)
    regions := [⟨1, 0, 15, 1, 0⟩]
    rings := [{ region := 0, kind := 1, endpoint := 0, loop := true, offset := 0, bytes := 8192, lw := 4096, hw := 8192, rate := 0, addr := 0, groups := 0 }] }

/-- A partition with 64 B collected for that window, and the drain rings' heads and tails as given. -/
def winState (dest : Byte) (dr : Drain) : State :=
  (withPart { runs with binding := some (winBnd dest), rings := [(0, { used := 64 })], drain := dr }).setReg (Reg.hstDrain 0) 0x2C

/-- A record with room, one that needs a pad record before it, one that a pad record leaves no room for, and one with none; a
record for the host, whose staging region holds it, takes it in and gives it out. -/
theorem test_DrainRecords :
    let w (dest : Nat) : Window :=
      { kind := 1, dest := dest, ring := 0, first := 0, last := 9, stride := 1, ticks := 0, records := [⟨0, 64, 0⟩] }
    let c (dest : Nat) : Cut := ⟨0, w dest, 0, 0, ⟨0, 64, 0⟩⟩
    let staged : Drain := { staged := some (0, 96) }
    let h := (winState 1 {}).setReg (Reg.arrEbregion 0) 0x85000000
    let bad := ({ (winState 1 staged).setReg (Reg.arrEbregion 0) 0x85000000 with sramErr := [(0x820000000, 2)] } : State)
    (∀ dest ∈ [0, 1], (((winState (BitVec.ofNat 8 dest) {}).part 0).ringDesc 0).map Prod.fst = some (winBnd (BitVec.ofNat 8 dest)) ∧
        ((winState (BitVec.ofNat 8 dest) {}).part 0).nextCut (winBnd (BitVec.ofNat 8 dest)) 0 = some (c dest) ∧
        ((winState (BitVec.ofNat 8 dest) {}).part 0).stagingBusy (winBnd (BitVec.ofNat 8 dest)) (c dest) = false) ∧
      (winBnd 0).ringIsDrain 0 = true ∧ ((((winBnd 0).rings[0]?).map (winBnd 0).ringPlace).map Prod.fst) = some 1 ∧
      64 ≤ ((winState 0 {}).part 0 |>.ring 0).used - ((winState 0 {}).part 0 |>.ring 0).moved ∧
      (winBnd 0).ldrain = some (0x100000, 4096) ∧ (winState 1 {}).hDrainRing 0 = (0, 4096) ∧
      drainPads 4096 64 64 96 = false ∧ drainNext 4096 64 64 96 = some 160 ∧
      drainPads 4096 200 4064 96 = true ∧ drainNext 4096 200 64 96 = some 160 ∧
      drainPads 4096 160 4064 96 = true ∧ drainNext 4096 160 64 96 = none ∧
      drainPads 4096 200 120 96 = false ∧ drainNext 4096 200 120 96 = none ∧ poolsOf (winBnd 0) 0 1 false = [] ∧
      bit ((winState 1 {}).reg (Reg.hstDrain 0)) 5 = true ∧ bit ((withPart runs).reg (Reg.hstDrain 0)) 5 = false ∧
      (winState 1 {}).hostStaging = none ∧ h.hostStaging = some (0, 0, 65536) ∧ h.stagingHeld = false ∧
      (bad.part 0).drain.staged = some (0, 96) ∧ (bad.sramUe (bufferBase 0 + 0) 96).isSome = true ∧
      (bad.ringRead (winBnd 1) { region := 0, kind := 1, endpoint := 0, loop := true, offset := 0, bytes := 8192, lw := 4096, hw := 8192, rate := 0, addr := 0, groups := 0 } 0 64).1 = none := by
  decide +kernel

theorem test_DrainRecords_length (r : WinRecord) (kind window sweep seq : Nat) :
    (drainRecord r kind window sweep seq (zeros 64)).length = 96 := by
  simp [drainRecord, leBytes, zeros, roundUp, ceilDiv]

/-! ## Witnesses: the memory channels -/

/-- Lines 0 and 3 raised: no line chosen, line 3 chosen, line 5 chosen and dropped, and line 0 the owner. -/
theorem test_Arbitration :
    let s (c : Channel) : State := { withPart runs with chans := [(0, c)] }
    (∀ c ∈ [({} : Channel), { chosen := some (3, true) }, { chosen := some (5, false) }, { owner := some 0 }],
        ((s c).look 0 9 1).2 = [0, 3]) ∧
      ((s {}).look 0 9 1).1.chosen = none ∧ ((s {}).look 0 9 1).1.owner = none ∧
      ((s { chosen := some (3, true) }).look 0 9 1).1.chosen = some (3, true) ∧
      ((s { chosen := some (5, false) }).look 0 9 1).1.chosen = some (5, false) ∧
      ((s { owner := some 0 }).look 0 9 1).1.chosen = none ∧ ((s { owner := some 0 }).look 0 9 1).1.owner = some 0 := by
  decide +kernel

theorem test_ChannelEvents :
    let s := ((withPart runs).setRf (Reg.memCtrl 0) 7 7 1).setRf (Reg.memCtrl 0) 15 8 1
    let t := ({ s with mgt := { debugOpen := true } } : State)
    s.memRuns = true ∧ s.intervalOver 0 = true ∧ bit (s.reg (Reg.memCtrl 0)) 7 = true ∧ s.scrubDue 0 = true ∧
      chanOf (0x2FFFFFFFC0 : BitVec 40).toNat = 47 ∧ t.mgt.debugOpen = true ∧ s.mgt.debugOpen = false ∧ t.dramErr = [] ∧
      (t.chan 47).debugAt = none ∧
      t.inDram (0x2FFFFFFFC0 : BitVec 40).toNat 64 = true ∧ (0x2FFFFFFFC0 : BitVec 40).toNat % 64 + 64 ≤ 64 ∧
      t.inDram (0x4100000000 : BitVec 40).toNat 8 = false ∧ (0x4100000000 : BitVec 40).toNat % 64 + 8 ≤ 64 := by
  decide +kernel

/-! ## Witnesses: the hall -/

/-- Device 0 with its transport on and peer 5 valid, on link 0, which is up. -/
def hallState : State :=
  (((withPart runs).setRf Reg.hftCfg 10 10 1).setReg (Reg.hftPeer 5) 0x1001000000000000).setRf (Reg.hfbPortstat 0) 0 0 1

/-- The same with peer 5's connection as given, and messages and frames waiting. -/
def hallWith (c : Conn) (h : Hall) : State := { hallState with hall := { h with conns := [(5, c)] } }

/-- A frame from peer 5: a header of R257 over a payload. -/
def frame5 (ty seq : Nat) (payload : List Byte) : Frame :=
  { fcsOk := true, dst := 0, src := 0, vlan := none, sec := none, etype := BitVec.ofNat 16 (hallState.rf Reg.hftCfg 47 32)
    size := 128, body := mkHeader ty 0 0 5 0 seq 0 0 payload.length 0 0 ++ payload }

/-- A CREDIT message, and others by their type, of stream 7 (R269). -/
def msg5 (ty : Byte) : CtrlMsg := ⟨5, [ty, 0, 7, 0] ++ zeros 12⟩

/-- Frames that fail each kind of check and pass them; a PTP event message; one that acknowledges on a lost connection; the
next CTRL frame in order. -/
theorem test_FrameReceive :
    let acks := { frame5 0 3 [1, 2] with body := mkHeader 0 1 0 5 0 3 0 0 2 0 0 ++ [1, 2] }
    let ptp := { frame5 0 0 [] with etype := 0x88F7 }
    let s := hallWith { state := .opened } {}
    (withPart runs).linkUp 0 = false ∧
      hallState.linkUp 0 = true ∧ hallState.verdict 0 { frame5 0 0 [] with fcsOk := false } = .noise ∧
      hallState.verdict 0 { frame5 0 0 [] with size := 63 } = .stranger 2 ∧
      hallState.verdict 0 { frame5 0 0 [] with body := zeros 32 } = .stranger 7 ∧ hallState.flt.queue.length < 64 ∧
      hallState.verdict 0 ptp = .management ∧ ptpEvent ptp = true ∧
      hallState.verdict 0 (frame5 6 0 []) = .transport ∧ hallState.verdict 0 (frame5 0 3 [1, 2]) = .transport ∧
      hallState.verdict 0 (frame5 1 0 (msg5 4).bytes) = .transport ∧ hallState.asleep = false ∧
      ({ hallState with pwr := { state := .s1 } } : State).asleep = true ∧
      hallState.hallOn = true ∧ hdrType (frame5 6 0 []).body = 6 ∧ hdrType (frame5 1 0 (msg5 4).bytes).body = 1 ∧
      (hallWith { state := .lost } {}).peerExpired (hdrSrc acks.body) = true ∧ (hdrFlags acks.body).testBit 0 = true ∧
      hdrType acks.body = 0 ∧ hallState.verdict 0 acks = .transport ∧
      s.peerExpired (hdrSrc (frame5 1 0 (msg5 4).bytes).body) = false ∧
      (s.conn (hdrSrc (frame5 1 0 (msg5 4).bytes).body)).live = true ∧ (s.conn 5).held = [] ∧
      hdrSeq (frame5 1 0 (msg5 4).bytes).body = ({ state := .opened } : Conn).rxNext ∧
      leAt (frame5 1 0 (msg5 4).bytes).body 32 1 ≠ 1 := by
  decide +kernel

/-- A frame of a type from device 5 that passed the checks. -/
def acc5 (ty seq : Nat) (body : List Byte) : Accepted := ⟨0, mkHeader ty 0 0 5 0x8002 seq 0 0 body.length 9 0, body⟩

/-- A window of 4 granted frames in a staging region of one block: numbers in the window and outside it, a second copy, and
the slot of a new one; no window granted; an acknowledgement that names frame 2 (R265), before its timer has run out and after. -/
theorem test_FrameOrder :
    let c : Conn := { state := .opened, granted := 4, rxNext := 10, held := [{ seq := 12, isCtrl := true, stream := 0 }] }
    let f2 : TxFrame := { seq := 2, isCtrl := true, payload := [] }
    let ack := mkHeader 2 1 0 5 0 0 3 0 0 0 0
    let s := (hallWith c { frames := [acc5 0 12 []] }).setReg (Reg.arrEbregion 0) 0x83000000
    let late := hallWith { state := .opened, unacked := [f2], deadline := some 9 } {}
    (s.hall.frames = [acc5 0 12 []] ∧ hdrType (acc5 0 12 []).hdr = 0 ∧ hdrType (acc5 2 0 []).hdr = 2 ∧
      (s.conn (hdrSrc (acc5 0 12 []).hdr)).live = true ∧ (hallState.conn (hdrSrc (acc5 0 12 []).hdr)).live = false ∧
      max 1 (s.conn 5).granted ≤ (14 + 2 ^ 32 - (s.conn 5).rxNext) % 2 ^ 32 ∧
      (13 + 2 ^ 32 - (s.conn 5).rxNext) % 2 ^ 32 < max 1 (s.conn 5).granted ∧ 0 < (s.conn 5).granted ∧
      (hallState.conn 5).granted = 0 ∧ (∃ f ∈ (s.conn 5).held, f.seq = 12) ∧
      (∀ f ∈ (s.conn 5).held, f.seq ≠ 13) ∧ s.slotOf 5 13 = some (0, 8192) ∧
      (hdrFlags ack).testBit 0 = true ∧ names (hdrAck ack) (hdrSack ack) 2 = true ∧
      names (hdrAck ack) (hdrSack ack) 3 = false ∧ (s.conn 5).deadline = none ∧ (s.conn 5).expired = none ∧
      (late.conn 5).deadline = some 9 ∧ (late.conn 5).unacked = [f2] ∧ 9 < late.clk.wall) ∧
    s.cleanAt (bufferBase 0 + 8192) 2 ∧ s.sramGood :=
  ⟨by decide +kernel, clean _ rfl _ _, good _ rfl⟩

theorem test_ConnectionMessages :
    (hallWith { state := .opening } { msgs := [msg5 1] }).hall.msgs = [msg5 1] ∧ leAt (msg5 1).bytes 0 1 = 1 ∧
      leAt (msg5 2).bytes 0 1 = 2 ∧ leAt (msg5 3).bytes 0 1 = 3 ∧
      ((hallWith { state := .opening } {}).conn (msg5 1).peer).state = .opening ∧
      ((hallWith { state := .opened } {}).conn (msg5 1).peer).state = .opened ∧
      ((hallWith { state := .opening } {}).conn (msg5 3).peer).live = true ∧
      ((hallWith {} {}).conn (msg5 3).peer).live = false ∧ hallState.slotsOf 4 = [] := by
  decide +kernel

/-- A GET of one unit of stream 7. -/
def get5 : CtrlMsg := ⟨5, [5, 0, 7, 0] ++ zeros 8 ++ [1, 0, 0, 0]⟩

/-- Served from a range that the peer may reach, the GET's bytes are read; what Config gives is its premise. The range of 0x300
GiB is none; the units are 17; the stream has stopped; an access of the range fails. -/
theorem test_StreamMessages (h : Config.remoteRange 5 7 = some (0, 4096)) :
    let s := hallWith { state := .opened } { msgs := [get5] }
    let x : Stream := { peer := 5, id := 7, part := none, kind := 2, send := false, remote := 0, length := 0, stopped := true }
    let u := hallWith { state := .opened } { msgs := [get5], streams := [x] }
    let e := ({ s with dramErr := [(1, 2)] } : State)
    s.hall.msgs = [get5] ∧ s.served get5.peer get5.id 2 = none ∧ u.served get5.peer get5.id 2 = some x ∧
      Config.remoteRange get5.peer get5.id = some (0, 4096) ∧
      s.hallRange 0 4096 = true ∧ s.hallRange 0x30000000000 4096 = false ∧ leAt get5.bytes 0 1 = 5 ∧
      leAt get5.bytes 4 8 % 4096 = 0 ∧ leAt get5.bytes 12 2 = 1 ∧ leAt (zeros 12 ++ [17, 0]) 12 2 = 17 ∧
      (s.nextMsg.readParts (wrapParts 0 4096 4096 0 0 4096)).1.toBool = true ∧
      (e.nextMsg.readParts (wrapParts 0 4096 4096 0 0 4096)).1.toBool = false ∧
      leAt (msg5 4).bytes 0 1 = 4 ∧ leAt (msg5 6).bytes 0 1 = 6 ∧ leAt (msg5 7).bytes 0 1 = 7 :=
  ⟨rfl, rfl, rfl, h, by decide +kernel, by decide +kernel, by decide +kernel, by decide +kernel, by decide +kernel,
    by decide +kernel, by decide +kernel, by decide +kernel, by decide +kernel, by decide +kernel, by decide +kernel⟩

/-- A frame staged in a free slot of a send staging region of one block, and one that finds none. -/
theorem test_StreamMessages_staging :
    let s := hallState.setReg (Reg.arrEbregion 32) 0x84000000
    (hallState.freeSlot = none ∧ s.freeSlot = some (1, 0)) ∧ s.cleanAt (bufferBase 1 + 0) 16 :=
  ⟨by decide +kernel, clean _ rfl _ _⟩

/-- A connection with a queued frame, with an expired one, silent since wall 0, and with an acknowledgement owed. -/
theorem test_Sending :
    let f : TxFrame := { isCtrl := true, payload := (msg5 4).bytes }
    let c : Conn := { state := .opened, queue := [f], deadline := some 9, unacked := [f], peerWin := 2, delivered := 8
                      owedAck := true }
    let s := hallWith c {}
    let w := hallWith { c with peerWin := 1 } {}
    let r := hallWith { c with owedAck := false } {}
    (s.conn 5).state = .opened ∧ s.portFor 5 = some 0 ∧ s.portAmong 5 f.ports = some 0 ∧ s.hallOn = true ∧
      (s.conn 5).nextTx = some (f, []) ∧ s.txPayload f = (some f.payload, s) ∧
      (∀ e ∈ s.hall.conns, e.2.barDue = false) ∧
      (s.conn 5).unacked.length < max 1 (s.conn 5).peerWin ∧ (s.conn 5).deadline = some 9 ∧ 9 < s.clk.wall ∧
      (s.conn 5).live = true ∧ 8 ≤ (s.conn 5).delivered ∧
      bit (s.reg (Reg.hfbPortcfg 0)) 3 = false ∧ 0 + 1 < s.rf Reg.hftTimer 15 12 ∧
      s.rf Reg.hftTimer 15 12 ≤ 15 + 1 ∧
      (∃ n, n < 100 ∧ (s.conn 5).heard + usec (({ s with clk := { wall := n * 1000000000 } } : State).rf Reg.hftTimer 31 16) <
        n * 1000000000) ∧
      (s.peersOn 0).find? (fun d => (s.conn d).barDue || (s.conn d).owedAck) = some 5 ∧ s.maySend 5 = true ∧
      (w.peersOn 0).find? (fun d => (w.conn d).barDue || (w.conn d).owedAck) = some 5 ∧ w.maySend 5 = false ∧
      (r.peersOn 0).find? (fun d => (r.conn d).barDue || (r.conn d).owedAck) = none ∧
      (r.hport 0).lastSent * 5 + 256 * 6 ≤ r.clk.wall * 5 ∧
      ((r.peersOn 0).find? (fun d => decide ((r.hport 0).turn ≤ d)) <|> (r.peersOn 0).head?) = some 5 := by
  decide +kernel

/-- Every connection but those listed is closed, so none of them has a barrier change. -/
theorem test_Sending_others (c : Conn) (h : c.barDue = false) : ∀ e, ((hallWith c {}).conn e).barDue = false := by
  intro e
  by_cases he : e = 5
  · subst he; simpa [hallWith, State.conn, Table.look] using h
  · simp [hallWith, State.conn, Table.look, Ne.symm he]

/-- Partition 0 in group 2 with coordinator `coord` and participants 5 and 6; the module is device 0. -/
def group2 (coord : Nat) : BarGroup := { part := 0, coord := coord, members := [5, 6], cmp := 3 }

/-- Every core of partition 0 waits at a hall barrier whose last arrival came at tick 58. -/
def hallBarrier : BarrierWait := { arrived58 false false with hall := true }

/-- A state of partition 0 at that barrier, in group 2, with a barrier field waiting. -/
def barState (x : BarGroup) (field : Nat) : State :=
  { withPart { runs with barrier := some hallBarrier, group := some 2 } with
    hall := { groups := [(2, some x)], bars := [⟨5, field⟩] } }

/-- A participant's and the coordinator's arrival; ARRIVED of group 2 from device 5, before another and as the last; RELEASE
from its coordinator, at a slot ahead and at one past; a barrier that waits since wall 0; an armed comparator whose time
has come. -/
theorem test_HallBarriers :
    let s := barState (group2 5) 0
    let late := ({ s with clk := { wall := 10 ^ 12, gtimeNs := 5000 } } : State)
    let armed (control : U64) := ((late.setReg (Reg.gtbCmp 3) 4000).setReg (Reg.gtbCmp 3 + 8) control)
    (s.part 0).barrier = some hallBarrier ∧ (s.part 0).group = some 2 ∧ s.barGroup 2 = some (group2 5) ∧
      s.mayForward 0 hallBarrier = true ∧ s.device = 0 ∧ (group2 5).coord ≠ s.device ∧ s.device ∉ (group2 0).arrived ∧
      (∃ d ∈ (group2 0).members, d ∉ s.device :: (group2 0).arrived) ∧
      bitsN 0x12 3 0 = 2 ∧ bitsN 0x12 5 4 = 1 ∧ 5 ∈ (group2 0).members ∧ 5 ∉ (group2 0).arrived ∧
      (∀ d ∈ (0 : Nat) :: [5, 6], d = 5 ∨ d ∈ [0, 6]) ∧ bitsN 0x14022 5 4 = 2 ∧ (group2 5).cmp < 8 ∧
      late.gtime + 64 ≤ extendSlot late.gtime (bitsN 0x14022 31 14) ∧
      extendSlot late.gtime (bitsN 0x4022 31 14) < late.gtime + 64 ∧
      (late.ownArrival (group2 5)).isSome = true ∧ (late.ownArrival (group2 5)).getD 0 +
        usec (late.rf Reg.hftTimer 47 32) < late.clk.wall ∧ (armed 0x10201).cmpArmed 3 = true ∧
      ((armed 0x10201).reg (Reg.gtbCmp 3)).toNat ≤ (armed 0x10201).gtime ∧
      (∀ k ∈ [1, 2, 3], fld ((armed (BitVec.ofNat 64 (0x10200 + k))).reg (Reg.gtbCmp 3 + 8)) 2 0 = k) ∧
      (armed 0x10201).barGroup (fld ((armed 0x10201).reg (Reg.gtbCmp 3 + 8)) 15 8) = some (group2 5) ∧
      { hallBarrier with forwarded := true }.forwarded = true := by
  decide +kernel

/-- A transfer of 8 B to devices 5 and 6, of which the given ones are done. -/
def tx9 (done : List Nat) (polled : Bool) : McastTx :=
  { desc := ⟨.a, 0, 0⟩, group := 2, dest := 0, object := zeros 8, members := [5, 6], done := done, id := 9, pollAt := 5, polled := polled }

theorem test_Multicast :
    let s := hallWith { state := .opened } { mrx := [(2, some { source := 5, id := 9, got := [0] })], mtx := [tx9 [] false] }
    let md := acc5 3 1 (leBytes 8 0x2FFFFFFFF8 ++ List.replicate 8 1)
    let z := ({ s with pwr := { state := .s1 } } : State)
    hdrType md.hdr = 3 ∧ s.mrxOf (bitsN (hdrDst md.hdr) 3 0) (hdrSrc md.hdr) (hdrStream md.hdr) = some { source := 5, id := 9, got := [0] } ∧
      hdrSeq md.hdr ∉ [0] ∧ s.inDram (leAt md.body 0 8) (md.body.drop 8).length = true ∧
      hdrType (acc5 4 0 (leBytes 4 1)).hdr = 4 ∧ (s.conn (hdrSrc (acc5 4 0 (leBytes 4 1)).hdr)).state = .opened ∧
      (∀ i, i < leAt (acc5 4 0 (leBytes 4 1)).body 0 4 → i ∈ [0]) ∧
      (∃ i, i < leAt (acc5 4 0 (leBytes 4 2)).body 0 4 ∧ i ∉ [0]) ∧ hdrType (acc5 5 0 (leBytes 8 0)).hdr = 5 ∧
      hdrSrc (acc5 5 0 (leBytes 8 0)).hdr ∈ (tx9 [] false).members ∧ (tx9 [] false).id = hdrStream (acc5 5 0 (leBytes 8 0)).hdr ∧
      hdrType (acc5 6 0 []).hdr = 6 ∧ z.pwr.state = .s1 ∧ z.boot.supplies = true ∧ z.pwr.waking = none ∧
      (tx9 [5, 6] false).left = [] ∧ (tx9 [5] true).left ≠ [] ∧
      (tx9 [5] true).pollAt ≤ s.clk.wall ∧ (tx9 [5] true).round < 7 ∧ 7 ≤ { tx9 [5] true with round := 7 }.round := by
  decide +kernel

/-- Port A writes: peer 5 valid and not; every MODE but 3; the comparators unarmed, and one armed. An association agreed before
the source serves, while it serves, and after ENT_FATAL. -/
theorem test_HallControl :
    let e (x : EntState) : State := { hallState with ent := { state := x, out := zeros 64 } }
    hallState.writeReaches .portA (Reg.hftPeer 5) = true ∧ (5 : PeerId).val ≠ hallState.device ∧
      bit (hallState.reg (Reg.hftPeer 5)) 60 = true ∧ bit (hallState.reg (Reg.hftPeer 1023)) 60 = false ∧
      hallState.writeReaches .portA (Reg.hfbPortcfg 7) = true ∧ (2 : BitVec 2) ≠ 3 ∧
      (hallState.setRf (Reg.hfbPortcfg 7) 1 0 2).rf (Reg.hfbPortcfg 7) 1 0 = 2 ∧
      7 ∈ ({ hallState with boot := { hallPorts := [7] } } : State).boot.hallPorts ∧ hallState.slotsOf 4 = [] ∧
      (e .fatal).ent.state = .fatal ∧ (e .startup).ent.state.serves = false ∧ (e .startup).ent.state ≠ .fatal ∧
      (e .normal).ent.state = .normal ∧ (e .normal).hall.keying = [] ∧ 64 ≤ (e .normal).ent.out.length ∧
      hallState.writeReaches .portA Reg.gtbStep = true ∧ (∀ k, k < 8 → hallState.cmpArmed k = false) ∧
      (hallState.setReg (Reg.gtbCmp 7 + 8) 0x10001).cmpArmed 7 = true ∧ hallState.boot.published = true ∧
      (Requester.portA.isPort = true → hallState.asleep = false ∨ asleepRead Reg.gtbNs = true) := by
  decide +kernel

/-! ## Witnesses: the host ports -/

/-- Ring pair 0 of port A enabled, with 16 entries at 0x1000 and at 0x2000, on a link that is up. -/
def ringState (x : RingPair) : State :=
  ({ ((withPart runs).setReg (Reg.hstSq 0 0) 0x1024 |>.setReg (Reg.hstCq 0 0) 0x2024).setRf (Reg.hstPortstat 0) 0 0 1 with
    rings := [(0, x)] } : State)

theorem test_HostRings :
    let s := ringState { sqTail := 1, owed := [(zeros 32, true)], irqSince := some 0, cqTail := 15, cqHead := 1 }
    s.pairOn .a 0 = true ∧ (s.ringPair .a 0).sqHead ≠ (s.ringPair .a 0).sqTail ∧ s.cqFull .a 0 = false ∧ s.asleep = false ∧
      s.desc ⟨.a, 0, BitVec.ofNat 16 (s.ringPair .a 0).fetched⟩ = none ∧ (s.ringPair .a 0).owed = [(zeros 32, true)] ∧
      s.vectorMasked .a 0 = false ∧
      fld (s.reg (Reg.hstRingcfg 0 0)) 15 8 ≤ (s.ringPair .a 0).irqs + 1 ∧ s.rf (Reg.hstPortstat 0) 0 0 = 1 ∧
      (15 + 1) % ringSize (s.reg (Reg.hstCq 0 0)) = 0 ∧
      0 + usec (fld (s.reg (Reg.hstRingcfg 0 0)) 31 16) ≤ s.clk.wall ∧
      s.writeReaches Port.a.who (Reg.hstSq 0 0) = true ∧ (withPart runs).pairOn .a 0 = false := by
  decide +kernel

/-- Doorbells of an awake module, of one without supplies, of one that wakes, of one that enters a sleep state, of one in S1 and of one in S3: the
last place of the ring, and the first beyond it; the heads of both drain rings. -/
theorem test_HostRings_doorbells :
    let s := ringState {}
    let d := ({ s.setReg (Reg.hstDrain 0) 0x2C with
      parts := [(0, { runs with binding := some { bnd with results := some (winBytes 0) }, drain := { lTail := 160, hTail := 160 } })]
      hostB := [(68, 64)], mem := [(0x100044, 64)] } : State)
    s.pwr.state = .s0 ∧ s.pwr.entry = none ∧ s.pwr.request = none ∧ ({ s with boot := { supplies := false } } : State).boot.supplies = false ∧
      ({ state := .s1, waking := some (0, .doorbell) } : Power).waking.isSome = true ∧ ({ entry := some (3, 0) } : Power).entry.isSome = true ∧
      ({ state := .s1 } : Power).waking = none ∧ ({ state := .s3 } : Power).state = .s3 ∧ (15 : U32).toNat < ringSize (s.reg (Reg.hstSq 0 0)) ∧
      (15 : U32).toNat < ringSize (s.reg (Reg.hstCq 0 0)) ∧ ringSize (s.reg (Reg.hstSq 0 0)) ≤ (16 : U32).toNat ∧
      bit (d.reg (Reg.hstDrain 0)) 5 = true ∧ headOk d.hostB 0 4096 64 160 (160 : U32).toNat = true ∧
      (d.part 0).ldrain = some (0x100000, 4096) ∧ headOk d.mem 0x100000 4096 64 160 (160 : U32).toNat = true ∧
      headOk d.mem 0x100000 4096 64 160 (128 : U32).toNat = false ∧ (8 : Nat) ≠ 4 := by
  decide +kernel

/-- A descriptor of ring 0 of port A: opcode, flags, and operands from offset 0x10. -/
def desc0 (op flags : Byte) (phase : DescPhase) (operands : List Byte) : Desc :=
  { ref := ⟨.a, 0, 0⟩, bytes := padTo 64 ([op, flags] ++ zeros 14 ++ operands), head := 1, phase := phase }

/-- A partition in a state, and one descriptor of its ring; port A holds the partition. -/
def descState (p : Partition) (x : Desc) : State := { (withPart p).setRf (Reg.prtOwner 0) 1 0 1 with descs := [x] }

/-- The same with a 10 µs watchdog. -/
def watched (x : Desc) : Desc := { x with bytes := overlay x.bytes 8 (leBytes 4 10) }

theorem test_DescriptorLife :
    let fence := desc0 14 0 .waiting []
    let bad := { fence with bytes := overlay fence.bytes 2 [1] }
    let h := desc0 3 0 .running [1]
    (descState runs fence).desc ⟨.a, 0, 0⟩ = some fence ∧ (descState runs fence).mayStart fence = true ∧
      (descState runs fence).startStatus fence = none ∧ (descState runs bad).mayStart bad = true ∧
      (descState runs bad).startStatus bad = some stBad ∧ (descState runs fence).asleep = false ∧
      fence.expired = false ∧ ({ descState runs fence with pwr := { state := .s1 } } : State).asleep = true ∧
      (descState runs { fence with phase := .running }).begun ⟨.a, 0, 0⟩ 14 = some { fence with phase := .running } ∧
      (descState runs h).begun ⟨.a, 0, 0⟩ 3 = some h ∧ ((descState runs h).part 0).run = .running ∧
      ((descState { runs with run := .loaded } h).part 0).run ≠ .running ∧ runs.halts = [] ∧ runs.faulted = false ∧
      ⟨.a, 0, 0⟩ ∈ { runs with halts := [⟨.a, 0, 0⟩] }.halts ∧ (watched h).watchdog ≠ 0 ∧ (watched h).opcode ≠ 8 ∧ (watched h).opcode ≠ 7 ∧
      (watched h).since + usec (watched h).watchdog < (descState runs (watched h)).clk.wall ∧
      (watched { h with since := 10 ^ 7 }).since + usec 10 ≥ (descState runs (watched h)).clk.wall ∧
      (watched (desc0 8 0 .running [])).opcode = 8 ∧
      ((descState { runs with job := some job1 } (watched (desc0 2 0 .running []))).part 0).job = some job1 ∧
      job1.desc = ⟨.a, 0, 0⟩ ∧ job1.going = true := by
  decide +kernel

/-- Bytes in memory from an address. -/
def atAddr (a : Nat) (bs : List Byte) : Table Byte := Table.putSpan zeroByte [] a bs

/-- A Binding image of one quire whose one section requests a staging region in buffer W (R172, R173, R179, R180). -/
def image : List Byte :=
  bytesOf 328 [(0, [0x50, 0x42, 0x4E, 0x44, 1, 0, 0, 0, 1, 1, 0, 0, 1, 0, 1, 0]), (0x10, leBytes 8 328), (0x18, leBytes 8 0x100),
    (0x40, leBytes 32 84168894511684051886006883475036781799135585075834411636982294708005129399376),
    (0x100, [4]), (0x104, [1]), (0x108, leBytes 8 320), (0x110, [8]), (320, [2, 0, 0, 6])]

/-- A LOAD_BINDING with a run seed, of an image at `a`; the image lies at 0x1000. -/
def loadState (a : Nat) : State :=
  { descState { runs with run := .empty } (desc0 1 0 .running (leBytes 8 a ++ [1] ++ zeros 7 ++ zeros 32)) with
    mem := atAddr 0x1000 image }

/-- R180: an image outside LPDDR6 fails at once; a sound one passes every check of a stopped partition of its shape, and is
refused on a running one. -/
theorem test_Loads :
    let s := loadState 0x1000
    let y : Load := { desc := ⟨.a, 0, 0⟩, image := image, seed := none, key := none }
    (s.begun ⟨.a, 0, 0⟩ 1).isSome = true ∧ (s.part 0).load.isNone = true ∧ { runs with load := some y }.load.isSome = true ∧
      (loadState 0x3000000000).readImage 0 0x3000000000 = (.error stBad, loadState 0x3000000000) ∧
      s.readImage 0 0x1000 = (.ok image, s) ∧ Image.ok image s.device 0 (s.part 0).qcols true = true ∧
      Image.ok image s.device 0 (s.part 0).qcols false = true ∧
      Image.ok (overlay image 4 [2]) s.device 0 (s.part 0).qcols true = false ∧
      (s.setPart 0 runs).loadStatus 0 image = some stRefused ∧
      ((s.freeRegions 0).allocAll 0 ((Image.regionReqs image).zip ((s.placeRegions 0 (Image.regionReqs image)).getD []))).isSome =
        true ∧ s.loadStatus 0 image = none := by
  decide +kernel

theorem test_Loads_key : ∃ v, (loadState 0x1000).keyStep image (some (zeros 32)) = .key none v := ⟨_, rfl⟩

/-- An image of one segment of 64 B to every core, at a DEST (R174). -/
def segImage (dest : Nat) : List Byte :=
  bytesOf 4448 [(0x0E, [1]), (0x18, leBytes 8 0x100), (0x100, [1]), (0x104, [1]), (0x108, leBytes 8 320),
    (0x110, leBytes 8 4128), (324, leBytes 4 0x40000000), (328, leBytes 4 dest), (332, [64])]

/-- A load of that image; in the first repair round its resend to core 0 is still to go out. -/
def segLoad (dest round : Nat) : Load :=
  { desc := ⟨.a, 0, 0⟩, image := segImage dest, round := round, seed := none, key := none
    resend := if round = 0 then [] else [(0, 0)], gone := decide (round = 0), quiet := 40 }

/-- The load in progress; core 0 expects one segment and has received `got`. -/
def segState (dest round : Nat) (got : List Nat) : State :=
  { withPart { runs with run := .empty, binding := some bnd, load := some (segLoad dest round) } with
    cores := [(0, { expect := some 1, receipts := got })] }

/-- The segment comes past core 0 in the broadcast and as a resend; a core that holds it does not take it; an earlier load holds
the channels, and a segment that has come past does not come again. -/
theorem test_Loads_segments (dest round : Nat) (h : dest = 0x24000 ∨ dest = setupDest ∨ dest = classDest)
    (hr : round = 0 ∨ round = 1) :
    let s := segState dest round []
    let k := s.coreIndex 0 0
    let l := segLoad dest round
    let w := ({ s with parts := [(0, (s.part 0)), (1, { runs with run := .empty, load := some (segLoad dest 0) })] } : State)
    (s.part 0).load = some l ∧
    (s.partOfCore 0 = some 0 ∧ ((Image.segments (segImage dest))[0]?).isSome = true ∧
      (match (Image.segments (segImage dest))[0]? with
        | some g => g.dest == dest && g.index == 0 && g.reaches k none && (decide (round = 0) || l.sends g k (s.core 0))
        | none => false) = true ∧
      s.loadWaits 0 l = false ∧ l.comes k 0 = true ∧ (l.past k 0).comes k 0 = false ∧
      w.loadWaits 1 { segLoad dest 0 with since := 1 } = true ∧
      (s.core 0).expect = some 1 ∧ 0 ∉ (s.core 0).receipts ∧ 0 ∈ ((segState dest round [0]).core 0).receipts) ∧
    s.cleanAt (coreBase 0 + dest) 64 := by
  refine ⟨rfl, ?_, clean _ rfl _ _⟩
  rcases h with rfl | rfl | rfl <;> rcases hr with rfl | rfl <;> decide +kernel

/-- One core of partition 0 lacks segments, 40 ac after the broadcast and after the second round; and every core has all. -/
theorem test_Loads_rounds :
    let all (n : Nat) : State := { segState 0 0 [0] with cores := (List.range n).flatMap (fun r =>
      (List.range 16).map (fun c => (128 * r + c, { expect := some 1, receipts := [0] }))) }
    ((all 7).part 0).load = some (segLoad 0 0) ∧
    ((segLoad 0 0).gone = true ∧ 40 ≤ (segLoad 0 0).quiet ∧ (segLoad 0 0).round < 2 ∧
      2 ≤ { segLoad 0 0 with round := 2 }.round ∧ ((all 7).part 0).binding = some bnd ∧ (all 7).lacking 0 (segImage 0) ≠ [] ∧
      (all 7).partCores 0 ≠ [] ∧ ((all 7).partCores 0).any (fun n => !((all 7).core n).complete) = true ∧
      ((all 8).partCores 0).all (fun n => ((all 8).core n).complete) = true) :=
  ⟨rfl, by decide +kernel⟩

/-- RUN_SWEEPS of five sweeps from time `at_`, with and without a Colophon at 0x40000, on a seeded module in free mode. -/
def runDesc (flags : Byte) (at_ : Nat) (colo : Byte) : Desc :=
  desc0 2 flags .running (leBytes 8 5 ++ leBytes 8 at_ ++ leBytes 8 0x40000 ++ [colo])

def runState (x : Desc) : State :=
  { descState { runs with run := .loaded, binding := some bnd, point := 3 } x with ent := { seeded := true } }

theorem test_Runs :
    let s := runState (runDesc 0 0 0)
    let c := runState (runDesc 0 0 1)
    let l := runState (runDesc 4 1000 0)
    s.begun ⟨.a, 0, 0⟩ 2 = some (runDesc 0 0 0) ∧ (s.part 0).job = none ∧ (s.part 0).faulted = false ∧
      (s.part 0).binding = some bnd ∧ (s.part 0).run = .loaded ∧ s.modeFirst = s ∧
      (inDet s).runStatus (runDesc 0 0 0) ((inDet s).part 0) bnd = some stRefused ∧
      s.runStatus (runDesc 0 0 0) (s.part 0) bnd = none ∧ ((runDesc 0 0 0).arg 0x28 1).testBit 0 = false ∧
      (runDesc 0 0 0).flags.testBit 2 = false ∧ c.runStatus (runDesc 0 0 1) (c.part 0) bnd = none ∧
      ((runDesc 0 0 1).arg 0x28 1).testBit 0 = true ∧ (c.coloStart 0 bnd ((runDesc 0 0 1).arg 0x20 8)).1.isSome = true ∧
      l.runStatus (runDesc 4 1000 0) (l.part 0) bnd = none ∧ (runDesc 4 1000 0).flags.testBit 2 = true ∧
      l.gtime < (runDesc 4 1000 0).arg 0x18 8 ∧ l.freeCmp = some 0 := by
  decide +kernel

/-- An ended run that owes a Colophon at 0x40000, signed and not, and one that still owes an offer. That the key record
authenticates is a free value, and a premise. -/
theorem test_Runs_colophon (sign : Bool)
    (h : Config.keyRecordGood 0 (Table.span (fun _ => 0xFF) [] 0x20A0000 0x10000) = true) :
    let j := { job1 with ended := some stDone, colophon := some 0x40000, sign := sign }
    let s := ({ descState { runs with job := some j } (desc0 2 0 .running []) with fuse := { attest := true } } : State)
    s.provisioned = true ∧ (s.part 0).job = some j ∧ j.ended = some stDone ∧ j.colophon = some 0x40000 ∧
      (s.part 0).owedOffers = [] ∧ { runs with offers := [offer []] }.owedOffers ≠ [] ∧ s.dramErr = [] ∧
      s.mgt.sign.length < 64 ∧ s.ent.state ≠ .fatal ∧ s.desc j.desc = some (desc0 2 0 .running []) := by
  refine ⟨by simpa [State.provisioned, descState, withPart] using h, ?_⟩
  cases sign <;> decide +kernel

/-- SET_TABLE of the noise table (kind 1) and of a lane table (kind 0), on a running partition and on a stopped one. -/
theorem test_TableWrites (run : PartRun) (kind : Nat) (hr : run = .running ∨ run = .loaded) (hk : kind = 0 ∨ kind = 1) :
    let x := desc0 13 0 .running (zeros 8 ++ leBytes 1 kind ++ zeros 3 ++ leBytes 4 0x40000000)
    let s := descState { runs with run := run, binding := some bnd } x
    s.begun ⟨.a, 0, 0⟩ 13 = some x ∧ (s.part 0).faulted = false ∧ (s.part 0).run = run ∧ run ≠ .empty ∧
      tableFits (s.part 0) (x.arg 0x18 1) (x.arg 0x1A 2) = true ∧ (s.part 0).tables = [] ∧
      ¬ (x.arg 0x18 1 = 3 ∧ 3 ≤ leAt (s.localRead 127 (x.arg 0x10 8) (tableBytes (x.arg 0x18 1))).1 5 1) ∧
      tableFits (s.part 0) 3 4000 = false ∧ x.arg 0x19 1 ≤ 3 ∧ ((s.targets 0 (x.arg 0x1C 4) 2048).map Prod.fst).Nodup ∧
      (s.localRead 127 (x.arg 0x10 8) (tableBytes (x.arg 0x18 1))).2.1 = none ∧ x.arg 0x18 1 = kind := by
  rcases hr with rfl | rfl <;> rcases hk with rfl | rfl <;> decide +kernel

/-- A context image without cores, at tick 9 and sweep 7, of a Binding with a digest of zeros, with a FOLD section (R328,
R336). A partition of no rows stands for one of any size, whose core records of 167,936 B each are left out. -/
def context : List Byte :=
  bytesOf 576 [(0, [0x45, 0x4E, 0x44, 0x50, 1]), (0x0B, [2]), (0x0E, [3]), (0x20, leBytes 8 576), (0x28, leBytes 8 0x100),
    (0x30, [7]), (0x40, [9]), (0x90, leBytes 32 49232825192188633697722005400953111204219614003841832351772880689426709497803),
    (0x100, [1]), (0x120, [4]), (0x128, leBytes 8 0x1C0), (0x130, [64]), (0x140, [5]), (0x148, leBytes 8 0x200), (0x150, [64])]

def noCores : Binding := { bnd with digest := zeros 32, regions := [], control := none }

/-- SAVE_CONTEXT (4), RESTORE_CONTEXT (5) or REFOLD_CONTEXT (6) of the image at 0x10000, in 64 KiB. -/
def contextState (op : Byte) : State :=
  { descState { runs with run := .loaded, qrows := 0, qcols := 0, binding := some noCores }
      (desc0 op 0 .running (leBytes 8 0x10000 ++ leBytes 8 0x10000)) with
    mem := atAddr 0x10000 context }

theorem test_Contexts_save :
    let s := contextState 4
    let x := desc0 4 0 .running (leBytes 8 0x10000 ++ leBytes 8 0x10000)
    (s.begun ⟨.a, 0, 0⟩ 4 = some x ∧ (s.part 0).faulted = false ∧ (s.part 0).binding = some noCores ∧
      (s.part 0).run = .loaded ∧ (s.part 0).point = 0 ∧ (s.part 0).owedOffers = [] ∧
      1 < { runs with point := 2 }.point ∧ (desc0 4 0 .running (leBytes 8 0x10000)).arg 0x18 8 < contextLength (s.contextSections 0 noCores) ∧
      s.inDram 0x2FFFFFFFC0 (contextLength (s.contextSections 0 noCores)) = false ∧
      contextLength (s.contextSections 0 noCores) ≤ x.arg 0x18 8 ∧
      s.inDram (x.arg 0x10 8) (contextLength (s.contextSections 0 noCores)) = true ∧ s.dramErr = []) ∧ s.sramGood :=
  ⟨by decide +kernel, good _ rfl⟩

theorem test_Contexts_read :
    (contextState 5).readContext 0 0x10000 0x10000 = (.ok context, contextState 5) ∧
      (contextState 6).readContext 0 0x10000 0x10000 = (.ok context, contextState 6) ∧
      ((Context.sect context 5).isSome && !foldOk (Context.bytesOf context 5)) = false ∧
      foldOthers (Context.bytesOf context 5) = [] ∧ (inDet (contextState 5)).restoreStatus 0 noCores context ≠ none ∧
      (inDet (contextState 6)).refoldStatus 0 noCores context [(0x10000, context)] ≠ none := by
  decide +kernel

theorem test_Contexts_digest : Context.digestOk context = true := by decide +kernel

/-- A restore waits for its rings: one that an uncorrectable access has stopped, one that is ready and one that is not. -/
theorem test_Contexts_waits :
    let p (fill : Nat) (stopped : Bool) : Partition :=
      { planPart 0 fill with run := .loaded, restore := some (⟨.a, 0, 0⟩, 0), rings := [(0, { fill := fill, stopped := stopped })] }
    (p 0 true).ringStopped = true ∧ (p 8192 false).ringStopped = false ∧ (p 8192 false).ringsReady = true ∧
      (p 0 false).ringStopped = false ∧ (p 0 false).ringsReady = false ∧ (p 0 true).job = none ∧
      (({ withPart (p 0 false) with dramErr := [(0, 2)] } : State).restartRings 0 ((planPart 0 0).binding.getD bnd)
        [(0, 64)]).isNone = true := by
  decide +kernel

/-- The checks pass; with no ring to restart, the rings of every state restart. -/
theorem test_Contexts_restore : (contextState 5).restoreStatus 0 noCores context = none ∧
    ∀ v : State, v.restartRings 0 noCores [] = some v := by
  refine ⟨?_, fun _ => rfl⟩
  simp only [State.restoreStatus, test_Contexts_digest]
  decide +kernel

theorem test_Contexts_refold : (contextState 6).refoldStatus 0 noCores context [(0x10000, context)] = none ∧
    foldRaw (Context.bytesOf context 5) = [] := by
  simp only [State.refoldStatus, List.all_cons, List.all_nil, test_Contexts_digest]
  decide +kernel

/-- COPY of 8 B from 0x1000 to 0x2000 (FLAGS bit 0 source host, bit 1 destination host, bit 2 multicast to the list at
0x40), to the last bytes of LPDDR6, good and in an uncorrectable access. -/
def copyDesc (src dst : Nat) (flags : Byte) : Desc :=
  desc0 7 0 .running (leBytes 8 src ++ leBytes 8 dst ++ leBytes 8 8 ++ [flags] ++ zeros 7 ++ leBytes 8 0x40)

theorem test_Movers_copy :
    let s := descState runs (copyDesc 0x1000 0x2FFFFFFFF8 0)
    let m := ({ descState runs (copyDesc 0x1000 0 4) with mem := [(0x40, 0x60)] } : State)
    s.mover ⟨.a, 0, 0⟩ 7 = some (copyDesc 0x1000 0x2FFFFFFFF8 0) ∧ (copyDesc 0x1000 0x2FFFFFFFF8 0).expired = false ∧ ((copyDesc 0x1000 0x2FFFFFFFF8 0).arg 0x28 1).testBit 2 = false ∧
      (s.sourceRead false [] 0x1000 8).2.1 = none ∧
      ((s.sourceRead false [] 0x1000 8).2.2.destWrite false .a 0x2FFFFFFFF8 (zeros 8)).1 = none ∧
      (({ s with dramErr := [(0xBFFFFFFF, 2)] } : State).destWrite false .a 0x2FFFFFFFF8 (zeros 8)).1 = some 0 ∧
      (s.sourceRead true [] 0x1000 8).2.1 = none ∧ s.inDram 0x1000 8 = true ∧ s.inDram 0x2FFFFFFFF8 8 = true ∧
      ((copyDesc 0x1000 0 4).arg 0x28 1).testBit 2 = true ∧ m.hall.mtx = [] ∧ (copyDesc 0x1000 0 4).arg 0x20 8 ≤ 2 ^ 34 ∧
      (m.localRead 127 0x40 128).2.1 = none ∧ setBitsOf 1024 (leNat (m.localRead 127 0x40 128).1) ≠ [] := by
  decide +kernel

/-- FILL of the last 64 B of LPDDR6; DIGEST of 8 B compared with, or written to, host and LPDDR6 memory; GET_ENTROPY of 20 B with
the source off, and with 32 B of output. -/
theorem test_Movers_others :
    let f := desc0 8 0 .running (leBytes 8 0x2FFFFFFFC0 ++ leBytes 8 64)
    let g (flags : Byte) := desc0 9 0 .running (leBytes 8 0x1000 ++ leBytes 8 8 ++ leBytes 8 0x2FFFFFFFE0 ++ [flags])
    let e := desc0 10 0 .running (leBytes 8 0x1000 ++ leBytes 4 20)
    let on := ({ descState runs e with ent := { state := .normal, out := zeros 32 } } : State)
    (descState runs f).mover ⟨.a, 0, 0⟩ 8 = some f ∧ f.expired = false ∧ { f with expired := true }.expired = true ∧ (descState runs f).inDram (f.arg 0x10 8) (f.arg 0x18 8) = true ∧
      f.bytes.length = 64 ∧ (descState runs (g 5)).begun ⟨.a, 0, 0⟩ 9 = some (g 5) ∧
      (((g 5).arg 0x28 1).testBit 2 = true ∧ ((g 5).arg 0x28 1).testBit 0 = true) ∧ ((g 4).arg 0x28 1).testBit 0 = false ∧
      ((g 1).arg 0x28 1).testBit 2 = false ∧ (descState runs (g 0)).inDram ((g 0).arg 0x20 8) 32 = true ∧
      (descState runs e).begun ⟨.a, 0, 0⟩ 10 = some e ∧ (descState runs e).ent.state = .off ∧ on.ent.state.serves = true ∧
      on.turn (.host .a) = true ∧ ({ on.ent with state := .limit } : Entropy).out.length < 33 ∧ roundUp (e.arg 0x18 4) 16 ≤ on.ent.out.length := by
  decide +kernel

/-- BARRIER_ARM of group 15 with coordinator 5, and with the module as coordinator and its list at 0x40; a disarm. -/
def armDesc (coord : Nat) (disarm : Byte) : Desc :=
  desc0 11 0 .running ([15, disarm] ++ leBytes 2 coord ++ zeros 4 ++ leBytes 8 0x40)

theorem test_Groups :
    let s (c : Nat) (d : Byte) := (descState runs (armDesc c d)).setRf Reg.gtbStatus 16 16 1
    let g (busy : Option Nat) : State := { s 5 1 with hall := { groups := [(15, some { group2 5 with own := busy })] } }
    (s 5 0).begun ⟨.a, 0, 0⟩ 11 = some (armDesc 5 0) ∧ (armDesc 5 0).arg 0x10 1 = 15 ∧ (armDesc 5 0).arg 0x11 1 = 0 ∧
      (s 5 0).barGroup 15 = none ∧ (s 5 0).freeCmp = some 0 ∧ (s 5 0).rf Reg.gtbStatus 16 16 = 1 ∧
      (armDesc 5 0).arg 0x12 2 ≠ (s 5 0).device ∧ (armDesc 0 0).arg 0x12 2 = (s 0 0).device ∧
      ((s 0 0).localRead 127 ((armDesc 0 0).arg 0x18 8) 128).2.1 = none ∧ ((g none).barGroup 15).isSome = true ∧
      (g none).begun ⟨.a, 0, 0⟩ 11 = some (armDesc 5 1) ∧ (armDesc 5 1).arg 0x11 1 = 1 ∧
      (group2 5).busy = false ∧ { group2 5 with own := some 7 }.busy = true ∧ (group2 5).part = 0 := by
  decide +kernel

/-- DRAIN_SAMPLES of one record of 32 B in the drain ring of `winBytes`, and with a selector that it does not take. -/
theorem test_Drains :
    let x := desc0 12 0 .running (leBytes 8 0x1000 ++ leBytes 4 64 ++ [0xFF])
    let s := ({ descState { runs with binding := some { bnd with results := some (winBytes 0) }, drain := { lTail := 96 } } x with
      mem := [(0x10004D, 1)] } : State)
    s.begun ⟨.a, 0, 0⟩ 12 = some x ∧ (s.part 0).ldrain = some (0x100000, 4096) ∧
      (s.drainSome 0 0x100000 4096 (s.part 0).drain.lTail (x.arg 0x18 4) (x.arg 0x1C 1) (4096 / 32) { head := (s.part 0).drain.lHead }).1.status =
        stDone := by
  decide +kernel

/-! ## Witnesses: semaphores, partitions, registers, faults -/

/-- Semaphore 63 free, held by port A with its lease past, and held by port B; owners that may write and that may not. -/
theorem test_Semaphores :
    let s (x : Semaphore) : State := { withPart runs with sems := [(63, x)] }
    let o := (withPart runs).setRf (Reg.prtOwner 0) 1 0 2 |>.setRf (Reg.hstPortstat 1) 0 0 1
    (withPart runs).boot.published = true ∧ (withPart runs).asleep = false ∧ Requester.portA.semCode ≠ 0 ∧
      ((withPart runs).sem 63).owner = 0 ∧ ((s { owner := 1, leaseEnd := some 9 }).sem 63).owner = Requester.portA.semCode ∧
      ((s { owner := 1, leaseEnd := some 9 }).sem 63).leaseEnd = some 9 ∧ 9 < (withPart runs).clk.wall ∧
      ((s { owner := 2 }).sem 63).owner ≠ Requester.portA.semCode ∧ o.writeReaches .portA (Reg.prtOwner 0) = true ∧
      o.mayOwn .portA 0 = false ∧ o.mayOwn .portB 0 = true := by
  decide +kernel

/-- CREATE and DISSOLVE by port A: of a free rectangle, of one that meets partition 0, of a stopped and of a running
partition; DET on a stopped and on a running array. -/
theorem test_Partitions :
    let s := withPart { runs with run := .loaded }
    s.writeReaches .portA (Reg.prtCtrl 0) = true ∧ s.mayOwn .portA 0 = true ∧ s.createResult 95 1 1 = 0 ∧
      s.createResult 0 1 1 ≠ 0 ∧ s.partStateCode 0 = 2 ∧ (withPart runs).partStateCode 0 = 3 ∧ (s.part 0).exists_ = true ∧
      s.writeReaches .portA (Reg.coreCtrl 12287) = true ∧ s.partOfCore 0 = some 0 ∧ s.writeReaches .portA Reg.arrMode = true ∧
      s.det ≠ true ∧ s.arrayStopped = true ∧ (withCore {}).arrayStopped = false ∧ (withCore {}).det ≠ true := by
  decide +kernel

/-- A write at the end of a core's memories, of a stopped and of a running partition; an access by BAR4; sizes and
alignments; a fault action; and a cleared counter. -/
theorem test_Registers :
    let s := ({ withPart { runs with run := .loaded } with boot := { published := true, inReset := false, bar4 := true } } : State)
    ((0x27FFF : BitVec 18).toNat + [(7 : Byte)].length ≤ 0x28000 ∧ s.partStateCode 0 < 3 ∧ 3 ≤ (withPart runs).partStateCode 0 ∧
      (withPart runs).partStateCode 0 ≤ 5 ∧ s.boot.bar4 = true ∧ s.inDram (s.bar4Base .a + (0xFFFFFFFF8 : BitVec 36).toNat) 8 = true ∧
      accessOk (2 : BitVec 25).toNat 4 = false ∧ (BitVec.ofNat 25 (Reg.fltAction 0x10)).toNat = Reg.fltAction 0x10 ∧
      s.writeReaches .portA (Reg.fltAction 0x10) = true ∧ fld (BitVec.ofNat 64 (actionFixed 0x10)) 15 14 = 2 ∧
      (BitVec.ofNat 25 (Reg.memEccstat 47)).toNat = Reg.memEccstat 47) ∧ s.sramGood :=
  ⟨by decide +kernel, good _ rfl⟩

/-- R422: 4 B at an offset of 2 is misaligned; the second half of GEN_DET_CLASS is not; nor is FLT_ACTION at 4 B. -/
theorem test_AccessSizes :
    ¬ (((4 : Nat) = 4 ∨ 4 = 8) ∧ (2 : BitVec 25).toNat % 4 = 0) ∧ (withPart runs).asleep = false ∧
      (BitVec.ofNat 25 (Reg.genDetClass + 4)).toNat = Reg.genDetClass + 4 * 1 ∧
      (BitVec.ofNat 25 (Reg.genDetClass + 4)).toNat % 4 = 0 ∧ (BitVec.ofNat 25 (Reg.fltAction 0x10)).toNat % 4 = 0 := by
  decide +kernel

theorem test_FaultMessages : fld (faultMsg 0xFFFF 0xFF (2 ^ 40 - 1)) 39 0 = 2 ^ 40 - 1 ∧
    (BitVec.ofNat 25 Reg.fltFirst).toNat = Reg.fltFirst ∧ (BitVec.ofNat 25 Reg.fltLastreset).toNat = Reg.fltLastreset ∧
    ((withPart runs).setReg Reg.fltFirst (faultMsg 5 0x10 7)).reg (BitVec.ofNat 25 Reg.fltFirst).toNat = faultMsg 5 0x10 7 := by
  decide +kernel

/-- A message of kind 0 waits, with and without another reporter; a latched report; both pending bits; a held partition. -/
theorem test_FaultCollector :
    let m : FaultMsg := ⟨faultMsg 5 0 7, 0, 0⟩
    let s := ({ withPart { runs with faultHold := true } with flt := { queue := [m], waiting := [m] } } : State).setReg Reg.fltInfo 1
    fld (s.reg (Reg.fltAction (fld m.msg 47 40))) 8 0 = 0 ∧ s.rf Reg.fltInfo 0 0 = 1 ∧ (withPart runs).rf Reg.fltInfo 0 0 = 0 ∧
      s.writeReaches .portA Reg.fltInfo = true ∧ s.writeReaches .portA Reg.fltPend = true ∧
      (s.setReg Reg.fltPend 5).rf Reg.fltPend 0 0 = 1 ∧ (s.setReg Reg.fltPend 5).rf Reg.fltPend 2 2 = 1 ∧
      (s.setReg Reg.fltPend 2).rf Reg.fltPend 1 1 = 1 ∧ (s.setReg Reg.fltPend 2).rf Reg.fltPend 3 3 = 0 ∧
      (s.setRf (Reg.hstPortstat 0) 0 0 1).rf (Reg.hstPortstat 0) 0 0 = 1 ∧ (0 : BitVec 7).toNat < 96 ∧
      s.writeReaches .portA Reg.fltCtrl = true ∧ s.mayOwn .portA 0 = true ∧ (s.part 0).faultHold = true := by
  decide +kernel


/-! ## Witnesses: entropy -/

/-- An entropy source in a state, its eight sources running. -/
def entState (e : Entropy) : State :=
  { withPart runs with ent := { e with sources := (List.range 8).map (fun i => (i, { running := true, runLen := 40, last := some true })) } }

/-- Samples that all sources pass, and one whose repetition run of source 0 reaches 41 (R340); seeds; a request; a seeding. -/
theorem test_EntropySource :
    let s := (entState { state := .startup, seeds := [zeros 48] }).setRf Reg.entStatus 31 24 255
    let n := entState { state := .normal, key := some (zeros 32), out := zeros 336, seeding := true, seedNext := 786428 }
    let one := (entState {}).setRf Reg.entStatus 31 24 1
    s.enabledSources.length = 8 ∧ one.enabledSources.length < 2 ∧ one.ent.state = .off ∧ s.ent.state = .startup ∧
      (entState { state := .fatal }).ent.state = .fatal ∧ n.hall.keying = [] ∧ 4096 < (zeros 4081).length + 16 ∧
      s.sampleFails 0 = [] ∧ s.sampleFails 1 = [(0, 2)] ∧ s.ent.fails.length < 3 ∧
      s.ent.seeds = [zeros 48] ∧ s.ent.key = none ∧ n.ent.state.serves = true ∧ n.ent.out.length + 16 ≤ 4096 ∧
      n.ent.wantsSeed = false ∧ n.ent.count < 1048576 ∧ n.turn .seeding = true ∧
      336 ≤ n.ent.out.length ∧ laneCount ≤ n.ent.seedNext + 4 ∧ (withPart runs).ent.state = .off ∧
      4096 ≤ ({ n.ent with count := 4096 } : Entropy).count := by
  decide +kernel

/-! ## Witnesses: starts, resets and the Gatehouse -/

/-- A command from mailbox A at the head of the Gatehouse's queue. -/
def mailCmd (op : Nat) (args : List U64) : MgtCmd := { src := .mailboxA, opcode := op, irq := true, vector := 3, args := args }

def atHead (s : State) (c : MgtCmd) : State := { s with mgt := { s.mgt with queue := [c] } }

/-- A well-formed command of a mailbox is at the head of an awake module's queue. -/
theorem atHead_ok (s : State) (c : MgtCmd) (h1 : s.boot.bootRom = false) (h2 : s.boot.inReset = false) (h3 : s.pwr.state = .s0)
    (h4 : (argShape c.opcode).isSome = true) (h5 : c.ok = true) (h6 : c.src = .mailboxA) (h7 : s.mgt.halted = false)
    (h8 : s.mgt.job = none) : AtHead (atHead s c) c.opcode c [] where
  queue := rfl
  opcode := rfl
  served := by simp [State.serves, atHead, h1, h4]
  ok := h5
  awake := by simp [atHead, h3]
  started := .inl h2
  running := h7
  free := by simp [State.writeWaits, atHead, h8]
  allowed := by simp [h6]
  behind := by simp

theorem test_ModuleResets :
    let late := ({ withPart runs with clk := { wall := 10 ^ 12 } } : State)
    let early := ({ withPart runs with clk := { wall := 5 } } : State)
    AtHead (atHead (withPart runs) (mailCmd 1 [1])) 1 (mailCmd 1 [1]) [] ∧
      late.mgt.wdtAt + late.rf Reg.mgtWdt 39 8 * 48 < late.clk.wall ∧ late.boot.inReset = false ∧ late.pwr.state ≠ .s3 ∧
      early.clk.wall ≤ early.mgt.wdtAt + early.rf Reg.mgtWdt 39 8 * 48 :=
  ⟨atHead_ok _ _ rfl rfl rfl rfl rfl rfl rfl rfl, by decide +kernel⟩

/-- A start whose tests have taken their 2 ms; `seeded` says how its lanes stand. -/
def starting (seeded : Bool) : State :=
  { boot := { inReset := false, start := some ⟨0, 2, false⟩ }, clk := { wall := usec 2000 }
    ent := { seeded := seeded, state := if seeded then .normal else .fatal } }

/-- Supplies good, flash blank: no slot holds a valid image (that one does rests on the signature, a free value); a start that
ends, with its lanes seeded and with the source fatal; a sag on a flash write of one page; a port that the start found usable
and whose link trains at Gen4 ×4; a port that holds semaphore 0. -/
theorem test_Starts :
    let s := ({ boot := { pgAt := some 0 }, clk := { wall := usec 100 } } : State)
    let t := ({ withPart runs with boot := { published := true, inReset := false, hostPorts := [0] } } : State)
    let j : FlashJob := { goal := .calibration, cmd := some (mailCmd 6 [0]), place := 0x2080000, image := zeros 256, pageAt := 5 }
    s.boot.inReset = true ∧ s.boot.supplies = true ∧ s.pwr.tripped = false ∧ s.boot.bootRom = false ∧ 0 + usec 100 ≤ s.clk.wall ∧
      s.bootSlot = none ∧ s.boot.memKept = false ∧ s.warmStart [] = false ∧ (starting true).startDone = true ∧ (starting false).startDone = true ∧
      (starting true).pending = [] ∧ (starting true).toIssue = [] ∧ 0 + 2 * usec 1000 ≤ (starting true).clk.wall + 1 ∧
      ({ s with mgt := { job := some j } } : State).mgt.job = some j ∧
      Port.a.num ∈ t.boot.hostPorts ∧ Port.b.num ∉ t.boot.hostPorts ∧ 4 ≤ (4 : BitVec 3).toNat ∧ (4 : BitVec 5).toNat ∈ [4, 8, 16] ∧
      (({ sems := [(0, { owner := 1 })] } : State).sem 0).owner = Port.a.num + 1 := by
  decide +kernel

/-- REGION_ALLOC of one free block of buffer W for USE 3, and of a block that is taken; REGION_FREE of a staging region;
QUIRE_RESET of a quire of no partition, of partition 0's own, of one that another port owns and of one reset in this cycle. -/
theorem test_Mailbox_array :
    let v : U64 := regionWord 7 0 127 3
    let s := withPart runs
    AtHead (atHead s (mailCmd 3 [0x03000702])) 3 (mailCmd 3 [0x03000702]) [] ∧ AtHead (atHead s (mailCmd 4 [0x1F02])) 4 (mailCmd 4 [0x1F02]) [] ∧
      AtHead (atHead s (mailCmd 2 [95])) 2 (mailCmd 2 [95]) [] ∧
      ((mailCmd 3 [0x03000702]).arg 0 = 0x03000702 ∧ s.blocksFree 128 2 7 0 = true ∧ s.freeEntry 128 2 = some 0 ∧
        (s.setReg (Reg.arrEbregion 64) v).blocksFree 128 2 7 0 = false ∧ bit v 31 = true ∧ 96 ≤ fld v 22 16 ∧
        (s.setReg (Reg.arrEbregion 95) v).regionReg 2 31 = v ∧ s.stagingBusy 3 = false ∧ s.partOfQuire 95 = none ∧
        bit (s.regionReg 2 30) 31 = false ∧ fld (regionWord 7 0 5 3) 22 16 < 96 ∧ bit (regionWord 7 0 5 3) 31 = true ∧
        ({ s with hall := { conns := [(0, { state := .opened })] } } : State).stagingBusy 3 = true ∧ s.partOfQuire 0 = some 0 ∧
        s.mayOwn (mailCmd 2 [0]).src.who 0 = true ∧ (s.setReg (Reg.prtOwner 0) 3).mayOwn (mailCmd 2 [0]).src.who 0 = false ∧
        (s.part 0).resetAt ≠ some s.mc ∧ (∀ q ∈ s.partIds, (s.part q).resetAt ≠ some s.mc) ∧
        ((withPart { runs with resetAt := some s.mc }).part 0).resetAt = some (withPart runs).mc) :=
  ⟨atHead_ok _ _ rfl rfl rfl rfl rfl rfl rfl rfl, atHead_ok _ _ rfl rfl rfl rfl rfl rfl rfl rfl, atHead_ok _ _ rfl rfl rfl rfl rfl rfl rfl rfl,
    by decide +kernel⟩

/-- CONFIG_WRITE of one entry of 8 B; and the settings entry that a module then holds. -/
theorem test_Mailbox_config :
    let c := mailCmd 5 [0x1000, 16]
    let s := ({ withPart runs with mem := [(0x1000, 9), (0x1004, 8)] } : State)
    AtHead (atHead s c) 5 c [] ∧ (c.arg 1 ≤ 0x40000 ∧ s.dramErr = [] ∧ s.staged c (c.arg 0) (c.arg 1) = true ∧ c.src.box.isNone = false ∧
      parseEntries (16 / 8) (s.rd (c.arg 0) (c.arg 1)) = some [(9, zeros 8)] ∧ s.store = [] ∧
      64 + 16 ≤ 0x40000 ∧ s.boot.sag = false ∧ s.cfgWinner = none ∧ 0x40000 < (mailCmd 5 [0x1000, 0x40008]).arg 1 ∧
      (parseEntries 1 [9, 0, 0, 0, 9, 0, 0, 0]).isNone = true ∧ s.staged c (2 ^ 40) 16 = false ∧
      (({ s with dramErr := [(0x40, 2)] } : State).dramUe 0x1000 16).isSome) :=
  ⟨atHead_ok _ _ rfl rfl rfl rfl rfl rfl rfl rfl, by decide +kernel⟩

/-- CAL_WRITE of any set with its digest behind it, and of zeros, whose digest is not. -/
theorem test_Mailbox_cal (x : List Byte) (h : x.length = 65504) :
    let bs := x ++ shake256_256 x
    let s := ({ withPart runs with mem := atAddr 0 bs } : State)
    AtHead (atHead s (mailCmd 6 [0])) 6 (mailCmd 6 [0]) [] ∧ bs.length = 65536 ∧ s.rd ((mailCmd 6 [0]).arg 0) 65536 = bs ∧
      shake256_256 (bs.take 65504) = bs.drop 65504 := by
  have hl : (x ++ shake256_256 x).length = 65536 := by simp [h]
  refine ⟨atHead_ok _ _ rfl rfl rfl rfl rfl rfl rfl rfl, hl, ?_, ?_⟩
  · rw [← hl]; exact Table.span_putSpan _ _ _ _
  · rw [List.take_left' h, List.drop_left' h]

/-- FW_UPDATE from the boot ROM of an image of zeros, which is not sound; FW_COMMIT with the counter equal, and with a counter
to raise while no slot is valid. That a signature verifies is a free value, so a sound image is one under that premise. -/
theorem test_Mailbox_firmware :
    let c := mailCmd 7 [0, 4096]
    let s := ({ withPart runs with boot := { bootRom := true } } : State)
    AtHead (atHead s c) 7 c [] ∧
      (s.imageSound ((zeros 4096).take 4096) ((zeros 4096).drop 4096) = false ∧ leAt ((zeros 4096).take 4096) 0x0C 4 ≤ 64 ∧
        4096 + leAt ((zeros 4096).take 4096) 0x10 4 ≤ (zeros 4096).length ∧ s.boot.sag = false) ∧
      AtHead (atHead (withPart runs) (mailCmd 8 [])) 8 (mailCmd 8 []) [] ∧
      (s.rollback = s.rf Reg.mgtFwinfo 22 16 ∧ s.rollback ≠ (s.setRf Reg.mgtFwinfo 22 16 1).rf Reg.mgtFwinfo 22 16 ∧
        s.slotValid 0 = false) :=
  ⟨⟨rfl, rfl, rfl, rfl, by decide, .inr rfl, rfl, rfl, by simp [mailCmd], by simp⟩, by decide +kernel, atHead_ok _ _ rfl rfl rfl rfl rfl rfl rfl rfl,
    by decide +kernel⟩

/-- The pages of a flash write (R381): one with more to come, the last of a configuration copy, of a calibration set and of a
slot that does not verify, and the premises of a slot that does, since that a signature verifies is a free value. -/
theorem test_Mailbox_pages (h : ∀ m : List Byte, Config.falconVerify [] m [] = true) :
    let c := mailCmd 6 [0]
    let j (g : FlashGoal) (n : Nat) : FlashJob := { goal := g, cmd := some c, place := 0x2080000, image := zeros n, pageAt := 5 }
    let s (g : FlashGoal) (n : Nat) : State := { withPart runs with mgt := { job := some (j g n) } }
    (∀ g n, (s g n).mgt.job = some (j g n) ∧ (s g n).mgt.halted = false ∧ (j g n).pageAt ≤ (s g n).clk.wall ∧
        (s g n).boot.sag = false ∧ (s g n).flashRd (j g n).place (j g n).next = (j g n).image.take (j g n).next) ∧
      (j (.store 1 7) 512).next + pageBytes < (j (.store 1 7) 512).image.length ∧
      (j (.store 1 7) 200).image.length ≤ (j (.store 1 7) 200).next + pageBytes ∧
      ((s (.slot 1) 200).programPage (j (.slot 1) 200)).slotSound 1 = false ∧ Config.falconVerify [] [] [] = true :=
  ⟨fun g n => ⟨rfl, rfl, (by decide : 5 ≤ 1000000), rfl, rfl⟩, by decide +kernel, by decide +kernel, by decide +kernel, h []⟩

/-- The settings entry 7 of a configuration copy in flash allows the debug port and management writes (R379, R392). -/
def settings : Table Byte :=
  Table.putSpan blankByte [] 0x2000000 (bytesOf 80 [(0, [0x43, 0x43, 0x46, 0x47, 1, 0, 1, 0, 1]), (12, [80]),
    (16, leBytes 32 52574016051173806578065918142191623794825379614188230883194477771136739620466), (64, [7]), (68, [1]), (72, [3])])

theorem test_settings : (({ withPart runs with flash := settings } : State).storeEntry 7).getD [] = [3] := by decide +kernel

/-- LOG_READ of one entry, by mailbox; ATTEST with keys and without; a signature whose 64 B are ready, for a run; DEBUG_OPEN
with settings that allow it (`test_settings`) and without; DEBUG_CLOSE. -/
theorem test_MailboxReads :
    let s := ({ withPart runs with flash := Table.putSpan blankByte [] (logAt 0) (zeros 32), mgt := { logSeq := 1 } } : State)
    let j : SignJob := { message := zeros 256, dest := 0x40000, run := some (0, ⟨.a, 0, 0⟩), cmd := none }
    let g := ({ withPart { runs with job := some job1 } with
      ent := { state := .normal, out := zeros 64 }, mgt := { sign := [j] } } : State)
    AtHead (atHead s (mailCmd 9 [0, 1, 0])) 9 (mailCmd 9 [0, 1, 0]) [] ∧
      AtHead (atHead s (mailCmd 10 [0, 0x1000])) 10 (mailCmd 10 [0, 0x1000]) [] ∧
      AtHead (atHead s (mailCmd 11 [1])) 11 (mailCmd 11 [1]) [] ∧ AtHead (atHead s (mailCmd 11 [0])) 11 (mailCmd 11 [0]) [] ∧
      (s.logRun 0 1 = zeros 32 ∧ s.staged (mailCmd 9 [0, 1, 0]) 0 32 = true ∧ (mailCmd 9 [0, 1, 0]).src.box.isSome = true ∧
        s.staged (mailCmd 10 [0, 0x1000]) 0x1000 2048 = true ∧ s.staged (mailCmd 10 [0, 0x1000]) 0 32 = true ∧ s.provisioned = false ∧
        s.staged (mailCmd 10 [0x10000000000]) (2 ^ 40) 32 = false ∧ (({ s with dramErr := [(0, 2)] } : State).dramUe 0 32).isSome ∧
        s.mgt.sign = [] ∧ j.cmd = none ∧ ({ j with run := none, cmd := some (mailCmd 10 [0]) } : SignJob).cmd = some (mailCmd 10 [0]) ∧
        ({ j with run := none, spdm := some [5] } : SignJob).spdm = some [5] ∧ (entState { state := .fatal }).ent.state = .fatal ∧
        g.ent.state.serves = true ∧ g.turn .signing = true ∧ 64 ≤ g.ent.out.length ∧ (g.part 0).job = some job1 ∧
        job1.desc = ⟨.a, 0, 0⟩ ∧ (leAt ((s.storeEntry 7).getD []) 0 1).testBit 0 = false) :=
  ⟨atHead_ok _ _ rfl rfl rfl rfl rfl rfl rfl rfl, atHead_ok _ _ rfl rfl rfl rfl rfl rfl rfl rfl, atHead_ok _ _ rfl rfl rfl rfl rfl rfl rfl rfl,
    atHead_ok _ _ rfl rfl rfl rfl rfl rfl rfl rfl, by decide +kernel⟩

/-- A module whose key record is good, a premise on the free value that stands for its authentication (R393), with the entropy
source serving, before it is ready, and fatal, and with a full signing queue. -/
theorem test_MailboxReads_key (h : Config.keyRecordGood 0 (Table.span (fun _ => 0xFF) [] 0x20A0000 0x10000) = true) :
    let j : SignJob := { message := [], dest := 0, run := none, cmd := none }
    let s (e : EntState) (l : List SignJob) : State :=
      { withPart runs with fuse := { attest := true }, ent := { state := e }, mgt := { sign := l } }
    (∀ e l, (s e l).provisioned = true) ∧ (s .normal []).ent.state.serves = true ∧ (s .normal []).mgt.sign.length < 64 ∧
      64 ≤ (s .normal (List.replicate 64 j)).mgt.sign.length ∧ (s .fatal []).ent.state = .fatal ∧ (s .off []).ent.state ≠ .fatal ∧
      (s .off []).ent.state.serves = false :=
  ⟨fun e l => by simpa [State.provisioned, withPart] using h, by decide, by decide, by decide, by decide, by decide, by decide⟩

/-- A datagram of FW_COMMIT, one of an opcode that no command has, and data that goes on; an entry that has waited 100 ms; an MCTP
message to the endpoint, GET_MEASUREMENTS, and a message to another address; a sensor that rises to WARN. -/
theorem test_GatehouseEvents :
    let s := ({ withPart runs with flt := { log := [(⟨0, 0, 0⟩, 0)] }, clk := { wall := usec 100000 } } : State)
    let bytes := leBytes 4 1 ++ [8] ++ zeros 11
    let more : MgtCmd := { src := .ethernet, opcode := 5, irq := false, vector := 0, seq := 1, args := [0, 16], bytes := zeros 8 }
    let next := leBytes 4 1 ++ [5, 0] ++ leBytes 2 8 ++ zeros 16
    let mctp (t m : Byte) : List Byte := [0x98] ++ zeros 7 ++ [t, 0x11, m] ++ zeros 8
    16 ≤ bytes.length ∧ s.boot.inReset = false ∧ s.boot.bootRom = false ∧ s.mgt.gram = none ∧ s.mgt.queue = [] ∧ s.mgt.halted = false ∧
      s.serves (leAt bytes 4 1) = true ∧ (gramCmd bytes).wants ≤ (gramCmd bytes).bytes.length ∧ s.serves 77 = false ∧
      (more.seq = leAt next 0 4 ∧ more.opcode = leAt next 4 1 ∧ more.bytes.length < more.wants) ∧
      0 + usec 100000 ≤ s.clk.wall ∧ s.boot.sag = false ∧ s.threshold (s.rf Reg.pwrTherm 7 0) ≤ (0x7FFF : U16).toInt ∧
      s.mctpServes (mctp 5 0xE0) = true ∧ asksMeasurements (mctp 5 0xE0) = true ∧ asksMeasurements (mctp 0 0) = false ∧
      s.mctpServes [0x20] = false ∧ 70 ∉ s.pwr.warned ∧ s.flt.queue.length < 64 := by
  decide +kernel

/-- A rail that does not answer, a premise on the free value that says when a transfer fails (R397). -/
theorem test_GatehouseEvents_rail (h : ∀ i, Config.pmbusFails 1000000 3 i = true) :
    (withPart runs).railLost ((99 : Fin 128).val - 96) = true ∧ (withPart runs).boot.inReset = false :=
  ⟨by simp [State.railLost, withPart, h], rfl⟩

/-! ## Witnesses: power and clocks -/

/-- A module at rest may enter S1; one with a running partition refuses, and a port that does not own it may not ask; a deferred
request; entries 240 ns old, with a source held and without; wakes of S1 and S2; trips; a schedule, free and armed. -/
theorem test_PowerStates :
    let s := withPart { runs with run := .loaded }
    let h := ({ s with pwr := { request := some { target := 3, deferred := [(2, 1)] } } } : State)
    let e (t : Nat) (l : List WakeSource) : State := { s with pwr := { entry := some (t, 0), level := l } }
    let z (p : PowerState) (u : Nat) : State := { s with pwr := { state := p, waking := some (u, .wakeN) }, clk := { wall := usec 200000 } }
    s.writeReaches .portA Reg.pwrCtrl = true ∧ s.mayPower .portA = true ∧ (s.setReg (Reg.prtOwner 0) 2).mayPower .portA = false ∧
      s.asleep = false ∧ 1 ≤ s.rf Reg.pwrCtrl 10 4 ∧
      (∀ b, b < 7 → s.answer 3 b = .ack) ∧ (withPart runs).answer 3 0 = .refuse 0 0 ∧
      (∀ d ∈ [((2 : Nat), (1 : Nat))], h.answerNow { target := 3, deferred := [(2, 1)] } d.1 = .ack) ∧
      h.pwr.request = some { target := 3, deferred := [(2, 1)] } ∧
      0 + 288 ≤ s.clk.wall ∧ stateOf 3 = .s1 ∧ stateOf 4 = .s2 ∧ (e 5 []).pwr.entry = some (5, 0) ∧
      (e 3 [.pcie]).pwr.heldWake.toList ++ (e 3 [.pcie]).pwr.level = [.pcie] ∧ WakeSource.edge .pcie = false ∧
      s.boot.supplies = true ∧ (z .s1 0).pwr.waking = some (0, .wakeN) ∧
      0 + wakeTime (z .s1 0).pwr.state ≤ (z .s1 0).clk.wall ∧ 0 + wakeTime (z .s2 0).pwr.state ≤ (z .s2 0).clk.wall ∧
      (z .s2 (usec 200000)).clk.wall < usec 200000 + wakeTime (z .s2 0).pwr.state ∧ (z .s1 0).pending = [] ∧ (z .s1 0).toIssue = [] ∧
      s.threshold (s.rf Reg.pwrTherm 23 16) ≤ (0x7FFF : U16).toInt ∧ s.pwr.state ≠ .s3 ∧ s.mgt.job = none ∧
      s.writeReaches .portA Reg.pwrSched = true ∧ s.rf (Reg.pwrSched + 8) 4 4 = 0 ∧ s.freeCmp = some 0 ∧
      (s.setRf (Reg.pwrSched + 8) 4 4 1).rf (Reg.pwrSched + 8) 4 4 = 1 := by
  decide +kernel

/-- A request that the entropy source defers while it seeds the lanes, below the limit and at it (R404). -/
theorem test_PowerStates_deferred :
    let s := ({ withPart { runs with run := .loaded } with ent := { seeding := true } } : State)
    s.answer 3 5 = .defer ∧ (∀ b, b < 7 → s.answer 3 b = .ack ∨ s.answer 3 b = .defer) ∧
      s.answerNow { target := 3, deferred := [(5, 1)] } 5 = .defer ∧ 1 + 1 < s.rf Reg.pwrCtrl 10 4 ∧
      (s.setRf Reg.pwrCtrl 10 4 1).rf Reg.pwrCtrl 10 4 ≤ 1 := by
  decide +kernel

/-- A governor window of 100 µs and one that is not over; a governor below its peak; sensors above THROT and well below it; a
thermal look that is due and one that is not; TSYNC; the PLL. -/
theorem test_Clocking :
    let s := withPart runs
    let slow := ({ s with pwr := { gov := 600 } } : State)
    let cool := ({ s with pwr := { thN := 1000, thS := 1000, coolN := 9, coolS := 3, temps := (List.range 71).map (fun i => (i, 100)) } } : State)
    s.pwr.windowAt + usec 100 ≤ s.clk.wall ∧ ({ s with clk := {} } : State).clk.wall < s.pwr.windowAt + usec 100 ∧
      s.rf Reg.pwrGov 9 0 < 1023 ∧ 600 < s.pwr.gov ∧ 0 + slow.rf Reg.pwrGov 27 20 < slow.rf Reg.pwrGov 9 0 ∧
      slow.pwr.gov < slow.rf Reg.pwrGov 39 28 ∧ slow.pwr.lastStep = none ∧ slow.pwr.gov ≤ 600 ∧ s.rf Reg.pwrGov 19 10 < 1023 ∧
      0 ≤ s.rf Reg.pwrGov 19 10 ∧ s.throttleDue .north = true ∧
      ({ s with pwr := { stepN := some s.clk.wall } } : State).throttleDue .north = false ∧
      70 ∈ throttleSensors .north ∧ ({ s with pwr := { temps := [(70, 2000)] } } : State).temp 70 = 2000 ∧
      s.threshold (s.rf Reg.pwrTherm 15 8) ≤ 2000 ∧
      (∀ i ∈ throttleSensors .north, cool.temp i < cool.threshold (cool.rf Reg.pwrTherm 15 8)) ∧
      (∀ i ∈ throttleSensors .south, cool.temp i < cool.threshold (cool.rf Reg.pwrTherm 15 8)) ∧
      (∀ i, i < 48 → cool.temp i < cool.threshold (cool.rf Reg.pwrTherm 15 8) - 48) ∧ cool.pwr.thN < 1200 ∧ cool.pwr.thS < 1200 ∧
      9 ≤ cool.pwr.coolN ∧ cool.pwr.coolS < 9 ∧ 1200 ≤ s.pwr.thN ∧
      s.writeReaches .portA Reg.pwrTsync = true ∧ (2 : BitVec 2).toNat ≠ 3 ∧
      s.rf Reg.pwrTsync 1 0 ≠ 1 ∧ (s.setRf Reg.pwrTsync 1 0 1).rf Reg.pwrTsync 1 0 = 1 ∧
      (s.setRf Reg.pwrClk 41 41 1).rf Reg.pwrClk 41 41 = 1 := by
  decide +kernel

/-! ## Witnesses: the whole module; reset -/

/-- An empty queue while no tick waits, and while partition 0 has begun one; the premises of the invariants at reset. -/
theorem test_IdleStep :
    (withPart runs).pending = [] ∧ (withPart runs).toIssue = [] ∧ (withPart { runs with inTick := true }).toIssue = [0] := by
  decide +kernel

theorem test_reset : State.reset.memOk = true ∧ State.reset.flt.queue.length ≤ 64 ∧ State.reset.pending = [] ∧
    State.reset.reg Reg.gtbRate = 0x20000 := by decide +kernel

/-- A NOP runs in front of a waiting WAIT; both are commands of a core that does not issue, and change nothing. -/
theorem test_step : step { State.reset with pending := [.nop c0 .control 0, .wait c0 0x10000001] } =
    .next { State.reset with pending := [.wait c0 0x10000001] } := by rfl

/-- HALT of a running core asks for the mode at the tick's end, and passes its word. -/
theorem test_halt : (match exec (.leafHalt c0 0x48000000) (withCore {}) with
    | .next t => (t.core 0).nextMode == some .halted && (t.core 0).next.pc == 1
    | _ => false) = true := by decide +kernel

/-- R107: the value 2^63 has carry counter 0x00 and entry bit 63 set, so it does not fit. -/
theorem test_entry : fld (BitVec.ofInt 72 (2 ^ 63)) 71 64 = 0 ∧ fld (BitVec.ofInt 72 (2 ^ 63)) 63 63 = 1 := by decide


end Sys2Proof.Tests
end

section
/-! PROOFS. The field engine's two stated rules: an exact entry fits by its value (R107), and a CLOSE that overlaps an
earlier one is an illegal word (R118). -/

namespace Sys2Proof.Machine

/-! ## The replay level of an exact entry -/

/-- Without a shift nothing is rounded off. -/
@[simp] theorem rneShift_zero (v : Int) : rneShift v 0 = v := by
  simp only [rneShift, rneDiv, Nat.pow_zero, Nat.div_one, Nat.mod_one, Nat.mul_zero, Nat.zero_lt_one, if_true]
  split <;> omega

/-- Level 0 is the first one tried: the value itself lies in 64 signed bits. -/
theorem exactLevel_eq_zero_iff (v : Int) : exactLevel v = some 0 ↔ -(2 ^ 63) ≤ v ∧ v < 2 ^ 63 := by
  have levels : List.range 3 = [0, 1, 2] := rfl
  rw [exactLevel, levels]
  by_cases h : -(2 ^ 63) ≤ v ∧ v < 2 ^ 63
  · rw [List.find?_cons_of_pos (by simpa using h)]
    exact iff_of_true rfl h
  · have later (p : Nat → Bool) : [1, 2].find? p ≠ some 0 := fun e => by simpa using List.mem_of_find?_eq_some e
    rw [List.find?_cons_of_neg (by simpa using h)]
    exact iff_of_false (later _) h

/-- A 72-bit value lies in 64 signed bits when its carry counter repeats entry bit 63. -/
theorem toInt_in_64_bits_iff (v : BitVec 72) : (-(2 ^ 63) ≤ v.toInt ∧ v.toInt < 2 ^ 63) ↔
    (fld v 71 64 = 0x00 ∧ fld v 63 63 = 0) ∨ (fld v 71 64 = 0xFF ∧ fld v 63 63 = 1) := by
  have range := v.isLt
  simp only [fld, bitsN_eq, BitVec.toInt_eq_toNat_cond]
  split <;> omega

/-- The field of an exact entry at level 0 is its value at the group's binary point, with nothing rounded. -/
theorem fieldValue_of_level_zero {v : BitVec 72} (p : Nat) (h : entryLevel false v = some 0) :
    fieldValue false p v = .fin (decide (v.toInt < 0)) v.toInt.natAbs (-(p : Int)) := by
  simp [fieldValue, h]

/-! ## What an illegal word leaves -/

theorem mode_of_issues {s : State} {n : Nat} (h : s.issues n = true) : (s.core n).mode = .running := by
  simp only [State.issues, Bool.and_eq_true, beq_iff_eq] at h
  exact h.1

/-- The report of a stop counts outside the cores' registers, so CORE_FAULT keeps what the stop recorded. -/
theorem reg_coreFault_stopWith (s : State) (n kind : Nat) (h : (s.core n).mode ≠ .faulted) :
    (s.stopWith n kind).reg (Reg.coreFault n) = BitVec.ofNat 64 (1 + kind * 2 ^ 8 +
      (s.core n).faultPc % 1024 * 2 ^ 16 + s.tickOf n % 2 ^ 32 * 2 ^ 32) := by
  have outside : Reg.coreFault n ∉ faultRegs := by simp only [faultRegs, List.mem_singleton, Reg.coreFault, Reg.fltStat]; omega
  obtain ⟨-, recorded, -⟩ := haltOn_spec s n kind
  rw [State.stopWith, keepsRegs_report _ _ _ _ _ _ outside, recorded h]

/-- CORE_FAULT.KIND names the kind of the first stop. -/
theorem coreFault_kind_stopWith (s : State) (n kind : Nat) (h : (s.core n).mode ≠ .faulted) :
    (s.stopWith n kind).rf (Reg.coreFault n) 15 8 = kind % 256 := by
  rw [State.rf, reg_coreFault_stopWith s n kind h, fld, bitsN_eq, BitVec.toNat_ofNat]
  omega

/-! ## A CLOSE that overlaps an earlier one -/

/-- A CLOSE with a batch due at or after the new batch-0 tick has not delivered its last batch before that tick, which
the legality check asks of every earlier CLOSE (R118). -/
theorem closeLegal_of_overlap {c : CoreId} {w : U32} {s : State} {d : CloseDue} (hd : d ∈ (s.core c).closes)
    (batches : 0 < d.entries.length) (due : s.tickOf c + 4 ≤ d.at_ + 4 + ceilDiv d.entries.length 64 - 1) :
    s.closeLegal c w = false := by
  have late : ¬ d.at_ + 4 + ceilDiv d.entries.length 64 ≤ s.tickOf c + 4 := by
    simp only [ceilDiv] at due ⊢
    omega
  have someLate : ((s.core c).closes.all
      fun d => decide (d.at_ + 4 + ceilDiv d.entries.length 64 ≤ s.tickOf c + 4)) = false :=
    List.all_eq_false.mpr ⟨d, hd, by simpa using late⟩
  simp [State.closeLegal, someLate]

theorem exec_close (c : CoreId) (w : U32) (s : State) : exec (.close c w) s = execClose c w s := rfl

/-- An issued CLOSE that is not legal stops its core as every illegal word does (R89). -/
theorem exec_close_illegal {c : CoreId} {w : U32} {s : State} (h : s.issues c = true) (k : s.closeLegal c w = false) :
    exec (.close c w) s = .next (s.illegal c) := by
  rw [exec_close, execClose, fieldOp, slotOp_illegal _ _ _ _ h k]

/-! ## The statements -/

/-- Settles O9: level 0 asks that the value lie in 64 signed bits, which the carry counter and entry bit 63 decide. -/
theorem entryFitsByValue : Obligations.EntryFitsByValue := fun v p =>
  ⟨(exactLevel_eq_zero_iff v.toInt).trans (toInt_in_64_bits_iff v), fieldValue_of_level_zero p⟩

/-- Settles O10: the overlap fails the legality check, and the stop of an illegal word drops the CLOSE. -/
theorem overlappingCloseIsIllegal : Obligations.OverlappingCloseIsIllegal := by
  intro c w s d issued hd batches due
  have running := mode_of_issues issued
  obtain ⟨hcore, hcores, -⟩ := stopWith_spec s c 0x22
  have stopped : (s.illegal c).core c = { (s.core c).dropWord with mode := .faulted } := hcore
  refine ⟨s.illegal c, exec_close_illegal issued (closeLegal_of_overlap hd batches due), ?_, ?_, ?_, ?_, hcores⟩
  · rw [stopped]
  · rw [stopped, CoreState.dropWord]
  · exact coreFault_kind_stopWith s c 0x22 (by simp [running])
  · rw [stopped, CoreState.dropWord]

end Sys2Proof.Machine
end

section
/-! PROOFS. The layout of a fault message (R353): its three fields are whole bytes of the word, so they stand at the same
places of the word's eight bytes wherever these are held little-endian. -/

namespace Sys2Proof

/-! ## Parts of a little-endian byte string -/

theorem drop_leBytes (k v off : Nat) : (leBytes k v).drop off = leBytes (k - off) (v / 256 ^ off) := by
  induction off generalizing k v with
  | zero => simp
  | succ off ih =>
    cases k with
    | zero => simp [leBytes]
    | succ k => rw [leBytes, List.drop_succ_cons, ih, Nat.add_sub_add_right, Nat.div_div_eq_div_mul, ← Nat.pow_succ']

theorem take_leBytes (k v len : Nat) : (leBytes k v).take len = leBytes (min len k) v := by
  induction len generalizing k v with
  | zero => simp [leBytes]
  | succ len ih =>
    cases k with
    | zero => rfl
    | succ k => rw [leBytes, List.take_succ_cons, ih, Nat.add_min_add_right, leBytes]

/-- Whole bytes of a number, read at their place, are its bits there (R5). -/
theorem leAt_leBytes {k off len : Nat} (v : Nat) (pos : 0 < len) (h : off + len ≤ k) :
    leAt (leBytes k v) off len = bitsN v (8 * (off + len) - 1) (8 * off) := by
  have base (n : Nat) : 256 ^ n = 2 ^ (8 * n) := by rw [Nat.pow_mul]
  rw [leAt, slice, drop_leBytes, take_leBytes, Nat.min_eq_left (by omega), leNat_leBytes, bitsN_eq, base, base]
  congr 2
  omega

/-- What follows a byte string does not count inside it. -/
theorem leAt_append_left {as : List Byte} {off len : Nat} (bs : List Byte) (h : off + len ≤ as.length) :
    leAt (as ++ bs) off len = leAt as off len := by
  rw [leAt, leAt, slice, slice, List.drop_append_of_le_length (by omega), List.take_append_of_le_length]
  rw [List.length_drop]
  omega

end Sys2Proof

namespace Sys2Proof.Machine

/-! ## The fields of a message -/

section
variable {src kind addr : Nat} (hs : src < 2 ^ 16) (hk : kind < 2 ^ 8) (ha : addr < 2 ^ 40)
include hs hk ha

theorem toNat_faultMsg : (faultMsg src kind addr).toNat = src * 2 ^ 48 + kind * 2 ^ 40 + addr := by
  rw [faultMsg, BitVec.toNat_ofNat]
  omega

theorem faultMsg_source : fld (faultMsg src kind addr) 63 48 = src := by
  rw [fld, toNat_faultMsg hs hk ha, bitsN_eq]
  omega

theorem faultMsg_kind : fld (faultMsg src kind addr) 47 40 = kind := by
  rw [fld, toNat_faultMsg hs hk ha, bitsN_eq]
  omega

theorem faultMsg_address : fld (faultMsg src kind addr) 39 0 = addr := by
  rw [fld, toNat_faultMsg hs hk ha, bitsN_eq]
  omega

/-- Bytes 0 to 4 of a message hold the address, byte 5 the kind and bytes 6 and 7 the source. -/
theorem leAt_leBytes_faultMsg :
    leAt (leBytes 8 (faultMsg src kind addr).toNat) 0 5 = addr ∧ leAt (leBytes 8 (faultMsg src kind addr).toNat) 5 1 = kind ∧
      leAt (leBytes 8 (faultMsg src kind addr).toNat) 6 2 = src :=
  ⟨(leAt_leBytes _ (by decide) (by decide)).trans (faultMsg_address hs hk ha),
    (leAt_leBytes _ (by decide) (by decide)).trans (faultMsg_kind hs hk ha),
    (leAt_leBytes _ (by decide) (by decide)).trans (faultMsg_source hs hk ha)⟩

end

/-! ## The structures that hold a message -/

/-- A log entry begins with its message (log 48). -/
theorem leAt_logEntry_message (m : FaultMsg) (time : U64) (start seq : Nat) {off len : Nat} (h : off + len ≤ 8) :
    leAt (logEntry m time start seq) off len = leAt (leBytes 8 m.msg.toNat) off len := by
  simp only [logEntry, List.append_assoc]
  exact leAt_append_left _ (by simpa using h)

/-- A read takes nothing out of the value of a register without rc fields. -/
theorem withRc_of_no_rc {n : RegName} (unit hi lo : Nat) (w v : U64) (h : ∀ f ∈ n.fields, f.acc ≠ .rc) :
    withRc n unit hi lo w v = v := by
  rw [withRc]
  exact List.foldlRecOn (motive := (· = v)) _ _ rfl fun u hu f hf => by rw [if_neg fun c => h f hf c.1, hu]

theorem readRc_value_of_no_rc (s : State) {n : RegName} (off unit hi lo : Nat) (v : U64) (h : ∀ f ∈ n.fields, f.acc ≠ .rc) :
    (s.readRc n off unit hi lo v).1 = v :=
  withRc_of_no_rc _ _ _ _ _ h

theorem regPlace_fltFirst : regPlace Reg.fltFirst = some ⟨.fltFirst, 0, 0⟩ := rfl

theorem regPlace_fltLastreset : regPlace Reg.fltLastreset = some ⟨.fltLastreset, 0, 0⟩ := rfl

section
variable (s : State) {off : Nat} (h : off = Reg.fltFirst ∨ off = Reg.fltLastreset)
include h

theorem messageReg_aligned : off / 8 * 8 = off ∧ off % 8 = 0 ∧ accessOk off 8 = true := by
  rcases h with rfl | rfl <;> decide

/-- FLT_FIRST and FLT_LASTRESET show what they store, to every reader and before publication too (R370). -/
theorem regSeen_messageReg (who : Requester) : s.regSeen who off = s.reg off := by
  have early : earlyRead off = true := by rcases h with rfl | rfl <;> rfl
  rw [State.regSeen, early, if_pos (by simp), State.regView]
  rcases h with rfl | rfl
  · rw [regPlace_fltFirst]
  · rw [regPlace_fltLastreset]

/-- A served read of FLT_FIRST or FLT_LASTRESET returns what it stores: its only field is ro. -/
theorem readEffects_messageReg (who : Requester) (size : Nat) : (s.readEffects who off size).1 = s.reg off := by
  obtain ⟨unit, -, -⟩ := messageReg_aligned h
  have plain (n : RegName) (c : Prop) [Decidable c] (u hi lo : Nat) (v : U64) (ro : ∀ f ∈ n.fields, f.acc ≠ .rc) :
      (if c then s.readRc n off u hi lo v else (v, s)).1 = v := by
    rw [apply_ite Prod.fst, readRc_value_of_no_rc s off u hi lo v ro, ite_self]
  rw [State.readEffects, unit, regSeen_messageReg s h]
  rcases h with rfl | rfl
  · rw [regPlace_fltFirst]
    exact plain .fltFirst _ _ _ _ _ (by decide)
  · rw [regPlace_fltLastreset]
    exact plain .fltLastreset _ _ _ _ _ (by decide)

/-- The Gatehouse's 8 B read of FLT_FIRST or FLT_LASTRESET returns the register's bytes, little-endian. -/
theorem readBytes_answerRead_messageReg :
    (s.answerRead .gatehouse off 8).readBytes = leBytes 8 (s.reg off).toNat := by
  obtain ⟨-, aligned, legal⟩ := messageReg_aligned h
  have word : BitVec.ofNat 64 (bitsN (s.reg off).toNat 63 0) = s.reg off := by
    rw [bitsN_eq, Nat.pow_zero, Nat.div_one, Nat.mod_eq_of_lt (s.reg off).isLt, BitVec.ofNat_toNat, BitVec.setWidth_eq]
  simp [State.answerRead, State.regRead, Requester.isPort, legal, aligned, readEffects_messageReg s h, word]

end

theorem exec_registerReadClear (who : Requester) (off : BitVec 25) (size : Nat) (s : State) :
    exec (.registerReadClear who off size) s = .next (s.answerRead who off.toNat size) := rfl

/-! ## The statement -/

/-- Settles O45: the log entry begins with the message's bytes, a read of FLT_FIRST or FLT_LASTRESET returns them, and the
three fields lie on byte borders. -/
theorem faultMessageLayout : Obligations.FaultMessageLayout := by
  intro src kind addr hs hk ha
  have bytes := leAt_leBytes_faultMsg hs hk ha
  refine ⟨faultMsg_source hs hk ha, faultMsg_kind hs hk ha, faultMsg_address hs hk ha, ?_, ?_⟩
  · intro m time start seq hm
    rwa [leAt_logEntry_message _ _ _ _ (by decide), leAt_logEntry_message _ _ _ _ (by decide),
      leAt_logEntry_message _ _ _ _ (by decide), hm]
  · intro s off hoff held
    refine ⟨_, exec_registerReadClear _ _ _ _, ?_⟩
    rwa [readBytes_answerRead_messageReg s hoff, held]

end Sys2Proof.Machine
end

section
/-! PROOFS. The accesses of BAR0 (R422): a wrong size or alignment has no effect; a read of the right ones returns its bytes
of the unit, and a write of an action entry stores the fields that may change. -/

namespace Sys2Proof

/-- A byte string is the bytes of its own number (R5). -/
theorem leBytes_leNat (bs : List Byte) : leBytes bs.length (leNat bs) = bs := by
  induction bs with
  | nil => rfl
  | cons b bs ih =>
    have high : (b.toNat + 256 * leNat bs) / 256 = leNat bs := by have := b.isLt; omega
    rw [List.length_cons, leBytes, leNat, high, ih]
    congr 1
    exact BitVec.eq_of_toNat_eq (by simp [Nat.mod_eq_of_lt b.isLt])

theorem leBytes_zero (k : Nat) : leBytes k 0 = zeros k := by
  induction k with
  | zero => rfl
  | succ k ih => rw [leBytes, Nat.zero_div, ih, zeros, zeros, List.replicate_succ]; rfl

/-- Whole bytes of a number, taken as a field, are those bytes of its string (R5). -/
theorem leBytes_bitsN {k off len : Nat} (v : Nat) (pos : 0 < len) (h : off + len ≤ k) :
    leBytes len (bitsN v (8 * (off + len) - 1) (8 * off)) = slice (leBytes k v) off len := by
  have length : (slice (leBytes k v) off len).length = len := by
    rw [slice, List.length_take, List.length_drop, length_leBytes]
    omega
  calc _ = leBytes (slice (leBytes k v) off len).length (leNat (slice (leBytes k v) off len)) := by
        rw [← leAt, leAt_leBytes v pos h, length]
    _ = _ := leBytes_leNat _

theorem bitsN_succ (v n : Nat) : bitsN v (n + 1) 0 = bitsN v n 0 + 2 ^ (n + 1) * bitsN v (n + 1) (n + 1) := by
  simp only [bitsN_eq, Nat.pow_zero, Nat.div_one, Nat.sub_zero, Nat.add_sub_cancel_left, Nat.pow_one]
  exact Nat.mod_pow_succ

/-- The lowest bits of a word, written one by one, read back together. -/
theorem fld_foldl_setFld (v : U64) (x : Nat) {n : Nat} (h : n < 64) :
    fld ((List.range (n + 1)).foldl (fun v i => setFld v i i (bitsN x i i)) v) n 0 = bitsN x n 0 := by
  have back (w : U64) {i : Nat} (hi : i < 64) : fld (setFld w i i (bitsN x i i)) i i = bitsN x i i := by
    rw [fld_setFld_self w i i _ (Nat.le_refl i) hi, Nat.mod_eq_of_lt (bitsN_lt x i i)]
  induction n with
  | zero => simpa [List.range_succ] using back v h
  | succ n ih =>
    have low := ih (by omega)
    rw [List.range_succ, List.foldl_append, List.foldl_cons, List.foldl_nil]
    generalize (List.range (n + 1)).foldl (fun v i => setFld v i i (bitsN x i i)) v = w at low
    calc fld (setFld w (n + 1) (n + 1) (bitsN x (n + 1) (n + 1))) (n + 1) 0
      _ = fld (setFld w (n + 1) (n + 1) (bitsN x (n + 1) (n + 1))) n 0 +
            2 ^ (n + 1) * fld (setFld w (n + 1) (n + 1) (bitsN x (n + 1) (n + 1))) (n + 1) (n + 1) := bitsN_succ _ n
      _ = bitsN x n 0 + 2 ^ (n + 1) * bitsN x (n + 1) (n + 1) := by
        rw [fld_setFld_other w _ _ _ (Nat.le_refl _) h (.inr (Nat.lt_succ_self n)), low, back w h]
      _ = bitsN x (n + 1) 0 := (bitsN_succ x n).symm

namespace Machine

/-! ## Sizes and alignments -/

theorem accessOk_iff (off size : Nat) : accessOk off size = true ↔ (size = 4 ∨ size = 8) ∧ off % size = 0 := by
  simp only [accessOk, Bool.or_eq_true, Bool.and_eq_true, beq_iff_eq]
  constructor
  · rintro (⟨rfl, h⟩ | ⟨rfl, h⟩)
    · exact ⟨.inl rfl, h⟩
    · exact ⟨.inr rfl, h⟩
  · rintro ⟨rfl | rfl, h⟩
    · exact .inl ⟨rfl, h⟩
    · exact .inr ⟨rfl, h⟩

/-- A taken access stays within its unit. -/
theorem access_in_unit {off size : Nat} (ok : accessOk off size = true) : 0 < size ∧ off % 8 + size ≤ 8 := by
  obtain ⟨rfl | rfl, h⟩ := (accessOk_iff off size).mp ok <;> omega

theorem exec_registerWrite (who : Requester) (off : BitVec 25) (size : Nat) (value : U64) (s : State) :
    exec (.registerWrite who off size value) s = .next (s.regWrite who off.toNat size value.toNat) := rfl

theorem regWrite_refused {off size : Nat} (bad : accessOk off size = false) (s : State) (who : Requester) (value : Nat) :
    s.regWrite who off size value = s := by
  simp [State.regWrite, bad]

theorem answerRead_refused {off size : Nat} (bad : accessOk off size = false) {s : State} (awake : s.asleep = false)
    (who : Requester) : s.answerRead who off size = { s with readData := 0, readBytes := zeros size } := by
  simp [State.answerRead, State.regRead, awake, bad, leBytes_zero]

/-! ## Reads -/

/-- A port's taken read returns the bytes it names of the unit that the read shows. -/
theorem answerRead_taken {off size : Nat} (ok : accessOk off size = true) {s t : State} (awake : s.asleep = false)
    {who : Requester} (port : who.isPort = true) {v : U64} (shown : s.readEffects who off size = (v, t)) :
    ∃ d, s.answerRead who off size = { t with readData := d, readBytes := slice (leBytes 8 v.toNat) (off % 8) size } ∧
      d.toNat = leNat (slice (leBytes 8 v.toNat) (off % 8) size) := by
  obtain ⟨pos, inside⟩ := access_in_unit ok
  have inner : ¬ (who = .hall ∨ who = .bar4) := by rintro (rfl | rfl) <;> cases port
  have field : bitsN v.toNat (off % 8 * 8 + 8 * size - 1) (off % 8 * 8) =
      bitsN v.toNat (8 * (off % 8 + size) - 1) (8 * (off % 8)) := by congr 1 <;> omega
  have fits : bitsN v.toNat (8 * (off % 8 + size) - 1) (8 * (off % 8)) < 2 ^ 64 :=
    (bitsN_lt ..).trans_le (Nat.pow_le_pow_right (by decide) (by omega))
  have read : s.regRead who off size =
      (some (BitVec.ofNat 64 (bitsN v.toNat (8 * (off % 8 + size) - 1) (8 * (off % 8)))), t) := by
    simp [State.regRead, awake, ok, inner, shown, field]
  refine ⟨BitVec.ofNat 64 (bitsN v.toNat (8 * (off % 8 + size) - 1) (8 * (off % 8))), ?_, ?_⟩
  · rw [State.answerRead, read]
    dsimp only
    rw [BitVec.toNat_ofNat, Nat.mod_eq_of_lt fits, leBytes_bitsN _ pos inside]
  · rw [BitVec.toNat_ofNat, Nat.mod_eq_of_lt fits, ← leAt_leBytes _ pos inside, leAt]

/-- A read of rc fields changes its own unit and the record of the present cycle. -/
theorem readRc_state (s : State) (n : RegName) (off unit hi lo : Nat) (v : U64) : ∃ now,
    (s.readRc n off unit hi lo v).2 =
      { s.setReg off (withRc n unit hi lo (s.regNow off).fresh (s.reg off)) with now := now } := by
  rw [State.readRc]
  split
  · exact ⟨_, rfl⟩
  · exact ⟨s.now, rfl⟩

theorem touches_readRc (s : State) (n : RegName) (off unit hi lo : Nat) (v : U64) :
    OnlyTouches [.regs] s (s.readRc n off unit hi lo v).2 := by
  obtain ⟨now, state⟩ := readRc_state s n off unit hi lo v
  intro p hp
  rw [state]
  cases p <;> simp_all [Piece.same]

/-- A read changes no register when the one it reads has no rc fields. -/
theorem keepsRegs_readRc_of_no_rc (s : State) {n : RegName} (off unit hi lo : Nat) (v : U64)
    (h : ∀ f ∈ n.fields, f.acc ≠ .rc) : KeepsRegs [] s (s.readRc n off unit hi lo v).2 := by
  obtain ⟨now, state⟩ := readRc_state s n off unit hi lo v
  intro o _
  rw [state, withRc_of_no_rc _ _ _ _ _ h]
  exact (State.reg_setReg s o off _).trans (by split <;> simp_all)

/-- GEN_DET_CLASS shows what it stores, to every reader and before publication too (R370); a read of it changes no register. -/
theorem readEffects_genDetClass (s : State) (who : Requester) {off : Nat} (unit : off / 8 * 8 = Reg.genDetClass) (size : Nat) :
    ∃ t, s.readEffects who off size = (s.reg Reg.genDetClass, t) ∧ KeepsRegs [] s t ∧ OnlyTouches [.regs] s t := by
  have place : regPlace Reg.genDetClass = some ⟨.genDetClass, 0, 0⟩ := rfl
  have early : earlyRead Reg.genDetClass = true := rfl
  have ro : ∀ f ∈ RegName.genDetClass.fields, f.acc ≠ .rc := by decide
  have shown : s.regSeen who Reg.genDetClass = s.reg Reg.genDetClass := by
    rw [State.regSeen, early, if_pos (by simp), State.regView, place]
  rw [State.readEffects, unit, shown, place]
  dsimp only
  split
  · exact ⟨_, Prod.ext (readRc_value_of_no_rc s _ _ _ _ _ ro) rfl,
      keepsRegs_readRc_of_no_rc s _ _ _ _ (s.reg Reg.genDetClass) ro, touches_readRc s _ _ _ _ _ (s.reg Reg.genDetClass)⟩
  · exact ⟨s, rfl, .refl _ s, .refl _ s⟩

/-! ## Writes of an action entry -/

/-- A row that ends at or below an offset does not place it. -/
theorem RegRow.place_eq_none_of_end_le {r : RegRow} {off : Nat} (pos : 0 < r.stride) (h : r.base + r.stride * r.count ≤ off) :
    r.place off = none := by
  have beyond : r.count ≤ (off - r.base) / r.stride := by
    rw [Nat.le_div_iff_mul_le pos, Nat.mul_comm]
    omega
  rw [RegRow.place, if_neg (by omega)]

/-- The index places every action entry: the 104 rows before FLT_ACTION's end at or below its first. -/
theorem regPlace_fltAction {k : Nat} (h : k < 256) : regPlace (Reg.fltAction k) = some ⟨.fltAction, k, 0⟩ := by
  have below : ∀ r ∈ regIndex.take 104, 0 < r.stride ∧ r.base + r.stride * r.count ≤ 0x190800 := by decide
  have rest : regIndex.drop 104 = ⟨0x190800, 8, 256, .fltAction⟩ :: regIndex.drop 105 := rfl
  have skipped : (regIndex.take 104).findSome? (fun r => r.place (Reg.fltAction k)) = none :=
    List.findSome?_eq_none_iff.mpr fun r hr =>
      RegRow.place_eq_none_of_end_le (below r hr).1 ((below r hr).2.trans (Nat.le_add_right ..))
  have here : (⟨0x190800, 8, 256, .fltAction⟩ : RegRow).place (Reg.fltAction k) = some ⟨.fltAction, k, 0⟩ := by
    simp [RegRow.place, RegName.units, h]
  rw [regPlace, ← List.take_append_drop 104 regIndex, List.findSome?_append, skipped, rest, List.findSome?_cons, here]
  rfl

/-- A write that covers the lowest nine bits of an action entry whose fields may change stores all of them (R364). -/
theorem fld_stored_fltAction (s : State) (w : UnitWrite) {k : Nat} (free : fld (BitVec.ofNat 64 (actionFixed k)) 15 14 = 2)
    (lo : w.lo = 0) (hi : 8 ≤ w.hi) : fld (s.stored w ⟨.fltAction, k, 0⟩) 8 0 = bitsN w.value 8 0 := by
  have accepted (i x : Nat) (v : U64) : s.accepts w ⟨.fltAction, k, 0⟩ i x v = true := by simp [State.accepts, free]
  have written {i : Nat} (h : i ≤ 8) : w.get i i = some (bitsN w.value i i) := by
    rw [UnitWrite.get, if_pos]
    simp only [UnitWrite.covers, decide_eq_true_eq]
    omega
  have each : s.stored w ⟨.fltAction, k, 0⟩ =
      (List.range 9).foldl (fun v i => setFld v i i (bitsN w.value i i)) (s.reg w.unit) := by
    simp [State.stored, RegName.fields, accepted, written, List.range_succ]
  rw [each]
  exact fld_foldl_setFld _ _ (by decide)

/-- A write of an action entry that no later requester of its cycle has written stores its fields, and changes nothing else
but the record of the cycle's writes (R364). -/
theorem actionWrite_spec (s : State) (w : UnitWrite) {k : Nat} (free : fld (BitVec.ofNat 64 (actionFixed k)) 15 14 = 2)
    (lo : w.lo = 0) (hi : 8 ≤ w.hi) (last : ∀ y, s.actionWrites k = some y → y.rank ≤ Requester.rank w.who) :
    (s.actionWrite w ⟨.fltAction, k, 0⟩).rf w.unit 8 0 = bitsN w.value 8 0 ∧
      KeepsRegs [w.unit] s (s.actionWrite w ⟨.fltAction, k, 0⟩) ∧
      OnlyTouches [.regs, .flt] s (s.actionWrite w ⟨.fltAction, k, 0⟩) := by
  have stands : (s.actionWrites k).any (fun x => decide (Requester.rank w.who < x.rank)) = false := by
    cases earlier : s.actionWrites k with
    | none => rfl
    | some y => simpa using last y earlier
  have value := fld_stored_fltAction s w free lo hi
  simp only [State.actionWrite, stands, Bool.false_eq_true, if_false]
  refine ⟨?_, keepsRegs_setReg s w.unit _, fun p hp => ?_⟩
  · rw [← value]
    exact congrArg (fld · 8 0) (State.reg_setReg_self s w.unit _)
  · have := touches_setReg s w.unit (s.stored w ⟨.fltAction, k, 0⟩) p
    cases p <;> simp_all [Piece.same, State.storeUnit]

/-- A taken write of an action entry that reaches it covers the entry's bits from 0 on (R423). -/
theorem regWrite_fltAction {s : State} {who : Requester} {k size : Nat} (hk : k < 256)
    (reaches : s.writeReaches who (Reg.fltAction k) = true) (ok : accessOk (Reg.fltAction k) size = true) (value : Nat) :
    s.regWrite who (Reg.fltAction k) size value = s.actionWrite
      ⟨who, Reg.fltAction k, 0, 8 * size - 1, value % 2 ^ (8 * size)⟩ ⟨.fltAction, k, 0⟩ := by
  obtain ⟨unit, start⟩ : Reg.fltAction k / 8 * 8 = Reg.fltAction k ∧ Reg.fltAction k % 8 = 0 := by
    simp only [Reg.fltAction]
    omega
  simp [State.regWrite, reaches, ok, unit, start, regPlace_fltAction hk, State.unitWrite]

/-! ## The statement -/

/-- Settles O44: the access check is R422's condition, and an access that it lets through reaches its bytes of one unit. -/
theorem accessSizesTaken : Obligations.AccessSizesTaken := by
  intro p off size value s who hwho awake
  have port : who.isPort = true := by subst hwho; cases p <;> rfl
  refine ⟨fun refused => ?_, fun size48 aligned published => ?_⟩
  · have bad : accessOk off.toNat size = false := by rwa [← Bool.not_eq_true, accessOk_iff]
    rw [exec_registerWrite, regWrite_refused bad, exec_registerReadClear, answerRead_refused bad awake]
    exact ⟨rfl, rfl⟩
  have ok : accessOk off.toNat size = true := (accessOk_iff _ _).mpr ⟨size48, aligned⟩
  refine ⟨fun ⟨k, place, hk⟩ => ?_, fun k hk place free last => ?_⟩
  · have unit : off.toNat / 8 * 8 = Reg.genDetClass := by rw [place]; simp only [Reg.genDetClass]; omega
    obtain ⟨t, shown, regs, touched⟩ := readEffects_genDetClass s who unit size
    obtain ⟨d, answer, data⟩ := answerRead_taken ok awake port shown
    refine ⟨_, exec_registerReadClear who off size s, ?_⟩
    rw [answer]
    refine ⟨rfl, data, regs, fun x hx => ?_⟩
    have := touched x
    cases x <;> simp_all [Piece.same]
  · have reaches : s.writeReaches who (Reg.fltAction k) = true := by
      subst hwho; cases p <;> simp [State.writeReaches, awake, published]
    have low : bitsN (value.toNat % 2 ^ (8 * size)) 8 0 = fld value 8 0 := by
      rw [fld, bitsN_eq, bitsN_eq]
      rcases size48 with rfl | rfl <;> omega
    have covered : 8 ≤ 8 * size - 1 := by omega
    rw [place] at ok
    refine ⟨_, exec_registerWrite who off size value s, ?_⟩
    rw [place, regWrite_fltAction hk reaches ok, ← low]
    exact actionWrite_spec s _ free rfl covered last

end Machine
end Sys2Proof
end


section
/-! PROOFS. The frame of every operation: which pieces of the state it can touch, with the two invariants that every operation
keeps, of the memories and of the collector's input queue. -/

namespace Sys2Proof.Machine

/-- A state follows another within some pieces: no other piece has changed, the memories have kept their canonical form, and the
collector's input queue its length of 64 entries. -/
structure Within (ps : List Piece) (s t : State) : Prop where
  touches : OnlyTouches ps s t
  memOk   : s.memOk = true → t.memOk = true
  queue   : s.flt.queue.length ≤ 64 → t.flt.queue.length ≤ 64

namespace Within

variable {s t u : State} {ps qs : List Piece}

theorem refl (ps : List Piece) (s : State) : Within ps s s := ⟨.refl ps s, id, id⟩

theorem mono (h : Within ps s t) (k : ps ⊆ qs := by decide) : Within qs s t :=
  ⟨h.touches.mono fun _ hp => k hp, h.memOk, h.queue⟩

theorem trans (h : Within ps s t) (k : Within ps t u) : Within ps s u :=
  ⟨h.touches.trans k.touches, k.memOk ∘ h.memOk, k.queue ∘ h.queue⟩

/-- An operation of few pieces after others. -/
theorem after (k : Within qs t u) (h : Within ps s t) (sub : qs ⊆ ps := by decide) : Within ps s u := h.trans (k.mono sub)

theorem ite {c : Prop} [Decidable c] (h : Within ps s t) (k : Within ps s u) : Within ps s (if c then t else u) := by
  split
  · exact h
  · exact k

theorem foldl {α : Type} {f : State → α → State} (step : ∀ t a, Within ps t (f t a)) (l : List α) (h : Within ps s t) :
    Within ps s (l.foldl f t) := by
  induction l generalizing t with
  | nil => exact h
  | cons a l ih => exact ih (h.trans (step t a))

/-- What touches neither a memory nor the queue of messages keeps their invariants. -/
theorem of_touches (h : OnlyTouches ps s t) (mem : ∀ p ∈ [Piece.mem, .carry, .hostA, .hostB, .flash, .flt], p ∉ ps) :
    Within ps s t := by
  refine ⟨h, memOk_of_touches h ⟨?_, ?_, ?_, ?_, ?_⟩, fun hq => ?_⟩
  · exact mem _ (by decide)
  · exact mem _ (by decide)
  · exact mem _ (by decide)
  · exact mem _ (by decide)
  · exact mem _ (by decide)
  · have same : t.flt = s.flt := h .flt (mem _ (by decide))
    rwa [same]

/-- The state of a pair that an operation has answered. -/
theorem of_pair {α : Type} {p : α × State} {a : α} (h : Within ps s p.2) (e : p = (a, t)) : Within ps s t := by
  subst e
  exact h

end Within

/-! ## One piece replaced -/

section
variable (s : State)

theorem within_clk (x : Clocks) : Within [.clk] s { s with clk := x } :=
  .of_touches (fun p hp => by cases p <;> simp_all [Piece.same]) (by decide)

theorem within_regs (x : Table U64) : Within [.regs] s { s with regs := x } :=
  .of_touches (fun p hp => by cases p <;> simp_all [Piece.same]) (by decide)

theorem within_now (x : Table (Option RegNow)) : Within [.regs] s { s with now := x } :=
  .of_touches (fun p hp => by cases p <;> simp_all [Piece.same]) (by decide)

theorem within_readData (x : U64) : Within [.readData] s { s with readData := x } :=
  .of_touches (fun p hp => by cases p <;> simp_all [Piece.same]) (by decide)

theorem within_readBytes (x : List Byte) : Within [.readBytes] s { s with readBytes := x } :=
  .of_touches (fun p hp => by cases p <;> simp_all [Piece.same]) (by decide)

theorem within_sramErr (x : Table Nat) : Within [.sramErr] s { s with sramErr := x } :=
  .of_touches (fun p hp => by cases p <;> simp_all [Piece.same]) (by decide)

theorem within_dramErr (x : Table Nat) : Within [.dramErr] s { s with dramErr := x } :=
  .of_touches (fun p hp => by cases p <;> simp_all [Piece.same]) (by decide)

theorem within_fuse (x : Fuses) : Within [.fuse] s { s with fuse := x } :=
  .of_touches (fun p hp => by cases p <;> simp_all [Piece.same]) (by decide)

theorem within_boot (x : Boot) : Within [.boot] s { s with boot := x } :=
  .of_touches (fun p hp => by cases p <;> simp_all [Piece.same]) (by decide)

theorem within_cores (x : Table CoreState) : Within [.cores] s { s with cores := x } :=
  .of_touches (fun p hp => by cases p <;> simp_all [Piece.same]) (by decide)

theorem within_lanes (x : Table LaneGen) : Within [.lanes] s { s with lanes := x } :=
  .of_touches (fun p hp => by cases p <;> simp_all [Piece.same]) (by decide)

theorem within_parts (x : Table Partition) : Within [.parts] s { s with parts := x } :=
  .of_touches (fun p hp => by cases p <;> simp_all [Piece.same]) (by decide)

theorem within_chans (x : Table Channel) : Within [.chans] s { s with chans := x } :=
  .of_touches (fun p hp => by cases p <;> simp_all [Piece.same]) (by decide)

theorem within_edge (x : EdgeCycle) : Within [.edge] s { s with edge := x } :=
  .of_touches (fun p hp => by cases p <;> simp_all [Piece.same]) (by decide)

theorem within_hall (x : Hall) : Within [.hall] s { s with hall := x } :=
  .of_touches (fun p hp => by cases p <;> simp_all [Piece.same]) (by decide)

theorem within_rings (x : Table RingPair) : Within [.rings] s { s with rings := x } :=
  .of_touches (fun p hp => by cases p <;> simp_all [Piece.same]) (by decide)

theorem within_descs (x : List Desc) : Within [.descs] s { s with descs := x } :=
  .of_touches (fun p hp => by cases p <;> simp_all [Piece.same]) (by decide)

theorem within_sems (x : Table Semaphore) : Within [.sems] s { s with sems := x } :=
  .of_touches (fun p hp => by cases p <;> simp_all [Piece.same]) (by decide)

theorem within_ent (x : Entropy) : Within [.ent] s { s with ent := x } :=
  .of_touches (fun p hp => by cases p <;> simp_all [Piece.same]) (by decide)

theorem within_mgt (x : Gatehouse) : Within [.mgt] s { s with mgt := x } :=
  .of_touches (fun p hp => by cases p <;> simp_all [Piece.same]) (by decide)

theorem within_pwr (x : Power) : Within [.pwr] s { s with pwr := x } :=
  .of_touches (fun p hp => by cases p <;> simp_all [Piece.same]) (by decide)

theorem within_msix (x : List (Port × Nat)) : Within [.msix] s { s with msix := x } :=
  .of_touches (fun p hp => by cases p <;> simp_all [Piece.same]) (by decide)

theorem within_msixTable (x : Table Byte) : Within [.msixTable] s { s with msixTable := x } :=
  .of_touches (fun p hp => by cases p <;> simp_all [Piece.same]) (by decide)

theorem within_msixHeld (x : List (Port × Nat)) : Within [.msix] s { s with msixHeld := x } :=
  .of_touches (fun p hp => by cases p <;> simp_all [Piece.same]) (by decide)

theorem within_pending (x : List Instr) : Within [.pending] s { s with pending := x } :=
  .of_touches (fun p hp => by cases p <;> simp_all [Piece.same]) (by decide)

/-- A change of the collector's records that leaves its input queue no longer. -/
theorem within_flt (x : Faults) (h : s.flt.queue.length ≤ 64 → x.queue.length ≤ 64 := by exact id) :
    Within [.flt] s { s with flt := x } :=
  ⟨fun p hp => by cases p <;> simp_all [Piece.same], id, h⟩

end

end Sys2Proof.Machine
end

section
/-! PROOFS. The frame lemma of each operation of the model: the pieces it can touch, with the two invariants. -/

namespace Sys2Proof.Machine

-- One theorem after another: the many small lemmas at once would need too many threads.
set_option Elab.async false

theorem within_setReg (s : State) (off : Nat) (v : U64) : Within [.regs] s (s.setReg off v) := (within_regs ..).mono

theorem within_setRf (s : State) (off hi lo v : Nat) : Within [.regs] s (s.setRf off hi lo v) := (within_setReg ..).mono

theorem within_noteEvent (s : State) (off hi lo v : Nat) : Within [.regs] s (s.noteEvent off hi lo v) := (within_now ..).mono

theorem within_raise (s : State) (off hi lo v : Nat) : Within [.regs] s (s.raise off hi lo v) :=
  (within_setRf ..).after ((within_noteEvent ..).mono)

theorem within_count (s : State) (off hi lo n : Nat) : Within [.regs] s (s.count off hi lo n) :=
  (within_setRf ..).after ((within_noteEvent ..).mono)

theorem within_peak (s : State) (off hi lo v : Nat) : Within [.regs] s (s.peak off hi lo v) :=
  (within_setRf ..).after ((within_noteEvent ..).mono)

theorem within_setCore (s : State) (n : Nat) (c : CoreState) : Within [.cores] s (s.setCore n c) := (within_cores ..).mono

theorem within_updCore (s : State) (n : Nat) (f : CoreState → CoreState) : Within [.cores] s (s.updCore n f) :=
  (within_setCore ..).mono

theorem within_setPart (s : State) (q : Nat) (p : Partition) : Within [.parts] s (s.setPart q p) := (within_parts ..).mono

theorem within_updPart (s : State) (q : Nat) (f : Partition → Partition) : Within [.parts] s (s.updPart q f) :=
  (within_setPart ..).mono

theorem within_updChan (s : State) (c : Nat) (f : Channel → Channel) : Within [.chans] s (s.updChan c f) :=
  (within_chans ..).mono

theorem within_setSem (s : State) (n : Nat) (x : Semaphore) : Within [.sems] s (s.setSem n x) := (within_sems ..).mono

theorem within_noRoom (s : State) (m : FaultMsg) : Within [.regs, .flt] s (s.noRoom m) :=
  .ite ((within_count ..).mono) ((within_flt ..).mono)

theorem within_enterQueue (s : State) (m : FaultMsg) : Within [.regs, .flt] s (s.enterQueue m) where
  touches := touches_enterQueue s m
  memOk h := memOk_of_touches (touches_enterQueue s m) (by decide) h
  queue _ := by
    rw [enterQueue_queue, List.length_take]
    exact Nat.min_le_left _ _

theorem within_report (s : State) (src kind addr tag : Nat) : Within [.regs, .flt] s (s.report src kind addr tag) :=
  (within_enterQueue ..).mono

theorem within_wr (s : State) (a : Nat) (bs : List Byte) : Within [.mem] s (s.wr a bs) :=
  ⟨touches_wr s a bs, memOk_wr s a bs, id⟩

theorem within_clearGranules (s : State) (gs : List Nat) : Within [.sramErr] s (s.clearGranules gs) :=
  (within_sramErr ..).mono

theorem within_reportCe (s : State) (n : Nat) (gs : List Nat) : Within [.regs, .flt] s (s.reportCe n gs) :=
  .foldl (fun _ _ => (within_report ..).mono) _ (.refl _ _)

theorem within_wrSram (s : State) (n a : Nat) (bs : List Byte) : Within [.regs, .mem, .sramErr,
  .flt] s (s.wrSram n a bs) := by
  dsimp only [State.wrSram]
  split
  · exact (within_report ..).mono
  · exact (within_clearGranules ..).after ((within_wr ..).after ((within_reportCe ..).mono))

theorem within_dramCeAt (s : State) (tag k : Nat) : Within [.regs, .flt] s (s.dramCeAt tag k) :=
  (within_report ..).after ((within_count ..).mono)

theorem within_dramUeAt (s : State) (tag k : Nat) : Within [.regs, .flt] s (s.dramUeAt tag k) :=
  (within_report ..).after ((within_count ..).mono)

theorem within_dramRead (s : State) (tag a n : Nat) : Within [.regs, .flt] s (s.dramRead tag a n) := by
  dsimp only [State.dramRead]
  split
  · exact (within_dramUeAt ..).after (.foldl (fun _ _ => (within_dramCeAt ..).mono) _ (.refl _ _))
  · exact .foldl (fun _ _ => (within_dramCeAt ..).mono) _ (.refl _ _)

theorem within_noteWrite (s : State) (a n : Nat) : Within [.parts] s (s.noteWrite a n) := (within_parts ..).mono

theorem within_wrDram (s : State) (tag a : Nat) (bs : List Byte) :
    Within [.regs, .mem, .dramErr, .parts, .flt] s (s.wrDram tag a bs) :=
  .ite ((within_wr ..).after ((within_dramErr ..).after (.foldl (fun _ _ => (within_dramUeAt ..).mono) _ (.foldl (fun _ _ =>
    (within_dramCeAt ..).mono) _ ((within_noteWrite ..).mono))))) (.foldl (fun _ _ => .ite (.refl _ _)
    ((within_wr ..).mono)) _ ((within_dramErr ..).after (.foldl (fun _ _ => (within_dramUeAt ..).mono) _ (.foldl (fun _ _ =>
    (within_dramCeAt ..).mono) _ ((within_noteWrite ..).mono)))))

theorem within_interrupt (s : State) (p : Port) (v : Nat) : Within [.msix] s (s.interrupt p v) :=
  .ite (.refl _ _) (.ite (.ite (.refl _ _) ((within_msixHeld ..).mono)) ((within_msix ..).mono))

theorem within_assertStop (s : State) (n : Nat) : Within [.parts] s (s.assertStop n) := by
  dsimp only [State.assertStop]
  split
  · exact (within_updPart ..).mono
  · exact .refl _ _

theorem within_haltOn (s : State) (n kind : Nat) : Within [.regs, .cores, .parts] s (s.haltOn n kind) :=
  (within_assertStop ..).after (.ite ((within_setCore ..).mono)
    ((within_raise ..).after ((within_setReg ..).after ((within_setCore ..).mono))))

theorem within_stopWith (s : State) (n kind : Nat) : Within [.regs, .cores, .parts, .flt] s (s.stopWith n kind) :=
  (within_report ..).after ((within_haltOn ..).mono)

theorem within_illegal (s : State) (n : Nat) : Within [.regs, .cores, .parts, .flt] s (s.illegal n) :=
  (within_stopWith ..).mono

theorem within_conflict (s : State) (n : Nat) : Within [.regs, .cores, .parts, .flt] s (s.conflict n) :=
  (within_stopWith ..).mono

theorem within_coreRead (s : State) (n a len : Nat) : Within [.regs, .cores, .parts, .flt] s ((s.coreRead n a len).2) := by
  dsimp only [State.coreRead]
  split
  · exact (within_report ..).after ((within_haltOn ..).after ((within_reportCe ..).mono))
  · exact (within_reportCe ..).mono

theorem within_tileRead (s : State) (n : Nat) (g : ℤ) (count : Nat) :
    Within [.regs, .cores, .parts, .flt] s ((s.tileRead n g count).2) := (within_coreRead ..).mono

theorem within_advance (s : State) (n k : Nat) (go : Bool) : Within [.cores] s (s.advance n k go) := (within_updCore ..).mono

theorem within_setLive (s : State) (n : Nat) (f : CoreLive → CoreLive) : Within [.cores] s (s.setLive n f) :=
  (within_updCore ..).mono

theorem Within.withFe {ps : List Piece} {s : State} {n : Nat} {f : State → State} (h : ∀ t, Within ps t (f t))
    (sub : [.regs, .cores, .parts, .flt] ⊆ ps := by decide) : Within ps s (s.withFe n f) := by
  unfold State.withFe
  split
  · exact (within_illegal s n).mono sub
  · exact .trans ((within_updCore ..).mono fun _ hp => sub (by simp_all)) (h _)

theorem Within.withLink {ps : List Piece} {s : State} {n : Nat} {f : State → State} (h : ∀ t, Within ps t (f t))
    (sub : [.regs, .cores, .parts, .flt] ⊆ ps := by decide) : Within ps s (s.withLink n f) := by
  unfold State.withLink
  split
  · exact (within_illegal s n).mono sub
  · exact .trans ((within_updCore ..).mono fun _ hp => sub (by simp_all)) (h _)

theorem Within.slotOp {ps : List Piece} {s : State} {n : Nat} {legal : Bool} {f : State → State}
    (h : ∀ t, Within ps t (f t)) (sub : [.regs, .cores, .parts, .flt] ⊆ ps := by decide) :
    ∃ t, slotOp s n legal f = .next t ∧ Within ps s t :=
  ⟨_, rfl, .ite (.ite (h s) ((within_illegal s n).mono sub)) (.refl _ _)⟩

theorem within_setEntry (s : State) (n e : Nat) (v : BitVec 72) : Within [.mem, .carry] s (s.setEntry n e v) :=
  ⟨touches_setEntry s n e v, memOk_setEntry s n e v, id⟩

theorem within_mapEntries (s : State) (n e : Nat) (fs : List (BitVec 72 → BitVec 72)) :
    Within [.mem, .carry] s (s.mapEntries n e fs) := by
  induction fs generalizing s e with
  | nil => exact .refl _ _
  | cons f fs ih => exact .trans (within_setEntry ..) (ih _ _)

theorem within_stopPart (s : State) (q : Nat) : Within [.parts] s (s.stopPart q) := (within_updPart ..).mono

theorem within_reportBuffer (s : State) (b kind addr off : Nat) : Within [.regs, .flt] s (s.reportBuffer b kind addr off) :=
  (within_report ..).mono

theorem within_bufferRead (s : State) (b off n : Nat) : Within [.regs, .flt] s ((s.bufferRead b off n).2.2) := by
  dsimp only [State.bufferRead]
  split
  · exact (within_reportBuffer ..).after (.foldl (fun _ _ => (within_reportBuffer ..).mono) _ (.refl _ _))
  · exact .foldl (fun _ _ => (within_reportBuffer ..).mono) _ (.refl _ _)

theorem within_bufferWrite (s : State) (b off : Nat) (bs : List Byte) :
    Within [.regs, .mem, .sramErr, .flt] s (s.bufferWrite b off bs) := by
  dsimp only [State.bufferWrite]
  split
  · exact (within_reportBuffer ..).mono
  · exact (within_clearGranules ..).after ((within_wr ..).mono)

theorem within_updRing (s : State) (p : Port) (r : Nat) (f : RingPair → RingPair) : Within [.rings] s (s.updRing p r f) :=
  (within_rings ..).mono

theorem within_updDesc (s : State) (d : DescRef) (f : Desc → Desc) : Within [.descs] s (s.updDesc d f) :=
  (within_descs ..).mono

theorem within_owe (s : State) (d : Desc) (status detail result : Nat) : Within [.rings] s (s.owe d status detail result) :=
  (within_updRing ..).mono

theorem within_complete (s : State) (ref : DescRef) (status detail result : Nat) :
    Within [.regs, .rings, .descs] s (s.complete ref status detail result) := by
  dsimp only [State.complete]
  split
  · exact .refl _ _
  · exact .ite ((within_count ..).after ((within_updRing ..).after ((within_descs ..).mono))) (.ite
      ((within_updRing ..).after ((within_descs ..).mono))
      ((within_owe ..).after ((within_updRing ..).after ((within_descs ..).mono))))

theorem within_haltsDone (s : State) (q : Nat) : Within [.regs, .parts, .rings, .descs] s (s.haltsDone q) :=
  .foldl (fun _ _ => (within_complete ..).mono) _ ((within_updPart ..).mono)

theorem within_settleJob (s : State) (q : Nat) : Within [.regs, .parts, .rings, .descs] s (s.settleJob q) := by
  dsimp only [State.settleJob]
  split
  · exact .refl _ _
  · split
    · exact .refl _ _
    · exact .ite ((within_complete ..).after ((within_updPart ..).mono)) (.refl _ _)

theorem within_endJob (s : State) (q status : Nat) : Within [.regs, .parts, .rings, .descs] s (s.endJob q status) :=
  (within_settleJob ..).after ((within_updPart ..).mono)

theorem within_stopAtPoint (s : State) (q point : Nat) : Within [.cores, .parts] s (s.stopAtPoint q point) := by
  dsimp only [State.stopAtPoint]
  exact (within_updPart ..).after (.foldl (fun _ _ => (within_updCore ..).mono) _ (.refl _ _))

theorem within_semRead (s : State) (who : Requester) (n : Nat) : Within [.sems] s ((s.semRead who n).2) := by
  dsimp only [State.semRead]
  split
  · exact .refl _ _
  · exact (within_setSem ..).mono

theorem within_readRc (s : State) (n : RegName) (off unit hi lo : Nat) (v : U64) :
    Within [.regs] s ((s.readRc n off unit hi lo v).2) := by
  dsimp only [State.readRc]
  split
  · exact (within_now ..).after ((within_setReg ..).mono)
  · exact (within_setReg ..).mono

theorem within_readEffects (s : State) (who : Requester) (off size : Nat) :
    Within [.regs, .hall, .sems] s ((s.readEffects who off size).2) := by
  dsimp only [State.readEffects]
  split
  · exact .refl _ _
  · split
    · split
      · exact (within_semRead ..).mono
      · exact .refl _ _
    · split
      · exact (within_setRf ..).mono
      · exact .refl _ _
    · split
      · exact (within_hall ..).after ((within_readRc ..).mono)
      · exact .refl _ _
    · split
      · exact (within_readRc ..).mono
      · exact .refl _ _

theorem within_regRead (s : State) (who : Requester) (off size : Nat) :
    Within [.regs, .hall, .sems] s ((s.regRead who off size).2) := by
  dsimp only [State.regRead]
  split
  · exact .refl _ _
  · split
    · exact .refl _ _
    · split
      · exact .refl _ _
      · exact (within_readEffects ..).mono

theorem within_answerRead (s : State) (who : Requester) (off size : Nat) :
    Within [.regs, .readData, .readBytes, .hall, .sems] s (s.answerRead who off size) := by
  have read := within_regRead s who off size
  unfold State.answerRead
  split
  next v t e =>
    exact (within_readBytes { t with readData := v } _).after ((within_readData t v).after (read.of_pair e).mono)
  next t e =>
    exact (within_readBytes { t with readData := 0 } _).after ((within_readData t 0).after (read.of_pair e).mono)

theorem within_execRegisterReadClear (who : Requester) (off : BitVec 25) (size : Nat) (s : State) :
    ∃ t, execRegisterReadClear who off size s = .next t ∧ Within [.regs, .readData, .readBytes, .hall, .sems] s t :=
  ⟨_, rfl, (within_answerRead ..).mono⟩

theorem within_execSemLockRead (who : Requester) (n : SemId) (s : State) :
    ∃ t, execSemLockRead who n s = .next t ∧ Within [.regs, .readData, .readBytes, .hall, .sems] s t :=
  ⟨_, rfl, (within_answerRead ..).mono⟩

theorem within_execGtbNsRead (who : Requester) (s : State) :
    ∃ t, execGtbNsRead who s = .next t ∧ Within [.regs, .readData, .readBytes, .hall, .sems] s t :=
  ⟨_, rfl, (within_answerRead ..).mono⟩

theorem within_ownerWrite (s : State) (who : Requester) (q mode sem : Nat) : Within [.regs] s (s.ownerWrite who q mode sem) :=
  .ite ((within_setRf ..).after ((within_setRf ..).mono)) ((within_raise ..).mono)

theorem within_execPrtOwnerWrite (who : Requester) (q : QuireId) (mode : BitVec 2) (sem : SemId) (s : State) :
    ∃ t, execPrtOwnerWrite who q mode sem s = .next t ∧ Within [.regs] s t :=
  ⟨_, rfl, .ite ((within_ownerWrite ..).mono) (.refl _ _)⟩

theorem within_semWrite (s : State) (who : Requester) (n action : Nat) : Within [.regs, .sems] s (s.semWrite who n action) :=
  .ite (.refl _ _) (.ite (.ite ((within_setSem ..).mono) (.ite ((within_setSem ..).mono) (.refl _ _))) (.ite
    ((within_count ..).mono) ((within_count ..).mono)))

theorem within_execSemRelease (who : Requester) (n : SemId) (s : State) :
    ∃ t, execSemRelease who n s = .next t ∧ Within [.regs, .sems] s t :=
  ⟨_, rfl, .ite ((within_semWrite ..).mono) (.refl _ _)⟩

theorem within_execSemRenew (who : Requester) (n : SemId) (s : State) :
    ∃ t, execSemRenew who n s = .next t ∧ Within [.regs, .sems] s t := ⟨_, rfl, .ite ((within_semWrite ..).mono) (.refl _ _)⟩

theorem within_loseLease (s : State) (n : Nat) : Within [.regs, .sems, .msix] s (s.loseLease n) :=
  .ite ((within_interrupt ..).after ((within_count ..).after ((within_setSem ..).mono))) (.ite
    ((within_interrupt ..).after ((within_count ..).after ((within_setSem ..).mono)))
    ((within_count ..).after ((within_setSem ..).mono)))

theorem within_execSemLeaseExpire (n : SemId) (s : State) :
    ∃ t, execSemLeaseExpire n s = .next t ∧ Within [.regs, .sems, .msix] s t := by
  dsimp only [execSemLeaseExpire]
  refine ⟨_, rfl, ?_⟩
  split
  · exact .ite ((within_loseLease ..).mono) (.refl _ _)
  · exact .refl _ _

theorem within_modeWrite (s : State) (det : Bool) : Within [.regs] s (s.modeWrite det) :=
  .ite (.refl _ _) (.ite ((within_setRf ..).mono) ((within_raise ..).mono))

theorem within_modeFirst (s : State) : Within [.regs] s s.modeFirst := by
  dsimp only [State.modeFirst]
  refine .foldl (fun t a => ?_) _ (.refl _ _)
  split
  · exact .ite ((within_modeWrite ..).mono) (.refl _ _)
  · exact .refl _ _

theorem within_updPort (s : State) (p : Nat) (f : HallPortState → HallPortState) : Within [.hall] s (s.updPort p f) :=
  (within_hall ..).mono

theorem within_updConn (s : State) (d : Nat) (f : Conn → Conn) : Within [.hall] s (s.updConn d f) := (within_hall ..).mono

theorem within_setGroup (s : State) (g : Nat) (x : Option BarGroup) : Within [.hall] s (s.setGroup g x) :=
  (within_hall ..).mono

theorem within_installSa (s : State) (r : Rekey) : Within [.hall] s (s.installSa r) := (within_updPort ..).mono

theorem within_putOnWire (s : State) (p : Nat) (f : Frame) : Within [.hall] s (s.putOnWire p f) :=
  (within_hall ..).after ((within_updPort ..).mono)

theorem within_renewSa (s : State) (p : Nat) (a : Sa) : Within [.hall] s (s.renewSa p a) :=
  .ite ((within_hall ..).mono) (.refl _ _)

theorem within_emit (s : State) (p : Nat) (mac : BitVec 48) (etype : Nat) (body : List Byte) :
    Within [.hall] s (s.emit p mac etype body) := by
  dsimp only [State.emit]
  refine .ite ?_ ?_
  · split
    · exact .ite ((within_putOnWire ..).after ((within_updPort ..).after ((within_renewSa ..).mono))) (.refl _ _)
    · exact .refl _ _
  · exact (within_putOnWire ..).mono

theorem within_sendBy (s : State) (mask d ty flags seq stream : Nat) (payload : List Byte) :
    Within [.hall] s (s.sendBy mask d ty flags seq stream payload) := by
  dsimp only [State.sendBy]
  split
  · exact .refl _ _
  · exact .ite ((within_emit ..).after ((within_updConn ..).mono)) (.refl _ _)

theorem within_sendTo (s : State) (d ty flags seq stream : Nat) (payload : List Byte) :
    Within [.hall] s (s.sendTo d ty flags seq stream payload) := (within_sendBy ..).mono

theorem within_stageTx (s : State) (f : TxFrame) : Within [.regs, .mem, .sramErr, .flt] s ((s.stageTx f).2) := by
  dsimp only [State.stageTx]
  split
  · exact (within_bufferWrite ..).mono
  · exact .refl _ _

theorem within_txPayload (s : State) (f : TxFrame) : Within [.regs, .flt] s ((s.txPayload f).2) := by
  dsimp only [State.txPayload]
  split
  · exact .refl _ _
  · exact (within_bufferRead ..).mono

theorem within_passStaging (s : State) (payload : List Byte) :
    Within [.regs, .mem, .sramErr, .flt] s (s.passStaging payload) := by
  dsimp only [State.passStaging]
  split
  · exact (within_bufferWrite ..).mono
  · exact .refl _ _

theorem within_queueFrame (s : State) (d : Nat) (f : TxFrame) : Within [.hall] s (s.queueFrame d f) :=
  (within_updConn ..).mono

theorem within_queueStaged (s : State) (d : Nat) (f : TxFrame) :
    Within [.regs, .mem, .sramErr, .hall, .flt] s (s.queueStaged d f) :=
  (within_queueFrame ..).after ((within_stageTx ..).mono)

theorem within_queueCtrl (s : State) (d : Nat) (m : List Byte) :
    Within [.regs, .mem, .sramErr, .hall, .flt] s (s.queueCtrl d m) := (within_queueStaged ..).mono

theorem within_abortTo (s : State) (d id reason : Nat) :
    Within [.regs, .mem, .sramErr, .hall, .flt] s (s.abortTo d id reason) := (within_queueCtrl ..).mono

theorem within_mapStreams (s : State) (f : Stream → Stream) : Within [.hall] s (s.mapStreams f) := (within_hall ..).mono

theorem within_stagingFailed (s : State) (d : Nat) (f : TxFrame) :
    Within [.regs, .mem, .sramErr, .hall, .flt] s (s.stagingFailed d f) :=
  .ite (.refl _ _) ((within_abortTo ..).after ((within_mapStreams ..).mono))

theorem within_sendSeq (s : State) (d : Nat) (f : TxFrame) : Within [.regs, .mem, .sramErr, .hall,
  .flt] s (s.sendSeq d f) := by
  dsimp only [State.sendSeq]
  split
  · exact (within_stagingFailed ..).after (((within_txPayload ..).of_pair ‹_›).mono)
  · exact (within_sendBy ..).after (((within_txPayload ..).of_pair ‹_›).mono)

theorem within_sendFrame (s : State) (d : Nat) (f : TxFrame) (rest : List TxFrame) :
    Within [.regs, .mem, .sramErr, .hall, .flt] s (s.sendFrame d f rest) :=
  (within_sendSeq ..).after ((within_updConn ..).mono)

theorem within_sendNext (s : State) (d : Nat) : Within [.regs, .mem, .sramErr, .hall, .flt] s (s.sendNext d) := by
  dsimp only [State.sendNext]
  split
  · exact .refl _ _
  · split
    · exact (within_stagingFailed ..).after ((within_updConn ..).after (((within_txPayload ..).of_pair ‹_›).mono))
    · exact (within_sendFrame ..).mono

theorem within_grantWindow (s : State) (d : Nat) : Within [.regs] s ((s.grantWindow d).2) := by
  dsimp only [State.grantWindow]
  split
  · exact .refl _ _
  · split
    · exact (within_raise ..).mono
    · exact .refl _ _

theorem within_stopStreamRing (s : State) (x : Stream) : Within [.parts] s (s.stopStreamRing x) := by
  dsimp only [State.stopStreamRing]
  split
  · exact (within_updPart ..).mono
  · exact .refl _ _

theorem within_stopStreams (s : State) (f : Stream → Bool) : Within [.parts, .hall] s (s.stopStreams f) :=
  (within_mapStreams ..).after (.foldl (fun _ _ => (within_stopStreamRing ..).mono) _ (.refl _ _))

theorem within_loseConn (s : State) (d : Nat) : Within [.regs, .parts, .hall, .flt] s (s.loseConn d) :=
  (within_report ..).after ((within_stopStreams ..).after ((within_updConn ..).mono))

theorem within_ackStream (s : State) (d : Nat) (f : TxFrame) : Within [.parts, .hall] s (s.ackStream d f) := by
  dsimp only [State.ackStream]
  refine .ite ?_ ?_
  · exact .refl _ _
  · refine (within_mapStreams ..).after ?_
    refine .foldl (fun t a => ?_) _ (.refl _ _)
    split
    · exact (within_updPart ..).mono
    · exact .refl _ _

theorem within_resend (s : State) (d : Nat) (f : TxFrame) : Within [.regs, .mem, .sramErr, .hall, .flt] s (s.resend d f) :=
  (within_count ..).after ((within_sendSeq ..).after ((within_updConn ..).mono))

theorem within_takeAck (s : State) (d : Nat) (h : List Byte) :
    Within [.regs, .mem, .sramErr, .parts, .hall, .flt] s (s.takeAck d h) :=
  .ite (.refl _ _) (.ite ((within_count ..).after ((within_updConn ..).mono)) (.foldl (fun _ _ => (within_resend ..).mono) _
    ((within_updConn ..).after (.foldl (fun _ _ => (within_ackStream ..).mono) _ (.refl _ _)))))

theorem within_takeBarrier (s : State) (d field : Nat) : Within [.regs, .hall] s (s.takeBarrier d field) := by
  dsimp only [State.takeBarrier]
  refine .ite ?_ ?_
  · exact .refl _ _
  · split
    · exact .refl _ _
    · exact .ite (.refl _ _) (.ite ((within_hall ..).after ((within_setGroup ..).mono)) ((within_count ..).mono))

theorem within_takeFields (s : State) (d : Nat) (h : List Byte) :
    Within [.regs, .mem, .sramErr, .parts, .hall, .flt] s (s.takeFields d h) :=
  (within_takeBarrier ..).after ((within_takeAck ..).mono)

theorem within_enterLog (s : State) (m : FaultMsg) : Within [.regs, .flt] s (s.enterLog m) :=
  .ite ((within_flt ..).mono) ((within_count ..).mono)

theorem within_setCmp (s : State) (k owner index time : Nat) (armed : Bool) :
    Within [.regs] s (s.setCmp k owner index time armed) := (within_setReg ..).after ((within_setReg ..).mono)

theorem within_freeCmpAt (s : State) (k : Nat) : Within [.regs] s (s.freeCmpAt k) := (within_setCmp ..).mono

theorem within_disarm (s : State) (g : Nat) : Within [.regs, .parts, .hall] s (s.disarm g) := by
  dsimp only [State.disarm]
  split
  · exact .refl _ _
  · exact (within_updPart ..).after ((within_freeCmpAt ..).after ((within_setGroup ..).mono))

theorem within_entRetry (s : State) (d : DescRef) : Within [.regs, .rings, .descs] s (s.entRetry d) :=
  (within_complete ..).after ((within_count ..).mono)

theorem within_reachLimit (s : State) : Within [.regs, .rings, .descs] s s.reachLimit :=
  .foldl (fun _ _ => (within_entRetry ..).mono) _ ((within_count ..).mono)

theorem within_entSettle (s : State) : Within [.regs, .rings, .descs, .ent] s s.entSettle :=
  (within_ent ..).after (.ite ((within_reachLimit ..).mono) (.refl _ _))

theorem within_entFatal (s : State) (cause : Nat) : Within [.regs, .hall, .rings, .descs, .ent,
  .flt] s (s.entFatal cause) := by
  have cleared (x : Entropy) (y : Hall) : Within [.regs, .hall, .rings, .descs, .ent, .flt] s { s with ent := x, hall :=
    y } :=
    (within_hall { s with ent := x } y).after (within_ent s x).mono
  exact .foldl (fun _ _ => (within_complete ..).mono) _ ((within_report ..).after (cleared _ _))

theorem within_noiseFail (s : State) (f : Nat × Nat) : Within [.regs, .ent, .flt] s (s.noiseFail f) :=
  (within_ent ..).after ((within_report ..).after ((within_count ..).after ((within_count ..).mono)))

theorem within_advanceSources (s : State) (bits : Byte) : Within [.regs, .ent] s (s.advanceSources bits) :=
  .foldl (fun _ _ => .ite ((within_ent ..).after (.ite ((within_count ..).mono) (.refl _ _))) (.refl _ _)) _ (.refl _ _)

theorem within_execNoiseSample (bits : Byte) (s : State) :
    ∃ t, execNoiseSample bits s = .next t ∧ Within [.regs, .hall, .rings, .descs, .ent, .flt] s t := by
  dsimp only [execNoiseSample]
  split
  · exact ⟨_, rfl, .refl _ _⟩
  · split
    · exact ⟨_, rfl, (within_entSettle ..).after ((within_ent ..).after ((within_advanceSources ..).mono))⟩
    · split
      · exact ⟨_, rfl, (within_entFatal ..).after (.foldl (fun _ _ => (within_noiseFail ..).mono) _
          ((within_advanceSources ..).mono))⟩
      · split
        · exact ⟨_, rfl, (within_entFatal ..).after (.foldl (fun _ _ => (within_noiseFail ..).mono) _
            ((within_advanceSources ..).mono))⟩
        · exact ⟨_, rfl, (within_entSettle ..).after (.foldl (fun _ _ => (within_noiseFail ..).mono) _
            ((within_advanceSources ..).mono))⟩

theorem within_reseed (s : State) : Within [.regs, .ent] s s.reseed := by
  dsimp only [State.reseed]
  split
  · exact .refl _ _
  · split
    · exact (within_ent ..).mono
    · exact (within_ent ..).after (.ite ((within_count ..).after ((within_count ..).mono)) ((within_count ..).mono))

theorem within_execExpanderReseed (s : State) :
    ∃ t, execExpanderReseed s = .next t ∧ Within [.regs, .rings, .descs, .ent] s t :=
  ⟨_, rfl, .ite ((within_entSettle ..).after ((within_reseed ..).mono)) (.refl _ _)⟩

theorem within_takeOut {s t : State} {n : Nat} {bs : List Byte} (h : s.takeOut n = some (bs, t)) : Within [.ent] s t := by
  unfold State.takeOut at h
  dsimp only at h
  split at h
  · simp only [Option.some.injEq, Prod.mk.injEq] at h
    rw [← h.2]
    exact within_ent ..
  · simp at h

theorem within_takeFor {s t : State} {c : Consumer} {n : Nat} {bs : List Byte} (h : s.takeFor c n = some (bs, t)) :
    Within [.ent] s t := by
  unfold State.takeFor at h
  split at h
  · obtain ⟨⟨_, u⟩, out, h⟩ := Option.map_eq_some_iff.mp h
    obtain ⟨-, rfl⟩ := Prod.mk.inj h
    split
    · exact within_takeOut out
    · exact (within_ent ..).after (within_takeOut out)
  · simp at h

theorem within_settleKeying (s : State) : Within [.hall, .ent] s s.settleKeying := by
  dsimp only [State.settleKeying]
  split
  · exact .refl _ _
  · split
    · exact (within_installSa ..).after ((within_hall ..).after ((within_takeFor ‹_›).mono))
    · exact .refl _ _

theorem within_execExpanderRequest (s : State) :
    ∃ t, execExpanderRequest s = .next t ∧ Within [.regs, .hall, .rings, .descs, .ent] s t := by
  dsimp only [execExpanderRequest]
  split
  · exact ⟨_, rfl, .refl _ _⟩
  · split
    · exact ⟨_, rfl, .ite ((within_reseed ..).mono) (.refl _ _)⟩
    · exact ⟨_, rfl, .ite ((within_settleKeying ..).after ((within_entSettle ..).after ((within_ent ..).after (.ite
        ((within_reseed ..).mono) (.refl _ _))))) ((within_entSettle ..).after (.ite ((within_reseed ..).mono) (.refl _ _)))⟩

theorem within_entOn (s : State) : Within [.regs, .hall, .rings, .descs, .ent, .flt] s s.entOn :=
  .ite (.ite ((within_entFatal ..).after ((within_ent ..).after ((within_setRf ..).mono)))
    ((within_ent ..).after ((within_setRf ..).mono))) (.refl _ _)

theorem within_entOff (s : State) : Within [.regs, .ent] s s.entOff :=
  .ite (.refl _ _) ((within_ent ..).after ((within_setRf ..).mono))

theorem within_execEntEnable (who : Requester) (s : State) :
    ∃ t, execEntEnable who s = .next t ∧ Within [.regs, .hall, .rings, .descs, .ent, .flt] s t :=
  ⟨_, rfl, .ite ((within_entOn ..).mono) (.refl _ _)⟩

theorem within_execEntDisable (who : Requester) (s : State) :
    ∃ t, execEntDisable who s = .next t ∧ Within [.regs, .ent] s t := ⟨_, rfl, .ite ((within_entOff ..).mono) (.refl _ _)⟩

theorem within_execLaneSeeding (s : State) : ∃ t, execLaneSeeding s = .next t ∧ Within [.lanes, .ent] s t := by
  have both (t : State) (x : Table LaneGen) (y : Entropy) : Within [.lanes, .ent] t { t with lanes := x, ent := y } :=
    (within_ent { t with lanes := x } y).after (within_lanes t x).mono
  unfold execLaneSeeding
  split
  · split
    · exact ⟨_, rfl, .refl _ _⟩
    next bs t taken => exact ⟨_, rfl, .trans (within_takeFor taken).mono (both t _ _)⟩
  · exact ⟨_, rfl, .refl _ _⟩

theorem within_execLaneGeneratorOutput (h : Half) (s : State) :
    ∃ t, execLaneGeneratorOutput h s = .next t ∧ Within [.lanes] s t := ⟨_, rfl, (within_lanes ..).mono⟩

theorem within_readItems (s : State) (tag : Nat) (l : List (Nat × Nat)) :
    Within [.regs, .flt] s (s.readItems tag l).2 := by
  induction l generalizing s with
  | nil => exact .refl _ _
  | cons x l ih =>
    dsimp only [State.readItems]
    split
    · exact within_dramRead ..
    · exact .trans (within_dramRead ..) (ih _)

theorem within_askSign (s : State) (job : SignJob) : Within [.regs, .mgt] s ((s.askSign job).2) := by
  dsimp only [State.askSign]
  split
  · exact .refl _ _
  · split
    · exact (within_count ..).mono
    · exact (within_mgt ..).mono

theorem within_askSign_if (s : State) (c : Bool) (job : SignJob) :
    Within [.regs, .mgt] s (if c then s.askSign job else (false, s)).2 := by
  split
  · exact within_askSign s job
  · exact .refl _ _

theorem within_writeColophon (s : State) (q : Nat) :
    Within [.regs, .mem, .dramErr, .parts, .rings, .descs, .flt, .mgt] s (s.writeColophon q) := by
  unfold State.writeColophon
  split
  · exact .refl _ _
  · split
    · exact .ite ((within_settleJob ..).after ((within_updPart ..).after
        ((within_askSign_if ..).after (within_wrDram ..).mono))) (.refl _ _)
    · exact .refl _ _

theorem within_execColophonWrite (q : QuireId) (s : State) :
    ∃ t, execColophonWrite q s = .next t ∧ Within [.regs, .mem, .dramErr, .parts, .rings, .descs, .flt, .mgt] s t :=
  ⟨_, rfl, (within_writeColophon ..).mono⟩

theorem Within.tableRead {ps : List Piece} {s : State} {n slot : Nat} {l : List Nat} {f : State → State}
    (h : ∀ t, Within ps t (f t)) (sub : [.regs, .cores, .parts, .flt] ⊆ ps := by decide) :
    Within ps s (s.tableRead n slot l f) := by
  dsimp only [State.tableRead]
  have ce {gs} : Within [.regs, .cores, .parts, .flt] s (s.reportCe n gs) := (within_reportCe ..).mono
  split
  · exact ((within_report ..).after ((within_haltOn ..).after ce)).mono sub
  · exact (ce.mono sub).trans (h _)

theorem within_ringRead (s : State) (b : Binding) (d : RingDesc) (i n : Nat) :
    Within [.regs, .flt] s ((s.ringRead b d i n).2.2) := by
  dsimp only [State.ringRead]
  split
  · split
    · exact (within_bufferRead ..).mono
    · exact (within_bufferRead ..).after ((within_bufferRead ..).mono)
  · split
    · exact (within_bufferRead ..).mono
    · exact (within_bufferRead ..).after ((within_bufferRead ..).mono)

theorem within_setFlight (s : State) (buf ch : Nat) (x : Option (Nat × Nat)) : Within [.chans] s (s.setFlight buf ch x) :=
  (within_updChan ..).mono

theorem within_landGroup (s : State) (q ring : Nat) (b : Binding) (d : RingDesc) :
    Within [.regs, .mem, .sramErr, .parts, .flt] s (s.landGroup q ring b d) := by
  dsimp only [State.landGroup]
  exact (within_updPart ..).after ((within_bufferWrite ..).after ((within_dramRead ..).mono))

theorem within_execDeliverGroupLand (q : QuireId) (ring : Fin 32) (s : State) :
    ∃ t, execDeliverGroupLand q ring s = .next t ∧ Within [.regs, .mem, .sramErr, .parts, .chans, .flt] s t := by
  dsimp only [execDeliverGroupLand]
  split
  · exact ⟨_, rfl, .refl _ _⟩
  · split
    · exact ⟨_, rfl, .refl _ _⟩
    · split
      · exact ⟨_, rfl, (within_landGroup ..).after ((within_setFlight ..).mono)⟩
      · exact ⟨_, rfl, (within_setFlight ..).mono⟩

theorem within_execCollectGroupWrite (q : QuireId) (ring : Fin 32) (s : State) :
    ∃ t, execCollectGroupWrite q ring s = .next t ∧ Within [.regs, .mem, .dramErr, .parts, .flt] s t := by
  dsimp only [execCollectGroupWrite]
  split
  · exact ⟨_, rfl, .refl _ _⟩
  · split
    · split
      · exact ⟨_, rfl, .refl _ _⟩
      · exact ⟨_, rfl, (within_updPart ..).after (.ite ((within_ringRead ..).mono)
          ((within_wrDram ..).after ((within_ringRead ..).mono)))⟩
    · split
      · exact ⟨_, rfl, .refl _ _⟩
      · exact ⟨_, rfl, (within_updPart ..).after (.ite ((within_ringRead ..).mono)
          ((within_wrDram ..).after ((within_ringRead ..).mono)))⟩

theorem within_lDrainPut (s : State) (q base tail next : Nat) (rec_ : List Byte) :
    Within [.regs, .mem, .dramErr, .parts, .flt] s (s.lDrainPut q base tail next rec_) :=
  (within_updPart ..).after ((within_wrDram ..).after ((within_wrDram ..).mono))

theorem within_lDrainPad (s : State) (q base size len : Nat) :
    Within [.regs, .mem, .dramErr, .parts, .flt] s (s.lDrainPad q base size len) :=
  .ite ((within_lDrainPut ..).mono) (.refl _ _)

theorem within_lDrainWrite {s t : State} {q base size : Nat} {bs : List Byte} (h : s.lDrainWrite q base size bs = some t) :
    Within [.regs, .mem, .dramErr, .parts, .flt] s t := by
  obtain ⟨next, -, rfl⟩ := Option.map_eq_some_iff.mp h
  exact within_lDrainPut ..

theorem within_wrHost (s : State) (p : Port) (a : Nat) (bs : List Byte) : Within [.hostA, .hostB] s (s.wrHost p a bs) where
  touches x hx := by cases p <;> cases x <;> simp_all [Piece.same, State.wrHost]
  memOk := memOk_wrHost s p a bs
  queue h := by cases p <;> exact h

theorem within_wrHost_b (s : State) (a : Nat) (bs : List Byte) : Within [.hostB] s (s.wrHost .b a bs) where
  touches x hx := by cases x <;> simp_all [Piece.same, State.wrHost]
  memOk := memOk_wrHost s .b a bs
  queue := id

theorem within_hDrainPut (s : State) (q tail next : Nat) (bs : List Byte) :
    Within [.hostB, .parts] s (s.hDrainPut q tail next bs) := by
  unfold State.hDrainPut
  exact (within_updPart ..).after ((within_wrHost_b ..).after (within_wrHost_b ..).mono)

theorem within_hDrainPad (s : State) (q len : Nat) : Within [.hostB, .parts] s (s.hDrainPad q len) :=
  .ite ((within_hDrainPut ..).mono) (.refl _ _)

theorem within_feedPools (s : State) (q : Nat) (b : Binding) (w : Window) (wi i sweep : Nat) (r : WinRecord) (payload :
  List Byte) :
    Within [.regs, .mem, .dramErr, .parts, .flt] s (s.feedPools q b w wi i sweep r payload) :=
  .foldl (fun _ _ => (within_updPart ..).mono) _ (.foldl (fun _ _ => (within_updPart ..).after ((within_wrDram ..).mono)) _
    (.refl _ _))

theorem within_reportStats (s : State) (q : Nat) (b : Binding) (window record seq : Nat) (payload : List Byte) :
    Within [.parts] s (s.reportStats q b window record seq payload) := by
  dsimp only [State.reportStats]
  exact (within_updPart ..).mono

theorem within_cutDone (s : State) (q : Nat) (b : Binding) (ring : Nat) (c : Cut) (payload : List Byte) :
    Within [.regs, .mem, .dramErr, .parts, .flt] s (s.cutDone q b ring c payload) := by
  dsimp only [State.cutDone]
  exact (within_updPart ..).after (.ite ((within_reportStats ..).after ((within_feedPools ..).mono))
    ((within_feedPools ..).mono))

theorem within_stopRing (s : State) (q ring : Nat) : Within [.parts] s (s.stopRing q ring) := (within_updPart ..).mono

theorem within_cutToHost (s : State) (q : Nat) (b : Binding) (ring : Nat) (c : Cut) (rec_ payload : List Byte) :
    Within [.regs, .mem, .sramErr, .dramErr, .hostB, .parts, .flt] s (s.cutToHost q b ring c rec_ payload) := by
  dsimp only [State.cutToHost]
  split
  · exact (within_hDrainPad ..).mono
  · split
    · exact .ite (.ite ((within_stopRing ..).after ((within_bufferRead ..).after ((within_hDrainPad ..).mono)))
        ((within_cutDone ..).after ((within_hDrainPut ..).after ((within_bufferRead ..).after ((within_hDrainPad ..).mono)))))
        (.ite (.ite ((within_hDrainPad ..).mono)
        ((within_updPart ..).after ((within_bufferWrite ..).after ((within_hDrainPad ..).mono))))
        ((within_cutDone ..).after ((within_hDrainPut ..).after ((within_hDrainPad ..).mono))))
    · exact (within_cutDone ..).after ((within_hDrainPut ..).after ((within_hDrainPad ..).mono))

theorem within_cutToMem (s : State) (q : Nat) (b : Binding) (ring : Nat) (c : Cut) (rec_ payload : List Byte) :
    Within [.regs, .mem, .dramErr, .parts, .flt] s (s.cutToMem q b ring c rec_ payload) := by
  dsimp only [State.cutToMem]
  split
  · exact .refl _ _
  · split
    · exact (within_lDrainPad ..).mono
    · exact (within_cutDone ..).after ((within_lDrainWrite ‹_›).after ((within_lDrainPad ..).mono))

theorem within_execDrainRecordWrite (q : QuireId) (ring : Fin 32) (s : State) :
    ∃ t, execDrainRecordWrite q ring s = .next t ∧ Within [.regs, .mem, .sramErr, .dramErr, .hostB, .parts, .flt] s t := by
  dsimp only [execDrainRecordWrite]
  split
  · exact ⟨_, rfl, .refl _ _⟩
  · split
    · exact ⟨_, rfl, .refl _ _⟩
    · split
      · exact ⟨_, rfl, (within_updPart ..).mono⟩
      · split
        · exact ⟨_, rfl, .refl _ _⟩
        · split
          · exact ⟨_, rfl, (within_stopRing ..).mono⟩
          · split
            · exact ⟨_, rfl, (within_stopRing ..).after ((within_ringRead ..).mono)⟩
            · exact ⟨_, rfl, .ite ((within_cutToHost ..).after ((within_ringRead ..).mono))
                ((within_cutToMem ..).after ((within_ringRead ..).mono))⟩

theorem within_applyTable (s : State) (q : Nat) (t : TableWrite) :
    Within [.regs, .mem, .sramErr, .parts, .rings, .descs, .flt] s (s.applyTable q t) :=
  (within_complete ..).after ((within_updPart ..).after (.ite (.foldl (fun _ _ => (within_wrSram ..).mono) _ (.refl _ _))
    ((within_updPart ..).mono)))

theorem within_applyTables (s : State) (q : Nat) :
    Within [.regs, .mem, .sramErr, .parts, .rings, .descs, .flt] s (s.applyTables q) :=
  .foldl (fun _ _ => (within_applyTable ..).mono) _ ((within_updPart ..).mono)

theorem within_endRun (s : State) (q point status : Nat) :
    Within [.regs, .mem, .sramErr, .cores, .parts, .rings, .descs, .flt] s (s.endRun q point status) :=
  (within_haltsDone ..).after ((within_endJob ..).after ((within_applyTables ..).after ((within_stopAtPoint ..).mono)))

theorem within_sweepStart (s : State) (n : Nat) : Within [.cores] s (s.sweepStart n) := by
  dsimp only [State.sweepStart]
  exact (within_updCore ..).mono

theorem within_tsyncPulse (s : State) (q : Nat) (b : BarrierWait) : Within [.pwr] s (s.tsyncPulse q b) :=
  .ite ((within_pwr ..).mono) (.refl _ _)

theorem within_releaseBarrier (s : State) (q : Nat) (b : BarrierWait) :
    Within [.regs, .mem, .sramErr, .cores, .parts, .rings, .descs, .flt, .pwr] s (s.releaseBarrier q b) := by
  dsimp only [State.releaseBarrier]
  split
  · exact .ite ((within_endRun ..).after (.foldl (fun _ _ => (within_updCore ..).mono) _ (.ite
      ((within_applyTables ..).after (.foldl (fun _ _ => (within_sweepStart ..).mono) _
      ((within_updPart ..).after ((within_tsyncPulse ..).mono)))) ((within_updPart ..).after ((within_tsyncPulse ..).mono)))))
      (.foldl (fun _ _ => (within_updCore ..).mono) _ (.ite ((within_applyTables ..).after (.foldl (fun _ _ =>
      (within_sweepStart ..).mono) _ ((within_updPart ..).after ((within_tsyncPulse ..).mono))))
      ((within_updPart ..).after ((within_tsyncPulse ..).mono))))
  · exact .foldl (fun _ _ => (within_updCore ..).mono) _ (.ite ((within_applyTables ..).after (.foldl (fun _ _ =>
      (within_sweepStart ..).mono) _ ((within_updPart ..).after ((within_tsyncPulse ..).mono))))
      ((within_updPart ..).after ((within_tsyncPulse ..).mono)))

theorem within_execBarrierRelease (q : QuireId) (s : State) :
    ∃ t, execBarrierRelease q s = .next t ∧ Within [.regs, .mem, .sramErr, .cores, .parts, .rings, .descs, .flt,
      .pwr] s t := by
  dsimp only [execBarrierRelease]
  split
  · exact ⟨_, rfl, .refl _ _⟩
  · split
    · exact ⟨_, rfl, .refl _ _⟩
    · exact ⟨_, rfl, .ite ((within_releaseBarrier ..).mono) (.refl _ _)⟩

theorem within_exchange (s : State) (q : Nat) (c : Ctl) (sweep event j : Nat) (energy : Nat → List Byte) :
    Within [.regs, .mem, .dramErr, .parts, .flt] s (s.exchange q c sweep event j energy) :=
  .ite
    ((within_updPart ..).after ((within_wrDram ..).after ((within_updPart ..).after ((within_count ..).after ((within_count
    ..).mono))))) ((within_updPart ..).after ((within_count ..).after ((within_count ..).mono)))

theorem within_setBetas (s : State) (q : Nat) (bs : List (Nat × Option U32)) : Within [.cores] s (s.setBetas q bs) :=
  .foldl (fun _ _ => (within_setLive ..).mono) _ (.refl _ _)

theorem within_takeDecisions (s : State) (q : Nat) (c : Ctl) (energy : Nat → List Byte) :
    Within [.regs, .mem, .dramErr, .cores, .parts, .flt] s (s.takeDecisions q c energy) := by
  dsimp only [State.takeDecisions]
  refine (within_setBetas ..).after ?_
  split
  · exact .refl _ _
  · exact .foldl (fun _ _ => (within_exchange ..).mono) _ (.ite (.refl _ _) (.ite
      ((within_count ..).after ((within_updPart ..).mono)) ((within_updPart ..).mono)))

theorem within_execSweepBoundary (q : QuireId) (s : State) :
    ∃ t, execSweepBoundary q s = .next t ∧ Within [.regs, .mem, .dramErr, .cores, .parts, .flt] s t := by
  dsimp only [execSweepBoundary]
  split
  · exact ⟨_, rfl, .refl _ _⟩
  · split
    · split
      · split
        · exact ⟨_, rfl, (within_updPart ..).after ((within_bufferRead ..).after ((within_updPart ..).mono))⟩
        · exact ⟨_, rfl, (within_takeDecisions ..).after (.foldl (fun _ _ => (within_bufferRead ..).mono) _
            ((within_updPart ..).mono))⟩
      · exact ⟨_, rfl, (within_updPart ..).mono⟩
    · exact ⟨_, rfl, .refl _ _⟩

theorem within_execPoolOffer (q : QuireId) (pool : Nat) (s : State) :
    ∃ t, execPoolOffer q pool s = .next t ∧ Within [.regs, .mem, .dramErr, .parts, .rings, .descs, .flt] s t := by
  dsimp only [execPoolOffer]
  split
  · split
    · split
      · exact ⟨_, rfl, .refl _ _⟩
      · split
        · exact ⟨_, rfl, (within_stopRing ..).after (.foldl (fun _ _ => (within_dramRead ..).mono) _ (.refl _ _))⟩
        · refine ⟨_, rfl, ?_⟩
          refine (within_settleJob ..).after ?_
          refine (within_updPart ..).after ?_
          refine (within_count ..).after ?_
          refine (within_wrDram ..).after ?_
          split
          · exact (within_count ..).after ((within_wrDram ..).after ((within_wrDram ..).after (.foldl (fun _ _ =>
              (within_wrDram ..).mono) _ (.foldl (fun _ _ => (within_dramRead ..).mono) _ (.refl _ _)))))
          · exact .foldl (fun _ _ => (within_dramRead ..).mono) _ (.refl _ _)
    · exact ⟨_, rfl, .refl _ _⟩
  · exact ⟨_, rfl, .refl _ _⟩

theorem within_pass (s : State) (n : Nat) : Within [.cores] s (s.pass n) := (within_updCore ..).mono

theorem within_execNop (c : CoreId) (slot : Slot) (w : U32) (s : State) :
    ∃ t, execNop c slot w s = .next t ∧ Within [.regs, .cores, .parts, .flt] s t := by
  dsimp only [execNop]
  exact Within.slotOp fun t => .ite ((within_pass ..).mono) (.refl _ _)

theorem within_execLoop (c : CoreId) (w : U32) (s : State) :
    ∃ t, execLoop c w s = .next t ∧ Within [.regs, .cores, .parts, .flt] s t := by
  dsimp only [execLoop]
  exact Within.slotOp fun t => (within_updCore ..).mono

theorem within_execWait (c : CoreId) (w : U32) (s : State) :
    ∃ t, execWait c w s = .next t ∧ Within [.regs, .cores, .parts, .flt] s t := by
  dsimp only [execWait]
  exact Within.slotOp fun t => (within_updCore ..).after ((within_pass ..).mono)

theorem within_arrive (s : State) (n : Nat) (sweepEnd hall : Bool) : Within [.parts] s (s.arrive n sweepEnd hall) := by
  dsimp only [State.arrive]
  split
  · exact (within_updPart ..).mono
  · exact .refl _ _

theorem within_execBar (c : CoreId) (w : U32) (s : State) :
    ∃ t, execBar c w s = .next t ∧ Within [.regs, .cores, .parts, .flt] s t := by
  dsimp only [execBar]
  exact Within.slotOp fun t => (within_updCore ..).after ((within_pass ..).mono)

theorem within_execSwend (c : CoreId) (w : U32) (s : State) :
    ∃ t, execSwend c w s = .next t ∧ Within [.regs, .cores, .parts, .flt] s t := by
  dsimp only [execSwend]
  exact Within.slotOp fun t => (within_updCore ..).after ((within_pass ..).mono)

theorem within_execPhase (c : CoreId) (w : U32) (s : State) :
    ∃ t, execPhase c w s = .next t ∧ Within [.regs, .cores, .parts, .flt] s t := by
  dsimp only [execPhase]
  exact Within.slotOp fun t => (within_updCore ..).after ((within_pass ..).mono)

theorem within_execFlag (c : CoreId) (w : U32) (s : State) :
    ∃ t, execFlag c w s = .next t ∧ Within [.regs, .cores, .parts, .flt] s t := by
  dsimp only [execFlag]
  exact Within.slotOp fun t => (within_updCore ..).after ((within_pass ..).mono)

theorem within_pageTick (s : State) (n : Nat) (d : PageDue) (first : Bool) :
    Within [.regs, .cores, .parts, .flt] s (s.pageTick n d first) := by
  dsimp only [State.pageTick]
  refine .withLink fun t => ?_
  split
  · exact ((within_tileRead ..).of_pair ‹_›).mono
  · exact (within_updCore ..).after (((within_tileRead ..).of_pair ‹_›).mono)

theorem within_execPage (c : CoreId) (w : U32) (s : State) :
    ∃ t, execPage c w s = .next t ∧ Within [.regs, .cores, .parts, .flt] s t := by
  dsimp only [execPage]
  refine Within.slotOp fun t => ?_
  split
  · exact (within_pageTick ..).after ((within_advance ..).after ((within_updCore ..).after ((within_pass ..).mono)))
  · exact (within_advance ..).after ((within_updCore ..).after ((within_pass ..).mono))

theorem within_execPset (c : CoreId) (w : U32) (s : State) :
    ∃ t, execPset c w s = .next t ∧ Within [.regs, .cores, .parts, .flt] s t := by
  dsimp only [execPset]
  exact Within.slotOp fun t => (within_updCore ..).after ((within_pass ..).mono)

theorem within_execLeafHalt (c : CoreId) (w : U32) (s : State) :
    ∃ t, execLeafHalt c w s = .next t ∧ Within [.regs, .cores, .parts, .flt] s t := by
  dsimp only [execLeafHalt]
  exact Within.slotOp fun t => (within_updCore ..).after ((within_pass ..).mono)

theorem within_putOut (s : State) (n : Nat) (ds : List Dir) (x : LinkWord) : Within [.cores] s (s.putOut n ds x) :=
  (within_updCore ..).mono

theorem Within.withLanded {ps : List Piece} {s : State} {n : Nat} {x : LinkWord} {f : State → State}
    (h : ∀ t, Within ps t (f t)) (sub : [.regs, .cores, .parts] ⊆ ps := by decide) :
    Within ps s (s.withLanded n x f) := by
  unfold State.withLanded
  split
  · exact (within_haltOn ..).mono sub
  · exact h s

theorem within_execSend (c : CoreId) (w : U32) (s : State) :
    ∃ t, execSend c w s = .next t ∧ Within [.regs, .cores, .parts, .flt] s t := by
  dsimp only [execSend]
  refine Within.slotOp fun t => ?_
  refine .withLink fun t => ?_
  split
  · exact ((within_tileRead ..).of_pair ‹_›).mono
  · exact (within_advance ..).after ((within_putOut ..).after (((within_tileRead ..).of_pair ‹_›).mono))

theorem within_recvWrite (s : State) (n : Nat) (g : ℤ) (bs : List Byte) : Within [.cores] s (s.recvWrite n g bs) :=
  (within_updCore ..).mono

theorem within_execRecv (c : CoreId) (w : U32) (s : State) :
    ∃ t, execRecv c w s = .next t ∧ Within [.regs, .cores, .parts, .flt] s t := by
  dsimp only [execRecv]
  exact Within.slotOp fun t => .withLink (fun _ => .withLanded (fun _ =>
    (within_advance ..).after ((within_recvWrite ..).mono)))

theorem within_execRelay (c : CoreId) (w : U32) (s : State) :
    ∃ t, execRelay c w s = .next t ∧ Within [.regs, .cores, .parts, .flt] s t := by
  dsimp only [execRelay]
  exact Within.slotOp fun t => .withLanded (fun _ => (within_putOut ..).mono)

theorem within_execRecvf (c : CoreId) (w : U32) (s : State) :
    ∃ t, execRecvf c w s = .next t ∧ Within [.regs, .cores, .parts, .flt] s t := by
  dsimp only [execRecvf]
  exact Within.slotOp fun t => .withLink (fun _ => .withLanded (fun _ =>
    (within_advance ..).after ((within_putOut ..).after ((within_recvWrite ..).mono))))

theorem within_sendWord (s : State) (n : Nat) (d : Dir) (x : LinkWord) : Within [.cores, .parts] s (s.sendWord n d x) := by
  dsimp only [State.sendWord]
  split
  · exact .ite ((within_updCore ..).mono) (.refl _ _)
  · split
    · exact (within_updPart ..).mono
    · exact .refl _ _

theorem within_linkFault (s : State) (n : Nat) (d : Dir) (kind : Nat) : Within [.regs, .flt] s (s.linkFault n d kind) :=
  (within_report ..).mono

theorem within_execLinkWordLand (c : CoreId) (d : Dir) (how : Arrival) (s : State) :
    ∃ t, execLinkWordLand c d how s = .next t ∧ Within [.regs, .cores, .flt] s t := by
  dsimp only [execLinkWordLand]
  split
  · exact ⟨_, rfl, .refl _ _⟩
  · split
    · exact ⟨_, rfl, (within_updCore ..).mono⟩
    · exact ⟨_, rfl, .ite ((within_linkFault ..).after (.ite
        ((within_linkFault ..).after ((within_updCore ..).after ((within_setLive ..).after ((within_updCore ..).mono))))
        ((within_updCore ..).after ((within_setLive ..).after ((within_updCore ..).mono))))) (.ite
        ((within_linkFault ..).after ((within_updCore ..).after ((within_setLive ..).after ((within_updCore ..).mono))))
        ((within_updCore ..).after ((within_setLive ..).after ((within_updCore ..).mono))))⟩

theorem Within.fieldOp {ps : List Piece} {s : State} {n : Nat} {legal free : Bool} {f : State → State}
    (h : ∀ t, Within ps t (f t)) (sub : [.regs, .cores, .parts, .flt] ⊆ ps := by decide) :
    ∃ t, fieldOp s n legal free f = .next t ∧ Within ps s t :=
  Within.slotOp (fun t => .ite (h t) ((within_conflict t n).mono sub)) sub

theorem within_execAccOpen (c : CoreId) (w : U32) (s : State) :
    ∃ t, execAccOpen c w s = .next t ∧ Within [.regs, .mem, .carry, .cores, .parts, .flt] s t := by
  dsimp only [execAccOpen]
  exact Within.fieldOp fun t => (within_mapEntries ..).after ((within_updCore ..).mono)

theorem within_accumulate (s : State) (n g fmt shape kind row : Nat) (scaled : Bool) (tile scales window : List Byte) :
    Within [.mem, .carry, .cores] s (s.accumulate n g fmt shape kind row scaled tile scales window) :=
  (within_mapEntries ..).after ((within_updCore ..).mono)

theorem within_execAcc (c : CoreId) (w : U32) (s : State) :
    ∃ t, execAcc c w s = .next t ∧ Within [.regs, .mem, .carry, .cores, .parts, .flt] s t := by
  dsimp only [execAcc]
  refine Within.fieldOp fun t => ?_
  refine .withFe fun t => ?_
  split
  · exact ((within_tileRead ..).of_pair ‹_›).mono
  · exact (within_advance ..).after ((within_accumulate ..).after (((within_tileRead ..).of_pair ‹_›).mono))

theorem within_execLds (c : CoreId) (w : U32) (s : State) :
    ∃ t, execLds c w s = .next t ∧ Within [.regs, .cores, .parts, .flt] s t := by
  dsimp only [execLds]
  refine Within.slotOp fun t => ?_
  refine .withFe fun t => ?_
  split
  · exact ((within_tileRead ..).of_pair ‹_›).mono
  · exact (within_advance ..).after ((within_updCore ..).after (((within_tileRead ..).of_pair ‹_›).mono))

theorem within_execClose (c : CoreId) (w : U32) (s : State) :
    ∃ t, execClose c w s = .next t ∧ Within [.regs, .cores, .parts, .flt] s t := by
  dsimp only [execClose]
  exact Within.fieldOp fun t => (within_advance ..).after ((within_updCore ..).mono)

theorem within_countReplay (s : State) (n l : Nat) : Within [.regs] s (s.countReplay n l) := by
  dsimp only [State.countReplay]
  split
  · exact .ite ((within_count ..).mono) (.ite ((within_count ..).mono) (.refl _ _))
  · exact .refl _ _

theorem within_batchToLanes (s : State) (n : Nat) (d : CloseDue) : Within [.cores] s (s.batchToLanes n d) := by
  dsimp only [State.batchToLanes]
  exact (within_setLive ..).mono

theorem within_batchToMem (s : State) (n : Nat) (d : CloseDue) : Within [.regs, .cores, .parts,
  .flt] s (s.batchToMem n d) := by
  dsimp only [State.batchToMem]
  exact .withFe (fun _ => .ite (.tableRead (fun _ => (within_updCore ..).mono)) ((within_updCore ..).mono))

theorem within_execCloseBatch (c : CoreId) (s : State) :
    ∃ t, execCloseBatch c s = .next t ∧ Within [.regs, .cores, .parts, .flt] s t := by
  dsimp only [execCloseBatch]
  split
  · exact ⟨_, rfl, .refl _ _⟩
  · split
    · exact ⟨_, rfl, (within_stopWith ..).after ((within_updCore ..).mono)⟩
    · exact ⟨_, rfl, .ite ((within_batchToMem ..).after ((within_updCore ..).after (.ite ((within_countReplay ..).mono)
        (.refl _ _)))) ((within_batchToLanes ..).after ((within_updCore ..).after (.ite ((within_countReplay ..).mono)
        (.refl _ _))))⟩

theorem within_execRedLocalExact (c : CoreId) (w : U32) (s : State) :
    ∃ t, execRedLocalExact c w s = .next t ∧ Within [.regs, .mem, .carry, .cores, .parts, .flt] s t := by
  dsimp only [execRedLocalExact]
  exact Within.fieldOp fun t => (within_mapEntries ..).after ((within_updCore ..).mono)

theorem within_execRedTreeSend (c : CoreId) (w : U32) (s : State) :
    ∃ t, execRedTreeSend c w s = .next t ∧ Within [.regs, .cores, .parts, .flt] s t := by
  dsimp only [execRedTreeSend]
  exact Within.fieldOp fun t => (within_updCore ..).mono

theorem within_addTick (s : State) (n : Nat) (d : AddDue) :
    Within [.regs, .mem, .carry, .cores, .parts, .flt] s (s.addTick n d) := by
  dsimp only [State.addTick]
  refine .withFe fun t => ?_
  split
  · exact ((within_tileRead ..).of_pair ‹_›).mono
  · exact (within_mapEntries ..).after (((within_tileRead ..).of_pair ‹_›).mono)

theorem within_execRedTreeAdd (c : CoreId) (w : U32) (s : State) :
    ∃ t, execRedTreeAdd c w s = .next t ∧ Within [.regs, .mem, .carry, .cores, .parts, .flt] s t := by
  dsimp only [execRedTreeAdd]
  refine Within.fieldOp fun t => ?_
  split
  · exact (within_addTick ..).after ((within_advance ..).after ((within_updCore ..).mono))
  · exact (within_advance ..).after ((within_updCore ..).mono)

theorem within_execRedCanon (c : CoreId) (w : U32) (s : State) :
    ∃ t, execRedCanon c w s = .next t ∧ Within [.regs, .cores, .parts, .flt] s t := by
  dsimp only [execRedCanon]
  refine Within.fieldOp fun t => ?_
  refine .withFe fun t => ?_
  split
  · exact ((within_tileRead ..).of_pair ‹_›).mono
  · exact (within_advance ..).after ((within_updCore ..).after (((within_tileRead ..).of_pair ‹_›).mono))

theorem within_canonTick (s : State) (n : Nat) (d : CanonDue) : Within [.regs, .cores, .parts, .flt] s (s.canonTick n d) :=
  .withFe (fun _ => (within_updCore ..).mono)

theorem within_issueDraw (s : State) (d : DrawCtx) (w : U32) (bitsPerUnit units : Nat) (results : List (List Bool)) :
    Within [.cores] s (s.issueDraw d w bitsPerUnit units results) := by
  dsimp only [State.issueDraw]
  exact (within_updCore ..).mono

theorem within_execDrawb (c : CoreId) (w : U32) (s : State) :
    ∃ t, execDrawb c w s = .next t ∧ Within [.regs, .cores, .parts, .flt] s t := by
  dsimp only [execDrawb]
  exact Within.slotOp fun t => .tableRead (fun _ => (within_issueDraw ..).mono)

theorem within_drawChunk (s : State) (n : Nat) (w : U32) : Within [.regs, .cores, .parts, .flt] s (s.drawChunk n w) := by
  dsimp only [State.drawChunk]
  exact .tableRead (fun _ => (within_updCore ..).after ((within_issueDraw ..).mono))

theorem within_drawWhole (s : State) (n : Nat) (w : U32) (k : Nat) (damp : Bool) :
    Within [.regs, .cores, .parts, .flt] s (s.drawWhole n w k damp) := by
  dsimp only [State.drawWhole]
  exact .tableRead (fun _ => (within_issueDraw ..).mono)

theorem within_execDrawc (c : CoreId) (w : U32) (s : State) :
    ∃ t, execDrawc c w s = .next t ∧ Within [.regs, .cores, .parts, .flt] s t := by
  dsimp only [execDrawc]
  exact Within.slotOp fun t => .ite ((within_drawChunk ..).mono) ((within_drawWhole ..).mono)

theorem within_execDrawr (c : CoreId) (w : U32) (s : State) :
    ∃ t, execDrawr c w s = .next t ∧ Within [.regs, .cores, .parts, .flt] s t := by
  dsimp only [execDrawr]
  exact Within.slotOp fun t => (within_issueDraw ..).mono

theorem within_execLdo (c : CoreId) (w : U32) (s : State) :
    ∃ t, execLdo c w s = .next t ∧ Within [.regs, .cores, .parts, .flt] s t := by
  dsimp only [execLdo]
  refine Within.slotOp fun t => ?_
  refine .withFe fun t => ?_
  split
  · exact ((within_tileRead ..).of_pair ‹_›).mono
  · exact (within_advance ..).after ((within_updCore ..).after (((within_tileRead ..).of_pair ‹_›).mono))

theorem within_execPut (c : CoreId) (w : U32) (s : State) :
    ∃ t, execPut c w s = .next t ∧ Within [.regs, .cores, .parts, .flt] s t := by
  dsimp only [execPut]
  exact Within.slotOp fun t => .withFe (fun _ => (within_advance ..).after ((within_updCore ..).mono))

theorem within_execDrawResultEnter (c : CoreId) (s : State) :
    ∃ t, execDrawResultEnter c s = .next t ∧ Within [.cores] s t := by
  dsimp only [execDrawResultEnter]
  split
  · exact ⟨_, rfl, .refl _ _⟩
  · exact ⟨_, rfl, (within_setLive ..).after ((within_updCore ..).mono)⟩

theorem within_flushWrites (s : State) (n : Nat) (ws : List (Nat × List Byte)) :
    Within [.regs, .mem, .sramErr, .flt] s (s.flushWrites n ws) := .foldl (fun _ _ => (within_wrSram ..).mono) _ (.refl _ _)

theorem within_endTick (s : State) (n t : Nat) : Within [.regs, .mem, .sramErr, .cores, .parts, .flt] s (s.endTick n t) := by
  dsimp only [State.endTick]
  refine (within_updCore ..).after ?_
  refine .foldl (fun t a => ?_) _ ?_
  · exact (within_sendWord ..).mono
  · split
    · exact
        (within_arrive ..).after ((within_flushWrites ..).after ((within_flushWrites ..).after ((within_flushWrites
        ..).mono)))
    · exact (within_flushWrites ..).after ((within_flushWrites ..).after ((within_flushWrites ..).mono))

theorem within_beginTick (s : State) (n t : Nat) : Within [.regs, .mem, .carry, .cores, .parts, .flt] s (s.beginTick n t) :=
  .foldl (fun _ _ => (within_addTick ..).mono) _ (.foldl (fun _ _ => (within_canonTick ..).mono) _ (.foldl (fun _ _ =>
    (within_pageTick ..).mono) _ (.foldl (fun _ _ => (within_sendWord ..).mono) _
    ((within_setLive ..).after ((within_updCore ..).mono)))))

theorem within_issueWord (s : State) (c : CoreId) : Within [.regs, .cores, .parts, .flt] s (s.issueWord c).1 := by
  have read := within_coreRead s c (leafAt c (s.core c).live.pc) 16
  unfold State.issueWord
  extract_lets overflow
  split
  · split
    · exact read.of_pair ‹_›
    next bs t e =>
      extract_lets slots
      split
      · exact (within_illegal ..).after (read.of_pair e)
      · split
        · exact read.of_pair e
        · exact (within_conflict ..).after (read.of_pair e)
  · exact .refl _ _

theorem within_resetCore (s : State) (n : Nat) : Within [.regs, .mem, .sramErr, .cores, .parts, .flt] s (s.resetCore n) := by
  dsimp only [State.resetCore]
  refine .ite ?_ ?_
  · exact .refl _ _
  · split
    · exact (within_updPart ..).after ((within_updCore ..).after ((within_endTick ..).mono))
    · exact (within_updCore ..).after ((within_endTick ..).mono)

theorem within_resetQuire (s : State) (x : Nat) : Within [.regs, .mem, .sramErr, .cores, .parts, .flt] s (s.resetQuire x) :=
  .foldl (fun _ _ => (within_resetCore ..).mono) _ (.refl _ _)

theorem within_execCoreReset (who : Requester) (c : CoreId) (s : State) :
    ∃ t, execCoreReset who c s = .next t ∧ Within [.regs, .mem, .sramErr, .cores, .parts, .flt] s t :=
  ⟨_, rfl, .ite ((within_resetCore ..).mono) (.refl _ _)⟩

theorem within_freeRegions (s : State) (q : Nat) : Within [.regs] s (s.freeRegions q) :=
  .foldl (fun _ _ => .ite ((within_setReg ..).mono) (.refl _ _)) _ (.refl _ _)

theorem within_drainCollect (s : State) (q r : Nat) :
    Within [.regs, .mem, .sramErr, .dramErr, .parts, .flt] s (s.drainCollect q r) := by
  refine .foldl (fun t _ => ?_) _ (.refl _ _)
  obtain ⟨u, e, h⟩ := within_execCollectGroupWrite (Fin.ofNat 96 q) (Fin.ofNat 32 r) t
  rw [e]
  exact h.mono

theorem within_drainStaged (s : State) (q : Nat) :
    Within [.regs, .mem, .sramErr, .dramErr, .hostB, .parts, .flt] s (s.drainStaged q) := by
  unfold State.drainStaged
  split
  next r _ _ =>
    obtain ⟨u, e, h⟩ := within_execDrainRecordWrite (Fin.ofNat 96 q) (Fin.ofNat 32 r) s
    rw [e]
    exact h.mono
  · exact .refl _ _

theorem within_nextOffer (s : State) (q : Nat) : Within [.regs, .mem, .dramErr, .parts, .rings, .descs, .flt] s
    (match (s.part q).offers.find? (fun o => o.staged && o.energy.isSome) with
    | some o => match execPoolOffer (Fin.ofNat 96 q) o.pool s with
      | .next u => u
      | _ => s
    | none => s) := by
  split
  next o _ =>
    obtain ⟨u, e, h⟩ := within_execPoolOffer (Fin.ofNat 96 q) o.pool s
    rw [e]
    exact h
  · exact .refl _ _

theorem within_drainPart (s : State) (q : Nat) :
    Within [.regs, .mem, .sramErr, .dramErr, .hostB, .parts, .rings, .descs, .flt] s (s.drainPart q) :=
  .foldl (fun _ _ => (within_nextOffer _ _).mono) _ (.foldl (fun _ _ => (within_drainCollect ..).mono) _
    ((within_updPart ..).after (within_drainStaged ..).mono))

theorem within_endStreams (s : State) (q : Nat) : Within [.regs, .mem, .sramErr, .hall, .flt] s (s.endStreams q) :=
  .foldl (fun _ _ => (within_abortTo ..).after ((within_updConn ..).mono)) _ ((within_hall ..).mono)

theorem within_freeStart (s : State) (q : Nat) : Within [.regs] s (s.freeStart q) :=
  .foldl (fun _ _ => .ite ((within_freeCmpAt ..).mono) (.refl _ _)) _ (.refl _ _)

theorem within_endDescs (s : State) (q : Nat) (keep : Option DescRef) :
    Within [.regs, .hall, .rings, .descs] s (s.endDescs q keep) :=
  .foldl (fun _ _ => (within_complete ..).mono) _ ((within_hall ..).mono)

theorem within_resetPartFor (s : State) (q : Nat) (keep : Option DescRef) :
    Within [.regs, .mem, .sramErr, .dramErr, .hostB, .cores, .parts, .hall, .rings, .descs, .flt,
      .mgt] s (s.resetPartFor q keep) := by
  dsimp only [State.resetPartFor]
  refine (within_settleJob ..).after ?_
  refine (within_updPart ..).after ?_
  refine (within_freeRegions ..).after ?_
  refine .foldl (fun t a => ?_) _ ?_
  · exact (within_updCore ..).mono
  · split
    · exact
        (within_disarm ..).after ((within_freeStart ..).after ((within_endStreams ..).after ((within_endDescs ..).after
        ((within_haltsDone ..).after ((within_writeColophon ..).after ((within_updPart ..).after ((within_drainPart
        ..).mono)))))))
    · exact
        (within_freeStart ..).after ((within_endStreams ..).after ((within_endDescs ..).after ((within_haltsDone ..).after
        ((within_writeColophon ..).after ((within_updPart ..).after ((within_drainPart ..).mono))))))

theorem within_resetPart (s : State) (q : Nat) :
    Within [.regs, .mem, .sramErr, .dramErr, .hostB, .cores, .parts, .hall, .rings, .descs, .flt, .mgt] s (s.resetPart q) :=
  (within_resetPartFor ..).mono

theorem within_createPart (s : State) (q rows cols : Nat) : Within [.regs, .parts] s (s.createPart q rows cols) :=
  .ite ((within_updPart ..).after ((within_setRf ..).mono)) ((within_setRf ..).mono)

theorem within_dissolvePart (s : State) (q : Nat) :
    Within [.regs, .mem, .sramErr, .dramErr, .hostB, .cores, .parts, .hall, .rings, .descs, .flt,
      .mgt] s (s.dissolvePart q) :=
  .ite ((within_updPart ..).after ((within_setRf ..).after ((within_resetPart ..).mono))) ((within_setRf ..).mono)

theorem Within.ctrlWrite {ps : List Piece} {s : State} {who : Requester} {q : Nat} {f : State → State}
    (h : ∀ t, Within ps t (f t)) (sub : [.regs] ⊆ ps := by decide) : Within ps s (s.ctrlWrite who q f) :=
  .ite (.ite (h s) ((within_raise ..).mono sub)) (.refl _ _)

theorem within_setSize (s : State) (q rows cols : Nat) : Within [.regs] s (s.setSize q rows cols) :=
  (within_setRf ..).after ((within_setRf ..).mono)

theorem within_execCreate (who : Requester) (q : QuireId) (qrows qcols : BitVec 4) (s : State) :
    ∃ t, execCreate who q qrows qcols s = .next t ∧ Within [.regs, .parts] s t :=
  ⟨_, rfl, .ctrlWrite (fun _ => (within_createPart ..).after ((within_setSize ..).mono))⟩

theorem within_execDissolve (who : Requester) (q : QuireId) (s : State) :
    ∃ t, execDissolve who q s = .next t ∧ Within [.regs, .mem, .sramErr, .dramErr, .hostB, .cores, .parts, .hall, .rings,
      .descs, .flt, .mgt] s t :=
  ⟨_, rfl, .ctrlWrite (fun _ => (within_dissolvePart ..).mono)⟩

theorem within_resetIf (s : State) (q : Nat) :
    Within [.regs, .mem, .sramErr, .dramErr, .hostB, .cores, .parts, .hall, .rings, .descs, .flt, .mgt] s (s.resetIf q) :=
  .ite ((within_resetPart ..).mono) (.refl _ _)

theorem within_execPartitionReset (who : Requester) (q : QuireId) (s : State) :
    ∃ t, execPartitionReset who q s = .next t ∧ Within [.regs, .mem, .sramErr, .dramErr, .hostB, .cores, .parts, .hall,
      .rings, .descs, .flt, .mgt] s t :=
  ⟨_, rfl, .ctrlWrite (fun _ => (within_resetIf ..).mono)⟩

theorem within_resetPort (s : State) (p : Port) : Within [.regs, .rings, .descs, .sems, .msix] s (s.resetPort p) :=
  .foldl (fun _ _ => .ite ((within_loseLease ..).mono) (.refl _ _)) _ ((within_descs ..).after (.foldl (fun _ _ =>
    (within_updRing ..).after ((within_setRf ..).after ((within_setRf ..).mono))) _ ((within_setRf ..).mono)))

theorem within_execHostPortReset (p : Port) (s : State) :
    ∃ t, execHostPortReset p s = .next t ∧ Within [.regs, .rings, .descs, .sems, .msix] s t :=
  ⟨_, rfl, (within_resetPort ..).mono⟩

theorem within_faultIrq (s : State) (p : Port) : Within [.regs, .msix] s (s.faultIrq p) :=
  .ite ((within_setRf ..).mono) ((within_interrupt ..).after ((within_setRf ..).mono))

theorem within_pendClear (s : State) (p : Port) : Within [.regs, .msix] s (s.pendClear p) :=
  .ite (.refl _ _) (.ite ((within_interrupt ..).after ((within_setRf ..).mono)) ((within_setRf ..).mono))

theorem within_pendWrite (s : State) (bits : Nat) : Within [.regs, .msix] s (s.pendWrite bits) :=
  .ite ((within_pendClear ..).after (.ite ((within_pendClear ..).mono) (.refl _ _))) (.ite ((within_pendClear ..).mono)
    (.refl _ _))

theorem within_execFltPendClear (who : Requester) (bits : BitVec 2) (s : State) :
    ∃ t, execFltPendClear who bits s = .next t ∧ Within [.regs, .msix] s t :=
  ⟨_, rfl, .ite ((within_pendWrite ..).mono) (.refl _ _)⟩

theorem within_faultHold (s : State) (q : Nat) : Within [.parts] s (s.faultHold q) :=
  .ite ((within_updPart ..).mono) (.refl _ _)

theorem within_holdRelease (s : State) (who : Requester) (part : Nat) : Within [.parts] s (s.holdRelease who part) :=
  .ite ((within_updPart ..).mono) (.refl _ _)

theorem within_execFaultHoldRelease (who : Requester) (part : BitVec 7) (s : State) :
    ∃ t, execFaultHoldRelease who part s = .next t ∧ Within [.parts] s t :=
  ⟨_, rfl, .ite ((within_holdRelease ..).mono) (.refl _ _)⟩

theorem within_latch (s : State) (m : FaultMsg) (time : U64) : Within [.regs] s (s.latch m time) :=
  .ite ((within_setRf ..).mono) ((within_setReg ..).after ((within_setReg ..).after ((within_setReg ..).mono)))

theorem within_infoClear (s : State) : Within [.regs] s s.infoClear := by
  dsimp only [State.infoClear]
  split
  · exact .ite ((within_latch ..).after ((within_setRf ..).mono)) ((within_setRf ..).mono)
  · exact (within_setRf ..).mono

theorem within_execFltInfoClear (who : Requester) (s : State) :
    ∃ t, execFltInfoClear who s = .next t ∧ Within [.regs] s t := ⟨_, rfl, .ite ((within_infoClear ..).mono) (.refl _ _)⟩

theorem within_countClass (s : State) (c : Nat) : Within [.regs] s (s.countClass c) := (within_count ..).mono

theorem within_partActions (s : State) (act src tag : Nat) :
    Within [.regs, .mem, .sramErr, .dramErr, .hostB, .cores, .parts, .hall, .rings, .descs, .flt,
      .mgt] s (s.partActions act src tag) :=
  .ite ((within_resetPart ..).mono) (.ite ((within_resetQuire ..).mono) (.ite ((within_resetCore ..).mono) (.ite
    ((within_stopPart ..).mono) (.ite ((within_faultHold ..).mono) (.refl _ _)))))

theorem within_acceptMsg (s : State) (m : FaultMsg) :
    Within [.regs, .mem, .sramErr, .dramErr, .hostB, .cores, .parts, .hall, .rings, .descs, .flt, .mgt,
      .msix] s (s.acceptMsg m) :=
  (within_partActions ..).after (.ite ((within_enterLog ..).after (.foldl (fun _ _ => (within_faultIrq ..).mono) _
    ((within_countClass ..).after ((within_latch ..).after ((within_flt ..).mono))))) (.foldl (fun _ _ =>
    (within_faultIrq ..).mono) _ ((within_countClass ..).after ((within_latch ..).after ((within_flt ..).mono)))))

theorem within_letIn (s : State) : Within [.regs, .flt] s s.letIn := by
  dsimp only [State.letIn]
  split
  · exact (within_enterQueue ..).after ((within_flt ..).mono)
  · exact .refl _ _

theorem within_execFaultAccept (s : State) : ∃ t, execFaultAccept s = .next t ∧
    Within [.regs, .mem, .sramErr, .dramErr, .hostB, .cores, .parts, .hall, .rings, .descs, .flt, .mgt, .msix] s t := by
  unfold execFaultAccept
  split
  · exact ⟨_, rfl, .refl _ _⟩
  next m ms e =>
    have taken : Within [.flt] s { s with flt := { s.flt with queue := ms } } :=
      within_flt s _ fun h => by
        rw [e] at h
        exact Nat.le_of_succ_le h
    split
    · exact ⟨_, rfl, .refl _ _⟩
    · exact ⟨_, rfl, (within_acceptMsg ..).after ((within_letIn ..).after taken.mono)⟩

theorem within_flashWr (s : State) (a : Nat) (bs : List Byte) : Within [.flash] s (s.flashWr a bs) :=
  ⟨fun p hp => by cases p <;> simp_all [Piece.same, State.flashWr], memOk_flashWr s a bs, id⟩

theorem within_flashErase (s : State) (a n : Nat) : Within [.flash] s (s.flashErase a n) :=
  ⟨fun p hp => by cases p <;> simp_all [Piece.same, State.flashErase], memOk_flashErase s a n, id⟩

theorem within_programPage (s : State) (j : FlashJob) : Within [.flash] s (s.programPage j) := (within_flashWr ..).mono

theorem within_stopWrite (s : State) : Within [.flash, .mgt] s s.stopWrite := by
  dsimp only [State.stopWrite]
  split
  · exact (within_mgt ..).after ((within_programPage ..).mono)
  · exact .refl _ _

theorem within_underReset (s : State) (keepMem full : Bool) :
    Within [.clk, .regs, .mem, .carry, .sramErr, .dramErr, .flash, .boot, .cores, .lanes, .parts, .chans, .edge, .hall,
      .rings,
      .descs, .sems, .ent, .flt, .mgt, .pwr, .msix, .msixTable] s (s.underReset keepMem full) where
  touches p hp := by
    have stopped := (within_stopWrite s).touches p
    cases p <;> simp_all [Piece.same, State.underReset]
  memOk := memOk_underReset s keepMem full
  queue _ := Nat.zero_le _

theorem within_moduleReset (s : State) (full : Bool) :
    Within [.clk, .regs, .mem, .carry, .sramErr, .dramErr, .flash, .boot, .cores, .lanes, .parts, .chans, .edge, .hall,
      .rings, .descs, .sems, .ent, .flt, .mgt, .pwr, .msix, .msixTable] s (s.moduleReset full) :=
  (within_underReset ..).mono

theorem within_fatalMsg (s : State) (src kind addr : Nat) :
    Within [.regs, .mem, .sramErr, .dramErr, .hostB, .cores, .parts, .hall, .rings, .descs, .flt, .mgt,
      .msix] s (s.fatalMsg src kind addr) :=
  (within_setReg ..).after ((within_acceptMsg ..).mono)

theorem within_execSupplyGoodFall (s : State) : ∃ t, execSupplyGoodFall s = .next t ∧
    Within [.clk, .regs, .mem, .carry, .sramErr, .dramErr, .flash, .boot, .cores, .lanes, .parts, .chans, .edge, .hall,
      .rings, .descs, .sems, .ent, .flt, .mgt, .pwr, .msix, .msixTable] s t := by
  have three (t : State) (x : Table U64) (y : Boot) (z : Power) :
      Within [.regs, .boot, .pwr] t { t with regs := x, boot := y, pwr := z } :=
    (within_pwr { t with regs := x, boot := y } z).after ((within_boot { t with regs := x } y).after (within_regs t x).mono)
  exact ⟨_, rfl, (three ..).after (within_underReset ..)⟩

theorem within_execSupplyGoodRise (s : State) : ∃ t, execSupplyGoodRise s = .next t ∧ Within [.boot] s t :=
  ⟨_, rfl, .ite (.refl _ _) ((within_boot ..).mono)⟩

theorem within_execJtagReset (s : State) :
    ∃ t, execJtagReset s = .next t ∧ Within [.clk, .regs, .mem, .carry, .sramErr, .dramErr, .flash, .boot, .cores, .lanes,
      .parts, .chans, .edge, .hall, .rings, .descs, .sems, .ent, .flt, .mgt, .pwr, .msix, .msixTable] s t :=
  ⟨_, rfl, (within_moduleReset ..).mono⟩

theorem within_execSupplySagEnd (s : State) : ∃ t, execSupplySagEnd s = .next t ∧ Within [.boot] s t :=
  ⟨_, rfl, (within_boot ..).mono⟩

theorem within_startWrite (s : State) (goal : FlashGoal) (cmd : Option MgtCmd) (place size : Nat) (image : List Byte) :
    Within [.regs, .flash, .mgt] s (s.startWrite goal cmd place size image) :=
  (within_mgt ..).after ((within_setRf ..).after ((within_flashErase ..).mono))

theorem within_writeStore (s : State) (cmd : Option MgtCmd) (new : List (Nat × List Byte)) :
    Within [.regs, .flash, .mgt] s (s.writeStore cmd new) := by
  dsimp only [State.writeStore]
  exact (within_startWrite ..).mono

theorem within_mismatch (s : State) (src unit : Nat) (fuse test : Bool) :
    Within [.regs, .flt] s (s.mismatch src unit fuse test) := .ite (.refl _ _) ((within_report ..).mono)

theorem within_ownLog (s : State) (kind unit : Nat) : Within [.regs, .flt] s (s.ownLog kind unit) := (within_enterLog ..).mono

theorem within_ownMismatches (s : State) (kind : Nat) (fuses tests : List Nat) :
    Within [.regs, .flt] s (s.ownMismatches kind fuses tests) :=
  .foldl (fun _ _ => .ite (.refl _ _) ((within_ownLog ..).mono)) _ (.refl _ _)

theorem within_coreMismatches (s : State) (t : StartTests) : Within [.regs, .flt] s (s.coreMismatches t) :=
  .foldl (fun _ _ => (within_mismatch ..).mono) _ (.refl _ _)

theorem within_mismatches (s : State) (t : StartTests) : Within [.regs, .flt] s (s.mismatches t) :=
  .foldl (fun _ _ => (within_mismatch ..).mono) _ (.foldl (fun _ _ => (within_mismatch ..).mono) _ (.foldl (fun _ _ =>
    (within_mismatch ..).mono) _ (.foldl (fun _ _ => (within_ownLog ..).mono) _
    ((within_ownMismatches ..).after ((within_ownMismatches ..).after ((within_ownMismatches ..).after ((within_ownMismatches
    ..).after ((within_ownMismatches ..).after ((within_coreMismatches ..).mono)))))))))

theorem within_loadFuses (s : State) : Within [.regs] s s.loadFuses :=
  .foldl (fun _ _ => (within_setRf ..).mono) _
    ((within_setRf ..).after ((within_setReg ..).after ((within_setReg ..).after ((within_setReg ..).mono))))

theorem within_loadFw (s : State) (slot : Nat) : Within [.regs] s (s.loadFw slot) :=
  (within_setReg ..).after ((within_setRf ..).mono)

theorem within_reportCopy (s : State) (k : Nat) : Within [.regs, .flt] s (s.reportCopy k) := by
  dsimp only [State.reportCopy]
  exact .ite (.refl _ _) ((within_report ..).mono)

theorem within_applyStore (s : State) : Within [.regs, .boot, .flt, .mgt] s s.applyStore := by
  have both (t : State) (x : Boot) (y : Gatehouse) : Within [.boot, .mgt] t { t with boot := x, mgt := y } :=
    (within_mgt { t with boot := x } y).after (within_boot t x).mono
  unfold State.applyStore
  extract_lets s1 win cal s2 s3 set trims oldBoot oldMgt s4 s5
  have copies : Within [.regs, .boot, .flt, .mgt] s s1 := (within_reportCopy ..).after (within_reportCopy ..).mono
  have status : Within [.regs, .boot, .flt, .mgt] s s2 := (within_setReg ..).after copies
  have actions : Within [.regs, .boot, .flt, .mgt] s s3 := by
    unfold s3
    split
    · exact .foldl (fun _ _ => .ite (within_setRf ..).mono (.refl _ _)) _ status
    · exact status
  have settings : Within [.regs, .boot, .flt, .mgt] s s4 := (both s3 _ _).after actions
  have ports : Within [.regs, .boot, .flt, .mgt] s s5 := .foldl (fun _ _ => (within_setRf ..).mono) _ settings
  split
  · exact (within_boot ..).after ((within_setRf ..).after ((within_setRf ..).after ports))
  · exact ports

theorem within_latchLast (s : State) : Within [.regs] s s.latchLast :=
  .ite (.refl _ _) ((within_setReg ..).after ((within_setReg ..).mono))

theorem within_setChannels (s : State) (records : ChanId → List Byte) :
    Within [.regs, .boot, .chans] s (s.setChannels records) :=
  (within_boot ..).after (.foldl (fun _ _ => (within_updChan ..).after ((within_setRf ..).mono)) _ (.refl _ _))

theorem within_railFailed (s : State) (k : Nat) : Within [.regs, .flt] s (s.railFailed k) :=
  (within_ownLog ..).after ((within_report ..).after ((within_count ..).mono))

theorem within_setRail (s : State) (k : Nat) : Within [.regs, .flt, .pwr] s (s.setRail k) :=
  .ite ((within_railFailed ..).mono) ((within_pwr ..).mono)

theorem within_setRails (s : State) (start : Bool) : Within [.regs, .flt, .pwr] s (s.setRails start) :=
  .foldl (fun _ _ => (within_setRail ..).mono) _ (.refl _ _)

theorem within_setSpare (s : State) (retired : List Nat) (skips : List (List Nat)) :
    Within [.regs, .boot] s (s.setSpare retired skips) :=
  .foldl (fun _ _ => (within_setReg ..).mono) _ ((within_boot ..).mono)

theorem within_publish (s : State) (x : Start) : Within [.regs, .boot, .flt] s (s.publish x) :=
  (within_boot ..).after ((within_enterLog ..).after (.foldl (fun _ _ => (within_setReg ..).mono) _ (.refl _ _)))

theorem within_endStart (s : State) : Within [.regs, .boot, .flt] s s.endStart := by
  dsimp only [State.endStart]
  split
  · exact .ite ((within_publish ..).mono) (.refl _ _)
  · exact .refl _ _

theorem within_setPorts (s : State) (t : StartTests) (warm : Bool) : Within [.boot] s (s.setPorts t warm) :=
  (within_boot ..).mono

theorem within_useRemap (s : State) (m : List Nat × List (List Nat) × List Nat) (gone : List Nat) :
    Within [.regs, .boot] s (s.useRemap m gone) := (within_setSpare ..).after ((within_boot ..).mono)

theorem within_noteStore (s : State) (map dig : List Byte) : Within [.boot] s (s.noteStore map dig) :=
  .ite (.refl _ _) ((within_boot ..).mono)

theorem within_coldArray (s : State) (t : StartTests) (dig : List Byte) :
    Within [.regs, .boot, .flt] s (s.coldArray t dig) :=
  (within_noteStore ..).after ((within_mismatches ..).after ((within_useRemap ..).mono))

theorem within_warmArray (s : State) (t : StartTests) (dig : List Byte) :
    Within [.regs, .boot, .flt] s (s.warmArray t dig).1 := by
  unfold State.warmArray
  extract_lets stored
  split
  · exact (within_useRemap ..).mono
  · dsimp only
    exact (within_noteStore ..).after ((within_coreMismatches ..).after (within_useRemap ..).mono)

theorem within_countStart (s : State) : Within [.regs] s s.countStart := (within_setReg ..).mono

theorem within_loadSram (s : State) (slot : Nat) : Within [.mgt] s (s.loadSram slot) := (within_mgt ..).mono

theorem within_cleared (s : State) : Within [.mem, .dramErr] s { s with mem := [], dramErr := [] } where
  touches p hp := by cases p <;> simp_all [Piece.same]
  memOk h := by
    rw [memOk_iff] at h ⊢
    exact ⟨rfl, h.2⟩
  queue := id

theorem within_bringUp (s : State) (t : StartTests) (slot : Nat) :
    Within [.regs, .mem, .dramErr, .boot, .chans, .hall, .rings, .descs, .ent, .flt, .mgt, .pwr] s (s.bringUp t slot) := by
  unfold State.bringUp
  extract_lets dig s1 warm s2 s3 eq oldBoot s4 r
  have loaded : Within [.regs, .boot, .flt, .mgt] s s1 :=
    (within_applyStore ..).after ((within_countStart ..).after ((within_loadFw ..).after ((within_loadFuses ..).after
      (within_loadSram ..).mono)))
  have started : Within [.regs, .boot, .hall, .rings, .descs, .ent, .flt, .mgt, .pwr] s s2 :=
    (within_setRails ..).after ((within_entOn ..).after loaded.mono)
  have ports : Within [.regs, .boot, .chans, .hall, .rings, .descs, .ent, .flt, .mgt, .pwr] s s3 :=
    (within_setPorts ..).after ((within_setChannels ..).after started.mono)
  have left : Within [.regs, .boot, .chans, .hall, .rings, .descs, .ent, .flt, .mgt, .pwr] s s4 :=
    (within_boot ..).after ports
  have array : Within [.regs, .mem, .dramErr, .boot, .chans, .hall, .rings, .descs, .ent, .flt, .mgt, .pwr] s r.1 := by
    clear_value s4
    dsimp only [r]
    split
    · exact (within_warmArray ..).after left.mono
    · dsimp only
      exact (within_coldArray ..).after ((within_cleared ..).after left.mono)
  clear_value r
  exact (within_boot ..).after array

theorem within_execModuleResetRelease (x : StartTests) (s : State) : ∃ t, execModuleResetRelease x s = .next t ∧
    Within [.regs, .mem, .dramErr, .boot, .chans, .hall, .rings, .descs, .ent, .flt, .mgt, .pwr] s t := by
  have both (t : State) (x : Boot) (y : Gatehouse) : Within [.boot, .mgt] t { t with boot := x, mgt := y } :=
    (within_mgt { t with boot := x } y).after (within_boot t x).mono
  unfold execModuleResetRelease
  extract_lets early oldBoot oldMgt s1
  have first : Within [.boot, .mgt] s s1 := both s _ _
  split
  · exact ⟨_, rfl, .refl _ _⟩
  · split
    · exact ⟨_, rfl, (within_setPorts ..).after ((within_boot ..).after ((within_latchLast ..).after first.mono))⟩
    · exact ⟨_, rfl, (within_bringUp ..).after ((within_latchLast ..).after first.mono)⟩

theorem within_endRequest (s : State) (status : Nat) : Within [.regs, .pwr] s (s.endRequest status) :=
  (within_pwr ..).after ((within_setRf ..).mono)

theorem within_payRefreshes (s : State) : Within [.chans] s s.payRefreshes := (within_chans ..).mono

theorem within_askBlocks (s : State) (r : PowerRequest) (blocks : List Nat) :
    Within [.regs, .chans, .pwr] s (s.askBlocks r blocks) := by
  dsimp only [State.askBlocks]
  split
  · exact (within_setRf ..).after ((within_setRf ..).after ((within_endRequest ..).mono))
  · exact .ite ((within_endRequest ..).mono) (.ite
      ((within_pwr ..).after ((within_payRefreshes ..).after ((within_setRf ..).after ((within_setRf ..).mono))))
      ((within_pwr ..).mono))

theorem within_requestPower (s : State) (target : Nat) : Within [.regs, .chans, .pwr] s (s.requestPower target) :=
  .ite (.refl _ _) (.ite ((within_raise ..).mono) ((within_askBlocks ..).mono))

theorem within_powerGo (s : State) (who : Requester) (target : Nat) : Within [.regs, .chans, .pwr] s (s.powerGo who target) :=
  .ite ((within_requestPower ..).mono) ((within_raise ..).mono)

theorem within_execPowerStateRequest (who : Requester) (target : BitVec 3) (s : State) :
    ∃ t, execPowerStateRequest who target s = .next t ∧ Within [.regs, .chans, .pwr] s t :=
  ⟨_, rfl, .ite ((within_powerGo ..).mono) (.refl _ _)⟩

theorem within_execHandshakeReask (s : State) : ∃ t, execHandshakeReask s = .next t ∧ Within [.regs, .chans, .pwr] s t := by
  dsimp only [execHandshakeReask]
  split
  · exact ⟨_, rfl, (within_askBlocks ..).mono⟩
  · exact ⟨_, rfl, .refl _ _⟩

theorem within_onlyDram (s : State) : Within [.regs, .mem, .carry, .sramErr, .cores] s
    { s with
      cores := []
      carry := []
      sramErr := []
      mem := s.mem.filter (fun e => decide (e.1 < dramBytes))
      regs := s.regs.filter (fun e => decide (e.1 < 0x1000000)) } where
  touches p hp := by cases p <;> simp_all [Piece.same]
  memOk h := by
    rw [memOk_iff] at h ⊢
    exact ⟨Table.wf_filter _ _ _ h.1, rfl, h.2.2⟩
  queue := id

theorem within_afterS2 (s : State) :
    Within [.regs, .mem, .carry, .sramErr, .dramErr, .hostB, .cores, .parts, .hall, .rings, .descs, .flt, .mgt] s s.afterS2 :=
  (within_onlyDram ..).after (.foldl (fun _ _ => (within_resetPart ..).mono) _ (.refl _ _))

theorem within_memoryWakes (s : State) : Within [.regs, .boot, .chans] s s.memoryWakes :=
  (within_chans ..).after ((within_setChannels ..).mono)

theorem within_wakePathTest (s : State) : Within [.regs, .boot] s s.wakePathTest := by
  dsimp only [State.wakePathTest]
  split
  · exact .refl _ _
  · exact (within_useRemap ..).mono

theorem within_wakeUp (s : State) (src : WakeSource) : Within [.pwr] s (s.wakeUp src) :=
  .ite (.refl _ _) ((within_pwr ..).mono)

theorem within_awake (s : State) (src : WakeSource) :
    Within [.regs, .mem, .carry, .sramErr, .dramErr, .hostB, .boot, .cores, .lanes, .parts, .chans, .hall, .rings, .descs,
      .ent, .flt, .mgt, .pwr] s (s.awake src) := by
  have three (t : State) (x : Power) (y : Table LaneGen) (z : Entropy) :
      Within [.lanes, .ent, .pwr] t { t with pwr := x, lanes := y, ent := z } :=
    (within_ent { t with pwr := x, lanes := y } z).after
      ((within_lanes { t with pwr := x } y).after (within_pwr t x).mono)
  unfold State.awake
  extract_lets deep s1 s2 s3
  have memory : Within [.regs, .boot, .chans, .flt, .pwr] s s1 := (within_memoryWakes ..).after (within_setRails ..).mono
  have array : Within [.regs, .mem, .carry, .sramErr, .dramErr, .hostB, .boot, .cores, .lanes, .parts, .chans, .hall, .rings,
      .descs, .ent, .flt, .mgt, .pwr] s s2 :=
    .ite ((within_wakePathTest ..).after ((within_afterS2 ..).after memory.mono)) memory.mono
  exact (three ..).after ((within_setRf ..).after ((within_setRf ..).after array))

theorem within_wakeCycle (s : State) :
    Within [.regs, .mem, .carry, .sramErr, .dramErr, .hostB, .boot, .cores, .lanes, .parts, .chans, .hall, .rings,
      .descs, .ent, .flt, .mgt, .pwr] s s.wakeCycle := by
  dsimp only [State.wakeCycle]
  split
  · exact .ite ((within_awake ..).mono) (.refl _ _)
  · exact .refl _ _

theorem within_wakeBy (s : State) (src : WakeSource) : Within [.regs, .pwr] s (s.wakeBy src) :=
  .ite (.refl _ _) (.ite ((within_wakeUp ..).mono) (.ite (.ite ((within_count ..).mono) (.ite ((within_pwr ..).mono)
    ((within_pwr ..).mono))) (.refl _ _)))

theorem within_execWake (src : WakeSource) (s : State) : ∃ t, execWake src s = .next t ∧ Within [.regs, .pwr] s t :=
  ⟨_, rfl, (within_wakeBy ..).mono⟩

theorem within_powerOff (s : State) :
    Within [.clk, .regs, .mem, .carry, .sramErr, .dramErr, .flash, .boot, .cores, .lanes, .parts, .chans, .edge, .hall,
      .rings, .descs, .sems, .ent, .flt, .mgt, .pwr, .msix, .msixTable] s s.powerOff :=
  (within_pwr ..).after ((within_underReset ..).mono)

theorem within_restart (s : State) (src : WakeSource) :
    Within [.clk, .regs, .mem, .carry, .sramErr, .dramErr, .flash, .boot, .cores, .lanes, .parts, .chans, .edge, .hall,
      .rings, .descs, .sems, .ent, .flt, .mgt, .pwr, .msix, .msixTable] s (s.restart src) :=
  (within_setRf ..).after ((within_pwr ..).after ((within_underReset ..).mono))

theorem within_execPowerEntryComplete (s : State) :
    ∃ t, execPowerEntryComplete s = .next t ∧ Within [.clk, .regs, .mem, .carry, .sramErr, .dramErr, .flash, .boot,
      .cores, .lanes, .parts, .chans, .edge, .hall, .rings, .descs, .sems, .ent, .flt, .mgt, .pwr, .msix,
      .msixTable] s t := by
  dsimp only [execPowerEntryComplete]
  split
  · exact ⟨_, rfl, .refl _ _⟩
  · split
    · exact ⟨_, rfl, .refl _ _⟩
    · split
      · split
        · exact ⟨_, rfl, (within_restart ..).after ((within_powerOff ..).after ((within_pwr ..).mono))⟩
        · exact ⟨_, rfl, (within_powerOff ..).after ((within_pwr ..).mono)⟩
      · split
        · exact ⟨_, rfl, (within_wakeUp ..).after ((within_pwr ..).mono)⟩
        · exact ⟨_, rfl, (within_pwr ..).mono⟩

theorem within_execWakeFromS3 (src : WakeSource) (s : State) :
    ∃ t, execWakeFromS3 src s = .next t ∧ Within [.clk, .regs, .mem, .carry, .sramErr, .dramErr, .flash, .boot, .cores,
      .lanes, .parts, .chans, .edge, .hall, .rings, .descs, .sems, .ent, .flt, .mgt, .pwr, .msix, .msixTable] s t :=
  ⟨_, rfl, .ite ((within_restart ..).mono) (.refl _ _)⟩

theorem within_execWakeFrame (s : State) : ∃ t, execWakeFrame s = .next t ∧ Within [.regs, .hall, .pwr] s t := by
  dsimp only [execWakeFrame]
  split
  · exact ⟨_, rfl, .ite ((within_wakeBy ..).after ((within_hall ..).mono)) (.refl _ _)⟩
  · exact ⟨_, rfl, .refl _ _⟩

theorem within_execGovernorWindow (mean : Nat) (s : State) : ∃ t, execGovernorWindow mean s = .next t ∧
  Within [.pwr] s t := by
  dsimp only [execGovernorWindow]
  split
  · exact ⟨_, rfl, .refl _ _⟩
  · split
    · exact ⟨_, rfl, (within_pwr ..).mono⟩
    · split
      · split
        · exact ⟨_, rfl, (within_pwr ..).mono⟩
        · exact ⟨_, rfl, (within_pwr ..).mono⟩
      · split
        · exact ⟨_, rfl, (within_pwr ..).mono⟩
        · exact ⟨_, rfl, (within_pwr ..).mono⟩

theorem within_execGovernorPeak (sample : Nat) (s : State) : ∃ t, execGovernorPeak sample s = .next t ∧ Within [.pwr] s t :=
  ⟨_, rfl, .ite (.ite ((within_pwr ..).mono) ((within_pwr ..).mono)) (.refl _ _)⟩

theorem within_execThrottleStep (h : Half) (s : State) : ∃ t, execThrottleStep h s = .next t ∧ Within [.pwr] s t := by
  dsimp only [execThrottleStep]
  split
  · exact ⟨_, rfl, .refl _ _⟩
  · split
    · exact ⟨_, rfl, (within_pwr ..).mono⟩
    · exact ⟨_, rfl, (within_pwr ..).mono⟩

theorem within_warn (s : State) (i : Nat) : Within [.regs, .flt, .pwr] s (s.warn i) :=
  .ite (.refl _ _) (.ite ((within_report ..).after ((within_pwr ..).mono)) (.ite ((within_pwr ..).mono) (.refl _ _)))

theorem within_execThermTrip (sensor : Fin 71) (temp : U16) (s : State) :
    ∃ t, execThermTrip sensor temp s = .next t ∧ Within [.clk, .regs, .mem, .carry, .sramErr, .dramErr, .hostB, .flash,
      .boot, .cores, .lanes, .parts, .chans, .edge, .hall, .rings, .descs, .sems, .ent, .flt, .mgt, .pwr, .msix,
      .msixTable] s t := by
  dsimp only [execThermTrip]
  split
  · exact ⟨_, rfl, (within_powerOff ..).after ((within_pwr ..).after ((within_fatalMsg ..).mono))⟩
  · exact ⟨_, rfl, .refl _ _⟩

theorem within_tsyncMode (s : State) (mode group : Nat) : Within [.regs] s (s.tsyncMode mode group) :=
  .ite (.refl _ _) (.ite ((within_raise ..).mono) ((within_setRf ..).after ((within_setRf ..).mono)))

theorem within_execTsyncModeWrite (who : Requester) (mode : BitVec 2) (group : GroupId) (s : State) :
    ∃ t, execTsyncModeWrite who mode group s = .next t ∧ Within [.regs] s t :=
  ⟨_, rfl, .ite ((within_tsyncMode ..).mono) (.refl _ _)⟩

theorem within_execTsyncPpsEdge (s : State) : ∃ t, execTsyncPpsEdge s = .next t ∧ Within [.clk] s t := by
  dsimp only [execTsyncPpsEdge]
  split
  · exact ⟨_, rfl, (within_clk ..).mono⟩
  · exact ⟨_, rfl, .refl _ _⟩

theorem within_schedArm (s : State) (time target : Nat) : Within [.regs] s (s.schedArm time target) := by
  dsimp only [State.schedArm]
  refine .ite ?_ ?_
  · exact .refl _ _
  · split
    · exact (within_setRf ..).mono
    · exact
        (within_setRf ..).after ((within_setRf ..).after ((within_setCmp ..).after ((within_setRf ..).after ((within_setReg
        ..).mono))))

theorem within_schedDisarm (s : State) : Within [.regs] s s.schedDisarm :=
  .ite ((within_setRf ..).after (.foldl (fun _ _ => (within_freeCmpAt ..).mono) _ (.refl _ _))) (.refl _ _)

theorem within_execPwrSchedArm (who : Requester) (time : U64) (target : BitVec 3) (s : State) :
    ∃ t, execPwrSchedArm who time target s = .next t ∧ Within [.regs] s t :=
  ⟨_, rfl, .ite ((within_schedArm ..).mono) (.refl _ _)⟩

theorem within_execPwrSchedDisarm (who : Requester) (s : State) :
    ∃ t, execPwrSchedDisarm who s = .next t ∧ Within [.regs] s t := ⟨_, rfl, .ite ((within_schedDisarm ..).mono) (.refl _ _)⟩

theorem within_ghsSel (s : State) (pll : Bool) : Within [.regs] s (s.ghsSel pll) := .ite (.refl _ _) ((within_setRf ..).mono)

theorem within_execGhsSel (who : Requester) (pll : Bool) (s : State) :
    ∃ t, execGhsSel who pll s = .next t ∧ Within [.regs] s t := ⟨_, rfl, .ite ((within_ghsSel ..).mono) (.refl _ _)⟩

theorem within_fireBarrier (s : State) (g : Nat) : Within [.parts, .hall] s (s.fireBarrier g) := by
  dsimp only [State.fireBarrier]
  split
  · exact .refl _ _
  · exact (within_updPart ..).after ((within_setGroup ..).mono)

theorem within_fireStart (s : State) (q : Nat) : Within [.parts] s (s.fireStart q) := (within_updPart ..).mono

theorem within_firePower (s : State) (target : Nat) : Within [.regs, .chans, .pwr] s (s.firePower target) :=
  .ite ((within_wakeBy ..).after ((within_setRf ..).mono)) ((within_requestPower ..).after ((within_setRf ..).mono))

theorem within_execComparatorFire (k : CmpId) (s : State) :
    ∃ t, execComparatorFire k s = .next t ∧ Within [.regs, .parts, .chans, .hall, .pwr] s t := by
  dsimp only [execComparatorFire]
  split
  · split
    · exact ⟨_, rfl, (within_fireBarrier ..).after ((within_setCmp ..).mono)⟩
    · split
      · exact ⟨_, rfl, (within_fireStart ..).after ((within_freeCmpAt ..).mono)⟩
      · exact ⟨_, rfl, (within_firePower ..).after ((within_freeCmpAt ..).mono)⟩
  · exact ⟨_, rfl, .refl _ _⟩

theorem within_pairChange (s : State) (p : Port) (r : Nat) (was : Bool) : Within [.rings, .descs] s (s.pairChange p r was) :=
  .ite (.refl _ _) (.ite ((within_updRing ..).mono) ((within_descs ..).after ((within_updRing ..).mono)))

theorem within_ringSwitch (s : State) (p : Port) (r : Nat) (cq on : Bool) :
    Within [.regs, .rings, .descs] s (s.ringSwitch p r cq on) := (within_pairChange ..).after ((within_setRf ..).mono)

theorem within_execRingEnable (p : Port) (r : RingId) (sq cq : Bool) (s : State) :
    ∃ t, execRingEnable p r sq cq s = .next t ∧ Within [.regs, .rings, .descs] s t :=
  ⟨_, rfl, .ite ((within_ringSwitch ..).after ((within_ringSwitch ..).mono)) (.refl _ _)⟩

theorem within_badDoorbell (s : State) (p : Port) : Within [.regs] s (s.badDoorbell p) := (within_count ..).mono

theorem Within.doorbell {ps : List Piece} {s : State} {n : Nat} {f : State → State}
    (h : ∀ t, Within ps t (f t)) (sub : [.regs, .pwr] ⊆ ps := by decide) : Within ps s (s.doorbell n f) :=
  .ite (.refl _ _) (.trans ((within_wakeBy ..).mono sub) (h _))

theorem within_execSqTail (p : Port) (r : RingId) (value : U32) (size : Nat) (s : State) :
    ∃ t, execSqTail p r value size s = .next t ∧ Within [.regs, .rings, .pwr] s t :=
  ⟨_, rfl, .doorbell (fun _ => .ite ((within_updRing ..).mono) ((within_badDoorbell ..).mono))⟩

theorem within_execCqHead (p : Port) (r : RingId) (value : U32) (size : Nat) (s : State) :
    ∃ t, execCqHead p r value size s = .next t ∧ Within [.regs, .rings, .pwr] s t :=
  ⟨_, rfl, .doorbell (fun _ => .ite ((within_updRing ..).mono) ((within_badDoorbell ..).mono))⟩

theorem within_execDrainHead (p : Port) (r : RingId) (value : U32) (size : Nat) (s : State) :
    ∃ t, execDrainHead p r value size s = .next t ∧ Within [.regs, .parts, .pwr] s t := by
  dsimp only [execDrainHead]
  split
  · exact ⟨_, rfl, .refl _ _⟩
  · exact ⟨_, rfl, .doorbell (fun _ => .ite ((within_updPart ..).mono) ((within_badDoorbell ..).mono))⟩

theorem within_execLdrainHead (p : Port) (r : RingId) (value : U32) (size : Nat) (s : State) :
    ∃ t, execLdrainHead p r value size s = .next t ∧ Within [.regs, .parts, .pwr] s t := by
  dsimp only [execLdrainHead]
  split
  · exact ⟨_, rfl, .refl _ _⟩
  · refine ⟨_, rfl, ?_⟩
    refine .doorbell fun t => ?_
    split
    · exact (within_badDoorbell ..).mono
    · exact .ite ((within_updPart ..).mono) ((within_badDoorbell ..).mono)

theorem within_execDescriptorFetch (p : Port) (r : RingId) (bytes : List Byte) (s : State) :
    ∃ t, execDescriptorFetch p r bytes s = .next t ∧ Within [.rings, .descs] s t := by
  dsimp only [execDescriptorFetch]
  split
  · exact ⟨_, rfl, (within_descs ..).after ((within_updRing ..).mono)⟩
  · exact ⟨_, rfl, .refl _ _⟩

theorem within_execDescriptorStart (d : DescRef) (s : State) :
    ∃ t, execDescriptorStart d s = .next t ∧ Within [.regs, .rings, .descs] s t := by
  dsimp only [execDescriptorStart]
  split
  · exact ⟨_, rfl, .refl _ _⟩
  · split
    · split
      · exact ⟨_, rfl, (within_complete ..).after ((within_updDesc ..).after (.ite ((within_modeFirst ..).mono) (.refl _ _)))⟩
      · exact ⟨_, rfl, (within_updDesc ..).after (.ite ((within_modeFirst ..).mono) (.refl _ _))⟩
    · exact ⟨_, rfl, .refl _ _⟩

theorem within_signal (s : State) (p : Port) (r : Nat) : Within [.rings, .msix] s (s.signal p r) :=
  .ite ((within_interrupt ..).after ((within_updRing ..).mono)) ((within_updRing ..).mono)

theorem within_execCompletionPost (p : Port) (r : RingId) (s : State) :
    ∃ t, execCompletionPost p r s = .next t ∧ Within [.hostA, .hostB, .rings, .msix] s t := by
  dsimp only [execCompletionPost]
  split
  · exact ⟨_, rfl, .refl _ _⟩
  · split
    · exact ⟨_, rfl, .ite ((within_signal ..).after ((within_updRing ..).after ((within_wrHost ..).mono)))
        ((within_updRing ..).after ((within_wrHost ..).mono))⟩
    · exact ⟨_, rfl, .refl _ _⟩

theorem within_execInterruptModerationTimeout (p : Port) (r : RingId) (s : State) :
    ∃ t, execInterruptModerationTimeout p r s = .next t ∧ Within [.rings, .msix] s t := by
  dsimp only [execInterruptModerationTimeout]
  split
  · exact ⟨_, rfl, .ite ((within_interrupt ..).after ((within_updRing ..).mono)) (.refl _ _)⟩
  · exact ⟨_, rfl, .refl _ _⟩

theorem within_stopOp (s : State) (d : DescRef) (q : Nat) : Within [.parts, .hall] s (s.stopOp d q) := by
  dsimp only [State.stopOp]
  exact (within_updPart ..).after ((within_hall ..).mono)

theorem within_execDescriptorWatchdog (d : DescRef) (s : State) :
    ∃ t, execDescriptorWatchdog d s = .next t ∧ Within [.regs, .parts, .hall, .rings, .descs] s t := by
  unfold execDescriptorWatchdog
  split
  · exact ⟨_, rfl, .refl _ _⟩
  · split
    · extract_lets waits t
      have stopped : Within [.regs, .parts, .hall, .rings, .descs] s t :=
        (within_stopOp ..).after (.ite (within_freeStart ..).mono (.refl _ _))
      split
      · exact ⟨_, rfl, (within_updDesc ..).after (.ite stopped ((within_owe ..).after stopped))⟩
      · exact ⟨_, rfl, (within_complete ..).after stopped⟩
    · exact ⟨_, rfl, .refl _ _⟩

theorem within_allocAt {s t : State} {old b first blocks owner use k : Nat}
    (h : s.allocAt old b first blocks owner use = some (t, k)) : Within [.regs] s t := by
  unfold State.allocAt at h
  split at h
  · obtain ⟨_, -, h⟩ := Option.map_eq_some_iff.mp h
    obtain ⟨rfl, -⟩ := Prod.mk.inj h
    exact within_setReg ..
  · cases h

theorem within_freeAt (s : State) (b k : Nat) : Within [.regs] s (s.freeAt b k) := (within_setReg ..).mono

theorem within_allocAll {s t : State} {q : Nat} {l : List (RegionReq × Nat)} {rs : List Region}
    (h : s.allocAll q l = some (t, rs)) : Within [.regs] s t := by
  induction l generalizing s t rs with
  | nil =>
    obtain ⟨rfl, -⟩ := Prod.mk.inj (Option.some.inj h)
    exact .refl _ _
  | cons x l ih =>
    unfold State.allocAll at h
    split at h
    · cases h
    next first =>
      obtain ⟨⟨_, _⟩, rest, h⟩ := Option.map_eq_some_iff.mp h
      obtain ⟨rfl, -⟩ := Prod.mk.inj h
      exact (ih rest).after (within_allocAt first)

theorem within_keyStep {s t : State} {m : Image} {seed k : Option (List Byte)} (h : s.keyStep m seed = .key k t) :
    Within [.ent] s t := by
  unfold State.keyStep at h
  split at h
  · obtain ⟨-, rfl⟩ := KeyStep.key.inj h
    exact .refl _ _
  · split at h
    · cases h
    · split at h
      · cases h
      · split at h
        next taken =>
          obtain ⟨-, rfl⟩ := KeyStep.key.inj h
          exact within_takeFor taken
        · cases h

theorem within_dropStreams (s : State) (q : Nat) : Within [.hall] s (s.dropStreams q) := (within_hall ..).mono

theorem within_clearTiles (s : State) (cores : List Nat) : Within [.mem, .sramErr] s (s.clearTiles cores) where
  touches p hp := by cases p <;> simp_all [Piece.same, State.clearTiles]
  memOk h := by
    rw [memOk_iff] at h ⊢
    exact ⟨Table.wf_filter _ _ _ h.1, h.2⟩
  queue := id

theorem within_startLoad (s : State) (q : Nat) (l : Load) (b : Binding) :
    Within [.regs, .mem, .sramErr, .cores, .parts, .hall] s (s.startLoad q l b) := by
  dsimp only [State.startLoad]
  exact (within_updPart ..).after ((within_setReg ..).after (.foldl (fun _ _ => (within_updCore ..).mono) _
    ((within_clearTiles ..).after ((within_dropStreams ..).mono))))

theorem within_readImage (s : State) (q a : Nat) : Within [.regs, .flt] s ((s.readImage q a).2) := by
  dsimp only [State.readImage]
  split
  · exact .refl _ _
  · split
    · exact (within_dramRead ..).mono
    · split
      · exact (within_dramRead ..).mono
      · split
        · exact (within_dramRead ..).mono
        · exact (within_dramRead ..).mono

theorem within_execLoadBinding (d : DescRef) (s : State) : ∃ t, execLoadBinding d s = .next t ∧
    Within [.regs, .mem, .sramErr, .cores, .parts, .hall, .rings, .descs, .ent, .flt] s t := by
  unfold execLoadBinding
  refine ⟨_, rfl, ?_⟩
  split
  · exact .refl _ _
  next x _ =>
    have image := within_readImage s d.ring.val (x.arg 0x10 8)
    refine .ite (.refl _ _) ?_
    extract_lets seed
    split
    next e => exact (within_complete ..).after (image.of_pair e).mono
    next m t e =>
      have read := image.of_pair e
      refine .ite ((within_complete ..).after read.mono) ?_
      split
      · exact (within_complete ..).after read.mono
      · split
        · exact .refl _ _
        · exact (within_complete ..).after read.mono
        next key =>
          have keyed := (within_keyStep key).after read.mono (ps := [.regs, .ent, .flt])
          extract_lets firsts
          split
          · exact (within_complete ..).after keyed.mono
          next placed =>
            exact (within_startLoad ..).after ((within_allocAll placed).after ((within_freeRegions ..).after keyed.mono))

theorem within_writeSetup (s : State) (n : Nat) (b : List Byte) : Within [.regs] s (s.writeSetup n b) :=
  .foldl (fun _ _ => (within_setReg ..).mono) _ (.foldl (fun _ _ => (within_setReg ..).after ((within_setReg ..).mono)) _
    (.foldl (fun _ _ => (within_setReg ..).mono) _ ((within_setReg ..).after ((within_setReg ..).mono))))

theorem within_writePayload (s : State) (n : Nat) (g : Seg) (core : Nat) :
    Within [.regs, .mem, .sramErr, .flt] s (s.writePayload n g core) :=
  .ite ((within_writeSetup ..).mono) (.ite (.refl _ _) ((within_wrSram ..).mono))

theorem within_takeSegment (s : State) (n core : Nat) (g : Seg) (good : Bool) :
    Within [.regs, .mem, .sramErr, .cores, .flt] s (s.takeSegment n core g good) :=
  .ite ((within_writePayload ..).after ((within_setCore ..).mono)) (.refl _ _)

theorem within_stageSegment (s : State) (q side i : Nat) (bytes : List Byte) :
    Within [.regs, .mem, .sramErr, .flt] s (s.stageSegment q side i bytes) := by
  dsimp only [State.stageSegment]
  split
  · exact .refl _ _
  · split
    · exact (within_bufferWrite ..).mono
    · exact .refl _ _

theorem within_execSegmentReceive (c : CoreId) (seg : Nat) (good : Bool) (s : State) :
    ∃ t, execSegmentReceive c seg good s = .next t ∧ Within [.regs, .mem, .sramErr, .cores, .parts, .flt] s t := by
  dsimp only [execSegmentReceive]
  refine ⟨_, rfl, ?_⟩
  split
  · exact .refl _ _
  · split
    · exact .refl _ _
    · split
      · exact .refl _ _
      · exact .ite (.refl _ _) ((within_takeSegment ..).after ((within_updPart ..).after ((within_stageSegment ..).mono)))

theorem within_failLoad (s : State) (q : Nat) (l : Load) :
    Within [.regs, .cores, .parts, .rings, .descs, .flt] s (s.failLoad q l) := by
  unfold State.failLoad
  extract_lets bad t quires low u v
  have reported : Within [.regs, .cores, .parts, .rings, .descs, .flt] s t :=
    .foldl (fun _ _ => .foldl (fun _ _ => (within_report ..).mono) _ (.refl _ _)) _ (.refl _ _)
  have counted : Within [.regs, .cores, .parts, .rings, .descs, .flt] s u :=
    (within_setRf ..).after ((within_setRf ..).after reported)
  exact (within_complete ..).after ((within_updPart ..).after (.foldl (fun _ _ => (within_updCore ..).mono) _ counted))

theorem within_execLoadRepairRound (q : QuireId) (s : State) :
    ∃ t, execLoadRepairRound q s = .next t ∧ Within [.regs, .cores, .parts, .rings, .descs, .flt] s t := by
  dsimp only [execLoadRepairRound]
  refine ⟨_, rfl, ?_⟩
  split
  · exact .refl _ _
  · exact .ite (.refl _ _) (.ite ((within_updPart ..).after ((within_count ..).after ((within_setRf ..).mono)))
      ((within_failLoad ..).mono))

theorem within_loadBetas (s : State) (q : Nat) (b : Binding) : Within [.cores] s (s.loadBetas q b) := by
  dsimp only [State.loadBetas]
  split
  · exact (within_setBetas ..).mono
  · exact .refl _ _

theorem within_finishLoad (s : State) (q : Nat) (l : Load) (b : Binding) :
    Within [.regs, .mem, .dramErr, .cores, .parts, .hall, .rings, .descs, .flt] s (s.finishLoad q l b) :=
  (within_complete ..).after ((within_hall ..).after (.foldl (fun _ _ => (within_wrDram ..).mono) _
    ((within_loadBetas ..).after ((within_updPart ..).after (.foldl (fun _ _ => (within_updCore ..).mono) _ (.refl _ _))))))

theorem within_execLoadComplete (q : QuireId) (s : State) :
    ∃ t, execLoadComplete q s = .next t ∧ Within [.regs, .mem, .dramErr, .cores, .parts, .hall, .rings, .descs,
      .flt] s t := by
  dsimp only [execLoadComplete]
  refine ⟨_, rfl, ?_⟩
  split
  · exact .ite ((within_finishLoad ..).mono) (.refl _ _)
  · exact .refl _ _

theorem within_windowWrite (s : State) (n off : Nat) (bs : List Byte) :
    Within [.regs, .mem, .sramErr, .parts, .flt] s (s.windowWrite n off bs) := by
  dsimp only [State.windowWrite]
  refine .ite ?_ ?_
  · exact (within_count ..).mono
  · refine .ite ?_ ?_
    · exact .refl _ _
    · split
      · exact (within_updPart ..).after ((within_wrSram ..).mono)
      · exact (within_wrSram ..).mono

theorem within_windowRead (s : State) (n off len : Nat) : Within [.regs, .flt] s ((s.windowRead n off len).2) := by
  dsimp only [State.windowRead]
  split
  · exact (within_report ..).after ((within_reportCe ..).mono)
  · exact (within_reportCe ..).mono

theorem within_readPiece (s : State) (tag a n : Nat) : Within [.regs, .flt] s ((s.readPiece tag a n).2) := by
  dsimp only [State.readPiece]
  split
  · split
    · exact (within_dramRead ..).mono
    · exact (within_dramRead ..).mono
  · exact (within_windowRead ..).mono
  · exact (within_bufferRead ..).mono
  · exact .refl _ _
  · exact .refl _ _

theorem within_readPieces (s : State) (tag : Nat) (l : List (Nat × Nat)) :
    Within [.regs, .flt] s (s.readPieces tag l).2.2 := by
  induction l generalizing s with
  | nil => exact .refl _ _
  | cons p l ih =>
    have first := within_readPiece s tag p.1 p.2
    unfold State.readPieces
    split
    next e => exact first.of_pair e
    next t e => exact (first.of_pair e).trans (ih t)

theorem within_localRead (s : State) (tag a n : Nat) : Within [.regs, .flt] s ((s.localRead tag a n).2.2) :=
  (within_readPieces ..).mono

theorem within_writePiece (s : State) (tag a : Nat) (bs : List Byte) :
    Within [.regs, .mem, .sramErr, .dramErr, .parts, .flt] s (s.writePiece tag a bs) := by
  dsimp only [State.writePiece]
  split
  · exact (within_wrDram ..).mono
  · exact (within_windowWrite ..).mono
  · exact (within_bufferWrite ..).mono
  · exact .refl _ _
  · exact .refl _ _

theorem within_localWrite (s : State) (tag a : Nat) (bs : List Byte) :
    Within [.regs, .mem, .sramErr, .dramErr, .parts, .flt] s (s.localWrite tag a bs) :=
  .foldl (fun _ _ => (within_writePiece ..).mono) _ (.refl _ _)

theorem within_execWindowWrite (c : CoreId) (off : BitVec 18) (bytes : List Byte) (s : State) :
    ∃ t, execWindowWrite c off bytes s = .next t ∧ Within [.regs, .mem, .sramErr, .parts, .flt] s t :=
  ⟨_, rfl, (within_windowWrite ..).mono⟩

theorem within_execBar4Access (p : Port) (off : BitVec 36) (acc : BusAccess) (s : State) :
    ∃ t, execBar4Access p off acc s = .next t ∧ Within [.regs, .readBytes, .mem, .sramErr, .dramErr, .parts, .flt] s t := by
  dsimp only [execBar4Access]
  split
  · exact ⟨_, rfl, (within_readBytes ..).mono⟩
  · split
    · exact ⟨_, rfl, (within_readBytes ..).after ((within_localRead ..).mono)⟩
    · exact ⟨_, rfl, (within_localWrite ..).mono⟩

theorem within_sendMcast (s : State) (ty flags seq id g : Nat) (payload : List Byte) :
    Within [.regs, .mem, .sramErr, .hall, .flt] s (s.sendMcast ty flags seq id g payload) := by
  dsimp only [State.sendMcast]
  refine .ite ?_ ?_
  · split
    · exact (within_emit ..).after ((within_passStaging ..).mono)
    · exact .refl _ _
  · exact .refl _ _

theorem within_sendPart (s : State) (x : McastTx) (i : Nat) :
    Within [.regs, .mem, .sramErr, .hall, .flt] s (s.sendPart x i) := (within_sendMcast ..).mono

theorem within_sendParts (s : State) (x : McastTx) (l : List Nat) :
    Within [.regs, .mem, .sramErr, .hall, .flt] s (s.sendParts x l) :=
  .foldl (fun _ _ => (within_sendPart ..).mono) _ (.refl _ _)

theorem within_sendPoll (s : State) (x : McastTx) : Within [.regs, .mem, .sramErr, .hall, .flt] s (s.sendPoll x) :=
  (within_sendMcast ..).mono

theorem Within.onDesc {ps : List Piece} {s : State} {d : DescRef} {op : Nat} {f : Desc → State → State}
    (h : ∀ x t, Within ps t (f x t)) : ∃ t, s.onDesc d op f = .next t ∧ Within ps s t := by
  refine ⟨_, rfl, ?_⟩
  split
  · exact h _ s
  · exact .refl _ _

theorem Within.moverRuns {ps : List Piece} {s : State} {x : Desc} {dest n : Nat} {run : Nat → Option Nat × State}
    (h : ∀ k, Within ps s (run k).2) (sub : [.regs, .rings, .descs] ⊆ ps := by decide) :
    Within ps s (s.moverRuns x dest n run) := by
  have close {k o st} : Within ps s ((run k).2.complete x.ref st 0 o) := (within_complete ..).after (h _) sub
  unfold State.moverRuns
  refine .ite ((within_descs ..).after (h _) (List.Subset.trans (by decide) sub)) ?_
  split
  · exact close
  · exact close

theorem within_sourceRead (s : State) (isHost : Bool) (host : List Byte) (a n : Nat) :
    Within [.regs, .flt] s ((s.sourceRead isHost host a n).2.2) := by
  dsimp only [State.sourceRead]
  split
  · exact .refl _ _
  · exact (within_localRead ..).mono

theorem within_destWrite (s : State) (isHost : Bool) (p : Port) (a : Nat) (bs : List Byte) :
    Within [.regs, .mem, .sramErr, .dramErr, .hostA, .hostB, .parts, .flt] s ((s.destWrite isHost p a bs).2) := by
  dsimp only [State.destWrite]
  split
  · exact (within_wrHost ..).mono
  · exact (within_localWrite ..).mono

theorem within_mcastStart (s : State) (x : Desc) (host : List Byte) :
    Within [.regs, .mem, .sramErr, .hall, .rings, .descs, .flt] s (s.mcastStart x host) := by
  unfold State.mcastStart
  refine .ite (.refl _ _) (.ite (within_complete ..).mono ?_)
  extract_lets m r s0 t s1
  have read : Within [.regs, .flt] s r.2.2 := Within.trans (within_localRead ..) (within_sourceRead ..)
  have sent : Within [.regs, .mem, .sramErr, .hall, .flt] s s1 := (within_sendParts ..).after read.mono
  split
  · exact (within_complete ..).after (within_localRead ..).mono
  · exact (within_complete ..).after read.mono
  · exact .ite ((within_complete ..).after sent.mono) ((within_hall ..).after sent.mono)

theorem within_copyBytes (s : State) (x : Desc) (host : List Byte) (n : Nat) :
    Within [.regs, .mem, .sramErr, .dramErr, .hostA, .hostB, .parts, .flt] s (s.copyBytes x host n).2 := by
  unfold State.copyBytes
  extract_lets flags r w
  exact Within.trans (within_sourceRead ..).mono (within_destWrite ..)

theorem within_execCopy (d : DescRef) (host : List Byte) (s : State) : ∃ t, execCopy d host s = .next t ∧
    Within [.regs, .mem, .sramErr, .dramErr, .hostA, .hostB, .parts, .hall, .rings, .descs, .flt] s t := by
  refine ⟨_, rfl, ?_⟩
  split
  · exact .refl _ _
  · exact .ite (within_mcastStart ..).mono (.moverRuns fun k => (within_copyBytes ..).mono)

theorem within_execFill (d : DescRef) (s : State) : ∃ t, execFill d s = .next t ∧
    Within [.regs, .mem, .sramErr, .dramErr, .hostA, .hostB, .parts, .rings, .descs, .flt] s t := by
  refine ⟨_, rfl, ?_⟩
  split
  · exact .refl _ _
  · exact .moverRuns fun k => (within_destWrite ..).mono

theorem within_execDigest (d : DescRef) (host : List Byte) (s : State) :
    ∃ t, execDigest d host s = .next t ∧ Within [.regs, .mem, .sramErr, .dramErr, .hostA, .hostB, .parts, .rings,
      .descs, .flt] s t := by
  dsimp only [execDigest]
  refine Within.onDesc fun x0 t => ?_
  split
  · exact (within_complete ..).after ((within_dramRead ..).mono)
  · exact .ite (.ite ((within_complete ..).after ((within_sourceRead ..).after ((within_dramRead ..).mono)))
      ((within_complete ..).after ((within_sourceRead ..).after ((within_dramRead ..).mono))))
      ((within_complete ..).after ((within_destWrite ..).after ((within_dramRead ..).mono)))

theorem within_execGetEntropy (d : DescRef) (s : State) :
    ∃ t, execGetEntropy d s = .next t ∧ Within [.regs, .hostA, .hostB, .rings, .descs, .ent] s t := by
  dsimp only [execGetEntropy]
  refine Within.onDesc fun x0 t => ?_
  refine .ite ?_ ?_
  · exact (within_complete ..).mono
  · refine .ite ?_ ?_
    · exact (within_complete ..).mono
    · refine .ite ?_ ?_
      · exact (within_entRetry ..).mono
      · split
        · exact (within_complete ..).after ((within_wrHost ..).after ((within_takeFor ‹_›).mono))
        · exact .refl _ _

theorem within_execBarrierArm (d : DescRef) (s : State) :
    ∃ t, execBarrierArm d s = .next t ∧ Within [.regs, .parts, .hall, .rings, .descs, .flt] s t := by
  dsimp only [execBarrierArm]
  refine Within.onDesc fun x0 t => ?_
  refine .ite ?_ ?_
  · exact .refl _ _
  · refine .ite ?_ ?_
    · exact (within_complete ..).mono
    · refine .ite ?_ ?_
      · refine (within_complete ..).after ?_
        split
        · exact (within_localRead ..).mono
        · exact .refl _ _
      · refine .ite ?_ ?_
        · refine (within_complete ..).after ?_
          split
          · exact (within_localRead ..).mono
          · exact .refl _ _
        · split
          · refine (within_complete ..).after ?_
            split
            · exact (within_localRead ..).mono
            · exact .refl _ _
          · refine .ite ?_ ?_
            · refine (within_complete ..).after ?_
              split
              · exact (within_localRead ..).mono
              · exact .refl _ _
            · refine (within_complete ..).after ?_
              refine (within_updPart ..).after ?_
              refine (within_setGroup ..).after ?_
              refine (within_setCmp ..).after ?_
              split
              · exact (within_localRead ..).mono
              · exact .refl _ _

theorem within_execBarrierDisarm (d : DescRef) (s : State) :
    ∃ t, execBarrierDisarm d s = .next t ∧ Within [.regs, .parts, .hall, .rings, .descs] s t := by
  dsimp only [execBarrierDisarm]
  refine Within.onDesc fun x0 t => ?_
  refine .ite ?_ ?_
  · exact .refl _ _
  · split
    · exact .ite ((within_complete ..).mono) ((within_complete ..).after ((within_disarm ..).mono))
    · exact (within_complete ..).mono

theorem within_drainSome (s : State) (q base size tail room win fuel : Nat) (x : Drained) :
    Within [.regs, .flt] s (s.drainSome q base size tail room win fuel x).2 := by
  induction fuel generalizing s x with
  | zero => exact .refl _ _
  | succ n ih =>
    have header := within_dramRead s q (base + x.head) 32
    unfold State.drainSome
    split
    · exact .refl _ _
    extract_lets a t h len u
    split
    · exact header
    · split
      · exact header.trans (ih _ _)
      · split
        · exact header
        · split
          · exact header
          · split
            · exact within_dramRead ..
            · exact (within_dramRead ..).trans (ih _ _)

theorem within_execDrainSamples (d : DescRef) (s : State) :
    ∃ t, execDrainSamples d s = .next t ∧ Within [.regs, .hostA, .hostB, .parts, .rings, .descs, .flt] s t := by
  dsimp only [execDrainSamples]
  refine Within.onDesc fun x0 t => ?_
  split
  · exact (within_complete ..).mono
  · exact .ite ((within_complete ..).after ((within_drainSome ..).mono))
      ((within_complete ..).after ((within_updPart ..).after ((within_wrHost ..).after ((within_drainSome ..).mono))))

theorem within_execSetTable (d : DescRef) (s : State) :
    ∃ t, execSetTable d s = .next t ∧ Within [.regs, .mem, .sramErr, .parts, .rings, .descs, .flt] s t := by
  dsimp only [execSetTable]
  exact Within.onDesc fun x0 t => .ite ((within_complete ..).mono) (.ite ((within_complete ..).mono) (.ite
    ((within_complete ..).mono) (.ite (.refl _ _) (.ite ((within_complete ..).after ((within_localRead ..).mono)) (.ite
    ((within_complete ..).after ((within_localRead ..).mono)) (.ite ((within_updPart ..).after ((within_localRead ..).mono))
    ((within_applyTable ..).after ((within_localRead ..).mono))))))))

theorem within_execHalt (d : DescRef) (s : State) :
    ∃ t, execHalt d s = .next t ∧ Within [.regs, .parts, .rings, .descs] s t := by
  dsimp only [execHalt]
  exact Within.onDesc fun x0 t => .ite ((within_complete ..).mono) (.ite (.refl _ _) ((within_updPart ..).mono))

theorem within_execFence (d : DescRef) (s : State) : ∃ t, execFence d s = .next t ∧ Within [.regs, .rings, .descs] s t := by
  dsimp only [execFence]
  exact Within.onDesc fun x0 t => (within_complete ..).mono

theorem within_carry_putSpan (s : State) (k : Nat) (bs : List Byte) :
    Within [.carry] s { s with carry := Table.putSpan zeroByte s.carry k bs } where
  touches p hp := by cases p <;> simp_all [Piece.same]
  memOk h := by
    rw [memOk_iff] at h ⊢
    exact ⟨h.1, Table.wf_putSpan _ _ _ _ h.2.1, h.2.2⟩
  queue := id

theorem within_writeRecord (s : State) (n off : Nat) (bs : List Byte) :
    Within [.regs, .mem, .carry, .sramErr, .cores, .flt] s (s.writeRecord n off bs) := by
  unfold State.writeRecord
  extract_lets part s1 lo s2 live
  have ram : Within [.regs, .mem, .carry, .sramErr, .cores, .flt] s s1 := .ite (within_wrSram ..).mono (.refl _ _)
  have carry : Within [.regs, .mem, .carry, .sramErr, .cores, .flt] s s2 := (within_carry_putSpan s1 ..).after ram
  exact .ite carry ((within_updCore ..).after carry)

theorem within_writeAll (s : State) (q : Nat) (l : List (Nat × List Byte)) :
    Within [.regs, .mem, .dramErr, .parts, .flt] s (s.writeAll q l).2 := by
  induction l generalizing s with
  | nil => exact .refl _ _
  | cons x l ih =>
    unfold State.writeAll
    split
    · exact within_wrDram ..
    · exact .trans (within_wrDram ..) (ih _)

theorem Within.foldl_pair {α β : Type} {ps : List Piece} {s : State} {f : β × State → α → β × State}
    (step : ∀ a x, ∃ b t, f a x = (b, t) ∧ Within ps a.2 t) (l : List α) {a : β × State} (h : Within ps s a.2) :
    Within ps s (l.foldl f a).2 := by
  induction l generalizing a with
  | nil => exact h
  | cons x l ih =>
    obtain ⟨b, t, e, k⟩ := step a x
    rw [List.foldl_cons, e]
    exact ih (h.trans k)

theorem within_readForSave (s : State) (q : Nat) (b : Binding) : Within [.regs, .flt] s (s.readForSave q b).2 := by
  unfold State.readForSave
  extract_lets c
  have tiles : Within [.regs, .flt] s c.2 := .foldl_pair (fun _ _ => ⟨_, _, rfl, within_windowRead ..⟩) _ (.refl _ _)
  exact .foldl_pair (fun _ _ => ⟨_, _, rfl, within_bufferRead ..⟩) _ tiles

theorem within_execSaveContext (d : DescRef) (s : State) :
    ∃ t, execSaveContext d s = .next t ∧ Within [.regs, .mem, .dramErr, .parts, .rings, .descs, .flt] s t := by
  dsimp only [execSaveContext]
  refine Within.onDesc fun x0 t => ?_
  split
  · exact (within_complete ..).mono
  · exact (within_complete ..).mono
  · exact .ite (.refl _ _) (.ite ((within_complete ..).mono) (.ite ((within_complete ..).mono) (.ite
      ((within_complete ..).mono) (.ite
      ((within_complete ..).after ((within_readForSave ..).after ((within_writeAll ..).mono)))
      ((within_complete ..).after ((within_writeAll ..).after ((within_readForSave ..).after ((within_writeAll
      ..).mono))))))))

theorem within_readContext (s : State) (q a space : Nat) : Within [.regs, .flt] s ((s.readContext q a space).2) := by
  dsimp only [State.readContext]
  split
  · exact .refl _ _
  · split
    · exact (within_dramRead ..).mono
    · split
      · exact (within_dramRead ..).mono
      · split
        · exact (within_dramRead ..).mono
        · split
          · exact (within_dramRead ..).mono
          · exact (within_dramRead ..).mono

theorem within_resetKeeping (s : State) (q : Nat) (b : Binding) (d : DescRef) :
    Within [.regs, .mem, .sramErr, .dramErr, .hostB, .cores, .parts, .hall, .rings, .descs, .flt,
      .mgt] s (s.resetKeeping q b d) := by
  dsimp only [State.resetKeeping]
  exact (within_updPart ..).after ((within_hall ..).after (.foldl (fun _ _ => (within_updCore ..).mono) _ (.foldl (fun _ _ =>
    (within_setReg ..).mono) _ ((within_resetPartFor ..).after ((within_drainPart ..).mono)))))

theorem within_restartRing {s t : State} {q : Nat} {b : Binding} {r : Nat} {d : RingDesc} {off : Nat}
    (h : s.restartRing q b r d off = some t) : Within [.regs, .mem, .sramErr, .parts, .hall, .flt] s t := by
  unfold State.restartRing at h
  extract_lets s1 at h
  have moved : Within [.regs, .mem, .sramErr, .parts, .hall, .flt] s s1 := (within_mapStreams ..).mono
  split at h
  · split at h
    · cases h
      exact (within_updPart ..).after moved
    · cases h
      exact (within_updPart ..).after moved
  · split at h
    · rename_i s2 u _ _
      have placed : Within [.regs, .mem, .sramErr, .parts, .hall, .flt] s s2 := (within_updPart ..).after moved
      have landed : Within [.regs, .mem, .sramErr, .parts, .hall, .flt] s u :=
        .ite ((within_landGroup ..).after placed) placed
      split at h
      · exact Option.some.inj h ▸ placed
      · split at h
        · contradiction
        · cases h
          exact (within_updPart ..).after landed
    · cases h
      exact (within_updPart ..).after moved

theorem Within.foldl_option {α : Type} {ps : List Piece} {f : Option State → α → Option State} (stuck : ∀ x, f none x = none)
    (step : ∀ {s t x}, f (some s) x = some t → Within ps s t) (l : List α) {s t : State}
    (h : l.foldl f (some s) = some t) : Within ps s t := by
  have none_stays (l : List α) : l.foldl f none = none := by
    induction l with
    | nil => rfl
    | cons x l ih => rw [List.foldl_cons, stuck, ih]
  induction l generalizing s with
  | nil =>
    cases h
    exact .refl _ _
  | cons x l ih =>
    rw [List.foldl_cons] at h
    cases e : f (some s) x with
    | none =>
      rw [e, none_stays] at h
      contradiction
    | some u => exact (step e).trans (ih (e ▸ h))

theorem within_restartRings {s t : State} {q : Nat} {b : Binding} {offs : List (Nat × Nat)}
    (h : s.restartRings q b offs = some t) : Within [.regs, .mem, .sramErr, .parts, .hall, .flt] s t := by
  unfold State.restartRings at h
  exact .foldl_option (fun _ => rfl) (fun e => within_restartRing e) _ h

theorem within_settleRestore (s : State) (q : Nat) :
    Within [.regs, .mem, .sramErr, .dramErr, .hostB, .cores, .parts, .hall, .rings, .descs, .flt,
      .mgt] s (s.settleRestore q) := by
  dsimp only [State.settleRestore]
  split
  · exact .ite ((within_resetPart ..).mono) (.ite ((within_complete ..).after ((within_updPart ..).mono)) (.refl _ _))
  · exact .refl _ _

theorem within_writeRecords (s : State) (q : Nat) (m : Context) :
    Within [.regs, .mem, .carry, .sramErr, .cores, .flt] s (s.writeRecords q m) :=
  .foldl (fun _ _ => (within_writeRecord ..).mono) _ (.refl _ _)

theorem within_writeRegions (s : State) (l : List Region) (bs : List Byte) :
    Within [.regs, .mem, .sramErr, .flt] s (s.writeRegions l bs) := by
  induction l generalizing s bs with
  | nil => exact .refl _ _
  | cons x l ih => exact .trans (within_bufferWrite ..) (ih _ _)

theorem within_execRestoreContext (d : DescRef) (s : State) :
    ∃ t, execRestoreContext d s = .next t ∧ Within [.regs, .mem, .carry, .sramErr, .dramErr, .hostB, .cores, .parts,
      .hall, .rings, .descs, .flt, .mgt] s t := by
  dsimp only [execRestoreContext]
  refine Within.onDesc fun x0 t => ?_
  refine .ite ?_ ?_
  · exact (within_settleRestore ..).mono
  · split
    · exact (within_complete ..).after (((within_readContext ..).of_pair ‹_›).mono)
    · split
      · exact (within_complete ..).after (((within_readContext ..).of_pair ‹_›).mono)
      · split
        · exact (within_complete ..).after (((within_readContext ..).of_pair ‹_›).mono)
        · split
          · exact
              (within_resetPart ..).after ((within_updPart ..).after ((within_updPart ..).after ((within_writeRegions
              ..).after ((within_writeRecords ..).after ((within_resetKeeping ..).after (((within_readContext ..).of_pair
              ‹_›).mono))))))
          · exact
              (within_settleRestore ..).after ((within_restartRings ‹_›).after ((within_updPart ..).after
              ((within_writeRegions ..).after ((within_writeRecords ..).after ((within_resetKeeping ..).after
              (((within_readContext ..).of_pair ‹_›).mono))))))

theorem within_readOthers (s : State) (q : Nat) (l : List Nat) : Within [.regs, .flt] s (s.readOthers q l).2 := by
  induction l generalizing s with
  | nil => exact .refl _ _
  | cons a l ih =>
    have first := within_readContext s q a (2 ^ 40)
    unfold State.readOthers
    split
    next e => exact first.of_pair e
    next t e =>
      have both := (first.of_pair e).trans (ih t)
      split
      next e => exact both.of_pair e
      next e => exact both.of_pair e

theorem within_foldEntry (s : State) (q : Nat) (b : Binding) (e : FoldEntry) :
    Within [.regs, .mem, .carry, .sramErr, .cores, .flt] s (s.foldEntry q b e) := by
  dsimp only [State.foldEntry]
  refine .ite ?_ ?_
  · split
    · exact (within_writeRecord ..).mono
    · exact .refl _ _
  · refine .ite ?_ ?_
    · split
      · exact (within_bufferWrite ..).mono
      · exact .refl _ _
    · exact .refl _ _

theorem within_execRefoldContext (d : DescRef) (s : State) :
    ∃ t, execRefoldContext d s = .next t ∧ Within [.regs, .mem, .carry, .sramErr, .dramErr, .hostB, .cores, .parts,
      .hall, .rings, .descs, .flt, .mgt] s t := by
  dsimp only [execRefoldContext]
  refine Within.onDesc fun x0 t => ?_
  refine .ite ?_ ?_
  · exact (within_settleRestore ..).mono
  · split
    · exact (within_complete ..).after (((within_readContext ..).of_pair ‹_›).mono)
    · refine .ite ?_ ?_
      · exact (within_complete ..).after (((within_readContext ..).of_pair ‹_›).mono)
      · split
        · exact
            (within_complete ..).after (((within_readOthers ..).of_pair ‹_›).after (((within_readContext ..).of_pair
            ‹_›).mono))
        · split
          · exact
              (within_complete ..).after (((within_readOthers ..).of_pair ‹_›).after (((within_readContext ..).of_pair
              ‹_›).mono))
          · split
            · exact
                (within_complete ..).after (((within_readOthers ..).of_pair ‹_›).after (((within_readContext ..).of_pair
                ‹_›).mono))
            · split
              · exact (within_resetPart ..).after ((within_updPart ..).after ((within_updPart ..).after (.foldl (fun _ _ =>
                  (within_foldEntry ..).mono) _ ((within_loadBetas ..).after (.foldl (fun _ _ => (within_updCore ..).mono) _
                  ((within_resetKeeping ..).after (((within_readOthers ..).of_pair ‹_›).after (((within_readContext
                  ..).of_pair ‹_›).mono))))))))
              · exact
                  (within_settleRestore ..).after ((within_restartRings ‹_›).after ((within_updPart ..).after (.foldl (fun _ _
                  => (within_foldEntry ..).mono) _ ((within_loadBetas ..).after (.foldl (fun _ _ =>
                  (within_updCore ..).mono) _
                  ((within_resetKeeping ..).after (((within_readOthers ..).of_pair ‹_›).after (((within_readContext
                  ..).of_pair ‹_›).mono))))))))

theorem within_refuse (s : State) (b router off : Nat) : Within [.regs, .parts, .edge, .flt] s (s.refuse b router off) :=
  .ite ((within_updPart ..).after (.ite (.refl _ _) ((within_edge ..).after ((within_reportBuffer ..).mono)))) (.ite
    (.refl _ _) ((within_edge ..).after ((within_reportBuffer ..).mono)))

theorem within_deliverWord (s : State) (ed : Edge) (r tick : Nat) (x : LinkWord) :
    Within [.cores] s (s.deliverWord ed r tick x) := (within_updCore ..).mono

theorem within_planRead (s : State) (q b off n router : Nat) :
    Within [.regs, .parts, .edge, .flt] s ((s.planRead q b off n router).2) := by
  dsimp only [State.planRead]
  refine (within_bufferRead ..).after ?_
  refine .ite ?_ ?_
  · refine (within_refuse ..).after ?_
    split
    · exact (within_updPart ..).mono
    · exact .refl _ _
  · split
    · exact (within_updPart ..).mono
    · exact .refl _ _

theorem within_execPlanDeliver (q : QuireId) (ed : Edge) (router : Fin 128) (entry : Fin 256) (s : State) :
    ∃ t, execPlanDeliver q ed router entry s = .next t ∧ Within [.regs, .cores, .parts, .edge, .flt] s t := by
  dsimp only [execPlanDeliver]
  split
  · exact ⟨_, rfl, .refl _ _⟩
  · split
    · exact ⟨_, rfl, (within_deliverWord ..).mono⟩
    · split
      · exact ⟨_, rfl, (within_deliverWord ..).after ((within_refuse ..).mono)⟩
      · exact ⟨_, rfl, (within_deliverWord ..).after ((within_edge ..).after ((within_planRead ..).mono))⟩

theorem within_execPlanCollect (q : QuireId) (ed : Edge) (router : Fin 128) (entry : Fin 256) (s : State) :
    ∃ t, execPlanCollect q ed router entry s = .next t ∧ Within [.regs, .parts, .edge, .flt] s t := by
  dsimp only [execPlanCollect]
  split
  · exact ⟨_, rfl, .refl _ _⟩
  · split
    · split
      · exact ⟨_, rfl, (within_refuse ..).mono⟩
      · exact ⟨_, rfl, (within_edge ..).after ((within_updPart ..).mono)⟩
    · split
      · exact ⟨_, rfl, (within_refuse ..).mono⟩
      · exact ⟨_, rfl, (within_edge ..).mono⟩

theorem within_landCollected (s : State) (w : EdgeWrite) :
    Within [.regs, .mem, .sramErr, .parts, .flt] s (s.landCollected w) := by
  dsimp only [State.landCollected]
  split
  · exact (within_updPart ..).after ((within_bufferWrite ..).mono)
  · exact (within_bufferWrite ..).mono

theorem within_endEdgeCycle (s : State) : Within [.regs, .mem, .sramErr, .parts, .edge, .flt] s s.endEdgeCycle :=
  .foldl (fun _ _ => (within_landCollected ..).mono) _ ((within_edge ..).mono)

theorem within_execHoldRaise (q : QuireId) (s : State) : ∃ t, execHoldRaise q s = .next t ∧ Within [.regs, .parts] s t := by
  dsimp only [execHoldRaise]
  split
  · split
    · exact ⟨_, rfl, (within_updPart ..).mono⟩
    · exact ⟨_, rfl, (within_setRf ..).after ((within_count ..).after ((within_updPart ..).mono))⟩
  · exact ⟨_, rfl, .refl _ _⟩

theorem within_execHoldDrop (q : QuireId) (s : State) : ∃ t, execHoldDrop q s = .next t ∧ Within [.regs, .parts] s t := by
  dsimp only [execHoldDrop]
  split
  · split
    · exact ⟨_, rfl, (within_peak ..).after ((within_updPart ..).mono)⟩
    · exact ⟨_, rfl, .refl _ _⟩
  · exact ⟨_, rfl, .refl _ _⟩

theorem within_execHoldTimeout (q : QuireId) (s : State) :
    ∃ t, execHoldTimeout q s = .next t ∧ Within [.regs, .parts, .flt] s t := by
  dsimp only [execHoldTimeout]
  split
  · split
    · exact ⟨_, rfl, (within_report ..).after ((within_updPart ..).mono)⟩
    · exact ⟨_, rfl, .refl _ _⟩
  · exact ⟨_, rfl, .refl _ _⟩

theorem within_execPergolaStop (q : QuireId) (s : State) : ∃ t, execPergolaStop q s = .next t ∧ Within [.parts] s t :=
  ⟨_, rfl, .ite ((within_stopPart ..).mono) (.refl _ _)⟩

theorem within_endCmd (s : State) (c : MgtCmd) (status result : Nat) (data : List Byte) :
    Within [.regs, .mgt, .msix] s (s.endCmd c status result data) := by
  dsimp only [State.endCmd]
  split
  · exact .ite ((within_interrupt ..).after ((within_setRf ..).after ((within_setRf ..).after ((within_setRf ..).mono))))
      ((within_setRf ..).after ((within_setRf ..).after ((within_setRf ..).mono)))
  · exact .ite ((within_mgt ..).mono) (.refl _ _)

theorem within_dropUnknown (s : State) (n : Nat) : Within [.regs, .mgt, .msix] s (s.dropUnknown n) := by
  induction n generalizing s with
  | zero => exact .refl _ _
  | succ n ih =>
    unfold State.dropUnknown
    split
    · exact .ite (.refl _ _) (.trans ((within_endCmd ..).after (within_mgt ..).mono) (ih _))
    · exact .refl _ _

theorem within_pushCmd (s : State) (c : MgtCmd) : Within [.regs, .mgt, .msix] s (s.pushCmd c) :=
  (within_dropUnknown ..).after ((within_mgt ..).mono)

theorem within_popCmd (s : State) : Within [.mgt] s s.popCmd := (within_mgt ..).mono

theorem Within.serve {ps : List Piece} {s : State} {op : Nat} {f : MgtCmd → State → State}
    (h : ∀ c t, Within ps t (f c t)) (sub : [.regs, .mgt, .msix] ⊆ ps := by decide) : Within ps s (s.serve op f) := by
  have pop : Within ps s s.popCmd := (within_popCmd s).mono fun _ hp => sub (by simp_all)
  have close {t c st} (k : Within ps s t) : Within ps s (t.endCmd c st 0 []) := (within_endCmd ..).after k sub
  unfold State.serve
  split
  · exact .refl _ _
  · exact .ite (.refl _ _) ((within_dropUnknown ..).after
      (.ite (close pop) (.ite (close pop) (pop.trans (h _ _)))) sub)

theorem within_sagRefused (s : State) (c : MgtCmd) : Within [.regs, .mgt, .msix] s (s.sagRefused c) :=
  (within_endCmd ..).after ((within_raise ..).mono)

theorem within_cmdData (s : State) (c : MgtCmd) (a n : Nat) : Within [.regs, .flt] s ((s.cmdData c a n).2) := by
  dsimp only [State.cmdData]
  split
  · exact .refl _ _
  · split
    · exact (within_dramRead ..).mono
    · exact (within_dramRead ..).mono

theorem Within.withData {ps : List Piece} {s : State} {c : MgtCmd} {a n : Nat} {f : List Byte → State → State}
    (h : ∀ bs t, Within ps t (f bs t)) (sub : [.regs, .flt, .mgt, .msix] ⊆ ps := by decide) :
    Within ps s (s.withData c a n f) := by
  have close {t st} (k : Within ps s t) : Within ps s (t.endCmd c st 0 []) :=
    (within_endCmd ..).after k (List.Subset.trans (by decide) sub)
  have data : Within ps s (s.cmdData c a n).2 := (within_cmdData ..).mono (List.Subset.trans (by decide) sub)
  unfold State.withData
  refine .ite (close (.refl _ _)) ?_
  split
  · exact close (data.of_pair ‹_›)
  · exact (data.of_pair ‹_›).trans (h _ _)

theorem within_ghsEvent (s : State) (event : Nat) : Within [.regs, .flt] s (s.ghsEvent event) := (within_enterLog ..).mono

theorem within_endWrite (s : State) (j : FlashJob) (status : Nat) : Within [.regs, .mgt, .msix] s (s.endWrite j status) := by
  dsimp only [State.endWrite]
  split
  · exact (within_endCmd ..).after ((within_mgt ..).after ((within_setRf ..).mono))
  · exact (within_mgt ..).after ((within_setRf ..).mono)

theorem within_cutWrite (s : State) : Within [.regs, .flash, .mgt, .msix] s s.cutWrite := by
  dsimp only [State.cutWrite]
  split
  · exact (within_endWrite ..).after ((within_raise ..).after ((within_programPage ..).mono))
  · exact .refl _ _

theorem within_writeSlot (s : State) (k : Nat) (cmd : Option MgtCmd) (img : List Byte) :
    Within [.regs, .flash, .mgt] s (s.writeSlot k cmd img) := (within_startWrite ..).mono

theorem within_wroteAll (s : State) (j : FlashJob) : Within [.regs, .flash, .flt, .mgt, .msix] s (s.wroteAll j) := by
  dsimp only [State.wroteAll]
  split
  · exact (within_endWrite ..).after ((within_setRf ..).after ((within_setRf ..).after ((within_setRf ..).mono)))
  · exact (within_endWrite ..).after ((within_ghsEvent ..).mono)
  · exact .ite ((within_endWrite ..).mono) (.ite ((within_endWrite ..).after ((within_ghsEvent ..).mono)) (.ite
      ((within_endWrite ..).after ((within_raise ..).mono)) ((within_writeSlot ..).mono)))

theorem within_flashCycle (s : State) : Within [.regs, .flash, .flt, .mgt, .msix] s s.flashCycle := by
  dsimp only [State.flashCycle]
  split
  · exact .refl _ _
  · exact .ite (.refl _ _) (.ite ((within_wroteAll ..).after ((within_programPage ..).mono))
      ((within_mgt ..).after ((within_programPage ..).mono)))

theorem within_storeCycle (s : State) : Within [.regs, .flash, .boot, .mgt] s s.storeCycle :=
  .ite (.refl _ _) (.ite ((within_raise ..).after ((within_boot ..).mono))
    ((within_writeStore ..).after ((within_boot ..).mono)))

theorem within_execSupplySag (s : State) :
    ∃ t, execSupplySag s = .next t ∧ Within [.regs, .flash, .boot, .mgt, .msix] s t :=
  ⟨_, rfl, (within_boot ..).after ((within_cutWrite ..).mono)⟩

theorem within_execModuleReset (s : State) :
    ∃ t, execModuleReset s = .next t ∧ Within [.clk, .regs, .mem, .carry, .sramErr, .dramErr, .flash, .boot, .cores,
      .lanes, .parts, .chans, .edge, .hall, .rings, .descs, .sems, .ent, .flt, .mgt, .pwr, .msix, .msixTable] s t :=
  ⟨_, rfl, .serve (fun _ _ => (within_moduleReset ..).after ((within_cutWrite ..).mono))⟩

theorem within_execQuireReset (s : State) :
    ∃ t, execQuireReset s = .next t ∧ Within [.regs, .mem, .sramErr, .cores, .parts, .flt, .mgt, .msix] s t := by
  dsimp only [execQuireReset]
  refine ⟨_, rfl, ?_⟩
  refine .serve fun x0 t => ?_
  refine .ite ?_ ?_
  · exact (within_endCmd ..).mono
  · split
    · exact .ite ((within_endCmd ..).after ((within_resetQuire ..).mono)) ((within_endCmd ..).mono)
    · exact (within_endCmd ..).after ((within_resetQuire ..).mono)

theorem within_execRegionAlloc (s : State) : ∃ t, execRegionAlloc s = .next t ∧ Within [.regs, .mgt, .msix] s t := by
  refine ⟨_, rfl, .serve fun c t => ?_⟩
  refine .ite (within_endCmd ..) ?_
  split
  next h => exact (within_endCmd ..).after (within_allocAt h).mono
  · exact within_endCmd ..

theorem within_execRegionFree (s : State) : ∃ t, execRegionFree s = .next t ∧ Within [.regs, .mgt, .msix] s t :=
  ⟨_, rfl, .serve (fun _ _ => .ite ((within_endCmd ..).mono) (.ite ((within_endCmd ..).mono) (.ite ((within_endCmd ..).mono)
    (.ite ((within_endCmd ..).mono) ((within_endCmd ..).after ((within_freeAt ..).mono))))))⟩

theorem within_execConfigWrite (s : State) :
    ∃ t, execConfigWrite s = .next t ∧ Within [.regs, .flash, .flt, .mgt, .msix] s t := by
  dsimp only [execConfigWrite]
  refine ⟨_, rfl, ?_⟩
  refine .serve fun x0 t => ?_
  refine .ite ?_ ?_
  · exact (within_endCmd ..).mono
  · refine .withData fun x0 t => ?_
    split
    · exact (within_endCmd ..).mono
    · exact .ite ((within_endCmd ..).mono) (.ite ((within_sagRefused ..).mono) ((within_writeStore ..).mono))

theorem within_execCalWrite (s : State) :
    ∃ t, execCalWrite s = .next t ∧ Within [.regs, .flash, .fuse, .flt, .mgt, .msix] s t :=
  ⟨_, rfl, .serve (fun _ _ => .withData (fun _ _ => .ite ((within_endCmd ..).mono) (.ite ((within_sagRefused ..).mono)
    ((within_startWrite ..).after ((within_fuse ..).after ((within_setRf ..).mono))))))⟩

theorem within_updateFw (s : State) (c : MgtCmd) (img : List Byte) :
    Within [.regs, .flash, .mgt, .msix] s (s.updateFw c img) :=
  .ite ((within_endCmd ..).mono) (.ite ((within_endCmd ..).mono) (.ite ((within_sagRefused ..).mono)
    ((within_writeSlot ..).mono)))

theorem within_execFwUpdate (host : List Byte) (s : State) :
    ∃ t, execFwUpdate host s = .next t ∧ Within [.regs, .flash, .flt, .mgt, .msix] s t :=
  ⟨_, rfl, .serve (fun _ _ => .ite ((within_updateFw ..).mono) (.withData (fun _ _ => (within_updateFw ..).mono)))⟩

theorem within_execFwCommit (s : State) : ∃ t, execFwCommit s = .next t ∧ Within [.regs, .fuse, .flt, .mgt, .msix] s t :=
  ⟨_, rfl, .serve (fun _ _ => .ite ((within_endCmd ..).mono) (.ite ((within_endCmd ..).mono) (.ite
    ((within_sagRefused ..).mono)
    ((within_endCmd ..).after ((within_ghsEvent ..).after ((within_setRf ..).after ((within_fuse ..).mono)))))))⟩

theorem within_eraseSector (s : State) (a : Nat) : Within [.flash] s (s.eraseSector a) := (within_flashErase ..).mono

theorem within_programEntry (s : State) (e : FaultMsg × U64) : Within [.flash, .mgt] s (s.programEntry e) :=
  (within_mgt ..).after ((within_flashWr ..).after (.ite ((within_eraseSector ..).mono) (.refl _ _)))

theorem within_execLogProgram (s : State) : ∃ t, execLogProgram s = .next t ∧ Within [.flash, .flt, .mgt] s t := by
  dsimp only [execLogProgram]
  split
  · exact ⟨_, rfl, .refl _ _⟩
  · split
    · exact ⟨_, rfl, .foldl (fun _ _ => (within_programEntry ..).mono) _ ((within_flt ..).mono)⟩
    · exact ⟨_, rfl, .refl _ _⟩

theorem within_execLogRead (s : State) :
    ∃ t, execLogRead s = .next t ∧ Within [.regs, .mem, .dramErr, .parts, .flt, .mgt, .msix] s t :=
  ⟨_, rfl, .serve (fun _ _ => .ite ((within_endCmd ..).mono) (.ite ((within_endCmd ..).after ((within_wrDram ..).mono))
    ((within_endCmd ..).mono)))⟩

theorem within_execAttest (s : State) : ∃ t, execAttest s = .next t ∧ Within [.regs, .flt, .mgt, .msix] s t := by
  dsimp only [execAttest]
  refine ⟨_, rfl, ?_⟩
  refine .serve fun x0 t => ?_
  refine .ite ?_ ?_
  · exact (within_endCmd ..).mono
  · refine .withData fun x0 t => ?_
    refine .ite ?_ ?_
    · exact (within_endCmd ..).mono
    · refine .ite ?_ ?_
      · exact (within_endCmd ..).after ((within_count ..).mono)
      · refine .ite ?_ ?_
        · exact (within_endCmd ..).mono
        · split
          · exact ((within_askSign ..).of_pair ‹_›).mono
          · exact (within_endCmd ..).after (((within_askSign ..).of_pair ‹_›).mono)

theorem within_mctpSend (s : State) (bs : List Byte) : Within [.mgt] s (s.mctpSend bs) := (within_mgt ..).mono

theorem within_endSign (s : State) (j : SignJob) (sig : Option (List Byte)) :
    Within [.regs, .mem, .dramErr, .parts, .rings, .descs, .flt, .mgt, .msix] s (s.endSign j sig) := by
  dsimp only [State.endSign]
  split
  · refine (within_settleJob ..).after ?_
    refine (within_updPart ..).after ?_
    split
    · exact (within_wrDram ..).after ((within_wrDram ..).mono)
    · exact .refl _ _
  · split
    · exact .ite ((within_endCmd ..).after ((within_wrDram ..).mono)) ((within_endCmd ..).mono)
    · exact (within_endCmd ..).mono
  · split
    · exact (within_mctpSend ..).mono
    · exact .refl _ _

theorem within_execGatehouseSign (s : State) :
    ∃ t, execGatehouseSign s = .next t ∧ Within [.regs, .mem, .dramErr, .parts, .rings, .descs, .ent, .flt, .mgt,
      .msix] s t := by
  dsimp only [execGatehouseSign]
  split
  · exact ⟨_, rfl, .refl _ _⟩
  · split
    · exact ⟨_, rfl, .refl _ _⟩
    · split
      · exact ⟨_, rfl, (within_endSign ..).after ((within_count ..).after ((within_mgt ..).mono))⟩
      · split
        · exact ⟨_, rfl, (within_endSign ..).after ((within_mgt ..).after ((within_takeFor ‹_›).mono))⟩
        · exact ⟨_, rfl, .refl _ _⟩

theorem within_execDebugOpen (s : State) : ∃ t, execDebugOpen s = .next t ∧ Within [.regs, .mgt, .msix] s t := by
  dsimp only [execDebugOpen]
  split
  · exact ⟨_, rfl, .ite (.refl _ _) (.serve (fun _ _ => .ite ((within_endCmd ..).after ((within_mgt ..).mono))
      ((within_endCmd ..).mono)))⟩
  · exact ⟨_, rfl, .refl _ _⟩

theorem within_execDebugClose (s : State) : ∃ t, execDebugClose s = .next t ∧ Within [.regs, .mgt, .msix] s t := by
  dsimp only [execDebugClose]
  split
  · exact ⟨_, rfl, .ite (.refl _ _) (.serve (fun _ _ => (within_endCmd ..).after ((within_mgt ..).mono)))⟩
  · exact ⟨_, rfl, .refl _ _⟩

theorem within_kickWdt (s : State) (who : Requester) (value : Nat) : Within [.mgt] s (s.kickWdt who value) :=
  .ite ((within_mgt ..).mono) (.refl _ _)

theorem within_execKick (who : Requester) (value : Byte) (s : State) :
    ∃ t, execKick who value s = .next t ∧ Within [.mgt] s t := ⟨_, rfl, (within_kickWdt ..).mono⟩

theorem within_execGhsWatchdog (pc : BitVec 40) (s : State) :
    ∃ t, execGhsWatchdog pc s = .next t ∧ Within [.clk, .regs, .mem, .carry, .sramErr, .dramErr, .hostB, .flash, .boot,
      .cores, .lanes, .parts, .chans, .edge, .hall, .rings, .descs, .sems, .ent, .flt, .mgt, .pwr, .msix,
      .msixTable] s t := by
  dsimp only [execGhsWatchdog]
  split
  · exact ⟨_, rfl, .refl _ _⟩
  · split
    · exact ⟨_, rfl, (within_moduleReset ..).after ((within_fatalMsg ..).mono)⟩
    · exact ⟨_, rfl, .refl _ _⟩

theorem within_sramCycle (s : State) : Within [.regs, .mgt] s s.sramCycle := by
  dsimp only [State.sramCycle]
  refine .ite ?_ ?_
  · exact .refl _ _
  · split
    · exact .refl _ _
    · exact .ite ((within_count ..).mono) (.ite ((within_mgt ..).mono) (.refl _ _))

theorem within_sampleSensor (s : State) (x : Fin 128 × U16) : Within [.regs, .flt, .mgt, .pwr] s (s.sampleSensor x) := by
  have both (x : Gatehouse) (y : Power) : Within [.regs, .flt, .mgt, .pwr] s { s with mgt := x, pwr := y } :=
    (within_pwr { s with mgt := x } y).after (within_mgt s x).mono
  exact (within_warn ..).after (both _ _)

theorem within_takeSensor (s : State) (x : Fin 128 × U16) : Within [.regs, .flt, .mgt, .pwr] s (s.takeSensor x) :=
  .ite ((within_railFailed ..).mono) ((within_sampleSensor ..).mono)

theorem within_execSensorSample (values : List (Fin 128 × U16)) (s : State) :
    ∃ t, execSensorSample values s = .next t ∧ Within [.regs, .flt, .mgt, .pwr] s t :=
  ⟨_, rfl, .ite (.refl _ _) (.foldl (fun _ _ => (within_takeSensor ..).mono) _ (.refl _ _))⟩

theorem within_execMgeDatagram (bytes : List Byte) (s : State) :
    ∃ t, execMgeDatagram bytes s = .next t ∧ Within [.regs, .mgt, .msix] s t := by
  dsimp only [execMgeDatagram]
  split
  · exact ⟨_, rfl, .refl _ _⟩
  · split
    · split
      · split
        · exact ⟨_, rfl, (within_mgt ..).mono⟩
        · exact ⟨_, rfl, (within_pushCmd ..).after ((within_mgt ..).mono)⟩
      · split
        · exact ⟨_, rfl, (within_mgt ..).mono⟩
        · exact ⟨_, rfl, (within_pushCmd ..).after ((within_mgt ..).mono)⟩
    · split
      · exact ⟨_, rfl, (within_mgt ..).mono⟩
      · exact ⟨_, rfl, (within_pushCmd ..).after ((within_mgt ..).mono)⟩

theorem within_execMctpMessage (bytes : List Byte) (s : State) :
    ∃ t, execMctpMessage bytes s = .next t ∧ Within [.regs, .mgt, .msix] s t := by
  dsimp only [execMctpMessage]
  split
  · exact ⟨_, rfl, .refl _ _⟩
  · refine ⟨_, rfl, ?_⟩
    split
    · refine (within_pushCmd ..).after ?_
      refine .ite ?_ ?_
      · split
        · exact (within_askSign ..).mono
        · exact .refl _ _
      · refine (within_mctpSend ..).after ?_
        split
        · exact (within_askSign ..).mono
        · exact .refl _ _
    · refine .ite ?_ ?_
      · split
        · exact (within_askSign ..).mono
        · exact .refl _ _
      · refine (within_mctpSend ..).after ?_
        split
        · exact (within_askSign ..).mono
        · exact .refl _ _

theorem within_execHostLinkUp (p : Port) (gen : BitVec 3) (width : BitVec 5) (s : State) :
    ∃ t, execHostLinkUp p gen width s = .next t ∧ Within [.regs] s t :=
  ⟨_, rfl, .ite (.refl _ _) ((within_setRf ..).after ((within_setRf ..).after ((within_setRf ..).mono)))⟩

theorem within_openConn (s : State) (d : Nat) : Within [.regs, .mem, .sramErr, .hall, .flt] s (s.openConn d) :=
  (within_sendNext ..).after ((within_queueCtrl ..).after ((within_updConn ..).after ((within_grantWindow ..).mono)))

theorem within_closeConn (s : State) (d : Nat) : Within [.parts, .hall] s (s.closeConn d) := by
  dsimp only [State.closeConn]
  exact (within_updConn ..).after ((within_stopStreams ..).after (.ite ((within_sendTo ..).mono) (.refl _ _)))

theorem within_peerValid (s : State) (d : Nat) (valid : Bool) :
    Within [.regs, .mem, .sramErr, .parts, .hall, .flt] s (s.peerValid d valid) :=
  .ite ((within_setRf ..).mono) (.ite ((within_openConn ..).after ((within_setRf ..).mono))
    ((within_closeConn ..).after ((within_setRf ..).mono)))

theorem within_execPeerValidWrite (who : Requester) (d : PeerId) (valid : Bool) (s : State) :
    ∃ t, execPeerValidWrite who d valid s = .next t ∧ Within [.regs, .mem, .sramErr, .parts, .hall, .flt] s t :=
  ⟨_, rfl, .ite ((within_peerValid ..).mono) (.refl _ _)⟩

theorem within_hallDown (s : State) (p : Nat) : Within [.regs] s (s.hallDown p) :=
  .ite ((within_count ..).after ((within_setRf ..).after ((within_setRf ..).mono)))
    ((within_setRf ..).after ((within_setRf ..).mono))

theorem within_portMode (s : State) (p mode : Nat) (medium : Bool) : Within [.regs] s (s.portMode p mode medium) :=
  .ite (.refl _ _) ((within_hallDown ..).after ((within_setRf ..).after ((within_setRf ..).mono)))

theorem within_execPortModeWrite (who : Requester) (p : HallPort) (mode : BitVec 2) (medium : Bool) (s : State) :
    ∃ t, execPortModeWrite who p mode medium s = .next t ∧ Within [.regs] s t :=
  ⟨_, rfl, .ite ((within_portMode ..).mono) (.refl _ _)⟩

theorem within_execHallLinkDown (p : HallPort) (s : State) : ∃ t, execHallLinkDown p s = .next t ∧ Within [.regs] s t :=
  ⟨_, rfl, (within_hallDown ..).mono⟩

theorem within_execHallLinkUp (p : HallPort) (s : State) : ∃ t, execHallLinkUp p s = .next t ∧ Within [.regs] s t :=
  ⟨_, rfl, .ite ((within_setRf ..).after ((within_setRf ..).mono)) (.refl _ _)⟩

theorem within_execMacsecRekey (p : HallPort) (an : BitVec 2) (xpn : Bool) (key : BitVec 256) (transmit : Bool) (s : State) :
    ∃ t, execMacsecRekey p an xpn key transmit s = .next t ∧ Within [.hall, .ent] s t :=
  ⟨_, rfl, .ite (.refl _ _) ((within_settleKeying ..).after ((within_hall ..).mono))⟩

theorem within_gtbStep (s : State) (delta : U64) : Within [.clk, .regs] s (s.gtbStep delta) :=
  .ite ((within_raise ..).mono) ((within_clk ..).mono)

theorem within_execGtbStepWrite (who : Requester) (delta : U64) (s : State) :
    ∃ t, execGtbStepWrite who delta s = .next t ∧ Within [.clk, .regs] s t :=
  ⟨_, rfl, .ite ((within_gtbStep ..).mono) (.refl _ _)⟩

theorem within_execGtbLocked (within1 within4 synce : Bool) (s : State) :
    ∃ t, execGtbLocked within1 within4 synce s = .next t ∧ Within [.regs] s t :=
  ⟨_, rfl, (within_setRf ..).after ((within_setRf ..).mono)⟩

theorem within_storeUnit (s : State) (w : UnitWrite) (p : RegPlace) : Within [.regs] s (s.storeUnit w p) :=
  (within_setReg ..).mono

theorem within_execArrModeWrite (who : Requester) (det : Bool) (s : State) :
    ∃ t, execArrModeWrite who det s = .next t ∧ Within [.regs] s t := ⟨_, rfl, .ite ((within_modeWrite ..).mono) (.refl _ _)⟩

theorem within_prtCtrlWrite (s : State) (w : UnitWrite) (q : Nat) :
    Within [.regs, .mem, .sramErr, .dramErr, .hostB, .cores, .parts, .hall, .rings, .descs, .flt,
      .mgt] s (s.prtCtrlWrite w q) :=
  .ite (.ctrlWrite (fun _ => .ite ((within_resetIf ..).after (.ite ((within_dissolvePart ..).after (.ite
    ((within_createPart ..).after ((within_setSize ..).mono)) ((within_setSize ..).mono))) (.ite
    ((within_createPart ..).after ((within_setSize ..).mono)) ((within_setSize ..).mono)))) (.ite
    ((within_dissolvePart ..).after (.ite ((within_createPart ..).after ((within_setSize ..).mono))
    ((within_setSize ..).mono))) (.ite ((within_createPart ..).after ((within_setSize ..).mono))
    ((within_setSize ..).mono))))) (.refl _ _)

theorem within_prtOwnerWrite (s : State) (w : UnitWrite) (p : RegPlace) : Within [.regs] s (s.prtOwnerWrite w p) :=
  .ite ((within_ownerWrite ..).after (.ite ((within_storeUnit ..).mono) (.refl _ _))) (.refl _ _)

theorem within_ringWrite (s : State) (w : UnitWrite) (p : RegPlace) : Within [.regs, .rings, .descs] s (s.ringWrite w p) := by
  dsimp only [State.ringWrite]
  split
  · exact (within_ringSwitch ..).after ((within_storeUnit ..).mono)
  · exact (within_storeUnit ..).mono

theorem within_drainWrite (s : State) (w : UnitWrite) (p : RegPlace) : Within [.regs, .parts] s (s.drainWrite w p) :=
  .ite ((within_updPart ..).after ((within_storeUnit ..).mono)) ((within_storeUnit ..).mono)

theorem within_cmdWrite (s : State) (w : UnitWrite) : Within [.regs, .mgt, .msix] s (s.cmdWrite w) :=
  .ite ((within_raise ..).mono) (.ite ((within_pushCmd ..).after ((within_setRf ..).mono)) (.refl _ _))

theorem within_argWrite (s : State) (w : UnitWrite) (p : RegPlace) : Within [.regs] s (s.argWrite w p) :=
  .ite ((within_raise ..).mono) ((within_storeUnit ..).mono)

theorem within_pwrCtrlWrite (s : State) (w : UnitWrite) (p : RegPlace) :
    Within [.regs, .chans, .pwr] s (s.pwrCtrlWrite w p) :=
  .ite (.ite ((within_raise ..).mono) (.refl _ _)) (.ite (.ite ((within_requestPower ..).after ((within_storeUnit ..).mono))
    ((within_raise ..).mono)) ((within_storeUnit ..).mono))

theorem within_schedWrite (s : State) (w : UnitWrite) (p : RegPlace) : Within [.regs] s (s.schedWrite w p) :=
  .ite ((within_storeUnit ..).mono) (.ite ((within_schedArm ..).mono) (.ite (.ite
    ((within_setRf ..).after ((within_schedDisarm ..).mono)) ((within_schedDisarm ..).mono)) (.refl _ _)))

theorem within_wdtWrite (s : State) (w : UnitWrite) : Within [.regs, .mgt] s (s.wdtWrite w) :=
  .ite ((within_kickWdt ..).after (.ite ((within_setRf ..).mono) (.refl _ _))) (.ite ((within_setRf ..).mono) (.refl _ _))

theorem within_portcfgWrite (s : State) (w : UnitWrite) (p : RegPlace) : Within [.regs] s (s.portcfgWrite w p) :=
  .ite ((within_portMode ..).after ((within_storeUnit ..).mono)) ((within_storeUnit ..).mono)

theorem within_peerWrite (s : State) (w : UnitWrite) (p : RegPlace) :
    Within [.regs, .mem, .sramErr, .parts, .hall, .flt] s (s.peerWrite w p) :=
  .ite ((within_peerValid ..).after ((within_storeUnit ..).mono)) ((within_storeUnit ..).mono)

theorem within_actionWrite (s : State) (w : UnitWrite) (p : RegPlace) : Within [.regs, .flt] s (s.actionWrite w p) :=
  .ite (.refl _ _) ((within_flt ..).after ((within_storeUnit ..).mono))

theorem within_unitWrite (s : State) (w : UnitWrite) (p : RegPlace) :
    Within [.clk, .regs, .mem, .sramErr, .dramErr, .hostB, .cores, .parts, .chans, .hall, .rings, .descs, .sems, .ent,
      .flt, .mgt, .pwr, .msix] s (s.unitWrite w p) := by
  dsimp only [State.unitWrite]
  split
  · exact .ite ((within_resetCore ..).mono) (.refl _ _)
  · split
    · exact (within_modeWrite ..).after ((within_storeUnit ..).mono)
    · exact (within_storeUnit ..).mono
  · exact (within_prtCtrlWrite ..).mono
  · exact (within_prtOwnerWrite ..).mono
  · exact (within_ringWrite ..).mono
  · exact (within_drainWrite ..).mono
  · exact .ite ((within_semWrite ..).mono) (.refl _ _)
  · exact .ite ((within_gtbStep ..).mono) (.refl _ _)
  · exact (within_portcfgWrite ..).mono
  · exact (within_peerWrite ..).mono
  · exact .ite (.ite ((within_entOn ..).mono) ((within_entOff ..).mono)) (.refl _ _)
  · exact (within_actionWrite ..).mono
  · exact .ite ((within_infoClear ..).mono) (.refl _ _)
  · exact (within_pendWrite ..).mono
  · exact .ite ((within_holdRelease ..).mono) (.refl _ _)
  · exact (within_cmdWrite ..).mono
  · exact (within_argWrite ..).mono
  · exact (within_wdtWrite ..).mono
  · exact (within_pwrCtrlWrite ..).mono
  · exact (within_schedWrite ..).mono
  · exact .ite ((within_ghsSel ..).mono) (.refl _ _)
  · exact .ite ((within_tsyncMode ..).after ((within_storeUnit ..).mono)) ((within_storeUnit ..).mono)
  · exact (within_storeUnit ..).mono

theorem within_regWrite (s : State) (who : Requester) (off size value : Nat) :
    Within [.clk, .regs, .mem, .sramErr, .dramErr, .hostB, .cores, .parts, .chans, .hall, .rings, .descs, .sems, .ent,
      .flt, .mgt, .pwr, .msix] s (s.regWrite who off size value) := by
  dsimp only [State.regWrite]
  refine .ite ?_ ?_
  · split
    · exact .refl _ _
    · exact (within_unitWrite ..).mono
  · exact .refl _ _

theorem within_execRegisterWrite (who : Requester) (off : BitVec 25) (size : Nat) (value : U64) (s : State) :
    ∃ t, execRegisterWrite who off size value s = .next t ∧ Within [.clk, .regs, .mem, .sramErr, .dramErr, .hostB, .cores,
      .parts, .chans, .hall, .rings, .descs, .sems, .ent, .flt, .mgt, .pwr, .msix] s t :=
  ⟨_, rfl, (within_regWrite ..).mono⟩

theorem within_stranger (s : State) (p step : Nat) : Within [.regs, .hall, .flt] s (s.stranger p step) :=
  .ite ((within_count ..).mono) ((within_report ..).after ((within_updPort ..).after ((within_count ..).mono)))

theorem within_stamp (s : State) (p : HallPort) (sent : Bool) (f : Frame) : Within [.hall] s (s.stamp p sent f) :=
  .ite ((within_hall ..).mono) (.refl _ _)

theorem within_management (s : State) (p : HallPort) (f : Frame) : Within [.hall] s (s.management p f) :=
  .ite ((within_hall ..).after ((within_stamp ..).after ((within_updPort ..).mono)))
    ((within_putOnWire ..).after ((within_stamp ..).after ((within_hall ..).after ((within_stamp ..).after ((within_updPort
    ..).mono)))))

theorem within_acceptSeq (s : State) (d seq : Nat) (isCtrl : Bool) (stream : Nat) (payload : List Byte) :
    Within [.regs, .mem, .sramErr, .hall, .flt] s (s.acceptSeq d seq isCtrl stream payload) := by
  dsimp only [State.acceptSeq]
  refine .ite ?_ ?_
  · exact (within_count ..).mono
  · refine .ite ?_ ?_
    · exact (within_count ..).mono
    · refine .ite ?_ ?_
      · exact (within_updConn ..).mono
      · split
        · exact .refl _ _
        · exact (within_updConn ..).after ((within_bufferWrite ..).mono)

theorem within_dropHeld (s : State) (d seq : Nat) : Within [.hall] s (s.dropHeld d seq) := (within_updConn ..).mono

theorem within_delivered (s : State) (d : Nat) : Within [.hall] s (s.delivered d) := (within_updConn ..).mono

theorem within_pushMsgs (s : State) (d : Nat) (body : List Byte) : Within [.hall] s (s.pushMsgs d body) :=
  (within_hall ..).mono

theorem within_hallWrite (s : State) (a : Nat) (bs : List Byte) :
    Within [.clk, .regs, .mem, .sramErr, .dramErr, .hostB, .cores, .parts, .chans, .hall, .rings, .descs, .sems, .ent,
      .flt, .mgt, .pwr, .msix] s (s.hallWrite a bs) :=
  .ite (.foldl (fun _ _ => (within_regWrite ..).mono) _ (.refl _ _)) ((within_localWrite ..).mono)

theorem within_stagedFrame (s : State) (f : RxFrame) : Within [.regs, .flt] s ((s.stagedFrame f).2) :=
  (within_bufferRead ..).mono

theorem within_enterRing (s : State) (q r : Nat) (b : Binding) (d : RingDesc) (bs : List Byte) :
    Within [.regs, .mem, .sramErr, .parts, .flt] s (s.enterRing q r b d bs) := by
  dsimp only [State.enterRing]
  exact (within_updPart ..).after (.ite ((within_bufferWrite ..).after ((within_bufferWrite ..).mono))
    ((within_bufferWrite ..).mono))

theorem within_updStream (s : State) (d id : Nat) (send : Bool) (f : Stream → Stream) :
    Within [.hall] s (s.updStream d id send f) := (within_mapStreams ..).mono

theorem within_noteServed (s : State) (x : Stream) : Within [.hall] s (s.noteServed x) := (within_hall ..).mono

theorem within_putParts (s : State) (bs : List Byte) (l : List (Nat × Nat × Nat)) :
    Within [.clk, .regs, .mem, .sramErr, .dramErr, .hostB, .cores, .parts, .chans, .hall, .rings, .descs, .sems, .ent, .flt,
      .mgt, .pwr, .msix] s (s.putParts bs l).2 := by
  induction l generalizing s with
  | nil => exact .refl _ _
  | cons w l ih =>
    unfold State.putParts
    extract_lets t
    split
    · exact within_hallWrite ..
    · exact .trans (within_hallWrite ..) (ih _)

/-- Whatever becomes of a frame, the state that follows is within these pieces. -/
def Delivery.Keeps (ps : List Piece) (s : State) : Delivery → Prop
  | .wait => True
  | .failed t => Within ps s t
  | .done t => Within ps s t

theorem keeps_servePut (s : State) (d : Nat) (f : RxFrame) :
    (s.servePut d f).Keeps [.clk, .regs, .mem, .sramErr, .dramErr, .hostB, .cores, .parts, .chans, .hall, .rings, .descs,
      .sems, .ent, .flt, .mgt, .pwr, .msix] s := by
  unfold State.servePut
  extract_lets x
  split
  · exact .ite (within_abortTo ..).mono (.refl _ _)
  · split
    · exact (within_abortTo ..).after (within_noteServed ..).mono
    · split
      · exact (within_abortTo ..).after (within_noteServed ..).mono
      · have first := within_stagedFrame s f
        split
        next e => exact (first.of_pair e).mono
        next bs t e =>
          extract_lets w y
          have written : Within _ s w.2 := Within.trans (first.of_pair e).mono (within_putParts t bs _)
          exact .ite ((within_noteServed ..).after written) ((within_abortTo ..).after ((within_noteServed ..).after written))

theorem keeps_deliverData (s : State) (d : Nat) (f : RxFrame) :
    (s.deliverData d f).Keeps [.clk, .regs, .mem, .sramErr, .dramErr, .hostB, .cores, .parts, .chans, .hall, .rings, .descs,
      .sems, .ent, .flt, .mgt, .pwr, .msix] s := by
  unfold State.deliverData
  split
  · exact keeps_servePut ..
  · split
    · exact keeps_servePut ..
    · split
      · exact .refl _ _
      · split
        · exact .refl _ _
        · split
          · trivial
          · have first := within_stagedFrame s f
            split
            next e => exact (first.of_pair e).mono
            next e => exact (within_updStream ..).after ((within_enterRing ..).after (first.of_pair e).mono)

theorem within_deliverHeld (s : State) (d : Nat) (data : Bool) (n : Nat) :
    Within [.clk, .regs, .mem, .sramErr, .dramErr, .hostB, .cores, .parts, .chans, .hall, .rings, .descs, .sems, .ent, .flt,
      .mgt, .pwr, .msix] s (s.deliverHeld d data n) := by
  induction n generalizing s with
  | zero => exact .refl _ _
  | succ n ih =>
    unfold State.deliverHeld
    split
    · exact .refl _ _
    next f _ =>
      split
      · exact .trans ((within_delivered ..).after (within_pushMsgs ..).mono) (ih _)
      · split
        · have k := keeps_deliverData s d f
          split
          · exact .refl _ _
          next e =>
            rw [e] at k
            exact (within_dropHeld ..).after k
          next e =>
            rw [e] at k
            exact .trans ((within_delivered ..).after k) (ih _)
        · exact .refl _ _

theorem within_deliverAll (s : State) :
    Within [.clk, .regs, .mem, .sramErr, .dramErr, .hostB, .cores, .parts, .chans, .hall, .rings, .descs, .sems, .ent,
      .flt, .mgt, .pwr, .msix] s s.deliverAll :=
  .foldl (fun _ _ => (within_deliverHeld ..).mono) _ (.refl _ _)

theorem within_receiveCtrl (s : State) (d : Nat) (h body : List Byte) :
    Within [.clk, .regs, .mem, .sramErr, .dramErr, .hostB, .cores, .parts, .chans, .hall, .rings, .descs, .sems, .ent,
      .flt, .mgt, .pwr, .msix] s (s.receiveCtrl d h body) :=
  .ite (.refl _ _) (.ite
    ((within_delivered ..).after ((within_pushMsgs ..).after ((within_updConn ..).after ((within_takeFields ..).mono))))
    ((within_deliverHeld ..).after ((within_acceptSeq ..).after ((within_takeFields ..).mono))))

theorem within_receive (s : State) (p : HallPort) (h body : List Byte) :
    Within [.clk, .regs, .mem, .sramErr, .dramErr, .hostB, .cores, .parts, .chans, .hall, .rings, .descs, .sems, .ent,
      .flt, .mgt, .pwr, .msix] s (s.receive p h body) :=
  .ite ((within_hall ..).mono) (.ite (.refl _ _) (.ite ((within_count ..).mono) (.ite
    ((within_receiveCtrl ..).after ((within_updConn ..).mono)) ((within_hall ..).after ((within_updConn ..).mono)))))

theorem within_noteSec (s : State) (p : HallPort) (f : Frame) : Within [.hall] s (s.noteSec p f) := by
  dsimp only [State.noteSec]
  split
  · exact .ite ((within_updPort ..).mono) (.refl _ _)
  · exact .refl _ _

theorem within_execFrameReceive (p : HallPort) (f : Frame) (s : State) :
    ∃ t, execFrameReceive p f s = .next t ∧ Within [.clk, .regs, .mem, .sramErr, .dramErr, .hostB, .cores, .parts,
      .chans, .hall, .rings, .descs, .sems, .ent, .flt, .mgt, .pwr, .msix] s t := by
  dsimp only [execFrameReceive]
  refine ⟨_, rfl, ?_⟩
  refine .ite ?_ ?_
  · split
    · exact (within_count ..).mono
    · exact (within_stranger ..).mono
    · exact (within_management ..).after ((within_noteSec ..).mono)
    · exact (within_receive ..).after ((within_noteSec ..).mono)
  · exact .refl _ _

theorem Within.onFrame {ps : List Piece} {s : State} {ty : Nat} {f : Accepted → State → State}
    (h : ∀ x t, Within ps t (f x t)) (sub : [.hall] ⊆ ps := by decide) : Within ps s (s.onFrame ty f) := by
  unfold State.onFrame
  split
  · exact .ite (.trans ((within_hall ..).mono sub) (h _ _)) (.refl _ _)
  · exact .refl _ _

theorem within_execData (s : State) :
    ∃ t, execData s = .next t ∧ Within [.clk, .regs, .mem, .sramErr, .dramErr, .hostB, .cores, .parts, .chans, .hall,
      .rings, .descs, .sems, .ent, .flt, .mgt, .pwr, .msix] s t :=
  ⟨_, rfl, (within_deliverAll ..).after (.onFrame (fun _ _ => .ite ((within_acceptSeq ..).after ((within_takeFields ..).mono))
    (.refl _ _)))⟩

theorem within_execIdle (s : State) : ∃ t, execIdle s = .next t ∧ Within [.regs, .mem, .sramErr, .parts, .hall, .flt] s t :=
  ⟨_, rfl, .onFrame (fun _ _ => .ite ((within_takeFields ..).mono) (.refl _ _))⟩

theorem Within.onMsg {ps : List Piece} {s : State} {code : Nat} {f : CtrlMsg → State → State}
    (h : ∀ x t, Within ps t (f x t)) (sub : [.hall] ⊆ ps := by decide) : Within ps s (s.onMsg code f) := by
  unfold State.onMsg
  split
  · exact .ite (.trans ((within_hall ..).mono sub) (h _ _)) (.refl _ _)
  · exact .refl _ _

theorem within_forgetServed (s : State) (d : Nat) : Within [.hall] s (s.forgetServed d) := (within_hall ..).mono

theorem within_restartConn (s : State) (d w : Nat) :
    Within [.regs, .mem, .sramErr, .parts, .hall, .flt] s (s.restartConn d w) :=
  (within_report ..).after (.foldl (fun _ _ => (within_abortTo ..).mono) _
    ((within_queueCtrl ..).after ((within_updConn ..).after ((within_forgetServed ..).after ((within_stopStreams ..).after
    ((within_grantWindow ..).mono))))))

theorem within_execOpenMessage (s : State) :
    ∃ t, execOpenMessage s = .next t ∧ Within [.regs, .mem, .sramErr, .parts, .hall, .flt] s t := by
  dsimp only [execOpenMessage]
  refine ⟨_, rfl, ?_⟩
  refine .onMsg fun x0 t => ?_
  split
  · exact (within_queueCtrl ..).after ((within_updConn ..).mono)
  · exact (within_restartConn ..).mono
  · exact .refl _ _
  · exact .refl _ _

theorem within_execOpenAck (s : State) : ∃ t, execOpenAck s = .next t ∧ Within [.hall] s t :=
  ⟨_, rfl, .onMsg (fun _ _ => .ite ((within_updConn ..).mono) (.refl _ _))⟩

theorem within_execConnectionClose (s : State) : ∃ t, execConnectionClose s = .next t ∧ Within [.parts, .hall] s t :=
  ⟨_, rfl, .onMsg (fun _ _ => .ite ((within_updConn ..).after ((within_forgetServed ..).after ((within_stopStreams ..).mono)))
    (.refl _ _))⟩

theorem within_execCredit (s : State) : ∃ t, execCredit s = .next t ∧ Within [.hall] s t :=
  ⟨_, rfl, .onMsg (fun _ _ => (within_updStream ..).mono)⟩

theorem within_readParts (s : State) (l : List (Nat × Nat × Nat)) : Within [.regs, .flt] s (s.readParts l).2 := by
  induction l generalizing s with
  | nil => exact .refl _ _
  | cons w l ih =>
    unfold State.readParts
    extract_lets r
    have first : Within [.regs, .flt] s r.2.2 := within_localRead ..
    split
    · exact first
    · exact first.trans (ih _)

theorem within_serveGet (s : State) (d id off units : Nat) :
    Within [.regs, .mem, .sramErr, .hall, .flt] s (s.serveGet d id off units) := by
  dsimp only [State.serveGet]
  refine .ite ?_ ?_
  · exact .refl _ _
  · split
    · exact (within_abortTo ..).after ((within_noteServed ..).mono)
    · refine .ite ?_ ?_
      · exact (within_abortTo ..).after ((within_noteServed ..).mono)
      · split
        · exact (within_abortTo ..).after ((within_noteServed ..).after ((within_readParts ..).mono))
        · exact .foldl (fun _ _ => (within_queueStaged ..).mono) _ ((within_noteServed ..).after ((within_readParts ..).mono))

theorem within_execGet (s : State) : ∃ t, execGet s = .next t ∧ Within [.regs, .mem, .sramErr, .hall, .flt] s t :=
  ⟨_, rfl, .onMsg (fun _ _ => (within_serveGet ..).mono)⟩

theorem within_reportAbort (s : State) (d reason : Nat) (x : Stream) : Within [.regs, .flt] s (s.reportAbort d reason x) := by
  dsimp only [State.reportAbort]
  split
  · exact (within_report ..).mono
  · exact .refl _ _

theorem within_execAbort (s : State) : ∃ t, execAbort s = .next t ∧ Within [.regs, .parts, .hall, .flt] s t :=
  ⟨_, rfl, .onMsg (fun _ _ => .foldl (fun _ _ => (within_reportAbort ..).mono) _
    ((within_hall ..).after ((within_stopStreams ..).mono)))⟩

theorem within_sendRing {s t : State} {x : Stream} {q r : Nat} {b : Binding} {d : RingDesc}
    (h : s.sendRing x q r b d = some t) : Within [.regs, .mem, .sramErr, .parts, .hall, .flt] s t := by
  unfold State.sendRing at h
  extract_lets y at_ n g at h
  split at h
  · contradiction
  · split at h
    · cases h
      exact (within_abortTo ..).after ((within_stopStreams ..).after (within_ringRead ..).mono)
    · cases h
      exact (within_updStream ..).after ((within_queueFrame ..).after (within_ringRead ..).mono)

theorem within_askRing {s t : State} {x : Stream} {q r : Nat} {d : RingDesc} (h : s.askRing x q r d = some t) :
    Within [.regs, .mem, .sramErr, .hall, .flt] s t := by
  unfold State.askRing at h
  extract_lets at h
  split at h
  · split at h
    · cases h
      exact (within_updStream ..).after (within_queueCtrl ..).mono
    · contradiction
  · split at h
    · contradiction
    · cases h
      exact (within_updStream ..).after (within_queueCtrl ..).mono

theorem within_streamDemand {s t : State} {x : Stream} (h : s.streamDemand x = some t) :
    Within [.regs, .mem, .sramErr, .parts, .hall, .flt] s t := by
  unfold State.streamDemand at h
  split at h
  · contradiction
  · split at h
    · contradiction
    · split at h
      · contradiction
      · split at h
        · exact within_sendRing h
        · exact (within_askRing h).mono

theorem within_demand (s : State) (d : Nat) : Within [.regs, .mem, .sramErr, .parts, .hall, .flt] s (s.demand d) := by
  refine .ite ?_ (.refl _ _)
  cases e : (s.hall.streams.filter (fun x => x.peer == d)).findSome? s.streamDemand with
  | none => exact .refl _ _
  | some t =>
    obtain ⟨x, -, asked⟩ := List.exists_of_findSome?_eq_some e
    exact within_streamDemand asked

theorem within_sendAny (s : State) (d : Nat) : Within [.regs, .mem, .sramErr, .hall, .flt] s (s.sendAny d) :=
  .ite ((within_sendNext ..).mono) ((within_sendTo ..).mono)

theorem within_barrierFirst (s : State) (d : Nat) : Within [.regs, .mem, .sramErr, .hall, .flt] s (s.barrierFirst d) := by
  dsimp only [State.barrierFirst]
  split
  · exact .refl _ _
  · exact .foldl (fun _ _ => (within_sendAny ..).mono) _ (.refl _ _)

theorem within_execHallFrameSend (d : PeerId) (s : State) :
    ∃ t, execHallFrameSend d s = .next t ∧ Within [.regs, .mem, .sramErr, .parts, .hall, .flt] s t :=
  ⟨_, rfl, .ite (.ite ((within_sendNext ..).after ((within_demand ..).after ((within_barrierFirst ..).mono)))
    ((within_demand ..).after ((within_barrierFirst ..).mono))) (.refl _ _)⟩

theorem within_execRetransmissionTimeout (d : PeerId) (s : State) :
    ∃ t, execRetransmissionTimeout d s = .next t ∧ Within [.regs, .mem, .sramErr, .parts, .hall, .flt] s t := by
  dsimp only [execRetransmissionTimeout]
  refine ⟨_, rfl, ?_⟩
  split
  · exact .ite (.ite
      ((within_loseConn ..).after ((within_updConn ..).after ((within_report ..).after ((within_resend ..).mono))))
      ((within_updConn ..).after ((within_report ..).after ((within_resend ..).mono)))) (.refl _ _)
  · exact .refl _ _

theorem within_execPeerTimeout (d : PeerId) (s : State) :
    ∃ t, execPeerTimeout d s = .next t ∧ Within [.regs, .parts, .hall, .flt] s t :=
  ⟨_, rfl, .ite ((within_loseConn ..).mono) (.refl _ _)⟩

theorem within_execAcknowledgementDue (d : PeerId) (s : State) :
    ∃ t, execAcknowledgementDue d s = .next t ∧ Within [.hall] s t := ⟨_, rfl, .ite ((within_updConn ..).mono) (.refl _ _)⟩

theorem within_execIdleSend (p : HallPort) (s : State) :
    ∃ t, execIdleSend p s = .next t ∧ Within [.regs, .mem, .sramErr, .hall, .flt] s t := by
  dsimp only [execIdleSend]
  refine ⟨_, rfl, ?_⟩
  split
  · exact (within_sendAny ..).mono
  · refine .ite ?_ ?_
    · split
      · exact (within_updPort ..).after ((within_sendTo ..).mono)
      · exact .refl _ _
    · exact .refl _ _

theorem within_barChanged (s : State) (peers : List Nat) : Within [.hall] s (s.barChanged peers) :=
  .foldl (fun _ _ => (within_updConn ..).mono) _ (.refl _ _)

theorem within_armRelease (s : State) (g : Nat) (x : BarGroup) (t field : Nat) :
    Within [.regs, .hall] s (s.armRelease g x t field) := (within_setGroup ..).after ((within_setCmp ..).mono)

theorem within_recordArrival (s : State) (g : Nat) (x : BarGroup) (dev : Nat) :
    Within [.regs, .hall, .flt] s (s.recordArrival g x dev) :=
  .ite (.refl _ _) (.ite ((within_barChanged ..).after ((within_armRelease ..).after (.ite
    ((within_enterLog ..).after ((within_count ..).mono)) (.refl _ _)))) ((within_setGroup ..).after (.ite
    ((within_enterLog ..).after ((within_count ..).mono)) (.refl _ _))))

theorem within_execHallBarrierArrive (q : QuireId) (s : State) :
    ∃ t, execHallBarrierArrive q s = .next t ∧ Within [.regs, .parts, .hall, .flt] s t := by
  dsimp only [execHallBarrierArrive]
  refine ⟨_, rfl, ?_⟩
  split
  · split
    · exact .ite (.ite ((within_recordArrival ..).after ((within_updPart ..).mono))
        ((within_barChanged ..).after ((within_setGroup ..).after ((within_updPart ..).mono)))) (.refl _ _)
    · exact .refl _ _
  · exact .refl _ _

theorem Within.onField {ps : List Piece} {s : State} {code : Nat} {f : BarMsg → Nat → BarGroup → State → State}
    (h : ∀ m g x t, Within ps t (f m g x t)) (sub : [.hall] ⊆ ps := by decide) : Within ps s (s.onField code f) := by
  unfold State.onField
  split
  · refine .ite ?_ (.refl _ _)
    dsimp only
    split
    · exact .trans ((within_hall ..).mono sub) (h _ _ _ _)
    · exact (within_hall ..).mono sub
  · exact .refl _ _

theorem within_execArrived (s : State) : ∃ t, execArrived s = .next t ∧ Within [.regs, .hall, .flt] s t :=
  ⟨_, rfl, .onField (fun _ _ _ _ => .ite ((within_recordArrival ..).after (.ite ((within_count ..).mono) (.refl _ _)))
    (.refl _ _))⟩

theorem within_execRelease (s : State) : ∃ t, execRelease s = .next t ∧ Within [.regs, .hall] s t :=
  ⟨_, rfl, .onField (fun _ _ _ _ => .ite (.ite ((within_armRelease ..).after (.ite ((within_count ..).mono) (.refl _ _)))
    ((within_armRelease ..).after ((within_count ..).after (.ite ((within_count ..).mono) (.refl _ _))))) (.refl _ _))⟩

theorem within_execBarrierTimeout (g : GroupId) (s : State) :
    ∃ t, execBarrierTimeout g s = .next t ∧ Within [.regs, .hall, .flt] s t := by
  dsimp only [execBarrierTimeout]
  refine ⟨_, rfl, ?_⟩
  split
  · split
    · exact .ite ((within_report ..).after ((within_setGroup ..).mono)) (.refl _ _)
    · exact .refl _ _
  · exact .refl _ _

theorem within_execMdata (s : State) :
    ∃ t, execMdata s = .next t ∧ Within [.regs, .mem, .sramErr, .dramErr, .parts, .hall, .flt] s t :=
  ⟨_, rfl, .onFrame (fun _ _ => .ite (.refl _ _) ((within_localWrite ..).after ((within_hall ..).mono)))⟩

theorem within_execMpoll (s : State) : ∃ t, execMpoll s = .next t ∧ Within [.regs, .mem, .sramErr, .hall, .flt] s t :=
  ⟨_, rfl, .onFrame (fun _ _ => .ite (.refl _ _) (.ite ((within_queueCtrl ..).mono)
    ((within_sendTo ..).after ((within_passStaging ..).mono))))⟩

theorem within_updMtx (s : State) (id : Nat) (f : McastTx → McastTx) : Within [.hall] s (s.updMtx id f) :=
  (within_hall ..).mono

theorem within_execNack (s : State) : ∃ t, execNack s = .next t ∧ Within [.regs, .mem, .sramErr, .parts, .hall, .flt] s t :=
  ⟨_, rfl, .onFrame (fun _ _ => (within_updMtx ..).after (.ite ((within_takeFields ..).mono) (.refl _ _)))⟩

theorem within_execDone (s : State) : ∃ t, execDone s = .next t ∧ Within [.hall] s t :=
  ⟨_, rfl, .onMsg (fun _ _ => (within_updMtx ..).mono)⟩

theorem within_endPartial (s : State) (x : McastTx) :
    Within [.regs, .mem, .sramErr, .dramErr, .parts, .rings, .descs, .flt] s (s.endPartial x) := by
  dsimp only [State.endPartial]
  refine (within_complete ..).after ?_
  split
  · exact (within_localWrite ..).mono
  · exact .refl _ _

theorem within_mcastStep (s : State) (x : McastTx) :
    Within [.regs, .mem, .sramErr, .dramErr, .parts, .hall, .rings, .descs, .flt] s (s.mcastStep x) :=
  .ite ((within_complete ..).after ((within_hall ..).mono)) (.ite (.refl _ _) (.ite
    ((within_updMtx ..).after ((within_sendPoll ..).mono)) (.ite
    ((within_endPartial ..).after ((within_hall ..).after ((within_sendParts ..).mono)))
    ((within_updMtx ..).after ((within_sendParts ..).mono)))))

theorem within_execMulticastPoll (s : State) :
    ∃ t, execMulticastPoll s = .next t ∧ Within [.regs, .mem, .sramErr, .dramErr, .parts, .hall, .rings, .descs, .flt] s t :=
  ⟨_, rfl, .foldl (fun _ _ => (within_mcastStep ..).mono) _ (.refl _ _)⟩

theorem within_grant (s : State) (ch l : Nat) (aged : Bool) : Within [.regs, .chans] s (s.grant ch l aged) :=
  (within_peak ..).after (.ite ((within_count ..).after ((within_updChan ..).mono)) ((within_updChan ..).mono))

theorem within_chooseOwner (s : State) (ch : Nat) (lines : List Nat) : Within [.chans] s (s.chooseOwner ch lines) := by
  dsimp only [State.chooseOwner]
  exact (within_updChan ..).mono

theorem within_execArbiterGrant (ch : ChanId) (raised : Byte) (elapsed : Nat) (read : Option DramRead) (s : State) :
    ∃ t, execArbiterGrant ch raised elapsed read s = .next t ∧ Within [.regs, .chans, .flt] s t := by
  dsimp only [execArbiterGrant]
  split
  · split
    · split
      · exact ⟨_, rfl, .ite ((within_dramRead ..).after ((within_grant ..).after ((within_updChan ..).mono)))
          ((within_grant ..).after ((within_updChan ..).mono))⟩
      · exact ⟨_, rfl, (within_grant ..).after ((within_updChan ..).mono)⟩
    · exact ⟨_, rfl, (within_chooseOwner ..).after ((within_count ..).after ((within_updChan ..).mono))⟩
  · split
    · exact ⟨_, rfl, .ite ((within_updChan ..).mono) ((within_chooseOwner ..).after ((within_updChan ..).mono))⟩
    · exact ⟨_, rfl, (within_chooseOwner ..).after ((within_updChan ..).mono)⟩

theorem within_execRefreshInterval (ch : ChanId) (s : State) :
    ∃ t, execRefreshInterval ch s = .next t ∧ Within [.regs, .chans] s t := by
  dsimp only [execRefreshInterval]
  split
  · exact ⟨_, rfl, .ite ((within_count ..).after ((within_updChan ..).mono)) ((within_updChan ..).mono)⟩
  · exact ⟨_, rfl, .refl _ _⟩

theorem within_execScrubRead (ch : ChanId) (s : State) :
    ∃ t, execScrubRead ch s = .next t ∧ Within [.regs, .dramErr, .chans, .flt] s t := by
  dsimp only [execScrubRead]
  split
  · exact ⟨_, rfl, (within_updChan ..).after ((within_dramErr ..).after (.foldl (fun _ _ => .ite ((within_dramCeAt ..).mono)
      ((within_dramUeAt ..).mono)) _ (.refl _ _)))⟩
  · exact ⟨_, rfl, .refl _ _⟩

theorem within_jtagAccess (s : State) (a : Nat) (acc : BusAccess) :
    Within [.regs, .readBytes, .mem, .sramErr, .dramErr, .parts, .flt] s (s.jtagAccess a acc) := by
  dsimp only [State.jtagAccess]
  split
  · exact (within_readBytes ..).after ((within_localRead ..).mono)
  · exact (within_localWrite ..).mono

theorem within_execDebugAccess (addr : BitVec 40) (acc : BusAccess) (s : State) :
    ∃ t, execDebugAccess addr acc s = .next t ∧ Within [.regs, .readBytes, .mem, .sramErr, .dramErr, .parts, .chans,
      .flt] s t := by
  dsimp only [execDebugAccess]
  split
  · split
    · split
      · exact ⟨_, rfl,
          (within_readBytes ..).after ((within_dramRead ..).after ((within_count ..).after ((within_updChan ..).mono)))⟩
      · split
        · exact ⟨_, rfl, (within_jtagAccess ..).mono⟩
        · exact ⟨_, rfl, .refl _ _⟩
    · split
      · exact ⟨_, rfl,
          (within_readBytes ..).after ((within_dramRead ..).after ((within_count ..).after ((within_updChan ..).mono)))⟩
      · split
        · exact ⟨_, rfl, (within_jtagAccess ..).mono⟩
        · exact ⟨_, rfl, .refl _ _⟩
  · split
    · split
      · exact ⟨_, rfl, (within_wrDram ..).after ((within_count ..).after ((within_updChan ..).mono))⟩
      · split
        · exact ⟨_, rfl, (within_jtagAccess ..).mono⟩
        · exact ⟨_, rfl, .refl _ _⟩
    · split
      · exact ⟨_, rfl, (within_wrDram ..).after ((within_count ..).after ((within_updChan ..).mono))⟩
      · split
        · exact ⟨_, rfl, (within_jtagAccess ..).mono⟩
        · exact ⟨_, rfl, .refl _ _⟩

theorem within_execDeviceTemperatureReadout (ch : ChanId) (hot : Bool) (s : State) :
    ∃ t, execDeviceTemperatureReadout ch hot s = .next t ∧ Within [.regs] s t := ⟨_, rfl, (within_setRf ..).mono⟩

theorem within_releaseCore (s : State) (point n : Nat) : Within [.cores] s (s.releaseCore point n) := by
  dsimp only [State.releaseCore]
  exact (within_updCore ..).mono

theorem within_startRun (s : State) (q : Nat) : Within [.cores, .parts] s (s.startRun q) := by
  dsimp only [State.startRun]
  exact (within_updPart ..).after (.foldl (fun _ _ => (within_releaseCore ..).mono) _ (.refl _ _))

theorem within_coloStart (s : State) (q : Nat) (b : Binding) (dest : Nat) :
    Within [.regs, .parts, .flt] s ((s.coloStart q b dest).2) := by
  dsimp only [State.coloStart]
  split
  · exact (within_dramRead ..).mono
  · split
    · split
      · exact (within_dramRead ..).mono
      · exact (within_readItems ..).after ((within_dramRead ..).mono)
    · refine (within_readItems ..).after ?_
      refine (within_updPart ..).after ?_
      split
      · exact (within_dramRead ..).mono
      · exact (within_readItems ..).after ((within_dramRead ..).mono)

theorem within_beginRun (s : State) (x : Desc) (q : Nat) (colo : Option (List Byte × List Byte × List Byte)) :
    Within [.regs, .cores, .parts] s (s.beginRun x q colo) := by
  dsimp only [State.beginRun]
  split
  · exact .ite ((within_setCmp ..).after ((within_updPart ..).mono)) ((within_startRun ..).after ((within_updPart ..).mono))
  · exact (within_startRun ..).after ((within_updPart ..).mono)

theorem within_execRunSweeps (d : DescRef) (s : State) :
    ∃ t, execRunSweeps d s = .next t ∧ Within [.regs, .cores, .parts, .rings, .descs, .flt] s t := by
  dsimp only [execRunSweeps]
  refine ⟨_, rfl, ?_⟩
  split
  · exact .refl _ _
  · refine .ite ?_ ?_
    · exact (within_modeFirst ..).mono
    · refine .ite ?_ ?_
      · exact (within_complete ..).after ((within_modeFirst ..).mono)
      · split
        · exact (within_complete ..).after ((within_modeFirst ..).mono)
        · refine .ite ?_ ?_
          · exact (within_complete ..).after ((within_modeFirst ..).mono)
          · split
            · exact (within_complete ..).after ((within_modeFirst ..).mono)
            · refine .ite ?_ ?_
              · split
                · exact (within_beginRun ..).after ((within_coloStart ..).after ((within_modeFirst ..).mono))
                · exact (within_complete ..).after ((within_coloStart ..).after ((within_modeFirst ..).mono))
              · exact (within_beginRun ..).after ((within_modeFirst ..).mono)

theorem within_advanceClocks (s : State) : Within [.clk, .regs] s s.advanceClocks.1 := by
  have moved (x : Table (Option RegNow)) (y : Clocks) : Within [.clk, .regs] s { s with now := x, clk := y } :=
    (within_clk { s with now := x } y).after (within_now s x).mono
  unfold State.advanceClocks
  extract_lets c now
  split
  · exact moved _ _
  · exact moved _ _

theorem within_partCycle (s : State) (q : Nat) (n h : Bool) : Within [.parts] s (s.partCycle q n h).2 := by
  unfold State.partCycle
  extract_lets p
  split
  · split
    · dsimp only
      exact within_updPart s q _
    · dsimp only
      exact within_updPart s q _
  · exact .refl _ _

theorem within_endPartTick (s : State) (q : Nat) : Within [.regs, .mem, .sramErr, .cores, .parts, .flt] s (s.endPartTick q) :=
  .ite ((within_updPart ..).after (.foldl (fun _ _ => (within_endTick ..).mono) _ (.refl _ _))) (.refl _ _)

theorem within_openTick (s : State) (q : Nat) : Within [.parts] s (s.openTick q) := (within_updPart ..).mono

theorem within_resumePart (s : State) (q : Nat) : Within [.parts] s (s.resumePart q) :=
  .ite ((within_updPart ..).mono) ((within_openTick ..).after ((within_updPart ..).after ((within_updPart ..).mono)))

theorem within_standStill (s : State) (q : Nat) : Within [.cores, .parts] s (s.standStill q) :=
  .ite ((within_updPart ..).after (.foldl (fun _ _ => (within_updCore ..).mono) _ (.refl _ _))) (.refl _ _)

theorem within_endStanding (s : State) (q : Nat) :
    Within [.regs, .mem, .sramErr, .cores, .parts, .rings, .descs, .flt] s (s.endStanding q) :=
  .ite ((within_endRun ..).after ((within_updPart ..).mono)) ((within_openTick ..).mono)

theorem within_cyclePart (s : State) (q : Nat) :
    Within [.regs, .mem, .sramErr, .cores, .parts, .rings, .descs, .flt] s (s.cyclePart q) :=
  .ite (.ite (.ite
    ((within_resumePart ..).after ((within_updPart ..).after ((within_standStill ..).after ((within_endPartTick ..).mono))))
    ((within_updPart ..).after ((within_updPart ..).after ((within_standStill ..).after ((within_endPartTick ..).mono)))))
    (.ite
    ((within_endStanding ..).after ((within_updPart ..).after ((within_standStill ..).after ((within_endPartTick ..).mono))))
    ((within_openTick ..).after ((within_updPart ..).after ((within_standStill ..).after ((within_endPartTick ..).mono))))))
    (.ite (.ite
    ((within_openTick ..).after ((within_startRun ..).after ((within_updPart ..).after ((within_standStill ..).after
    ((within_endPartTick ..).mono)))))
    ((within_updPart ..).after ((within_updPart ..).after ((within_standStill ..).after ((within_endPartTick ..).mono)))))
    ((within_updPart ..).after ((within_updPart ..).after ((within_standStill ..).after ((within_endPartTick ..).mono)))))

theorem within_moduleCycle (s : State) :
    Within [.regs, .mem, .carry, .sramErr, .dramErr, .hostB, .flash, .boot, .cores, .lanes, .parts, .chans, .hall, .rings,
      .descs, .ent, .flt, .mgt, .pwr, .msix] s s.moduleCycle :=
  (within_wakeCycle ..).after ((within_storeCycle ..).after ((within_endStart ..).after ((within_sramCycle ..).after
    ((within_flashCycle ..).mono))))

theorem within_withFetchWord (s : State) (nbits w : Nat) : Within [.pending] s (s.withFetchWord nbits w) := by
  dsimp only [State.withFetchWord]
  split
  · exact (within_pending ..).mono
  · exact .refl _ _

end Sys2Proof.Machine
end

section
/-! PROOFS. The frame of every command and of the array's own steps, and what follows for every step. -/

namespace Sys2Proof.Machine

set_option Elab.async false

/-! ## Every command -/

/-- Every piece but the queue of commands. -/
def allButPending : List Piece :=
  [.clk, .regs, .readData, .readBytes, .mem, .carry, .sramErr, .dramErr, .hostA, .hostB, .flash, .fuse, .boot, .cores, .lanes,
   .parts, .chans, .edge, .hall, .rings, .descs, .sems, .ent, .flt, .mgt, .pwr, .msix, .msixTable]

theorem widen {ps qs : List Piece} {s : State} {o : Out} (h : ∃ t, o = .next t ∧ Within ps s t) (k : ps ⊆ qs := by decide) :
    ∃ t, o = .next t ∧ Within qs s t := by
  obtain ⟨t, e, within⟩ := h
  exact ⟨t, e, within.mono k⟩

/-- Every command answers a next state, within every piece but the queue. -/
theorem within_exec (i : Instr) (s : State) : ∃ t, exec i s = .next t ∧ Within allButPending s t :=
  match i with
  | .nop _ _ _ => widen (within_execNop ..)
  | .loop _ _ => widen (within_execLoop ..)
  | .wait _ _ => widen (within_execWait ..)
  | .bar _ _ => widen (within_execBar ..)
  | .swend _ _ => widen (within_execSwend ..)
  | .phase _ _ => widen (within_execPhase ..)
  | .flag _ _ => widen (within_execFlag ..)
  | .page _ _ => widen (within_execPage ..)
  | .pset _ _ => widen (within_execPset ..)
  | .leafHalt _ _ => widen (within_execLeafHalt ..)
  | .send _ _ => widen (within_execSend ..)
  | .recv _ _ => widen (within_execRecv ..)
  | .relay _ _ => widen (within_execRelay ..)
  | .recvf _ _ => widen (within_execRecvf ..)
  | .linkWordLand _ _ _ => widen (within_execLinkWordLand ..)
  | .accOpen _ _ => widen (within_execAccOpen ..)
  | .acc _ _ => widen (within_execAcc ..)
  | .lds _ _ => widen (within_execLds ..)
  | .close _ _ => widen (within_execClose ..)
  | .closeBatch _ => widen (within_execCloseBatch ..)
  | .redLocalExact _ _ => widen (within_execRedLocalExact ..)
  | .redTreeSend _ _ => widen (within_execRedTreeSend ..)
  | .redTreeAdd _ _ => widen (within_execRedTreeAdd ..)
  | .redCanon _ _ => widen (within_execRedCanon ..)
  | .drawb _ _ => widen (within_execDrawb ..)
  | .drawc _ _ => widen (within_execDrawc ..)
  | .drawr _ _ => widen (within_execDrawr ..)
  | .ldo _ _ => widen (within_execLdo ..)
  | .put _ _ => widen (within_execPut ..)
  | .drawResultEnter _ => widen (within_execDrawResultEnter ..)
  | .barrierRelease _ => widen (within_execBarrierRelease ..)
  | .sweepBoundary _ => widen (within_execSweepBoundary ..)
  | .poolOffer _ _ => widen (within_execPoolOffer ..)
  | .planDeliver _ _ _ _ => widen (within_execPlanDeliver ..)
  | .planCollect _ _ _ _ => widen (within_execPlanCollect ..)
  | .holdRaise _ => widen (within_execHoldRaise ..)
  | .holdDrop _ => widen (within_execHoldDrop ..)
  | .holdTimeout _ => widen (within_execHoldTimeout ..)
  | .pergolaStop _ => widen (within_execPergolaStop ..)
  | .deliverGroupLand _ _ => widen (within_execDeliverGroupLand ..)
  | .collectGroupWrite _ _ => widen (within_execCollectGroupWrite ..)
  | .drainRecordWrite _ _ => widen (within_execDrainRecordWrite ..)
  | .arbiterGrant _ _ _ _ => widen (within_execArbiterGrant ..)
  | .refreshInterval _ => widen (within_execRefreshInterval ..)
  | .scrubRead _ => widen (within_execScrubRead ..)
  | .debugAccess _ _ => widen (within_execDebugAccess ..)
  | .frameReceive _ _ => widen (within_execFrameReceive ..)
  | .data => widen (within_execData ..)
  | .idle => widen (within_execIdle ..)
  | .openMessage => widen (within_execOpenMessage ..)
  | .openAck => widen (within_execOpenAck ..)
  | .connectionClose => widen (within_execConnectionClose ..)
  | .credit => widen (within_execCredit ..)
  | .get => widen (within_execGet ..)
  | .abort => widen (within_execAbort ..)
  | .done => widen (within_execDone ..)
  | .mdata => widen (within_execMdata ..)
  | .mpoll => widen (within_execMpoll ..)
  | .nack => widen (within_execNack ..)
  | .wakeFrame => widen (within_execWakeFrame ..)
  | .hallFrameSend _ => widen (within_execHallFrameSend ..)
  | .retransmissionTimeout _ => widen (within_execRetransmissionTimeout ..)
  | .peerTimeout _ => widen (within_execPeerTimeout ..)
  | .acknowledgementDue _ => widen (within_execAcknowledgementDue ..)
  | .idleSend _ => widen (within_execIdleSend ..)
  | .hallBarrierArrive _ => widen (within_execHallBarrierArrive ..)
  | .arrived => widen (within_execArrived ..)
  | .release => widen (within_execRelease ..)
  | .barrierTimeout _ => widen (within_execBarrierTimeout ..)
  | .comparatorFire _ => widen (within_execComparatorFire ..)
  | .multicastPoll => widen (within_execMulticastPoll ..)
  | .peerValidWrite _ _ _ => widen (within_execPeerValidWrite ..)
  | .portModeWrite _ _ _ _ => widen (within_execPortModeWrite ..)
  | .macsecRekey _ _ _ _ _ => widen (within_execMacsecRekey ..)
  | .gtbNsRead _ => widen (within_execGtbNsRead ..)
  | .gtbStepWrite _ _ => widen (within_execGtbStepWrite ..)
  | .sqTail _ _ _ _ => widen (within_execSqTail ..)
  | .cqHead _ _ _ _ => widen (within_execCqHead ..)
  | .drainHead _ _ _ _ => widen (within_execDrainHead ..)
  | .ldrainHead _ _ _ _ => widen (within_execLdrainHead ..)
  | .descriptorFetch _ _ _ => widen (within_execDescriptorFetch ..)
  | .descriptorStart _ => widen (within_execDescriptorStart ..)
  | .completionPost _ _ => widen (within_execCompletionPost ..)
  | .interruptModerationTimeout _ _ => widen (within_execInterruptModerationTimeout ..)
  | .descriptorWatchdog _ => widen (within_execDescriptorWatchdog ..)
  | .ringEnable _ _ _ _ => widen (within_execRingEnable ..)
  | .loadBinding _ => widen (within_execLoadBinding ..)
  | .segmentReceive _ _ _ => widen (within_execSegmentReceive ..)
  | .loadRepairRound _ => widen (within_execLoadRepairRound ..)
  | .loadComplete _ => widen (within_execLoadComplete ..)
  | .runSweeps _ => widen (within_execRunSweeps ..)
  | .colophonWrite _ => widen (within_execColophonWrite ..)
  | .halt _ => widen (within_execHalt ..)
  | .saveContext _ => widen (within_execSaveContext ..)
  | .restoreContext _ => widen (within_execRestoreContext ..)
  | .refoldContext _ => widen (within_execRefoldContext ..)
  | .copy _ _ => widen (within_execCopy ..)
  | .fill _ => widen (within_execFill ..)
  | .digest _ _ => widen (within_execDigest ..)
  | .getEntropy _ => widen (within_execGetEntropy ..)
  | .barrierArm _ => widen (within_execBarrierArm ..)
  | .barrierDisarm _ => widen (within_execBarrierDisarm ..)
  | .drainSamples _ => widen (within_execDrainSamples ..)
  | .setTable _ => widen (within_execSetTable ..)
  | .fence _ => widen (within_execFence ..)
  | .semLockRead _ _ => widen (within_execSemLockRead ..)
  | .semRelease _ _ => widen (within_execSemRelease ..)
  | .semRenew _ _ => widen (within_execSemRenew ..)
  | .semLeaseExpire _ => widen (within_execSemLeaseExpire ..)
  | .prtOwnerWrite _ _ _ _ => widen (within_execPrtOwnerWrite ..)
  | .create _ _ _ _ => widen (within_execCreate ..)
  | .dissolve _ _ => widen (within_execDissolve ..)
  | .partitionReset _ _ => widen (within_execPartitionReset ..)
  | .coreReset _ _ => widen (within_execCoreReset ..)
  | .arrModeWrite _ _ => widen (within_execArrModeWrite ..)
  | .windowWrite _ _ _ => widen (within_execWindowWrite ..)
  | .bar4Access _ _ _ => widen (within_execBar4Access ..)
  | .registerReadClear _ _ _ => widen (within_execRegisterReadClear ..)
  | .registerWrite _ _ _ _ => widen (within_execRegisterWrite ..)
  | .fltInfoClear _ => widen (within_execFltInfoClear ..)
  | .fltPendClear _ _ => widen (within_execFltPendClear ..)
  | .faultHoldRelease _ _ => widen (within_execFaultHoldRelease ..)
  | .faultAccept => widen (within_execFaultAccept ..)
  | .noiseSample _ => widen (within_execNoiseSample ..)
  | .expanderReseed => widen (within_execExpanderReseed ..)
  | .expanderRequest => widen (within_execExpanderRequest ..)
  | .entEnable _ => widen (within_execEntEnable ..)
  | .entDisable _ => widen (within_execEntDisable ..)
  | .laneSeeding => widen (within_execLaneSeeding ..)
  | .moduleResetRelease _ => widen (within_execModuleResetRelease ..)
  | .supplyGoodFall => widen (within_execSupplyGoodFall ..)
  | .hostPortReset _ => widen (within_execHostPortReset ..)
  | .moduleReset => widen (within_execModuleReset ..)
  | .quireReset => widen (within_execQuireReset ..)
  | .regionAlloc => widen (within_execRegionAlloc ..)
  | .regionFree => widen (within_execRegionFree ..)
  | .configWrite => widen (within_execConfigWrite ..)
  | .calWrite => widen (within_execCalWrite ..)
  | .fwUpdate _ => widen (within_execFwUpdate ..)
  | .fwCommit => widen (within_execFwCommit ..)
  | .logRead => widen (within_execLogRead ..)
  | .attest => widen (within_execAttest ..)
  | .debugOpen => widen (within_execDebugOpen ..)
  | .debugClose => widen (within_execDebugClose ..)
  | .gatehouseSign => widen (within_execGatehouseSign ..)
  | .logProgram => widen (within_execLogProgram ..)
  | .kick _ _ => widen (within_execKick ..)
  | .ghsWatchdog _ => widen (within_execGhsWatchdog ..)
  | .mgeDatagram _ => widen (within_execMgeDatagram ..)
  | .mctpMessage _ => widen (within_execMctpMessage ..)
  | .sensorSample _ => widen (within_execSensorSample ..)
  | .thermTrip _ _ => widen (within_execThermTrip ..)
  | .throttleStep _ => widen (within_execThrottleStep ..)
  | .governorWindow _ => widen (within_execGovernorWindow ..)
  | .governorPeak _ => widen (within_execGovernorPeak ..)
  | .powerStateRequest _ _ => widen (within_execPowerStateRequest ..)
  | .handshakeReask => widen (within_execHandshakeReask ..)
  | .powerEntryComplete => widen (within_execPowerEntryComplete ..)
  | .wake _ => widen (within_execWake ..)
  | .wakeFromS3 _ => widen (within_execWakeFromS3 ..)
  | .pwrSchedArm _ _ _ => widen (within_execPwrSchedArm ..)
  | .pwrSchedDisarm _ => widen (within_execPwrSchedDisarm ..)
  | .tsyncModeWrite _ _ _ => widen (within_execTsyncModeWrite ..)
  | .ghsSel _ _ => widen (within_execGhsSel ..)
  | .laneGeneratorOutput _ => widen (within_execLaneGeneratorOutput ..)
  | .hallLinkDown _ => widen (within_execHallLinkDown ..)
  | .hallLinkUp _ => widen (within_execHallLinkUp ..)
  | .hostLinkUp _ _ _ => widen (within_execHostLinkUp ..)
  | .deviceTemperatureReadout _ _ => widen (within_execDeviceTemperatureReadout ..)
  | .gtbLocked _ _ _ => widen (within_execGtbLocked ..)
  | .tsyncPpsEdge => widen (within_execTsyncPpsEdge ..)
  | .supplySag => widen (within_execSupplySag ..)
  | .supplySagEnd => widen (within_execSupplySagEnd ..)
  | .supplyGoodRise => widen (within_execSupplyGoodRise ..)
  | .jtagReset => widen (within_execJtagReset ..)

/-! ## The array's own steps -/

theorem within_updPart_pending (s : State) (q : Nat) (f : Partition → Partition) (l : List Instr) :
    Within [.parts, .pending] s { s.updPart q f with pending := l } :=
  (within_pending ..).after (within_updPart ..).mono

theorem within_beginCore (k : Nat) (a : State × List Instr) (n : Nat) :
    Within [.regs, .mem, .carry, .cores, .parts, .flt] a.1 (State.beginCore k a n).1 :=
  (within_issueWord ..).after (within_beginTick ..)

theorem Within.foldl_fst {α β : Type} {ps : List Piece} {s : State} {f : State × β → α → State × β}
    (step : ∀ a x, Within ps a.1 (f a x).1) (l : List α) {a : State × β} (h : Within ps s a.1) : Within ps s (l.foldl f a).1 := by
  induction l generalizing a with
  | nil => exact h
  | cons x l ih => exact ih (h.trans (step a x))

theorem within_issuePart (s : State) (q : QuireId) :
    Within [.regs, .mem, .carry, .cores, .parts, .flt, .pending] s (s.issuePart q) := by
  have cores : Within [.regs, .mem, .carry, .cores, .parts, .flt] s
      ((s.partCores q).foldl (State.beginCore (s.part q).tick) (s, [])).1 :=
    .foldl_fst (fun _ _ => within_beginCore ..) _ (.refl _ _)
  exact (within_updPart_pending ..).after cores.mono

theorem within_issueAll (s : State) (qs : List QuireId) :
    Within [.regs, .mem, .carry, .cores, .parts, .flt, .pending] s (s.issueAll qs) :=
  .foldl (fun _ _ => within_issuePart ..) _ (within_pending ..).mono

/-- The partitions' part of a cycle. -/
theorem within_cycle_parts (s : State) : Within [.regs, .mem, .sramErr, .cores, .parts, .rings, .descs, .flt, .pending]
    s.endEdgeCycle.advanceClocks.1.moduleCycle s.cycle := by
  unfold State.cycle
  extract_lets y x ids r u
  have parts : Within [.regs, .mem, .sramErr, .cores, .parts, .rings, .descs, .flt] x.1 u := by
    refine .foldl_fst (fun a q => ?_) _ (.refl _ _)
    have own := within_partCycle a.1 q.val x.2.1 x.2.2
    extract_lets c
    split
    · exact (within_cyclePart ..).after own.mono
    · exact own.mono
  exact (within_pending ..).after parts.mono

theorem within_cycle (s : State) : Within (.pending :: allButPending) s s.cycle :=
  Within.trans (Within.trans (Within.trans (within_endEdgeCycle ..).mono (within_advanceClocks ..).mono)
    (within_moduleCycle ..).mono) (within_cycle_parts s).mono

theorem within_idle (s : State) : Within (.pending :: allButPending) s s.idle :=
  .ite (within_cycle s) (within_issueAll ..).mono

theorem within_step {s t : State} (h : step s = .next t) : Within (.pending :: allButPending) s t := by
  unfold step at h
  split at h
  · cases h
    exact within_idle s
  next c rest _ =>
    obtain ⟨u, e, within⟩ := within_exec c { s with pending := rest }
    rw [e] at h
    cases h
    exact .trans (within_pending s rest).mono within.mono

/-- Settles O57: every command answers a next state. -/
theorem everyCommandAnswers : Obligations.EveryCommandAnswers := by
  intro i s
  obtain ⟨t, e, -⟩ := within_exec i s
  exact ⟨t, e⟩

/-- Settles O58: the queue is outside the pieces of every command. -/
theorem commandsKeepQueue : Obligations.CommandsKeepQueue := by
  intro i s t h
  obtain ⟨u, e, within⟩ := within_exec i s
  rw [e] at h
  cases h
  exact within.touches .pending (by decide)

/-- Settles O59: what every operation does keeps the memories in canonical form. -/
theorem stepKeepsMemory : Obligations.StepKeepsMemory := fun _ _ ok h => (within_step h).memOk ok

/-- Settles O60: what every operation does keeps the collector's queue within its length. -/
theorem stepKeepsFaultQueue : Obligations.StepKeepsFaultQueue := fun _ _ ok h => (within_step h).queue ok

/-- Settles O1, by the definition of a step. -/
theorem stepRunsFront : Obligations.StepRunsFront := fun _ _ _ => rfl

/-- Settles O56: reset leaves empty tables and the registers of its list. -/
theorem resetLeavesValues : Obligations.ResetLeavesValues := by
  refine ⟨fun _ => rfl, fun _ => rfl, fun _ => rfl, fun _ => rfl, rfl, rfl, rfl, rfl, rfl, ?_, ?_, ?_, ?_, ?_⟩
  · decide
  · decide
  · decide
  · decide
  · decide

/-! ## The issue of a tick notes itself at every partition it is for -/

/-- No partition's note, of whether its tick has issued, has changed. -/
structure KeepsIssued (s t : State) : Prop where
  kept : ∀ q, (t.part q).issued = (s.part q).issued

namespace KeepsIssued

variable {s t u : State}

theorem refl (s : State) : KeepsIssued s s := ⟨fun _ => rfl⟩

theorem trans (h : KeepsIssued s t) (k : KeepsIssued t u) : KeepsIssued s u :=
  ⟨fun q => (k.kept q).trans (h.kept q)⟩

/-- An operation after others. -/
theorem after (k : KeepsIssued t u) (h : KeepsIssued s t) : KeepsIssued s u := h.trans k

theorem of_within {ps : List Piece} (h : Within ps s t) (no : .parts ∉ ps := by decide) : KeepsIssued s t where
  kept q := by rw [part_of_parts (h.touches .parts no)]

theorem updPart (s : State) (q : Nat) {f : Partition → Partition} (h : ∀ p, (f p).issued = p.issued) :
    KeepsIssued s (s.updPart q f) where
  kept p := by
    rw [State.part_updPart]
    split
    next e => rw [h, e]
    · rfl

theorem foldl {α : Type} {f : State → α → State} (step : ∀ t a, KeepsIssued t (f t a)) (l : List α) (h : KeepsIssued s t) :
    KeepsIssued s (l.foldl f t) := by
  induction l generalizing t with
  | nil => exact h
  | cons a l ih => exact ih (h.trans (step t a))

theorem of_pair {α : Type} {p : α × State} {a : α} (h : KeepsIssued s p.2) (e : p = (a, t)) : KeepsIssued s t := by
  subst e
  exact h

theorem haltOn (s : State) (n kind : Nat) : KeepsIssued s (s.haltOn n kind) := by
  rw [haltOn_eq]
  refine .after ?_ (of_within (ps := [.cores, .regs]) (.of_touches (touches_halted s n kind) (by decide)))
  unfold State.assertStop
  split
  · exact updPart _ _ fun _ => rfl
  · exact .refl _

theorem stopWith (s : State) (n kind : Nat) : KeepsIssued s (s.stopWith n kind) :=
  (of_within (within_report ..)).after (haltOn ..)

theorem coreRead (s : State) (n a len : Nat) : KeepsIssued s (s.coreRead n a len).2 := by
  have ce : KeepsIssued s (s.reportCe n (s.sramCe a len)) := of_within (within_reportCe ..)
  unfold State.coreRead
  extract_lets s1
  split
  · exact (of_within (within_report ..)).after ((haltOn ..).after ce)
  · exact ce

theorem withFe {n : Nat} {f : State → State} (h : ∀ t, KeepsIssued t (f t)) : KeepsIssued s (s.withFe n f) := by
  unfold State.withFe
  split
  · exact stopWith ..
  · exact (h _).after (of_within (within_updCore ..))

theorem withLink {n : Nat} {f : State → State} (h : ∀ t, KeepsIssued t (f t)) : KeepsIssued s (s.withLink n f) := by
  unfold State.withLink
  split
  · exact stopWith ..
  · exact (h _).after (of_within (within_updCore ..))

theorem sendWord (s : State) (n : Nat) (d : Dir) (x : LinkWord) : KeepsIssued s (s.sendWord n d x) := by
  unfold State.sendWord
  split
  · split
    · exact of_within (within_updCore ..)
    · exact .refl _
  · split
    · exact updPart _ _ fun _ => rfl
    · exact .refl _

theorem pageTick (s : State) (n : Nat) (d : PageDue) (first : Bool) : KeepsIssued s (s.pageTick n d first) := by
  refine withLink fun t => ?_
  have read : KeepsIssued t (t.tileRead n d.tile (2 * d.count)).2 := coreRead ..
  split
  next e => exact read.of_pair e
  next e => exact (of_within (within_updCore ..)).after (read.of_pair e)

theorem addTick (s : State) (n : Nat) (d : AddDue) : KeepsIssued s (s.addTick n d) := by
  refine withFe fun t => ?_
  have read : KeepsIssued t (t.tileRead n d.tile (2 * d.count)).2 := coreRead ..
  split
  next e => exact read.of_pair e
  next e => exact (of_within (within_mapEntries ..)).after (read.of_pair e)

theorem beginTick (s : State) (n k : Nat) : KeepsIssued s (s.beginTick n k) := by
  refine foldl (fun _ _ => addTick ..) _ (foldl (fun _ _ => withFe fun _ => of_within (within_updCore ..)) _
    (foldl (fun _ _ => pageTick ..) _ (foldl (fun _ _ => sendWord ..) _ ?_)))
  exact (of_within (within_setLive ..)).after (of_within (within_updCore ..))

theorem issueWord (s : State) (c : CoreId) : KeepsIssued s (s.issueWord c).1 := by
  have read := coreRead s c (leafAt c (s.core c).live.pc) 16
  unfold State.issueWord
  extract_lets overflow
  split
  · split
    next e => exact read.of_pair e
    next bs t e =>
      extract_lets slots
      split
      · exact (stopWith ..).after (read.of_pair e)
      · split
        · exact read.of_pair e
        · exact (stopWith ..).after (read.of_pair e)
  · exact .refl _

theorem beginCores (k : Nat) (l : List Nat) (a : State × List Instr) : KeepsIssued a.1 (l.foldl (State.beginCore k) a).1 := by
  induction l generalizing a with
  | nil => exact .refl _
  | cons n l ih => exact (ih _).after ((issueWord ..).after (beginTick ..))

end KeepsIssued

/-- The tick of a partition issues for it, and for no other. -/
theorem issued_issuePart (s : State) (q : QuireId) (p : Nat) :
    ((s.issuePart q).part p).issued = (decide (p = q.val) || (s.part p).issued) := by
  have cores := KeepsIssued.beginCores (s.part q).tick (s.partCores q) (s, [])
  change ((((s.partCores q).foldl (State.beginCore (s.part q).tick) (s, [])).1.updPart q
    (fun p => { p with issued := true })).part p).issued = _
  rw [State.part_updPart]
  split
  next e => simp [e]
  next ne => simp [ne, cores.kept p]

theorem issued_issueAll (s : State) (qs : List QuireId) (q : QuireId) (h : q ∈ qs) : ((s.issueAll qs).part q).issued = true := by
  have keep (l : List QuireId) (t : State) (yes : (t.part q).issued = true) :
      ((l.foldl State.issuePart t).part q).issued = true := by
    induction l generalizing t with
    | nil => exact yes
    | cons p l ih => exact ih _ (by rw [issued_issuePart, yes, Bool.or_true])
  obtain ⟨l, r, rfl⟩ := List.append_of_mem h
  unfold State.issueAll
  rw [List.foldl_append, List.foldl_cons]
  exact keep r _ (by simp [issued_issuePart])

/-- A unit of time passes in a cycle. -/
theorem wall_advanceClocks (s : State) : s.advanceClocks.1.clk.wall = s.clk.wall + 1 := by
  unfold State.advanceClocks
  split
  · dsimp only
    split
    · rfl
    · rfl
  · rfl

/-- Settles O55: a cycle is the module's own work and then the partitions', which leave the clocks and the other pieces alone; the
issue of ticks notes itself at its partitions and touches theirs alone. -/
theorem idleStepIsCycle : Obligations.IdleStepIsCycle := by
  intro s idle
  refine ⟨s.idle, by simp [step, idle], fun m none em => ?_, fun some_ => ?_⟩
  · subst em
    have e : s.idle = s.cycle := by simp [State.idle, none]
    have parts := (within_cycle_parts s).touches

    have clock : s.endEdgeCycle.advanceClocks.1.moduleCycle.clk = s.endEdgeCycle.advanceClocks.1.clk :=
      (within_moduleCycle _).touches .clk (by decide)
    have before : s.endEdgeCycle.clk = s.clk := (within_endEdgeCycle s).touches .clk (by decide)
    rw [e]
    refine ⟨parts .clk (by decide), ?_, parts .edge (by decide), parts .flash (by decide), parts .boot (by decide),
      parts .ent (by decide), parts .pwr (by decide), ?_, parts .hostA (by decide), parts .hostB (by decide)⟩
    · have same : s.cycle.clk = s.endEdgeCycle.advanceClocks.1.moduleCycle.clk := parts .clk (by decide)
      rw [same, clock, wall_advanceClocks, before]
    · have module : OnlyTouches _ s.endEdgeCycle.advanceClocks.1 _ := (within_moduleCycle _).touches
      have clocks := (within_advanceClocks s.endEdgeCycle).touches
      have edge := (within_endEdgeCycle s).touches
      exact (parts .fuse (by decide)).trans ((module .fuse (by decide)).trans ((clocks .fuse (by decide)).trans
        (edge .fuse (by decide))))
  · have e : s.idle = s.issueAll s.toIssue := by simp [State.idle, some_]
    have all := (within_issueAll s s.toIssue).touches
    rw [e]
    exact ⟨all .clk (by decide), all .edge (by decide), fun q hq => issued_issueAll s _ q hq, all .flash (by decide),
      all .fuse (by decide), all .boot (by decide), all .ent (by decide), all .pwr (by decide), all .mgt (by decide),
      all .hostA (by decide), all .hostB (by decide)⟩

end Sys2Proof.Machine
end

section
/-! PROOFS. The words of the control slot: what each leaves of its core, and the arrivals that a tick's end makes. -/

namespace Sys2Proof.Machine

open Sys2Proof

-- One theorem after another: many at once would need too many threads.
set_option Elab.async false

/-- Only the core's own value counts in its replacement. -/
theorem updCore_congr {s : State} {n : Nat} {f g : CoreState → CoreState} (h : f (s.core n) = g (s.core n)) :
    s.updCore n f = s.updCore n g := by simp only [State.updCore, h]

/-- A command that answers its state with one core replaced has its effect on that core. -/
theorem coreEffect_of_run {i : Instr} {s : State} {c : Nat} {o : Out} {f : CoreState → CoreState} (run : exec i s = o)
    (answer : o = .next (s.updCore c f)) : CoreEffect i s c f :=
  coreEffect_of_updCore (run.trans answer)

theorem coreEffect_nop {s : State} {c : CoreId} (on : s.issues c = true) (slot : Slot) :
    CoreEffect (.nop c slot 0) s c (fun k => if slot = .control then k.passWord else k) := by
  by_cases h : slot = .control
  · refine coreEffect_of_run (o := execNop c slot 0 s) rfl ?_
    simp [execNop, slotOp, on, h, State.pass]
  · refine ⟨s, ?_, by simp [h], fun _ _ => rfl, fun p _ => ?_⟩
    · exact (slotOp_legal s c true _ on rfl).trans (by simp [h])
    · cases p <;> simp [Piece.same]

theorem loopLegal_of {s : State} {c : CoreId} {w : U32} (reserved : fld w 0 0 = 0) (depth : (s.core c).live.loops.length < 4)
    (apart : fld w 10 1 ≠ (s.core c).live.pc) (inner : ∀ l ∈ (s.core c).live.loops, l.last ≠ (s.core c).live.pc) :
    s.loopLegal c w = true := by
  simpa [State.loopLegal, reserved, depth, apart] using inner

/-- Settles O2: each operation replaces its core, and what follows a word is `loopStep`. -/
theorem controlSlotEffects : Obligations.ControlSlotEffects := by
  refine ⟨fun c w s on => ⟨?nop, ?loop, ?wait, ?waitNone, ?phase, ?phaseReload, ?flag, ?pset, ?halt⟩, ?_, ?_, ?_, ?_⟩
  case nop =>
    rintro slot rfl
    exact coreEffect_nop on slot
  case loop =>
    intro reserved depth apart inner
    have legal := loopLegal_of reserved depth apart inner
    refine coreEffect_of_run (o := execLoop c w s) rfl ?_
    unfold execLoop
    rw [slotOp_legal _ _ _ _ on legal]
    exact congrArg _ (updCore_congr rfl)
  case wait =>
    intro some_
    have long : fld w 26 0 ≠ 0 := by omega
    refine coreEffect_of_run (o := execWait c w s) rfl ?_
    simp [execWait, slotOp, on, State.pass, long]
  case waitNone =>
    intro none
    refine coreEffect_of_run (o := execWait c w s) rfl ?_
    simp [execWait, slotOp, on, State.pass, none]
  case phase =>
    intro reserved keep
    refine coreEffect_of_run (o := execPhase c w s) rfl ?_
    simp [execPhase, slotOp, on, State.pass, reserved, keep]
  case phaseReload =>
    intro reserved reload
    refine coreEffect_of_run (o := execPhase c w s) rfl ?_
    simp [execPhase, slotOp, on, State.pass, reserved, reload, CoreState.passWord]
  case flag =>
    intro reserved
    refine coreEffect_of_run (o := execFlag c w s) rfl ?_
    simp [execFlag, slotOp, on, State.pass, reserved, CoreState.passWord]
  case pset =>
    intro reserved
    refine coreEffect_of_run (o := execPset c w s) rfl ?_
    simp [execPset, slotOp, on, State.pass, reserved]
  case halt =>
    intro reserved
    refine coreEffect_of_run (o := execLeafHalt c w s) rfl ?_
    simp [execLeafHalt, slotOp, on, State.pass, reserved]
  · exact fun _ => rfl
  · intro pc l ls h
    simp [loopStep, h]
  · intro pc l ls h left
    simp [loopStep, h, left]
  · intro pc l ls h left
    have out : ¬ 1 < l.left := by omega
    simp [loopStep, h, out]

/-! ## Words sent at a tick's end -/

/-- Nothing but words under way is new: at the cores words that arrive, at the partitions words to the array's edge. -/
structure SendsOnly (s t : State) : Prop where
  core : ∀ n, ∃ a, t.core n = { s.core n with arriving := a }
  part : ∀ q, ∃ e, t.part q = { s.part q with edgeOut := e }

theorem SendsOnly.refl (s : State) : SendsOnly s s := ⟨fun _ => ⟨_, rfl⟩, fun _ => ⟨_, rfl⟩⟩

theorem SendsOnly.trans {s t u : State} (h : SendsOnly s t) (k : SendsOnly t u) : SendsOnly s u where
  core n := by
    obtain ⟨a, e⟩ := h.core n
    obtain ⟨b, f⟩ := k.core n
    exact ⟨b, by rw [f, e]⟩
  part q := by
    obtain ⟨a, e⟩ := h.part q
    obtain ⟨b, f⟩ := k.part q
    exact ⟨b, by rw [f, e]⟩

theorem sendsOnly_sendWord (s : State) (n : Nat) (d : Dir) (x : LinkWord) : SendsOnly s (s.sendWord n d x) := by
  unfold State.sendWord
  extract_lets t
  split
  next m _ =>
    split
    · refine ⟨fun k => ?_, fun q => ⟨_, part_of_parts rfl q⟩⟩
      rw [State.core_updCore]
      split
      next e => exact ⟨_, by rw [e]⟩
      · exact ⟨_, rfl⟩
    · exact .refl s
  · split
    next ed r q _ _ =>
      refine ⟨fun k => ⟨_, core_of_cores rfl k⟩, fun p => ?_⟩
      rw [State.part_updPart]
      split
      next e => exact ⟨_, by rw [e]⟩
      · exact ⟨_, rfl⟩
    · exact .refl s

theorem sendsOnly_outbox (s : State) (n : Nat) (l : List (Dir × LinkWord)) :
    SendsOnly s (l.foldl (fun u e => u.sendWord n e.1 e.2) s) := by
  induction l generalizing s with
  | nil => exact .refl s
  | cons e l ih => exact (sendsOnly_sendWord s n e.1 e.2).trans (ih _)

/-! ## The end of a core's tick -/

/-- The state of a tick's end in which the ports' writes have landed. -/
def State.flushed (s : State) (n : Nat) : State :=
  ((s.flushWrites n (s.core n).eventWrites).flushWrites n (s.core n).feWrites).flushWrites n (s.core n).linkWrites

theorem touches_flushed (s : State) (n : Nat) : OnlyTouches [.regs, .mem, .sramErr, .flt] s (s.flushed n) :=
  ((within_flushWrites ..).after ((within_flushWrites ..).after (within_flushWrites ..).mono) : Within _ s _).touches

@[simp] theorem mode_releaseDue (c : CoreState) (t : Nat) : (c.releaseDue t).mode = c.mode := by
  have fold (l : List (Nat × Nat)) (k : CoreState) :
      (l.foldl (fun k r => (k.tagRows (k.group r.2).firstRow (k.group r.2).rows 0).setGroup r.2 {}) k).mode = k.mode := by
    induction l generalizing k with
    | nil => rfl
    | cons r l ih => exact ih _
  exact fold _ _

/-- The end of a tick with an arrival: the writes land, the arrival is made, words leave, and the core settles. -/
theorem endTick_arrives (s : State) (n t q : Nat) (sweepEnd hall : Bool) (h : (s.core n).arrival = some (sweepEnd, hall))
    (own : s.partOfCore n = some q) :
    ((s.endTick n t).core n).mode = (s.core n).nextMode.getD (s.core n).mode ∧
    ∃ e, (s.endTick n t).part q = { (s.part q).arrive n sweepEnd hall s.clk.wall with edgeOut := e } := by
  have landed := touches_flushed s n
  have parts : (s.flushed n).parts = s.parts := landed .parts (by decide)
  have clk : (s.flushed n).clk = s.clk := landed .clk (by decide)
  have arrived : (s.flushed n).arrive n sweepEnd hall =
      (s.flushed n).updPart q (fun p => p.arrive n sweepEnd hall s.clk.wall) := by
    simp only [State.arrive, partOfCore_of_parts parts, own, clk]
  have sent := sendsOnly_outbox ((s.flushed n).updPart q (fun p => p.arrive n sweepEnd hall s.clk.wall)) n (s.core n).outbox
  obtain ⟨a, core⟩ := sent.core n
  obtain ⟨e, part⟩ := sent.part q
  have before : ((s.flushed n).updPart q (fun p => p.arrive n sweepEnd hall s.clk.wall)).core n = s.core n :=
    core_of_cores (landed .cores (by decide)) n
  rw [State.part_updPart_self, part_of_parts parts] at part
  unfold State.endTick
  simp only [h]
  rw [← State.flushed, arrived]
  constructor
  · rw [State.core_updCore_self, mode_releaseDue, core, before]
  · exact ⟨e, (part_of_parts rfl q).trans part⟩

/-- Settles O3: the words note their arrival, and the tick's end makes it. -/
theorem barrierWordsArrive : Obligations.BarrierWordsArrive := by
  refine ⟨fun c w s on => ⟨fun reserved => ?bar, fun reserved => ?swend⟩, fun s n t q sweepEnd hall h own => ?_⟩
  case bar =>
    refine coreEffect_of_run (o := execBar c w s) rfl ?_
    simp [execBar, slotOp, on, State.pass, reserved]
  case swend =>
    refine coreEffect_of_run (o := execSwend c w s) rfl ?_
    simp [execSwend, slotOp, on, State.pass, reserved, CoreState.passWord]
  · obtain ⟨mode, e, part⟩ := endTick_arrives s n t q sweepEnd hall h own
    refine ⟨fun next => by rw [mode, next, Option.getD_some], ?_⟩
    rw [part]
    refine ⟨_, rfl, rfl, rfl, ?_, ?_, ?_, ?_⟩
    · rintro rfl
      exact Bool.or_true _
    · rintro rfl
      exact Bool.or_true _
    · intro first
      simp [first]
    · intro b later
      simp [later]

end Sys2Proof.Machine
end

section
/-! PROOFS. The stop of a core, and messages sent one after another. -/

namespace Sys2Proof.Machine

open Sys2Proof

-- One theorem after another: many at once would need too many threads.
set_option Elab.async false

/-! ## The stop of a core in the midst of its word -/

theorem tickOf_of_parts {s t : State} (h : t.parts = s.parts) (n : Nat) : t.tickOf n = s.tickOf n := by
  simp only [State.tickOf, partOfCore_of_parts h, State.part, h]

theorem coreTag_of_parts {s t : State} (h : t.parts = s.parts) (n : Nat) : t.coreTag n = s.coreTag n := by
  simp only [State.coreTag, partOfCore_of_parts h]

theorem coreFault_not_faultRegs (n : Nat) : Reg.coreFault n ∉ faultRegs := by
  simp only [faultRegs, List.mem_singleton, Reg.coreFault, Reg.fltStat]
  omega

theorem keepsParts_assertStop (s : State) (n q : Nat) (h : s.partOfCore n = some q) : KeepsParts [q] s (s.assertStop n) := by
  rw [assertStop_part s n q h]
  exact keepsParts_updPart s q _

/-- A stop in a state in which the word has changed its own core alone: what the word did is dropped. -/
theorem coreStops_haltOn {s u : State} {c kind : Nat} {k : CoreState} (others : KeepsCores [c] s u)
    (touched : OnlyTouches [.cores] s u) (drop : (u.core c).dropWord = k.dropWord) (pc : (u.core c).faultPc = k.faultPc)
    (mode : (u.core c).mode ≠ .faulted) : CoreStops c kind k none s (u.haltOn c kind) := by
  obtain ⟨core, reg, part, cores, regs, pieces⟩ := haltOn_spec u c kind
  have parts : u.parts = s.parts := touched .parts (by decide)
  have all := (touched.mono (by simp)).trans pieces
  refine ⟨by rw [core, drop], ?_, fun q own => ?_, by simp, fun _ => all .flt (by decide), others.trans cores, ?_, ?_⟩
  · rw [reg mode, pc, tickOf_of_parts parts]
  · have owned : u.partOfCore c = some q := by rw [partOfCore_of_parts parts, own]
    refine ⟨by rw [part q owned, part_of_parts parts], ?_⟩
    rw [haltOn_eq]
    refine (KeepsParts.of_parts _ ((parts_halted u c kind).trans parts)).trans (keepsParts_assertStop _ _ _ ?_)
    rw [partOfCore_of_parts (parts_halted u c kind), owned]
  · exact (touched.keepsRegs (by decide) _).trans (regs.mono (by simp))
  · exact all.mono (by simp)

/-- The message of a stopped core leaves what the stop did. -/
theorem CoreStops.report {s v : State} {c kind : Nat} {k : CoreState} (h : CoreStops c kind k none s v) (addr : Nat) :
    CoreStops c kind k (some addr) s (v.report c kind addr (s.coreTag c)) := by
  obtain ⟨core, reg, part, -, silent, cores, regs, pieces⟩ := h
  have sent := touches_report v c kind addr (s.coreTag c)
  have all := pieces.trans (sent.mono (by simp))
  refine ⟨?_, ?_, fun q own => ?_, fun a ha => ?_, by simp, ?_, ?_, all⟩
  · rw [core_of_cores (sent .cores (by decide)), core]
  · rw [keepsRegs_report _ _ _ _ _ _ (coreFault_not_faultRegs c), reg]
  · obtain ⟨own_, others⟩ := part q own
    have same := sent .parts (by decide)
    exact ⟨by rw [part_of_parts same, own_], others.trans (.of_parts _ same)⟩
  · cases ha
    have flt : v.flt = s.flt := silent rfl
    intro room x hx
    rw [List.length_singleton] at room
    have time : v.mc = s.mc := congrArg Clocks.mc (pieces .clk (by decide))
    cases List.mem_singleton.mp hx
    rw [report_spec v _ _ _ _ (by rw [flt]; omega), ← time]
    exact (mem_placeMsg _ _ _).mpr (.inl rfl)
  · exact cores.trans (sent.keepsCores (by decide) _)
  · exact regs.trans ((keepsRegs_report _ _ _ _ _).mono fun o ho => List.mem_cons_of_mem _ ho)

/-- A stop with its report (R89, R103, R169). -/
theorem coreStops_stopWith {s : State} {c : Nat} (kind : Nat) (mode : (s.core c).mode ≠ .faulted) :
    CoreStops c kind (s.core c) (some (s.stopAddr c)) s (s.stopWith c kind) :=
  (coreStops_haltOn (.refl _ _) (.refl _ _) rfl rfl mode).report _

theorem running_ne_faulted {s : State} {c : Nat} (on : s.issues c = true) : (s.core c).mode ≠ .faulted := by
  rw [mode_of_issues on]
  decide

/-- A read of a core's SRAM that meets an uncorrectable granule stops the core, in a state in which its word has changed its own
core alone (R64). -/
theorem coreRead_stops {s u : State} {c a len g : Nat} {k : CoreState} (others : KeepsCores [c] s u)
    (touched : OnlyTouches [.cores] s u) (drop : (u.core c).dropWord = k.dropWord) (pc : (u.core c).faultPc = k.faultPc)
    (mode : (u.core c).mode ≠ .faulted) (clean : s.sramCe a len = []) (ue : s.sramUe a len = some g) :
    (u.coreRead c a len).1 = none ∧ CoreStops c 0x11 k (some (g * 8 - coreBase c)) s (u.coreRead c a len).2 := by
  have marks : u.sramErr = s.sramErr := touched .sramErr (by decide)
  have ce : u.sramCe a len = [] := by rw [← clean, State.sramCe, State.sramCe, marks]
  have bad : u.sramUe a len = some g := by rw [← ue, State.sramUe, State.sramUe, marks]
  have tag : u.coreTag c = s.coreTag c := coreTag_of_parts (touched .parts (by decide)) c
  simp only [State.coreRead, ce, bad, reportCe_nil, tag, true_and]
  exact (coreStops_haltOn others touched drop pc mode).report _

/-! ## Several messages -/

/-- Messages of one tag, sent one after another. -/
def State.reportAll (s : State) (l : List (Nat × Nat × Nat)) (tag : Nat) : State :=
  l.foldl (fun t x => t.report x.1 x.2.1 x.2.2 tag) s

theorem touches_reportAll (s : State) (l : List (Nat × Nat × Nat)) (tag : Nat) :
    OnlyTouches [.regs, .flt] s (s.reportAll l tag) :=
  .foldl (fun _ _ => touches_report _ _ _ _ _) l s

theorem keepsRegs_reportAll (s : State) (l : List (Nat × Nat × Nat)) (tag : Nat) :
    KeepsRegs faultRegs s (s.reportAll l tag) :=
  .foldl (fun _ _ => keepsRegs_report _ _ _ _ _) l s

/-- With room for all, each message joins the queue, and those that waited stay. -/
theorem mem_reportAll {s : State} {l : List (Nat × Nat × Nat)} (tag : Nat) (room : s.flt.queue.length + l.length ≤ 64) :
    (∀ m ∈ s.flt.queue, m ∈ (s.reportAll l tag).flt.queue) ∧
    ∀ x ∈ l, ⟨faultMsg x.1 x.2.1 x.2.2, tag, s.mc⟩ ∈ (s.reportAll l tag).flt.queue := by
  induction l generalizing s with
  | nil => exact ⟨fun _ h => h, by simp⟩
  | cons x l ih =>
    rw [List.length_cons] at room
    have one := report_spec s x.1 x.2.1 x.2.2 tag (by omega)
    have queue : (s.report x.1 x.2.1 x.2.2 tag).flt.queue =
        placeMsg ⟨faultMsg x.1 x.2.1 x.2.2, tag, s.mc⟩ s.flt.queue := by rw [one]
    have time : (s.report x.1 x.2.1 x.2.2 tag).mc = s.mc := by rw [one]; rfl
    obtain ⟨stay, sent⟩ := ih (s := s.report x.1 x.2.1 x.2.2 tag) (by rw [queue, length_placeMsg]; omega)
    rw [queue] at stay
    rw [time] at sent
    refine ⟨fun m h => stay m ((mem_placeMsg ..).mpr (.inr h)), fun y hy => ?_⟩
    rcases List.mem_cons.mp hy with rfl | later
    · exact stay _ ((mem_placeMsg ..).mpr (.inl rfl))
    · exact sent y later

theorem reports_reportAll (s : State) (l : List (Nat × Nat × Nat)) (tag : Nat) : Reports l tag s (s.reportAll l tag) :=
  fun room => (mem_reportAll tag room).2

theorem reports_report (s : State) (src kind addr tag : Nat) :
    Reports [(src, kind, addr)] tag s (s.report src kind addr tag) :=
  reports_reportAll s [(src, kind, addr)] tag

/-- Reports after an operation that leaves the collector and the clocks alone. -/
theorem Reports.after {l : List (Nat × Nat × Nat)} {tag : Nat} {s t u : State} (h : Reports l tag t u) (flt : t.flt = s.flt)
    (clk : t.clk = s.clk) : Reports l tag s u := by
  intro room x hx
  have m := h (by rw [flt]; exact room) x hx
  rwa [show t.mc = s.mc from congrArg Clocks.mc clk] at m

end Sys2Proof.Machine
end

section
/-! PROOFS. PAGE and the words of the link slot. -/

namespace Sys2Proof.Machine

open Sys2Proof

-- One theorem after another: many at once would need too many threads.
set_option Elab.async false

/-! ## PAGE -/

/-- An advance after changes of its core is one change. -/
theorem advance_updCore (s : State) (n k : Nat) (f : CoreState → CoreState) (go : Bool) :
    (s.updCore n f).advance n k go = s.updCore n (fun c => (f c).advance (s.reg (Reg.corePtr n k)) k go) :=
  State.updCore_updCore ..

theorem cleanAt_updCore {s : State} {n : Nat} {f : CoreState → CoreState} {a len : Nat} (h : s.cleanAt a len) :
    (s.updCore n f).cleanAt a len := h

/-- A tick of a PAGE that meets no error mark (R78): the port is claimed, and the words are written. -/
theorem pageTick_clean {s : State} {n : Nat} {d : PageDue} (free : (s.core n).linkPort = false)
    (clean : s.cleanAt (tileAt n d.tile) (16 * d.count)) (first : Bool) :
    s.pageTick n d first = s.updCore n (fun k =>
      if first then { k with
        linkPort := true, linkWrites := k.linkWrites ++ pageWrites n d (s.rd (tileAt n d.tile) (16 * d.count)) }
      else { k with
        linkPort := true, eventWrites := k.eventWrites ++ pageWrites n d (s.rd (tileAt n d.tile) (16 * d.count)) }) := by
  have len : 8 * (2 * d.count) = 16 * d.count := by omega
  unfold State.pageTick
  rw [withLink_free s n _ free]
  simp only [State.tileRead, Int.toNat_natCast, len, coreRead_clean (cleanAt_updCore clean), State.updCore_updCore]
  refine updCore_congr ?_
  cases first <;> rfl

/-- A first tick of a PAGE that meets an uncorrectable granule stops the core (R64). -/
theorem pageTick_stops {s : State} {c g : Nat} {f : CoreState → CoreState} {d : PageDue}
    (drop : (f (s.core c)).dropWord = (s.core c).dropWord) (pc : (f (s.core c)).faultPc = (s.core c).faultPc)
    (mode : (f (s.core c)).mode ≠ .faulted) (free : (f (s.core c)).linkPort = false)
    (ce : s.sramCe (tileAt c d.tile) (16 * d.count) = []) (ue : s.sramUe (tileAt c d.tile) (16 * d.count) = some g) :
    CoreStops c 0x11 { s.core c with linkPort := true } (some (g * 8 - coreBase c)) s ((s.updCore c f).pageTick c d true) := by
  have len : 8 * (2 * d.count) = 16 * d.count := by omega
  have read := coreRead_stops (u := s.updCore c fun k => { f k with linkPort := true }) (keepsCores_updCore s c _)
    (touches_updCore s c _) (k := { s.core c with linkPort := true }) (by
      rw [State.core_updCore_self]
      exact congrArg (fun x : CoreState => { x with linkPort := true }) drop) (by rw [State.core_updCore_self]; exact pc)
    (by rw [State.core_updCore_self]; exact mode) ce ue
  obtain ⟨none, stops⟩ := read
  unfold State.pageTick
  rw [withLink_free _ _ _ (by rwa [State.core_updCore_self]), State.updCore_updCore]
  simp only [State.tileRead, Int.toNat_natCast, len]
  split
  next e => rwa [e] at stops
  next e => simp [e] at none

/-- The ticks of a PAGE: the first, and those that follow. -/
def pageDues (t g first n : Nat) : List PageDue :=
  (List.range (ceilDiv n 4)).map fun i => ⟨t + i, g + 8 * i, (first + 4 * i) % 1024, min 4 (n - 4 * i)⟩

theorem pageDues_eq (t g first : Nat) {n : Nat} (pos : 0 < n) : pageDues t g first n =
    ⟨t, g, first % 1024, min 4 n⟩ :: (List.range (ceilDiv n 4 - 1)).map fun i =>
      (⟨t + (i + 1), g + 8 * (i + 1), (first + 4 * (i + 1)) % 1024, min 4 (n - 4 * (i + 1))⟩ : PageDue) := by
  have ticks : ceilDiv n 4 = ceilDiv n 4 - 1 + 1 := by
    unfold ceilDiv
    omega
  rw [pageDues, ticks, List.range_succ_eq_map, List.map_cons, List.map_map]
  simp

/-- The core with a PAGE issued: the word passed, the further ticks noted and the pointer advanced. -/
def issuedPage (s : State) (c : Nat) (w : U32) (g n : Nat) (k : CoreState) : CoreState :=
  ({ k.passWord with newPages := (pageDues (s.tickOf c) g (fld w 21 12) n).drop 1 }).advance
    (s.reg (Reg.corePtr c (fld w 26 23))) (fld w 26 23) (bit w 22)

section
variable {s : State} {c : CoreId} {w : U32} {g n : Nat} (on : s.issues c = true) (reserved : fld w 5 0 = 0)
  (ptr : (s.core c).ptrAt (fld w 26 23) = (g : Int)) (count : n = fld w 11 6 + 1) (inside : g + 2 * n ≤ 15360)
include on reserved ptr count inside

/-- A legal PAGE passes its word with its further ticks noted and the pointer advanced, and makes its first tick. -/
theorem execPage_legal : execPage c w s =
    .next ((s.updCore c (issuedPage s c w g n)).pageTick c ⟨s.tickOf c, g, fld w 21 12 % 1024, min 4 n⟩ true) := by
  have legal : s.pageLegal c w = true := by
    rw [State.pageLegal, reserved, ptr, ← count]
    simp [tileOk]
    omega
  have dues := pageDues_eq (s.tickOf c) g (fld w 21 12) (n := n) (by omega)
  unfold execPage
  rw [slotOp_legal _ _ _ _ on legal]
  simp only [ptr, Int.toNat_natCast, ← count]
  rw [show (List.range (ceilDiv n 4)).map _ = pageDues (s.tickOf c) g (fld w 21 12) n from rfl, State.pass,
    State.updCore_updCore, advance_updCore]
  unfold issuedPage
  rw [dues]

end

/-- Settles O4: the first tick of a PAGE is its word's, and a later one is a tick of its own. -/
theorem pageCopiesGranules : Obligations.PageCopiesGranules := by
  refine ⟨fun c w s g n on reserved ptr count inside free => ⟨fun clean => ?copied, fun k ce ue => ?stopped⟩,
    fun s n d free clean => pageTick_clean free clean false, fun n i d bs h => ?word⟩
  case copied =>
    refine coreEffect_of_run (o := execPage c w s) rfl ?_
    have still : ((s.updCore c (issuedPage s c w g n)).core c).linkPort = false := by
      rw [State.core_updCore_self, issuedPage]
      cases bit w 22 <;> exact free
    rw [execPage_legal on reserved ptr count inside,
      pageTick_clean (d := ⟨s.tickOf c, g, fld w 21 12 % 1024, min 4 n⟩) still (cleanAt_updCore clean), State.updCore_updCore]
    refine congrArg _ (updCore_congr ?_)
    rw [issuedPage, pageDues_eq _ _ _ (by omega)]
    cases bit w 22 <;> rfl
  case stopped =>
    refine ⟨_, execPage_legal on reserved ptr count inside, ?_⟩
    refine pageTick_stops ?_ ?_ ?_ ?_ ce ue
    · rw [issuedPage]
      cases bit w 22 <;> rfl
    · rw [issuedPage]
      cases bit w 22 <;> rfl
    · rw [issuedPage]
      cases bit w 22 <;> exact running_ne_faulted on
    · rw [issuedPage]
      cases bit w 22 <;> exact free
  case word =>
    simp [pageWrites, h]

/-! ## SEND, RECV, RELAY and RECVF -/

/-- The stop of a core for the mark of a word it takes, when its word has only claimed the port (R82). -/
theorem stops_linkPort {s : State} {c : Nat} (on : s.issues c = true) (kind : Nat) :
    CoreStops c kind { s.core c with linkPort := true } none s
      ((s.updCore c (fun k => { k with linkPort := true })).haltOn c kind) :=
  coreStops_haltOn (keepsCores_updCore s c _) (touches_updCore s c _) (by rw [State.core_updCore_self])
    (by rw [State.core_updCore_self]) (by rw [State.core_updCore_self]; exact running_ne_faulted on)

section
variable {s : State} {c : CoreId} {w : U32} {g : Nat} (on : s.issues c = true) (reserved : fld w 15 0 = 0)
  (ptr : (s.core c).ptrAt (fld w 20 17) = (g : Int)) (inside : g + linkLen w / 8 ≤ 15360)
include reserved ptr inside

theorem recvLegal_of : s.recvLegal c w = true := by
  simp [State.recvLegal, reserved, ptr, tileOk]
  omega

theorem sendLegal_of (mask : fld w 26 23 ≠ 0) (idle : s.treeBusy c = false) : s.sendLegal c w = true := by
  simp [State.sendLegal, reserved, ptr, tileOk, mask, idle]
  omega

variable (free : (s.core c).linkPort = false)
include on free

theorem coreEffect_send (mask : fld w 26 23 ≠ 0) (idle : s.treeBusy c = false)
    (clean : s.cleanAt (tileAt c g) (8 * (linkLen w / 8))) :
    CoreEffect (.send c w) s c (fun k => ({ k with
      linkPort := true
      outbox := k.outbox ++ (linkDests w).map (fun d =>
        (d, (⟨s.rd (tileAt c g) (8 * (linkLen w / 8)), linkLen w, none⟩ : LinkWord))) }).advance
      (s.reg (Reg.corePtr c (fld w 20 17))) (fld w 20 17) (bit w 16)) := by
  refine coreEffect_of_run (o := execSend c w s) rfl ?_
  unfold execSend
  rw [slotOp_legal _ _ _ _ on (sendLegal_of reserved ptr inside mask idle), withLink_free _ _ _ free]
  simp only [State.tileRead, ptr, Int.toNat_natCast, coreRead_clean (cleanAt_updCore clean), State.putOut,
    State.updCore_updCore, advance_updCore]
  rfl

theorem execRecv_eq : execRecv c w s = .next ((s.updCore c (fun k => { k with linkPort := true })).withLanded c
    ((s.core c).landed (Dir.ofCode (fld w 28 27))) (fun t =>
      (t.recvWrite c g (recvBytes ((s.core c).landed (Dir.ofCode (fld w 28 27))) (linkLen w))).advance c (fld w 20 17)
        (bit w 16))) := by
  unfold execRecv
  rw [slotOp_legal _ _ _ _ on (recvLegal_of reserved ptr inside), withLink_free _ _ _ free, ptr]

theorem execRecvf_eq (mask : fld w 26 23 ≠ 0) (idle : s.treeBusy c = false) :
    execRecvf c w s = .next ((s.updCore c (fun k => { k with linkPort := true })).withLanded c
      ((s.core c).landed (Dir.ofCode (fld w 28 27))) (fun t =>
        ((t.recvWrite c g (recvBytes ((s.core c).landed (Dir.ofCode (fld w 28 27))) (linkLen w))).putOut c (linkDests w)
          (relayWord ((s.core c).landed (Dir.ofCode (fld w 28 27))))).advance c (fld w 20 17) (bit w 16))) := by
  unfold execRecvf
  rw [slotOp_legal _ _ _ _ on (sendLegal_of reserved ptr inside mask idle), withLink_free _ _ _ free, ptr]

variable {x : LinkWord} (landed : (s.core c).landed (Dir.ofCode (fld w 28 27)) = x)
include landed

theorem coreEffect_recv (good : x.bad = none) : CoreEffect (.recv c w) s c (fun k => ({ k with
    linkPort := true
    linkWrites := k.linkWrites ++ [(tileAt c g, recvBytes x (linkLen w))] }).advance
    (s.reg (Reg.corePtr c (fld w 20 17))) (fld w 20 17) (bit w 16)) := by
  refine coreEffect_of_run (o := execRecv c w s) rfl ?_
  rw [execRecv_eq on reserved ptr inside free, landed]
  simp only [State.withLanded, good, State.recvWrite, Int.toNat_natCast, State.updCore_updCore, advance_updCore]

theorem coreEffect_recvf (mask : fld w 26 23 ≠ 0) (idle : s.treeBusy c = false) (good : x.bad = none) :
    CoreEffect (.recvf c w) s c (fun k => ({ k with
      linkPort := true
      linkWrites := k.linkWrites ++ [(tileAt c g, recvBytes x (linkLen w))]
      outbox := k.outbox ++ (linkDests w).map (fun d => (d, relayWord x)) }).advance
      (s.reg (Reg.corePtr c (fld w 20 17))) (fld w 20 17) (bit w 16)) := by
  refine coreEffect_of_run (o := execRecvf c w s) rfl ?_
  rw [execRecvf_eq on reserved ptr inside free mask idle, landed]
  simp only [State.withLanded, good, State.recvWrite, State.putOut, Int.toNat_natCast, State.updCore_updCore, advance_updCore]

theorem stops_recv {kind : Byte} (bad : x.bad = some kind) :
    ∃ t, exec (.recv c w) s = .next t ∧ CoreStops c kind.toNat { s.core c with linkPort := true } none s t := by
  refine ⟨_, execRecv_eq on reserved ptr inside free, ?_⟩
  simp only [landed, State.withLanded, bad]
  exact stops_linkPort on _

theorem stops_recvf (mask : fld w 26 23 ≠ 0) (idle : s.treeBusy c = false) {kind : Byte} (bad : x.bad = some kind) :
    ∃ t, exec (.recvf c w) s = .next t ∧ CoreStops c kind.toNat { s.core c with linkPort := true } none s t := by
  refine ⟨_, execRecvf_eq on reserved ptr inside free mask idle, ?_⟩
  simp only [landed, State.withLanded, bad]
  exact stops_linkPort on _

end

/-! ## The landing of a word -/

theorem Dir.code_inj {d e : Dir} (h : d.code = e.code) : d = e := by
  cases d <;> cases e <;> first | rfl | cases h

/-- A core with a word landed: it is no longer under way, and stands in the landing register with the link's state. -/
def CoreState.withWord (k : CoreState) (a : LandDue) (d : Dir) (r : LinkWord × Nat × Bool) : CoreState :=
  { k with
    arriving := k.arriving.erase a
    live := { k.live with landing := Table.put (fun _ => LinkWord.empty) k.live.landing d.code r.1 }
    next := { k.next with landing := Table.put (fun _ => LinkWord.empty) k.next.landing d.code r.1 }
    linkBad := Table.put (fun _ => 0) k.linkBad d.code r.2.1
    linkDown := if r.2.2 && !decide (d ∈ k.linkDown) then d :: k.linkDown else k.linkDown }

theorem landed_withWord (k : CoreState) (a : LandDue) (d e : Dir) (r : LinkWord × Nat × Bool) :
    (k.withWord a d r).landed e = if e = d then r.1 else k.landed e := by
  rw [CoreState.landed, CoreState.withWord, Table.look_put]
  by_cases h : e = d
  · rw [if_pos h, if_pos (congrArg _ h)]
  · rw [if_neg h, if_neg fun c => h (Dir.code_inj c)]
    rfl

/-- The messages of a landing: of a failed check, and of a link that goes down (R151). -/
def landNotes (c : Nat) (d : Dir) (how : Arrival) (goesDown : Bool) : List (Nat × Nat × Nat) :=
  (if how = .failed then [(c, 0x30, d.code)] else []) ++ (if goesDown then [(c, 0x31, d.code)] else [])

theorem execLinkWordLand_eq {c : CoreId} {d : Dir} {how : Arrival} {s : State} {a : LandDue}
    (due : (s.core c).arriving.find? (fun a => a.dir == d && a.at_ ≤ s.tickOf c) = some a)
    (takes : (s.core c).absorb = false) {r : LinkWord × Nat × Bool}
    (e : landWord a.word (Table.look (fun _ => 0) (s.core c).linkBad d.code) (d ∈ (s.core c).linkDown) how = r) :
    exec (.linkWordLand c d how) s = .next ((s.updCore c (fun k => k.withWord a d r)).reportAll
      (landNotes c d how (r.2.2 && !decide (d ∈ (s.core c).linkDown))) (s.coreTag c)) := by
  have run : exec (.linkWordLand c d how) s = execLinkWordLand c d how s := rfl
  have tag (t : State) (h : t.parts = s.parts) (l : Nat) : t.linkFault c d l = t.report c l d.code (s.coreTag c) := by
    rw [State.linkFault, coreTag_of_parts h]
  rw [run, execLinkWordLand, due]
  dsimp only
  rw [if_neg (by simp [takes]), e]
  simp only [State.setLive, State.updCore_updCore]
  rw [updCore_congr (s := s) (n := c) (g := fun k => k.withWord a d r) rfl]
  generalize eu : s.updCore c (fun k => k.withWord a d r) = u
  have parts : u.parts = s.parts := by rw [← eu]; rfl
  have first := tag u parts 0x30
  have second := tag (u.report c 0x30 d.code (s.coreTag c)) ((touches_report _ _ _ _ _ .parts (by decide)).trans parts) 0x31
  by_cases failed : how = .failed
  · cases down : r.2.2 && !decide (d ∈ (s.core c).linkDown)
    · simp [landNotes, State.reportAll, failed, first]
    · simp [landNotes, State.reportAll, failed, first, second]
  · cases down : r.2.2 && !decide (d ∈ (s.core c).linkDown)
    · simp [landNotes, State.reportAll, failed]
    · simp [landNotes, State.reportAll, failed, tag u parts]

/-- What a landing leaves (R80, R82, R93, R151). -/
theorem linkWordLand_spec (c : CoreId) (d : Dir) (how : Arrival) (s : State) (a : LandDue) (bad : Nat)
    (due : (s.core c).arriving.find? (fun a => a.dir == d && a.at_ ≤ s.tickOf c) = some a)
    (eb : bad = Table.look (fun _ => 0) (s.core c).linkBad d.code) :
    ∃ t, exec (.linkWordLand c d how) s = .next t ∧ (t.core c).arriving = (s.core c).arriving.erase a ∧
      ((s.core c).absorb = true → t = s.updCore c (fun k => { k with arriving := k.arriving.erase a })) ∧
      ((s.core c).absorb = false → (∀ d', d' ≠ d → (t.core c).landed d' = (s.core c).landed d') ∧
        (how = .good → d ∉ (s.core c).linkDown → (t.core c).landed d = a.word ∧
          (t.core c).linkDown = (s.core c).linkDown ∧ t.flt = s.flt) ∧
        (how = .failed → d ∉ (s.core c).linkDown → (t.core c).landed d = { a.word with bad := some 0x30 } ∧
          (bad < 3 → (t.core c).linkDown = (s.core c).linkDown ∧ Reports [(c, 0x30, d.code)] (s.coreTag c) s t) ∧
          (3 ≤ bad → (t.core c).linkDown = d :: (s.core c).linkDown ∧
            Reports [(c, 0x30, d.code), (c, 0x31, d.code)] (s.coreTag c) s t)) ∧
        (how = .misaligned → d ∉ (s.core c).linkDown → (t.core c).landed d = { a.word with bad := some 0x31 } ∧
          (t.core c).linkDown = d :: (s.core c).linkDown ∧ Reports [(c, 0x31, d.code)] (s.coreTag c) s t) ∧
        (d ∈ (s.core c).linkDown → (t.core c).landed d = { a.word with bad := some 0x31 } ∧
          (t.core c).linkDown = (s.core c).linkDown)) ∧
      KeepsCores [c.val] s t ∧ KeepsRegs faultRegs s t ∧ OnlyTouches [.cores, .flt, .regs] s t := by
  cases absorbs : (s.core c).absorb with
  | true =>
    have run : exec (.linkWordLand c d how) s = execLinkWordLand c d how s := rfl
    refine ⟨s.updCore c (fun k => { k with arriving := k.arriving.erase a }), ?_, by simp, fun _ => rfl, by simp,
      keepsCores_updCore s c _, .of_regs _ rfl, (touches_updCore s c _).mono (by simp)⟩
    rw [run, execLinkWordLand, due]
    exact if_pos absorbs
  | false =>
    generalize er : landWord a.word (Table.look (fun _ => 0) (s.core c).linkBad d.code) (d ∈ (s.core c).linkDown) how = r
    rw [← eb] at er
    generalize el : landNotes c d how (r.2.2 && !decide (d ∈ (s.core c).linkDown)) = l
    generalize eu : s.updCore c (fun k => k.withWord a d r) = u
    have changed : OnlyTouches [.cores] s u := eu ▸ touches_updCore s c _
    have sent := touches_reportAll u l (s.coreTag c)
    have core : (u.reportAll l (s.coreTag c)).core c = (s.core c).withWord a d r := by
      rw [core_of_cores (sent .cores (by decide)), ← eu, State.core_updCore_self]
    have notes : Reports l (s.coreTag c) s (u.reportAll l (s.coreTag c)) :=
      (reports_reportAll u l _).after (changed .flt (by decide)) (changed .clk (by decide))
    have word : ((u.reportAll l (s.coreTag c)).core c).landed d = r.1 := by rw [core, landed_withWord, if_pos rfl]
    have down : ((u.reportAll l (s.coreTag c)).core c).linkDown =
        if r.2.2 && !decide (d ∈ (s.core c).linkDown) then d :: (s.core c).linkDown else (s.core c).linkDown := by
      rw [core]
      rfl
    refine ⟨u.reportAll l (s.coreTag c), ?_, by rw [core]; rfl, by simp, fun _ => ⟨?others, ?good, ?failed, ?misaligned, ?down⟩,
      (eu ▸ keepsCores_updCore s c _ : KeepsCores [c.val] s u).trans (sent.keepsCores (by decide) _),
      (changed.keepsRegs (by decide) _).trans (keepsRegs_reportAll u l _), (changed.mono (by simp)).trans (sent.mono (by simp))⟩
    · rw [execLinkWordLand_eq due absorbs (eb ▸ er), el, eu]
    case others =>
      intro d' other
      rw [core, landed_withWord, if_neg other]
    case good =>
      rintro rfl up
      obtain rfl : r = (a.word, 0, false) := by simp [← er, landWord, up]
      obtain rfl : l = [] := by simp [← el, landNotes]
      exact ⟨word, by simpa using down, changed .flt (by decide)⟩
    case failed =>
      rintro rfl up
      obtain rfl : r = ({ a.word with bad := some 0x30 }, bad + 1, decide (4 ≤ bad + 1)) := by simp [← er, landWord, up]
      refine ⟨word, fun few => ?_, fun fourth => ?_⟩
      · have stays : ¬ 4 ≤ bad + 1 := by omega
        obtain rfl : l = [(c.val, 0x30, d.code)] := by simp [← el, landNotes, stays]
        exact ⟨by simpa [stays] using down, notes⟩
      · have falls : 4 ≤ bad + 1 := by omega
        obtain rfl : l = [(c.val, 0x30, d.code), (c.val, 0x31, d.code)] := by simp [← el, landNotes, falls, up]
        exact ⟨by simpa [falls, up] using down, notes⟩
    case misaligned =>
      rintro rfl up
      obtain rfl : r = ({ a.word with bad := some 0x31 }, bad, true) := by simp [← er, landWord]
      obtain rfl : l = [(c.val, 0x31, d.code)] := by simp [← el, landNotes, up]
      exact ⟨word, by simpa [up] using down, notes⟩
    case down =>
      intro isDown
      have mark : r.1 = { a.word with bad := some 0x31 } := by
        rw [← er]
        cases how <;> simp [landWord, isDown]
      exact ⟨word.trans mark, by simpa [isDown] using down⟩

/-- Settles O5. -/
theorem linkWordsMove : Obligations.LinkWordsMove := by
  refine ⟨fun c w s g on reserved ptr inside free => ⟨coreEffect_send on reserved ptr inside free,
      fun x landed => ⟨fun good => ⟨?_, fun mask idle => ?_⟩, fun kind bad => ⟨?_, fun mask idle => ?_⟩⟩⟩,
    fun c w s x on reserved mask idle landed => ⟨fun good => ?_, fun kind bad => ?_⟩, fun s n m d x near same own => ?_,
    fun c d how s a bad due eb => ?_⟩
  · exact coreEffect_recv on reserved ptr inside free landed good
  · exact coreEffect_recvf on reserved ptr inside free landed mask idle good
  · exact stops_recv on reserved ptr inside free landed bad
  · exact stops_recvf on reserved ptr inside free landed mask idle bad
  · refine coreEffect_of_run (o := execRelay c w s) rfl ?_
    simp [execRelay, slotOp, on, State.relayLegal, reserved, mask, idle, landed, State.withLanded, good, State.putOut]
  · refine ⟨s.haltOn c kind.toNat, ?_, coreStops_haltOn (.refl _ _) (.refl _ _) rfl rfl (running_ne_faulted on)⟩
    have run : exec (.relay c w) s = execRelay c w s := rfl
    rw [run]
    simp [execRelay, slotOp, on, State.relayLegal, reserved, mask, idle, landed, State.withLanded, bad]
  · simp [State.sendWord, near, same, own, linkTicks]
  · exact linkWordLand_spec c d how s a bad due eb

end Sys2Proof.Machine
end

section
/-! PROOFS. Accumulator entries, OPEN, ACC and the conflicts of the field slot. -/

namespace Sys2Proof.Machine

open Sys2Proof

-- One theorem after another: many at once would need too many threads.
set_option Elab.async false

/-! ## Accumulator entries of every core -/

/-- The entries of different cores are apart, in local memory and among the carry counters. -/
theorem entry_setEntry_core (s : State) {n e m d : Nat} (v : BitVec 72) (he : e < 2048) (hd : d < 2048) (h : m ≠ n) :
    (s.setEntry n e v).entry m d = s.entry m d := by
  have carry : Table.look zeroByte (s.setEntry n e v).carry (carryAt m d) = Table.look zeroByte s.carry (carryAt m d) :=
    Table.look_put_other _ _ _ (by unfold carryAt; omega)
  have bytes : (s.setEntry n e v).rd (entryAt m d) 8 = s.rd (entryAt m d) 8 :=
    rd_wr_other s _ _ _ _ (by simp only [length_leBytes, entryAt, coreBase]; omega)
  simp only [State.entry, State.rdN, carry, bytes]

theorem keepsEntries_setEntry (s : State) {n e : Nat} (v : BitVec 72) (he : e < 2048) :
    KeepsEntries n e 1 s (s.setEntry n e v) := by
  intro m d hd apart
  by_cases h : m = n
  · subst h
    exact entry_setEntry_other s m v (by omega)
  · exact entry_setEntry_core s v he hd h

theorem keepsEntries_mapEntries (s : State) {n e : Nat} {fs : List (BitVec 72 → BitVec 72)} (inside : e + fs.length ≤ 2048) :
    KeepsEntries n e fs.length s (s.mapEntries n e fs) := by
  induction fs generalizing s e with
  | nil => exact fun _ _ _ _ => rfl
  | cons f fs ih =>
    rw [List.length_cons] at inside ⊢
    intro m d hd apart
    rw [State.mapEntries, ih _ (by omega) m d hd (by omega), keepsEntries_setEntry s _ (by omega) m d hd (by omega)]

theorem keepsBytes_mapEntries (s : State) (n e : Nat) (fs : List (BitVec 72 → BitVec 72)) :
    KeepsBytes (entryAt n e) (8 * fs.length) s (s.mapEntries n e fs) := by
  induction fs generalizing s e with
  | nil => exact fun _ _ => rfl
  | cons f fs ih =>
    intro k hk
    rw [List.length_cons] at hk
    have first : (s.setEntry n e (f (s.entry n e))).byteAt k = s.byteAt k :=
      Table.look_putSpan_other _ _ _ _ (by rw [length_leBytes]; omega)
    rw [State.mapEntries, ih _ _ k (by simp only [entryAt] at hk ⊢; omega), first]

/-- The owners of rows after a run of them is tagged. -/
theorem owner_tagRows (k : CoreState) (first rows v r : Nat) :
    (k.tagRows first rows v).owner r = if first ≤ r ∧ r < first + rows then v else k.owner r := by
  unfold CoreState.owner CoreState.tagRows
  split
  next inside =>
    have at_ := Table.look_putSpan_inside (fun _ => 0) k.tags first (List.replicate rows v) (r - first)
      (by rw [List.length_replicate]; omega)
    rw [show first + (r - first) = r by omega] at at_
    rw [at_, List.getElem_replicate]
  next outside => exact Table.look_putSpan_other _ _ _ _ (by rw [List.length_replicate]; omega)

/-! ## Field operations and their conflicts -/

theorem fieldOp_free {s : State} {n : Nat} {legal free : Bool} (on : s.issues n = true) (ok : legal = true) (clear : free = true)
    (f : State → State) : fieldOp s n legal free f = .next (f s) := by
  rw [fieldOp, slotOp_legal _ _ _ _ on ok, if_pos clear]

/-- A legal operation of the field slot that meets a conflict stops its core (R103). -/
theorem fieldOp_conflict {s : State} {n : Nat} {legal free : Bool} (on : s.issues n = true) (ok : legal = true)
    (met : free = false) (f : State → State) :
    ∃ t, fieldOp s n legal free f = .next t ∧ CoreStops n 0x20 (s.core n) (some (s.stopAddr n)) s t :=
  ⟨s.conflict n, by rw [fieldOp, slotOp_legal _ _ _ _ on ok, if_neg (by simp [met])],
    coreStops_stopWith 0x20 (running_ne_faulted on)⟩

theorem exec_conflict {i : Instr} {c : CoreId} {s : State} (own : slotCore i = some c) (on : s.issues c = true)
    (ok : s.slotLegal i = true) (met : s.slotFree i = false) :
    ∃ t, exec i s = .next t ∧ CoreStops c 0x20 (s.core c) (some (s.stopAddr c)) s t := by
  cases i with
  | accOpen c' w =>
    cases own
    rw [show exec (.accOpen c w) s = execAccOpen c w s from rfl, execAccOpen]
    exact fieldOp_conflict on ok met _
  | acc c' w =>
    cases own
    rw [show exec (.acc c w) s = execAcc c w s from rfl, execAcc]
    exact fieldOp_conflict on ok met _
  | close c' w =>
    cases own
    rw [show exec (.close c w) s = execClose c w s from rfl, execClose]
    exact fieldOp_conflict on ok met _
  | redLocalExact c' w =>
    cases own
    rw [show exec (.redLocalExact c w) s = execRedLocalExact c w s from rfl, execRedLocalExact]
    exact fieldOp_conflict on ok met _
  | redTreeSend c' w =>
    cases own
    rw [show exec (.redTreeSend c w) s = execRedTreeSend c w s from rfl, execRedTreeSend]
    exact fieldOp_conflict on ok met _
  | redTreeAdd c' w =>
    cases own
    rw [show exec (.redTreeAdd c w) s = execRedTreeAdd c w s from rfl, execRedTreeAdd]
    exact fieldOp_conflict on ok met _
  | redCanon c' w =>
    cases own
    rw [show exec (.redCanon c w) s = execRedCanon c w s from rfl, execRedCanon]
    exact fieldOp_conflict on ok met _
  | _ => exact absurd (show true = false from met) (by decide)

/-- Settles O6: the rows take the group's tag and their entries read zero; conflicts stop the core. -/
theorem openTakesRows : Obligations.OpenTakesRows := by
  refine ⟨fun c w s on reserved rows mode => ?_, fun i c s own on ok met => exec_conflict own on ok met⟩
  have legal : s.openLegal w = true := by
    simp only [State.openLegal, reserved, Bool.and_eq_true, decide_eq_true_eq, Bool.not_eq_true', beq_self_eq_true, true_and]
    exact ⟨rows, by simpa [Bool.and_eq_false_iff] using mode⟩
  refine ⟨fun closed unowned => ?_, fun taken => exec_conflict (i := .accOpen c w) rfl on legal ?_⟩
  · have free : s.openFree c w = true := by
      simpa [State.openFree, closed] using unowned
    have len : (List.replicate (8 * (fld w 16 9 + 1)) (fun _ : BitVec 72 => (0 : BitVec 72))).length =
        8 * (fld w 16 9 + 1) := List.length_replicate
    generalize eu : s.updCore c (fun k => (k.tagRows (fld w 24 17) (fld w 16 9 + 1) (fld w 27 25 + 1)).setGroup (fld w 27 25)
      { isOpen := true, isFloat := bit w 8, point := fld w 7 2, range := false, firstRow := fld w 24 17
        rows := fld w 16 9 + 1, readyAt := 0 }) = u
    have changed : OnlyTouches [.cores] s u := eu ▸ touches_updCore s c _
    have others : KeepsCores [c.val] s u := eu ▸ keepsCores_updCore s c _
    have cleared := touches_mapEntries u c (8 * fld w 24 17) (List.replicate (8 * (fld w 16 9 + 1)) (fun _ => 0))
    have core := (core_of_cores (cleared .cores (by decide)) c).trans (eu ▸ State.core_updCore_self s c _ : u.core c = _)
    have entries := keepsEntries_mapEntries u (n := c) (fs := List.replicate (8 * (fld w 16 9 + 1)) (fun _ => 0))
      (e := 8 * fld w 24 17) (by rw [len]; omega)
    have bytes := keepsBytes_mapEntries u c (8 * fld w 24 17) (List.replicate (8 * (fld w 16 9 + 1)) (fun _ => 0))
    rw [len] at entries bytes
    have run : exec (.accOpen c w) s = .next (u.mapEntries c (8 * fld w 24 17)
        (List.replicate (8 * (fld w 16 9 + 1)) (fun _ => 0))) := by
      rw [show exec (.accOpen c w) s = execAccOpen c w s from rfl, execAccOpen, fieldOp_free on legal free, eu]
    refine ⟨_, run, core, fun r => ?_, fun e low high => ?_, others.trans (cleared.keepsCores (by decide) _), ?_, ?_,
      (changed.mono (by simp)).trans (cleared.mono (by simp))⟩
    · rw [core]
      exact owner_tagRows ..
    · rw [entry_mapEntries, if_pos low]
      have inside : e - 8 * fld w 24 17 < 8 * (fld w 16 9 + 1) := by omega
      simp [inside]
    · intro k hk
      rw [bytes k (by omega), ← eu]
      rfl
    · intro m e he apart
      rw [entries m e he apart, ← eu]
      rfl
  · rw [State.slotFree, State.openFree, Bool.and_eq_false_iff, Bool.not_eq_false', List.all_eq_false]
    rcases taken with opened | ⟨i, hi, owned⟩
    · exact .inl opened
    · exact .inr ⟨i, List.mem_range.mpr hi, by simpa using owned⟩

/-! ## ACC -/

/-- What an ACC does to each of its targets (R106, R111). -/
def targetOps (isFloat : Bool) (point fmt shape : Nat) (ts : Nat → List Term) : List (BitVec 72 → BitVec 72) :=
  ((List.range (tileU shape)).map ts).map fun l =>
    if isFloat then addFloat (floatSum fmt shape l) else addExact ((l.map (Term.fixed point)).foldl (· + ·) 0)

theorem length_targetOps (isFloat : Bool) (point fmt shape : Nat) (ts : Nat → List Term) :
    (targetOps isFloat point fmt shape ts).length = tileU shape := by simp [targetOps]

theorem targetOps_at (isFloat : Bool) (point fmt shape : Nat) (ts : Nat → List Term) (u : Nat) (h : u < tileU shape)
    (v : BitVec 72) : ∃ f, (targetOps isFloat point fmt shape ts)[u]? = some f ∧
      f v = if isFloat then addFloat (floatSum fmt shape (ts u)) v else v + BitVec.ofInt 72 (((ts u).map (Term.fixed point)).sum) := by
  refine ⟨_, by simp [targetOps, h]; rfl, ?_⟩
  cases isFloat
  · simp [addExact, List.sum_eq_foldl]
  · rfl

/-- A core with an ACC of some terms under way: its group notes the range and the tick, and the engine is held (R98, R112). -/
def CoreState.accumulating (k : CoreState) (g t m shape : Nat) (x : Group) (ts : Nat → List Term) : CoreState :=
  { k.setGroup g { x with
      range := x.range || ((List.range (tileU shape)).map ts).any (fun l =>
        l.any (fun z => if x.isFloat then !z.finite else z.outOfRange x.point))
      readyAt := max x.readyAt (t + 3 + m) } with
    engineFree := t + m }

theorem accumulate_eq {s : State} {n g : Nat} {x : Group} (fmt shape kind row : Nat) (scaled : Bool)
    (tile scales window : List Byte) (ex : (s.core n).group g = x) :
    s.accumulate n g fmt shape kind row scaled tile scales window =
      (s.updCore n (fun k => k.accumulating g (s.tickOf n) (accTicks fmt kind x.isFloat) shape x
        (termsOf fmt shape kind (s.pm1 n) tile scales window scaled))).mapEntries n (8 * row)
          (targetOps x.isFloat x.point fmt shape (termsOf fmt shape kind (s.pm1 n) tile scales window scaled)) := by
  subst ex
  rfl

/-- The rows that an ACC's targets lie in are rows of the core. -/
theorem targets_inside {row shape : Nat} (rows : ∀ i, i < (tileU shape + 7) / 8 → row + i < 256) (small : shape < 5) :
    8 * row + tileU shape ≤ 2048 := by
  have size : tileU shape = 64 ∨ tileU shape = 32 ∨ tileU shape = 16 ∨ tileU shape = 8 ∨ tileU shape = 4 := by
    unfold tileU
    interval_cases shape <;> simp
  have last := rows ((tileU shape + 7) / 8 - 1) (by omega)
  omega

/-- Settles O7: the targets' entries take their terms, and the core notes the ACC. -/
theorem accAddsTerms : Obligations.AccAddsTerms := by
  intro c w s g need x scaled bs ts on shape fmt window engine port ptr es en inside clean ebs ex opened mix owned ets
  have needs : s.accNeed c w = need := by rw [State.accNeed, ← es, en]
  have legal : s.accLegal c w = true := by
    have tile : tileOk (g : Int) need = true := by
      simp [tileOk]
      omega
    have exact_ : ¬ (fld w 24 23 == 0 && decide (2 ≤ fld w 19 18)) = true := by simpa using fmt
    have kinds : x.isFloat = false ∨ 1 < fld w 19 18 := by
      by_cases isFloat : x.isFloat = true
      · exact .inr (by simpa [isFloat] using mix)
      · exact .inl (by simpa using isFloat)
    simp [State.accLegal, shape, window, engine, port, ptr, needs, tile, ex, exact_, opened, kinds]
  have free : s.accFree c w = true := by simpa [State.accFree, ex, opened] using owned
  have len := length_targetOps x.isFloat x.point (fld w 24 23) (fld w 22 20) ts
  have targets := targetOps_at x.isFloat x.point (fld w 24 23) (fld w 22 20) ts
  have fits := targets_inside (fun i hi => (owned i hi).1) shape
  obtain ⟨fs, ef⟩ : ∃ fs, targetOps x.isFloat x.point (fld w 24 23) (fld w 22 20) ts = fs := ⟨_, rfl⟩
  rw [ef] at len targets
  generalize em : accTicks (fld w 24 23) (fld w 19 18) x.isFloat = m
  generalize eu : s.updCore c (fun k => ({ k with fePort := true }).accumulating (fld w 27 25) (s.tickOf c) m (fld w 22 20) x
    ts) = u
  have run : exec (.acc c w) s = .next ((u.mapEntries c (8 * fld w 7 0) fs).advance c (fld w 17 14) (bit w 13)) := by
    rw [show exec (.acc c w) s = execAcc c w s from rfl, execAcc, fieldOp_free on legal free, withFe_free _ _ _ port, needs,
      ptr]
    have claimed : ((s.updCore c (fun k => { k with fePort := true })).core c).group (fld w 27 25) = x := by
      rw [State.core_updCore_self]
      exact ex
    simp only [State.tileRead, Int.toNat_natCast, coreRead_clean (cleanAt_updCore clean), accumulate_eq _ _ _ _ _ _ _ _ claimed,
      State.updCore_updCore]
    rw [← eu, ← ef, ← em, ets, ebs, es]
    rfl
  have changed : OnlyTouches [.cores] s u := eu ▸ touches_updCore s c _
  have others : KeepsCores [c.val] s u := eu ▸ keepsCores_updCore s c _
  have added := touches_mapEntries u c (8 * fld w 7 0) fs
  have core : (u.mapEntries c (8 * fld w 7 0) fs).core c = _ :=
    (core_of_cores (added .cores (by decide)) c).trans (eu ▸ State.core_updCore_self s c _ : u.core c = _)
  obtain ⟨moved, movedCores, movedPieces⟩ := advance_spec (u.mapEntries c (8 * fld w 7 0) fs) c (fld w 17 14) (bit w 13)
  have entries := keepsEntries_mapEntries u (n := c) (fs := fs) (e := 8 * fld w 7 0) (by rw [len]; omega)
  have bytes := keepsBytes_mapEntries u c (8 * fld w 7 0) fs
  rw [len] at entries bytes
  refine ⟨_, run, fun v hv => ?_, ?_, others.trans ((added.keepsCores (by decide) _).trans movedCores), fun k hk => ?_,
    fun n e he apart => ?_, ((changed.mono (by simp)).trans (added.mono (by simp))).trans (movedPieces.mono (by simp))⟩
  · obtain ⟨f, at_, value⟩ := targets v hv (s.entry c (8 * fld w 7 0 + v))
    rw [← value]
    have entry := entry_mapEntries u c (8 * fld w 7 0) fs (8 * fld w 7 0 + v)
    rw [if_pos (by omega), show 8 * fld w 7 0 + v - 8 * fld w 7 0 = v by omega, at_] at entry
    exact entry.trans (by rw [← eu]; rfl)
  · rw [moved, core]
    have regs : (u.mapEntries c (8 * fld w 7 0) fs).reg (Reg.corePtr c (fld w 17 14)) = s.reg (Reg.corePtr c (fld w 17 14)) :=
      State.reg_of_regs (((changed.mono (by simp)).trans (added.mono (qs := [.cores, .mem, .carry]) (by simp))) .regs (by decide)).1 _
    rw [regs]
    rfl
  · exact (bytes k hk).trans (by rw [← eu]; rfl)
  · exact (entries n e he apart).trans (by rw [← eu]; rfl)

end Sys2Proof.Machine
end

section
/-! PROOFS. LDS, LDO and PUT, the start of a tick and the writes of its end. -/

namespace Sys2Proof.Machine

open Sys2Proof

-- One theorem after another: many at once would need too many threads.
set_option Elab.async false

/-! ## What the start of a tick leaves of a core's live state -/

/-- No core's live state has changed. -/
structure KeepsLive (s t : State) : Prop where
  live : ∀ n, (t.core n).live = (s.core n).live

namespace KeepsLive

variable {s t u : State}

theorem refl (s : State) : KeepsLive s s := ⟨fun _ => rfl⟩

theorem after (k : KeepsLive t u) (h : KeepsLive s t) : KeepsLive s u := ⟨fun n => (k.live n).trans (h.live n)⟩

theorem of_within {ps : List Piece} (h : Within ps s t) (no : .cores ∉ ps := by decide) : KeepsLive s t where
  live n := by rw [core_of_cores (h.touches .cores no)]

theorem setCore (s : State) (n : Nat) {k : CoreState} (h : k.live = (s.core n).live) : KeepsLive s (s.setCore n k) where
  live m := by
    rw [State.core_setCore]
    split
    next e => rw [h, e]
    · rfl

theorem updCore (s : State) (n : Nat) {f : CoreState → CoreState} (h : ∀ k, (f k).live = k.live) :
    KeepsLive s (s.updCore n f) :=
  setCore s n (h _)

theorem foldl {α : Type} {f : State → α → State} (step : ∀ t a, KeepsLive t (f t a)) (l : List α) (h : KeepsLive s t) :
    KeepsLive s (l.foldl f t) := by
  induction l generalizing t with
  | nil => exact h
  | cons a l ih => exact ih ((step t a).after h)

theorem of_pair {α : Type} {p : α × State} {a : α} (h : KeepsLive s p.2) (e : p = (a, t)) : KeepsLive s t := by
  subst e
  exact h

theorem haltOn (s : State) (n kind : Nat) : KeepsLive s (s.haltOn n kind) := by
  rw [haltOn_eq]
  refine (of_within (within_assertStop ..)).after ⟨fun m => ?_⟩
  rw [core_of_cores (cores_halted s n kind)]
  exact (setCore s n (k := { (s.core n).dropWord with mode := .faulted }) rfl).live m

theorem stopWith (s : State) (n kind : Nat) : KeepsLive s (s.stopWith n kind) :=
  (of_within (within_report ..)).after (haltOn ..)

theorem coreRead (s : State) (n a len : Nat) : KeepsLive s (s.coreRead n a len).2 := by
  have ce : KeepsLive s (s.reportCe n (s.sramCe a len)) := of_within (within_reportCe ..)
  unfold State.coreRead
  extract_lets s1
  split
  · exact (of_within (within_report ..)).after ((haltOn ..).after ce)
  · exact ce

theorem withFe {n : Nat} {f : State → State} (h : ∀ t, KeepsLive t (f t)) : KeepsLive s (s.withFe n f) := by
  unfold State.withFe
  split
  · exact stopWith ..
  · exact (h _).after (updCore _ _ fun _ => rfl)

theorem withLink {n : Nat} {f : State → State} (h : ∀ t, KeepsLive t (f t)) : KeepsLive s (s.withLink n f) := by
  unfold State.withLink
  split
  · exact stopWith ..
  · exact (h _).after (updCore _ _ fun _ => rfl)

theorem sendWord (s : State) (n : Nat) (d : Dir) (x : LinkWord) : KeepsLive s (s.sendWord n d x) where
  live m := by
    obtain ⟨a, e⟩ := (sendsOnly_sendWord s n d x).core m
    rw [e]

theorem pageTick (s : State) (n : Nat) (d : PageDue) (first : Bool) : KeepsLive s (s.pageTick n d first) := by
  refine withLink fun t => ?_
  have read : KeepsLive t (t.tileRead n d.tile (2 * d.count)).2 := coreRead ..
  split
  next e => exact read.of_pair e
  next e => exact (updCore _ _ fun _ => by cases first <;> rfl).after (read.of_pair e)

theorem addTick (s : State) (n : Nat) (d : AddDue) : KeepsLive s (s.addTick n d) := by
  refine withFe fun t => ?_
  have read : KeepsLive t (t.tileRead n d.tile (2 * d.count)).2 := coreRead ..
  split
  next e => exact read.of_pair e
  next e => exact (of_within (within_mapEntries ..)).after (read.of_pair e)

theorem canonTick (s : State) (n : Nat) (d : CanonDue) : KeepsLive s (s.canonTick n d) :=
  withFe fun _ => updCore _ _ fun _ => rfl

end KeepsLive

/-- The live state of a core as its tick begins: the register contents that are due are filled (R83, R85). -/
theorem live_beginTick (s : State) (n t : Nat) : ((s.beginTick n t).core n).live = { (s.core n).live with
    stateReg := ((s.core n).ldsDue.filter (fun d => d.at_ ≤ t)).foldl (fun r d => overlay r 0 d.bytes) (s.core n).live.stateReg
    oldReg := ((s.core n).ldoDue.filter (fun d => d.at_ ≤ t)).foldl (fun r d => overlay r 0 d.bytes) (s.core n).live.oldReg } := by
  unfold State.beginTick
  extract_lets c s1 s2 s3 s4 s5
  have filled : (s2.core n).live = { c.live with
      stateReg := (c.ldsDue.filter (fun d => d.at_ ≤ t)).foldl (fun r d => overlay r 0 d.bytes) c.live.stateReg
      oldReg := (c.ldoDue.filter (fun d => d.at_ ≤ t)).foldl (fun r d => overlay r 0 d.bytes) c.live.oldReg } := by
    simp [s2, s1, c, State.setLive]
  have trees : KeepsLive s2 s3 := .foldl (fun _ _ => .sendWord ..) _ (.refl _)
  have pages : KeepsLive s3 s4 := .foldl (fun _ _ => .pageTick ..) _ (.refl _)
  have canon : KeepsLive s4 s5 := .foldl (fun _ _ => .canonTick ..) _ (.refl _)
  have adds : KeepsLive s5 _ := .foldl (fun u (d : AddDue) => .addTick u n d) (c.adds.filter (fun d => d.at_ ≤ t)) (.refl _)
  rw [(((adds.after canon).after pages).after trees).live n, filled]

/-! ## The writes of a tick's end -/

/-- What follows the ports' writes at a tick's end changes cores and partitions alone. -/
theorem touches_endTick_flushed (s : State) (n t : Nat) : OnlyTouches [.cores, .parts] (s.flushed n) (s.endTick n t) := by
  unfold State.endTick
  extract_lets c s1 s2 s3
  have arrived : Within [.cores, .parts] s1 s2 := by
    dsimp only [s2]
    split
    · exact (within_arrive ..).mono
    · exact .refl _ _
  have sent : Within [.cores, .parts] s1 s3 := .foldl (fun _ _ => within_sendWord ..) _ arrived
  exact ((within_updCore ..).after sent : Within [.cores, .parts] s1 _).touches

theorem flushed_eq (s : State) (n : Nat) :
    s.flushed n = s.flushWrites n ((s.core n).eventWrites ++ (s.core n).feWrites ++ (s.core n).linkWrites) := by
  simp [State.flushed, State.flushWrites, List.foldl_append]

/-- One write of a tick's end is in memory, and changes no other byte (R63). -/
theorem flushed_one {s : State} {n a : Nat} {bs : List Byte}
    (one : (s.core n).eventWrites ++ (s.core n).feWrites ++ (s.core n).linkWrites = [(a, bs)]) (clean : s.cleanAt a bs.length) :
    (s.flushed n).mem = (s.wr a bs).mem := by
  rw [flushed_eq, one]
  exact (congrArg State.mem (wrSram_clean clean n) : (s.wrSram n a bs).mem = _)

theorem moveLegal_of {s : State} {c : CoreId} {w : U32} {g : Nat} (reserved : fld w 4 0 = 0)
    (split : (s.core c).splitAt ≠ some (s.tickOf c)) (ptr : (s.core c).ptrAt (fld w 15 12) = (g : Int))
    (inside : g + (fld w 19 16 + 1) ≤ 15360) : s.moveLegal c w = true := by
  simp [State.moveLegal, State.laneFree, reserved, split, ptr, tileOk]
  omega

theorem ptrAt_fePort (k : CoreState) (p : Nat) : ({ k with fePort := true } : CoreState).ptrAt p = k.ptrAt p := rfl

theorem tickOf_updCore (s : State) (n m : Nat) (f : CoreState → CoreState) : (s.updCore n f).tickOf m = s.tickOf m :=
  tickOf_of_parts rfl m

theorem rd_of_mem {s t : State} (h : t.mem = s.mem) (a len : Nat) : t.rd a len = s.rd a len := by rw [State.rd, h, State.rd]

theorem rd_updCore (s : State) (n : Nat) (f : CoreState → CoreState) (a len : Nat) : (s.updCore n f).rd a len = s.rd a len :=
  rd_of_mem rfl a len

/-- A read of granules of a tile without error marks (R64). -/
theorem tileRead_clean {s : State} {n g count : Nat} (clean : s.cleanAt (tileAt n g) (8 * count)) :
    s.tileRead n (g : Int) count = (some (s.rd (tileAt n g) (8 * count)), s) :=
  coreRead_clean clean n

section
variable {s : State} {c : CoreId} {w : U32} {g : Nat} (on : s.issues c = true) (port : (s.core c).fePort = false)
include on port

theorem coreEffect_lds (reserved : fld w 18 0 = 0) (ptr : (s.core c).ptrAt (fld w 27 24) = (g : Int))
    (inside : g + (fld w 22 19 + 1) ≤ 15360) (clean : s.cleanAt (tileAt c g) (8 * (fld w 22 19 + 1))) :
    CoreEffect (.lds c w) s c (fun k => ({ k with
      fePort := true
      ldsDue := k.ldsDue ++ [(⟨s.tickOf c + 2, s.rd (tileAt c g) (8 * (fld w 22 19 + 1))⟩ : FillDue)] }).advance
      (s.reg (Reg.corePtr c (fld w 27 24))) (fld w 27 24) (bit w 23)) := by
  have tile : tileOk (g : Int) (fld w 22 19 + 1) = true := by
    simp [tileOk]
    omega
  refine coreEffect_of_run (o := execLds c w s) rfl ?_
  rw [execLds, slotOp_legal _ _ _ _ on (by simp [State.ldsLegal, reserved, ptr, tile]), withFe_free _ _ _ port, ptr,
    tileRead_clean (cleanAt_updCore clean)]
  simp only [State.updCore_updCore, advance_updCore, tickOf_updCore, rd_updCore]

variable (reserved : fld w 4 0 = 0) (split : (s.core c).splitAt ≠ some (s.tickOf c))
  (ptr : (s.core c).ptrAt (fld w 15 12) = (g : Int)) (inside : g + (fld w 19 16 + 1) ≤ 15360)
include reserved split ptr inside

theorem coreEffect_ldo (clean : s.cleanAt (tileAt c g) (8 * (fld w 19 16 + 1))) :
    CoreEffect (.ldo c w) s c (fun k => ({ k with
      fePort := true
      newLdo := k.newLdo ++ [(⟨s.tickOf c + 2, s.rd (tileAt c g) (8 * (fld w 19 16 + 1))⟩ : FillDue)] }).advance
      (s.reg (Reg.corePtr c (fld w 15 12))) (fld w 15 12) (bit w 11)) := by
  refine coreEffect_of_run (o := execLdo c w s) rfl ?_
  rw [execLdo, slotOp_legal _ _ _ _ on (moveLegal_of reserved split ptr inside), withFe_free _ _ _ port,
    State.core_updCore_self, ptrAt_fePort, ptr, tileRead_clean (cleanAt_updCore clean)]
  simp only [State.updCore_updCore, advance_updCore, tickOf_updCore, rd_updCore]

theorem coreEffect_put : CoreEffect (.put c w) s c (fun k => ({ k with
      fePort := true
      feWrites := k.feWrites ++ [(tileAt c g, k.live.outReg.take (8 * (fld w 19 16 + 1)))]
      next := { k.next with outReg := zeros 128, outCursor := 0 } }).advance
      (s.reg (Reg.corePtr c (fld w 15 12))) (fld w 15 12) (bit w 11)) := by
  refine coreEffect_of_run (o := execPut c w s) rfl ?_
  rw [execPut, slotOp_legal _ _ _ _ on (moveLegal_of reserved split ptr inside), withFe_free _ _ _ port, ptr]
  simp only [Int.toNat_natCast, State.updCore_updCore, advance_updCore]

end

/-- Settles O8: the reads note their fills, the start of a tick makes them, and the end of a tick writes. -/
theorem registerFillsArriveLater : Obligations.RegisterFillsArriveLater := by
  refine ⟨fun c w s g on port => ⟨fun reserved ptr inside clean => coreEffect_lds on port reserved ptr inside clean,
      fun reserved split ptr inside => ⟨fun clean => coreEffect_ldo on port reserved split ptr inside clean,
        coreEffect_put on port reserved split ptr inside⟩⟩,
    fun s n t => ?_, fun s n t a bs one clean => ?_⟩
  · rw [live_beginTick]
    exact ⟨rfl, rfl⟩
  · have mem : (s.endTick n t).mem = (s.wr a bs).mem :=
      (touches_endTick_flushed s n t .mem (by decide)).trans (flushed_one one clean)
    constructor
    · have back := rd_wr_self s a bs
      rwa [State.rd, ← mem] at back
    · intro k hk
      rw [State.byteAt, mem]
      exact Table.look_putSpan_other _ _ _ _ hk

end Sys2Proof.Machine
end

section
/-! PROOFS. The check of a word as it issues, and the slots of a stopped core. -/

namespace Sys2Proof.Machine

open Sys2Proof

-- One theorem after another: many at once would need too many threads.
set_option Elab.async false

/-- Every slot command is a slot operation of its core with its own legality. -/
theorem exec_slot {i : Instr} {c : CoreId} (own : slotCore i = some c) (s : State) :
    ∃ f, exec i s = slotOp s c (s.slotLegal i) f := by
  cases i with
  | nop c' slot w => cases own; exact ⟨_, execNop.eq_1 c slot w s⟩
  | loop c' w => cases own; exact ⟨_, execLoop.eq_1 c w s⟩
  | wait c' w => cases own; exact ⟨_, execWait.eq_1 c w s⟩
  | bar c' w => cases own; exact ⟨_, execBar.eq_1 c w s⟩
  | swend c' w => cases own; exact ⟨_, execSwend.eq_1 c w s⟩
  | phase c' w => cases own; exact ⟨_, execPhase.eq_1 c w s⟩
  | flag c' w => cases own; exact ⟨_, execFlag.eq_1 c w s⟩
  | page c' w => cases own; exact ⟨_, execPage.eq_1 c w s⟩
  | pset c' w => cases own; exact ⟨_, execPset.eq_1 c w s⟩
  | leafHalt c' w => cases own; exact ⟨_, execLeafHalt.eq_1 c w s⟩
  | send c' w => cases own; exact ⟨_, execSend.eq_1 c w s⟩
  | recv c' w => cases own; exact ⟨_, execRecv.eq_1 c w s⟩
  | relay c' w => cases own; exact ⟨_, execRelay.eq_1 c w s⟩
  | recvf c' w => cases own; exact ⟨_, execRecvf.eq_1 c w s⟩
  | accOpen c' w => cases own; exact ⟨_, execAccOpen.eq_1 c w s⟩
  | acc c' w => cases own; exact ⟨_, execAcc.eq_1 c w s⟩
  | lds c' w => cases own; exact ⟨_, execLds.eq_1 c w s⟩
  | close c' w => cases own; exact ⟨_, execClose.eq_1 c w s⟩
  | redLocalExact c' w => cases own; exact ⟨_, execRedLocalExact.eq_1 c w s⟩
  | redTreeSend c' w => cases own; exact ⟨_, execRedTreeSend.eq_1 c w s⟩
  | redTreeAdd c' w => cases own; exact ⟨_, execRedTreeAdd.eq_1 c w s⟩
  | redCanon c' w => cases own; exact ⟨_, execRedCanon.eq_1 c w s⟩
  | drawb c' w => cases own; exact ⟨_, execDrawb.eq_1 c w s⟩
  | drawc c' w => cases own; exact ⟨_, execDrawc.eq_1 c w s⟩
  | drawr c' w => cases own; exact ⟨_, execDrawr.eq_1 c w s⟩
  | ldo c' w => cases own; exact ⟨_, execLdo.eq_1 c w s⟩
  | put c' w => cases own; exact ⟨_, execPut.eq_1 c w s⟩
  | _ => cases own

/-- A slot command that breaks a rule of its own stops its core (R89). -/
theorem exec_illegal {i : Instr} {c : CoreId} {s : State} (own : slotCore i = some c) (on : s.issues c = true)
    (broken : s.slotLegal i = false) :
    exec i s = .next (s.illegal c) ∧ CoreStops c 0x22 (s.core c) (some (s.stopAddr c)) s (s.illegal c) := by
  obtain ⟨f, run⟩ := exec_slot own s
  exact ⟨run.trans (slotOp_illegal _ _ _ _ on broken), coreStops_stopWith 0x22 (running_ne_faulted on)⟩

/-- A word whose granules carry no error mark, before whose tick no CLOSE overflows, is checked as it issues (R89, R103). -/
theorem issueWord_clean {c : CoreId} {s : State} {slots : List Instr} (on : s.issues c = true) (early : s.batchDue c = none)
    (clean : s.cleanAt (leafAt c (s.core c).live.pc) 16)
    (word : slots = decodeWord c (BitVec.ofNat 128 (leNat (s.rd (leafAt c (s.core c).live.pc) 16)))) :
    s.issueWord c = if s.wordIllegal c slots then (s.illegal c, [])
      else if slots.all s.slotFree then (s, slots) else (s.conflict c, []) := by
  simp only [State.issueWord, early, on, Bool.not_false, Bool.and_self, if_true, coreRead_clean clean, ← word]

/-- Settles O15: a slot operation that is not legal stops its core, and one of a core that does not issue does nothing. -/
theorem illegalWordStopsCore : Obligations.IllegalWordStopsCore := by
  refine ⟨fun c slot w s q on some_ own room => ?_, fun i c s own on broken => ⟨_, exec_illegal own on broken⟩,
    fun c s slots on early clean word => ?_, fun i c s own off => ?_⟩
  · have broken : s.slotLegal (.nop c slot w) = false := by simpa [State.slotLegal] using some_
    obtain ⟨run, core, reg, part, note, -, cores, -, pieces⟩ := exec_illegal (i := .nop c slot w) rfl on broken
    obtain ⟨mine, others⟩ := part q own
    have pc : (s.core c).faultPc = (s.core c).live.pc := by rw [CoreState.faultPc, if_pos (mode_of_issues on)]
    have queued := note _ rfl (by simpa using room) _ (List.mem_singleton_self _)
    rw [State.stopAddr, pc] at queued
    rw [pc] at reg
    refine ⟨_, run, by rw [core], by rw [core]; rfl, by rw [core]; rfl, reg, by rw [mine], by rw [mine], ⟨_, queued, rfl⟩, cores,
      others, ?_, pieces⟩
    obtain ⟨-, -, -, -, kept, halted⟩ := haltOn_spec s c 0x22
    have flt : (s.haltOn c 0x22).flt = s.flt := halted .flt (by decide)
    refine kept.trans (.of_regs _ ?_)
    rw [State.illegal, State.stopWith, report_spec _ _ _ _ _ (by rw [flt]; exact room)]
  · rw [issueWord_clean on early clean word]
    refine ⟨fun bad => ?_, fun good met => ?_, fun good free => ?_⟩
    · rw [if_pos bad]
      exact ⟨rfl, coreStops_stopWith 0x22 (running_ne_faulted on)⟩
    · rw [if_neg (by simp [good]), if_neg (by simp [met])]
      exact ⟨rfl, coreStops_stopWith 0x20 (running_ne_faulted on)⟩
    · rw [if_neg (by simp [good]), if_pos free]
  · obtain ⟨f, run⟩ := exec_slot own s
    rw [run, slotOp_silent _ _ _ _ off]

end Sys2Proof.Machine
end

section
/-! PROOFS. The lane slot: where a draw's results go, and what the draws draw. -/

namespace Sys2Proof.Machine

open Sys2Proof

-- One theorem after another: many at once would need too many threads.
set_option Elab.async false

/-! ## The issue of a draw -/

/-- The dues that an undivided draw fixes, and those of a split draw (R85, R86). -/
def drawDues (t pos size half : Nat) (split : Bool) (results : List (List Bool)) : List DrawDue :=
  let low := if split then results.take half else results
  let high := if split then results.drop half else []
  (if low.isEmpty then [] else [⟨t + 2, pos, low.flatten⟩]) ++
    (if high.isEmpty then [] else [⟨t + 3, pos + size * low.length, high.flatten⟩])

theorem drawDues_whole (t pos size half : Nat) {results : List (List Bool)} (some_ : results ≠ []) :
    drawDues t pos size half false results = [⟨t + 2, pos, results.flatten⟩] := by
  simp [drawDues, some_]

theorem drawDues_split (t pos size : Nat) {half : Nat} {results : List (List Bool)} (first : 0 < half)
    (second : half < results.length) : drawDues t pos size half true results =
      [⟨t + 2, pos, (results.take half).flatten⟩, ⟨t + 3, pos + size * half, (results.drop half).flatten⟩] := by
  have low : results.take half ≠ [] := by
    rw [← List.length_pos_iff, List.length_take]
    omega
  have high : results.drop half ≠ [] := by
    rw [← List.length_pos_iff, List.length_drop]
    omega
  have len : (results.take half).length = half := by
    rw [List.length_take]
    omega
  simp only [drawDues, if_true, List.isEmpty_iff, low, high, if_false, len, List.singleton_append]

/-- The core after a draw has issued (R70, R85, R128, R129). -/
def CoreState.drawn (k : CoreState) (d : DrawCtx) (w : U32) (size units count : Nat) (dues : List DrawDue) (split : Option Nat) :
    CoreState :=
  { k with
    newDraws := k.newDraws ++ dues
    newSplit := split
    next := { k.next with
      outCursor := k.next.outCursor + ceilDiv (size * count) 8
      argCursor := (k.next.argCursor + d.lanes) % 64
      ids := if k.reload then k.next.ids else
        Table.upd (fun _ => ({} : IdReg)) k.next.ids (fld w 10 8) (fun r =>
          if fld w 7 6 = 1 then { r with unit := r.unit + BitVec.ofNat 40 units }
          else if fld w 7 6 = 2 then { r with chain := r.chain + 1 } else r) } }

theorem issueDraw_eq (s : State) (d : DrawCtx) (w : U32) (size units : Nat) (results : List (List Bool)) :
    s.issueDraw d w size units results = s.updCore d.n (fun k => k.drawn d w size units results.length
      (drawDues (s.tickOf d.n) (8 * (s.core d.n).live.outCursor) size (32 / d.width) (s.splits d.n) results)
      (if s.splits d.n then some (s.tickOf d.n + 1) else none)) := rfl

/-- Settles O13: the issue replaces its core, and due results are laid over the output register. -/
theorem drawResultsEnter : Obligations.DrawResultsEnter := by
  refine ⟨fun s d w size units results some_ => ?_, fun c s d due => ?_⟩
  · rw [issueDraw_eq]
    refine ⟨fun whole => ?_, fun split first second => ?_, ?_, ?_, keepsCores_updCore s d.n _, touches_updCore s d.n _⟩
    · rw [State.core_updCore_self, whole, drawDues_whole _ _ _ _ some_]
      exact ⟨rfl, rfl⟩
    · rw [State.core_updCore_self, split, drawDues_split _ _ _ first second]
      exact ⟨rfl, rfl⟩
    · rw [State.core_updCore_self]
      rfl
    · rw [State.core_updCore_self]
      rfl
  · refine coreEffect_of_run (o := execDrawResultEnter c s) rfl ?_
    rw [execDrawResultEnter, due]
    exact congrArg Host.Outcome.next (State.updCore_updCore s c _ _)

/-! ## What the draws draw -/

/-- Scoring the slots that a filter kept is scoring each slot as it is kept (R134). -/
theorem map_filterMap_slots {α : Type} (score : Nat → α) (base k : Nat) (l : List Nat) :
    (l.filterMap (fun j => if base + j < k then some (j, base + j) else none)).map (fun e => (score e.1, e.2)) =
      l.filterMap (fun j => if base + j < k then some (score j, base + j) else none) := by
  rw [List.map_filterMap]
  congr 1
  funext j
  split <;> rfl

theorem tableRead_good {s : State} (good : s.sramGood) (n slot : Nat) (l : List Nat) (f : State → State) :
    s.tableRead n slot l f = f s := by
  have ue (gs : List Nat) : gs.find? (fun g => Table.look (fun _ => 0) s.sramErr g == 2) = none := by simp [good _]
  have ce (gs : List Nat) : gs.filter (fun g => Table.look (fun _ => 0) s.sramErr g == 1) = [] := by simp [good _]
  simp only [State.tableRead, ue, ce, reportCe_nil]

section
variable {c : CoreId} {w : U32} {s : State} (on : s.issues c = true) (good : s.sramGood) (reserved : fld w 4 0 = 0)
  (split : (s.core c).splitAt ≠ some (s.tickOf c)) (advance : fld w 7 6 ≠ 3)
include on reserved split advance

omit on in
theorem drawLegal_of {n : Nat} (place : (s.core c).live.outCursor + n ≤ 128) : s.drawLegal c w n = true := by
  simp [State.drawLegal, State.laneFree, reserved, split, advance, place]

include good in
theorem exec_drawb {d : DrawCtx} (ed : d = s.drawCtx c w (if bit w 5 then 2 else 1))
    (place : (s.core c).live.outCursor + d.lanes / d.width / 8 ≤ 128) :
    exec (.drawb c w) s = .next (s.issueDraw d w 1 (d.lanes / d.width) ((List.range (d.lanes / d.width)).map (fun u =>
      if s.keepsOld d (bit w 5) u then bitSlice (s.core c).live.oldReg (8 * (s.core c).live.outCursor + u) 1
      else [below (s.laneField d (d.lane u 0)) (s.transfer c d.table (s.laneArg d (d.lane u 0)))]))) := by
  subst ed
  have legal : s.drawbLegal c w = true := drawLegal_of reserved split advance place
  rw [show exec (.drawb c w) s = execDrawb c w s from rfl, execDrawb, slotOp_legal _ _ _ _ on legal]
  exact congrArg Host.Outcome.next (tableRead_good good ..)

theorem exec_drawr {d : DrawCtx} {size : Nat} (ed : d = s.drawCtx c w (if bit w 5 then 3 else 2))
    (es : size = if bit w 16 then 32 else 16) (place : (s.core c).live.outCursor + d.lanes / d.width * size / 8 ≤ 128) :
    exec (.drawr c w) s = .next (s.issueDraw d w size (d.lanes / d.width) ((List.range (d.lanes / d.width)).map (fun u =>
      if s.keepsOld d (bit w 5) u then bitSlice (s.core c).live.oldReg (8 * (s.core c).live.outCursor + size * u) size
      else s.realResult d (bit w 16) u))) := by
  subst ed
  have bytes : size = 8 * realBytes w := by
    rw [es, realBytes]
    split <;> rfl
  subst bytes
  have legal : s.drawrLegal c w = true := drawLegal_of reserved split advance (by
    rwa [Nat.mul_left_comm, Nat.mul_div_cancel_left _ (by decide)] at place)
  rw [show exec (.drawr c w) s = execDrawr c w s from rfl, execDrawr, slotOp_legal _ _ _ _ on legal]
  rfl

include good in
theorem exec_drawc_whole {d : DrawCtx} (ed : d = s.drawCtx c w (if bit w 5 then fld w 23 16 + 2 else fld w 23 16 + 1))
    (states : fld w 23 16 ≠ 0) (whole : s.chunked c w = false)
    (place : (s.core c).live.outCursor + s.drawcBytes c w ≤ 128) :
    exec (.drawc c w) s = .next (s.issueDraw d w 8 (d.lanes / d.width) ((List.range (d.lanes / d.width)).map (fun u =>
      if s.keepsOld d (bit w 5) u then bitSlice (s.core c).live.oldReg (8 * (s.core c).live.outCursor + 8 * u) 8
      else match bestState none ((List.range (fld w 23 16 + 1)).map (fun i => (s.score d (d.lane u i), i))) with
        | some b => bitsOf 8 b.2
        | none => bitsOf 8 0))) := by
  subst ed
  have legal : s.drawcLegal c w = true := by
    rw [State.drawcLegal, drawLegal_of reserved split advance place]
    simpa using states
  rw [show exec (.drawc c w) s = execDrawc c w s from rfl, execDrawc, slotOp_legal _ _ _ _ on legal, whole,
    if_neg (by decide), State.drawWhole]
  simp only [tableRead_good good] <;> rfl

include good in
theorem exec_drawc_chunk {cat : CatCarry} {k : Nat} {damp : Bool} {d : DrawCtx} {best : FVal × Nat}
    (ecat : cat = (s.core c).live.cat) (ek : k = if cat.chunk = 0 then fld w 23 16 + 1 else cat.k)
    (edamp : damp = if cat.chunk = 0 then bit w 5 else cat.damp)
    (ed : d = { s.drawCtx c w (if damp then k + 1 else k) with chunk := cat.chunk })
    (eb : best = (bestState (if cat.chunk = 0 then none else some (f32 cat.best, cat.state))
      ((List.range d.lanes).filterMap (fun j => if cat.chunk * d.lanes + j < k
        then some (s.score d j, cat.chunk * d.lanes + j) else none))).getD (f32 cat.best, cat.state))
    (states : fld w 23 16 ≠ 0) (wide : s.chunked c w = true) (place : (s.core c).live.outCursor + s.drawcBytes c w ≤ 128) :
    exec (.drawc c w) s = .next ((s.issueDraw d w 8 (if d.slots ≤ (cat.chunk + 1) * d.lanes then 1 else 0)
      (if d.slots ≤ (cat.chunk + 1) * d.lanes then
        [if s.keepsOld d damp 0 then bitSlice (s.core c).live.oldReg (8 * (s.core c).live.outCursor) 8 else bitsOf 8 best.2]
        else [])).updCore c (fun x => { x with next := { x.next with
          cat := if d.slots ≤ (cat.chunk + 1) * d.lanes
            then { best := b32 best.1, state := best.2, k := k, damp := damp, chunk := 0 }
            else { best := b32 best.1, state := best.2, k := k, damp := damp, chunk := cat.chunk + 1 } } })) := by
  have legal : s.drawcLegal c w = true := by
    rw [State.drawcLegal, drawLegal_of reserved split advance place]
    simpa using states
  rw [show exec (.drawc c w) s = execDrawc c w s from rfl, execDrawc, slotOp_legal _ _ _ _ on legal, wide, if_pos rfl,
    State.drawChunk]
  subst ecat ek edamp ed eb
  simp only [tableRead_good good, map_filterMap_slots]

end

/-- The due of a split or an undivided draw of one result, when a unit spans more lanes than a tick's (R86). -/
theorem drawDues_one (t pos size : Nat) {width : Nat} {split : Bool} (r : List Bool) (wide : split = true → 32 < width) :
    drawDues t pos size (32 / width) split [r] = [⟨t + (if split then 3 else 2), pos, r⟩] := by
  cases split with
  | false => simp [drawDues]
  | true =>
    have none : 32 / width = 0 := Nat.div_eq_of_lt (wide rfl)
    simp [drawDues, none]

/-- Settles O14: each kind of draw issues the results that its units' fields decide. -/
theorem drawsDecideUnits : Obligations.DrawsDecideUnits := by
  refine fun c w s on good reserved split advance => ⟨fun d ed place => exec_drawb on good reserved split advance ed place,
    fun d size ed es place => exec_drawr on reserved split advance ed es place,
    fun d ed states whole place => exec_drawc_whole on good reserved split advance ed states whole place,
    fun cat k damp d best ecat ek edamp ed eb states wide narrow place => ?_⟩
  have own : d.n = c := by rw [ed]; rfl
  have dues (r : List Bool) : drawDues (s.tickOf c) (8 * (s.core c).live.outCursor) 8 (32 / d.width) (s.splits c) [r] =
      [⟨s.tickOf c + (if s.splits c then 3 else 2), 8 * (s.core c).live.outCursor, r⟩] := drawDues_one _ _ _ _ narrow
  refine ⟨_, exec_drawc_chunk on good reserved split advance ecat ek edamp ed eb states wide place, ?_⟩
  rw [issueDraw_eq, own, State.updCore_updCore, State.core_updCore_self]
  refine ⟨fun more => ?_, fun last => ?_, rfl, rfl, keepsCores_updCore s c _, touches_updCore s c _⟩
  · have goesOn : ¬ d.slots ≤ (cat.chunk + 1) * d.lanes := Nat.not_le.mpr more
    rw [if_neg goesOn, if_neg goesOn, if_neg goesOn]
    refine ⟨rfl, ?_, rfl⟩
    rw [CoreState.drawn]
    cases s.splits c <;> simp [drawDues]
  · rw [if_pos last, if_pos last, if_pos last]
    refine ⟨rfl, by rw [CoreState.drawn, dues], ?_⟩
    rw [CoreState.drawn, dues]
    simp [ceilDiv]

end Sys2Proof.Machine
end

section
/-! PROOFS. Register fields after a write, and the clocks: the governor, the thermal limits, TSYNC. -/

namespace Sys2Proof.Machine

open Sys2Proof

-- One theorem after another: many at once would need too many threads.
set_option Elab.async false

/-! ## What a register field reads after a write of a field -/

theorem rf_setRf_self (s : State) (off : Nat) {hi lo : Nat} (v : Nat) (h : lo ≤ hi) (w : hi < 64) :
    (s.setRf off hi lo v).rf off hi lo = v % 2 ^ (hi + 1 - lo) := by
  rw [State.rf, State.reg_setRf_self, fld_setFld_self _ _ _ _ h w]

/-- A one-bit field. -/
theorem rf_setRf_bit (s : State) (off : Nat) {b : Nat} (v : Nat) (w : b < 64) : (s.setRf off b b v).rf off b b = v % 2 := by
  rw [rf_setRf_self s off v (Nat.le_refl b) w, Nat.add_sub_cancel_left, Nat.pow_one]

theorem rf_setRf_apart (s : State) (off : Nat) {hi lo h2 l2 : Nat} (v : Nat) (h : lo ≤ hi) (w : hi < 64)
    (apart : hi < l2 ∨ h2 < lo) : (s.setRf off hi lo v).rf off h2 l2 = s.rf off h2 l2 := by
  rw [State.rf, State.reg_setRf_self, fld_setFld_other _ _ _ _ h w apart]
  rfl

theorem rf_setRf_other (s : State) {o off : Nat} (hi lo v : Nat) (h : o ≠ off) (h2 l2 : Nat) :
    (s.setRf off hi lo v).rf o h2 l2 = s.rf o h2 l2 := by
  rw [State.rf, State.reg_setRf_other _ _ _ _ h]
  rfl

/-- An event's note leaves every register. -/
@[simp] theorem rf_noteEvent (s : State) (off hi lo v o h2 l2 : Nat) : (s.noteEvent off hi lo v).rf o h2 l2 = s.rf o h2 l2 := rfl

theorem rf_raise_self (s : State) (off : Nat) {hi lo : Nat} (v : Nat) (h : lo ≤ hi) (w : hi < 64) :
    (s.raise off hi lo v).rf off hi lo = v % 2 ^ (hi + 1 - lo) := rf_setRf_self _ off v h w

theorem rf_raise_bit (s : State) (off : Nat) {b : Nat} (v : Nat) (w : b < 64) : (s.raise off b b v).rf off b b = v % 2 :=
  rf_setRf_bit _ off v w

theorem rf_raise_apart (s : State) (off : Nat) {hi lo h2 l2 : Nat} (v : Nat) (h : lo ≤ hi) (w : hi < 64)
    (apart : hi < l2 ∨ h2 < lo) : (s.raise off hi lo v).rf off h2 l2 = s.rf off h2 l2 :=
  rf_setRf_apart (s.noteEvent off hi lo v) off v h w apart

theorem rf_raise_other (s : State) {o off : Nat} (hi lo v : Nat) (h : o ≠ off) (h2 l2 : Nat) :
    (s.raise off hi lo v).rf o h2 l2 = s.rf o h2 l2 := rf_setRf_other _ hi lo v h h2 l2

/-- A count stands at its sum, or at the field's largest value. -/
theorem rf_count_self (s : State) (off : Nat) {hi lo : Nat} (n : Nat) (h : lo ≤ hi) (w : hi < 64) :
    (s.count off hi lo n).rf off hi lo = satAdd (2 ^ (hi + 1 - lo) - 1) (s.rf off hi lo) n := by
  have room := satAdd_le (2 ^ (hi + 1 - lo) - 1) (s.rf off hi lo) n
  have pos := Nat.two_pow_pos (hi + 1 - lo)
  rw [State.count, rf_setRf_self _ off _ h w, Nat.mod_eq_of_lt (by omega)]

theorem rf_count_apart (s : State) (off : Nat) {hi lo h2 l2 : Nat} (n : Nat) (h : lo ≤ hi) (w : hi < 64)
    (apart : hi < l2 ∨ h2 < lo) : (s.count off hi lo n).rf off h2 l2 = s.rf off h2 l2 :=
  rf_setRf_apart (s.noteEvent off hi lo _) off _ h w apart

theorem rf_count_other (s : State) {o off : Nat} (hi lo n : Nat) (h : o ≠ off) (h2 l2 : Nat) :
    (s.count off hi lo n).rf o h2 l2 = s.rf o h2 l2 := rf_setRf_other _ hi lo _ h h2 l2

theorem rf_of_reg {s t : State} {o : Nat} (h : t.reg o = s.reg o) (hi lo : Nat) : t.rf o hi lo = s.rf o hi lo := by
  rw [State.rf, State.rf, h]

theorem rf_lt (s : State) (off hi lo : Nat) : s.rf off hi lo < 2 ^ (hi + 1 - lo) := fld_lt _ _ _

/-! ## What an operation leaves alone: the pieces outside a list, and the registers outside a list -/

/-- Only pieces of a list, and of the registers only those of a list, may have changed. -/
structure Frame (ps : List Piece) (rs : List Nat) (s t : State) : Prop where
  pieces : OnlyTouches ps s t
  regs   : KeepsRegs rs s t

namespace Frame
variable {ps qs : List Piece} {rs os : List Nat} {s t u : State}

theorem refl (ps : List Piece) (rs : List Nat) (s : State) : Frame ps rs s s := ⟨.refl _ _, .refl _ _⟩

theorem mono (h : Frame qs os s t) (sub : qs ⊆ ps := by decide) (own : os ⊆ rs := by simp) : Frame ps rs s t :=
  ⟨h.pieces.mono sub, h.regs.mono own⟩

theorem trans (h : Frame ps rs s t) (k : Frame ps rs t u) : Frame ps rs s u := ⟨h.pieces.trans k.pieces, h.regs.trans k.regs⟩

theorem after (k : Frame qs os t u) (h : Frame ps rs s t) (sub : qs ⊆ ps := by decide) (own : os ⊆ rs := by simp) :
    Frame ps rs s u := h.trans (k.mono sub own)

theorem ite {c : Prop} [Decidable c] (h : Frame ps rs s t) (k : Frame ps rs s u) : Frame ps rs s (if c then t else u) := by
  split
  · exact h
  · exact k

theorem foldl {α : Type} {f : State → α → State} (step : ∀ t a, Frame ps rs t (f t a)) (l : List α) (s : State) :
    Frame ps rs s (l.foldl f s) :=
  ⟨.foldl (fun t a => (step t a).pieces) l s, .foldl (fun t a => (step t a).regs) l s⟩

/-- An operation that leaves the registers. -/
theorem of_touches (h : OnlyTouches ps s t) (no : .regs ∉ ps := by decide) : Frame ps [] s t := ⟨h, h.keepsRegs no _⟩

/-- An operation that leaves the registers. -/
theorem of_within (h : Within ps s t) (no : .regs ∉ ps := by decide) : Frame ps [] s t := of_touches h.touches no

theorem reg (h : Frame ps rs s t) {o : Nat} (no : o ∉ rs) : t.reg o = s.reg o := h.regs o no

theorem rf (h : Frame ps rs s t) {o : Nat} (no : o ∉ rs) (hi lo : Nat) : t.rf o hi lo = s.rf o hi lo :=
  rf_of_reg (h.regs o no) hi lo

end Frame

theorem frame_setReg (s : State) (off : Nat) (v : U64) : Frame [.regs] [off] s (s.setReg off v) :=
  ⟨touches_setReg s off v, keepsRegs_setReg s off v⟩

theorem frame_setRf (s : State) (off hi lo v : Nat) : Frame [.regs] [off] s (s.setRf off hi lo v) :=
  ⟨touches_setRf s off hi lo v, keepsRegs_setRf s off hi lo v⟩

theorem frame_raise (s : State) (off hi lo v : Nat) : Frame [.regs] [off] s (s.raise off hi lo v) :=
  ⟨touches_raise s off hi lo v, keepsRegs_raise s off hi lo v⟩

theorem frame_count (s : State) (off hi lo n : Nat) : Frame [.regs] [off] s (s.count off hi lo n) :=
  ⟨touches_count s off hi lo n, keepsRegs_count s off hi lo n⟩

theorem frame_peak (s : State) (off hi lo v : Nat) : Frame [.regs] [off] s (s.peak off hi lo v) :=
  ⟨touches_peak s off hi lo v, keepsRegs_setRf (s.noteEvent off hi lo _) off hi lo _⟩

theorem frame_report (s : State) (src kind addr tag : Nat) : Frame [.regs, .flt] faultRegs s (s.report src kind addr tag) :=
  ⟨touches_report s src kind addr tag, keepsRegs_report s src kind addr tag⟩

theorem frame_updPart (s : State) (q : Nat) (f : Partition → Partition) : Frame [.parts] [] s (s.updPart q f) :=
  .of_touches (touches_updPart s q f)

theorem frame_updCore (s : State) (n : Nat) (f : CoreState → CoreState) : Frame [.cores] [] s (s.updCore n f) :=
  .of_touches (touches_updCore s n f)

/-- Partitions after an operation that leaves them all. -/
theorem KeepsParts.through {l : List Nat} {ps : List Piece} {s t u : State} (h : KeepsParts l s t) (k : OnlyTouches ps t u)
    (no : .parts ∉ ps := by decide) : KeepsParts l s u := h.trans (k.keepsParts no l)

/-- Cores after an operation that leaves them all. -/
theorem KeepsCores.through {l : List Nat} {ps : List Piece} {s t u : State} (h : KeepsCores l s t) (k : OnlyTouches ps t u)
    (no : .cores ∉ ps := by decide) : KeepsCores l s u := h.trans (k.keepsCores no l)

theorem part_through {ps : List Piece} {s t : State} (k : OnlyTouches ps s t) (q : Nat) (no : .parts ∉ ps := by decide) :
    t.part q = s.part q := part_of_parts (k .parts no) q

theorem core_through {ps : List Piece} {s t : State} (k : OnlyTouches ps s t) (n : Nat) (no : .cores ∉ ps := by decide) :
    t.core n = s.core n := core_of_cores (k .cores no) n

/-- A report that finds room stands in the queue, with its tag. -/
theorem report_message (s : State) (src kind addr tag : Nat) (room : s.flt.queue.length < 64) :
    ∃ m ∈ (s.report src kind addr tag).flt.queue, m.msg = faultMsg src kind addr ∧ m.tag = tag :=
  ⟨_, reports_report s src kind addr tag room _ (List.mem_singleton.mpr rfl), rfl, rfl⟩

/-! ## The governor (R411, R413) -/

section
variable {s : State} {mean : Nat}

theorem governorWindow_early (early : s.clk.wall < s.pwr.windowAt + usec 100) : exec (.governorWindow mean) s = .next s :=
  if_pos early

theorem governorWindow_down (due : s.pwr.windowAt + usec 100 ≤ s.clk.wall) (above : s.rf Reg.pwrGov 9 0 < mean)
    (room : 600 < s.pwr.gov) :
    exec (.governorWindow mean) s = .next { s with pwr := s.pwr.step (stepDown s.pwr.gov 1) s.clk.wall } :=
  (if_neg (Nat.not_lt.mpr due)).trans (if_pos ⟨above, room⟩)

theorem governorWindow_up (due : s.pwr.windowAt + usec 100 ≤ s.clk.wall)
    (under : mean + s.rf Reg.pwrGov 27 20 < s.rf Reg.pwrGov 9 0) (room : s.pwr.gov < s.rf Reg.pwrGov 39 28)
    (quiet : ∀ u, s.pwr.lastStep = some u → u + usec 1000 ≤ s.clk.wall) :
    exec (.governorWindow mean) s =
      .next { s with pwr := s.pwr.step (min (s.pwr.gov + 25) (s.rf Reg.pwrGov 39 28)) s.clk.wall } := by
  refine (if_neg (Nat.not_lt.mpr due)).trans ((if_neg fun h => ?_).trans (if_pos ⟨under, ?_, room⟩))
  · have := h.1
    omega
  · split
    · next u at_ => exact decide_eq_true (quiet u at_)
    · rfl

theorem governorWindow_stays (due : s.pwr.windowAt + usec 100 ≤ s.clk.wall)
    (noDown : mean ≤ s.rf Reg.pwrGov 9 0 ∨ s.pwr.gov ≤ 600)
    (noUp : s.rf Reg.pwrGov 9 0 ≤ mean + s.rf Reg.pwrGov 27 20 ∨ s.rf Reg.pwrGov 39 28 ≤ s.pwr.gov ∨
      ∃ u, s.pwr.lastStep = some u ∧ s.clk.wall < u + usec 1000) :
    exec (.governorWindow mean) s = .next { s with pwr := { s.pwr with windowAt := s.clk.wall } } := by
  refine (if_neg (Nat.not_lt.mpr due)).trans ((if_neg fun h => ?_).trans (if_neg fun h => ?_))
  · omega
  · obtain ⟨under, quiet, room⟩ := h
    rcases noUp with no | no | ⟨u, at_, late⟩
    · omega
    · omega
    · rw [at_] at quiet
      have := of_decide_eq_true quiet
      omega

end

/-! ## The thermal limit of a half (R417) -/

theorem throttled_hot {f cool : Nat} {hot cold : Bool} (h : hot = true) : throttled f cool hot cold = (stepDown f 1, 0) :=
  if_pos h

theorem throttled_rises {f cool : Nat} {hot cold : Bool} (h : hot = false) (c : cold = true) (room : f < 1200)
    (ten : 9 ≤ cool) : throttled f cool hot cold = (f + 25, 0) := by
  rw [throttled, h, if_neg (by decide), if_pos ⟨c, room⟩, if_pos ten]

theorem throttled_waits {f cool : Nat} {hot cold : Bool} (h : hot = false) (c : cold = true) (room : f < 1200)
    (few : cool < 9) : throttled f cool hot cold = (f, cool + 1) := by
  rw [throttled, h, if_neg (by decide), if_pos ⟨c, room⟩, if_neg (Nat.not_le.mpr few)]

theorem throttled_stays {f cool : Nat} {hot cold : Bool} (h : hot = false) (no : cold = false ∨ 1200 ≤ f) :
    throttled f cool hot cold = (f, 0) := by
  refine (if_neg (by simp [h])).trans (if_neg fun k => ?_)
  rcases no with no | no
  · exact absurd k.1 (by simp [no])
  · exact Nat.not_lt.mpr no k.2

/-- The sensors of a half alone. -/
def ownSensors : Half → List Nat
  | .north => List.range 24
  | .south => (List.range 24).map (· + 24)

/-- Whether a sensor that throttles a half is at a limit. -/
def State.halfHot (s : State) (h : Half) (lim : Int) : Bool := (throttleSensors h).any (fun i => decide (lim ≤ s.temp i))

/-- Whether every sensor of a half is 3 °C below a limit. -/
def State.halfCold (s : State) (h : Half) (lim : Int) : Bool := (ownSensors h).all (fun i => decide (s.temp i < lim - 48))

section
variable {s : State} {lim : Int} (el : lim = s.threshold (s.rf Reg.pwrTherm 15 8))
include el

theorem throttleStep_north (due : s.throttleDue .north = true) {r : Nat × Nat}
    (er : throttled s.pwr.thN s.pwr.coolN (s.halfHot .north lim) (s.halfCold .north lim) = r) :
    exec (.throttleStep .north) s =
      .next { s with pwr := { s.pwr with thN := r.1, coolN := r.2, stepN := some s.clk.wall } } := by
  subst er el
  exact if_neg (by simp [due])

theorem throttleStep_south (due : s.throttleDue .south = true) {r : Nat × Nat}
    (er : throttled s.pwr.thS s.pwr.coolS (s.halfHot .south lim) (s.halfCold .south lim) = r) :
    exec (.throttleStep .south) s =
      .next { s with pwr := { s.pwr with thS := r.1, coolS := r.2, stepS := some s.clk.wall } } := by
  subst er el
  exact if_neg (by simp [due])

end

theorem halfHot_of_mem {s : State} {h : Half} {lim : Int} {i : Nat} (mem : i ∈ throttleSensors h) (at_ : lim ≤ s.temp i) :
    s.halfHot h lim = true :=
  List.any_eq_true.mpr ⟨i, mem, decide_eq_true at_⟩

theorem halfHot_of_below {s : State} {h : Half} {lim : Int} (below : ∀ i ∈ throttleSensors h, s.temp i < lim) :
    s.halfHot h lim = false :=
  List.any_eq_false.mpr fun i mem => by simpa using below i mem

theorem halfCold_iff (s : State) (h : Half) (lim : Int) : s.halfCold h lim = true ↔ ∀ i ∈ ownSensors h, s.temp i < lim - 48 := by
  simp [State.halfCold]

theorem halfCold_of_warm {s : State} {h : Half} {lim : Int} {i : Nat} (mem : i ∈ ownSensors h) (at_ : lim - 48 ≤ s.temp i) :
    s.halfCold h lim = false :=
  Bool.eq_false_iff.mpr fun all => Int.not_lt.mpr at_ ((halfCold_iff s h lim).mp all i mem)

theorem mem_ownSensors_north (i : Nat) : i ∈ ownSensors .north ↔ i < 24 := List.mem_range

theorem mem_ownSensors_south (i : Nat) : i ∈ ownSensors .south ↔ 24 ≤ i ∧ i < 48 := by
  simp only [ownSensors, List.mem_map, List.mem_range]
  exact ⟨fun ⟨k, hk, e⟩ => by omega, fun h => ⟨i - 24, by omega, by omega⟩⟩

theorem throttleStep_hot {s : State} {h : Half} {i : Nat} (due : s.throttleDue h = true) (mem : i ∈ throttleSensors h)
    (at_ : s.threshold (s.rf Reg.pwrTherm 15 8) ≤ s.temp i) :
    ∃ t, exec (.throttleStep h) s = .next t ∧ OnlyTouches [.pwr] s t ∧
      (h = .north → t.pwr = { s.pwr with thN := max 600 (s.pwr.thN - 25), coolN := 0, stepN := some s.clk.wall }) ∧
      (h = .south → t.pwr = { s.pwr with thS := max 600 (s.pwr.thS - 25), coolS := 0, stepS := some s.clk.wall }) := by
  have pwr (p : Power) : OnlyTouches [.pwr] s { s with pwr := p } := fun x hx => by cases x <;> simp_all [Piece.same]
  have hot := halfHot_of_mem mem at_
  cases h with
  | north => exact ⟨_, throttleStep_north rfl due (throttled_hot hot), pwr _, fun _ => rfl, nofun⟩
  | south => exact ⟨_, throttleStep_south rfl due (throttled_hot hot), pwr _, nofun, fun _ => rfl⟩

/-! ## TSYNC and the Gatehouse clock (R419, R410) -/

theorem rf_tsyncMode {s : State} {mode group : Nat} (known : mode ≠ 3) (apart : ¬ (mode = 2 ∧ s.rf Reg.pwrTsync 1 0 = 1))
    (small : mode < 4) (few : group < 16) :
    (s.tsyncMode mode group).rf Reg.pwrTsync 1 0 = mode ∧ (s.tsyncMode mode group).rf Reg.pwrTsync 5 2 = group ∧
    KeepsRegs [Reg.pwrTsync] s (s.tsyncMode mode group) ∧ OnlyTouches [.regs] s (s.tsyncMode mode group) := by
  rw [State.tsyncMode, if_neg known, if_neg apart]
  have frame := (frame_setRf (s.setRf Reg.pwrTsync 1 0 mode) Reg.pwrTsync 5 2 group).after (frame_setRf ..)
  refine ⟨?_, ?_, frame.regs, frame.pieces⟩
  · rw [rf_setRf_apart _ _ _ (by decide) (by decide) (by decide), rf_setRf_self _ _ _ (by decide) (by decide)]
    exact Nat.mod_eq_of_lt small
  · rw [rf_setRf_self _ _ _ (by decide) (by decide)]
    exact Nat.mod_eq_of_lt few

theorem rf_tsyncMode_conflict {s : State} {mode : Nat} (group : Nat) (two : mode = 2) (pps : s.rf Reg.pwrTsync 1 0 = 1) :
    (s.tsyncMode mode group).rf Reg.pwrTsync 1 0 = 1 ∧ (s.tsyncMode mode group).rf Reg.pwrTsync 6 6 = 1 ∧
    KeepsRegs [Reg.pwrTsync] s (s.tsyncMode mode group) ∧ OnlyTouches [.regs] s (s.tsyncMode mode group) := by
  rw [State.tsyncMode, if_neg (by simp [two]), if_pos ⟨two, pps⟩]
  refine ⟨?_, rf_raise_bit _ _ _ (by decide), (frame_raise ..).regs, (frame_raise ..).pieces⟩
  rw [rf_raise_apart _ _ _ (by decide) (by decide) (by decide), pps]

/-- Settles O54: the branches of each command, one at a time. -/
theorem clocksStep : Obligations.ClocksStep := by
  intro s
  refine ⟨fun mean => governorWindow_early, fun mean due => ⟨governorWindow_down due, governorWindow_up due,
    governorWindow_stays due⟩, fun sample => ⟨fun h => ?_, fun h room => ?_, fun h low => ?_⟩, fun h early => ?_,
    fun h i due mem at_ => throttleStep_hot due mem at_, fun lim el => ⟨fun due below => ?north, fun due below => ?south⟩,
    fun who mode g => ⟨fun no => ?_, fun reaches => ⟨fun known apart => ?_, fun two pps => ?_⟩⟩, fun h => if_neg h,
    fun h => if_pos h, fun pll locked => ?_, fun who pll no => ?_⟩
  · exact congrArg Host.Outcome.next (if_neg (Nat.not_lt.mpr h))
  · exact congrArg Host.Outcome.next ((if_pos h).trans (if_pos room))
  · exact congrArg Host.Outcome.next ((if_pos h).trans (if_neg (Nat.not_lt.mpr low)))
  · exact if_pos (by simp [early])
  case north =>
    have cool := halfHot_of_below below
    refine ⟨fun cold room => ?_, fun no => throttleStep_north el due (throttled_stays cool ?_)⟩
    · have all := (halfCold_iff s .north lim).mpr fun i mem => cold i ((mem_ownSensors_north i).mp mem)
      exact ⟨fun ten => throttleStep_north el due (throttled_rises cool all room ten),
        fun few => throttleStep_north el due (throttled_waits cool all room few)⟩
    · exact no.imp_left fun ⟨i, own, warm⟩ => halfCold_of_warm ((mem_ownSensors_north i).mpr own) warm
  case south =>
    have cool := halfHot_of_below below
    refine ⟨fun cold room => ?_, fun no => throttleStep_south el due (throttled_stays cool ?_)⟩
    · have all := (halfCold_iff s .south lim).mpr fun i mem =>
        cold i ((mem_ownSensors_south i).mp mem).1 ((mem_ownSensors_south i).mp mem).2
      exact ⟨fun ten => throttleStep_south el due (throttled_rises cool all room ten),
        fun few => throttleStep_south el due (throttled_waits cool all room few)⟩
    · exact no.imp_left fun ⟨i, low, high, warm⟩ => halfCold_of_warm ((mem_ownSensors_south i).mpr ⟨low, high⟩) warm
  · rw [show exec (.tsyncModeWrite who mode g) s = execTsyncModeWrite who mode g s from rfl, execTsyncModeWrite]
    rcases no with no | three
    · rw [no, if_neg (by decide)]
    · rw [State.tsyncMode, if_pos three, ite_self]
  · exact ⟨_, congrArg Host.Outcome.next (if_pos reaches), rf_tsyncMode known apart mode.isLt g.isLt⟩
  · exact ⟨_, congrArg Host.Outcome.next (if_pos reaches), rf_tsyncMode_conflict g two pps⟩
  · refine ⟨_, congrArg Host.Outcome.next ((if_pos rfl).trans (if_neg (by simp [locked]))), ?_, (frame_setRf ..).regs,
      (frame_setRf ..).pieces⟩
    rw [rf_setRf_bit _ _ _ (by decide)]
    cases pll <;> rfl
  · rcases no with no | no
    · exact congrArg Host.Outcome.next (if_neg no)
    · refine congrArg Host.Outcome.next ?_
      rw [State.ghsSel, if_pos no, ite_self]

end Sys2Proof.Machine
end

section
/-! PROOFS. Hold and STOP of a partition. -/

namespace Sys2Proof.Machine

open Sys2Proof

-- One theorem after another: many at once would need too many threads.
set_option Elab.async false

/-! ## Hold and STOP of a partition (R165 to R169) -/

section
variable {q : QuireId} {s : State}

theorem holdRaise_new {r : Nat} (run : (s.part q).run = .running) (low : (s.part q).lowRing = some r)
    (free : (s.part q).hold = none) :
    exec (.holdRaise q) s = .next (((s.updPart q (fun p => { p.freeze with
      resumeIn := none
      hold := some { ring := r, raised := (s.part q).tick, since := s.clk.wall, limit := s.rf Reg.arrHoldcfg 19 0
                     freeze := min ((s.part q).freezeAt.getD ((s.part q).tick + 40)) ((s.part q).tick + 40) } })).count
      (Reg.prtHoldstat q) 23 0 1).setRf (Reg.prtHoldstat q) 52 48 r) := by
  rw [show exec (.holdRaise q) s = execHoldRaise q s from rfl, execHoldRaise, run, low, free]
  rfl

theorem holdRaise_again {r : Nat} {h : Hold} (run : (s.part q).run = .running) (low : (s.part q).lowRing = some r)
    (held : (s.part q).hold = some h) :
    exec (.holdRaise q) s =
      .next (s.updPart q (fun p => { p with resumeIn := none, hold := some { h with full := false } })) := by
  rw [show exec (.holdRaise q) s = execHoldRaise q s from rfl, execHoldRaise, run, low, held]

theorem holdDrop_eq {h : Hold} (held : (s.part q).hold = some h) (may : (s.part q).mayDrop h = true)
    (quiet : s.resetWaits q = false) :
    exec (.holdDrop q) s = .next ((s.updPart q (fun p => { p with resumeIn := some 40 })).peak (Reg.prtHoldstat q) 47 24
      (min 0xFFFFFF ((s.clk.wall - h.since) / 1200))) := by
  rw [show exec (.holdDrop q) s = execHoldDrop q s from rfl, execHoldDrop, held]
  exact if_pos (by simp [may, quiet])

theorem holdTimeout_eq {h : Hold} (held : (s.part q).hold = some h) (new : h.reported = false)
    (stays : (s.part q).resumeIn = none) (late : h.since + usec h.limit < s.clk.wall) :
    exec (.holdTimeout q) s = .next ((s.updPart q (fun p => { p with hold := some { h with reported := true } })).report
      (blockSrc 0 q) 0x40 h.ring q) := by
  rw [show exec (.holdTimeout q) s = execHoldTimeout q s from rfl, execHoldTimeout, held]
  exact if_pos (by simp [new, stays, late])

end

theorem rf_peak_self (s : State) (off : Nat) {hi lo v : Nat} (h : lo ≤ hi) (w : hi < 64) (fits : v < 2 ^ (hi + 1 - lo)) :
    (s.peak off hi lo v).rf off hi lo = max v (s.rf off hi lo) := by
  have old := rf_lt s off hi lo
  rw [State.peak, rf_setRf_self _ off _ h w, Nat.mod_eq_of_lt (by omega)]

/-- Settles O20: the branches of each command, one at a time. -/
theorem holdsFreezeAndResume : Obligations.HoldsFreezeAndResume := by
  refine fun q s => ⟨fun r run low => ⟨fun free => ?new, fun h held => ?again⟩,
    fun h f held freeze due high low quiet noReset => ?drop, fun h held new stays late room => ?timeout,
    fun lives line runs => ?stop⟩
  case new =>
    have part := frame_updPart s q (fun p => { p.freeze with
      resumeIn := none
      hold := some { ring := r, raised := (s.part q).tick, since := s.clk.wall, limit := s.rf Reg.arrHoldcfg 19 0
                     freeze := min ((s.part q).freezeAt.getD ((s.part q).tick + 40)) ((s.part q).tick + 40) } })
    have shown (u : State) := (frame_setRf _ (Reg.prtHoldstat q) 52 48 r).after (frame_count u (Reg.prtHoldstat q) 23 0 1)
    have frame := (shown _).after (part.mono (ps := [.regs, .parts]) (rs := [Reg.prtHoldstat q]))
    refine ⟨_, holdRaise_new run low free, ?_, ?_, ?_, ?_, frame.regs, frame.pieces⟩
    · rw [part_through (shown _).pieces, State.part_updPart_self]
      rfl
    · rw [rf_setRf_apart _ _ _ (by decide) (by decide) (by decide), rf_count_self _ _ _ (by decide) (by decide)]
      exact congrArg (satAdd _ · 1) (part.rf (by simp) 23 0)
    · exact rf_setRf_self _ _ _ (by decide) (by decide)
    · exact (keepsParts_updPart s q _).through (shown _).pieces
  case again =>
    refine ⟨_, holdRaise_again run low held, State.part_updPart_self .., ?_, (frame_updPart ..).pieces⟩
    exact keepsParts_updPart s q _
  case drop =>
    have may : (s.part q).mayDrop h = true := by
      rcases high with high | high <;> simp [Partition.mayDrop, Partition.atFreeze, freeze, due, high, low, quiet]
    have part := frame_updPart s q (fun p => { p with resumeIn := some 40 })
    have shown := frame_peak (s.updPart q (fun p => { p with resumeIn := some 40 })) (Reg.prtHoldstat q) 47 24
      (min 0xFFFFFF ((s.clk.wall - h.since) / 1200))
    have frame := shown.after (part.mono (ps := [.regs, .parts]) (rs := [Reg.prtHoldstat q]))
    refine ⟨_, holdDrop_eq held may noReset, ?_, ?_, ?_, frame.regs, frame.pieces⟩
    · rw [part_through shown.pieces, State.part_updPart_self]
    · rw [rf_peak_self _ _ (by decide) (by decide) (by omega)]
      exact congrArg (max _) (part.rf (by simp) 47 24)
    · exact (keepsParts_updPart s q _).through shown.pieces
  case timeout =>
    have part := frame_updPart s q (fun p => { p with hold := some { h with reported := true } })
    have sent := frame_report (s.updPart q (fun p => { p with hold := some { h with reported := true } }))
      (blockSrc 0 q) 0x40 h.ring q
    have frame := sent.after (part.mono (ps := [.regs, .parts, .flt]) (rs := faultRegs))
    refine ⟨_, holdTimeout_eq held new stays late, ?_, report_message _ _ _ _ _ room, ?_, frame.regs, frame.pieces⟩
    · rw [part_through sent.pieces, State.part_updPart_self]
    · exact (keepsParts_updPart s q _).through sent.pieces
  case stop =>
    refine ⟨s.stopPart q, congrArg Host.Outcome.next (if_pos (by simp [lives, line, runs])), ?_, ?_, ?_⟩
    · exact State.part_updPart_self ..
    · exact keepsParts_updPart s q _
    · exact (frame_updPart ..).pieces

end Sys2Proof.Machine
end

section
/-! PROOFS. Semaphores and ownership. -/

namespace Sys2Proof.Machine

open Sys2Proof

-- One theorem after another: many at once would need too many threads.
set_option Elab.async false

/-! ## Semaphores and ownership (R313, R315 to R317) -/

theorem regPlace_semLock (n : SemId) : regPlace (Reg.semLock n) = some ⟨.semLock, n, 0⟩ := by
  revert n
  decide

theorem semLock_bounds (n : SemId) : asleepRead (Reg.semLock n) = true ∧ earlyRead (Reg.semLock n) = true ∧
    accessOk (Reg.semLock n) 8 = true ∧ Reg.semLock n / 8 * 8 = Reg.semLock n ∧ Reg.semLock n % 8 = 0 := by
  revert n
  decide

/-- What a read of SEM_LOCK shows, for the effect that the requester's read has (R315, R424). -/
theorem answerRead_semLock {s t : State} {who : Requester} {n : SemId} {v : Nat} (read : s.semRead who n = (v, t))
    (fits : v < 2 ^ 64) :
    s.answerRead who (Reg.semLock n) 8 = { t with readData := BitVec.ofNat 64 v, readBytes := leBytes 8 v } := by
  obtain ⟨asleep, early, ok, unit, low⟩ := semLock_bounds n
  have whole : bitsN v 63 0 = v := by
    rw [bitsN_eq, Nat.pow_zero, Nat.div_one]
    exact Nat.mod_eq_of_lt fits
  have value : (BitVec.ofNat 64 v).toNat = v := by
    rw [BitVec.toNat_ofNat]
    exact Nat.mod_eq_of_lt fits
  have shown (x : State) : x.regSeen who (Reg.semLock n) = BitVec.ofNat 64 (x.sem n).owner := by
    rw [State.regSeen, early, if_pos (by simp), State.regView, regPlace_semLock]
  have served : (if who = .hall ∨ who = .bar4 then (s.regSeen who (Reg.semLock n), s)
      else s.readEffects who (Reg.semLock n) 8) = (BitVec.ofNat 64 v, t) := by
    split
    next other =>
      have silent : who.semCode = 0 := by rcases other with rfl | rfl <;> rfl
      rw [State.semRead, if_pos (.inl silent)] at read
      obtain ⟨rfl, rfl⟩ := Prod.mk.inj read
      rw [shown]
    next => simp only [State.readEffects, unit, regPlace_semLock, low, if_true, read]
  have answer : s.regRead who (Reg.semLock n) 8 = (some (BitVec.ofNat 64 v), t) := by
    rw [State.regRead, asleep, if_neg (by simp), ok, if_neg (by decide), unit, served, low]
    simp only [value, Nat.zero_mul, Nat.zero_add, Nat.reduceMul, Nat.reduceSub, whole]
  rw [State.answerRead, answer]
  simp only [value]

theorem semRead_taken {s : State} {who : Requester} {n : Nat} (code : who.semCode ≠ 0) (free : (s.sem n).owner = 0) :
    s.semRead who n = (who.semCode + 4, s.setSem n { owner := who.semCode, leaseEnd := s.leaseEnd n
                                                     lapsed := (s.sem n).lapsed.filter (· != who.semCode) }) :=
  if_neg (by simp [code, free])

theorem semCode_lt (who : Requester) : who.semCode + 4 < 2 ^ 64 := by cases who <;> decide

theorem exec_semRelease {who : Requester} {n : SemId} {s t : State} (reaches : s.writeReaches who (Reg.semLock n) = true)
    (written : s.semWrite who n 1 = t) : exec (.semRelease who n) s = .next t := by
  rw [← written]
  exact congrArg Host.Outcome.next (if_pos reaches)

theorem exec_semRenew {who : Requester} {n : SemId} {s t : State} (reaches : s.writeReaches who (Reg.semLock n) = true)
    (written : s.semWrite who n 2 = t) : exec (.semRenew who n) s = .next t := by
  rw [← written]
  exact congrArg Host.Outcome.next (if_pos reaches)

theorem semWrite_silent {s : State} {who : Requester} (code : who.semCode = 0) (n action : Nat) : s.semWrite who n action = s :=
  if_pos code

theorem semWrite_owner {s : State} {who : Requester} {n : Nat} (code : who.semCode ≠ 0)
    (own : (s.sem n).owner = who.semCode) :
    s.semWrite who n 1 = s.setSem n { s.sem n with owner := 0, leaseEnd := none } ∧
    s.semWrite who n 2 = s.setSem n { s.sem n with leaseEnd := s.leaseEnd n } :=
  ⟨(if_neg code).trans (if_pos own), (if_neg code).trans (if_pos own)⟩

theorem semWrite_other {s : State} {who : Requester} {n : Nat} (code : who.semCode ≠ 0)
    (own : (s.sem n).owner ≠ who.semCode) (action : Nat) :
    s.semWrite who n action =
      if who.semCode ∈ (s.sem n).lapsed then s.count Reg.semStat 31 16 1 else s.count Reg.semStat 47 32 1 :=
  (if_neg code).trans (if_neg own)

theorem msix_interrupt {s : State} {p : Port} {v : Nat} (up : s.rf (Reg.hstPortstat p.num) 0 0 = 1)
    (unmasked : s.vectorMasked p v = false) : (s.interrupt p v).msix = s.msix ++ [(p, v)] := by
  rw [State.interrupt, if_neg (by simp [up]), unmasked, if_neg (by decide)]

/-- The semaphore freed and counted, before its former owner is interrupted. -/
def State.lapse (s : State) (n : Nat) : State :=
  (s.setSem n ⟨0, none, (s.sem n).owner :: (s.sem n).lapsed.filter (· != (s.sem n).owner)⟩).count Reg.semStat 15 0 1

theorem loseLease_eq (s : State) (n : Nat) : s.loseLease n =
    if (s.sem n).owner = 1 then (s.lapse n).interrupt .a ((s.lapse n).rf (Reg.hstPortcfg 0) 33 26)
    else if (s.sem n).owner = 2 then (s.lapse n).interrupt .b ((s.lapse n).rf (Reg.hstPortcfg 1) 33 26)
    else s.lapse n := rfl

theorem rf_lapse_other (s : State) (n : Nat) {o : Nat} (h : o ≠ Reg.semStat) (hi lo : Nat) :
    (s.lapse n).rf o hi lo = s.rf o hi lo := rf_count_other _ 15 0 1 h hi lo

theorem sem_lapse (s : State) (n m : Nat) : (s.lapse n).sem m =
    (s.setSem n ⟨0, none, (s.sem n).owner :: (s.sem n).lapsed.filter (· != (s.sem n).owner)⟩).sem m := rfl

theorem loseLease_port (s : State) (n : Nat) (p : Port) (own : (s.sem n).owner = p.num + 1) :
    s.loseLease n = (s.lapse n).interrupt p (s.rf (Reg.hstPortcfg p.num) 33 26) := by
  rw [loseLease_eq]
  cases p with
  | a =>
    have one : (s.sem n).owner = 1 := own
    rw [if_pos one, rf_lapse_other _ _ (by decide)]
    rfl
  | b =>
    have two : (s.sem n).owner = 2 := own
    rw [if_neg (by simp [two]), if_pos two, rf_lapse_other _ _ (by decide)]
    rfl

/-- A lost lease sends at most an interrupt besides. -/
theorem touches_loseLease (s : State) (n : Nat) : OnlyTouches [.msix] (s.lapse n) (s.loseLease n) := by
  rw [loseLease_eq]
  split
  · exact touches_interrupt _ _ _
  · split
    · exact touches_interrupt _ _ _
    · exact .refl _ _

theorem sem_setSem_other (s : State) {m n : Nat} (x : Semaphore) (h : m ≠ n) : (s.setSem n x).sem m = s.sem m := by
  rw [State.sem_setSem, if_neg h]

/-- The semaphores, the registers and the pieces after a lost lease. -/
theorem loseLease_spec (s : State) (n : Nat) :
    (s.loseLease n).sem n = ⟨0, none, (s.sem n).owner :: (s.sem n).lapsed.filter (· != (s.sem n).owner)⟩ ∧
    (∀ m, m ≠ n → (s.loseLease n).sem m = s.sem m) ∧
    (s.loseLease n).rf Reg.semStat 15 0 = satAdd (2 ^ 16 - 1) (s.rf Reg.semStat 15 0) 1 ∧
    Frame [.regs, .sems, .msix] [Reg.semStat] s (s.loseLease n) := by
  have sent : Frame [.msix] [] (s.lapse n) (s.loseLease n) := .of_touches (touches_loseLease s n)
  have sems : (s.loseLease n).sems = (s.lapse n).sems := sent.pieces .sems (by decide)
  have sem (m : Nat) : (s.loseLease n).sem m = (s.lapse n).sem m := by rw [State.sem, sems, State.sem]
  have freed : Frame [.sems] [] s
      (s.setSem n ⟨0, none, (s.sem n).owner :: (s.sem n).lapsed.filter (· != (s.sem n).owner)⟩) :=
    .of_touches (touches_setSem s n _)
  refine ⟨(sem n).trans ((sem_lapse s n n).trans (State.sem_setSem_self ..)),
    fun m hm => (sem m).trans ((sem_lapse s n m).trans (sem_setSem_other s _ hm)), ?_,
    sent.after ((frame_count _ _ 15 0 1).after freed.mono)⟩
  rw [sent.rf (by simp)]
  exact rf_count_self _ _ _ (by decide) (by decide)

/-- Settles O41: each command by its branch. -/
theorem semaphoresAreOwned : Obligations.SemaphoresAreOwned := by
  refine fun who n s => ⟨fun code free => ?_, fun other fits => ?_, fun reaches => ⟨fun code own => ?_,
    fun u code own eu => ?_⟩, fun no => ?_, fun u lease => ⟨fun own late => ?_, fun early => ?_⟩,
    fun q mode => ⟨fun no => congrArg Host.Outcome.next (if_neg (by simp [no])), fun reaches => ?_⟩⟩
  · refine ⟨_, congrArg Host.Outcome.next (answerRead_semLock (semRead_taken code free) (semCode_lt who)), rfl, rfl,
      State.sem_setSem_self .., fun m hm => sem_setSem_other s _ hm, fun p hp => ?_⟩
    cases p <;> simp_all [Piece.same]
  · exact congrArg Host.Outcome.next (answerRead_semLock (if_pos other) fits)
  · exact ⟨exec_semRelease reaches (semWrite_owner code own).1, exec_semRenew reaches (semWrite_owner code own).2⟩
  · exact ⟨exec_semRelease reaches ((semWrite_other code own 1).trans eu.symm),
      exec_semRenew reaches ((semWrite_other code own 2).trans eu.symm)⟩
  · rcases no with no | no
    · exact ⟨congrArg Host.Outcome.next (if_neg (by simp [no])), congrArg Host.Outcome.next (if_neg (by simp [no]))⟩
    · exact ⟨congrArg Host.Outcome.next (by rw [semWrite_silent no, ite_self]),
        congrArg Host.Outcome.next (by rw [semWrite_silent no, ite_self])⟩
  · obtain ⟨sem, others, count, frame⟩ := loseLease_spec s n
    refine ⟨s.loseLease n, ?_, by rw [sem], by rw [sem], by rw [sem]; exact List.mem_cons_self, count,
      fun p own' up unmasked => ?_, others, frame.regs, frame.pieces⟩
    · rw [show exec (.semLeaseExpire n) s = execSemLeaseExpire n s from rfl, execSemLeaseExpire, lease]
      exact congrArg Host.Outcome.next (if_pos ⟨own, late⟩)
    · have still : (s.lapse n).vectorMasked p (s.rf (Reg.hstPortcfg p.num) 33 26) = false := unmasked
      rw [loseLease_port s n p own', msix_interrupt ?_ still]
      · rfl
      · rw [rf_lapse_other _ _ (by cases p <;> decide), up]
  · rw [show exec (.semLeaseExpire n) s = execSemLeaseExpire n s from rfl, execSemLeaseExpire, lease]
    exact congrArg Host.Outcome.next (if_neg fun h => Nat.not_lt.mpr early h.2)
  · have small := mode.isLt
    refine ⟨s.ownerWrite who q mode.toNat n, congrArg Host.Outcome.next (if_pos reaches), fun may => ?_, fun may => ?_, ?_⟩
    · rw [State.ownerWrite, if_pos may]
      refine ⟨?_, ?_, ?_⟩
      · rw [rf_setRf_apart _ _ _ (by decide) (by decide) (by decide), rf_setRf_self _ _ _ (by decide) (by decide)]
        exact Nat.mod_eq_of_lt small
      · rw [rf_setRf_self _ _ _ (by decide) (by decide)]
        exact Nat.mod_eq_of_lt n.isLt
      · rw [rf_setRf_apart _ _ _ (by decide) (by decide) (by decide), rf_setRf_apart _ _ _ (by decide) (by decide) (by decide)]
    · rw [State.ownerWrite, if_neg (by simp [may])]
      exact ⟨rf_raise_bit _ _ _ (by decide), rf_raise_apart _ _ _ (by decide) (by decide) (by decide)⟩
    · have frame : Frame [.regs] [Reg.prtOwner q] s (s.ownerWrite who q mode.toNat n) :=
        .ite ((frame_setRf ..).after (frame_setRf ..)) (frame_raise ..)
      exact ⟨frame.regs, frame.pieces⟩

end Sys2Proof.Machine
end

section
/-! PROOFS. CLOSE and its batches. -/

namespace Sys2Proof.Machine

open Sys2Proof

-- One theorem after another: many at once would need too many threads.
set_option Elab.async false

/-! ## What the output stage reads of a state -/

/-- Two states show the output stage of a core the same: the partitions, the memories, the lanes, the mode of operation, and of
the core what it issues and draws from. -/
structure SameStage (n : Nat) (s t : State) : Prop where
  parts : t.parts = s.parts
  mem   : t.mem = s.mem
  lanes : t.lanes = s.lanes
  det   : t.det = s.det
  live  : (t.core n).live = (s.core n).live
  mode  : (t.core n).mode = (s.core n).mode
  split : (t.core n).splitAt = (s.core n).splitAt

namespace SameStage
variable {n : Nat} {s t u : State}

theorem refl (n : Nat) (s : State) : SameStage n s s := ⟨rfl, rfl, rfl, rfl, rfl, rfl, rfl⟩

theorem trans (h : SameStage n s t) (k : SameStage n t u) : SameStage n s u :=
  ⟨k.parts.trans h.parts, k.mem.trans h.mem, k.lanes.trans h.lanes, k.det.trans h.det, k.live.trans h.live,
    k.mode.trans h.mode, k.split.trans h.split⟩

theorem updCore (n : Nat) (s : State) {f : CoreState → CoreState} (live : (f (s.core n)).live = (s.core n).live)
    (mode : (f (s.core n)).mode = (s.core n).mode) (split : (f (s.core n)).splitAt = (s.core n).splitAt) :
    SameStage n s (s.updCore n f) :=
  ⟨rfl, rfl, rfl, rfl, by rw [State.core_updCore_self, live], by rw [State.core_updCore_self, mode],
    by rw [State.core_updCore_self, split]⟩

variable (h : SameStage n s t)
include h

theorem rdN (a k : Nat) : t.rdN a k = s.rdN a k := congrArg leNat (rd_of_mem h.mem a k)

theorem issues : t.issues n = s.issues n := by
  simp only [State.issues, h.mode, partOfCore_of_parts h.parts, part_of_parts h.parts]

theorem genBusy : t.genBusy n = s.genBusy n := by
  simp only [State.genBusy, h.live, h.split, h.rdN, h.issues, tickOf_of_parts h.parts]

theorem entryField (id : IdReg) (first e : Nat) : t.entryField n id first e = s.entryField n id first e := by
  simp only [State.entryField, h.det, h.genBusy, State.seedOf, partOfCore_of_parts h.parts, part_of_parts h.parts, outputBlock,
    h.live, State.sweepOf, State.laneOut, h.lanes]

theorem argument (d : CloseDue) (first e : Nat) : t.argument n d first e = s.argument n d first e := by
  simp only [State.argument, State.noiseOf, h.entryField, partOfCore_of_parts h.parts, part_of_parts h.parts]

theorem closeBytes (d : CloseDue) (first e : Nat) : t.closeBytes n d first e = s.closeBytes n d first e := by
  simp only [State.closeBytes, h.argument, h.entryField, State.transfer, State.tableEntry, h.rdN]

end SameStage

/-! ## The count of a replay level (R114) -/

theorem prtAccstat_ne_arrMode (q : Nat) : Reg.arrMode ≠ Reg.prtAccstat q := by
  rw [Reg.prtAccstat, Reg.arrMode]
  omega

theorem frame_countReplay {s : State} {n l q : Nat} (own : s.partOfCore n = some q) :
    Frame [.regs] [Reg.prtAccstat q] s (s.countReplay n l) := by
  rw [State.countReplay, own]
  exact .ite (frame_count ..) (.ite (frame_count ..) (.refl ..))

theorem touches_countReplay (s : State) (n l : Nat) : OnlyTouches [.regs] s (s.countReplay n l) :=
  (within_countReplay s n l).touches

theorem rf_countReplay {s : State} {n l q : Nat} (own : s.partOfCore n = some q) :
    (s.countReplay n l).rf (Reg.prtAccstat q) 23 0 =
      (if l = 1 then satAdd (2 ^ 24 - 1) (s.rf (Reg.prtAccstat q) 23 0) 1 else s.rf (Reg.prtAccstat q) 23 0) ∧
    (s.countReplay n l).rf (Reg.prtAccstat q) 47 24 =
      (if l = 2 then satAdd (2 ^ 24 - 1) (s.rf (Reg.prtAccstat q) 47 24) 1 else s.rf (Reg.prtAccstat q) 47 24) := by
  rw [State.countReplay, own]
  dsimp only
  split
  next one =>
    rw [rf_count_self _ _ _ (by decide) (by decide), rf_count_apart _ _ _ (by decide) (by decide) (by decide), one]
    exact ⟨rfl, rfl⟩
  next =>
    split
    next two =>
      rw [rf_count_self _ _ _ (by decide) (by decide), rf_count_apart _ _ _ (by decide) (by decide) (by decide)]
      exact ⟨rfl, rfl⟩
    next => exact ⟨rfl, rfl⟩

/-- The state that a batch's CLOSE counts its level in: its first batch alone counts. -/
def State.levelCounted (s : State) (n l : Nat) (d : CloseDue) : State := if d.done = 0 then s.countReplay n l else s

theorem touches_levelCounted (s : State) (n l : Nat) (d : CloseDue) : OnlyTouches [.regs] s (s.levelCounted n l d) :=
  .ite (touches_countReplay s n l) (.refl _ _)

theorem frame_levelCounted {s : State} {n l q : Nat} (own : s.partOfCore n = some q) (d : CloseDue) :
    Frame [.regs] [Reg.prtAccstat q] s (s.levelCounted n l d) :=
  .ite (frame_countReplay own) (.refl _ _ _)

theorem rf_levelCounted {s : State} {n l q : Nat} (own : s.partOfCore n = some q) (d : CloseDue) :
    (s.levelCounted n l d).rf (Reg.prtAccstat q) 23 0 =
      (if d.done = 0 ∧ l = 1 then satAdd (2 ^ 24 - 1) (s.rf (Reg.prtAccstat q) 23 0) 1 else s.rf (Reg.prtAccstat q) 23 0) ∧
    (s.levelCounted n l d).rf (Reg.prtAccstat q) 47 24 =
      (if d.done = 0 ∧ l = 2 then satAdd (2 ^ 24 - 1) (s.rf (Reg.prtAccstat q) 47 24) 1
        else s.rf (Reg.prtAccstat q) 47 24) := by
  unfold State.levelCounted
  split
  next first => simpa [first] using rf_countReplay own
  next later => simp [later]

theorem sameStage_levelCounted (s : State) (n l : Nat) (d : CloseDue) : SameStage n s (s.levelCounted n l d) := by
  have all := touches_levelCounted s n l d
  have cores := core_through all n
  refine ⟨all .parts (by decide), all .mem (by decide), all .lanes (by decide), ?_, by rw [cores], by rw [cores], by rw [cores]⟩
  unfold State.levelCounted
  split
  next =>
    cases own : s.partOfCore n with
    | none => rw [State.countReplay, own]
    | some q =>
      rw [State.det, (frame_countReplay own).rf (by simpa using prtAccstat_ne_arrMode q)]
      rfl
  next => rfl

/-! ## CLOSE and its batches (R100, R104, R113 to R116) -/

/-- The CLOSEs that wait after a batch of one of them. -/
def CoreState.closesAfter (k : CoreState) (d : CloseDue) : List CloseDue :=
  if 64 * (d.done + 1) < d.entries.length then { d with done := d.done + 1 } :: k.closes.erase d else k.closes.erase d

section
variable {c : CoreId} {s : State} {d : CloseDue}
  (due : (s.core c).closes.find? (fun d => d.at_ + 4 + d.done ≤ s.tickOf c) = some d)
include due

theorem exec_closeBatch {l : Nat} (level : d.level = some l) {u : State}
    (eu : u = (s.levelCounted c l d).updCore c (fun k => { k with closes := (s.core c).closesAfter d })) :
    exec (.closeBatch c) s = .next (if d.toMem then u.batchToMem c d else u.batchToLanes c d) := by
  subst eu
  rw [show exec (.closeBatch c) s = execCloseBatch c s from rfl, execCloseBatch, due]
  simp only [level]
  rfl

theorem exec_closeBatch_overflow (level : d.level = none) : exec (.closeBatch c) s =
    .next ((s.updCore c (fun k => { k with closes := (s.core c).closes.erase d })).stopWith c 0x21) := by
  rw [show exec (.closeBatch c) s = execCloseBatch c s from rfl, execCloseBatch, due]
  simp only [level]

end

theorem batchToLanes_eq (u : State) (n : Nat) (d : CloseDue) (args : List U32) (count : Nat)
    (en : count = min 64 (d.entries.length - 64 * d.done))
    (ea : args = (List.range count).map (fun i => b32 (u.argument n d (64 * d.done) (64 * d.done + i))) ++
      List.replicate (64 - count) 0) :
    u.batchToLanes n d = u.updCore n (fun k => { k with
      live := { k.live with args := args, argCursor := 0 }, next := { k.next with args := args, argCursor := 0 } }) := by
  subst en ea
  simp only [State.batchToLanes, State.setLive, List.length_map, List.length_range]

/-- A table whose entries carry no error mark is read as it stands. -/
theorem tableRead_clean {s : State} {n slot : Nat} {l : List Nat} (f : State → State)
    (clean : ∀ j ∈ l, ∀ e, e = (tablePair j).1 ∨ e = (tablePair j).2 → s.cleanAt (tableAt n slot e) 2) :
    s.tableRead n slot l f = f s := by
  have marks : ∀ g ∈ ((l.flatMap (fun j => [(tablePair j).1, (tablePair j).2])).map (fun i => tableAt n slot i / 8)).eraseDups,
      Table.look (fun _ => 0) s.sramErr g = 0 := by
    intro g hg
    obtain ⟨e, he, rfl⟩ := List.mem_map.mp (List.mem_eraseDups.mp hg)
    obtain ⟨j, hj, pair⟩ := List.mem_flatMap.mp he
    refine clean j hj e (by simpa using pair) _ ?_
    rw [granules, if_neg (by decide)]
    exact List.mem_map.mpr ⟨0, List.mem_range.mpr (Nat.succ_pos _), Nat.add_zero _⟩
  have ue (gs : List Nat) (good : ∀ g ∈ gs, Table.look (fun _ => 0) s.sramErr g = 0) :
      gs.find? (fun g => Table.look (fun _ => 0) s.sramErr g == 2) = none :=
    List.find?_eq_none.mpr fun g hg => by simp [good g hg]
  have ce (gs : List Nat) (good : ∀ g ∈ gs, Table.look (fun _ => 0) s.sramErr g = 0) :
      gs.filter (fun g => Table.look (fun _ => 0) s.sramErr g == 1) = [] :=
    List.filter_eq_nil_iff.mpr fun g hg => by simp [good g hg]
  rw [State.tableRead]
  simp only [ue _ marks, ce _ marks, reportCe_nil]

theorem batchToMem_eq {u : State} {n : Nat} {d : CloseDue} {count : Nat} (free : (u.core n).fePort = false)
    (en : count = min 64 (d.entries.length - 64 * d.done))
    (clean : 2 ≤ d.memType → ∀ i, i < count → ∀ e,
      e = (tablePair (tablePos (u.argument n d (64 * d.done) (64 * d.done + i)))).1 ∨
        e = (tablePair (tablePos (u.argument n d (64 * d.done) (64 * d.done + i)))).2 → u.cleanAt (tableAt n d.table e) 2) :
    u.batchToMem n d = u.updCore n (fun k => { k with
      fePort := true
      eventWrites := k.eventWrites ++ [(tileAt n d.addr + 64 * d.done * elemBytes d.memType,
        (List.range count).flatMap (fun i => u.closeBytes n d (64 * d.done) (64 * d.done + i)))] }) := by
  subst en
  have claimed : SameStage n u (u.updCore n (fun k => { k with fePort := true })) := .updCore n u rfl rfl rfl
  rw [State.batchToMem, withFe_free _ _ _ free]
  simp only [claimed.argument]
  rw [ite_eq_right_iff.mpr fun table => tableRead_clean _ ?_]
  · simp only [State.updCore_updCore, claimed.closeBytes]
  · intro j hj e he
    obtain ⟨i, hi, rfl⟩ := List.mem_map.mp hj
    exact cleanAt_updCore (clean table i (List.mem_range.mp hi) e he)

/-- A stop with its report after the core has changed in what a stop's address does not show. -/
theorem coreStops_stopWith_updCore {s : State} {c : Nat} {f : CoreState → CoreState} (kind : Nat)
    (mode : (f (s.core c)).mode ≠ .faulted) (pc : (f (s.core c)).faultPc = (s.core c).faultPc) {k : CoreState}
    (ek : f (s.core c) = k) :
    CoreStops c kind k (some (s.stopAddr c)) s ((s.updCore c f).stopWith c kind) := by
  subst ek
  have core := State.core_updCore_self s c f
  have addr : (s.updCore c f).stopAddr c = s.stopAddr c := by rw [State.stopAddr, core, pc, tickOf_updCore, State.stopAddr]
  have stopped : CoreStops c kind (f (s.core c)) none s ((s.updCore c f).haltOn c kind) :=
    coreStops_haltOn (keepsCores_updCore s c f) (touches_updCore s c f) (by rw [core]) (by rw [core]) (by rwa [core])
  rw [State.stopWith, addr, coreTag_of_parts (s := s) (t := s.updCore c f) rfl]
  exact stopped.report _

/-- What CLOSE notes of itself for the output stage. -/
theorem coreEffect_close {c : CoreId} {w : U32} {s : State} {x : Group} (on : s.issues c = true) (reserved : fld w 8 0 = 0)
    (apart : ∀ d ∈ (s.core c).closes, d.at_ + 4 + ceilDiv d.entries.length 64 ≤ s.tickOf c + 4)
    (ex : (s.core c).group (fld w 27 25) = x) (opened : x.isOpen = true) (ready : x.readyAt ≤ s.tickOf c)
    (inside : bit w 20 = true → tileOk ((s.core c).ptrAt (fld w 19 16)) (8 * x.rows * elemBytes (fld w 14 13) / 8) = true)
    {due : CloseDue} (ed : due =
      { at_ := s.tickOf c, group := fld w 27 25, isFloat := x.isFloat, point := x.point, range := x.range
        entries := (List.range (8 * x.rows)).map (fun i => s.entry c (8 * x.firstRow + i))
        scale := BitVec.ofNat 32 (fld (s.reg (Reg.coreOutprof c (fld w 24 23))) 31 0)
        offset := BitVec.ofNat 32 (fld (s.reg (Reg.coreOutprof c (fld w 24 23))) 63 32)
        id := (s.core c).idAt (fld w 11 9), toMem := bit w 20, memType := fld w 14 13, stoch := bit w 12
        table := fld w 22 21, addr := ((s.core c).ptrAt (fld w 19 16)).toNat }) :
    CoreEffect (.close c w) s c (fun k => ({ k with
      closes := k.closes ++ [due]
      releases := k.releases ++ [(s.tickOf c + 4 + ceilDiv (8 * x.rows) 64 - 1, fld w 27 25)] }).advance
      (s.reg (Reg.corePtr c (fld w 19 16))) (fld w 19 16) (bit w 20 && bit w 15)) := by
  subst ex ed
  have legal : s.closeLegal c w = true := by
    have apart' : (s.core c).closes.all (fun d => d.at_ + 4 + ceilDiv d.entries.length 64 ≤ s.tickOf c + 4) = true := by
      simpa using apart
    cases mem : bit w 20 with
    | false => simp [State.closeLegal, reserved, apart', mem]
    | true => simp [State.closeLegal, reserved, apart', mem, inside mem]
  have settled : ((s.core c).group (fld w 27 25)).settled (s.tickOf c) = true := by simp [Group.settled, opened, ready]
  refine coreEffect_of_run (o := execClose c w s) rfl ?_
  rw [execClose, fieldOp_free on legal settled, advance_updCore]

/-- Settles O11: CLOSE notes its dues, and a batch is delivered to the lanes or to tile memory, or overflows. -/
theorem closeDeliversBatches : Obligations.CloseDeliversBatches := by
  refine ⟨fun c w s x on reserved apart ex opened ready inside => coreEffect_close on reserved apart ex opened ready inside rfl,
    fun c s d n rest due en er => ⟨fun l level => ⟨fun lanes => ?lanes, fun mem free clean => ?mem⟩,
      fun level mode => ?overflow⟩⟩
  case lanes =>
    have counted := touches_levelCounted s c l d
    have view : SameStage c s ((s.levelCounted c l d).updCore c (fun k => { k with closes := (s.core c).closesAfter d })) :=
      (sameStage_levelCounted s c l d).trans (.updCore _ _ rfl rfl rfl)
    refine ⟨_, by rw [exec_closeBatch due level rfl, lanes, if_neg (by decide), batchToLanes_eq _ _ _ _ n en rfl,
      State.updCore_updCore], fun args ea => ?_, fun q own => ?_, ?_, ?_⟩
    · simp only [view.argument, ← ea]
      rw [State.core_updCore_self, core_through counted, er]
      rfl
    · obtain ⟨one, two⟩ := rf_levelCounted own d (l := l)
      exact ⟨one, two, (frame_levelCounted own d).regs⟩
    · exact ((KeepsCores.refl [c.val] s).through counted).trans (keepsCores_updCore _ c _)
    · exact (counted.mono (by simp)).trans ((touches_updCore _ c _).mono (by simp))
  case mem =>
    have counted := touches_levelCounted s c l d
    have marks : (s.levelCounted c l d).sramErr = s.sramErr := counted .sramErr (by decide)
    have view : SameStage c s ((s.levelCounted c l d).updCore c (fun k => { k with closes := (s.core c).closesAfter d })) :=
      (sameStage_levelCounted s c l d).trans (.updCore _ _ rfl rfl rfl)
    refine ⟨_, by
      rw [exec_closeBatch due level rfl, mem, if_pos rfl, batchToMem_eq ?free en ?clean, State.updCore_updCore]
      case free => rw [State.core_updCore_self, core_through counted]; exact free
      case clean =>
        intro table i hi e he g hg
        simp only [view.argument] at he
        exact (congrArg (fun m => Table.look (fun _ => 0) m g) marks).trans (clean table i hi e he g hg), ?_, ?_,
      fun q own => ?_, ?_⟩
    · simp only [view.closeBytes]
      rw [State.core_updCore_self, core_through counted, er]
      rfl
    · exact ((KeepsCores.refl [c.val] s).through counted).trans (keepsCores_updCore _ c _)
    · exact (frame_levelCounted own d).regs
    · exact (counted.mono (by simp)).trans ((touches_updCore _ c _).mono (by simp))
  case overflow =>
    exact ⟨_, exec_closeBatch_overflow due level, coreStops_stopWith_updCore 0x21 mode rfl rfl⟩

end Sys2Proof.Machine
end

section
/-! PROOFS. RED: its four forms. -/

namespace Sys2Proof.Machine

open Sys2Proof

-- One theorem after another: many at once would need too many threads.
set_option Elab.async false

/-! ## Parts of a run of bytes -/

theorem drop_span {α : Type} (d : Nat → α) (m : Table α) (k n off : Nat) :
    (Table.span d m k n).drop off = Table.span d m (k + off) (n - off) := by
  induction off generalizing k n with
  | zero => rfl
  | succ off ih =>
    cases n with
    | zero => simp [Table.span]
    | succ n =>
      rw [Table.span, List.drop_succ_cons, ih, Nat.add_sub_add_right, Nat.add_right_comm, Nat.add_assoc]

theorem take_span {α : Type} (d : Nat → α) (m : Table α) (k n len : Nat) :
    (Table.span d m k n).take len = Table.span d m k (min len n) := by
  induction n generalizing k len with
  | zero => simp [Table.span]
  | succ n ih =>
    cases len with
    | zero => simp [Table.span]
    | succ len => rw [Table.span, List.take_succ_cons, ih, Nat.succ_min_succ, Table.span]

/-- A part of what a read returned is the read of that part. -/
theorem slice_rd (s : State) {a n off len : Nat} (h : off + len ≤ n) : slice (s.rd a n) off len = s.rd (a + off) len := by
  rw [State.rd, slice, drop_span, take_span, Nat.min_eq_left (by omega), State.rd]

/-! ## Entries after their rewriting -/

/-- Each entry of a run takes the value of its own function. -/
theorem entry_mapEntries_at (s : State) (n e : Nat) {fs : List (BitVec 72 → BitVec 72)} {i : Nat} {f : BitVec 72 → BitVec 72}
    (at_ : fs[i]? = some f) : (s.mapEntries n e fs).entry n (e + i) = f (s.entry n (e + i)) := by
  rw [entry_mapEntries, if_pos (Nat.le_add_right e i), Nat.add_sub_cancel_left, at_]

theorem entry_of_mem {s t : State} (mem : t.mem = s.mem) (carry : t.carry = s.carry) (n e : Nat) : t.entry n e = s.entry n e := by
  simp only [State.entry, State.rdN, rd_of_mem mem, carry]

theorem entry_updCore (s : State) (m : Nat) (f : CoreState → CoreState) (n e : Nat) : (s.updCore m f).entry n e = s.entry n e :=
  entry_of_mem rfl rfl n e

/-! ## A tick of a tree add (R119, R121) -/

/-- The contributions of the records that a tick of a tree add reads. -/
def State.contributions (s : State) (n : Nat) (isFloat : Bool) (tile count : Nat) : List (BitVec 72 → BitVec 72) :=
  (List.range count).map (fun i => asContribution isFloat (ofRecord (s.rd (tileAt n (tile + 2 * i)) 16)))

theorem length_contributions (s : State) (n : Nat) (isFloat : Bool) (tile count : Nat) :
    (s.contributions n isFloat tile count).length = count := by
  rw [State.contributions, List.length_map, List.length_range]

theorem contributions_at (s : State) (n : Nat) (isFloat : Bool) (tile : Nat) {count i : Nat} (h : i < count) :
    (s.contributions n isFloat tile count)[i]? =
      some (asContribution isFloat (ofRecord (s.rd (tileAt n (tile + 2 * i)) 16))) := by
  simp [State.contributions, List.getElem?_map, List.getElem?_range h]

theorem addTick_eq {s : State} {n : Nat} {d : AddDue} {x : Group} (free : (s.core n).fePort = false)
    (clean : s.cleanAt (tileAt n d.tile) (16 * d.count)) (ex : (s.core n).group d.group = x) :
    s.addTick n d = (s.updCore n (fun k => { k with fePort := true })).mapEntries n (8 * x.firstRow + d.entry)
      (s.contributions n x.isFloat d.tile d.count) := by
  have length : 8 * (2 * d.count) = 16 * d.count := by omega
  have read : (s.updCore n (fun k => { k with fePort := true })).tileRead n d.tile (2 * d.count) =
      (some (s.rd (tileAt n d.tile) (16 * d.count)), s.updCore n (fun k => { k with fePort := true })) := by
    rw [tileRead_clean (by rw [length]; exact cleanAt_updCore clean), length, rd_updCore]
  have group : ((s.updCore n (fun k => { k with fePort := true })).core n).group d.group = x := by
    rw [State.core_updCore_self]
    exact ex
  have records : (List.range d.count).map (fun i =>
      asContribution x.isFloat (ofRecord (slice (s.rd (tileAt n d.tile) (16 * d.count)) (16 * i) 16))) =
      s.contributions n x.isFloat d.tile d.count := by
    refine List.map_congr_left fun i hi => ?_
    have inside := List.mem_range.mp hi
    rw [slice_rd s (by omega), show tileAt n d.tile + 16 * i = tileAt n (d.tile + 2 * i) by simp only [tileAt]; omega]
  rw [State.addTick, withFe_free _ _ _ free, read]
  simp only [group, records]

/-! ## RED (R119 to R122) -/

theorem sum_range_bitVec (f : Nat → BitVec 72) (k : Nat) :
    (List.range k).foldl (fun a i => a + f (1 + i)) (f 0) = ((List.range (k + 1)).map f).sum := by
  induction k with
  | zero => simp
  | succ k ih =>
    rw [List.range_succ, List.foldl_append, ih, List.range_succ (n := k + 1), List.map_append, List.sum_append,
      Nat.add_comm k 1]
    simp

theorem holds_of_le {x : Group} {n : Nat} (h : n ≤ 8 * x.rows) : x.holds n = true := by
  simp [Group.holds, h]

section
variable {c : CoreId} {w : U32} {s : State} {x : Group} {g n : Nat} (on : s.issues c = true) (reserved : fld w 7 0 = 0)
  (en : n = fld w 15 8 + 1) (ex : (s.core c).group (fld w 27 25) = x) (opened : x.isOpen = true)
  (ready : x.readyAt ≤ s.tickOf c) (few : n ≤ 8 * x.rows)
include on reserved en ex opened ready few

theorem coreEffect_treeSend {ws : List LinkWord}
    (ews : ws = treeWords ((List.range n).map (fun i => toRecord x.isFloat (s.entry c (8 * x.firstRow + i)))))
    (idle : (s.core c).treeUntil ≤ s.tickOf c) (out : (s.core c).outbox = []) :
    CoreEffect (.redTreeSend c w) s c (fun k => { k with
      outbox := (ws.take 1).map (fun y => (Dir.ofCode (fld w 22 21), y))
      trees := k.trees ++ (ws.drop 1).zipIdx.map (fun e => ⟨s.tickOf c + 1 + e.2, Dir.ofCode (fld w 22 21), e.1⟩)
      treeUntil := s.tickOf c + ceilDiv n 4
      releases := k.releases ++ [(s.tickOf c + ceilDiv n 4 - 1, fld w 27 25)] }) := by
  subst en ex ews
  have legal : s.red1Legal c w = true := by simp [State.red1Legal, reserved, idle, out, holds_of_le few]
  have settled : ((s.core c).group (fld w 27 25)).settled (s.tickOf c) = true := by simp [Group.settled, opened, ready]
  refine coreEffect_of_run (o := execRedTreeSend c w s) rfl ?_
  rw [execRedTreeSend, fieldOp_free on legal settled]
  exact congrArg Host.Outcome.next (updCore_congr (by rw [out]; rfl))

theorem coreEffect_canon (engine : (s.core c).engineFree ≤ s.tickOf c) (port : (s.core c).fePort = false)
    (ptr : (s.core c).ptrAt (fld w 20 17) = (g : Int)) (inside : g + 2 ≤ 15360) (clean : s.cleanAt (tileAt c g) 16)
    {r : FVal × FVal} (er : r = (List.range n).foldl (fun a i =>
        neumaier fp64 a.1 a.2 (entryF64 x.isFloat x.point (s.entry c (8 * x.firstRow + i))))
      (decodeF fp64 (s.rdN (tileAt c g) 8), decodeF fp64 (s.rdN (tileAt c g + 8) 8))) :
    CoreEffect (.redCanon c w) s c (fun k => ({ k with
      fePort := true
      engineFree := s.tickOf c + n
      canon := k.canon ++
        [(⟨s.tickOf c + n + 1, g, leBytes 8 (encodeF fp64 r.1) ++ leBytes 8 (encodeF fp64 r.2)⟩ : CanonDue)]
      releases := k.releases ++ [(s.tickOf c + n - 1, fld w 27 25)] }).advance
      (s.reg (Reg.corePtr c (fld w 20 17))) (fld w 20 17) (bit w 16)) := by
  subst en ex er
  have tile : tileOk (g : Int) 2 = true := by
    simp [tileOk]
    omega
  have legal : s.redReadLegal c w 2 = true := by simp [State.redReadLegal, reserved, engine, port, ptr, tile, holds_of_le few]
  have settled : ((s.core c).group (fld w 27 25)).settled (s.tickOf c) = true := by simp [Group.settled, opened, ready]
  have first : leAt (s.rd (tileAt c g) (8 * 2)) 0 8 = s.rdN (tileAt c g) 8 := by rw [leAt, slice_rd s (by omega)]; rfl
  have second : leAt (s.rd (tileAt c g) (8 * 2)) 8 8 = s.rdN (tileAt c g + 8) 8 := by rw [leAt, slice_rd s (by omega)]; rfl
  refine coreEffect_of_run (o := execRedCanon c w s) rfl ?_
  rw [execRedCanon, fieldOp_free on legal settled, withFe_free _ _ _ port, ptr, tileRead_clean (cleanAt_updCore clean)]
  simp only [rd_updCore, first, second, entry_updCore, State.updCore_updCore, advance_updCore]
  exact congrArg Host.Outcome.next (updCore_congr (by simp only [ptrAt_fePort, ptr, Int.toNat_natCast]))

/-- The dues of a tree add after its first tick. -/
def addDues (t group tile n : Nat) : List AddDue :=
  (List.range (ceilDiv n 8 - 1)).map (fun i => ⟨t + (i + 1), group, tile + 16 * (i + 1), 8 * (i + 1), min 8 (n - 8 * (i + 1))⟩)

omit on reserved ex opened ready few in
theorem addDues_eq (t group tile : Nat) : (List.range (ceilDiv n 8)).map (fun i =>
    (⟨t + i, group, tile + 16 * i, 8 * i, min 8 (n - 8 * i)⟩ : AddDue)) =
      ⟨t, group, tile, 0, min 8 n⟩ :: addDues t group tile n := by
  have pos : ceilDiv n 8 = ceilDiv n 8 - 1 + 1 := by
    subst en
    simp only [ceilDiv]
    omega
  rw [pos, List.range_succ_eq_map, List.map_cons, List.map_map, addDues]
  rfl

/-- A core that adds a tree's records, as its add begins. -/
def CoreState.addingTree (k : CoreState) (t group tile n : Nat) (x : Group) : CoreState :=
  { k.setGroup group { x with readyAt := max x.readyAt (t + 3 + ceilDiv n 8) } with
    engineFree := t + ceilDiv n 8, adds := k.adds ++ addDues t group tile n }

theorem exec_treeAdd (engine : (s.core c).engineFree ≤ s.tickOf c) (port : (s.core c).fePort = false)
    (ptr : (s.core c).ptrAt (fld w 20 17) = (g : Int)) (inside : g + 2 * n ≤ 15360) {u : State}
    (eu : u = (s.updCore c (fun k => k.addingTree (s.tickOf c) (fld w 27 25) g n x)).advance c (fld w 20 17) (bit w 16)) :
    exec (.redTreeAdd c w) s = .next (u.addTick c ⟨s.tickOf c, fld w 27 25, g, 0, min 8 n⟩) := by
  have dues := addDues_eq en (s.tickOf c) (fld w 27 25) g
  subst en ex eu
  have tile : tileOk (g : Int) (2 * (fld w 15 8 + 1)) = true := by
    simp [tileOk]
    omega
  have legal : s.redReadLegal c w (2 * (fld w 15 8 + 1)) = true := by
    simp [State.redReadLegal, reserved, engine, port, ptr, tile, holds_of_le few]
  have settled : ((s.core c).group (fld w 27 25)).settled (s.tickOf c) = true := by simp [Group.settled, opened, ready]
  rw [show exec (.redTreeAdd c w) s = execRedTreeAdd c w s from rfl, execRedTreeAdd, fieldOp_free on legal settled, ptr,
    Int.toNat_natCast]
  simp only [dues, List.drop_succ_cons, List.drop_zero]
  rfl

omit en in
theorem exec_redLocal (engine : (s.core c).engineFree ≤ s.tickOf c) {total : BitVec 72} (few : fld w 15 8 + 1 ≤ 8 * x.rows)
    (et : total = (List.range (fld w 15 8)).foldl (fun a i => asContribution x.isFloat (s.entry c (8 * x.firstRow + 1 + i)) a)
      (s.entry c (8 * x.firstRow))) :
    exec (.redLocalExact c w) s = .next ((s.updCore c (fun k =>
      { k.setGroup (fld w 27 25) { x with readyAt := max x.readyAt (s.tickOf c + 3 + ceilDiv (fld w 15 8 + 1) 8) } with
        engineFree := s.tickOf c + ceilDiv (fld w 15 8 + 1) 8 })).mapEntries c (8 * x.firstRow)
      ((fun _ => total) :: List.replicate (fld w 15 8) (fun _ => 0))) := by
  subst ex et
  have legal : s.red0Legal c w = true := by simp [State.red0Legal, reserved, engine, holds_of_le few]
  have settled : ((s.core c).group (fld w 27 25)).settled (s.tickOf c) = true := by simp [Group.settled, opened, ready]
  rw [show exec (.redLocalExact c w) s = execRedLocalExact c w s from rfl, execRedLocalExact, fieldOp_free on legal settled]
  rfl

end

/-- Settles O12: the forms of RED, one at a time. -/
theorem reductionsFoldAndSend : Obligations.ReductionsFoldAndSend := by
  refine ⟨fun c w s x g n on reserved en ex opened ready few => ⟨fun idle out =>
      coreEffect_treeSend on reserved en ex opened ready few rfl idle out,
    fun engine port ptr inside clean => ?add,
    fun engine port ptr inside clean =>
      coreEffect_canon on reserved en ex opened ready few engine port ptr inside clean rfl⟩,
    fun s n d port => ?canonTick, fun s n d port clean i hi => ?addTick,
    fun c w s x on reserved engine ex opened ready few => ?fold⟩
  case add =>
    obtain ⟨u, eu⟩ : ∃ u, u = (s.updCore c (fun k => k.addingTree (s.tickOf c) (fld w 27 25) g n x)).advance c (fld w 20 17)
      (bit w 16) := ⟨_, rfl⟩
    have run := exec_treeAdd on reserved en ex opened ready few engine port ptr inside eu
    rw [advance_updCore] at eu
    have ucore : u.core c = ((s.core c).addingTree (s.tickOf c) (fld w 27 25) g n x).advance
        (s.reg (Reg.corePtr c (fld w 20 17))) (fld w 20 17) (bit w 16) := by rw [eu, State.core_updCore_self]
    have changed : OnlyTouches [.cores] s u := eu ▸ touches_updCore s c _
    have others : KeepsCores [c.val] s u := eu ▸ keepsCores_updCore s c _
    have free : (u.core c).fePort = false := by
      rw [ucore]
      cases bit w 16 <;> exact port
    have group : (u.core c).group (fld w 27 25) = { x with readyAt := max x.readyAt (s.tickOf c + 3 + ceilDiv n 8) } := by
      have self := Table.look_put_self (fun _ => ({} : Group)) (s.core c).groups (fld w 27 25)
        { x with readyAt := max x.readyAt (s.tickOf c + 3 + ceilDiv n 8) }
      rw [ucore]
      cases bit w 16 <;> exact self
    have marks : u.cleanAt (tileAt c g) (16 * min 8 n) := fun a ha => by rw [changed .sramErr (by decide)]; exact clean a ha
    have tick : u.addTick c ⟨s.tickOf c, fld w 27 25, g, 0, min 8 n⟩ =
        (u.updCore c (fun k => { k with fePort := true })).mapEntries c (8 * x.firstRow)
          (u.contributions c x.isFloat g (min 8 n)) :=
      addTick_eq (x := { x with readyAt := max x.readyAt (s.tickOf c + 3 + ceilDiv n 8) }) free marks group
    have added := touches_mapEntries (u.updCore c (fun k => { k with fePort := true })) c (8 * x.firstRow)
      (u.contributions c x.isFloat g (min 8 n))
    have bytes := keepsBytes_mapEntries (u.updCore c (fun k => { k with fePort := true })) c (8 * x.firstRow)
      (u.contributions c x.isFloat g (min 8 n))
    rw [length_contributions] at bytes
    refine ⟨_, run.trans (congrArg _ tick), ?_, fun i hi => ?_, ?_, ?_, ?_⟩
    · rw [core_through added, State.core_updCore_self, ucore]
      cases bit w 16 <;> rfl
    · rw [entry_mapEntries_at _ _ _ (contributions_at _ _ _ _ hi),
        entry_updCore, entry_of_mem (changed .mem (by decide)) (changed .carry (by decide)), rd_of_mem (changed .mem (by decide))]
    · exact (others.trans (keepsCores_updCore u c _)).through added
    · intro k hk
      refine (bytes k hk).trans ?_
      exact congrArg (fun m => Table.look zeroByte m k) (changed .mem (by decide))
    · exact ((changed.trans (touches_updCore u c _)).mono (by simp)).trans (added.mono (by simp))
  case canonTick =>
    rw [State.canonTick, withFe_free _ _ _ port, State.updCore_updCore]
  case addTick =>
    rw [addTick_eq port clean rfl, entry_mapEntries_at _ _ _ (contributions_at _ _ _ _ hi), entry_updCore]
  case fold =>
    obtain ⟨total, et⟩ : ∃ total, total = (List.range (fld w 15 8)).foldl (fun a i =>
      asContribution x.isFloat (s.entry c (8 * x.firstRow + 1 + i)) a) (s.entry c (8 * x.firstRow)) := ⟨_, rfl⟩
    obtain ⟨u, eu⟩ : ∃ u, u = s.updCore c (fun k =>
      { k.setGroup (fld w 27 25) { x with readyAt := max x.readyAt (s.tickOf c + 3 + ceilDiv (fld w 15 8 + 1) 8) } with
        engineFree := s.tickOf c + ceilDiv (fld w 15 8 + 1) 8 }) := ⟨_, rfl⟩
    have run := exec_redLocal on reserved ex opened ready few engine few et
    rw [← eu] at run
    have added := touches_mapEntries u c (8 * x.firstRow) ((fun _ => total) :: List.replicate (fld w 15 8) (fun _ => 0))
    have bytes := keepsBytes_mapEntries u c (8 * x.firstRow) ((fun _ => total) :: List.replicate (fld w 15 8) (fun _ => 0))
    rw [List.length_cons, List.length_replicate] at bytes
    have zeroth : (u.mapEntries c (8 * x.firstRow) ((fun _ => total) :: List.replicate (fld w 15 8) (fun _ => 0))).entry c
        (8 * x.firstRow) = total := entry_mapEntries_at (f := fun _ => total) (i := 0) u c (8 * x.firstRow) rfl
    refine ⟨_, run, fun exact_ => ?_, fun float => ?_, fun i pos hi => ?_, ?_, ?_, ?_, ?_⟩
    · rw [zeroth, et, exact_, ← sum_range_bitVec]
      simp only [asContribution, Nat.add_assoc]
      rfl
    · rw [zeroth, et, float]
      rfl
    · obtain ⟨j, rfl⟩ : ∃ j, i = j + 1 := ⟨i - 1, by omega⟩
      refine (entry_mapEntries_at (f := fun _ => 0) u c (8 * x.firstRow) ?_).trans rfl
      rw [List.getElem?_cons_succ, List.getElem?_replicate, if_pos (by omega)]
    · rw [core_through added, eu, State.core_updCore_self]
    · exact (eu ▸ keepsCores_updCore s c _ : KeepsCores [c.val] s u).through added
    · intro k hk
      refine (bytes k hk).trans ?_
      rw [eu]
      rfl
    · exact ((eu ▸ touches_updCore s c _ : OnlyTouches [.cores] s u).mono (by simp)).trans (added.mono (by simp))

end Sys2Proof.Machine
end

section
/-! PROOFS. Barrier releases and the end of a run. -/

namespace Sys2Proof.Machine

open Sys2Proof

-- One theorem after another: many at once would need too many threads.
set_option Elab.async false

/-! ## One change of several cores -/

/-- The cores of a list each changed by a function that changes nothing the second time. -/
theorem core_foldl_updCore {f : Nat → CoreState → CoreState} (again : ∀ n k, f n (f n k) = f n k) (l : List Nat) (s : State)
    (n : Nat) : (l.foldl (fun t m => t.updCore m (f m)) s).core n = if n ∈ l then f n (s.core n) else s.core n := by
  induction l generalizing s with
  | nil => rfl
  | cons m l ih =>
    rw [List.foldl_cons, ih]
    by_cases own : n = m
    · subst own
      rw [State.core_updCore_self, again, ite_self, if_pos List.mem_cons_self]
    · simp only [State.core_updCore_other _ _ own, List.mem_cons, own, false_or]

theorem touches_foldl_updCore (f : Nat → CoreState → CoreState) (l : List Nat) (s : State) :
    OnlyTouches [.cores] s (l.foldl (fun t m => t.updCore m (f m)) s) :=
  .foldl (fun t m => touches_updCore t m (f m)) l s

theorem CoreState.goOn_goOn (k : CoreState) : k.goOn.goOn = k.goOn := by
  obtain ⟨mode⟩ := k
  cases mode <;> rfl

theorem CoreState.loadedAgain_loadedAgain (k : CoreState) : k.loadedAgain.loadedAgain = k.loadedAgain := by
  obtain ⟨mode⟩ := k
  cases mode <;> rfl

/-- A core as the sweep-end release leaves its live and next state. -/
def CoreState.startSweep (e : Nat) (k : CoreState) : CoreState :=
  { k with live := k.live.sweepStart e, next := k.next.sweepStart e }

/-- The sweep starts of several cores, each at the entry that its register held before. -/
theorem foldl_sweepStart (l : List Nat) (s : State) :
    l.foldl State.sweepStart s =
      l.foldl (fun t n => t.updCore n (CoreState.startSweep (s.rf (Reg.coreEntry n) 25 16))) s := by
  suffices same : ∀ u : State, u.regs = s.regs → l.foldl State.sweepStart u =
      l.foldl (fun t n => t.updCore n (CoreState.startSweep (s.rf (Reg.coreEntry n) 25 16))) u from same s rfl
  induction l with
  | nil => exact fun _ _ => rfl
  | cons n l ih =>
    intro u regs
    have entry : u.rf (Reg.coreEntry n) 25 16 = s.rf (Reg.coreEntry n) 25 16 :=
      rf_of_reg (State.reg_of_regs regs _) 25 16
    have start : u.sweepStart n = u.updCore n (CoreState.startSweep (s.rf (Reg.coreEntry n) 25 16)) := by
      rw [State.sweepStart, entry]
      rfl
    rw [List.foldl_cons, List.foldl_cons, start]
    exact ih _ regs

/-! ## What landing tables and the end of a run leave of a partition (R66, R206, R308) -/

/-- A partition whose Binding's tables and Colophon notes alone may have changed. -/
structure LandsOn (p p' : Partition) : Prop where
  same : ∃ b c, p' = { p with binding := b, colo := c }

theorem LandsOn.refl (p : Partition) : LandsOn p p := ⟨_, _, rfl⟩

theorem LandsOn.trans {p q r : Partition} (h : LandsOn p q) (k : LandsOn q r) : LandsOn p r := by
  obtain ⟨b, c, e⟩ := h
  obtain ⟨b', c', e'⟩ := k
  exact ⟨b', c', by rw [e', e]⟩

theorem part_applyTable (s : State) (q : Nat) (t : TableWrite) :
    LandsOn (s.part q) ((s.applyTable q t).part q) ∧ KeepsParts [q] s (s.applyTable q t) := by
  unfold State.applyTable
  extract_lets u
  have landed : LandsOn (s.part q) (u.part q) ∧ KeepsParts [q] s u := by
    dsimp only [u]
    split
    · have written : Within [.regs, .mem, .sramErr, .flt] s ((s.targets q t.target 2048).foldl (fun u x =>
          u.wrSram x.1 (tableAt x.1 t.slot 0) (slice t.data x.2.1 x.2.2)) s) :=
        .foldl (fun _ _ => (within_wrSram ..).mono) _ (.refl _ _)
      exact ⟨by rw [part_through written.touches]; exact .refl _, written.touches.keepsParts (by decide) _⟩
    · exact ⟨by rw [State.part_updPart_self]; exact ⟨_, _, rfl⟩, keepsParts_updPart s q _⟩
  have done := touches_complete (u.updPart q (fun p => { p with colo := { p.colo with tables := true } })) t.desc stDone 0 0
  refine ⟨landed.1.trans ?_, (landed.2.trans (keepsParts_updPart u q _)).through done⟩
  rw [part_through done, State.part_updPart_self]
  exact ⟨_, _, rfl⟩

theorem part_applyTables (s : State) (q : Nat) :
    LandsOn { s.part q with tables := [] } ((s.applyTables q).part q) ∧ KeepsParts [q] s (s.applyTables q) := by
  have fold (ts : List TableWrite) (u : State) : LandsOn (u.part q) ((ts.foldl (fun u t => u.applyTable q t) u).part q) ∧
      KeepsParts [q] u (ts.foldl (fun u t => u.applyTable q t) u) := by
    induction ts generalizing u with
    | nil => exact ⟨.refl _, .refl _ _⟩
    | cons t ts ih =>
      obtain ⟨one, others⟩ := part_applyTable u q t
      obtain ⟨rest, rests⟩ := ih (u.applyTable q t)
      exact ⟨one.trans rest, others.trans rests⟩
  obtain ⟨lands, others⟩ := fold (s.part q).tables (s.updPart q (fun p => { p with tables := [] }))
  rw [State.part_updPart_self] at lands
  exact ⟨lands, (keepsParts_updPart s q _).trans others⟩

theorem cores_applyTables (s : State) (q n : Nat) : (s.applyTables q).core n = s.core n :=
  core_through (within_applyTables s q).touches n

/-- The run of a partition once it has ended with a status: over when nothing is owed, else ended. -/
def Partition.jobEnded (p : Partition) (status : Nat) : Option Job :=
  match p.job with
  | none => none
  | some j =>
    if p.owedOffers.isEmpty && j.colophon.isNone && !j.sign then none
    else some { j with ended := some (j.ended.getD status) }

theorem part_endJob (s : State) (q status : Nat) :
    (s.endJob q status).part q = { s.part q with job := (s.part q).jobEnded status } ∧
    KeepsParts [q] s (s.endJob q status) := by
  have noted := keepsParts_updPart s q (fun p => { p with job := p.job.map (fun j =>
    { j with ended := some (j.ended.getD status) }) })
  unfold State.endJob State.settleJob
  rw [State.part_updPart_self]
  cases job : (s.part q).job with
  | none =>
    refine ⟨?_, noted⟩
    rw [Option.map_none, State.part_updPart_self, Partition.jobEnded, job]
    rfl
  | some j =>
    have owed : Partition.owedOffers { s.part q with job := some { j with ended := some (j.ended.getD status) } } =
      (s.part q).owedOffers := rfl
    simp only [Option.map_some, owed]
    rw [Partition.jobEnded, job]
    dsimp only
    split
    · have done := touches_complete ((s.updPart q (fun p => { p with job := p.job.map (fun j =>
        { j with ended := some (j.ended.getD status) }) })).updPart q (fun p => { p with job := none })) j.desc
        (j.ended.getD status) 0 j.taken
      refine ⟨?_, (noted.trans (keepsParts_updPart _ q _)).through done⟩
      rw [part_through done, State.part_updPart_self, State.part_updPart_self]
    · refine ⟨?_, noted⟩
      rw [State.part_updPart_self, job]
      rfl

theorem part_haltsDone (s : State) (q : Nat) :
    (s.haltsDone q).part q = { s.part q with halts := [] } ∧ KeepsParts [q] s (s.haltsDone q) := by
  have done : Within [.regs, .rings, .descs] (s.updPart q (fun p => { p with halts := [] })) (s.haltsDone q) :=
    .foldl (fun _ _ => (within_complete ..).mono) _ (.refl _ _)
  refine ⟨?_, (keepsParts_updPart s q _).through done.touches⟩
  rw [part_through done.touches, State.part_updPart_self]

/-- A partition stopped at a point. -/
def Partition.atPoint (p : Partition) (point : Nat) : Partition :=
  { p with run := .loaded, point := point, barrier := none, hold := none, freezeAt := none, froze := false, resumeIn := none }

theorem stopAtPoint_eq (s : State) (q point : Nat) : s.stopAtPoint q point =
    ((s.partCores q).foldl (fun t n => t.updCore n CoreState.loadedAgain) s).updPart q (fun p => p.atPoint point) := rfl

theorem part_stopAtPoint (s : State) (q point : Nat) :
    (s.stopAtPoint q point).part q = (s.part q).atPoint point ∧ KeepsParts [q] s (s.stopAtPoint q point) := by
  have loaded := touches_foldl_updCore (fun _ => CoreState.loadedAgain) (s.partCores q) s
  rw [stopAtPoint_eq]
  refine ⟨?_, ((KeepsParts.refl [q] s).through loaded).trans (keepsParts_updPart _ q _)⟩
  rw [State.part_updPart_self, part_through loaded]

theorem core_stopAtPoint (s : State) (q point n : Nat) : (s.stopAtPoint q point).core n =
    if n ∈ s.partCores q then (s.core n).loadedAgain else s.core n :=
  core_foldl_updCore (f := fun _ => CoreState.loadedAgain) (fun _ => CoreState.loadedAgain_loadedAgain) (s.partCores q) s n

theorem core_endRun (s : State) (q point status n : Nat) : (s.endRun q point status).core n =
    if n ∈ s.partCores q then (s.core n).loadedAgain else s.core n := by
  rw [State.endRun, core_through (within_haltsDone ..).touches, core_through (within_endJob ..).touches, cores_applyTables,
    core_stopAtPoint]

/-- A partition at the end of its run: it stands at the point, no table write and no HALT waits, and its run is over or owed. -/
theorem part_endRun (s : State) (q point status : Nat) :
    LandsOn { (s.part q).atPoint point with tables := [], job := (s.part q).jobEnded status, halts := [] }
      ((s.endRun q point status).part q) ∧ KeepsParts [q] s (s.endRun q point status) := by
  obtain ⟨stopped, others⟩ := part_stopAtPoint s q point
  obtain ⟨⟨b, c, landed⟩, landing⟩ := part_applyTables (s.stopAtPoint q point) q
  obtain ⟨ended, ending⟩ := part_endJob ((s.stopAtPoint q point).applyTables q) q status
  obtain ⟨halted, halting⟩ := part_haltsDone (((s.stopAtPoint q point).applyTables q).endJob q status) q
  refine ⟨⟨b, c, ?_⟩, ((others.trans landing).trans ending).trans halting⟩
  rw [State.endRun, halted, ended, landed, stopped]
  rfl

/-! ## The release of a barrier (R73, R74, R191) -/

/-- A partition at a release. -/
def Partition.released (p : Partition) (b : BarrierWait) : Partition :=
  { p with
    barrier := none, epoch := p.tick
    sweep := if b.sweepEnd then p.sweep + 1 else p.sweep
    ctl := if b.sweepEnd then { p.ctl with inUse := p.ctl.k } else p.ctl
    rings := if b.sweepEnd then p.rings.map (fun e => (e.1, { e.2 with flush := e.2.used })) else p.rings }

/-- The state whose partition alone is released. -/
def State.released (s : State) (q : Nat) (b : BarrierWait) : State :=
  (s.tsyncPulse q b).updPart q (fun p => p.released b)

/-- The state in which a barrier is released, before a run ends at it. -/
def State.goesOn (s : State) (q : Nat) (b : BarrierWait) : State :=
  (s.partCores q).foldl (fun t n => t.updCore n CoreState.goOn)
    (if b.sweepEnd then ((s.partCores q).foldl State.sweepStart (s.released q b)).applyTables q else s.released q b)

theorem releaseBarrier_eq (s : State) (q : Nat) (b : BarrierWait) : s.releaseBarrier q b =
    match ((s.goesOn q b).part q).job with
    | some j => if j.endsAt b.sweepEnd then (s.goesOn q b).endRun q (if b.sweepEnd then 0 else 1) stDone else s.goesOn q b
    | none => s.goesOn q b := rfl

theorem part_released (s : State) (q : Nat) (b : BarrierWait) :
    (s.released q b).part q = (s.part q).released b ∧ KeepsParts [q] s (s.released q b) := by
  have pulse := (within_tsyncPulse s q b).touches
  refine ⟨?_, ((KeepsParts.refl [q] s).through pulse).trans (keepsParts_updPart _ q _)⟩
  rw [State.released, State.part_updPart_self, part_through pulse]

theorem within_released (s : State) (q : Nat) (b : BarrierWait) : Within [.pwr, .parts] s (s.released q b) :=
  (within_updPart ..).after ((within_tsyncPulse ..).mono)

/-- The partition as its barrier is released, and the other partitions. -/
theorem part_goesOn (s : State) (q : Nat) (b : BarrierWait) :
    (b.sweepEnd = true → LandsOn { (s.part q).released b with tables := [] } ((s.goesOn q b).part q)) ∧
    (b.sweepEnd = false → (s.goesOn q b).part q = (s.part q).released b) ∧ KeepsParts [q] s (s.goesOn q b) := by
  obtain ⟨own, others⟩ := part_released s q b
  have on (v : State) := touches_foldl_updCore (fun _ => CoreState.goOn) (s.partCores q) v
  rw [State.goesOn]
  cases b.sweepEnd with
  | false =>
    rw [if_neg (by decide), part_through (on _)]
    exact ⟨nofun, fun _ => own, others.through (on _)⟩
  | true =>
    have started := touches_foldl_updCore (fun n => CoreState.startSweep ((s.released q b).rf (Reg.coreEntry n) 25 16))
      (s.partCores q) (s.released q b)
    rw [← foldl_sweepStart] at started
    obtain ⟨landed, landing⟩ := part_applyTables ((s.partCores q).foldl State.sweepStart (s.released q b)) q
    rw [part_through started, own] at landed
    rw [if_pos rfl, part_through (on _)]
    exact ⟨fun _ => landed, nofun, ((others.through started).trans landing).through (on _)⟩

/-- Each core as the barrier is released. -/
theorem core_goesOn (s : State) (q : Nat) (b : BarrierWait) (n : Nat) : (s.goesOn q b).core n =
    if n ∈ s.partCores q then
      (if b.sweepEnd then (s.core n).startSweep (s.rf (Reg.coreEntry n) 25 16) else s.core n).goOn
    else s.core n := by
  have before := (within_released s q b).touches
  have cores (m : Nat) : (s.released q b).core m = s.core m := core_through before m
  rw [State.goesOn, core_foldl_updCore (f := fun _ => CoreState.goOn) (fun _ => CoreState.goOn_goOn)]
  cases b.sweepEnd with
  | false => simp only [Bool.false_eq_true, if_false, cores]
  | true =>
    have entry : (s.released q b).rf (Reg.coreEntry n) 25 16 = s.rf (Reg.coreEntry n) 25 16 :=
      rf_of_reg (State.reg_of_regs (before .regs (by decide)).1 _) 25 16
    rw [if_pos rfl, if_pos rfl, cores_applyTables, foldl_sweepStart,
      core_foldl_updCore (f := fun m => CoreState.startSweep ((s.released q b).rf (Reg.coreEntry m) 25 16)) (fun _ _ => rfl),
      cores, entry]
    split <;> rfl

/-- What a release leaves of the partition's fields, before a run ends at it. -/
theorem goesOn_fields (s : State) (q : Nat) (b : BarrierWait) : ∃ x y z,
    (s.goesOn q b).part q = { (s.part q).released b with tables := x, binding := y, colo := z } ∧
      (b.sweepEnd = true → x = []) := by
  obtain ⟨lands, goes, -⟩ := part_goesOn s q b
  cases sweep : b.sweepEnd with
  | false => exact ⟨_, _, _, goes sweep, nofun⟩
  | true =>
    obtain ⟨y, z, e⟩ := lands sweep
    exact ⟨[], y, z, e, fun _ => rfl⟩

theorem partCores_goesOn (s : State) (q : Nat) (b : BarrierWait) : (s.goesOn q b).partCores q = s.partCores q := by
  obtain ⟨x, y, z, own, -⟩ := goesOn_fields s q b
  rw [State.partCores, own]
  rfl

/-- The pieces that a release without the end of a run changes. -/
theorem touches_goesOn (s : State) (q : Nat) (b : BarrierWait) :
    OnlyTouches [.regs, .mem, .sramErr, .cores, .parts, .rings, .descs, .flt, .pwr] s (s.goesOn q b) ∧
    (b.sweepEnd = false → OnlyTouches [.cores, .parts, .pwr] s (s.goesOn q b)) := by
  have before := (within_released s q b).touches
  have on (v : State) := touches_foldl_updCore (fun _ => CoreState.goOn) (s.partCores q) v
  rw [State.goesOn]
  cases b.sweepEnd with
  | false =>
    have phase := (before.mono (qs := [.cores, .parts, .pwr]) (by decide)).trans ((on (s.released q b)).mono (by decide))
    exact ⟨phase.mono (by decide), fun _ => phase⟩
  | true =>
    have started : Within [.cores] (s.released q b) ((s.partCores q).foldl State.sweepStart (s.released q b)) :=
      .foldl (fun _ _ => (within_sweepStart ..).mono) _ (.refl _ _)
    have landed := (within_applyTables ((s.partCores q).foldl State.sweepStart (s.released q b)) q).touches
    have sweep := ((before.mono (qs := [.regs, .mem, .sramErr, .cores, .parts, .rings, .descs, .flt, .pwr]) (by decide)).trans
      (started.touches.mono (by decide))).trans (landed.mono (by decide))
    exact ⟨sweep.trans ((on _).mono (by decide)), nofun⟩

theorem exec_barrierRelease {q : QuireId} {s : State} {b : BarrierWait} {at_ : Nat} (waits : (s.part q).barrier = some b)
    (fixed : b.releaseTick (s.part q) = some at_) (due : at_ ≤ (s.part q).tick) (run : (s.part q).run = .running)
    (goes : (s.part q).stopped = false) (all : s.allArrived q b = true) (decided : b.sweepEnd = true → b.decided = true)
    (quiet : s.resetWaits q = false) : exec (.barrierRelease q) s = .next (s.releaseBarrier q b) := by
  have made : (!b.sweepEnd || b.decided) = true := by
    cases sweep : b.sweepEnd with
    | false => rfl
    | true => exact decided sweep
  rw [show exec (.barrierRelease q) s = execBarrierRelease q s from rfl, execBarrierRelease]
  simp only [waits, fixed]
  rw [if_pos (by simp [run, all, due, made, goes, quiet])]

/-- Settles O16: the release, and the end of a run at it. -/
theorem fullBarrierReleases : Obligations.FullBarrierReleases := by
  intro q s b at_ waits fixed due run goes all decided quiet
  have run_ := exec_barrierRelease waits fixed due run goes all decided quiet
  rw [releaseBarrier_eq] at run_
  obtain ⟨x, y, z, own, cleared⟩ := goesOn_fields s q b
  have job : ((s.goesOn q b).part q).job = (s.part q).job := by rw [own]; rfl
  have others := (part_goesOn s q b).2.2
  have cores := core_goesOn s q b
  have kept : KeepsCores (s.partCores q) s (s.goesOn q b) := fun n hn => by rw [cores, if_neg hn]
  obtain ⟨touched, phaseTouched⟩ := touches_goesOn s q b
  rw [job] at run_
  refine ⟨fun stays => ?_, fun j hj ends => ?_⟩
  · have answer : exec (.barrierRelease q) s = .next (s.goesOn q b) := by
      rw [run_]
      cases hj : (s.part q).job with
      | none => rfl
      | some j => simp only [stays j hj, Bool.false_eq_true, if_false]
    refine ⟨_, answer, by rw [own]; rfl, by rw [own]; rfl, by rw [own]; exact run, by rw [own]; rfl, job, by rw [own]; rfl,
      fun n hn => ?_, fun sweep => ⟨?_, fun n hn => ?_, ?_⟩, fun phase => ⟨fun n => ?_, ?_⟩, kept, others⟩
    · rw [cores, if_pos hn]
      cases b.sweepEnd <;> rfl
    · rw [own]
      exact cleared sweep
    · rw [cores, if_pos hn, sweep]
      rfl
    · exact touched
    · rw [cores, phase]
      split <;> rfl
    · exact phaseTouched phase
  · obtain ⟨⟨y', z', ended⟩, ending⟩ := part_endRun (s.goesOn q b) q (if b.sweepEnd then 0 else 1) stDone
    have core (n : Nat) := core_endRun (s.goesOn q b) q (if b.sweepEnd then 0 else 1) stDone n
    rw [partCores_goesOn] at core
    rw [hj] at run_
    simp only [ends, if_true] at run_
    refine ⟨_, run_, by rw [ended]; rfl, by rw [ended]; rfl, by rw [ended]; rfl, by rw [ended], by rw [ended], ?_,
      fun n hn waiting => ?_, ?_, fun n hn => ?_, others.trans ending, ?_⟩
    · rw [ended, own]
      rfl
    · rw [core, if_pos hn, cores, if_pos hn]
      have arrived (k : CoreState) (h : k.mode = .barrier) : k.goOn.loadedAgain.mode = .loaded := by
        simp [CoreState.goOn, CoreState.loadedAgain, h]
      cases b.sweepEnd <;> exact arrived _ waiting
    · rw [ended, own]
      simp only [Partition.jobEnded, Partition.released, hj]
      rfl
    · rw [core, if_neg hn]
      exact kept n hn
    · have past := (within_endRun (s.goesOn q b) q (if b.sweepEnd then 0 else 1) stDone).touches
      exact touched.trans (past.mono (by decide))

end Sys2Proof.Machine
end

section
/-! PROOFS. Accesses to LPDDR6, the completion of a descriptor, and the offers of a pool. -/

namespace Sys2Proof.Machine

open Sys2Proof

-- One theorem after another: many at once would need too many threads.
set_option Elab.async false

/-! ## Accesses to LPDDR6: their counts, and the writes of good memory -/

theorem chanOf_lt (a : Nat) : chanOf a < 48 := by
  unfold chanOf
  extract_lets side
  have : side ≤ 1 := by dsimp only [side]; split <;> decide
  omega

theorem frame_dramCount {s : State} {k hi lo n : Nat} :
    Frame [.regs] dramRegs s (s.count (Reg.memEccstat (chanOf k)) hi lo n) :=
  (frame_count ..).mono (own := by
    intro o ho
    rw [List.mem_singleton.mp ho]
    exact List.mem_cons_of_mem _ (List.mem_map.mpr ⟨_, List.mem_range.mpr (chanOf_lt k), rfl⟩))

theorem faultRegs_dramRegs : faultRegs ⊆ dramRegs := fun _ h => List.mem_cons.mpr (.inl (List.mem_singleton.mp h))

theorem frame_dramCeAt (s : State) (tag k : Nat) : Frame [.regs, .flt] dramRegs s (s.dramCeAt tag k) :=
  (frame_report ..).after (frame_dramCount.mono) (own := faultRegs_dramRegs)

theorem frame_dramUeAt (s : State) (tag k : Nat) : Frame [.regs, .flt] dramRegs s (s.dramUeAt tag k) :=
  (frame_report ..).after (frame_dramCount.mono) (own := faultRegs_dramRegs)

theorem frame_dramRead (s : State) (tag a n : Nat) : Frame [.regs, .flt] dramRegs s (s.dramRead tag a n) := by
  dsimp only [State.dramRead]
  split
  · exact Frame.trans (.foldl (fun _ _ => frame_dramCeAt ..) _ s) (frame_dramUeAt ..)
  · exact .foldl (fun _ _ => frame_dramCeAt ..) _ s

/-- What is noted of a write leaves everything else of a partition. -/
theorem noteWrite_eq (p : Partition) (a n : Nat) : ∃ c j, p.noteWrite a n = { p with colo := c, job := j } := by
  unfold Partition.noteWrite
  split
  · exact ⟨_, _, rfl⟩
  · exact ⟨_, _, rfl⟩

theorem look_map_value {α : Type} (d : Nat → α) (f : α → α) (fix : ∀ k, f (d k) = d k) (m : Table α) (k : Nat) :
    Table.look d (m.map (fun e => (e.1, f e.2))) k = f (Table.look d m k) := by
  induction m with
  | nil => exact (fix k).symm
  | cons e m ih =>
    rw [List.map_cons, Table.look, Table.look, ih]
    split <;> rfl

theorem part_noteWrite (s : State) (a n q : Nat) : (s.noteWrite a n).part q = (s.part q).noteWrite a n :=
  look_map_value (fun _ => ({} : Partition)) (·.noteWrite a n) (fun _ => rfl) s.parts q

/-- The writes of good LPDDR6: local memory, and what the partitions note of them, alone may have changed. -/
structure Stores (s t : State) : Prop where
  pieces : OnlyTouches [.mem, .parts] s t
  notes  : ∀ q, ∃ c j, t.part q = { s.part q with colo := c, job := j }

namespace Stores
variable {s t u : State}

theorem refl (s : State) : Stores s s := ⟨.refl _ _, fun _ => ⟨_, _, rfl⟩⟩

theorem trans (h : Stores s t) (k : Stores t u) : Stores s u where
  pieces := h.pieces.trans k.pieces
  notes q := by
    obtain ⟨c, j, e⟩ := h.notes q
    obtain ⟨c', j', e'⟩ := k.notes q
    exact ⟨c', j', by rw [e', e]⟩

theorem good (h : Stores s t) (clean : s.dramErr = []) : t.dramErr = [] := (h.pieces .dramErr (by decide)).trans clean

theorem frame (h : Stores s t) : Frame [.mem, .parts] [] s t := .of_touches h.pieces

end Stores

section
variable {s : State} (clean : s.dramErr = []) (tag a : Nat) (bs : List Byte)
include clean

theorem stores_wrDram : Stores s (s.wrDram tag a bs) := by
  rw [wrDram_good clean]
  refine ⟨((touches_noteWrite s a bs.length).mono (by decide)).trans ((touches_wr _ a bs).mono (by decide)), fun q => ?_⟩
  obtain ⟨c, j, e⟩ := noteWrite_eq (s.part q) a bs.length
  exact ⟨c, j, (part_noteWrite s a bs.length q).trans e⟩

theorem rd_wrDram_self : (s.wrDram tag a bs).rd a bs.length = bs := by
  rw [wrDram_good clean]
  exact rd_wr_self ..

theorem rd_wrDram_other {b n : Nat} (apart : b + n ≤ a ∨ a + bs.length ≤ b) : (s.wrDram tag a bs).rd b n = s.rd b n := by
  rw [wrDram_good clean, rd_wr_other _ _ _ _ _ apart]
  rfl

theorem keepsBytes_wrDram : KeepsBytes a bs.length s (s.wrDram tag a bs) := by
  rw [wrDram_good clean]
  exact keepsBytes_wr (s.noteWrite a bs.length) a bs

end

theorem KeepsBytes.widen {a n b m : Nat} {s t : State} (h : KeepsBytes a n s t) (low : b ≤ a) (high : a + n ≤ b + m) :
    KeepsBytes b m s t := fun k hk => h k (by omega)

/-- Bytes that keep read as before. -/
theorem KeepsBytes.rd {a n : Nat} {s t : State} (h : KeepsBytes a n s t) {b m : Nat} (apart : b + m ≤ a ∨ a + n ≤ b) :
    t.rd b m = s.rd b m := by
  induction m generalizing b with
  | zero => rfl
  | succ m ih =>
    have first : t.byteAt b = s.byteAt b := h b (by omega)
    have rest : t.rd (b + 1) m = s.rd (b + 1) m := ih (by omega)
    rw [State.rd, Table.span, State.rd, Table.span]
    exact congr (congrArg List.cons first) rest

/-! ## The completion of a descriptor -/

theorem frame_complete (s : State) (ref : DescRef) (status detail result : Nat) :
    Frame [.regs, .rings, .descs] hostRegs s (s.complete ref status detail result) := by
  have all := touches_complete s ref status detail result
  refine ⟨all, ?_⟩
  unfold State.complete
  split
  · exact .refl _ _
  next d _ =>
    extract_lets u
    have regs : u.regs = s.regs := rfl
    split
    · refine fun o ho => (keepsRegs_count u _ 47 32 1 o fun own => ho ?_).trans (State.reg_of_regs regs o)
      rw [List.mem_singleton.mp own]
      cases d.ref.port <;> simp [hostRegs, Port.num]
    · split
      · exact fun o _ => State.reg_of_regs regs o
      · exact fun o _ => State.reg_of_regs regs o

theorem frame_settleJob (s : State) (q : Nat) : Frame [.regs, .parts, .rings, .descs] hostRegs s (s.settleJob q) := by
  unfold State.settleJob
  split
  · exact .refl ..
  · split
    · exact .refl ..
    · exact .ite ((frame_complete ..).after (frame_updPart ..).mono) (.refl ..)

/-! ## The entries and the header of a pool (R204, R205) -/

@[simp] theorem length_poolSlot_bytes (x : PoolSlot) : x.bytes.length = 64 := by simp [PoolSlot.bytes]

theorem leNat_rd_leBytes {t : State} {a k v : Nat} (h : t.rd a k = leBytes k v) : t.rdN a k = v % 256 ^ k := by
  rw [State.rdN, h, leNat_leBytes]

/-- The entries of a pool written one behind the other. -/
def State.writeEntries (s : State) (tag : Nat) (e : PoolEntry) (l : List (PoolSlot × Nat)) : State :=
  l.foldl (fun t x => t.wrDram tag (e.entryAt x.2) x.1.bytes) s

/-- The entries from the k-th on stand in their order, and nothing else of LPDDR6 has changed. -/
theorem writeEntries_spec {s : State} (clean : s.dramErr = []) (tag : Nat) (e : PoolEntry) (l : List PoolSlot) (k : Nat) :
    Stores s (s.writeEntries tag e (l.zipIdx k)) ∧
    KeepsBytes (e.entryAt k) (64 * l.length) s (s.writeEntries tag e (l.zipIdx k)) ∧
    ∀ i x, l[i]? = some x → (s.writeEntries tag e (l.zipIdx k)).rd (e.entryAt (k + i)) 64 = x.bytes := by
  induction l generalizing s k with
  | nil => exact ⟨.refl _, .refl _ _ _, nofun⟩
  | cons y l ih =>
    have one := stores_wrDram clean tag (e.entryAt k) y.bytes
    have here := keepsBytes_wrDram clean tag (e.entryAt k) y.bytes
    obtain ⟨stores, bytes, entries⟩ := ih (one.good clean) (k + 1)
    rw [length_poolSlot_bytes] at here
    have next : e.entryAt (k + 1) = e.entryAt k + 64 := by simp only [PoolEntry.entryAt]; omega
    rw [next] at bytes
    rw [List.zipIdx_cons, List.length_cons]
    refine ⟨one.trans stores, (here.widen (Nat.le_refl _) (by omega)).trans (bytes.widen (by omega) (by omega)), ?_⟩
    rintro (_ | i) x at_
    · cases at_
      have first := rd_wrDram_self clean tag (e.entryAt k) y.bytes
      rw [length_poolSlot_bytes] at first
      exact (bytes.rd (.inl (Nat.le_refl _))).trans first
    · rw [show k + (i + 1) = k + 1 + i by omega]
      exact entries i x at_

/-- A pool that has taken an offer, but for the header's count of offers and the partition's own count. -/
def State.poolTaken (s : State) (tag : Nat) (e : PoolEntry) (l : List PoolSlot) (st : Nat) : State :=
  ((s.writeEntries tag e l.zipIdx).wrDram tag (e.base + 9) (leBytes 1 l.length ++ leBytes 1 st)).wrDram tag (e.base + 0x14)
    (leBytes 4 (((s.writeEntries tag e l.zipIdx).wrDram tag (e.base + 9) (leBytes 1 l.length ++ leBytes 1 st)).rdN
      (e.base + 0x14) 4 + 1))

/-- What stands in LPDDR6 when a pool has taken an offer. -/
structure PoolTakes (e : PoolEntry) (l : List PoolSlot) (st : Nat) (s t : State) : Prop where
  entries : ∀ i x, l[i]? = some x → t.rd (e.entryAt i) 64 = x.bytes
  number  : t.rdN (e.base + 9) 1 = l.length % 256
  staging : t.rdN (e.base + 10) 1 = st % 256
  taken   : t.rdN (e.base + 0x14) 4 = (s.rdN (e.base + 0x14) 4 + 1) % 2 ^ 32
  offers  : t.rdN (e.base + 0x10) 4 = s.rdN (e.base + 0x10) 4
  bytes   : KeepsBytes (e.base + 9) (55 + 64 * l.length) s t

theorem poolTaken_spec {s : State} (clean : s.dramErr = []) (tag : Nat) (e : PoolEntry) (l : List PoolSlot) (st : Nat) :
    Stores s (s.poolTaken tag e l st) ∧ PoolTakes e l st s (s.poolTaken tag e l st) := by
  obtain ⟨stores1, bytes1, entries⟩ := writeEntries_spec clean tag e l 0
  rw [State.poolTaken]
  obtain ⟨u, eu⟩ : ∃ u, s.writeEntries tag e l.zipIdx = u := ⟨_, rfl⟩
  rw [eu] at stores1 bytes1 entries ⊢
  have clean1 := stores1.good clean
  have stores2 := stores_wrDram clean1 tag (e.base + 9) (leBytes 1 l.length ++ leBytes 1 st)
  have bytes2 := keepsBytes_wrDram clean1 tag (e.base + 9) (leBytes 1 l.length ++ leBytes 1 st)
  have read2 := rd_wrDram_self clean1 tag (e.base + 9) (leBytes 1 l.length ++ leBytes 1 st)
  obtain ⟨v, ev⟩ : ∃ v, u.wrDram tag (e.base + 9) (leBytes 1 l.length ++ leBytes 1 st) = v := ⟨_, rfl⟩
  rw [ev] at stores2 bytes2 read2 ⊢
  have clean2 := stores2.good clean1
  have stores3 := stores_wrDram clean2 tag (e.base + 0x14) (leBytes 4 (v.rdN (e.base + 0x14) 4 + 1))
  have bytes3 := keepsBytes_wrDram clean2 tag (e.base + 0x14) (leBytes 4 (v.rdN (e.base + 0x14) 4 + 1))
  have read3 := rd_wrDram_self clean2 tag (e.base + 0x14) (leBytes 4 (v.rdN (e.base + 0x14) 4 + 1))
  simp only [List.length_append, length_leBytes] at bytes2 read2 bytes3 read3
  have start : e.entryAt 0 = e.base + 64 := rfl
  rw [start] at bytes1
  have header : v.rdN (e.base + 0x14) 4 = s.rdN (e.base + 0x14) 4 := by
    rw [State.rdN, bytes2.rd (by omega), bytes1.rd (by omega), State.rdN]
  have part (t : State) (off : Nat) (inside : off + 1 ≤ 2) (same : t.rd (e.base + 9) 2 = leBytes 1 l.length ++ leBytes 1 st) :
      t.rdN (e.base + 9 + off) 1 = leNat (slice (leBytes 1 l.length ++ leBytes 1 st) off 1) := by
    rw [State.rdN, ← slice_rd t inside, same]
  have own := (bytes3.rd (.inl (by omega))).trans read2
  refine ⟨(stores1.trans stores2).trans stores3, fun i x at_ => ?_, ?_, ?_, ?_, ?_, ?_⟩
  · have after : e.base + 64 ≤ e.entryAt i := by simp only [PoolEntry.entryAt]; omega
    rw [bytes3.rd (by omega), bytes2.rd (by omega), ← entries i x at_, Nat.zero_add]
  · exact (part _ 0 (by decide) own).trans (by simp [slice, leNat_leBytes])
  · exact (part _ 1 (by decide) own).trans (by simp [slice, List.take_of_length_le, leNat_leBytes])
  · rw [leNat_rd_leBytes read3, header]
    rfl
  · rw [State.rdN, bytes3.rd (by omega), bytes2.rd (by omega), bytes1.rd (by omega), State.rdN]
  · exact ((bytes1.widen (by omega) (by omega)).trans (bytes2.widen (by omega) (by omega))).trans
      (bytes3.widen (by omega) (by omega))

/-! ## An offer (R205, R234) -/

theorem part_settleJob (s : State) (q : Nat) : ∃ j, (s.settleJob q).part q = { s.part q with job := j } := by
  unfold State.settleJob
  split
  · exact ⟨_, rfl⟩
  · split
    · exact ⟨_, rfl⟩
    · split
      · refine ⟨none, ?_⟩
        rw [part_through (frame_complete ..).pieces, State.part_updPart_self]
      · exact ⟨_, rfl⟩

theorem prtPoolstat_not_hostRegs (q : Nat) : Reg.prtPoolstat q ∉ hostRegs := by
  simp only [hostRegs, List.mem_cons, List.not_mem_nil, or_false, Reg.prtPoolstat, Reg.hstPortstat]
  omega

/-- An offer counted in the pool's header and its partition, and gone from the queue. -/
def State.offerGone (s : State) (q : Nat) (e : PoolEntry) (o : PoolOffer) : State :=
  (((s.wrDram q (e.base + 0x10) (leBytes 4 (s.rdN (e.base + 0x10) 4 + 1))).count (Reg.prtPoolstat q) 23 0 1).updPart q
    (fun p => { p with offers := p.offers.erase o })).settleJob q

/-- What an offer that leaves the queue changes. -/
structure OfferGone (q : Nat) (e : PoolEntry) (o : PoolOffer) (s t : State) : Prop where
  offers : (t.part q).offers = (s.part q).offers.erase o
  header : t.rdN (e.base + 0x10) 4 = (s.rdN (e.base + 0x10) 4 + 1) % 2 ^ 32
  count  : t.rf (Reg.prtPoolstat q) 23 0 = satAdd (2 ^ 24 - 1) (s.rf (Reg.prtPoolstat q) 23 0) 1
  taken  : t.rf (Reg.prtPoolstat q) 47 24 = s.rf (Reg.prtPoolstat q) 47 24
  bytes  : KeepsBytes (e.base + 0x10) 4 s t
  frame  : Frame [.regs, .mem, .parts, .rings, .descs] (Reg.prtPoolstat q :: hostRegs) s t

theorem offerGone_spec {s : State} (clean : s.dramErr = []) (q : Nat) (e : PoolEntry) (o : PoolOffer) :
    OfferGone q e o s (s.offerGone q e o) := by
  have stores := stores_wrDram clean q (e.base + 0x10) (leBytes 4 (s.rdN (e.base + 0x10) 4 + 1))
  have bytes := keepsBytes_wrDram clean q (e.base + 0x10) (leBytes 4 (s.rdN (e.base + 0x10) 4 + 1))
  have read := rd_wrDram_self clean q (e.base + 0x10) (leBytes 4 (s.rdN (e.base + 0x10) 4 + 1))
  rw [State.offerGone]
  obtain ⟨u, eu⟩ : ∃ u, s.wrDram q (e.base + 0x10) (leBytes 4 (s.rdN (e.base + 0x10) 4 + 1)) = u := ⟨_, rfl⟩
  rw [eu] at stores bytes read ⊢
  rw [length_leBytes] at bytes read
  have counted := frame_count u (Reg.prtPoolstat q) 23 0 1
  have erased := frame_updPart (u.count (Reg.prtPoolstat q) 23 0 1) q (fun p => { p with offers := p.offers.erase o })
  have settled := frame_settleJob ((u.count (Reg.prtPoolstat q) 23 0 1).updPart q
    (fun p => { p with offers := p.offers.erase o })) q
  obtain ⟨j, part⟩ := part_settleJob ((u.count (Reg.prtPoolstat q) 23 0 1).updPart q
    (fun p => { p with offers := p.offers.erase o })) q
  obtain ⟨c, j', noted⟩ := stores.notes q
  have tail : Frame [.regs, .parts, .rings, .descs] (Reg.prtPoolstat q :: hostRegs) u _ :=
    settled.after (erased.after counted.mono)
  have mem := tail.pieces .mem (by decide)
  refine ⟨?_, ?_, ?_, ?_, bytes.trans (.of_mem _ _ mem), tail.after stores.frame.mono⟩
  · rw [part, State.part_updPart_self, part_through counted.pieces, noted]
  · rw [State.rdN, rd_of_mem mem, read, leNat_leBytes]
    rfl
  · rw [settled.rf (prtPoolstat_not_hostRegs q), erased.rf (by simp), rf_count_self _ _ _ (by decide) (by decide),
      stores.frame.rf (by simp)]
  · rw [settled.rf (prtPoolstat_not_hostRegs q), erased.rf (by simp), rf_count_apart _ _ _ (by decide) (by decide) (by decide),
      stores.frame.rf (by simp)]

section
variable {q : QuireId} {pool : Nat} {s : State} {b : Binding} {o : PoolOffer} {e : PoolEntry} {k ch : Nat}
  {energy : List Byte} {point : Nat} (eb : (s.part q).binding = some b)
  (eo : (s.part q).offers.find? (fun o => o.pool == pool && o.staged && o.energy.isSome) = some o)
  (ee : o.energy = some (energy, point)) (ep : b.poolList.find? (fun x => x.1 == pool) = some (k, e, ch))
  (runs : ((s.part q).ring (b.poolRing e)).stopped = false)
include eb eo ee ep runs

theorem exec_poolOffer_good (clean : s.dramErr = []) : exec (.poolOffer q pool) s = .next
    (match s.offerOutcome e o.sweep energy point with
      | some (l, st) => ((s.poolTaken q e l st).count (Reg.prtPoolstat q) 47 24 1).offerGone q e o
      | none => s.offerGone q e o) := by
  have read (l : List (Nat × Nat)) : l.foldl (fun (t : State) x => t.dramRead q x.1 x.2) s = s := by
    induction l with
    | nil => rfl
    | cons x l ih => rw [List.foldl_cons, dramRead_good clean, ih]
  have good : (s.offerReads e).any (fun x => (s.dramUe x.1 x.2).isSome) = false :=
    List.any_eq_false.mpr fun x _ => by simp [dramUe_none clean]
  rw [show exec (.poolOffer q pool) s = execPoolOffer q pool s from rfl, execPoolOffer]
  simp only [eb, eo, ep, ee, runs, read, good, Bool.false_eq_true, if_false]
  cases s.offerOutcome e o.sweep energy point <;> rfl

theorem exec_poolOffer_ue (bad : ∃ x ∈ s.offerReads e, (s.dramUe x.1 x.2).isSome = true) : exec (.poolOffer q pool) s =
    .next (((s.offerReads e).foldl (fun (t : State) x => t.dramRead q x.1 x.2) s).stopRing q (b.poolRing e)) := by
  have met : (s.offerReads e).any (fun x => (s.dramUe x.1 x.2).isSome) = true := List.any_eq_true.mpr bad
  rw [show exec (.poolOffer q pool) s = execPoolOffer q pool s from rfl, execPoolOffer]
  simp only [eb, eo, ep, ee, runs, met, Bool.false_eq_true, if_false, if_true]

end

theorem frame_stopRing (s : State) (q ring : Nat) : Frame [.parts] [] s (s.stopRing q ring) := frame_updPart ..

theorem keepsParts_stopRing (s : State) (q ring : Nat) : KeepsParts [q] s (s.stopRing q ring) :=
  keepsParts_updPart s q _

/-- A stopped ring stands stopped, and the offers stay. -/
theorem part_stopRing (s : State) (q ring : Nat) :
    (((s.stopRing q ring).part q).ring ring).stopped = true ∧ ((s.stopRing q ring).part q).offers = (s.part q).offers := by
  rw [State.stopRing, State.part_updPart_self]
  refine ⟨?_, rfl⟩
  have own := Table.look_put_self (fun _ => ({} : RingRun)) (s.part q).rings ring
    { (s.part q).ring ring with stopped := true }
  exact congrArg RingRun.stopped own

/-- Settles O18: an offer that the pool takes, one that it does not take, and one that meets an uncorrectable access. -/
theorem poolOffersInsert : Obligations.PoolOffersInsert := by
  refine fun q pool s b o e k ch energy point eb eo ee ep runs => ⟨fun clean => ?_, fun bad => ?_⟩
  · have run := exec_poolOffer_good eb eo ee ep runs clean
    cases outcome : s.offerOutcome e o.sweep energy point with
    | none =>
      rw [outcome] at run
      obtain ⟨offers, header, count, taken, bytes, frame⟩ := offerGone_spec clean q e o
      exact ⟨_, run, offers, header, count, fun _ => ⟨taken, bytes⟩, nofun, frame.regs, frame.pieces⟩
    | some r =>
      obtain ⟨l, st⟩ := r
      rw [outcome] at run
      obtain ⟨stores, entries, number, staging, stored, same, kept⟩ := poolTaken_spec clean q e l st
      have counted := frame_count (s.poolTaken q e l st) (Reg.prtPoolstat q) 47 24 1
      have mem : ((s.poolTaken q e l st).count (Reg.prtPoolstat q) 47 24 1).mem = (s.poolTaken q e l st).mem :=
        counted.pieces .mem (by decide)
      have good : ((s.poolTaken q e l st).count (Reg.prtPoolstat q) 47 24 1).dramErr = [] :=
        (counted.pieces .dramErr (by decide)).trans (stores.good clean)
      obtain ⟨c, j, noted⟩ := stores.notes q
      obtain ⟨offers, header, count, taken, bytes, frame⟩ :=
        offerGone_spec good q e o
      have rd {a n : Nat} (apart : a + n ≤ e.base + 0x10 ∨ e.base + 0x14 ≤ a) :
          State.rd _ a n = (s.poolTaken q e l st).rd a n := (bytes.rd (by omega)).trans (rd_of_mem mem a n)
      have rdN {a n : Nat} (apart : a + n ≤ e.base + 0x10 ∨ e.base + 0x14 ≤ a) :
          State.rdN _ a n = (s.poolTaken q e l st).rdN a n := congrArg leNat (rd apart)
      have before : Frame [.regs, .mem, .parts, .rings, .descs] (Reg.prtPoolstat q :: hostRegs) s
        ((s.poolTaken q e l st).count (Reg.prtPoolstat q) 47 24 1) := counted.after stores.frame.mono
      have all := before.trans frame
      refine ⟨_, run, ?_, ?_, ?_, nofun, ?_, all.regs, all.pieces⟩
      · rw [offers, part_through counted.pieces, noted]
      · rw [header, State.rdN, rd_of_mem mem]
        exact congrArg (fun n => (n + 1) % 2 ^ 32) same
      · rw [count, rf_count_apart _ _ _ (by decide) (by decide) (by decide), stores.frame.rf (by simp)]
      · rintro l' st' ⟨⟩
        refine ⟨?_, fun i x at_ => ?_, (rdN (by omega)).trans number, (rdN (by omega)).trans staging,
          (rdN (by omega)).trans stored, ?_⟩
        · rw [taken, rf_count_self _ _ _ (by decide) (by decide), stores.frame.rf (by simp)]
        · exact (rd (by simp only [PoolEntry.entryAt]; omega)).trans (entries i x at_)
        · exact (kept.trans (.of_mem _ _ mem)).trans (bytes.widen (by omega) (by omega))
  · have run := exec_poolOffer_ue eb eo ee ep runs bad
    have read : Frame [.regs, .flt] dramRegs s ((s.offerReads e).foldl (fun (t : State) x => t.dramRead q x.1 x.2) s) :=
      .foldl (fun _ _ => frame_dramRead ..) _ s
    obtain ⟨stopped, offers⟩ := part_stopRing ((s.offerReads e).foldl (fun (t : State) x => t.dramRead q x.1 x.2) s) q
      (b.poolRing e)
    have all := (frame_stopRing _ q (b.poolRing e)).after (ps := [.regs, .parts, .flt]) (rs := dramRegs) read.mono
    refine ⟨_, run, stopped, ?_, ?_, all.regs, all.pieces⟩
    · rw [offers, part_through read.pieces]
    · exact ((KeepsParts.refl [q.val] s).through read.pieces).trans (keepsParts_stopRing _ _ _)

end Sys2Proof.Machine
end

section
/-! PROOFS. The sweep boundary: a core that a partition's rectangle names twice. -/

namespace Sys2Proof.Machine

open Sys2Proof

-- One theorem after another: many at once would need too many threads.
set_option Elab.async false

/-! ## Why the boundary's statement fails: a core that a partition's rectangle names twice

A partition that is wider than the array from its first column on names the cores at its right edge again in the next row, and
β is then written twice into their identity registers. Where the table of a core's identity registers does not stand in rising
order, the second write moves its entries, so that the table is not what one write gives. -/

namespace TwiceNamed

/-- Controller tables with one chain, id 0, on a schedule of one segment that starts at sweep 0; the first decision is at
sweep 1. -/
def tables : List Byte :=
  [0, 0, 0, 0, 1, 0, 0, 0, 0, 0, 0, 0, 1, 0, 0, 0, 1] ++ zeros 2351 ++
    [0, 0, 0, 0, 0, 0, 0, 0, 0xFF, 0xFF, 0, 0, 0, 0, 0, 0] ++ [0, 0, 1, 0]

/-- Identity registers 3 and 5 of chain 0 and 1 of chain 1, out of order. -/
def ids : Table IdReg := [(3, { unit := 1 }), (5, { unit := 1 }), (1, { chain := 1 })]

/-- The cores of the rectangle of one row of nine quires: core 128 stands in it twice. -/
def cores : List Nat := (List.range 8).flatMap (fun i => (List.range 144).map (fun j => (0 / 8 * 8 + i) * 128 + 0 % 8 * 16 + j))

/-- The barrier of a sweep end at which every core has arrived. -/
def barrier : BarrierWait := { sweepEnd := true, hall := false, arrived := cores, lastTick := 0 }

/-- The loaded Binding. -/
def binding : Binding :=
  { digest := [], flags := 0, chains := 1, regions := [], plans := [], rings := [], control := some tables, results := none
    ranges := [], weights := [] }

/-- The partition at its boundary. -/
def partition : Partition :=
  { run := .running, qrows := 1, qcols := 9, tick := 20, barrier := some barrier, binding := some binding }

/-- The state. -/
def state : State := { State.reset with parts := [(0, partition)], cores := [(128, { live := { ids := ids } })] }

theorem part_state : state.part 0 = partition := rfl

theorem count_cores : cores.count 128 = 2 := by decide +kernel

theorem chains_tables : Ctl.chains tables = 1 := by decide +kernel
theorem chain_tables : Ctl.chain tables 0 = ⟨0, 0, 0, false, 0xFFFF⟩ := by decide +kernel
theorem event_tables : Ctl.event tables 0 = none := by decide +kernel
theorem schedule_tables : Ctl.schedule tables 0 = [⟨0, 0, 0, 0⟩] := by decide +kernel

theorem beta_segment : Segment.beta ⟨0, 0, 0, 0⟩ 1 = 0 := by decide +kernel

theorem betasFor_tables (rungs : List (List Nat)) : betasFor tables rungs 1 = [(0, some 0)] := by
  simp [betasFor, chains_tables, chain_tables, schedule_tables, scheduleBeta]
  exact beta_segment

theorem readChains_tables : Ctl.readChains tables = [] := by
  simp [Ctl.readChains, chains_tables, chain_tables]

theorem poolList_binding : binding.poolList = [] := by
  have pools : Ctl.pools tables = 0 := by decide +kernel
  simp [Binding.poolList, binding, pools]

/-- The set-up registers are not read where the schedule gives a β. -/
theorem writeBetas_setup (f g : Nat → U32) (t : Table IdReg) :
    writeBetas [(0, some 0)] f t = writeBetas [(0, some 0)] g t := by
  unfold writeBetas
  congr 1
  funext t k
  dsimp only
  rw [List.find?_cons, List.find?_nil]
  cases 0 == (Table.look (fun _ => ({} : IdReg)) t k).chain.toNat <;> rfl

/-- Two writes of β leave the registers out of the order that one leaves them in. -/
theorem writeBetas_twice (setup : Nat → U32) : writeBetas [(0, some 0)] setup (writeBetas [(0, some 0)] setup ids) ≠
    writeBetas [(0, some 0)] setup ids := by
  have moved : writeBetas [(0, some 0)] (fun _ => 0) (writeBetas [(0, some 0)] (fun _ => 0) ids) ≠
    writeBetas [(0, some 0)] (fun _ => 0) ids := by decide +kernel
  rwa [writeBetas_setup setup (fun _ => 0), writeBetas_setup setup (fun _ => 0)]

end TwiceNamed

/-- A core that a list names several times is changed as often. -/
theorem core_foldl_updCore_count (f : Nat → CoreState → CoreState) (l : List Nat) (s : State) (n : Nat) :
    (l.foldl (fun t m => t.updCore m (f m)) s).core n = (f n)^[l.count n] (s.core n) := by
  induction l generalizing s with
  | nil => rfl
  | cons m l ih =>
    rw [List.foldl_cons, ih]
    by_cases own : m = n
    · subst own
      rw [State.core_updCore_self, List.count_cons_self, Function.iterate_succ_apply]
    · rw [State.core_updCore_other _ _ (Ne.symm own), List.count_cons_of_ne own]

/-- A core as β is written into its identity registers, live and for the next tick. -/
def CoreState.withBetas (bs : List (Nat × Option U32)) (setup : Nat → U32) (k : CoreState) : CoreState :=
  { k with live := { k.live with ids := writeBetas bs setup k.live.ids }
           next := { k.next with ids := writeBetas bs setup k.next.ids } }

theorem setupId_of_regs {s u : State} (regs : u.regs = s.regs) (n k : Nat) : u.setupId n k = s.setupId n k := by
  simp only [State.setupId, State.rf, State.reg_of_regs regs]

theorem setLive_betas {s u : State} (regs : u.regs = s.regs) (bs : List (Nat × Option U32)) (n : Nat) :
    u.setLive n (fun l => { l with ids := writeBetas bs (fun k => (u.setupId n k).beta) l.ids }) =
      u.updCore n (CoreState.withBetas bs (fun k => (s.setupId n k).beta)) := by
  rw [show (fun k => (u.setupId n k).beta) = (fun k => (s.setupId n k).beta) from
    funext fun k => congrArg IdReg.beta (setupId_of_regs regs n k)]
  rfl

/-- Two folds whose steps agree wherever the second one passes. -/
theorem foldl_congr_of {α β : Type} {P : β → Prop} {f g : β → α → β} (same : ∀ t a, P t → f t a = g t a)
    (keep : ∀ t a, P t → P (g t a)) (l : List α) {u : β} (h : P u) : l.foldl f u = l.foldl g u := by
  induction l generalizing u with
  | nil => rfl
  | cons a l ih =>
    rw [List.foldl_cons, List.foldl_cons, same u a h]
    exact ih (keep u a h)

/-- β is written into every core of the partition, from the set-up registers as they stood before. -/
theorem setBetas_eq (s : State) (q : Nat) (bs : List (Nat × Option U32)) : s.setBetas q bs =
    (s.partCores q).foldl (fun t n => t.updCore n (CoreState.withBetas bs (fun k => (s.setupId n k).beta))) s :=
  foldl_congr_of (P := fun t : State => t.regs = s.regs)
    (g := fun (t : State) n => t.updCore n (CoreState.withBetas bs (fun k => (s.setupId n k).beta)))
    (fun _ n regs => setLive_betas regs bs n) (fun _ _ regs => regs) (s.partCores q) rfl

/-- The boundary's decision at a sweep that is not one of decisions: β alone is written. -/
theorem takeDecisions_none {s : State} {q : Nat} {c : Ctl} (none : c.event (s.part q).sweep = none)
    (energy : Nat → List Byte) : s.takeDecisions q c energy =
      s.setBetas q (betasFor c (s.part q).ctl.rungs ((s.part q).sweep + 1)) := by
  rw [State.takeDecisions]
  simp only [none]

/-- The partition as its boundary begins, before the sweep is counted. -/
def Partition.opened (p : Partition) : Partition := match p.binding with | some bd => p.openOffers bd p.sweep | none => p

/-- The partition as its boundary begins. -/
def Partition.atBoundary (p : Partition) (b : BarrierWait) : Partition :=
  { p.opened with
    job := p.opened.job.map (fun j => { j with taken := j.taken + 1 }), barrier := some { b with decided := true } }

/-- A boundary whose controller reads no chain's energy. -/
theorem exec_sweepBoundary_silent {q : QuireId} {s : State} {b : BarrierWait} {c : Ctl} {bd : Binding}
    (waits : (s.part q).barrier = some b) (sweep : b.sweepEnd = true) (new : b.decided = false)
    (run : (s.part q).run = .running) (goes : (s.part q).stopped = false) (all : s.allArrived q b = true)
    (due : b.lastTick + 20 ≤ (s.part q).tick) (tables : (s.part q).tables? = some c) (binding : (s.part q).binding = some bd)
    (silent : c.readChains = []) : exec (.sweepBoundary q) s =
      .next ((s.updPart q (fun p => p.atBoundary b)).takeDecisions q c
        (fun i => (s.updPart q (fun p => p.atBoundary b)).rd (bufferBase (bd.mailboxAt c i).1 + (bd.mailboxAt c i).2) 16)) := by
  have may : ((s.part q).run = .running && b.sweepEnd && !b.decided && s.allArrived q b &&
      b.lastTick + 20 ≤ (s.part q).tick && !(s.part q).stopped) = true := by simp [run, sweep, new, all, due, goes]
  rw [show exec (.sweepBoundary q) s = execSweepBoundary q s from rfl, execSweepBoundary]
  rw [waits]
  refine (if_pos may).trans ?_
  extract_lets u
  have begun : s.updPart q (fun p => p.atBoundary b) = u := rfl
  rw [begun, tables, binding]
  simp only [silent, List.map_nil, List.find?_nil, List.foldl_nil]

namespace TwiceNamed

/-- The state as its boundary begins. -/
def begun : State := state.updPart 0 (fun p => p.atBoundary barrier)

theorem part_begun : begun.part 0 = { partition with barrier := some { barrier with decided := true } } := by
  have opened : partition.opened = partition := by
    rw [Partition.opened]
    exact congrArg (fun l : List (Nat × PoolEntry × Nat) => (l.filter _).foldl _ partition) poolList_binding
  rw [begun, State.part_updPart_self, part_state, Partition.atBoundary, opened]
  rfl

/-- The identity registers of core 128 after the boundary. -/
theorem ids_core {t : State} {energy : Nat → List Byte} (h : t = begun.takeDecisions 0 tables energy) : ∃ setup,
    (t.core 128).live.ids = writeBetas [(0, some 0)] setup (writeBetas [(0, some 0)] setup ids) := by
  have sweep : (begun.part 0).sweep = 0 := by rw [part_begun]; rfl
  have rectangle : begun.partCores 0 = cores := by rw [State.partCores, part_begun]; rfl
  have silent : Ctl.event tables (begun.part 0).sweep = none := by rw [sweep]; exact event_tables
  rw [takeDecisions_none silent, sweep, Nat.zero_add, betasFor_tables, setBetas_eq, rectangle] at h
  have core : (begun.core 128).live.ids = ids := rfl
  have twice (bs : List (Nat × Option U32)) (setup : Nat → U32) (k : CoreState) :
      ((CoreState.withBetas bs setup)^[2] k).live.ids = writeBetas bs setup (writeBetas bs setup k.live.ids) := rfl
  rw [h, core_foldl_updCore_count, count_cores, twice, core]
  exact ⟨_, rfl⟩

theorem partCores_state : state.partCores 0 = cores := by rw [State.partCores, part_state]; rfl

theorem allArrived_state : state.allArrived 0 barrier = true := by
  rw [State.allArrived, partCores_state]
  exact List.all_eq_true.mpr fun n hn => decide_eq_true hn

theorem ids_state : (state.core 128).live.ids = ids := rfl

/-- The state meets what the boundary's statement asks. -/
theorem boundary_state : (state.part 0).barrier = some barrier ∧ (state.part 0).run = .running ∧
    (state.part 0).stopped = false ∧ barrier.lastTick + 20 ≤ (state.part 0).tick ∧ (state.part 0).tables? = some tables ∧
    (state.part 0).binding = some binding ∧ state.sramGood := by
  rw [part_state]
  exact ⟨rfl, rfl, rfl, Nat.le_refl 20, rfl, rfl, fun _ => rfl⟩

/-- What is shown of the state: its boundary is due, core 128 is among its cores, and its registers are written twice. -/
structure Doubles (s : State) : Prop where
  waits   : (s.part 0).barrier = some barrier
  run     : (s.part 0).run = .running
  goes    : (s.part 0).stopped = false
  due     : barrier.lastTick + 20 ≤ (s.part 0).tick
  tables  : (s.part 0).tables? = some tables
  binding : (s.part 0).binding = some binding
  good    : s.sramGood
  all     : s.allArrived 0 barrier = true
  named   : 128 ∈ s.partCores 0
  sweep   : (s.part 0).sweep + 1 = 1
  ids     : (s.core 128).live.ids = ids
  twice   : ∀ t energy, t = (s.updPart 0 (fun p => p.atBoundary barrier)).takeDecisions 0 TwiceNamed.tables energy →
    ∃ setup, (t.core 128).live.ids = writeBetas [(0, some 0)] setup (writeBetas [(0, some 0)] setup TwiceNamed.ids)

theorem doubles_state : Doubles state := by
  obtain ⟨waits, run, goes, due, tables, binding, good⟩ := boundary_state
  refine ⟨waits, run, goes, due, tables, binding, good, allArrived_state, ?_, ?_, ids_state, fun _ _ => ids_core⟩
  · rw [partCores_state]
    exact List.count_pos_iff.mp (by rw [count_cores]; decide)
  · rw [part_state]
    rfl

/-- No state in which the boundary writes twice agrees with the statement. -/
theorem not_doubles (h : Obligations.SweepBoundaryDecides) {s : State} (d : Doubles s) : False := by
  have answer := exec_sweepBoundary_silent (q := 0) d.waits rfl rfl d.run d.goes d.all d.due d.tables d.binding readChains_tables
  obtain ⟨t, claimed, -, -, -, -, -, -, -, ids, -⟩ := (h 0 s barrier tables binding d.waits rfl rfl d.run d.goes d.all d.due
    d.tables d.binding).1 d.good _ _ rfl rfl
  obtain ⟨setup, twice⟩ := d.twice _ _ (Host.Outcome.next.inj (claimed.symm.trans answer))
  have once : (t.core 128).live.ids = writeBetas (betasFor tables (t.part 0).ctl.rungs ((s.part 0).sweep + 1))
    (fun k => (s.setupId 128 k).beta) (s.core 128).live.ids := ids 128 d.named
  refine writeBetas_twice setup (twice.symm.trans (once.trans ?_))
  rw [d.ids, d.sweep, betasFor_tables, writeBetas_setup _ setup]

end TwiceNamed

/-- Refutes O17: at a boundary of the partition that names core 128 twice β is written twice into that core. -/
theorem not_sweepBoundaryDecides : ¬ Obligations.SweepBoundaryDecides := fun h =>
  TwiceNamed.not_doubles h TwiceNamed.doubles_state

end Sys2Proof.Machine
end

section
/-! PROOFS. Words at the array's edge, and the stream engines. -/

namespace Sys2Proof.Machine

open Sys2Proof

-- One theorem after another: many at once would need too many threads.
set_option Elab.async false

/-! ## Refused accesses of an edge buffer (R159) -/

theorem edgeCode_lt (ed : Edge) : ed.code < 4 := by cases ed <;> decide

/-- The owner of a byte of a buffer hangs on the region registers alone. -/
theorem bufferTag_of_regs {b : Nat} {s t : State} (real : b < 4) (h : KeepsRegs faultRegs s t) (off : Nat) :
    t.bufferTag b off = s.bufferTag b off := by
  have reg (k : Nat) (hk : k ∈ List.range 32) : t.regionReg b k = s.regionReg b k := by
    have := List.mem_range.mp hk
    refine h _ fun own => ?_
    have e : 0x82000 + (b * 32 + k) * 8 = 0x190028 := List.mem_singleton.mp own
    omega
  have found : (List.range 32).find? (fun k => regionCovers (t.regionReg b k) (off / 0x10000)) =
      (List.range 32).find? (fun k => regionCovers (s.regionReg b k) (off / 0x10000)) :=
    List.find?_congr fun k hk => by rw [reg k hk]
  rw [State.bufferTag, State.bufferTag, found]
  split
  next k hk => rw [reg k (List.mem_of_find?_eq_some hk)]
  · rfl

/-- The buffer's message of a refused access, once in the cycle. -/
def State.noteRefused (s : State) (b router off : Nat) : State :=
  if b ∈ s.edge.refused then s else
    { s.reportBuffer b 0x32 router off with edge := { s.edge with refused := b :: s.edge.refused } }

theorem frame_noteRefused (s : State) (b router off : Nat) :
    Frame [.regs, .edge, .flt] faultRegs s (s.noteRefused b router off) := by
  unfold State.noteRefused
  have sent := (frame_report s (blockSrc 1 b) 0x32 router (s.bufferTag b off)).mono (ps := [.regs, .edge, .flt]) (rs := faultRegs)
  exact .ite (.refl ..) ((Frame.of_within (within_edge (s := s.reportBuffer b 0x32 router off) _)).after sent)

theorem edge_noteRefused (s : State) (b router off : Nat) :
    ∃ l, (s.noteRefused b router off).edge = { s.edge with refused := l } ∧ b ∈ l := by
  unfold State.noteRefused
  split
  next h => exact ⟨s.edge.refused, rfl, h⟩
  · exact ⟨_, rfl, List.mem_cons_self ..⟩

section
variable {b : Nat} (real : b < 4) (router off : Nat) (s : State)
include real

theorem refuse_eq : s.refuse b router off = if s.bufferTag b off < 96 then
    (s.noteRefused b router off).updPart (s.bufferTag b off) (fun p => { p with faulted := true })
    else s.noteRefused b router off := by
  rw [← bufferTag_of_regs real (frame_noteRefused s b router off).regs off]
  rfl

theorem frame_refuse : Frame [.regs, .parts, .edge, .flt] faultRegs s (s.refuse b router off) := by
  rw [refuse_eq real]
  have note := (frame_noteRefused s b router off).mono (ps := [.regs, .parts, .edge, .flt]) (rs := faultRegs)
  exact .ite ((frame_updPart ..).after note) note

theorem edge_refuse : ∃ l, (s.refuse b router off).edge = { s.edge with refused := l } ∧ b ∈ l := by
  rw [refuse_eq real]
  obtain ⟨l, e, m⟩ := edge_noteRefused s b router off
  refine ⟨l, ?_, m⟩
  split
  · exact e
  · exact e

theorem words_refuse : (s.refuse b router off).edge.reads = s.edge.reads ∧ (s.refuse b router off).edge.writes = s.edge.writes := by
  obtain ⟨l, e, _⟩ := edge_refuse real router off s
  rw [e]
  exact ⟨rfl, rfl⟩

theorem keepsParts_refuse : KeepsParts [s.bufferTag b off] s (s.refuse b router off) := by
  rw [refuse_eq real]
  have note := (frame_noteRefused s b router off).pieces.keepsParts (by decide) [s.bufferTag b off]
  split
  · exact note.trans (keepsParts_updPart _ _ _)
  · exact note

theorem part_refuse (q : Nat) : ∃ f, (s.refuse b router off).part q = { s.part q with faulted := f } := by
  rw [refuse_eq real]
  have note := part_through (frame_noteRefused s b router off).pieces q
  split
  · by_cases own : q = s.bufferTag b off
    · rw [own, State.part_updPart_self, ← own, note]
      exact ⟨true, rfl⟩
    · rw [State.part_updPart_other _ _ own, note]
      exact ⟨_, rfl⟩
  · exact ⟨_, note⟩

theorem refuses_refuse : Refuses b router off s (s.refuse b router off) := by
  obtain ⟨l, e, m⟩ := edge_refuse real router off s
  refine ⟨by rw [e]; exact m, fun new => ?_, fun old => ?_, fun owned => ?_⟩
  · refine fun room x hx => ?_
    have sent := reports_report s (blockSrc 1 b) 0x32 router (s.bufferTag b off) room x hx
    rw [refuse_eq real, State.noteRefused, if_neg new]
    split
    · exact sent
    · exact sent
  · rw [refuse_eq real, State.noteRefused, if_pos old]
    split
    · rfl
    · rfl
  · rw [refuse_eq real, if_pos owned, State.part_updPart_self]

end

/-- A refusal, with what leaves the collector, the clocks and the region registers before it, and what leaves the refused
buffers, the collector and the partitions after it. -/
theorem Refuses.between {b router off : Nat} {s t u v : State} (h : Refuses b router off t u) (edge : t.edge = s.edge)
    (flt : t.flt = s.flt) (clk : t.clk = s.clk) (tag : t.bufferTag b off = s.bufferTag b off)
    (refused : v.edge.refused = u.edge.refused) (flt' : v.flt = u.flt) (parts : v.parts = u.parts) :
    Refuses b router off s v := by
  obtain ⟨marked, sent, still, faulted⟩ := h
  rw [edge, tag] at *
  refine ⟨refused ▸ marked, fun new room x hx => ?_, fun old => ?_, fun owned => ?_⟩
  · rw [flt']
    exact (sent new).after flt clk room x hx
  · rw [flt', still old, flt]
  · rw [part_of_parts parts]
    exact faulted owned

/-! ## Reads and writes of a buffer -/

theorem frame_reportBuffer (s : State) (b kind addr off : Nat) :
    Frame [.regs, .flt] faultRegs s (s.reportBuffer b kind addr off) := frame_report ..

/-- A buffer's read: its bytes, the granule of a double-bit error, and the state with the messages of both kinds. -/
theorem bufferRead_spec (s : State) (b off n : Nat) : ∃ u, Frame [.regs, .flt] faultRegs s u ∧
    s.bufferRead b off n =
      ((s.sramUe (bufferBase b + off) n).map (fun g => g * 8 - bufferBase b), s.rd (bufferBase b + off) n, u) := by
  unfold State.bufferRead
  extract_lets a s1
  have corrected : Frame [.regs, .flt] faultRegs s s1 := .foldl (fun t g => frame_reportBuffer t ..) _ s
  clear_value s1
  cases s.sramUe a n with
  | none => exact ⟨s1, corrected, rfl⟩
  | some g => exact ⟨_, corrected.trans (frame_reportBuffer s1 b 0x11 (g * 8 - bufferBase b) off), rfl⟩

theorem bufferRead_clean {s : State} {b off n : Nat} (clean : s.cleanAt (bufferBase b + off) n) :
    s.bufferRead b off n = (none, s.rd (bufferBase b + off) n, s) := by
  rw [State.bufferRead, sramUe_clean clean, sramCe_clean clean]
  rfl

theorem bufferWrite_clean {s : State} {b off : Nat} {bs : List Byte} (clean : s.cleanAt (bufferBase b + off) bs.length) :
    s.bufferWrite b off bs =
      (s.wr (bufferBase b + off) bs).clearGranules (granules (bufferBase b + off) bs.length) := by
  unfold State.bufferWrite
  extract_lets a len parts
  have none : parts.find? (fun g => Table.look (fun _ => 0) s.sramErr g == 2) = none := by
    rw [List.find?_eq_none]
    intro g hg
    simp [clean g (List.mem_filter.mp hg).1]
  rw [none]

/-! ## Words at the array edge -/

theorem ring_updRing_self (p : Partition) (r : Nat) (f : RingRun → RingRun) : (p.updRing r f).ring r = f (p.ring r) :=
  Table.look_put_self ..

/-- A delivered word waits for its tick at the attached core, and nothing else has changed. -/
theorem core_deliverWord (s : State) (ed : Edge) (r tick : Nat) (x : LinkWord) :
    (s.deliverWord ed r tick x).core (routerCore ed r) =
      { s.core (routerCore ed r) with arriving := (s.core (routerCore ed r)).arriving ++ [⟨tick + 2, ed.dir, x⟩] } :=
  State.core_updCore_self ..

theorem frame_deliverWord (s : State) (ed : Edge) (r tick : Nat) (x : LinkWord) :
    Frame [.cores] [] s (s.deliverWord ed r tick x) := frame_updCore ..

theorem keepsCores_deliverWord (s : State) (ed : Edge) (r tick : Nat) (x : LinkWord) :
    KeepsCores [routerCore ed r] s (s.deliverWord ed r tick x) := keepsCores_updCore _ _ _

/-- A word delivered in a state whose cores are those of another. -/
theorem deliverWord_from {s u : State} (cores : u.cores = s.cores) (ed : Edge) (r tick : Nat) (x : LinkWord) :
    (u.deliverWord ed r tick x).core (routerCore ed r) =
      { s.core (routerCore ed r) with arriving := (s.core (routerCore ed r)).arriving ++ [⟨tick + 2, ed.dir, x⟩] } ∧
    KeepsCores [routerCore ed r] s (u.deliverWord ed r tick x) :=
  ⟨by rw [core_deliverWord, core_of_cores cores],
    (show KeepsCores [routerCore ed r] s u from fun n _ => core_of_cores cores n).trans (keepsCores_deliverWord _ _ _ _ _)⟩

/-- A ring of a partition gives n bytes to a deliver entry. -/
def State.takeRing (s : State) (q : Nat) (ring : Option Nat) (n : Nat) : State :=
  match ring with
  | some r => s.updPart q (fun p => p.updRing r (fun x => { x with fill := x.fill - n, used := x.used + n }))
  | none => s

theorem frame_takeRing (s : State) (q : Nat) (ring : Option Nat) (n : Nat) : Frame [.parts] [] s (s.takeRing q ring n) := by
  cases ring with
  | none => exact .refl _ _ _
  | some r => exact frame_updPart s q (fun p => p.updRing r (fun x => { x with fill := x.fill - n, used := x.used + n }))

theorem keepsParts_takeRing (s : State) (q : Nat) (ring : Option Nat) (n : Nat) : KeepsParts [q] s (s.takeRing q ring n) := by
  cases ring with
  | none => exact .refl _ _
  | some r => exact keepsParts_updPart s q (fun p => p.updRing r (fun x => { x with fill := x.fill - n, used := x.used + n }))

/-- Whether a ring holds fewer than n bytes. -/
def Partition.ringShort (p : Partition) (ring : Option Nat) (n : Nat) : Bool :=
  match ring with
  | some r => decide ((p.ring r).fill < n)
  | none => false

theorem ringShort_false {p : Partition} {ring : Option Nat} {n : Nat} (h : ∀ r, ring = some r → n ≤ (p.ring r).fill) :
    p.ringShort ring n = false := by
  cases ring with
  | none => rfl
  | some r => exact decide_eq_false (Nat.not_lt.mpr (h r rfl))

theorem ringShort_true {p : Partition} {ring : Option Nat} {n r : Nat} (own : ring = some r) (few : (p.ring r).fill < n) :
    p.ringShort ring n = true := by
  rw [own]
  exact decide_eq_true few

theorem planRead_eq (s : State) (q b off n router : Nat) :
    s.planRead q b off n router =
      (let u := s.takeRing q ((s.part q).ringAt b off n 0) n
       let short := (s.part q).ringShort ((s.part q).ringAt b off n 0) n
       let v := if short then u.refuse b router off else u
       let rd := v.bufferRead b off n
       let mark : Option Byte := if rd.1.isSome then some 0x11 else if short then some 0x32 else none
       (⟨padTo 64 (if mark.isSome then [] else rd.2.1), n, mark⟩, rd.2.2)) := rfl

theorem padTo_nil (n : Nat) : padTo n [] = zeros n := by simp [padTo, zeros]

/-- A word read for a deliver entry, from a ring that holds its bytes or from none (R157). -/
theorem planRead_full {s : State} {q b off n : Nat} (router : Nat)
    (full : ∀ r, (s.part q).ringAt b off n 0 = some r → n ≤ ((s.part q).ring r).fill) :
    ∃ u, Frame [.regs, .flt] faultRegs (s.takeRing q ((s.part q).ringAt b off n 0) n) u ∧
      (s.cleanAt (bufferBase b + off) n → u = s.takeRing q ((s.part q).ringAt b off n 0) n) ∧
      s.planRead q b off n router =
        (if (s.sramUe (bufferBase b + off) n).isSome then ⟨zeros 64, n, some 0x11⟩
          else ⟨padTo 64 (s.rd (bufferBase b + off) n), n, none⟩, u) := by
  rw [planRead_eq]
  extract_lets u short v rd mark
  have enough : short = false := ringShort_false full
  have same : v = u := if_neg (by simp [enough])
  have errs : u.sramErr = s.sramErr := (frame_takeRing ..).pieces .sramErr (by decide)
  have bytes : u.mem = s.mem := (frame_takeRing ..).pieces .mem (by decide)
  have ue : u.sramUe (bufferBase b + off) n = s.sramUe (bufferBase b + off) n := by rw [State.sramUe, State.sramUe, errs]
  obtain ⟨w, frame, read⟩ := bufferRead_spec u b off n
  have shown : rd = ((s.sramUe (bufferBase b + off) n).map (fun g => g * 8 - bufferBase b), s.rd (bufferBase b + off) n, w) := by
    rw [← ue, ← rd_of_mem bytes]
    exact same ▸ read
  have taken : u = s.takeRing q ((s.part q).ringAt b off n 0) n := rfl
  clear_value u
  refine ⟨w, taken ▸ frame, fun clean => ?_, ?_⟩
  · have quiet := bufferRead_clean (s := u) (b := b) (off := off) (n := n) (fun g hg => by rw [errs]; exact clean g hg)
    rw [quiet] at read
    exact (Prod.mk.inj (Prod.mk.inj read).2).2.symm.trans taken
  · have marked : mark = if rd.1.isSome then some 0x11 else if short then some 0x32 else none := rfl
    clear_value mark rd short
    subst shown marked enough
    cases s.sramUe (bufferBase b + off) n with
    | none => rfl
    | some g => simp [padTo_nil]

/-- A word that its ring does not hold (R159, R443). -/
theorem planRead_short {s : State} {q b off n r : Nat} (router : Nat) (own : (s.part q).ringAt b off n 0 = some r)
    (few : ((s.part q).ring r).fill < n) (clean : s.cleanAt (bufferBase b + off) n) (real : b < 4) :
    s.planRead q b off n router = (⟨zeros 64, n, some 0x32⟩, (s.takeRing q (some r) n).refuse b router off) := by
  rw [planRead_eq]
  extract_lets u short v rd mark
  have lacks : short = true := ringShort_true own few
  have same : v = u.refuse b router off := if_pos lacks
  have errs : v.sramErr = s.sramErr := by
    rw [same]
    exact ((frame_refuse real router off u).pieces .sramErr (by decide)).trans ((frame_takeRing ..).pieces .sramErr (by decide))
  have read : rd = (none, v.rd (bufferBase b + off) n, v) :=
    bufferRead_clean (fun g hg => by rw [errs]; exact clean g hg)
  have marked : mark = if rd.1.isSome then some 0x11 else if short then some 0x32 else none := rfl
  have ring : u = s.takeRing q (some r) n := congrArg (s.takeRing q · n) own
  clear_value mark rd short v u
  subst read marked lacks same ring
  simp [padTo_nil]

/-- The state of a read that is served: what the buffer has read in the cycle. -/
def State.noteRead (s : State) (x : EdgeRead) : State := { s with edge := { s.edge with reads := x :: s.edge.reads } }

theorem frame_noteRead (s : State) (x : EdgeRead) : Frame [.edge] [] s (s.noteRead x) := .of_within (within_edge s _)

section
variable {q : QuireId} {ed : Edge} {router : Fin 128} {entry : Fin 256} {s : State} {en : PlanEntry} {k : Nat}

theorem planDeliver_merged {x : LinkWord} (due : s.planDue q ed router entry 0 = some (en, k))
    (served : s.edge.served ed.code (en.byteAt k / 8) en.len = some x) :
    exec (.planDeliver q ed router entry) s = .next (s.deliverWord ed router (s.part q).tick x) := by
  rw [show exec (.planDeliver q ed router entry) s = execPlanDeliver q ed router entry s from rfl, execPlanDeliver, due]
  dsimp only
  rw [served]

theorem planDeliver_refused (due : s.planDue q ed router entry 0 = some (en, k))
    (new : s.edge.served ed.code (en.byteAt k / 8) en.len = none)
    (full : 16 ≤ (s.edge.reads.filter (fun x => x.buffer == ed.code)).length) :
    exec (.planDeliver q ed router entry) s = .next ((s.refuse ed.code router (en.byteAt k)).deliverWord ed router
      (s.part q).tick ⟨zeros 64, en.bytes, some 0x32⟩) := by
  rw [show exec (.planDeliver q ed router entry) s = execPlanDeliver q ed router entry s from rfl, execPlanDeliver, due]
  dsimp only
  rw [new]
  exact if_pos full

theorem planDeliver_read {x : LinkWord} {u : State} (due : s.planDue q ed router entry 0 = some (en, k))
    (new : s.edge.served ed.code (en.byteAt k / 8) en.len = none)
    (room : (s.edge.reads.filter (fun x => x.buffer == ed.code)).length < 16)
    (read : s.planRead q ed.code (en.byteAt k) en.bytes router = (x, u)) :
    exec (.planDeliver q ed router entry) s =
      .next ((u.noteRead ⟨ed.code, en.byteAt k / 8, en.len, x⟩).deliverWord ed router (s.part q).tick x) := by
  rw [show exec (.planDeliver q ed router entry) s = execPlanDeliver q ed router entry s from rfl, execPlanDeliver, due]
  dsimp only
  rw [new, read]
  exact if_neg (Nat.not_le.mpr room)

/-- The word of a collect entry: what the core sent two ticks ago, zeros when it sent none. -/
def State.collected (s : State) (q : Nat) (ed : Edge) (router n : Nat) : List Byte :=
  match (s.part q).sentTo ed router ((s.part q).tick - 2) with
  | some x => if 2 ≤ (s.part q).tick then padTo n (x.bytes.take x.len) else zeros n
  | none => zeros n

/-- A ring takes the space of n bytes. -/
def State.roomRing (s : State) (q : Nat) (ring : Option Nat) (n : Nat) : State :=
  match ring with
  | some r => s.updPart q (fun p => p.updRing r (fun x => { x with fill := x.fill - n }))
  | none => s

/-- A write that waits for the end of the cycle. -/
def State.noteWritten (s : State) (x : EdgeWrite) : State := { s with edge := { s.edge with writes := s.edge.writes ++ [x] } }

theorem frame_noteWritten (s : State) (x : EdgeWrite) : Frame [.edge] [] s (s.noteWritten x) := .of_within (within_edge s _)

theorem frame_roomRing (s : State) (q : Nat) (ring : Option Nat) (n : Nat) : Frame [.parts] [] s (s.roomRing q ring n) := by
  cases ring with
  | none => exact .refl _ _ _
  | some r => exact frame_updPart s q (fun p => p.updRing r (fun x => { x with fill := x.fill - n }))

theorem keepsParts_roomRing (s : State) (q : Nat) (ring : Option Nat) (n : Nat) : KeepsParts [q] s (s.roomRing q ring n) := by
  cases ring with
  | none => exact .refl _ _
  | some r => exact keepsParts_updPart s q (fun p => p.updRing r (fun x => { x with fill := x.fill - n }))

theorem execPlanCollect_eq (due : s.planDue q ed router entry 1 = some (en, k)) :
    exec (.planCollect q ed router entry) s =
      (let ring := (s.part q).ringAt ed.code (en.byteAt k) en.bytes 1
       if 16 ≤ (s.edge.writes.filter (fun x => x.buffer == ed.code)).length || (s.part q).ringShort ring en.bytes then
         .next (s.refuse ed.code router (en.byteAt k))
       else .next ((s.roomRing q ring en.bytes).noteWritten ⟨ed.code, en.byteAt k, s.collected q ed router en.bytes,
         ring.map (fun r => (q.val, r))⟩)) := by
  rw [show exec (.planCollect q ed router entry) s = execPlanCollect q ed router entry s from rfl, execPlanCollect, due]
  rfl

end

/-- Settles O19: a deliver entry by what serves its read, a collect entry by whether its write is taken, and the end of a
cycle for one write. -/
theorem planWordsTransfer : Obligations.PlanWordsTransfer := by
  refine ⟨?_, ?_⟩
  · rintro q ed router entry s en k off n rfl rfl
    have real := edgeCode_lt ed
    refine ⟨?_, ?_⟩
    · rintro due land rfl
      refine ⟨fun x served => ?merged, fun new room => ⟨fun full x word => ?read, fun r own few clean => ?short⟩,
        fun new full => ?many⟩
      case merged =>
        exact ⟨_, planDeliver_merged due served, deliverWord_from rfl .., (frame_deliverWord ..).pieces⟩
      case read =>
        obtain ⟨u, frame, quiet, read⟩ := planRead_full router full
        rw [← word] at read
        have taken := (frame_takeRing s q ((s.part q).ringAt ed.code (en.byteAt k) en.bytes 0) en.bytes)
        have before : Frame [.regs, .parts, .flt] faultRegs s u := frame.after taken.mono
        have shown := (frame_deliverWord (u.noteRead ⟨ed.code, en.byteAt k / 8, en.len, x⟩) ed router (s.part q).tick x).after
          ((frame_noteRead u ⟨ed.code, en.byteAt k / 8, en.len, x⟩).mono (ps := [.cores, .edge]) (rs := []))
        have all := shown.after (before.mono (ps := [.regs, .cores, .parts, .edge, .flt]) (rs := faultRegs))
        have cores : (u.noteRead ⟨ed.code, en.byteAt k / 8, en.len, x⟩).cores = s.cores := before.pieces .cores (by decide)
        refine ⟨_, planDeliver_read due new room read, deliverWord_from cores .., ?_, fun r own => ?_, fun none => ?_,
          fun clean => ?_, ?_, all.regs, all.pieces⟩
        · exact congrArg (fun e : EdgeCycle => { e with reads := ⟨ed.code, en.byteAt k / 8, en.len, x⟩ :: e.reads })
            (before.pieces .edge (by decide))
        · rw [part_through shown.pieces, part_through frame.pieces, own]
          exact State.part_updPart_self ..
        · rw [show _ = u.parts from shown.pieces .parts (by decide), frame.pieces .parts (by decide), none]
          rfl
        · have same := quiet clean
          refine ⟨(shown.pieces .regs (by decide)).1.trans ?_, (shown.pieces .flt (by decide)).trans ?_⟩
          · rw [same]
            exact (taken.pieces .regs (by decide)).1
          · rw [same]
            exact taken.pieces .flt (by decide)
        · exact ((keepsParts_takeRing _ _ _ _).through frame.pieces).through shown.pieces
      case short =>
        have read := planRead_short router own few clean real
        obtain ⟨u, e⟩ : ∃ u, s.takeRing q (some r) en.bytes = u := ⟨_, rfl⟩
        have taken : Frame [.parts] [] s u := e ▸ frame_takeRing ..
        rw [e] at read
        have refused := frame_refuse real router (en.byteAt k) u
        have before : Frame [.regs, .parts, .edge, .flt] faultRegs s _ := refused.after taken.mono
        obtain ⟨v, ev⟩ : ∃ v, u.refuse ed.code router (en.byteAt k) = v := ⟨_, rfl⟩
        have drop := refuses_refuse real router (en.byteAt k) u
        have parts := keepsParts_refuse real router (en.byteAt k) u
        have own' := part_refuse real router (en.byteAt k) u q
        rw [ev] at read refused before drop parts own'
        have tag : u.bufferTag ed.code (en.byteAt k) = s.bufferTag ed.code (en.byteAt k) :=
          bufferTag_of_regs real (taken.mono (ps := [.parts]) (rs := faultRegs)).regs _
        have shown := (frame_deliverWord (v.noteRead ⟨ed.code, en.byteAt k / 8, en.len, ⟨zeros 64, en.bytes, some 0x32⟩⟩) ed
          router (s.part q).tick ⟨zeros 64, en.bytes, some 0x32⟩).after ((frame_noteRead v ⟨ed.code, en.byteAt k / 8, en.len,
            ⟨zeros 64, en.bytes, some 0x32⟩⟩).mono (ps := [.cores, .edge]) (rs := []))
        have all := shown.after (before.mono (ps := [.regs, .cores, .parts, .edge, .flt]) (rs := faultRegs))
        refine ⟨_, planDeliver_read due new room read, deliverWord_from (before.pieces .cores (by decide)) .., ?_, ?_, ?_,
          all.pieces⟩
        · exact drop.between (taken.pieces .edge (by decide)) (taken.pieces .flt (by decide)) (taken.pieces .clk (by decide))
            tag rfl rfl rfl
        · obtain ⟨f, same⟩ := own'
          rw [part_through shown.pieces, same, ← e]
          refine (congrArg (fun p : Partition => p.ring r) (State.part_updPart_self ..)).trans ((ring_updRing_self ..).trans ?_)
          rw [Nat.sub_eq_zero_of_le (Nat.le_of_lt few)]
        · rw [tag] at parts
          intro j no
          rw [part_through shown.pieces, parts j fun own => no (List.mem_cons_of_mem _ own), ← e]
          exact keepsParts_takeRing s q (some r) en.bytes j fun own => no (List.mem_cons.mpr (.inl (List.mem_singleton.mp own)))
      case many =>
        have refused := frame_refuse real router (en.byteAt k) s
        have shown := frame_deliverWord (s.refuse ed.code router (en.byteAt k)) ed router (s.part q).tick
          ⟨zeros 64, en.bytes, some 0x32⟩
        have all := shown.after (refused.mono (ps := [.regs, .cores, .parts, .edge, .flt]) (rs := faultRegs))
        refine ⟨_, planDeliver_refused due new full, deliverWord_from (refused.pieces .cores (by decide)) .., ?_, ?_, ?_,
          all.pieces⟩
        · exact (refuses_refuse real router (en.byteAt k) s).between rfl rfl rfl rfl rfl rfl rfl
        · exact (words_refuse real router (en.byteAt k) s).1
        · exact (keepsParts_refuse real router (en.byteAt k) s).through shown.pieces
    · intro due
      refine ⟨fun room full => ?taken, fun why => ?refused⟩
      case taken =>
        obtain ⟨w, ew⟩ : ∃ w : EdgeWrite, ⟨ed.code, en.byteAt k, s.collected q ed router en.bytes,
          ((s.part q).ringAt ed.code (en.byteAt k) en.bytes 1).map (fun r => (q.val, r))⟩ = w := ⟨_, rfl⟩
        have took := frame_roomRing s q ((s.part q).ringAt ed.code (en.byteAt k) en.bytes 1) en.bytes
        have shown := frame_noteWritten (s.roomRing q ((s.part q).ringAt ed.code (en.byteAt k) en.bytes 1) en.bytes) w
        have all := shown.after (took.mono (ps := [.parts, .edge]) (rs := []))
        have run := execPlanCollect_eq (entry := entry) due
        dsimp only at run
        rw [ew, if_neg (by simp [ringShort_false full, room])] at run
        refine ⟨_, run, ?_, fun r own => ?_, fun none => ?_, ?_, all.pieces⟩
        · have edge : (s.roomRing q ((s.part q).ringAt ed.code (en.byteAt k) en.bytes 1) en.bytes).edge = s.edge :=
            took.pieces .edge (by decide)
          exact (congrArg (fun e : EdgeCycle => { e with writes := e.writes ++ [w] }) edge).trans (by rw [← ew])
        · rw [part_through shown.pieces, own]
          exact State.part_updPart_self ..
        · rw [shown.pieces .parts (by decide), none]
          rfl
        · exact (keepsParts_roomRing _ _ _ _).through shown.pieces
      case refused =>
        have run := execPlanCollect_eq (entry := entry) due
        dsimp only at run
        rw [if_pos (by
          rcases why with many | ⟨r, own, few⟩
          · simp [many]
          · simp [ringShort_true own few])] at run
        exact ⟨_, run, (words_refuse real ..).2, refuses_refuse real .., keepsParts_refuse real _ _ _,
          (frame_refuse real ..).pieces⟩
  · intro s w one clean
    obtain ⟨u, eu⟩ : ∃ u : State, u = { s with edge := {} } := ⟨_, rfl⟩
    have start : Frame [.edge] [] s u := eu ▸ .of_within (within_edge s _)
    have clean' : u.cleanAt (bufferBase w.buffer + w.offset) w.bytes.length := fun g hg => by
      rw [start.pieces .sramErr (by decide)]
      exact clean g hg
    obtain ⟨v, ev⟩ : ∃ v, (u.wr (bufferBase w.buffer + w.offset) w.bytes).clearGranules
      (granules (bufferBase w.buffer + w.offset) w.bytes.length) = v := ⟨_, rfl⟩
    have stored : Frame [.mem, .sramErr] [] u v := ev ▸ .of_touches
      (((touches_wr u _ _).mono (by decide)).trans ((touches_clearGranules _ _).mono (by decide)))
    have bytes : KeepsBytes (bufferBase w.buffer + w.offset) w.bytes.length u v := ev ▸ keepsBytes_wr u _ _
    have read : v.rd (bufferBase w.buffer + w.offset) w.bytes.length = w.bytes := ev ▸ rd_wr_self u _ _
    have run : s.endEdgeCycle = match w.ring with
        | some (q, r) => v.updPart q (fun p => p.updRing r (fun x => { x with used := x.used + w.bytes.length }))
        | none => v := by
      rw [State.endEdgeCycle, one, ← eu, List.foldl_cons, List.foldl_nil, State.landCollected, bufferWrite_clean clean', ev] <;> rfl
    have shown : Frame [.parts] [] v s.endEdgeCycle := by
      rw [run]
      cases w.ring with
      | none => exact .refl ..
      | some x => exact frame_updPart ..
    have all : Frame [.mem, .sramErr, .parts, .edge] [] s s.endEdgeCycle :=
      (shown.after (stored.mono (ps := [.mem, .sramErr, .parts]) (rs := []))).after start.mono
    have mem := shown.pieces .mem (by decide)
    refine ⟨?_, (rd_of_mem mem ..).trans read, fun q r own => ?_, fun a ha => ?_, all.pieces⟩
    · rw [shown.pieces .edge (by decide), stored.pieces .edge (by decide), eu]
    · rw [run, own]
      refine (congrArg (fun p : Partition => p.ring r) (State.part_updPart_self ..)).trans ((ring_updRing_self ..).trans ?_)
      rw [part_through stored.pieces, part_through start.pieces]
    · rw [State.byteAt, mem, State.byteAt, ← start.pieces .mem (by decide)]
      exact bytes a ha

/-! ## The stream engines (R237, R238) -/

theorem cleanAt_of_good {s : State} (good : s.sramGood) (a n : Nat) : s.cleanAt a n := fun g _ => good g

theorem sramGood_of_err {s t : State} (good : s.sramGood) (err : t.sramErr = s.sramErr) : t.sramGood := fun g => by
  rw [err]
  exact good g

/-- A write of whole good memory of a buffer: the bytes, and nothing outside them. -/
theorem bufferWrite_good {s : State} (good : s.sramGood) (b off : Nat) (bs : List Byte) :
    Frame [.mem, .sramErr] [] s (s.bufferWrite b off bs) ∧ (s.bufferWrite b off bs).rd (bufferBase b + off) bs.length = bs ∧
      KeepsBytes (bufferBase b + off) bs.length s (s.bufferWrite b off bs) := by
  rw [bufferWrite_clean (cleanAt_of_good good _ _)]
  exact ⟨.of_touches (((touches_wr s _ _).mono (by decide)).trans ((touches_clearGranules _ _).mono (by decide))),
    rd_wr_self s _ _, keepsBytes_wr s _ _⟩

/-- What an access to a ring's buffer can change: the registers and the collector, by its messages. -/
theorem ringRead_spec (s : State) (b : Binding) (d : RingDesc) (i n : Nat) : ∃ e bytes u,
    s.ringRead b d i n = (e, bytes, u) ∧ bytes.length = n ∧ Frame [.regs, .flt] faultRegs s u ∧
      (s.sramGood → u = s ∧ e = none) := by
  unfold State.ringRead
  extract_lets pl o k x y
  obtain ⟨u, first, read⟩ := bufferRead_spec s pl.1 (pl.2 + o) k
  have quiet (good : s.sramGood) : u = s ∧ s.sramUe (bufferBase pl.1 + (pl.2 + o)) k = none := by
    have clean := bufferRead_clean (cleanAt_of_good good (bufferBase pl.1 + (pl.2 + o)) k)
    exact ⟨(Prod.mk.inj (Prod.mk.inj (read.symm.trans clean)).2).2, sramUe_clean (cleanAt_of_good good _ _)⟩
  by_cases one : n ≤ k
  · rw [if_pos one, show x = _ from read]
    have all : k = n := Nat.le_antisymm (Nat.min_le_left ..) one
    exact ⟨_, _, _, rfl, by rw [rd_length, all], first, fun good => ⟨(quiet good).1, by rw [(quiet good).2]; rfl⟩⟩
  · rw [if_neg one, show y = x.2.2.bufferRead pl.1 pl.2 (n - k) from rfl, show x = _ from read]
    obtain ⟨v, second, again⟩ := bufferRead_spec u pl.1 pl.2 (n - k)
    dsimp only
    rw [again]
    refine ⟨_, _, _, rfl, ?_, first.trans second, fun good => ?_⟩
    · rw [List.length_append, rd_length, rd_length]
      omega
    · obtain ⟨same, none⟩ := quiet good
      subst same
      have clean := bufferRead_clean (cleanAt_of_good good (bufferBase pl.1 + pl.2) (n - k))
      rw [none, sramUe_clean (cleanAt_of_good good _ _)]
      exact ⟨(Prod.mk.inj (Prod.mk.inj (again.symm.trans clean)).2).2, rfl⟩

section
variable {q : QuireId} {ring : Fin 32} {s : State} {b : Binding} {d : RingDesc} (own : (s.part q).ringDesc ring = some (b, d))
include own

theorem deliverGroupLand_lands (wants : d.wantsGroup ((s.part q).ring ring) = true)
    (flies : s.groupInFlight (b.ringPlace d).1 (chanOf (d.streamAddr ((s.part q).ring ring).moved)) = some (q.val, ring.val)) :
    exec (.deliverGroupLand q ring) s = .next ((s.setFlight (b.ringPlace d).1
      (chanOf (d.streamAddr ((s.part q).ring ring).moved)) none).landGroup q ring b d) := by
  rw [show exec (.deliverGroupLand q ring) s = execDeliverGroupLand q ring s from rfl, execDeliverGroupLand, own]
  exact (if_neg (by simp [wants])).trans (if_pos flies)

theorem deliverGroupLand_waits (wants : d.wantsGroup ((s.part q).ring ring) = true)
    (other : s.groupInFlight (b.ringPlace d).1 (chanOf (d.streamAddr ((s.part q).ring ring).moved)) ≠ some (q.val, ring.val)) :
    ∃ x, exec (.deliverGroupLand q ring) s = .next (s.setFlight (b.ringPlace d).1
      (chanOf (d.streamAddr ((s.part q).ring ring).moved)) x) := by
  rw [show exec (.deliverGroupLand q ring) s = execDeliverGroupLand q ring s from rfl, execDeliverGroupLand, own]
  exact ⟨_, (if_neg (by simp [wants])).trans (if_neg other)⟩

end

theorem frame_setFlight (s : State) (buf ch : Nat) (x : Option (Nat × Nat)) : Frame [.chans] [] s (s.setFlight buf ch x) :=
  .of_within (within_setFlight s buf ch x)

/-- The bytes of a group that are good: all, or those before its first uncorrectable access (R234). -/
def State.goodBytes (s : State) (a : Nat) : Nat :=
  match s.dramUe a 4096 with
  | some k => k * 64 - a
  | none => 4096

/-- The group of a deliver ring lands: n of its bytes, all or those before an uncorrectable access. -/
theorem landGroup_eq (s : State) (q ring : Nat) (b : Binding) (d : RingDesc) (n : Nat)
    (good : n = s.goodBytes (d.streamAddr ((s.part q).ring ring).moved)) :
    s.landGroup q ring b d =
      ((s.dramRead q (d.streamAddr ((s.part q).ring ring).moved) 4096).bufferWrite (b.ringPlace d).1
        ((b.ringPlace d).2 + ((s.part q).ring ring).moved % d.bytes)
        (s.rd (d.streamAddr ((s.part q).ring ring).moved) n)).updPart q (fun p => p.updRing ring (fun x => { x with
          fill := x.fill + n, moved := x.moved + n, stopped := decide (n < 4096) })) := by
  subst good
  rfl

theorem landGroup_lands {s : State} (sram : s.sramGood) (q ring : Nat) (b : Binding) (d : RingDesc) (x : RingRun) (n place : Nat)
    (now : (s.part q).ring ring = x)
    (good : n = s.goodBytes (d.streamAddr x.moved))
    (at_ : place = bufferBase (b.ringPlace d).1 + ((b.ringPlace d).2 + x.moved % d.bytes)) :
    (s.landGroup q ring b d).part q = (s.part q).updRing ring (fun y => { y with
      fill := y.fill + n, moved := y.moved + n, stopped := decide (n < 4096) }) ∧
    (s.landGroup q ring b d).rd place n = s.rd (d.streamAddr x.moved) n ∧ KeepsBytes place n s (s.landGroup q ring b d) ∧
    KeepsParts [q] s (s.landGroup q ring b d) ∧
    ∃ u, u = s.dramRead q (d.streamAddr x.moved) 4096 ∧ Frame [.mem, .sramErr, .parts] [] u (s.landGroup q ring b d) := by
  subst now at_
  rw [landGroup_eq s q ring b d n good]
  obtain ⟨u, eu⟩ : ∃ u, s.dramRead q (d.streamAddr ((s.part q).ring ring).moved) 4096 = u := ⟨_, rfl⟩
  have read : Frame [.regs, .flt] dramRegs s u := eu ▸ frame_dramRead ..
  rw [eu]
  have fits := rd_length s (d.streamAddr ((s.part q).ring ring).moved) n
  obtain ⟨bytes, eb⟩ : ∃ bytes, s.rd (d.streamAddr ((s.part q).ring ring).moved) n = bytes := ⟨_, rfl⟩
  rw [eb] at fits ⊢
  obtain ⟨wrote, bytesThere, keeps⟩ := bufferWrite_good (sramGood_of_err sram (read.pieces .sramErr (by decide)))
    (b.ringPlace d).1 ((b.ringPlace d).2 + ((s.part q).ring ring).moved % d.bytes) bytes
  rw [fits] at bytesThere keeps
  have shown (v : State) := frame_updPart v q (fun p => p.updRing ring (fun x => { x with
    fill := x.fill + n, moved := x.moved + n, stopped := decide (n < 4096) }))
  refine ⟨?_, (rd_of_mem ((shown _).pieces .mem (by decide)) ..).trans bytesThere, ?_, ?_, u, rfl,
    (shown _).after (wrote.mono (ps := [.mem, .sramErr, .parts]) (rs := []))⟩
  · rw [State.part_updPart_self, part_through wrote.pieces, part_through read.pieces]
  · intro a ha
    rw [State.byteAt, (shown _).pieces .mem (by decide)]
    refine (keeps a ha).trans ?_
    rw [State.byteAt, read.pieces .mem (by decide), State.byteAt]
  · exact ((read.pieces.keepsParts (by decide) [q]).through wrote.pieces).trans (keepsParts_updPart _ _ _)

/-- An uncorrectable access of a group lies within it. -/
theorem dramUe_lt {s : State} {a k : Nat} (h : s.dramUe a 4096 = some k) : k * 64 - a < 4096 := by
  obtain ⟨e, found, rfl⟩ := Option.map_eq_some_iff.mp h
  have := List.find?_some found
  simp only [Bool.and_eq_true, decide_eq_true_eq] at this
  omega

theorem collectGroupWrite_eq {q : QuireId} {ring : Fin 32} {s : State} {b : Binding} {d : RingDesc} {x : RingRun} {n : Nat}
    (own : (s.part q).ringDesc ring = some (b, d)) (now : (s.part q).ring ring = x) (kind : d.kind = 1) (here : d.endpoint = 0)
    (runs : x.stopped = false) (more : d.ended x.moved = false) (plain : b.ringIsDrain ring = false)
    (upTo : (if (x.moved / 4096 + 1) * 4096 ≤ x.used then (x.moved / 4096 + 1) * 4096
      else min x.flush ((x.moved / 4096 + 1) * 4096)) = x.moved + n) (some_ : 0 < n) :
    exec (.collectGroupWrite q ring) s =
      (let r := s.ringRead b d x.moved n
       let good := if r.1.isSome then 0 else n
       let s := if r.1.isSome then r.2.2 else r.2.2.wrDram q (d.streamAddr x.moved) r.2.1
       .next (s.updPart q (fun p => p.updRing ring (fun x => { x with
         fill := x.fill + good, moved := x.moved + good, stopped := r.1.isSome })))) := by
  subst now
  rw [show exec (.collectGroupWrite q ring) s = execCollectGroupWrite q ring s from rfl, execCollectGroupWrite, own]
  dsimp only
  obtain ⟨x, ex⟩ : ∃ x, (s.part q).ring ring = x := ⟨_, rfl⟩
  rw [ex] at runs more upTo ⊢
  obtain ⟨edge, ee⟩ : ∃ edge, (x.moved / 4096 + 1) * 4096 = edge := ⟨_, rfl⟩
  rw [ee] at upTo ⊢
  obtain ⟨last, el⟩ : ∃ last, (if edge ≤ x.used then edge else x.flush) = last := ⟨_, rfl⟩
  have reach : min last edge = x.moved + n := by
    rw [← upTo, ← el]
    split
    · exact Nat.min_self _
    · rfl
  rw [el]
  have size : min last edge - x.moved = n := by omega
  have past : ¬ last ≤ x.moved := by omega
  rw [if_neg (by simp [kind, here, runs, more, plain, past]), size]

/-- Settles O21: a deliver group that lands whole or in part or waits, a collect group that is written or stops. -/
theorem streamGroupsMove : Obligations.StreamGroupsMove := by
  rintro q ring s b d x place own rfl at_
  refine ⟨fun wants => ⟨fun flies sram => ⟨fun dram => ?whole, fun k n bad size => ?part⟩, fun other => ?waits⟩,
    fun n kind here runs more plain upTo some_ => ⟨fun sram dram => ?written, fun bad => ?stops⟩⟩
  case waits =>
    obtain ⟨x, run⟩ := deliverGroupLand_waits own wants other
    exact ⟨_, run, (frame_setFlight ..).pieces⟩
  case whole =>
    have run := deliverGroupLand_lands own wants flies
    have free := frame_setFlight s (b.ringPlace d).1 (chanOf (d.streamAddr ((s.part q).ring ring).moved)) none
    obtain ⟨u, eu⟩ : ∃ u, s.setFlight (b.ringPlace d).1 (chanOf (d.streamAddr ((s.part q).ring ring).moved)) none = u := ⟨_, rfl⟩
    rw [eu] at run free
    have dram' : u.dramErr = [] := (free.pieces .dramErr (by decide)).trans dram
    have all : 4096 = u.goodBytes (d.streamAddr ((s.part q).ring ring).moved) := by
      rw [State.goodBytes, dramUe_none dram']
    obtain ⟨part, bytes, keeps, parts, v, ev, frame⟩ := landGroup_lands (sramGood_of_err sram (free.pieces .sramErr (by decide)))
      q ring b d _ 4096 place (congrArg (·.ring ring) (part_through free.pieces q)) all at_
    rw [dramRead_good dram'] at ev
    subst ev
    have mem := free.pieces .mem (by decide)
    refine ⟨_, run, ?_, bytes.trans (rd_of_mem mem ..), fun a ha => (keeps a ha).trans ?_,
      (free.pieces.keepsParts (by decide) _).trans parts,
      (frame.after (free.mono (ps := [.mem, .sramErr, .parts, .chans]) (rs := []))).pieces⟩
    · rw [part, part_through free.pieces]
      rfl
    · rw [State.byteAt, mem, State.byteAt]
  case part =>
    subst size
    have run := deliverGroupLand_lands own wants flies
    have free := frame_setFlight s (b.ringPlace d).1 (chanOf (d.streamAddr ((s.part q).ring ring).moved)) none
    obtain ⟨u, eu⟩ : ∃ u, s.setFlight (b.ringPlace d).1 (chanOf (d.streamAddr ((s.part q).ring ring).moved)) none = u := ⟨_, rfl⟩
    rw [eu] at run free
    have bad' : u.dramUe (d.streamAddr ((s.part q).ring ring).moved) 4096 = some k := by
      rw [State.dramUe, free.pieces .dramErr (by decide)]
      exact bad
    have first : k * 64 - d.streamAddr ((s.part q).ring ring).moved =
        u.goodBytes (d.streamAddr ((s.part q).ring ring).moved) := by rw [State.goodBytes, bad']
    obtain ⟨part, bytes, keeps, parts, v, ev, frame⟩ := landGroup_lands (sramGood_of_err sram (free.pieces .sramErr (by decide)))
      q ring b d _ _ place (congrArg (·.ring ring) (part_through free.pieces q)) first at_
    have read : Frame [.regs, .flt] dramRegs u v := ev ▸ frame_dramRead ..
    have all := (frame.mono (ps := [.regs, .mem, .sramErr, .parts, .chans, .flt]) (rs := dramRegs)).after
      ((read.after (free.mono (ps := [.regs, .chans, .flt]) (rs := dramRegs))).mono
        (ps := [.regs, .mem, .sramErr, .parts, .chans, .flt]) (rs := dramRegs))
    have mem := free.pieces .mem (by decide)
    refine ⟨_, run, ?_, bytes.trans (rd_of_mem mem ..), fun a ha => (keeps a ha).trans ?_,
      (free.pieces.keepsParts (by decide) _).trans parts, all.regs, all.pieces⟩
    · rw [part, part_through free.pieces, decide_eq_true (dramUe_lt bad)]
    · rw [State.byteAt, mem, State.byteAt]
  case written =>
    have run := collectGroupWrite_eq own rfl kind here runs more plain upTo some_
    obtain ⟨e, bytes, u, er, size, frame, quiet⟩ := ringRead_spec s b d ((s.part q).ring ring).moved n
    obtain ⟨rfl, rfl⟩ := quiet sram
    rw [er] at run ⊢
    have stored := stores_wrDram dram q (d.streamAddr ((u.part q).ring ring).moved) bytes
    have read := rd_wrDram_self dram q (d.streamAddr ((u.part q).ring ring).moved) bytes
    have keeps := keepsBytes_wrDram dram q (d.streamAddr ((u.part q).ring ring).moved) bytes
    rw [size] at read keeps
    obtain ⟨v, ev⟩ : ∃ v, u.wrDram q (d.streamAddr ((u.part q).ring ring).moved) bytes = v := ⟨_, rfl⟩
    rw [ev] at stored read keeps
    have shown := frame_updPart v q (fun p => p.updRing ring (fun x => { x with
      fill := x.fill + n, moved := x.moved + n, stopped := false }))
    have mem := shown.pieces .mem (by decide)
    refine ⟨_, run.trans (congrArg (fun v => Host.Outcome.next (State.updPart v q (fun p => p.updRing ring (fun x => { x with
      fill := x.fill + n, moved := x.moved + n, stopped := false })))) ev), ?_, (rd_of_mem mem ..).trans read, fun a ha => ?_,
      (shown.after (stored.frame.mono (ps := [.mem, .parts]) (rs := []))).pieces⟩
    · obtain ⟨c, j, same⟩ := stored.notes q
      refine (congrArg (fun p : Partition => p.ring ring) (State.part_updPart_self ..)).trans ((ring_updRing_self ..).trans ?_)
      rw [same, ← runs]
      rfl
    · rw [State.byteAt, mem]
      exact keeps a ha
  case stops =>
    have run := collectGroupWrite_eq own rfl kind here runs more plain upTo some_
    obtain ⟨e, bytes, u, er, size, frame, quiet⟩ := ringRead_spec s b d ((s.part q).ring ring).moved n
    rw [er] at run bad
    dsimp only at run bad
    rw [bad] at run
    have shown := frame_updPart u q (fun p => p.updRing ring (fun x => { x with stopped := true }))
    have all := (shown.mono (ps := [.regs, .parts, .flt]) (rs := faultRegs)).after
      (frame.mono (ps := [.regs, .parts, .flt]) (rs := faultRegs))
    refine ⟨_, run, ?_, (frame.pieces.keepsParts (by decide) _).trans (keepsParts_updPart _ _ _), all.regs, all.pieces⟩
    rw [← part_through frame.pieces]
    exact State.part_updPart_self ..

end Sys2Proof.Machine
end

section
/-! PROOFS. The memory channels. -/

namespace Sys2Proof.Machine

open Sys2Proof

-- One theorem after another: many at once would need too many threads.
set_option Elab.async false

theorem Frame.comp {ps : List Piece} {rs : List Nat} {s t u : State} (k : Frame ps rs t u) (h : Frame ps rs s t) : Frame ps rs s u :=
  h.trans k

/-! ## A channel after a write of a channel -/

theorem chan_updChan_other (s : State) (f : Channel → Channel) {c k : Nat} (h : k ≠ c) : (s.updChan c f).chan k = s.chan k :=
  Table.look_put_other _ _ _ h

theorem frame_updChan (s : State) (c : Nat) (f : Channel → Channel) : Frame [.chans] [] s (s.updChan c f) :=
  .of_within (within_updChan s c f)

theorem chan_through {ps : List Piece} {s t : State} (k : OnlyTouches ps s t) (c : Nat) (no : .chans ∉ ps := by decide) :
    t.chan c = s.chan c := by
  rw [State.chan, State.chan, k .chans no]

/-! ## The arbiter of a channel (R239 to R243) -/

/-- The wait ages as `Channel.wait` leaves them stand in 16 bits for each line. -/
theorem age_wait_lt (c : Channel) (lines : List Nat) (elapsed : Nat) {l : Nat} (real : l < 8) :
    (c.wait lines elapsed).age l < 2 ^ 16 := by
  have step (ls : List Nat) (t : Table Nat) : Table.look (fun _ => 0) (ls.foldl (fun t l => Table.put (fun _ => 0) t l
      (if l ∈ lines && c.owner != some l && c.raised.getLsbD l then min 65535 (c.age l + elapsed) else 0)) t) l < 2 ^ 16 ∨
      l ∉ ls ∧ Table.look (fun _ => 0) (ls.foldl (fun t l => Table.put (fun _ => 0) t l
      (if l ∈ lines && c.owner != some l && c.raised.getLsbD l then min 65535 (c.age l + elapsed) else 0)) t) l =
        Table.look (fun _ => 0) t l := by
    induction ls generalizing t with
    | nil => exact .inr ⟨List.not_mem_nil, rfl⟩
    | cons k ls ih =>
      rw [List.foldl_cons]
      rcases ih (Table.put (fun _ => 0) t k
        (if k ∈ lines && c.owner != some k && c.raised.getLsbD k then min 65535 (c.age k + elapsed) else 0)) with low | ⟨no, e⟩
      · exact .inl low
      · by_cases same : l = k
        · subst same
          rw [e, Table.look_put_self]
          refine .inl ?_
          split
          · exact Nat.lt_of_le_of_lt (Nat.min_le_left ..) (by decide)
          · decide
        · rw [e, Table.look_put_other _ _ _ same]
          exact .inr ⟨fun m => (List.mem_cons.mp m).elim same no, rfl⟩
  rcases step (List.range 8) c.ages with low | ⟨no, _⟩
  · exact low
  · exact absurd (List.mem_range.mpr real) no

theorem look_lines_lt {s : State} {ch : Nat} {raised : Byte} {elapsed : Nat} {c : Channel} {lines : List Nat}
    (h : s.look ch raised elapsed = (c, lines)) {l : Nat} (m : l ∈ lines) : l < 8 := by
  obtain ⟨-, rfl⟩ := Prod.mk.inj h
  rcases List.mem_append.mp (List.mem_filter.mp m).1 with low | refresh
  · have := List.mem_range.mp (List.mem_filter.mp low).1
    omega
  · split at refresh
    · rw [List.mem_singleton.mp refresh]
      decide
    · exact absurd refresh List.not_mem_nil

theorem look_age_lt {s : State} {ch : Nat} {raised : Byte} {elapsed : Nat} {c : Channel} {lines : List Nat}
    (h : s.look ch raised elapsed = (c, lines)) {l : Nat} (m : l ∈ lines) : c.age l < 2 ^ 16 := by
  have real := look_lines_lt h m
  obtain ⟨rfl, -⟩ := Prod.mk.inj h
  exact age_wait_lt _ _ _ real

section
variable {ch : ChanId} {raised : Byte} {elapsed : Nat} {read : Option DramRead} {s u : State} {c : Channel} {lines : List Nat}
  (found : s.look ch raised elapsed = (c, lines)) (now : s.updChan ch (fun _ => c) = u)
include found now

theorem arbiterGrant_chooses (none : c.chosen = none) (idle : ∀ o, c.owner = some o → o ∉ lines ∧ o ≠ 7) :
    exec (.arbiterGrant ch raised elapsed read) s = .next (u.chooseOwner ch lines) := by
  rw [show exec (.arbiterGrant ch raised elapsed read) s = execArbiterGrant ch raised elapsed read s from rfl,
    execArbiterGrant, found]
  dsimp only
  rw [State.chan_updChan_self, none, now]
  cases owner : c.owner with
  | none => rfl
  | some o => exact congrArg _ (if_neg (not_or.mpr (idle o owner)))

theorem arbiterGrant_holds {o : Nat} (none : c.chosen = none) (owner : c.owner = some o) (holds : o ∈ lines ∨ o = 7) :
    exec (.arbiterGrant ch raised elapsed read) s = .next u := by
  rw [show exec (.arbiterGrant ch raised elapsed read) s = execArbiterGrant ch raised elapsed read s from rfl,
    execArbiterGrant, found]
  dsimp only
  rw [State.chan_updChan_self, none, owner, now]
  exact congrArg _ (if_pos holds)

theorem arbiterGrant_ghost {l : Nat} {aged : Bool} (chosen : c.chosen = some (l, aged)) (low : l ∉ lines) :
    exec (.arbiterGrant ch raised elapsed read) s = .next ((u.count (Reg.memArbstat ch) 23 0 1).chooseOwner ch lines) := by
  rw [show exec (.arbiterGrant ch raised elapsed read) s = execArbiterGrant ch raised elapsed read s from rfl,
    execArbiterGrant, found]
  dsimp only
  rw [State.chan_updChan_self, chosen, now]
  exact if_neg low

theorem arbiterGrant_grants {l : Nat} {aged : Bool} (chosen : c.chosen = some (l, aged)) (high : l ∈ lines)
    (good : read = none ∨ (u.grant ch l aged).dramErr = []) :
    exec (.arbiterGrant ch raised elapsed read) s = .next (u.grant ch l aged) := by
  rw [show exec (.arbiterGrant ch raised elapsed read) s = execArbiterGrant ch raised elapsed read s from rfl,
    execArbiterGrant, found]
  dsimp only
  rw [State.chan_updChan_self, chosen, now]
  refine (if_pos high).trans ?_
  cases read with
  | none => rfl
  | some r =>
    have clean := good.resolve_left (fun e => nomatch e)
    refine congrArg Host.Outcome.next ?_
    split
    · exact dramRead_good clean ..
    · rfl

end

theorem chan_chooseOwner {s : State} {ch : Nat} {c : Channel} (own : s.chan ch = c) (lines : List Nat) :
    (s.chooseOwner ch lines).chan ch =
      { c with owner := none, ownedFor := 0, chosen := c.choose (s.rf (Reg.memCtrl (ch / 4)) 6 0) lines } := by
  subst own
  exact State.chan_updChan_self ..

theorem frame_chooseOwner (s : State) (ch : Nat) (lines : List Nat) : Frame [.chans] [] s (s.chooseOwner ch lines) :=
  frame_updChan s ch (fun c => { c with owner := none, ownedFor := 0, chosen := c.choose (s.rf (Reg.memCtrl (ch / 4)) 6 0) lines })

theorem chooseOwner_other (s : State) (lines : List Nat) {ch k : Nat} (h : k ≠ ch) :
    (s.chooseOwner ch lines).chan k = s.chan k := chan_updChan_other _ _ h

/-- The grants of long waiters, counted when the choice was an aged one. -/
def State.countAged (s : State) (ch : Nat) (aged : Bool) : State :=
  if aged then s.count (Reg.memArbstat ch) 47 24 1 else s

theorem frame_countAged (s : State) (ch : Nat) (aged : Bool) : Frame [.regs] [Reg.memArbstat ch] s (s.countAged ch aged) :=
  .ite (frame_count ..) (.refl ..)

/-- A channel as it stands when a line is granted it (R241, R242). -/
def Channel.granted (c : Channel) (l wall : Nat) : Channel :=
  { c with owner := some l, ownedFor := 0, ownedAt := wall, chosen := none, grants := c.grants + 1
           ages := Table.put (fun _ => 0) c.ages l 0 }

theorem grant_eq (s : State) (ch l : Nat) (aged : Bool) :
    s.grant ch l aged = ((s.updChan ch (fun c => c.granted l s.clk.wall)).countAged ch aged).peak (Reg.memArbstat ch) 63 48
      ((s.chan ch).age l) := rfl

theorem frame_grant (s : State) (ch l : Nat) (aged : Bool) :
    Frame [.regs, .chans] [Reg.memArbstat ch] s (s.grant ch l aged) := by
  rw [grant_eq]
  have granted := (frame_updChan s ch (fun c => c.granted l s.clk.wall)).mono (ps := [.regs, .chans]) (rs := [Reg.memArbstat ch])
  exact (frame_peak _ (Reg.memArbstat ch) 63 48 _).after ((frame_countAged _ ch aged).after granted)

theorem chan_grant (s : State) (ch l : Nat) (aged : Bool) (k : Nat) :
    (s.grant ch l aged).chan k = (s.updChan ch (fun c => c.granted l s.clk.wall)).chan k := by
  rw [grant_eq]
  exact (chan_through (frame_peak _ (Reg.memArbstat ch) 63 48 _).pieces k).trans (chan_through (frame_countAged _ ch aged).pieces k)

/-- The counts of a channel after a grant. -/
theorem rf_grant (s : State) (ch l : Nat) (aged : Bool) (age : (s.chan ch).age l < 2 ^ 16) :
    (s.grant ch l aged).rf (Reg.memArbstat ch) 47 24 = (if aged then
      satAdd (2 ^ 24 - 1) (s.rf (Reg.memArbstat ch) 47 24) 1 else s.rf (Reg.memArbstat ch) 47 24) ∧
    (s.grant ch l aged).rf (Reg.memArbstat ch) 23 0 = s.rf (Reg.memArbstat ch) 23 0 ∧
    (s.grant ch l aged).rf (Reg.memArbstat ch) 63 48 = max ((s.chan ch).age l) (s.rf (Reg.memArbstat ch) 63 48) := by
  rw [grant_eq]
  obtain ⟨u, eu⟩ : ∃ u, s.updChan ch (fun c => c.granted l s.clk.wall) = u := ⟨_, rfl⟩
  have same (hi lo : Nat) : u.rf (Reg.memArbstat ch) hi lo = s.rf (Reg.memArbstat ch) hi lo :=
    (eu ▸ frame_updChan s ch (fun c => c.granted l s.clk.wall) : Frame [.chans] [] s u).rf (by simp) hi lo
  rw [eu, rf_peak_self _ _ (by decide) (by decide) age]
  have apart {hi lo : Nat} (low : hi < 48) (v : State) :
      (v.peak (Reg.memArbstat ch) 63 48 ((s.chan ch).age l)).rf (Reg.memArbstat ch) hi lo = v.rf (Reg.memArbstat ch) hi lo :=
    rf_setRf_apart _ _ _ (by decide) (by decide) (.inr low)
  rw [apart (by decide), apart (by decide), ← same 47 24, ← same 23 0, ← same 63 48]
  cases aged with
  | false => exact ⟨rfl, rfl, rfl⟩
  | true =>
    exact ⟨rf_count_self _ _ _ (by decide) (by decide), rf_count_apart _ _ _ (by decide) (by decide) (by decide),
      congrArg _ (rf_count_apart _ _ _ (by decide) (by decide) (by decide))⟩

/-- Settles O23: the four things that a look can find. -/
theorem arbiterChoosesAndGrants : Obligations.ArbiterChoosesAndGrants := by
  intro ch raised elapsed read s c lines found
  obtain ⟨u, eu⟩ : ∃ u, s.updChan ch (fun _ => c) = u := ⟨_, rfl⟩
  have looked : Frame [.chans] [] s u := eu ▸ frame_updChan ..
  have own : u.chan ch = c := eu ▸ State.chan_updChan_self ..
  have other (k : Nat) (hk : k ≠ ch.val) : u.chan k = s.chan k := eu ▸ chan_updChan_other _ _ hk
  refine ⟨fun none idle => ?choose, fun o none owner holds => ?holds, fun l aged chosen high good => ?grant,
    fun l aged chosen low => ?ghost⟩
  case choose =>
    refine ⟨_, arbiterGrant_chooses found eu none idle, ?_, fun k hk => (chooseOwner_other u lines hk).trans (other k hk),
      ((frame_chooseOwner u ch lines).comp looked).pieces⟩
    rw [chan_chooseOwner own, looked.rf (by simp)]
  case holds => exact ⟨u, arbiterGrant_holds found eu none owner holds, own, other, looked.pieces⟩
  case grant =>
    have granted := frame_grant u ch l aged
    have all := granted.comp looked.mono
    have clean : read = none ∨ (u.grant ch l aged).dramErr = [] :=
      good.imp_right ((all.pieces .dramErr (by decide)).trans ·)
    obtain ⟨agedCount, ghosts, longest⟩ := rf_grant u ch l aged (by rw [own]; exact look_age_lt found high)
    refine ⟨_, arbiterGrant_grants found eu chosen high clean, ?_, ?_, ?_, ?_, fun k hk => ?_, all.regs, all.pieces⟩
    · rw [chan_grant, State.chan_updChan_self, own, looked.pieces .clk (by decide)]
      rfl
    · rw [agedCount, looked.rf (by simp)]
    · rw [ghosts, looked.rf (by simp)]
    · rw [longest, own, looked.rf (by simp)]
    · rw [chan_grant, chan_updChan_other _ _ hk, other k hk]
  case ghost =>
    have counted := frame_count u (Reg.memArbstat ch) 23 0 1
    have chose := frame_chooseOwner (u.count (Reg.memArbstat ch) 23 0 1) ch lines
    have before := (counted.mono (ps := [.regs, .chans]) (rs := [Reg.memArbstat ch])).comp looked.mono
    have all := (chose.mono (ps := [.regs, .chans]) (rs := [Reg.memArbstat ch])).comp before
    refine ⟨_, arbiterGrant_ghost found eu chosen low, ?_, ?_, fun k hk => ?_, all.regs, all.pieces⟩
    · have apart : Reg.memCtrl (ch / 4) ∉ [Reg.memArbstat ch] := by
        have := ch.isLt
        simp only [List.mem_singleton, Reg.memCtrl, Reg.memArbstat]
        omega
      rw [chan_chooseOwner ((chan_through counted.pieces _).trans own), before.rf apart]
    · rw [chose.rf (by simp), rf_count_self _ _ _ (by decide) (by decide), looked.rf (by simp)]
    · rw [chooseOwner_other _ _ hk, chan_through counted.pieces, other k hk]

/-! ## Refresh, scrub, debug port and temperature of a channel (R235, R244, R247 to R249) -/

theorem bit_setFld_other {n : Nat} (w : BitVec n) (hi lo x : Nat) {i : Nat} (h : lo ≤ hi) (wide : hi < n)
    (apart : i < lo ∨ hi < i) : bit (setFld w hi lo x) i = bit w i := by
  have same : fld (setFld w hi lo x) i i = fld w i i := fld_setFld_other w hi lo x h wide (by omega)
  have low (v : BitVec n) : bit v i = (fld v i i).testBit 0 := by
    rw [fld, testBit_bitsN, bit, BitVec.testBit_toNat]
    simp
  rw [low, low, same]

theorem frame_scrubHit (t : State) (e : Nat × Nat) : Frame [.regs, .flt] dramRegs t
    (if e.2 = 1 then t.dramCeAt 127 e.1 else t.dramUeAt 127 e.1) := .ite (frame_dramCeAt ..) (frame_dramUeAt ..)

section
variable {ch : ChanId} {s : State}

theorem refreshInterval_eq {c : Channel} (runs : s.memRuns = true) (over_ : s.intervalOver ch = true)
    (now : c = ((s.chan ch).run (s.groupCycles ch) 0 s.clk.wall).1) :
    exec (.refreshInterval ch) s = .next (if 7 ≤ c.owed ∧ c.emergency = none then
      (s.updChan ch (fun _ => c.owe s.clk.wall)).count (Reg.memRefstat ch) 31 8 1
      else s.updChan ch (fun _ => c.owe s.clk.wall)) := by
  subst now
  rw [show exec (.refreshInterval ch) s = execRefreshInterval ch s from rfl, execRefreshInterval,
    if_pos (by rw [runs, over_]; rfl)]
  simp only [Option.isNone_iff_eq_none]

/-- The messages and counts of the accesses that a scrub read meets. -/
def State.scrubHits (s : State) (k : Nat) : State :=
  (s.dramErr.filter (fun e => k ≤ e.1 && e.1 < k + 64)).foldl (fun t e =>
    if e.2 = 1 then t.dramCeAt 127 e.1 else t.dramUeAt 127 e.1) s

theorem frame_scrubHits (s : State) (k : Nat) : Frame [.regs, .flt] dramRegs s (s.scrubHits k) :=
  .foldl (fun t e => frame_scrubHit t e) _ s

theorem scrubRead_eq {k : Nat} (runs : s.memRuns = true) (on : bit (s.reg (Reg.memCtrl (ch / 4))) 7 = true)
    (due : s.scrubDue ch = true) (at_ : k = chanAddr ch ((s.chan ch).scrub * 4096) / 64) :
    exec (.scrubRead ch) s = .next (({ s.scrubHits k with
      dramErr := (s.scrubHits k).dramErr.filter (fun e => !(k ≤ e.1 && e.1 < k + 64 && e.2 == 1)) } : State).updChan ch
      (fun c => { c with scrub := ((s.chan ch).scrub + 1) % 2 ^ 20, scrubAt := some (s.scrubHits k).clk.wall })) := by
  subst at_
  rw [show exec (.scrubRead ch) s = execScrubRead ch s from rfl, execScrubRead]
  exact if_pos (by simp [runs, on, due])

/-- The state as the debug port counts an access of a channel. -/
def State.debugCounted (s : State) (ch : Nat) : State :=
  (s.updChan ch (fun c => { c with debugAt := some s.clk.wall })).count (Reg.memRefstat ch) 47 32 1

variable {addr : BitVec 40} (own : chanOf addr.toNat = ch) (opened : s.mgt.debugOpen = true)
  (ready : ∀ u, (s.chan ch).debugAt = some u → u + 192 ≤ s.clk.wall)
include own opened ready

theorem debugReady : (match (s.chan (chanOf addr.toNat)).debugAt with
    | some t => decide (t + 192 ≤ s.clk.wall)
    | none => true) = true := by
  rw [own]
  split
  next u h => exact decide_eq_true (ready u h)
  · rfl

theorem debugAccess_read {n : Nat} (dram : s.inDram addr.toNat n = true) (one : addr.toNat % 64 + n ≤ 64) (some_ : 0 < n) :
    exec (.debugAccess addr (.read n)) s = .next { (s.debugCounted ch).dramRead 127 addr.toNat n with
      readBytes := if ((s.debugCounted ch).dramUe addr.toNat n).isSome then [] else (s.debugCounted ch).rd addr.toNat n } := by
  have due := debugReady own opened ready
  rw [show exec (.debugAccess addr (.read n)) s = execDebugAccess addr (.read n) s from rfl, execDebugAccess]
  dsimp only
  rw [own] at due ⊢
  refine if_pos ?_
  rw [opened, dram, decide_eq_true one, decide_eq_true some_]
  exact due

theorem debugAccess_write {bs : List Byte} (dram : s.inDram addr.toNat bs.length = true)
    (one : addr.toNat % 64 + bs.length ≤ 64) (some_ : 0 < bs.length) :
    exec (.debugAccess addr (.write bs)) s = .next ((s.debugCounted ch).wrDram 127 addr.toNat bs) := by
  have due := debugReady own opened ready
  rw [show exec (.debugAccess addr (.write bs)) s = execDebugAccess addr (.write bs) s from rfl, execDebugAccess]
  dsimp only
  rw [own] at due ⊢
  refine if_pos ?_
  rw [opened, dram, decide_eq_true one, decide_eq_true some_]
  exact due

end

section
variable {s : State} {addr : BitVec 40} (opened : s.mgt.debugOpen = true)
include opened

theorem debugAccess_jtagRead {n : Nat} (elsewhere : s.inDram addr.toNat n = false) (one : addr.toNat % 64 + n ≤ 64)
    (some_ : 0 < n) : exec (.debugAccess addr (.read n)) s = .next (s.jtagAccess addr.toNat (.read n)) := by
  rw [show exec (.debugAccess addr (.read n)) s = execDebugAccess addr (.read n) s from rfl, execDebugAccess]
  exact (if_neg (by simp [elsewhere])).trans (if_pos (by simp [opened, elsewhere, one, some_]))

theorem debugAccess_jtagWrite {bs : List Byte} (elsewhere : s.inDram addr.toNat bs.length = false)
    (one : addr.toNat % 64 + bs.length ≤ 64) (some_ : 0 < bs.length) :
    exec (.debugAccess addr (.write bs)) s = .next (s.jtagAccess addr.toNat (.write bs)) := by
  rw [show exec (.debugAccess addr (.write bs)) s = execDebugAccess addr (.write bs) s from rfl, execDebugAccess]
  exact (if_neg (by simp [elsewhere])).trans (if_pos (by simp [opened, elsewhere, one, some_]))

end

theorem debugAccess_closed {s : State} (closed : s.mgt.debugOpen = false) (addr : BitVec 40) (acc : BusAccess) :
    exec (.debugAccess addr acc) s = .next s := by
  rw [show exec (.debugAccess addr acc) s = execDebugAccess addr acc s from rfl]
  unfold execDebugAccess
  exact (if_neg (by simp [closed])).trans (if_neg (by simp [closed]))

theorem frame_debugCounted (s : State) (ch : Nat) : Frame [.regs, .chans] [Reg.memRefstat ch] s (s.debugCounted ch) :=
  ((frame_count _ (Reg.memRefstat ch) 47 32 1).mono (ps := [.regs, .chans])).comp
    ((frame_updChan s ch (fun c => { c with debugAt := some s.clk.wall })).mono)

theorem rf_debugCounted (s : State) (ch : Nat) :
    (s.debugCounted ch).rf (Reg.memRefstat ch) 47 32 = satAdd (2 ^ 16 - 1) (s.rf (Reg.memRefstat ch) 47 32) 1 :=
  rf_count_self _ _ _ (by decide) (by decide)

theorem chan_debugCounted (s : State) (ch : Nat) :
    (s.debugCounted ch).chan ch = { s.chan ch with debugAt := some s.clk.wall } :=
  (chan_through (frame_count _ (Reg.memRefstat ch) 47 32 1).pieces ch).trans (State.chan_updChan_self ..)

/-- The bits of a register beside the one written. -/
theorem bit_setRf_other (s : State) (off v : Nat) {b i : Nat} (wide : b < 64) (apart : i ≠ b) :
    bit ((s.setRf off b b v).reg off) i = bit (s.reg off) i := by
  rw [State.reg_setRf_self]
  exact bit_setFld_other _ _ _ _ (Nat.le_refl b) wide (by omega)

/-- Settles O24: each event of a channel by the branch that it takes. -/
theorem channelEventsAct : Obligations.ChannelEventsAct := by
  intro ch s
  refine ⟨fun c runs over_ now => ?interval, fun k runs on due at_ => ?scrub,
    fun addr n bs own opened dram ready => ⟨fun inside one some_ => ?read, fun inside one some_ => ?write⟩,
    fun addr n bs => ⟨fun closed acc => debugAccess_closed closed addr acc,
      fun opened elsewhere one some_ => debugAccess_jtagRead opened elsewhere one some_,
      fun opened elsewhere one some_ => debugAccess_jtagWrite opened elsewhere one some_⟩, fun hot => ?hot⟩
  case interval =>
    have run := refreshInterval_eq runs over_ now
    have owed := frame_updChan s ch (fun _ => c.owe s.clk.wall)
    have shape : c.owe s.clk.wall = { c with
        owed := min 8 (c.owed + 1), intervalAt := some s.clk.wall
        emergency := if 7 ≤ c.owed ∧ c.emergency = none then some (s.clk.wall, 448) else c.emergency } := by
      rw [Channel.owe]
      simp only [Option.isNone_iff_eq_none, refreshCycles]
    have own : (s.updChan ch (fun _ => c.owe s.clk.wall)).chan ch = c.owe s.clk.wall := State.chan_updChan_self ..
    have other (k : Nat) (hk : k ≠ ch.val) : (s.updChan ch (fun _ => c.owe s.clk.wall)).chan k = s.chan k :=
      chan_updChan_other _ _ hk
    rw [shape] at run owed own other
    by_cases emergency : 7 ≤ c.owed ∧ c.emergency = none
    · rw [if_pos emergency] at run
      obtain ⟨u, eu⟩ : ∃ u, s.updChan ch (fun _ => ({ c with
        owed := min 8 (c.owed + 1), intervalAt := some s.clk.wall
        emergency := if 7 ≤ c.owed ∧ c.emergency = none then some (s.clk.wall, 448) else c.emergency } : Channel)) = u := ⟨_, rfl⟩
      rw [eu] at run owed own other
      have counted := frame_count u (Reg.memRefstat ch) 31 8 1
      have all := (counted.mono (ps := [.regs, .chans]) (rs := [Reg.memRefstat ch])).comp owed.mono
      refine ⟨_, run, (chan_through counted.pieces _).trans own, ?_,
        fun k hk => (chan_through counted.pieces k).trans (other k hk), all.regs, all.pieces⟩
      rw [if_pos emergency, rf_count_self _ _ _ (by decide) (by decide), owed.rf (by simp)]
    · rw [if_neg emergency] at run
      refine ⟨_, run, own, ?_, other, (owed.mono (ps := [.regs, .chans])).regs,
        owed.pieces.mono (by decide)⟩
      exact (owed.rf (by simp) 31 8).trans (if_neg emergency).symm
  case scrub =>
    have run := scrubRead_eq runs on due at_
    have hits := frame_scrubHits s k
    obtain ⟨u, eu⟩ : ∃ u, s.scrubHits k = u := ⟨_, rfl⟩
    rw [eu] at run hits
    rw [hits.pieces .dramErr (by decide), hits.pieces .clk (by decide)] at run
    obtain ⟨v, ev⟩ : ∃ v, ({ u with dramErr := s.dramErr.filter (fun e => !(k ≤ e.1 && e.1 < k + 64 && e.2 == 1)) } : State) = v :=
      ⟨_, rfl⟩
    have mended : Frame [.dramErr] [] u v := ev ▸ .of_within (within_dramErr (s := u) _)
    have moved := frame_updChan v ch (fun c => { c with
      scrub := ((s.chan ch).scrub + 1) % 2 ^ 20, scrubAt := some s.clk.wall })
    have before := (mended.mono (ps := [.regs, .dramErr, .flt]) (rs := dramRegs)).comp hits.mono
    have all := (moved.mono (ps := [.regs, .dramErr, .chans, .flt]) (rs := dramRegs)).comp before.mono
    rw [ev] at run
    refine ⟨_, run, ?_, ?_, fun i hi => ?_, all.regs, all.pieces⟩
    · rw [State.chan_updChan_self, chan_through before.pieces]
    · rw [moved.pieces .dramErr (by decide), ← ev]
    · rw [chan_updChan_other _ _ hi, chan_through before.pieces]
  case read =>
    have counted := frame_debugCounted s ch
    have dram' := (counted.pieces .dramErr (by decide)).trans dram
    have run := debugAccess_read own opened ready inside one some_
    rw [dramRead_good dram', dramUe_none dram'] at run
    obtain ⟨u, eu⟩ : ∃ u, s.debugCounted ch = u := ⟨_, rfl⟩
    have count := rf_debugCounted s ch
    have chan := chan_debugCounted s ch
    rw [eu] at run counted count chan
    have answered : Frame [.readBytes] [] u { u with readBytes := u.rd addr.toNat n } :=
      .of_within (within_readBytes (s := u) _)
    have all := (answered.mono (ps := [.regs, .readBytes, .chans]) (rs := [Reg.memRefstat ch])).comp counted.mono
    refine ⟨_, run, ?_, (answered.rf (by simp) 47 32).trans count, (chan_through answered.pieces _).trans chan, all.regs,
      all.pieces⟩
    exact rd_of_mem (counted.pieces .mem (by decide)) ..
  case write =>
    have counted := frame_debugCounted s ch
    have dram' := (counted.pieces .dramErr (by decide)).trans dram
    have run := debugAccess_write own opened ready inside one some_
    have count := rf_debugCounted s ch
    obtain ⟨u, eu⟩ : ∃ u, s.debugCounted ch = u := ⟨_, rfl⟩
    rw [eu] at run counted dram' count
    have stored := stores_wrDram dram' 127 addr.toNat bs
    have all := (stored.frame.mono (ps := [.regs, .mem, .parts, .chans]) (rs := [Reg.memRefstat ch])).comp counted.mono
    refine ⟨_, run, rd_wrDram_self dram' .., (stored.frame.rf (by simp) 47 32).trans count, fun a ha => ?_, all.regs,
      all.pieces⟩
    refine (keepsBytes_wrDram dram' 127 addr.toNat bs a ha).trans ?_
    rw [State.byteAt, counted.pieces .mem (by decide), State.byteAt]
  case hot =>
    have wide : 8 * (ch.val % 4) + 2 < 64 := by omega
    have all := frame_setRf s (Reg.memStatus (ch / 4)) (8 * (ch.val % 4) + 2) (8 * (ch.val % 4) + 2) (if hot then 1 else 0)
    refine ⟨_, rfl, (rf_setRf_bit _ _ _ wide).trans ?_, fun i _ apart => bit_setRf_other _ _ _ wide apart, all.regs,
      all.pieces⟩
    cases hot <;> rfl

end Sys2Proof.Machine
end

section
/-! PROOFS. The hall: what its operations leave, frames as they are received, and their order. -/

namespace Sys2Proof.Machine

open Sys2Proof

-- One theorem after another: many at once would need too many threads.
set_option Elab.async false

/-! ## The parts of the hall's state, and what an operation leaves of them -/

/-- The parts of the hall's state. -/
inductive HallPart where
  | ports | conns | streams | groups | frames | msgs | bars | mtx | mtxNext | mrx | mgmtIn | stamps | keying | wire

/-- A part of the hall holds the same in two states. -/
def HallPart.same (p : HallPart) (s t : State) : Prop :=
  match p with
  | .ports => t.hall.ports = s.hall.ports
  | .conns => t.hall.conns = s.hall.conns
  | .streams => t.hall.streams = s.hall.streams
  | .groups => t.hall.groups = s.hall.groups
  | .frames => t.hall.frames = s.hall.frames
  | .msgs => t.hall.msgs = s.hall.msgs
  | .bars => t.hall.bars = s.hall.bars
  | .mtx => t.hall.mtx = s.hall.mtx
  | .mtxNext => t.hall.mtxNext = s.hall.mtxNext
  | .mrx => t.hall.mrx = s.hall.mrx
  | .mgmtIn => t.hall.mgmtIn = s.hall.mgmtIn
  | .stamps => t.hall.stamps = s.hall.stamps
  | .keying => t.hall.keying = s.hall.keying
  | .wire => t.hall.wire = s.hall.wire

/-- Every part of the hall outside a list is as before. -/
structure InHall (ps : List HallPart) (s t : State) : Prop where
  same : ∀ p : HallPart, p ∉ ps → p.same s t

namespace InHall
variable {ps qs : List HallPart} {s t u : State}

theorem of_hall (ps : List HallPart) (h : t.hall = s.hall) : InHall ps s t := ⟨fun p _ => by cases p <;> exact congrArg _ h⟩

theorem refl (ps : List HallPart) (s : State) : InHall ps s s := .of_hall ps rfl

theorem of_touches {l : List Piece} (h : OnlyTouches l s t) (no : .hall ∉ l := by decide) : InHall ps s t :=
  .of_hall ps (h .hall no)

theorem mono (h : InHall qs s t) (sub : qs ⊆ ps := by simp) : InHall ps s t := ⟨fun p no => h.same p fun own => no (sub own)⟩

theorem trans (h : InHall ps s t) (k : InHall ps t u) : InHall ps s u := by
  refine ⟨fun p no => ?_⟩
  have first := h.same p no
  have second := k.same p no
  cases p <;> exact Eq.trans second first

theorem after (k : InHall qs t u) (h : InHall ps s t) (sub : qs ⊆ ps := by simp) : InHall ps s u := h.trans (k.mono sub)

theorem ite {c : Prop} [Decidable c] (h : InHall ps s t) (k : InHall ps s u) : InHall ps s (if c then t else u) := by
  split
  · exact h
  · exact k

theorem foldl {α : Type} {f : State → α → State} (step : ∀ t a, InHall ps t (f t a)) (l : List α) (s : State) :
    InHall ps s (l.foldl f s) := by
  induction l generalizing s with
  | nil => exact .refl ps s
  | cons a l ih => exact (step s a).trans (ih (f s a))

theorem conn (h : InHall ps s t) (d : Nat) (no : .conns ∉ ps := by simp) : t.conn d = s.conn d := by
  rw [State.conn, State.conn, show t.hall.conns = s.hall.conns from h.same .conns no]

theorem keepsConns (h : InHall ps s t) (l : List Nat) (no : .conns ∉ ps := by simp) : KeepsConns l s t :=
  fun d _ => h.conn d no

theorem hport (h : InHall ps s t) (p : Nat) (no : .ports ∉ ps := by simp) : t.hport p = s.hport p := by
  rw [State.hport, State.hport, show t.hall.ports = s.hall.ports from h.same .ports no]

end InHall

theorem KeepsConns.refl (l : List Nat) (s : State) : KeepsConns l s s := fun _ _ => rfl

theorem KeepsConns.trans {l : List Nat} {s t u : State} (h : KeepsConns l s t) (k : KeepsConns l t u) : KeepsConns l s u :=
  fun d no => (k d no).trans (h d no)

theorem KeepsConns.foldl {α : Type} {l : List Nat} {f : State → α → State} (step : ∀ t a, KeepsConns l t (f t a)) (xs : List α)
    (s : State) : KeepsConns l s (xs.foldl f s) := by
  induction xs generalizing s with
  | nil => exact .refl l s
  | cons a xs ih => exact (step s a).trans (ih (f s a))

/-! ## The hall after a write of a connection, a port or the streams -/

section
variable (s : State)

theorem conn_updConn_self (d : Nat) (f : Conn → Conn) : (s.updConn d f).conn d = f (s.conn d) := Table.look_put_self ..

theorem conn_updConn_other (f : Conn → Conn) {d e : Nat} (h : e ≠ d) : (s.updConn d f).conn e = s.conn e :=
  Table.look_put_other _ _ _ h

theorem keepsConns_updConn (d : Nat) (f : Conn → Conn) : KeepsConns [d] s (s.updConn d f) :=
  fun _ no => conn_updConn_other s f fun own => no (List.mem_singleton.mpr own)

theorem inHall_updConn (d : Nat) (f : Conn → Conn) : InHall [.conns] s (s.updConn d f) :=
  ⟨fun p no => by cases p <;> simp_all [HallPart.same, State.updConn]⟩

theorem hport_updPort_self (p : Nat) (f : HallPortState → HallPortState) : (s.updPort p f).hport p = f (s.hport p) :=
  Table.look_put_self ..

theorem inHall_updPort (p : Nat) (f : HallPortState → HallPortState) : InHall [.ports] s (s.updPort p f) :=
  ⟨fun p no => by cases p <;> simp_all [HallPart.same, State.updPort]⟩

theorem inHall_mapStreams (f : Stream → Stream) : InHall [.streams] s (s.mapStreams f) :=
  ⟨fun p no => by cases p <;> simp_all [HallPart.same, State.mapStreams]⟩

theorem inHall_setGroup (g : Nat) (x : Option BarGroup) : InHall [.groups] s (s.setGroup g x) :=
  ⟨fun p no => by cases p <;> simp_all [HallPart.same, State.setGroup]⟩

theorem inHall_wire (x : List (HallPort × Sys2Proof.Frame)) : InHall [.wire] s { s with hall := { s.hall with wire := x } } :=
  ⟨fun p no => by cases p <;> simp_all [HallPart.same]⟩

theorem inHall_keying (x : List Rekey) : InHall [.keying] s { s with hall := { s.hall with keying := x } } :=
  ⟨fun p no => by cases p <;> simp_all [HallPart.same]⟩

theorem inHall_stamps (x : List (HallPort × Bool × Int)) : InHall [.stamps] s { s with hall := { s.hall with stamps := x } } :=
  ⟨fun p no => by cases p <;> simp_all [HallPart.same]⟩

theorem inHall_frames (x : List Accepted) : InHall [.frames] s { s with hall := { s.hall with frames := x } } :=
  ⟨fun p no => by cases p <;> simp_all [HallPart.same]⟩

theorem inHall_msgs (x : List CtrlMsg) : InHall [.msgs] s { s with hall := { s.hall with msgs := x } } :=
  ⟨fun p no => by cases p <;> simp_all [HallPart.same]⟩

theorem inHall_bars (x : List BarMsg) : InHall [.bars] s { s with hall := { s.hall with bars := x } } :=
  ⟨fun p no => by cases p <;> simp_all [HallPart.same]⟩

theorem inHall_streams (x : List Stream) : InHall [.streams] s { s with hall := { s.hall with streams := x } } :=
  ⟨fun p no => by cases p <;> simp_all [HallPart.same]⟩

theorem inHall_mtx (x : List McastTx) : InHall [.mtx] s { s with hall := { s.hall with mtx := x } } :=
  ⟨fun p no => by cases p <;> simp_all [HallPart.same]⟩

theorem inHall_mrx (x : Table (Option McastRx)) : InHall [.mrx] s { s with hall := { s.hall with mrx := x } } :=
  ⟨fun p no => by cases p <;> simp_all [HallPart.same]⟩

theorem inHall_mgmtIn (x : List (HallPort × Sys2Proof.Frame)) : InHall [.mgmtIn] s { s with hall := { s.hall with mgmtIn := x } } :=
  ⟨fun p no => by cases p <;> simp_all [HallPart.same]⟩

theorem inHall_pushMsgs (d : Nat) (body : List Byte) : InHall [.msgs] s (s.pushMsgs d body) :=
  inHall_msgs ..

theorem inHall_stamp (p : HallPort) (sent : Bool) (f : Sys2Proof.Frame) : InHall [.stamps] s (s.stamp p sent f) :=
  .ite (inHall_stamps ..) (.refl _ s)

theorem inHall_noteSec (p : HallPort) (f : Sys2Proof.Frame) : InHall [.ports] s (s.noteSec p f) := by
  unfold State.noteSec
  split
  · exact .ite (inHall_updPort ..) (.refl ..)
  · exact .refl ..

theorem inHall_putOnWire (p : Nat) (f : Sys2Proof.Frame) : InHall [.ports, .wire] s (s.putOnWire p f) := by
  unfold State.putOnWire
  extract_lets t
  exact (inHall_wire t _).after (inHall_updPort ..).mono

theorem inHall_renewSa (p : Nat) (a : Sa) : InHall [.keying] s (s.renewSa p a) :=
  .ite (inHall_keying ..) (.refl _ s)

theorem inHall_emit (p : Nat) (mac : BitVec 48) (etype : Nat) (body : List Byte) :
    InHall [.ports, .keying, .wire] s (s.emit p mac etype body) := by
  unfold State.emit
  extract_lets cfg vlan sec frame
  refine .ite ?_ (inHall_putOnWire ..).mono
  split
  · exact .ite ((inHall_putOnWire ..).after ((inHall_updPort ..).after (inHall_renewSa ..).mono)) (.refl _ s)
  · exact .refl _ s

end

/-! ## What sending to a peer can change -/

/-- The fields of a connection that a frame to its peer leaves: its state, its windows, its timer and what it has received. -/
structure SameConn (c c' : Conn) : Prop where
  state    : c'.state = c.state
  txSeq    : c'.txSeq = c.txSeq
  peerWin  : c'.peerWin = c.peerWin
  rxNext   : c'.rxNext = c.rxNext
  held     : c'.held = c.held
  granted  : c'.granted = c.granted
  rto      : c'.rto = c.rto
  deadline : c'.deadline = c.deadline
  expiries : c'.expiries = c.expiries
  expired  : c'.expired = c.expired
  heard    : c'.heard = c.heard

theorem SameConn.refl (c : Conn) : SameConn c c := by constructor <;> rfl

theorem SameConn.trans {a b c : Conn} (h : SameConn a b) (k : SameConn b c) : SameConn a c where
  state := k.state.trans h.state
  txSeq := k.txSeq.trans h.txSeq
  peerWin := k.peerWin.trans h.peerWin
  rxNext := k.rxNext.trans h.rxNext
  held := k.held.trans h.held
  granted := k.granted.trans h.granted
  rto := k.rto.trans h.rto
  deadline := k.deadline.trans h.deadline
  expiries := k.expiries.trans h.expiries
  expired := k.expired.trans h.expired
  heard := k.heard.trans h.heard

/-- What sending to a peer can change: its connection's queue, the sends of its frames and what it is owed, the ports, the wire,
and, when the staging of a frame has failed, the streams of the peer. -/
structure SendsTo (d : Nat) (s t : State) : Prop where
  pieces : OnlyTouches [.regs, .mem, .sramErr, .hall, .flt] s t
  hall   : InHall [.conns, .ports, .streams, .keying, .wire] s t
  conns  : KeepsConns [d] s t
  conn   : SameConn (s.conn d) (t.conn d)
  seqs   : (t.conn d).unacked.map TxFrame.seq = (s.conn d).unacked.map TxFrame.seq

namespace SendsTo
variable {d : Nat} {s t u : State}

theorem refl (d : Nat) (s : State) : SendsTo d s s := ⟨.refl _ _, .refl _ _, .refl _ _, .refl _, rfl⟩

theorem trans (h : SendsTo d s t) (k : SendsTo d t u) : SendsTo d s u where
  pieces := h.pieces.trans k.pieces
  hall := h.hall.trans k.hall
  conns := h.conns.trans k.conns
  conn := h.conn.trans k.conn
  seqs := k.seqs.trans h.seqs

theorem foldl {α : Type} {f : State → α → State} (step : ∀ t a, SendsTo d t (f t a)) (l : List α) (s : State) :
    SendsTo d s (l.foldl f s) := by
  induction l generalizing s with
  | nil => exact .refl d s
  | cons a l ih => exact (step s a).trans (ih (f s a))

/-- An operation that leaves the connections. -/
theorem of_hall (pieces : OnlyTouches [.regs, .mem, .sramErr, .hall, .flt] s t)
    (hall : InHall [.ports, .streams, .keying, .wire] s t) (d : Nat) : SendsTo d s t where
  pieces := pieces
  hall := hall.mono
  conns := hall.keepsConns _
  conn := by
    rw [hall.conn d]
    exact .refl _
  seqs := by rw [hall.conn d]

/-- An operation that leaves the hall. -/
theorem of_touches (h : OnlyTouches [.regs, .mem, .sramErr, .flt] s t) (d : Nat) : SendsTo d s t :=
  .of_hall (h.mono (by decide)) (.of_touches h) d

/-- A write of the peer's connection. -/
theorem of_updConn {f : Conn → Conn} (keeps : SameConn (s.conn d) (f (s.conn d)))
    (seqs : (f (s.conn d)).unacked.map TxFrame.seq = (s.conn d).unacked.map TxFrame.seq) : SendsTo d s (s.updConn d f) where
  pieces := (within_updConn s d f).touches.mono (by decide)
  hall := (inHall_updConn ..).mono
  conns := keepsConns_updConn s d f
  conn := by
    rw [conn_updConn_self]
    exact keeps
  seqs := by rw [conn_updConn_self, seqs]

end SendsTo

section
variable (s : State) (d : Nat)

theorem sendsTo_queueFrame (f : TxFrame) : SendsTo d s (s.queueFrame d f) := .of_updConn (by constructor <;> rfl) rfl

theorem sendsTo_queueStaged (f : TxFrame) : SendsTo d s (s.queueStaged d f) :=
  (SendsTo.of_touches ((within_stageTx s f).touches.mono (by decide)) d).trans (sendsTo_queueFrame ..)

theorem sendsTo_abortTo (id reason : Nat) : SendsTo d s (s.abortTo d id reason) := sendsTo_queueStaged ..

theorem sendsTo_stagingFailed (f : TxFrame) : SendsTo d s (s.stagingFailed d f) := by
  unfold State.stagingFailed
  split
  · exact .refl d s
  · exact (SendsTo.of_hall ((within_mapStreams s _).touches.mono (by decide)) (inHall_mapStreams s _).mono d).trans
      (sendsTo_abortTo ..)

theorem sendsTo_emit (p : Nat) (mac : BitVec 48) (etype : Nat) (body : List Byte) : SendsTo d s (s.emit p mac etype body) :=
  .of_hall ((within_emit s p mac etype body).touches.mono (by decide)) (inHall_emit ..).mono d

theorem sendsTo_sendBy (mask ty flags seq stream : Nat) (payload : List Byte) :
    SendsTo d s (s.sendBy mask d ty flags seq stream payload) := by
  unfold State.sendBy
  split
  · exact .refl d s
  · split
    · exact (SendsTo.of_updConn (by constructor <;> rfl) rfl).trans (sendsTo_emit ..)
    · exact .refl d s

theorem sendsTo_txPayload (f : TxFrame) : SendsTo d s (s.txPayload f).2 :=
  .of_touches ((within_txPayload s f).touches.mono (by decide)) d

theorem sendsTo_sendSeq (f : TxFrame) : SendsTo d s (s.sendSeq d f) := by
  have read := sendsTo_txPayload s d f
  unfold State.sendSeq
  split
  next t e =>
    rw [e] at read
    exact read.trans (sendsTo_stagingFailed ..)
  next bs t e =>
    rw [e] at read
    exact read.trans (sendsTo_sendBy ..)

theorem sendsTo_resend (f : TxFrame) : SendsTo d s (s.resend d f) := by
  refine ((SendsTo.of_updConn ?_ ?_).trans (sendsTo_sendSeq ..)).trans
    (.of_touches ((touches_count _ _ _ _ _).mono (by decide)) d)
  · constructor <;> rfl
  · rw [List.map_map]
    refine List.map_congr_left fun x _ => ?_
    rw [Function.comp]
    split
    next same => exact same.symm
    · rfl

end

/-! ## What the fields of a received frame can change -/

theorem inHall_ackStream (s : State) (d : Nat) (f : TxFrame) : InHall [.streams] s (s.ackStream d f) := by
  unfold State.ackStream
  extract_lets n hit u
  have rings : InHall [.streams] s u := .of_touches (l := [.parts]) (.foldl (fun t x => by
    split
    · exact touches_updPart _ _ _
    · exact .refl _ _) hit s)
  exact .ite (.refl _ s) ((inHall_mapStreams ..).after rings)

/-- The acknowledgement and the barrier field of a frame: what they leave of the connection, and what they can change. -/
structure TakesFrom (d : Nat) (s t : State) : Prop where
  pieces  : OnlyTouches [.regs, .mem, .sramErr, .parts, .hall, .flt] s t
  hall    : InHall [.conns, .ports, .streams, .keying, .wire, .groups, .bars] s t
  conns   : KeepsConns [d] s t
  state   : (t.conn d).state = (s.conn d).state
  rxNext  : (t.conn d).rxNext = (s.conn d).rxNext
  held    : (t.conn d).held = (s.conn d).held
  granted : (t.conn d).granted = (s.conn d).granted

namespace TakesFrom
variable {d : Nat} {s t u : State}

theorem trans (h : TakesFrom d s t) (k : TakesFrom d t u) : TakesFrom d s u where
  pieces := h.pieces.trans k.pieces
  hall := h.hall.trans k.hall
  conns := h.conns.trans k.conns
  state := k.state.trans h.state
  rxNext := k.rxNext.trans h.rxNext
  held := k.held.trans h.held
  granted := k.granted.trans h.granted

theorem of_sendsTo (h : SendsTo d s t) : TakesFrom d s t where
  pieces := h.pieces.mono (by decide)
  hall := h.hall.mono
  conns := h.conns
  state := h.conn.state
  rxNext := h.conn.rxNext
  held := h.conn.held
  granted := h.conn.granted

/-- An operation that leaves the connections. -/
theorem of_hall (pieces : OnlyTouches [.regs, .mem, .sramErr, .parts, .hall, .flt] s t)
    (hall : InHall [.ports, .streams, .keying, .wire, .groups, .bars] s t) (d : Nat) : TakesFrom d s t where
  pieces := pieces
  hall := hall.mono
  conns := hall.keepsConns _
  state := by rw [hall.conn d]
  rxNext := by rw [hall.conn d]
  held := by rw [hall.conn d]
  granted := by rw [hall.conn d]

theorem refl (d : Nat) (s : State) : TakesFrom d s s := .of_hall (.refl _ _) (.refl _ _) d

theorem of_updConn {f : Conn → Conn} (state : (f (s.conn d)).state = (s.conn d).state)
    (rxNext : (f (s.conn d)).rxNext = (s.conn d).rxNext) (held : (f (s.conn d)).held = (s.conn d).held)
    (granted : (f (s.conn d)).granted = (s.conn d).granted) : TakesFrom d s (s.updConn d f) where
  pieces := (within_updConn s d f).touches.mono (by decide)
  hall := (inHall_updConn ..).mono
  conns := keepsConns_updConn s d f
  state := by rw [conn_updConn_self, state]
  rxNext := by rw [conn_updConn_self, rxNext]
  held := by rw [conn_updConn_self, held]
  granted := by rw [conn_updConn_self, granted]

end TakesFrom

/-- An acknowledgement that is taken, in three steps: the streams move, the acknowledged frames leave, and gaps are resent. -/
theorem takeAck_steps (s : State) (d : Nat) (h : List Byte) (good : (hdrFlags h).testBit 0 = true)
    (now : s.lateAck d (hdrAck h) (hdrSack h) = false) : ∃ (u : State) (f : Conn → Conn) (gaps : List TxFrame),
      s.takeAck d h = gaps.foldl (fun t f => State.resend t d f) (u.updConn d f) ∧ TakesFrom d s u ∧ u.conn d = s.conn d ∧
      (f (s.conn d)).unacked = (s.conn d).unacked.filter (fun f => !names (hdrAck h) (hdrSack h) f.seq) ∧
      TakesFrom d u (u.updConn d f) := by
  unfold State.takeAck
  extract_lets c ack sack late gone left u advanced v
  have acked : InHall [.streams] s u := .foldl (fun t f => inHall_ackStream t d f) gone s
  have pieces : OnlyTouches [.regs, .mem, .sramErr, .parts, .hall, .flt] s u :=
    .foldl (fun t f => (within_ackStream t d f).touches.mono (by decide)) gone s
  refine ⟨u, ?change, gapFrames ack sack left, ?run, .of_hall pieces acked.mono d, acked.conn d, ?left, ?keeps⟩
  case run =>
    rw [if_neg (by simp [good]), if_neg (by rw [show late = false from now]; decide)]
  case left => rfl
  case keeps => exact .of_updConn rfl rfl rfl rfl

theorem takeAck_late (s : State) (d : Nat) (h : List Byte) (good : (hdrFlags h).testBit 0 = true)
    (late : s.lateAck d (hdrAck h) (hdrSack h) = true) :
    s.takeAck d h = (s.updConn d (fun c => { c with expired := none })).count Reg.hftPeerstat 47 32 1 := by
  unfold State.takeAck
  exact (if_neg (by simp [good])).trans (if_pos late)

theorem takesFrom_count (s : State) (d off hi lo n : Nat) : TakesFrom d s (s.count off hi lo n) :=
  .of_hall ((touches_count s off hi lo n).mono (by decide)) (.of_touches (touches_count s off hi lo n)) d

theorem takesFrom_takeAck (s : State) (d : Nat) (h : List Byte) : TakesFrom d s (s.takeAck d h) := by
  cases good : (hdrFlags h).testBit 0 with
  | false =>
    have none : s.takeAck d h = s := if_pos (by rw [good]; rfl)
    rw [none]
    exact .refl d s
  | true =>
    cases late : s.lateAck d (hdrAck h) (hdrSack h) with
    | true =>
      rw [takeAck_late s d h good late]
      exact (TakesFrom.of_updConn rfl rfl rfl rfl).trans (takesFrom_count ..)
    | false =>
      obtain ⟨u, f, gaps, run, first, same, _, second⟩ := takeAck_steps s d h good late
      rw [run]
      exact (first.trans second).trans (.of_sendsTo (.foldl (fun t f => sendsTo_resend t d f) gaps _))

theorem takesFrom_takeBarrier (s : State) (d field : Nat) : TakesFrom d s (s.takeBarrier d field) := by
  refine .of_hall ((within_takeBarrier s d field).touches.mono (by decide)) ?_ d
  unfold State.takeBarrier
  extract_lets code g
  split
  · exact .refl _ s
  · split
    · exact .refl _ s
    · split
      · exact .refl _ s
      · split
        · exact (inHall_bars ..).after (inHall_setGroup ..).mono
        · exact .of_touches (touches_count s Reg.hftBarstat 63 48 1)

theorem takesFrom_takeFields (s : State) (d : Nat) (h : List Byte) : TakesFrom d s (s.takeFields d h) :=
  (takesFrom_takeAck s d h).trans (takesFrom_takeBarrier ..)

/-! ## Frames as a port receives them (R255 to R264, R268, R282, R406) -/

theorem leAt_take (l : List Byte) {off len n : Nat} (inside : off + len ≤ n) : leAt (l.take n) off len = leAt l off len := by
  rw [leAt, leAt, slice, slice, List.drop_take, List.take_take, Nat.min_eq_left (by omega)]

/-- The header's fields are those of the frame. -/
theorem header_take (b : List Byte) : hdrType (b.take 32) = hdrType b ∧ hdrSrc (b.take 32) = hdrSrc b ∧
    hdrFlags (b.take 32) = hdrFlags b ∧ hdrSeq (b.take 32) = hdrSeq b := by
  refine ⟨congrArg (bitsN · 3 0) (leAt_take b (by decide)), congrArg (bitsN · 9 0) (leAt_take b (by decide)), ?_, ?_⟩
  · exact leAt_take b (by decide)
  · exact leAt_take b (by decide)

/-- A verdict whose step, if it has one, is one of the receive checks, 2 to 9 (R258). -/
def stepInRange (v : Verdict) : Bool :=
  match v with
  | .stranger k => decide (2 ≤ k ∧ k ≤ 9)
  | _ => true

theorem stepInRange_ite {c : Prop} [Decidable c] {v w : Verdict} (hv : stepInRange v = true) (hw : stepInRange w = true) :
    stepInRange (if c then v else w) = true := by
  split
  · exact hv
  · exact hw

theorem stepInRange_verdict (s : State) (p : Nat) (f : Sys2Proof.Frame) : stepInRange (s.verdict p f) = true := by
  unfold State.verdict
  extract_lets
  iterate 7 refine stepInRange_ite rfl ?_
  extract_lets
  iterate 3 refine stepInRange_ite rfl ?_
  rfl

theorem stranger_step {s : State} {p : Nat} {f : Sys2Proof.Frame} {k : Nat} (h : s.verdict p f = .stranger k) :
    2 ≤ k ∧ k ≤ 9 := by
  have := stepInRange_verdict s p f
  rw [h] at this
  exact of_decide_eq_true this

/-- A frame whose step is counted: the count, the port's note, and the message when none was sent since the counters were read. -/
theorem stranger_spec {s : State} (room : s.flt.queue.length < 64) (p : HallPort) {k : Nat} (low : 2 ≤ k) (high : k ≤ 9) :
    Frame [.regs, .hall, .flt] [Reg.hfbStrcnt p] s (s.stranger p k) ∧
    (s.stranger p k).rf (Reg.hfbStrcnt p) (8 * (k - 2) + 7) (8 * (k - 2)) =
      satAdd 255 (s.rf (Reg.hfbStrcnt p) (8 * (k - 2) + 7) (8 * (k - 2))) 1 ∧
    (s.stranger p k).hport p = { s.hport p with stranger := true } ∧
    ((s.hport p).stranger = true → (s.stranger p k).flt = s.flt) ∧
    ((s.hport p).stranger = false → ∃ m ∈ (s.stranger p k).flt.queue, m.msg = faultMsg (blockSrc 3 p) 0x72 p) := by
  have counted := frame_count s (Reg.hfbStrcnt p) (8 * (k - 2) + 7) (8 * (k - 2)) 1
  have count := rf_count_self s (Reg.hfbStrcnt p) (hi := 8 * (k - 2) + 7) (lo := 8 * (k - 2)) 1 (by omega) (by omega)
  rw [show 8 * (k - 2) + 7 + 1 - 8 * (k - 2) = 8 by omega] at count
  unfold State.stranger
  obtain ⟨u, eu⟩ : ∃ u, s.count (Reg.hfbStrcnt p) (8 * (k - 2) + 7) (8 * (k - 2)) 1 = u := ⟨_, rfl⟩
  rw [eu] at counted count ⊢
  have port : u.hport p = s.hport p := (InHall.of_touches (ps := []) counted.pieces).hport p
  dsimp only
  split
  next noted =>
    refine ⟨counted.mono, count, ?_, fun _ => counted.pieces .flt (by decide), fun new => absurd noted (by simp [new])⟩
    rw [port, ← noted]
  next new =>
    obtain ⟨v, ev⟩ : ∃ v, u.updPort p (fun x => { x with stranger := true }) = v := ⟨_, rfl⟩
    have noted : Frame [.hall] [] u v := ev ▸ .of_within (within_updPort ..)
    have before := (noted.mono (ps := [.regs, .hall]) (rs := [Reg.hfbStrcnt p])).comp counted.mono
    have room' : v.flt.queue.length < 64 := by
      rw [before.pieces .flt (by decide)]
      exact room
    rw [ev]
    have message := report_message v (blockSrc 3 p) 0x72 p 127 room'
    obtain ⟨w, ew⟩ : ∃ w, v.report (blockSrc 3 p) 0x72 p 127 = w := ⟨_, rfl⟩
    have sent : Frame [.flt] [] v w := by
      rw [← ew, report_spec _ _ _ _ _ room']
      exact .of_within (within_flt (s := v) _ fun _ => by rw [length_placeMsg]; omega)
    rw [ew] at message ⊢
    refine ⟨(sent.mono (ps := [.regs, .hall, .flt]) (rs := [Reg.hfbStrcnt p])).comp before.mono, ?_, ?_,
      fun noted => absurd noted new, fun _ => ?_⟩
    · rw [sent.rf (by simp), noted.rf (by simp)]
      exact count
    · rw [(InHall.of_touches (ps := []) sent.pieces).hport p, ← ev, hport_updPort_self, port]
    · obtain ⟨m, mem, msg, _⟩ := message
      exact ⟨m, mem, msg⟩

/-- What noting a tag's packet number leaves: every part of the hall but its ports. -/
theorem frame_noteSec (s : State) (p : HallPort) (f : Sys2Proof.Frame) : Frame [.hall] [] s (s.noteSec p f) :=
  .of_within (within_noteSec s p f)

theorem mgmtCount_noteSec (s : State) (p : HallPort) (f : Sys2Proof.Frame) : (s.noteSec p f).mgmtCount p = s.mgmtCount p := by
  have clk : (s.noteSec p f).clk = s.clk := (frame_noteSec s p f).pieces .clk (by decide)
  rw [State.mgmtCount, State.mgmtCount, clk]
  unfold State.noteSec
  split
  · split
    · rw [hport_updPort_self]
      rfl
    · rfl
  · rfl

theorem hport_putOnWire (s : State) (p : Nat) (f : Sys2Proof.Frame) : (s.putOnWire p f).hport p = { s.hport p with
    lastSent := s.clk.wall, backlog := s.portQueue p + 3 * (f.size + 20), backAt := s.clk.wall } := by
  unfold State.putOnWire
  exact ((inHall_wire _ _).hport p).trans (hport_updPort_self ..)

/-- A management frame that a port takes: it waits for the Gatehouse and is counted, and a PTP event message is timestamped. -/
theorem management_spec (s : State) (p : HallPort) (f : Sys2Proof.Frame) :
    InHall [.ports, .stamps, .mgmtIn, .wire] s (s.management p f) ∧
    (s.management p f).hall.mgmtIn = s.hall.mgmtIn ++ [(p, f)] ∧
    ((s.management p f).hport p).mgmt = s.mgmtCount p + 1 ∧
    (ptpEvent f = true → (p, false, s.stampNow p false) ∈ (s.management p f).hall.stamps) := by
  unfold State.management
  extract_lets n u body reply src v
  obtain ⟨w, ew⟩ : ∃ w, s.updPort p (fun x => { x with mgmt := n, mgmtSec := secondOf s.clk.wall }) = w := ⟨_, rfl⟩
  have noted : InHall [.ports] s w := ew ▸ inHall_updPort ..
  have regs : OnlyTouches [.hall] s w := ew ▸ (within_updPort ..).touches
  have count : (w.hport p).mgmt = s.mgmtCount p + 1 := by
    rw [← ew, hport_updPort_self]
  have now : w.stampNow p false = s.stampNow p false := by
    rw [State.stampNow, State.stampNow, State.reg_of_regs (regs .regs (by decide)).1, regs .clk (by decide)]
  have eu : u = w.stamp p false f := ew ▸ rfl
  have stamped : InHall [.stamps] w u := eu ▸ inHall_stamp ..
  have taken : InHall [.mgmtIn] u v := inHall_mgmtIn ..
  have stamp (h : ptpEvent f = true) : (p, false, s.stampNow p false) ∈ v.hall.stamps := by
    rw [show v.hall.stamps = u.hall.stamps from taken.same .stamps (by simp), eu, State.stamp, if_pos h, now]
    exact List.mem_append_right _ (List.mem_singleton.mpr rfl)
  have waits : v.hall.mgmtIn = s.hall.mgmtIn ++ [(p, f)] := by
    have before : u.hall.mgmtIn = s.hall.mgmtIn :=
      (stamped.same .mgmtIn (by simp)).trans (noted.same .mgmtIn (by simp))
    rw [← before]
  have port : v.hport p = w.hport p := (taken.hport p).trans (stamped.hport p)
  have hall : InHall [.ports, .stamps, .mgmtIn, .wire] s v := taken.after (stamped.after noted.mono)
  clear_value v src reply body
  split
  · exact ⟨hall, waits, by rw [port, count], stamp⟩
  · obtain ⟨x, ex⟩ : ∃ x, v.stamp p true reply = x := ⟨_, rfl⟩
    have again : InHall [.stamps] v x := ex ▸ inHall_stamp ..
    have more : ∀ y ∈ v.hall.stamps, y ∈ x.hall.stamps := by
      intro y hy
      rw [← ex, State.stamp]
      split
      · exact List.mem_append_left _ hy
      · exact hy
    have sent := inHall_putOnWire x p reply
    rw [ex]
    refine ⟨sent.after (again.after hall), ?_, ?_, fun h => ?_⟩
    · rw [show _ = x.hall.mgmtIn from sent.same .mgmtIn (by simp), show _ = v.hall.mgmtIn from again.same .mgmtIn (by simp), waits]
    · rw [hport_putOnWire, again.hport p, port, count]
    · rw [show _ = x.hall.stamps from sent.same .stamps (by simp)]
      exact more _ (stamp h)

/-! ## Control frames in order (R264, R265) -/

/-- The next CTRL frame in order, on a connection that holds none, is delivered at once: its messages wait. -/
theorem acceptSeq_next (s : State) (d stream : Nat) (payload : List Byte) (none : (s.conn d).held = []) :
    s.acceptSeq d (s.conn d).rxNext true stream payload = s.updConn d (fun c => { c with
      held := c.held ++ [{ seq := (s.conn d).rxNext, isCtrl := true, stream := stream, payload := payload }]
      outOfOrder := c.outOfOrder || !c.noGap 0 }) := by
  unfold State.acceptSeq
  extract_lets c dist mark
  have zero : dist = 0 := by
    rw [show dist = ((s.conn d).rxNext + 2 ^ 32 - (s.conn d).rxNext) % 2 ^ 32 from rfl, Nat.add_sub_cancel_left, Nat.mod_self]
  clear_value dist
  subst zero
  rw [if_neg (by simp), if_neg (by rw [show c.held = [] from none, List.any_nil]; decide), if_pos rfl]

/-- Such a frame in full: its messages wait, the next frame is expected, and nothing is held. -/
theorem deliver_next (s : State) (d stream : Nat) (payload : List Byte) (none : (s.conn d).held = []) : ∃ t,
    (s.acceptSeq d (s.conn d).rxNext true stream payload).deliverHeld d false
      ((s.acceptSeq d (s.conn d).rxNext true stream payload).conn d).held.length = t ∧
    t.hall.msgs = s.hall.msgs ++ (chunks 16 payload).map (fun m => ⟨d, m⟩) ∧
    (t.conn d).rxNext = ((s.conn d).rxNext + 1) % 2 ^ 32 ∧ (t.conn d).held = [] ∧ (t.conn d).state = (s.conn d).state ∧
    KeepsConns [d] s t ∧ OnlyTouches [.hall] s t := by
  rw [acceptSeq_next s d stream payload none]
  obtain ⟨u, eu⟩ : ∃ u, s.updConn d (fun c => { c with
    held := c.held ++ [{ seq := (s.conn d).rxNext, isCtrl := true, stream := stream, payload := payload }]
    outOfOrder := c.outOfOrder || !c.noGap 0 }) = u := ⟨_, rfl⟩
  have conn : u.conn d = { s.conn d with
      held := [{ seq := (s.conn d).rxNext, isCtrl := true, stream := stream, payload := payload }]
      outOfOrder := (s.conn d).outOfOrder || !(s.conn d).noGap 0 } := by
    rw [← eu, conn_updConn_self, none, List.nil_append]
  have marked : InHall [.conns] s u := eu ▸ inHall_updConn ..
  have keeps : KeepsConns [d] s u := eu ▸ keepsConns_updConn s d _
  have pieces : OnlyTouches [.hall] s u := eu ▸ (within_updConn s d _).touches
  have run : u.deliverHeld d false (u.conn d).held.length = (u.pushMsgs d payload).delivered d := by
    rw [conn]
    unfold State.deliverHeld
    simp [conn, State.deliverHeld]
  have said : InHall [.msgs] u (u.pushMsgs d payload) := inHall_pushMsgs ..
  have moved : InHall [.conns] (u.pushMsgs d payload) ((u.pushMsgs d payload).delivered d) := inHall_updConn ..
  have final : ((u.pushMsgs d payload).delivered d).conn d = _ := conn_updConn_self ..
  rw [said.conn d, conn] at final
  rw [eu, run]
  refine ⟨_, rfl, ?_, ?_, ?_, ?_, ?_, ?_⟩
  · rw [show _ = (u.pushMsgs d payload).hall.msgs from moved.same .msgs (by simp), ← marked.same .msgs (by simp)]
    rfl
  · rw [final]
  · rw [final]
    simp
  · rw [final]
  · exact (keeps.trans (said.keepsConns _)).trans (keepsConns_updConn _ d _)
  · exact (pieces.trans (within_pushMsgs ..).touches).trans (within_updConn _ d _).touches

/-! ## What a port does with a frame of the transport -/

/-- A frame that waits for its command. -/
def State.keepFrame (s : State) (p : HallPort) (h body : List Byte) : State :=
  { s with hall := { s.hall with frames := s.hall.frames ++ [⟨p, h, body⟩] } }

theorem inHall_keepFrame (s : State) (p : HallPort) (h body : List Byte) : InHall [.frames] s (s.keepFrame p h body) :=
  inHall_frames ..

theorem frame_keepFrame (s : State) (p : HallPort) (h body : List Byte) : Frame [.hall] [] s (s.keepFrame p h body) :=
  .of_within (within_hall (s := s) _)

theorem receive_eq (s : State) (p : HallPort) (b body : List Byte) : s.receive p (b.take 32) body =
    if hdrType b = 6 then s.keepFrame p (b.take 32) body
    else if s.asleep ∨ !s.hallOn then s
    else if s.peerExpired (hdrSrc b) ∧ (hdrFlags b).testBit 0 then s.count Reg.hftPeerstat 47 32 1
    else if hdrType b = 1 then
      (s.updConn (hdrSrc b) (fun c => { c with heard := s.clk.wall })).receiveCtrl (hdrSrc b) (b.take 32) body
    else (s.updConn (hdrSrc b) (fun c => { c with heard := s.clk.wall })).keepFrame p (b.take 32) body := by
  obtain ⟨type, src, flags, _⟩ := header_take b
  unfold State.receive
  simp only [type, src, flags]
  rfl

section
variable {p : HallPort} {f : Sys2Proof.Frame} {s : State} (up : s.linkUp p = true)
include up

theorem frameReceive_verdict : exec (.frameReceive p f) s = .next (match s.verdict p f with
    | .noise => s.count (Reg.hfbPortstat p) 31 8 1
    | .stranger k => s.stranger p k
    | .management => (s.noteSec p f).management p f
    | .transport => (s.noteSec p f).receive p (f.body.take 32) (f.body.drop 32)) := by
  rw [show exec (.frameReceive p f) s = execFrameReceive p f s from rfl, execFrameReceive]
  exact congrArg Host.Outcome.next (if_pos up)

end

/-- A port's checks of the module's own state see the same after a tag's packet number is noted. -/
theorem checks_noteSec (s : State) (p : HallPort) (f : Sys2Proof.Frame) (d : Nat) :
    (s.noteSec p f).asleep = s.asleep ∧ (s.noteSec p f).hallOn = s.hallOn ∧
    (s.noteSec p f).peerExpired d = s.peerExpired d ∧ (s.noteSec p f).conn d = s.conn d := by
  have frame := frame_noteSec s p f
  have conn := (inHall_noteSec s p f).conn d
  refine ⟨?_, ?_, ?_, conn⟩
  · rw [State.asleep, State.asleep, frame.pieces .pwr (by decide)]
  · rw [State.hallOn, State.hallOn, frame.rf (by simp)]
  · rw [State.peerExpired, State.peerExpired, conn, frame.rf (by simp), frame.pieces .clk (by decide)]

/-- Settles O25: the verdict's effect, and for a frame of the transport the branch of the receiver that it takes. -/
theorem frameReceiveChecks : Obligations.FrameReceiveChecks := by
  refine fun p f s => ⟨fun down => ?down, fun up => ?up⟩
  case down =>
    rw [show exec (.frameReceive p f) s = execFrameReceive p f s from rfl, execFrameReceive]
    exact congrArg Host.Outcome.next (if_neg (by simp [down]))
  have run := frameReceive_verdict (f := f) up
  refine ⟨fun verdict => ?noise, fun k verdict room => ?stranger, fun verdict => ?management, fun verdict => ?transport⟩
  all_goals rw [verdict] at run
  case noise => exact run
  case stranger =>
    obtain ⟨low, high⟩ := stranger_step verdict
    obtain ⟨frame, count, port, old, new⟩ := stranger_spec room p low high
    exact ⟨_, run, count, port, old, new, frame.regs, frame.pieces⟩
  case management =>
    obtain ⟨hall, waits, count, stamp⟩ := management_spec (s.noteSec p f) p f
    have noted := inHall_noteSec s p f
    have frame := frame_noteSec s p f
    have stampNow : (s.noteSec p f).stampNow p false = s.stampNow p false := by
      rw [State.stampNow, State.stampNow, frame.reg (by simp), frame.pieces .clk (by decide)]
    rw [stampNow] at stamp
    rw [mgmtCount_noteSec] at count
    refine ⟨_, run, ?_, count, stamp, ?_, ?_, frame.pieces.trans (within_management ..).touches⟩
    · rw [waits, show _ = s.hall.mgmtIn from noted.same .mgmtIn (by simp)]
    · exact Eq.trans (hall.same .conns (by simp)) (noted.same .conns (by simp))
    · exact Eq.trans (hall.same .frames (by simp)) (noted.same .frames (by simp))
  case transport =>
    obtain ⟨asleep, on, expired, conn⟩ := checks_noteSec s p f (hdrSrc f.body)
    obtain ⟨v, ev⟩ : ∃ v, s.noteSec p f = v := ⟨_, rfl⟩
    have noted : InHall [.ports] s v := ev ▸ inHall_noteSec ..
    have frame : Frame [.hall] [] s v := ev ▸ frame_noteSec ..
    have frames : v.hall.frames = s.hall.frames := noted.same .frames (by simp)
    have conns : v.hall.conns = s.hall.conns := noted.same .conns (by simp)
    have msgs : v.hall.msgs = s.hall.msgs := noted.same .msgs (by simp)
    dsimp only at run
    rw [ev] at run asleep on expired conn
    rw [receive_eq, asleep, on, expired] at run
    refine ⟨fun wake => ?wake, fun off notWake => ?off, fun awake on notWake late acks => ?late,
      fun awake on notWake inTime => ⟨fun notCtrl => ?keeps, fun ctrl live none inOrder notOpen => ?ctrl⟩⟩
    case wake =>
      rw [if_pos wake] at run
      have kept := inHall_keepFrame v p (f.body.take 32) (f.body.drop 32)
      refine ⟨_, run, ?_, Eq.trans (kept.same .conns (by simp)) conns, Eq.trans (kept.same .msgs (by simp)) msgs,
        frame.pieces.trans (frame_keepFrame ..).pieces⟩
      rw [← frames]
      rfl
    case off =>
      rw [if_neg notWake, if_pos (by simpa using off)] at run
      exact ⟨v, run, frames, conns, msgs, frame.pieces⟩
    case late =>
      rw [if_neg notWake, if_neg (by simp [awake, on]), if_pos ⟨late, acks⟩] at run
      have counted := frame_count v Reg.hftPeerstat 47 32 1
      have hall : InHall [] v (v.count Reg.hftPeerstat 47 32 1) := .of_touches counted.pieces
      have all := (counted.mono (ps := [.regs, .hall]) (rs := [Reg.hftPeerstat])).comp frame.mono
      refine ⟨_, run, Eq.trans (hall.same .frames (by simp)) frames, Eq.trans (hall.same .conns (by simp)) conns, ?_, all.regs,
        all.pieces⟩
      rw [rf_count_self _ _ _ (by decide) (by decide), frame.rf (by simp)]
    all_goals
      rw [if_neg notWake, if_neg (by simp [awake, on]), if_neg inTime] at run
      obtain ⟨w, ew⟩ : ∃ w, v.updConn (hdrSrc f.body) (fun c => { c with heard := v.clk.wall }) = w := ⟨_, rfl⟩
      have heard : InHall [.conns] v w := ew ▸ inHall_updConn ..
      have keeps : KeepsConns [hdrSrc f.body] v w := ew ▸ keepsConns_updConn v _ _
      have own : w.conn (hdrSrc f.body) = { s.conn (hdrSrc f.body) with heard := s.clk.wall } := by
        rw [← ew, conn_updConn_self, conn, frame.pieces .clk (by decide)]
      have pieces : OnlyTouches [.hall] s w := frame.pieces.trans (ew ▸ (within_updConn v _ _).touches)
      rw [ew] at run
    case keeps =>
      rw [if_neg notCtrl] at run
      have kept := inHall_keepFrame w p (f.body.take 32) (f.body.drop 32)
      refine ⟨_, run, ?_, (kept.conn _).trans own, ((noted.keepsConns _).trans keeps).trans (kept.keepsConns _),
        pieces.trans (frame_keepFrame ..).pieces⟩
      rw [← frames, ← show w.hall.frames = v.hall.frames from heard.same .frames (by simp)]
      rfl
    case ctrl =>
      rw [if_pos ctrl] at run
      have taken := takesFrom_takeFields w (hdrSrc f.body) (f.body.take 32)
      obtain ⟨u, eu⟩ : ∃ u, w.takeFields (hdrSrc f.body) (f.body.take 32) = u := ⟨_, rfl⟩
      rw [eu] at taken
      have next : hdrSeq (f.body.take 32) = (u.conn (hdrSrc f.body)).rxNext := by
        rw [(header_take f.body).2.2.2, inOrder, taken.rxNext, own]
      have empty : (u.conn (hdrSrc f.body)).held = [] := by
        rw [taken.held, own]
        exact none
      have shape : w.receiveCtrl (hdrSrc f.body) (f.body.take 32) (f.body.drop 32) =
          (u.acceptSeq (hdrSrc f.body) (u.conn (hdrSrc f.body)).rxNext true 0 (f.body.drop 32)).deliverHeld (hdrSrc f.body) false
            ((u.acceptSeq (hdrSrc f.body) (u.conn (hdrSrc f.body)).rxNext true 0 (f.body.drop 32)).conn
              (hdrSrc f.body)).held.length := by
        rw [State.receiveCtrl, eu, ← next]
        refine (if_neg ?_).trans (if_neg ?_)
        · have alive : (w.conn (hdrSrc f.body)).live = true := by
            rw [own]
            exact live
          simp [alive]
        · rw [(header_take f.body).2.2.2]
          exact notOpen
      obtain ⟨t, et, msgs', rxNext, held, state, keeps', pieces'⟩ := deliver_next u (hdrSrc f.body) 0 (f.body.drop 32) empty
      rw [shape, et] at run
      have before : w.hall.msgs = s.hall.msgs := Eq.trans (heard.same .msgs (by simp)) msgs
      refine ⟨t, run, ?_, ?_, held, ?_, (((noted.keepsConns _).trans keeps).trans taken.conns).trans keeps',
        ((pieces.mono (by decide)).trans taken.pieces).trans (pieces'.mono (by decide))⟩
      · rw [msgs', show _ = w.hall.msgs from taken.hall.same .msgs (by simp), before]
      · rw [rxNext, taken.rxNext, own]
      · rw [state, taken.state, own]

/-! ## The order of a connection's frames (R264, R265, R268, R270, R272) -/

section
variable {s : State} {x : Accepted} {xs : List Accepted} (front : s.hall.frames = x :: xs)
include front

/-- A frame of a kind is taken from the front of those that wait. -/
theorem onFrame_front {ty : Nat} (type : hdrType x.hdr = ty) (f : Accepted → State → State) :
    s.onFrame ty f = f x s.nextFrame := by
  unfold State.onFrame State.nextFrame
  rw [front]
  exact if_pos type

theorem data_live (type : hdrType x.hdr = 0) (live : (s.conn (hdrSrc x.hdr)).live = true) :
    exec .data s = .next ((s.nextFrame.takeFields (hdrSrc x.hdr) x.hdr).acceptSeq (hdrSrc x.hdr) (hdrSeq x.hdr) false
      (hdrStream x.hdr) x.body).deliverAll := by
  rw [show exec .data s = execData s from rfl, execData, onFrame_front front type]
  exact congrArg (fun t => Host.Outcome.next (State.deliverAll t)) (if_pos live)

theorem data_dead (type : hdrType x.hdr = 0) (dead : (s.conn (hdrSrc x.hdr)).live = false) :
    exec .data s = .next s.nextFrame.deliverAll := by
  rw [show exec .data s = execData s from rfl, execData, onFrame_front front type]
  exact congrArg (fun t => Host.Outcome.next (State.deliverAll t)) (if_neg (ne_true_of_eq_false dead))

theorem idle_live (type : hdrType x.hdr = 2) (live : (s.conn (hdrSrc x.hdr)).live = true) :
    exec .idle s = .next (s.nextFrame.takeFields (hdrSrc x.hdr) x.hdr) := by
  rw [show exec .idle s = execIdle s from rfl, execIdle, onFrame_front front type]
  exact congrArg Host.Outcome.next (if_pos live)

theorem idle_dead (type : hdrType x.hdr = 2) (dead : (s.conn (hdrSrc x.hdr)).live = false) :
    exec .idle s = .next s.nextFrame := by
  rw [show exec .idle s = execIdle s from rfl, execIdle, onFrame_front front type]
  exact congrArg Host.Outcome.next (if_neg (ne_true_of_eq_false dead))

end

section
variable {s : State} {d seq stream dist : Nat} {isCtrl : Bool} {payload : List Byte}
  (at_ : dist = (seq + 2 ^ 32 - (s.conn d).rxNext) % 2 ^ 32)
include at_

theorem acceptSeq_outside (out : max 1 (s.conn d).granted ≤ dist ∨ (isCtrl = false ∧ (s.conn d).granted = 0)) :
    s.acceptSeq d seq isCtrl stream payload = s.count Reg.hftPeerstat 15 0 1 := by
  subst at_
  exact if_pos (out.imp_right fun h => ⟨by rw [h.1]; rfl, h.2⟩)

variable (inside : dist < max 1 (s.conn d).granted) (admitted : isCtrl = true ∨ 0 < (s.conn d).granted)
include inside admitted

theorem acceptSeq_outcomes : ¬ (max 1 (s.conn d).granted ≤ (seq + 2 ^ 32 - (s.conn d).rxNext) % 2 ^ 32 ∨
    ((!isCtrl) = true ∧ (s.conn d).granted = 0)) := by
  subst at_
  rintro (far | ⟨data, none⟩)
  · omega
  · rcases admitted with ctrl | some_
    · simp [ctrl] at data
    · omega

theorem acceptSeq_copy (copy : ∃ f ∈ (s.conn d).held, f.seq = seq) :
    s.acceptSeq d seq isCtrl stream payload = s.count Reg.hftPeerstat 31 16 1 := by
  have again : (s.conn d).held.any (fun f => f.seq == seq) = true := by simpa using copy
  exact (if_neg (acceptSeq_outcomes at_ inside admitted)).trans (if_pos again)

/-- A connection that holds one more frame. -/
def Conn.holds (c : Conn) (dist : Nat) (f : RxFrame) : Conn :=
  { c with held := c.held ++ [f], outOfOrder := c.outOfOrder || !c.noGap dist }

variable (new : ∀ f ∈ (s.conn d).held, f.seq ≠ seq)
include new

theorem acceptSeq_ctrl (ctrl : isCtrl = true) : s.acceptSeq d seq isCtrl stream payload =
    s.updConn d (fun c => c.holds dist { seq := seq, isCtrl := true, stream := stream, payload := payload }) := by
  have fresh : ¬ (s.conn d).held.any (fun f => f.seq == seq) = true := by simpa using new
  have out := acceptSeq_outcomes at_ inside admitted
  subst at_
  exact (if_neg out).trans ((if_neg fresh).trans (if_pos ctrl))

theorem acceptSeq_data {b off : Nat} (data : isCtrl = false) (slot : s.slotOf d seq = some (b, off)) :
    s.acceptSeq d seq isCtrl stream payload = (s.bufferWrite b off payload).updConn d (fun c => c.holds dist
      { seq := seq, isCtrl := false, stream := stream, buffer := b, offset := off, len := payload.length }) := by
  have fresh : ¬ (s.conn d).held.any (fun f => f.seq == seq) = true := by simpa using new
  have out := acceptSeq_outcomes at_ inside admitted
  unfold State.acceptSeq
  extract_lets c dist' mark
  rw [if_neg out, if_neg fresh, if_neg (by simp [data]), slot]
  subst at_
  rfl

end

/-! ## Acknowledgements (R265, R266) -/

/-- An acknowledgement of frames whose timer has not run out is not late. -/
theorem lateAck_false {s : State} {d ack sack : Nat}
    (timed : ∀ u f fs, (s.conn d).deadline = some u → (s.conn d).unacked = f :: fs → u < s.clk.wall →
      names ack sack f.seq = false)
    (expired : ∀ e, (s.conn d).expired = some e → names ack sack e = false) : s.lateAck d ack sack = false := by
  unfold State.lateAck
  rw [Bool.or_eq_false_iff]
  constructor
  · split
    next u f fs due first =>
      by_cases past : u < s.clk.wall
      · rw [timed u f fs due first past, Bool.and_false]
      · rw [decide_eq_false past, Bool.false_and]
    · rfl
  · split
    next e h => rw [expired e h, Bool.false_and]
    · rfl

theorem lateAck_true {s : State} {d ack sack u : Nat} {f : TxFrame} {fs : List TxFrame} (due : (s.conn d).deadline = some u)
    (first : (s.conn d).unacked = f :: fs) (past : u < s.clk.wall) (named : names ack sack f.seq = true) :
    s.lateAck d ack sack = true := by
  unfold State.lateAck
  dsimp only
  rw [due, first, Bool.or_eq_true]
  exact .inl (by simp [past, named])

/-! ## Bytes that enter a deliver ring (R238, R270) -/

theorem look_foldl_erase (gs : List Nat) (t : Table Nat) (zero : ∀ g, Table.look (fun _ => 0) t g = 0) (g : Nat) :
    Table.look (fun _ => 0) (gs.foldl (fun t g => Table.erase t g) t) g = 0 := by
  induction gs generalizing t with
  | nil => exact zero g
  | cons h gs ih =>
    refine ih _ fun k => ?_
    by_cases same : k = h
    · rw [same, Table.look_erase_self]
    · rw [Table.look_erase_other _ _ same, zero k]

theorem sramGood_bufferWrite {s : State} (good : s.sramGood) (b off : Nat) (bs : List Byte) :
    (s.bufferWrite b off bs).sramGood := by
  rw [bufferWrite_clean (cleanAt_of_good good _ _)]
  exact look_foldl_erase _ _ good

/-- A write of a ring's bytes, the second part of them at the ring's start when they pass its end. -/
theorem enterRing_eq (s : State) (q r : Nat) (b : Binding) (d : RingDesc) (bs : List Byte) :
    s.enterRing q r b d bs =
      (let o := ((s.part q).ring r).moved % d.bytes
       let k := min bs.length (d.bytes - o)
       let u := s.bufferWrite (b.ringPlace d).1 ((b.ringPlace d).2 + o) (bs.take k)
       let v := if k < bs.length then u.bufferWrite (b.ringPlace d).1 (b.ringPlace d).2 (bs.drop k) else u
       v.updPart q (fun p => p.updRing r (fun x => { x with
         fill := x.fill + bs.length, moved := x.moved + bs.length }))) := rfl

/-- A write of no bytes changes none. -/
theorem keepsBytes_none {a : Nat} {s t : State} (h : KeepsBytes a 0 s t) (b n : Nat) : KeepsBytes b n s t :=
  fun i _ => h i (by omega)

/-- Both parts of a ring's bytes are in place, and nothing but the ring's bytes has changed. -/
theorem ringBytes {s : State} (good : s.sramGood) (b at_ o size : Nat) (bs : List Byte) (k : Nat)
    (split : k = min bs.length (size - o)) (fits : bs.length ≤ size) (inside : 0 < size → o < size) (v : State)
    (ev : v = if k < bs.length then (s.bufferWrite b (at_ + o) (bs.take k)).bufferWrite b at_ (bs.drop k)
      else s.bufferWrite b (at_ + o) (bs.take k)) :
    v.rd (bufferBase b + at_ + o) k = bs.take k ∧ v.rd (bufferBase b + at_) (bs.length - k) = bs.drop k ∧
      KeepsBytes (bufferBase b + at_) size s v ∧ Frame [.mem, .sramErr] [] s v := by
  obtain ⟨first, there, keeps⟩ := bufferWrite_good good b (at_ + o) (bs.take k)
  have good' := sramGood_bufferWrite good b (at_ + o) (bs.take k)
  obtain ⟨u, eu⟩ : ∃ u, s.bufferWrite b (at_ + o) (bs.take k) = u := ⟨_, rfl⟩
  rw [eu] at first there keeps good' ev
  have short : (bs.take k).length = k := by rw [List.length_take]; omega
  rw [short, ← Nat.add_assoc] at there keeps
  have whole : KeepsBytes (bufferBase b + at_) size s u := by
    by_cases some_ : 0 < k
    · have := inside (by omega)
      exact keeps.widen (by omega) (by omega)
    · have zero : k = 0 := by omega
      rw [zero] at keeps
      exact keepsBytes_none keeps _ _
  by_cases more : k < bs.length
  · rw [if_pos more] at ev
    obtain ⟨second, there', keeps'⟩ := bufferWrite_good good' b at_ (bs.drop k)
    rw [← ev, List.length_drop] at there' keeps'
    rw [← ev] at second
    have around : bs.length - k ≤ o := by omega
    refine ⟨?_, there', whole.trans (keeps'.widen (by omega) (by omega)), first.trans second⟩
    rw [keeps'.rd (.inr (by omega)), there]
  · rw [if_neg more] at ev
    subst ev
    have all : bs.length - k = 0 := by omega
    refine ⟨there, ?_, whole, first⟩
    rw [all, List.drop_eq_nil_of_le (by omega)]
    rfl

/-- Settles O26: what waits at the front, the cases of a frame's number, the cases of an acknowledgement, and a ring's bytes. -/
theorem framesDeliverInOrder : Obligations.FramesDeliverInOrder := by
  refine ⟨fun s x xs front => ⟨fun type => ⟨data_live front type, data_dead front type⟩,
    fun type => ⟨idle_live front type, idle_dead front type⟩⟩, fun s d seq stream isCtrl payload dist at_ => ⟨acceptSeq_outside at_,
      fun inside admitted => ⟨acceptSeq_copy at_ inside admitted, fun new =>
        ⟨fun ctrl => ?ctrl, fun b off data slot clean => ?data⟩⟩⟩,
    fun s d h good => ⟨fun timed expired => ?taken, fun u f fs due first past named => ?late⟩,
    fun s q r b d bs at_ o k eat eo ek fits good => ?ring⟩
  case ctrl =>
    rw [acceptSeq_ctrl at_ inside admitted new ctrl]
    refine ⟨?_, keepsConns_updConn _ _ _, (within_updConn ..).touches⟩
    rw [conn_updConn_self]
    rfl
  case data =>
    rw [acceptSeq_data at_ inside admitted new data slot, bufferWrite_clean clean]
    obtain ⟨v, ev⟩ : ∃ v, (s.wr (bufferBase b + off) payload).clearGranules
      (granules (bufferBase b + off) payload.length) = v := ⟨_, rfl⟩
    have stored : Frame [.mem, .sramErr] [] s v := ev ▸ .of_touches
      (((touches_wr s _ _).mono (by decide)).trans ((touches_clearGranules _ _).mono (by decide)))
    have bytes : KeepsBytes (bufferBase b + off) payload.length s v := ev ▸ keepsBytes_wr s _ _
    have read : v.rd (bufferBase b + off) payload.length = payload := ev ▸ rd_wr_self s _ _
    have hall : InHall [] s v := .of_touches stored.pieces
    have noted := (within_updConn v d (fun c => c.holds dist
      { seq := seq, isCtrl := false, stream := stream, buffer := b, offset := off, len := payload.length })).touches
    rw [ev]
    refine ⟨?_, (rd_of_mem (noted .mem (by decide)) ..).trans read, (hall.keepsConns _).trans (keepsConns_updConn _ _ _),
      fun a ha => ?_, (stored.pieces.mono (by decide)).trans (noted.mono (by decide))⟩
    · rw [conn_updConn_self, hall.conn]
      rfl
    · rw [State.byteAt, noted .mem (by decide)]
      exact bytes a ha
  case taken =>
    have all := takesFrom_takeAck s d h
    refine ⟨?_, all.conns, all.pieces⟩
    obtain ⟨u, f, gaps, run, first, same, left, second⟩ := takeAck_steps s d h good (lateAck_false timed expired)
    have resent : SendsTo d (u.updConn d f) (gaps.foldl (fun t f => State.resend t d f) (u.updConn d f)) :=
      .foldl (fun t f => sendsTo_resend t d f) gaps _
    rw [run, resent.seqs, conn_updConn_self, same, left]
  case late =>
    rw [takeAck_late s d h good (lateAck_true due first past named)]
    have noted := Frame.of_within (within_updConn s d (fun c => { c with expired := none }))
    obtain ⟨v, ev⟩ : ∃ v, s.updConn d (fun c => { c with expired := none }) = v := ⟨_, rfl⟩
    have own : v.conn d = { s.conn d with expired := none } := ev ▸ conn_updConn_self ..
    have keeps : KeepsConns [d] s v := ev ▸ keepsConns_updConn _ _ _
    rw [ev] at noted ⊢
    have counted := frame_count v Reg.hftPeerstat 47 32 1
    have hall : InHall [] v (v.count Reg.hftPeerstat 47 32 1) := .of_touches counted.pieces
    have frame := (counted.mono (ps := [.regs, .hall]) (rs := [Reg.hftPeerstat])).comp noted.mono
    refine ⟨(hall.conn d).trans own, ?_, keeps.trans (hall.keepsConns _), frame.regs, frame.pieces⟩
    rw [rf_count_self _ _ _ (by decide) (by decide), noted.rf (by simp)]
  case ring =>
    rw [enterRing_eq]
    extract_lets o' k' u v
    have bytes := ringBytes good (b.ringPlace d).1 (b.ringPlace d).2 o' d.bytes bs k' rfl fits (fun some_ => Nat.mod_lt _ some_) v rfl
    obtain ⟨first, second, keeps, stored⟩ := bytes
    subst eat eo ek
    have shown := frame_updPart v q (fun p => p.updRing r (fun x => { x with
      fill := x.fill + bs.length, moved := x.moved + bs.length }))
    have mem := shown.pieces .mem (by decide)
    refine ⟨?_, (rd_of_mem mem ..).trans first, (rd_of_mem mem ..).trans second, fun a ha => ?_,
      (stored.pieces.keepsParts (by decide) _).trans (keepsParts_updPart _ _ _),
      (shown.after (stored.mono (ps := [.mem, .sramErr, .parts]) (rs := []))).pieces⟩
    · refine (congrArg (fun p : Partition => p.ring r) (State.part_updPart_self ..)).trans ((ring_updRing_self ..).trans ?_)
      rw [part_through stored.pieces]
    · rw [State.byteAt, mem]
      exact keeps a ha

end Sys2Proof.Machine
end

section
/-! PROOFS. The hall: connections, streams, and what is sent. -/

namespace Sys2Proof.Machine

open Sys2Proof

-- One theorem after another: many at once would need too many threads.
set_option Elab.async false

/-! ## Streams that stop, and frames that are queued -/

theorem ring_updRing_other (p : Partition) {r k : Nat} (f : RingRun → RingRun) (h : k ≠ r) : (p.updRing r f).ring k = p.ring k :=
  Table.look_put_other _ _ _ h

theorem touches_stopStreamRing (s : State) (x : Stream) : OnlyTouches [.parts] s (s.stopStreamRing x) :=
  (within_stopStreamRing s x).touches

theorem stopStreamRing_own {s : State} {x : Stream} {q r : Nat} (own : x.part = some (q, r)) :
    (((s.stopStreamRing x).part q).ring r).stopped = true := by
  rw [State.stopStreamRing, own]
  dsimp only
  rw [State.part_updPart_self, ring_updRing_self]

/-- A ring that is stopped stays so. -/
theorem stopStreamRing_stopped {s : State} (x : Stream) {q r : Nat} (h : ((s.part q).ring r).stopped = true) :
    (((s.stopStreamRing x).part q).ring r).stopped = true := by
  unfold State.stopStreamRing
  split
  next p k own =>
    by_cases part : q = p
    · by_cases ring : r = k
      · rw [part, ring, State.part_updPart_self, ring_updRing_self]
      · rw [part, State.part_updPart_self, ring_updRing_other _ _ ring, ← part]
        exact h
    · rw [State.part_updPart_other _ _ part]
      exact h
  · exact h

theorem foldl_stopStreamRing_stopped (l : List Stream) {s : State} {q r : Nat} (h : ((s.part q).ring r).stopped = true) :
    (((l.foldl State.stopStreamRing s).part q).ring r).stopped = true := by
  induction l generalizing s with
  | nil => exact h
  | cons x l ih => exact ih (stopStreamRing_stopped x h)

theorem foldl_stopStreamRing_own {l : List Stream} {x : Stream} (m : x ∈ l) {q r : Nat} (own : x.part = some (q, r)) (s : State) :
    (((l.foldl State.stopStreamRing s).part q).ring r).stopped = true := by
  induction l generalizing s with
  | nil => exact absurd m List.not_mem_nil
  | cons y l ih =>
    rcases List.mem_cons.mp m with rfl | later
    · exact foldl_stopStreamRing_stopped l (stopStreamRing_own own)
    · exact ih later _

/-- Streams are stopped, with the rings of those that ran. -/
theorem stopStreams_spec (s : State) (f : Stream → Bool) :
    OnlyTouches [.parts, .hall] s (s.stopStreams f) ∧ InHall [.streams] s (s.stopStreams f) ∧
    (s.stopStreams f).hall.streams = s.hall.streams.map (fun x => if f x then { x with stopped := true } else x) ∧
    ∀ x ∈ s.hall.streams, f x = true → x.stopped = false → ∀ q r, x.part = some (q, r) →
      (((s.stopStreams f).part q).ring r).stopped = true := by
  unfold State.stopStreams
  extract_lets hit
  obtain ⟨u, eu⟩ : ∃ u, hit.foldl State.stopStreamRing s = u := ⟨_, rfl⟩
  have rings : OnlyTouches [.parts] s u := eu ▸ .foldl (fun t x => touches_stopStreamRing t x) hit s
  have streams : u.hall = s.hall := rings .hall (by decide)
  have mapped := (within_mapStreams u (fun x => if f x then { x with stopped := true } else x)).touches
  rw [eu]
  refine ⟨(rings.mono (by decide)).trans (mapped.mono (by decide)), (inHall_mapStreams ..).after (.of_touches rings),
    ?_, fun x hx own runs q r part => ?_⟩
  · rw [← streams]
    rfl
  · rw [part_through mapped, ← eu]
    exact foldl_stopStreamRing_own (List.mem_filter.mpr ⟨hx, by simp [own, runs]⟩) part s

/-- A frame that is queued for a peer: staged in a free slot, or outside memory without one (R271). -/
theorem conn_queueStaged (s : State) (d : Nat) (f : TxFrame) :
    (s.queueStaged d f).conn d = { s.conn d with queue := (s.conn d).queue ++ [(s.stageTx f).1] } := by
  have staged : (s.stageTx f).2.conn d = s.conn d :=
    (InHall.of_touches (ps := []) (within_stageTx s f).touches).conn d
  rw [State.queueStaged, State.queueFrame, conn_updConn_self, staged]

theorem inHall_queueStaged (s : State) (d : Nat) (f : TxFrame) : InHall [.conns] s (s.queueStaged d f) := by
  have staged : InHall [.conns] s (s.stageTx f).2 := .of_touches (within_stageTx s f).touches
  rw [State.queueStaged, State.queueFrame]
  exact staged.trans (inHall_updConn ..)

theorem touches_queueStaged (s : State) (d : Nat) (f : TxFrame) :
    OnlyTouches [.regs, .mem, .sramErr, .hall, .flt] s (s.queueStaged d f) := (sendsTo_queueStaged s d f).pieces

theorem stageTx_isCtrl (s : State) (f : TxFrame) : (s.stageTx f).1.isCtrl = f.isCtrl := by
  unfold State.stageTx
  split
  · rfl
  · rfl

theorem stageTx_none {s : State} (f : TxFrame) (full : s.freeSlot = none) : s.stageTx f = (f, s) := by
  unfold State.stageTx
  rw [full]

theorem queueStaged_none {s : State} (d : Nat) (f : TxFrame) (full : s.freeSlot = none) :
    s.queueStaged d f = s.updConn d (fun c => { c with queue := c.queue ++ [f] }) := by
  rw [State.queueStaged, stageTx_none f full]
  rfl

theorem freeSlot_none {s : State} (empty : s.slotsOf 4 = []) : s.freeSlot = none := by
  unfold State.freeSlot
  rw [empty]
  rfl

/-- The slots of a use hang on the region registers alone. -/
theorem slotsOf_of_regs {s t : State} (h : ∀ i, i < 128 → t.reg (Reg.arrEbregion i) = s.reg (Reg.arrEbregion i)) (use : Nat) :
    t.slotsOf use = s.slotsOf use := by
  unfold State.slotsOf
  rw [List.flatMap_def, List.flatMap_def]
  refine congrArg List.flatten (List.map_congr_left fun i hi => ?_)
  rw [h i (List.mem_range.mp hi)]

/-- The messages of a connection, queued one after another: the frames before them stay first. -/
theorem foldl_abortTo (d reason : Nat) (ids : List Nat) (s : State) : ∃ more,
    ((ids.foldl (fun t i => t.abortTo d i reason) s).conn d) = { s.conn d with queue := (s.conn d).queue ++ more } := by
  induction ids generalizing s with
  | nil => exact ⟨[], by rw [List.append_nil]; rfl⟩
  | cons i ids ih =>
    obtain ⟨more, e⟩ := ih (s.abortTo d i reason)
    have one := conn_queueStaged s d { isCtrl := true, payload := ctrlMsg 6 i (leBytes 1 reason) }
    refine ⟨[(s.stageTx { isCtrl := true, payload := ctrlMsg 6 i (leBytes 1 reason) }).1] ++ more, ?_⟩
    rw [List.foldl_cons, e, show (s.abortTo d i reason).conn d = _ from one, List.append_assoc]

theorem inHall_foldl_abortTo (d reason : Nat) (ids : List Nat) (s : State) :
    InHall [.conns] s (ids.foldl (fun t i => t.abortTo d i reason) s) :=
  .foldl (fun t i => inHall_queueStaged t d _) ids s

theorem sendsTo_foldl_abortTo (d reason : Nat) (ids : List Nat) (s : State) :
    SendsTo d s (ids.foldl (fun t i => t.abortTo d i reason) s) := .foldl (fun t i => sendsTo_abortTo t d i reason) ids s

/-- Without staging slots, queueing leaves everything but the hall. -/
theorem touches_foldl_abortTo (d reason : Nat) (ids : List Nat) {s : State} (empty : s.slotsOf 4 = []) :
    OnlyTouches [.hall] s (ids.foldl (fun t i => t.abortTo d i reason) s) := by
  induction ids generalizing s with
  | nil => exact .refl _ _
  | cons i ids ih =>
    have one : OnlyTouches [.hall] s (s.abortTo d i reason) := by
      rw [State.abortTo, State.queueCtrl, queueStaged_none d _ (freeSlot_none empty)]
      exact (within_updConn ..).touches
    have still : (s.abortTo d i reason).slotsOf 4 = [] := by
      rw [slotsOf_of_regs fun _ _ => State.reg_of_regs (one .regs (by decide)).1 _, empty]
    exact one.trans (ih still)

/-! ## OPEN, OPEN_ACK and CLOSE (R262, R267, R269, R272) -/

section
variable {s : State} {m : CtrlMsg} {ms : List CtrlMsg} (front : s.hall.msgs = m :: ms)
include front

/-- A message of a code is taken from the front of those that wait. -/
theorem onMsg_front {code : Nat} (own : leAt m.bytes 0 1 = code) (f : CtrlMsg → State → State) :
    s.onMsg code f = f m s.nextMsg := by
  unfold State.onMsg State.nextMsg
  rw [front]
  exact if_pos own

section
variable (own : leAt m.bytes 0 1 = 1)
include own

theorem openMessage_opening (state : (s.conn m.peer).state = .opening) :
    exec .openMessage s = .next ((s.nextMsg.updConn m.peer (fun c => { c with
      state := .opened, peerWin := leAt m.bytes 4 2 })).queueCtrl m.peer (openMsg 2 (s.conn m.peer).granted)) := by
  rw [show exec .openMessage s = execOpenMessage s from rfl, execOpenMessage, onMsg_front front own]
  dsimp only
  rw [show (s.nextMsg.conn m.peer).state = .opening from state]
  rfl

theorem openMessage_opened (state : (s.conn m.peer).state = .opened) :
    exec .openMessage s = .next (s.nextMsg.restartConn m.peer (leAt m.bytes 4 2)) := by
  rw [show exec .openMessage s = execOpenMessage s from rfl, execOpenMessage, onMsg_front front own]
  dsimp only
  rw [show (s.nextMsg.conn m.peer).state = .opened from state]

theorem openMessage_dead (dead : (s.conn m.peer).live = false) : exec .openMessage s = .next s.nextMsg := by
  rw [show exec .openMessage s = execOpenMessage s from rfl, execOpenMessage, onMsg_front front own]
  dsimp only
  have state : (s.nextMsg.conn m.peer).state = (s.conn m.peer).state := rfl
  rw [state]
  rw [Conn.live] at dead
  cases known : (s.conn m.peer).state with
  | opening => rw [known] at dead; exact absurd dead (by decide)
  | opened => rw [known] at dead; exact absurd dead (by decide)
  | closed => rfl
  | lost => rfl

end

theorem openAck_opening (own : leAt m.bytes 0 1 = 2) (state : (s.conn m.peer).state = .opening) :
    exec .openAck s = .next (s.nextMsg.updConn m.peer (fun c => { c with state := .opened, peerWin := leAt m.bytes 4 2 })) := by
  rw [show exec .openAck s = execOpenAck s from rfl, execOpenAck, onMsg_front front own]
  exact congrArg Host.Outcome.next (if_pos state)

theorem openAck_other (own : leAt m.bytes 0 1 = 2) (state : (s.conn m.peer).state ≠ .opening) :
    exec .openAck s = .next s.nextMsg := by
  rw [show exec .openAck s = execOpenAck s from rfl, execOpenAck, onMsg_front front own]
  exact congrArg Host.Outcome.next (if_neg state)

theorem connectionClose_live (own : leAt m.bytes 0 1 = 3) (live : (s.conn m.peer).live = true) :
    exec .connectionClose s = .next
      (((s.nextMsg.stopStreams (fun x => x.peer == m.peer)).forgetServed m.peer).updConn m.peer (fun _ => {})) := by
  rw [show exec .connectionClose s = execConnectionClose s from rfl, execConnectionClose, onMsg_front front own]
  exact congrArg Host.Outcome.next (if_pos live)

theorem connectionClose_dead (own : leAt m.bytes 0 1 = 3) (dead : (s.conn m.peer).live = false) :
    exec .connectionClose s = .next s.nextMsg := by
  rw [show exec .connectionClose s = execConnectionClose s from rfl, execConnectionClose, onMsg_front front own]
  exact congrArg Host.Outcome.next (if_neg (ne_true_of_eq_false dead))

end

/-- A peer's streams are stopped, and those that serve it alone are forgotten. -/
theorem stopPeer_spec (s : State) (d : Nat) : ∃ t, (s.stopStreams (fun x => x.peer == d)).forgetServed d = t ∧
    OnlyTouches [.parts, .hall] s t ∧ InHall [.streams] s t ∧
    (∀ x ∈ t.hall.streams, x.peer = d → x.stopped = true ∧ x.part.isSome = true) ∧
    ∀ x ∈ s.hall.streams, x.peer = d → x.stopped = false → ∀ q r, x.part = some (q, r) →
      ((t.part q).ring r).stopped = true := by
  obtain ⟨pieces, hall, streams, rings⟩ := stopStreams_spec s (fun x => x.peer == d)
  obtain ⟨u, eu⟩ : ∃ u, s.stopStreams (fun x => x.peer == d) = u := ⟨_, rfl⟩
  rw [eu] at pieces hall streams rings ⊢
  have forgot : Frame [.hall] [] u (u.forgetServed d) := .of_within (within_hall (s := u) _)
  refine ⟨_, rfl, pieces.trans (forgot.pieces.mono (by decide)), (inHall_streams u _).after hall, fun x hx own => ?_,
    fun x hx own runs q r part => ?_⟩
  · obtain ⟨mapped, kept⟩ := List.mem_filter.mp (show x ∈ u.hall.streams.filter (fun x => !(x.peer == d && x.part.isNone)) from hx)
    rw [streams] at mapped
    obtain ⟨y, _, rfl⟩ := List.mem_map.mp mapped
    by_cases peer : y.peer == d
    · rw [if_pos peer] at kept ⊢
      refine ⟨rfl, ?_⟩
      simpa [peer] using kept
    · rw [if_neg peer] at own
      exact absurd (beq_iff_eq.mpr own) peer
  · rw [part_through forgot.pieces]
    exact rings x hx (beq_iff_eq.mpr own) runs q r part

theorem frame_grantWindow (s : State) (d : Nat) : Frame [.regs] [Reg.hftCfg] s (s.grantWindow d).2 := by
  unfold State.grantWindow
  extract_lets want others
  split
  · exact .refl ..
  · split
    · exact frame_raise ..
    · exact .refl ..

theorem arrEbregion_ne_hftCfg {i : Nat} (real : i < 128) : Reg.arrEbregion i ∉ [Reg.hftCfg] := by
  simp only [List.mem_singleton, Reg.arrEbregion, Reg.hftCfg]
  omega

/-- A restarted connection: what it forgets, what it keeps of the receiving side, and its first frame, OPEN_ACK. -/
theorem restartConn_spec (s : State) (d w : Nat) : ∃ t, s.restartConn d w = t ∧
    (t.conn d).state = .opened ∧ (t.conn d).txSeq = 0 ∧ (t.conn d).peerWin = w ∧ (t.conn d).unacked = [] ∧
    (t.conn d).rxNext = (s.conn d).rxNext ∧
    (∃ y ys, (t.conn d).queue = y :: ys ∧ y.isCtrl = true ∧
      (s.slotsOf 4 = [] → y.payload = openMsg 2 (t.conn d).granted)) ∧
    (∀ x ∈ t.hall.streams, x.peer = d → x.stopped = true ∧ x.part.isSome = true) ∧
    (∀ x ∈ s.hall.streams, x.peer = d → x.stopped = false → ∀ q r, x.part = some (q, r) →
      ((t.part q).ring r).stopped = true) ∧
    (s.slotsOf 4 = [] → Reports [(blockSrc 4 0, 0x71, d)] 127 s t) ∧
    KeepsConns [d] s t ∧ OnlyTouches [.regs, .mem, .sramErr, .parts, .hall, .flt] s t := by
  unfold State.restartConn
  extract_lets ids g c u v x
  have granted : Frame [.regs] [Reg.hftCfg] s g.2 := frame_grantWindow s d
  obtain ⟨u', eu, pieces, hall, streams, rings⟩ := stopPeer_spec g.2 d
  have same : u = u' := eu
  have grant : s.grantWindow d = g := rfl
  have rest : v = u.updConn d (fun _ => { state := .opened, peerWin := w, granted := g.1, rxNext := c.rxNext, held := c.held
                                          delivered := c.delivered, firstDel := c.firstDel, heard := c.heard }) := rfl
  have opened : x = v.queueCtrl d (openMsg 2 g.1) := rfl
  have before : c = s.conn d := rfl
  clear_value g u v x c ids
  subst same
  have conn : v.conn d = { state := .opened, peerWin := w, granted := g.1, rxNext := c.rxNext, held := c.held
                           delivered := c.delivered, firstDel := c.firstDel, heard := c.heard } := by
    rw [rest, conn_updConn_self]
  have renewed : InHall [.conns] u v := rest ▸ inHall_updConn ..
  have renewedPieces : OnlyTouches [.hall] u v := rest ▸ (within_updConn u d _).touches
  have keeps : KeepsConns [d] u v := rest ▸ keepsConns_updConn u d _
  have first : x.conn d = { v.conn d with
      queue := [(v.stageTx { isCtrl := true, payload := openMsg 2 g.1 }).1] } := by
    rw [opened, State.queueCtrl, conn_queueStaged, conn]
    rfl
  have queued : SendsTo d v x := opened ▸ sendsTo_queueStaged v d _
  have queuedHall : InHall [.conns] v x := opened ▸ inHall_queueStaged v d _
  obtain ⟨more, last⟩ := foldl_abortTo d 4 ids x
  have aborted := sendsTo_foldl_abortTo d 4 ids x
  have abortedHall := inHall_foldl_abortTo d 4 ids x
  have regions (t : State) (h : t.regs = g.2.regs) : t.slotsOf 4 = s.slotsOf 4 :=
    slotsOf_of_regs (fun i real => (State.reg_of_regs h _).trans (granted.reg (arrEbregion_ne_hftCfg real))) 4
  have vRegs : v.regs = g.2.regs := (renewedPieces .regs (by decide)).1.trans (pieces .regs (by decide)).1
  have quietFirst (empty : s.slotsOf 4 = []) : OnlyTouches [.hall] v x := by
    rw [opened, State.queueCtrl, queueStaged_none d _ (freeSlot_none ((regions v vRegs).trans empty))]
    exact (within_updConn ..).touches
  have quietMore (empty : s.slotsOf 4 = []) :
      OnlyTouches [.hall] x (ids.foldl (fun t i => t.abortTo d i 4) x) :=
    touches_foldl_abortTo d 4 ids ((regions x (((quietFirst empty) .regs (by decide)).1.trans vRegs)).trans empty)
  obtain ⟨y, ey⟩ : ∃ y, ids.foldl (fun t i => t.abortTo d i 4) x = y := ⟨_, rfl⟩
  rw [ey] at last aborted abortedHall quietMore ⊢
  have sent := touches_report y (blockSrc 4 0) 0x71 d 127
  have sentHall : InHall [] y (y.report (blockSrc 4 0) 0x71 d 127) := .of_touches sent
  have final : (y.report (blockSrc 4 0) 0x71 d 127).conn d = { v.conn d with
      queue := (v.stageTx { isCtrl := true, payload := openMsg 2 g.1 }).1 :: more } := by
    rw [sentHall.conn d, last, first]
    rfl
  have tail : InHall [.conns] u (y.report (blockSrc 4 0) 0x71 d 127) :=
    sentHall.after (((renewed.trans queuedHall).trans abortedHall))
  have calls : OnlyTouches [.regs, .mem, .sramErr, .hall, .flt] u (y.report (blockSrc 4 0) 0x71 d 127) :=
    (((renewedPieces.mono (by decide)).trans queued.pieces).trans aborted.pieces).trans (sent.mono (by decide))
  refine ⟨_, rfl, ?_, ?_, ?_, ?_, ?_, ⟨(v.stageTx { isCtrl := true, payload := openMsg 2 g.1 }).1, more, ?_, ?_, fun empty => ?_⟩,
    fun z hz => streams z ((show _ = u.hall.streams from tail.same .streams (by simp)) ▸ hz),
    fun z hz own runs q r part => ?_, fun empty => ?_, ?_, ?_⟩
  · rw [final, conn]
  · rw [final, conn]
  · rw [final, conn]
  · rw [final, conn]
  · rw [final, conn, before]
  · rw [final]
  · exact stageTx_isCtrl ..
  · rw [final, conn, stageTx_none _ (freeSlot_none ((regions v vRegs).trans empty))]
  · rw [part_through calls]
    exact rings z ((granted.pieces .hall (by decide)).symm ▸ hz) own runs q r part
  · have flt : y.flt = s.flt := by
      rw [quietMore empty .flt (by decide), quietFirst empty .flt (by decide), renewedPieces .flt (by decide),
        pieces .flt (by decide), granted.pieces .flt (by decide)]
    have clk : y.clk = s.clk := by
      rw [quietMore empty .clk (by decide), quietFirst empty .clk (by decide), renewedPieces .clk (by decide),
        pieces .clk (by decide), granted.pieces .clk (by decide)]
    exact (reports_report y (blockSrc 4 0) 0x71 d 127).after flt clk
  · exact (((((InHall.of_touches (ps := []) granted.pieces).keepsConns _).trans (hall.keepsConns _)).trans keeps).trans
      (queued.conns.trans aborted.conns)).trans (sentHall.keepsConns _)
  · exact ((granted.pieces.mono (by decide)).trans (pieces.mono (by decide))).trans (calls.mono (by decide))

/-- What taking a message leaves. -/
theorem touches_nextMsg (s : State) : OnlyTouches [.hall] s s.nextMsg := (within_hall (s := s) _).touches

theorem inHall_nextMsg (s : State) : InHall [.msgs] s s.nextMsg := inHall_msgs ..

/-- Settles O27: each message by the state of its connection. -/
theorem connectionMessagesSetState : Obligations.ConnectionMessagesSetState := by
  refine fun s m ms front => ⟨fun own => ⟨openMessage_opening front own, fun state => ?restart, openMessage_dead front own⟩,
    fun own => ⟨openAck_opening front own, openAck_other front own⟩,
    fun own => ⟨fun live => ?close, connectionClose_dead front own⟩⟩
  case restart =>
    have run := openMessage_opened front own state
    obtain ⟨t, et, opened, tx, window, unacked, rxNext, first, stopped, rings, sent, keeps, pieces⟩ :=
      restartConn_spec s.nextMsg m.peer (leAt m.bytes 4 2)
    rw [et] at run
    refine ⟨t, run, opened, tx, window, unacked, rxNext, first, stopped, rings, fun empty => ?_, keeps,
      ((touches_nextMsg s).mono (by decide)).trans pieces⟩
    exact (sent empty).after rfl rfl
  case close =>
    have run := connectionClose_live front own live
    obtain ⟨t, et, pieces, hall, stopped, rings⟩ := stopPeer_spec s.nextMsg m.peer
    rw [et] at run
    have closed := (within_updConn t m.peer (fun _ => {})).touches
    have closedHall := inHall_updConn t m.peer (fun _ => {})
    refine ⟨_, run, conn_updConn_self .., fun x hx => stopped x
      ((show _ = t.hall.streams from closedHall.same .streams (by simp)) ▸ hx),
      fun x hx own runs q r part => ?_, (hall.keepsConns _).trans (keepsConns_updConn _ _ _),
      (((touches_nextMsg s).mono (by decide)).trans pieces).trans (closed.mono (by decide))⟩
    rw [part_through closed]
    exact rings x hx own runs q r part

/-! ## CREDIT, GET, ABORT and DONE, and the staging of a frame (R269 to R271, R274, R288) -/

section
variable {s : State} {m : CtrlMsg} {ms : List CtrlMsg} (front : s.hall.msgs = m :: ms)
include front

theorem nextMsg_eq : s.nextMsg = { s with hall := { s.hall with msgs := ms } } := by
  rw [State.nextMsg, front, List.drop_succ_cons, List.drop_zero]

theorem credit_eq (own : leAt m.bytes 0 1 = 4) : exec .credit s = .next { s with hall := { s.hall with
    msgs := ms
    streams := s.hall.streams.map (fun x =>
      if x.peer == m.peer && x.id == m.id && x.send == true then { x with credit := max x.credit (leAt m.bytes 8 8) }
      else x) } } := by
  rw [show exec .credit s = execCredit s from rfl, execCredit, onMsg_front front own, nextMsg_eq front]
  rfl

theorem done_eq (own : leAt m.bytes 0 1 = 7) : exec .done s = .next { s with hall := { s.hall with
    msgs := ms
    mtx := s.hall.mtx.map (fun x =>
      if x.id = m.id then (if m.peer ∈ x.done then x else { x with done := m.peer :: x.done }) else x) } } := by
  rw [show exec .done s = execDone s from rfl, execDone, onMsg_front front own, nextMsg_eq front]
  rfl

theorem get_eq (own : leAt m.bytes 0 1 = 5) :
    exec .get s = .next (s.nextMsg.serveGet m.peer m.id (leAt m.bytes 4 8) (leAt m.bytes 12 2)) := by
  rw [show exec .get s = execGet s from rfl, execGet, onMsg_front front own]

end

/-- The stream of a GET: the one that serves the peer already, or a new one. -/
def State.getStream (s : State) (d id : Nat) : Stream :=
  (s.served d id 2).getD { peer := d, id := id, part := none, kind := 2, send := false, remote := 0, length := 0 }

section
variable {s : State} {d id off units : Nat} {x : Stream} (now : s.getStream d id = x)
include now

theorem serveGet_stopped (stopped : x.stopped = true) : s.serveGet d id off units = s := by
  subst now
  exact if_pos stopped

variable (runs : x.stopped = false)
include runs

theorem serveGet_none (none : Config.remoteRange d id = none) :
    s.serveGet d id off units = (s.noteServed { x with stopped := true }).abortTo d id 3 := by
  subst now
  unfold State.serveGet
  extract_lets y stop
  rw [if_neg (by rw [show y.stopped = false from runs]; decide), none]
  rfl

variable {a n : Nat} (range : Config.remoteRange d id = some (a, n))
include range

theorem serveGet_refused (bad : n = 0 ∨ s.hallRange a n = false ∨ off % 4096 ≠ 0 ∨ units = 0 ∨ 16 < units) :
    s.serveGet d id off units = (s.noteServed { x with stopped := true }).abortTo d id 2 := by
  subst now
  unfold State.serveGet
  extract_lets y stop
  rw [if_neg (by rw [show y.stopped = false from runs]; decide), range]
  exact if_pos (bad.imp_right fun h => h.imp_left fun no => by simp [no])

variable (some_ : 0 < n) (mine : s.hallRange a n = true) (whole : off % 4096 = 0) (least : 0 < units) (most : units ≤ 16)
include some_ mine whole least most

theorem serveGet_admitted : s.serveGet d id off units =
    match (s.readParts (wrapParts a n (units * 4096) off 0 (units * 4096))).1 with
    | .error reason => ((s.readParts (wrapParts a n (units * 4096) off 0 (units * 4096))).2.noteServed
        { x with stopped := true }).abortTo d id reason
    | .ok bs => (chunks 8192 bs).foldl (fun t b => t.queueStaged d { isCtrl := false, stream := id, payload := b })
        ((s.readParts (wrapParts a n (units * 4096) off 0 (units * 4096))).2.noteServed
          { x with remote := a, length := n, moved := x.moved + bs.length }) := by
  subst now
  unfold State.serveGet
  extract_lets y stop
  rw [if_neg (by rw [show y.stopped = false from runs]; decide), range]
  exact if_neg (by
    rintro (h | h | h | h | h)
    · omega
    · simp [mine] at h
    · exact h whole
    · omega
    · omega)

theorem serveGet_ok {bs : List Byte} (read : (s.readParts (wrapParts a n (units * 4096) off 0 (units * 4096))).1 = .ok bs) :
    s.serveGet d id off units =
      (chunks 8192 bs).foldl (fun t b => t.queueStaged d { isCtrl := false, stream := id, payload := b })
        ((s.readParts (wrapParts a n (units * 4096) off 0 (units * 4096))).2.noteServed
          { x with remote := a, length := n, moved := x.moved + bs.length }) := by
  rw [serveGet_admitted now runs range some_ mine whole least most, read]

theorem serveGet_error {reason : Nat}
    (read : (s.readParts (wrapParts a n (units * 4096) off 0 (units * 4096))).1 = .error reason) :
    s.serveGet d id off units = ((s.readParts (wrapParts a n (units * 4096) off 0 (units * 4096))).2.noteServed
      { x with stopped := true }).abortTo d id reason := by
  rw [serveGet_admitted now runs range some_ mine whole least most, read]

end

theorem touches_reportAbort (s : State) (d reason : Nat) (x : Stream) : OnlyTouches [.regs, .flt] s (s.reportAbort d reason x) := by
  unfold State.reportAbort
  split
  · exact touches_report _ _ _ _ _
  · exact .refl _ _

/-- The streams that an ABORT names are stopped, with their rings, and those that serve a peer alone are forgotten. -/
theorem abort_spec {s : State} {m : CtrlMsg} {ms : List CtrlMsg} (front : s.hall.msgs = m :: ms) (own : leAt m.bytes 0 1 = 6) :
    ∃ t, exec .abort s = .next t ∧
      (∀ x ∈ t.hall.streams, x.peer = m.peer → x.id = m.id → x.stopped = true ∧ x.part.isSome = true) ∧
      (∀ x ∈ s.hall.streams, x.peer = m.peer → x.id = m.id → x.stopped = false → ∀ q r, x.part = some (q, r) →
        ((t.part q).ring r).stopped = true) ∧
      t.hall.conns = s.hall.conns ∧ OnlyTouches [.regs, .parts, .hall, .flt] s t := by
  rw [show exec .abort s = execAbort s from rfl, execAbort, onMsg_front front own]
  obtain ⟨pieces, hall, streams, rings⟩ := stopStreams_spec s.nextMsg (fun x => x.peer == m.peer && x.id == m.id)
  extract_lets hit u src v
  rw [show s.nextMsg.stopStreams (fun x => x.peer == m.peer && x.id == m.id) = u from rfl] at pieces hall streams rings
  have kept : v.hall.streams = u.hall.streams.filter (fun x => !(x.peer == m.peer && x.id == m.id && x.part.isNone)) := rfl
  have dropped : Frame [.hall] [] u v := .of_within (within_hall (s := u) _)
  have droppedHall : InHall [.streams] u v := inHall_streams ..
  clear_value v u hit src
  obtain ⟨w, ew⟩ : ∃ w, hit.foldl (fun t x => t.reportAbort m.peer (leAt m.bytes 4 1) x) v = w := ⟨_, rfl⟩
  have sent : OnlyTouches [.regs, .flt] v w := ew ▸ .foldl (fun t x => touches_reportAbort t _ _ x) hit v
  refine ⟨w, congrArg Host.Outcome.next ew, fun x hx peer id => ?_, fun x hx peer id runs q r part => ?_, ?_,
    (((touches_nextMsg s).mono (by decide)).trans (pieces.mono (by decide))).trans
      ((dropped.pieces.mono (by decide)).trans (sent.mono (by decide)))⟩
  · rw [sent .hall (by decide), kept, streams] at hx
    obtain ⟨mapped, stays⟩ := List.mem_filter.mp hx
    obtain ⟨y, _, rfl⟩ := List.mem_map.mp mapped
    by_cases named : (y.peer == m.peer && y.id == m.id) = true
    · rw [if_pos named] at stays ⊢
      refine ⟨rfl, ?_⟩
      simpa [named] using stays
    · rw [if_neg named] at peer id
      exact absurd (by simp [peer, id]) named
  · rw [part_through sent, part_through dropped.pieces]
    exact rings x hx (by simp [peer, id]) runs q r part
  · rw [sent .hall (by decide), show _ = u.hall.conns from droppedHall.same .conns (by simp),
      show _ = s.nextMsg.hall.conns from hall.same .conns (by simp)]
    rfl

/-- A frame that is staged in a free slot (R271). -/
theorem queueStaged_slot {s : State} (d : Nat) (f : TxFrame) {b off : Nat} (free : s.freeSlot = some (b, off))
    (clean : s.cleanAt (bufferBase b + off) f.payload.length) :
    (s.queueStaged d f).conn d = { s.conn d with queue := (s.conn d).queue ++
      [{ f with payload := [], place := some (b, off), len := f.payload.length }] } ∧
    (s.queueStaged d f).rd (bufferBase b + off) f.payload.length = f.payload ∧
    KeepsConns [d] s (s.queueStaged d f) ∧ KeepsBytes (bufferBase b + off) f.payload.length s (s.queueStaged d f) ∧
    OnlyTouches [.mem, .sramErr, .hall] s (s.queueStaged d f) := by
  have staged : s.stageTx f = ({ f with payload := [], place := some (b, off), len := f.payload.length },
      (s.wr (bufferBase b + off) f.payload).clearGranules (granules (bufferBase b + off) f.payload.length)) := by
    unfold State.stageTx
    rw [free, ← bufferWrite_clean clean]
  have conn := conn_queueStaged s d f
  have keeps := (sendsTo_queueStaged s d f).conns
  rw [staged] at conn
  obtain ⟨v, ev⟩ : ∃ v, (s.wr (bufferBase b + off) f.payload).clearGranules
    (granules (bufferBase b + off) f.payload.length) = v := ⟨_, rfl⟩
  have stored : Frame [.mem, .sramErr] [] s v := ev ▸ .of_touches
    (((touches_wr s _ _).mono (by decide)).trans ((touches_clearGranules _ _).mono (by decide)))
  have bytes : KeepsBytes (bufferBase b + off) f.payload.length s v := ev ▸ keepsBytes_wr s _ _
  have read : v.rd (bufferBase b + off) f.payload.length = f.payload := ev ▸ rd_wr_self s _ _
  have queued : OnlyTouches [.hall] v (s.queueStaged d f) := by
    rw [State.queueStaged, staged, ev]
    exact (within_updConn ..).touches
  have mem := queued .mem (by decide)
  refine ⟨conn, (rd_of_mem mem ..).trans read, keeps, fun a ha => ?_,
    (stored.pieces.mono (by decide)).trans (queued.mono (by decide))⟩
  rw [State.byteAt, mem]
  exact bytes a ha

/-- Settles O28: each message's effect, and a frame with and without a free slot. -/
theorem streamMessagesAct : Obligations.StreamMessagesAct := by
  refine ⟨fun s m ms front => ⟨credit_eq front, fun own x off units eo eu ex => ?get, fun own => abort_spec front own, done_eq front⟩,
    fun s d f => ⟨queueStaged_none d f, fun b off free clean => queueStaged_slot d f free clean⟩⟩
  case get =>
    have run := get_eq front own
    subst eo eu
    have now : s.nextMsg.getStream m.peer m.id = x := ex.symm
    refine ⟨fun stopped => ?_, fun runs => ⟨fun none => ?_, fun a n range => ⟨fun bad => ?_,
      fun some_ mine whole least most r er => ?_⟩⟩⟩
    · rw [run, serveGet_stopped now stopped]
    · rw [run, serveGet_none now runs none]
    · rw [run, serveGet_refused now runs range bad]
    · subst er
      refine ⟨fun bs read => ?_, fun reason read => ?_⟩
      · rw [run, serveGet_ok now runs range some_ mine whole least most read]
      · rw [run, serveGet_error now runs range some_ mine whole least most read]

/-! ## Reports and reads in a state whose hall differs -/

/-- The state with another hall. -/
def State.withHall (s : State) (h : Hall) : State := { s with hall := h }

theorem touches_withHall (s : State) (h : Hall) : OnlyTouches [.hall] s (s.withHall h) := (within_hall (s := s) h).touches

theorem noRoom_withHall (s : State) (h : Hall) (m : FaultMsg) : (s.withHall h).noRoom m = (s.noRoom m).withHall h := by
  unfold State.noRoom
  split
  · rfl
  · rfl

theorem foldl_withHall {α : Type} {f : State → α → State} {h : Hall} (step : ∀ s a, f (s.withHall h) a = (f s a).withHall h)
    (l : List α) (s : State) : l.foldl f (s.withHall h) = (l.foldl f s).withHall h := by
  induction l generalizing s with
  | nil => rfl
  | cons a l ih => rw [List.foldl_cons, List.foldl_cons, step, ih]

theorem report_withHall (s : State) (h : Hall) (src kind addr tag : Nat) :
    (s.withHall h).report src kind addr tag = (s.report src kind addr tag).withHall h :=
  foldl_withHall (fun s m => noRoom_withHall s h m) _ { s with flt := { s.flt with
    queue := (placeMsg ⟨faultMsg src kind addr, tag, s.mc⟩ s.flt.queue).take 64 } }

theorem reportBuffer_withHall (s : State) (h : Hall) (b kind addr off : Nat) :
    (s.withHall h).reportBuffer b kind addr off = (s.reportBuffer b kind addr off).withHall h :=
  report_withHall s h _ _ _ (s.bufferTag b off)

theorem bufferRead_withHall (s : State) (h : Hall) (b off n : Nat) : (s.withHall h).bufferRead b off n =
    ((s.bufferRead b off n).1, (s.bufferRead b off n).2.1, (s.bufferRead b off n).2.2.withHall h) := by
  unfold State.bufferRead
  extract_lets a s1 s2
  have same : s1 = s2.withHall h := foldl_withHall (fun s g => reportBuffer_withHall s h ..) _ s
  have ue : (s.withHall h).sramUe a n = s.sramUe a n := rfl
  have bytes : (s.withHall h).rd a n = s.rd a n := rfl
  rw [ue, bytes]
  clear_value s1 s2
  subst same
  cases s.sramUe a n with
  | none => rfl
  | some g =>
    dsimp only
    rw [reportBuffer_withHall]

/-- Whether and where a frame is staged decides how its payload is read. -/
theorem txPayload_withHall (s : State) (h : Hall) {f g : TxFrame} (place : g.place = f.place) (payload : g.payload = f.payload)
    (len : g.len = f.len) : (s.withHall h).txPayload g = ((s.txPayload f).1, (s.txPayload f).2.withHall h) := by
  unfold State.txPayload
  rw [place, payload, len]
  cases f.place with
  | none => rfl
  | some x =>
    dsimp only
    rw [bufferRead_withHall]

/-! ## A read that leaves the state has met no uncorrectable granule -/

/-- The messages of a class other than CORRECTED, in the queue and waiting for it. -/
def State.grave (s : State) : Nat := (s.flt.queue.countP (fun m => m.cls != 0)) + s.flt.waiting.length

theorem countP_placeMsg (p : FaultMsg → Bool) (m : FaultMsg) (l : List FaultMsg) :
    (placeMsg m l).countP p = (m :: l).countP p := by
  induction l with
  | nil => rfl
  | cons x l ih =>
    rw [placeMsg]
    split
    · rfl
    · rw [List.countP_cons, ih, List.countP_cons, List.countP_cons, List.countP_cons]
      omega

theorem length_placeWaiting (m : FaultMsg) (l : List FaultMsg) : (placeWaiting m l).length = l.length + 1 := by
  induction l with
  | nil => rfl
  | cons x l ih =>
    rw [placeWaiting]
    split
    · rfl
    · rw [List.length_cons, ih, List.length_cons]

theorem grave_foldl_noRoom (l : List FaultMsg) (s : State) :
    (l.foldl State.noRoom s).grave = s.grave + l.countP (fun m => m.cls != 0) := by
  induction l generalizing s with
  | nil => rfl
  | cons m l ih =>
    rw [List.foldl_cons, ih, List.countP_cons]
    have one : (s.noRoom m).grave = s.grave + if m.cls != 0 then 1 else 0 := by
      unfold State.noRoom
      by_cases corrected : m.cls = 0
      · rw [if_pos corrected, if_neg (by simp [corrected])]
        rfl
      · rw [if_neg corrected, if_pos (by simp [corrected])]
        unfold State.grave
        dsimp only
        rw [length_placeWaiting]
        omega
    rw [one]
    omega

theorem grave_report (s : State) (src kind addr tag : Nat) : (s.report src kind addr tag).grave =
    s.grave + if (⟨faultMsg src kind addr, tag, s.mc⟩ : FaultMsg).cls != 0 then 1 else 0 := by
  unfold State.report State.enterQueue
  extract_lets l src u
  rw [grave_foldl_noRoom]
  have parts : l.countP (fun m => m.cls != 0) =
      (l.take 64).countP (fun m => m.cls != 0) + (l.drop 64).countP (fun m => m.cls != 0) := by
    rw [← List.countP_append, List.take_append_drop]
  have all : l.countP (fun m => m.cls != 0) = _ := countP_placeMsg _ _ _
  rw [List.countP_cons] at all
  have now : u.grave = (l.take 64).countP (fun m => m.cls != 0) + s.flt.waiting.length := rfl
  rw [now, State.grave]
  omega

theorem grave_reportBuffer_le (s : State) (b kind addr off : Nat) : s.grave ≤ (s.reportBuffer b kind addr off).grave := by
  rw [State.reportBuffer, grave_report]
  omega

theorem grave_foldl_le {α : Type} {f : State → α → State} (step : ∀ s a, s.grave ≤ (f s a).grave) (l : List α) (s : State) :
    s.grave ≤ (l.foldl f s).grave := by
  induction l generalizing s with
  | nil => exact Nat.le_refl _
  | cons a l ih => exact Nat.le_trans (step s a) (ih _)

/-- SRAM_UE is no CORRECTED message. -/
theorem cls_sramUe (src addr tag at_ : Nat) : (⟨faultMsg src 0x11 addr, tag, at_⟩ : FaultMsg).cls = 2 := by
  have kind : fld (faultMsg src 0x11 addr) 47 40 = 0x11 := by
    rw [fld, faultMsg, BitVec.toNat_ofNat, bitsN_eq]
    omega
  rw [FaultMsg.cls, kind]
  rfl

/-- An uncorrectable granule leaves its message, so a read that leaves the state has met none. -/
theorem bufferRead_unchanged {s : State} {b off n : Nat} (same : (s.bufferRead b off n).2.2 = s) :
    (s.bufferRead b off n).1 = none := by
  unfold State.bufferRead at same ⊢
  extract_lets a s1 at same ⊢
  have before : s.grave ≤ s1.grave := grave_foldl_le (fun t g => grave_reportBuffer_le t ..) _ s
  clear_value s1
  cases found : s.sramUe a n with
  | none => rfl
  | some g =>
    rw [found] at same
    have more : (s1.reportBuffer b 0x11 (g * 8 - bufferBase b) off).grave = s1.grave + 1 := by
      rw [State.reportBuffer, grave_report, cls_sramUe]
      rfl
    have back : (s1.reportBuffer b 0x11 (g * 8 - bufferBase b) off).grave = s.grave := congrArg State.grave same
    omega

theorem txPayload_unchanged {s : State} {f : TxFrame} (same : (s.txPayload f).2 = s) : ∃ bs, s.txPayload f = (some bs, s) := by
  unfold State.txPayload at same ⊢
  cases e : f.place with
  | none => exact ⟨_, rfl⟩
  | some x =>
    obtain ⟨b, off⟩ := x
    have none : (s.bufferRead b off f.len).1 = none := by
      rw [e] at same
      exact bufferRead_unchanged same
    dsimp only
    rw [none]
    rw [e] at same
    exact ⟨_, Prod.ext rfl same⟩

/-! ## What a frame on the wire carries (R256, R261 to R264) -/

theorem leAt_first (k v : Nat) (post : List Byte) : leAt (leBytes k v ++ post) 0 k = v % 256 ^ k := by
  rw [leAt, slice, List.drop_zero, List.take_left' (length_leBytes k v), leNat_leBytes]

theorem leAt_behind {k off : Nat} (v : Nat) (post : List Byte) (len : Nat) (past : k ≤ off) :
    leAt (leBytes k v ++ post) off len = leAt post (off - k) len := by
  rw [leAt, leAt, slice, slice, List.drop_append, List.drop_eq_nil_of_le (by rw [length_leBytes]; exact past), length_leBytes,
    List.nil_append]

/-- The header of a frame, field by field. -/
theorem header_fields (ty flags hall src dst seq ack sack len stream barrier : Nat) (payload : List Byte) (small : ty < 16) :
    hdrType (mkHeader ty flags hall src dst seq ack sack len stream barrier ++ payload) = ty ∧
    hdrSeq (mkHeader ty flags hall src dst seq ack sack len stream barrier ++ payload) = seq % 2 ^ 32 ∧
    hdrAck (mkHeader ty flags hall src dst seq ack sack len stream barrier ++ payload) = ack % 2 ^ 32 ∧
    hdrBarrier (mkHeader ty flags hall src dst seq ack sack len stream barrier ++ payload) = barrier % 2 ^ 32 ∧
    (mkHeader ty flags hall src dst seq ack sack len stream barrier ++ payload).drop 32 = payload := by
  have size : (mkHeader ty flags hall src dst seq ack sack len stream barrier).length = 32 := by simp [mkHeader]
  refine ⟨?_, ?_, ?_, ?_, List.drop_left' size⟩
  · simp only [mkHeader, hdrType, List.append_assoc, leAt_first, bitsN_eq]
    omega
  · simp [mkHeader, hdrSeq, leAt_behind, leAt_first]
  · simp [mkHeader, hdrAck, leAt_behind, leAt_first]
  · simp [mkHeader, hdrBarrier, leAt_behind, leAt_first]

/-- A frame that can leave stands on the wire, with its address and its bytes (R260). -/
theorem emit_wire {s : State} {p : Nat} (can : s.emits p) (mac : BitVec 48) (etype : Nat) (body : List Byte) :
    ∃ g : Sys2Proof.Frame, (s.emit p mac etype body).hall.wire = s.hall.wire ++ [(Fin.ofNat 8 p, g)] ∧ g.dst = mac ∧
      g.body = body := by
  unfold State.emit
  extract_lets cfg vlan sec frame
  rcases can with plain | ⟨a, as, tx, left⟩
  · rw [if_neg (by rw [show sec = false from plain]; decide)]
    exact ⟨frame none, rfl, rfl, rfl⟩
  · split
    · rw [tx]
      dsimp only
      rw [if_pos left]
      obtain ⟨u, eu⟩ : ∃ u, s.renewSa p a = u := ⟨_, rfl⟩
      have renewed : InHall [.keying] s u := eu ▸ inHall_renewSa ..
      rw [eu]
      have moved := inHall_updPort u p (fun x => { x with tx := { a with pn := a.pn + 1 } :: as })
      refine ⟨frame (some ⟨BitVec.ofNat 2 a.an, BitVec.ofNat 64 a.pn, a.key, a.xpn⟩), ?_, rfl, rfl⟩
      have before : (u.updPort p (fun x => { x with tx := { a with pn := a.pn + 1 } :: as })).hall.wire = s.hall.wire :=
        Eq.trans (moved.same .wire (by simp)) (renewed.same .wire (by simp))
      rw [← before]
      rfl
    · exact ⟨frame none, rfl, rfl, rfl⟩

section
variable (s : State) (mask d ty flags seq stream : Nat) (payload : List Byte)

theorem touches_sendBy : OnlyTouches [.hall] s (s.sendBy mask d ty flags seq stream payload) :=
  (within_sendBy s mask d ty flags seq stream payload).touches

/-- A frame for a peer that a port may take: what it carries, and what its connection no longer owes. -/
theorem sendBy_spec {p : Nat} (port : s.portAmong d mask = some p) (on : s.hallOn = true) (small : ty < 16) :
    (s.sendBy mask d ty flags seq stream payload).conn d = { s.conn d with
      owedAck := false, delivered := 0, firstDel := none, outOfOrder := false, barDue := false
      barTurn := (s.barrierFor d).2 } ∧
    (s.emits p → ∃ g : Sys2Proof.Frame,
      (s.sendBy mask d ty flags seq stream payload).hall.wire = s.hall.wire ++ [(Fin.ofNat 8 p, g)] ∧
      g.dst = BitVec.ofNat 48 (s.rf (Reg.hftPeer d) 47 0) ∧ hdrType g.body = ty ∧ hdrSeq g.body = seq % 2 ^ 32 ∧
      hdrAck g.body = (s.conn d).rxNext % 2 ^ 32 ∧ hdrBarrier g.body = (s.barrierFor d).1 % 2 ^ 32 ∧
      g.body.drop 32 = payload) := by
  unfold State.sendBy
  rw [port]
  dsimp only
  rw [if_pos on]
  obtain ⟨u, eu⟩ : ∃ u, s.updConn d (fun c => { c with
    owedAck := false, delivered := 0, firstDel := none, outOfOrder := false, barDue := false
    barTurn := (s.barrierFor d).2 }) = u := ⟨_, rfl⟩
  have conn : u.conn d = _ := eu ▸ conn_updConn_self ..
  have pieces : OnlyTouches [.hall] s u := eu ▸ (within_updConn ..).touches
  have hall : InHall [.conns] s u := eu ▸ inHall_updConn ..
  rw [eu]
  have regs (o hi lo : Nat) : u.rf o hi lo = s.rf o hi lo := rf_of_reg (State.reg_of_regs (pieces .regs (by decide)).1 o) hi lo
  refine ⟨((inHall_emit u ..).conn d).trans conn, fun can => ?_⟩
  have can' : u.emits p := by
    rw [State.emits, hall.hport, State.reg_of_regs (pieces .regs (by decide)).1]
    exact can
  obtain ⟨g, wire, dst, body⟩ := emit_wire can' (BitVec.ofNat 48 (u.rf (Reg.hftPeer d) 47 0)) (u.rf Reg.hftCfg 47 32)
    (mkHeader ty (flags ||| 1) (s.rf Reg.hftCfg 31 16) s.device d seq (s.conn d).rxNext (s.conn d).sack payload.length stream
      (s.barrierFor d).1 ++ payload)
  obtain ⟨type, seq', ack, barrier, rest⟩ := header_fields ty (flags ||| 1) (s.rf Reg.hftCfg 31 16) s.device d seq
    (s.conn d).rxNext (s.conn d).sack payload.length stream (s.barrierFor d).1 payload small
  rw [← body] at type seq' ack barrier rest
  exact ⟨g, by rw [wire, show u.hall.wire = s.hall.wire from hall.same .wire (by simp)], by rw [dst, regs], type, seq', ack,
    barrier, rest⟩

end

/-! ## What a connection sends, resends and owes (R260, R263 to R268, R277) -/

/-- The choice of a port looks at no connection. -/
theorem portAmong_updConn (s : State) (d e mask : Nat) (f : Conn → Conn) :
    (s.updConn d f).portAmong e mask = s.portAmong e mask := rfl

theorem txPayload_updConn (s : State) (d : Nat) (k : Conn → Conn) {f g : TxFrame} {bs : List Byte}
    (read : s.txPayload f = (some bs, s)) (place : g.place = f.place) (payload : g.payload = f.payload) (len : g.len = f.len) :
    (s.updConn d k).txPayload g = (some bs, s.updConn d k) := by
  obtain ⟨h, eh⟩ : ∃ h, s.updConn d k = s.withHall h := ⟨_, rfl⟩
  rw [eh, txPayload_withHall s h place payload len, read]

section
variable {d : PeerId} {s : State} {c : Conn} (now : s.conn d = c)
include now

theorem hallFrameSend_eq {p : Nat} {f : TxFrame} {rest : List TxFrame} {bs : List Byte} (opened : c.state = .opened)
    (path : (s.portFor d).isSome = true) (port : s.portAmong d f.ports = some p) (on : s.hallOn = true)
    (next : c.nextTx = some (f, rest)) (room : c.unacked.length < max 1 c.peerWin) (read : s.txPayload f = (some bs, s))
    (turn : c.barDue = true ∨ ∀ e, (s.conn e).barDue = false) :
    exec (.hallFrameSend d) s = .next (s.sendFrame d f rest) := by
  have first : s.barrierFirst d = s := by
    unfold State.barrierFirst
    split
    · rfl
    next q _ =>
      have none : (s.peersOn q).filter (fun e => e != d.val && (s.conn e).barDue && !(s.conn d).barDue) = [] := by
        rw [List.filter_eq_nil_iff]
        intro e _
        rcases turn with own | quiet
        · simp [now, own]
        · simp [quiet e]
      rw [none]
      rfl
  have some_ : c.queue ≠ [] := by
    intro empty
    rw [Conn.nextTx, empty] at next
    split at next <;> simp at next
  have asked : s.demand d = s := if_neg (by rw [now]; simpa using some_)
  have may : s.maySend d = true := by
    unfold State.maySend
    rw [now, next]
    simp [opened, room, port, on]
  rw [show exec (.hallFrameSend d) s = execHallFrameSend d s from rfl, execHallFrameSend, first, asked]
  rw [if_pos ⟨now ▸ opened, path, on⟩, if_pos may, State.sendNext, now, next]
  dsimp only
  rw [read]

/-- The state as its next frame leaves the queue and waits for its acknowledgement. -/
theorem sendFrame_eq (f : TxFrame) (rest : List TxFrame) : s.sendFrame d f rest =
    (s.updConn d (fun _ => { c with
      queue := rest, txSeq := (c.txSeq + 1) % 2 ^ 32, unacked := c.unacked ++ [{ f with seq := c.txSeq, sends := 1 }]
      rto := if c.unacked.isEmpty then s.rtoBase else c.rto
      deadline := if c.unacked.isEmpty then some (s.clk.wall + s.rtoBase) else c.deadline })).sendSeq d
        { f with seq := c.txSeq, sends := 1 } := by
  subst now
  rfl

theorem hallFrameSend_spec {p : Nat} {f : TxFrame} {rest : List TxFrame} {bs : List Byte} (opened : c.state = .opened)
    (path : (s.portFor d).isSome = true) (port : s.portAmong d f.ports = some p) (on : s.hallOn = true)
    (next : c.nextTx = some (f, rest)) (room : c.unacked.length < max 1 c.peerWin) (read : s.txPayload f = (some bs, s))
    (turn : c.barDue = true ∨ ∀ e, (s.conn e).barDue = false) :
    ∃ t, exec (.hallFrameSend d) s = .next t ∧ (t.conn d).queue = rest ∧ (t.conn d).txSeq = (c.txSeq + 1) % 2 ^ 32 ∧
      (t.conn d).unacked = c.unacked ++ [{ f with seq := c.txSeq, sends := 1 }] ∧ (t.conn d).owedAck = false ∧
      (c.unacked = [] → (t.conn d).deadline = some (s.clk.wall + s.rtoBase)) ∧
      (s.emits p → ∃ g : Sys2Proof.Frame, t.hall.wire = s.hall.wire ++ [(Fin.ofNat 8 p, g)] ∧
        g.dst = BitVec.ofNat 48 (s.rf (Reg.hftPeer d) 47 0) ∧ g.body.drop 32 = bs ∧
        hdrSeq g.body = c.txSeq % 2 ^ 32 ∧ hdrAck g.body = c.rxNext % 2 ^ 32 ∧
        hdrType g.body = (if f.isCtrl then 1 else 0)) ∧
      KeepsConns [d.val] s t ∧ OnlyTouches [.hall] s t := by
  have run := hallFrameSend_eq now opened path port on next room read turn
  rw [sendFrame_eq now] at run
  obtain ⟨k, ek⟩ : ∃ k : Conn, { c with
    queue := rest, txSeq := (c.txSeq + 1) % 2 ^ 32, unacked := c.unacked ++ [{ f with seq := c.txSeq, sends := 1 }]
    rto := if c.unacked.isEmpty then s.rtoBase else c.rto
    deadline := if c.unacked.isEmpty then some (s.clk.wall + s.rtoBase) else c.deadline } = k := ⟨_, rfl⟩
  rw [ek] at run
  obtain ⟨u, eu⟩ : ∃ u, s.updConn d (fun _ => k) = u := ⟨_, rfl⟩
  have conn : u.conn d = k := eu ▸ conn_updConn_self ..
  have hall : InHall [.conns] s u := eu ▸ inHall_updConn ..
  have pieces : OnlyTouches [.hall] s u := eu ▸ (within_updConn ..).touches
  have keeps : KeepsConns [d.val] s u := eu ▸ keepsConns_updConn s d _
  have payload : u.txPayload { f with seq := c.txSeq, sends := 1 } = (some bs, u) :=
    eu ▸ txPayload_updConn s d _ read rfl rfl rfl
  have port' : u.portAmong d f.ports = some p := eu ▸ port
  have on' : u.hallOn = true := by
    rw [State.hallOn, rf_of_reg (State.reg_of_regs (pieces .regs (by decide)).1 _)]
    exact on
  have sent : u.sendSeq d { f with seq := c.txSeq, sends := 1 } =
      u.sendBy f.ports d (if f.isCtrl then 1 else 0) (if 1 < 1 then 2 else 0) c.txSeq f.stream bs := by
    rw [State.sendSeq, payload]
  have small : (if f.isCtrl then 1 else 0) < 16 := by split <;> decide
  obtain ⟨conn', wire⟩ := sendBy_spec u f.ports d (if f.isCtrl then 1 else 0) (if 1 < 1 then 2 else 0) c.txSeq f.stream bs
    port' on' small
  have keeps' := (sendsTo_sendBy u d f.ports (if f.isCtrl then 1 else 0) (if 1 < 1 then 2 else 0) c.txSeq f.stream bs).conns
  rw [eu, sent] at run
  rw [conn] at conn'
  refine ⟨_, run, ?_, ?_, ?_, ?_, fun empty => ?_, fun can => ?_, keeps.trans keeps', pieces.trans (touches_sendBy _ _ _ _ _ _ _ _)⟩
  · rw [conn', ← ek]
  · rw [conn', ← ek]
  · rw [conn', ← ek]
  · rw [conn']
  · rw [conn', ← ek]
    exact if_pos (by rw [empty]; rfl)
  · have can' : u.emits p := by
      rw [State.emits, hall.hport, State.reg_of_regs (pieces .regs (by decide)).1]
      exact can
    obtain ⟨g, onWire, dst, type, seq, ack, _, rest'⟩ := wire can'
    refine ⟨g, ?_, ?_, rest', seq, ?_, type⟩
    · rw [onWire, show u.hall.wire = s.hall.wire from hall.same .wire (by simp)]
    · rw [dst, rf_of_reg (State.reg_of_regs (pieces .regs (by decide)).1 _)]
    · rw [ack, conn, ← ek]

end

/-- A frame that is resent, from a payload that can be read: it leaves again, and is counted (R267). -/
theorem resend_spec {s : State} {d : Nat} {f : TxFrame} (same : (s.txPayload f).2 = s) :
    Frame [.regs, .hall] [Reg.hftPeerstat] s (s.resend d f) ∧
    (s.resend d f).rf Reg.hftPeerstat 63 48 = satAdd (2 ^ 16 - 1) (s.rf Reg.hftPeerstat 63 48) 1 := by
  obtain ⟨bs, read⟩ := txPayload_unchanged same
  unfold State.resend
  extract_lets f' u
  have payload : u.txPayload f' = (some bs, u) := txPayload_updConn s d _ read rfl rfl rfl
  have moved : Frame [.hall] [] s u := .of_within (within_updConn ..)
  have sent : u.sendSeq d f' = u.sendBy f'.ports d (if f'.isCtrl then 1 else 0) (if 1 < f'.sends then 2 else 0) f'.seq f'.stream bs := by
    rw [State.sendSeq, payload]
  rw [sent]
  obtain ⟨v, ev⟩ : ∃ v, u.sendBy f'.ports d (if f'.isCtrl then 1 else 0) (if 1 < f'.sends then 2 else 0) f'.seq f'.stream bs = v :=
    ⟨_, rfl⟩
  have left : Frame [.hall] [] u v := ev ▸ .of_touches (touches_sendBy _ _ _ _ _ _ _ _)
  have before := left.comp moved
  rw [ev]
  have counted := frame_count v Reg.hftPeerstat 63 48 1
  exact ⟨(counted.mono (ps := [.regs, .hall]) (rs := [Reg.hftPeerstat])).comp before.mono,
    by rw [rf_count_self _ _ _ (by decide) (by decide), before.rf (by simp)]⟩

/-- A connection that is lost: its frames go, its streams stop, and the loss is reported (R267). -/
theorem loseConn_spec (s : State) (d : Nat) :
    ((s.loseConn d).conn d).state = .lost ∧ ((s.loseConn d).conn d).unacked = [] ∧ ((s.loseConn d).conn d).queue = [] ∧
    (∀ x ∈ (s.loseConn d).hall.streams, x.peer = d → x.stopped = true) ∧
    KeepsConns [d] s (s.loseConn d) ∧ Frame [.regs, .parts, .hall, .flt] faultRegs s (s.loseConn d) ∧
    ∃ u : State, s.loseConn d = u.report (blockSrc 4 0) 0x71 d 127 ∧ u.flt = s.flt ∧ u.clk = s.clk := by
  unfold State.loseConn
  extract_lets u
  have lost : u.conn d = { s.conn d with state := .lost, queue := [], unacked := [], deadline := none } := conn_updConn_self ..
  have keeps : KeepsConns [d] s u := keepsConns_updConn s d _
  have moved : Frame [.hall] [] s u := .of_within (within_updConn ..)
  obtain ⟨pieces, hall, streams, _⟩ := stopStreams_spec u (fun x => x.peer == d)
  obtain ⟨v, ev⟩ : ∃ v, u.stopStreams (fun x => x.peer == d) = v := ⟨_, rfl⟩
  rw [ev] at pieces hall streams ⊢
  have sent := frame_report v (blockSrc 4 0) 0x71 d 127
  have sentHall : InHall [] v (v.report (blockSrc 4 0) 0x71 d 127) := .of_touches sent.pieces
  have conn : (v.report (blockSrc 4 0) 0x71 d 127).conn d = u.conn d := (sentHall.conn d).trans (hall.conn d)
  have stopped : Frame [.parts, .hall] [] u v := .of_touches pieces
  have all := (sent.mono (ps := [.regs, .parts, .hall, .flt]) (rs := faultRegs)).comp
    ((stopped.mono (ps := [.regs, .parts, .hall, .flt]) (rs := faultRegs)).comp moved.mono)
  refine ⟨by rw [conn, lost], by rw [conn, lost], by rw [conn, lost], fun x hx own => ?_,
    (keeps.trans (hall.keepsConns _)).trans (sentHall.keepsConns _), all, v, rfl, ?_, ?_⟩
  · rw [show _ = v.hall.streams from sentHall.same .streams (by simp), streams] at hx
    obtain ⟨y, _, rfl⟩ := List.mem_map.mp hx
    by_cases peer : (y.peer == d) = true
    · rw [if_pos peer]
    · rw [if_neg peer] at own
      exact absurd (beq_iff_eq.mpr own) peer
  · rw [stopped.pieces .flt (by decide), moved.pieces .flt (by decide)]
  · rw [stopped.pieces .clk (by decide), moved.pieces .clk (by decide)]

/-- What a timeout leaves of a connection before it may be lost (R266, R267). -/
theorem retransmission_spec {d : PeerId} {s : State} {c : Conn} (now : s.conn d = c) {u : Nat} {f : TxFrame} {fs : List TxFrame}
    (due : c.deadline = some u) (first : c.unacked = f :: fs) (past : u < s.clk.wall) (same : (s.txPayload f).2 = s) :
    ∃ t, (exec (.retransmissionTimeout d) s = .next
        (if s.rf Reg.hftTimer 15 12 ≤ c.expiries + 1 then t.loseConn d else t)) ∧
      t.rf Reg.hftPeerstat 63 48 = satAdd (2 ^ 16 - 1) (s.rf Reg.hftPeerstat 63 48) 1 ∧
      (t.conn d).state = c.state ∧ (t.conn d).rto = min (2 * c.rto) (64 * s.rtoBase) ∧
      (t.conn d).deadline = some (s.clk.wall + min (2 * c.rto) (64 * s.rtoBase)) ∧
      (t.conn d).expiries = c.expiries + 1 ∧ (t.conn d).expired = some f.seq ∧
      (t.conn d).unacked.map TxFrame.seq = c.unacked.map TxFrame.seq ∧
      Reports [(blockSrc 4 0, 0x70, d.val)] 127 s t ∧ t.flt.queue.length ≤ s.flt.queue.length + 1 ∧ t.clk = s.clk ∧
      KeepsConns [d.val] s t ∧ OnlyTouches [.regs, .parts, .hall, .flt] s t := by
  have sends := sendsTo_resend s d f
  obtain ⟨again, count⟩ := resend_spec (d := d) same
  obtain ⟨r, er⟩ : ∃ r, s.resend d f = r := ⟨_, rfl⟩
  rw [er] at sends again count
  have flt : r.flt = s.flt := again.pieces .flt (by decide)
  have clk : r.clk = s.clk := again.pieces .clk (by decide)
  have sent := frame_report r (blockSrc 4 0) 0x70 d 127
  have told := reports_report r (blockSrc 4 0) 0x70 d 127
  have length : (r.report (blockSrc 4 0) 0x70 d 127).flt.queue.length ≤ s.flt.queue.length + 1 := by
    rw [State.report, enterQueue_queue, List.length_take, length_placeMsg, flt]
    omega
  obtain ⟨v, ev⟩ : ∃ v, r.report (blockSrc 4 0) 0x70 d 127 = v := ⟨_, rfl⟩
  rw [ev] at sent told length
  have sentHall : InHall [] r v := .of_touches sent.pieces
  have conn : v.conn d = r.conn d := sentHall.conn d
  have regs (hi lo : Nat) : v.rf Reg.hftTimer hi lo = s.rf Reg.hftTimer hi lo := by
    rw [sent.rf (by simp [faultRegs]), again.rf (by simp)]
  have base : v.rtoBase = s.rtoBase := by rw [State.rtoBase, State.rtoBase, regs]
  obtain ⟨t, et⟩ : ∃ t, v.updConn d (fun k => { k with
    rto := min (2 * c.rto) (64 * s.rtoBase), deadline := some (s.clk.wall + min (2 * c.rto) (64 * s.rtoBase))
    expiries := k.expiries + 1, expired := some f.seq }) = t := ⟨_, rfl⟩
  have moved : Frame [.hall] [] v t := et ▸ .of_within (within_updConn ..)
  have keeps : KeepsConns [d.val] v t := et ▸ keepsConns_updConn v d _
  have own : t.conn d = { r.conn d with
      rto := min (2 * c.rto) (64 * s.rtoBase), deadline := some (s.clk.wall + min (2 * c.rto) (64 * s.rtoBase))
      expiries := (r.conn d).expiries + 1, expired := some f.seq } := by
    rw [← et, conn_updConn_self, conn]
  have run : exec (.retransmissionTimeout d) s = .next
      (if s.rf Reg.hftTimer 15 12 ≤ c.expiries + 1 then t.loseConn d else t) := by
    rw [show exec (.retransmissionTimeout d) s = execRetransmissionTimeout d s from rfl, execRetransmissionTimeout, now]
    dsimp only
    rw [due, first]
    dsimp only
    rw [if_pos past, er, ev, base, show v.clk = s.clk from (sent.pieces .clk (by decide)).trans clk, et,
      moved.rf (by simp), regs]
  refine ⟨t, run, ?_, ?_, ?_, ?_, ?_, ?_, ?_, ?_, ?_, ?_,
    (sends.conns.trans (sentHall.keepsConns _)).trans keeps, ?_⟩
  · rw [moved.rf (by simp), sent.rf (by simp [faultRegs]), count]
  · rw [own, ← now]
    exact sends.conn.state
  · rw [own]
  · rw [own]
  · rw [own, ← now, ← sends.conn.expiries]
  · rw [own]
  · rw [own, ← now]
    exact sends.seqs
  · intro room x hx
    rw [moved.pieces .flt (by decide)]
    exact (told.after flt clk) room x hx
  · rw [moved.pieces .flt (by decide)]
    exact length
  · rw [moved.pieces .clk (by decide), sent.pieces .clk (by decide), clk]
  · exact ((again.pieces.mono (by decide)).trans (sent.pieces.mono (by decide))).trans (moved.pieces.mono (by decide))

/-- An acknowledgement falls due. -/
theorem acknowledgementDue_eq {d : PeerId} {s : State} (live : (s.conn d).live = true)
    (due : 8 ≤ (s.conn d).delivered ∨ (s.conn d).outOfOrder = true ∨
      ∃ u, (s.conn d).firstDel = some u ∧ u + usec 1 ≤ s.clk.wall) :
    exec (.acknowledgementDue d) s = .next (s.updConn d (fun c => { c with owedAck := true })) := by
  rw [show exec (.acknowledgementDue d) s = execAcknowledgementDue d s from rfl, execAcknowledgementDue]
  refine congrArg Host.Outcome.next (if_pos ⟨live, ?_⟩)
  rcases due with many | gap | ⟨u, first, past⟩
  · rw [decide_eq_true many]
    rfl
  · rw [gap, Bool.or_true, Bool.true_or]
  · rw [first]
    dsimp only
    rw [decide_eq_true past, Bool.or_true]

/-- An IDLE frame for a peer that a port may take. -/
def IdleSent (s : State) (p : HallPort) (d : Nat) (t : State) : Prop :=
  (t.conn d).owedAck = false ∧ (t.conn d).barDue = false ∧ (t.conn d).delivered = 0 ∧
  (s.emits p → ∃ g : Sys2Proof.Frame, t.hall.wire = s.hall.wire ++ [(p, g)] ∧ hdrType g.body = 2 ∧
    hdrAck g.body = (s.conn d).rxNext % 2 ^ 32 ∧ hdrBarrier g.body = (s.barrierFor d).1 % 2 ^ 32) ∧
  KeepsConns [d] s t ∧ OnlyTouches [.hall] s t

theorem idleSent_sendTo {s : State} {p : HallPort} {d : Nat} (path : s.portFor d = some p.val) (on : s.hallOn = true) :
    IdleSent s p d (s.sendTo d 2 0 (s.conn d).txSeq 0 []) := by
  obtain ⟨conn, wire⟩ := sendBy_spec s 255 d 2 0 (s.conn d).txSeq 0 [] path on (by decide)
  have keeps := (sendsTo_sendBy s d 255 2 0 (s.conn d).txSeq 0 []).conns
  have self : Fin.ofNat 8 p.val = p := Fin.ext (Nat.mod_eq_of_lt p.isLt)
  refine ⟨?_, ?_, ?_, fun can => ?_, keeps, touches_sendBy _ _ _ _ _ _ _ _⟩
  · rw [State.sendTo, conn]
  · rw [State.sendTo, conn]
  · rw [State.sendTo, conn]
  · obtain ⟨g, onWire, _, type, _, ack, barrier, _⟩ := wire can
    rw [self] at onWire
    exact ⟨g, onWire, type, ack, barrier⟩

/-- Settles O29: sending, the two timeouts, what falls due, and the frames that a port sends by itself. -/
theorem sendingAndResending : Obligations.SendingAndResending := by
  rintro d s c now
  refine ⟨fun p f rest bs opened path port on next room read turn =>
      hallFrameSend_spec now opened path port on next room read turn,
    fun u f fs due first past same => ?resend, fun live silent => ?silent, fun live due => ?ack,
    fun p path on idle same => ⟨fun owed => ⟨fun may => ?next, fun may => ?idle⟩, fun none quiet turn => ?turn⟩⟩
  case resend =>
    obtain ⟨t, run, count, state, rto, deadline, expiries, expired, seqs, told, length, clk, keeps, pieces⟩ :=
      retransmission_spec now due first past same
    by_cases last : s.rf Reg.hftTimer 15 12 ≤ c.expiries + 1
    · rw [if_pos last] at run
      obtain ⟨lost, unacked, queue, stopped, keeps', frame, u, report, flt, clk'⟩ := loseConn_spec t d
      refine ⟨_, run, ?_, fun more => absurd last (by omega), fun _ => ⟨lost, unacked, queue, stopped, fun room x hx => ?_⟩,
        keeps.trans keeps', pieces.trans frame.pieces⟩
      · rw [frame.rf (by simp [faultRegs]), count]
      · have room : s.flt.queue.length + 2 ≤ 64 := room
        have space : u.flt.queue.length < 64 := by
          rw [flt]
          omega
        have mc : u.mc = s.mc := by rw [State.mc, State.mc, clk', clk]
        rw [report, report_spec _ _ _ _ _ space]
        refine (mem_placeMsg ..).mpr ?_
        rcases List.mem_cons.mp hx with rfl | second
        · rw [flt]
          exact .inr (told (by simp; omega) _ (List.mem_singleton.mpr rfl))
        · rw [List.mem_singleton.mp second, mc]
          exact .inl rfl
    · rw [if_neg last] at run
      exact ⟨t, run, count, fun _ => ⟨state, rto, deadline, expiries, expired, seqs, told⟩, fun more => absurd more last,
        keeps, pieces⟩
  case silent =>
    obtain ⟨lost, unacked, queue, stopped, keeps, frame, u, report, flt, clk⟩ := loseConn_spec s d
    have run : exec (.peerTimeout d) s = .next (s.loseConn d) := by
      rw [show exec (.peerTimeout d) s = execPeerTimeout d s from rfl, execPeerTimeout, now]
      exact congrArg Host.Outcome.next (if_pos ⟨live, silent⟩)
    refine ⟨_, run, lost, unacked, stopped, ?_, keeps, frame.regs, frame.pieces⟩
    rw [report]
    exact (reports_report u _ _ _ _).after flt clk
  case ack =>
    subst now
    exact acknowledgementDue_eq live due
  all_goals
    subst now
    have run : exec (.idleSend p) s = execIdleSend p s := rfl
    rw [execIdleSend] at run
    dsimp only at run
  case next =>
    rw [run, owed]
    exact congrArg Host.Outcome.next (if_pos may)
  case idle =>
    rw [owed] at run
    have sent := idleSent_sendTo path on
    rw [same]
    exact ⟨_, run.trans (congrArg Host.Outcome.next (if_neg (ne_true_of_eq_false may))), sent⟩
  case turn =>
    rw [none, if_pos quiet, turn] at run
    obtain ⟨owed, bar, delivered, wire, keeps, pieces⟩ := idleSent_sendTo (d := d) path on
    have moved := inHall_updPort (s.sendTo d 2 0 (s.conn d).txSeq 0 []) p (fun x => { x with turn := d.val + 1 })
    have only := (within_updPort (s.sendTo d 2 0 (s.conn d).txSeq 0 []) p (fun x => { x with turn := d.val + 1 })).touches
    rw [same]
    refine ⟨_, run, ⟨?_, ?_, ?_, fun can => ?_, keeps.trans (moved.keepsConns _), pieces.trans only⟩, ?_⟩
    · rw [moved.conn, owed]
    · rw [moved.conn, bar]
    · rw [moved.conn, delivered]
    · rw [show _ = _ from moved.same .wire (by simp)]
      exact wire can
    · rw [hport_updPort_self]

end Sys2Proof.Machine
end

section
/-! PROOFS. The hall: barriers, multicast and control. -/

namespace Sys2Proof.Machine

open Sys2Proof

-- One theorem after another: many at once would need too many threads.
set_option Elab.async false

/-! ## Barrier groups, comparators and who is told of a barrier (R273, R276 to R280, R306) -/

theorem barGroup_setGroup_self (s : State) (g : Nat) (x : Option BarGroup) : (s.setGroup g x).barGroup g = x :=
  Table.look_put_self ..

theorem InHall.barGroup {ps : List HallPart} {s t : State} (h : InHall ps s t) (g : Nat) (no : .groups ∉ ps := by simp) :
    t.barGroup g = s.barGroup g := by
  rw [State.barGroup, State.barGroup, show t.hall.groups = s.hall.groups from h.same .groups no]

theorem touches_setGroup (s : State) (g : Nat) (x : Option BarGroup) : OnlyTouches [.hall] s (s.setGroup g x) :=
  (within_setGroup s g x).touches

theorem inHall_barChanged (s : State) (peers : List Nat) : InHall [.conns] s (s.barChanged peers) :=
  .foldl (fun t d => inHall_updConn t d _) peers s

theorem touches_barChanged (s : State) (peers : List Nat) : OnlyTouches [.hall] s (s.barChanged peers) :=
  .foldl (fun t d => (within_updConn t d _).touches) peers s

theorem barChanged_stays {s : State} (peers : List Nat) {d : Nat} (due : (s.conn d).barDue = true) :
    ((s.barChanged peers).conn d).barDue = true := by
  induction peers generalizing s with
  | nil => exact due
  | cons e peers ih =>
    refine ih ?_
    by_cases same : d = e
    · rw [same, conn_updConn_self]
    · rw [conn_updConn_other _ _ same]
      exact due

theorem barChanged_due (s : State) {peers : List Nat} {d : Nat} (m : d ∈ peers) :
    ((s.barChanged peers).conn d).barDue = true := by
  induction peers generalizing s with
  | nil => exact absurd m List.not_mem_nil
  | cons e peers ih =>
    rcases List.mem_cons.mp m with rfl | later
    · refine barChanged_stays (s := s.updConn d _) peers ?_
      rw [conn_updConn_self]
    · exact ih _ later

/-- The registers of a comparator after it is set. -/
theorem setCmp_spec (s : State) (k owner index time : Nat) (armed : Bool) (small : owner < 8) :
    Frame [.regs] [Reg.gtbCmp k, Reg.gtbCmp k + 8] s (s.setCmp k owner index time armed) ∧
    ((s.setCmp k owner index time armed).reg (Reg.gtbCmp k)).toNat = time % 2 ^ 64 ∧
    (s.setCmp k owner index time armed).cmpArmed k = armed ∧ (s.setCmp k owner index time armed).cmpOwner k = owner := by
  have first := frame_setReg s (Reg.gtbCmp k) (BitVec.ofNat 64 time)
  have second := frame_setReg (s.setReg (Reg.gtbCmp k) (BitVec.ofNat 64 time)) (Reg.gtbCmp k + 8)
    (BitVec.ofNat 64 (owner + index % 256 * 2 ^ 8 + (if armed then 2 ^ 16 else 0)))
  have last : (s.setCmp k owner index time armed).reg (Reg.gtbCmp k + 8) =
      BitVec.ofNat 64 (owner + index % 256 * 2 ^ 8 + (if armed then 2 ^ 16 else 0)) := State.reg_setReg_self ..
  refine ⟨(second.mono).comp first.mono, ?_, ?_, ?_⟩
  · rw [State.setCmp, second.reg (by simp), State.reg_setReg_self, BitVec.toNat_ofNat]
  · rw [State.cmpArmed, last, bit, ← BitVec.testBit_toNat, BitVec.toNat_ofNat]
    cases armed with
    | true =>
      rw [if_pos rfl, Nat.mod_eq_of_lt (by omega), Nat.testBit_eq_decide_div_mod_eq]
      exact decide_eq_true (by omega)
    | false =>
      rw [if_neg (by decide), Nat.mod_eq_of_lt (by omega), Nat.testBit_eq_decide_div_mod_eq]
      exact decide_eq_false (by omega)
  · rw [State.cmpOwner, last, fld, BitVec.toNat_ofNat, bitsN_eq]
    split <;> omega

/-- A group whose release is set, with its comparator armed for it (R277). -/
theorem armRelease_spec (s : State) (g : Nat) (x : BarGroup) (t field : Nat) :
    Frame [.regs, .hall] [Reg.gtbCmp x.cmp, Reg.gtbCmp x.cmp + 8] s (s.armRelease g x t field) ∧
    InHall [.groups] s (s.armRelease g x t field) ∧
    (s.armRelease g x t field).barGroup g = some { x with
      release := some t, first := none, own := none, arrived := [], late := false, timedOut := false
      number := x.number + 1, field := field } ∧
    ((s.armRelease g x t field).reg (Reg.gtbCmp x.cmp)).toNat = t % 2 ^ 64 ∧
    (s.armRelease g x t field).cmpArmed x.cmp = true := by
  obtain ⟨frame, time, armed, _⟩ := setCmp_spec s x.cmp 1 g t true (by decide)
  obtain ⟨u, eu⟩ : ∃ u, s.setCmp x.cmp 1 g t true = u := ⟨_, rfl⟩
  unfold State.armRelease
  rw [eu] at frame time armed ⊢
  obtain ⟨y, ey⟩ : ∃ y : BarGroup, { x with
    release := some t, first := none, own := none, arrived := [], late := false, timedOut := false
    number := x.number + 1, field := field } = y := ⟨_, rfl⟩
  rw [ey]
  have set_ := touches_setGroup u g (some y)
  have noted : Frame [.hall] [] u (u.setGroup g (some y)) := .of_touches set_
  refine ⟨(noted.mono (ps := [.regs, .hall]) (rs := [Reg.gtbCmp x.cmp, Reg.gtbCmp x.cmp + 8])).comp frame.mono,
    (inHall_setGroup ..).after (.of_touches frame.pieces), barGroup_setGroup_self .., ?_, ?_⟩
  · rw [noted.reg (by simp), time]
  · rw [State.cmpArmed, noted.reg (by simp)]
    exact armed

/-- The count and the log entry of an arrival that is late, once for a barrier. -/
def State.countLate (s : State) (g : Nat) (late : Bool) : State :=
  if late then (s.count Reg.hftBarstat 15 0 1).enterLog ⟨Config.lateEntry g, 127, s.clk.wall⟩ else s

theorem frame_enterLog (s : State) (m : FaultMsg) : Frame [.regs, .flt] faultRegs s (s.enterLog m) := by
  refine .ite ?_ ((frame_count ..).mono (own := by simp [faultRegs]))
  exact Frame.mono (.of_within (within_flt (s := s) _)) (own := List.nil_subset _)

theorem frame_countLate (s : State) (g : Nat) (late : Bool) :
    Frame [.regs, .flt] [Reg.hftBarstat, Reg.fltStat] s (s.countLate g late) := by
  refine .ite ?_ (.refl ..)
  exact ((frame_enterLog _ _).mono (own := by simp [faultRegs])).comp ((frame_count s Reg.hftBarstat 15 0 1).mono)

/-- The arrival of a device at the coordinator, as it is recorded or, after the last, releases the barrier (R273, R276). -/
theorem recordArrival_eq {s : State} {g : Nat} {x : BarGroup} {dev : Nat} (new : dev ∉ x.arrived) : ∃ late y,
    y = { x with arrived := dev :: x.arrived, first := some (x.first.getD s.clk.wall), late := x.late || late } ∧
    s.recordArrival g x dev = (let u := s.countLate g late
      if (u.device :: x.members).all (fun d => d ∈ dev :: x.arrived) then
        (u.armRelease g y (roundUp (u.gtime + u.rf Reg.hftBarcfg 15 0) u.slotNs)
          (barField g 2 x.number (roundUp (u.gtime + u.rf Reg.hftBarcfg 15 0) u.slotNs / 1024))).barChanged x.members
      else u.setGroup g (some y)) := by
  unfold State.recordArrival
  rw [if_neg new]
  exact ⟨_, _, rfl, rfl⟩

/-- What the choice of a release looks at is left by the counts of a late arrival. -/
theorem countLate_looks (s : State) (g : Nat) (late : Bool) : (s.countLate g late).device = s.device ∧
    (s.countLate g late).gtime = s.gtime ∧ (s.countLate g late).rf Reg.hftBarcfg 15 0 = s.rf Reg.hftBarcfg 15 0 ∧
    (s.countLate g late).slotNs = s.slotNs := by
  have frame := frame_countLate s g late
  refine ⟨frame.rf (by simp) 9 0, ?_, frame.rf (by simp) 15 0, ?_⟩
  · rw [State.gtime, State.gtime, frame.pieces .clk (by decide)]
  · rw [State.slotNs, State.slotNs, frame.rf (by simp)]

theorem recordArrival_spec {s : State} {g : Nat} {x : BarGroup} {dev : Nat} (new : dev ∉ x.arrived) :
    OnlyTouches [.regs, .hall, .flt] s (s.recordArrival g x dev) ∧
    InHall [.conns, .groups] s (s.recordArrival g x dev) ∧
    ((∃ d ∈ s.device :: x.members, d ≠ dev ∧ d ∉ x.arrived) → ∃ y, (s.recordArrival g x dev).barGroup g = some y ∧
      y.arrived = dev :: x.arrived ∧ y.first = some (x.first.getD s.clk.wall) ∧ y.number = x.number ∧ y.release = x.release) ∧
    ((∀ d ∈ s.device :: x.members, d = dev ∨ d ∈ x.arrived) →
      ∀ T, T = roundUp (s.gtime + s.rf Reg.hftBarcfg 15 0) s.slotNs → ∃ y, (s.recordArrival g x dev).barGroup g = some y ∧
      y.arrived = [] ∧ y.number = x.number + 1 ∧ y.release = some T ∧
      ((s.recordArrival g x dev).reg (Reg.gtbCmp x.cmp)).toNat = T % 2 ^ 64 ∧
      (s.recordArrival g x dev).cmpArmed x.cmp = true ∧ y.field = barField g 2 x.number (T / 1024) ∧
      ∀ d ∈ x.members, ((s.recordArrival g x dev).conn d).barDue = true) := by
  obtain ⟨late, y, ey, run⟩ := recordArrival_eq (s := s) (g := g) new
  obtain ⟨device, gtime, margin, slot⟩ := countLate_looks s g late
  have counted := frame_countLate s g late
  obtain ⟨u, eu⟩ : ∃ u, s.countLate g late = u := ⟨_, rfl⟩
  rw [eu] at run device gtime margin slot counted
  dsimp only at run
  rw [device, gtime, margin, slot] at run
  have countedHall : InHall [.conns, .groups] s u := .of_touches counted.pieces
  by_cases all : ∀ d ∈ s.device :: x.members, d = dev ∨ d ∈ x.arrived
  · rw [if_pos (by simpa [List.all_eq_true] using all)] at run
    obtain ⟨frame, hall, group, time, armed⟩ := armRelease_spec u g y (roundUp (s.gtime + s.rf Reg.hftBarcfg 15 0) s.slotNs)
      (barField g 2 x.number (roundUp (s.gtime + s.rf Reg.hftBarcfg 15 0) s.slotNs / 1024))
    obtain ⟨v, ev⟩ : ∃ v, u.armRelease g y (roundUp (s.gtime + s.rf Reg.hftBarcfg 15 0) s.slotNs)
      (barField g 2 x.number (roundUp (s.gtime + s.rf Reg.hftBarcfg 15 0) s.slotNs / 1024)) = v := ⟨_, rfl⟩
    rw [ev] at run frame hall group time armed
    have told := touches_barChanged v x.members
    have toldHall := inHall_barChanged v x.members
    have cmp : y.cmp = x.cmp := by rw [ey]
    rw [cmp] at time armed
    rw [run]
    refine ⟨((counted.pieces.mono (by decide)).trans (frame.pieces.mono (by decide))).trans (told.mono (by decide)),
      (countedHall.trans hall.mono).trans toldHall.mono,
      fun ⟨d, m, other, fresh⟩ => absurd (all d m) (not_or.mpr ⟨other, fresh⟩),
      fun _ T eT => ⟨_, (toldHall.barGroup g).trans group, rfl, by rw [ey], by rw [eT], ?_, ?_, by rw [eT],
        fun d m => barChanged_due v m⟩⟩
    · rw [State.reg_of_regs (told .regs (by decide)).1, time, eT]
    · rw [State.cmpArmed, State.reg_of_regs (told .regs (by decide)).1]
      exact armed
  · rw [if_neg (by simpa [List.all_eq_true] using all)] at run
    rw [run]
    refine ⟨(counted.pieces.mono (by decide)).trans ((touches_setGroup u g _).mono (by decide)),
      countedHall.trans (inHall_setGroup ..).mono, fun _ => ⟨y, barGroup_setGroup_self .., ?_, ?_, ?_, ?_⟩,
      fun every => absurd every all⟩
    all_goals rw [ey]

section
variable {s : State} {m : BarMsg} {ms : List BarMsg} {g : Nat} {x : BarGroup} (front : s.hall.bars = m :: ms)
  (own : bitsN m.field 3 0 = g) (group : s.barGroup g = some x)
include front own group

/-- A barrier field of a code is taken from the front of those that wait. -/
theorem onField_front {code : Nat} (is : bitsN m.field 5 4 = code) (f : BarMsg → Nat → BarGroup → State → State) :
    s.onField code f = f m g x s.nextField := by
  unfold State.onField State.nextField
  rw [front, List.drop_succ_cons, List.drop_zero]
  dsimp only
  rw [if_pos is, own]
  obtain ⟨u, eu⟩ : ∃ u : State, { s with hall := { s.hall with bars := ms } } = u := ⟨_, rfl⟩
  have same : u.barGroup g = some x := eu ▸ group
  rw [eu, same]

end

theorem touches_nextField (s : State) : OnlyTouches [.hall] s s.nextField := (within_hall (s := s) _).touches

theorem inHall_nextField (s : State) : InHall [.bars] s s.nextField := inHall_bars ..

/-- The count of a field that comes after the barrier's report (R280). -/
def State.countAfterTimeout (s : State) (x : BarGroup) : State := if x.timedOut then s.count Reg.hftBarstat 47 32 1 else s

theorem frame_countAfterTimeout (s : State) (x : BarGroup) : Frame [.regs] [Reg.hftBarstat] s (s.countAfterTimeout x) :=
  .ite (frame_count ..) (.refl ..)

theorem rf_countAfterTimeout (s : State) (x : BarGroup) :
    (s.countAfterTimeout x).rf Reg.hftBarstat 31 16 = s.rf Reg.hftBarstat 31 16 := by
  unfold State.countAfterTimeout
  split
  · exact rf_count_apart _ _ _ (by decide) (by decide) (by decide)
  · rfl

/-! ## Arrivals (R273, R276) -/

section
variable {q : QuireId} {s : State} {b : BarrierWait} {g : GroupId} {x : BarGroup} (waits : (s.part q).barrier = some b)
  (own : (s.part q).group = some g) (group : s.barGroup g = some x) (may : s.mayForward q b = true)
include waits own group may

theorem hallBarrierArrive_eq : exec (.hallBarrierArrive q) s = .next
    (let u := s.updPart q (fun p => { p with barrier := some { b with forwarded := true } })
     if x.coord = u.device then u.recordArrival g { x with own := some b.lastAt } u.device
     else (u.setGroup g (some { x with own := some b.lastAt, field := barField g 1 x.number 0 })).barChanged [x.coord]) := by
  rw [show exec (.hallBarrierArrive q) s = execHallBarrierArrive q s from rfl, execHallBarrierArrive]
  dsimp only
  rw [waits, own]
  dsimp only
  rw [group]
  exact congrArg Host.Outcome.next (if_pos may)

theorem hallBarrierArrive_spec : ∃ t, exec (.hallBarrierArrive q) s = .next t ∧
    (t.part q).barrier = some { b with forwarded := true } ∧
    (x.coord ≠ s.device →
      t.barGroup g = some { x with own := some b.lastAt, field := barField g 1 x.number 0 } ∧
      (t.conn x.coord).barDue = true ∧ KeepsConns [x.coord] s t) ∧
    (x.coord = s.device → s.device ∉ x.arrived → (∃ d ∈ x.members, d ∉ s.device :: x.arrived) →
      ∃ y, t.barGroup g = some y ∧ y.arrived = s.device :: x.arrived ∧ y.first = some (x.first.getD s.clk.wall) ∧
        y.number = x.number ∧ y.release = x.release) ∧
    KeepsParts [q.val] s t ∧ OnlyTouches [.regs, .parts, .hall, .flt] s t := by
  have run := hallBarrierArrive_eq waits own group may
  obtain ⟨u, eu⟩ : ∃ u, s.updPart q (fun p => { p with barrier := some { b with forwarded := true } }) = u := ⟨_, rfl⟩
  have sent : Frame [.parts] [] s u := eu ▸ frame_updPart ..
  have barrier : (u.part q).barrier = some { b with forwarded := true } := by rw [← eu, State.part_updPart_self]
  have parts : KeepsParts [q.val] s u := eu ▸ keepsParts_updPart s q _
  have device : u.device = s.device := sent.rf (by simp) 9 0
  have hall : InHall [] s u := .of_touches sent.pieces
  have finish {t : State} (k : OnlyTouches [.regs, .hall, .flt] u t) : (t.part q).barrier = some { b with forwarded := true } ∧
      KeepsParts [q.val] s t ∧ OnlyTouches [.regs, .parts, .hall, .flt] s t :=
    ⟨by rw [part_through k, barrier], parts.through k, (sent.pieces.mono (by decide)).trans (k.mono (by decide))⟩
  dsimp only at run
  rw [eu, device] at run
  by_cases here : x.coord = s.device
  · rw [if_pos here] at run
    by_cases again : s.device ∈ x.arrived
    · have same : u.recordArrival g { x with own := some b.lastAt } s.device = u := if_pos again
      rw [same] at run
      obtain ⟨bar, keeps, pieces⟩ := finish (OnlyTouches.refl _ u)
      exact ⟨u, run, bar, fun away => absurd here away, fun _ new => absurd again new, keeps, pieces⟩
    · have spec := recordArrival_spec (s := u) (g := g) (x := { x with own := some b.lastAt }) again
      obtain ⟨pieces, _, more, _⟩ := spec
      obtain ⟨bar, keeps, all⟩ := finish pieces
      refine ⟨_, run, bar, fun away => absurd here away, fun _ _ ⟨d, m, missing⟩ => ?_, keeps, all⟩
      obtain ⟨y, ey, arrived, first, number, release⟩ := more ⟨d, List.mem_cons_of_mem _ m,
        fun e => missing (e ▸ List.mem_cons_self ..), fun e => missing (List.mem_cons_of_mem _ e)⟩
      refine ⟨y, ey, arrived, ?_, number, release⟩
      rw [first, sent.pieces .clk (by decide)]
  · rw [if_neg here] at run
    obtain ⟨v, ev⟩ : ∃ v, u.setGroup g (some { x with own := some b.lastAt, field := barField g 1 x.number 0 }) = v := ⟨_, rfl⟩
    have noted : OnlyTouches [.hall] u v := ev ▸ touches_setGroup _ _ _
    have notedHall : InHall [.groups] u v := ev ▸ inHall_setGroup ..
    have now : v.barGroup g = some { x with own := some b.lastAt, field := barField g 1 x.number 0 } :=
      ev ▸ barGroup_setGroup_self ..
    have told := touches_barChanged v [x.coord]
    have toldHall := inHall_barChanged v [x.coord]
    rw [ev] at run
    obtain ⟨bar, keeps, all⟩ := finish ((noted.mono (by decide)).trans (told.mono (by decide)))
    refine ⟨_, run, bar, fun _ => ⟨(toldHall.barGroup g).trans now, barChanged_due v (List.mem_singleton.mpr rfl), ?_⟩,
      fun back => absurd back here, keeps, all⟩
    exact ((hall.keepsConns _).trans (notedHall.keepsConns _)).trans
      ((show KeepsConns [x.coord] v (v.updConn x.coord (fun c => { c with barDue := true }))
        from keepsConns_updConn _ _ _))

end

section
variable {s : State} {m : BarMsg} {ms : List BarMsg} {g : Nat} {x : BarGroup} (front : s.hall.bars = m :: ms)
  (own : bitsN m.field 3 0 = g) (group : s.barGroup g = some x)
include front own group

theorem arrived_spec (is : bitsN m.field 5 4 = 1) (here : x.coord = s.device) (member : m.peer ∈ x.members)
    (new : m.peer ∉ x.arrived) : ∃ t y, exec .arrived s = .next t ∧ t.hall.bars = ms ∧ t.barGroup g = some y ∧
      ((∃ d ∈ s.device :: x.members, d ≠ m.peer ∧ d ∉ x.arrived) → y.arrived = m.peer :: x.arrived ∧ y.number = x.number) ∧
      ((∀ d ∈ s.device :: x.members, d = m.peer ∨ d ∈ x.arrived) →
        ∀ T, T = roundUp (s.gtime + s.rf Reg.hftBarcfg 15 0) s.slotNs →
        y.arrived = [] ∧ y.number = x.number + 1 ∧ y.release = some T ∧
        (t.reg (Reg.gtbCmp x.cmp)).toNat = T % 2 ^ 64 ∧ t.cmpArmed x.cmp = true ∧
        y.field = barField g 2 x.number (T / 1024) ∧ (∀ d ∈ x.members, (t.conn d).barDue = true)) ∧
      OnlyTouches [.regs, .hall, .flt] s t := by
  have run : exec .arrived s = .next (if x.coord = s.nextField.device ∧ m.peer ∈ x.members then
      (s.nextField.countAfterTimeout x).recordArrival g x m.peer else s.nextField) := by
    rw [show exec .arrived s = execArrived s from rfl, execArrived, onField_front front own group is]
    rfl
  have taken := touches_nextField s
  have counted := frame_countAfterTimeout s.nextField x
  rw [if_pos ⟨here, member⟩] at run
  obtain ⟨u, eu⟩ : ∃ u, s.nextField.countAfterTimeout x = u := ⟨_, rfl⟩
  rw [eu] at run counted
  have before : Frame [.regs, .hall] [Reg.hftBarstat] s u := (counted.mono).comp (Frame.mono (.of_touches taken))
  have device : u.device = s.device := before.rf (by simp) 9 0
  have gtime : u.gtime = s.gtime := by rw [State.gtime, State.gtime, before.pieces .clk (by decide)]
  have margin : u.rf Reg.hftBarcfg 15 0 = s.rf Reg.hftBarcfg 15 0 := before.rf (by simp) 15 0
  have slot : u.slotNs = s.slotNs := by rw [State.slotNs, State.slotNs, before.rf (by simp)]
  obtain ⟨pieces, hall, more, last⟩ := recordArrival_spec (s := u) (g := g) new
  rw [device] at more last
  rw [gtime, margin, slot] at last
  have bars : (u.recordArrival g x m.peer).hall.bars = ms := by
    rw [show _ = u.hall.bars from hall.same .bars (by simp), counted.pieces .hall (by decide), State.nextField, front]
    rfl
  have all := (before.pieces.mono (by decide)).trans pieces
  by_cases every : ∀ d ∈ s.device :: x.members, d = m.peer ∨ d ∈ x.arrived
  · obtain ⟨y, ey, rest⟩ := last every _ rfl
    exact ⟨_, y, run, bars, ey, fun ⟨d, mem, other, fresh⟩ => absurd (every d mem) (not_or.mpr ⟨other, fresh⟩),
      fun _ T eT => eT ▸ rest, all⟩
  · push_neg at every
    obtain ⟨y, ey, arrived, _, number, _⟩ := more every
    obtain ⟨d, mem, other, fresh⟩ := every
    exact ⟨_, y, run, bars, ey, fun _ => ⟨arrived, number⟩, fun full => absurd (full d mem) (not_or.mpr ⟨other, fresh⟩), all⟩

/-! ## Releases (R277, R278, R280) -/

theorem release_spec (is : bitsN m.field 5 4 = 2) (sender : x.coord = m.peer) (away : x.coord ≠ s.device) (T U : Nat)
    (eT : T = extendSlot s.gtime (bitsN m.field 31 14))
    (eU : U = (if s.gtime + 64 ≤ T then T else roundUp (s.gtime + 64) s.slotNs)) :
    ∃ t y, exec .release s = .next t ∧ t.hall.bars = ms ∧ t.barGroup g = some y ∧ y.number = x.number + 1 ∧
      y.release = some U ∧ (t.reg (Reg.gtbCmp x.cmp)).toNat = U % 2 ^ 64 ∧ t.cmpArmed x.cmp = true ∧
      t.rf Reg.hftBarstat 31 16 = (if s.gtime + 64 ≤ T then s.rf Reg.hftBarstat 31 16
        else satAdd (2 ^ 16 - 1) (s.rf Reg.hftBarstat 31 16) 1) ∧
      OnlyTouches [.regs, .hall] s t := by
  have run : exec .release s = .next (if x.coord = m.peer ∧ x.coord ≠ s.nextField.device then
      (let u := s.nextField.countAfterTimeout x
       if u.gtime + 64 ≤ extendSlot u.gtime (bitsN m.field 31 14) then
         u.armRelease g x (extendSlot u.gtime (bitsN m.field 31 14)) x.field
       else (u.count Reg.hftBarstat 31 16 1).armRelease g x (roundUp (u.gtime + 64) u.slotNs) x.field)
      else s.nextField) := by
    rw [show exec .release s = execRelease s from rfl, execRelease, onField_front front own group is]
    rfl
  have taken := touches_nextField s
  have counted := frame_countAfterTimeout s.nextField x
  have moved := rf_countAfterTimeout s.nextField x
  rw [if_pos ⟨sender, away⟩] at run
  dsimp only at run
  obtain ⟨u, eu⟩ : ∃ u, s.nextField.countAfterTimeout x = u := ⟨_, rfl⟩
  rw [eu] at run counted moved
  have before : Frame [.regs, .hall] [Reg.hftBarstat] s u := (counted.mono).comp (Frame.mono (.of_touches taken))
  have gtime : u.gtime = s.gtime := by rw [State.gtime, State.gtime, before.pieces .clk (by decide)]
  have slot : u.slotNs = s.slotNs := by rw [State.slotNs, State.slotNs, before.rf (by simp)]
  have bars : u.hall.bars = ms := by
    rw [counted.pieces .hall (by decide), State.nextField, front]
    rfl
  rw [gtime, slot, ← eT] at run
  have apart : Reg.hftBarstat ∉ [Reg.gtbCmp x.cmp, Reg.gtbCmp x.cmp + 8] := by
    simp only [List.mem_cons, List.not_mem_nil, or_false, Reg.gtbCmp, Reg.hftBarstat]
    omega
  by_cases near : s.gtime + 64 ≤ T
  · rw [if_pos near] at run eU
    rw [eU]
    obtain ⟨frame, hall, now, time, armed⟩ := armRelease_spec u g x T x.field
    refine ⟨_, _, run, Eq.trans (hall.same .bars (by simp)) bars, now, rfl, rfl, time, armed, ?_,
      before.pieces.trans frame.pieces⟩
    rw [if_pos near, frame.rf apart, moved]
    rfl
  · rw [if_neg near] at run eU
    subst eU
    have late := frame_count u Reg.hftBarstat 31 16 1
    have lateHall : InHall [] u (u.count Reg.hftBarstat 31 16 1) := .of_touches late.pieces
    obtain ⟨frame, hall, now, time, armed⟩ := armRelease_spec (u.count Reg.hftBarstat 31 16 1) g x
      (roundUp (s.gtime + 64) s.slotNs) x.field
    refine ⟨_, _, run, Eq.trans (hall.same .bars (by simp)) (Eq.trans (lateHall.same .bars (by simp)) bars), now, rfl, rfl,
      time, armed, ?_, (before.pieces.trans (late.pieces.mono (by decide))).trans frame.pieces⟩
    rw [if_neg near, frame.rf apart, rf_count_self _ _ _ (by decide) (by decide), moved]
    rfl

end

/-! ## What a barrier waits for, and its release at T (R276, R279, R280, R306) -/

theorem barrierTimeout_eq {g : GroupId} {s : State} {x : BarGroup} {u : Nat} (group : s.barGroup g = some x)
    (new : x.timedOut = false)
    (since : (if x.coord = s.device then x.first <|> s.ownArrival x else s.ownArrival x) = some u)
    (past : u + usec (s.rf Reg.hftTimer 47 32) < s.clk.wall) :
    exec (.barrierTimeout g) s = .next ((s.setGroup g (some { x with timedOut := true })).report (blockSrc 0 x.part) 0x41
      (g.val + (if x.coord = s.device then 16 else 0)) x.part) := by
  rw [show exec (.barrierTimeout g) s = execBarrierTimeout g s from rfl, execBarrierTimeout, group]
  dsimp only
  rw [since]
  exact congrArg Host.Outcome.next (if_pos ⟨by rw [new]; rfl, past⟩)

section
variable {k : CmpId} {s : State} (armed : s.cmpArmed k = true) (due : (s.reg (Reg.gtbCmp k)).toNat ≤ s.gtime)
include armed due

theorem comparatorFire_barrier (owner : fld (s.reg (Reg.gtbCmp k + 8)) 2 0 = 1) : exec (.comparatorFire k) s =
    .next ((s.setCmp k 1 (fld (s.reg (Reg.gtbCmp k + 8)) 15 8) (s.reg (Reg.gtbCmp k)).toNat false).fireBarrier
      (fld (s.reg (Reg.gtbCmp k + 8)) 15 8)) := by
  rw [show exec (.comparatorFire k) s = execComparatorFire k s from rfl, execComparatorFire]
  exact (if_pos (by simp [armed, due])).trans (if_pos owner)

theorem comparatorFire_start (owner : fld (s.reg (Reg.gtbCmp k + 8)) 2 0 = 2) :
    exec (.comparatorFire k) s = .next ((s.freeCmpAt k).fireStart (fld (s.reg (Reg.gtbCmp k + 8)) 15 8)) := by
  rw [show exec (.comparatorFire k) s = execComparatorFire k s from rfl, execComparatorFire]
  exact (if_pos (by simp [armed, due])).trans ((if_neg (by omega)).trans (if_pos owner))

theorem comparatorFire_power (owner : fld (s.reg (Reg.gtbCmp k + 8)) 2 0 = 3) :
    exec (.comparatorFire k) s = .next ((s.freeCmpAt k).firePower (fld (s.reg (Reg.gtbCmp k + 8)) 15 8)) := by
  rw [show exec (.comparatorFire k) s = execComparatorFire k s from rfl, execComparatorFire]
  exact (if_pos (by simp [armed, due])).trans ((if_neg (by omega)).trans (if_neg (by omega)))

end

/-- Settles O30: arrivals, releases, the barrier's timeout, and the three kinds of comparator. -/
theorem hallBarriersRelease : Obligations.HallBarriersRelease := by
  refine ⟨fun q s b g x waits own group may => hallBarrierArrive_spec waits own group may,
    fun s m ms g x front own group => ⟨fun is here member new _ => arrived_spec front own group is here member new,
      fun is sender away _ T U eT eU => release_spec front own group is sender away T U eT eU⟩,
    fun g s x u group new since past => ?timeout, fun k s i armed due ei => ?fires⟩
  case timeout =>
    have noted := touches_setGroup s g (some { x with timedOut := true })
    obtain ⟨v, ev⟩ : ∃ v, s.setGroup g (some { x with timedOut := true }) = v := ⟨_, rfl⟩
    have now : v.barGroup g = some { x with timedOut := true } := ev ▸ barGroup_setGroup_self ..
    have run := barrierTimeout_eq group new since past
    rw [ev] at run noted
    have sent := frame_report v (blockSrc 0 x.part) 0x41 (g.val + (if x.coord = s.device then 16 else 0)) x.part
    have told := reports_report v (blockSrc 0 x.part) 0x41 (g.val + (if x.coord = s.device then 16 else 0)) x.part
    have sentHall : InHall [] v _ := .of_touches sent.pieces
    have all := (sent.mono (ps := [.regs, .hall, .flt]) (rs := faultRegs)).comp (Frame.mono (.of_touches noted) (own := List.nil_subset _))
    exact ⟨_, run, (sentHall.barGroup g).trans now, told.after (noted .flt (by decide)) (noted .clk (by decide)), all.regs,
      all.pieces⟩
  case fires =>
    subst ei
    refine ⟨fun x owner group => ?barrier, fun owner => ?start, fun owner => comparatorFire_power armed due owner⟩
    case barrier =>
      have run := comparatorFire_barrier armed due owner
      obtain ⟨frame, _, off, _⟩ := setCmp_spec s k 1 (fld (s.reg (Reg.gtbCmp k + 8)) 15 8) (s.reg (Reg.gtbCmp k)).toNat false
        (by decide)
      obtain ⟨u, eu⟩ : ∃ u, s.setCmp k 1 (fld (s.reg (Reg.gtbCmp k + 8)) 15 8) (s.reg (Reg.gtbCmp k)).toNat false = u := ⟨_, rfl⟩
      rw [eu] at run frame off
      have hall : InHall [] s u := .of_touches frame.pieces
      rw [State.fireBarrier, hall.barGroup, group] at run
      dsimp only at run
      obtain ⟨v, ev⟩ : ∃ v, u.setGroup (fld (s.reg (Reg.gtbCmp k + 8)) 15 8) (some { x with release := none }) = v := ⟨_, rfl⟩
      have noted : OnlyTouches [.hall] u v := ev ▸ touches_setGroup _ _ _
      have now : v.barGroup (fld (s.reg (Reg.gtbCmp k + 8)) 15 8) = some { x with release := none } :=
        ev ▸ barGroup_setGroup_self ..
      rw [ev] at run
      have shown := frame_updPart v x.part (fun p => { p with
        barrier := p.barrier.map (fun b => if b.forwarded then { b with release := some (p.tick + 42) } else b) })
      have shownHall : InHall [] v _ := .of_touches shown.pieces
      have before : Frame [.regs, .hall] [Reg.gtbCmp k, Reg.gtbCmp k + 8] s v :=
        (Frame.mono (.of_touches noted) (own := List.nil_subset _)).comp frame.mono
      have all := (shown.mono (ps := [.regs, .parts, .hall]) (rs := [Reg.gtbCmp k, Reg.gtbCmp k + 8])).comp before.mono
      refine ⟨_, run, ?_, (shownHall.barGroup _).trans now, fun b waits forwarded => ?_,
        (before.pieces.keepsParts (by decide) _).trans (keepsParts_updPart _ _ _), all.regs, all.pieces⟩
      · rw [State.cmpArmed, shown.reg (by simp), State.reg_of_regs (noted .regs (by decide)).1]
        exact off
      · rw [State.part_updPart_self, part_through before.pieces, waits]
        exact congrArg some (if_pos forwarded)
    case start =>
      have run := comparatorFire_start armed due owner
      obtain ⟨frame, _, off, free⟩ := setCmp_spec s k 0 0 0 false (by decide)
      obtain ⟨u, eu⟩ : ∃ u, s.freeCmpAt k = u := ⟨_, rfl⟩
      rw [show s.setCmp k 0 0 0 false = u from eu] at frame off free
      rw [eu] at run
      have shown := frame_updPart u (fld (s.reg (Reg.gtbCmp k + 8)) 15 8) (fun p => { p with resumeIn := some 42 })
      have all := (shown.mono (ps := [.regs, .parts]) (rs := [Reg.gtbCmp k, Reg.gtbCmp k + 8])).comp frame.mono
      refine ⟨_, run, ?_, ?_, ?_, (frame.pieces.keepsParts (by decide) _).trans (keepsParts_updPart _ _ _), all.regs, all.pieces⟩
      · rw [State.fireStart, State.cmpArmed, shown.reg (by simp)]
        exact off
      · rw [State.fireStart, State.cmpOwner, shown.reg (by simp)]
        exact free
      · rw [State.fireStart, State.part_updPart_self, part_through frame.pieces]

/-! ## A range of good LPDDR6 as local memory: what is written reads back -/

theorem rd_append (s : State) (a n m : Nat) : s.rd a (n + m) = s.rd a n ++ s.rd (a + n) m := by
  rw [← List.take_append_drop n (s.rd a (n + m))]
  congr 1
  · rw [State.rd, take_span, Nat.min_eq_left (Nat.le_add_right n m)]
    rfl
  · rw [State.rd, drop_span, Nat.add_sub_cancel_left]
    rfl

/-- The end of the first `i` accesses of a range: where the next piece begins. -/
def pieceEnd (a n i : Nat) : Nat := max a (min (a + n) (64 * (a / 64 + i)))

theorem place_inDram {s : State} {a n b : Nat} (inside : s.inDram a n = true) (low : a ≤ b) (high : b < a + n) :
    s.place b = .dram := by
  simp only [State.inDram, Bool.and_eq_true, Bool.or_eq_true, decide_eq_true_eq, beq_iff_eq] at inside
  obtain ⟨⟨room, first⟩, last⟩ := inside
  have last := last.resolve_left (by omega)
  have up : s.sideUp b = true := by
    by_cases upper : 0x1800000000 ≤ b
    · have top : 0x1800000000 ≤ a + n - 1 := by omega
      rw [State.sideUp, if_pos top] at last
      rw [State.sideUp, if_pos upper, last]
    · have low : ¬ 0x1800000000 ≤ a := by omega
      rw [State.sideUp, if_neg low] at first
      rw [State.sideUp, if_neg upper, first]
  rw [State.place, if_pos (show b < dramBytes by omega), if_pos up]

section
variable {s : State} (clean : s.dramErr = []) (tag : Nat) {a : Nat} {bs : List Byte}
include clean

theorem foldl_writePiece (inside : s.inDram a bs.length = true) (i : Nat)
    (few : i ≤ (a + bs.length - 1) / 64 - a / 64 + 1) (some_ : bs.length ≠ 0) :
    ∀ t, t = (((List.range i).map (fun i => a / 64 + i)).map (fun k => (max a (64 * k), min (a + bs.length) (64 * k + 64)
      - max a (64 * k)))).foldl (fun t p => t.writePiece tag p.1 (slice bs (p.1 - a) p.2)) s →
    Stores s t ∧ KeepsBytes a bs.length s t ∧
      t.rd a (pieceEnd a bs.length i - a) = bs.take (pieceEnd a bs.length i - a) := by
  induction i with
  | zero =>
    rintro t rfl
    have empty : pieceEnd a bs.length 0 - a = 0 := by rw [pieceEnd]; omega
    exact ⟨.refl _, fun _ _ => rfl, by rw [empty]; rfl⟩
  | succ i ih =>
    intro t et
    obtain ⟨stores, keeps, bytes⟩ := ih (by omega) _ rfl
    rw [List.range_succ, List.map_append, List.map_append, List.foldl_append] at et
    generalize List.foldl _ s _ = u at et stores keeps bytes
    obtain ⟨start, es⟩ : ∃ x, pieceEnd a bs.length i = x := ⟨_, rfl⟩
    obtain ⟨stop, ee⟩ : ∃ x, pieceEnd a bs.length (i + 1) = x := ⟨_, rfl⟩
    rw [es] at bytes
    rw [ee]
    have first : max a (64 * (a / 64 + i)) = start := by rw [← es, pieceEnd]; omega
    have last : min (a + bs.length) (64 * (a / 64 + i) + 64) = stop := by rw [← ee, pieceEnd]; omega
    have order : a ≤ start ∧ start < stop ∧ stop ≤ a + bs.length := by omega
    obtain ⟨low, less, high⟩ := order
    rw [List.map_singleton, List.map_singleton, List.foldl_cons, List.foldl_nil, first, last, State.writePiece] at et
    have place : u.place start = .dram :=
      place_inDram (n := bs.length) (by rw [State.inDram, State.sideUp, State.sideUp, stores.pieces .boot (by decide)]; exact inside)
        low (by omega)
    rw [place] at et
    subst et
    have size : (slice bs (start - a) (stop - start)).length = stop - start := by
      rw [slice, List.length_take, List.length_drop]
      omega
    have good := stores.good clean
    have piece := keepsBytes_wrDram good tag start (slice bs (start - a) (stop - start))
    rw [size] at piece
    refine ⟨stores.trans (stores_wrDram good ..), keeps.trans (piece.widen low (by omega)), ?_⟩
    have split : stop - a = (start - a) + (stop - start) := by omega
    have self := rd_wrDram_self good tag start (slice bs (start - a) (stop - start))
    rw [size] at self
    rw [split, rd_append, rd_wrDram_other good _ _ _ (.inl (by omega)), bytes, Nat.add_sub_cancel' low, self, List.take_add]
    rfl

theorem localWrite_dram (inside : s.inDram a bs.length = true) :
    Stores s (s.localWrite tag a bs) ∧ KeepsBytes a bs.length s (s.localWrite tag a bs) ∧
      (s.localWrite tag a bs).rd a bs.length = bs := by
  by_cases some_ : bs.length = 0
  · rw [List.length_eq_zero_iff] at some_
    subst some_
    exact ⟨.refl s, fun _ _ => rfl, rfl⟩
  · obtain ⟨stores, keeps, bytes⟩ := foldl_writePiece clean tag inside _ (Nat.le_refl _) some_ _ rfl
    have whole : pieceEnd a bs.length ((a + bs.length - 1) / 64 - a / 64 + 1) - a = bs.length := by
      rw [pieceEnd]
      omega
    rw [whole, List.take_length] at bytes
    rw [State.localWrite, pieces, accesses, if_neg some_]
    exact ⟨stores, keeps, bytes⟩

end

/-! ## Multicast at a receiver (R287, R288) -/

theorem mrx_put_self (s : State) {g src id : Nat} {x : McastRx} (source : x.source = src) (own : x.id = id) :
    ({ s with hall := { s.hall with mrx := Table.put (fun _ => none) s.hall.mrx g (some x) } } : State).mrxOf g src id = some x := by
  rw [State.mrxOf, Table.look_put_self]
  exact if_pos ⟨source, own⟩

/-- What a receiver knows of a transfer is what it holds for the source and the transfer that were asked for. -/
theorem mrxOf_names {s : State} {g src id : Nat} {x : McastRx} (h : s.mrxOf g src id = some x) : x.source = src ∧ x.id = id := by
  unfold State.mrxOf at h
  split at h
  · split at h
    next own =>
      obtain rfl := Option.some.inj h
      exact own
    · exact absurd h (by simp)
  · exact absurd h (by simp)

theorem missing_nil_iff (got : List Nat) (n i : Nat) : missing got n i = [] ↔ ∀ k, i ≤ k → k < i + n → k ∈ got := by
  induction n generalizing i with
  | zero => exact ⟨fun _ k _ _ => by omega, fun _ => rfl⟩
  | succ n ih =>
    rw [missing]
    by_cases first : i ∈ got
    · rw [if_pos first, ih]
      refine ⟨fun rest k low high => ?_, fun all k low high => all k (by omega) (by omega)⟩
      rcases Nat.eq_or_lt_of_le low with rfl | more
      · exact first
      · exact rest k more (by omega)
    · rw [if_neg first]
      refine ⟨fun empty => ?_, fun all => absurd (all i (Nat.le_refl i) (by omega)) first⟩
      split at empty
      · split at empty <;> exact absurd empty (by simp)
      · exact absurd empty (by simp)

section
variable {s : State} {f : Accepted} {fs : List Accepted} (front : s.hall.frames = f :: fs)
include front

theorem frames_nextFrame : s.nextFrame.hall.frames = fs := by
  rw [State.nextFrame, front]
  rfl

theorem mdata_writes (type : hdrType f.hdr = 3)
    (new : ∀ x, s.mrxOf (bitsN (hdrDst f.hdr) 3 0) (hdrSrc f.hdr) (hdrStream f.hdr) = some x → hdrSeq f.hdr ∉ x.got) :
    ∃ y : McastRx, y.source = hdrSrc f.hdr ∧ y.id = hdrStream f.hdr ∧ hdrSeq f.hdr ∈ y.got ∧
      exec .mdata s = .next (({ s.nextFrame with hall := { s.nextFrame.hall with
        mrx := Table.put (fun _ => none) s.nextFrame.hall.mrx (bitsN (hdrDst f.hdr) 3 0) (some y) } } : State).localWrite 127
          (leAt f.body 0 8) (f.body.drop 8)) := by
  rw [show exec .mdata s = execMdata s from rfl, execMdata, onFrame_front front type]
  dsimp only
  rw [show s.nextFrame.mrxOf (bitsN (hdrDst f.hdr) 3 0) (hdrSrc f.hdr) (hdrStream f.hdr)
    = s.mrxOf (bitsN (hdrDst f.hdr) 3 0) (hdrSrc f.hdr) (hdrStream f.hdr) from rfl]
  cases known : s.mrxOf (bitsN (hdrDst f.hdr) 3 0) (hdrSrc f.hdr) (hdrStream f.hdr) with
  | none => exact ⟨_, rfl, rfl, List.mem_cons_self, congrArg Host.Outcome.next (if_neg List.not_mem_nil)⟩
  | some x =>
    obtain ⟨source, own⟩ := mrxOf_names known
    exact ⟨{ x with
      got := hdrSeq f.hdr :: x.got, last := if (hdrFlags f.hdr).testBit 2 then some (hdrSeq f.hdr) else x.last },
      source, own, List.mem_cons_self, congrArg Host.Outcome.next (if_neg (new x known))⟩

theorem mpoll_answers (type : hdrType f.hdr = 4) (opened : (s.conn (hdrSrc f.hdr)).state = .opened) {got : List Nat}
    (known : got = match s.mrxOf (bitsN (hdrDst f.hdr) 3 0) (hdrSrc f.hdr) (hdrStream f.hdr) with
      | some x => x.got
      | none => []) :
    exec .mpoll s = .next (if (missing got (leAt f.body 0 4) 0).isEmpty then
        s.nextFrame.queueCtrl (hdrSrc f.hdr) (ctrlMsg 7 (hdrStream f.hdr) [])
      else
        let body := ((missing got (leAt f.body 0 4) 0).take 1024).flatMap (fun r => leBytes 4 r.1 ++ leBytes 4 r.2)
        (s.nextFrame.passStaging body).sendTo (hdrSrc f.hdr) 5 0 (s.conn (hdrSrc f.hdr)).txSeq (hdrStream f.hdr) body) := by
  rw [show exec .mpoll s = execMpoll s from rfl, execMpoll, onFrame_front front type]
  subst known
  exact congrArg Host.Outcome.next (if_neg (not_not.mpr opened))

/-- What a NACK asks for joins what the source is to send again. -/
theorem nack_asks (type : hdrType f.hdr = 5) : ∃ t, exec .nack s = .next t ∧ t.hall.frames = fs ∧
    (∀ x ∈ s.hall.mtx, x.id = hdrStream f.hdr → hdrSrc f.hdr ∈ x.members →
      ∃ y ∈ t.hall.mtx, y.id = x.id ∧ y.desc = x.desc ∧
        (∀ i, i ∈ y.wanted ↔ i ∈ x.wanted ∨ i ∈ (chunks 8 f.body).flatMap (fun r =>
          (List.range (min (leAt r 4 4) (x.frames - leAt r 0 4))).map (fun k => leAt r 0 4 + k)))) ∧
    OnlyTouches [.regs, .mem, .sramErr, .parts, .hall, .flt] s t := by
  obtain ⟨t, run, within⟩ := within_execNack s
  have run' : exec .nack s = .next t := run
  rw [show exec .nack s = execNack s from rfl, execNack, onFrame_front front type] at run'
  obtain ⟨u, eu⟩ : ∃ u, (if (s.nextFrame.conn (hdrSrc f.hdr)).live then s.nextFrame.takeFields (hdrSrc f.hdr) f.hdr
    else s.nextFrame) = u := ⟨_, rfl⟩
  have taken : TakesFrom (hdrSrc f.hdr) s.nextFrame u := by
    rw [← eu]
    split
    · exact takesFrom_takeFields ..
    · exact .refl ..
  dsimp only at run'
  rw [eu] at run'
  obtain rfl := Host.Outcome.next.inj run'
  refine ⟨_, run, (taken.hall.same .frames (by simp)).trans (frames_nextFrame front), fun x mem own member => ?_, within.touches⟩
  have kept : x ∈ u.hall.mtx := (taken.hall.same .mtx (by simp)).symm ▸ mem
  refine ⟨_, List.mem_map_of_mem kept, ?_⟩
  dsimp only
  rw [if_pos own, if_pos member]
  refine ⟨rfl, rfl, fun i => ?_⟩
  simp only [List.mem_append, List.mem_filter, decide_not, Bool.not_eq_eq_eq_not, Bool.not_true, decide_eq_false_iff_not]
  tauto

theorem wakeFrame_wakes (type : hdrType f.hdr = 6) (sleeps : s.pwr.state = .s1 ∨ s.pwr.state = .s2)
    (supplies : s.boot.supplies = true) (idle : s.pwr.waking = none) : exec .wakeFrame s = .next { s.nextFrame with
      pwr := { s.pwr with waking := some (s.clk.wall, .frame), heldWake := none } } := by
  rw [show exec .wakeFrame s = execWakeFrame s from rfl, execWakeFrame, front]
  refine congrArg Host.Outcome.next ((if_pos type).trans ?_)
  rw [State.wakeBy, if_neg (by simp [supplies]), if_pos sleeps, State.wakeUp, if_neg (by simp [idle]), State.nextFrame, front]
  rfl

end

/-! ## Multicast at the source (R288, R289) -/

section
variable (s : State)

theorem inHall_sendMcast (ty flags seq id g : Nat) (payload : List Byte) :
    InHall [.ports, .wire, .keying] s (s.sendMcast ty flags seq id g payload) := by
  unfold State.sendMcast
  refine .ite ?_ (.refl ..)
  split
  · exact (inHall_emit ..).after (.of_touches (within_passStaging ..).touches)
  · exact .refl ..

theorem inHall_sendParts (x : McastTx) (l : List Nat) : InHall [.ports, .wire, .keying] s (s.sendParts x l) :=
  .foldl (fun _ _ => inHall_sendMcast ..) l s

end

section
variable {s : State} {x : McastTx} (only : s.hall.mtx = [x])
include only

theorem exec_multicastPoll : exec .multicastPoll s = .next (s.mcastStep x) := by
  rw [show exec .multicastPoll s = execMulticastPoll s from rfl, execMulticastPoll, only]
  rfl

theorem drop_only : s.hall.mtx.filter (fun y => y.desc != x.desc) = [] := by
  rw [only, List.filter_cons_of_neg (by simp), List.filter_nil]

theorem updMtx_only (f : McastTx → McastTx) : (s.updMtx x.id f).hall.mtx = [f x] := by
  rw [State.updMtx]
  dsimp only
  rw [only, List.map_singleton, if_pos rfl]

/-- After frames have left, the source's one transfer takes its next step. -/
theorem multicastPoll_updates {u : State} {f : McastTx → McastTx} {y : McastTx}
    (run : exec .multicastPoll s = .next (u.updMtx x.id f)) (step : f x = y) (sent : InHall [.ports, .wire, .keying] s u)
    (within : Within [.regs, .mem, .sramErr, .hall, .flt] s u) :
    ∃ t, exec .multicastPoll s = .next t ∧ t.hall.mtx = [y] ∧ t.hall.conns = s.hall.conns ∧
      OnlyTouches [.regs, .mem, .sramErr, .hall, .flt] s t :=
  ⟨_, run, step ▸ updMtx_only ((sent.same .mtx (by simp)).trans only) f, sent.same .conns (by simp),
    ((within_updMtx u x.id f).after within).touches⟩

end

/-- Settles O31: a part that the receiver does not hold is written as a range of good LPDDR6, what is missing is empty exactly
when every part is held, and the source's one transfer takes the branch that its members, its time and its round give. -/
theorem multicastRepairs : Obligations.MulticastRepairs := by
  unfold Obligations.MulticastRepairs
  intro s
  refine ⟨fun f fs front => ⟨fun type new clean inside => ?data, fun type opened got gaps body known eg eb => ?poll,
    fun type => nack_asks front type, fun type sleeps supplies idle => ?wake⟩,
    fun x only => ⟨fun none_ => ?done, fun left now => ⟨fun first => ?asks, fun polled more => ?again, fun polled last => ?ends⟩⟩⟩
  case data =>
    obtain ⟨y, source, own, held, run⟩ := mdata_writes front type new
    obtain ⟨u, eu⟩ : ∃ u : State, ({ s.nextFrame with hall := { s.nextFrame.hall with
      mrx := Table.put (fun _ => none) s.nextFrame.hall.mrx (bitsN (hdrDst f.hdr) 3 0) (some y) } } : State) = u := ⟨_, rfl⟩
    have note : u.mrxOf (bitsN (hdrDst f.hdr) 3 0) (hdrSrc f.hdr) (hdrStream f.hdr) = some y := eu ▸ mrx_put_self _ source own
    have frames : u.hall.frames = fs := eu ▸ frames_nextFrame front
    have noted : OnlyTouches [.hall] s u := eu ▸ (within_hall (s := s) _).touches
    rw [eu] at run
    have there : u.inDram (leAt f.body 0 8) (f.body.drop 8).length = true := by
      rw [State.inDram, State.sideUp, State.sideUp, noted .boot (by decide)]
      exact inside
    obtain ⟨stores, keeps, bytes⟩ := localWrite_dram ((noted .dramErr (by decide)).trans clean) 127 there
    have hall := stores.pieces .hall (by decide)
    refine ⟨_, y, run, bytes, ?_, held, (congrArg Hall.frames hall).trans frames,
      (show KeepsBytes _ _ s u from fun k _ => congrArg (Table.look _ · k) (noted .mem (by decide))).trans keeps,
      (noted.mono (by decide)).trans (stores.pieces.mono (by decide))⟩
    rw [State.mrxOf, hall]
    exact note
  case poll =>
    have run := mpoll_answers front type opened known
    subst eg eb
    refine ⟨fun all => ?_, fun ⟨i, less, lost⟩ => ?_⟩
    · have empty := (missing_nil_iff got (leAt f.body 0 4) 0).mpr (fun k _ high => all k (by omega))
      rw [empty] at run
      exact run
    · have some_ : missing got (leAt f.body 0 4) 0 ≠ [] := fun empty =>
        lost ((missing_nil_iff ..).mp empty i (Nat.zero_le i) (by omega))
      rw [if_neg (by simpa using some_)] at run
      exact run
  case wake =>
    exact ⟨_, wakeFrame_wakes front type sleeps supplies idle, frames_nextFrame front, rfl,
      (within_hall (s := s) _).touches.mono (by decide) |>.trans ((within_pwr (s := s.nextFrame) _).touches.mono (by decide))⟩
  case done =>
    rw [exec_multicastPoll only, State.mcastStep]
    refine congrArg Host.Outcome.next ((if_pos (by simp [none_])).trans ?_)
    dsimp only
    rw [drop_only only]
  case asks =>
    have sent := inHall_sendMcast s 4 0 0 x.id x.group (leBytes 4 x.frames)
    obtain ⟨f, run, step⟩ : ∃ f : McastTx → McastTx, exec .multicastPoll s = .next ((s.sendPoll x).updMtx x.id f) ∧
        f x = { x with polled := true, pollAt := s.clk.wall + usec 50 } := by
      refine ⟨fun y => { y with polled := true, pollAt := s.clk.wall + usec 50 }, ?_, rfl⟩
      rw [exec_multicastPoll only, State.mcastStep]
      exact congrArg Host.Outcome.next ((if_neg (by simp [left])).trans ((if_neg (by omega)).trans (if_pos (by simp [first]))))
    exact multicastPoll_updates only run step sent (within_sendPoll s x)
  case again =>
    have sent := inHall_sendParts s x x.wanted
    obtain ⟨f, run, step⟩ : ∃ f : McastTx → McastTx, exec .multicastPoll s = .next ((s.sendParts x x.wanted).updMtx x.id f) ∧
        f x = { x with polled := false, wanted := [], round := x.round + 1, pollAt := s.clk.wall + usec 20 } := by
      refine ⟨fun y => { y with polled := false, wanted := [], round := x.round + 1, pollAt := s.clk.wall + usec 20 }, ?_, rfl⟩
      rw [exec_multicastPoll only, State.mcastStep]
      exact congrArg Host.Outcome.next ((if_neg (by simp [left])).trans ((if_neg (by omega)).trans ((if_neg (by simp [polled])).trans
        (if_neg (by omega)))))
    exact multicastPoll_updates only run step sent (within_sendParts s x x.wanted)
  case ends =>
    rintro u rfl
    have sent := inHall_sendParts s x x.wanted
    rw [exec_multicastPoll only, State.mcastStep]
    refine congrArg Host.Outcome.next ((if_neg (by simp [left])).trans ((if_neg (by omega)).trans ((if_neg (by simp [polled])).trans
      ((if_pos (by omega)).trans ?_))))
    dsimp only
    rw [drop_only ((sent.same .mtx (by simp)).trans only)]

/-! ## The first frame of a connection, and the writes of VALID (R262, R263) -/

/-- A granule without an error mark stays so as marks go. -/
theorem look_foldl_erase_zero (gs : List Nat) {g : Nat} (t : Table Nat) (zero : Table.look (fun _ => 0) t g = 0) :
    Table.look (fun _ => 0) (gs.foldl (fun t g => Table.erase t g) t) g = 0 := by
  induction gs generalizing t with
  | nil => exact zero
  | cons h gs ih =>
    refine ih _ ?_
    by_cases same : g = h
    · rw [same, Table.look_erase_self]
    · rw [Table.look_erase_other _ _ same, zero]

theorem look_foldl_erase_mem {gs : List Nat} {g : Nat} (h : g ∈ gs) (t : Table Nat) :
    Table.look (fun _ => 0) (gs.foldl (fun t g => Table.erase t g) t) g = 0 := by
  induction gs generalizing t with
  | nil => exact absurd h List.not_mem_nil
  | cons x gs ih =>
    by_cases later : g ∈ gs
    · exact ih later _
    · obtain rfl := (List.mem_cons.mp h).resolve_right later
      exact look_foldl_erase_zero gs _ (Table.look_erase_self ..)

theorem cleanAt_clearGranules (s : State) (a n : Nat) : (s.clearGranules (granules a n)).cleanAt a n :=
  fun _ hg => look_foldl_erase_mem hg _

/-- A write of two whole granules of a buffer needs no bytes from before. -/
theorem bufferWrite_whole {s : State} {b off : Nat} {bs : List Byte} (aligned : off % 8 = 0) (size : bs.length = 16) :
    s.bufferWrite b off bs = (s.wr (bufferBase b + off) bs).clearGranules (granules (bufferBase b + off) bs.length) := by
  unfold State.bufferWrite
  extract_lets a len parts
  have whole : parts = [] := by
    refine List.filter_eq_nil_iff.mpr fun g hg => ?_
    rw [granules, if_neg (by simp only [len, size]; omega)] at hg
    obtain ⟨i, hi, rfl⟩ := List.mem_map.mp hg
    have at_ : a % 8 = 0 := by simp only [a, bufferBase]; omega
    have less := List.mem_range.mp hi
    simp only [len, size] at less
    simp only [size, len, Bool.or_eq_true, decide_eq_true_eq]
    omega
  rw [whole]
  rfl

theorem freeSlot_aligned {s : State} {b off : Nat} (free : s.freeSlot = some (b, off)) : off % 8 = 0 := by
  have slot : (b, off) ∈ s.slotsOf 4 := List.mem_of_find?_eq_some free
  unfold State.slotsOf at slot
  obtain ⟨i, -, here⟩ := List.mem_flatMap.mp slot
  dsimp only at here
  split at here
  · obtain ⟨k, -, e⟩ := List.mem_map.mp here
    have := congrArg Prod.snd e
    dsimp only at this
    omega
  · exact absurd here List.not_mem_nil

/-- A control message of two granules is queued and can be read, whatever errors its staging slot had. -/
theorem queueCtrl_whole (s : State) (d : Nat) {m : List Byte} (size : m.length = 16) :
    ∃ f bs, (s.queueCtrl d m).conn d = { s.conn d with queue := (s.conn d).queue ++ [f] } ∧ f.isCtrl = true ∧
      (s.slotsOf 4 = [] → f.payload = m) ∧ (s.queueCtrl d m).txPayload f = (some bs, s.queueCtrl d m) ∧
      KeepsConns [d] s (s.queueCtrl d m) ∧ OnlyTouches [.mem, .sramErr, .hall] s (s.queueCtrl d m) := by
  have keeps := (sendsTo_queueStaged s d { isCtrl := true, payload := m }).conns
  have conn := conn_queueStaged s d { isCtrl := true, payload := m }
  cases free : s.freeSlot with
  | none =>
    have queued := queueStaged_none d { isCtrl := true, payload := m } free
    rw [stageTx_none _ free] at conn
    refine ⟨_, m, conn, rfl, fun _ => rfl, rfl, keeps, ?_⟩
    rw [State.queueCtrl, queued]
    exact (within_updConn ..).touches.mono (by decide)
  | some slot =>
    obtain ⟨b, off⟩ := slot
    obtain ⟨f, ef⟩ : ∃ f : TxFrame, { ({ isCtrl := true, payload := m } : TxFrame) with
      payload := [], place := some (b, off), len := m.length } = f := ⟨_, rfl⟩
    have staged : s.stageTx { isCtrl := true, payload := m } = (f,
        (s.wr (bufferBase b + off) m).clearGranules (granules (bufferBase b + off) m.length)) := by
      unfold State.stageTx
      rw [free, ← bufferWrite_whole (freeSlot_aligned free) size]
      exact congrArg (·, _) ef
    obtain ⟨v, ev⟩ : ∃ v, (s.wr (bufferBase b + off) m).clearGranules (granules (bufferBase b + off) m.length) = v := ⟨_, rfl⟩
    have stored : OnlyTouches [.mem, .sramErr] s v := ev ▸
      ((touches_wr s _ _).mono (by decide)).trans ((touches_clearGranules _ _).mono (by decide))
    have clean : v.cleanAt (bufferBase b + off) m.length := ev ▸ cleanAt_clearGranules _ _ _
    rw [staged] at conn
    rw [ev] at staged
    have queued : s.queueCtrl d m = v.updConn d (fun c => { c with queue := c.queue ++ [f] }) := by
      rw [State.queueCtrl, State.queueStaged, staged]
      rfl
    have read : v.txPayload f = (some (v.rd (bufferBase b + off) m.length), v) := by
      rw [← ef, State.txPayload]
      dsimp only
      rw [bufferRead_clean clean]
      rfl
    refine ⟨f, v.rd (bufferBase b + off) m.length, conn, ef ▸ rfl, fun empty => absurd (freeSlot_none empty) (by simp [free]),
      ?_, keeps, ?_⟩
    · rw [queued]
      exact txPayload_updConn v d _ read rfl rfl rfl
    · rw [queued]
      exact (stored.mono (by decide)).trans ((within_updConn ..).touches.mono (by decide))

theorem length_openMsg (code window : Nat) : (openMsg code window).length = 16 := by
  simp [openMsg, padTo, zeros]

theorem unacked_sendBy (s : State) (mask d ty flags seq stream : Nat) (payload : List Byte) :
    ((s.sendBy mask d ty flags seq stream payload).conn d).unacked = (s.conn d).unacked := by
  unfold State.sendBy
  split
  · rfl
  · split
    · dsimp only
      rw [(inHall_emit ..).conn d, conn_updConn_self]
    · rfl

/-- A connection that is opened anew: OPEN at SEQ 0 waits for its acknowledgement. -/
theorem openConn_spec (s : State) (d : PeerId) : ∃ f, ((s.openConn d).conn d).state = .opening ∧ ((s.openConn d).conn d).txSeq = 1 ∧
    ((s.openConn d).conn d).unacked = [f] ∧ f.isCtrl = true ∧ f.seq = 0 ∧ f.sends = 1 ∧
    (s.slotsOf 4 = [] → f.payload = openMsg 1 ((s.openConn d).conn d).granted) ∧
    ((s.openConn d).conn d).heard = s.clk.wall ∧ KeepsConns [d.val] s (s.openConn d) ∧
    Frame [.regs, .mem, .sramErr, .hall] [Reg.hftCfg] s (s.openConn d) := by
  unfold State.openConn
  have granted := frame_grantWindow s d
  obtain ⟨⟨w, u⟩, eg⟩ : ∃ g, s.grantWindow d = g := ⟨_, rfl⟩
  rw [eg] at granted ⊢
  dsimp only at granted ⊢
  obtain ⟨c, ec⟩ : ∃ c : Conn, { state := .opening, granted := w, heard := s.clk.wall } = c := ⟨_, rfl⟩
  obtain ⟨v, ev⟩ : ∃ v, u.updConn d (fun _ => c) = v := ⟨_, rfl⟩
  rw [ec, ev]
  have own : v.conn d = c := ev ▸ conn_updConn_self ..
  have fresh : OnlyTouches [.hall] u v := ev ▸ (within_updConn ..).touches
  have others : KeepsConns [d.val] s v := ((InHall.of_touches (ps := []) granted.pieces).keepsConns _).trans
    (ev ▸ keepsConns_updConn u d (fun _ => c))
  have slots : v.slotsOf 4 = s.slotsOf 4 := slotsOf_of_regs (fun i real =>
    (State.reg_of_regs (fresh .regs (by decide)).1 _).trans (granted.reg (arrEbregion_ne_hftCfg real))) 4
  obtain ⟨f, bs, conn, ctrl, payload, read, keeps, pieces⟩ := queueCtrl_whole v d (length_openMsg 1 w)
  obtain ⟨x, ex⟩ : ∃ x, v.queueCtrl d (openMsg 1 w) = x := ⟨_, rfl⟩
  rw [ex] at conn read keeps pieces ⊢
  rw [own] at conn
  obtain ⟨k, ek⟩ : ∃ k : Conn, { x.conn d with
    queue := [], txSeq := ((x.conn d).txSeq + 1) % 2 ^ 32, unacked := (x.conn d).unacked ++ [{ f with seq := (x.conn d).txSeq, sends := 1 }]
    rto := if (x.conn d).unacked.isEmpty then x.rtoBase else (x.conn d).rto
    deadline := if (x.conn d).unacked.isEmpty then some (x.clk.wall + x.rtoBase) else (x.conn d).deadline } = k := ⟨_, rfl⟩
  have queue : (x.conn d).queue = [f] := by rw [conn, ← ec]; rfl
  have next : (x.conn d).nextTx = some (f, []) := by
    rw [Conn.nextTx, if_pos (by rw [conn, ← ec]), queue, List.find?_cons_of_pos ctrl]
    simp
  have sent : x.sendNext d = (x.updConn d (fun _ => k)).sendSeq d { f with seq := (x.conn d).txSeq, sends := 1 } := by
    rw [State.sendNext, next]
    dsimp only
    rw [read]
    dsimp only
    rw [sendFrame_eq rfl, ek]
  have again := txPayload_updConn x d (fun _ => k) (g := { f with seq := (x.conn d).txSeq, sends := 1 }) read rfl rfl rfl
  rw [State.sendSeq, again] at sent
  dsimp only at sent
  obtain ⟨y, ey⟩ : ∃ y, x.updConn d (fun _ => k) = y := ⟨_, rfl⟩
  have conn' : y.conn d = k := ey ▸ conn_updConn_self ..
  have moved : OnlyTouches [.hall] x y := ey ▸ (within_updConn ..).touches
  have moved' : KeepsConns [d.val] x y := ey ▸ keepsConns_updConn x d (fun _ => k)
  rw [ey] at sent
  have out := sendsTo_sendBy y d f.ports (if f.isCtrl then 1 else 0) (if 1 < 1 then 2 else 0) (x.conn d).txSeq f.stream bs
  have unacked := unacked_sendBy y f.ports d (if f.isCtrl then 1 else 0) (if 1 < 1 then 2 else 0) (x.conn d).txSeq f.stream bs
  have left : OnlyTouches [.hall] y (y.sendBy f.ports d (if f.isCtrl then 1 else 0) (if 1 < 1 then 2 else 0)
    (x.conn d).txSeq f.stream bs) := touches_sendBy _ _ _ _ _ _ _ _
  rw [show (y.sendBy f.ports d (if f.isCtrl then 1 else 0) (if 1 < 1 then 2 else 0) (x.conn d).txSeq f.stream bs)
    = x.sendNext d from sent.symm] at out unacked left
  obtain ⟨same, -⟩ := And.intro out.conn out.seqs
  rw [conn'] at same unacked
  have kept : k = { c with
      queue := [], txSeq := 1, unacked := [{ f with seq := 0, sends := 1 }], rto := k.rto, deadline := k.deadline } := by
    rw [← ek, conn, ← ec]
    rfl
  refine ⟨{ f with seq := 0, sends := 1 }, ?_, ?_, ?_, ctrl, rfl, rfl, fun empty => ?_, ?_,
    others.trans (keeps.trans (moved'.trans out.conns)), ?_⟩
  · rw [same.state, kept, ← ec]
  · rw [same.txSeq, kept]
  · rw [unacked, kept]
  · rw [same.granted, kept, ← ec]
    exact payload (slots.trans empty)
  · rw [same.heard, kept, ← ec]
  · have rest : Frame [.mem, .sramErr, .hall] [] u (x.sendNext d) :=
      .of_touches ((fresh.mono (by decide)).trans (pieces.trans ((moved.mono (by decide)).trans (left.mono (by decide)))))
    exact rest.after granted.mono

/-! ## The writes of VALID, MODE and MEDIUM (R254, R262) -/

theorem bit_setRf_self (s : State) (off v : Nat) {b : Nat} (wide : b < 64) :
    bit ((s.setRf off b b v).reg off) b = v.testBit 0 := by
  have low : bit ((s.setRf off b b v).reg off) b = ((s.setRf off b b v).rf off b b).testBit 0 := by
    rw [State.rf, fld, testBit_bitsN, bit, BitVec.testBit_toNat]
    simp
  rw [low, rf_setRf_bit _ _ _ wide, Nat.testBit_eq_decide_div_mod_eq, Nat.testBit_eq_decide_div_mod_eq]
  simp

section
variable {s : State} {who : Requester} {d : PeerId} (reaches : s.writeReaches who (Reg.hftPeer d) = true)
  (other : d.val ≠ s.device)
include reaches other

theorem device_setPeer (v : Nat) : (s.setRf (Reg.hftPeer d) 60 60 v).device = s.device :=
  rf_setRf_other _ _ _ _ (by simp only [Reg.hftPeer, Reg.hftCfg]; omega) _ _

theorem peerValidWrite_opens (closed : bit (s.reg (Reg.hftPeer d)) 60 = false) :
    exec (.peerValidWrite who d true) s = .next ((s.setRf (Reg.hftPeer d) 60 60 1).openConn d) := by
  rw [show exec (.peerValidWrite who d true) s = execPeerValidWrite who d true s from rfl, execPeerValidWrite]
  refine congrArg Host.Outcome.next ((if_pos reaches).trans ((if_neg ?_).trans (if_pos rfl)))
  rintro (own | was)
  · exact other (own.trans (device_setPeer reaches other 1))
  · simp [closed] at was

theorem peerValidWrite_closes (open_ : bit (s.reg (Reg.hftPeer d)) 60 = true) :
    exec (.peerValidWrite who d false) s = .next ((s.setRf (Reg.hftPeer d) 60 60 0).closeConn d) := by
  rw [show exec (.peerValidWrite who d false) s = execPeerValidWrite who d false s from rfl, execPeerValidWrite]
  refine congrArg Host.Outcome.next ((if_pos reaches).trans ((if_neg ?_).trans (if_neg (by decide))))
  rintro (own | was)
  · exact other (own.trans (device_setPeer reaches other 0))
  · simp [open_] at was

end

/-- A connection that is closed: forgotten, with its streams stopped. -/
theorem closeConn_spec (s : State) (d : Nat) : (s.closeConn d).conn d = {} ∧
    (∀ x ∈ (s.closeConn d).hall.streams, x.peer = d → x.stopped = true) ∧ KeepsConns [d] s (s.closeConn d) ∧
    OnlyTouches [.parts, .hall] s (s.closeConn d) := by
  have all := (within_closeConn s d).touches
  unfold State.closeConn at all ⊢
  extract_lets c u at all ⊢
  have sent : KeepsConns [d] s u := by
    simp only [u]
    split
    · exact (sendsTo_sendBy ..).conns
    · exact .refl _ _
  clear_value c u
  obtain ⟨pieces, hall, streams, _⟩ := stopStreams_spec u (fun x => x.peer == d)
  refine ⟨conn_updConn_self .., fun x hx own => ?_, sent.trans ((hall.keepsConns _).trans (keepsConns_updConn _ _ _)), all⟩
  rw [show _ = (u.stopStreams (fun x => x.peer == d)).hall.streams from (inHall_updConn ..).same .streams (by simp), streams] at hx
  obtain ⟨y, _, rfl⟩ := List.mem_map.mp hx
  by_cases peer : (y.peer == d) = true
  · rw [if_pos peer]
  · rw [if_neg peer] at own
    exact absurd (beq_iff_eq.mpr own) peer

theorem portstat_ne_portcfg (p : HallPort) : Reg.hfbPortcfg p ≠ Reg.hfbPortstat p := by
  simp only [Reg.hfbPortcfg, Reg.hfbPortstat]
  omega

/-- A link that is taken down (R254): counted when it was up. -/
theorem hallDown_spec (s : State) (p : Nat) : (s.hallDown p).linkUp p = false ∧
    (s.hallDown p).rf (Reg.hfbPortstat p) 47 32 = (if s.linkUp p then
      satAdd (2 ^ 16 - 1) (s.rf (Reg.hfbPortstat p) 47 32) 1 else s.rf (Reg.hfbPortstat p) 47 32) ∧
    Frame [.regs] [Reg.hfbPortstat p] s (s.hallDown p) := by
  obtain ⟨u, eu⟩ : ∃ u, (s.setRf (Reg.hfbPortstat p) 0 0 0).setRf (Reg.hfbPortstat p) 3 2 0 = u := ⟨_, rfl⟩
  have frame : Frame [.regs] [Reg.hfbPortstat p] s u := eu ▸ (frame_setRf ..).comp (frame_setRf ..)
  have down : u.rf (Reg.hfbPortstat p) 0 0 = 0 := by
    rw [← eu, rf_setRf_apart _ _ _ (by decide) (by decide) (by decide), rf_setRf_bit _ _ _ (by decide)]
  have kept : u.rf (Reg.hfbPortstat p) 47 32 = s.rf (Reg.hfbPortstat p) 47 32 := by
    rw [← eu, rf_setRf_apart _ _ _ (by decide) (by decide) (by decide),
      rf_setRf_apart _ _ _ (by decide) (by decide) (by decide)]
  have run : s.hallDown p = if s.linkUp p then u.count (Reg.hfbPortstat p) 47 32 1 else u := eu ▸ rfl
  rw [run]
  by_cases up : s.linkUp p = true
  · rw [if_pos up, if_pos up]
    refine ⟨?_, ?_, (frame_count ..).comp frame⟩
    · rw [State.linkUp, rf_count_apart _ _ _ (by decide) (by decide) (by decide), down]
      rfl
    · rw [rf_count_self _ _ _ (by decide) (by decide), kept]
  · rw [if_neg up, if_neg up]
    exact ⟨by rw [State.linkUp, down]; rfl, kept, frame⟩

/-! ## Keys, and global time (R260, R281, R284, R349) -/

/-- In NORMAL the hall's keys stand before every other consumer. -/
theorem turn_hall {s : State} (normal : s.ent.state = .normal) : s.turn .hall = true := by
  unfold State.turn
  rw [normal]
  simp only [Bool.and_eq_true, List.all_eq_true]
  refine ⟨fun x _ => ?_, rfl⟩
  cases x <;> simp [Consumer.rank]

theorem takeFor_hall {s : State} (normal : s.ent.state = .normal) {n : Nat} (whole : roundUp n 16 = n)
    (enough : n ≤ s.ent.out.length) :
    s.takeFor .hall n = some (s.ent.out.take n, { s with ent := { s.ent with out := s.ent.out.drop n } }) := by
  rw [State.takeFor, if_pos (turn_hall normal), State.takeOut]
  dsimp only
  rw [whole, if_pos (by simp [normal, EntState.serves, enough])]
  rfl

theorem settleKeying_waits {s : State} (idle : s.ent.state.serves = false) : s.settleKeying = s := by
  unfold State.settleKeying
  split
  · rfl
  next r rs _ =>
    have none_ (n : Nat) : s.takeFor .hall n = none := by
      rw [State.takeFor]
      split
      · rw [State.takeOut, if_neg (by simp [idle])]
        rfl
      · rfl
    rw [none_]

theorem regPlace_gtbNs : regPlace Reg.gtbNs = some ⟨.gtbNs, 0, 0⟩ := rfl

theorem regSeen_gtbNs {s : State} (published : s.boot.published = true) (who : Requester) :
    s.regSeen who Reg.gtbNs = s.clk.gtimeNs := by
  rw [State.regSeen, if_pos (by simp [published]), State.regView, regPlace_gtbNs]

/-- A read of GTB_NS: the time's nanoseconds, and, for a requester whose reads have effects, the fraction kept. -/
theorem answerRead_gtbNs {s : State} {who : Requester} (published : s.boot.published = true)
    (served : who.isPort = true → s.asleep = false ∨ asleepRead Reg.gtbNs = true) :
    s.answerRead who Reg.gtbNs 8 = { (if who = .hall ∨ who = .bar4 then s else
      s.setRf Reg.gtbStatus 15 0 s.clk.gtimeFrac.toNat) with readData := s.clk.gtimeNs, readBytes := leBytes 8 s.gtime } := by
  have word : BitVec.ofNat 64 (bitsN s.clk.gtimeNs.toNat 63 0) = s.clk.gtimeNs := by
    rw [bitsN_eq, Nat.pow_zero, Nat.div_one, Nat.mod_eq_of_lt s.clk.gtimeNs.isLt, BitVec.ofNat_toNat, BitVec.setWidth_eq]
  have answered (t : State) : ({ t with
      readData := BitVec.ofNat 64 (bitsN s.clk.gtimeNs.toNat 63 0)
      readBytes := leBytes 8 (BitVec.ofNat 64 (bitsN s.clk.gtimeNs.toNat 63 0)).toNat } : State) =
      { t with readData := s.clk.gtimeNs, readBytes := leBytes 8 s.gtime } := by
    rw [word, State.gtime]
  have legal : accessOk Reg.gtbNs 8 = true := by decide
  have answers : (who.isPort && s.asleep && !asleepRead Reg.gtbNs) = false := by
    cases port : who.isPort with
    | false => rfl
    | true => rcases served port with e | e <;> simp [e]
  have effects : s.readEffects who Reg.gtbNs 8 = (s.clk.gtimeNs, s.setRf Reg.gtbStatus 15 0 s.clk.gtimeFrac.toNat) := by
    rw [State.readEffects, show Reg.gtbNs / 8 * 8 = Reg.gtbNs from rfl, regPlace_gtbNs, regSeen_gtbNs published]
    exact if_pos (by simp [published])
  rw [State.answerRead, State.regRead, if_neg (by simp [answers]), if_neg (by simp [legal]), effects,
    show Reg.gtbNs / 8 * 8 = Reg.gtbNs from rfl, regSeen_gtbNs published]
  by_cases quiet : who = .hall ∨ who = .bar4
  · rw [if_pos quiet, if_pos quiet]
    exact answered s
  · rw [if_neg quiet, if_neg quiet]
    exact answered _

/-- Settles O32: each write of the hall's control by the registers, the connection and the keys that it changes. -/
theorem hallControlWrites : Obligations.HallControlWrites := by
  unfold Obligations.HallControlWrites
  intro s who
  refine ⟨fun d reaches other => ⟨fun closed => ?open_, fun open_ => ?close⟩,
    fun p mode medium reaches => ⟨fun real => ?mode, fun none_ => ?ignored⟩,
    fun p => ⟨?down, fun mode port => ?up, fun an xpn transmit key => ⟨fun fatal => ?fatal, fun idle alive => ?waits,
      fun normal first enough => ?keyed⟩⟩,
    fun delta reaches => ⟨fun free => ?step, fun armed => ?refused⟩, fun published served => ?read,
    fun within1 within4 synce => ?locked⟩
  case open_ =>
    have valid := frame_setRf s (Reg.hftPeer d) 60 60 1
    have on := bit_setRf_self s (Reg.hftPeer d) 1 (b := 60) (by decide)
    have run := peerValidWrite_opens reaches other closed
    obtain ⟨u, eu⟩ : ∃ u, s.setRf (Reg.hftPeer d) 60 60 1 = u := ⟨_, rfl⟩
    rw [eu] at valid on run
    obtain ⟨f, state, txSeq, unacked, ctrl, seq, sends, payload, heard, keeps, frame⟩ := openConn_spec u d
    have apart : Reg.hftPeer d ∉ [Reg.hftCfg] := by
      simp only [List.mem_singleton, Reg.hftPeer, Reg.hftCfg]
      omega
    have slots : u.slotsOf 4 = s.slotsOf 4 := slotsOf_of_regs (fun i real => valid.reg (by
      simp only [List.mem_singleton, Reg.arrEbregion, Reg.hftPeer]
      omega)) 4
    have all := (frame.mono (ps := [.regs, .mem, .sramErr, .hall]) (rs := [Reg.hftPeer d, Reg.hftCfg])).comp valid.mono
    refine ⟨_, f, run, state, txSeq, unacked, ctrl, seq, sends, fun empty => payload (slots.trans empty), ?_, ?_,
      ((InHall.of_touches (ps := []) valid.pieces).keepsConns _).trans keeps, all.regs, all.pieces⟩
    · rw [heard, valid.pieces .clk (by decide)]
    · rw [frame.reg apart, on]
      rfl
  case close =>
    have valid := frame_setRf s (Reg.hftPeer d) 60 60 0
    have off := bit_setRf_self s (Reg.hftPeer d) 0 (b := 60) (by decide)
    have run := peerValidWrite_closes reaches other open_
    obtain ⟨u, eu⟩ : ∃ u, s.setRf (Reg.hftPeer d) 60 60 0 = u := ⟨_, rfl⟩
    rw [eu] at valid off run
    obtain ⟨conn, streams, keeps, pieces⟩ := closeConn_spec u d
    have all := (Frame.mono (.of_touches pieces) (ps := [.regs, .parts, .hall]) (rs := [Reg.hftPeer d])).comp valid.mono
    refine ⟨_, run, conn, ?_, streams, ((InHall.of_touches (ps := []) valid.pieces).keepsConns _).trans keeps, all.regs,
      all.pieces⟩
    rw [State.reg_of_regs (pieces .regs (by decide)).1, off]
    rfl
  case mode =>
    obtain ⟨u, eu⟩ : ∃ u, (s.setRf (Reg.hfbPortcfg p) 1 0 mode.toNat).setRf (Reg.hfbPortcfg p) 2 2 (if medium then 1 else 0) = u :=
      ⟨_, rfl⟩
    have frame : Frame [.regs] [Reg.hfbPortcfg p] s u := eu ▸ (frame_setRf ..).comp (frame_setRf ..)
    have first : u.rf (Reg.hfbPortcfg p) 1 0 = mode.toNat := by
      rw [← eu, rf_setRf_apart _ _ _ (by decide) (by decide) (by decide), rf_setRf_self _ _ _ (by decide) (by decide)]
      exact Nat.mod_eq_of_lt mode.isLt
    have second : bit (u.reg (Reg.hfbPortcfg p)) 2 = medium := by
      rw [← eu, bit_setRf_self _ _ _ (by decide)]
      cases medium <;> rfl
    obtain ⟨down, -, last⟩ := hallDown_spec u p
    have apart : Reg.hfbPortcfg p ∉ [Reg.hfbPortstat p] := fun h => portstat_ne_portcfg p (List.mem_singleton.mp h)
    have all := (last.mono (ps := [.regs]) (rs := [Reg.hfbPortcfg p, Reg.hfbPortstat p])).comp frame.mono
    refine ⟨u.hallDown p, ?_, (last.rf apart ..).trans first, (congrArg (bit · 2) (last.reg apart)).trans second, down,
      all.regs, all.pieces⟩
    rw [← eu]
    refine congrArg Host.Outcome.next ((if_pos reaches).trans (if_neg fun h => real ?_))
    exact BitVec.eq_of_toNat_eq h
  case ignored =>
    exact congrArg Host.Outcome.next ((if_pos reaches).trans (if_pos (by rw [none_]; rfl)))
  case down =>
    obtain ⟨down, count, frame⟩ := hallDown_spec s p
    exact ⟨_, rfl, down, count, frame.regs, frame.pieces⟩
  case up =>
    have all := (frame_setRf (s.setRf (Reg.hfbPortstat p) 0 0 1) (Reg.hfbPortstat p) 3 2 (s.rf (Reg.hfbPortcfg p) 1 0)).comp
      (frame_setRf s (Reg.hfbPortstat p) 0 0 1)
    refine ⟨_, congrArg Host.Outcome.next (if_pos ⟨mode, port⟩), ?_, ?_, all.regs, all.pieces⟩
    · rw [State.linkUp, rf_setRf_apart _ _ _ (by decide) (by decide) (by decide), rf_setRf_bit _ _ _ (by decide)]
      rfl
    · rw [rf_setRf_self _ _ _ (by decide) (by decide)]
      rcases mode with e | e <;> rw [e] <;> rfl
  case fatal => exact congrArg Host.Outcome.next (if_pos fatal)
  case waits =>
    refine congrArg Host.Outcome.next ((if_neg alive).trans (settleKeying_waits idle))
  case keyed =>
    obtain ⟨n, en⟩ : ∃ n, 32 + 16 * (Config.keyingPieces s.clk.wall % 3) = n := ⟨_, rfl⟩
    have low : 32 ≤ n := by omega
    have high : n ≤ 64 := by omega
    have whole : roundUp n 16 = n := by
      rw [roundUp, ceilDiv]
      omega
    obtain ⟨r, er⟩ : ∃ r : Rekey, ⟨p, transmit, ⟨an.toNat, xpn, key, 1⟩⟩ = r := ⟨_, rfl⟩
    obtain ⟨u, eu⟩ : ∃ u : State, { s with hall := { s.hall with keying := s.hall.keying ++ [r] } } = u := ⟨_, rfl⟩
    have keying : u.hall.keying = [r] := by rw [← eu]; exact congrArg (· ++ [r]) first
    have ent : u.ent = s.ent := by rw [← eu]
    have wall : u.clk = s.clk := by rw [← eu]
    have run : exec (.macsecRekey p an xpn key transmit) s = .next
        (State.installSa { s with ent := { s.ent with out := s.ent.out.drop n }, hall := { s.hall with keying := [] } } r) := by
      refine congrArg Host.Outcome.next ((if_neg (by simp [normal])).trans ?_)
      rw [er, eu, State.settleKeying, keying]
      dsimp only
      rw [wall, en, takeFor_hall (ent ▸ normal) whole (by rw [ent]; omega), ← eu]
    refine ⟨_, n, run, low, high, rfl, rfl, fun sends => ?_, fun takes => ?_, rfl, ?_⟩
    · rw [State.installSa, ← er, hport_updPort_self]
      exact if_pos sends
    · rw [State.installSa, ← er, hport_updPort_self]
      exact if_neg (by simp [takes])
    · rw [State.installSa]
      exact (((within_ent (s := s) _).touches.mono (by decide)).trans
        ((within_hall (s := { s with ent := { s.ent with out := s.ent.out.drop n } }) _).touches.mono (by decide))).trans
        ((within_updPort _ _ _).touches.mono (by decide))
  case step =>
    refine congrArg Host.Outcome.next ((if_pos reaches).trans (if_neg ?_))
    simp only [List.any_eq_true, List.mem_range, not_exists, not_and]
    exact fun k small => by simp [free k small]
  case refused =>
    have raised := frame_raise s Reg.gtbStatus 18 18 1
    refine ⟨_, congrArg Host.Outcome.next ((if_pos reaches).trans (if_pos ?_)), rf_raise_bit _ _ _ (by decide), raised.regs,
      raised.pieces⟩
    simpa using armed
  case read =>
    refine ⟨_, congrArg Host.Outcome.next (answerRead_gtbNs published served), rfl, rfl, fun h b => ?_, ?_, ?_⟩
    · rw [if_neg (by simp [h, b])]
      exact (rf_setRf_self s _ _ (by decide) (by decide)).trans (Nat.mod_eq_of_lt s.clk.gtimeFrac.isLt)
    · split
      · exact fun _ _ => rfl
      · exact (frame_setRf s Reg.gtbStatus 15 0 s.clk.gtimeFrac.toNat).regs
    · have answered (t : State) (d : U64) (bs : List Byte) : OnlyTouches [.readData, .readBytes] t
          { t with readData := d, readBytes := bs } :=
        Within.touches (.after (within_readBytes (s := { t with readData := d }) bs) (within_readData (s := t) d).mono)
      refine OnlyTouches.trans (t := if who = .hall ∨ who = .bar4 then s else s.setRf Reg.gtbStatus 15 0 s.clk.gtimeFrac.toNat)
        ?_ ((answered _ _ _).mono (by decide))
      split
      · exact .refl _ _
      · exact (frame_setRf s Reg.gtbStatus 15 0 s.clk.gtimeFrac.toNat).pieces.mono (by decide)
  case locked =>
    have all := (frame_setRf (s.setRf Reg.gtbStatus 17 17 (if synce then 1 else 0)) Reg.gtbStatus 16 16
      (if within1 && synce then 1 else if within4 then s.rf Reg.gtbStatus 16 16 else 0)).comp
      (frame_setRf s Reg.gtbStatus 17 17 (if synce then 1 else 0))
    refine ⟨_, rfl, ?_, ?_, all.regs, all.pieces⟩
    · rw [rf_setRf_apart _ _ _ (by decide) (by decide) (by decide), rf_setRf_bit _ _ _ (by decide)]
      cases synce <;> rfl
    · rw [rf_setRf_bit _ _ _ (by decide)]
      have low := rf_lt s Reg.gtbStatus 16 16
      split
      · rfl
      · split
        · omega
        · rfl

end Sys2Proof.Machine
end

section
/-! PROOFS. The host ports: rings, and the life of a descriptor. -/

namespace Sys2Proof.Machine

open Sys2Proof

-- One theorem after another: many at once would need too many threads.
set_option Elab.async false

/-! ## The rings of a port (R295 to R300) -/

section
variable (s : State) (p : Port) (r : Nat)

@[simp] theorem ringPair_updRing_self (f : RingPair → RingPair) : (s.updRing p r f).ringPair p r = f (s.ringPair p r) :=
  Table.look_put_self ..

theorem ringPair_of_rings {s t : State} (h : t.rings = s.rings) (p : Port) (r : Nat) : t.ringPair p r = s.ringPair p r := by
  rw [State.ringPair, h, State.ringPair]

theorem pairOn_of_regs {s t : State} (h : t.regs = s.regs) (p : Port) (r : Nat) : t.pairOn p r = s.pairOn p r := by
  rw [State.pairOn, State.reg_of_regs h, State.reg_of_regs h, State.pairOn]

/-- A pair whose enables change together from `was` to `now`. -/
def switchedPair (was now : Bool) (x : RingPair) : RingPair :=
  if was = now then x else if now then { fetched := x.fetched } else { x with owed := [], irqs := 0, irqSince := none }

/-- The descriptors of a pair that changes from `was` to `now`. -/
def switchedDescs (was now : Bool) (p : Port) (r : Nat) (l : List Desc) : List Desc :=
  if was && !now then orphanRing p r l else l

theorem pairChange_spec (was : Bool) : Frame [.rings, .descs] [] s (s.pairChange p r was) ∧
    (s.pairChange p r was).ringPair p r = switchedPair was (s.pairOn p r) (s.ringPair p r) ∧
    (s.pairChange p r was).descs = switchedDescs was (s.pairOn p r) p r s.descs := by
  refine ⟨.of_within (within_pairChange ..), ?_, ?_⟩
  · rw [State.pairChange, switchedPair]
    generalize s.pairOn p r = now
    by_cases same : was = now
    · rw [if_pos same, if_pos same]
    · rw [if_neg same, if_neg same]
      cases now with
      | true =>
        rw [if_pos rfl, if_pos rfl]
        exact ringPair_updRing_self ..
      | false =>
        rw [if_neg Bool.false_ne_true, if_neg Bool.false_ne_true]
        exact ringPair_updRing_self s p r (fun x => { x with owed := [], irqs := 0, irqSince := none })
  · rw [State.pairChange, switchedDescs]
    generalize s.pairOn p r = now
    cases was <;> cases now <;> rfl

theorem hstSq_ne_hstCq : Reg.hstCq p.num r ≠ Reg.hstSq p.num r := by
  simp only [Reg.hstCq, Reg.hstSq]
  omega

/-- One enable of a pair written: the pair's change, by what the two enables were and are. -/
theorem ringSwitch_spec (cq on : Bool) (off : Nat) (eo : off = if cq then Reg.hstCq p.num r else Reg.hstSq p.num r) :
    Frame [.regs, .rings, .descs] [off] s (s.ringSwitch p r cq on) ∧ bit ((s.ringSwitch p r cq on).reg off) 5 = on ∧
    (s.ringSwitch p r cq on).ringPair p r =
      switchedPair (s.pairOn p r) (if cq then bit (s.reg (Reg.hstSq p.num r)) 5 && on else on && bit (s.reg (Reg.hstCq p.num r)) 5)
        (s.ringPair p r) ∧
    (s.ringSwitch p r cq on).descs =
      switchedDescs (s.pairOn p r) (if cq then bit (s.reg (Reg.hstSq p.num r)) 5 && on else on && bit (s.reg (Reg.hstCq p.num r)) 5)
        p r s.descs := by
  have set_ := frame_setRf s off 5 5 (if on then 1 else 0)
  have own : bit ((s.setRf off 5 5 (if on then 1 else 0)).reg off) 5 = on := by
    rw [bit_setRf_self _ _ _ (by decide)]
    cases on <;> rfl
  obtain ⟨u, eu⟩ : ∃ u, s.setRf off 5 5 (if on then 1 else 0) = u := ⟨_, rfl⟩
  rw [eu] at set_ own
  have now : u.pairOn p r = if cq then bit (s.reg (Reg.hstSq p.num r)) 5 && on else on && bit (s.reg (Reg.hstCq p.num r)) 5 := by
    have apart := hstSq_ne_hstCq p r
    cases cq with
    | true =>
      subst eo
      rw [State.pairOn, set_.reg (by simpa using apart.symm)]
      exact congrArg (bit (s.reg (Reg.hstSq p.num r)) 5 && ·) own
    | false =>
      subst eo
      rw [State.pairOn, set_.reg (o := Reg.hstCq p.num r) (by simpa using apart)]
      exact congrArg (· && bit (s.reg (Reg.hstCq p.num r)) 5) own
  obtain ⟨frame, pair, descs⟩ := pairChange_spec u p r (s.pairOn p r)
  rw [now, ringPair_of_rings (set_.pieces .rings (by decide))] at pair
  rw [now, set_.pieces .descs (by decide)] at descs
  rw [show s.ringSwitch p r cq on = u.pairChange p r (s.pairOn p r) by rw [← eu, eo]; rfl]
  exact ⟨(frame.mono).comp set_.mono, by rw [frame.reg (by simp), own], pair, descs⟩

/-- Both enables of a pair written (R295, R300). -/
theorem ringEnable_spec {p : Port} {r : RingId} {sq cq was half now : Bool} (ew : was = s.pairOn p r)
    (eh : half = (sq && bit (s.reg (Reg.hstCq p.num r)) 5)) (en : now = (sq && cq))
    (reaches : s.writeReaches p.who (Reg.hstSq p.num r) = true) :
    ∃ t, exec (.ringEnable p r sq cq) s = .next t ∧ bit (t.reg (Reg.hstSq p.num r)) 5 = sq ∧
      bit (t.reg (Reg.hstCq p.num r)) 5 = cq ∧ t.ringPair p r = switchedPair half now (switchedPair was half (s.ringPair p r)) ∧
      t.descs = switchedDescs half now p r (switchedDescs was half p r s.descs) ∧
      Frame [.regs, .rings, .descs] [Reg.hstSq p.num r, Reg.hstCq p.num r] s t := by
  obtain ⟨first, sqBit, pair, descs⟩ := ringSwitch_spec s p r false sq _ rfl
  have run : exec (.ringEnable p r sq cq) s = .next ((s.ringSwitch p r false sq).ringSwitch p r true cq) :=
    congrArg Host.Outcome.next (if_pos reaches)
  obtain ⟨u, eu⟩ : ∃ u, s.ringSwitch p r false sq = u := ⟨_, rfl⟩
  rw [eu] at first sqBit pair descs run
  obtain ⟨second, cqBit, pair', descs'⟩ := ringSwitch_spec u p r true cq _ rfl
  have apart := hstSq_ne_hstCq p r
  simp only [if_true, Bool.false_eq_true, if_false] at first sqBit pair descs second cqBit pair' descs'
  have mid : u.pairOn p r = half := by
    rw [State.pairOn, first.reg (o := Reg.hstCq p.num r) (by simpa using apart), sqBit, eh]
  rw [sqBit, mid, pair, ← eh, ← ew, ← en] at pair'
  rw [sqBit, mid, descs, ← eh, ← ew, ← en] at descs'
  refine ⟨_, run, ?_, cqBit, pair', descs', (second.mono (own := by simp)).comp (first.mono (own := by simp))⟩
  rw [second.reg (by simpa using apart.symm), sqBit]

end

/-! ## Completions and their interrupts (R298, R299) -/

theorem host_wrHost_self (s : State) (p : Port) (a : Nat) (bs : List Byte) : (s.wrHost p a bs).host p a bs.length = bs := by
  cases p <;> exact Table.span_putSpan ..

theorem host_wrHost_other (s : State) (p : Port) {a : Nat} {bs : List Byte} {b n : Nat} (apart : b + n ≤ a ∨ a + bs.length ≤ b) :
    (s.wrHost p a bs).host p b n = s.host p b n := by
  cases p <;> exact Table.span_putSpan_other _ _ _ _ _ _ apart

theorem host_of_pieces {s t : State} {ps : List Piece} (h : OnlyTouches ps s t) (p : Port) (a n : Nat)
    (no : .hostA ∉ ps ∧ .hostB ∉ ps := by decide) : t.host p a n = s.host p a n := by
  cases p with
  | a => exact congrArg (Table.span zeroByte · a n) (h .hostA no.1)
  | b => exact congrArg (Table.span zeroByte · a n) (h .hostB no.2)

theorem touches_wrHost (s : State) (p : Port) (a : Nat) (bs : List Byte) :
    OnlyTouches [if p = .a then .hostA else .hostB] s (s.wrHost p a bs) := by
  intro x hx
  cases p <;> cases x <;> simp_all [Piece.same, State.wrHost]

section
variable {s : State} {p : Port} {r : Nat} {x : RingPair} {n v : Nat} (pair : s.ringPair p r = x)
  (en : fld (s.reg (Reg.hstRingcfg p.num r)) 15 8 = n) (ev : fld (s.reg (Reg.hstRingcfg p.num r)) 7 0 = v)
include pair en ev

theorem signal_waits (few : x.irqs + 1 < n) : s.signal p r = s.updRing p r (fun x => { x with
    irqs := x.irqs + 1, irqSince := some (x.irqSince.getD s.clk.wall) }) := by
  subst pair en
  exact if_neg (by omega)

theorem signal_sends (many : n ≤ x.irqs + 1) :
    s.signal p r = (s.updRing p r (fun x => { x with irqs := 0, irqSince := none })).interrupt p v := by
  subst pair en ev
  exact if_pos many

end

/-- An interrupt's message changes nothing else. -/
theorem ringPair_interrupt (s : State) (p : Port) (v : Nat) (q : Port) (r : Nat) :
    (s.interrupt p v).ringPair q r = s.ringPair q r :=
  ringPair_of_rings ((within_interrupt s p v).touches .rings (by decide)) q r

theorem msix_interrupt_updRing {s : State} {p : Port} {r v : Nat} {f : RingPair → RingPair}
    (up : s.rf (Reg.hstPortstat p.num) 0 0 = 1) (unmasked : s.vectorMasked p v = false) :
    ((s.updRing p r f).interrupt p v).msix = s.msix ++ [(p, v)] := msix_interrupt (s := s.updRing p r f) up unmasked

/-! ## Doorbells (R296, R297, R312, R406) -/

/-- What a doorbell's wake leaves: the state, or the power state with the wake that it holds or begins. -/
def DoorbellWakes (s u : State) : Prop :=
  (s.pwr.state = .s0 ∧ s.pwr.entry = none ∧ s.pwr.request = none ∧ u = s) ∨
  (s.pwr.state ≠ .s3 ∧ s.boot.supplies = false ∧ u = s) ∨
  ((s.pwr.state = .s1 ∨ s.pwr.state = .s2) ∧ s.pwr.waking.isSome = true ∧ u = s) ∨
  (s.pwr.state = .s0 ∧ (s.pwr.entry.isSome = true ∨ s.pwr.request.isSome = true) ∧ s.boot.supplies = true ∧
    u = { s with pwr := { s.pwr with heldWake := some (s.pwr.heldWake.getD .doorbell) } }) ∨
  ((s.pwr.state = .s1 ∨ s.pwr.state = .s2) ∧ s.boot.supplies = true ∧ s.pwr.waking = none ∧
    u = { s with pwr := { s.pwr with waking := some (s.clk.wall, .doorbell), heldWake := none } })

section
variable {s u : State} (wakes : DoorbellWakes s u)
include wakes

theorem DoorbellWakes.on : s.pwr.state ≠ .s3 := by
  rcases wakes with ⟨h, -⟩ | ⟨h, -⟩ | ⟨h, -⟩ | ⟨h, -⟩ | ⟨h, -⟩
  · simp [h]
  · exact h
  · rcases h with h | h <;> simp [h]
  · simp [h]
  · rcases h with h | h <;> simp [h]

theorem DoorbellWakes.wakeBy : s.wakeBy .doorbell = u := by
  have level : s.pwr.addLevel .doorbell = s.pwr := if_neg (by simp)
  unfold State.wakeBy
  rw [level]
  rcases wakes with ⟨h, entry, request, rfl⟩ | ⟨h, off, rfl⟩ | ⟨h, waking, rfl⟩ | ⟨h, busy, on, rfl⟩ | ⟨h, on, idle, rfl⟩
  · simp [h, entry, request, WakeSource.edge]
  · simp [off]
  · rw [if_pos h, State.wakeUp, if_pos waking, ite_self]
  · rw [if_neg (by simp [on]), if_neg (by simp [h]), if_pos h, if_neg (by simp [WakeSource.edge])]
    exact if_pos busy
  · rw [if_neg (by simp [on]), if_pos h, State.wakeUp, if_neg (by simp [idle])]

/-- The wake changes the power state alone. -/
theorem DoorbellWakes.pwr : ∃ w, u = { s with pwr := w } := by
  rcases wakes with ⟨-, -, -, rfl⟩ | ⟨-, -, rfl⟩ | ⟨-, -, rfl⟩ | ⟨-, -, -, rfl⟩ | ⟨-, -, -, rfl⟩
  · exact ⟨_, rfl⟩
  · exact ⟨_, rfl⟩
  · exact ⟨_, rfl⟩
  · exact ⟨_, rfl⟩
  · exact ⟨_, rfl⟩

theorem DoorbellWakes.doorbell (f : State → State) : s.doorbell 4 f = f u := by
  rw [State.doorbell, if_neg (by simp [wakes.on]), wakes.wakeBy]

end

/-- Settles O33: the fetch, the oldest completion, the moderation, the enables as two changes of a pair, and the doorbells behind
their wake. -/
theorem hostRingsMove : Obligations.HostRingsMove := by
  unfold Obligations.HostRingsMove
  refine ⟨fun p r s x pair => ⟨fun bytes on work room awake new => ?fetch, fun bytes stop => ?idle,
    fun bs irq rest v n a owed on room awake ev ea en => ?post, fun u since => ⟨fun due => ?due, fun early => ?early⟩,
    fun sq cq => ⟨fun out => congrArg Host.Outcome.next (if_neg (by simp [out])), fun reaches => ?enable⟩⟩,
    fun p r v s u wakes => ?bells, fun p r v size s no => ?none_⟩
  case fetch =>
    subst pair
    refine ⟨_, if_pos (by simp [on, work, room, awake, new]), rfl, ringPair_updRing_self s p r (fun x => { x with
      sqHead := ((s.ringPair p r).sqHead + 1) % ringSize (s.reg (Reg.hstSq p.num r)), fetched := x.fetched + 1 }), ?_⟩
    exact ((within_updRing s p r _).touches.mono (by decide)).trans ((within_descs (s := s.updRing p r _) _).touches.mono (by decide))
  case idle =>
    subst pair
    refine if_neg ?_
    rcases stop with h | h | h | h <;> simp [h]
  case post =>
    obtain ⟨out, eo⟩ : ∃ out, bs.set 6 (if x.phase then 1 else 0) = out := ⟨_, rfl⟩
    obtain ⟨tail, et⟩ : ∃ tail, (x.cqTail + 1) % ringSize v = tail := ⟨_, rfl⟩
    obtain ⟨w, ew⟩ : ∃ w, s.wrHost p a out = w := ⟨_, rfl⟩
    obtain ⟨f, ef⟩ : ∃ f : RingPair → RingPair, (fun x => { x with
      owed := rest, cqTail := tail, phase := if tail = 0 then !x.phase else x.phase }) = f := ⟨_, rfl⟩
    rw [eo, et]
    have run : exec (.completionPost p r) s =
        .next (if irq then (w.updRing p r f).signal p r else w.updRing p r f) := by
      rw [show exec (.completionPost p r) s = execCompletionPost p r s from rfl, execCompletionPost]
      dsimp only
      rw [pair, owed]
      refine (if_pos (by simp [on, room, awake])).trans ?_
      rw [← ef, ← ew, ea, ← eo, ← et, ev]
    have size : out.length = bs.length := by rw [← eo, List.length_set]
    have wrote : OnlyTouches [if p = .a then .hostA else .hostB] s w := ew ▸ touches_wrHost s p a out
    have regs : w.regs = s.regs := by rw [← ew]; cases p <;> rfl
    have clk : w.clk = s.clk := by rw [← ew]; cases p <;> rfl
    have msix : w.msix = s.msix := by rw [← ew]; cases p <;> rfl
    have masks : ∀ v, w.vectorMasked p v = s.vectorMasked p v := fun v => by rw [← ew]; cases p <;> rfl
    have rings : w.ringPair p r = x := (ringPair_of_rings (by rw [← ew]; cases p <;> rfl) p r).trans pair
    obtain ⟨u, eu⟩ : ∃ u, w.updRing p r f = u := ⟨_, rfl⟩
    have self : w.host p a bs.length = out := by rw [← ew, ← size, host_wrHost_self]
    have other : ∀ k, (k < a ∨ a + bs.length ≤ k) → w.host p k 1 = s.host p k 1 := fun k far => by
      rw [← ew, host_wrHost_other s p (by omega)]
    have posted := ringPair_updRing_self w p r f
    have ring : OnlyTouches [.rings] w u := eu ▸ (within_updRing ..).touches
    have uClk : u.clk = w.clk := ring .clk (by decide)
    have uRegs : u.regs = w.regs := (ring .regs (by decide)).1
    have uMsix : u.msix = w.msix := by rw [← eu]; rfl
    have uMasks : ∀ v, u.vectorMasked p v = w.vectorMasked p v := fun v => by rw [← eu]; rfl
    rw [eu] at run posted
    rw [rings] at posted
    have cfg : u.reg (Reg.hstRingcfg p.num r) = s.reg (Reg.hstRingcfg p.num r) := State.reg_of_regs (uRegs.trans regs) _
    have lands {t : State} (rest_ : OnlyTouches [.rings, .msix] u t) :
        t.host p a bs.length = out ∧ (∀ k, (k < a ∨ a + bs.length ≤ k) → t.host p k 1 = s.host p k 1) ∧
        OnlyTouches [if p = .a then .hostA else .hostB, .rings, .msix] s t := by
      have all : OnlyTouches [.rings, .msix] w t := (ring.mono (by decide)).trans rest_
      refine ⟨(host_of_pieces all ..).trans self, fun k far => (host_of_pieces all ..).trans (other k far), ?_⟩
      cases p with
      | a => exact (wrote.mono (by decide)).trans (all.mono (by decide))
      | b => exact (wrote.mono (by decide)).trans (all.mono (by decide))
    have signalled := (within_signal u p r).touches
    cases irq with
    | false =>
      obtain ⟨bytes, keeps, pieces⟩ := lands (.refl _ u)
      exact ⟨u, run, bytes, keeps, by rw [posted, ← ef], by rw [posted, ← ef], by rw [posted, ← ef],
        fun _ => uMsix.trans msix, nofun, nofun, pieces⟩
    | true =>
      obtain ⟨bytes, keeps, pieces⟩ := lands signalled
      have since : (f x).irqs = x.irqs ∧ (f x).irqSince = x.irqSince := by rw [← ef]; exact ⟨rfl, rfl⟩
      by_cases few : x.irqs + 1 < n
      · have waits := signal_waits posted ((congrArg (fld · 15 8) cfg).trans en.symm) rfl (by rw [since.1]; exact few)
        rw [if_pos rfl, waits] at run
        rw [waits] at bytes keeps pieces
        have pair' := ringPair_updRing_self u p r (fun x => { x with irqs := x.irqs + 1, irqSince := some (x.irqSince.getD u.clk.wall) })
        rw [posted] at pair'
        refine ⟨_, run, bytes, keeps, by rw [pair', ← ef], by rw [pair', ← ef], by rw [pair', ← ef],
          fun _ => uMsix.trans msix, fun _ _ => ⟨by rw [pair', since.1], ?_⟩, fun _ many => absurd many (by omega), pieces⟩
        rw [pair', since.2, uClk, clk]
      · have sends := signal_sends posted ((congrArg (fld · 15 8) cfg).trans en.symm) (congrArg (fld · 7 0) cfg)
          (by rw [since.1]; omega)
        rw [if_pos rfl, sends] at run
        rw [sends] at bytes keeps pieces
        have pair' := ringPair_updRing_self u p r (fun x => { x with irqs := 0, irqSince := none })
        rw [posted] at pair'
        refine ⟨_, run, bytes, keeps, ?_, ?_, ?_, fun h => absurd (h.resolve_left (by decide)) few,
          fun _ h => absurd h few, fun _ _ => ⟨?_, ?_, fun up unmasked => ?_⟩, pieces⟩
        · rw [ringPair_interrupt, pair', ← ef]
        · rw [ringPair_interrupt, pair', ← ef]
        · rw [ringPair_interrupt, pair', ← ef]
        · rw [ringPair_interrupt, pair']
        · rw [ringPair_interrupt, pair']
        · rw [msix_interrupt_updRing ((rf_of_reg (State.reg_of_regs (uRegs.trans regs) _) ..).trans up)
            ((uMasks _).trans ((masks _).trans unmasked)), uMsix, msix]
  case due =>
    refine ⟨_, ?_, fun up unmasked => msix_interrupt_updRing (r := r) (f := fun x => { x with irqs := 0, irqSince := none })
      up unmasked, ?_, ((within_interrupt ..).after (within_updRing ..).mono).touches⟩
    · rw [show exec (.interruptModerationTimeout p r) s = execInterruptModerationTimeout p r s from rfl,
        execInterruptModerationTimeout, pair, since]
      exact congrArg Host.Outcome.next (if_pos due)
    · rw [ringPair_interrupt, ringPair_updRing_self, pair]
  case early =>
    rw [show exec (.interruptModerationTimeout p r) s = execInterruptModerationTimeout p r s from rfl,
      execInterruptModerationTimeout, pair, since]
    exact congrArg Host.Outcome.next (if_neg (by omega))
  case enable =>
    obtain ⟨t, run, sqBit, cqBit, pair', descs, frame⟩ := ringEnable_spec s (sq := sq) (cq := cq) rfl rfl rfl reaches
    rw [pair] at pair'
    refine ⟨t, run, sqBit, cqBit, fun was on1 on2 => ?_, fun was off => ?_, fun was on1 on2 => ?_, fun was off => ?_,
      fun was on1 off half => ?_, frame.regs, frame.pieces⟩
    · rw [pair', descs, was, on1, on2]
      cases bit (s.reg (Reg.hstCq p.num r)) 5 <;> exact ⟨rfl, rfl⟩
    · have half : (sq && bit (s.reg (Reg.hstCq p.num r)) 5) = sq := by
        rw [State.pairOn, Bool.and_eq_true] at was
        rw [was.2, Bool.and_true]
      rw [pair', descs, was, half]
      rcases off with h | h <;> rw [h]
      · exact ⟨rfl, rfl⟩
      · cases sq <;> exact ⟨rfl, rfl⟩
    · have half : bit (s.reg (Reg.hstCq p.num r)) 5 = true := by
        rw [State.pairOn, Bool.and_eq_true] at was
        exact was.2
      rw [pair', descs, was, half, on1, on2]
      exact ⟨rfl, rfl⟩
    · rw [pair', descs, was]
      rcases off with h | ⟨h, half⟩
      · rw [h]
        exact ⟨rfl, rfl⟩
      · rw [h, half, Bool.and_false]
        exact ⟨rfl, rfl⟩
    · rw [pair', descs, was, on1, off, half]
      exact ⟨rfl, rfl⟩
  case bells =>
    have wakes : DoorbellWakes s u := wakes
    have rung := wakes.doorbell
    have pair : u.pairOn p r = s.pairOn p r := by obtain ⟨w, rfl⟩ := wakes.pwr; rfl
    have reg : ∀ o, u.reg o = s.reg o := by obtain ⟨w, rfl⟩ := wakes.pwr; exact fun _ => rfl
    have part : u.part r = s.part r := by obtain ⟨w, rfl⟩ := wakes.pwr; rfl
    have hostB : u.hostB = s.hostB := by obtain ⟨w, rfl⟩ := wakes.pwr; rfl
    have mem : u.mem = s.mem := by obtain ⟨w, rfl⟩ := wakes.pwr; rfl
    refine ⟨fun on less => ?_, fun on less => ?_, fun out => ?_, fun out => ?_, fun ok real eo => ?_,
      fun real => ⟨fun base n here => ?_, fun none_ => ?_⟩⟩
    · refine congrArg Host.Outcome.next ((rung _).trans ?_)
      rw [pair, reg]
      exact if_pos (by simpa using ⟨on, less⟩)
    · refine congrArg Host.Outcome.next ((rung _).trans ?_)
      rw [pair, reg]
      exact if_pos (by simpa using ⟨on, less⟩)
    · refine congrArg Host.Outcome.next ((rung _).trans ?_)
      rw [pair, reg]
      exact if_neg (by rcases out with h | h <;> simp [h])
    · refine congrArg Host.Outcome.next ((rung _).trans ?_)
      rw [pair, reg]
      exact if_neg (by rcases out with h | h <;> simp [h])
    · have run : exec (.drainHead .b r v 4) s = .next (if ok then
          u.updPart r (fun q => { q with drain := { q.drain with hHead := v.toNat } }) else u.badDoorbell .b) := by
        refine (if_neg (by simp; omega)).trans (congrArg Host.Outcome.next ((rung _).trans ?_))
        dsimp only
        rw [reg, part, hostB, ← eo]
      exact ⟨fun good => by rw [run, good]; rfl, fun bad => by rw [run, bad]; rfl⟩
    · have run : exec (.ldrainHead p r v 4) s = .next (if headOk s.mem base n (s.part r).drain.lHead (s.part r).drain.lTail v.toNat
          then u.updPart r (fun q => { q with drain := { q.drain with lHead := v.toNat } }) else u.badDoorbell p) := by
        refine (if_neg (by omega)).trans (congrArg Host.Outcome.next ((rung _).trans ?_))
        dsimp only
        rw [part, here, mem]
      exact ⟨fun good => by rw [run, good]; rfl, fun bad => by rw [run, bad]; rfl⟩
    · refine (if_neg (by omega)).trans (congrArg Host.Outcome.next ((rung _).trans ?_))
      dsimp only
      rw [part, none_]
      rfl
  case none_ =>
    have rung (f : State → State) : s.doorbell size f = s := if_pos no
    refine ⟨congrArg Host.Outcome.next (rung _), congrArg Host.Outcome.next (rung _), ?_, ?_⟩
    · rw [show exec (.drainHead p r v size) s = execDrainHead p r v size s from rfl, execDrainHead, rung, ite_self]
    · rw [show exec (.ldrainHead p r v size) s = execLdrainHead p r v size s from rfl, execLdrainHead, rung, ite_self]

/-! ## Descriptors: what is found, and how one completes (R294, R298, R301) -/

section
variable {s : State} {d : DescRef} {x : Desc}

theorem desc_ref (here : s.desc d = some x) : x.ref = d := by
  have own := List.find?_some (show s.descs.find? (fun y => y.ref == d) = some x from here)
  exact beq_iff_eq.mp own

theorem desc_of_descs {s t : State} (h : t.descs = s.descs) (d : DescRef) : t.desc d = s.desc d := by
  rw [State.desc, h, State.desc]

/-- A descriptor after its own change. -/
theorem desc_updDesc_self (here : s.desc d = some x) (f : Desc → Desc) (ref : (f x).ref = x.ref)
    (all : ∀ y, (f y).ref = y.ref) : (s.updDesc d f).desc d = some (f x) := by
  rw [State.desc, State.updDesc, List.find?_map]
  have same : ((fun y : Desc => y.ref == d) ∘ fun y => if y.ref = d then f y else y) = fun y => y.ref == d := by
    funext y
    by_cases own : y.ref = d
    · rw [Function.comp_apply, if_pos own, all]
    · rw [Function.comp_apply, if_neg own]
  rw [same, show s.descs.find? (fun y => y.ref == d) = some x from here, Option.map_some, if_pos (desc_ref here)]

theorem filter_updDesc (s : State) (d : DescRef) (f : Desc → Desc) (all : ∀ y, (f y).ref = y.ref) :
    (s.updDesc d f).descs.filter (fun y => y.ref != d) = s.descs.filter (fun y => y.ref != d) := by
  rw [State.updDesc]
  induction s.descs with
  | nil => rfl
  | cons y l ih =>
    rw [List.map_cons]
    by_cases own : y.ref = d
    · rw [if_pos own, List.filter_cons_of_neg (by simp [all, own]), List.filter_cons_of_neg (by simp [own]), ih]
    · rw [if_neg own, List.filter_cons_of_pos (by simpa using own), List.filter_cons_of_pos (by simpa using own), ih]

theorem begun_iff {op : Nat} : s.begun d op = some x ↔
    s.desc d = some x ∧ x.phase = .running ∧ x.expired = false ∧ x.opcode = op := by
  unfold State.begun
  cases here : s.desc d with
  | none => simp
  | some y =>
    dsimp only
    constructor
    · intro h
      split at h
      next ok =>
        obtain ⟨running, live, code⟩ := ok
        obtain rfl := Option.some.inj h
        exact ⟨rfl, running, by simpa using live, code⟩
      · exact absurd h (by simp)
    · rintro ⟨h, running, live, code⟩
      obtain rfl := Option.some.inj h
      exact if_pos ⟨running, by simp [live], code⟩

/-- An operation of a descriptor that runs. -/
theorem onDesc_begun {op : Nat} (begun : s.begun d op = some x) (f : Desc → State → State) : s.onDesc d op f = .next (f x s) := by
  rw [State.onDesc, begun]

theorem owed_owe (s : State) (x : Desc) (status detail result : Nat) :
    ((s.owe x status detail result).ringPair x.ref.port x.ref.ring).owed = (s.ringPair x.ref.port x.ref.ring).owed ++
      [(completionBytes x status detail result s.gtime, (leAt x.bytes 1 1).testBit 0)] := by
  rw [State.owe, ringPair_updRing_self]

/-- A descriptor whose watchdog has not expired completes (R298). -/
theorem complete_spec (here : s.desc d = some x) (live : x.expired = false) (status detail result : Nat) :
    DoneAs x status detail result s (s.complete d status detail result) ∧
    OnlyTouches [.rings, .descs] s (s.complete d status detail result) := by
  have ref := desc_ref here
  subst ref
  unfold State.complete
  rw [here]
  obtain ⟨u, eu⟩ : ∃ u, ({ s with descs := s.descs.filter (fun y => y.ref != x.ref) } : State).updRing x.ref.port x.ref.ring
    (fun r => { r with serialEnd := s.mc }) = u := ⟨_, rfl⟩
  have descs : u.descs = s.descs.filter (fun y => y.ref != x.ref) := by rw [← eu]; rfl
  have owed : (u.ringPair x.ref.port x.ref.ring).owed = (s.ringPair x.ref.port x.ref.ring).owed := by
    rw [← eu, ringPair_updRing_self]
    rfl
  have gtime : u.gtime = s.gtime := by rw [← eu]; rfl
  have pieces : OnlyTouches [.rings, .descs] s u := by
    rw [← eu]
    exact ((within_descs (s := s) _).touches.mono (by decide)).trans ((within_updRing _ _ _ _).touches.mono (by decide))
  dsimp only
  rw [if_neg (by simp [live]), eu]
  cases orphan : x.orphan with
  | true =>
    rw [if_pos rfl]
    exact ⟨⟨descs, fun h => absurd (orphan.symm.trans h) (by decide), fun _ => owed⟩, pieces⟩
  | false =>
    rw [if_neg (by decide)]
    refine ⟨⟨descs, fun _ => ?_, fun h => absurd (orphan.symm.trans h) (by decide)⟩,
      pieces.trans ((within_updRing _ _ _ _).touches.mono (by decide))⟩
    rw [owed_owe, owed, gtime]

/-- What a state has become before a descriptor's completion does not change what completes. -/
theorem DoneAs.before {status detail result : Nat} {s u t : State} (h : DoneAs x status detail result u t)
    (descs : u.descs = s.descs) (rings : u.rings = s.rings) (clk : u.clk = s.clk) : DoneAs x status detail result s t := by
  obtain ⟨left, owed, orphan⟩ := h
  rw [ringPair_of_rings rings] at owed orphan
  rw [State.gtime, clk] at owed
  exact ⟨left.trans (congrArg _ descs), owed, orphan⟩

/-- What a state becomes after a descriptor's completion, its rings and descriptors kept, does not change what completed. -/
theorem DoneAs.after {status detail result : Nat} {s t u : State} (h : DoneAs x status detail result s t)
    (descs : u.descs = t.descs) (rings : u.rings = t.rings) : DoneAs x status detail result s u := by
  obtain ⟨left, owed, orphan⟩ := h
  refine ⟨descs.trans left, ?_, ?_⟩
  · rw [ringPair_of_rings rings]
    exact owed
  · rw [ringPair_of_rings rings]
    exact orphan

/-- A completion after other work: the descriptor completes as of the state before that work, when the work has left the
descriptors, the rings and the time. -/
theorem complete_after {ps : List Piece} {s u : State} (work : OnlyTouches ps s u) (here : s.desc d = some x)
    (live : x.expired = false) (status detail result : Nat)
    (no : .descs ∉ ps ∧ .rings ∉ ps ∧ .clk ∉ ps := by decide) :
    DoneAs x status detail result s (u.complete d status detail result) ∧
    OnlyTouches [.rings, .descs] u (u.complete d status detail result) := by
  have descs : u.descs = s.descs := work .descs no.1
  obtain ⟨done, pieces⟩ := complete_spec ((desc_of_descs descs d).trans here) live status detail result
  exact ⟨done.before descs (work .rings no.2.1) (work .clk no.2.2), pieces⟩

end

/-! ## The start, the FENCE, the HALT and the watchdog of a descriptor (R301 to R307, R314) -/

/-- A scheduled start's comparator is freed: registers of comparators alone change. -/
theorem frame_freeStart (s : State) (q : Nat) : Frame [.regs] cmpRegs s (s.freeStart q) := by
  unfold State.freeStart
  have step (k : Nat) (small : k < 8) (t : State) : Frame [.regs] cmpRegs t
      (if t.cmpOwner k = 2 ∧ fld (t.reg (Reg.gtbCmp k + 8)) 15 8 = q then t.freeCmpAt k else t) := by
    refine .ite ((setCmp_spec t k 0 0 0 false (by decide)).1.mono (own := ?_)) (.refl ..)
    intro o ho
    exact List.mem_flatMap.mpr ⟨k, List.mem_range.mpr small, ho⟩
  have all (l : List Nat) (small : ∀ k ∈ l, k < 8) (t : State) : Frame [.regs] cmpRegs t
      (l.foldl (fun t k => if t.cmpOwner k = 2 ∧ fld (t.reg (Reg.gtbCmp k + 8)) 15 8 = q then t.freeCmpAt k else t) t) := by
    induction l generalizing t with
    | nil => exact .refl ..
    | cons k l ih => exact (step k (small k List.mem_cons_self) t).trans (ih (fun j hj => small j (List.mem_cons_of_mem _ hj)) _)
  exact all _ (fun k hk => List.mem_range.mp hk) s

/-- What stopping an operation leaves of its partition and of the multicast transfers. -/
theorem stopOp_spec (s : State) (d : DescRef) (q : Nat) :
    d ∉ ((s.stopOp d q).part q).halts ∧ (∀ y ∈ ((s.stopOp d q).part q).tables, y.desc ≠ d) ∧
    (∀ y, ((s.stopOp d q).part q).restore = some y → y.1 ≠ d) ∧ ((s.stopOp d q).part q).load = (s.part q).load ∧
    (∀ j, (s.part q).job = some j → ((s.stopOp d q).part q).job =
      if j.desc = d then (if j.going || j.ended.isSome then some { j with stop := some 1 } else none) else some j) ∧
    ((s.part q).job = none → ((s.stopOp d q).part q).job = none) ∧
    (s.stopOp d q).hall.mtx = s.hall.mtx.filter (fun y => y.desc != d) ∧ (s.stopOp d q).hall.conns = s.hall.conns ∧
    KeepsParts [q] s (s.stopOp d q) ∧ OnlyTouches [.parts, .hall] s (s.stopOp d q) := by
  have pieces := (within_stopOp s d q).touches
  unfold State.stopOp at pieces ⊢
  extract_lets src u at pieces ⊢
  have part : u.part q = s.part q := rfl
  have mtx : u.hall.mtx = s.hall.mtx.filter (fun y => y.desc != d) := rfl
  have conns : u.hall.conns = s.hall.conns := rfl
  have parts : KeepsParts [q] s u := fun _ _ => rfl
  clear_value u
  rw [State.part_updPart_self, part]
  refine ⟨?_, ?_, ?_, rfl, fun j job => ?_, fun job => ?_, mtx, conns, parts.trans (keepsParts_updPart _ _ _), pieces⟩
  · simp
  · intro y hy
    simpa using (List.mem_filter.mp hy).2
  · intro y hy
    simpa using (Option.filter_eq_some_iff.mp hy).2
  · dsimp only
    rw [job]
  · dsimp only
    rw [job]

section
variable {d : DescRef} {s : State} {x : Desc} (here : s.desc d = some x) (phase : x.phase = .waiting)
include here phase

theorem descriptorStart_waits (no : s.mayStart x = false ∨ s.asleep = true) : exec (.descriptorStart d) s = .next s := by
  rw [show exec (.descriptorStart d) s = execDescriptorStart d s from rfl, execDescriptorStart, here]
  refine if_neg ?_
  rcases no with h | h <;> simp [h]

theorem descriptorStart_starts (may : s.mayStart x = true) (awake : s.asleep = false) {u : State}
    (eu : u = if x.opcode ∈ [1, 5, 6] then s.modeFirst else s) :
    exec (.descriptorStart d) s = match u.startStatus x with
      | some st => .next ((u.updDesc d (fun x => { x with phase := .running, since := s.clk.wall })).complete d st 0 0)
      | none => .next (u.updDesc d (fun x => { x with phase := .running, since := s.clk.wall })) := by
  rw [show exec (.descriptorStart d) s = execDescriptorStart d s from rfl, execDescriptorStart, here]
  refine (if_pos ⟨phase, may, by simp [awake]⟩).trans ?_
  have same : (if List.contains [1, 5, 6] x.opcode then s.modeFirst else s) = u := by
    rw [eu]
    simp only [List.contains_iff_mem]
  have clk : u.clk = s.clk := by
    rw [eu]
    split
    · exact (within_modeFirst s).touches .clk (by decide)
    · rfl
  dsimp only
  rw [same, clk] <;> rfl

end

/-- The watchdog's work before its descriptor's end: a scheduled start that waits for it is freed, and its operation stopped. -/
def State.watchdogStops (s : State) (d : DescRef) : State :=
  (if (match (s.part d.ring).job with | some j => j.desc == d && !j.going && j.ended.isNone | none => false) then
    s.freeStart d.ring else s).stopOp d d.ring

section
variable {d : DescRef} {s : State} {x : Desc} (here : s.desc d = some x) (phase : x.phase = .running)
  (live : x.expired = false) (set_ : x.watchdog ≠ 0)
include here phase live set_

theorem descriptorWatchdog_early (early : s.clk.wall ≤ x.since + usec x.watchdog) :
    exec (.descriptorWatchdog d) s = .next s := by
  rw [show exec (.descriptorWatchdog d) s = execDescriptorWatchdog d s from rfl, execDescriptorWatchdog, here]
  exact if_neg (by omega)

theorem descriptorWatchdog_late (late : x.since + usec x.watchdog < s.clk.wall) :
    exec (.descriptorWatchdog d) s = .next (if (s.watchdogStops d).opGoesOn d then
      (if x.orphan then s.watchdogStops d else (s.watchdogStops d).owe x stTimeout 0 0).updDesc d
        (fun x => { x with expired := true })
    else (s.watchdogStops d).complete d stTimeout 0 0) := by
  rw [show exec (.descriptorWatchdog d) s = execDescriptorWatchdog d s from rfl, execDescriptorWatchdog, here]
  refine (if_pos ⟨phase, by simp [live], set_, late⟩).trans ?_
  rw [apply_ite Host.Outcome.next]
  rfl

end

/-- The state after the watchdog's work and before its descriptor's end. -/
theorem watchdogStops_spec (s : State) (d : DescRef) : ∃ u, s.watchdogStops d = u.stopOp d d.ring ∧ Frame [.regs] cmpRegs s u := by
  refine ⟨_, rfl, ?_⟩
  exact .ite (frame_freeStart ..) (.refl ..)

/-- Settles O34: the start by what may start and by its first failing check, the FENCE and the HALT, and the watchdog by whether
its operation goes on. -/
theorem descriptorsStartAndEnd : Obligations.DescriptorsStartAndEnd := by
  unfold Obligations.DescriptorsStartAndEnd
  intro d s x
  refine ⟨fun here phase live => ⟨descriptorStart_waits here phase, fun u may awake eu => ?starts⟩, fun begun => ?fence,
    fun begun => ?halt, fun here phase live set_ => ⟨descriptorWatchdog_early here phase live set_, fun late => ?late⟩⟩
  case starts =>
    have run := descriptorStart_starts here phase may awake eu
    refine ⟨fun none_ => by rw [run, none_], fun st fails => ?_⟩
    rw [fails] at run
    have first : OnlyTouches [.regs] s u := by
      rw [eu]
      split
      · exact (within_modeFirst s).touches
      · exact .refl _ _
    have ref := desc_ref here
    have here' : u.desc d = some x := (desc_of_descs (first .descs (by decide)) d).trans here
    have started := desc_updDesc_self here' (fun x => { x with phase := .running, since := s.clk.wall }) rfl (fun _ => rfl)
    obtain ⟨done, pieces⟩ := complete_spec started live st 0 0
    have moved : OnlyTouches [.descs] u (u.updDesc d (fun x => { x with phase := .running, since := s.clk.wall })) :=
      (within_updDesc _ _ _).touches
    obtain ⟨left, owed, orphan⟩ := done
    refine ⟨_, run, ⟨?_, ?_, ?_⟩, ?_, (first.mono (by decide)).trans ((moved.mono (by decide)).trans (pieces.mono (by decide)))⟩
    · rw [left, ref, filter_updDesc u d (fun x => { x with phase := .running, since := s.clk.wall }) (fun _ => rfl),
        first .descs (by decide)]
    · intro own
      rw [owed own, ringPair_of_rings (moved .rings (by decide)), ringPair_of_rings (first .rings (by decide)), State.gtime,
        moved .clk (by decide), first .clk (by decide)]
      rfl
    · intro own
      rw [orphan own, ringPair_of_rings (moved .rings (by decide)), ringPair_of_rings (first .rings (by decide))]
    · rw [(pieces .regs (by decide)).1, (moved .regs (by decide)).1]
  case fence =>
    obtain ⟨here, _, live, _⟩ := begun_iff.mp begun
    exact ⟨_, onDesc_begun begun (fun _ s => s.complete d stDone 0 0), complete_spec here live stDone 0 0⟩
  case halt =>
    obtain ⟨here, _, live, _⟩ := begun_iff.mp begun
    have run := onDesc_begun begun (fun x s => if (s.part d.ring).faulted || (s.part d.ring).run != .running then
        s.complete d stDone 0 0
      else if d ∈ (s.part d.ring).halts then s
      else s.updPart d.ring (fun p => { p with
        halts := p.halts ++ [d]
        job := p.job.map (fun j => { j with stop := some (max (x.arg 0x10 1) (j.stop.getD 0)) }) }))
    rw [show s.onDesc d 3 _ = exec (.halt d) s from rfl] at run
    refine ⟨fun stopped => ?_, fun running good new => ?_, fun running good old => ?_⟩
    · refine ⟨_, run.trans (congrArg Host.Outcome.next (if_pos ?_)), complete_spec here live stDone 0 0⟩
      rcases stopped with h | h <;> simp [h]
    · exact run.trans (congrArg Host.Outcome.next ((if_neg (by simp [running, good])).trans (if_neg new)))
    · exact run.trans (congrArg Host.Outcome.next ((if_neg (by simp [running, good])).trans (if_pos old)))
  case late =>
    have run := descriptorWatchdog_late here phase live set_ late
    obtain ⟨u, eu, freed⟩ := watchdogStops_spec s d
    obtain ⟨v, ev⟩ : ∃ v, u.stopOp d d.ring = v := ⟨_, rfl⟩
    obtain ⟨halts, tables, restore, load, job, noJob, mtx, conns, keeps, pieces⟩ := stopOp_spec u d d.ring
    rw [eu, ev] at run
    rw [ev] at halts tables restore load job noJob mtx conns keeps pieces
    have part : u.part d.ring = s.part d.ring := part_through freed.pieces _
    rw [part] at load job noJob
    have all : OnlyTouches [.regs, .parts, .hall] s v := (freed.pieces.mono (by decide)).trans (pieces.mono (by decide))
    have here' : v.desc d = some x := (desc_of_descs (all .descs (by decide)) d).trans here
    have goesOn : v.opGoesOn d = (x.opcode == 8 || (x.opcode == 7 && !(x.arg 0x28 1).testBit 2) ||
        (match (v.part d.ring).job with | some j => j.desc == d | none => false) ||
        (match (s.part d.ring).load with | some l => l.desc == d | none => false)) := by
      rw [State.opGoesOn, here', load] <;> rfl
    have regs : KeepsRegs cmpRegs s v := fun o ho => (State.reg_of_regs (pieces .regs (by decide)).1 o).trans (freed.regs o ho)
    have parts : KeepsParts [d.ring.val] s v := ((KeepsParts.refl [d.ring.val] s).through freed.pieces).trans keeps
    have hall : u.hall = s.hall := freed.pieces .hall (by decide)
    rw [hall] at mtx conns
    refine ⟨fun code single load' job' => ?done, fun more => ?on⟩
    case done =>
      have ends : v.opGoesOn d = false := by
        have noLoad : (match (s.part d.ring).load with | some l => l.desc == d | none => false) = false := by
          cases e : (s.part d.ring).load with
          | none => rfl
          | some l => exact beq_false_of_ne (load' l e)
        have over_ : (match (v.part d.ring).job with | some j => j.desc == d | none => false) = false := by
          cases e : (s.part d.ring).job with
          | none => rw [noJob e]
          | some j =>
            rw [job j e]
            by_cases own : j.desc = d
            · obtain ⟨idle, none_⟩ := job' j e own
              rw [if_pos own, if_neg (by simp [idle, none_])]
            · rw [if_neg own]
              exact beq_false_of_ne own
        rw [goesOn, noLoad, over_]
        by_cases seven : x.opcode = 7
        · simp [seven, single seven]
        · simp [code, seven]
      rw [ends, if_neg Bool.false_ne_true] at run
      obtain ⟨done, left⟩ := complete_after all here live stTimeout 0 0
      have part' := part_through left d.ring
      have hall' : (v.complete d stTimeout 0 0).hall = v.hall := left .hall (by decide)
      refine ⟨_, run, done, ?_, ?_, ?_, fun j e => ?_, ?_, ?_, parts.through left, fun o ho => ?_,
        (all.mono (by decide)).trans (left.mono (by decide))⟩
      · rw [part']
        exact halts
      · rw [part']
        exact tables
      · rw [part']
        exact restore
      · rw [part', job j e]
        by_cases own : j.desc = d
        · obtain ⟨idle, none_⟩ := job' j e own
          rw [if_pos own, if_pos own, if_neg (by simp [idle, none_])]
        · rw [if_neg own, if_neg own]
      · rw [hall', mtx]
      · rw [hall', conns]
      · rw [State.reg_of_regs (left .regs (by decide)).1, regs o ho]
    case on =>
      have goes : v.opGoesOn d = true := by
        rw [goesOn]
        rcases more with h | ⟨h, single⟩ | ⟨l, h, own⟩ | ⟨j, h, own, busy⟩
        · simp [h]
        · simp [h, single]
        · simp [h, own]
        · have kept : (v.part d.ring).job = some { j with stop := some 1 } := by
            rw [job j h, if_pos own, if_pos (by simpa using busy)]
          simp [kept, own]
      rw [goes, if_pos rfl] at run
      obtain ⟨w, ew⟩ : ∃ w, (if x.orphan then v else v.owe x stTimeout 0 0) = w := ⟨_, rfl⟩
      rw [ew] at run
      have owing : OnlyTouches [.rings] v w := by
        rw [← ew]
        split
        · exact .refl _ _
        · exact (within_owe ..).touches
      have last : OnlyTouches [.rings, .descs] v (w.updDesc d (fun x => { x with expired := true })) :=
        (owing.mono (by decide)).trans ((within_updDesc _ _ _).touches.mono (by decide))
      have part' := part_through last d.ring
      have ref := desc_ref here
      have owed : (w.ringPair d.port d.ring).owed = (v.ringPair d.port d.ring).owed ++ (if x.orphan then [] else
          [(completionBytes x stTimeout 0 0 v.gtime, (leAt x.bytes 1 1).testBit 0)]) := by
        rw [← ew, ← ref]
        split
        · exact (List.append_nil _).symm
        · exact owed_owe ..
      refine ⟨_, run, desc_updDesc_self ((desc_of_descs (owing .descs (by decide)) d).trans here')
          (fun x => { x with expired := true }) rfl (fun _ => rfl), ?_, fun j e own busy => ?_, ?_, ?_, parts.through last,
        fun o ho => ?_, (all.mono (by decide)).trans (last.mono (by decide))⟩
      · rw [show (w.updDesc d _).ringPair d.port d.ring = w.ringPair d.port d.ring from rfl, owed,
          ringPair_of_rings (all .rings (by decide)), State.gtime, all .clk (by decide)]
        rfl
      · rw [part', job j e, if_pos own, if_pos (by simpa using busy)]
      · rw [part', load]
      · rw [last .hall (by decide), conns]
      · rw [State.reg_of_regs (last .regs (by decide)).1, regs o ho]

/-! ## LOAD_BINDING and the table store of a core (R92, R180) -/

/-- A Binding image of one quire, with no segment, whose one section requests a staging region in an edge buffer. -/
def stagingImage : List Byte :=
  [(0, [0x50, 0x42, 0x4E, 0x44, 1, 0, 0, 0, 1, 1, 0, 0, 1, 0, 1, 0]), (0x10, leBytes 8 328), (0x18, leBytes 8 0x100),
    (0x40, leBytes 32 84168894511684051886006883475036781799135585075834411636982294708005129399376),
    (0x100, [4]), (0x104, [1]), (0x108, leBytes 8 320), (0x110, [8]), (320, [2, 0, 0, 6])].foldl
      (fun m (e : Nat × List Byte) => overlay m e.1 e.2) (zeros 328)

/-- A LOAD_BINDING of that image at 0x1000, with a run seed. -/
def loadDesc : Desc :=
  { ref := ⟨.a, 0, 0⟩, bytes := padTo 64 ([1, 0] ++ zeros 14 ++ leBytes 8 0x1000 ++ [1]), head := 1, phase := .running }

/-- That load on an empty partition, one table entry of whose core 0 holds a byte. -/
def tableLoadState : State :=
  { boot := { published := true, inReset := false }, parts := [(0, { run := .empty, qrows := 1, qcols := 1 })]
    descs := [loadDesc], mem := Table.put zeroByte (Table.putSpan zeroByte [] 0x1000 stagingImage) (tableAt 0 0 0) 1 }

/-- Every check of that load passes, and its regions can be had. -/
theorem tableLoadState_passes :
    tableLoadState.begun ⟨.a, 0, 0⟩ 1 = some loadDesc ∧
    (tableLoadState.part 0).load = none ∧ tableLoadState.readImage 0 0x1000 = (.ok stagingImage, tableLoadState) ∧
    Image.ok stagingImage tableLoadState.device 0 (tableLoadState.part 0).qcols true = true ∧
    tableLoadState.loadStatus 0 stagingImage = none ∧
    ((tableLoadState.freeRegions 0).allocAll 0
      ((Image.regionReqs stagingImage).zip ((tableLoadState.placeRegions 0 (Image.regionReqs stagingImage)).getD []))).isSome = true := by
  decide +kernel

/-- A LOAD_BINDING with a run seed whose checks pass begins its broadcast (R180). -/
theorem loadBinding_starts {d : DescRef} {s w : State} {x : Desc} {m : Image} {regions : List Region} (begun : s.begun d 1 = some x)
    (idle : (s.part d.ring).load = none) (read : s.readImage d.ring (x.arg 0x10 8) = (.ok m, s))
    (seeded : (x.arg 0x18 1).testBit 0 = true) (ok : Image.ok m s.device d.ring (s.part d.ring).qcols true = true)
    (status : s.loadStatus d.ring m = none)
    (placed : (s.freeRegions d.ring).allocAll d.ring (m.regionReqs.zip ((s.placeRegions d.ring m.regionReqs).getD [])) =
      some (w, regions)) :
    ∃ l b, exec (.loadBinding d) s = .next (w.startLoad d.ring l b) ∧ OnlyTouches [.regs] s w := by
  refine ⟨{ desc := d, image := m, since := s.mc, seed := some (slice x.bytes 0x20 32), key := none, gone := m.segments.isEmpty },
    m.binding d.ring regions, ?_, (within_freeRegions ..).touches.trans (within_allocAll placed).touches⟩
  have key : s.keyStep m (some (slice x.bytes 0x20 32)) = .key none s := if_pos (by simp)
  rw [show exec (.loadBinding d) s = execLoadBinding d s from rfl, execLoadBinding, begun]
  dsimp only
  rw [if_neg (by simp [idle]), seeded, if_pos rfl, read]
  dsimp only
  rw [if_neg (by simp [ok]), status]
  dsimp only
  rw [key]
  dsimp only
  rw [placed]

/-- A load that begins leaves memory as the clearing of its cores' tiles does. -/
theorem mem_startLoad (s : State) (q : Nat) (l : Load) (b : Binding) :
    (s.startLoad q l b).mem = s.mem.filter (fun e => !inTiles (s.partCores q) e.1) := by
  have cores (ns : List Nat) (t : State) : (ns.foldl (fun t n => t.updCore n CoreState.toLoad) t).mem = t.mem :=
    (Within.foldl (ps := [.cores]) (fun t n => (within_updCore t n _).mono) ns (.refl _ t)).touches .mem (by decide)
  exact cores ..

/-- The clearing takes the bytes of a core below its table store, and leaves those of the table store. -/
theorem tableLoadState_keeps : Table.look zeroByte
    (tableLoadState.mem.filter (fun e => !inTiles (tableLoadState.partCores 0) e.1)) (tableAt 0 0 0) = 1 := by
  decide +kernel

/-- Refutes O35: the statement has the 128 KiB below a core's accumulators read as zero once a load has begun, and the model
clears the 120 KiB below its table store: a table entry keeps its byte. -/
theorem not_loadsComplete : ¬ Obligations.LoadsComplete := by
  unfold Obligations.LoadsComplete
  rintro ⟨loads, -⟩
  obtain ⟨begun, idle, read, ok, status, placed⟩ := tableLoadState_passes
  obtain ⟨⟨w, regions⟩, placed⟩ := Option.isSome_iff_exists.mp placed
  obtain ⟨t, run, -, -, -, -, -, cleared, -⟩ :=
    (((((loads ⟨.a, 0, 0⟩ tableLoadState loadDesc begun).2 idle).2 stagingImage tableLoadState (some (slice loadDesc.bytes 0x20 32))
      read rfl).2 ok).2 status).2.2 none tableLoadState rfl |>.2 w regions placed
  obtain ⟨l, b, run', found⟩ := loadBinding_starts begun idle read rfl ok status placed
  obtain rfl := Host.Outcome.next.inj (run.symm.trans run')
  have zero := (cleared 0 (by decide +kernel)).2 0x1E000 (by decide)
  have kept := tableLoadState_keeps
  rw [State.byteAt, mem_startLoad, found .mem (by decide), State.partCores, part_through found] at zero
  exact absurd (kept.symm.trans zero) (by decide)

end Sys2Proof.Machine
end

section
/-! PROOFS. The host ports: runs, their Colophons, and tables. -/

namespace Sys2Proof.Machine

open Sys2Proof

-- One theorem after another: many at once would need too many threads.
set_option Elab.async false

/-! ## Changes of ARR_MODE, and the digests of a run (R212, R225, R228) -/

theorem frame_modeWrite (s : State) (det : Bool) : Frame [.regs] [Reg.arrMode] s (s.modeWrite det) :=
  .ite (.refl ..) (.ite (frame_setRf ..) (frame_raise ..))

theorem frame_modeFirst (s : State) : Frame [.regs] [Reg.arrMode] s s.modeFirst := by
  unfold State.modeFirst
  refine .foldl (fun t i => ?_) _ s
  split
  · exact .ite (frame_modeWrite ..) (.refl ..)
  · exact .refl ..

theorem frame_readItems (s : State) (tag : Nat) (l : List (Nat × Nat)) :
    Frame [.regs, .flt] dramRegs s (s.readItems tag l).2 := by
  induction l generalizing s with
  | nil => exact .refl ..
  | cons e l ih =>
    unfold State.readItems
    extract_lets k t r
    have read : Frame [.regs, .flt] dramRegs s t := frame_dramRead ..
    split
    · exact read
    · exact read.trans (ih t)

/-- The digest of the weight ranges: the cached one, or the one that the ranges give. -/
def State.weighed (t : State) (q : Nat) (b : Binding) : Option (List Byte) × State :=
  match (t.part q).colo.weight with
  | some dig => (some dig, t)
  | none => ((t.readItems q (b.rangesOf true)).1.map (fun items => treeDigest (b.weights ++ items)),
      (t.readItems q (b.rangesOf true)).2)

theorem frame_weighed (t : State) (q : Nat) (b : Binding) : Frame [.regs, .flt] dramRegs t (t.weighed q b).2 := by
  unfold State.weighed
  split
  · exact .refl ..
  · exact frame_readItems ..

/-- The digests of a run, once the reads of its tag and of its weight ranges are made. -/
def State.initDigest (u : State) (q : Nat) (b : Binding) (tag wd : List Byte) : Option (List Byte × List Byte × List Byte) × State :=
  let v := u.updPart q (fun p => { p with colo := { p.colo with weight := some wd } })
  ((v.readItems q (b.rangesOf false)).1.map (fun items => (tag, wd, treeDigest items)), (v.readItems q (b.rangesOf false)).2)

theorem coloStart_eq (s : State) (q : Nat) (b : Binding) (dest : Nat) : s.coloStart q b dest =
    if (s.dramUe (dest + 0xD0) 32).isSome then (none, s.dramRead q (dest + 0xD0) 32)
    else match ((s.dramRead q (dest + 0xD0) 32).weighed q b).1 with
      | none => (none, ((s.dramRead q (dest + 0xD0) 32).weighed q b).2)
      | some wd => ((s.dramRead q (dest + 0xD0) 32).weighed q b).2.initDigest q b (s.rd (dest + 0xD0) 32) wd := rfl

/-- What a run's digests leave: registers and messages of the reads, and the partition's cached weight digest. -/
theorem coloStart_spec (s : State) (q : Nat) (b : Binding) (dest : Nat) : ∃ c,
    (s.coloStart q b dest).2.part q = { s.part q with colo := c } ∧ KeepsParts [q] s (s.coloStart q b dest).2 ∧
    Frame [.regs, .parts, .flt] dramRegs s (s.coloStart q b dest).2 := by
  rw [coloStart_eq]
  have read := frame_dramRead s q (dest + 0xD0) 32
  have first := read.trans (frame_weighed (s.dramRead q (dest + 0xD0) 32) q b)
  split
  · exact ⟨_, part_through read.pieces q, read.pieces.keepsParts (by decide) _, read.mono⟩
  · split
    · exact ⟨_, part_through first.pieces q, first.pieces.keepsParts (by decide) _, first.mono⟩
    next wd _ =>
      obtain ⟨u, eu⟩ : ∃ u, ((s.dramRead q (dest + 0xD0) 32).weighed q b).2 = u := ⟨_, rfl⟩
      rw [eu] at first ⊢
      unfold State.initDigest
      extract_lets v
      have noted : Frame [.parts] [] u v := frame_updPart ..
      have kept : KeepsParts [q] u v := keepsParts_updPart _ _ _
      have part : v.part q = { u.part q with colo := { (u.part q).colo with weight := some wd } } := State.part_updPart_self ..
      have last := frame_readItems v q (b.rangesOf false)
      clear_value v
      rw [part_through first.pieces] at part
      refine ⟨_, (part_through last.pieces q).trans part,
        ((first.pieces.keepsParts (by decide) _).trans kept).through last.pieces, ?_⟩
      exact (first.mono (ps := [.regs, .parts, .flt]) (rs := dramRegs)).trans
        ((noted.mono (ps := [.regs, .parts, .flt]) (rs := dramRegs)).trans last.mono)

/-! ## The release of a stopped partition (R67) -/

/-- A core as the release from a stop leaves it. -/
def CoreState.released (point : Nat) (e : U64) (c : CoreState) : CoreState :=
  if c.mode = .faulted ∨ c.mode = .empty then c
  else
    let go (l : CoreLive) : CoreLive :=
      if point = 3 then { l with pc := fld e 9 0 } else if point = 0 then l.sweepStart (fld e 25 16) else l
    { c with mode := .running, nextMode := none, live := go c.live, next := go c.next }

theorem CoreState.released_released (point : Nat) (e : U64) (c : CoreState) :
    (c.released point e).released point e = c.released point e := by
  by_cases out : c.mode = .faulted ∨ c.mode = .empty
  · rw [show c.released point e = c from if_pos out]
    exact if_pos out
  · rw [show c.released point e = _ from if_neg out]
    refine (if_neg (by simp)).trans ?_
    dsimp only
    by_cases start : point = 3
    · simp only [start, if_true]
    · by_cases sweep : point = 0
      · simp only [sweep, if_true]
        rfl
      · simp only [start, sweep, if_false]

/-- A released partition: its controller, and each of its cores from its own entry register. -/
theorem startRun_spec (s : State) (q : Nat) :
    (s.startRun q).part q = { s.part q with
      run := .running, epoch := (s.part q).tick, resumeIn := none
      freezeAt := if (s.part q).faultHold then some ((s.part q).tick + 40) else none, froze := false
      job := (s.part q).job.map (fun j => { j with going := true }) } ∧
    (∀ n ∈ s.partCores q, (s.startRun q).core n = (s.core n).released (s.part q).point (s.reg (Reg.coreEntry n))) ∧
    KeepsCores (s.partCores q) s (s.startRun q) ∧ KeepsParts [q] s (s.startRun q) ∧
    OnlyTouches [.cores, .parts] s (s.startRun q) := by
  unfold State.startRun
  extract_lets point u
  have fixed : u = (s.partCores q).foldl
      (fun t n => t.updCore n (CoreState.released (s.part q).point (s.reg (Reg.coreEntry n)))) s :=
    foldl_congr_of (P := fun t : State => t.regs = s.regs)
      (g := fun (t : State) n => t.updCore n (CoreState.released (s.part q).point (s.reg (Reg.coreEntry n))))
      (fun t n regs => by rw [State.releaseCore, State.reg_of_regs regs]; rfl) (fun _ _ regs => regs) (s.partCores q) rfl
  have touched : OnlyTouches [.cores] s u := fixed ▸ touches_foldl_updCore _ _ _
  have cores := core_foldl_updCore (f := fun n => CoreState.released (s.part q).point (s.reg (Reg.coreEntry n)))
    (fun n k => CoreState.released_released _ _ k) (s.partCores q) s
  rw [← fixed] at cores
  clear_value u
  refine ⟨?_, fun n mem => ?_, fun n mem => ?_, ?_, (touched.mono (by decide)).trans ((touches_updPart _ _ _).mono (by decide))⟩
  · rw [State.part_updPart_self, part_through touched]
  · exact (cores n).trans (if_pos mem)
  · exact (cores n).trans (if_neg mem)
  · exact (touched.keepsParts (by decide) _).trans (keepsParts_updPart _ _ _)

/-- The start of a run, once its digests are taken: its job, and its release now or at its START_TIME (R67, R306). -/
theorem beginRun_now {s : State} {x : Desc} {q : Nat} (now : x.flags.testBit 2 = false ∨ x.arg 0x18 8 ≤ s.gtime)
    (colo : Option (List Byte × List Byte × List Byte)) : s.beginRun x q colo =
      (s.updPart q (fun p => { p with job := some (runJob x p.sweep s.det colo) })).startRun q := by
  rw [State.beginRun]
  split
  · refine if_neg ?_
    rintro ⟨sched, later⟩
    rcases now with h | h
    · exact absurd (sched.symm.trans h) (by decide)
    · exact absurd (show s.gtime < x.arg 0x18 8 from later) (by omega)
  · rfl

theorem beginRun_later {s : State} {x : Desc} {q k : Nat} (sched : x.flags.testBit 2 = true) (later : s.gtime < x.arg 0x18 8)
    (free : s.freeCmp = some k) (colo : Option (List Byte × List Byte × List Byte)) : s.beginRun x q colo =
      (s.updPart q (fun p => { p with job := some (runJob x p.sweep s.det colo) })).setCmp k 2 q (x.arg 0x18 8) true := by
  have free' : (s.updPart q (fun p => { p with job := some (runJob x p.sweep s.det colo) })).freeCmp = some k := free
  rw [State.beginRun]
  rw [free']
  exact if_pos ⟨sched, later⟩

theorem freeCmp_of_regs {s t : State} (h : ∀ k, k < 8 → t.reg (Reg.gtbCmp k + 8) = s.reg (Reg.gtbCmp k + 8)) :
    t.freeCmp = s.freeCmp := by
  refine List.find?_congr fun k hk => ?_
  rw [State.cmpOwner, State.cmpOwner, h k (List.mem_range.mp hk)]

theorem gtbCmp_apart {k : Nat} (small : k < 8) (i : Nat) (less : i ≤ 8) : Reg.gtbCmp k + i ∉ Reg.arrMode :: dramRegs := by
  simp only [dramRegs, List.mem_cons, List.mem_map, List.mem_range, Reg.gtbCmp, Reg.arrMode, Reg.fltStat, Reg.memEccstat]
  rintro (h | h | ⟨c, _, h⟩) <;> omega

section
variable {d : DescRef} {s : State} {x : Desc} (begun : s.begun d 2 = some x)
include begun

/-- RUN_SWEEPS after the writes to ARR_MODE of its cycle. -/
theorem runSweeps_busy (busy : (s.part d.ring).job.isSome = true) : exec (.runSweeps d) s = .next s.modeFirst := by
  rw [show exec (.runSweeps d) s = execRunSweeps d s from rfl, execRunSweeps, begun]
  exact congrArg Host.Outcome.next (if_pos (by rw [part_through (frame_modeFirst s).pieces]; exact busy))

variable (idle : (s.part d.ring).job = none)
include idle

theorem runSweeps_faulted (faulted : (s.part d.ring).faulted = true) :
    exec (.runSweeps d) s = .next (s.modeFirst.complete d stFaulted 0 0) := by
  have part := part_through (frame_modeFirst s).pieces d.ring
  rw [show exec (.runSweeps d) s = execRunSweeps d s from rfl, execRunSweeps, begun]
  refine congrArg Host.Outcome.next ?_
  dsimp only
  rw [part]
  exact (if_neg (by simp [idle])).trans (if_pos faulted)

variable (good : (s.part d.ring).faulted = false)
include good

theorem runSweeps_refused (no : (s.part d.ring).binding = none ∨ (s.part d.ring).run ≠ .loaded) :
    exec (.runSweeps d) s = .next (s.modeFirst.complete d stRefused 0 0) := by
  have part := part_through (frame_modeFirst s).pieces d.ring
  rw [show exec (.runSweeps d) s = execRunSweeps d s from rfl, execRunSweeps, begun]
  refine congrArg Host.Outcome.next ?_
  dsimp only
  rw [part]
  refine (if_neg (by simp [idle])).trans ((if_neg (by simp [good])).trans ?_)
  cases bound : (s.part d.ring).binding with
  | none => rfl
  | some b => exact if_pos (no.resolve_left (by simp [bound]))

variable {b : Binding} (bound : (s.part d.ring).binding = some b) (loaded : (s.part d.ring).run = .loaded)
include bound loaded

theorem runSweeps_fails {st : Nat} (fails : s.modeFirst.runStatus x (s.part d.ring) b = some st) :
    exec (.runSweeps d) s = .next (s.modeFirst.complete d st 0 0) := by
  have part := part_through (frame_modeFirst s).pieces d.ring
  rw [show exec (.runSweeps d) s = execRunSweeps d s from rfl, execRunSweeps, begun]
  refine congrArg Host.Outcome.next ?_
  dsimp only
  rw [part]
  refine (if_neg (by simp [idle])).trans ((if_neg (by simp [good])).trans ?_)
  rw [bound]
  refine (if_neg (by simp [loaded])).trans ?_
  rw [fails]

/-- The state from which a run whose checks passed begins, and what it knows of its digests. -/
def State.runDigests (u : State) (x : Desc) (q : Nat) (b : Binding) : Option (Option (List Byte × List Byte × List Byte)) × State :=
  if (x.arg 0x28 1).testBit 0 then ((u.coloStart q b (x.arg 0x20 8)).1.map some, (u.coloStart q b (x.arg 0x20 8)).2) else (some none, u)

theorem runSweeps_passes (passes : s.modeFirst.runStatus x (s.part d.ring) b = none) : exec (.runSweeps d) s =
    .next (match (s.modeFirst.runDigests x d.ring b).1 with
      | some colo => (s.modeFirst.runDigests x d.ring b).2.beginRun x d.ring colo
      | none => (s.modeFirst.runDigests x d.ring b).2.complete d stFaulted 0 0) := by
  have part := part_through (frame_modeFirst s).pieces d.ring
  rw [show exec (.runSweeps d) s = execRunSweeps d s from rfl, execRunSweeps, begun]
  refine congrArg Host.Outcome.next ?_
  dsimp only
  rw [part]
  refine (if_neg (by simp [idle])).trans ((if_neg (by simp [good])).trans ?_)
  rw [bound]
  refine (if_neg (by simp [loaded])).trans ?_
  rw [passes, State.runDigests]
  dsimp only
  split
  · cases (s.modeFirst.coloStart d.ring b (x.arg 0x20 8)).1 <;> rfl
  · rfl

end

/-! ## The Colophon of a run (R224 to R229) -/

/-- What a partition whose run has ended notes of a write: its cached weight digest may go. -/
theorem noteWrite_ended {p : Partition} {j : Job} {st : Nat} (job : p.job = some j) (ended : j.ended = some st) (a n : Nat) :
    ∃ w, p.noteWrite a n = { p with colo := { p.colo with weight := w } } := by
  unfold Partition.noteWrite
  split
  · exact ⟨_, rfl⟩
  next b _ =>
    extract_lets hit
    have kept : p.job.map (fun j => if j.ended.isSome then j else
        { j with wWritten := j.wWritten || hit true, iWritten := j.iWritten || hit false }) = p.job := by
      rw [job, Option.map_some, if_pos (by simp [ended])]
    rw [kept]
    split
    · exact ⟨none, rfl⟩
    · exact ⟨p.colo.weight, rfl⟩

theorem part_wrDram {s : State} (clean : s.dramErr = []) (tag a : Nat) (bs : List Byte) (q : Nat) :
    (s.wrDram tag a bs).part q = (s.part q).noteWrite a bs.length := by
  rw [wrDram_good clean]
  exact (part_through (touches_wr _ a bs) q).trans (part_noteWrite ..)

theorem colophonRecord_of {s t : State} {q : Nat} {w : Option (List Byte)}
    (part : t.part q = { s.part q with colo := { (s.part q).colo with weight := w } }) (regs : t.regs = s.regs)
    (clk : t.clk = s.clk) (j : Job) (signed : Bool) : t.colophonRecord q j signed = s.colophonRecord q j signed := by
  rw [State.colophonRecord, State.colophonRecord, part, State.gtime, State.gtime, clk, rf_of_reg (State.reg_of_regs regs _),
    rf_of_reg (State.reg_of_regs regs _)]
  rfl

theorem length_padTo (n : Nat) (bs : List Byte) : (padTo n bs).length = n := by
  simp only [padTo, List.length_take, List.length_append, List.length_replicate]
  omega

theorem length_colophonRecord (s : State) (q : Nat) (j : Job) (signed : Bool) : (s.colophonRecord q j signed).length = 256 := by
  simp only [State.colophonRecord, List.length_append, length_leBytes, length_padTo, zeros, List.length_replicate]

/-- A request for a signature: taken with the key, a place in the queue and the source not fatal; refused and counted with the key
alone. -/
theorem askSign_spec (s : State) (y : SignJob) {asked : Bool}
    (ea : asked = (s.provisioned && decide (s.mgt.sign.length < 64) && s.ent.state != .fatal)) :
    (s.askSign y).1 = asked ∧ Frame [.regs, .mgt] [Reg.mgtHealth] s (s.askSign y).2 ∧
    (s.askSign y).2.mgt = (if asked then { s.mgt with sign := s.mgt.sign ++ [y] } else s.mgt) ∧
    (s.provisioned = true → (64 ≤ s.mgt.sign.length ∨ s.ent.state = .fatal) →
      (s.askSign y).2.rf Reg.mgtHealth 31 16 = satAdd (2 ^ 16 - 1) (s.rf Reg.mgtHealth 31 16) 1) := by
  unfold State.askSign
  cases key : s.provisioned with
  | false =>
    have no : asked = false := by simp [ea, key]
    rw [if_pos (by decide), no]
    exact ⟨rfl, .refl .., rfl, fun h => absurd h (by decide)⟩
  | true =>
    rw [if_neg (by decide)]
    by_cases full : 64 ≤ s.mgt.sign.length ∨ s.ent.state = .fatal
    · have no : asked = false := by
        rw [ea, key]
        rcases full with h | h
        · simp [Nat.not_lt.mpr h]
        · simp [h]
      rw [if_pos full, no]
      exact ⟨rfl, (frame_count ..).mono, rfl, fun _ _ => rf_count_self _ _ _ (by decide) (by decide)⟩
    · have yes : asked = true := by
        rw [not_or] at full
        simp [ea, key, Nat.lt_of_not_le full.1, full.2]
      rw [if_neg full, yes]
      exact ⟨rfl, .mono (.of_within (within_mgt (s := s) _)), rfl, fun _ h => absurd h full⟩

/-- A run whose offers are all taken and that waits for nothing is over: its descriptor completes. -/
theorem settleJob_done {s : State} {q : Nat} {j : Job} {st : Nat} (job : (s.part q).job = some j) (ended : j.ended = some st)
    (offers : (s.part q).owedOffers = []) (written : j.colophon = none) (signed : j.sign = false) :
    s.settleJob q = (s.updPart q (fun p => { p with job := none })).complete j.desc st 0 j.taken := by
  rw [State.settleJob, job]
  dsimp only
  rw [ended]
  exact if_pos (by simp [offers, written, signed])

/-- A run that waits for its signature goes on waiting. -/
theorem settleJob_waits {s : State} {q : Nat} {j : Job} (job : (s.part q).job = some j) (signed : j.sign = true) :
    s.settleJob q = s := by
  rw [State.settleJob, job]
  dsimp only
  split
  · rfl
  · exact if_neg (by simp [signed])

/-- What is noted as a Colophon is written: its record's signature, where the run asks for one. -/
def State.colophonSigns (s : State) (q : Nat) (j : Job) (dest : Nat) : Bool × State :=
  if j.sign then s.askSign ⟨s.colophonRecord q j true, dest, some (q, j.desc), none, none⟩ else (false, s)

/-- The state after a Colophon is written, before its run ends. -/
def State.colophonNoted (s : State) (q : Nat) (signed : Bool) : State :=
  s.updPart q (fun p => { p with
    colo := { p.colo with seq := p.colo.seq + 1 }
    job := p.job.map (fun j => { j with colophon := none, sign := signed }) })

section
variable {q : QuireId} {s : State} {j : Job} {st dest : Nat} (job : (s.part q).job = some j) (ended : j.ended = some st)
  (wanted : j.colophon = some dest)
include job ended wanted

theorem colophonWrite_waits (offers : (s.part q).owedOffers ≠ []) : exec (.colophonWrite q) s = .next s := by
  rw [show exec (.colophonWrite q) s = .next (s.writeColophon q) from rfl, State.writeColophon, job]
  dsimp only
  rw [ended, wanted]
  exact congrArg Host.Outcome.next (if_neg (by simpa using offers))

theorem colophonWrite_writes (offers : (s.part q).owedOffers = []) {w : State}
    (ew : s.wrDram q dest (s.colophonRecord q j false ++ zeros 1536) = w) :
    exec (.colophonWrite q) s = .next (((w.colophonSigns q j dest).2.colophonNoted q (w.colophonSigns q j dest).1).settleJob q) := by
  rw [show exec (.colophonWrite q) s = .next (s.writeColophon q) from rfl, State.writeColophon, job]
  dsimp only
  rw [ended, wanted]
  refine congrArg Host.Outcome.next ((if_pos (by simp [offers])).trans ?_)
  rw [ew]
  rfl

/-- The write of a Colophon to good memory (R226, R228, R229). -/
theorem colophonWrite_spec (offers : (s.part q).owedOffers = []) (clean : s.dramErr = []) {y : SignJob}
    (ey : y = ⟨s.colophonRecord q j true, dest, some (q.val, j.desc), none, none⟩) {asked : Bool}
    (ea : asked = (j.sign && s.provisioned && decide (s.mgt.sign.length < 64) && s.ent.state != .fatal)) :
    ∃ t, exec (.colophonWrite q) s = .next t ∧ t.rd dest 256 = s.colophonRecord q j false ∧
      t.rd (dest + 256) 1536 = zeros 1536 ∧ KeepsBytes dest 1792 s t ∧ (t.part q).colo.seq = (s.part q).colo.seq + 1 ∧
      (asked = false → (t.part q).job = none ∧ t.mgt = s.mgt ∧
        (∀ x, s.desc j.desc = some x → x.expired = false → DoneAs x st 0 j.taken s t)) ∧
      (asked = true → (t.part q).job = some { j with colophon := none, sign := true } ∧
        t.mgt = { s.mgt with sign := s.mgt.sign ++ [y] } ∧ t.descs = s.descs ∧ t.rings = s.rings) ∧
      (j.sign = true → s.provisioned = true → (64 ≤ s.mgt.sign.length ∨ s.ent.state = .fatal) →
        t.rf Reg.mgtHealth 31 16 = satAdd (2 ^ 16 - 1) (s.rf Reg.mgtHealth 31 16) 1) ∧
      KeepsPartsSaveNotes [q.val] s t ∧ KeepsRegs (Reg.mgtHealth :: hostRegs) s t ∧
      OnlyTouches [.regs, .mem, .parts, .rings, .descs, .mgt] s t := by
  have size : (s.colophonRecord q j false ++ zeros 1536).length = 256 + 1536 := by
    rw [List.length_append, length_colophonRecord, zeros, List.length_replicate]
  have part := part_wrDram clean q dest (s.colophonRecord q j false ++ zeros 1536) q
  have stores := stores_wrDram clean q dest (s.colophonRecord q j false ++ zeros 1536)
  have keeps := keepsBytes_wrDram clean q dest (s.colophonRecord q j false ++ zeros 1536)
  have bytes := rd_wrDram_self clean q dest (s.colophonRecord q j false ++ zeros 1536)
  obtain ⟨c, noted⟩ := noteWrite_ended job ended dest (s.colophonRecord q j false ++ zeros 1536).length
  rw [noted] at part
  obtain ⟨w, ew⟩ : ∃ w, s.wrDram q dest (s.colophonRecord q j false ++ zeros 1536) = w := ⟨_, rfl⟩
  have run := colophonWrite_writes job ended wanted offers ew
  rw [ew] at stores keeps bytes part
  rw [size] at keeps bytes
  rw [rd_append] at bytes
  obtain ⟨record, blank⟩ := List.append_inj bytes (by rw [rd_length, length_colophonRecord])
  have regs := (stores.pieces .regs (by decide)).1
  have clk := stores.pieces .clk (by decide)
  have mgt := stores.pieces .mgt (by decide)
  have provisioned : w.provisioned = s.provisioned := by
    rw [State.provisioned, State.provisioned, stores.pieces .fuse (by decide), stores.pieces .flash (by decide)]
  have ent := stores.pieces .ent (by decide)
  obtain ⟨r, er⟩ : ∃ r, w.colophonSigns q j dest = r := ⟨_, rfl⟩
  have signs : r.1 = asked ∧ Frame [.regs, .mgt] [Reg.mgtHealth] w r.2 ∧
      r.2.mgt = (if asked then { s.mgt with sign := s.mgt.sign ++ [y] } else s.mgt) ∧
      (j.sign = true → s.provisioned = true → (64 ≤ s.mgt.sign.length ∨ s.ent.state = .fatal) →
        r.2.rf Reg.mgtHealth 31 16 = satAdd (2 ^ 16 - 1) (s.rf Reg.mgtHealth 31 16) 1) := by
    rw [← er, State.colophonSigns]
    cases sign : j.sign with
    | false =>
      rw [if_neg (by decide)]
      have no : asked = false := by simp [ea, sign]
      rw [no]
      exact ⟨rfl, .refl .., mgt, fun h => absurd h (by decide)⟩
    | true =>
      rw [if_pos rfl, colophonRecord_of part regs clk, ← ey]
      obtain ⟨takes, frame, queue, counts⟩ := askSign_spec w y (asked := asked)
        (by rw [ea, sign, provisioned, mgt, ent, Bool.true_and])
      rw [mgt] at queue
      rw [provisioned, mgt, ent, rf_of_reg (State.reg_of_regs regs _)] at counts
      exact ⟨takes, frame, queue, fun _ => counts⟩
  obtain ⟨takes, frame, queue, counts⟩ := signs
  rw [er, takes] at run
  obtain ⟨v, ev⟩ : ∃ v, r.2 = v := ⟨_, rfl⟩
  rw [ev] at run frame queue counts
  have vPart : v.part q = { s.part q with colo := { (s.part q).colo with weight := c } } := (part_through frame.pieces _).trans part
  obtain ⟨u, eu⟩ : ∃ u, v.colophonNoted q asked = u := ⟨_, rfl⟩
  have uPart : u.part q = { s.part q with
      colo := { (s.part q).colo with weight := c, seq := (s.part q).colo.seq + 1 }
      job := some { j with colophon := none, sign := asked } } := by
    rw [← eu, State.colophonNoted, State.part_updPart_self, vPart, job]
    rfl
  have uFrame : Frame [.parts] [] v u := eu ▸ frame_updPart ..
  have uKeeps : KeepsParts [q.val] v u := eu ▸ keepsParts_updPart _ _ _
  rw [eu] at run
  have uJob : (u.part q).job = some { j with colophon := none, sign := asked } := by rw [uPart]
  have uOffers : (u.part q).owedOffers = [] := by
    rw [uPart]
    exact offers
  have before : OnlyTouches [.regs, .mem, .parts, .mgt] s u := (stores.pieces.mono (by decide)).trans
    ((frame.pieces.mono (by decide)).trans (uFrame.pieces.mono (by decide)))
  have settled : Frame [.regs, .parts, .rings, .descs] hostRegs u (u.settleJob q) := frame_settleJob ..
  have late : KeepsParts [q.val] u (u.settleJob q) := by
    cases asked with
    | true =>
      rw [settleJob_waits uJob rfl]
      exact fun _ _ => rfl
    | false =>
      rw [settleJob_done uJob ended uOffers rfl rfl]
      exact (keepsParts_updPart _ _ _).through (frame_complete ..).pieces
  have tail : Frame [.regs, .parts, .rings, .descs, .mgt] (Reg.mgtHealth :: hostRegs) w (u.settleJob q) :=
    (settled.mono).comp ((uFrame.mono).comp (frame.mono))
  have mem : (u.settleJob q).mem = w.mem := tail.pieces .mem (by decide)
  refine ⟨_, run, ?_, ?_, ?_, ?_, fun no => ?_, fun yes => ?_, fun sign key full => ?_, ?_, ?_,
    before.mono (by decide) |>.trans (settled.pieces.mono (by decide))⟩
  · rw [rd_of_mem mem]
    exact record
  · rw [rd_of_mem mem]
    exact blank
  · exact fun a far => (congrArg (Table.look zeroByte · a) mem).trans (keeps a far)
  · have seq : ((u.settleJob q).part q).colo = (u.part q).colo := by
      obtain ⟨k, e⟩ := part_settleJob u q
      rw [e]
    rw [seq, uPart]
  · subst no
    have done := settleJob_done uJob ended uOffers rfl rfl
    have kept := (frame_updPart u q (fun p => { p with job := none }))
    refine ⟨?_, ?_, fun x here live => ?_⟩
    · rw [done, part_through (frame_complete ..).pieces, State.part_updPart_self]
    · rw [settled.pieces .mgt (by decide), uFrame.pieces .mgt (by decide), queue]
      rfl
    · have all : OnlyTouches [.regs, .mem, .parts, .mgt] s (u.updPart q (fun p => { p with job := none })) :=
        before.trans (kept.pieces.mono (by decide))
      rw [done]
      exact (complete_after all here live st 0 j.taken).1
  · subst yes
    rw [settleJob_waits uJob rfl]
    exact ⟨uJob, by rw [uFrame.pieces .mgt (by decide), queue, if_pos rfl], before .descs (by decide), before .rings (by decide)⟩
  · have apart : Reg.mgtHealth ∉ hostRegs := by decide
    rw [settled.rf apart, uFrame.rf (by simp)]
    exact counts sign key full
  · intro p far
    obtain ⟨k, i, e⟩ := stores.notes p
    have same : (u.settleJob q).part p = w.part p :=
      (late p far).trans ((uKeeps p far).trans (part_through frame.pieces p))
    rw [same, e]
  · exact fun o far => (tail.regs o far).trans (State.reg_of_regs regs o)

end

theorem index_setCmp (s : State) (k : Nat) {owner index : Nat} (time : Nat) (armed : Bool) (small : owner < 256) :
    (s.setCmp k owner index time armed).rf (Reg.gtbCmp k + 8) 15 8 = index % 256 := by
  rw [State.setCmp, State.rf, State.reg_setReg_self, fld, BitVec.toNat_ofNat, bitsN_eq]
  split <;> omega

theorem coreEntry_apart (n : Nat) : Reg.coreEntry n ∉ Reg.arrMode :: dramRegs := by
  simp only [dramRegs, List.mem_cons, List.mem_map, List.mem_range, Reg.coreEntry, Reg.arrMode, Reg.fltStat, Reg.memEccstat]
  rintro (h | h | ⟨c, _, h⟩) <;> omega

theorem runDigests_spec (u : State) (x : Desc) (q : Nat) (b : Binding) : ∃ c,
    (u.runDigests x q b).2.part q = { u.part q with colo := c } ∧ KeepsParts [q] u (u.runDigests x q b).2 ∧
    Frame [.regs, .parts, .flt] dramRegs u (u.runDigests x q b).2 := by
  unfold State.runDigests
  split
  · exact coloStart_spec ..
  · exact ⟨_, rfl, fun _ _ => rfl, .refl ..⟩

/-- Settles O36: the first failing check of a run, the run that begins from the state after its digests, and the Colophon. -/
theorem runsStartAndEnd : Obligations.RunsStartAndEnd := by
  unfold Obligations.RunsStartAndEnd
  refine ⟨fun d s u x begun eu => ?run, fun q s j st dest y job ended wanted ey => ⟨colophonWrite_waits job ended wanted,
    fun offers clean => ?colophon⟩⟩
  case colophon =>
    obtain ⟨t, run, record, blank, keeps, seq, no, yes, counts, parts, regs, pieces⟩ :=
      colophonWrite_spec job ended wanted offers clean ey rfl
    exact ⟨t, run, record, blank, keeps, seq, fun asked ea => by subst ea; exact ⟨no, yes⟩, counts, parts, regs, pieces⟩
  case run =>
    subst eu
    refine ⟨runSweeps_busy begun, fun idle => ⟨runSweeps_faulted begun idle, runSweeps_refused begun idle,
      fun b good bound loaded => ⟨fun st => runSweeps_fails begun idle good bound loaded, fun passes => ?_⟩⟩⟩
    have run := runSweeps_passes begun idle good bound loaded passes
    refine ⟨fun wants fails => ?_, fun colo digests => ?_⟩
    · rw [State.runDigests, if_pos wants, fails] at run
      exact run
    have known : (s.modeFirst.runDigests x d.ring b).1 = some colo := by
      rw [State.runDigests]
      rcases digests with ⟨plain, rfl⟩ | ⟨wants, some_, e⟩
      · rw [if_neg (by simp [plain])]
      · obtain ⟨k, rfl⟩ := Option.isSome_iff_exists.mp some_
        rw [if_pos wants, e]
        rfl
    obtain ⟨c, part, keeps, frame⟩ := runDigests_spec s.modeFirst x d.ring b
    obtain ⟨w, ew⟩ : ∃ w, (s.modeFirst.runDigests x d.ring b).2 = w := ⟨_, rfl⟩
    rw [known, ew] at run
    dsimp only at run
    rw [ew] at part keeps frame
    have mode := frame_modeFirst s
    have all : Frame [.regs, .parts, .flt] (Reg.arrMode :: dramRegs) s w := (frame.mono).comp (mode.mono)
    have det : w.det = s.modeFirst.det := by rw [State.det, State.det, frame.rf (by decide)]
    have free : w.freeCmp = s.freeCmp := freeCmp_of_regs fun k small => all.reg (gtbCmp_apart small 8 (Nat.le_refl 8))
    have gtime : w.gtime = s.gtime := by rw [State.gtime, State.gtime, all.pieces .clk (by decide)]
    have keepsAll : KeepsParts [d.ring.val] s w := (mode.pieces.keepsParts (by decide) _).trans keeps
    rw [part_through mode.pieces] at part
    have job := frame_updPart w d.ring (fun p => { p with job := some (runJob x p.sweep w.det colo) })
    have jobPart := State.part_updPart_self w d.ring (fun p => { p with job := some (runJob x p.sweep w.det colo) })
    have jobKeeps := keepsParts_updPart w d.ring (fun p => { p with job := some (runJob x p.sweep w.det colo) })
    refine ⟨fun now => ?now, fun sched later k cmp => ?later⟩
    case now =>
      rw [beginRun_now (by rw [gtime]; exact now)] at run
      obtain ⟨v, ev⟩ : ∃ v, w.updPart d.ring (fun p => { p with job := some (runJob x p.sweep w.det colo) }) = v := ⟨_, rfl⟩
      rw [ev] at run job jobPart jobKeeps
      obtain ⟨startPart, cores, keepsCores, startKeeps, pieces⟩ := startRun_spec v d.ring
      have before : Frame [.regs, .parts, .flt] (Reg.arrMode :: dramRegs) s v := (job.mono).comp all
      have sameCores : v.partCores d.ring = s.partCores d.ring := by
        rw [State.partCores, jobPart, part]
        rfl
      have core (n : Nat) : v.core n = s.core n := core_through before.pieces n
      have entry (n : Nat) : v.reg (Reg.coreEntry n) = s.reg (Reg.coreEntry n) := before.reg (coreEntry_apart n)
      have point : (v.part d.ring).point = (s.part d.ring).point := by rw [jobPart, part]
      refine ⟨_, run, ?_, fun n mem => ?_, ?_, (keepsAll.trans jobKeeps).trans startKeeps, ?_,
        (before.pieces.mono (by decide)).trans (pieces.mono (by decide))⟩
      · rw [startPart, jobPart, part, det]
        rfl
      · rw [cores n (sameCores ▸ mem), core, entry, point]
        refine ⟨fun out => if_pos (Or.comm.mp out), fun filled well => ?_⟩
        rw [show (s.core n).released (s.part d.ring).point (s.reg (Reg.coreEntry n)) = _ from if_neg (by simp [filled, well])]
        exact ⟨rfl, rfl, fun start => if_pos start, fun sweep => (if_neg (by omega)).trans (if_pos sweep),
          fun start sweep => (if_neg start).trans (if_neg sweep)⟩
      · rw [← sameCores]
        exact fun n far => (keepsCores n far).trans (core n)
      · exact fun o far => (State.reg_of_regs (pieces .regs (by decide)).1 o).trans (before.regs o far)
    case later =>
      rw [beginRun_later sched (by rw [gtime]; exact later) (free.trans cmp)] at run
      obtain ⟨v, ev⟩ : ∃ v, w.updPart d.ring (fun p => { p with job := some (runJob x p.sweep w.det colo) }) = v := ⟨_, rfl⟩
      rw [ev] at run job jobPart jobKeeps
      have before : Frame [.regs, .parts, .flt] (Reg.arrMode :: dramRegs) s v := (job.mono).comp all
      obtain ⟨set_, time, armed, owner⟩ := setCmp_spec v k 2 d.ring (x.arg 0x18 8) true (by decide)
      have index := (index_setCmp v k (index := d.ring) (x.arg 0x18 8) true (by decide : 2 < 256)).trans
        (Nat.mod_eq_of_lt (by omega))
      obtain ⟨t, et⟩ : ∃ t, v.setCmp k 2 d.ring (x.arg 0x18 8) true = t := ⟨_, rfl⟩
      rw [et] at run set_ time armed owner index
      have all' := (set_.mono (ps := [.regs, .parts, .flt]) (rs := Reg.arrMode :: Reg.gtbCmp k :: (Reg.gtbCmp k + 8) :: dramRegs)).comp
        (before.mono (own := by
          intro o h
          simp only [List.mem_cons] at h ⊢
          tauto))
      have kept := (keepsAll.trans jobKeeps).through set_.pieces
      refine ⟨t, run, ?_, armed, owner, index, ?_, kept, all'.regs, all'.pieces⟩
      · rw [part_through set_.pieces, jobPart, part, det]
      · exact BitVec.eq_of_toNat_eq (time.trans (BitVec.toNat_ofNat ..).symm)

/-! ## Reads and writes of local memory, wherever it lies (R65, R66) -/

theorem frame_reportCe (s : State) (n : Nat) (gs : List Nat) : Frame [.regs, .flt] faultRegs s (s.reportCe n gs) :=
  .foldl (fun _ _ => frame_report ..) _ s

theorem frame_wrSram (s : State) (n a : Nat) (bs : List Byte) :
    Frame [.regs, .mem, .sramErr, .flt] faultRegs s (s.wrSram n a bs) := by
  unfold State.wrSram
  extract_lets len parts ces
  split
  · exact (frame_report ..).mono
  · have stored : OnlyTouches [.mem, .sramErr] (s.reportCe n ces) (((s.reportCe n ces).wr a bs).clearGranules (granules a len)) :=
      ((touches_wr _ _ _).mono (by decide)).trans ((touches_clearGranules _ _).mono (by decide))
    exact (Frame.mono (.of_touches stored)).comp (frame_reportCe ..).mono

theorem frame_windowRead (s : State) (n off len : Nat) : Frame [.regs, .flt] faultRegs s (s.windowRead n off len).2 := by
  unfold State.windowRead
  extract_lets a s1
  have first : Frame [.regs, .flt] faultRegs s s1 := frame_reportCe ..
  split
  · exact (frame_report ..).comp first
  · exact first

theorem frame_readPiece (s : State) (tag a n : Nat) : Frame [.regs, .flt] dramRegs s (s.readPiece tag a n).2 := by
  unfold State.readPiece
  split
  · extract_lets t
    split
    · exact frame_dramRead ..
    · exact frame_dramRead ..
  · exact (frame_windowRead ..).mono (own := faultRegs_dramRegs)
  next b off _ =>
    obtain ⟨u, frame, e⟩ := bufferRead_spec s b off n
    rw [e]
    exact frame.mono (own := faultRegs_dramRegs)
  · exact .refl ..
  · exact .refl ..

theorem frame_readPieces (s : State) (tag : Nat) (l : List (Nat × Nat)) :
    Frame [.regs, .flt] dramRegs s (s.readPieces tag l).2.2 := by
  induction l generalizing s with
  | nil => exact .refl ..
  | cons p l ih =>
    have first := frame_readPiece s tag p.1 p.2
    unfold State.readPieces
    split
    next e =>
      rw [e] at first
      exact first
    next t e =>
      rw [e] at first
      exact first.trans (ih t)

theorem frame_localRead (s : State) (tag a n : Nat) : Frame [.regs, .flt] dramRegs s (s.localRead tag a n).2.2 :=
  frame_readPieces ..

/-! ## A table written into several cores (R66, R308) -/

/-- Tables of different cores lie apart. -/
theorem tableAt_apart {m n slot k : Nat} (other : m ≠ n) (real : slot ≤ 3) (short : k ≤ 2048) :
    tableAt m slot 0 + k ≤ tableAt n slot 0 ∨ tableAt n slot 0 + 2048 ≤ tableAt m slot 0 := by
  simp only [tableAt, coreBase]
  omega

theorem length_slice_le (bs : List Byte) (off len : Nat) : (slice bs off len).length ≤ len := by
  rw [slice, List.length_take]
  exact Nat.min_le_left ..

theorem cleanAt_wrSram {s : State} {a len b : Nat} {bs : List Byte} (clean : s.cleanAt b bs.length) (n : Nat)
    (other : s.cleanAt a len) : (s.wrSram n b bs).cleanAt a len := by
  rw [wrSram_clean clean]
  exact fun g hg => look_foldl_erase_zero _ _ (other g hg)

theorem granules_subset {a m n : Nat} (less : m ≤ n) : granules a m ⊆ granules a n := by
  intro g hg
  unfold granules at hg ⊢
  split at hg
  · exact absurd hg List.not_mem_nil
  · rw [if_neg (by omega)]
    obtain ⟨i, hi, rfl⟩ := List.mem_map.mp hg
    have := List.mem_range.mp hi
    exact List.mem_map.mpr ⟨i, List.mem_range.mpr (by omega), rfl⟩

/-- A SET_TABLE's data in the tables of its cores: each has its own part, and the tables of other cores stay. -/
theorem rd_tables {slot : Nat} (real : slot ≤ 3) (data : List Byte) (l : List (Nat × Nat × Nat)) (s : State)
    (once : (l.map Prod.fst).Nodup) (short : ∀ y ∈ l, y.2.2 ≤ 2048) (clean : ∀ y ∈ l, s.cleanAt (tableAt y.1 slot 0) 2048) :
    ∀ t, t = l.foldl (fun u x => u.wrSram x.1 (tableAt x.1 slot 0) (slice data x.2.1 x.2.2)) s →
    (∀ y ∈ l, t.rd (tableAt y.1 slot 0) (slice data y.2.1 y.2.2).length = slice data y.2.1 y.2.2) ∧
    ∀ c k, c ∉ l.map Prod.fst → k ≤ 2048 → t.rd (tableAt c slot 0) k = s.rd (tableAt c slot 0) k := by
  induction l generalizing s with
  | nil =>
    rintro t rfl
    exact ⟨fun _ h => absurd h List.not_mem_nil, fun _ _ _ _ => rfl⟩
  | cons x l ih =>
    intro t et
    obtain ⟨fresh, rest⟩ := List.nodup_cons.mp once
    obtain ⟨bs, eb⟩ : ∃ bs, slice data x.2.1 x.2.2 = bs := ⟨_, rfl⟩
    have size : bs.length ≤ 2048 := by
      rw [← eb]
      exact (length_slice_le ..).trans (short x List.mem_cons_self)
    have here : s.cleanAt (tableAt x.1 slot 0) bs.length := fun g hg => clean x List.mem_cons_self g (granules_subset size hg)
    obtain ⟨u, eu⟩ : ∃ u, s.wrSram x.1 (tableAt x.1 slot 0) bs = u := ⟨_, rfl⟩
    have stored : u.rd (tableAt x.1 slot 0) bs.length = bs := by
      rw [← eu, wrSram_clean here]
      exact rd_wr_self ..
    have apart (c k : Nat) (other : c ≠ x.1) (small : k ≤ 2048) :
        u.rd (tableAt c slot 0) k = s.rd (tableAt c slot 0) k := by
      rw [← eu, wrSram_clean here]
      have far := tableAt_apart other real small
      exact rd_wr_other _ _ _ _ _ (by omega)
    rw [List.foldl_cons, eb, eu] at et
    obtain ⟨all, others⟩ := ih u rest (fun y hy => short y (List.mem_cons_of_mem _ hy))
      (fun y hy => by
        rw [← eu]
        exact cleanAt_wrSram here x.1 (clean y (List.mem_cons_of_mem _ hy))) t et
    refine ⟨fun y hy => ?_, fun c k far small => ?_⟩
    · rcases List.mem_cons.mp hy with rfl | hy
      · rw [eb, others y.1 bs.length fresh size, stored]
      · exact all y hy
    · rw [List.map_cons, List.mem_cons, not_or] at far
      rw [others c k far.2 small, apart c k far.1 small]

theorem targets_short (s : State) (q target : Nat) : ∀ y ∈ s.targets q target 2048, y.2.2 ≤ 2048 := by
  intro y hy
  unfold State.targets at hy
  extract_lets cores v n at hy
  split at hy
  · obtain ⟨c, _, rfl⟩ := List.mem_map.mp hy
    exact Nat.le_refl _
  · split at hy
    · obtain ⟨c, _, rfl⟩ := List.mem_map.mp hy
      exact Nat.le_refl _
    · split at hy
      · obtain ⟨c, _, rfl⟩ := List.mem_map.mp hy
        exact Nat.le_refl _
      · split at hy
        · exact absurd hy List.not_mem_nil
        · obtain ⟨k, _, e⟩ := List.mem_filterMap.mp hy
          obtain ⟨c, _, rfl⟩ := Option.map_eq_some_iff.mp e
          exact Nat.div_le_self ..

theorem targets_of {s t : State} (parts : t.parts = s.parts) (cores : t.cores = s.cores) (q target len : Nat) :
    t.targets q target len = s.targets q target len := by
  have core (n : Nat) : t.core n = s.core n := core_of_cores cores n
  have all : t.partCores q = s.partCores q := by rw [State.partCores, part_of_parts parts, State.partCores]
  unfold State.targets
  simp only [core, all]

/-! ## A table that lands (R193, R308) -/

/-- The state after a table has landed, before its descriptor completes. -/
def State.tableStored (s : State) (q : Nat) (w : TableWrite) : State :=
  if w.kind = 0 then
    (s.targets q w.target 2048).foldl (fun u x => u.wrSram x.1 (tableAt x.1 w.slot 0) (slice w.data x.2.1 x.2.2)) s
  else s.updPart q (fun p => { p with binding := p.binding.map (fun b => { b with
    control := b.control.map (fun c => overlay c (w.place c) w.data) }) })

/-- The same, noted for the partition's Colophons. -/
def State.tableLanded (s : State) (q : Nat) (w : TableWrite) : State :=
  (s.tableStored q w).updPart q (fun p => { p with colo := { p.colo with tables := true } })

theorem applyTable_eq (s : State) (q : Nat) (w : TableWrite) :
    s.applyTable q w = (s.tableLanded q w).complete w.desc stDone 0 0 := rfl

theorem frame_tableStored (s : State) (q : Nat) (w : TableWrite) :
    Frame [.regs, .mem, .sramErr, .parts, .flt] faultRegs s (s.tableStored q w) := by
  unfold State.tableStored
  split
  · exact (Frame.foldl (fun _ _ => frame_wrSram ..) _ s).mono
  · exact (frame_updPart ..).mono

theorem frame_tableLanded (s : State) (q : Nat) (w : TableWrite) :
    Frame [.regs, .mem, .sramErr, .parts, .flt] faultRegs s (s.tableLanded q w) :=
  (frame_updPart ..).mono.comp (frame_tableStored s q w)

/-- A table of the cores is stored in them alone. -/
theorem parts_tableStored {s : State} {q : Nat} {w : TableWrite} (cores : w.kind = 0) :
    (s.tableStored q w).parts = s.parts := by
  have written : Frame [.regs, .mem, .sramErr, .flt] faultRegs s (s.tableStored q w) := by
    unfold State.tableStored
    rw [if_pos cores]
    exact .foldl (fun _ _ => frame_wrSram ..) _ s
  exact written.pieces .parts (by decide)

theorem keepsParts_tableLanded (s : State) (q : Nat) (w : TableWrite) : KeepsParts [q] s (s.tableLanded q w) := by
  have stored : KeepsParts [q] s (s.tableStored q w) := by
    by_cases cores : w.kind = 0
    · exact fun n _ => part_of_parts (parts_tableStored cores) n
    · unfold State.tableStored
      rw [if_neg cores]
      exact keepsParts_updPart _ _ _
  exact stored.trans (keepsParts_updPart _ _ _)

theorem part_tableLanded (s : State) (q : Nat) (w : TableWrite) : (s.tableLanded q w).part q =
    { (s.tableStored q w).part q with colo := { ((s.tableStored q w).part q).colo with tables := true } } :=
  State.part_updPart_self ..

/-- A table of the cores stands in each core it names. -/
theorem rd_tableLanded {s : State} {q : Nat} {w : TableWrite} (cores : w.kind = 0) (real : w.slot ≤ 3)
    (once : ((s.targets q w.target 2048).map Prod.fst).Nodup)
    (clean : ∀ y ∈ s.targets q w.target 2048, s.cleanAt (tableAt y.1 w.slot 0) 2048) :
    ∀ y ∈ s.targets q w.target 2048,
      (s.tableLanded q w).rd (tableAt y.1 w.slot 0) (slice w.data y.2.1 y.2.2).length = slice w.data y.2.1 y.2.2 := by
  intro y hy
  have mem : (s.tableLanded q w).mem = (s.tableStored q w).mem := (frame_updPart (s.tableStored q w) q _).pieces .mem (by decide)
  rw [rd_of_mem mem]
  refine (rd_tables real w.data _ s once (targets_short s q w.target) clean _ ?_).1 y hy
  unfold State.tableStored
  rw [if_pos cores]

/-- A controller table stands in its partition's Binding alone. -/
theorem binding_tableLanded {s : State} {q : Nat} {w : TableWrite} (control : w.kind ≠ 0) :
    (s.tableLanded q w).mem = s.mem ∧ ((s.tableLanded q w).part q).binding = (s.part q).binding.map (fun b => { b with
      control := b.control.map (fun c => overlay c (w.place c) w.data) }) := by
  have stored : s.tableStored q w = s.updPart q (fun p => { p with binding := p.binding.map (fun b => { b with
      control := b.control.map (fun c => overlay c (w.place c) w.data) }) }) := by
    unfold State.tableStored
    exact if_neg control
  rw [part_tableLanded, stored, State.part_updPart_self]
  refine ⟨?_, rfl⟩
  have first := (frame_updPart (s.tableStored q w) q (fun p => { p with colo := { p.colo with tables := true } })).pieces .mem
    (by decide)
  refine Eq.trans first ?_
  rw [stored]
  exact (frame_updPart ..).pieces .mem (by decide)

/-! ## SET_TABLE (R66, R193, R308, R323) -/

/-- The operation of a SET_TABLE in progress. -/
theorem execSetTable_of {s : State} {d : DescRef} {x : Desc} (begun : s.begun d 13 = some x) {u : State}
    (value : (let q := d.ring.val
      let p := s.part q
      let kind := x.arg 0x18 1
      if p.faulted then s.complete d stFaulted 0 0
      else if p.run = .empty then s.complete d stRefused 0 0
      else if !tableFits p kind (x.arg 0x1A 2) then s.complete d stBad 0 0
      else if p.tables.any (fun t => t.desc == d) then s
      else
        let r := s.localRead 127 (x.arg 0x10 8) (tableBytes kind)
        if r.2.1.isSome then r.2.2.complete d stFaulted 0 0
        else if kind = 3 ∧ 3 ≤ leAt r.1 5 1 then r.2.2.complete d stBad 0 0
        else
          let t : TableWrite := { desc := d, kind := kind, slot := x.arg 0x19 1, index := x.arg 0x1A 2
                                  target := x.arg 0x1C 4, data := r.1 }
          if p.run = .running then r.2.2.updPart q (fun p => { p with tables := p.tables ++ [t] })
          else r.2.2.applyTable q t) = u) : exec (.setTable d) s = .next u := by
  rw [show exec (.setTable d) s = execSetTable d s from rfl, execSetTable, onDesc_begun begun]
  exact congrArg Host.Outcome.next value

/-- Settles O37: a table lands in what it names, `tableLanded`, after the read of its data, which leaves the partitions. -/
theorem tableWritesLand : Obligations.TableWritesLand := by
  unfold Obligations.TableWritesLand
  rintro d s x r w begun er ew
  obtain ⟨here, -, live, -⟩ := begun_iff.mp begun
  have read : Frame [.regs, .flt] dramRegs s r.2.2 := by rw [er]; exact frame_localRead ..
  have parts : r.2.2.parts = s.parts := read.pieces .parts (by decide)
  have part : r.2.2.part d.ring.val = s.part d.ring.val := part_of_parts parts _
  refine ⟨fun bad => execSetTable_of begun (if_pos bad), fun good => ?_⟩
  have good' : ¬ (s.part d.ring).faulted = true := by simp [good]
  refine ⟨fun empty => execSetTable_of begun ((if_neg good').trans (if_pos empty)), fun full => ?_⟩
  refine ⟨fun unfit => execSetTable_of begun ((if_neg good').trans ((if_neg full).trans (if_pos (by simp [unfit])))), fun fits => ?_⟩
  refine ⟨fun waits => execSetTable_of begun ((if_neg good').trans ((if_neg full).trans
    ((if_neg (by simp [fits])).trans (if_pos (by simpa using waits))))), fun fresh => ?_⟩
  have begins {u : State} (value : (if r.2.1.isSome then r.2.2.complete d stFaulted 0 0
      else if x.arg 0x18 1 = 3 ∧ 3 ≤ leAt r.1 5 1 then r.2.2.complete d stBad 0 0
      else if (s.part d.ring).run = .running then r.2.2.updPart d.ring (fun p => { p with tables := p.tables ++ [w] })
      else r.2.2.applyTable d.ring w) = u) : exec (.setTable d) s = .next u := by
    rw [ew, er] at value
    exact execSetTable_of begun ((if_neg good').trans ((if_neg full).trans ((if_neg (by simp [fits])).trans
      ((if_neg (by simpa using fresh)).trans value))))
  refine ⟨fun failed => begins (if_pos failed), fun got => ?_⟩
  have got' : ¬ r.2.1.isSome = true := by simp [got]
  refine ⟨fun three mode => begins ((if_neg got').trans (if_pos ⟨three, mode⟩)), fun valid => ?_⟩
  constructor
  · intro running
    have queued := frame_updPart r.2.2 d.ring (fun p => { p with tables := p.tables ++ [w] })
    refine ⟨_, begins ((if_neg got').trans ((if_neg valid).trans (if_pos running))), ?_, ?_, ?_, ?_⟩
    · rw [State.part_updPart_self, part]
    · exact KeepsParts.trans (read.pieces.keepsParts (by decide) _) (keepsParts_updPart _ _ _)
    · exact (Frame.comp (ps := [.regs, .parts, .flt]) (rs := dramRegs) queued.mono read.mono).regs
    · exact (Frame.comp (ps := [.regs, .parts, .flt]) (rs := dramRegs) queued.mono read.mono).pieces
  · intro stopped
    have code : w.desc = d := by rw [ew]
    obtain ⟨v, ev⟩ : ∃ v, r.2.2.tableLanded d.ring w = v := ⟨_, rfl⟩
    have landed : Frame [.regs, .mem, .sramErr, .parts, .flt] faultRegs r.2.2 v := by rw [← ev]; exact frame_tableLanded ..
    have both : Frame [.regs, .mem, .sramErr, .parts, .flt] dramRegs s v :=
      (landed.mono (own := faultRegs_dramRegs)).comp read.mono
    obtain ⟨done, completes⟩ := complete_after both.pieces here live stDone 0 0
    obtain ⟨t, et⟩ : ∃ t, v.complete d stDone 0 0 = t := ⟨_, rfl⟩
    rw [et] at done completes
    have final : t.part d.ring.val = v.part d.ring.val := part_through completes _
    have mem : t.mem = v.mem := completes .mem (by decide)
    have own := part_tableLanded r.2.2 d.ring.val w
    rw [ev] at own
    refine ⟨t, ?_, done, ?_, ?_, ?_, ?_, ?_, ?_⟩
    · refine begins ((if_neg got').trans ((if_neg valid).trans ((if_neg stopped).trans ?_)))
      rw [applyTable_eq, code, ev, et]
    · rw [final, own]
    · intro control
      obtain ⟨kept, binding⟩ := binding_tableLanded (s := r.2.2) (q := d.ring.val) control
      rw [ev] at kept binding
      refine ⟨mem.trans (kept.trans (read.pieces .mem (by decide))), fun b c hb hc => ?_⟩
      rw [final, binding, part, hb, Option.map_some, hc, Option.map_some]
    · intro cores
      constructor
      · rw [final, own, part_of_parts (parts_tableStored cores), part]
      · intro real once clean y hy
        have same : r.2.2.targets d.ring.val w.target 2048 = s.targets d.ring.val w.target 2048 :=
          targets_of parts (read.pieces .cores (by decide)) ..
        have err : r.2.2.sramErr = s.sramErr := read.pieces .sramErr (by decide)
        have stored := rd_tableLanded (s := r.2.2) (q := d.ring.val) cores real (by rwa [same]) (by
          rw [same]
          exact fun z hz g hg => by rw [err]; exact clean z hz g hg) y (by rwa [same])
        rw [ev] at stored
        rw [rd_of_mem mem]
        exact stored
    · rw [← ev] at final
      exact KeepsParts.trans (read.pieces.keepsParts (by decide) _)
        ((by rw [← ev]; exact keepsParts_tableLanded _ _ _ : KeepsParts [d.ring.val] r.2.2 v).through completes)
    · exact both.regs.trans (completes.keepsRegs (by decide) _)
    · exact (both.pieces.mono (by decide)).trans (completes.mono (by decide))

end Sys2Proof.Machine
end

section
/-! PROOFS. Partition resets, and context images. -/

namespace Sys2Proof.Machine

open Sys2Proof

-- One theorem after another: many at once would need too many threads.
set_option Elab.async false

/-! ## What no operation of a reset does: it moves no partition, gives none a new run, and makes no descriptor (R324, R325) -/

/-- A partition with its rectangle kept, no run but its own, and its state as before or EMPTY. -/
structure Partition.Ends (p p' : Partition) : Prop where
  rows : p'.qrows = p.qrows
  cols : p'.qcols = p.qcols
  run  : p'.run = p.run ∨ p'.run = .empty
  job  : ∀ j', p'.job = some j' → ∃ j, p.job = some j ∧ j.desc = j'.desc

/-- A state whose partitions have ended what they do: their rectangles stand, their runs are as before or over, and a
descriptor is as before or gone. -/
structure State.Ends (s t : State) : Prop where
  parts : ∀ q, (s.part q).Ends (t.part q)
  descs : ∀ d, t.desc d = s.desc d ∨ t.desc d = none
  stay  : ∀ x ∈ s.descs, x ∈ t.descs ∨ t.desc x.ref = none

namespace Partition.Ends

/-- A change of a partition that leaves its rectangle and its run. -/
theorem of_same {p p' : Partition} (rows : p'.qrows = p.qrows) (cols : p'.qcols = p.qcols)
    (run : p'.run = p.run ∨ p'.run = .empty) (job : p'.job = p.job) : p.Ends p' :=
  ⟨rows, cols, run, fun j h => ⟨j, job ▸ h, rfl⟩⟩

theorem trans {p q r : Partition} (h : p.Ends q) (k : q.Ends r) : p.Ends r where
  rows := k.rows.trans h.rows
  cols := k.cols.trans h.cols
  run := by
    rcases k.run with same | empty
    · exact h.run.imp same.trans same.trans
    · exact .inr empty
  job j hj := by
    obtain ⟨i, hi, ei⟩ := k.job j hj
    obtain ⟨l, hl, el⟩ := h.job i hi
    exact ⟨l, hl, el.trans ei⟩

end Partition.Ends

namespace State.Ends
variable {s t u : State}

theorem refl (s : State) : s.Ends s := ⟨fun _ => .of_same rfl rfl (.inl rfl) rfl, fun _ => .inl rfl, fun _ h => .inl h⟩

theorem trans (h : s.Ends t) (k : t.Ends u) : s.Ends u where
  parts q := (h.parts q).trans (k.parts q)
  descs d := by
    rcases k.descs d with e | e
    · rw [e]
      exact h.descs d
    · exact .inr e
  stay x hx := by
    rcases h.stay x hx with own | gone
    · exact k.stay x own
    · exact .inr ((k.descs x.ref).elim (·.trans gone) id)

theorem after (k : t.Ends u) (h : s.Ends t) : s.Ends u := h.trans k

theorem ite {c : Prop} [Decidable c] (h : s.Ends t) (k : s.Ends u) : s.Ends (if c then t else u) := by
  split
  · exact h
  · exact k

theorem foldl {α : Type} {f : State → α → State} (step : ∀ t a, State.Ends t (f t a)) (l : List α) (s : State) :
    s.Ends (l.foldl f s) := by
  induction l generalizing s with
  | nil => exact .refl s
  | cons a l ih => exact (step s a).trans (ih _)

/-- An operation that leaves the partitions and the descriptors. -/
theorem of_touches {ps : List Piece} (h : OnlyTouches ps s t) (no : .parts ∉ ps ∧ .descs ∉ ps := by decide) : s.Ends t where
  parts q := by
    rw [part_of_parts (h .parts no.1)]
    exact .of_same rfl rfl (.inl rfl) rfl
  descs d := .inl (desc_of_descs (h .descs no.2) d)
  stay x hx := by
    have same : t.descs = s.descs := h .descs no.2
    exact .inl (same ▸ hx)

theorem of_within {ps : List Piece} (h : Within ps s t) (no : .parts ∉ ps ∧ .descs ∉ ps := by decide) : s.Ends t :=
  of_touches h.touches no

theorem partCores (h : s.Ends t) (q : Nat) : t.partCores q = s.partCores q := by
  rw [State.partCores, State.partCores, (h.parts q).rows, (h.parts q).cols]

end State.Ends

theorem ends_updPart (s : State) (q : Nat) {f : Partition → Partition} (h : ∀ p, Partition.Ends p (f p)) : s.Ends (s.updPart q f) where
  parts n := by
    by_cases own : n = q
    · rw [own, State.part_updPart_self]
      exact h _
    · rw [State.part_updPart_other _ _ own]
      exact .of_same rfl rfl (.inl rfl) rfl
  descs _ := .inl rfl
  stay _ hx := .inl hx

/-- A change of a partition that leaves its rectangle and its run. -/
theorem ends_updPart_same (s : State) (q : Nat) (f : Partition → Partition) (rows : ∀ p, (f p).qrows = p.qrows := by intro p; rfl)
    (cols : ∀ p, (f p).qcols = p.qcols := by intro p; rfl) (job : ∀ p, (f p).job = p.job := by intro p; rfl)
    (run : ∀ p, (f p).run = p.run ∨ (f p).run = .empty := by intro p; exact .inl rfl) :
    s.Ends (s.updPart q f) := ends_updPart s q fun p => .of_same (rows p) (cols p) (run p) (job p)

/-- The note of a write marks a run and leaves it its descriptor. -/
theorem ends_noteWrite (p : Partition) (a n : Nat) : p.Ends (p.noteWrite a n) := by
  unfold Partition.noteWrite
  split
  · exact .of_same rfl rfl (.inl rfl) rfl
  · extract_lets hit
    refine ⟨rfl, rfl, .inl rfl, fun j' hj => ?_⟩
    obtain ⟨j, own, rfl⟩ := Option.map_eq_some_iff.mp hj
    refine ⟨j, own, ?_⟩
    split
    · rfl
    · rfl

theorem ends_wrDram (s : State) (tag a : Nat) (bs : List Byte) : s.Ends (s.wrDram tag a bs) := by
  unfold State.wrDram
  extract_lets n u parts bad ces v w x
  have noted : s.Ends u := ⟨fun q => by rw [part_noteWrite]; exact ends_noteWrite .., fun _ => .inl rfl, fun _ h => .inl h⟩
  have first : s.Ends v := (State.Ends.foldl (fun t k => .of_within (within_dramCeAt t tag k)) ces u).after noted
  have second : s.Ends w := (State.Ends.foldl (fun t k => .of_within (within_dramUeAt t tag k)) bad v).after first
  have third : s.Ends x := (State.Ends.of_within (within_dramErr (s := w) _)).after second
  refine .ite ((State.Ends.of_within (within_wr ..)).after third) ((State.Ends.foldl (fun t k => ?_) _ x).after third)
  exact .ite (.refl t) (.of_within (within_wr ..))

theorem desc_complete (s : State) (ref : DescRef) (status detail result : Nat) (d : DescRef) :
    (s.complete ref status detail result).desc d = s.desc d ∨ (s.complete ref status detail result).desc d = none := by
  unfold State.complete
  split
  · exact .inl rfl
  next x _ =>
    extract_lets u
    have gone : u.desc d = s.desc d ∨ u.desc d = none := by
      by_cases own : d = ref
      · refine .inr (List.find?_eq_none.mpr fun y hy hd => ?_)
        have away : (y.ref != ref) = true := (List.mem_filter.mp hy).2
        rw [← own, beq_iff_eq.mp hd] at away
        simp at away
      · refine .inl ?_
        have found : (s.descs.filter (fun y => y.ref != ref)).find? (fun y => y.ref == d) = s.descs.find? (fun y => y.ref == d) := by
          rw [List.find?_filter]
          refine List.find?_congr fun y _ => ?_
          by_cases is : y.ref = d
          · simp [is, own]
          · simp [is]
        exact found
    split
    · rw [desc_of_descs ((within_count u _ 47 32 1).touches .descs (by decide))]
      exact gone
    · split
      · exact gone
      · exact gone

/-- A completed descriptor is gone. -/
theorem desc_complete_self (s : State) (d : DescRef) (status detail result : Nat) :
    (s.complete d status detail result).desc d = none := by
  unfold State.complete
  split
  next none => exact none
  next x _ =>
    extract_lets u
    have gone : u.desc d = none := by
      refine List.find?_eq_none.mpr fun y hy hd => ?_
      have away : (y.ref != d) = true := (List.mem_filter.mp hy).2
      rw [beq_iff_eq.mp hd] at away
      simp at away
    split
    · rw [desc_of_descs ((within_count u _ 47 32 1).touches .descs (by decide))]
      exact gone
    · split
      · exact gone
      · exact gone

theorem ends_complete (s : State) (ref : DescRef) (status detail result : Nat) : s.Ends (s.complete ref status detail result) where
  parts q := by
    rw [part_through (touches_complete s ref status detail result)]
    exact .of_same rfl rfl (.inl rfl) rfl
  descs := desc_complete s ref status detail result
  stay x hx := by
    by_cases own : x.ref = ref
    · rw [own]
      exact .inr (desc_complete_self s ref status detail result)
    · refine .inl ?_
      have kept : x ∈ s.descs.filter (fun y => y.ref != ref) := List.mem_filter.mpr ⟨hx, by simpa using own⟩
      unfold State.complete
      split
      · exact hx
      next y _ =>
        extract_lets u
        split
        · have same := (within_count u (Reg.hstPortstat y.ref.port.num) 47 32 1).touches .descs (by decide)
          exact same ▸ kept
        · split
          · exact kept
          · exact kept

theorem ends_settleJob (s : State) (q : Nat) : s.Ends (s.settleJob q) := by
  unfold State.settleJob
  split
  · exact .refl s
  · split
    · exact .refl s
    · refine .ite ((ends_complete ..).after (ends_updPart s q fun p => ?_)) (.refl s)
      exact ⟨rfl, rfl, .inl rfl, fun j h => absurd h (by simp)⟩

theorem ends_haltsDone (s : State) (q : Nat) : s.Ends (s.haltsDone q) :=
  (State.Ends.foldl (fun t d => ends_complete t d stDone 0 0) _ _).after (ends_updPart_same ..)

/-! ## What a partition carries to its end (R325) -/

theorem ends_ringRead (s : State) (b : Binding) (d : RingDesc) (i n : Nat) : s.Ends (s.ringRead b d i n).2.2 :=
  .of_within (within_ringRead ..)

theorem ends_collectGroupWrite (q : QuireId) (ring : Fin 32) (s : State) :
    ∃ t, execCollectGroupWrite q ring s = .next t ∧ s.Ends t := by
  unfold execCollectGroupWrite
  split
  · exact ⟨s, rfl, .refl s⟩
  next b d _ =>
    extract_lets x edge upTo n r a good u
    split
    · exact ⟨s, rfl, .refl s⟩
    · have read : s.Ends r.2.2 := ends_ringRead ..
      have written : s.Ends u := .ite read ((ends_wrDram ..).after read)
      exact ⟨_, rfl, (ends_updPart_same u q _).after written⟩

theorem ends_lDrainPut (s : State) (q base tail next : Nat) (rec_ : List Byte) : s.Ends (s.lDrainPut q base tail next rec_) :=
  (ends_updPart_same ..).after ((ends_wrDram ..).after (ends_wrDram ..))

theorem ends_hDrainPut (s : State) (q tail next : Nat) (bs : List Byte) : s.Ends (s.hDrainPut q tail next bs) := by
  unfold State.hDrainPut
  exact (ends_updPart_same ..).after ((State.Ends.of_within (within_wrHost_b ..)).after (.of_within (within_wrHost_b ..)))

theorem ends_lDrainPad (s : State) (q base size len : Nat) : s.Ends (s.lDrainPad q base size len) :=
  .ite (ends_lDrainPut ..) (.refl s)

theorem ends_hDrainPad (s : State) (q len : Nat) : s.Ends (s.hDrainPad q len) := .ite (ends_hDrainPut ..) (.refl s)

theorem ends_lDrainWrite {s t : State} {q base size : Nat} {bs : List Byte} (h : s.lDrainWrite q base size bs = some t) :
    s.Ends t := by
  obtain ⟨next, -, rfl⟩ := Option.map_eq_some_iff.mp h
  exact ends_lDrainPut ..

theorem ends_updOffer (p : Partition) (pool sweep : Nat) (f : PoolOffer → PoolOffer) : p.Ends (p.updOffer pool sweep f) := by
  unfold Partition.updOffer
  split
  · exact .of_same rfl rfl (.inl rfl) rfl
  · exact .of_same rfl rfl (.inl rfl) rfl

theorem ends_feedPools (s : State) (q : Nat) (b : Binding) (w : Window) (wi i sweep : Nat) (r : WinRecord) (payload : List Byte) :
    s.Ends (s.feedPools q b w wi i sweep r payload) :=
  (State.Ends.foldl (fun t _ => ends_updPart t q fun p => ends_updOffer ..) _ _).after
    (.foldl (fun _ _ => (ends_updPart _ q fun p => ends_updOffer ..).after (ends_wrDram ..)) _ s)

theorem ends_cutDone (s : State) (q : Nat) (b : Binding) (ring : Nat) (c : Cut) (payload : List Byte) :
    s.Ends (s.cutDone q b ring c payload) := by
  unfold State.cutDone State.reportStats
  exact (ends_updPart_same ..).after (.ite ((ends_updPart_same ..).after (ends_feedPools ..)) (ends_feedPools ..))

theorem ends_stopRing (s : State) (q ring : Nat) : s.Ends (s.stopRing q ring) := ends_updPart_same ..

theorem ends_cutToHost (s : State) (q : Nat) (b : Binding) (ring : Nat) (c : Cut) (rec_ payload : List Byte) :
    s.Ends (s.cutToHost q b ring c rec_ payload) := by
  dsimp only [State.cutToHost]
  have pad := ends_hDrainPad s q rec_.length
  split
  · exact pad
  · split
    · refine .ite (.ite ?_ ?_) (.ite (.ite pad ?_) ?_)
      · exact (ends_stopRing ..).after ((State.Ends.of_within (within_bufferRead ..)).after pad)
      · exact (ends_cutDone ..).after ((ends_hDrainPut ..).after ((State.Ends.of_within (within_bufferRead ..)).after pad))
      · exact (ends_updPart_same ..).after ((State.Ends.of_within (within_bufferWrite ..)).after pad)
      · exact (ends_cutDone ..).after ((ends_hDrainPut ..).after pad)
    · exact (ends_cutDone ..).after ((ends_hDrainPut ..).after pad)

theorem ends_cutToMem (s : State) (q : Nat) (b : Binding) (ring : Nat) (c : Cut) (rec_ payload : List Byte) :
    s.Ends (s.cutToMem q b ring c rec_ payload) := by
  dsimp only [State.cutToMem]
  split
  · exact .refl s
  · split
    · exact ends_lDrainPad ..
    · exact (ends_cutDone ..).after ((ends_lDrainWrite ‹_›).after (ends_lDrainPad ..))

theorem ends_drainRecordWrite (q : QuireId) (ring : Fin 32) (s : State) :
    ∃ t, execDrainRecordWrite q ring s = .next t ∧ s.Ends t := by
  dsimp only [execDrainRecordWrite]
  split
  · exact ⟨s, rfl, .refl s⟩
  · split
    · exact ⟨s, rfl, .refl s⟩
    · split
      · exact ⟨_, rfl, ends_updPart_same ..⟩
      · split
        · exact ⟨s, rfl, .refl s⟩
        · split
          · exact ⟨_, rfl, ends_stopRing ..⟩
          · split
            · exact ⟨_, rfl, (ends_stopRing ..).after (ends_ringRead ..)⟩
            · exact ⟨_, rfl, .ite ((ends_cutToHost ..).after (ends_ringRead ..)) ((ends_cutToMem ..).after (ends_ringRead ..))⟩

theorem ends_poolOffer (q : QuireId) (pool : Nat) (s : State) : ∃ t, execPoolOffer q pool s = .next t ∧ s.Ends t := by
  dsimp only [execPoolOffer]
  have read (l : List (Nat × Nat)) : s.Ends (l.foldl (fun (t : State) x => t.dramRead q x.1 x.2) s) :=
    .foldl (fun t x => .of_within (within_dramRead t q x.1 x.2)) l s
  split
  · split
    · split
      · exact ⟨s, rfl, .refl s⟩
      · split
        · exact ⟨_, rfl, (ends_stopRing ..).after (read _)⟩
        · refine ⟨_, rfl, (ends_settleJob ..).after ((ends_updPart_same ..).after
            ((State.Ends.of_within (within_count ..)).after ((ends_wrDram ..).after ?_)))⟩
          split
          · exact (State.Ends.of_within (within_count ..)).after ((ends_wrDram ..).after ((ends_wrDram ..).after
              ((State.Ends.foldl (fun _ _ => ends_wrDram ..) _ _).after (read _))))
          · exact read _
    · exact ⟨s, rfl, .refl s⟩
  · exact ⟨s, rfl, .refl s⟩

theorem ends_drainPart (s : State) (q : Nat) : s.Ends (s.drainPart q) := by
  have staged (t : State) : t.Ends (t.drainStaged q) := by
    unfold State.drainStaged
    split
    next r _ _ =>
      obtain ⟨u, e, h⟩ := ends_drainRecordWrite (Fin.ofNat 96 q) (Fin.ofNat 32 r) t
      rw [e]
      exact h
    · exact .refl t
  have collect (t : State) (r : Nat) : t.Ends (t.drainCollect q r) := by
    refine .foldl (fun t _ => ?_) _ t
    obtain ⟨u, e, h⟩ := ends_collectGroupWrite (Fin.ofNat 96 q) (Fin.ofNat 32 r) t
    rw [e]
    exact h
  refine (State.Ends.foldl (fun t _ => ?_) _ _).after ((State.Ends.foldl collect _ _).after ((ends_updPart_same ..).after (staged s)))
  split
  next o _ =>
    obtain ⟨u, e, h⟩ := ends_poolOffer (Fin.ofNat 96 q) o.pool t
    rw [e]
    exact h
  · exact .refl t

theorem ends_writeColophon (s : State) (q : Nat) : s.Ends (s.writeColophon q) := by
  unfold State.writeColophon
  split
  · exact .refl s
  next j _ =>
    split
    next dest _ _ =>
      extract_lets rec_ u r
      have stored : s.Ends u := ends_wrDram s q dest (rec_ ++ zeros 1536)
      have asked : s.Ends r.2 := stored.trans (.of_within (within_askSign_if ..))
      clear_value r
      split
      · have noted : r.2.Ends (r.2.updPart q (fun p => { p with
            colo := { p.colo with seq := p.colo.seq + 1 }
            job := p.job.map (fun j => { j with colophon := none, sign := r.1 }) })) := by
          refine ends_updPart _ q fun p => ⟨rfl, rfl, .inl rfl, fun j' hj => ?_⟩
          obtain ⟨j, own, rfl⟩ := Option.map_eq_some_iff.mp hj
          exact ⟨j, own, rfl⟩
        exact (ends_settleJob ..).after (noted.after asked)
      · exact .refl s
    · exact .refl s

theorem ends_endDescs (s : State) (q : Nat) (keep : Option DescRef) : s.Ends (s.endDescs q keep) :=
  (State.Ends.foldl (fun t d => ends_complete t d stFaulted 0 0) _ _).after (.of_within (within_hall (s := s) _))

theorem ends_disarm (s : State) (g : Nat) : s.Ends (s.disarm g) := by
  dsimp only [State.disarm]
  split
  · exact .refl s
  · exact (ends_updPart_same ..).after ((State.Ends.of_within (within_freeCmpAt ..)).after (.of_within (within_setGroup ..)))

/-- A running descriptor of the partition's ring ends, unless it is the one kept or the run's own. -/
theorem desc_endDescs {s : State} {x : Desc} {keep : Option DescRef} (here : x ∈ s.descs ∨ s.desc x.ref = none)
    (running : x.phase = .running) (other : some x.ref ≠ keep)
    (run : ∀ j, (s.part x.ref.ring.val).job = some j → j.desc ≠ x.ref) :
    (s.endDescs x.ref.ring.val keep).desc x.ref = none := by
  unfold State.endDescs
  extract_lets mine h u
  have gone (l : List DescRef) (t : State) (h : t.desc x.ref = none ∨ x.ref ∈ l) :
      (l.foldl (fun t d => t.complete d stFaulted 0 0) t).desc x.ref = none := by
    induction l generalizing t with
    | nil => exact h.resolve_right List.not_mem_nil
    | cons r l ih =>
      refine ih _ ?_
      rcases h with none | here
      · exact .inl ((desc_complete t r stFaulted 0 0 x.ref).elim (·.trans none) id)
      · rcases List.mem_cons.mp here with own | here
        · rw [own]
          exact .inl (desc_complete_self ..)
        · exact .inr here
  refine gone mine u (here.symm.imp id fun mem => List.mem_map.mpr ⟨x, List.mem_filter.mpr ⟨mem, ?_⟩, rfl⟩)
  have own : ((s.part x.ref.ring.val).job.map Job.desc) ≠ some x.ref := by
    intro h
    obtain ⟨j, hj, e⟩ := Option.map_eq_some_iff.mp h
    exact run j hj e
  simp [running, other, own]

/-! ## A partition reset (R324, R325) -/

/-- The state of a partition reset once its run and its HALTs have ended. -/
def State.resetBegun (s : State) (q : Nat) : State :=
  let s := s.drainPart q
  let s := s.updPart q (fun p => { p with
    offers := [], tables := [], load := none, restore := none, resetAt := some s.mc
    job := p.job.map (fun j => { j with ended := some (j.ended.getD stFaulted) }) })
  (s.writeColophon q).haltsDone q

/-- The same, with its other descriptors ended. -/
def State.resetEnded (s : State) (q : Nat) (keep : Option DescRef) : State := (s.resetBegun q).endDescs q keep

/-- The same, with its streams, its comparators and its barrier group ended. -/
def State.resetClosed (s : State) (q : Nat) (keep : Option DescRef) : State :=
  let s' := ((s.resetEnded q keep).endStreams q).freeStart q
  match ((s.drainPart q).part q).group with
  | some g => s'.disarm g
  | none => s'

/-- The same, with its cores reset. -/
def State.resetCores (s : State) (q : Nat) (keep : Option DescRef) : State :=
  ((s.resetClosed q keep).partCores q).foldl (fun t n => t.updCore n CoreState.afterPartReset) (s.resetClosed q keep)

theorem resetPartFor_eq (s : State) (q : Nat) (keep : Option DescRef) :
    s.resetPartFor q keep = (((s.resetCores q keep).freeRegions q).updPart q Partition.afterReset).settleJob q := by
  unfold State.resetPartFor State.resetCores State.resetClosed State.resetEnded State.resetBegun
  cases group : ((s.drainPart q).part q).group with
  | none => simp only [group]
  | some g => simp only [group]

theorem ends_resetBegun (s : State) (q : Nat) : s.Ends (s.resetBegun q) := by
  unfold State.resetBegun
  extract_lets u v
  have drained : s.Ends u := ends_drainPart s q
  have marked : u.Ends v := by
    refine ends_updPart u q fun p => ⟨rfl, rfl, .inl rfl, fun j' hj => ?_⟩
    obtain ⟨j, own, rfl⟩ := Option.map_eq_some_iff.mp hj
    exact ⟨j, own, rfl⟩
  exact (ends_haltsDone ..).after ((ends_writeColophon ..).after (marked.after drained))

theorem ends_resetEnded (s : State) (q : Nat) (keep : Option DescRef) : s.Ends (s.resetEnded q keep) :=
  (ends_endDescs ..).after (ends_resetBegun ..)

theorem ends_resetClosed (s : State) (q : Nat) (keep : Option DescRef) : (s.resetEnded q keep).Ends (s.resetClosed q keep) := by
  unfold State.resetClosed
  extract_lets u
  have closed : (s.resetEnded q keep).Ends u :=
    (State.Ends.of_within (within_freeStart ..)).after (.of_within (within_endStreams ..))
  split
  · exact (ends_disarm ..).after closed
  · exact closed

theorem ends_resetPartFor (s : State) (q : Nat) (keep : Option DescRef) :
    (s.resetEnded q keep).Ends (s.resetPartFor q keep) := by
  rw [resetPartFor_eq]
  have cores : (s.resetClosed q keep).Ends (s.resetCores q keep) :=
    .foldl (fun t n => .of_within (within_updCore t n _)) _ _
  exact (ends_settleJob ..).after ((ends_updPart_same _ _ _ (run := fun _ => .inr rfl)).after
    ((State.Ends.of_within (within_freeRegions ..)).after (cores.after (ends_resetClosed ..))))

/-- A reset partition: it is EMPTY, without a Binding, and not FAULTED. -/
theorem part_resetPartFor (s : State) (q : Nat) (keep : Option DescRef) : ∃ p j,
    (s.resetPartFor q keep).part q = { Partition.afterReset p with job := j } := by
  rw [resetPartFor_eq]
  obtain ⟨u, eu⟩ : ∃ u, (s.resetCores q keep).freeRegions q = u := ⟨_, rfl⟩
  rw [eu]
  obtain ⟨j, e⟩ := part_settleJob (u.updPart q Partition.afterReset) q
  rw [State.part_updPart_self] at e
  exact ⟨u.part q, j, e⟩

theorem CoreState.afterPartReset_afterPartReset (c : CoreState) : c.afterPartReset.afterPartReset = c.afterPartReset := by
  unfold CoreState.afterPartReset CoreState.afterReset
  rfl

theorem cores_resetClosed (s : State) (q : Nat) (keep : Option DescRef) : (s.resetClosed q keep).cores = s.cores := by
  have begun : (s.resetBegun q).cores = s.cores := by
    unfold State.resetBegun
    extract_lets u v
    have drained : u.cores = s.cores := (within_drainPart s q).touches .cores (by decide)
    have marked : v.cores = u.cores := (touches_updPart u q _) .cores (by decide)
    have wrote : (v.writeColophon q).cores = v.cores := (within_writeColophon v q).touches .cores (by decide)
    exact ((within_haltsDone _ q).touches .cores (by decide)).trans (wrote.trans (marked.trans drained))
  have ended : (s.resetEnded q keep).cores = s.cores := ((within_endDescs _ q keep).touches .cores (by decide)).trans begun
  have streams : ((s.resetEnded q keep).endStreams q).cores = (s.resetEnded q keep).cores :=
    (within_endStreams _ q).touches .cores (by decide)
  have closed := ((within_freeStart ((s.resetEnded q keep).endStreams q) q).touches .cores (by decide)).trans (streams.trans ended)
  unfold State.resetClosed
  extract_lets u
  split
  · exact ((within_disarm ..).touches .cores (by decide)).trans closed
  · exact closed

/-- Only the partition's own cores are reset. -/
theorem core_resetPartFor (s : State) (q : Nat) (keep : Option DescRef) (n : Nat) : (s.resetPartFor q keep).core n =
    if n ∈ s.partCores q then (s.core n).afterPartReset else s.core n := by
  have same : (s.resetClosed q keep).partCores q = s.partCores q :=
    ((ends_resetClosed s q keep).after (ends_resetEnded s q keep)).partCores q
  rw [resetPartFor_eq, core_through (within_settleJob ..).touches, core_through (touches_updPart _ _ _),
    core_through (within_freeRegions ..).touches, State.resetCores,
    core_foldl_updCore (f := fun _ => CoreState.afterPartReset) fun _ => CoreState.afterPartReset_afterPartReset, same,
    core_of_cores (cores_resetClosed s q keep)]

theorem keepsCores_resetPartFor (s : State) (q : Nat) (keep : Option DescRef) :
    KeepsCores (s.partCores q) s (s.resetPartFor q keep) := fun n hn => by rw [core_resetPartFor, if_neg hn]

/-- A running descriptor of the partition's ring ends with its reset, unless it is the one kept or the run's own. -/
theorem desc_resetPartFor {s : State} {x : Desc} {keep : Option DescRef} (here : x ∈ s.descs) (running : x.phase = .running)
    (other : some x.ref ≠ keep) (run : ∀ j, (s.part x.ref.ring.val).job = some j → j.desc ≠ x.ref) :
    (s.resetPartFor x.ref.ring.val keep).desc x.ref = none := by
  have before := ends_resetBegun s x.ref.ring.val
  have gone : (s.resetEnded x.ref.ring.val keep).desc x.ref = none := by
    refine desc_endDescs (before.stay x here) running other fun j hj => ?_
    obtain ⟨i, hi, ei⟩ := (before.parts x.ref.ring.val).job j hj
    rw [← ei]
    exact run i hi
  exact ((ends_resetPartFor s x.ref.ring.val keep).descs x.ref).elim (·.trans gone) id

/-! ## Writes to good LPDDR6, one after another (R331) -/

theorem writeFails_good {s : State} (clean : s.dramErr = []) {a n b m : Nat} (inside : s.inDram a n = true) (low : a ≤ b)
    (high : b + m ≤ a + n) : s.writeFails b m = none := by
  refine Option.map_eq_none_iff.mpr (List.find?_eq_none.mpr ?_)
  intro p hp
  obtain ⟨k, hk, rfl⟩ := List.mem_map.mp hp
  have place : s.place (max b (64 * k)) = .dram := by
    refine place_inDram inside (low.trans (Nat.le_max_left ..)) ?_
    unfold accesses at hk
    split at hk
    · exact absurd hk List.not_mem_nil
    · obtain ⟨i, hi, rfl⟩ := List.mem_map.mp hk
      have := List.mem_range.mp hi
      omega
  dsimp only
  rw [place, State.accessErr, clean]
  simp [Table.look]

theorem inDram_of_boot {s t : State} (h : t.boot = s.boot) (a n : Nat) : t.inDram a n = s.inDram a n := by
  rw [State.inDram, State.inDram, State.sideUp, State.sideUp, State.sideUp, State.sideUp, h]

/-- A write lies apart from another. -/
def Apart (x y : Nat × List Byte) : Prop := x.1 + x.2.length ≤ y.1 ∨ y.1 + y.2.length ≤ x.1

/-- Writes that lie apart, in a range of good LPDDR6: all are made, each reads back, and nothing else changes there. -/
theorem writeAll_good {a n : Nat} (q : Nat) (ws : List (Nat × List Byte)) {s : State} (clean : s.dramErr = [])
    (inside : s.inDram a n = true) (within : ∀ w ∈ ws, a ≤ w.1 ∧ w.1 + w.2.length ≤ a + n) (apart : ws.Pairwise Apart) :
    (s.writeAll q ws).1 = true ∧ Stores s (s.writeAll q ws).2 ∧ KeepsBytes a n s (s.writeAll q ws).2 ∧
      (∀ w ∈ ws, (s.writeAll q ws).2.rd w.1 w.2.length = w.2) ∧
      ∀ b bs, (∀ w ∈ ws, Apart (b, bs) w) → (s.writeAll q ws).2.rd b bs.length = s.rd b bs.length := by
  induction ws generalizing s with
  | nil => exact ⟨rfl, .refl s, fun _ _ => rfl, fun _ h => absurd h List.not_mem_nil, fun _ _ _ => rfl⟩
  | cons w ws ih =>
    obtain ⟨b, bs⟩ := w
    obtain ⟨low, high⟩ := within (b, bs) List.mem_cons_self
    obtain ⟨away, apart⟩ := List.pairwise_cons.mp apart
    have stores := stores_wrDram clean q b bs
    have keeps := (keepsBytes_wrDram clean q b bs).widen low high
    obtain ⟨all, others, kept, back, rest⟩ := ih (s := s.wrDram q b bs) (stores.good clean)
      (by rw [inDram_of_boot (stores.pieces .boot (by decide))]; exact inside)
      (fun w hw => within w (List.mem_cons_of_mem _ hw)) apart
    have step : s.writeAll q ((b, bs) :: ws) = (s.wrDram q b bs).writeAll q ws := by
      rw [State.writeAll, writeFails_good clean inside low high]
      rfl
    rw [step]
    refine ⟨all, stores.trans others, keeps.trans kept, fun w hw => ?_, fun c cs far => ?_⟩
    · rcases List.mem_cons.mp hw with rfl | hw
      · rw [rest b bs away, rd_wrDram_self clean]
      · exact back w hw
    · rw [rest c cs fun w hw => far w (List.mem_cons_of_mem _ hw),
        rd_wrDram_other clean q b bs (far (b, bs) List.mem_cons_self)]

/-! ## The sections of a context image (R328) -/

theorem length_coreRecord (s : State) (n : Nat) : (s.coreRecord n).length = recordBytes := by
  rw [State.coreRecord, List.length_append, List.length_append, List.length_append, rd_length, CoreState.liveBytes, length_padTo,
    Table.span_length, zeros, List.length_replicate]

theorem length_flatMap_const {α : Type} (f : α → List Byte) (k : Nat) (l : List α) (all : ∀ x ∈ l, (f x).length = k) :
    (l.flatMap f).length = l.length * k := by
  rw [List.length_flatMap, List.map_congr_left all, List.map_const', List.sum_replicate, smul_eq_mul]

theorem le_roundUp64 (n : Nat) : n ≤ roundUp n 64 := by
  rw [roundUp, ceilDiv]
  omega

/-- The sections of a save follow one another. -/
theorem contextSections_places (s : State) (q : Nat) (b : Binding) : ∃ k₁ k₂ k₃ k₄ o₂ o₃ o₄ c r g e,
    s.contextSections q b = [(1, k₁, 0x1000, c), (2, k₂, o₂, r), (3, k₃, o₃, g), (4, k₄, o₄, e)] ∧
    0x1000 + c.length ≤ o₂ ∧ o₂ + r.length ≤ o₃ ∧ o₃ + g.length ≤ o₄ := by
  refine ⟨_, _, _, _, _, _, _, _, _, _, _, rfl, ?_, le_roundUp64 _, le_roundUp64 _⟩
  rw [length_flatMap_const _ recordBytes _ fun n _ => length_coreRecord s n]

theorem length_entryBytes (x : SavedSection) : (entryBytes x).length = 32 := by
  simp only [entryBytes, List.length_append, length_leBytes, zeros, List.length_replicate]

theorem length_endpaper (s : State) (q : Nat) (b : Binding) (l : List SavedSection) (dig : List Byte) :
    (s.endpaper q b l dig).length = 256 := length_padTo ..

/-! ## What a save reads (R330) -/

theorem windowRead_clean {s : State} {n off len : Nat} (clean : s.cleanAt (coreBase n + off) len) :
    s.windowRead n off len = (some (s.rd (coreBase n + off) len), s) := by
  rw [State.windowRead, sramUe_clean clean, sramCe_clean clean]
  rfl

theorem readForSave_clean {s : State} {q : Nat} {b : Binding} (cores : ∀ n ∈ s.partCores q, s.cleanAt (coreBase n) 0x28000)
    (regions : ∀ r ∈ b.useOne, s.cleanAt (bufferBase r.buffer + r.first * 0x10000) r.bytes) :
    s.readForSave q b = (true, s) := by
  have first (l : List Nat) (all : ∀ n ∈ l, s.cleanAt (coreBase n) 0x28000) : l.foldl (fun (a : Bool × State) n =>
      let r := a.2.windowRead n 0 0x28000
      (a.1 && r.1.isSome, r.2)) (true, s) = (true, s) := by
    induction l with
    | nil => rfl
    | cons n l ih =>
      rw [List.foldl_cons, windowRead_clean (all n List.mem_cons_self)]
      exact ih fun m hm => all m (List.mem_cons_of_mem _ hm)
  have second (l : List Region) (all : ∀ r ∈ l, s.cleanAt (bufferBase r.buffer + r.first * 0x10000) r.bytes) :
      l.foldl (fun (a : Bool × State) r =>
        let x := a.2.bufferRead r.buffer (r.first * 0x10000) r.bytes
        (a.1 && x.1.isNone, x.2.2)) (true, s) = (true, s) := by
    induction l with
    | nil => rfl
    | cons r l ih =>
      rw [List.foldl_cons, bufferRead_clean (all r List.mem_cons_self)]
      exact ih fun m hm => all m (List.mem_cons_of_mem _ hm)
  rw [State.readForSave, first _ cores]
  exact second _ regions

/-! ## SAVE_CONTEXT (R206, R323, R330, R331) -/

section
variable {s : State} {d : DescRef} {x : Desc} {b : Binding} (begun : s.begun d 4 = some x)
include begun

theorem saveContext_faulted (faulted : (s.part d.ring).faulted = true) :
    exec (.saveContext d) s = .next (s.complete d stFaulted 0 0) := by
  rw [show exec (.saveContext d) s = execSaveContext d s from rfl, execSaveContext, onDesc_begun begun]
  dsimp only
  rw [faulted]

theorem saveContext_unbound (good : (s.part d.ring).faulted = false) (none : (s.part d.ring).binding = none) :
    exec (.saveContext d) s = .next (s.complete d stRefused 0 0) := by
  rw [show exec (.saveContext d) s = execSaveContext d s from rfl, execSaveContext, onDesc_begun begun]
  dsimp only
  rw [good, none]

theorem saveContext_bound (good : (s.part d.ring).faulted = false) (bound : (s.part d.ring).binding = some b) {u : State}
    (value : (if !(s.part d.ring).owedOffers.isEmpty then s
      else if (s.part d.ring).run ≠ .loaded ∨ (x.arg 0x20 1 = 0 ∧ (s.part d.ring).point ≠ 0) ∨ 1 < (s.part d.ring).point then
        s.complete d stRefused 0 0
      else if x.arg 0x18 8 < contextLength (s.contextSections d.ring b) then
        s.complete d stCapacity 0 (contextLength (s.contextSections d.ring b))
      else if !s.inDram (x.arg 0x10 8) (contextLength (s.contextSections d.ring b)) then s.complete d stBad 0 0
      else
        let m := s.writeAll d.ring [(x.arg 0x10 8, zeros 4)]
        let r := m.2.readForSave d.ring b
        if !m.1 || !r.1 then r.2.complete d stFaulted 0 0
        else
          let w := r.2.writeAll d.ring (s.saveWrites d.ring (x.arg 0x10 8) b)
          w.2.complete d (if w.1 then stDone else stFaulted) 0 0) = u) :
    exec (.saveContext d) s = .next u := by
  rw [show exec (.saveContext d) s = execSaveContext d s from rfl, execSaveContext, onDesc_begun begun]
  dsimp only
  rw [good, bound]
  exact congrArg Host.Outcome.next value

end

/-- The writes of a save in good memory: the image stands in LPDDR6, and nothing else has changed. -/
theorem saveWrites_good {s : State} {q a : Nat} {b : Binding} {l : List SavedSection} (clean : s.dramErr = [])
    (el : l = s.contextSections q b) (inside : s.inDram a (contextLength l) = true) {u : State} (stores : Stores s u)
    (keeps : KeepsBytes a (contextLength l) s u) {dig : List Byte}
    (ed : dig = contextDigest (s.endpaper q b l (zeros 32)) (l.flatMap entryBytes) (l.map (fun y => y.2.2.2))) :
    (u.writeAll q (s.saveWrites q a b)).1 = true ∧ Stores s (u.writeAll q (s.saveWrites q a b)).2 ∧
      (u.writeAll q (s.saveWrites q a b)).2.rd a 256 = s.endpaper q b l dig ∧
      (u.writeAll q (s.saveWrites q a b)).2.rd (a + 0x100) 128 = l.flatMap entryBytes ∧
      (∀ y ∈ l, (u.writeAll q (s.saveWrites q a b)).2.rd (a + y.2.2.1) y.2.2.2.length = y.2.2.2) ∧
      KeepsBytes a (contextLength l) s (u.writeAll q (s.saveWrites q a b)).2 := by
  obtain ⟨k₁, k₂, k₃, k₄, o₂, o₃, o₄, c, r, g, e, places, first, second, third⟩ := contextSections_places s q b
  obtain ⟨paper, ep⟩ : ∃ p, s.endpaper q b l dig = p := ⟨_, rfl⟩
  obtain ⟨table, et⟩ : ∃ p, l.flatMap entryBytes = p := ⟨_, rfl⟩
  have paperSize : paper.length = 256 := by rw [← ep]; exact length_endpaper ..
  have tableSize : table.length = 128 := by
    rw [← et, length_flatMap_const _ 32 _ fun x _ => length_entryBytes x, el, places]
    rfl
  obtain ⟨ws, ew⟩ : ∃ ws, (a + 0x100, table) :: (l.map (fun x => (a + x.2.2.1, x.2.2.2)) ++ [(a, paper)]) = ws := ⟨_, rfl⟩
  have writes : s.saveWrites q a b = (a, zeros 4) :: ws := by
    rw [← ew, State.saveWrites, ← el, ← ed, et, ep]
    rfl
  have zero4 : (zeros 4).length = 4 := rfl
  have need : contextLength l = max (max (max (max 0 (0x1000 + c.length)) (o₂ + r.length)) (o₃ + g.length)) (o₄ + e.length) := by
    rw [el, places]
    rfl
  have good := stores.good clean
  have inside' : u.inDram a (contextLength l) = true := by rw [inDram_of_boot (stores.pieces .boot (by decide))]; exact inside
  have four := stores_wrDram good q a (zeros 4)
  have step : u.writeAll q ((a, zeros 4) :: ws) = (u.wrDram q a (zeros 4)).writeAll q ws := by
    rw [State.writeAll, writeFails_good good inside' (Nat.le_refl a) (by omega)]
    rfl
  have ws' : ws = [(a + 0x100, table), (a + 0x1000, c), (a + o₂, r), (a + o₃, g), (a + o₄, e), (a, paper)] := by
    rw [← ew, el, places]
    rfl
  obtain ⟨all, others, kept, back, -⟩ := writeAll_good (a := a) (n := contextLength l) q ws (four.good good)
    (by rw [inDram_of_boot (four.pieces .boot (by decide))]; exact inside')
    (by
      rw [ws']
      intro w hw
      simp only [List.mem_cons, List.not_mem_nil, or_false] at hw
      rcases hw with rfl | rfl | rfl | rfl | rfl | rfl <;> constructor <;> dsimp only <;> omega)
    (by
      rw [ws']
      simp only [List.pairwise_cons, List.mem_cons, List.not_mem_nil, or_false, forall_eq_or_imp, forall_eq, Apart,
        List.Pairwise.nil, and_true, false_implies, implies_true]
      omega)
  rw [writes, step]
  have final : (a, paper) ∈ ws := by rw [← ew]; simp
  have tabled : (a + 0x100, table) ∈ ws := by rw [← ew]; exact List.mem_cons_self
  have paperBack := back _ final
  have tableBack := back _ tabled
  rw [paperSize] at paperBack
  rw [tableSize] at tableBack
  rw [ep, et]
  refine ⟨all, (stores.trans four).trans others, paperBack, tableBack, fun y hy => ?_, (keeps.trans ?_).trans kept⟩
  · refine back (a + y.2.2.1, y.2.2.2) ?_
    rw [← ew]
    exact List.mem_cons_of_mem _ (List.mem_append_left _ (List.mem_map.mpr ⟨y, hy, rfl⟩))
  · exact (keepsBytes_wrDram good q a (zeros 4)).widen (Nat.le_refl a) (by omega)

/-! ## The partition of a restore (R334) -/

theorem keepsCores_foldl {α : Type} {cs : List Nat} {f : State → α → State} (l : List α)
    (step : ∀ t, ∀ a ∈ l, KeepsCores cs t (f t a)) (s : State) : KeepsCores cs s (l.foldl f s) := by
  induction l generalizing s with
  | nil => exact .refl _ _
  | cons a l ih => exact (step s a List.mem_cons_self).trans (ih (fun t b hb => step t b (List.mem_cons_of_mem _ hb)) _)

theorem keepsCores_updCore_mem {cs : List Nat} {n : Nat} (mem : n ∈ cs) (s : State) (f : CoreState → CoreState) :
    KeepsCores cs s (s.updCore n f) := fun m hm =>
  keepsCores_updCore s n f m fun own => hm (List.mem_singleton.mp own ▸ mem)

/-- A reset that keeps the Binding: the partition is LOADED with it, and only its own cores have changed. -/
theorem resetKeeping_spec (s : State) (q : Nat) (b : Binding) (d : DescRef) :
    (s.resetKeeping q b d).partCores q = s.partCores q ∧ KeepsCores (s.partCores q) s (s.resetKeeping q b d) ∧
      ((s.resetKeeping q b d).part q).run = .loaded ∧ ((s.resetKeeping q b d).part q).binding = some b := by
  unfold State.resetKeeping
  extract_lets u p mine v w x others hall y
  have drained : s.Ends u := ends_drainPart s q
  have reset : u.Ends v := (ends_resetPartFor u q (some d)).after (ends_resetEnded u q (some d))
  have regions : v.Ends w := .foldl (fun t r => .of_within (within_setReg t _ _)) b.regions v
  have cores : w.Ends x := .foldl (fun t n => .of_within (within_updCore t n _)) (u.partCores q) w
  have streams : x.Ends y := .of_within (within_hall (s := x) _)
  have before : s.Ends y := streams.after (cores.after (regions.after (reset.after drained)))
  refine ⟨?_, ?_, by rw [State.part_updPart_self], by rw [State.part_updPart_self]⟩
  · have shape := before.partCores q
    rw [State.partCores] at shape
    rw [State.partCores, State.part_updPart_self]
    dsimp only at shape ⊢
    exact shape
  have same : u.partCores q = s.partCores q := drained.partCores q
  have one : KeepsCores (s.partCores q) s u := (within_drainPart s q).touches.keepsCores (by decide) _
  have two : KeepsCores (s.partCores q) u v := same ▸ keepsCores_resetPartFor u q (some d)
  have setRegions : Within [.regs] v w := .foldl (fun t r => within_setReg t _ _) b.regions (.refl _ v)
  have three : KeepsCores (s.partCores q) v w := setRegions.touches.keepsCores (by decide) _
  have four : KeepsCores (s.partCores q) w x := by
    rw [← same]
    exact keepsCores_foldl _ (fun t n hn => keepsCores_updCore_mem hn t _) w
  have five : KeepsCores (s.partCores q) x y := (within_hall (s := x) _).touches.keepsCores (by decide) _
  exact (one.trans (two.trans (three.trans (four.trans five)))).through (touches_updPart y q _)

theorem keepsCores_writeRecord {cs : List Nat} {n : Nat} (mem : n ∈ cs) (s : State) (off : Nat) (bs : List Byte) :
    KeepsCores cs s (s.writeRecord n off bs) := by
  unfold State.writeRecord
  extract_lets part s1 lo s2 live
  have ram : Within [.regs, .mem, .sramErr, .flt] s s1 := .ite (within_wrSram ..) (.refl _ _)
  have carry : KeepsCores cs s s2 :=
    (ram.touches.keepsCores (by decide) cs).trans ((within_carry_putSpan s1 _ _).touches.keepsCores (by decide) cs)
  split
  · exact carry
  · exact carry.trans (keepsCores_updCore_mem mem s2 _)

theorem keepsCores_writeRecords (s : State) (q : Nat) (m : Context) : KeepsCores (s.partCores q) s (s.writeRecords q m) :=
  keepsCores_foldl _ (fun t _ he => keepsCores_writeRecord (List.of_mem_zip he).1 t 0 _) s

/-- A partition whose rings and drain alone have changed. -/
structure Partition.Rings (p p' : Partition) : Prop where
  rest : ∃ r e, p' = { p with rings := r, drain := e }

theorem Partition.Rings.refl (p : Partition) : p.Rings p := ⟨_, _, rfl⟩

theorem Partition.Rings.trans {p q r : Partition} (h : p.Rings q) (k : q.Rings r) : p.Rings r := by
  obtain ⟨a, b, e⟩ := h
  obtain ⟨c, d, e'⟩ := k
  exact ⟨c, d, by rw [e', e]⟩

theorem rings_updPart (s : State) (q : Nat) {f : Partition → Partition} (h : ∀ p, Partition.Rings p (f p)) :
    (s.part q).Rings ((s.updPart q f).part q) := by
  rw [State.part_updPart_self]
  exact h _

theorem rings_landGroup (s : State) (q ring : Nat) (b : Binding) (d : RingDesc) :
    (s.part q).Rings ((s.landGroup q ring b d).part q) := by
  unfold State.landGroup
  extract_lets x a n bytes u pl v
  have first : u.part q = s.part q := part_through (within_dramRead s q a 4096).touches q
  have second : v.part q = u.part q := part_through (within_bufferWrite u _ _ _).touches q
  rw [← first, ← second]
  exact rings_updPart v q fun p => ⟨_, _, rfl⟩

theorem rings_restartRing {s t : State} {q : Nat} {b : Binding} {r : Nat} {d : RingDesc} {off : Nat}
    (h : s.restartRing q b r d off = some t) : (s.part q).Rings (t.part q) := by
  unfold State.restartRing at h
  extract_lets u at h
  have moved : (s.part q).Rings (u.part q) := by
    rw [part_through (within_mapStreams s _).touches q]
    exact .refl _
  split at h
  · split at h
    · obtain rfl := Option.some.inj h
      exact moved.trans (rings_updPart u q fun p => ⟨_, _, rfl⟩)
    · obtain rfl := Option.some.inj h
      exact moved.trans (rings_updPart u q fun p => ⟨_, _, rfl⟩)
  · split at h
    · rename_i v w _ _
      have placed : (s.part q).Rings (v.part q) := moved.trans (rings_updPart u q fun p => ⟨_, _, rfl⟩)
      have landed : (s.part q).Rings (w.part q) := by
        dsimp only [w]
        split
        · exact placed.trans (rings_landGroup v q r b d)
        · exact placed
      split at h
      · obtain rfl := Option.some.inj h
        exact placed
      · split at h
        · exact absurd h (by simp)
        · obtain rfl := Option.some.inj h
          exact landed.trans (rings_updPart w q fun p => ⟨_, _, rfl⟩)
    · obtain rfl := Option.some.inj h
      exact moved.trans (rings_updPart u q fun p => ⟨_, _, rfl⟩)

theorem rings_restartRings {s t : State} {q : Nat} {b : Binding} {offs : List (Nat × Nat)}
    (h : s.restartRings q b offs = some t) : (s.part q).Rings (t.part q) := by
  unfold State.restartRings at h
  generalize b.rings.zipIdx = l at h
  induction l generalizing s with
  | nil =>
    obtain rfl := Option.some.inj h
    exact .refl _
  | cons e l ih =>
    rw [List.foldl_cons] at h
    cases first : s.restartRing q b e.2 e.1 (((offs.find? (fun o => o.1 == e.2)).map Prod.snd).getD 0) with
    | none =>
      have stuck (l : List (RingDesc × Nat)) : l.foldl (fun (a : Option State) e => match a with
          | some t => t.restartRing q b e.2 e.1 (((offs.find? (fun o => o.1 == e.2)).map Prod.snd).getD 0)
          | none => none) none = none := by
        induction l with
        | nil => rfl
        | cons e l ih => exact ih
      dsimp only at h
      rw [first] at h
      exact absurd (h.symm.trans (stuck l)) (by simp)
    | some u =>
      dsimp only at h
      rw [first] at h
      exact (rings_restartRing first).trans (ih h)

/-- The end of a restore whose rings stand: it completes when they are ready, and waits for them otherwise. -/
theorem settleRestore_standing {s : State} {q : Nat} {d : DescRef} {detail : Nat} (own : (s.part q).restore = some (d, detail))
    (stands : (s.part q).ringStopped = false) : ∃ f,
    (s.settleRestore q).part q = { s.part q with
      faulted := f, restore := if (s.part q).ringsReady then none else some (d, detail) } ∧
    ((s.part q).ringsReady = true → (s.settleRestore q).desc d = none) ∧ (s.settleRestore q).cores = s.cores := by
  have stands' : ¬ (s.part q).ringStopped = true := by simp [stands]
  rw [State.settleRestore, own]
  dsimp only
  rw [if_neg stands']
  by_cases ready : (s.part q).ringsReady = true
  · rw [if_pos ready, if_pos ready]
    refine ⟨false, ?_, fun _ => desc_complete_self .., ?_⟩
    · rw [part_through (touches_complete _ d stDone detail 0), State.part_updPart_self]
    · exact (touches_complete _ d stDone detail 0 .cores (by decide)).trans (touches_updPart s q _ .cores (by decide))
  · rw [if_neg ready, if_neg ready]
    exact ⟨(s.part q).faulted, by rw [← own], fun h => absurd h ready, rfl⟩

/-- The outcome of a restore or a refold once its partition stands: its rings restart, or its partition is reset. -/
theorem restart_settles {v w : State} {q : Nat} {b : Binding} {offs : List (Nat × Nat)} {d : DescRef} {detail : Nat}
    (own : (v.part q).restore = some (d, detail)) (restarts : v.restartRings q b offs = some w)
    (stands : (w.part q).ringStopped = false) : ∃ r e f,
    (w.settleRestore q).part q = { v.part q with
      rings := r, drain := e, faulted := f, restore := if (w.part q).ringsReady then none else some (d, detail) } ∧
    ((w.part q).ringsReady = true → (w.settleRestore q).desc d = none) ∧ (w.settleRestore q).cores = v.cores := by
  obtain ⟨r, e, part⟩ := rings_restartRings restarts
  obtain ⟨f, settled, ends, cores⟩ := settleRestore_standing (s := w) (q := q) (d := d) (detail := detail)
    (by rw [part]; exact own) stands
  refine ⟨r, e, f, by rw [settled, part], ends, cores.trans ((within_restartRings restarts).touches .cores (by decide))⟩

/-! ## SAVE_CONTEXT, RESTORE_CONTEXT and REFOLD_CONTEXT as operations of a descriptor (R331, R334, R336) -/

/-- A save of a partition in good memory (R330, R331). -/
theorem saveContext_saves {s : State} {d : DescRef} {x : Desc} {b : Binding} {l : List SavedSection} {a : Nat}
    {dig : List Byte} (begun : s.begun d 4 = some x) (good : (s.part d.ring).faulted = false)
    (bound : (s.part d.ring).binding = some b) (el : l = s.contextSections d.ring b) (ea : a = x.arg 0x10 8)
    (offers : (s.part d.ring).owedOffers = [])
    (stands : ¬ ((s.part d.ring).run ≠ .loaded ∨ (x.arg 0x20 1 = 0 ∧ (s.part d.ring).point ≠ 0) ∨ 1 < (s.part d.ring).point))
    (room : contextLength l ≤ x.arg 0x18 8) (inside : s.inDram a (contextLength l) = true) (clean : s.dramErr = [])
    (cores : ∀ n ∈ s.partCores d.ring, s.cleanAt (coreBase n) 0x28000)
    (regions : ∀ r ∈ b.useOne, s.cleanAt (bufferBase r.buffer + r.first * 0x10000) r.bytes)
    (ed : dig = contextDigest (s.endpaper d.ring b l (zeros 32)) (l.flatMap entryBytes) (l.map (fun y => y.2.2.2))) :
    ∃ t, exec (.saveContext d) s = .next t ∧ DoneAs x stDone 0 0 s t ∧
      t.rd a 256 = s.endpaper d.ring b l dig ∧ t.rd (a + 0x100) 128 = l.flatMap entryBytes ∧
      (∀ y ∈ l, t.rd (a + y.2.2.1) y.2.2.2.length = y.2.2.2) ∧
      KeepsBytes a (contextLength l) s t ∧ KeepsPartsSaveNotes [] s t ∧
      OnlyTouches [.mem, .parts, .rings, .descs] s t := by
  obtain ⟨here, -, live, -⟩ := begun_iff.mp begun
  obtain ⟨m, em⟩ : ∃ m, s.wrDram d.ring a (zeros 4) = m := ⟨_, rfl⟩
  have need : 4 ≤ contextLength l := by
    obtain ⟨k₁, k₂, k₃, k₄, o₂, o₃, o₄, c, r, g, e, places, -, -, -⟩ := contextSections_places s d.ring b
    have whole : contextLength l = max (max (max (max 0 (0x1000 + c.length)) (o₂ + r.length)) (o₃ + g.length)) (o₄ + e.length) := by
      rw [el, places]
      rfl
    omega
  have marked : s.writeAll d.ring [(a, zeros 4)] = (true, m) := by
    rw [State.writeAll, writeFails_good clean inside (Nat.le_refl a) (show a + (zeros 4).length ≤ _ from Nat.add_le_add_left need a),
      em]
    rfl
  have stores : Stores s m := by rw [← em]; exact stores_wrDram clean ..
  have keeps : KeepsBytes a (contextLength l) s m := by
    rw [← em]
    exact (keepsBytes_wrDram clean d.ring a (zeros 4)).widen (Nat.le_refl a) (Nat.add_le_add_left need a)
  have err : m.sramErr = s.sramErr := stores.pieces .sramErr (by decide)
  have same : m.partCores d.ring = s.partCores d.ring := by
    obtain ⟨c, j, e⟩ := stores.notes d.ring
    rw [State.partCores, State.partCores, e]
  have read : m.readForSave d.ring b = (true, m) := by
    refine readForSave_clean (fun n hn => ?_) fun r hr => ?_
    · exact fun g hg => by rw [err]; exact cores n (same ▸ hn) g hg
    · exact fun g hg => by rw [err]; exact regions r hr g hg
  obtain ⟨all, stored, paper, table, sections, kept⟩ := saveWrites_good (a := a) clean el inside stores keeps ed
  obtain ⟨u, eu⟩ : ∃ u, (m.writeAll d.ring (s.saveWrites d.ring a b)).2 = u := ⟨_, rfl⟩
  rw [eu] at stored paper table sections kept
  obtain ⟨done, completes⟩ := complete_after stored.pieces here live stDone 0 0
  obtain ⟨t, et⟩ : ∃ t, u.complete d stDone 0 0 = t := ⟨_, rfl⟩
  rw [et] at done completes
  have mem : t.mem = u.mem := completes .mem (by decide)
  refine ⟨t, saveContext_bound begun good bound ?_, done, ?_, ?_, fun y hy => ?_, ?_, ?_, ?_⟩
  · rw [← el, ← ea, if_neg (by simp [offers]), if_neg stands, if_neg (by omega), if_neg (by simp [inside])]
    dsimp only
    rw [marked]
    dsimp only
    rw [read]
    dsimp only
    rw [all, eu, ← et]
    rfl
  · rw [rd_of_mem mem, paper]
  · rw [rd_of_mem mem, table]
  · rw [rd_of_mem mem, sections y hy]
  · intro k hk
    rw [State.byteAt, mem]
    exact kept k hk
  · intro q _
    obtain ⟨c, j, e⟩ := stored.notes q
    rw [part_through completes, e]
  · exact (stored.pieces.mono (by decide)).trans (completes.mono (by decide))

section
variable {s : State} {d : DescRef} {x : Desc}

theorem restoreContext_goesOn (begun : s.begun d 5 = some x) (own : (s.part d.ring).restore.map Prod.fst = some d) :
    exec (.restoreContext d) s = .next (s.settleRestore d.ring) := by
  rw [show exec (.restoreContext d) s = execRestoreContext d s from rfl, execRestoreContext, onDesc_begun begun]
  exact congrArg Host.Outcome.next (if_pos own)

theorem refoldContext_goesOn (begun : s.begun d 6 = some x) (own : (s.part d.ring).restore.map Prod.fst = some d) :
    exec (.refoldContext d) s = .next (s.settleRestore d.ring) := by
  rw [show exec (.refoldContext d) s = execRefoldContext d s from rfl, execRefoldContext, onDesc_begun begun]
  exact congrArg Host.Outcome.next (if_pos own)

/-- A restore or refold that has begun, at a later look (R334). -/
theorem settleRestore_spec {detail op : Nat} (begun : s.begun d op = some x) (own : (s.part d.ring).restore = some (d, detail)) :
    ((s.part d.ring).ringStopped = true → (∀ j, (s.part d.ring).job = some j → j.desc ≠ d) →
      ((s.settleRestore d.ring).part d.ring).run = .empty ∧ ((s.settleRestore d.ring).part d.ring).binding = none ∧
        ((s.settleRestore d.ring).part d.ring).faulted = false ∧ (s.settleRestore d.ring).desc d = none ∧
        OnlyTouches resetPieces s (s.settleRestore d.ring)) ∧
    ((s.part d.ring).ringStopped = false → (s.part d.ring).ringsReady = true →
      DoneAs x stDone detail 0 s (s.settleRestore d.ring) ∧
        (s.settleRestore d.ring).part d.ring = { s.part d.ring with restore := none, faulted := false } ∧
        KeepsParts [d.ring.val] s (s.settleRestore d.ring) ∧ OnlyTouches [.parts, .rings, .descs] s (s.settleRestore d.ring)) ∧
    ((s.part d.ring).ringStopped = false → (s.part d.ring).ringsReady = false → s.settleRestore d.ring = s) := by
  obtain ⟨here, running, live, -⟩ := begun_iff.mp begun
  have step : s.settleRestore d.ring = (if (s.part d.ring).ringStopped then s.resetPart d.ring
      else if (s.part d.ring).ringsReady then
        (s.updPart d.ring (fun p => { p with restore := none, faulted := false })).complete d stDone detail 0
      else s) := by
    rw [State.settleRestore, own]
  rw [step]
  refine ⟨fun stopped run => ?_, fun stands ready => ?_, fun stands waits => ?_⟩
  · rw [if_pos stopped]
    obtain ⟨p, j, part⟩ := part_resetPartFor s d.ring none
    have reset : s.resetPart d.ring = s.resetPartFor d.ring none := rfl
    rw [reset, part]
    have ref := desc_ref here
    subst ref
    exact ⟨rfl, rfl, rfl, desc_resetPartFor (List.mem_of_find?_eq_some here) running (by simp) run,
      (within_resetPart s x.ref.ring).touches⟩
  · rw [if_neg (by simp [stands]), if_pos ready]
    have work := touches_updPart s d.ring (fun p => { p with restore := none, faulted := false })
    obtain ⟨done, completes⟩ := complete_after work here live stDone detail 0
    refine ⟨done, ?_, ?_, ?_⟩
    · rw [part_through completes, State.part_updPart_self]
    · exact KeepsParts.through (keepsParts_updPart _ _ _) completes
    · exact OnlyTouches.trans (work.mono (by decide)) (completes.mono (by decide))
  · rw [if_neg (by simp [stands]), if_neg (by simp [waits])]

end

/-! ### The branches of RESTORE_CONTEXT (R333, R334) -/

/-- The partition's state once a restore has written it, before its rings restart. -/
def State.restoreWritten (u : State) (q : Nat) (b : Binding) (m : Context) (d : DescRef) : State :=
  (((u.resetKeeping q b d).writeRecords q m).writeRegions b.useOne (m.bytesOf 3)).updPart q
    (fun p => p.restored m (leAt m 0x40 8) m.point 0 d)

section
variable {s u : State} {d : DescRef} {x : Desc} {m : Context} {b : Binding} (begun : s.begun d 5 = some x)
  (other : (s.part d.ring).restore.map Prod.fst ≠ some d)
include begun other

theorem restoreContext_unread {st : Nat} (read : s.readContext d.ring (x.arg 0x10 8) (x.arg 0x18 8) = (.error st, u)) :
    exec (.restoreContext d) s = .next (u.complete d st 0 0) := by
  rw [show exec (.restoreContext d) s = execRestoreContext d s from rfl, execRestoreContext, onDesc_begun begun]
  refine congrArg Host.Outcome.next ((if_neg other).trans ?_)
  rw [read]

variable (read : s.readContext d.ring (x.arg 0x10 8) (x.arg 0x18 8) = (.ok m, u))
include read

theorem restoreContext_unbound (none : (u.part d.ring).binding = none) :
    exec (.restoreContext d) s = .next (u.complete d stRefused 0 0) := by
  rw [show exec (.restoreContext d) s = execRestoreContext d s from rfl, execRestoreContext, onDesc_begun begun]
  refine congrArg Host.Outcome.next ((if_neg other).trans ?_)
  rw [read]
  dsimp only
  rw [none]

variable (bound : (u.part d.ring).binding = some b)
include bound

theorem restoreContext_fails {st : Nat × Nat} (fails : u.restoreStatus d.ring b m = some st) :
    exec (.restoreContext d) s = .next (u.complete d st.1 st.2 0) := by
  rw [show exec (.restoreContext d) s = execRestoreContext d s from rfl, execRestoreContext, onDesc_begun begun]
  refine congrArg Host.Outcome.next ((if_neg other).trans ?_)
  rw [read]
  dsimp only
  rw [bound]
  dsimp only
  rw [fails]

variable (passes : u.restoreStatus d.ring b m = none) {v : State} (written : u.restoreWritten d.ring b m d = v)
include passes written

theorem restoreContext_stopped (stops : v.restartRings d.ring b m.ringOffs = none) :
    exec (.restoreContext d) s = .next ((v.updPart d.ring (fun p => { p with restore := none })).resetPart d.ring) := by
  rw [State.restoreWritten] at written
  rw [show exec (.restoreContext d) s = execRestoreContext d s from rfl, execRestoreContext, onDesc_begun begun]
  refine congrArg Host.Outcome.next ((if_neg other).trans ?_)
  rw [read]
  dsimp only
  rw [bound]
  dsimp only
  rw [passes]
  dsimp only
  rw [written, stops]

theorem restoreContext_restarts {w : State} (restarts : v.restartRings d.ring b m.ringOffs = some w) :
    exec (.restoreContext d) s = .next (w.settleRestore d.ring) := by
  rw [State.restoreWritten] at written
  rw [show exec (.restoreContext d) s = execRestoreContext d s from rfl, execRestoreContext, onDesc_begun begun]
  refine congrArg Host.Outcome.next ((if_neg other).trans ?_)
  rw [read]
  dsimp only
  rw [bound]
  dsimp only
  rw [passes]
  dsimp only
  rw [written, restarts]

end

/-! ### The branches of REFOLD_CONTEXT (R335, R336) -/

/-- The partition's memories and live state once a refold has copied its entries, before the state it takes on. -/
def State.refolded (y : State) (q : Nat) (b : Binding) (es : List FoldEntry) : State :=
  es.foldl (fun a e => a.foldEntry q b e)
    (((y.partCores q).foldl (fun a n => a.updCore n (fun c => c.installed (a.setupLive n))) y).loadBetas q b)

section
variable {s u v : State} {d : DescRef} {x : Desc} {m : Context} {b : Binding} (begun : s.begun d 6 = some x)
  (other : (s.part d.ring).restore.map Prod.fst ≠ some d)
include begun other

theorem refoldContext_unread {st : Nat} (read : s.readContext d.ring (x.arg 0x10 8) (x.arg 0x18 8) = (.error st, u)) :
    exec (.refoldContext d) s = .next (u.complete d st 0 0) := by
  rw [show exec (.refoldContext d) s = execRefoldContext d s from rfl, execRefoldContext, onDesc_begun begun]
  refine congrArg Host.Outcome.next ((if_neg other).trans ?_)
  rw [read]

variable (read : s.readContext d.ring (x.arg 0x10 8) (x.arg 0x18 8) = (.ok m, u))
include read

theorem refoldContext_malformed (bad : ((m.sect 5).isSome && !foldOk (m.bytesOf 5)) = true) :
    exec (.refoldContext d) s = .next (u.complete d stBad 0 0) := by
  rw [show exec (.refoldContext d) s = execRefoldContext d s from rfl, execRefoldContext, onDesc_begun begun]
  refine congrArg Host.Outcome.next ((if_neg other).trans ?_)
  rw [read]
  exact if_pos bad

variable (wellFormed : ((m.sect 5).isSome && !foldOk (m.bytesOf 5)) = false)
include wellFormed

theorem refoldContext_othersUnread {st : Nat} (reads : u.readOthers d.ring (foldOthers (m.bytesOf 5)) = (.error st, v)) :
    exec (.refoldContext d) s = .next (v.complete d st 0 0) := by
  rw [show exec (.refoldContext d) s = execRefoldContext d s from rfl, execRefoldContext, onDesc_begun begun]
  refine congrArg Host.Outcome.next ((if_neg other).trans ?_)
  rw [read]
  refine (if_neg (by simp [wellFormed])).trans ?_
  rw [reads]

variable {others : List (Nat × Context)} (reads : u.readOthers d.ring (foldOthers (m.bytesOf 5)) = (.ok others, v))
include reads

theorem refoldContext_unbound (none : (v.part d.ring).binding = none) :
    exec (.refoldContext d) s = .next (v.complete d stRefused 0 0) := by
  rw [show exec (.refoldContext d) s = execRefoldContext d s from rfl, execRefoldContext, onDesc_begun begun]
  refine congrArg Host.Outcome.next ((if_neg other).trans ?_)
  rw [read]
  refine (if_neg (by simp [wellFormed])).trans ?_
  rw [reads]
  dsimp only
  rw [none]

variable (bound : (v.part d.ring).binding = some b)
include bound

theorem refoldContext_fails {st : Nat × Nat} (fails : v.refoldStatus d.ring b m ((x.arg 0x10 8, m) :: others) = some st) :
    exec (.refoldContext d) s = .next (v.complete d st.1 st.2 0) := by
  rw [show exec (.refoldContext d) s = execRefoldContext d s from rfl, execRefoldContext, onDesc_begun begun]
  refine congrArg Host.Outcome.next ((if_neg other).trans ?_)
  rw [read]
  refine (if_neg (by simp [wellFormed])).trans ?_
  rw [reads]
  dsimp only
  rw [bound]
  dsimp only
  rw [fails]

variable (passes : v.refoldStatus d.ring b m ((x.arg 0x10 8, m) :: others) = none) {es : List FoldEntry}
  (entries : es = (foldRaw (m.bytesOf 5)).map FoldEntry.ofBytes) {detail : Nat}
  (code : detail = if m.point == 0 && v.det then 0 else 1) {offs : List (Nat × Nat)}
  (offsets : offs = (es.filter (fun e => e.kind == 2)).map (fun e => (e.index, leNat (v.rd e.source 8)))) {z : State}
  (written : ((v.resetKeeping d.ring b d).refolded d.ring b es).updPart d.ring (fun p => p.restored m 0 0 detail d) = z)
include passes entries code offsets written

theorem refoldContext_stopped (stops : z.restartRings d.ring b offs = none) :
    exec (.refoldContext d) s = .next ((z.updPart d.ring (fun p => { p with restore := none })).resetPart d.ring) := by
  rw [State.refolded, entries, code] at written
  rw [offsets, entries] at stops
  rw [show exec (.refoldContext d) s = execRefoldContext d s from rfl, execRefoldContext, onDesc_begun begun]
  refine congrArg Host.Outcome.next ((if_neg other).trans ?_)
  rw [read]
  refine (if_neg (by simp [wellFormed])).trans ?_
  rw [reads]
  dsimp only
  rw [bound]
  dsimp only
  rw [passes]
  dsimp only
  rw [written, stops]

theorem refoldContext_restarts {w : State} (restarts : z.restartRings d.ring b offs = some w) :
    exec (.refoldContext d) s = .next (w.settleRestore d.ring) := by
  rw [State.refolded, entries, code] at written
  rw [offsets, entries] at restarts
  rw [show exec (.refoldContext d) s = execRefoldContext d s from rfl, execRefoldContext, onDesc_begun begun]
  refine congrArg Host.Outcome.next ((if_neg other).trans ?_)
  rw [read]
  refine (if_neg (by simp [wellFormed])).trans ?_
  rw [reads]
  dsimp only
  rw [bound]
  dsimp only
  rw [passes]
  dsimp only
  rw [written, restarts]

end

/-! ## What a restore and a refold leave (R334, R335) -/

theorem part_restoreWritten (u : State) (q : Nat) (b : Binding) (m : Context) (d : DescRef) :
    (u.restoreWritten q b m d).part q = ((u.resetKeeping q b d).part q).restored m (leAt m 0x40 8) m.point 0 d := by
  rw [State.restoreWritten, State.part_updPart_self, part_through (within_writeRegions ..).touches,
    part_through (within_writeRecords ..).touches]

theorem keepsCores_restoreWritten (u : State) (q : Nat) (b : Binding) (m : Context) (d : DescRef) :
    KeepsCores (u.partCores q) u (u.restoreWritten q b m d) := by
  obtain ⟨shape, reset, -, -⟩ := resetKeeping_spec u q b d
  have records := keepsCores_writeRecords (u.resetKeeping q b d) q m
  rw [shape] at records
  exact ((reset.trans records).through (within_writeRegions _ b.useOne (m.bytesOf 3)).touches).through (touches_updPart _ q _)

/-- The steps of a refold leave the partitions, and the cores of others. -/
theorem refolded_spec (y : State) (q : Nat) (b : Binding) (es : List FoldEntry) :
    (y.refolded q b es).parts = y.parts ∧ KeepsCores (y.partCores q) y (y.refolded q b es) := by
  unfold State.refolded
  obtain ⟨z, ez⟩ : ∃ z, (y.partCores q).foldl (fun a n => a.updCore n (fun c => c.installed (a.setupLive n))) y = z := ⟨_, rfl⟩
  have installed : Within [.cores] y z := by
    rw [← ez]
    exact .foldl (fun t n => within_updCore t n _) _ (.refl _ y)
  have ownInstalled : KeepsCores (y.partCores q) y z := by
    rw [← ez]
    exact keepsCores_foldl _ (fun t n hn => keepsCores_updCore_mem hn t _) y
  rw [ez]
  have betas : (z.loadBetas q b).parts = z.parts := (within_loadBetas z q b).touches .parts (by decide)
  have ownBetas : KeepsCores (z.partCores q) z (z.loadBetas q b) := by
    unfold State.loadBetas State.setBetas
    split
    · exact keepsCores_foldl _ (fun t n hn => keepsCores_updCore_mem hn t _) z
    · exact .refl _ _
  have partCores {s t : State} (h : t.parts = s.parts) : t.partCores q = s.partCores q := by
    rw [State.partCores, State.partCores, part_of_parts h]
  have parts : (z.loadBetas q b).parts = y.parts := betas.trans (installed.touches .parts (by decide))
  rw [partCores (installed.touches .parts (by decide))] at ownBetas
  have before := ownInstalled.trans ownBetas
  generalize z.loadBetas q b = u at parts before
  induction es generalizing u with
  | nil => exact ⟨parts, before⟩
  | cons e es ih =>
    rw [List.foldl_cons]
    refine ih (u.foldEntry q b e) (((within_foldEntry u q b e).touches .parts (by decide)).trans parts) (before.trans ?_)
    have own : KeepsCores (u.partCores q) u (u.foldEntry q b e) := by
      unfold State.foldEntry
      extract_lets bs
      split
      · split
        next n hn => exact keepsCores_writeRecord (List.mem_of_getElem? hn) u e.off bs
        · exact .refl _ _
      · split
        · split
          · exact (within_bufferWrite ..).touches.keepsCores (by decide) _
          · exact .refl _ _
        · exact .refl _ _
    rwa [partCores parts] at own

/-- The partition after a restore or a refold whose rings stand: it is LOADED as the image says (R334). -/
theorem restored_settles {v w : State} {q : Nat} {b : Binding} {offs : List (Nat × Nat)} {d : DescRef} {p : Partition}
    {m : Context} {tick point detail : Nat} (part : v.part q = p.restored m tick point detail d) (run : p.run = .loaded)
    (bound : p.binding = some b) (restarts : v.restartRings q b offs = some w) (stands : (w.part q).ringStopped = false) :
    ((w.settleRestore q).part q).run = .loaded ∧ ((w.settleRestore q).part q).binding = some b ∧
      ((w.settleRestore q).part q).tick = tick ∧ ((w.settleRestore q).part q).sweep = leAt m 0x30 8 ∧
      ((w.settleRestore q).part q).point = point ∧ ((w.settleRestore q).part q).colo.restored = true ∧
      ((w.settleRestore q).part q).restore = (if (w.part q).ringsReady then none else some (d, detail)) ∧
      ((w.part q).ringsReady = true → (w.settleRestore q).desc d = none) ∧ (w.settleRestore q).cores = v.cores := by
  obtain ⟨r, e, f, settled, ends, cores⟩ := restart_settles (q := q) (d := d) (detail := detail) (by rw [part]; rfl) restarts stands
  rw [settled, part]
  exact ⟨run, bound, rfl, rfl, rfl, rfl, rfl, ends, cores⟩

theorem part_resetPart (s : State) (q : Nat) : ((s.resetPart q).part q).run = .empty ∧ ((s.resetPart q).part q).binding = none := by
  obtain ⟨p, j, part⟩ := part_resetPartFor s q none
  rw [show s.resetPart q = s.resetPartFor q none from rfl, part]
  exact ⟨rfl, rfl⟩

theorem touches_restoreContext {d : DescRef} {s t : State} (run : exec (.restoreContext d) s = .next t) :
    OnlyTouches (.carry :: resetPieces) s t := by
  obtain ⟨u, e, within⟩ := within_execRestoreContext d s
  rw [show exec (.restoreContext d) s = execRestoreContext d s from rfl, e] at run
  obtain rfl := Host.Outcome.next.inj run
  exact within.touches.mono (by decide)

theorem touches_refoldContext {d : DescRef} {s t : State} (run : exec (.refoldContext d) s = .next t) :
    OnlyTouches (.carry :: resetPieces) s t := by
  obtain ⟨u, e, within⟩ := within_execRefoldContext d s
  rw [show exec (.refoldContext d) s = execRefoldContext d s from rfl, e] at run
  obtain rfl := Host.Outcome.next.inj run
  exact within.touches.mono (by decide)

theorem part_readContext {s u : State} {q a n : Nat} {r : Except Nat Context} (read : s.readContext q a n = (r, u)) :
    u.parts = s.parts ∧ u.cores = s.cores := by
  have within := (within_readContext s q a n).of_pair read
  exact ⟨within.touches .parts (by decide), within.touches .cores (by decide)⟩

theorem part_readOthers {s u : State} {q : Nat} {l : List Nat} {r : Except Nat (List (Nat × Context))}
    (read : s.readOthers q l = (r, u)) : u.parts = s.parts ∧ u.cores = s.cores := by
  have within := (within_readOthers s q l).of_pair read
  exact ⟨within.touches .parts (by decide), within.touches .cores (by decide)⟩

/-- Settles O38, by the branches of each operation; what a restore or a refold leaves is `restored_settles`. -/
theorem contextsSaveAndRestore : Obligations.ContextsSaveAndRestore := by
  unfold Obligations.ContextsSaveAndRestore
  intro d s x
  have partCores {t : State} (h : t.parts = s.parts) : t.partCores d.ring = s.partCores d.ring := by
    rw [State.partCores, State.partCores, part_of_parts h]
  refine ⟨fun begun => ⟨saveContext_faulted begun, saveContext_unbound begun, ?_⟩, ?_, fun begun other => ⟨?_, ?_⟩,
    fun begun other => ⟨?_, ?_⟩⟩
  · intro b l a good bound el ea
    have goesOn {u : State} := saveContext_bound begun good bound (u := u)
    rw [← el, ← ea] at goesOn
    refine ⟨fun offers => goesOn (if_pos (by simp [offers])), fun offers => ⟨fun refused => ?_, fun loaded whole point => ?_⟩⟩
    · exact goesOn ((if_neg (by simp [offers])).trans (if_pos refused))
    · have stands : ¬ ((s.part d.ring).run ≠ .loaded ∨ (x.arg 0x20 1 = 0 ∧ (s.part d.ring).point ≠ 0) ∨
          1 < (s.part d.ring).point) := by
        rintro (bad | ⟨zero, bad⟩ | bad)
        · exact bad loaded
        · exact bad (whole zero)
        · exact absurd point (by omega)
      refine ⟨fun small => ?_, fun room outside => ?_, fun dig room inside clean cores regions ed => ?_⟩
      · exact goesOn ((if_neg (by simp [offers])).trans ((if_neg stands).trans (if_pos small)))
      · exact goesOn ((if_neg (by simp [offers])).trans ((if_neg stands).trans ((if_neg (by omega)).trans
          (if_pos (by simp [outside])))))
      · exact saveContext_saves begun good bound el ea offers stands room inside clean cores regions ed
  · intro detail i which own
    obtain ⟨op, begun, step⟩ : ∃ op, s.begun d op = some x ∧ exec i s = .next (s.settleRestore d.ring) := by
      have mine : (s.part d.ring).restore.map Prod.fst = some d := by rw [own]; rfl
      rcases which with ⟨rfl, begun⟩ | ⟨rfl, begun⟩
      · exact ⟨5, begun, restoreContext_goesOn begun mine⟩
      · exact ⟨6, begun, refoldContext_goesOn begun mine⟩
    obtain ⟨stopped, ready, waits⟩ := settleRestore_spec begun own
    exact ⟨fun h k => ⟨_, step, stopped h k⟩, fun h k => ⟨_, step, ready h k⟩, fun h k => step.trans (congrArg _ (waits h k))⟩
  · exact fun st u read => restoreContext_unread begun other read
  · intro m u read
    obtain ⟨parts, cores⟩ := part_readContext read
    have part : u.part d.ring = s.part d.ring := part_of_parts parts _
    refine ⟨fun none => restoreContext_unbound begun other read (by rw [part]; exact none), fun b bound => ?_⟩
    rw [← part] at bound
    refine ⟨fun st fails => restoreContext_fails begun other read bound fails, fun v passes ev => ⟨fun stops => ?_, ?_⟩⟩
    · have run := restoreContext_stopped begun other read bound passes ev.symm stops
      obtain ⟨empty, unbound⟩ := part_resetPart (v.updPart d.ring (fun p => { p with restore := none })) d.ring
      exact ⟨_, run, empty, unbound, touches_restoreContext run⟩
    · intro w restarts stands
      have run := restoreContext_restarts begun other read bound passes ev.symm restarts
      obtain ⟨-, -, loaded, own⟩ := resetKeeping_spec u d.ring b d
      have written : v.part d.ring = _ := (congrArg (fun t => State.part t d.ring) ev).trans (part_restoreWritten u d.ring b m d)
      obtain ⟨h₁, h₂, h₃, h₄, h₅, h₆, h₇, h₈, settled⟩ := restored_settles written loaded own restarts stands
      refine ⟨_, run, h₁, h₂, h₃, h₄, h₅, h₆, h₇, h₈, fun n hn => ?_, touches_restoreContext run⟩
      have keeps := keepsCores_restoreWritten u d.ring b m d n (by rwa [partCores parts])
      rw [core_of_cores settled, ev]
      exact keeps.trans (core_of_cores cores n)
  · exact fun st u read => refoldContext_unread begun other read
  · intro m u read
    obtain ⟨parts, cores⟩ := part_readContext read
    refine ⟨refoldContext_malformed begun other read, fun wellFormed => ⟨fun st v reads => ?_, fun others v reads => ?_⟩⟩
    · exact refoldContext_othersUnread begun other read wellFormed reads
    obtain ⟨parts', cores'⟩ := part_readOthers reads
    have part : v.part d.ring = s.part d.ring := part_of_parts (parts'.trans parts) _
    refine ⟨fun none => refoldContext_unbound begun other read wellFormed reads (by rw [part]; exact none), fun b bound => ?_⟩
    rw [← part] at bound
    refine ⟨fun st fails => refoldContext_fails begun other read wellFormed reads bound fails, ?_⟩
    intro es y z detail offs passes entries ey ez code offsets
    have written : ((v.resetKeeping d.ring b d).refolded d.ring b es).updPart d.ring (fun p => p.restored m 0 0 detail d) =
        z.updPart d.ring (fun p => p.restored m 0 0 detail d) := by
      rw [ez, ey]
      rfl
    refine ⟨fun stops => ?_, fun w restarts stands => ?_⟩
    · have run := refoldContext_stopped begun other read wellFormed reads bound passes entries code offsets written stops
      obtain ⟨empty, unbound⟩ := part_resetPart
        ((z.updPart d.ring (fun p => p.restored m 0 0 detail d)).updPart d.ring (fun p => { p with restore := none })) d.ring
      exact ⟨_, run, empty, unbound, touches_refoldContext run⟩
    · have run := refoldContext_restarts begun other read wellFormed reads bound passes entries code offsets written restarts
      obtain ⟨shape, reset, loaded, own⟩ := resetKeeping_spec v d.ring b d
      obtain ⟨same, folds⟩ := refolded_spec (v.resetKeeping d.ring b d) d.ring b es
      have folded : z = (v.resetKeeping d.ring b d).refolded d.ring b es := by rw [ez, ey]; rfl
      have base : (z.updPart d.ring (fun p => p.restored m 0 0 detail d)).part d.ring =
          ((v.resetKeeping d.ring b d).part d.ring).restored m 0 0 detail d := by
        rw [State.part_updPart_self, folded, part_of_parts same]
      obtain ⟨h₁, h₂, h₃, h₄, h₅, h₆, h₇, h₈, settled⟩ := restored_settles base loaded own restarts stands
      refine ⟨_, run, h₁, h₂, h₃, h₄, h₅, h₆, h₇, h₈, fun n hn => ?_, touches_refoldContext run⟩
      rw [shape] at folds
      have keeps := (reset.trans folds) n (by rwa [partCores (parts'.trans parts)])
      rw [core_of_cores settled, core_through (touches_updPart _ _ _), folded]
      exact keeps.trans (core_of_cores (cores'.trans cores) n)

end Sys2Proof.Machine
end

section
/-! PROOFS. Data movers, entropy for the host, barrier groups and drain rings. -/

namespace Sys2Proof.Machine

open Sys2Proof

-- One theorem after another: many at once would need too many threads.
set_option Elab.async false

/-! ## Reads of good LPDDR6 as local memory -/

theorem inDram_prefix {s : State} {a n k : Nat} (inside : s.inDram a n = true) (less : k ≤ n) : s.inDram a k = true := by
  by_cases some_ : k = 0
  · simp only [State.inDram, Bool.and_eq_true, Bool.or_eq_true, decide_eq_true_eq, beq_iff_eq] at inside ⊢
    obtain ⟨⟨room, first⟩, -⟩ := inside
    exact ⟨⟨by omega, first⟩, .inl some_⟩
  · have up {b : Nat} (low : a ≤ b) (high : b < a + n) : b < dramBytes ∧ s.sideUp b = true := by
      have place := place_inDram inside low high
      unfold State.place at place
      split at place
      next room =>
        refine ⟨room, ?_⟩
        split at place
        next yes => exact yes
        · exact absurd place (by simp)
      · split at place
        · split at place
          · exact absurd place (by simp)
          · exact absurd place (by simp)
        · split at place
          · exact absurd place (by simp)
          · split at place
            · exact absurd place (by simp)
            · exact absurd place (by simp)
    obtain ⟨-, first⟩ := up (Nat.le_refl a) (by omega)
    obtain ⟨room, last⟩ := up (b := a + k - 1) (by omega) (by omega)
    simp only [State.inDram, Bool.and_eq_true, Bool.or_eq_true, decide_eq_true_eq, beq_iff_eq]
    exact ⟨⟨by omega, first⟩, .inr last⟩

theorem readPieces_dram {s : State} (clean : s.dramErr = []) (tag : Nat) (l : List (Nat × Nat))
    (all : ∀ p ∈ l, s.place p.1 = .dram) : s.readPieces tag l = (l.flatMap (fun p => s.rd p.1 p.2), none, s) := by
  induction l with
  | nil => rfl
  | cons p l ih =>
    have piece : s.readPiece tag p.1 p.2 = (some (s.rd p.1 p.2), s) := by
      rw [State.readPiece, all p List.mem_cons_self]
      dsimp only
      rw [dramRead_good clean, dramUe_none clean]
      rfl
    rw [State.readPieces, piece]
    dsimp only
    rw [ih fun x hx => all x (List.mem_cons_of_mem _ hx), List.flatMap_cons]

/-- The pieces of a range, one after another, are the range. -/
theorem flatMap_pieces (s : State) (a n i : Nat) (few : i ≤ (a + n - 1) / 64 - a / 64 + 1) (some_ : n ≠ 0) :
    (((List.range i).map (fun i => a / 64 + i)).map (fun k => (max a (64 * k), min (a + n) (64 * k + 64) - max a (64 * k)))).flatMap
      (fun p => s.rd p.1 p.2) = s.rd a (pieceEnd a n i - a) := by
  induction i with
  | zero =>
    have empty : pieceEnd a n 0 - a = 0 := by rw [pieceEnd]; omega
    rw [empty]
    rfl
  | succ i ih =>
    rw [List.range_succ, List.map_append, List.map_append, List.flatMap_append, ih (by omega), List.map_singleton,
      List.map_singleton, List.flatMap_singleton]
    dsimp only
    obtain ⟨start, es⟩ : ∃ x, pieceEnd a n i = x := ⟨_, rfl⟩
    obtain ⟨stop, ee⟩ : ∃ x, pieceEnd a n (i + 1) = x := ⟨_, rfl⟩
    have first : max a (64 * (a / 64 + i)) = start := by rw [← es, pieceEnd]; omega
    have last : min (a + n) (64 * (a / 64 + i) + 64) = stop := by rw [← ee, pieceEnd]; omega
    have order : a ≤ start ∧ start < stop ∧ stop ≤ a + n := by omega
    rw [first, last, es, ee, show stop - a = (start - a) + (stop - start) by omega, rd_append,
      Nat.add_sub_cancel' order.1]

theorem localRead_dram {s : State} (clean : s.dramErr = []) {a n : Nat} (inside : s.inDram a n = true) (tag : Nat) :
    s.localRead tag a n = (s.rd a n, none, s) := by
  by_cases some_ : n = 0
  · subst some_
    rfl
  · have whole : pieceEnd a n ((a + n - 1) / 64 - a / 64 + 1) - a = n := by
      rw [pieceEnd]
      omega
    have bytes := flatMap_pieces s a n _ (Nat.le_refl _) some_
    rw [whole] at bytes
    have shape : pieces a n = ((List.range ((a + n - 1) / 64 - a / 64 + 1)).map (fun i => a / 64 + i)).map
        (fun k => (max a (64 * k), min (a + n) (64 * k + 64) - max a (64 * k))) := by
      rw [pieces, accesses, if_neg some_]
    rw [State.localRead, readPieces_dram clean, shape, bytes]
    intro p hp
    rw [shape] at hp
    obtain ⟨k, hk, rfl⟩ := List.mem_map.mp hp
    obtain ⟨i, hi, rfl⟩ := List.mem_map.mp hk
    have := List.mem_range.mp hi
    exact place_inDram inside (Nat.le_max_left ..) (by dsimp only; omega)

/-! ## Bytes read at a source and written at a destination (R234) -/

/-- Where bytes are read without a fault: host memory, or a range of good LPDDR6. -/
theorem sourceRead_good {s : State} {isHost : Bool} {a n k : Nat} (clean : s.dramErr = [])
    (good : isHost = true ∨ s.inDram a n = true) (less : k ≤ n) (host : List Byte) :
    s.sourceRead isHost host a k = (if isHost then padTo k host else s.rd a k, none, s) := by
  cases isHost with
  | true => rfl
  | false =>
    have inside := inDram_prefix (good.resolve_left (by simp)) less
    rw [State.sourceRead, localRead_dram clean inside]
    rfl

/-- Bytes written to host memory, or to a range of good LPDDR6. -/
structure Written (isHost : Bool) (p : Port) (a : Nat) (bs : List Byte) (s t : State) : Prop where
  pieces : OnlyTouches [.mem, .hostA, .hostB, .parts] s t
  bytes  : (if isHost then t.host p a bs.length else t.rd a bs.length) = bs
  host   : isHost = true → OnlyTouches [.hostA, .hostB] s t
  mem    : isHost = false → Stores s t ∧ KeepsBytes a bs.length s t
  notes  : ∀ q, ∃ c j, t.part q = { s.part q with colo := c, job := j }

theorem destWrite_good {s : State} {isHost : Bool} {a n : Nat} {bs : List Byte} (clean : s.dramErr = [])
    (good : isHost = true ∨ s.inDram a n = true) (less : bs.length ≤ n) (p : Port) :
    (s.destWrite isHost p a bs).1 = none ∧ Written isHost p a bs s (s.destWrite isHost p a bs).2 := by
  cases isHost with
  | true =>
    have only := (within_wrHost s p a bs).touches
    exact ⟨rfl, only.mono (by decide), host_wrHost_self s p a bs, fun _ => only, fun h => absurd h (by simp), fun q =>
      ⟨_, _, part_through only q⟩⟩
  | false =>
    have inside := inDram_prefix (good.resolve_left (by simp)) less
    obtain ⟨stores, keeps, bytes⟩ := localWrite_dram clean 127 inside
    refine ⟨?_, stores.pieces.mono (by decide), bytes, fun h => absurd h (by simp), fun _ => ⟨stores, keeps⟩, stores.notes⟩
    have none : s.writeFails a bs.length = none := writeFails_good clean inside (Nat.le_refl a) (Nat.le_refl _)
    rw [State.destWrite]
    simp [none]

/-! ## A data mover, its watchdog expired or not (R302) -/

theorem mover_iff {s : State} {d : DescRef} {x : Desc} {op : Nat} : s.mover d op = some x ↔
    s.desc d = some x ∧ x.phase = .running ∧ x.opcode = op := by
  unfold State.mover
  cases here : s.desc d with
  | none => simp
  | some y =>
    dsimp only
    constructor
    · intro h
      split at h
      next ok =>
        obtain rfl := Option.some.inj h
        exact ⟨rfl, ok⟩
      · exact absurd h (by simp)
    · rintro ⟨h, ok⟩
      obtain rfl := Option.some.inj h
      exact if_pos ok

/-- The bytes that a data mover moves. -/
def State.moverBytes (s : State) (x : Desc) (dest n : Nat) : Nat :=
  if x.expired then min n (Config.moverBlocks s.clk.wall * 4096 - dest % 4096) else n

theorem moverBytes_le (s : State) (x : Desc) (dest n : Nat) : s.moverBytes x dest n ≤ n := by
  unfold State.moverBytes
  split
  · exact Nat.min_le_left ..
  · exact Nat.le_refl n

/-- A mover stops short only when its watchdog has expired, and at a 4 KiB boundary of its destination (R302). -/
theorem moverBytes_short {s : State} {x : Desc} {dest n : Nat} (short : s.moverBytes x dest n < n) :
    x.expired = true ∧ (s.moverBytes x dest n = 0 ∨ (dest + s.moverBytes x dest n) % 4096 = 0) := by
  unfold State.moverBytes at short ⊢
  split at short
  next expired =>
    rw [if_pos expired]
    exact ⟨expired, by omega⟩
  · omega

theorem moverBytes_live {s : State} {x : Desc} (live : x.expired = false) (dest n : Nat) : s.moverBytes x dest n = n :=
  if_neg (by simp [live])

/-- A data mover whose bytes have moved, or failed at an offset. -/
theorem moverRuns_eq {s u : State} {d : DescRef} {x : Desc} (here : s.desc d = some x) {dest n : Nat}
    {run : Nat → Option Nat × State} {o : Option Nat} (ran : run (s.moverBytes x dest n) = (o, u)) :
    s.moverRuns x dest n run = if s.moverBytes x dest n < n then { u with descs := u.descs.filter (fun y => y.ref != d) }
      else u.complete d (if o.isSome then stFaulted else stDone) 0 (o.getD 0) := by
  by_cases short : s.moverBytes x dest n < n
  · rw [if_pos short]
    refine (if_pos short).trans (show ({ (run (s.moverBytes x dest n)).2 with
      descs := (run (s.moverBytes x dest n)).2.descs.filter (fun y => y.ref != x.ref) } : State) = _ from ?_)
    rw [ran, desc_ref here]
  · rw [if_neg short]
    refine (if_neg short).trans (show (match (run (s.moverBytes x dest n)).1 with
      | some o => (run (s.moverBytes x dest n)).2.complete x.ref stFaulted 0 o
      | none => (run (s.moverBytes x dest n)).2.complete x.ref stDone 0 0) = _ from ?_)
    rw [ran, desc_ref here]
    cases o <;> rfl

theorem moverRuns_live {s : State} {d : DescRef} {x : Desc} (here : s.desc d = some x) (live : x.expired = false)
    {dest n : Nat} {run : Nat → Option Nat × State} {o : Option Nat} {u : State} (ran : run n = (o, u)) :
    s.moverRuns x dest n run = u.complete d (if o.isSome then stFaulted else stDone) 0 (o.getD 0) := by
  have all : s.moverBytes x dest n = n := moverBytes_live live dest n
  rw [moverRuns_eq here (all.symm ▸ ran), all, if_neg (Nat.lt_irrefl n)]

/-- A descriptor whose watchdog has expired leaves, and completes nothing. -/
theorem complete_expired {u : State} {d : DescRef} {x : Desc} (here : u.desc d = some x) (expired : x.expired = true)
    (status detail result : Nat) : ((u.complete d status detail result).ringPair d.port d.ring).owed =
      (u.ringPair d.port d.ring).owed := by
  have ref := desc_ref here
  unfold State.complete
  rw [here]
  dsimp only
  rw [if_pos expired]
  obtain ⟨v, ev⟩ : ∃ v, ({ u with descs := u.descs.filter (fun y => y.ref != d) } : State).updRing d.port d.ring
    (fun r => { r with serialEnd := u.mc }) = v := ⟨_, rfl⟩
  rw [ev, ringPair_of_rings ((within_count v _ 47 32 1).touches .rings (by decide)), ← ev, ringPair_updRing_self]
  rfl

/-- A data mover whose bytes move without a fault. -/
theorem moverRuns_good {ps : List Piece} {s u : State} {d : DescRef} {x : Desc} (here : s.desc d = some x) {dest n : Nat}
    {run : Nat → Option Nat × State} (ran : run (s.moverBytes x dest n) = (none, u)) (work : OnlyTouches ps s u)
    (no : .descs ∉ ps ∧ .rings ∉ ps ∧ .clk ∉ ps := by decide) :
    (x.expired = false → DoneAs x stDone 0 0 s (s.moverRuns x dest n run)) ∧
    (x.expired = true → (s.moverRuns x dest n run).desc d = none ∧
      ((s.moverRuns x dest n run).ringPair d.port d.ring).owed = (s.ringPair d.port d.ring).owed) ∧
    Frame [.regs, .rings, .descs] hostRegs u (s.moverRuns x dest n run) := by
  have descs : u.desc d = some x := (desc_of_descs (work .descs no.1) d).trans here
  have rings : u.ringPair d.port d.ring = s.ringPair d.port d.ring := ringPair_of_rings (work .rings no.2.1) ..
  rw [moverRuns_eq here ran]
  by_cases short : s.moverBytes x dest n < n
  · obtain ⟨expired, -⟩ := moverBytes_short short
    rw [if_pos short]
    refine ⟨fun live => absurd (expired.symm.trans live) (by simp), fun _ => ⟨?_, congrArg RingPair.owed rings⟩, ?_⟩
    · refine List.find?_eq_none.mpr fun y hy hd => ?_
      have away : (y.ref != d) = true := (List.mem_filter.mp hy).2
      rw [beq_iff_eq.mp hd] at away
      simp at away
    · exact (Frame.of_within (within_descs (s := u) _)).mono
  · rw [if_neg short]
    refine ⟨fun live => (complete_after work here live stDone 0 0 no).1, fun expired => ⟨desc_complete_self .., ?_⟩,
      frame_complete ..⟩
    rw [complete_expired descs expired, rings]

/-! ## COPY (R234, R302, R309) -/

section
variable {d : DescRef} {host : List Byte} {s : State} {x : Desc} (begun : s.mover d 7 = some x)
include begun

theorem copy_moves (one : (x.arg 0x28 1).testBit 2 = false) :
    exec (.copy d host) s = .next (s.moverRuns x (x.arg 0x18 8) (x.arg 0x20 8) (s.copyBytes x host)) := by
  rw [show exec (.copy d host) s = execCopy d host s from rfl, execCopy, begun]
  exact congrArg Host.Outcome.next (if_neg (by simp [one]))

theorem copy_begins (many : (x.arg 0x28 1).testBit 2 = true) : exec (.copy d host) s = .next (s.mcastStart x host) := by
  rw [show exec (.copy d host) s = execCopy d host s from rfl, execCopy, begun]
  exact congrArg Host.Outcome.next (if_pos many)

end

/-- A COPY between good ranges: what it moves, and what it leaves. -/
theorem copyBytes_good {s : State} {x : Desc} {host : List Byte} {src dst n k : Nat} (es : src = x.arg 0x10 8)
    (ed : dst = x.arg 0x18 8) (clean : s.dramErr = []) (source : (x.arg 0x28 1).testBit 0 = true ∨ s.inDram src n = true)
    (dest : (x.arg 0x28 1).testBit 1 = true ∨ s.inDram dst n = true) (less : k ≤ n) :
    ∃ u bs, s.copyBytes x host k = (none, u) ∧ bs = (if (x.arg 0x28 1).testBit 0 then padTo k host else s.rd src k) ∧
      bs.length = k ∧ Written ((x.arg 0x28 1).testBit 1) x.ref.port dst bs s u := by
  obtain ⟨bs, eb⟩ : ∃ bs, bs = (if (x.arg 0x28 1).testBit 0 then padTo k host else s.rd src k) := ⟨_, rfl⟩
  have size : bs.length = k := by
    rw [eb]
    split
    · exact length_padTo ..
    · exact rd_length ..
  obtain ⟨none, written⟩ := destWrite_good clean dest (size.symm ▸ less : bs.length ≤ n) x.ref.port
  refine ⟨_, bs, ?_, eb, size, written⟩
  rw [State.copyBytes, ← es, ← ed, sourceRead_good clean source less, ← eb]
  dsimp only
  rw [none]
  rfl

/-- What a mover leaves besides its bytes and its descriptor: the partitions but their notes, and the registers but those of
its port. -/
theorem Written.notes_through {isHost : Bool} {p : Port} {a : Nat} {bs : List Byte} {s u t : State}
    (h : Written isHost p a bs s u) (k : Frame [.regs, .rings, .descs] hostRegs u t) :
    KeepsPartsSaveNotes [] s t ∧ KeepsRegs hostRegs s t ∧
      (if isHost then t.host p a bs.length else t.rd a bs.length) = bs ∧
      (isHost = true → t.mem = s.mem ∧ OnlyTouches [.regs, .hostA, .hostB, .rings, .descs] s t) ∧
      (isHost = false → KeepsBytes a bs.length s t ∧ t.hostA = s.hostA ∧ t.hostB = s.hostB ∧
        OnlyTouches [.regs, .mem, .parts, .rings, .descs] s t) := by
  obtain ⟨pieces, bytes, host, mem, notes⟩ := h
  have same : t.mem = u.mem := k.pieces .mem (by decide)
  have hostA : t.hostA = u.hostA := k.pieces .hostA (by decide)
  have hostB : t.hostB = u.hostB := k.pieces .hostB (by decide)
  refine ⟨fun q _ => ?_, (pieces.keepsRegs (by decide) _).trans k.regs, ?_, fun isH => ?_, fun isH => ?_⟩
  · obtain ⟨c, j, e⟩ := notes q
    rw [part_through k.pieces, e]
  · rw [host_of_pieces k.pieces, rd_of_mem same]
    exact bytes
  · exact ⟨same.trans (host isH .mem (by decide)), ((host isH).mono (by decide)).trans (k.pieces.mono (by decide))⟩
  · obtain ⟨stores, keeps⟩ := mem isH
    refine ⟨fun b hb => ?_, hostA.trans (stores.pieces .hostA (by decide)), hostB.trans (stores.pieces .hostB (by decide)),
      (stores.pieces.mono (by decide)).trans (k.pieces.mono (by decide))⟩
    rw [State.byteAt, same]
    exact keeps b hb

/-! ## A multicast COPY (R288, R309) -/

section
variable {s : State} {x : Desc} {host : List Byte}

theorem mcastStart_waits (waits : ∃ y ∈ s.hall.mtx, y.desc = x.ref) : s.mcastStart x host = s := by
  have found : s.hall.mtx.any (fun t => t.desc == x.ref) = true := by simpa using waits
  unfold State.mcastStart
  exact if_pos found

variable (fresh : ∀ y ∈ s.hall.mtx, y.desc ≠ x.ref)
include fresh

theorem mcastStart_long (long : 2 ^ 34 < x.arg 0x20 8) : s.mcastStart x host = s.complete x.ref stBad 0 0 := by
  unfold State.mcastStart
  exact (if_neg (by simpa using fresh)).trans (if_pos long)

variable (short : x.arg 0x20 8 ≤ 2 ^ 34) {m bs : List Byte} {e o : Option Nat} {u v : State}
  (members : s.localRead 127 (x.arg 0x30 8) 128 = (m, e, u))
  (object : u.sourceRead ((x.arg 0x28 1).testBit 0) host (x.arg 0x10 8) (x.arg 0x20 8) = (bs, o, v))
include short members object

theorem mcastStart_unread (failed : e.isSome = true) : s.mcastStart x host = u.complete x.ref stFaulted 0 0 := by
  obtain ⟨k, rfl⟩ := Option.isSome_iff_exists.mp failed
  unfold State.mcastStart
  extract_lets ms r w y z
  rw [if_neg (by simpa using fresh), if_neg (Nat.not_lt.mpr short), show ms = (m, some k, u) from members]

theorem mcastStart_objectUnread (got : e = none) {k : Nat} (failed : o = some k) :
    s.mcastStart x host = v.complete x.ref stFaulted 0 k := by
  subst got failed
  unfold State.mcastStart
  extract_lets ms r w y z
  have em : ms = (m, none, u) := members
  have er : r = (bs, some k, v) := (congrArg (fun q : List Byte × Option Nat × State =>
    q.2.2.sourceRead ((x.arg 0x28 1).testBit 0) host (x.arg 0x10 8) (x.arg 0x20 8)) em).trans object
  rw [if_neg (by simpa using fresh), if_neg (Nat.not_lt.mpr short), em, er]

/-- The transfer of a multicast COPY that begins in a state, with the object and the members it has read. -/
def State.mcastTx (v : State) (x : Desc) (bs m : List Byte) : McastTx :=
  { desc := x.ref, group := x.arg 0x29 1, dest := x.arg 0x18 8, object := bs, members := setBitsOf 1024 (leNat m),
    id := v.hall.mtxNext % 4096, pollAt := v.clk.wall + usec 20 }

theorem mcastStart_begins (got : e = none) (good : o = none) (some_ : setBitsOf 1024 (leNat m) ≠ []) {y : McastTx}
    (ey : v.mcastTx x bs m = y) {w : State} (ew : v.sendParts y (List.range y.frames) = w) :
    s.mcastStart x host = { w with hall := { w.hall with mtx := w.hall.mtx ++ [y], mtxNext := (y.id + 1) % 4096 } } := by
  subst got good
  have nonempty : ¬ y.members.isEmpty = true := by
    rw [← ey]
    simpa [State.mcastTx] using some_
  unfold State.mcastStart
  extract_lets ms r v' y' w'
  have em : ms = (m, none, u) := members
  have er : r = (bs, none, v) := (congrArg (fun q : List Byte × Option Nat × State =>
    q.2.2.sourceRead ((x.arg 0x28 1).testBit 0) host (x.arg 0x10 8) (x.arg 0x20 8)) em).trans object
  have ev : v' = v := congrArg (fun q : List Byte × Option Nat × State => q.2.2) er
  have ey' : y' = y := by
    rw [← ey]
    show v'.mcastTx x r.1 ms.1 = _
    rw [ev, er, em]
  have ew' : w' = w := by
    rw [← ew]
    show v'.sendParts y' (List.range y'.frames) = _
    rw [ev, ey']
  clear_value ms r v' y' w'
  subst em er ev ey' ew'
  rw [if_neg (by simpa using fresh), if_neg (Nat.not_lt.mpr short)]
  exact if_neg nonempty

/-- A multicast COPY whose members and object are read: its transfer waits, and its frames are out. -/
theorem mcastStart_spec (got : e = none) (good : o = none) (some_ : setBitsOf 1024 (leNat m) ≠ []) :
    ∃ t, s.mcastStart x host = t ∧
      t.hall.mtx = s.hall.mtx ++ [({ desc := x.ref, group := x.arg 0x29 1, dest := x.arg 0x18 8, object := bs
                                     members := setBitsOf 1024 (leNat m), id := s.hall.mtxNext % 4096
                                     pollAt := s.clk.wall + usec 20 } : McastTx)] ∧
      t.hall.mtxNext = (s.hall.mtxNext % 4096 + 1) % 4096 ∧ t.hall.conns = s.hall.conns ∧
      OnlyTouches [.regs, .mem, .sramErr, .hall, .flt] s t := by
  have first : OnlyTouches [.regs, .flt] s u := by
    have h := (within_localRead s 127 (x.arg 0x30 8) 128).touches
    rw [members] at h
    exact h
  have second : OnlyTouches [.regs, .flt] u v := by
    have h := (within_sourceRead u ((x.arg 0x28 1).testBit 0) host (x.arg 0x10 8) (x.arg 0x20 8)).touches
    rw [object] at h
    exact h
  have hall : v.hall = s.hall := (second .hall (by decide)).trans (first .hall (by decide))
  have clk : v.clk = s.clk := (second .clk (by decide)).trans (first .clk (by decide))
  obtain ⟨y, ey⟩ : ∃ y, v.mcastTx x bs m = y := ⟨_, rfl⟩
  obtain ⟨w, ew⟩ : ∃ w, v.sendParts y (List.range y.frames) = w := ⟨_, rfl⟩
  have begins := mcastStart_begins fresh short members object got good some_ ey ew
  have sent := inHall_sendParts v y (List.range y.frames)
  have pieces := (within_sendParts v y (List.range y.frames)).touches
  rw [ew] at sent pieces
  rw [State.mcastTx, hall, clk] at ey
  have id : y.id = s.hall.mtxNext % 4096 := by rw [← ey]
  refine ⟨_, begins, ?_, ?_, ?_, ?_⟩
  · exact congrArg₂ (· ++ [·]) ((sent.same .mtx (by simp)).trans (congrArg Hall.mtx hall)) ey.symm
  · exact congrArg (fun k => (k + 1) % 4096) id
  · exact (sent.same .conns (by simp)).trans (congrArg Hall.conns hall)
  · exact (((first.mono (by decide)).trans (second.mono (by decide))).trans pieces).trans
      ((within_hall (s := w) _).touches.mono (by decide))

end

/-! ## FILL (R302, R304) -/

theorem fill_moves {s : State} {d : DescRef} {x : Desc} (begun : s.mover d 8 = some x) :
    exec (.fill d) s = .next (s.moverRuns x (x.arg 0x10 8) (x.arg 0x18 8) (fun n => s.destWrite false d.port (x.arg 0x10 8)
      (((List.replicate (x.arg 0x18 8 / 8) (slice x.bytes 0x20 8)).flatten).take n))) := by
  rw [show exec (.fill d) s = execFill d s from rfl, execFill, begun]

theorem drop_flatten_replicate {α : Type} (l : List α) {k : Nat} (size : l.length = k) (i n : Nat) (less : i ≤ n) :
    ((List.replicate n l).flatten).drop (k * i) = (List.replicate (n - i) l).flatten := by
  induction i generalizing n with
  | zero => rfl
  | succ i ih =>
    obtain ⟨m, rfl⟩ : ∃ m, n = m + 1 := ⟨n - 1, by omega⟩
    rw [List.replicate_succ, List.flatten_cons, Nat.mul_succ, Nat.add_comm, ← List.drop_drop, List.drop_left' size,
      ih m (by omega), Nat.add_sub_add_right]

/-- A repeated pattern, cut somewhere, holds the pattern at each of its places before the cut. -/
theorem slice_pattern {pat : List Byte} (size : pat.length = 8) {n k i : Nat} (inside : 8 * i + 8 ≤ k) (less : k ≤ 8 * n) :
    slice (((List.replicate n pat).flatten).take k) (8 * i) 8 = pat := by
  obtain ⟨m, em⟩ : ∃ m, n - i = m + 1 := ⟨n - i - 1, by omega⟩
  rw [slice, List.drop_take, List.take_take, Nat.min_eq_left (by omega), drop_flatten_replicate pat size i n (by omega), em,
    List.replicate_succ, List.flatten_cons, List.take_left' size]

/-! ## DIGEST (R227, R234, R319) -/

section
variable {s : State} {d : DescRef} {x : Desc} {host : List Byte} (begun : s.begun d 9 = some x)
include begun

theorem digest_unread {k : Nat} (failed : s.dramUe (x.arg 0x10 8) (x.arg 0x18 8) = some k) :
    exec (.digest d host) s = .next ((s.dramRead (descTag d) (x.arg 0x10 8) (x.arg 0x18 8)).complete d stFaulted 0
      (max (x.arg 0x10 8) (k * 64) - x.arg 0x10 8)) := by
  rw [show exec (.digest d host) s = execDigest d host s from rfl, execDigest, onDesc_begun begun]
  dsimp only
  rw [failed]

variable (good : s.dramUe (x.arg 0x10 8) (x.arg 0x18 8) = none) {t : State}
  (et : t = s.dramRead (descTag d) (x.arg 0x10 8) (x.arg 0x18 8)) {dig : List Byte}
  (ed : dig = if (x.arg 0x28 1).testBit 1 then treeDigest [itemOf (s.rd (x.arg 0x10 8) (x.arg 0x18 8))]
    else shake256_256 (s.rd (x.arg 0x10 8) (x.arg 0x18 8)))
include good et ed

theorem digest_compares (compares : (x.arg 0x28 1).testBit 2 = true) {bs : List Byte} {o : Option Nat} {u : State}
    (read : t.sourceRead ((x.arg 0x28 1).testBit 0) host (x.arg 0x20 8) 32 = (bs, o, u)) :
    exec (.digest d host) s = .next (if o.isSome then u.complete d stFaulted 0 0
      else u.complete d (if bs = dig then stDone else stMismatch) 0 0) := by
  rw [show exec (.digest d host) s = execDigest d host s from rfl, execDigest, onDesc_begun begun]
  dsimp only
  rw [good, ← et]
  dsimp only
  rw [← ed, if_pos compares, read]

theorem digest_writes (writes : (x.arg 0x28 1).testBit 2 = false) {o : Option Nat} {u : State}
    (wrote : t.destWrite ((x.arg 0x28 1).testBit 0) d.port (x.arg 0x20 8) dig = (o, u)) :
    exec (.digest d host) s = .next (u.complete d (if o.isSome then stFaulted else stDone) 0 0) := by
  rw [show exec (.digest d host) s = execDigest d host s from rfl, execDigest, onDesc_begun begun]
  dsimp only
  rw [good, ← et]
  dsimp only
  rw [← ed, if_neg (by simp [writes]), wrote]

end

/-! ## GET_ENTROPY (R318, R347, R349, R350) -/

theorem seat_host (p : Port) : Consumer.seat (.host p) = some (p.num + 1) := by cases p <;> rfl

/-- What a port takes of the expander's output in its turn (R349, R350). -/
theorem takeFor_host {s : State} {p : Port} {n : Nat} (serves : s.ent.state.serves = true) (turn : s.turn (.host p) = true)
    (enough : roundUp n 16 ≤ s.ent.out.length) : s.takeFor (.host p) n = some (s.ent.out.take n, { s with ent := { s.ent with
      out := s.ent.out.drop (roundUp n 16), taker := p.num + 1
      taken := if p.num + 1 = s.ent.taker ∧ s.ent.taken < 4096 then s.ent.taken + n else n } }) := by
  rw [State.takeFor, if_pos turn, State.takeOut]
  dsimp only
  rw [if_pos (by simp [serves, enough]), Option.map_some, seat_host]

theorem takeFor_waits {s : State} {p : Port} {n : Nat} (waits : s.turn (.host p) = false ∨ s.ent.out.length < roundUp n 16) :
    s.takeFor (.host p) n = none := by
  rw [State.takeFor]
  split
  next turn =>
    have short := waits.resolve_left (by simp [turn])
    rw [State.takeOut, if_neg (by simp [short])]
    rfl
  · rfl

section
variable {s : State} {d : DescRef} {x : Desc} (begun : s.begun d 10 = some x)
include begun

theorem getEntropy_value {u : State} (value : (if s.ent.state = .off ∨ s.ent.state = .startup then s.complete d stNotReady 0 0
      else if s.ent.state = .fatal then s.complete d stEntropyFailed 0 0
      else if s.ent.state = .limit ∧ s.ent.out.length < x.arg 0x18 4 then s.entRetry d
      else ((s.takeFor (.host d.port) (x.arg 0x18 4)).map (fun r =>
        (r.2.wrHost d.port (x.arg 0x10 8) r.1).complete d stDone 0 0)).getD s) = u) : exec (.getEntropy d) s = .next u := by
  rw [show exec (.getEntropy d) s = execGetEntropy d s from rfl, execGetEntropy, onDesc_begun begun, ← value]
  refine congrArg Host.Outcome.next ?_
  dsimp only
  cases s.takeFor (.host d.port) (x.arg 0x18 4) <;> rfl

/-- GET_ENTROPY with the source at its limit and too little output asks for another try, counted (R347). -/
theorem getEntropy_retries (limit : s.ent.state = .limit) (short : s.ent.out.length < x.arg 0x18 4) :
    ∃ t, exec (.getEntropy d) s = .next t ∧ DoneAs x stRetry 0 0 s t ∧
      t.rf Reg.entStat 63 48 = satAdd (2 ^ 16 - 1) (s.rf Reg.entStat 63 48) 1 ∧ KeepsRegs [Reg.entStat] s t ∧
      OnlyTouches [.regs, .rings, .descs] s t := by
  obtain ⟨here, -, live, -⟩ := begun_iff.mp begun
  have counted := frame_count s Reg.entStat 63 48 1
  have value := rf_count_self s Reg.entStat 1 (show 48 ≤ 63 by decide) (by decide)
  obtain ⟨u, eu⟩ : ∃ u, s.count Reg.entStat 63 48 1 = u := ⟨_, rfl⟩
  rw [eu] at counted value
  obtain ⟨done, completes⟩ := complete_after counted.pieces here live stRetry 0 0
  refine ⟨u.complete d stRetry 0 0, getEntropy_value begun ?_, done, ?_, ?_, ?_⟩
  · rw [if_neg (by simp [limit]), if_neg (by simp [limit]), if_pos ⟨limit, short⟩, State.entRetry, eu]
  · rw [rf_of_reg (completes.keepsRegs (by decide) [] Reg.entStat List.not_mem_nil), value]
  · exact counted.regs.trans (completes.keepsRegs (by decide) _)
  · exact (counted.pieces.mono (by decide)).trans (completes.mono (by decide))

/-- GET_ENTROPY in its turn, with output enough: the bytes stand in host memory, and the output goes on behind them. -/
theorem getEntropy_takes (serves : s.ent.state.serves = true) (limit : s.ent.state = .limit → x.arg 0x18 4 ≤ s.ent.out.length)
    (turn : s.turn (.host d.port) = true) (enough : roundUp (x.arg 0x18 4) 16 ≤ s.ent.out.length) :
    ∃ t, exec (.getEntropy d) s = .next t ∧ DoneAs x stDone 0 0 s t ∧
      t.host d.port (x.arg 0x10 8) (x.arg 0x18 4) = s.ent.out.take (x.arg 0x18 4) ∧
      t.ent = { s.ent with
        out := s.ent.out.drop (roundUp (x.arg 0x18 4) 16), taker := d.port.num + 1
        taken := if d.port.num + 1 = s.ent.taker ∧ s.ent.taken < 4096 then s.ent.taken + x.arg 0x18 4 else x.arg 0x18 4 } ∧
      OnlyTouches [.hostA, .hostB, .rings, .descs, .ent] s t := by
  obtain ⟨here, -, live, -⟩ := begun_iff.mp begun
  have taken := takeFor_host serves turn enough
  obtain ⟨u, eu⟩ : ∃ u, ({ s with ent := { s.ent with
      out := s.ent.out.drop (roundUp (x.arg 0x18 4) 16), taker := d.port.num + 1
      taken := if d.port.num + 1 = s.ent.taker ∧ s.ent.taken < 4096 then s.ent.taken + x.arg 0x18 4 else x.arg 0x18 4 } } :
    State) = u := ⟨_, rfl⟩
  have ent : u.ent = _ := congrArg State.ent eu.symm
  have took : OnlyTouches [.ent] s u := by
    rw [← eu]
    exact (within_ent (s := s) _).touches
  rw [eu] at taken
  obtain ⟨bs, eb⟩ : ∃ bs, s.ent.out.take (x.arg 0x18 4) = bs := ⟨_, rfl⟩
  have size : bs.length = x.arg 0x18 4 := by
    rw [← eb, List.length_take]
    rw [roundUp, ceilDiv] at enough
    omega
  have stored := (within_wrHost u d.port (x.arg 0x10 8) bs).touches
  have bytes := host_wrHost_self u d.port (x.arg 0x10 8) bs
  obtain ⟨w, ew⟩ : ∃ w, u.wrHost d.port (x.arg 0x10 8) bs = w := ⟨_, rfl⟩
  rw [ew] at stored bytes
  have work : OnlyTouches [.hostA, .hostB, .ent] s w := (took.mono (by decide)).trans (stored.mono (by decide))
  obtain ⟨done, completes⟩ := complete_after work here live stDone 0 0
  refine ⟨w.complete d stDone 0 0, getEntropy_value begun ?_, done, ?_, ?_, ?_⟩
  · have off : ¬ (s.ent.state = .off ∨ s.ent.state = .startup) := by
      rintro (h | h) <;> rw [h] at serves <;> exact absurd serves (by decide)
    have fatal : s.ent.state ≠ .fatal := by
      intro h
      rw [h] at serves
      exact absurd serves (by decide)
    have room : ¬ (s.ent.state = .limit ∧ s.ent.out.length < x.arg 0x18 4) := fun h => absurd (limit h.1) (by omega)
    rw [if_neg off, if_neg fatal, if_neg room, taken, eb, Option.map_some, Option.getD_some, ew]
  · rw [host_of_pieces completes, eb, ← size, bytes]
  · exact (completes .ent (by decide)).trans ((stored .ent (by decide)).trans ent)
  · exact (work.mono (by decide)).trans (completes.mono (by decide))

end

/-- Settles O39: each mover by its branches; the bytes of a good move are `copyBytes_good` and `destWrite_good`. -/
theorem moversCopyAndDigest : Obligations.MoversCopyAndDigest := by
  unfold Obligations.MoversCopyAndDigest
  intro d host s x
  refine ⟨fun begun one src dst n es ed en => ⟨fun live o u ran => ?copyLive, fun clean source dest => ?copyGood⟩,
    fun begun many => ⟨fun waits => ?mcastWaits, fun fresh => ⟨fun long => ?mcastLong,
      fun m e u bs o v short members object => ?mcastSends⟩⟩,
    fun begun size a n ea en => ⟨fun live o u ran => ?fillLive, fun clean inside => ?fillGood⟩,
    fun begun a n flags dest t ea en ef ed et => ⟨fun k failed => ?digestUnread, fun dig good edig =>
      ⟨?compares, ?comparesHost, ?writes, ?writesHost, ?writesLocal⟩⟩,
    fun begun n en => ⟨fun off => ?off, fun fatal => ?fatal, ?retries, fun serves limit => ⟨?takes, fun waits => ?waits⟩⟩⟩
  case copyLive =>
    obtain ⟨here, -, -⟩ := mover_iff.mp begun
    rw [copy_moves begun one, moverRuns_live here live (en ▸ ran)]
    cases o <;> rfl
  case copyGood =>
    obtain ⟨here, -, -⟩ := mover_iff.mp begun
    obtain ⟨k, ek⟩ : ∃ k, s.moverBytes x dst n = k := ⟨_, rfl⟩
    have less : k ≤ n := ek ▸ moverBytes_le s x dst n
    obtain ⟨u, bs, ran, eb, len, written⟩ := copyBytes_good (host := host) es ed clean source dest less
    rw [← ek, ed, en] at ran
    obtain ⟨done, expired, ends⟩ := moverRuns_good (dest := x.arg 0x18 8) (n := x.arg 0x20 8) here ran written.pieces
    rw [desc_ref here] at written
    obtain ⟨notes, regs, bytes, host_, mem⟩ := written.notes_through ends
    rw [len, eb] at bytes
    rw [len] at mem
    refine ⟨_, k, copy_moves begun one, less, fun short => ?_, fun live => ⟨?_, done live⟩, expired, bytes, fun h => (host_ h).1,
      fun h => ?_, notes, regs, (written.pieces.mono (by decide)).trans (ends.pieces.mono (by decide))⟩
    · rw [← ek] at short ⊢
      exact moverBytes_short short
    · rw [← ek]
      exact moverBytes_live live dst n
    · obtain ⟨keeps, a, b, -⟩ := mem h
      exact ⟨keeps, a, b⟩
  case mcastWaits =>
    obtain ⟨here, -, -⟩ := mover_iff.mp begun
    rw [copy_begins begun many, mcastStart_waits (by rw [desc_ref here]; exact waits)]
  case mcastLong =>
    obtain ⟨here, -, -⟩ := mover_iff.mp begun
    rw [copy_begins begun many, mcastStart_long (by rw [desc_ref here]; exact fresh) long, desc_ref here]
  case mcastSends =>
    obtain ⟨here, -, -⟩ := mover_iff.mp begun
    have ref := desc_ref here
    rw [copy_begins begun many]
    rw [← ref] at fresh
    refine ⟨fun failed => ?_, fun k got failed => ?_, fun got good some_ => ?_⟩
    · rw [mcastStart_unread fresh short members object failed, ref]
    · rw [mcastStart_objectUnread fresh short members object got failed, ref]
    · obtain ⟨t, run, rest⟩ := mcastStart_spec fresh short members object got good some_
      rw [ref] at rest
      exact ⟨t, congrArg _ run, rest⟩
  case fillLive =>
    obtain ⟨here, -, -⟩ := mover_iff.mp begun
    rw [ea, en] at ran
    rw [fill_moves begun, moverRuns_live here live ran]
    cases o <;> rfl
  case fillGood =>
    obtain ⟨here, -, -⟩ := mover_iff.mp begun
    obtain ⟨k, ek⟩ : ∃ k, s.moverBytes x a n = k := ⟨_, rfl⟩
    have less : k ≤ n := ek ▸ moverBytes_le s x a n
    have pat : (slice x.bytes 0x20 8).length = 8 := by
      rw [slice, List.length_take, List.length_drop, size]
      rfl
    obtain ⟨bs, eb⟩ : ∃ bs, ((List.replicate (n / 8) (slice x.bytes 0x20 8)).flatten).take k = bs := ⟨_, rfl⟩
    have len : bs.length = min k (8 * (n / 8)) := by
      rw [← eb, List.length_take, List.length_flatten, List.map_replicate, List.sum_replicate, pat, smul_eq_mul, Nat.mul_comm]
    obtain ⟨none, written⟩ := destWrite_good (n := n) clean (.inr inside) (by omega : bs.length ≤ n) d.port
    obtain ⟨u, eu⟩ : ∃ u, (s.destWrite false d.port a bs).2 = u := ⟨_, rfl⟩
    rw [eu] at written
    have ran : s.destWrite false d.port (x.arg 0x10 8) (((List.replicate (x.arg 0x18 8 / 8) (slice x.bytes 0x20 8)).flatten).take
        (s.moverBytes x (x.arg 0x10 8) (x.arg 0x18 8))) = (Option.none, u) := by
      rw [← ea, ← en, ek, eb, ← none, ← eu]
    obtain ⟨done, expired, ends⟩ := moverRuns_good (dest := x.arg 0x10 8) (n := x.arg 0x18 8) (run := fun n =>
      s.destWrite false d.port (x.arg 0x10 8) (((List.replicate (x.arg 0x18 8 / 8) (slice x.bytes 0x20 8)).flatten).take n))
      here ran written.pieces
    obtain ⟨notes, regs, bytes, -, mem⟩ := written.notes_through ends
    obtain ⟨keeps, -, -, pieces⟩ := mem rfl
    refine ⟨_, k, fill_moves begun, less, fun short => ?_, fun live => ⟨?_, done live⟩, expired, fun i within => ?_,
      keeps.widen (Nat.le_refl a) (by omega), notes, regs, pieces⟩
    · rw [← ek] at short ⊢
      exact moverBytes_short short
    · rw [← ek]
      exact moverBytes_live live a n
    · rw [← slice_rd _ (n := bs.length) (by omega : 8 * i + 8 ≤ bs.length)]
      have read : State.rd _ a bs.length = bs := bytes
      rw [read, ← eb]
      by_cases whole : k ≤ 8 * (n / 8)
      · exact slice_pattern pat within whole
      · have all : ((List.replicate (n / 8) (slice x.bytes 0x20 8)).flatten).take k =
            ((List.replicate (n / 8) (slice x.bytes 0x20 8)).flatten).take (8 * (n / 8)) := by
          rw [List.take_of_length_le, List.take_of_length_le] <;>
          · rw [List.length_flatten, List.map_replicate, List.sum_replicate, pat, smul_eq_mul]
            omega
        rw [all]
        exact slice_pattern pat (by omega) (Nat.le_refl _)
  case digestUnread =>
    subst ea en et
    exact digest_unread begun failed
  case compares =>
    subst ea en ef ed
    exact fun bs o u compares read => digest_compares begun good et edig compares read
  case comparesHost =>
    intro compares isHost clean
    obtain ⟨here, -, live, -⟩ := begun_iff.mp begun
    rw [dramRead_good clean] at et
    subst ea en ef ed
    have et' : t = s.dramRead (descTag d) (x.arg 0x10 8) (x.arg 0x18 8) := by rw [dramRead_good clean, et]
    have read : t.sourceRead ((x.arg 0x28 1).testBit 0) host (x.arg 0x20 8) 32 = (padTo 32 host, none, s) := by
      rw [isHost, et]
      rfl
    obtain ⟨done, completes⟩ := complete_spec here live (if padTo 32 host = dig then stDone else stMismatch) 0 0
    exact ⟨_, digest_compares begun good et' edig compares read, done, completes⟩
  case writes =>
    subst ea en ef ed
    exact fun o u writes wrote => digest_writes begun good et edig writes wrote
  case writesHost =>
    intro writes isHost clean
    obtain ⟨here, -, live, -⟩ := begun_iff.mp begun
    rw [dramRead_good clean] at et
    subst ea en ef ed
    have et' : t = s.dramRead (descTag d) (x.arg 0x10 8) (x.arg 0x18 8) := by rw [dramRead_good clean, et]
    obtain ⟨none, written⟩ := destWrite_good (n := dig.length) (a := x.arg 0x20 8) clean (.inl isHost) (Nat.le_refl _) d.port
    rw [← et] at none written
    obtain ⟨done, completes⟩ := complete_after (written.host isHost) (et ▸ here) live stDone 0 0
    have bytes := written.bytes
    rw [isHost, if_pos rfl] at bytes
    have run := digest_writes (host := host) begun good et' edig writes (o := Option.none) (Prod.ext none rfl)
    rw [et, if_neg (by decide)] at run
    rw [et] at bytes done completes written
    refine ⟨_, run, done, ?_, ((written.host isHost).mono (by decide)).trans (completes.mono (by decide))⟩
    rw [host_of_pieces completes]
    rw [isHost]
    exact bytes
  case writesLocal =>
    intro writes isLocal clean inside
    obtain ⟨here, -, live, -⟩ := begun_iff.mp begun
    rw [dramRead_good clean] at et
    subst ea en ef ed
    have et' : t = s.dramRead (descTag d) (x.arg 0x10 8) (x.arg 0x18 8) := by rw [dramRead_good clean, et]
    obtain ⟨none, written⟩ := destWrite_good (isHost := (x.arg 0x28 1).testBit 0) (n := dig.length) clean (.inr inside) (Nat.le_refl _)
      d.port
    obtain ⟨stores, keeps⟩ := written.mem isLocal
    obtain ⟨done, completes⟩ := complete_after stores.pieces here live stDone 0 0
    have bytes := written.bytes
    rw [isLocal, if_neg (by decide)] at bytes
    have run := digest_writes (host := host) begun good et' edig writes (o := Option.none) (Prod.ext (et ▸ none) rfl)
    rw [et, if_neg (by decide)] at run
    have mem := completes .mem (by decide)
    refine ⟨_, run, done, ?_, fun b hb => ?_, fun q _ => ?_, (stores.pieces.mono (by decide)).trans (completes.mono (by decide))⟩
    · rw [rd_of_mem mem, isLocal]
      exact bytes
    · rw [State.byteAt, mem]
      exact keeps b hb
    · obtain ⟨c, j, e⟩ := stores.notes q
      rw [part_through completes, e]
  case off => exact getEntropy_value begun (if_pos off)
  case fatal => exact getEntropy_value begun ((if_neg (by simp [fatal])).trans (if_pos fatal))
  case retries =>
    subst en
    exact getEntropy_retries begun
  case takes =>
    subst en
    exact getEntropy_takes begun serves limit
  case waits =>
    subst en
    refine getEntropy_value begun ?_
    have off : ¬ (s.ent.state = .off ∨ s.ent.state = .startup) := by
      rintro (h | h) <;> rw [h] at serves <;> exact absurd serves (by decide)
    have fatal : s.ent.state ≠ .fatal := by
      intro h
      rw [h] at serves
      exact absurd serves (by decide)
    have room : ¬ (s.ent.state = .limit ∧ s.ent.out.length < x.arg 0x18 4) := fun h => absurd (limit h.1) (by omega)
    rw [if_neg off, if_neg fatal, if_neg room, takeFor_waits waits]
    rfl

/-! ## BARRIER_ARM (R275) -/

theorem barGroup_setGroup_other (s : State) (x : Option BarGroup) {g h : Nat} (other : h ≠ g) :
    (s.setGroup g x).barGroup h = s.barGroup h := Table.look_put_other _ _ _ other

theorem barGroup_of_hall {s t : State} (h : t.hall = s.hall) (g : Nat) : t.barGroup g = s.barGroup g := by
  rw [State.barGroup, h, State.barGroup]

theorem cmpOwner_of_reg {s t : State} {k : Nat} (h : t.reg (Reg.gtbCmp k + 8) = s.reg (Reg.gtbCmp k + 8)) :
    t.cmpOwner k = s.cmpOwner k ∧ t.cmpArmed k = s.cmpArmed k := by
  rw [State.cmpOwner, State.cmpArmed, h]
  exact ⟨rfl, rfl⟩

theorem hftCfg_apart : Reg.hftCfg ∉ dramRegs := by
  simp only [dramRegs, List.mem_cons, List.mem_map, List.mem_range, Reg.hftCfg, Reg.fltStat, Reg.memEccstat]
  rintro (h | ⟨c, _, h⟩) <;> omega

theorem gtbStatus_apart : Reg.gtbStatus ∉ dramRegs := by
  simp only [dramRegs, List.mem_cons, List.mem_map, List.mem_range, Reg.gtbStatus, Reg.fltStat, Reg.memEccstat]
  rintro (h | ⟨c, _, h⟩) <;> omega

section
variable {s : State} {d : DescRef} {x : Desc} (begun : s.begun d 11 = some x) (arms : x.arg 0x11 1 = 0)
include begun arms

theorem barrierArm_faulted (faulted : (s.part d.ring).faulted = true) :
    exec (.barrierArm d) s = .next (s.complete d stRefused 0 0) := by
  rw [show exec (.barrierArm d) s = execBarrierArm d s from rfl, execBarrierArm, onDesc_begun begun]
  exact congrArg Host.Outcome.next ((if_neg (not_not.mpr arms)).trans (if_pos faulted))

variable (good : (s.part d.ring).faulted = false) {m : List Byte} {e : Option Nat} {u : State}
  (read : (m, e, u) = if x.arg 0x12 2 = s.device then s.localRead 127 (x.arg 0x18 8) 128 else ([], none, s))
include good read

theorem barrierArm_unread (failed : e.isSome = true) : exec (.barrierArm d) s = .next (u.complete d stFaulted 0 0) := by
  rw [show exec (.barrierArm d) s = execBarrierArm d s from rfl, execBarrierArm, onDesc_begun begun]
  refine congrArg Host.Outcome.next ((if_neg (not_not.mpr arms)).trans ((if_neg (by simp [good])).trans ?_))
  rw [← read]
  exact if_pos failed

variable (got : e = none)
include got

theorem barrierArm_taken (taken : (u.barGroup (x.arg 0x10 1)).isSome = true ∨ (u.part d.ring).group.isSome = true) :
    exec (.barrierArm d) s = .next (u.complete d stConflict 0 0) := by
  rw [show exec (.barrierArm d) s = execBarrierArm d s from rfl, execBarrierArm, onDesc_begun begun]
  refine congrArg Host.Outcome.next ((if_neg (not_not.mpr arms)).trans ((if_neg (by simp [good])).trans ?_))
  rw [← read]
  exact (if_neg (by simp [got])).trans (if_pos (by simpa using taken))

variable (free : u.barGroup (x.arg 0x10 1) = none) (single : (u.part d.ring).group = none)
include free single

theorem barrierArm_full (full : u.freeCmp = none) : exec (.barrierArm d) s = .next (u.complete d stConflict 0 0) := by
  rw [show exec (.barrierArm d) s = execBarrierArm d s from rfl, execBarrierArm, onDesc_begun begun]
  refine congrArg Host.Outcome.next ((if_neg (not_not.mpr arms)).trans ((if_neg (by simp [good])).trans ?_))
  rw [← read]
  refine (if_neg (by simp [got])).trans ((if_neg (by simp [free, single])).trans ?_)
  rw [full]

variable {k : Nat} (cmp : u.freeCmp = some k)
include cmp

theorem barrierArm_unlocked (unlocked : (x.arg 0x12 2 ≠ u.device ∨ (setBitsOf 1024 (leNat m)).any (· != u.device)) ∧
    u.rf Reg.gtbStatus 16 16 = 0) : exec (.barrierArm d) s = .next (u.complete d stNotReady 0 0) := by
  rw [show exec (.barrierArm d) s = execBarrierArm d s from rfl, execBarrierArm, onDesc_begun begun]
  refine congrArg Host.Outcome.next ((if_neg (not_not.mpr arms)).trans ((if_neg (by simp [good])).trans ?_))
  rw [← read]
  refine (if_neg (by simp [got])).trans ((if_neg (by simp [free, single])).trans ?_)
  rw [cmp]
  exact if_pos unlocked

theorem barrierArm_arms (locked : ¬ ((x.arg 0x12 2 ≠ u.device ∨ (setBitsOf 1024 (leNat m)).any (· != u.device)) ∧
    u.rf Reg.gtbStatus 16 16 = 0)) : exec (.barrierArm d) s = .next ((((u.setCmp k 1 (x.arg 0x10 1) 0 false).setGroup (x.arg 0x10 1)
      (some { part := d.ring, coord := x.arg 0x12 2, members := (setBitsOf 1024 (leNat m)).filter (· != u.device), cmp := k })).updPart
        d.ring (fun p => { p with group := some (Fin.ofNat 16 (x.arg 0x10 1)) })).complete d stDone 0 0) := by
  rw [show exec (.barrierArm d) s = execBarrierArm d s from rfl, execBarrierArm, onDesc_begun begun]
  refine congrArg Host.Outcome.next ((if_neg (not_not.mpr arms)).trans ((if_neg (by simp [good])).trans ?_))
  rw [← read]
  refine (if_neg (by simp [got])).trans ((if_neg (by simp [free, single])).trans ?_)
  rw [cmp]
  exact if_neg locked

end

/-- A group armed on a comparator, and its BARRIER_ARM done. -/
theorem arms_spec {s u : State} {d : DescRef} {x : Desc} (here : s.desc d = some x) (live : x.expired = false)
    (read : Frame [.regs, .flt] dramRegs s u) {g k : Nat} (small : g < 16) (y : BarGroup) :
    ∃ t, (((u.setCmp k 1 g 0 false).setGroup g (some y)).updPart d.ring (fun p => { p with group := some (Fin.ofNat 16 g) })).complete
        d stDone 0 0 = t ∧ DoneAs x stDone 0 0 s t ∧ t.barGroup g = some y ∧ (∀ h, h ≠ g → t.barGroup h = s.barGroup h) ∧
      (t.part d.ring).group.map Fin.val = some g ∧ t.cmpOwner k = 1 ∧ t.cmpArmed k = false ∧ KeepsParts [d.ring.val] s t ∧
      KeepsRegs (Reg.gtbCmp k :: (Reg.gtbCmp k + 8) :: dramRegs) s t ∧
      OnlyTouches [.regs, .parts, .hall, .rings, .descs, .flt] s t := by
  obtain ⟨set, -, armed, owner⟩ := setCmp_spec u k 1 g 0 false (by decide)
  obtain ⟨v, ev⟩ : ∃ v, u.setCmp k 1 g 0 false = v := ⟨_, rfl⟩
  rw [ev] at set armed owner
  have grouped := touches_setGroup v g (some y)
  have noted := touches_updPart (v.setGroup g (some y)) d.ring (fun p => { p with group := some (Fin.ofNat 16 g) })
  have both : Frame [.regs, .parts, .hall, .flt] (Reg.gtbCmp k :: (Reg.gtbCmp k + 8) :: dramRegs) s
      ((v.setGroup g (some y)).updPart d.ring (fun p => { p with group := some (Fin.ofNat 16 g) })) :=
    ((Frame.of_touches noted).mono).comp (((Frame.of_touches grouped).mono).comp
      ((set.mono (ps := [.regs, .parts, .hall, .flt]) (own := by intro o h; simp only [List.mem_cons] at h ⊢; tauto)).comp
        (read.mono (own := by intro o h; simp only [List.mem_cons] at h ⊢; tauto))))
  obtain ⟨done, completes⟩ := complete_after both.pieces here live stDone 0 0
  have part := State.part_updPart_self (v.setGroup g (some y)) d.ring (fun p => { p with group := some (Fin.ofNat 16 g) })
  obtain ⟨w, ew⟩ : ∃ w, (v.setGroup g (some y)).updPart d.ring (fun p => { p with group := some (Fin.ofNat 16 g) }) = w :=
    ⟨_, rfl⟩
  have others : KeepsParts [d.ring.val] (v.setGroup g (some y)) w := by rw [← ew]; exact keepsParts_updPart _ _ _
  rw [ew] at noted both done completes part
  rw [ev, ew]
  have hall : (w.complete d stDone 0 0).hall = (v.setGroup g (some y)).hall :=
    (completes .hall (by decide)).trans (noted .hall (by decide))
  have reg : (w.complete d stDone 0 0).reg (Reg.gtbCmp k + 8) = v.reg (Reg.gtbCmp k + 8) :=
    (completes.keepsRegs (by decide) [] _ List.not_mem_nil).trans ((noted.keepsRegs (by decide) [] _ List.not_mem_nil).trans
      (grouped.keepsRegs (by decide) [] _ List.not_mem_nil))
  obtain ⟨sameOwner, sameArmed⟩ := cmpOwner_of_reg reg
  refine ⟨_, rfl, done, ?_, fun h other => ?_, ?_, sameOwner.trans owner, sameArmed.trans armed, ?_, ?_, ?_⟩
  · rw [barGroup_of_hall hall, barGroup_setGroup_self]
  · rw [barGroup_of_hall hall, barGroup_setGroup_other v _ other]
    exact barGroup_of_hall ((set.pieces .hall (by decide)).trans (read.pieces .hall (by decide))) h
  · rw [part_through completes, part]
    simp [Nat.mod_eq_of_lt small]
  · have before : KeepsParts [d.ring.val] s (v.setGroup g (some y)) :=
      ((read.pieces.keepsParts (by decide) _).trans (set.pieces.keepsParts (by decide) _)).trans (grouped.keepsParts (by decide) _)
    exact (before.trans others).through completes
  · exact both.regs.trans (completes.keepsRegs (by decide) _)
  · exact (both.pieces.mono (by decide)).trans (completes.mono (by decide))

/-! ## Its disarming (R311) -/

section
variable {s : State} {d : DescRef} {x : Desc} (begun : s.begun d 11 = some x) (disarms : x.arg 0x11 1 = 1)
include begun disarms

theorem barrierDisarm_none (none : s.barGroup (x.arg 0x10 1) = none) :
    exec (.barrierDisarm d) s = .next (s.complete d stDone 0 0) := by
  rw [show exec (.barrierDisarm d) s = execBarrierDisarm d s from rfl, execBarrierDisarm, onDesc_begun begun]
  refine congrArg Host.Outcome.next ((if_neg (not_not.mpr disarms)).trans ?_)
  rw [none]

variable {y : BarGroup} (armed : s.barGroup (x.arg 0x10 1) = some y)
include armed

theorem barrierDisarm_refused (refused : y.busy = true ∨ y.part ≠ d.ring.val) :
    exec (.barrierDisarm d) s = .next (s.complete d stRefused 0 0) := by
  rw [show exec (.barrierDisarm d) s = execBarrierDisarm d s from rfl, execBarrierDisarm, onDesc_begun begun]
  refine congrArg Host.Outcome.next ((if_neg (not_not.mpr disarms)).trans ?_)
  rw [armed]
  exact if_pos refused

theorem barrierDisarm_frees (idle : y.busy = false) (own : y.part = d.ring.val) :
    ∃ t, exec (.barrierDisarm d) s = .next t ∧ DoneAs x stDone 0 0 s t ∧ t.barGroup (x.arg 0x10 1) = none ∧
      (t.part d.ring).group = none ∧ t.cmpOwner y.cmp = 0 ∧ t.cmpArmed y.cmp = false ∧ KeepsParts [d.ring.val] s t ∧
      KeepsRegs [Reg.gtbCmp y.cmp, Reg.gtbCmp y.cmp + 8] s t ∧ OnlyTouches [.regs, .parts, .hall, .rings, .descs] s t := by
  obtain ⟨here, -, live, -⟩ := begun_iff.mp begun
  have grouped := touches_setGroup s (x.arg 0x10 1) none
  have gone := barGroup_setGroup_self s (x.arg 0x10 1) none
  obtain ⟨u, eu⟩ : ∃ u, s.setGroup (x.arg 0x10 1) none = u := ⟨_, rfl⟩
  rw [eu] at grouped gone
  obtain ⟨set, -, free, owner⟩ := setCmp_spec u y.cmp 0 0 0 false (by decide)
  obtain ⟨v, ev⟩ : ∃ v, u.setCmp y.cmp 0 0 0 false = v := ⟨_, rfl⟩
  rw [ev] at set free owner
  have disarmed : s.disarm (x.arg 0x10 1) = v.updPart d.ring (fun p => { p with group := none }) := by
    rw [State.disarm, armed]
    dsimp only
    rw [eu, State.freeCmpAt, ev, own]
  have noted := touches_updPart v d.ring (fun p => { p with group := none })
  have part := State.part_updPart_self v d.ring (fun p => { p with group := none })
  have others := keepsParts_updPart v d.ring (fun p => { p with group := none })
  obtain ⟨w, ew⟩ : ∃ w, v.updPart d.ring (fun p => { p with group := none }) = w := ⟨_, rfl⟩
  rw [ew] at noted part others disarmed
  have both : Frame [.regs, .parts, .hall] [Reg.gtbCmp y.cmp, Reg.gtbCmp y.cmp + 8] s w :=
    ((Frame.of_touches noted).mono).comp ((set.mono).comp ((Frame.of_touches grouped).mono))
  obtain ⟨done, completes⟩ := complete_after both.pieces here live stDone 0 0
  have hall : (w.complete d stDone 0 0).hall = u.hall :=
    (completes .hall (by decide)).trans ((noted .hall (by decide)).trans (set.pieces .hall (by decide)))
  have reg : (w.complete d stDone 0 0).reg (Reg.gtbCmp y.cmp + 8) = v.reg (Reg.gtbCmp y.cmp + 8) :=
    (completes.keepsRegs (by decide) [] _ List.not_mem_nil).trans (noted.keepsRegs (by decide) [] _ List.not_mem_nil)
  obtain ⟨sameOwner, sameArmed⟩ := cmpOwner_of_reg reg
  refine ⟨w.complete d stDone 0 0, ?_, done, ?_, ?_, sameOwner.trans owner, sameArmed.trans free, ?_, ?_, ?_⟩
  · rw [show exec (.barrierDisarm d) s = execBarrierDisarm d s from rfl, execBarrierDisarm, onDesc_begun begun]
    refine congrArg Host.Outcome.next ((if_neg (not_not.mpr disarms)).trans ?_)
    rw [armed]
    exact (if_neg (by simp [idle, own])).trans (congrArg (State.complete · d stDone 0 0) disarmed)
  · rw [barGroup_of_hall hall, gone]
  · rw [part_through completes, part]
  · have before : KeepsParts [d.ring.val] s v := (grouped.keepsParts (by decide) _).trans (set.pieces.keepsParts (by decide) _)
    exact (before.trans others).through completes
  · exact both.regs.trans (completes.keepsRegs (by decide) _)
  · exact (both.pieces.mono (by decide)).trans (completes.mono (by decide))

end

/-! ## DRAIN_SAMPLES (R310) -/

theorem frame_drainSome (s : State) (q base size tail room win fuel : Nat) (x : Drained) :
    Frame [.regs, .flt] dramRegs s (s.drainSome q base size tail room win fuel x).2 := by
  induction fuel generalizing s x with
  | zero => exact .refl ..
  | succ n ih =>
    have header := frame_dramRead s q (base + x.head) 32
    unfold State.drainSome
    split
    · exact .refl ..
    extract_lets a t h len u
    have record : Frame [.regs, .flt] dramRegs s u := frame_dramRead ..
    split
    · exact header
    · split
      · exact (ih t _).comp header
      · split
        · exact header
        · split
          · exact header
          · split
            · exact record
            · exact (ih u _).comp record

section
variable {s : State} {d : DescRef} {x : Desc} (begun : s.begun d 12 = some x)
include begun

theorem drainSamples_none (none : (s.part d.ring).ldrain = none) :
    exec (.drainSamples d) s = .next (s.complete d stRefused 0 0) := by
  rw [show exec (.drainSamples d) s = execDrainSamples d s from rfl, execDrainSamples, onDesc_begun begun]
  dsimp only
  rw [none]

variable {base size : Nat} {r : Drained} {u : State} (ring : (s.part d.ring).ldrain = some (base, size))
  (drains : s.drainSome d.ring base size (s.part d.ring).drain.lTail (x.arg 0x18 4) (x.arg 0x1C 1) (size / 32)
    { head := (s.part d.ring).drain.lHead } = (r, u))
include ring drains

theorem drainSamples_small (small : r.status = stBad) : exec (.drainSamples d) s = .next (u.complete d stBad 0 0) := by
  rw [show exec (.drainSamples d) s = execDrainSamples d s from rfl, execDrainSamples, onDesc_begun begun]
  dsimp only
  rw [ring]
  dsimp only
  rw [drains]
  exact congrArg Host.Outcome.next (if_pos small)

theorem drainSamples_copies (fits : r.status ≠ stBad) :
    ∃ t, exec (.drainSamples d) s = .next t ∧ DoneAs x r.status r.records r.bytes.length s t ∧
      t.host d.port (x.arg 0x10 8) r.bytes.length = r.bytes ∧
      t.part d.ring = { s.part d.ring with drain := { (s.part d.ring).drain with lHead := r.head } } ∧
      KeepsParts [d.ring.val] s t ∧ KeepsRegs dramRegs s t ∧
      OnlyTouches [.regs, .hostA, .hostB, .parts, .rings, .descs, .flt] s t := by
  obtain ⟨here, -, live, -⟩ := begun_iff.mp begun
  have read : Frame [.regs, .flt] dramRegs s u := by
    have frame := frame_drainSome s d.ring base size (s.part d.ring).drain.lTail (x.arg 0x18 4) (x.arg 0x1C 1) (size / 32)
      { head := (s.part d.ring).drain.lHead }
    rw [drains] at frame
    exact frame
  have stored := (within_wrHost u d.port (x.arg 0x10 8) r.bytes).touches
  have bytes := host_wrHost_self u d.port (x.arg 0x10 8) r.bytes
  obtain ⟨v, ev⟩ : ∃ v, u.wrHost d.port (x.arg 0x10 8) r.bytes = v := ⟨_, rfl⟩
  rw [ev] at stored bytes
  have noted := touches_updPart v d.ring (fun p => { p with drain := { p.drain with lHead := r.head } })
  have part := State.part_updPart_self v d.ring (fun p => { p with drain := { p.drain with lHead := r.head } })
  have others := keepsParts_updPart v d.ring (fun p => { p with drain := { p.drain with lHead := r.head } })
  obtain ⟨w, ew⟩ : ∃ w, v.updPart d.ring (fun p => { p with drain := { p.drain with lHead := r.head } }) = w := ⟨_, rfl⟩
  rw [ew] at noted part others
  have both : Frame [.regs, .hostA, .hostB, .parts, .flt] dramRegs s w :=
    ((Frame.of_touches noted).mono).comp (((Frame.of_touches stored).mono).comp read.mono)
  obtain ⟨done, completes⟩ := complete_after both.pieces here live r.status r.records r.bytes.length
  refine ⟨w.complete d r.status r.records r.bytes.length, ?_, done, ?_, ?_, ?_, ?_, ?_⟩
  · rw [show exec (.drainSamples d) s = execDrainSamples d s from rfl, execDrainSamples, onDesc_begun begun]
    dsimp only
    rw [ring]
    dsimp only
    rw [drains]
    dsimp only
    rw [if_neg fits, ev, ew]
  · rw [host_of_pieces completes, host_of_pieces noted, bytes]
  · rw [part_through completes, part, part_through stored, part_of_parts (read.pieces .parts (by decide))]
  · have before : KeepsParts [d.ring.val] s v := (read.pieces.keepsParts (by decide) _).trans (stored.keepsParts (by decide) _)
    exact (before.trans others).through completes
  · exact both.regs.trans (completes.keepsRegs (by decide) _)
  · exact (both.pieces.mono (by decide)).trans (completes.mono (by decide))

end

/-- Settles O40, by the branches of each operation; a group that is armed is `arms_spec`. -/
theorem groupsArmAndDrainsCopy : Obligations.GroupsArmAndDrainsCopy := by
  unfold Obligations.GroupsArmAndDrainsCopy
  rintro d s x g q rfl rfl
  refine ⟨fun begun arms => ⟨barrierArm_faulted begun arms, ?arm⟩, fun begun disarms => ⟨barrierDisarm_none begun disarms,
    fun y armed => ⟨barrierDisarm_frees begun disarms armed, barrierDisarm_refused begun disarms armed⟩⟩,
    fun begun => ⟨drainSamples_none begun, fun base size r u ring drains =>
      ⟨drainSamples_small begun ring drains, drainSamples_copies begun ring drains⟩⟩⟩
  case arm =>
    intro m e u mem good read em
    obtain ⟨here, -, live, -⟩ := begun_iff.mp begun
    have frame : Frame [.regs, .flt] dramRegs s u := by
      have h := congrArg (fun r : List Byte × Option Nat × State => r.2.2) read
      dsimp only at h
      rw [h]
      split
      · exact frame_localRead ..
      · exact .refl ..
    have part : u.part d.ring = s.part d.ring := part_of_parts (frame.pieces .parts (by decide)) _
    have group : u.barGroup (x.arg 0x10 1) = s.barGroup (x.arg 0x10 1) := barGroup_of_hall (frame.pieces .hall (by decide)) _
    have device : u.device = s.device := frame.rf hftCfg_apart 9 0
    have locked : u.rf Reg.gtbStatus 16 16 = s.rf Reg.gtbStatus 16 16 := frame.rf gtbStatus_apart 16 16
    have free : u.freeCmp = s.freeCmp := freeCmp_of_regs fun k small =>
      frame.reg fun h => gtbCmp_apart small 8 (Nat.le_refl 8) (List.mem_cons_of_mem _ h)
    refine ⟨barrierArm_unread begun arms good read, fun got => ⟨fun conflict => ?_, fun k unarmed single cmp => ⟨?_, ?_⟩⟩⟩
    · by_cases taken : (u.barGroup (x.arg 0x10 1)).isSome = true ∨ (u.part d.ring).group.isSome = true
      · exact barrierArm_taken begun arms good read got taken
      · rw [not_or, Bool.not_eq_true, Bool.not_eq_true, Option.isSome_eq_false_iff, Option.isSome_eq_false_iff,
          Option.isNone_iff_eq_none, Option.isNone_iff_eq_none] at taken
        obtain ⟨noGroup, noOwn⟩ := taken
        refine barrierArm_full begun arms good read got noGroup noOwn ?_
        rw [group] at noGroup
        rw [part] at noOwn
        rw [free]
        exact (conflict.resolve_left (by simp [noGroup])).resolve_left (by simp [noOwn])
    · intro remote unlocked
      refine barrierArm_unlocked begun arms good read got (group.trans unarmed) (by rw [part]; exact single) (free.trans cmp) ?_
      rw [device, locked, ← em]
      exact ⟨by simpa using remote, unlocked⟩
    · intro small ready
      obtain ⟨t, run, rest⟩ := arms_spec (k := k) here live frame small {
        part := d.ring, coord := x.arg 0x12 2, members := mem.filter (· != s.device), cmp := k }
      refine ⟨t, ?_, rest⟩
      rw [barrierArm_arms begun arms good read got (group.trans unarmed) (by rw [part]; exact single) (free.trans cmp) ?_, device,
        ← em, run]
      rw [device, locked, ← em]
      rintro ⟨remote, unlocked⟩
      rcases ready with ⟨coord, own⟩ | ready
      · rcases remote with h | h
        · exact h coord
        · obtain ⟨y, hy, other⟩ := List.any_eq_true.mp h
          exact absurd (own y hy) (by simpa using other)
      · exact absurd (ready.symm.trans unlocked) (by decide)

end Sys2Proof.Machine
end

section
/-! PROOFS. Partitions, core resets, the mode and registers. -/

namespace Sys2Proof.Machine

open Sys2Proof

-- One theorem after another: many at once would need too many threads.
set_option Elab.async false

/-! ## PRT_CTRL under the ownership conditions (R313, R321) -/

theorem prtStatus_ne_prtCtrl (q : Nat) : Reg.prtStatus q ≠ Reg.prtCtrl q := by
  simp only [Reg.prtStatus, Reg.prtCtrl, ne_eq]
  omega

section
variable {s : State} {who : Requester} {q : Nat} {f : State → State}

theorem ctrlWrite_lost (lost : s.writeReaches who (Reg.prtCtrl q) = false) : s.ctrlWrite who q f = s :=
  if_neg (by simp [lost])

variable (reaches : s.writeReaches who (Reg.prtCtrl q) = true)
include reaches

theorem ctrlWrite_refused (refused : s.mayOwn who q = false) : s.ctrlWrite who q f = s.raise (Reg.prtStatus q) 7 7 1 :=
  (if_pos reaches).trans (if_neg (by simp [refused]))

theorem ctrlWrite_acts (may : s.mayOwn who q = true) : s.ctrlWrite who q f = f s := (if_pos reaches).trans (if_pos may)

end

/-- What a refused write of PRT_CTRL shows. -/
theorem raise_rejected (s : State) (q : Nat) : (s.raise (Reg.prtStatus q) 7 7 1).rf (Reg.prtStatus q) 7 7 = 1 ∧
    (s.raise (Reg.prtStatus q) 7 7 1).rf (Reg.prtStatus q) 6 0 = s.rf (Reg.prtStatus q) 6 0 :=
  ⟨rf_raise_bit _ _ _ (by decide), rf_raise_apart _ _ _ (by decide) (by decide) (by decide)⟩

/-! ## CREATE (R320, R321) -/

/-- The size fields of PRT_CTRL after they are written, with the other register kept. -/
theorem setSize_spec (s : State) (q : Nat) {rows cols : Nat} (r : rows < 16) (c : cols < 16) :
    Frame [.regs] [Reg.prtCtrl q] s (s.setSize q rows cols) ∧ (s.setSize q rows cols).rf (Reg.prtCtrl q) 3 0 = rows ∧
      (s.setSize q rows cols).rf (Reg.prtCtrl q) 7 4 = cols := by
  unfold State.setSize
  refine ⟨(frame_setRf ..).comp (frame_setRf ..), ?_, ?_⟩
  · rw [rf_setRf_apart _ _ _ (by decide) (by decide) (by decide), rf_setRf_self _ _ _ (by decide) (by decide)]
    exact Nat.mod_eq_of_lt r
  · rw [rf_setRf_self _ _ _ (by decide) (by decide)]
    exact Nat.mod_eq_of_lt c

theorem createResult_le (s : State) (q rows cols : Nat) : s.createResult q rows cols < 8 := by
  unfold State.createResult
  extract_lets quires
  repeat' split
  all_goals decide

theorem createResult_of {s t : State} (parts : t.parts = s.parts) (boot : t.boot = s.boot) (q rows cols : Nat) :
    t.createResult q rows cols = s.createResult q rows cols := by
  unfold State.createResult State.partOfQuire
  rw [parts, boot]

/-- CREATE of a size: an EMPTY partition where nothing forbids it, and else the reason why not. -/
theorem createPart_spec (s : State) (q rows cols : Nat) :
    (s.createPart q rows cols).rf (Reg.prtStatus q) 6 4 = s.createResult q rows cols ∧
      (s.createResult q rows cols = 0 → (s.createPart q rows cols).part q =
        { run := .empty, qrows := rows, qcols := cols, drain := ((s.createPart q rows cols).part q).drain }) ∧
      (s.createResult q rows cols ≠ 0 → (s.createPart q rows cols).parts = s.parts) ∧
      KeepsParts [q] s (s.createPart q rows cols) ∧ Frame [.regs, .parts] [Reg.prtStatus q] s (s.createPart q rows cols) := by
  have set := frame_setRf s (Reg.prtStatus q) 6 4 (s.createResult q rows cols)
  have shown := rf_setRf_self s (Reg.prtStatus q) (s.createResult q rows cols) (show 4 ≤ 6 by decide) (by decide)
  rw [show 2 ^ (6 + 1 - 4) = 8 from rfl, Nat.mod_eq_of_lt (createResult_le s q rows cols)] at shown
  obtain ⟨u, eu⟩ : ∃ u, s.setRf (Reg.prtStatus q) 6 4 (s.createResult q rows cols) = u := ⟨_, rfl⟩
  rw [eu] at set shown
  have step : s.createPart q rows cols = if s.createResult q rows cols = 0 then u.updPart q (fun p =>
      { run := .empty, qrows := rows, qcols := cols, drain := { hHead := p.drain.hHead, hTail := p.drain.hTail } }) else u := by
    rw [← eu]
    rfl
  rw [step]
  split
  next none =>
    have made := frame_updPart u q (fun p =>
      { run := .empty, qrows := rows, qcols := cols, drain := { hHead := p.drain.hHead, hTail := p.drain.hTail } })
    refine ⟨?_, fun _ => by rw [State.part_updPart_self], fun some_ => absurd none some_, ?_, made.mono.comp set.mono⟩
    · exact (rf_of_reg (made.reg List.not_mem_nil) 6 4).trans shown
    · exact KeepsParts.trans (set.pieces.keepsParts (by decide) _) (keepsParts_updPart _ _ _)
  next some_ =>
    exact ⟨shown, fun none => absurd none some_, fun _ => set.pieces .parts (by decide), set.pieces.keepsParts (by decide) _, set.mono⟩

/-! ## The regions of a reset partition (R163) -/

theorem reg_freeRegions (s : State) (q i : Nat) (real : i < 128) :
    ¬ (bit ((s.freeRegions q).reg (Reg.arrEbregion i)) 31 = true ∧ fld ((s.freeRegions q).reg (Reg.arrEbregion i)) 22 16 = q) := by
  have entry (t : State) (j : Nat) : ¬ (bit ((if bit (t.reg (Reg.arrEbregion j)) 31 && fld (t.reg (Reg.arrEbregion j)) 22 16 == q
      then t.setReg (Reg.arrEbregion j) 0 else t).reg (Reg.arrEbregion j)) 31 = true ∧
      fld ((if bit (t.reg (Reg.arrEbregion j)) 31 && fld (t.reg (Reg.arrEbregion j)) 22 16 == q
        then t.setReg (Reg.arrEbregion j) 0 else t).reg (Reg.arrEbregion j)) 22 16 = q) := by
    split
    · rw [State.reg_setReg_self]
      exact fun h => absurd h.1 (by decide)
    next no =>
      rw [Bool.and_eq_true, beq_iff_eq] at no
      exact no
  have others (t : State) (j k : Nat) (other : k ≠ j) : (if bit (t.reg (Reg.arrEbregion j)) 31 &&
      fld (t.reg (Reg.arrEbregion j)) 22 16 == q then t.setReg (Reg.arrEbregion j) 0 else t).reg (Reg.arrEbregion k) =
        t.reg (Reg.arrEbregion k) := by
    split
    · exact State.reg_setReg_other _ _ (by simp only [Reg.arrEbregion, ne_eq]; omega)
    · rfl
  have upTo (n : Nat) : ∀ i < n, ¬ (bit (((List.range n).foldl (fun (t : State) i =>
      let v := t.reg (Reg.arrEbregion i)
      if bit v 31 && fld v 22 16 == q then t.setReg (Reg.arrEbregion i) 0 else t) s).reg (Reg.arrEbregion i)) 31 = true ∧
      fld (((List.range n).foldl (fun (t : State) i =>
        let v := t.reg (Reg.arrEbregion i)
        if bit v 31 && fld v 22 16 == q then t.setReg (Reg.arrEbregion i) 0 else t) s).reg (Reg.arrEbregion i)) 22 16 = q) := by
    induction n with
    | zero => exact fun i h => absurd h (Nat.not_lt_zero i)
    | succ n ih =>
      intro i less
      rw [List.range_succ, List.foldl_append, List.foldl_cons, List.foldl_nil]
      by_cases last : i = n
      · rw [last]
        exact entry _ n
      · dsimp only
        rw [others _ n i last]
        exact ih i (by omega)
  exact upTo 128 i real

theorem arrEbregion_apart (i : Nat) (real : i < 128) : Reg.arrEbregion i ∉ hostRegs := by
  simp only [hostRegs, List.mem_cons, List.not_mem_nil, or_false, Reg.arrEbregion, Reg.hstPortstat]
  omega

/-- A reset partition: what is left of it, of its cores, its regions and its descriptors (R324, R325). -/
theorem resetPart_spec (s : State) (q : Nat) :
    (∃ p j, (s.resetPart q).part q = { Partition.afterReset p with job := j } ∧ p.qrows = (s.part q).qrows ∧
      p.qcols = (s.part q).qcols) ∧
    (∀ n ∈ s.partCores q, (s.resetPart q).core n = (s.core n).afterPartReset) ∧
    (∀ i, i < 128 → ¬ (bit ((s.resetPart q).reg (Reg.arrEbregion i)) 31 = true ∧
      fld ((s.resetPart q).reg (Reg.arrEbregion i)) 22 16 = q)) ∧
    (∀ x ∈ s.descs, x.ref.ring.val = q → x.phase = .running → (∀ j, (s.part q).job = some j → j.desc ≠ x.ref) →
      (s.resetPart q).desc x.ref = none) := by
  have reset : s.resetPart q = s.resetPartFor q none := rfl
  rw [reset]
  refine ⟨?_, fun n hn => ?_, fun i real => ?_, ?_⟩
  · obtain ⟨p, j, e⟩ := part_resetPartFor s q none
    have kept := ((ends_resetPartFor s q none).after (ends_resetEnded s q none)).parts q
    have rows := kept.rows
    have cols := kept.cols
    rw [e] at rows cols
    exact ⟨p, j, e, rows, cols⟩
  · rw [core_resetPartFor, if_pos hn]
  · have freed := reg_freeRegions (s.resetCores q none) q i real
    rw [resetPartFor_eq]
    have ended := frame_updPart ((s.resetCores q none).freeRegions q) q Partition.afterReset
    have settled := frame_settleJob (((s.resetCores q none).freeRegions q).updPart q Partition.afterReset) q
    rw [settled.reg (arrEbregion_apart i real), ended.reg List.not_mem_nil]
    exact freed
  · rintro x here rfl running run
    exact desc_resetPartFor here running (by simp) run

/-! ## A core reset (R93) -/

theorem resetCore_spec {s : State} {n : Nat} (alone : s.coreMerges n = false) :
    (∃ c : CoreState, (s.resetCore n).core n = c.afterReset) ∧
      ∀ p, s.partOfCore n = some p → ((s.resetCore n).part p).faulted = true ∧ ((s.resetCore n).part p).stopLine = true := by
  obtain ⟨u, eu⟩ : ∃ u, (s.endTick n (s.tickOf n)).updCore n CoreState.afterReset = u := ⟨_, rfl⟩
  have core : u.core n = ((s.endTick n (s.tickOf n)).core n).afterReset := by
    rw [← eu]
    exact State.core_updCore_self ..
  have step : s.resetCore n = match s.partOfCore n with
      | some q => u.updPart q (fun p => { p with faulted := true, stopLine := true })
      | none => u := by
    rw [← eu]
    exact if_neg (by simp [alone])
  rw [step]
  cases s.partOfCore n with
  | none => exact ⟨⟨_, core⟩, fun p h => absurd h (by simp)⟩
  | some q =>
    refine ⟨⟨_, (core_through (touches_updPart u q _) n).trans core⟩, fun p h => ?_⟩
    obtain rfl := Option.some.inj h
    dsimp only
    rw [State.part_updPart_self]
    exact ⟨rfl, rfl⟩

theorem mode_afterReset (c : CoreState) : c.afterReset.mode = .loaded ∨ c.afterReset.mode = .empty := by
  unfold CoreState.afterReset
  dsimp only
  split
  · exact .inr rfl
  · exact .inl rfl

/-! ## The mode (R212) -/

theorem det_iff (s : State) (det : Bool) : s.det = det ↔ s.rf Reg.arrMode 0 0 = (if det then 1 else 0) := by
  have bit := rf_lt s Reg.arrMode 0 0
  rw [State.det]
  cases det with
  | true => simp
  | false =>
    simp only [beq_eq_false_iff_ne, ne_eq, Bool.false_eq_true, if_false]
    omega

/-- Settles O42: a write of PRT_CTRL by `ctrlWrite`, its operations by their effects. -/
theorem partitionsCreateAndReset : Obligations.PartitionsCreateAndReset := by
  unfold Obligations.PartitionsCreateAndReset
  intro who q s
  have create (rows cols : BitVec 4) : exec (.create who q rows cols) s = .next (s.ctrlWrite who q (fun s =>
    (s.setSize q rows.toNat cols.toNat).createPart q rows.toNat cols.toNat)) := rfl
  have dissolve : exec (.dissolve who q) s = .next (s.ctrlWrite who q (fun s => s.dissolvePart q)) := rfl
  have reset : exec (.partitionReset who q) s = .next (s.ctrlWrite who q (fun s => s.resetIf q)) := rfl
  refine ⟨fun rows cols i which => ?gate, fun reaches may => ⟨fun rows cols => ?creates, fun stopped => ?dissolves,
    fun full running => ?busy, fun absent => ?absent, fun present => ?resets⟩, fun c => ⟨fun lost => ?merges,
    fun reaches alone => ?core⟩, fun det => ⟨fun lost => ?lost, fun reaches => ⟨fun same => ?same, fun other stopped => ?changes,
      fun other running => ?rejects⟩⟩⟩
  case gate =>
    obtain ⟨f, run⟩ : ∃ f, exec i s = .next (s.ctrlWrite who q f) := by
      simp only [List.mem_cons, List.not_mem_nil, or_false] at which
      rcases which with rfl | rfl | rfl
      · exact ⟨_, create rows cols⟩
      · exact ⟨_, dissolve⟩
      · exact ⟨_, reset⟩
    rw [run]
    refine ⟨fun lost => by rw [ctrlWrite_lost lost], fun reaches refused => ?_⟩
    rw [ctrlWrite_refused reaches refused]
    obtain ⟨shown, rest⟩ := raise_rejected s q
    exact ⟨_, rfl, shown, rest, (frame_raise ..).regs, (frame_raise ..).pieces⟩
  case creates =>
    rw [create, ctrlWrite_acts reaches may]
    obtain ⟨sized, r, c⟩ := setSize_spec s q rows.isLt cols.isLt
    obtain ⟨u, eu⟩ : ∃ u, s.setSize q rows.toNat cols.toNat = u := ⟨_, rfl⟩
    rw [eu] at sized r c
    rw [eu]
    obtain ⟨shown, made, kept, others, frame⟩ := createPart_spec u q rows.toNat cols.toNat
    have same : u.createResult q rows.toNat cols.toNat = s.createResult q rows.toNat cols.toNat :=
      createResult_of (sized.pieces .parts (by decide)) (sized.pieces .boot (by decide)) ..
    rw [same] at shown made kept
    have size : Reg.prtCtrl q ∉ [Reg.prtStatus q] := by
      rw [List.mem_singleton]
      exact (prtStatus_ne_prtCtrl q).symm
    refine ⟨_, rfl, shown, (frame.rf size 3 0).trans r, (frame.rf size 7 4).trans c, made, fun bad => ?_, ?_, ?_, ?_⟩
    · exact (kept bad).trans (sized.pieces .parts (by decide))
    · exact KeepsParts.trans (sized.pieces.keepsParts (by decide) _) others
    · exact ((frame.mono (ps := [.regs, .parts]) (rs := [Reg.prtStatus q, Reg.prtCtrl q])).comp (sized.mono)).regs
    · exact (sized.pieces.mono (by decide)).trans frame.pieces
  case dissolves =>
    rw [dissolve, ctrlWrite_acts reaches may]
    obtain ⟨-, cores, -, -⟩ := resetPart_spec s q
    have pieces := (within_resetPart s q).touches
    have step : s.dissolvePart q = ((s.resetPart q).setRf (Reg.prtStatus q) 6 4 0).updPart q (fun p =>
      { p with run := .none, qrows := 0, qcols := 0 }) := if_pos stopped
    rw [step]
    obtain ⟨u, eu⟩ : ∃ u, s.resetPart q = u := ⟨_, rfl⟩
    rw [eu] at cores pieces
    rw [eu]
    have shown := rf_setRf_self u (Reg.prtStatus q) 0 (show 4 ≤ 6 by decide) (by decide)
    have set := touches_setRf u (Reg.prtStatus q) 6 4 0
    obtain ⟨v, ev⟩ : ∃ v, u.setRf (Reg.prtStatus q) 6 4 0 = v := ⟨_, rfl⟩
    rw [ev] at shown set
    rw [ev]
    have gone := touches_updPart v q (fun p => { p with run := .none, qrows := 0, qcols := 0 })
    refine ⟨_, rfl, by rw [State.part_updPart_self]; rfl, ?_, fun n hn => ?_, ?_⟩
    · exact (rf_of_reg (gone.keepsRegs (by decide) [] _ List.not_mem_nil) 6 4).trans shown
    · rw [core_through gone, core_through set, cores n hn]
      rfl
    · exact (pieces.trans (set.mono (by decide))).trans (gone.mono (by decide))
  case busy =>
    rw [dissolve, ctrlWrite_acts reaches may, show s.dissolvePart q = s.setRf (Reg.prtStatus q) 6 4 5 from if_neg (by tauto)]
    refine ⟨_, rfl, rf_setRf_self _ _ _ (by decide) (by decide), (frame_setRf ..).regs, (frame_setRf ..).pieces⟩
  case absent =>
    rw [reset, ctrlWrite_acts reaches may]
    exact congrArg Host.Outcome.next (if_neg (by simp [absent]))
  case resets =>
    rw [reset, ctrlWrite_acts reaches may, show s.resetIf q = s.resetPart q from if_pos present]
    obtain ⟨⟨p, j, part, rows, cols⟩, cores, regions, descs⟩ := resetPart_spec s q
    refine ⟨_, rfl, ?_, ?_, ?_, ?_, ?_, ?_, ?_, ?_, fun n hn => ?_, regions, descs, (within_resetPart s q).touches⟩
    · rw [part]; rfl
    · rw [part]; rfl
    · rw [part]; rfl
    · rw [part]; rfl
    · rw [part]; exact rows
    · rw [part]; exact cols
    · rw [part]; rfl
    · rw [part]; rfl
    · rw [cores n hn]
      exact ⟨rfl, rfl⟩
  case merges =>
    rw [show exec (.coreReset who c) s = execCoreReset who c s from rfl, execCoreReset]
    rcases lost with lost | merges
    · rw [if_neg (by simp [lost])]
    · rw [State.resetCore, if_pos merges, ite_self]
  case core =>
    rw [show exec (.coreReset who c) s = execCoreReset who c s from rfl, execCoreReset, if_pos reaches]
    obtain ⟨⟨k, core⟩, parts⟩ := resetCore_spec alone
    refine ⟨_, rfl, ?_, ?_, ?_, ?_, ?_, ?_, parts, (within_resetCore s c).touches⟩
    · rw [core]; rfl
    · rw [core]; rfl
    · rw [core]; rfl
    · rw [core]; exact mode_afterReset k
    · rw [core]; rfl
    · rw [core]; rfl
  case lost =>
    rw [show exec (.arrModeWrite who det) s = execArrModeWrite who det s from rfl, execArrModeWrite, if_neg (by simp [lost])]
  case same =>
    rw [show exec (.arrModeWrite who det) s = execArrModeWrite who det s from rfl, execArrModeWrite, if_pos reaches, State.modeWrite,
      if_pos same]
  case changes =>
    rw [show exec (.arrModeWrite who det) s = execArrModeWrite who det s from rfl, execArrModeWrite, if_pos reaches, State.modeWrite,
      if_neg other, if_pos stopped]
    refine ⟨_, rfl, ?_, rf_setRf_apart _ _ _ (by decide) (by decide) (by decide), (frame_setRf ..).regs, (frame_setRf ..).pieces⟩
    rw [det_iff, rf_setRf_self _ _ _ (by decide) (by decide)]
    cases det <;> rfl
  case rejects =>
    rw [show exec (.arrModeWrite who det) s = execArrModeWrite who det s from rfl, execArrModeWrite, if_pos reaches, State.modeWrite,
      if_neg other, if_neg (by simp [running])]
    refine ⟨_, rfl, ?_, rf_raise_bit _ _ _ (by decide), (frame_raise ..).regs, (frame_raise ..).pieces⟩
    rw [State.det, State.det, rf_raise_apart _ _ _ (by decide) (by decide) (by decide)]

/-! ## Window writes (R65, R226) -/

section
variable {c off : Nat} {bytes ws : List Byte} {s : State} (cut : ws = bytes.take (0x28000 - off))
include cut

theorem windowWrite_busy {q : Nat} (own : s.partOfCore c = some q) (low : 3 ≤ s.partStateCode q) (high : s.partStateCode q ≤ 5) :
    s.windowWrite c off bytes = s.count (Reg.coreStatus c) 47 32 1 := by
  unfold State.windowWrite
  rw [own]
  exact if_pos (decide_eq_true ⟨low, high⟩)

variable (some_ : ws ≠ []) (clean : s.cleanAt (coreBase c + off) ws.length)
include some_ clean

/-- A window write of a core that no partition runs on: the bytes stand, and the partition notes it. -/
theorem windowWrite_idle (idle : ∀ q, s.partOfCore c = some q → s.partStateCode q < 3 ∨ 5 < s.partStateCode q) :
    (s.windowWrite c off bytes).rd (coreBase c + off) ws.length = ws ∧
      (∀ q, s.partOfCore c = some q → ((s.windowWrite c off bytes).part q).colo.window = true ∧
        KeepsParts [q] s (s.windowWrite c off bytes)) ∧
      (s.partOfCore c = none → (s.windowWrite c off bytes).parts = s.parts) ∧
      KeepsBytes (coreBase c + off) ws.length s (s.windowWrite c off bytes) ∧
      OnlyTouches [.mem, .sramErr, .parts] s (s.windowWrite c off bytes) := by
  have stored := wrSram_clean clean c
  obtain ⟨u, eu⟩ : ∃ u, s.wrSram c (coreBase c + off) ws = u := ⟨_, rfl⟩
  have bytesU : u.rd (coreBase c + off) ws.length = ws := by
    rw [← eu, stored]
    exact rd_wr_self ..
  have keeps : KeepsBytes (coreBase c + off) ws.length s u := by
    rw [← eu, stored]
    exact keepsBytes_wr s (coreBase c + off) ws
  have pieces : OnlyTouches [.mem, .sramErr] s u := by
    rw [← eu, stored]
    exact ((touches_wr _ _ _).mono (by decide)).trans ((touches_clearGranules _ _).mono (by decide))
  have same : u.partOfCore c = s.partOfCore c := by
    rw [State.partOfCore, State.partOfQuire, pieces .parts (by decide)]
    rfl
  have notBusy : ¬ (match s.partOfCore c with
      | some q => decide (3 ≤ s.partStateCode q ∧ s.partStateCode q ≤ 5)
      | none => false) = true := by
    cases own : s.partOfCore c with
    | none => simp
    | some q =>
      simp only [decide_eq_true_eq]
      have := idle q own
      omega
  have step : s.windowWrite c off bytes = match s.partOfCore c with
      | some q => u.updPart q (fun p => { p with colo := { p.colo with window := true } })
      | none => u := by
    rw [← same, ← eu, cut]
    exact (if_neg notBusy).trans (if_neg (by simpa [← cut] using some_))
  rw [step]
  cases own : s.partOfCore c with
  | none =>
    exact ⟨bytesU, fun q h => absurd h (by simp), fun _ => pieces .parts (by decide), keeps, pieces.mono (by decide)⟩
  | some q =>
    have noted := touches_updPart u q (fun p => { p with colo := { p.colo with window := true } })
    have mem := noted .mem (by decide)
    refine ⟨(rd_of_mem mem _ _).trans bytesU, fun p h => ?_, fun h => absurd h (by simp), fun k hk => ?_,
      (pieces.mono (by decide)).trans (noted.mono (by decide))⟩
    · obtain rfl := Option.some.inj h
      exact ⟨by rw [State.part_updPart_self], KeepsParts.trans (pieces.keepsParts (by decide) _) (keepsParts_updPart _ _ _)⟩
    · exact (congrArg (Table.look zeroByte · k) mem).trans (keeps k hk)

end

/-! ## A write of an action entry, and its cycle (R364, R423) -/

theorem accessOk_fltAction (k : Nat) : accessOk (Reg.fltAction k) 8 = true := by
  refine (accessOk_iff _ _).mpr ⟨.inr rfl, ?_⟩
  simp only [Reg.fltAction]
  omega

/-- A write leaves the actions that its cycle began with, and the collector's queue. -/
theorem actionWrite_keeps (s : State) (w : UnitWrite) (k : Nat) :
    (s.actionWrite w ⟨.fltAction, k, 0⟩).flt.queue = s.flt.queue ∧
      ((∀ y, s.actionWrites k = some y → y.rank ≤ Requester.rank w.who) →
        (s.actionWrite w ⟨.fltAction, k, 0⟩).actionsNow k = s.actionsNow k) := by
  unfold State.actionWrite
  extract_lets old x t
  split
  next later =>
    exact ⟨rfl, fun _ => rfl⟩
  · refine ⟨rfl, fun last => ?_⟩
    have noted : ({ t with flt := { t.flt with acts := Table.put (fun _ => none) t.flt.acts k (some x) } } : State).actionWrites k =
        some x := by
      rw [State.actionWrites]
      dsimp only
      rw [Table.look_put_self]
      exact if_pos rfl
    have before : fld x.before 8 0 = s.actionsNow k := by
      rw [State.actionsNow]
      cases earlier : s.actionWrites k with
      | none =>
        have none : old = Option.none := earlier
        dsimp only [x]
        rw [none]
        rfl
      | some y =>
        have some_ : old = some y := earlier
        dsimp only [x]
        rw [some_]
        rfl
    refine Eq.trans ?_ before
    rw [State.actionsNow]
    rw [noted]

theorem actionWrite_later {s : State} {w : UnitWrite} {k : Nat} {y : ActionWrite} (earlier : s.actionWrites k = some y)
    (later : Requester.rank w.who < y.rank) : s.actionWrite w ⟨.fltAction, k, 0⟩ = s := by
  unfold State.actionWrite
  extract_lets old x t
  have some_ : old = some y := earlier
  exact if_pos (by rw [some_]; simpa using later)

/-! ## A read of MEM_ECCSTAT (R10, R423) -/

theorem regPlace_memEccstat (c : Fin 48) : regPlace (Reg.memEccstat c) = some ⟨.memEccstat, c % 4, 0⟩ := by
  revert c
  decide +kernel

theorem fields_memEccstat (w v : U64) : fld (withRc .memEccstat 0 63 0 w v) 23 0 = fld w 23 0 ∧
    fld (withRc .memEccstat 0 63 0 w v) 39 24 = fld w 39 24 := by
  have fields : withRc .memEccstat 0 63 0 w v = setFld (setFld v 23 0 (fld w 23 0)) 39 24 (fld w 39 24) := rfl
  have low : fld w 23 0 < 2 ^ 24 := bitsN_lt ..
  have high : fld w 39 24 < 2 ^ 16 := bitsN_lt ..
  rw [fields, fld_setFld_other _ _ _ _ (by decide) (by decide) (.inr (by decide)), fld_setFld_self _ _ _ _ (by decide) (by decide),
    fld_setFld_self _ _ _ _ (by decide) (by decide)]
  exact ⟨Nat.mod_eq_of_lt low, Nat.mod_eq_of_lt high⟩

/-- What a read of rc fields shows and leaves. -/
theorem readRc_eq (s : State) (n : RegName) (off unit hi lo : Nat) (v : U64) : ∃ t,
    s.readRc n off unit hi lo v = (withRc n unit hi lo (s.regNow off).before v, t) ∧
      t.reg off = withRc n unit hi lo (s.regNow off).fresh (s.reg off) ∧ Frame [.regs] [off] s t := by
  have touches := touches_readRc s n off unit hi lo v
  obtain ⟨now, state⟩ := readRc_state s n off unit hi lo v
  refine ⟨(s.readRc n off unit hi lo v).2, Prod.ext rfl rfl, ?_, touches, fun o ho => ?_⟩
  · rw [state]
    exact State.reg_setReg_self ..
  · rw [state]
    exact keepsRegs_setReg s off _ o ho

/-- An 8 B read of MEM_ECCSTAT by the Gatehouse: the counts before the present cycle, of which the events of the cycle alone
stay. -/
theorem answerRead_memEccstat {s : State} (c : Fin 48) (published : s.boot.published = true) (counted : s.reg (Reg.memEccstat c) ≠ 0) :
    ∃ d u, s.answerRead .gatehouse (Reg.memEccstat c) 8 = { u with readData := d, readBytes := leBytes 8 d.toNat } ∧
      fld d 23 0 = fld (s.regNow (Reg.memEccstat c)).before 23 0 ∧ fld d 39 24 = fld (s.regNow (Reg.memEccstat c)).before 39 24 ∧
      u.rf (Reg.memEccstat c) 23 0 = fld (s.regNow (Reg.memEccstat c)).fresh 23 0 ∧
      u.rf (Reg.memEccstat c) 39 24 = fld (s.regNow (Reg.memEccstat c)).fresh 39 24 ∧ Frame [.regs] [Reg.memEccstat c] s u := by
  have place := regPlace_memEccstat c
  obtain ⟨off, eo⟩ : ∃ off, Reg.memEccstat c = off := ⟨_, rfl⟩
  have aligned : off / 8 * 8 = off ∧ off % 8 = 0 := by
    rw [← eo]
    simp only [Reg.memEccstat]
    omega
  obtain ⟨unit, start⟩ := aligned
  rw [eo] at place counted ⊢
  have seen : s.regSeen .gatehouse off = s.reg off := by
    rw [State.regSeen, if_pos (by simp), State.regView, place]
  obtain ⟨u, shown, left, frame⟩ := readRc_eq s .memEccstat off 0 63 0 (s.reg off)
  have effects : s.readEffects .gatehouse off 8 = (withRc .memEccstat 0 63 0 (s.regNow off).before (s.reg off), u) := by
    rw [State.readEffects, unit, start, seen, place]
    exact (if_pos (by simpa using counted)).trans shown
  obtain ⟨v, ev⟩ : ∃ v, withRc .memEccstat 0 63 0 (s.regNow off).before (s.reg off) = v := ⟨_, rfl⟩
  have values := fields_memEccstat (s.regNow off).before (s.reg off)
  have kept := fields_memEccstat (s.regNow off).fresh (s.reg off)
  rw [ev] at effects values
  have word : BitVec.ofNat 64 (bitsN v.toNat 63 0) = v := by
    rw [bitsN_eq, Nat.pow_zero, Nat.div_one, Nat.mod_eq_of_lt v.isLt, BitVec.ofNat_toNat, BitVec.setWidth_eq]
  have legal : accessOk off 8 = true := (accessOk_iff off 8).mpr ⟨.inr rfl, start⟩
  have read : s.regRead .gatehouse off 8 = (some v, u) := by
    rw [State.regRead, if_neg (by simp [Requester.isPort]), if_neg (by simp [legal])]
    dsimp only
    rw [if_neg (by simp), effects, start, word]
  refine ⟨v, u, ?_, values.1, values.2, ?_, ?_, frame⟩
  · rw [State.answerRead, read]
  · rw [State.rf, left]
    exact kept.1
  · rw [State.rf, left]
    exact kept.2

/-- Settles O43: window writes by `windowWrite_idle`, BAR4 by its local accesses, registers on FLT_ACTION and MEM_ECCSTAT. -/
theorem registerAccesses : Obligations.RegisterAccesses := by
  unfold Obligations.RegisterAccesses
  intro s
  refine ⟨fun c off bytes ws cut some_ => ⟨fun idle clean => ?idle, fun q own low high => ?busy⟩,
    fun p off n bs a ea => ⟨fun quiet => ?quiet, fun bar4 awake => ⟨fun r e u read => ?reads, fun clean inside => ?readsGood, ?writes,
      fun clean inside => ?writesGood⟩⟩,
    fun who off size value => ⟨fun refused => ?refused, fun k hk place wide reaches free => ⟨fun last => ?stores, fun y earlier later =>
      ?later⟩⟩, fun ch off e place published ee counted => ?clears⟩
  case idle => exact ⟨_, rfl, windowWrite_idle cut some_ clean idle⟩
  case busy =>
    refine ⟨s.count (Reg.coreStatus c) 47 32 1, congrArg Host.Outcome.next (windowWrite_busy cut own low high),
      rf_count_self _ _ _ (by decide) (by decide), (frame_count ..).regs, (frame_count ..).pieces⟩
  case quiet =>
    have off : (!s.boot.bar4 || s.asleep) = true := by
      rcases quiet with h | h <;> simp [h]
    exact ⟨if_pos off, if_pos off⟩
  case reads =>
    have on_ : ¬ (!s.boot.bar4 || s.asleep) = true := by simp [bar4, awake]
    refine (if_neg on_).trans ?_
    dsimp only
    rw [← ea, read]
  case readsGood =>
    have on_ : ¬ (!s.boot.bar4 || s.asleep) = true := by simp [bar4, awake]
    refine (if_neg on_).trans ?_
    dsimp only
    rw [← ea, localRead_dram clean inside]
    rfl
  case writes =>
    have on_ : ¬ (!s.boot.bar4 || s.asleep) = true := by simp [bar4, awake]
    refine (if_neg on_).trans ?_
    rw [ea]
  case writesGood =>
    obtain ⟨stores, keeps, bytes⟩ := localWrite_dram clean 127 inside
    exact ⟨bytes, keeps, stores.pieces⟩
  case refused =>
    rw [exec_registerWrite]
    rcases refused with bad | lost
    · rw [regWrite_refused bad]
    · rw [State.regWrite, if_neg (by simp [lost])]
  case stores =>
    subst wide
    have ok := accessOk_fltAction k
    rw [place] at reaches
    rw [exec_registerWrite, place, regWrite_fltAction hk reaches ok]
    obtain ⟨stored, regs, pieces⟩ := actionWrite_spec s ⟨who, Reg.fltAction k, 0, 8 * 8 - 1, value.toNat % 2 ^ (8 * 8)⟩ free rfl
      (Nat.le_of_ble_eq_true rfl) last
    obtain ⟨queue, now⟩ := actionWrite_keeps s ⟨who, Reg.fltAction k, 0, 8 * 8 - 1, value.toNat % 2 ^ (8 * 8)⟩ k
    refine ⟨_, rfl, stored.trans ?_, now last, queue, regs, pieces⟩
    rw [fld, Nat.mod_eq_of_lt value.isLt]
  case later =>
    subst wide
    have ok := accessOk_fltAction k
    rw [place] at reaches
    rw [exec_registerWrite, place, regWrite_fltAction hk reaches ok, actionWrite_later earlier later]
  case clears =>
    rw [place] at ee counted ⊢
    rw [exec_registerReadClear, place, ee]
    obtain ⟨d, u, answer, low, high, lowLeft, highLeft, frame⟩ := answerRead_memEccstat ch published counted
    refine ⟨_, congrArg Host.Outcome.next answer, low, high, rfl, lowLeft, highLeft, frame.regs, ?_⟩
    have answered : OnlyTouches [.readData, .readBytes] u { u with readData := d, readBytes := leBytes 8 d.toNat } :=
      Within.touches (.after (within_readBytes (s := { u with readData := d }) _) (within_readData (s := u) d).mono)
    exact (frame.pieces.mono (by decide)).trans (answered.mono (by decide))

end Sys2Proof.Machine
end

section
/-! PROOFS. The fault collector. -/

namespace Sys2Proof.Machine

open Sys2Proof

-- One theorem after another: many at once would need too many threads.
set_option Elab.async false

/-! ## The collector takes its first message (R360 to R362) -/

theorem cls_lt (m : FaultMsg) : m.cls < 4 := by
  have kinds : ∀ k : Fin 256, (kindClass k).getD 0 < 4 := by decide +kernel
  exact kinds ⟨fld m.msg 47 40, bitsN_lt ..⟩

theorem enterQueue_room {s : State} (room : s.flt.queue.length < 64) (m : FaultMsg) :
    s.enterQueue m = { s with flt := { s.flt with queue := placeMsg m s.flt.queue } } := by
  have fits : (placeMsg m s.flt.queue).length ≤ 64 := by rw [length_placeMsg]; omega
  unfold State.enterQueue
  extract_lets l u
  rw [show l.drop 64 = [] from List.drop_eq_nil_of_le fits, List.foldl_nil]
  exact congrArg (fun q => ({ s with flt := { s.flt with queue := q } } : State)) (List.take_of_length_le fits)

/-- The collector's queues once its first message is out and a waiting reporter has found room. -/
theorem letIn_spec {s : State} {ms : List FaultMsg} (room : ms.length < 64) : ∃ f,
    State.letIn { s with flt := { s.flt with queue := ms } } = { s with flt := f } ∧ f.acts = s.flt.acts ∧
      (s.flt.waiting = [] → f.queue = ms ∧ f.waiting = []) ∧
      (∀ w ws, s.flt.waiting = w :: ws → f.queue = placeMsg { w with at_ := s.mc } ms ∧ f.waiting = ws) := by
  unfold State.letIn
  dsimp only
  split
  next w ws waits =>
    rw [enterQueue_room room]
    refine ⟨_, rfl, rfl, fun none => absurd (waits.symm.trans none) (by simp), fun v vs some_ => ?_⟩
    obtain ⟨rfl, rfl⟩ := List.cons.inj (waits.symm.trans some_)
    exact ⟨rfl, rfl⟩
  next none =>
    exact ⟨_, rfl, rfl, fun _ => ⟨rfl, none⟩, fun w ws some_ => absurd (none.symm.trans some_) (by simp)⟩

/-- The latch of a message (R362). -/
theorem latch_spec (s : State) (m : FaultMsg) (time : U64) :
    (s.rf Reg.fltInfo 0 0 = 0 → (s.latch m time).reg Reg.fltFirst = m.msg ∧ (s.latch m time).reg Reg.fltTime = time ∧
      (s.latch m time).reg Reg.fltInfo = BitVec.ofNat 64 (1 + m.cls * 4 + m.tag % 128 * 16)) ∧
    (s.rf Reg.fltInfo 0 0 = 1 → (s.latch m time).reg Reg.fltFirst = s.reg Reg.fltFirst ∧
      (s.latch m time).rf Reg.fltInfo 1 1 = 1) ∧
    Frame [.regs] [Reg.fltFirst, Reg.fltTime, Reg.fltInfo] s (s.latch m time) := by
  unfold State.latch
  by_cases valid : s.rf Reg.fltInfo 0 0 = 1
  · rw [if_pos valid]
    exact ⟨fun clear => absurd (valid.symm.trans clear) (by decide), fun _ => ⟨(frame_setRf ..).reg (by decide),
      rf_setRf_bit _ _ _ (by decide)⟩, (frame_setRf ..).mono⟩
  · rw [if_neg valid]
    have first := frame_setReg s Reg.fltFirst m.msg
    have second := frame_setReg (s.setReg Reg.fltFirst m.msg) Reg.fltTime time
    have third := frame_setReg ((s.setReg Reg.fltFirst m.msg).setReg Reg.fltTime time) Reg.fltInfo
      (BitVec.ofNat 64 (1 + m.cls * 4 + m.tag % 128 * 16))
    refine ⟨fun _ => ⟨?_, ?_, State.reg_setReg_self ..⟩, fun h => absurd h valid, third.mono.comp (second.mono.comp first.mono)⟩
    · rw [third.reg (by decide), second.reg (by decide), State.reg_setReg_self]
    · rw [third.reg (by decide), State.reg_setReg_self]

theorem actionsNow_of {s t : State} (acts : t.flt.acts = s.flt.acts) (regs : t.regs = s.regs) (clk : t.clk = s.clk) (k : Nat) :
    t.actionsNow k = s.actionsNow k := by
  rw [State.actionsNow, State.actionsNow, State.actionWrites, State.actionWrites, acts, State.mc, State.mc, clk,
    rf_of_reg (State.reg_of_regs regs _)]

/-- A message without actions is latched and counted, and does no more. -/
theorem acceptMsg_quiet {s : State} {m : FaultMsg} (quiet : s.actionsNow (fld m.msg 47 40) = 0) :
    s.acceptMsg m = (State.latch { s with flt := { s.flt with accepted := some (s.mc, m, s.clk.gtimeNs) } } m
      s.clk.gtimeNs).countClass m.cls := by
  unfold State.acceptMsg
  rw [quiet]
  rfl

/-- FAULT_ACCEPT of a message without actions (R360 to R362). -/
theorem faultAccept_quiet {s : State} {m : FaultMsg} {ms : List FaultMsg} (queue : s.flt.queue = m :: ms) (room : ms.length < 64)
    (free : s.accepting = false) (quiet : s.actionsNow (fld m.msg 47 40) = 0) :
    ∃ t, exec .faultAccept s = .next t ∧ t.accepting = true ∧
      (s.flt.waiting = [] → t.flt.queue = ms ∧ t.flt.waiting = []) ∧
      (∀ w ws, s.flt.waiting = w :: ws → t.flt.queue = placeMsg { w with at_ := s.mc } ms ∧ t.flt.waiting = ws) ∧
      (s.rf Reg.fltInfo 0 0 = 0 → t.reg Reg.fltFirst = m.msg ∧ t.reg Reg.fltTime = s.clk.gtimeNs ∧
        t.reg Reg.fltInfo = BitVec.ofNat 64 (1 + m.cls * 4 + m.tag % 128 * 16)) ∧
      (s.rf Reg.fltInfo 0 0 = 1 → t.reg Reg.fltFirst = s.reg Reg.fltFirst ∧ t.rf Reg.fltInfo 1 1 = 1) ∧
      t.rf Reg.fltCount (16 * m.cls + 15) (16 * m.cls) =
        satAdd (2 ^ 16 - 1) (s.rf Reg.fltCount (16 * m.cls + 15) (16 * m.cls)) 1 ∧
      KeepsRegs [Reg.fltFirst, Reg.fltTime, Reg.fltInfo, Reg.fltCount] s t ∧ OnlyTouches [.regs, .flt] s t := by
  obtain ⟨f, enters, acts, none, some_⟩ := letIn_spec (s := s) room
  obtain ⟨u, eu⟩ : ∃ u : State, ({ s with flt := { f with accepted := some (s.mc, m, s.clk.gtimeNs) } } : State) = u := ⟨_, rfl⟩
  have entered : OnlyTouches [.flt] s u := by
    rw [← eu]
    exact fun p hp => by cases p <;> simp_all [Piece.same]
  have regs : u.regs = s.regs := (entered .regs (by decide)).1
  have flt : u.flt = { f with accepted := some (s.mc, m, s.clk.gtimeNs) } := by rw [← eu]
  have run : exec .faultAccept s = .next ((u.latch m s.clk.gtimeNs).countClass m.cls) := by
    rw [show exec .faultAccept s = execFaultAccept s from rfl, execFaultAccept, queue]
    refine (if_neg (by simp [free])).trans (congrArg Host.Outcome.next ?_)
    rw [enters, acceptMsg_quiet (s := { s with flt := f }) ((actionsNow_of (s := s) (t := { s with flt := f }) acts rfl rfl _).trans quiet),
      ← eu]
    rfl
  obtain ⟨clear, valid, frame⟩ := latch_spec u m s.clk.gtimeNs
  obtain ⟨v, ev⟩ : ∃ v, u.latch m s.clk.gtimeNs = v := ⟨_, rfl⟩
  rw [ev] at run clear valid frame
  have counted := frame_count v Reg.fltCount (16 * m.cls + 15) (16 * m.cls) 1
  have cls := cls_lt m
  have value := rf_count_self v Reg.fltCount 1 (show 16 * m.cls ≤ 16 * m.cls + 15 by omega) (by omega)
  rw [show 16 * m.cls + 15 + 1 - 16 * m.cls = 16 by omega, frame.rf (by decide), rf_of_reg (State.reg_of_regs regs _)] at value
  obtain ⟨t, et⟩ : ∃ t, v.count Reg.fltCount (16 * m.cls + 15) (16 * m.cls) 1 = t := ⟨_, rfl⟩
  rw [et] at counted value
  have same : t.flt = { f with accepted := some (s.mc, m, s.clk.gtimeNs) } :=
    (counted.pieces .flt (by decide)).trans ((frame.pieces .flt (by decide)).trans flt)
  have clk : t.clk = s.clk := (counted.pieces .clk (by decide)).trans
    ((frame.pieces .clk (by decide)).trans (entered .clk (by decide)))
  have info := rf_of_reg (State.reg_of_regs regs Reg.fltInfo) 0 0
  refine ⟨t, run.trans (congrArg Host.Outcome.next et), ?_, fun h => ?_, fun w ws h => ?_, fun h => ?_, fun h => ?_, value, ?_, ?_⟩
  · simp [State.accepting, State.mc, same, clk]
  · rw [same]
    exact none h
  · rw [same]
    exact some_ w ws h
  · obtain ⟨a, b, c⟩ := clear (info.trans h)
    rw [counted.reg (by decide), counted.reg (by decide), counted.reg (by decide)]
    exact ⟨a, b, c⟩
  · obtain ⟨a, b⟩ := valid (info.trans h)
    rw [counted.reg (by decide), counted.rf (by decide), a, b]
    exact ⟨State.reg_of_regs regs _, rfl⟩
  · have all := (counted.mono (ps := [.regs]) (rs := [Reg.fltFirst, Reg.fltTime, Reg.fltInfo, Reg.fltCount])).comp (frame.mono)
    exact (entered.keepsRegs (by decide) _).trans all.regs
  · exact (entered.mono (by decide)).trans ((frame.pieces.mono (by decide)).trans (counted.pieces.mono (by decide)))

/-! ## FLT_PEND (R365) -/

theorem masked_interrupt (s : State) (p q : Port) (v w : Nat) : (s.interrupt p v).vectorMasked q w = s.vectorMasked q w := by
  unfold State.interrupt
  split
  · rfl
  · split
    · split
      · rfl
      · rfl
    · rfl

theorem mem_msix_interrupt {s : State} (p : Port) (v : Nat) {x : Port × Nat} (h : x ∈ s.msix) : x ∈ (s.interrupt p v).msix := by
  unfold State.interrupt
  split
  · exact h
  · split
    · split
      · exact h
      · exact h
    · exact List.mem_append_left _ h

theorem frame_pendClear (s : State) (p : Port) : Frame [.regs, .msix] [Reg.fltPend] s (s.pendClear p) := by
  unfold State.pendClear
  dsimp only
  split
  · exact .refl ..
  · split
    · exact ((Frame.of_within (within_interrupt ..)).mono).comp ((frame_setRf ..).mono)
    · exact (frame_setRf ..).mono

/-- A pending bit written 1, of a port, and the two bits of the other (R365). -/
theorem pendClear_spec (s : State) (p : Port) :
    (s.rf Reg.fltPend p.num p.num = 0 → s.pendClear p = s) ∧
    (s.rf Reg.fltPend p.num p.num = 1 →
      (s.rf Reg.fltPend (p.num + 2) (p.num + 2) = 0 → (s.pendClear p).rf Reg.fltPend p.num p.num = 0 ∧
        (s.pendClear p).rf Reg.fltPend (p.num + 2) (p.num + 2) = 0) ∧
      (s.rf Reg.fltPend (p.num + 2) (p.num + 2) = 1 → (s.pendClear p).rf Reg.fltPend p.num p.num = 1 ∧
        (s.pendClear p).rf Reg.fltPend (p.num + 2) (p.num + 2) = 0 ∧
        (s.rf (Reg.hstPortstat p.num) 0 0 = 1 → s.vectorMasked p (s.rf (Reg.hstPortcfg p.num) 25 18) = false →
          (p, s.rf (Reg.hstPortcfg p.num) 25 18) ∈ (s.pendClear p).msix))) ∧
    (∀ q, q ≠ p → (s.pendClear p).rf Reg.fltPend q.num q.num = s.rf Reg.fltPend q.num q.num ∧
      (s.pendClear p).rf Reg.fltPend (q.num + 2) (q.num + 2) = s.rf Reg.fltPend (q.num + 2) (q.num + 2)) ∧
    (∀ x ∈ s.msix, x ∈ (s.pendClear p).msix) ∧ ∀ q v, (s.pendClear p).vectorMasked q v = s.vectorMasked q v := by
  have small : p.num < 2 := by cases p <;> decide
  unfold State.pendClear
  dsimp only
  by_cases idle : s.rf Reg.fltPend p.num p.num = 0
  · rw [if_pos idle]
    exact ⟨fun _ => rfl, fun h => absurd (idle.symm.trans h) (by decide), fun _ _ => ⟨rfl, rfl⟩, fun _ h => h, fun _ _ => rfl⟩
  · rw [if_neg idle]
    refine ⟨fun h => absurd h idle, ?_⟩
    have apart {q : Port} (other : q ≠ p) : q.num < 2 ∧ q.num ≠ p.num := by
      cases p <;> cases q <;> simp_all [Port.num]
    by_cases more : s.rf Reg.fltPend (p.num + 2) (p.num + 2) = 1
    · rw [if_pos more]
      obtain ⟨u, eu⟩ : ∃ u, s.setRf Reg.fltPend (p.num + 2) (p.num + 2) 0 = u := ⟨_, rfl⟩
      have set := frame_setRf s Reg.fltPend (p.num + 2) (p.num + 2) 0
      have cleared := rf_setRf_bit s Reg.fltPend 0 (show p.num + 2 < 64 by omega)
      have kept (b : Nat) (other : b ≠ p.num + 2) := rf_setRf_apart s Reg.fltPend (hi := p.num + 2) (lo := p.num + 2) (h2 := b)
        (l2 := b) 0 (Nat.le_refl _) (by omega) (by omega)
      have table : u.msixTable = s.msixTable := by rw [← eu]; rfl
      have msix : u.msix = s.msix := by rw [← eu]; rfl
      rw [eu] at set cleared kept
      rw [eu]
      have bit (b : Nat) : (u.interrupt p (s.rf (Reg.hstPortcfg p.num) 25 18)).rf Reg.fltPend b b = u.rf Reg.fltPend b b :=
        rf_of_reg ((within_interrupt u p _).touches.keepsRegs (by decide) [] _ List.not_mem_nil) b b
      have masked (q : Port) (v : Nat) : u.vectorMasked q v = s.vectorMasked q v := by
        rw [State.vectorMasked, table, State.vectorMasked]
      refine ⟨fun own => ⟨fun none => absurd (more.symm.trans none) (by decide), fun _ => ⟨?_, ?_, fun up unmasked => ?_⟩⟩,
        fun q other => ?_, fun x hx => mem_msix_interrupt p _ (msix ▸ hx), fun q v => (masked_interrupt ..).trans (masked q v)⟩
      · rw [bit, kept _ (by omega), own]
      · rw [bit, cleared]
      · have up' : u.rf (Reg.hstPortstat p.num) 0 0 = 1 := by
          rw [set.rf (by cases p <;> decide), up]
        rw [msix_interrupt up' ((masked p _).trans unmasked)]
        exact List.mem_append_right _ (List.mem_singleton.mpr rfl)
      · obtain ⟨less, different⟩ := apart other
        rw [bit, bit, kept _ (by omega), kept _ (by omega)]
        exact ⟨rfl, rfl⟩
    · rw [if_neg more]
      refine ⟨fun own => ⟨fun none => ⟨rf_setRf_bit _ _ _ (by omega), ?_⟩, fun h => absurd h more⟩, fun q other => ?_, fun _ h => h,
        fun _ _ => rfl⟩
      · rw [rf_setRf_apart _ _ _ (Nat.le_refl _) (by omega) (.inl (by omega)), none]
      · obtain ⟨less, different⟩ := apart other
        rw [rf_setRf_apart _ _ _ (Nat.le_refl _) (by omega) (by omega), rf_setRf_apart _ _ _ (Nat.le_refl _) (by omega) (by omega)]
        exact ⟨rfl, rfl⟩

/-- A write of FLT_PEND clears the bits of port A and then those of port B. -/
theorem pendWrite_spec (s : State) (bits : BitVec 2) :
    (∀ p : Port,
      ((bits.getLsbD p.num = false ∨ s.rf Reg.fltPend p.num p.num = 0) →
        (s.pendWrite bits.toNat).rf Reg.fltPend p.num p.num = s.rf Reg.fltPend p.num p.num ∧
        (s.pendWrite bits.toNat).rf Reg.fltPend (p.num + 2) (p.num + 2) = s.rf Reg.fltPend (p.num + 2) (p.num + 2)) ∧
      (bits.getLsbD p.num = true → s.rf Reg.fltPend p.num p.num = 1 →
        (s.rf Reg.fltPend (p.num + 2) (p.num + 2) = 0 → (s.pendWrite bits.toNat).rf Reg.fltPend p.num p.num = 0 ∧
          (s.pendWrite bits.toNat).rf Reg.fltPend (p.num + 2) (p.num + 2) = 0) ∧
        (s.rf Reg.fltPend (p.num + 2) (p.num + 2) = 1 → (s.pendWrite bits.toNat).rf Reg.fltPend p.num p.num = 1 ∧
          (s.pendWrite bits.toNat).rf Reg.fltPend (p.num + 2) (p.num + 2) = 0 ∧
          (s.rf (Reg.hstPortstat p.num) 0 0 = 1 → s.vectorMasked p (s.rf (Reg.hstPortcfg p.num) 25 18) = false →
            (p, s.rf (Reg.hstPortcfg p.num) 25 18) ∈ (s.pendWrite bits.toNat).msix)))) ∧
    Frame [.regs, .msix] [Reg.fltPend] s (s.pendWrite bits.toNat) := by
  obtain ⟨u, eu⟩ : ∃ u, (if bits.getLsbD 0 then s.pendClear .a else s) = u := ⟨_, rfl⟩
  have written : s.pendWrite bits.toNat = if bits.getLsbD 1 then u.pendClear .b else u := by rw [← eu]; rfl
  have first : Frame [.regs, .msix] [Reg.fltPend] s u := by
    rw [← eu]
    exact .ite (frame_pendClear s .a) (.refl ..)
  have second : Frame [.regs, .msix] [Reg.fltPend] u (s.pendWrite bits.toNat) := by
    rw [written]
    exact .ite (frame_pendClear u .b) (.refl ..)
  obtain ⟨idleA, busyA, otherA, -, maskedA⟩ := pendClear_spec s .a
  obtain ⟨idleB, busyB, otherB, keptB, -⟩ := pendClear_spec u .b
  have ofA : (u.rf Reg.fltPend 1 1 = s.rf Reg.fltPend 1 1 ∧ u.rf Reg.fltPend 3 3 = s.rf Reg.fltPend 3 3) ∧
      ∀ v, u.vectorMasked .b v = s.vectorMasked .b v := by
    rw [← eu]
    split
    · exact ⟨otherA .b (by decide), maskedA .b⟩
    · exact ⟨⟨rfl, rfl⟩, fun _ => rfl⟩
  have ofB : ((s.pendWrite bits.toNat).rf Reg.fltPend 0 0 = u.rf Reg.fltPend 0 0 ∧
      (s.pendWrite bits.toNat).rf Reg.fltPend 2 2 = u.rf Reg.fltPend 2 2) ∧
      ∀ x ∈ u.msix, x ∈ (s.pendWrite bits.toNat).msix := by
    rw [written]
    split
    · exact ⟨otherB .a (by decide), keptB⟩
    · exact ⟨⟨rfl, rfl⟩, fun _ h => h⟩
  obtain ⟨⟨ownB, moreB⟩, maskB⟩ := ofA
  obtain ⟨⟨ownA, moreA⟩, grows⟩ := ofB
  have stat : u.rf (Reg.hstPortstat 1) 0 0 = s.rf (Reg.hstPortstat 1) 0 0 := first.rf (by decide) _ _
  have vector : u.rf (Reg.hstPortcfg 1) 25 18 = s.rf (Reg.hstPortcfg 1) 25 18 := first.rf (by decide) _ _
  refine ⟨fun p => ?_, (second.comp first).mono⟩
  cases p with
  | a =>
    refine ⟨fun stays => ?_, fun asked set => ?_⟩
    · have same : u = s := by
        rw [← eu]
        rcases stays with off | idle
        · exact if_neg (Bool.eq_false_iff.mp off)
        · rw [idleA idle, ite_self]
      exact ⟨ownA.trans (same ▸ rfl), moreA.trans (same ▸ rfl)⟩
    · have runs : s.pendClear .a = u := (if_pos asked).symm.trans eu
      rw [runs] at busyA
      obtain ⟨none, more⟩ := busyA set
      refine ⟨fun h => ⟨ownA.trans (none h).1, moreA.trans (none h).2⟩, fun h => ?_⟩
      obtain ⟨own, cleared, sends⟩ := more h
      exact ⟨ownA.trans own, moreA.trans cleared, fun up open_ => grows _ (sends up open_)⟩
  | b =>
    refine ⟨fun stays => ?_, fun asked set => ?_⟩
    · have same : s.pendWrite bits.toNat = u := by
        rw [written]
        rcases stays with off | idle
        · exact if_neg (Bool.eq_false_iff.mp off)
        · rw [idleB (ownB.trans idle), ite_self]
      rw [same]
      exact ⟨ownB, moreB⟩
    · rw [written.trans (if_pos asked)]
      obtain ⟨none, more⟩ := busyB (ownB.trans set)
      refine ⟨fun h => none (moreB.trans h), fun h => ?_⟩
      obtain ⟨own, cleared, sends⟩ := more (moreB.trans h)
      refine ⟨own, cleared, fun up open_ => ?_⟩
      have sent := sends (stat.trans up) ((congrArg _ vector).trans ((maskB _).trans open_))
      exact vector ▸ sent

/-! ## VALID and RELEASE (R363, R365) -/

/-- A write of VALID clears VALID and OVERFLOW, and latches a message accepted in the same cycle. -/
theorem infoClear_spec (s : State) :
    (s.accepting = false → s.infoClear = s.setRf Reg.fltInfo 1 0 0) ∧
    ∀ m time, s.flt.accepted = some (s.mc, m, time) → s.infoClear = (s.setRf Reg.fltInfo 1 0 0).latch m time := by
  unfold State.infoClear
  refine ⟨fun free => ?_, fun m time accepted => ?_⟩
  · dsimp only
    split
    next c m time accepted =>
      refine if_neg fun now => ?_
      simp [State.accepting, accepted, now] at free
    next => rfl
  · rw [accepted]
    exact if_pos rfl

theorem infoClear_idle {s : State} (free : s.accepting = false) :
    s.infoClear.rf Reg.fltInfo 1 0 = 0 ∧ fld (s.infoClear.reg Reg.fltInfo) 63 2 = fld (s.reg Reg.fltInfo) 63 2 ∧
      Frame [.regs] [Reg.fltInfo] s s.infoClear := by
  rw [(infoClear_spec s).1 free]
  exact ⟨rf_setRf_self s _ 0 (by decide) (by decide),
    rf_setRf_apart s Reg.fltInfo (h2 := 63) (l2 := 2) 0 (by decide) (by decide) (.inl (by decide)), frame_setRf ..⟩

theorem infoClear_latches {s : State} {m : FaultMsg} {time : U64} (accepted : s.flt.accepted = some (s.mc, m, time)) :
    s.infoClear.reg Reg.fltFirst = m.msg ∧ s.infoClear.reg Reg.fltTime = time ∧
      s.infoClear.reg Reg.fltInfo = BitVec.ofNat 64 (1 + m.cls * 4 + m.tag % 128 * 16) ∧
      Frame [.regs] [Reg.fltFirst, Reg.fltTime, Reg.fltInfo] s s.infoClear := by
  rw [(infoClear_spec s).2 m time accepted]
  obtain ⟨clear, -, frame⟩ := latch_spec (s.setRf Reg.fltInfo 1 0 0) m time
  have none : (s.setRf Reg.fltInfo 1 0 0).rf Reg.fltInfo 0 0 = 0 := by
    have both := rf_setRf_self s Reg.fltInfo (hi := 1) (lo := 0) 0 (by decide) (by decide)
    unfold State.rf at both ⊢
    simp only [fld, bitsN] at both ⊢
    omega
  obtain ⟨first, time_, info⟩ := clear none
  exact ⟨first, time_, info, frame.comp (frame_setRf ..).mono⟩

/-- FLT_CTRL.RELEASE ends a fault hold that did not begin in this cycle. -/
theorem holdRelease_spec (s : State) (who : Requester) (q : Nat) :
    ((96 ≤ q ∨ s.mayOwn who q = false ∨ (s.part q).heldAt = some s.mc) → s.holdRelease who q = s) ∧
    (q < 96 → s.mayOwn who q = true → (s.part q).heldAt ≠ some s.mc →
      s.holdRelease who q = s.updPart q Partition.releaseHold) := by
  unfold State.holdRelease
  refine ⟨fun bars => if_neg fun h => ?_, fun small may now => if_pos ⟨small, may, now⟩⟩
  obtain ⟨small, may, now⟩ := h
  rcases bars with large | other | begun
  · omega
  · exact absurd (may.symm.trans other) (by decide)
  · exact now begun

theorem releaseHold_held {p : Partition} (held : p.faultHold = true) :
    p.releaseHold = { p with
      faultHold := false
      resumeIn := if p.run = .running ∧ p.hold = none ∧ p.stopped = false then some 40 else p.resumeIn
      freezeAt := if p.run = .running ∨ p.stopped = true then p.freezeAt else none
      froze := p.releaseHold.froze } := by
  unfold Partition.releaseHold
  rw [if_pos held]
  simp

/-- Settles O46: the first message of the queue is latched and counted, and a reporter that waits takes its room; the
writes of VALID, of the pending bits (port A's, then port B's) and of RELEASE. -/
theorem faultCollectorAccepts : Obligations.FaultCollectorAccepts := by
  intro who s
  refine ⟨fun idle => ?_, fun m ms => faultAccept_quiet, fun stays => congrArg Host.Outcome.next (if_neg (by simp [stays])),
    fun reaches => ⟨fun free => ?_, fun m time accepted => ?_⟩, fun bits => ⟨fun stays => ?_, fun reaches => ?_⟩,
    fun q => ⟨fun bars => ?_, fun small reaches may now held => ?_⟩⟩
  · rw [show exec .faultAccept s = execFaultAccept s from rfl, execFaultAccept]
    rcases idle with none | busy
    · rw [none]
    · split
      · rfl
      · exact if_pos busy
  · obtain ⟨cleared, kept, frame⟩ := infoClear_idle free
    exact ⟨_, congrArg Host.Outcome.next (if_pos reaches), cleared, kept, frame.regs, frame.pieces⟩
  · obtain ⟨first, time_, info, frame⟩ := infoClear_latches accepted
    exact ⟨_, congrArg Host.Outcome.next (if_pos reaches), first, time_, info, frame.regs, frame.pieces⟩
  · exact congrArg Host.Outcome.next (if_neg (by simp [stays]))
  · obtain ⟨ports, frame⟩ := pendWrite_spec s bits
    exact ⟨_, congrArg Host.Outcome.next (if_pos reaches), ports, frame.regs, frame.pieces⟩
  · refine congrArg Host.Outcome.next ?_
    rcases bars with stays | bars
    · exact if_neg (by simp [stays])
    · rw [(holdRelease_spec s who q.toNat).1 bars, ite_self]
  · refine ⟨s.updPart q.toNat Partition.releaseHold, congrArg Host.Outcome.next
      ((if_pos reaches).trans ((holdRelease_spec s who q.toNat).2 small may now)), ?_, keepsParts_updPart _ _ _, touches_updPart _ _ _⟩
    rw [State.part_updPart_self]
    exact releaseHold_held held

end Sys2Proof.Machine
end

section
/-! PROOFS. The entropy source. -/

namespace Sys2Proof.Machine

open Sys2Proof

-- One theorem after another: many at once would need too many threads.
set_option Elab.async false

/-! ## The state of the entropy source after an event -/

/-- The expander is at its limit only when its count has reached it (R346). -/
theorem entNext_below {s : State} (few : s.ent.count < expanderLimit) : s.entNext ≠ .limit := by
  unfold State.entNext
  have below : ¬ (expanderLimit ≤ s.ent.count ∧ s.ent.seeds.isEmpty ∧ !s.sampleWaits) := fun h => absurd h.1 (by omega)
  cases s.ent.state with
  | off => simp
  | fatal => simp
  | startup =>
    dsimp only
    split <;> simp
  | _ =>
    dsimp only
    rw [if_neg below]
    split <;> simp

theorem entNext_startup {s : State} (starts : s.ent.state = .startup) : s.entNext ≠ .limit := by
  unfold State.entNext
  rw [starts]
  dsimp only
  split <;> simp

/-- An event that does not reach the limit sets the state, and asks for the lanes' seeding. -/
theorem entSettle_eq {s : State} (below : s.entNext ≠ .limit) : s.entSettle = { s with ent := { s.ent with
    state := s.entNext, seeding := s.ent.seeding || (s.entNext.serves && !s.ent.seeded) } } := by
  unfold State.entSettle
  dsimp only
  rw [if_neg (fun h => below h.1)]

/-- An event changes the state and the seeding, and nothing else of the source. -/
theorem ent_entSettle (s : State) : ∃ st sd, s.entSettle.ent = { s.ent with state := st, seeding := sd } := by
  have kept : (if s.entNext = .limit ∧ s.ent.state ≠ .limit then s.reachLimit else s).ent = s.ent := by
    split
    · exact (within_reachLimit s).touches .ent (by decide)
    · rfl
  obtain ⟨u, eu⟩ : ∃ u, (if s.entNext = .limit ∧ s.ent.state ≠ .limit then s.reachLimit else s) = u := ⟨_, rfl⟩
  rw [eu] at kept
  refine ⟨s.entNext, s.ent.seeding || (s.entNext.serves && !s.ent.seeded), ?_⟩
  unfold State.entSettle
  dsimp only
  rw [eu, kept]

theorem enabledSources_of {s t : State} (h : t.reg Reg.entStatus = s.reg Reg.entStatus) : t.enabledSources = s.enabledSources := by
  rw [State.enabledSources, State.enabledSources, rf_of_reg h]

theorem noise_of {s t : State} (h : t.ent.sources = s.ent.sources) (i : Nat) : t.noise i = s.noise i := by
  rw [State.noise, State.noise, h]

/-! ## A noise sample (R338 to R343) -/

/-- One source takes its bit: its tests go on, and its first full healthy start-up is counted. -/
def State.advanceSource (bits : Byte) (t : State) (i : Nat) : State :=
  let x := t.noise i
  if x.running then
    let r := x.sample (bits.getLsbD i)
    let y := r.2
    let t := if y.healthy && !x.healthy && r.1.isNone then t.count (Reg.entSrcstat i) 47 32 1 else t
    { t with ent := { t.ent with sources := Table.put (fun _ => ({} : NoiseSource)) t.ent.sources i y } }
  else t

theorem advanceSources_eq (s : State) (bits : Byte) :
    s.advanceSources bits = s.enabledSources.foldl (State.advanceSource bits) s := rfl

theorem advanceSource_spec (bits : Byte) (s : State) (i : Nat) :
    (∃ src, (s.advanceSource bits i).ent = { s.ent with sources := src }) ∧
    ((s.noise i).running = true → (s.advanceSource bits i).noise i = ((s.noise i).sample (bits.getLsbD i)).2) ∧
    (∀ j, j ≠ i → (s.advanceSource bits i).noise j = s.noise j) ∧
    Frame [.regs, .ent] [Reg.entSrcstat i] s (s.advanceSource bits i) := by
  unfold State.advanceSource
  dsimp only
  by_cases runs : (s.noise i).running = true
  · rw [if_pos runs]
    obtain ⟨u, eu⟩ : ∃ u, (if ((s.noise i).sample (bits.getLsbD i)).2.healthy && !(s.noise i).healthy &&
      ((s.noise i).sample (bits.getLsbD i)).1.isNone then s.count (Reg.entSrcstat i) 47 32 1 else s) = u := ⟨_, rfl⟩
    have counted : Frame [.regs] [Reg.entSrcstat i] s u := by
      rw [← eu]
      exact .ite (frame_count ..) (.refl ..)
    have same : u.ent = s.ent := counted.pieces .ent (by decide)
    rw [eu]
    refine ⟨⟨_, by rw [same]⟩, fun _ => Table.look_put_self .., fun j other => ?_, ?_⟩
    · exact (Table.look_put_other _ _ _ other).trans (congrArg (fun e : Entropy => Table.look _ e.sources j) same)
    · exact ((Frame.of_within (within_ent (s := u) _)).mono (ps := [.regs, .ent])).comp counted.mono
  · rw [if_neg runs]
    exact ⟨⟨s.ent.sources, rfl⟩, fun h => absurd h runs, fun _ _ => rfl, .refl ..⟩

/-- Sources of a list take their bits one after another. -/
theorem foldl_advanceSource (bits : Byte) (l : List Nat) (nodup : l.Nodup) : ∀ s : State,
    (∃ src, (l.foldl (State.advanceSource bits) s).ent = { s.ent with sources := src }) ∧
    (∀ i ∈ l, (s.noise i).running = true →
      (l.foldl (State.advanceSource bits) s).noise i = ((s.noise i).sample (bits.getLsbD i)).2) ∧
    (∀ j, j ∉ l → (l.foldl (State.advanceSource bits) s).noise j = s.noise j) ∧
    Frame [.regs, .ent] (l.map Reg.entSrcstat) s (l.foldl (State.advanceSource bits) s) := by
  induction l with
  | nil => exact fun s => ⟨⟨s.ent.sources, rfl⟩, fun i h => absurd h List.not_mem_nil, fun _ _ => rfl, .refl ..⟩
  | cons i l ih =>
    intro s
    obtain ⟨fresh, rest⟩ := List.nodup_cons.mp nodup
    obtain ⟨⟨src, ent⟩, own, other, frame⟩ := advanceSource_spec bits s i
    obtain ⟨⟨src', ent'⟩, owns, others, frames⟩ := ih rest (s.advanceSource bits i)
    rw [List.foldl_cons]
    refine ⟨⟨src', ent'.trans (by rw [ent])⟩, fun j mem runs => ?_, fun j out => ?_, ?_⟩
    · rcases List.mem_cons.mp mem with rfl | later
      · exact (others j fresh).trans (own runs)
      · have apart : j ≠ i := fun h => fresh (h ▸ later)
        have same := other j apart
        exact (owns j later (same ▸ runs)).trans (by rw [same])
    · obtain ⟨apart, out⟩ := not_or.mp (mt List.mem_cons.mpr out)
      exact (others j out).trans (other j apart)
    · exact (frames.mono (ps := [.regs, .ent]) (rs := (i :: l).map Reg.entSrcstat) (own := by simp)).comp
        (frame.mono (own := by simp))

/-- Every running source in use takes its bit. -/
theorem advanceSources_spec (s : State) (bits : Byte) :
    (∃ src, (s.advanceSources bits).ent = { s.ent with sources := src }) ∧
    (∀ i ∈ s.enabledSources, (s.noise i).running = true →
      (s.advanceSources bits).noise i = ((s.noise i).sample (bits.getLsbD i)).2) ∧
    Frame [.regs, .ent] (s.enabledSources.map Reg.entSrcstat) s (s.advanceSources bits) := by
  rw [advanceSources_eq]
  obtain ⟨ent, own, -, frame⟩ := foldl_advanceSource bits s.enabledSources (nodup_setBitsOf _ _) s
  exact ⟨ent, own, frame⟩

/-- The conditioner takes bits; the sources, the expander and the failures stay. -/
def Entropy.Collected (e x : Entropy) : Prop :=
  x.sources = e.sources ∧ x.key = e.key ∧ x.out = e.out ∧ x.fails = e.fails

theorem collected_collect (e : Entropy) (b : Bool) : e.Collected (e.collect b) := by
  unfold Entropy.collect
  split
  · exact ⟨rfl, rfl, rfl, rfl⟩
  · split
    · exact ⟨rfl, rfl, rfl, rfl⟩
    · exact ⟨rfl, rfl, rfl, rfl⟩

theorem collected_foldl (e : Entropy) (bits : Byte) (l : List Nat) :
    e.Collected (l.foldl (fun x i => x.collect (bits.getLsbD i)) e) := by
  induction l generalizing e with
  | nil => exact ⟨rfl, rfl, rfl, rfl⟩
  | cons i l ih =>
    obtain ⟨src, key, out, fails⟩ := ih (e.collect (bits.getLsbD i))
    obtain ⟨src', key', out', fails'⟩ := collected_collect e (bits.getLsbD i)
    exact ⟨src.trans src', key.trans key', out.trans out', fails.trans fails'⟩

/-- A sample in which no test fails. -/
theorem noiseSample_passes {s : State} {bits : Byte} (on : s.ent.state ≠ .off) (live : s.ent.state ≠ .fatal)
    (pass : s.sampleFails bits = []) :
    ∃ t, exec (.noiseSample bits) s = .next t ∧
      (∀ i ∈ s.enabledSources, (s.noise i).running = true → t.noise i = ((s.noise i).sample (bits.getLsbD i)).2) ∧
      t.ent.key = s.ent.key ∧ t.ent.out = s.ent.out ∧ t.ent.fails = s.ent.fails ∧
      OnlyTouches [.regs, .ent, .rings, .descs] s t := by
  obtain ⟨⟨src, ent⟩, own, frame⟩ := advanceSources_spec s bits
  obtain ⟨u, eu⟩ : ∃ u, s.advanceSources bits = u := ⟨_, rfl⟩
  rw [eu] at ent own frame
  obtain ⟨srcs, key, out, fails⟩ := collected_foldl u.ent bits (s.enabledSources.filter (fun i => (s.noise i).healthy))
  obtain ⟨e, ee⟩ : ∃ e, (s.enabledSources.filter (fun i => (s.noise i).healthy)).foldl (fun x i => x.collect (bits.getLsbD i))
    u.ent = e := ⟨_, rfl⟩
  rw [ee] at srcs key out fails
  have run : exec (.noiseSample bits) s = .next (State.entSettle { u with ent := e }) := by
    rw [show exec (.noiseSample bits) s = execNoiseSample bits s from rfl, execNoiseSample, if_neg (by simp [on, live])]
    dsimp only
    rw [pass, if_pos List.isEmpty_nil, eu, ee]
  obtain ⟨st, sd, settled⟩ := ent_entSettle { u with ent := e }
  have pieces : OnlyTouches [.regs, .ent, .rings, .descs] s (State.entSettle { u with ent := e }) :=
    (frame.pieces.mono (by decide)).trans (((within_ent (s := u) e).touches.mono (by decide)).trans
      ((within_entSettle _).touches.mono (by decide)))
  obtain ⟨t, et⟩ : ∃ t, State.entSettle { u with ent := e } = t := ⟨_, rfl⟩
  rw [et] at run settled pieces
  refine ⟨t, run, fun i mem runs => ?_, ?_, ?_, ?_, pieces⟩
  · rw [← own i mem runs]
    exact noise_of (by rw [settled, ← srcs]) i
  · rw [settled, ← (show u.ent.key = s.ent.key by rw [ent]), ← key]
  · rw [settled, ← (show u.ent.out = s.ent.out by rw [ent]), ← out]
  · rw [settled, ← (show u.ent.fails = s.ent.fails by rw [ent]), ← fails]

/-- A failing source starts again; the failure is counted and reported, and the block is discarded. -/
theorem noiseFail_spec (s : State) {i : Nat} (f : Nat) (small : i < 8) :
    (s.noiseFail (i, f)).noise i = { running := true } ∧
    (s.noiseFail (i, f)).ent = { s.ent with block := [], fails := (s.clk.wall :: s.ent.fails).take 4
                                            sources := (s.noiseFail (i, f)).ent.sources } ∧
    (s.noiseFail (i, f)).rf Reg.entStat 15 0 = satAdd (2 ^ 16 - 1) (s.rf Reg.entStat 15 0) 1 ∧
    Reports [(blockSrc 6 i, 0x50, f)] 127 s (s.noiseFail (i, f)) ∧ OnlyTouches [.regs, .ent, .flt] s (s.noiseFail (i, f)) := by
  have all := (within_noiseFail s (i, f)).touches
  unfold State.noiseFail at all ⊢
  dsimp only at all ⊢
  obtain ⟨u, eu⟩ : ∃ u, s.count (Reg.entSrcstat i) (if f % 2 = 0 then 15 else 31) (if f % 2 = 0 then 0 else 16) 1 = u := ⟨_, rfl⟩
  have first : Frame [.regs] [Reg.entSrcstat i] s u := eu ▸ frame_count ..
  rw [eu] at all ⊢
  have second := frame_count u Reg.entStat 15 0 1
  have value := rf_count_self u Reg.entStat (hi := 15) (lo := 0) 1 (by decide) (by decide)
  obtain ⟨v, ev⟩ : ∃ v, u.count Reg.entStat 15 0 1 = v := ⟨_, rfl⟩
  rw [ev] at second value all ⊢
  have notes := reports_report v (blockSrc 6 i) 0x50 f 127
  have third := frame_report v (blockSrc 6 i) 0x50 f 127
  obtain ⟨w, ew⟩ : ∃ w, v.report (blockSrc 6 i) 0x50 f 127 = w := ⟨_, rfl⟩
  rw [ew] at notes third all ⊢
  have ent : w.ent = s.ent := (third.pieces .ent (by decide)).trans ((second.pieces .ent (by decide)).trans
    (first.pieces .ent (by decide)))
  have clk : w.clk = s.clk := (third.pieces .clk (by decide)).trans ((second.pieces .clk (by decide)).trans
    (first.pieces .clk (by decide)))
  refine ⟨by rw [State.noise, Table.look_put_self], by rw [ent, clk], ?_, ?_, all⟩
  · calc w.rf Reg.entStat 15 0 = v.rf Reg.entStat 15 0 := third.rf (by decide) _ _
      _ = satAdd (2 ^ 16 - 1) (u.rf Reg.entStat 15 0) 1 := value
      _ = _ := by rw [first.rf (by simp only [List.mem_singleton, Reg.entStat, Reg.entSrcstat]; omega)]
  · exact notes.after ((second.pieces .flt (by decide)).trans (first.pieces .flt (by decide)))
      ((second.pieces .clk (by decide)).trans (first.pieces .clk (by decide)))

theorem mem_sampleFails {s : State} {bits : Byte} {i f : Nat} (h : (i, f) ∈ s.sampleFails bits) : i ∈ s.enabledSources := by
  obtain ⟨j, mem, fails⟩ := List.mem_filterMap.mp h
  dsimp only at fails
  split at fails
  · obtain ⟨k, -, is⟩ := Option.map_eq_some_iff.mp fails
    exact (Prod.mk.inj is).1 ▸ mem
  · simp at fails

theorem tooOften_few {e : Entropy} (few : e.fails.length ≤ 3) (now : Nat) : e.tooOften now = false := by
  rw [Entropy.tooOften, List.getElem?_eq_none few]

/-- A sample of the start-up in which one source fails. -/
theorem noiseSample_fails {s : State} {bits : Byte} {i f : Nat} (fails : s.sampleFails bits = [(i, f)])
    (few : s.ent.fails.length < 3) (starts : s.ent.state = .startup) :
    ∃ t, exec (.noiseSample bits) s = .next t ∧ t.noise i = { running := true } ∧ t.ent.block = [] ∧
      t.ent.fails = s.clk.wall :: s.ent.fails ∧ t.rf Reg.entStat 15 0 = satAdd (2 ^ 16 - 1) (s.rf Reg.entStat 15 0) 1 ∧
      Reports [(blockSrc 6 i, 0x50, f)] 127 s t ∧ OnlyTouches [.regs, .ent, .flt] s t := by
  have mem : i ∈ s.enabledSources := mem_sampleFails (fails ▸ List.mem_singleton.mpr rfl)
  have small : i < 8 := ((mem_setBitsOf ..).mp mem).1
  obtain ⟨⟨src, ent⟩, -, frame⟩ := advanceSources_spec s bits
  obtain ⟨u, eu⟩ : ∃ u, s.advanceSources bits = u := ⟨_, rfl⟩
  rw [eu] at ent frame
  obtain ⟨own, ent', value, notes, pieces⟩ := noiseFail_spec u f small
  obtain ⟨v, ev⟩ : ∃ v, u.noiseFail (i, f) = v := ⟨_, rfl⟩
  rw [ev] at own ent' value notes pieces
  have clk : u.clk = s.clk := frame.pieces .clk (by decide)
  have failed : v.ent.fails = s.clk.wall :: s.ent.fails := by
    rw [ent', ent, clk]
    exact List.take_of_length_le (by simp only [List.length_cons]; omega)
  have same : v.ent.state = .startup := by rw [ent', ent, starts]
  have settles := entSettle_eq (entNext_startup same)
  have run : exec (.noiseSample bits) s = .next v.entSettle := by
    rw [show exec (.noiseSample bits) s = execNoiseSample bits s from rfl, execNoiseSample, if_neg (by simp [starts])]
    dsimp only
    rw [fails, if_neg (by simp), eu, List.foldl_cons, List.foldl_nil, ev, tooOften_few (by rw [failed]; exact few), starts]
    rfl
  obtain ⟨e, ee⟩ : ∃ e, ({ v.ent with state := v.entNext, seeding := v.ent.seeding || (v.entNext.serves && !v.ent.seeded) } :
    Entropy) = e := ⟨_, rfl⟩
  have kept : e.sources = v.ent.sources ∧ e.block = v.ent.block ∧ e.fails = v.ent.fails := by rw [← ee]; exact ⟨rfl, rfl, rfl⟩
  rw [ee] at settles
  obtain ⟨sources, block, fails'⟩ := kept
  have regs : ∀ o, ({ v with ent := e } : State).reg o = v.reg o := fun _ => rfl
  have entered : OnlyTouches [.ent] v { v with ent := e } := (within_ent (s := v) e).touches
  rw [settles] at run
  obtain ⟨t, et⟩ : ∃ t : State, ({ v with ent := e } : State) = t := ⟨_, rfl⟩
  have tent : t.ent = e := by rw [← et]
  have tflt : t.flt = v.flt := by rw [← et]
  rw [et] at run regs entered
  refine ⟨t, run, (noise_of (by rw [tent, sources]) i).trans own, ?_, ?_, ?_, ?_, ?_⟩
  · rw [tent, block, ent']
  · rw [tent, fails', failed]
  · rw [rf_of_reg (regs _), value, frame.rf (by
      simp only [List.mem_map, not_exists, not_and, Reg.entStat, Reg.entSrcstat]
      exact fun j _ => by omega)]
  · intro room x hx
    rw [← frame.pieces .flt (by decide)] at room
    have there := notes room x hx
    rw [tflt]
    rwa [State.mc, clk] at there
  · exact (frame.pieces.mono (by decide)).trans (pieces.trans (entered.mono (by decide)))

/-! ## The expander (R345 to R347) -/

/-- A seed becomes the first key of the expander. -/
theorem expanderReseed_first {s : State} {seed : List Byte} {rest : List (List Byte)} (live : s.ent.state ≠ .fatal)
    (on : s.ent.state ≠ .off) (seeds : s.ent.seeds = seed :: rest) (none : s.ent.key = none) :
    ∃ t, exec .expanderReseed s = .next t ∧ t.ent.seeds = rest ∧ t.ent.count = 0 ∧ t.ent.reseeds = 0 ∧
      t.ent.key = some (shake256_256 (ascii "VXB-ENT-I" ++ leBytes 5 s.serial ++ seed)) ∧ OnlyTouches [.regs, .ent] s t := by
  have wants : s.ent.wantsSeed = true := by simp [Entropy.wantsSeed, seeds, none]
  obtain ⟨k, ek⟩ : ∃ k, shake256_256 (ascii "VXB-ENT-I" ++ leBytes 5 s.serial ++ seed) = k := ⟨_, rfl⟩
  obtain ⟨e, ee⟩ : ∃ e : Entropy, { s.ent with key := some k, count := 0, reseeds := 0, seeds := rest } = e := ⟨_, rfl⟩
  have keyed : s.reseed = { s with ent := e } := by
    unfold State.reseed
    rw [seeds, none, ← ee, ← ek]
  have few : ({ s with ent := e } : State).ent.count < expanderLimit := by
    rw [show ({ s with ent := e } : State).ent.count = 0 by rw [← ee]]
    decide
  have settles := entSettle_eq (entNext_below few)
  have run : exec .expanderReseed s = .next (State.entSettle { s with ent := e }) := by
    rw [← keyed]
    exact congrArg Host.Outcome.next (if_pos ⟨live, on, wants⟩)
  rw [settles] at run
  rw [ek]
  refine ⟨_, run, ?_, ?_, ?_, ?_, (within_ent (s := s) _).touches.mono (by decide)⟩ <;> rw [← ee]

/-- A further seed is mixed into the key once the expander has answered 4,096 times. -/
theorem expanderReseed_again {s : State} {seed k : List Byte} {rest : List (List Byte)} (live : s.ent.state ≠ .fatal)
    (on : s.ent.state ≠ .off) (seeds : s.ent.seeds = seed :: rest) (key : s.ent.key = some k) (due : 4096 ≤ s.ent.count) :
    ∃ t, exec .expanderReseed s = .next t ∧ t.ent.seeds = rest ∧ t.ent.count = 0 ∧ t.ent.reseeds = s.ent.reseeds + 1 ∧
      t.ent.key = some (shake256_256 (ascii "VXB-ENT-R" ++ k ++ seed ++ leBytes 8 (s.ent.reseeds + 1))) ∧
      OnlyTouches [.regs, .ent] s t := by
  have wants : s.ent.wantsSeed = true := by simp [Entropy.wantsSeed, seeds, reseedAfter, due]
  obtain ⟨n, en⟩ : ∃ n, shake256_256 (ascii "VXB-ENT-R" ++ k ++ seed ++ leBytes 8 (s.ent.reseeds + 1)) = n := ⟨_, rfl⟩
  have keyed : ∃ u : State, OnlyTouches [.regs] s u ∧ s.reseed = { u with ent := { s.ent with
      key := some n, count := 0, reseeds := s.ent.reseeds + 1, seeds := rest } } := by
    obtain ⟨u, eu⟩ : ∃ u, (if reseedAfter < s.ent.count then (s.count Reg.entExp 63 32 1).count Reg.entStat 31 16 1
      else s.count Reg.entExp 63 32 1) = u := ⟨_, rfl⟩
    have counted : OnlyTouches [.regs] s u := by
      rw [← eu]
      exact (Within.ite ((within_count ..).after (within_count ..)) (within_count ..)).touches
    have same : (s.count Reg.entExp 63 32 1).ent = s.ent := (within_count ..).touches .ent (by decide)
    have ent : u.ent = s.ent := counted .ent (by decide)
    refine ⟨u, counted, ?_⟩
    unfold State.reseed
    rw [seeds, key]
    dsimp only
    rw [same, eu, ent, en]
  obtain ⟨u, counted, keyed⟩ := keyed
  obtain ⟨e, ee⟩ : ∃ e : Entropy, { s.ent with key := some n, count := 0, reseeds := s.ent.reseeds + 1, seeds := rest } = e :=
    ⟨_, rfl⟩
  rw [ee] at keyed
  have few : ({ u with ent := e } : State).ent.count < expanderLimit := by
    rw [show ({ u with ent := e } : State).ent.count = 0 by rw [← ee]]
    decide
  have settles := entSettle_eq (entNext_below few)
  have run : exec .expanderReseed s = .next (State.entSettle { u with ent := e }) := by
    rw [← keyed]
    exact congrArg Host.Outcome.next (if_pos ⟨live, on, wants⟩)
  rw [settles] at run
  rw [en]
  refine ⟨_, run, ?_, ?_, ?_, ?_, (counted.mono (by decide)).trans ((within_ent (s := u) _).touches.mono (by decide))⟩ <;> rw [← ee]

theorem expanderRequest_idle {s : State} (idle : s.ent.state.serves = false ∨ 4096 < s.ent.out.length + 16) :
    exec .expanderRequest s = .next s := by
  rw [show exec .expanderRequest s = execExpanderRequest s from rfl, execExpanderRequest, if_pos]
  rcases idle with off | full
  · simp [off]
  · simp [full]

/-- A request gives 16 B and a new key. -/
theorem expanderRequest_answers {s : State} {k : List Byte} (serves : s.ent.state.serves = true)
    (room : s.ent.out.length + 16 ≤ 4096) (settled : s.ent.wantsSeed = false) (key : s.ent.key = some k)
    (idle : s.hall.keying = []) (few : s.ent.count + 1 < 1048576) :
    ∃ t, exec .expanderRequest s = .next t ∧ t.ent.out = s.ent.out ++ (shake256 48 (k ++ leBytes 8 s.ent.count)).take 16 ∧
      t.ent.key = some ((shake256 48 (k ++ leBytes 8 s.ent.count)).drop 16) ∧ t.ent.count = s.ent.count + 1 ∧
      t.ent.seeds = s.ent.seeds ∧ OnlyTouches [.ent] s t := by
  obtain ⟨b, eb⟩ : ∃ b, shake256 48 (k ++ leBytes 8 s.ent.count) = b := ⟨_, rfl⟩
  obtain ⟨e, ee⟩ : ∃ e, s.ent.request k = e := ⟨_, rfl⟩
  have asked : e = { s.ent with out := s.ent.out ++ b.take 16, key := some (b.drop 16), count := s.ent.count + 1 } := by
    rw [← ee, ← eb]
    rfl
  have below : ({ s with ent := e } : State).ent.count < expanderLimit := by rw [asked]; exact few
  have settles := entSettle_eq (entNext_below below)
  have run : exec .expanderRequest s = .next (State.entSettle { s with ent := e }) := by
    rw [show exec .expanderRequest s = execExpanderRequest s from rfl, execExpanderRequest, if_neg (by simp [serves, room])]
    dsimp only
    rw [settled, if_neg (by decide), key]
    dsimp only
    rw [if_pos (show s.ent.count < expanderLimit by simp only [expanderLimit]; omega), ee, settles, State.settleKeying]
    dsimp only
    rw [idle]
  rw [settles] at run
  rw [eb]
  exact ⟨_, run, by rw [asked], by rw [asked], by rw [asked], by rw [asked], (within_ent (s := s) _).touches⟩

/-! ## The switch (R338, R351) -/

theorem mem_descs_complete {s : State} {ref : DescRef} {status detail result : Nat} {x : Desc}
    (h : x ∈ (s.complete ref status detail result).descs) : x ∈ s.descs ∧ x.ref ≠ ref := by
  unfold State.complete at h
  split at h
  next none =>
    refine ⟨h, fun own => ?_⟩
    exact absurd (beq_iff_eq.mpr own) (by simpa using List.find?_eq_none.mp none x h)
  next d _ =>
    have gone (y : Desc) (mem : y ∈ s.descs.filter (fun y => y.ref != ref)) : y ∈ s.descs ∧ y.ref ≠ ref := by
      simpa using mem
    extract_lets u at h
    split at h
    · rw [(within_count u _ 47 32 1).touches .descs (by decide)] at h
      exact gone x h
    · split at h
      · exact gone x h
      · rw [(within_owe u d ..).touches .descs (by decide)] at h
        exact gone x h

/-- Completed one after another, the descriptors of a list are gone. -/
theorem mem_descs_completeAll (l : List Desc) (status detail result : Nat) {x : Desc} : ∀ s : State,
    x ∈ (l.foldl (fun t d => t.complete d.ref status detail result) s).descs → x ∈ s.descs ∧ ∀ d ∈ l, x.ref ≠ d.ref := by
  induction l with
  | nil => exact fun s h => ⟨h, fun d mem => absurd mem List.not_mem_nil⟩
  | cons d l ih =>
    intro s h
    obtain ⟨before, others⟩ := ih _ h
    obtain ⟨first, own⟩ := mem_descs_complete before
    refine ⟨first, fun y mem => ?_⟩
    rcases List.mem_cons.mp mem with rfl | later
    · exact own
    · exact others y later

/-- The source has failed for good: its cause stands, nothing of the expander is left, and every waiting GET_ENTROPY ends. -/
theorem entFatal_spec (s : State) (cause : Nat) :
    (s.entFatal cause).ent.state = .fatal ∧ (s.entFatal cause).ent.cause = cause ∧ (s.entFatal cause).ent.key = none ∧
    (s.entFatal cause).ent.out = [] ∧ Reports [(blockSrc 6 8, 0x51, cause)] 127 s (s.entFatal cause) ∧
    (∀ x ∈ (s.entFatal cause).descs, ¬ (x.phase = .running ∧ leAt x.bytes 0 1 = 0x0A)) := by
  unfold State.entFatal
  dsimp only
  obtain ⟨u, eu⟩ : ∃ u : State, ({ s with
    ent := { s.ent with
      state := .fatal, cause := cause, sources := [], block := [], seeds := [], key := none, count := 0, reseeds := 0
      out := [], seeding := false, failedSeed := s.ent.failedSeed || !s.ent.seeded }
    hall := { s.hall with keying := [] } } : State) = u := ⟨_, rfl⟩
  have ent : u.ent.state = .fatal ∧ u.ent.cause = cause ∧ u.ent.key = none ∧ u.ent.out = [] := by
    rw [← eu]
    exact ⟨rfl, rfl, rfl, rfl⟩
  have flt : u.flt = s.flt := by rw [← eu]
  have clk : u.clk = s.clk := by rw [← eu]
  rw [eu]
  have notes := (reports_report u (blockSrc 6 8) 0x51 cause 127).after flt clk
  have said := (frame_report u (blockSrc 6 8) 0x51 cause 127).pieces .ent (by decide)
  obtain ⟨v, ev⟩ : ∃ v, u.report (blockSrc 6 8) 0x51 cause 127 = v := ⟨_, rfl⟩
  rw [ev] at notes said ⊢
  have ended : OnlyTouches [.regs, .rings, .descs] v
      (v.entropyWaiters.foldl (fun t d => t.complete d.ref stEntropyFailed 0 0) v) :=
    (Frame.foldl (fun t d => frame_complete t ..) _ v).pieces
  have gone {x : Desc} := mem_descs_completeAll v.entropyWaiters stEntropyFailed 0 0 (x := x) v
  obtain ⟨t, et⟩ : ∃ t, v.entropyWaiters.foldl (fun t d => t.complete d.ref stEntropyFailed 0 0) v = t := ⟨_, rfl⟩
  rw [et] at ended gone ⊢
  have kept : t.ent = u.ent := (ended .ent (by decide)).trans said
  obtain ⟨state, why, key, out⟩ := ent
  refine ⟨kept ▸ state, kept ▸ why, kept ▸ key, kept ▸ out, fun room x hx => ?_, fun x mem waits => ?_⟩
  · rw [show t.flt = v.flt from ended .flt (by decide)]
    exact notes room x hx
  · obtain ⟨before, apart⟩ := gone mem
    exact apart x (List.mem_filter.mpr ⟨before, by simp [waits]⟩) rfl

/-- The sources of a list as they start. -/
theorem look_started (l : List Nat) {i : Nat} : ∀ t : Table NoiseSource,
    (i ∈ l → Table.look (fun _ => ({} : NoiseSource))
      (l.foldl (fun t i => Table.put (fun _ => ({} : NoiseSource)) t i { running := true }) t) i = { running := true }) ∧
    (i ∉ l → Table.look (fun _ => ({} : NoiseSource))
      (l.foldl (fun t i => Table.put (fun _ => ({} : NoiseSource)) t i { running := true }) t) i =
        Table.look (fun _ => ({} : NoiseSource)) t i) := by
  induction l with
  | nil => exact fun t => ⟨fun h => absurd h List.not_mem_nil, fun _ => rfl⟩
  | cons j l ih =>
    intro t
    obtain ⟨own, other⟩ := ih (Table.put (fun _ => ({} : NoiseSource)) t j { running := true })
    refine ⟨fun mem => ?_, fun out => ?_⟩
    · by_cases later : i ∈ l
      · exact own later
      · obtain rfl := (List.mem_cons.mp mem).resolve_right later
        exact (other later).trans (Table.look_put_self ..)
    · obtain ⟨apart, out⟩ := not_or.mp (mt List.mem_cons.mpr out)
      exact (other out).trans (Table.look_put_other _ _ _ apart)

/-- The source's switch turned on: the sources in use start, and fewer than two are fatal. -/
theorem entOn_spec {s : State} (off : s.ent.state = .off) :
    ∃ u, (2 ≤ s.enabledSources.length → s.entOn = u) ∧ (s.enabledSources.length < 2 → s.entOn = u.entFatal 2) ∧
      u.ent.state = .startup ∧ u.rf Reg.entCtrl 0 0 = 1 ∧ u.ent.fails = s.ent.fails ∧
      (∀ i ∈ s.enabledSources, u.noise i = { running := true }) ∧ Frame [.regs, .ent] [Reg.entCtrl] s u := by
  obtain ⟨v, ev⟩ : ∃ v, s.setRf Reg.entCtrl 0 0 1 = v := ⟨_, rfl⟩
  have set : Frame [.regs] [Reg.entCtrl] s v := ev ▸ frame_setRf ..
  have value : v.rf Reg.entCtrl 0 0 = 1 := ev ▸ rf_setRf_bit s Reg.entCtrl 1 (by decide)
  have sources : v.enabledSources = s.enabledSources := enabledSources_of (set.reg (by decide))
  have ent : v.ent = s.ent := set.pieces .ent (by decide)
  obtain ⟨e, ee⟩ : ∃ e, ({ v.ent with
    state := .startup
    sources := s.enabledSources.foldl (fun t i => Table.put (fun _ => ({} : NoiseSource)) t i { running := true }) [] } :
    Entropy) = e := ⟨_, rfl⟩
  have run : s.entOn = if s.enabledSources.length < 2 then State.entFatal { v with ent := e } 2 else { v with ent := e } := by
    rw [State.entOn, if_pos off, ev]
    dsimp only
    rw [sources, ee]
  refine ⟨{ v with ent := e }, fun many => run.trans (if_neg (by omega)), fun few => run.trans (if_pos few), by rw [← ee], value, ?_,
    fun i mem => ?_, (((Frame.of_within (within_ent (s := v) e)).mono (ps := [.regs, .ent])).comp set.mono)⟩
  · rw [← ee, ← ent]
  · rw [State.noise, ← ee]
    exact (look_started s.enabledSources []).1 mem

/-! ## The lanes (R139 to R142, R349) -/

theorem slice_take (bs : List Byte) {off len n : Nat} (h : off + len ≤ n) : slice (bs.take n) off len = slice bs off len := by
  rw [slice, slice, List.drop_take, List.take_take, min_eq_left (by omega)]

theorem takeFor_seeding {s : State} (turn : s.turn .seeding = true) (serves : s.ent.state.serves = true)
    (enough : 336 ≤ s.ent.out.length) : ∃ e, s.takeFor .seeding 336 = some (s.ent.out.take 336, { s with ent := e }) ∧
      e.out = s.ent.out.drop 336 ∧ e.seedNext = s.ent.seedNext := by
  rw [State.takeFor, if_pos turn, State.takeOut]
  dsimp only
  rw [show roundUp 336 16 = 336 by decide, if_pos (by simp [serves, enough]), Option.map_some]
  exact ⟨_, rfl, rfl, rfl⟩

theorem takeFor_seeding_waits {s : State}
    (waits : s.turn .seeding = false ∨ s.ent.state.serves = false ∨ s.ent.out.length < 336) : s.takeFor .seeding 336 = none := by
  rw [State.takeFor]
  split
  next turn =>
    rw [State.takeOut]
    dsimp only
    rw [show roundUp 336 16 = 336 by decide, if_neg, Option.map_none]
    rcases waits.resolve_left (by simp [turn]) with off | short
    · simp [off]
    · simp [short]
  next => rfl

/-- Lanes written at places in a row. -/
theorem look_seeded (f : Nat → LaneGen) (l n : Nat) (t : Table LaneGen) {i : Nat} (h : i < n) :
    Table.look (fun _ => ({} : LaneGen))
      ((List.range n).foldl (fun t i => Table.put (fun _ => ({} : LaneGen)) t (l + i) (f i)) t) (l + i) = f i := by
  induction n with
  | zero => omega
  | succ n ih =>
    rw [List.range_succ, List.foldl_append, List.foldl_cons, List.foldl_nil]
    by_cases last : i = n
    · rw [last]
      exact Table.look_put_self ..
    · rw [Table.look_put_other _ _ _ (by omega)]
      exact ih (by omega)

/-- A seeding in its turn takes 336 B for four lanes. -/
theorem laneSeeding_takes {s : State} (asked : s.ent.seeding = true) (turn : s.turn .seeding = true)
    (serves : s.ent.state.serves = true) (enough : 336 ≤ s.ent.out.length) :
    ∃ t, exec .laneSeeding s = .next t ∧ t.ent.out = s.ent.out.drop 336 ∧ t.ent.seedNext = s.ent.seedNext + 4 ∧
      (∀ i, i < 4 → Table.look (fun _ => ({} : LaneGen)) t.lanes (s.ent.seedNext + i) =
        laneRecord (slice s.ent.out (84 * i) 84)) ∧
      t.ent.seeded = decide (laneCount ≤ s.ent.seedNext + 4) ∧ t.ent.seeding = !t.ent.seeded ∧
      OnlyTouches [.lanes, .ent] s t := by
  obtain ⟨e, took, out, next_⟩ := takeFor_seeding turn serves enough
  have run : exec .laneSeeding s = execLaneSeeding s := rfl
  rw [execLaneSeeding, if_pos asked, took] at run
  dsimp only at run
  rw [next_] at run
  refine ⟨_, run, out, rfl, fun i small => ?_, rfl, rfl, fun p hp => ?_⟩
  · rw [← slice_take s.ent.out (show 84 * i + 84 ≤ 336 by omega)]
    exact look_seeded (fun i => laneRecord (slice (s.ent.out.take 336) (84 * i) 84)) s.ent.seedNext 4 s.lanes small
  · cases p <;> simp_all [Piece.same]

theorem laneSeeding_waits {s : State}
    (waits : s.ent.seeding = false ∨ s.turn .seeding = false ∨ s.ent.state.serves = false ∨ s.ent.out.length < 336) :
    exec .laneSeeding s = .next s := by
  rw [show exec .laneSeeding s = execLaneSeeding s from rfl, execLaneSeeding]
  split
  next asked => rw [takeFor_seeding_waits (waits.resolve_left (by simp [asked]))]
  next => rfl

/-- An output of the lane generators of a half: each of its lanes steps, and the others stay. -/
theorem laneGeneratorOutput_spec (h : Half) (s : State) : ∃ t, exec (.laneGeneratorOutput h) s = .next t ∧
    t.lanes.map Prod.fst = s.lanes.map Prod.fst ∧
    (∀ e ∈ s.lanes, halfOfCore (e.1 / 64) = h → (e.1, e.2.step (laneInc s.serial e.1)) ∈ t.lanes) ∧
    (∀ e ∈ s.lanes, halfOfCore (e.1 / 64) ≠ h → e ∈ t.lanes) ∧ OnlyTouches [.lanes] s t := by
  refine ⟨_, rfl, ?_, fun e mem own => ?_, fun e mem other => ?_, fun p hp => ?_⟩
  · rw [List.map_map]
    refine List.map_congr_left fun e _ => ?_
    rw [Function.comp_apply]
    split
    · rfl
    · rfl
  · exact List.mem_map.mpr ⟨e, mem, if_pos own⟩
  · exact List.mem_map.mpr ⟨e, mem, if_neg other⟩
  · cases p <;> simp_all [Piece.same]

/-- Settles O47: the samples, the expander's reseeds and requests, the switch, and the seeding and output of the lanes. -/
theorem entropySourceRuns : Obligations.EntropySourceRuns := by
  intro s
  refine ⟨fun bits => ⟨fun idle => if_pos idle, fun on live => ⟨noiseSample_passes on live, fun i f => noiseSample_fails⟩⟩,
    fun idle => congrArg Host.Outcome.next (if_neg fun h => ?_),
    fun seed rest live on seeds => ⟨expanderReseed_first live on seeds, fun k => expanderReseed_again live on seeds⟩,
    expanderRequest_idle, fun k => expanderRequest_answers, fun off => ⟨fun many => ?_, fun few => ?_⟩,
    fun on => congrArg Host.Outcome.next (if_neg on), fun fatal => congrArg Host.Outcome.next (if_pos fatal), fun live => ?_,
    fun who other => ⟨congrArg Host.Outcome.next (if_neg other), congrArg Host.Outcome.next (if_neg other)⟩, laneSeeding_takes,
    laneSeeding_waits, fun h => laneGeneratorOutput_spec h s⟩
  · obtain ⟨live, on, wants⟩ := h
    rcases idle with fatal | off | settled
    · exact live fatal
    · exact on off
    · exact absurd (wants.symm.trans settled) (by decide)
  · obtain ⟨u, starts, -, state, ctrl, fails, sources, frame⟩ := entOn_spec off
    exact ⟨u, congrArg Host.Outcome.next (starts many), state, ctrl, fails, sources, frame.regs, frame.pieces⟩
  · obtain ⟨u, -, ends, -, -, -, -, frame⟩ := entOn_spec off
    obtain ⟨state, cause, key, out, notes, waiters⟩ := entFatal_spec u 2
    exact ⟨u.entFatal 2, congrArg Host.Outcome.next (ends few), state, cause, key, out,
      notes.after (frame.pieces .flt (by decide)) (frame.pieces .clk (by decide)), waiters,
      (frame.pieces.mono (by decide)).trans ((within_entFatal u 2).touches.mono (by decide))⟩
  · have set := frame_setRf s Reg.entCtrl 0 0 0
    have run : s.entOff = { s.setRf Reg.entCtrl 0 0 0 with ent := {
      seeded := s.ent.seeded, seedNext := s.ent.seedNext, failedSeed := s.ent.failedSeed, fails := s.ent.fails } } :=
      if_neg live
    exact ⟨_, congrArg Host.Outcome.next run, rf_setRf_bit s Reg.entCtrl 0 (by decide), rfl, set.regs,
      (set.pieces.mono (by decide)).trans ((within_ent (s := s.setRf Reg.entCtrl 0 0 0) _).touches.mono (by decide))⟩

end Sys2Proof.Machine
end

section
/-! PROOFS. Module resets and the Gatehouse. -/

namespace Sys2Proof.Machine

open Sys2Proof

-- One theorem after another: many at once would need too many threads.
set_option Elab.async false

/-! ## A command of the Gatehouse ends (R391, R399) -/

theorem dropUnknown_served {s : State} (served : ∀ y, s.mgt.queue.head? = some y → s.serves y.opcode = true) (n : Nat) :
    s.dropUnknown n = s := by
  cases n with
  | zero => rfl
  | succ n =>
    unfold State.dropUnknown
    split
    next c cs queue => exact if_pos (served c (by rw [queue]; rfl))
    next => rfl

/-- Serving the command at the head: it leaves the queue, and its effect follows. -/
theorem AtHead.serve {s : State} {op : Nat} {c : MgtCmd} {cs : List MgtCmd} (h : AtHead s op c cs) (f : MgtCmd → State → State) :
    s.serve op f = (f c s.popCmd).dropUnknown (f c s.popCmd).mgt.queue.length := by
  obtain ⟨queue, opcode, served, ok, awake, started, running, free, allowed, -⟩ := h
  have runs : ¬ (c.opcode ≠ op ∨ !s.serves op ∨ (s.boot.inReset ∧ !s.boot.bootRom) ∨ s.pwr.state = .s3 ∨ s.mgt.halted ∨
      s.writeWaits op) := by
    simp only [opcode, served, running, free, awake, ne_eq, not_true_eq_false, Bool.not_true, Bool.false_eq_true, false_or, or_false]
    rcases started with on | rom
    · simp [on]
    · simp [rom]
  have permitted : ¬ (c.src = .ethernet ∧ op ∈ [1, 5, 6, 8, 11] ∧ !(leAt ((s.storeEntry 7).getD []) 0 1).testBit 1) :=
    fun ⟨eth, mem, off⟩ => by simp [allowed eth mem] at off
  unfold State.serve
  rw [queue]
  refine (if_neg runs).trans ?_
  dsimp only
  rw [if_neg (by simp [ok]), if_neg permitted]

theorem AtHead.popped {s : State} {op : Nat} {c : MgtCmd} {cs : List MgtCmd} (h : AtHead s op c cs) :
    s.popCmd = { s with mgt := { s.mgt with queue := cs } } := by
  rw [State.popCmd, h.queue]
  rfl

/-- A command that leaves those behind it in the queue ends there: the next is one that the Gatehouse serves. -/
theorem AtHead.serve_ends {s t : State} {op : Nat} {c : MgtCmd} {cs : List MgtCmd} (h : AtHead s op c cs)
    {f : MgtCmd → State → State} (runs : f c s.popCmd = t) (queue : t.mgt.queue = cs) (boot : t.boot.bootRom = s.boot.bootRom) :
    s.serve op f = t := by
  rw [h.serve f, runs]
  refine dropUnknown_served (fun y head => ?_) _
  rw [queue] at head
  have served := h.behind y head
  rwa [State.serves, boot]

theorem box_ethernet {src : MgtSource} {p : Port} (h : src.box = some p) : src ≠ .ethernet := fun eth => by simp [eth, MgtSource.box] at h

theorem frame_interrupt (s : State) (p : Port) (v : Nat) : Frame [.msix] [] s (s.interrupt p v) :=
  .of_within (within_interrupt ..)

theorem interrupt_eq (s : State) (p : Port) (v : Nat) : ∃ m h, s.interrupt p v = { s with msix := m, msixHeld := h } := by
  unfold State.interrupt
  split
  · exact ⟨_, _, rfl⟩
  · split
    · split
      · exact ⟨_, _, rfl⟩
      · exact ⟨_, _, rfl⟩
    · exact ⟨_, _, rfl⟩

/-- A command of a mailbox ends in that mailbox's status. -/
theorem endCmd_mailbox {s : State} {c : MgtCmd} {p : Port} (box : c.src.box = some p) (status result : Nat) (data : List Byte)
    (small : status < 256) :
    EndsAs c s.mgt.queue status result data s (s.endCmd c status result data) ∧ (s.endCmd c status result data).mgt = s.mgt ∧
      Frame [.regs, .msix] mailRegs s (s.endCmd c status result data) := by
  obtain ⟨a, ea⟩ : ∃ a, s.setRf (Reg.mgtStatus p.num) 0 0 0 = a := ⟨_, rfl⟩
  have fa : Frame [.regs] [Reg.mgtStatus p.num] s a := ea ▸ frame_setRf ..
  have busy : a.rf (Reg.mgtStatus p.num) 0 0 = 0 := ea ▸ rf_setRf_bit s _ 0 (by decide)
  obtain ⟨b, eb⟩ : ∃ b, a.setRf (Reg.mgtStatus p.num) 15 8 status = b := ⟨_, rfl⟩
  have fb : Frame [.regs] [Reg.mgtStatus p.num] a b := eb ▸ frame_setRf ..
  have busy' : b.rf (Reg.mgtStatus p.num) 0 0 = 0 := by
    rw [← eb, rf_setRf_apart _ _ _ (by decide) (by decide) (.inr (by decide)), busy]
  have shown : b.rf (Reg.mgtStatus p.num) 15 8 = status := by
    rw [← eb, rf_setRf_self _ _ _ (by decide) (by decide)]
    exact Nat.mod_eq_of_lt small
  obtain ⟨d, ed⟩ : ∃ d, b.setRf (Reg.mgtStatus p.num) 63 32 result = d := ⟨_, rfl⟩
  have fd : Frame [.regs] [Reg.mgtStatus p.num] b d := ed ▸ frame_setRf ..
  have busy'' : d.rf (Reg.mgtStatus p.num) 0 0 = 0 := by
    rw [← ed, rf_setRf_apart _ _ _ (by decide) (by decide) (.inr (by decide)), busy']
  have shown' : d.rf (Reg.mgtStatus p.num) 15 8 = status := by
    rw [← ed, rf_setRf_apart _ _ _ (by decide) (by decide) (.inr (by decide)), shown]
  have result' : d.rf (Reg.mgtStatus p.num) 63 32 = result % 2 ^ 32 := ed ▸ rf_setRf_self b _ result (by decide) (by decide)
  have set : Frame [.regs] mailRegs s d := by
    have all := fd.comp (fb.comp fa)
    exact all.mono (own := by cases p <;> simp [mailRegs, Port.num])
  have table : d.msixTable = s.msixTable := set.pieces .msixTable (by decide)
  have msix : d.msix = s.msix := (set.pieces .msix (by decide)).1
  have mgt : d.mgt = s.mgt := set.pieces .mgt (by decide)
  have ran : s.endCmd c status result data = if c.irq then d.interrupt p c.vector else d := by
    rw [State.endCmd, box]
    dsimp only
    rw [ea, eb, ed]
  have up : d.rf (Reg.hstPortstat p.num) 0 0 = s.rf (Reg.hstPortstat p.num) 0 0 := set.rf (by cases p <;> decide) _ _
  rw [ran]
  have ends {t : State} (same : Frame [.msix] [] d t) (off : c.irq = false → t = d) (on : c.irq = true → t = d.interrupt p c.vector) :
      EndsAs c s.mgt.queue status result data s t ∧ t.mgt = s.mgt ∧ Frame [.regs, .msix] mailRegs s t := by
    have kept : t.mgt = s.mgt := (same.pieces .mgt (by decide)).trans mgt
    refine ⟨⟨by rw [kept], fun q own => ?_, fun eth => absurd eth (box_ethernet box)⟩, kept, ?_⟩
    · obtain rfl := Option.some.inj (box.symm.trans own)
      refine ⟨(same.rf (by simp) _ _).trans busy'', (same.rf (by simp) _ _).trans shown', (same.rf (by simp) _ _).trans result',
        fun quiet => ?_, fun asked linked unmasked => ?_⟩
      · rw [off quiet, msix]
      · rw [on asked, msix_interrupt (up.trans linked) (by rwa [State.vectorMasked, table]), msix]
    · exact (same.mono (ps := [.regs, .msix]) (rs := mailRegs)).comp set.mono
  by_cases asked : c.irq = true
  · rw [if_pos asked]
    exact ends (frame_interrupt ..) (fun off => absurd (asked.symm.trans off) (by decide)) (fun _ => rfl)
  · rw [if_neg asked]
    exact ends (.refl ..) (fun _ => rfl) (fun on => absurd on asked)

/-- A command of the management network ends in its answer, and touches nothing else. -/
theorem endCmd_network {s : State} {c : MgtCmd} (box : c.src.box = none) (status result : Nat) (data : List Byte) :
    ∃ out, s.endCmd c status result data = { s with mgt := { s.mgt with ethOut := out } } ∧
      (c.src = .ethernet → out = s.mgt.ethOut ++ ethReply c status data) := by
  rw [State.endCmd, box]
  dsimp only
  by_cases eth : c.src = .ethernet
  · exact ⟨_, if_pos eth, fun _ => rfl⟩
  · exact ⟨s.mgt.ethOut, if_neg eth, fun h => absurd h eth⟩

/-- A command ends: its answer stands where its source looks for it, and of the Gatehouse only the answers sent differ. -/
theorem endCmd_spec (s : State) (c : MgtCmd) (status result : Nat) (data : List Byte) (small : status < 256) :
    EndsAs c s.mgt.queue status result data s (s.endCmd c status result data) ∧
      (∃ out, (s.endCmd c status result data).mgt = { s.mgt with ethOut := out }) ∧
      Frame [.regs, .mgt, .msix] mailRegs s (s.endCmd c status result data) := by
  cases box : c.src.box with
  | some p =>
    obtain ⟨ends, mgt, frame⟩ := endCmd_mailbox (s := s) box status result data small
    exact ⟨ends, ⟨s.mgt.ethOut, mgt⟩, frame.mono⟩
  | none =>
    obtain ⟨out, ran, eth⟩ := endCmd_network (s := s) box status result data
    rw [ran]
    exact ⟨⟨rfl, fun p own => absurd (box.symm.trans own) (by simp), eth⟩, ⟨out, rfl⟩,
      (Frame.of_within (within_mgt (s := s) _)).mono⟩

/-- The answer seen from a state before: what the ports and the answers sent hold is the same in both. -/
theorem EndsAs.before {s u t : State} {c : MgtCmd} {cs : List MgtCmd} {status result : Nat} {data : List Byte}
    (h : EndsAs c cs status result data u t) (ports : ∀ p : Port, u.reg (Reg.hstPortstat p.num) = s.reg (Reg.hstPortstat p.num))
    (msix : u.msix = s.msix) (table : u.msixTable = s.msixTable) (eth : u.mgt.ethOut = s.mgt.ethOut) :
    EndsAs c cs status result data s t := by
  obtain ⟨queue, mailbox, answer⟩ := h
  refine ⟨queue, fun p own => ?_, fun net => (answer net).trans (by rw [eth])⟩
  obtain ⟨busy, shown, result', quiet, sent⟩ := mailbox p own
  refine ⟨busy, shown, result', fun off => (quiet off).trans msix, fun on up unmasked => ?_⟩
  rw [← msix]
  exact sent on ((rf_of_reg (ports p) 0 0).trans up) (by rwa [State.vectorMasked, table])

theorem portstat_not_mem {rs : List Nat} (h : Reg.hstPortstat 0 ∉ rs ∧ Reg.hstPortstat 1 ∉ rs) (p : Port) :
    Reg.hstPortstat p.num ∉ rs := by
  cases p
  · exact h.1
  · exact h.2

/-- A command ends after work that leaves the ports' registers and the Gatehouse alone. -/
theorem endCmd_after {s u : State} {ps : List Piece} {rs : List Nat} (work : Frame ps rs s u) (c : MgtCmd)
    (status result : Nat) (data : List Byte) (small : status < 256 := by decide)
    (apart : Reg.hstPortstat 0 ∉ rs ∧ Reg.hstPortstat 1 ∉ rs := by decide)
    (pieces : .msix ∉ ps ∧ .msixTable ∉ ps := by decide) (eth : u.mgt.ethOut = s.mgt.ethOut) :
    EndsAs c u.mgt.queue status result data s (u.endCmd c status result data) ∧
      Frame [.regs, .mgt, .msix] mailRegs u (u.endCmd c status result data) := by
  obtain ⟨ends, -, frame⟩ := endCmd_spec u c status result data small
  exact ⟨ends.before (fun p => work.reg (portstat_not_mem apart p)) (work.pieces .msix pieces.1).1 (work.pieces .msixTable pieces.2)
    eth, frame⟩

/-- A command that only ends. -/
theorem AtHead.ends {s : State} {op : Nat} {c : MgtCmd} {cs : List MgtCmd} (h : AtHead s op c cs) {f : MgtCmd → State → State}
    {status result : Nat} {data : List Byte} (runs : f c s.popCmd = s.popCmd.endCmd c status result data)
    (small : status < 256 := by decide) :
    EndsAs c cs status result data s (s.serve op f) ∧ Frame [.regs, .mgt, .msix] mailRegs s (s.serve op f) ∧
      ∃ out, (s.serve op f).mgt = { s.mgt with queue := cs, ethOut := out } := by
  obtain ⟨ends, ⟨out, mgt⟩, frame⟩ := endCmd_spec s.popCmd c status result data small
  have popped := h.popped
  have pop : Frame [.mgt] [] s s.popCmd := .of_within (within_popCmd s)
  have queue : s.popCmd.mgt.queue = cs := by rw [popped]
  rw [queue] at ends
  have boot : (s.popCmd.endCmd c status result data).boot = s.boot :=
    (frame.pieces .boot (by decide)).trans (pop.pieces .boot (by decide))
  rw [h.serve_ends runs (by rw [mgt]; exact queue) (by rw [boot])]
  exact ⟨ends.before (fun p => pop.reg (by simp)) (pop.pieces .msix (by decide)).1 (pop.pieces .msixTable (by decide))
    (by rw [popped]), frame.comp pop.mono, out, by rw [mgt, popped]⟩

/-- A command of the management network that only ends touches the Gatehouse alone. -/
theorem AtHead.ends_network {s : State} {op : Nat} {c : MgtCmd} {cs : List MgtCmd} (h : AtHead s op c cs)
    {f : MgtCmd → State → State} {status result : Nat} {data : List Byte}
    (runs : f c s.popCmd = s.popCmd.endCmd c status result data) (box : c.src.box = none) :
    EndsAs c cs status result data s (s.serve op f) ∧ OnlyTouches [.mgt] s (s.serve op f) := by
  obtain ⟨out, ran, eth⟩ := endCmd_network (s := s.popCmd) box status result data
  have pop : OnlyTouches [.mgt] s s.popCmd := (within_popCmd s).touches
  have ethOut : s.popCmd.mgt.ethOut = s.mgt.ethOut := by rw [h.popped]
  have queue : s.popCmd.mgt.queue = cs := by rw [h.popped]
  rw [h.serve_ends (runs.trans ran) queue (by rw [show _ = s.popCmd.boot from rfl, pop .boot (by decide)])]
  exact ⟨⟨queue, fun p own => absurd (box.symm.trans own) (by simp), fun net => (eth net).trans (by rw [ethOut])⟩,
    pop.trans (within_mgt (s := s.popCmd) _).touches⟩

/-! ## What a module reset leaves (R324, R327, R437) -/

theorem Table.look_filter {α : Type} (d : Nat → α) (p : Nat → Bool) (m : Table α) (k : Nat) :
    Table.look d (m.filter (fun e => p e.1)) k = if p k then Table.look d m k else d k := by
  induction m with
  | nil => exact (ite_self _).symm
  | cons e m ih =>
    obtain ⟨a, v⟩ := e
    by_cases own : a = k
    · by_cases kept : p k = true
      · simp [List.filter_cons, own, kept, Table.look]
      · rw [if_neg kept] at ih
        simp [List.filter_cons, own, kept, ih]
    · by_cases kept : p a = true
      · simp [List.filter_cons, own, kept, Table.look, ih]
      · simp [List.filter_cons, own, kept, Table.look, ih]

/-- A flash write in progress ends with its page. -/
theorem stopWrite_spec (s : State) : OnlyTouches [.flash, .mgt] s s.stopWrite ∧ s.stopWrite.mgt.logSeq = s.mgt.logSeq ∧
    (s.mgt.job = none → s.stopWrite.flash = s.flash) ∧
    (∀ j, s.mgt.job = some j → s.stopWrite.flash = (s.programPage j).flash) := by
  refine ⟨(within_stopWrite s).touches, ?_⟩
  unfold State.stopWrite
  split
  next j job => exact ⟨rfl, fun none => absurd (job.symm.trans none) (by simp), fun x some_ => by
    rw [Option.some.inj (some_.symm.trans job)]⟩
  next none => exact ⟨rfl, fun _ => rfl, fun x some_ => absurd (some_.symm.trans none) (by simp)⟩

/-- A module reset after work on registers, messages and the flash write in progress. -/
theorem underReset_leaves {s u : State} (keep full : Bool) {last : U64}
    (same : OnlyTouches [.regs, .flt, .flash, .mgt, .msix] s u) (logSeq : u.mgt.logSeq = s.mgt.logSeq)
    (flash : u.stopWrite.flash = s.stopWrite.flash) (held : u.reg Reg.fltLastreset = last) :
    ResetLeaves keep last s (u.underReset keep full) := by
  obtain ⟨stop, logSeq', -, -⟩ := stopWrite_spec u
  obtain ⟨-, -, none, some_⟩ := stopWrite_spec s
  have mem : u.stopWrite.mem = s.mem := (stop .mem (by decide)).trans (same .mem (by decide))
  have dramErr : u.stopWrite.dramErr = s.dramErr := (stop .dramErr (by decide)).trans (same .dramErr (by decide))
  have regs (o : Nat) : u.stopWrite.reg o = u.reg o := State.reg_of_regs (stop .regs (by decide)).1 o
  have hall : u.stopWrite.hall = s.hall := (stop .hall (by decide)).trans (same .hall (by decide))
  have byte (a : Nat) : Table.look zeroByte (if keep then u.stopWrite.mem.filter (fun e => decide (e.1 < dramBytes)) else []) a =
      if keep && decide (a < dramBytes) then s.byteAt a else 0 := by
    cases keep with
    | false => rfl
    | true =>
      rw [if_pos rfl, Table.look_filter zeroByte (fun k => decide (k < dramBytes)), mem]
      exact if_congr (by simp) rfl rfl
  constructor
  case boot => exact ⟨rfl, rfl, rfl, rfl⟩
  case regs =>
    intro o
    have kept := Table.look_filter regReset (fun k => k == Reg.fltLastreset) u.stopWrite.regs o
    by_cases own : o = Reg.fltLastreset
    · rw [if_pos (by simp [own])] at kept
      rw [if_pos own, ← held, ← own, ← regs o]
      exact kept
    · rw [if_neg (by simp [own])] at kept
      rw [if_neg own]
      exact kept
  case array => exact ⟨rfl, rfl, rfl, rfl, rfl, rfl, rfl⟩
  case units => exact ⟨rfl, rfl, rfl, rfl, rfl, by rw [← hall]; rfl⟩
  case queues => exact ⟨rfl, rfl, rfl, rfl⟩
  case kept =>
    intro good
    refine ⟨fun a low => (byte a).trans (if_pos (by simp [good, low])), ?_⟩
    rw [← dramErr]
    exact if_pos good
  case lost =>
    intro bad
    exact ⟨if_neg (by simp [bad]), if_neg (by simp [bad])⟩
  case sram => exact fun a high => (byte a).trans (if_neg (by simp; omega))
  case flash => exact ⟨fun h => flash.trans (none h), fun j h => flash.trans (some_ j h)⟩
  case outside => exact ⟨(stop .fuse (by decide)).trans (same .fuse (by decide)),
    (stop .hostA (by decide)).trans (same .hostA (by decide)), (stop .hostB (by decide)).trans (same .hostB (by decide)),
    logSeq'.trans logSeq, (show u.stopWrite.clk.wall = s.clk.wall by rw [stop .clk (by decide), same .clk (by decide)]),
    (stop .pending (by decide)).trans (same .pending (by decide))⟩

/-- A module reset keeps LPDDR6 unless a supply fell before it during the reset. -/
theorem moduleReset_leaves {s u : State} (full : Bool) {last : U64} (same : OnlyTouches [.regs, .flt, .flash, .mgt, .msix] s u)
    (logSeq : u.mgt.logSeq = s.mgt.logSeq) (flash : u.stopWrite.flash = s.stopWrite.flash)
    (held : u.reg Reg.fltLastreset = last) :
    ResetLeaves (!s.boot.inReset || s.boot.memKept) last s (u.moduleReset full) ∧
      (u.moduleReset full).boot.cold = (full || (s.boot.inReset && (s.boot.cold || !s.boot.memKept))) := by
  have boot : u.boot = s.boot := same .boot (by decide)
  rw [State.moduleReset, boot]
  refine ⟨underReset_leaves _ _ same logSeq flash held, ?_⟩
  change (!(!s.boot.inReset || s.boot.memKept) || (full || s.boot.inReset && s.boot.cold)) = _
  cases full <;> cases s.boot.inReset <;> cases s.boot.cold <;> cases s.boot.memKept <;> rfl

/-! ## MODULE_RESET (R324, R391) -/

/-- A flash write cut by a module reset: its page is programmed, and its command ends REFUSED. -/
theorem cutWrite_spec (s : State) : Frame [.regs, .flash, .mgt, .msix] (Reg.cfgStatus :: mailRegs) s s.cutWrite ∧
    s.cutWrite.mgt.job = none ∧ (∃ out, s.cutWrite.mgt = { s.mgt with job := none, ethOut := out }) ∧
    s.cutWrite.flash = s.stopWrite.flash ∧
    (s.mgt.job = none → s.cutWrite = s) ∧
    (∀ j, s.mgt.job = some j → s.cutWrite.rf Reg.cfgStatus 6 6 = 1 ∧ s.cutWrite.rf Reg.cfgStatus 5 4 = 0 ∧
      ∀ c, j.cmd = some c → EndsAs c s.mgt.queue stRefused 0 [] s s.cutWrite) := by
  obtain ⟨-, -, flashNone, flashSome⟩ := stopWrite_spec s
  unfold State.cutWrite
  split
  next j job =>
    obtain ⟨u, eu⟩ : ∃ u, ((s.programPage j).raise Reg.cfgStatus 6 6 1) = u := ⟨_, rfl⟩
    have raised : Frame [.regs, .flash] [Reg.cfgStatus] s u := by
      rw [← eu]
      exact ((frame_raise ..).mono (ps := [.regs, .flash])).comp ((Frame.of_within (within_programPage s j)).mono)
    have flash : u.flash = (s.programPage j).flash := by rw [← eu]; rfl
    have bit : u.rf Reg.cfgStatus 6 6 = 1 := eu ▸ rf_raise_bit _ _ 1 (by decide)
    rw [eu]
    have set := frame_setRf u Reg.cfgStatus 5 4 0
    have cleared := rf_setRf_self u Reg.cfgStatus (hi := 5) (lo := 4) 0 (by decide) (by decide)
    have kept := rf_setRf_apart u Reg.cfgStatus (hi := 5) (lo := 4) (h2 := 6) (l2 := 6) 0 (by decide) (by decide) (.inl (by decide))
    obtain ⟨w, ew⟩ : ∃ w, u.setRf Reg.cfgStatus 5 4 0 = w := ⟨_, rfl⟩
    rw [ew] at set cleared kept
    obtain ⟨v, ev⟩ : ∃ v : State, ({ w with mgt := { u.mgt with job := none } } : State) = v := ⟨_, rfl⟩
    have mgt : v.mgt = { s.mgt with job := none } := by rw [← ev, ← show u.mgt = s.mgt from raised.pieces .mgt (by decide)]
    have regs (o : Nat) : v.reg o = w.reg o := by rw [← ev]; rfl
    have freed : OnlyTouches [.mgt] w v := ev ▸ (within_mgt (s := w) _).touches
    have busy : v.rf Reg.cfgStatus 5 4 = 0 := (rf_of_reg (regs _) 5 4).trans cleared
    have shown : v.rf Reg.cfgStatus 6 6 = 1 := (rf_of_reg (regs _) 6 6).trans (kept.trans bit)
    have work : Frame [.regs, .flash, .mgt] [Reg.cfgStatus] s v :=
      ((Frame.of_touches freed).mono (ps := [.regs, .flash, .mgt]) (rs := [Reg.cfgStatus])).comp (set.mono.comp raised.mono)
    have ran : u.endWrite j stRefused = match j.cmd with | some c => v.endCmd c stRefused 0 [] | none => v := by
      rw [State.endWrite]
      dsimp only
      rw [ew, ev] <;> rfl
    have flash' : v.flash = s.stopWrite.flash := by
      rw [flashSome j job, ← flash, ← show w.flash = u.flash from set.pieces .flash (by decide)]
      exact freed .flash (by decide)
    rw [ran]
    cases cmd : j.cmd with
    | none =>
      refine ⟨work.mono (own := by simp), by rw [mgt], ⟨s.mgt.ethOut, mgt⟩, flash',
        fun none => absurd (job.symm.trans none) (by simp), fun x some_ => ?_⟩
      obtain rfl := Option.some.inj (job.symm.trans some_)
      exact ⟨shown, busy, fun c own => absurd (cmd.symm.trans own) (by simp)⟩
    | some c =>
      dsimp only
      obtain ⟨ends, frame⟩ := endCmd_after work c stRefused 0 [] (eth := by rw [mgt])
      obtain ⟨-, ⟨out, mgt'⟩, -⟩ := endCmd_spec v c stRefused 0 [] (by decide)
      obtain ⟨t, et⟩ : ∃ t, v.endCmd c stRefused 0 [] = t := ⟨_, rfl⟩
      rw [et] at ends frame mgt' ⊢
      refine ⟨(frame.mono (ps := [.regs, .flash, .mgt, .msix]) (rs := Reg.cfgStatus :: mailRegs)).comp (work.mono (own := by simp)),
        by rw [mgt', mgt], ⟨out, by rw [mgt', mgt]⟩, (frame.pieces .flash (by decide)).trans flash',
        fun none => absurd (job.symm.trans none) (by simp), fun x some_ => ?_⟩
      obtain rfl := Option.some.inj (job.symm.trans some_)
      refine ⟨by rw [frame.rf (by decide), shown], by rw [frame.rf (by decide), busy], fun y own => ?_⟩
      obtain rfl := Option.some.inj (cmd.symm.trans own)
      rw [mgt] at ends
      exact ends
  next none =>
    exact ⟨.refl .., none, ⟨s.mgt.ethOut, by rw [← none]⟩, (flashNone none).symm, fun _ => rfl,
      fun j some_ => absurd (none.symm.trans some_) (by simp)⟩

/-- A fatal message of a unit that is no core: it takes no action but interrupts and a log entry, and stays in FLT_LASTRESET. -/
theorem fatalMsg_unit (s : State) {src : Nat} (unit : 12288 ≤ src) (small : src < 65536) (kind addr : Nat) :
    OnlyTouches [.regs, .flt, .msix] s (s.fatalMsg src kind addr) ∧
      (s.fatalMsg src kind addr).reg Reg.fltLastreset = faultMsg src kind addr := by
  refine ⟨?_, State.reg_setReg_self ..⟩
  have source : fld (faultMsg src kind addr) 63 48 = src := by
    unfold faultMsg fld bitsN
    rw [BitVec.toNat_ofNat]
    omega
  have stays (t : State) (act : Nat) : t.partActions act (fld (faultMsg src kind addr) 63 48) 127 = t := by
    rw [source]
    unfold State.partActions
    simp [Nat.not_lt.mpr unit]
  have accepted : OnlyTouches [.regs, .flt, .msix] s (s.acceptMsg ⟨faultMsg src kind addr, 127, s.mc⟩) := by
    unfold State.acceptMsg
    dsimp only
    rw [stays]
    have told (ports : List Port) (a : Option (Nat × FaultMsg × U64)) (m : FaultMsg) (time : U64) (cls : Nat) :
        Within [.regs, .flt, .msix] s (ports.foldl State.faultIrq
          ((State.latch { s with flt := { s.flt with accepted := a } } m time).countClass cls)) :=
      .foldl (fun _ _ => (within_faultIrq ..).mono) _ ((within_countClass ..).after ((within_latch ..).after
        ((within_flt ..).mono)))
    split
    · exact ((within_enterLog ..).after (told ..)).touches
    · exact (told ..).touches
  exact accepted.trans ((touches_setReg _ _ _).mono (by decide))

/-- Settles O48: the three resets of the module, and the fall of a supply, which keeps neither LPDDR6 nor FLT_LASTRESET. -/
theorem moduleResetKeeps : Obligations.ModuleResetKeeps := by
  intro s
  refine ⟨?jtag, fun c cs head => ?command, fun pc => ⟨fun waits => ?waits, fun runs awake due => ?watchdog⟩, ?fall⟩
  case jtag =>
    obtain ⟨leaves, cold⟩ := moduleReset_leaves (s := s) false (.refl _ _) rfl rfl rfl
    exact ⟨s.moduleReset false, rfl, leaves, cold.trans (Bool.false_or _)⟩
  case command =>
    have pop : OnlyTouches [.mgt] s s.popCmd := (within_popCmd s).touches
    obtain ⟨frame, job, ⟨out, mgt⟩, flash, -, -⟩ := cutWrite_spec s.popCmd
    have cut : OnlyTouches [.regs, .flt, .flash, .mgt, .msix] s s.popCmd.cutWrite :=
      (pop.mono (by decide)).trans (frame.pieces.mono (by decide))
    have ended : s.popCmd.cutWrite.stopWrite.flash = s.stopWrite.flash := by
      rw [(stopWrite_spec _).2.2.1 job, flash, head.popped]
      rw [State.stopWrite, State.stopWrite]
      cases s.mgt.job with
      | none => rfl
      | some j => rfl
    have held : s.popCmd.cutWrite.reg Reg.fltLastreset = s.reg Reg.fltLastreset :=
      (frame.reg (by decide)).trans (State.reg_of_regs (pop .regs (by decide)).1 _)
    obtain ⟨leaves, cold⟩ := moduleReset_leaves (s := s) ((c.arg 0).testBit 0) cut (by rw [mgt, head.popped]) ended held
    refine ⟨_, congrArg Host.Outcome.next (head.serve _), leaves, cold⟩
  case waits =>
    rw [show exec (.ghsWatchdog pc) s = execGhsWatchdog pc s from rfl, execGhsWatchdog]
    by_cases off : (s.boot.inReset ∧ !s.boot.bootRom) ∨ s.pwr.state = .s3
    · exact if_pos off
    · rw [if_neg off]
      refine if_neg fun due => ?_
      rcases waits with ⟨reset, rom⟩ | asleep | early
      · exact off (.inl ⟨reset, by simp [rom]⟩)
      · exact off (.inr asleep)
      · omega
  case watchdog =>
    obtain ⟨told, held⟩ := fatalMsg_unit s (src := blockSrc 9 0) (by decide) (by decide) 0xB0 pc.toNat
    have on : ¬ ((s.boot.inReset ∧ !s.boot.bootRom) ∨ s.pwr.state = .s3) := by
      rintro (⟨reset, rom⟩ | asleep)
      · rcases runs with off | on
        · simp [off] at reset
        · simp [on] at rom
      · exact awake asleep
    have run : exec (.ghsWatchdog pc) s = .next ((s.fatalMsg (blockSrc 9 0) 0xB0 pc.toNat).moduleReset false) := by
      rw [show exec (.ghsWatchdog pc) s = execGhsWatchdog pc s from rfl, execGhsWatchdog, if_neg on]
      exact if_pos due
    obtain ⟨u, eu⟩ : ∃ u, s.fatalMsg (blockSrc 9 0) 0xB0 pc.toNat = u := ⟨_, rfl⟩
    rw [eu] at told held run
    have mgt : u.mgt = s.mgt := told .mgt (by decide)
    have flash : u.flash = s.flash := told .flash (by decide)
    have stopped : u.stopWrite.flash = s.stopWrite.flash := by
      rw [State.stopWrite, State.stopWrite, mgt]
      cases s.mgt.job with
      | none => exact flash
      | some j => exact congrArg (fun f => Table.putSpan blankByte f (j.place + j.next) (slice j.image j.next pageBytes)) flash
    obtain ⟨leaves, cold⟩ := moduleReset_leaves (s := s) false (told.mono (by decide)) (congrArg Gatehouse.logSeq mgt) stopped held
    exact ⟨_, run, leaves, cold.trans (Bool.false_or _)⟩
  case fall =>
    have leaves := underReset_leaves (s := s) (u := s) false true (.refl _ _) rfl rfl rfl
    obtain ⟨boot, regs, array, units, queues, kept, lost, sram, flash, outside⟩ := leaves
    refine ⟨_, rfl, ⟨boot, fun o => ?_, array, units, queues, kept, lost, sram, flash, outside⟩, rfl, rfl, rfl, rfl⟩
    change regReset o = _
    split
    · next own => rw [own]
    · rfl

end Sys2Proof.Machine
end

section
/-! PROOFS. Starts, GEN_CAPS and the pins. -/

namespace Sys2Proof.Machine

open Sys2Proof

-- One theorem after another: many at once would need too many threads.
set_option Elab.async false

/-! ## What the steps of a start keep (R368 to R378) -/

/-- The start in progress, what the last fall of a supply left, and the path asked for are the same in two states. -/
structure State.BootKeeps (s t : State) : Prop where
  published : t.boot.published = s.boot.published
  start     : t.boot.start = s.boot.start
  memKept   : t.boot.memKept = s.boot.memKept
  cold      : t.boot.cold = s.boot.cold
  inReset   : t.boot.inReset = s.boot.inReset

namespace State.BootKeeps
variable {s t u : State}

theorem refl (s : State) : s.BootKeeps s := ⟨rfl, rfl, rfl, rfl, rfl⟩

theorem trans (h : s.BootKeeps t) (k : t.BootKeeps u) : s.BootKeeps u where
  published := k.published.trans h.published
  start := k.start.trans h.start
  memKept := k.memKept.trans h.memKept
  cold := k.cold.trans h.cold
  inReset := k.inReset.trans h.inReset

theorem of_boot (h : t.boot = s.boot) : s.BootKeeps t := ⟨by rw [h], by rw [h], by rw [h], by rw [h], by rw [h]⟩

theorem of_within {ps : List Piece} (h : Within ps s t) (out : .boot ∉ ps := by decide) : s.BootKeeps t :=
  of_boot (h.touches .boot out)

end State.BootKeeps

/-- A fold each of whose steps keeps a register keeps it. -/
theorem reg_foldl {α : Type} {f : State → α → State} {o : Nat} (step : ∀ t a, (f t a).reg o = t.reg o) (l : List α) (s : State) :
    (l.foldl f s).reg o = s.reg o := by
  induction l generalizing s with
  | nil => rfl
  | cons a l ih => exact (ih (f s a)).trans (step s a)

theorem bootKeeps_foldl {α : Type} {f : State → α → State} (step : ∀ t a, State.BootKeeps t (f t a)) (l : List α) (s : State) :
    s.BootKeeps (l.foldl f s) := by
  induction l generalizing s with
  | nil => exact .refl s
  | cons a l ih => exact (step s a).trans (ih (f s a))

theorem frame_reportCopy (s : State) (k : Nat) : Frame [.regs, .flt] faultRegs s (s.reportCopy k) := by
  unfold State.reportCopy
  extract_lets b
  clear_value b
  exact .ite (.refl ..) (frame_report ..)

/-- A step of a start: the path of the start, the count of starts, the running slot and the watchdog's time stay. -/
structure State.Starting (s t : State) : Prop where
  boot  : s.BootKeeps t
  count : t.reg Reg.genStarts = s.reg Reg.genStarts
  slot  : t.mgt.slot = s.mgt.slot
  wdt   : t.mgt.wdtAt = s.mgt.wdtAt

namespace State.Starting
variable {s t u : State}

theorem refl (s : State) : s.Starting s := ⟨.refl s, rfl, rfl, rfl⟩

theorem after (k : t.Starting u) (h : s.Starting t) : s.Starting u :=
  ⟨h.boot.trans k.boot, k.count.trans h.count, k.slot.trans h.slot, k.wdt.trans h.wdt⟩

theorem ite {c : Prop} [Decidable c] {x y : State} (h : s.Starting x) (k : s.Starting y) : s.Starting (if c then x else y) := by
  split
  · exact h
  · exact k

theorem foldl {α : Type} {f : State → α → State} (step : ∀ t a, State.Starting t (f t a)) (l : List α) (h : s.Starting t) :
    s.Starting (l.foldl f t) := by
  induction l generalizing t with
  | nil => exact h
  | cons a l ih => exact ih ((step t a).after h)

theorem of_frame {ps : List Piece} {rs : List Nat} (h : Frame ps rs s t) (out : .boot ∉ ps ∧ .mgt ∉ ps := by decide)
    (own : Reg.genStarts ∉ rs := by decide) : s.Starting t := by
  have mgt : t.mgt = s.mgt := h.pieces .mgt out.2
  exact ⟨.of_boot (h.pieces .boot out.1), h.reg own, by rw [mgt], by rw [mgt]⟩

end State.Starting

theorem genStarts_fltAction (k : Nat) : Reg.genStarts ∉ [Reg.fltAction k] := by
  simp only [List.mem_singleton, Reg.genStarts, Reg.fltAction]
  omega

theorem genStarts_hfbPtpcal (p : Nat) : Reg.genStarts ∉ [Reg.hfbPtpcal p] := by
  simp only [List.mem_singleton, Reg.genStarts, Reg.hfbPtpcal]
  omega

/-- The store applied is a step of a start. -/
theorem starting_applyStore (s : State) : s.Starting s.applyStore := by
  have both (t : State) (x : List Byte) (a : Nat) (k : List Byte) : t.Starting { t with
      boot := { t.boot with trims := x }, mgt := { t.mgt with smbAddr := a, cak := k } } :=
    ⟨⟨rfl, rfl, rfl, rfl, rfl⟩, rfl, rfl, rfl⟩
  have ported (t : State) (b : Bool) : t.Starting { t with boot := { t.boot with bar4 := b } } :=
    ⟨⟨rfl, rfl, rfl, rfl, rfl⟩, rfl, rfl, rfl⟩
  unfold State.applyStore
  extract_lets s1 win cal s2 s3 set trims oldBoot oldMgt s4 s5
  have copies : s.Starting s1 := (State.Starting.of_frame (frame_reportCopy ..)).after (.of_frame (frame_reportCopy ..))
  have status : s.Starting s2 := (State.Starting.of_frame (frame_setReg ..)).after copies
  have actions : s.Starting s3 := by
    unfold s3
    split
    · exact .foldl (fun t k => .ite (.of_frame (frame_setRf ..) (own := genStarts_fltAction k)) (.refl t)) _ status
    · exact status
  have settings : s.Starting s4 := (both s3 _ _ _).after actions
  have ports : s.Starting s5 :=
    .foldl (fun t p => .of_frame (frame_setRf ..) (own := genStarts_hfbPtpcal p)) _ settings
  split
  · exact (ported _ _).after
      ((State.Starting.of_frame (frame_setRf ..)).after ((State.Starting.of_frame (frame_setRf ..)).after ports))
  · exact ports

/-- The entropy source and the regulators at a start. -/
theorem frame_entFatal (s : State) (cause : Nat) :
    Frame [.regs, .hall, .rings, .descs, .ent, .flt] (faultRegs ++ hostRegs) s (s.entFatal cause) := by
  refine ⟨(within_entFatal s cause).touches, ?_⟩
  unfold State.entFatal
  dsimp only
  obtain ⟨u, eu⟩ : ∃ u : State, ({ s with
    ent := { s.ent with
      state := .fatal, cause := cause, sources := [], block := [], seeds := [], key := none, count := 0, reseeds := 0
      out := [], seeding := false, failedSeed := s.ent.failedSeed || !s.ent.seeded }
    hall := { s.hall with keying := [] } } : State) = u := ⟨_, rfl⟩
  have regs (o : Nat) : u.reg o = s.reg o := by rw [← eu]; rfl
  rw [eu]
  have told := frame_report u (blockSrc 6 8) 0x51 cause 127
  have ended : Frame [.regs, .rings, .descs] hostRegs (u.report (blockSrc 6 8) 0x51 cause 127)
      ((u.report (blockSrc 6 8) 0x51 cause 127).entropyWaiters.foldl (fun t d => t.complete d.ref stEntropyFailed 0 0)
        (u.report (blockSrc 6 8) 0x51 cause 127)) := .foldl (fun t d => frame_complete t ..) _ _
  intro o out
  exact (ended.reg (mt (List.mem_append_right _) out)).trans ((told.reg (mt (List.mem_append_left _) out)).trans (regs o))

theorem reg_entOn (s : State) : s.entOn.reg Reg.genStarts = s.reg Reg.genStarts := by
  by_cases off : s.ent.state = .off
  · obtain ⟨u, many, few, -, -, -, -, frame⟩ := entOn_spec off
    by_cases enough : 2 ≤ s.enabledSources.length
    · rw [many enough, frame.reg (by decide)]
    · rw [few (by omega), (frame_entFatal u 2).reg (by decide), frame.reg (by decide)]
  · rw [State.entOn, if_neg off]

theorem frame_railFailed (s : State) (k : Nat) : Frame [.regs, .flt] [Reg.mgtHealth, Reg.fltStat] s (s.railFailed k) := by
  unfold State.railFailed State.ownLog
  exact ((frame_enterLog ..).mono (own := by simp [faultRegs])).comp
    (((frame_report ..).mono (own := by simp [faultRegs])).comp ((frame_count ..).mono))

theorem reg_setRails (s : State) (start : Bool) : (s.setRails start).reg Reg.genStarts = s.reg Reg.genStarts := by
  refine reg_foldl (fun t k => ?_) _ s
  unfold State.setRail
  split
  · exact (frame_railFailed t k).reg (by decide)
  · rfl

/-- A channel's training set: its rate in MEM_STATUS and its record. -/
theorem frame_setChannel (s : State) (k r hi lo rate : Nat) (f : Channel → Channel) :
    Frame [.regs, .chans] [Reg.memStatus k] s ((s.setRf (Reg.memStatus k) hi lo rate).updChan r f) :=
  ((Frame.of_within (within_updChan ..)).mono (ps := [.regs, .chans])).comp ((frame_setRf ..).mono)

theorem genStarts_memStatus (k : Nat) : Reg.genStarts ∉ [Reg.memStatus k] := by
  simp only [List.mem_singleton, Reg.genStarts, Reg.memStatus]
  omega

theorem setChannels_keeps (s : State) (records : ChanId → List Byte) : s.BootKeeps (s.setChannels records) ∧
    (s.setChannels records).reg Reg.genStarts = s.reg Reg.genStarts := by
  obtain ⟨cs, ec⟩ : ∃ cs, List.finRange 48 = cs := ⟨_, rfl⟩
  unfold State.setChannels
  rw [ec]
  extract_lets rate u bad
  have step (t : State) (c : ChanId) := frame_setChannel t (c / 4) c (c % 4 * 8 + 1) (c % 4 * 8) (rate c)
    (fun x => { x with training := records c })
  have count : u.reg Reg.genStarts = s.reg Reg.genStarts :=
    reg_foldl (fun t c => (step t c).reg (genStarts_memStatus _)) cs s
  have kept : s.BootKeeps u := bootKeeps_foldl (fun t c => .of_boot ((step t c).pieces .boot (by decide))) cs s
  clear_value u
  exact ⟨kept.trans ⟨rfl, rfl, rfl, rfl, rfl⟩, count⟩

theorem setSpare_keeps (s : State) (retired : List Nat) (skips : List (List Nat)) : s.BootKeeps (s.setSpare retired skips) ∧
    (s.setSpare retired skips).reg Reg.genStarts = s.reg Reg.genStarts := by
  unfold State.setSpare
  obtain ⟨u, eu⟩ : ∃ u : State, ({ s with boot := { s.boot with
    retired := retired
    skips := skips.zipIdx.foldl (fun u e => Table.put (fun _ => [128, 129, 130, 131]) u e.2 e.1) [] } } : State) = u := ⟨_, rfl⟩
  have kept : s.BootKeeps u := by rw [← eu]; exact ⟨rfl, rfl, rfl, rfl, rfl⟩
  have count : u.reg Reg.genStarts = s.reg Reg.genStarts := by rw [← eu]; rfl
  rw [eu]
  refine ⟨kept.trans (bootKeeps_foldl (fun t r => .of_within (within_setReg ..)) _ u), Eq.trans (reg_foldl (fun t r => ?_) _ u) count⟩
  exact (frame_setReg t (Reg.arrSpare r) _).reg (by simp only [List.mem_singleton, Reg.genStarts, Reg.arrSpare]; omega)

theorem useRemap_keeps (s : State) (m : List Nat × List (List Nat) × List Nat) (gone : List Nat) : s.BootKeeps (s.useRemap m gone) ∧
    (s.useRemap m gone).reg Reg.genStarts = s.reg Reg.genStarts := by
  obtain ⟨kept, count⟩ := setSpare_keeps { s with boot := { s.boot with bad := m.2.2, gone := gone } } m.1 m.2.1
  exact ⟨State.BootKeeps.trans (t := { s with boot := { s.boot with bad := m.2.2, gone := gone } }) ⟨rfl, rfl, rfl, rfl, rfl⟩ kept,
    count⟩

theorem noteStore_keeps (s : State) (map dig : List Byte) : s.BootKeeps (s.noteStore map dig) ∧
    (s.noteStore map dig).reg Reg.genStarts = s.reg Reg.genStarts := by
  unfold State.noteStore
  split
  · exact ⟨.refl s, rfl⟩
  · exact ⟨⟨rfl, rfl, rfl, rfl, rfl⟩, rfl⟩

theorem frame_mismatch (s : State) (src unit : Nat) (fuse test : Bool) :
    Frame [.regs, .flt] faultRegs s (s.mismatch src unit fuse test) := .ite (.refl ..) (frame_report ..)

theorem frame_ownMismatches (s : State) (kind : Nat) (fuses tests : List Nat) :
    Frame [.regs, .flt] faultRegs s (s.ownMismatches kind fuses tests) :=
  .foldl (fun _ _ => .ite (.refl ..) (frame_enterLog ..)) _ s

theorem frame_coreMismatches (s : State) (t : StartTests) : Frame [.regs, .flt] faultRegs s (s.coreMismatches t) :=
  .foldl (fun _ _ => frame_mismatch ..) _ s

theorem frame_mismatches (s : State) (t : StartTests) : Frame [.regs, .flt] faultRegs s (s.mismatches t) := by
  unfold State.mismatches
  extract_lets fl tl s1 s2 s3 s4 s5
  have first : Frame [.regs, .flt] faultRegs s s1 := frame_coreMismatches s t
  have second : Frame [.regs, .flt] faultRegs s1 s2 :=
    (frame_ownMismatches ..).comp ((frame_ownMismatches ..).comp ((frame_ownMismatches ..).comp
      ((frame_ownMismatches ..).comp (frame_ownMismatches ..))))
  have third : Frame [.regs, .flt] faultRegs s2 s3 := .foldl (fun _ _ => frame_enterLog ..) _ s2
  have fourth : Frame [.regs, .flt] faultRegs s3 s4 := .foldl (fun _ _ => frame_mismatch ..) _ s3
  have fifth : Frame [.regs, .flt] faultRegs s4 s5 := .foldl (fun _ _ => frame_mismatch ..) _ s4
  have sixth := Frame.foldl (ps := [.regs, .flt]) (rs := faultRegs) (f := fun (u : State) (c : ChanId) =>
    u.mismatch (blockSrc 2 c) 0 (s5.fuse.badChans.contains c) ((c, 2#2) ∈ t.channelRate)) (fun _ _ => frame_mismatch ..)
    (List.finRange 48) s5
  exact sixth.comp (fifth.comp (fourth.comp (third.comp (second.comp first))))

theorem coldArray_keeps (s : State) (t : StartTests) (dig : List Byte) : s.BootKeeps (s.coldArray t dig) ∧
    (s.coldArray t dig).reg Reg.genStarts = s.reg Reg.genStarts := by
  unfold State.coldArray
  extract_lets gone m retired gone'
  obtain ⟨kept, count⟩ := useRemap_keeps s (retired, m.2) gone'
  have told := frame_mismatches (s.useRemap (retired, m.2) gone') t
  obtain ⟨kept', count'⟩ := noteStore_keeps ((s.useRemap (retired, m.2) gone').mismatches t) (mergedMap m.2.2 retired) dig
  exact ⟨kept.trans ((State.BootKeeps.of_boot (told.pieces .boot (by decide))).trans kept'),
    count'.trans ((told.reg (by decide)).trans count)⟩

theorem warmArray_keeps (s : State) (t : StartTests) (dig : List Byte) : s.BootKeeps (s.warmArray t dig).1 ∧
    (s.warmArray t dig).1.reg Reg.genStarts = s.reg Reg.genStarts := by
  unfold State.warmArray
  extract_lets stored
  clear_value stored
  split
  next m _ => exact useRemap_keeps s m stored.2
  next m _ _ =>
    clear_value m
    dsimp only
    obtain ⟨kept, count⟩ := useRemap_keeps s m stored.2
    have told := frame_coreMismatches (s.useRemap m stored.2) t
    obtain ⟨kept', count'⟩ := noteStore_keeps ((s.useRemap m stored.2).coreMismatches t) (mergedMap m.2.2 m.1) dig
    exact ⟨kept.trans ((State.BootKeeps.of_boot (told.pieces .boot (by decide))).trans kept'),
      count'.trans ((told.reg (by decide)).trans count)⟩

/-! ## The release of module reset (R368, R369, R377, R388) -/

theorem cfgBytes_of_flash {s t : State} (h : t.flash = s.flash) (k : Nat) : t.cfgBytes k = s.cfgBytes k := by
  rw [State.cfgBytes, State.flashRd, State.flashRd, h, State.cfgBytes, State.flashRd, State.flashRd]

theorem cfgWinner_of_flash {s t : State} (h : t.flash = s.flash) : t.cfgWinner = s.cfgWinner := by
  rw [State.cfgWinner, cfgBytes_of_flash h, cfgBytes_of_flash h, State.cfgWinner]

theorem store_of_flash {s t : State} (h : t.flash = s.flash) : t.store = s.store := by
  rw [State.store, cfgWinner_of_flash h, State.store]
  cases s.cfgWinner with
  | none => rfl
  | some k =>
    dsimp only
    rw [cfgBytes_of_flash h]

theorem storeEntry_of_flash {s t : State} (h : t.flash = s.flash) (ty : Nat) : t.storeEntry ty = s.storeEntry ty := by
  rw [State.storeEntry, store_of_flash h, State.storeEntry]

theorem warmStart_of {s t : State} (boot : s.BootKeeps t) (flash : t.flash = s.flash) (dig : List Byte) :
    t.warmStart dig = s.warmStart dig := by
  rw [State.warmStart, boot.memKept, boot.cold, storeEntry_of_flash flash, storeEntry_of_flash flash, State.warmStart]

theorem imageSound_of_fuse {s t : State} (fuse : t.fuse = s.fuse) : t.imageSound = s.imageSound := by
  funext h body
  rw [State.imageSound, fuse, State.imageSound]

theorem slotValid_of {s t : State} (flash : t.flash = s.flash) (fuse : t.fuse = s.fuse) (k : Nat) :
    t.slotValid k = s.slotValid k := by
  rw [State.slotValid, State.slotHeader, State.flashRd, State.flashRd, flash, State.imageValid, imageSound_of_fuse fuse,
    State.rollback, fuse]
  rfl

theorem bootSlot_of {s t : State} (flash : t.flash = s.flash) (fuse : t.fuse = s.fuse) : t.bootSlot = s.bootSlot := by
  rw [State.bootSlot, slotValid_of flash fuse, slotValid_of flash fuse, State.bootSlot]

/-- The array's part of a start on the path that it takes. -/
def State.startArray (s : State) (t : StartTests) (dig : List Byte) (warm : Bool) : State × Bool :=
  if warm then s.warmArray t dig else (State.coldArray { s with mem := [], dramErr := [] } t dig, false)

theorem startArray_spec (s : State) (t : StartTests) (dig : List Byte) (warm : Bool) :
    s.Starting (s.startArray t dig warm).1 ∧ (s.startArray t dig warm).1.clk = s.clk ∧
      (warm = true → (s.startArray t dig warm).1.mem = s.mem ∧ (s.startArray t dig warm).1.dramErr = s.dramErr) ∧
      (warm = false → (s.startArray t dig warm).1.mem = [] ∧ (s.startArray t dig warm).1.dramErr = [] ∧
        (s.startArray t dig warm).2 = false) := by
  unfold State.startArray
  cases warm with
  | true =>
    rw [if_pos rfl]
    obtain ⟨boot, count⟩ := warmArray_keeps s t dig
    have pieces := (within_warmArray s t dig).touches
    have mgt : (s.warmArray t dig).1.mgt = s.mgt := pieces .mgt (by decide)
    exact ⟨⟨boot, count, by rw [mgt], by rw [mgt]⟩, pieces .clk (by decide),
      fun _ => ⟨pieces .mem (by decide), pieces .dramErr (by decide)⟩, fun h => absurd h (by decide)⟩
  | false =>
    rw [if_neg (by decide)]
    dsimp only
    obtain ⟨u, eu⟩ : ∃ u : State, ({ s with mem := [], dramErr := [] } : State) = u := ⟨_, rfl⟩
    have cleared : u.boot = s.boot ∧ u.regs = s.regs ∧ u.mgt = s.mgt ∧ u.clk = s.clk ∧ u.mem = [] ∧ u.dramErr = [] := by
      rw [← eu]
      exact ⟨rfl, rfl, rfl, rfl, rfl, rfl⟩
    obtain ⟨boot0, regs0, mgt0, clk0, mem0, err0⟩ := cleared
    rw [eu]
    obtain ⟨boot, count⟩ := coldArray_keeps u t dig
    have pieces := (within_coldArray u t dig).touches
    have mgt : (u.coldArray t dig).mgt = s.mgt := (pieces .mgt (by decide)).trans mgt0
    exact ⟨⟨(State.BootKeeps.of_boot boot0).trans boot, count.trans (State.reg_of_regs regs0 _), by rw [mgt], by rw [mgt]⟩,
      (pieces .clk (by decide)).trans clk0, fun h => absurd h (by decide),
      fun _ => ⟨(pieces .mem (by decide)).trans mem0, (pieces .dramErr (by decide)).trans err0, rfl⟩⟩

/-- Firmware, fuses and the count of starts, before the store is applied. -/
def State.startLoads (s : State) (slot : Nat) : State := (((s.loadSram slot).loadFuses).loadFw slot).countStart

theorem startLoads_spec (s : State) (slot : Nat) : s.BootKeeps (s.startLoads slot) ∧
    (s.startLoads slot).reg Reg.genStarts = BitVec.ofNat 64 (min 0xFFFFFFFF (s.mgt.lastStart + 1)) ∧
    (s.startLoads slot).mgt.slot = slot ∧ (s.startLoads slot).mgt.wdtAt = s.mgt.wdtAt ∧
    OnlyTouches [.regs, .mgt] s (s.startLoads slot) := by
  unfold State.startLoads
  obtain ⟨u, eu⟩ : ∃ u, s.loadSram slot = u := ⟨_, rfl⟩
  have sram : OnlyTouches [.mgt] s u := eu ▸ (within_loadSram s slot).touches
  have ghs : u.mgt.slot = slot ∧ u.mgt.wdtAt = s.mgt.wdtAt ∧ u.mgt.lastStart = s.mgt.lastStart := by
    rw [← eu]
    exact ⟨rfl, rfl, rfl⟩
  obtain ⟨slot', wdt, last⟩ := ghs
  rw [eu]
  obtain ⟨v, ev⟩ : ∃ v, u.loadFuses.loadFw slot = v := ⟨_, rfl⟩
  have loaded : OnlyTouches [.regs] u v := by
    rw [← ev]
    exact ((within_loadFw ..).after (within_loadFuses u)).touches
  have counted : OnlyTouches [.regs] v v.countStart := (within_countStart v).touches
  have value : v.countStart.reg Reg.genStarts = BitVec.ofNat 64 (min 0xFFFFFFFF (v.mgt.lastStart + 1)) := State.reg_setReg_self ..
  have mgt : v.mgt = u.mgt := loaded .mgt (by decide)
  have mgt' : v.countStart.mgt = u.mgt := (counted .mgt (by decide)).trans mgt
  rw [ev]
  refine ⟨.of_boot ((counted .boot (by decide)).trans ((loaded .boot (by decide)).trans (sram .boot (by decide)))), ?_,
    by rw [mgt', slot'], by rw [mgt', wdt],
    (sram.mono (by decide)).trans ((loaded.mono (by decide)).trans (counted.mono (by decide)))⟩
  rw [value, mgt, last]

/-- The steps between the store and the array: the entropy source, the regulators, the channels and the ports. -/
def State.startUnits (s : State) (t : StartTests) (warm : Bool) : State :=
  ((s.entOn.setRails true).setChannels ((s.entOn.setRails true).startRecords t warm)).setPorts t warm

theorem startUnits_spec (s : State) (t : StartTests) (warm : Bool) : s.Starting (s.startUnits t warm) ∧
    OnlyTouches [.regs, .boot, .chans, .hall, .rings, .descs, .ent, .flt, .pwr] s (s.startUnits t warm) := by
  unfold State.startUnits
  obtain ⟨u, eu⟩ : ∃ u, s.entOn.setRails true = u := ⟨_, rfl⟩
  have runs : OnlyTouches [.regs, .hall, .rings, .descs, .ent, .flt, .pwr] s u := by
    rw [← eu]
    exact ((within_setRails s.entOn true).after ((within_entOn s).mono (by decide))).touches
  have count : u.reg Reg.genStarts = s.reg Reg.genStarts := by rw [← eu, reg_setRails, reg_entOn]
  rw [eu]
  obtain ⟨boot', count'⟩ := setChannels_keeps u (u.startRecords t warm)
  have trained := (within_setChannels u (u.startRecords t warm)).touches
  obtain ⟨v, ev⟩ : ∃ v, u.setChannels (u.startRecords t warm) = v := ⟨_, rfl⟩
  rw [ev] at boot' count' trained ⊢
  have ports : v.BootKeeps (v.setPorts t warm) := ⟨rfl, rfl, rfl, rfl, rfl⟩
  have ported := (within_setPorts v t warm).touches
  have counted : (v.setPorts t warm).reg Reg.genStarts = v.reg Reg.genStarts := State.reg_of_regs (ported .regs (by decide)).1 _
  have all : OnlyTouches [.regs, .boot, .chans, .hall, .rings, .descs, .ent, .flt, .pwr] s (v.setPorts t warm) :=
    (runs.mono (by decide)).trans ((trained.mono (by decide)).trans (ported.mono (by decide)))
  have mgt : (v.setPorts t warm).mgt = s.mgt := all .mgt (by decide)
  exact ⟨⟨(State.BootKeeps.of_boot (runs .boot (by decide))).trans (boot'.trans ports), counted.trans (count'.trans count),
    by rw [mgt], by rw [mgt]⟩, all⟩

/-- The release itself, with the equalisation in force. -/
def State.startRelease (s : State) (warm : Bool) : State :=
  { s with boot := { s.boot with
      inReset := false
      eq := if warm then (s.storeEntry 4).getD s.boot.trims else Config.equalisation s.boot.trims s.clk.wall } }

/-- The start in progress noted. -/
def State.startBegins (r : State × Bool) (now : Nat) (t : StartTests) : State :=
  { r.1 with boot := { r.1.boot with start := some ⟨now, t.durationMs.toNat, r.2⟩ } }

theorem bringUp_eq (s : State) (t : StartTests) (slot : Nat) : s.bringUp t slot =
    let v := (s.startLoads slot).applyStore
    let warm := v.warmStart (shake256_256 t.fuseBits)
    let x := (v.startUnits t warm).startRelease warm
    State.startBegins (x.startArray t (shake256_256 t.fuseBits) warm) x.clk.wall t := by
  unfold State.bringUp State.startBegins State.startArray State.startRelease State.startUnits State.startLoads
  with_reducible rfl

/-- What a start has done when its tests begin (R368, R369, R377). -/
theorem bringUp_spec (s : State) (t : StartTests) (slot : Nat) :
    (s.bringUp t slot).boot.inReset = false ∧ (s.bringUp t slot).boot.published = s.boot.published ∧
    (∃ warm, (s.bringUp t slot).boot.start = some ⟨s.clk.wall, t.durationMs.toNat, warm⟩ ∧
      (s.warmStart (shake256_256 t.fuseBits) = false → warm = false)) ∧
    (s.warmStart (shake256_256 t.fuseBits) = false → (s.bringUp t slot).mem = [] ∧ (s.bringUp t slot).dramErr = []) ∧
    (s.warmStart (shake256_256 t.fuseBits) = true →
      (s.bringUp t slot).mem = s.mem ∧ (s.bringUp t slot).dramErr = s.dramErr) ∧
    (s.bringUp t slot).reg Reg.genStarts = BitVec.ofNat 64 (min 0xFFFFFFFF (s.mgt.lastStart + 1)) ∧
    (s.bringUp t slot).mgt.slot = slot ∧ (s.bringUp t slot).mgt.wdtAt = s.mgt.wdtAt := by
  obtain ⟨boot1, count1, slot1, wdt1, loaded⟩ := startLoads_spec s slot
  obtain ⟨dig, ed⟩ : ∃ dig, shake256_256 t.fuseBits = dig := ⟨_, rfl⟩
  obtain ⟨u, eu⟩ : ∃ u, s.startLoads slot = u := ⟨_, rfl⟩
  rw [eu] at boot1 count1 slot1 wdt1 loaded
  have applied := starting_applyStore u
  have store := (within_applyStore u).touches
  obtain ⟨v, ev⟩ : ∃ v, u.applyStore = v := ⟨_, rfl⟩
  rw [ev] at applied store
  have warm : v.warmStart dig = s.warmStart dig := warmStart_of (boot1.trans applied.boot)
    ((store .flash (by decide)).trans (loaded .flash (by decide))) dig
  obtain ⟨units, worked⟩ := startUnits_spec v t (s.warmStart dig)
  obtain ⟨w, ew⟩ : ∃ w, v.startUnits t (s.warmStart dig) = w := ⟨_, rfl⟩
  rw [ew] at units worked
  obtain ⟨x, ex⟩ : ∃ x, w.startRelease (s.warmStart dig) = x := ⟨_, rfl⟩
  have left : x.boot.inReset = false ∧ x.boot.published = w.boot.published ∧ x.reg Reg.genStarts = w.reg Reg.genStarts ∧
      x.mgt = w.mgt ∧ x.clk = w.clk ∧ x.mem = w.mem ∧ x.dramErr = w.dramErr := by
    rw [← ex]
    exact ⟨rfl, rfl, rfl, rfl, rfl, rfl, rfl⟩
  obtain ⟨released, published, count2, mgt2, clk2, mem2, err2⟩ := left
  obtain ⟨array, clk3, warm3, cold3⟩ := startArray_spec x t dig (s.warmStart dig)
  obtain ⟨r, er⟩ : ∃ r, x.startArray t dig (s.warmStart dig) = r := ⟨_, rfl⟩
  rw [er] at array clk3 warm3 cold3
  have run : s.bringUp t slot = State.startBegins r x.clk.wall t := by
    rw [bringUp_eq]
    dsimp only
    rw [ed, eu, ev, warm, ew, ex, er]
  have clk : x.clk = s.clk := clk2.trans ((worked .clk (by decide)).trans ((store .clk (by decide)).trans (loaded .clk (by decide))))
  have mem : x.mem = s.mem := mem2.trans ((worked .mem (by decide)).trans ((store .mem (by decide)).trans (loaded .mem (by decide))))
  have err : x.dramErr = s.dramErr := err2.trans ((worked .dramErr (by decide)).trans
    ((store .dramErr (by decide)).trans (loaded .dramErr (by decide))))
  rw [run, ed]
  refine ⟨array.boot.inReset.trans released, ?_, ⟨r.2, by rw [clk]; rfl, fun h => (cold3 h).2.2⟩, fun h => ?_,
    fun h => ?_, ?_, ?_, ?_⟩
  · exact array.boot.published.trans (published.trans (units.boot.published.trans (applied.boot.published.trans boot1.published)))
  · exact ⟨(cold3 h).1, (cold3 h).2.1⟩
  · exact ⟨(warm3 h).1.trans mem, (warm3 h).2.trans err⟩
  · exact array.count.trans (count2.trans (units.count.trans (applied.count.trans count1)))
  · exact array.slot.trans ((congrArg Gatehouse.slot mgt2).trans (units.slot.trans (applied.slot.trans slot1)))
  · exact array.wdt.trans ((congrArg Gatehouse.wdtAt mgt2).trans (units.wdt.trans (applied.wdt.trans wdt1)))

theorem frame_latchLast (s : State) : OnlyTouches [.regs] s s.latchLast := (within_latchLast s).touches

/-- The release of module reset waits for the supplies, the 100 µs and the boot ROM. -/
theorem moduleResetRelease_waits {s : State} (tests : StartTests) (waits : s.boot.inReset = false ∨ s.boot.supplies = false ∨
    s.pwr.tripped = true ∨ s.boot.bootRom = true ∨ (∃ a, s.boot.pgAt = some a ∧ s.clk.wall < a + usec 100)) :
    exec (.moduleResetRelease tests) s = .next s := by
  rw [show exec (.moduleResetRelease tests) s = execModuleResetRelease tests s from rfl, execModuleResetRelease]
  refine if_pos ?_
  rcases waits with reset | low | tripped | rom | ⟨a, at_, early⟩
  · simp [reset]
  · simp [low]
  · simp [tripped]
  · simp [rom]
  · simp [at_, early]

/-- A release of module reset that may start, by the slot that the boot ROM finds. -/
theorem moduleResetRelease_runs {s : State} (tests : StartTests) (reset : s.boot.inReset = true) (supplies : s.boot.supplies = true)
    (cool : s.pwr.tripped = false) (rom : s.boot.bootRom = false) (late : ∀ a, s.boot.pgAt = some a → a + usec 100 ≤ s.clk.wall) :
    ∃ u : State, u = { s with boot := { s.boot with pgAt := none }, mgt := { s.mgt with wdtAt := s.clk.wall } } ∧
      (∀ slot, s.bootSlot = some slot → exec (.moduleResetRelease tests) s = .next (u.latchLast.bringUp tests slot)) ∧
      (s.bootSlot = none → exec (.moduleResetRelease tests) s =
        .next (State.setPorts { u.latchLast with boot := { u.boot with bootRom := true } } tests true)) := by
  obtain ⟨u, eu⟩ : ∃ u : State, u = { s with boot := { s.boot with pgAt := none }, mgt := { s.mgt with wdtAt := s.clk.wall } } :=
    ⟨_, rfl⟩
  have slot : u.bootSlot = s.bootSlot := bootSlot_of (by rw [eu]) (by rw [eu])
  have free : (!s.boot.inReset || !s.boot.supplies || (match s.boot.pgAt with
      | some a => decide (s.clk.wall < a + usec 100)
      | none => false) || s.pwr.tripped || s.boot.bootRom) = false := by
    cases at_ : s.boot.pgAt with
    | none => simp [reset, supplies, cool, rom]
    | some a => simp [reset, supplies, cool, rom, late a at_]
  have run : exec (.moduleResetRelease tests) s = match u.bootSlot with
      | none => .next (State.setPorts { u.latchLast with boot := { u.boot with bootRom := true } } tests true)
      | some slot => .next (u.latchLast.bringUp tests slot) := by
    rw [eu, show exec (.moduleResetRelease tests) s = execModuleResetRelease tests s from rfl, execModuleResetRelease]
    exact if_neg (fun h => absurd (free.symm.trans h) (by decide))
  exact ⟨u, eu, fun k found => by rw [run, slot, found], fun none => by rw [run, slot, none]⟩

/-! ## GEN_CAPS (R376) -/

theorem testBit_foldl_bits (l : List Nat) (i : Nat) : ∀ a : Nat,
    (l.foldl (fun a i => a ||| (1 <<< i)) a).testBit i = (a.testBit i || decide (i ∈ l)) := by
  induction l with
  | nil => simp
  | cons k l ih =>
    intro a
    rw [List.foldl_cons, ih, Nat.testBit_or, Nat.one_shiftLeft, Nat.testBit_two_pow]
    by_cases own : k = i
    · simp [own]
    · simp [own, Ne.symm own]

theorem testBit_bitsFrom (l : List Nat) (i : Nat) : (bitsFrom l).testBit i = decide (i ∈ l) := by
  rw [bitsFrom, testBit_foldl_bits, Nat.zero_testBit, Bool.false_or]

theorem bitsFrom_lt {l : List Nat} {n : Nat} (small : ∀ i ∈ l, i < n) : bitsFrom l < 2 ^ n :=
  Nat.lt_pow_two_of_testBit _ fun i high => by
    rw [testBit_bitsFrom, decide_eq_false fun mem => absurd (small i mem) (by omega)]

/-- GEN_CAPS written unit by unit. -/
def State.writeCaps (s : State) (v : Nat) : State :=
  (List.range 4).foldl (fun u i => u.setReg (Reg.genCaps + 8 * i) (unitOf v i)) s

def capsRegs : List Nat := (List.range 4).map (fun i => Reg.genCaps + 8 * i)

theorem writeCaps_spec (s : State) (v : Nat) : Frame [.regs] capsRegs s (s.writeCaps v) ∧
    (s.writeCaps v).reg Reg.genCaps = unitOf v 0 ∧ (s.writeCaps v).reg (Reg.genCaps + 8) = unitOf v 1 := by
  have writes : s.writeCaps v = (((s.setReg (Reg.genCaps + 8 * 0) (unitOf v 0)).setReg (Reg.genCaps + 8 * 1) (unitOf v 1)).setReg
    (Reg.genCaps + 8 * 2) (unitOf v 2)).setReg (Reg.genCaps + 8 * 3) (unitOf v 3) := rfl
  rw [writes]
  obtain ⟨a, ea⟩ : ∃ a, s.setReg (Reg.genCaps + 8 * 0) (unitOf v 0) = a := ⟨_, rfl⟩
  have first : Frame [.regs] [Reg.genCaps + 8 * 0] s a := ea ▸ frame_setReg ..
  have zero : a.reg Reg.genCaps = unitOf v 0 := ea ▸ State.reg_setReg_self ..
  rw [ea]
  obtain ⟨b, eb⟩ : ∃ b, a.setReg (Reg.genCaps + 8 * 1) (unitOf v 1) = b := ⟨_, rfl⟩
  have second : Frame [.regs] [Reg.genCaps + 8 * 1] a b := eb ▸ frame_setReg ..
  have one : b.reg (Reg.genCaps + 8) = unitOf v 1 := eb ▸ State.reg_setReg_self ..
  rw [eb]
  have third := frame_setReg b (Reg.genCaps + 8 * 2) (unitOf v 2)
  have fourth := frame_setReg (b.setReg (Reg.genCaps + 8 * 2) (unitOf v 2)) (Reg.genCaps + 8 * 3) (unitOf v 3)
  refine ⟨(fourth.mono (own := by decide)).comp ((third.mono (own := by decide)).comp ((second.mono (own := by decide)).comp
    (first.mono (own := by decide)))), ?_, ?_⟩
  · rw [fourth.reg (by decide), third.reg (by decide), second.reg (by decide), zero]
  · rw [fourth.reg (by decide), third.reg (by decide), one]

/-- The units of a number whose bits from 96 up stand above others. -/
theorem bit_unitOf {b n rest q : Nat} (low : b < 2 ^ 96) (small : q < 96) :
    bit (unitOf (b + n * 2 ^ 96 + rest * 2 ^ 104) (q / 64)) (q % 64) = b.testBit q := by
  have shape : b + n * 2 ^ 96 + rest * 2 ^ 104 = 2 ^ 96 * (n + rest * 2 ^ 8) + b := by omega
  rw [bit, unitOf, BitVec.getLsbD_ofNat, Nat.testBit_div_two_pow, shape, Nat.testBit_two_pow_mul_add _ low]
  rw [show q % 64 + 64 * (q / 64) = q by omega, if_pos small, decide_eq_true (Nat.mod_lt q (by decide)), Bool.true_and]

theorem count_unitOf {b n rest : Nat} (low : b < 2 ^ 96) (small : n < 256) :
    fld (unitOf (b + n * 2 ^ 96 + rest * 2 ^ 104) 1) 39 32 = n := by
  unfold fld bitsN unitOf
  rw [BitVec.toNat_ofNat]
  have shape : (b + n * 2 ^ 96 + rest * 2 ^ 104) / 2 ^ 96 = n + rest * 2 ^ 8 := by omega
  omega

/-- A flag of GEN_CAPS at a bit from 104 up. -/
theorem flag_high (b : Bool) {i : Nat} (above : 104 ≤ i) : ∃ k, (if b then 2 ^ i else 0) = k * 2 ^ 104 := by
  cases b with
  | false => exact ⟨0, (Nat.zero_mul _).symm⟩
  | true =>
    refine ⟨2 ^ (i - 104), ?_⟩
    rw [if_pos rfl, ← Nat.pow_add, Nat.sub_add_cancel above]

/-- GEN_CAPS names the quires that are not retired, their count, and above it what else the start found. -/
theorem publish_eq (s : State) (x : Start) : ∃ rest m, s.publish x = { (s.writeCaps
      (bitsFrom ((List.range 96).filter (fun q => !s.boot.retired.contains q)) +
        ((List.range 96).filter (fun q => !s.boot.retired.contains q)).length * 2 ^ 96 + rest * 2 ^ 104)).enterLog m with
      boot := { s.boot with published := true, start := none } } := by
  obtain ⟨a, ea⟩ := flag_high (s.boot.badSides.getD 0 false == false) (i := 114) (by decide)
  obtain ⟨b, eb⟩ := flag_high (s.boot.badSides.getD 1 false == false) (i := 115) (by decide)
  obtain ⟨c, ec⟩ := flag_high s.boot.bar4 (i := 116) (by decide)
  obtain ⟨d, ed⟩ := flag_high x.warm (i := 118) (by decide)
  obtain ⟨e, ee⟩ := flag_high ((List.range 48).any (fun c => s.rf (Reg.memStatus (c / 4)) (c % 4 * 8 + 1) (c % 4 * 8) == 1)) (i := 119)
    (by decide)
  obtain ⟨f, ef⟩ := flag_high true (i := 120) (by decide)
  obtain ⟨ms, ems⟩ : ∃ ms, (s.clk.wall - x.since) / usec 1000 % 2 ^ 32 = ms := ⟨_, rfl⟩
  obtain ⟨l, el⟩ : ∃ l, (List.range 96).filter (fun q => !s.boot.retired.contains q) = l := ⟨_, rfl⟩
  refine ⟨bitsFrom s.boot.hallPorts + bitsFrom s.boot.hostPorts * 2 ^ 8 + a + b + c + s.rf Reg.cfgStatus 2 2 * 2 ^ 13 + d + e + f +
    s.rf Reg.entStatus 31 24 * 2 ^ 24 + ms * 2 ^ 88, ⟨faultMsg (blockSrc 9 0) 0 1, 127, s.mc⟩, ?_⟩
  obtain ⟨v, ev⟩ : ∃ v, bitsFrom l + l.length * 2 ^ 96 + (bitsFrom s.boot.hallPorts + bitsFrom s.boot.hostPorts * 2 ^ 8 + a + b + c +
    s.rf Reg.cfgStatus 2 2 * 2 ^ 13 + d + e + f + s.rf Reg.entStatus 31 24 * 2 ^ 24 + ms * 2 ^ 88) * 2 ^ 104 = v := ⟨_, rfl⟩
  have sum : bitsFrom l + l.length * 2 ^ 96 + bitsFrom s.boot.hallPorts * 2 ^ 104 + bitsFrom s.boot.hostPorts * 2 ^ 112 +
      a * 2 ^ 104 + b * 2 ^ 104 + c * 2 ^ 104 + s.rf Reg.cfgStatus 2 2 * 2 ^ 117 + d * 2 ^ 104 + e * 2 ^ 104 + f * 2 ^ 104 +
      s.rf Reg.entStatus 31 24 * 2 ^ 128 + ms * 2 ^ 192 = v := by
    rw [← ev]
    ring
  unfold State.publish
  dsimp only
  rw [ea, eb, ec, ed, ee, ef, ems, el, sum, ev]
  have caps := (writeCaps_spec s v).1
  have clk : (s.writeCaps v).mc = s.mc := by
    rw [State.mc, show (s.writeCaps v).clk = s.clk from caps.pieces .clk (by decide), State.mc]
  have same : ((s.writeCaps v).enterLog ⟨faultMsg (blockSrc 9 0) 0 1, 127, s.mc⟩).boot = s.boot :=
    ((frame_enterLog ..).pieces .boot (by decide)).trans (caps.pieces .boot (by decide))
  rw [show (List.range 4).foldl (fun u i => u.setReg (Reg.genCaps + 8 * i) (unitOf v i)) s = s.writeCaps v from rfl, clk, same]

/-- What GEN_CAPS shows of the quires, and the start's end (R376). -/
theorem publish_spec (s : State) (x : Start) :
    (s.publish x).boot.published = true ∧ (s.publish x).boot.start = none ∧
    (∀ q, q < 96 → bit ((s.publish x).reg (Reg.genCaps + 8 * (q / 64))) (q % 64) = !s.boot.retired.contains q) ∧
    (s.publish x).rf (Reg.genCaps + 8) 39 32 = ((List.range 96).filter (fun q => !s.boot.retired.contains q)).length ∧
    Frame [.regs, .boot, .flt] (Reg.fltStat :: capsRegs) s (s.publish x) := by
  obtain ⟨quires, eq⟩ : ∃ l, (List.range 96).filter (fun q => !s.boot.retired.contains q) = l := ⟨_, rfl⟩
  have member (q : Nat) (small : q < 96) : decide (q ∈ quires) = !s.boot.retired.contains q := by
    rw [← eq]
    simp [List.mem_filter, small]
  have low : bitsFrom quires < 2 ^ 96 := bitsFrom_lt fun i mem => by
    rw [← eq] at mem
    exact List.mem_range.mp (List.mem_filter.mp mem).1
  have few : quires.length < 256 := by
    rw [← eq]
    exact lt_of_le_of_lt (List.length_filter_le _ _) (by decide)
  obtain ⟨rest, m, shape⟩ := publish_eq s x
  rw [eq] at shape
  obtain ⟨caps, unit0, unit1⟩ := writeCaps_spec s (bitsFrom quires + quires.length * 2 ^ 96 + rest * 2 ^ 104)
  obtain ⟨u, eu⟩ : ∃ u, s.writeCaps (bitsFrom quires + quires.length * 2 ^ 96 + rest * 2 ^ 104) = u := ⟨_, rfl⟩
  rw [eu] at shape caps unit0 unit1
  have logged := frame_enterLog u m
  obtain ⟨v, ev⟩ : ∃ v, u.enterLog m = v := ⟨_, rfl⟩
  rw [ev] at shape logged
  have word0 : v.reg Reg.genCaps = unitOf (bitsFrom quires + quires.length * 2 ^ 96 + rest * 2 ^ 104) 0 :=
    (logged.reg (by decide)).trans unit0
  have word1 : v.reg (Reg.genCaps + 8) = unitOf (bitsFrom quires + quires.length * 2 ^ 96 + rest * 2 ^ 104) 1 :=
    (logged.reg (by decide)).trans unit1
  have regs (o : Nat) : (s.publish x).reg o = v.reg o := by rw [shape]; rfl
  refine ⟨by rw [shape], by rw [shape], fun q small => ?_, ?_, ?_⟩
  · rw [← member q small, ← testBit_bitsFrom, ← bit_unitOf (n := quires.length) (rest := rest) low small, regs]
    have half : q / 64 = 0 ∨ q / 64 = 1 := by omega
    rcases half with zero | one
    · rw [zero, Nat.mul_zero, Nat.add_zero, word0]
    · rw [one, Nat.mul_one, word1]
  · rw [rf_of_reg (regs _), State.rf, word1, count_unitOf low few, eq]
  · rw [shape]
    exact ((Frame.of_within (within_boot (s := v) _)).mono (ps := [.regs, .boot, .flt]) (rs := Reg.fltStat :: capsRegs)).comp
      ((logged.mono (own := by simp [faultRegs])).comp (caps.mono (own := by simp)))

theorem startDone_some {s : State} (done : s.startDone = true) : ∃ x, s.boot.start = some x ∧ s.endStart = s.publish x := by
  have due := done
  unfold State.startDone at due
  split at due
  next x start =>
    refine ⟨x, start, ?_⟩
    rw [State.endStart, start]
    exact if_pos done
  next => simp at due

/-! ## The cycle in which a start ends (R369, R384) -/

/-- A wake goes on beside a start: GEN_CAPS and the start in progress stay. -/
theorem bootKeeps_awake (s : State) (src : WakeSource) : s.BootKeeps (s.awake src) := by
  obtain ⟨u, eu⟩ : ∃ u, (s.setRails false).memoryWakes = u := ⟨_, rfl⟩
  have woke : s.BootKeeps u := by
    obtain ⟨trained, -⟩ := setChannels_keeps (s.setRails false) (s.setRails false).wakeRecords
    rw [← eu]
    exact ((State.BootKeeps.of_within (within_setRails s false)).trans trained).trans (.of_within (within_chans ..))
  obtain ⟨v, ev⟩ : ∃ v, (if s.pwr.state = .s2 then u.afterS2.wakePathTest else u) = v := ⟨_, rfl⟩
  have tested : u.BootKeeps v := by
    rw [← ev]
    split
    · refine (State.BootKeeps.of_within (within_afterS2 u)).trans ?_
      unfold State.wakePathTest
      split
      · exact .refl _
      · exact (useRemap_keeps ..).1
    · exact .refl u
  obtain ⟨w, ew⟩ : ∃ w, (v.setRf Reg.pwrWake 3 0 src.cause).setRf Reg.pwrClk 40 40 0 = w := ⟨_, rfl⟩
  have set : v.BootKeeps w := by
    rw [← ew]
    exact .of_within ((within_setRf ..).after (within_setRf ..))
  have run : s.awake src = { w with
      pwr := { w.pwr with state := .s0, waking := none, heldWake := none, level := [] }
      lanes := []
      ent := { w.ent with seeded := false, seedNext := 0, failedSeed := w.ent.state == .fatal, seeding := w.ent.state.serves } } := by
    unfold State.awake
    dsimp only
    rw [eu, ev, ew]
  rw [run]
  exact (woke.trans (tested.trans set)).trans ⟨rfl, rfl, rfl, rfl, rfl⟩

theorem bootKeeps_wakeCycle (s : State) : s.BootKeeps s.wakeCycle := by
  unfold State.wakeCycle
  split
  · split
    · exact bootKeeps_awake ..
    · exact .refl s
  · exact .refl s

theorem bootKeeps_storeCycle (s : State) : s.BootKeeps s.storeCycle := by
  unfold State.storeCycle
  split
  · exact .refl s
  · dsimp only
    have taken : s.BootKeeps { s with boot := { s.boot with toStore := [] } } := ⟨rfl, rfl, rfl, rfl, rfl⟩
    split
    · exact taken.trans (.of_within (within_raise ..))
    · exact taken.trans (.of_within (within_writeStore ..))

/-- A cycle in which a start's tests have taken their time publishes GEN_CAPS. -/
theorem cycle_publishes {s : State} {x : Start} (start : s.boot.start = some x) (due : x.since + x.ms * usec 1000 ≤ s.clk.wall + 1)
    (ready : s.ent.seeded = true ∨ s.ent.state = .fatal) : s.cycle.boot.published = true ∧ s.cycle.boot.start = none := by
  have edges := (within_endEdgeCycle s).touches
  have clocks := (within_advanceClocks s.endEdgeCycle).touches
  have wall := wall_advanceClocks s.endEdgeCycle
  obtain ⟨u, eu⟩ : ∃ u, s.endEdgeCycle.advanceClocks.1 = u := ⟨_, rfl⟩
  rw [eu] at clocks wall
  have work : OnlyTouches [.regs, .flash, .flt, .mgt, .msix] u u.flashCycle.sramCycle :=
    ((within_sramCycle u.flashCycle).after (within_flashCycle u)).touches
  obtain ⟨v, ev⟩ : ∃ v, u.flashCycle.sramCycle = v := ⟨_, rfl⟩
  rw [ev] at work
  have boot : v.boot = s.boot := (work .boot (by decide)).trans ((clocks .boot (by decide)).trans (edges .boot (by decide)))
  have ent : v.ent = s.ent := (work .ent (by decide)).trans ((clocks .ent (by decide)).trans (edges .ent (by decide)))
  have now : v.clk.wall = s.clk.wall + 1 := by
    rw [show v.clk = u.clk from work .clk (by decide), wall, show s.endEdgeCycle.clk = s.clk from edges .clk (by decide)]
  have done : v.startDone = true := by
    rw [State.startDone, boot, start, now, ent]
    rcases ready with seeded | fatal
    · simp [due, seeded]
    · simp [due, fatal]
  obtain ⟨y, -, ends⟩ := startDone_some done
  obtain ⟨published, ended, -, -, -⟩ := publish_spec v y
  rw [← ends] at published ended
  have later : v.endStart.BootKeeps (v.endStart.storeCycle.wakeCycle) := (bootKeeps_storeCycle _).trans (bootKeeps_wakeCycle _)
  have module : s.endEdgeCycle.advanceClocks.1.moduleCycle = v.endStart.storeCycle.wakeCycle := by rw [eu, State.moduleCycle, ev]
  have parts : s.cycle.boot = v.endStart.storeCycle.wakeCycle.boot := by
    rw [← module]
    exact (within_cycle_parts s).touches .boot (by decide)
  rw [parts]
  exact ⟨later.published.trans published, later.start.trans ended⟩

/-! ## A host port's reset (R294, R317) -/

/-- One pair of a port disabled, with what it owes dropped. -/
def State.dropPair (p : Port) (t : State) (r : Nat) : State :=
  ((t.setRf (Reg.hstSq p.num r) 5 5 0).setRf (Reg.hstCq p.num r) 5 5 0).updRing p r (fun x => { x with
    owed := [], irqs := 0, irqSince := none })

/-- A pair is disabled and owes nothing. -/
def State.PairDropped (t : State) (p : Port) (r : Nat) : Prop :=
  bit (t.reg (Reg.hstSq p.num r)) 5 = false ∧ (t.ringPair p r).owed = [] ∧ (t.ringPair p r).irqs = 0

theorem sq_apart (p : Port) {k r : Nat} (other : k ≠ r) : Reg.hstSq p.num k ∉ [Reg.hstSq p.num r, Reg.hstCq p.num r] := by
  simp only [List.mem_cons, List.not_mem_nil, or_false, not_or, Reg.hstSq, Reg.hstCq]
  exact ⟨by omega, by omega⟩

theorem dropPair_spec (t : State) (p : Port) (r : Nat) : (t.dropPair p r).PairDropped p r ∧
    (∀ k, k ≠ r → t.PairDropped p k → (t.dropPair p r).PairDropped p k) ∧
    Frame [.regs, .rings] [Reg.hstSq p.num r, Reg.hstCq p.num r] t (t.dropPair p r) := by
  unfold State.dropPair
  have first := frame_setRf t (Reg.hstSq p.num r) 5 5 0
  have off := bit_setRf_self t (Reg.hstSq p.num r) 0 (show 5 < 64 by decide)
  obtain ⟨u, eu⟩ : ∃ u, t.setRf (Reg.hstSq p.num r) 5 5 0 = u := ⟨_, rfl⟩
  rw [eu] at first off ⊢
  have second := frame_setRf u (Reg.hstCq p.num r) 5 5 0
  obtain ⟨v, ev⟩ : ∃ v, u.setRf (Reg.hstCq p.num r) 5 5 0 = v := ⟨_, rfl⟩
  rw [ev] at second ⊢
  have set : Frame [.regs, .rings] [Reg.hstSq p.num r, Reg.hstCq p.num r] t v :=
    (second.mono (ps := [.regs, .rings]) (own := by simp)).comp (first.mono (own := by simp))
  have ringed : OnlyTouches [.rings] v (v.updRing p r (fun x => { x with owed := [], irqs := 0, irqSince := none })) :=
    (within_updRing ..).touches
  have regs (o : Nat) : (v.updRing p r (fun x => { x with owed := [], irqs := 0, irqSince := none })).reg o = v.reg o := rfl
  refine ⟨⟨?_, ?_, ?_⟩, fun k other dropped => ?_, ((Frame.of_touches ringed).mono (ps := [.regs, .rings])
    (rs := [Reg.hstSq p.num r, Reg.hstCq p.num r])).comp set⟩
  · rw [regs, second.reg (by simp [Reg.hstSq, Reg.hstCq]), off]
    rfl
  · rw [ringPair_updRing_self]
  · rw [ringPair_updRing_self]
  · obtain ⟨down, owed, irqs⟩ := dropped
    have same : (v.updRing p r (fun x => { x with owed := [], irqs := 0, irqSince := none })).ringPair p k = t.ringPair p k := by
      refine Eq.trans (Table.look_put_other _ _ _ (by omega)) ?_
      rw [State.ringPair, show v.rings = t.rings from
        (second.pieces .rings (by decide)).trans (first.pieces .rings (by decide))]
    refine ⟨?_, by rw [same, owed], by rw [same, irqs]⟩
    rw [regs, set.reg (sq_apart p other), down]

/-- The pairs of a port disabled one after another. -/
theorem dropPairs_spec (s : State) (p : Port) (n : Nat) :
    (∀ r, r < n → ((List.range n).foldl (State.dropPair p) s).PairDropped p r) ∧
    ((List.range n).foldl (State.dropPair p) s).reg (Reg.hstPortstat p.num) = s.reg (Reg.hstPortstat p.num) ∧
    OnlyTouches [.regs, .rings] s ((List.range n).foldl (State.dropPair p) s) := by
  induction n with
  | zero => exact ⟨fun r h => absurd h (Nat.not_lt_zero r), rfl, .refl _ _⟩
  | succ n ih =>
    obtain ⟨dropped, stat, pieces⟩ := ih
    rw [List.range_succ, List.foldl_append, List.foldl_cons, List.foldl_nil]
    obtain ⟨u, eu⟩ : ∃ u, (List.range n).foldl (State.dropPair p) s = u := ⟨_, rfl⟩
    rw [eu] at dropped stat pieces ⊢
    obtain ⟨own, others, frame⟩ := dropPair_spec u p n
    refine ⟨fun r less => ?_, (frame.reg ?_).trans stat, pieces.trans frame.pieces⟩
    · by_cases last : r = n
      · exact last ▸ own
      · exact others r last (dropped r (by omega))
    · have port : p.num < 2 := by cases p <;> decide
      simp only [List.mem_cons, List.not_mem_nil, or_false, not_or, Reg.hstPortstat, Reg.hstSq, Reg.hstCq]
      exact ⟨by omega, by omega⟩

theorem pairOff_of_dropped {t : State} {p : Port} {r : Nat} (h : t.PairDropped p r) : t.pairOn p r = false := by
  rw [State.pairOn, h.1, Bool.false_and]

/-- A lease of a port whose link is down is lost without an interrupt. -/
theorem loseLease_down {s : State} {p : Port} (down : s.rf (Reg.hstPortstat p.num) 0 0 = 0) {n : Nat}
    (own : (s.sem n).owner = p.num + 1) : s.loseLease n = s.lapse n := by
  rw [loseLease_port s n p own, State.interrupt, if_pos]
  rw [rf_lapse_other _ _ (by cases p <;> decide), down]
  decide

/-- One semaphore freed where the port held it. -/
def State.dropLease (p : Port) (t : State) (n : Nat) : State := if (t.sem n).owner = p.num + 1 then t.loseLease n else t

theorem dropLeases_spec {s : State} {p : Port} (down : s.rf (Reg.hstPortstat p.num) 0 0 = 0) (n : Nat) :
    (∀ k, k < n → (s.sem k).owner = p.num + 1 → (((List.range n).foldl (State.dropLease p) s).sem k).owner = 0 ∧
      (((List.range n).foldl (State.dropLease p) s).sem k).leaseEnd = none) ∧
    (∀ k, k < n → (s.sem k).owner ≠ p.num + 1 → ((List.range n).foldl (State.dropLease p) s).sem k = s.sem k) ∧
    (∀ k, n ≤ k → ((List.range n).foldl (State.dropLease p) s).sem k = s.sem k) ∧
    Frame [.regs, .sems] [Reg.semStat] s ((List.range n).foldl (State.dropLease p) s) := by
  induction n with
  | zero => exact ⟨fun k h => absurd h (Nat.not_lt_zero k), fun k h => absurd h (Nat.not_lt_zero k), fun _ _ => rfl, .refl ..⟩
  | succ n ih =>
    obtain ⟨freed, kept, later, frame⟩ := ih
    rw [List.range_succ, List.foldl_append, List.foldl_cons, List.foldl_nil]
    obtain ⟨u, eu⟩ : ∃ u, (List.range n).foldl (State.dropLease p) s = u := ⟨_, rfl⟩
    rw [eu] at freed kept later frame ⊢
    have here : u.sem n = s.sem n := later n (Nat.le_refl n)
    have down' : u.rf (Reg.hstPortstat p.num) 0 0 = 0 := (frame.rf (by cases p <;> decide) _ _).trans down
    unfold State.dropLease
    by_cases own : (u.sem n).owner = p.num + 1
    · rw [if_pos own]
      obtain ⟨sem, others, -, -⟩ := loseLease_spec u n
      have lapsed : Frame [.regs, .sems] [Reg.semStat] u (u.loseLease n) := by
        rw [loseLease_down down' own]
        exact (frame_count ..).mono.comp ((Frame.of_touches (touches_setSem u n _)).mono)
      refine ⟨fun k less held => ?_, fun k less free => ?_, fun k high => (others k (by omega)).trans (later k (by omega)),
        lapsed.comp frame⟩
      · by_cases last : k = n
        · rw [last, sem]
          exact ⟨rfl, rfl⟩
        · rw [others k last]
          exact freed k (by omega) held
      · have away : k ≠ n := fun h => free (h ▸ here ▸ own)
        rw [others k away]
        exact kept k (by omega) free
    · rw [if_neg own]
      refine ⟨fun k less held => ?_, fun k less free => ?_, fun k high => later k (by omega), frame⟩
      · have away : k ≠ n := fun h => own (here ▸ h ▸ held)
        exact freed k (by omega) held
      · by_cases last : k = n
        · exact last ▸ here
        · exact kept k (by omega) free

/-- A host port's reset (R294): its link is down, its pairs are off and owe nothing, and its semaphores are free. -/
theorem resetPort_spec (s : State) (p : Port) :
    (s.resetPort p).rf (Reg.hstPortstat p.num) 8 0 = 0 ∧
    (∀ r, r < 97 → (s.resetPort p).pairOn p r = false ∧ ((s.resetPort p).ringPair p r).owed = [] ∧
      ((s.resetPort p).ringPair p r).irqs = 0) ∧
    (s.resetPort p).descs = orphanDescs p s.descs ∧
    (∀ n, n < 64 → (s.sem n).owner = p.num + 1 → ((s.resetPort p).sem n).owner = 0 ∧ ((s.resetPort p).sem n).leaseEnd = none) ∧
    (∀ n, n < 64 → (s.sem n).owner ≠ p.num + 1 → (s.resetPort p).sem n = s.sem n) ∧
    OnlyTouches [.regs, .rings, .descs, .sems] s (s.resetPort p) := by
  have port : p.num < 2 := by cases p <;> decide
  have linked := frame_setRf s (Reg.hstPortstat p.num) 8 0 0
  have down := rf_setRf_self s (Reg.hstPortstat p.num) (hi := 8) (lo := 0) 0 (by decide) (by decide)
  obtain ⟨a, ea⟩ : ∃ a, s.setRf (Reg.hstPortstat p.num) 8 0 0 = a := ⟨_, rfl⟩
  rw [ea] at linked down
  obtain ⟨dropped, stat, ringed⟩ := dropPairs_spec a p 97
  obtain ⟨b, eb⟩ : ∃ b, (List.range 97).foldl (State.dropPair p) a = b := ⟨_, rfl⟩
  rw [eb] at dropped stat ringed
  obtain ⟨c, ec⟩ : ∃ c : State, { b with descs := orphanDescs p b.descs } = c := ⟨_, rfl⟩
  have orphaned : OnlyTouches [.descs] b c := ec ▸ (within_descs (s := b) _).touches
  have descs : c.descs = orphanDescs p b.descs := by rw [← ec]
  have before : OnlyTouches [.regs, .rings, .descs] s c :=
    (linked.pieces.mono (by decide)).trans ((ringed.mono (by decide)).trans (orphaned.mono (by decide)))
  have sems (n : Nat) : c.sem n = s.sem n := by rw [State.sem, show c.sems = s.sems from before .sems (by decide), State.sem]
  have regs (o : Nat) : c.reg o = b.reg o := State.reg_of_regs (orphaned .regs (by decide)).1 o
  have down' : c.rf (Reg.hstPortstat p.num) 8 0 = 0 := (rf_of_reg ((regs _).trans stat) 8 0).trans down
  have quiet : c.rf (Reg.hstPortstat p.num) 0 0 = 0 := by
    unfold State.rf at down' ⊢
    simp only [fld, bitsN] at down' ⊢
    omega
  obtain ⟨freed, kept, -, leased⟩ := dropLeases_spec quiet 64
  have run : s.resetPort p = (List.range 64).foldl (State.dropLease p) c := by
    rw [← ec, ← eb, ← ea]
    rfl
  rw [← run] at freed kept leased
  refine ⟨(leased.rf (by cases p <;> decide) _ _).trans down', fun r less => ?_, ?_, fun n less own => ?_, fun n less other => ?_,
    (before.mono (by decide)).trans (leased.pieces.mono (by decide))⟩
  · obtain ⟨off, owed, irqs⟩ := dropped r less
    have rings : (s.resetPort p).rings = b.rings := (leased.pieces .rings (by decide)).trans (orphaned .rings (by decide))
    have pair : (s.resetPort p).ringPair p r = b.ringPair p r := by rw [State.ringPair, rings, State.ringPair]
    have sq : (s.resetPort p).reg (Reg.hstSq p.num r) = b.reg (Reg.hstSq p.num r) :=
      (leased.reg (by simp only [List.mem_singleton, Reg.hstSq, Reg.semStat]; omega)).trans (regs _)
    refine ⟨pairOff_of_dropped ⟨by rw [sq, off], by rw [pair, owed], by rw [pair, irqs]⟩, by rw [pair, owed], by rw [pair, irqs]⟩
  · rw [leased.pieces .descs (by decide), descs, ringed .descs (by decide), linked.pieces .descs (by decide)]
  · exact freed n less ((sems n).symm ▸ own)
  · exact (kept n less (by rw [sems n]; exact other)).trans (sems n)

/-! ## A host link and the supplies (R292, R381, R436) -/

theorem hostLinkUp_waits {s : State} {p : Port} {gen : BitVec 3} {width : BitVec 5}
    (waits : (s.boot.inReset = true ∧ s.boot.bootRom = false) ∨ p.num ∉ s.boot.hostPorts ∨ gen.toNat < 4 ∨ 6 < gen.toNat ∨
      width.toNat ∉ [4, 8, 16]) : exec (.hostLinkUp p gen width) s = .next s := by
  refine congrArg Host.Outcome.next (if_pos ?_)
  rcases waits with ⟨reset, rom⟩ | unusable | slow | fast | odd
  · exact .inl ⟨reset, by simp [rom]⟩
  · exact .inr (.inl (by simp [unusable]))
  · exact .inr (.inr (.inl slow))
  · exact .inr (.inr (.inr (.inl fast)))
  · exact .inr (.inr (.inr (.inr odd)))

theorem hostLinkUp_trains {s : State} {p : Port} {gen : BitVec 3} {width : BitVec 5}
    (on : s.boot.inReset = false ∨ s.boot.bootRom = true) (usable : p.num ∈ s.boot.hostPorts) (slow : 4 ≤ gen.toNat)
    (fast : gen.toNat ≤ 6) (lanes : width.toNat ∈ [4, 8, 16]) :
    ∃ t, exec (.hostLinkUp p gen width) s = .next t ∧ t.rf (Reg.hstPortstat p.num) 0 0 = 1 ∧
      t.rf (Reg.hstPortstat p.num) 3 1 = gen.toNat ∧ t.rf (Reg.hstPortstat p.num) 8 4 = width.toNat ∧
      KeepsRegs [Reg.hstPortstat p.num] s t ∧ OnlyTouches [.regs] s t := by
  obtain ⟨o, eo⟩ : ∃ o, Reg.hstPortstat p.num = o := ⟨_, rfl⟩
  have run : exec (.hostLinkUp p gen width) s = .next (((s.setRf o 0 0 1).setRf o 3 1 gen.toNat).setRf o 8 4 width.toNat) := by
    rw [← eo]
    refine congrArg Host.Outcome.next (if_neg ?_)
    rintro (⟨reset, rom⟩ | unusable | low | high | odd)
    · rcases on with off | on
      · simp [off] at reset
      · simp [on] at rom
    · simp [usable] at unusable
    · omega
    · omega
    · exact odd lanes
  rw [eo]
  have first := frame_setRf s o 0 0 1
  have up := rf_setRf_bit s o 1 (show 0 < 64 by decide)
  obtain ⟨a, ea⟩ : ∃ a, s.setRf o 0 0 1 = a := ⟨_, rfl⟩
  rw [ea] at run first up
  have second := frame_setRf a o 3 1 gen.toNat
  have up' := rf_setRf_apart a o (hi := 3) (lo := 1) (h2 := 0) (l2 := 0) gen.toNat (by decide) (by decide) (.inr (by decide))
  have rate := rf_setRf_self a o (hi := 3) (lo := 1) gen.toNat (by decide) (by decide)
  obtain ⟨b, eb⟩ : ∃ b, a.setRf o 3 1 gen.toNat = b := ⟨_, rfl⟩
  rw [eb] at run second up' rate
  have third := frame_setRf b o 8 4 width.toNat
  have up'' := rf_setRf_apart b o (hi := 8) (lo := 4) (h2 := 0) (l2 := 0) width.toNat (by decide) (by decide) (.inr (by decide))
  have rate' := rf_setRf_apart b o (hi := 8) (lo := 4) (h2 := 3) (l2 := 1) width.toNat (by decide) (by decide) (.inr (by decide))
  have wide := rf_setRf_self b o (hi := 8) (lo := 4) width.toNat (by decide) (by decide)
  have all := third.comp (second.comp first)
  exact ⟨_, run, by rw [up'', up', up], by rw [rate', rate]; exact Nat.mod_eq_of_lt gen.isLt,
    by rw [wide]; exact Nat.mod_eq_of_lt width.isLt, all.regs, all.pieces⟩

/-- A sag cuts a flash write in progress after its page. -/
theorem supplySag_spec (s : State) :
    ∃ u, exec .supplySag s = .next { u with boot := { s.boot with sag := true } } ∧ u = s.cutWrite := by
  refine ⟨s.cutWrite, ?_, rfl⟩
  have boot : s.cutWrite.boot = s.boot := (cutWrite_spec s).1.pieces .boot (by decide)
  rw [← boot]
  rfl

theorem endsAs_boot {c : MgtCmd} {cs : List MgtCmd} {status result : Nat} {data : List Byte} {s t : State} (b : Boot)
    (h : EndsAs c cs status result data s t) : EndsAs c cs status result data s { t with boot := b } := h

/-- Settles O49: a release of reset by its conditions and the slot found, the end of a start within its cycle, and the pins. -/
theorem startsPublish : Obligations.StartsPublish := by
  intro s
  refine ⟨fun tests => moduleResetRelease_waits tests, fun tests reset supplies cool rom late => ?release, fun done => ?publish,
    fun x pending issue start due ready => ?cycle, fun on => congrArg Host.Outcome.next (if_pos on), fun low => ?rise,
    fun none => ?quiet, fun j job => ?cut, rfl, fun p => ⟨_, rfl, resetPort_spec s p⟩,
    fun p gen width => ⟨hostLinkUp_waits, hostLinkUp_trains⟩⟩
  case release =>
    obtain ⟨u, eu, starts, stays⟩ := moduleResetRelease_runs tests reset supplies cool rom late
    have boot : s.BootKeeps u := eu ▸ ⟨rfl, rfl, rfl, rfl, rfl⟩
    have ghs : u.mgt.wdtAt = s.clk.wall ∧ u.mgt.lastStart = s.mgt.lastStart := eu ▸ ⟨rfl, rfl⟩
    have first : OnlyTouches [.boot, .mgt] s u := fun q hq => by
      rw [eu]
      cases q <;> simp_all [Piece.same]
    have latched := frame_latchLast u
    obtain ⟨v, ev⟩ : ∃ v, u.latchLast = v := ⟨_, rfl⟩
    rw [ev] at starts stays latched
    have before : OnlyTouches [.regs, .boot, .mgt] s v := (first.mono (by decide)).trans (latched.mono (by decide))
    have mgt : v.mgt = u.mgt := latched .mgt (by decide)
    have kept : s.BootKeeps v := boot.trans (.of_boot (latched .boot (by decide)))
    have warm : v.warmStart (shake256_256 tests.fuseBits) = s.warmStart (shake256_256 tests.fuseBits) :=
      warmStart_of kept (before .flash (by decide)) _
    refine ⟨fun slot found => ?_, fun none => ?_⟩
    · obtain ⟨released, published, ⟨w, start, path⟩, cleared, held, count, running, wdt⟩ := bringUp_spec v tests slot
      refine ⟨_, starts slot found, released, published.trans kept.published, ⟨w, ?_, fun h => path (warm.trans h)⟩, fun cold => ?_,
        fun h => ?_, ?_, running, ?_, (before.mono (by decide)).trans (within_bringUp v tests slot).touches⟩
      · rw [start, before .clk (by decide)]
      · refine cleared (warm.trans ?_)
        rw [State.warmStart]
        rcases cold with lost | full
        · simp [lost]
        · simp [full]
      · obtain ⟨mem, err⟩ := held (warm.trans h)
        exact ⟨mem.trans (before .mem (by decide)), err.trans (before .dramErr (by decide))⟩
      · rw [count, mgt, ghs.2]
      · rw [wdt, mgt, ghs.1]
    · refine ⟨_, stays none, rfl, boot.inReset.trans reset, boot.published, boot.start, ?_, fun q hq => ?_⟩
      · exact (congrArg Gatehouse.wdtAt mgt).trans ghs.1
      · have same := before q (by simp_all)
        cases q <;> simp_all [Piece.same, State.setPorts]
  case publish =>
    obtain ⟨x, -, ends⟩ := startDone_some done
    obtain ⟨published, ended, quires, count, frame⟩ := publish_spec s x
    rw [ends]
    exact ⟨published, ended, quires, count, frame.regs, frame.pieces⟩
  case cycle =>
    obtain ⟨published, ended⟩ := cycle_publishes start due ready
    refine ⟨s.cycle, ?_, published, ended⟩
    rw [step, pending, State.idle, issue]
    rfl
  case rise => exact congrArg Host.Outcome.next (if_neg (by simp [low]))
  case quiet =>
    obtain ⟨u, run, cut⟩ := supplySag_spec s
    rw [run, cut, (cutWrite_spec s).2.2.2.2.1 none]
  case cut =>
    obtain ⟨u, run, cut⟩ := supplySag_spec s
    obtain ⟨frame, free, ⟨out, mgt⟩, flash, -, ends⟩ := cutWrite_spec s
    rw [← cut] at frame free mgt flash ends
    obtain ⟨shown, busy, answers⟩ := ends j job
    refine ⟨_, run, rfl, free, flash.trans ((stopWrite_spec s).2.2.2 j job), shown, busy,
      fun c cmd => endsAs_boot _ (answers c cmd), (show u.mgt.queue = s.mgt.queue by rw [mgt]), frame.regs,
      (frame.pieces.mono (by decide)).trans ((within_boot (s := u) _).touches.mono (by decide))⟩

end Sys2Proof.Machine
end

section
/-! PROOFS. Mailbox commands that write. -/

namespace Sys2Proof.Machine

open Sys2Proof

-- One theorem after another: many at once would need too many threads.
set_option Elab.async false

/-! ## A command that works and then ends -/

/-- A command ends after its work: the queue behind it and the answers sent are as they were, and so are the ports. -/
theorem AtHead.worksOn {s u : State} {op : Nat} {c : MgtCmd} {cs : List MgtCmd} (h : AtHead s op c cs)
    {f : MgtCmd → State → State} {status result : Nat} {data : List Byte} {ps : List Piece} {rs : List Nat}
    (runs : f c s.popCmd = u.endCmd c status result data) (work : Frame ps rs s u) (queue : u.mgt.queue = cs)
    (eth : u.mgt.ethOut = s.mgt.ethOut) (pieces : .msix ∉ ps ∧ .msixTable ∉ ps ∧ .boot ∉ ps := by decide)
    (apart : Reg.hstPortstat 0 ∉ rs ∧ Reg.hstPortstat 1 ∉ rs := by decide) (small : status < 256 := by decide) :
    EndsAs c cs status result data s (s.serve op f) ∧ Frame [.regs, .mgt, .msix] mailRegs u (s.serve op f) ∧
      ∃ out, (s.serve op f).mgt = { u.mgt with ethOut := out } := by
  obtain ⟨noMsix, noTable, noBoot⟩ := pieces
  obtain ⟨ends, ⟨out, mgt⟩, frame⟩ := endCmd_spec u c status result data small
  have boot : (u.endCmd c status result data).boot = s.boot := (frame.pieces .boot (by decide)).trans (work.pieces .boot noBoot)
  rw [h.serve_ends runs (by rw [mgt]; exact queue) (by rw [boot])]
  rw [queue] at ends
  exact ⟨ends.before (fun p => work.reg (portstat_not_mem apart p)) (work.pieces .msix noMsix).1 (work.pieces .msixTable noTable) eth,
    frame, out, mgt⟩

/-- A command whose work leaves the Gatehouse's queue and its ports alone ends after it. -/
theorem AtHead.works {s u : State} {op : Nat} {c : MgtCmd} {cs : List MgtCmd} (h : AtHead s op c cs)
    {f : MgtCmd → State → State} {status result : Nat} {data : List Byte} {ps : List Piece} {rs : List Nat}
    (runs : f c s.popCmd = u.endCmd c status result data) (work : Frame ps rs s.popCmd u)
    (pieces : .msix ∉ ps ∧ .msixTable ∉ ps ∧ .mgt ∉ ps ∧ .boot ∉ ps := by decide)
    (apart : Reg.hstPortstat 0 ∉ rs ∧ Reg.hstPortstat 1 ∉ rs := by decide) (small : status < 256 := by decide) :
    EndsAs c cs status result data s (s.serve op f) ∧ Frame [.regs, .mgt, .msix] mailRegs u (s.serve op f) ∧
      Frame (.mgt :: ps) rs s u := by
  obtain ⟨noMsix, noTable, noMgt, noBoot⟩ := pieces
  have pop : Frame [.mgt] [] s s.popCmd := .of_within (within_popCmd s)
  have mgt : u.mgt = { s.mgt with queue := cs } := by rw [show u.mgt = s.popCmd.mgt from work.pieces .mgt noMgt, h.popped]
  have all : Frame (.mgt :: ps) rs s u := (work.mono (by simp) (by simp)).comp (pop.mono (by simp) (by simp))
  obtain ⟨ends, frame, -⟩ := h.worksOn runs all (by rw [mgt]) (by rw [mgt]) (by simp [noMsix, noTable, noBoot]) apart small
  exact ⟨ends, frame, all⟩

theorem reg_popCmd (s : State) (o : Nat) : s.popCmd.reg o = s.reg o := rfl

/-! ## Regions of the edge buffers (R162, R163) -/

/-- REGION_ALLOC's work: its checks, the entry found and the region set. -/
def regionAllocWork (c : MgtCmd) (s : State) : State :=
  let a := c.arg 0
  let b := bitsN a 7 0
  let first := bitsN a 15 8
  let blocks := bitsN a 23 16
  let use := bitsN a 31 24
  if 3 < b ∨ use < 3 ∨ 5 < use ∨ 255 < first + blocks then s.endCmd c stBad 0 []
  else
    match s.allocAt 128 b first blocks 127 use with
    | some (s, k) => s.endCmd c stDone k []
    | none => s.endCmd c stConflict 0 []

theorem exec_regionAlloc (s : State) : exec .regionAlloc s = .next (s.serve 3 regionAllocWork) := rfl

theorem regionAlloc_bad {s : State} {c : MgtCmd} {b first blocks use : Nat} (eb : b = bitsN (c.arg 0) 7 0)
    (ef : first = bitsN (c.arg 0) 15 8) (en : blocks = bitsN (c.arg 0) 23 16) (eu : use = bitsN (c.arg 0) 31 24)
    (bad : 3 < b ∨ use < 3 ∨ 5 < use ∨ 255 < first + blocks) : regionAllocWork c s = s.endCmd c stBad 0 [] := by
  subst eb ef en eu
  exact if_pos bad

theorem regionAlloc_good {s : State} {c : MgtCmd} {b first blocks use : Nat} (eb : b = bitsN (c.arg 0) 7 0)
    (ef : first = bitsN (c.arg 0) 15 8) (en : blocks = bitsN (c.arg 0) 23 16) (eu : use = bitsN (c.arg 0) 31 24)
    (good : ¬ (3 < b ∨ use < 3 ∨ 5 < use ∨ 255 < first + blocks)) : regionAllocWork c s =
      match s.allocAt 128 b first blocks 127 use with
      | some (s, k) => s.endCmd c stDone k []
      | none => s.endCmd c stConflict 0 [] := by
  subst eb ef en eu
  exact if_neg good

theorem allocAt_some {s : State} {old b first blocks owner use k : Nat} (free : s.blocksFree old b first blocks = true)
    (entry : s.freeEntry old b = some k) : s.allocAt old b first blocks owner use =
      some (s.setReg (Reg.arrEbregion (b * 32 + k)) (regionWord first blocks owner use), k) := by
  rw [State.allocAt, if_pos free, entry]
  rfl

theorem allocAt_none {s : State} {old b first blocks owner use : Nat}
    (full : s.blocksFree old b first blocks = false ∨ s.freeEntry old b = none) : s.allocAt old b first blocks owner use = none := by
  rw [State.allocAt]
  split
  next free =>
    rw [full.resolve_left (by simp [free])]
    rfl
  next => rfl

theorem freeEntry_lt {s : State} {old b k : Nat} (entry : s.freeEntry old b = some k) : k < 32 :=
  List.mem_range.mp (List.mem_of_find?_eq_some entry)

theorem region_apart {i : Nat} (real : i < 128) :
    (Reg.hstPortstat 0 ∉ [Reg.arrEbregion i] ∧ Reg.hstPortstat 1 ∉ [Reg.arrEbregion i]) ∧ Reg.arrEbregion i ∉ mailRegs := by
  simp only [List.mem_singleton, mailRegs, List.mem_cons, List.not_mem_nil, or_false, not_or, Reg.hstPortstat, Reg.arrEbregion,
    Reg.mgtStatus]
  omega

/-- A region written or freed by a command at the head of the queue. -/
theorem AtHead.setsRegion {s : State} {op : Nat} {c : MgtCmd} {cs : List MgtCmd} (h : AtHead s op c cs)
    {f : MgtCmd → State → State} {b k result : Nat} {v : U64} (buffer : b ≤ 3) (entry : k < 32)
    (runs : f c s.popCmd = (s.popCmd.setReg (Reg.arrEbregion (b * 32 + k)) v).endCmd c stDone result []) :
    EndsAs c cs stDone result [] s (s.serve op f) ∧ (s.serve op f).regionReg b k = v ∧
      KeepsRegs (Reg.arrEbregion (b * 32 + k) :: mailRegs) s (s.serve op f) ∧
      OnlyTouches [.regs, .mgt, .msix] s (s.serve op f) := by
  obtain ⟨apart, free⟩ := region_apart (show b * 32 + k < 128 by omega)
  obtain ⟨ends, frame, work⟩ := h.works runs (frame_setReg ..) (apart := apart)
  refine ⟨ends, (frame.reg free).trans (State.reg_setReg_self ..), ?_, (work.pieces.mono (by decide)).trans frame.pieces⟩
  exact ((frame.mono (ps := [.regs, .mgt, .msix]) (rs := Reg.arrEbregion (b * 32 + k) :: mailRegs) (own := by simp)).comp
    (work.mono (by decide) (by simp))).regs

/-- REGION_FREE's work. -/
def regionFreeWork (c : MgtCmd) (s : State) : State :=
  let b := bitsN (c.arg 0) 7 0
  let k := bitsN (c.arg 0) 15 8
  if 3 < b ∨ 31 < k then s.endCmd c stBad 0 []
  else
    let v := s.regionReg b k
    if !bit v 31 then s.endCmd c stDone 0 []
    else if fld v 22 16 < 96 then s.endCmd c stRefused 0 []
    else if s.stagingBusy (fld v 27 24) then s.endCmd c stConflict 0 []
    else (s.freeAt b k).endCmd c stDone 1 []

theorem exec_regionFree (s : State) : exec .regionFree s = .next (s.serve 4 regionFreeWork) := rfl

theorem regionFree_ends {s : State} {c : MgtCmd} {b k st r : Nat} (eb : b = bitsN (c.arg 0) 7 0) (ek : k = bitsN (c.arg 0) 15 8)
    (ends : ((3 < b ∨ 31 < k) ∧ st = stBad ∧ r = 0) ∨
      (b ≤ 3 ∧ k ≤ 31 ∧ bit (s.regionReg b k) 31 = false ∧ st = stDone ∧ r = 0) ∨
      (b ≤ 3 ∧ k ≤ 31 ∧ bit (s.regionReg b k) 31 = true ∧ fld (s.regionReg b k) 22 16 < 96 ∧ st = stRefused ∧ r = 0) ∨
      (b ≤ 3 ∧ k ≤ 31 ∧ bit (s.regionReg b k) 31 = true ∧ 96 ≤ fld (s.regionReg b k) 22 16 ∧
        s.stagingBusy (fld (s.regionReg b k) 27 24) = true ∧ st = stConflict ∧ r = 0)) :
    regionFreeWork c s = s.endCmd c st r [] ∧ st < 256 := by
  subst eb ek
  unfold regionFreeWork
  dsimp only
  rcases ends with ⟨bad, rfl, rfl⟩ | ⟨hb, hk, off, rfl, rfl⟩ | ⟨hb, hk, on, owned, rfl, rfl⟩ | ⟨hb, hk, on, own, busy, rfl, rfl⟩
  · exact ⟨if_pos bad, by decide⟩
  · rw [if_neg (by omega), if_pos (by simp [off])]
    exact ⟨rfl, by decide⟩
  · rw [if_neg (by omega), if_neg (by simp [on]), if_pos owned]
    exact ⟨rfl, by decide⟩
  · rw [if_neg (by omega), if_neg (by simp [on]), if_neg (by omega), if_pos busy]
    exact ⟨rfl, by decide⟩

theorem regionFree_frees {s : State} {c : MgtCmd} {b k : Nat} (eb : b = bitsN (c.arg 0) 7 0) (ek : k = bitsN (c.arg 0) 15 8)
    (hb : b ≤ 3) (hk : k ≤ 31) (on : bit (s.regionReg b k) 31 = true) (own : 96 ≤ fld (s.regionReg b k) 22 16)
    (idle : s.stagingBusy (fld (s.regionReg b k) 27 24) = false) :
    regionFreeWork c s = (s.setReg (Reg.arrEbregion (b * 32 + k)) 0).endCmd c stDone 1 [] := by
  subst eb ek
  unfold regionFreeWork
  dsimp only
  rw [if_neg (by omega), if_neg (by simp [on]), if_neg (by omega), if_neg (by simp [idle])]
  rfl

/-! ## A quire's reset (R324) -/

/-- What a core reset leaves alone of the others: a core already reset stays so, and no partition loses a mark or moves its reset. -/
structure State.Restarts (s t : State) : Prop where
  core : ∀ m, (s.core m).live = {} ∧ (s.core m).absorb = true → (t.core m).live = {} ∧ (t.core m).absorb = true
  part : ∀ q, (t.part q).resetAt = (s.part q).resetAt ∧ ((s.part q).faulted = true → (t.part q).faulted = true) ∧
    ((s.part q).stopLine = true → (t.part q).stopLine = true)
  clk  : t.clk = s.clk

theorem State.Restarts.trans {s t u : State} (h : s.Restarts t) (k : t.Restarts u) : s.Restarts u where
  core m reset := k.core m (h.core m reset)
  part q := by
    obtain ⟨at1, fault1, stop1⟩ := h.part q
    obtain ⟨at2, fault2, stop2⟩ := k.part q
    exact ⟨at2.trans at1, fault2 ∘ fault1, stop2 ∘ stop1⟩
  clk := k.clk.trans h.clk

/-- The end of a core's tick leaves every other core but for words that arrive, and every partition but for its barrier and its
words to the array's edge. -/
theorem endTick_others (s : State) (n t : Nat) :
    (∀ m, m ≠ n → ∃ a, (s.endTick n t).core m = { s.core m with arriving := a }) ∧
    ∀ q, ∃ b e, (s.endTick n t).part q = { s.part q with barrier := b, edgeOut := e } := by
  have flushed := touches_flushed s n
  have arrived : ∃ u, OnlyTouches [.parts] (s.flushed n) u ∧ (∀ q, ∃ b, u.part q = { (s.flushed n).part q with barrier := b }) ∧
      u = (match (s.core n).arrival with | some (sweepEnd, hall) => (s.flushed n).arrive n sweepEnd hall | none => s.flushed n) := by
    refine ⟨_, ?_, ?_, rfl⟩
    · split
      · exact (within_arrive ..).touches
      · exact .refl _ _
    · intro q
      split
      next sweepEnd hall _ =>
        unfold State.arrive
        split
        next p _ =>
          rw [State.part_updPart]
          split
          next own =>
            rw [own]
            exact ⟨_, rfl⟩
          next => exact ⟨_, rfl⟩
        next => exact ⟨_, rfl⟩
      next => exact ⟨_, rfl⟩
  obtain ⟨u, touched, parts, eu⟩ := arrived
  have sent := sendsOnly_outbox u n (s.core n).outbox
  have run : ∃ f, s.endTick n t = ((s.core n).outbox.foldl (fun u e => u.sendWord n e.1 e.2) u).updCore n f := by
    rw [eu]
    unfold State.endTick
    exact ⟨_, rfl⟩
  obtain ⟨f, run⟩ := run
  rw [run]
  refine ⟨fun m other => ?_, fun q => ?_⟩
  · obtain ⟨a, core⟩ := sent.core m
    refine ⟨a, ?_⟩
    rw [State.core_updCore_other _ _ other, core, core_through touched, core_through flushed]
  · obtain ⟨e, part⟩ := sent.part q
    obtain ⟨b, barrier⟩ := parts q
    refine ⟨b, e, ?_⟩
    rw [part_through (touches_updCore _ _ _), part, barrier, part_through flushed]

theorem restarts_resetCore (s : State) (n : Nat) : s.Restarts (s.resetCore n) := by
  have clk : (s.resetCore n).clk = s.clk := (within_resetCore s n).touches .clk (by decide)
  refine ⟨fun m reset => ?_, fun q => ?_, clk⟩
  · unfold State.resetCore
    split
    · exact reset
    · extract_lets u
      have core : (u.core m).live = {} ∧ (u.core m).absorb = true := by
        by_cases own : m = n
        · have after : u.core n = ((s.endTick n (s.tickOf n)).core n).afterReset := State.core_updCore_self ..
          rw [own, after]
          exact ⟨rfl, rfl⟩
        · obtain ⟨a, core⟩ := (endTick_others s n (s.tickOf n)).1 m own
          rw [State.core_updCore_other _ _ own, core]
          exact reset
      clear_value u
      split
      · rw [core_through (touches_updPart _ _ _)]
        exact core
      · exact core
  · unfold State.resetCore
    split
    · exact ⟨rfl, id, id⟩
    · extract_lets u
      obtain ⟨b, e, part⟩ := (endTick_others s n (s.tickOf n)).2 q
      have kept : (u.part q).resetAt = (s.part q).resetAt ∧ (u.part q).faulted = (s.part q).faulted ∧
          (u.part q).stopLine = (s.part q).stopLine := by
        rw [part_through (touches_updCore _ _ _), part]
        exact ⟨rfl, rfl, rfl⟩
      obtain ⟨at_, fault, stop⟩ := kept
      clear_value u
      split
      next p _ =>
        rw [State.part_updPart]
        split
        next own =>
          rw [← own]
          exact ⟨at_, fun _ => rfl, fun _ => rfl⟩
        next => exact ⟨at_, fun h => fault.trans h, fun h => stop.trans h⟩
      next => exact ⟨at_, fun h => fault.trans h, fun h => stop.trans h⟩

theorem coreMerges_alone {s : State} (alone : ∀ q, (s.part q).resetAt ≠ some s.mc) (n : Nat) : s.coreMerges n = false := by
  unfold State.coreMerges
  split
  · simpa using alone _
  · rfl

/-- Cores of a list reset one after another while no partition's reset falls in the cycle. -/
theorem resetCores_all (l : List Nat) : ∀ s : State, (∀ q, (s.part q).resetAt ≠ some s.mc) →
    s.Restarts (l.foldl State.resetCore s) ∧
      ∀ n ∈ l, ((l.foldl State.resetCore s).core n).live = {} ∧ ((l.foldl State.resetCore s).core n).absorb = true := by
  induction l with
  | nil => exact fun s _ => ⟨⟨fun _ h => h, fun _ => ⟨rfl, id, id⟩, rfl⟩, fun n h => absurd h List.not_mem_nil⟩
  | cons n l ih =>
    intro s alone
    have first := restarts_resetCore s n
    have alone' : ∀ q, ((s.resetCore n).part q).resetAt ≠ some (s.resetCore n).mc := fun q => by
      rw [(first.part q).1, State.mc, first.clk]
      exact alone q
    obtain ⟨rest, all⟩ := ih (s.resetCore n) alone'
    refine ⟨first.trans rest, fun m mem => ?_⟩
    rcases List.mem_cons.mp mem with rfl | later
    · obtain ⟨c, core⟩ := (resetCore_spec (coreMerges_alone alone m)).1
      exact rest.core m (by rw [core]; exact ⟨rfl, rfl⟩)
    · exact all m later

theorem quireOf_quireCores {x n : Nat} (mem : n ∈ quireCores x) : quireOf n = x := by
  obtain ⟨i, hi, mem⟩ := List.mem_flatMap.mp mem
  obtain ⟨j, hj, rfl⟩ := List.mem_map.mp mem
  have := List.mem_range.mp hi
  have := List.mem_range.mp hj
  unfold quireOf
  omega

theorem quireCores_cons (x : Nat) : ∃ n l, quireCores x = n :: l := ⟨_, _, rfl⟩

/-- A quire's reset resets its cores, and marks the partition that holds it. -/
theorem resetQuire_spec {s : State} (alone : ∀ q, (s.part q).resetAt ≠ some s.mc) (x : Nat) :
    (∀ n ∈ quireCores x, ((s.resetQuire x).core n).live = {} ∧ ((s.resetQuire x).core n).absorb = true) ∧
    ∀ p, s.partOfQuire x = some p → ((s.resetQuire x).part p).faulted = true ∧ ((s.resetQuire x).part p).stopLine = true := by
  refine ⟨(resetCores_all (quireCores x) s alone).2, fun p held => ?_⟩
  obtain ⟨n, l, cores⟩ := quireCores_cons x
  have own : s.partOfCore n = some p := by
    rw [State.partOfCore, quireOf_quireCores (x := x) (by rw [cores]; exact List.mem_cons_self), held]
  obtain ⟨faulted, stopLine⟩ := (resetCore_spec (coreMerges_alone alone n)).2 p own
  have first := restarts_resetCore s n
  have alone' : ∀ q, ((s.resetCore n).part q).resetAt ≠ some (s.resetCore n).mc := fun q => by
    rw [(first.part q).1, State.mc, first.clk]
    exact alone q
  obtain ⟨-, fault, stop⟩ := (resetCores_all l (s.resetCore n) alone').1.part p
  rw [State.resetQuire, cores, List.foldl_cons]
  exact ⟨fault faulted, stop stopLine⟩

/-- A quire's reset merges into a reset of its partition in the same cycle (R326). -/
theorem resetQuire_merges {s : State} {x p : Nat} (held : s.partOfQuire x = some p) (merged : (s.part p).resetAt = some s.mc) :
    s.resetQuire x = s := by
  have merges (n : Nat) (mem : n ∈ quireCores x) : s.resetCore n = s := by
    refine if_pos ?_
    rw [State.coreMerges, State.partOfCore, quireOf_quireCores mem, held]
    simp [merged]
  have all (l : List Nat) (sub : ∀ n ∈ l, n ∈ quireCores x) : l.foldl State.resetCore s = s := by
    induction l with
    | nil => rfl
    | cons n l ih =>
      rw [List.foldl_cons, merges n (sub n List.mem_cons_self)]
      exact ih fun m mem => sub m (List.mem_cons_of_mem _ mem)
  exact all (quireCores x) fun _ h => h

/-- QUIRE_RESET's work. -/
def quireResetWork (c : MgtCmd) (s : State) : State :=
  let q := c.arg 0
  if 96 ≤ q then s.endCmd c stBad 0 []
  else
    match s.partOfQuire q with
    | some p => if s.mayOwn c.src.who p then (s.resetQuire q).endCmd c stDone 0 [] else s.endCmd c stRefused 0 []
    | none => (s.resetQuire q).endCmd c stDone 0 []

theorem exec_quireReset (s : State) : exec .quireReset s = .next (s.serve 2 quireResetWork) := rfl

theorem quireReset_refused {s : State} {c : MgtCmd} {p : Nat} (real : c.arg 0 < 96) (held : s.partOfQuire (c.arg 0) = some p)
    (other : s.mayOwn c.src.who p = false) : quireResetWork c s = s.endCmd c stRefused 0 [] := by
  unfold quireResetWork
  dsimp only
  rw [if_neg (by omega), held]
  exact if_neg (by simp [other])

theorem quireReset_runs {s : State} {c : MgtCmd} (real : c.arg 0 < 96)
    (may : ∀ p, s.partOfQuire (c.arg 0) = some p → s.mayOwn c.src.who p = true) :
    quireResetWork c s = (s.resetQuire (c.arg 0)).endCmd c stDone 0 [] := by
  unfold quireResetWork
  dsimp only
  rw [if_neg (by omega)]
  split
  next p held => exact if_pos (may p held)
  next => rfl

/-! ## Data of a command (R234, R380) -/

theorem withData_refused {s : State} {c : MgtCmd} {a n : Nat} (outside : s.staged c a n = false) (f : List Byte → State → State) :
    s.withData c a n f = s.endCmd c stBad 0 [] := if_pos (by simp [outside])

/-- A command's data: its own of the network, or read in LPDDR6 that has no error. -/
theorem withData_good {s : State} {c : MgtCmd} {a n : Nat} {bs : List Byte} (inside : s.staged c a n = true)
    (good : c.src.box.isNone = true ∨ s.dramErr = []) (eb : bs = (if c.src.box.isNone then c.bytes else s.rd a n))
    (f : List Byte → State → State) : s.withData c a n f = f bs s := by
  have data : s.cmdData c a n = (some bs, s) := by
    unfold State.cmdData
    by_cases net : c.src.box.isNone = true
    · rw [if_pos net, eb, if_pos net]
    · have clean := good.resolve_left net
      rw [if_neg net, eb, if_neg net]
      dsimp only
      rw [dramRead_good clean, dramUe_none clean, if_neg (by simp)]
  rw [State.withData, if_neg (by simp [inside]), data]

/-- A command's data with an access that cannot be corrected. -/
theorem withData_faulted {s : State} {c : MgtCmd} {a n : Nat} (box : c.src.box.isSome = true) (inside : s.staged c a n = true)
    (bad : (s.dramUe a n).isSome = true) (f : List Byte → State → State) :
    s.withData c a n f = (s.dramRead 127 a n).endCmd c stFaulted 0 [] := by
  have data : s.cmdData c a n = (none, s.dramRead 127 a n) := by
    unfold State.cmdData
    rw [if_neg (by rw [Option.isNone_iff_eq_none]; exact fun none => by simp [none] at box)]
    exact if_pos bad
  rw [State.withData, if_neg (by simp [inside]), data]

/-! ## A flash write begins (R380, R381, R389) -/

theorem look_flashErase (s : State) (a n k : Nat) : Table.look blankByte (s.flashErase a n).flash k =
    if a ≤ k ∧ k < a + n then 0xFF else Table.look blankByte s.flash k := by
  refine (Table.look_filter blankByte (fun k => !(decide (a ≤ k ∧ k < a + n))) s.flash k).trans ?_
  by_cases inside : a ≤ k ∧ k < a + n
  · rw [if_pos inside, if_neg (by simp [inside])]
    rfl
  · rw [if_neg inside, if_pos (by simp; omega)]

/-- The number of a flash write in CFG_STATUS. -/
def FlashGoal.shown : FlashGoal → Nat
  | .store _ _ => 1
  | .calibration => 2
  | .slot _ => 0

theorem startWrite_eq (s : State) (goal : FlashGoal) (cmd : Option MgtCmd) (place size : Nat) (image : List Byte) :
    ∃ u, s.startWrite goal cmd place size image = { u with mgt := { s.mgt with
        job := some { goal := goal, cmd := cmd, place := place, image := image, pageAt := s.clk.wall + pageTime } } } ∧
      u = (s.flashErase place size).setRf Reg.cfgStatus 5 4 goal.shown := by
  refine ⟨_, ?_, rfl⟩
  cases goal <;> rfl

theorem startWrite_spec (s : State) (goal : FlashGoal) (cmd : Option MgtCmd) (place size : Nat) (image : List Byte) :
    (s.startWrite goal cmd place size image).mgt = { s.mgt with
      job := some { goal := goal, cmd := cmd, place := place, image := image, pageAt := s.clk.wall + pageTime } } ∧
    (∀ a, Table.look blankByte (s.startWrite goal cmd place size image).flash a =
      if place ≤ a ∧ a < place + size then 0xFF else Table.look blankByte s.flash a) ∧
    (s.startWrite goal cmd place size image).rf Reg.cfgStatus 5 4 = goal.shown ∧
    (∀ hi lo, hi < 4 → (s.startWrite goal cmd place size image).rf Reg.cfgStatus hi lo = s.rf Reg.cfgStatus hi lo) ∧
    Frame [.regs, .flash, .mgt] [Reg.cfgStatus] s (s.startWrite goal cmd place size image) := by
  obtain ⟨u, run, eu⟩ := startWrite_eq s goal cmd place size image
  have erased : Frame [.flash] [] s (s.flashErase place size) := .of_within (within_flashErase s place size)
  have set := frame_setRf (s.flashErase place size) Reg.cfgStatus 5 4 goal.shown
  have shown := rf_setRf_self (s.flashErase place size) Reg.cfgStatus (hi := 5) (lo := 4) goal.shown (by decide) (by decide)
  have apart (hi lo : Nat) (below : hi < 4) := rf_setRf_apart (s.flashErase place size) Reg.cfgStatus (hi := 5) (lo := 4) (h2 := hi)
    (l2 := lo) goal.shown (by decide) (by decide) (.inr below)
  have flash (a : Nat) := look_flashErase s place size a
  rw [← eu] at set shown apart
  rw [← show u.flash = (s.flashErase place size).flash from set.pieces .flash (by decide)] at flash
  obtain ⟨t, et⟩ : ∃ t, s.startWrite goal cmd place size image = t := ⟨_, rfl⟩
  rw [et] at run ⊢
  have regs (o : Nat) : t.reg o = u.reg o := by rw [run]; rfl
  refine ⟨by rw [run], fun a => by rw [run]; exact flash a, ?_, fun hi lo below => ?_, ?_⟩
  · rw [rf_of_reg (regs _), shown]
    cases goal <;> rfl
  · rw [rf_of_reg (regs _), apart hi lo below, rf_of_reg (erased.reg (by simp))]
  · have begun : Frame [.regs, .flash, .mgt] [Reg.cfgStatus] u t := by
      rw [run]
      exact (Frame.of_within (within_mgt (s := u) _)).mono
    exact begun.comp (set.mono.comp erased.mono)

/-- A command whose work is a flash write leaves the queue and waits for the write. -/
theorem AtHead.begins {s : State} {op : Nat} {c : MgtCmd} {cs : List MgtCmd} (h : AtHead s op c cs) {f : MgtCmd → State → State}
    {u : State} {goal : FlashGoal} {place size : Nat} {image : List Byte} {ps : List Piece} {rs : List Nat}
    (runs : f c s.popCmd = u.startWrite goal (some c) place size image) (work : Frame ps rs s.popCmd u)
    (pieces : .mgt ∉ ps ∧ .boot ∉ ps ∧ .clk ∉ ps ∧ .flash ∉ ps := by decide) :
    (s.serve op f).mgt = { s.mgt with
      queue := cs
      job := some { goal := goal, cmd := some c, place := place, image := image, pageAt := s.clk.wall + pageTime } } ∧
    (∀ a, Table.look blankByte (s.serve op f).flash a =
      if place ≤ a ∧ a < place + size then 0xFF else Table.look blankByte s.flash a) ∧
    (s.serve op f).rf Reg.cfgStatus 5 4 = goal.shown ∧
    (∀ hi lo, hi < 4 → (s.serve op f).rf Reg.cfgStatus hi lo = u.rf Reg.cfgStatus hi lo) ∧
    Frame [.regs, .flash, .mgt] [Reg.cfgStatus] u (s.serve op f) ∧ Frame (.mgt :: ps) rs s u := by
  obtain ⟨noMgt, noBoot, noClk, noFlash⟩ := pieces
  have pop : Frame [.mgt] [] s s.popCmd := .of_within (within_popCmd s)
  have mgt : u.mgt = { s.mgt with queue := cs } := by rw [show u.mgt = s.popCmd.mgt from work.pieces .mgt noMgt, h.popped]
  have clk : u.clk = s.clk := (work.pieces .clk noClk).trans (pop.pieces .clk (by decide))
  have flash : u.flash = s.flash := (work.pieces .flash noFlash).trans (pop.pieces .flash (by decide))
  have boot : u.boot = s.boot := (work.pieces .boot noBoot).trans (pop.pieces .boot (by decide))
  obtain ⟨began, erased, shown, kept, frame⟩ := startWrite_spec u goal (some c) place size image
  rw [mgt, clk] at began
  rw [flash] at erased
  rw [h.serve_ends runs (by rw [began]) (by rw [show _ = u.boot from frame.pieces .boot (by decide), boot])]
  exact ⟨began, erased, shown, kept, frame, (work.mono (by simp) (by simp)).comp (pop.mono (by simp) (by simp))⟩

/-- Under a sag a flash write does not begin: the command ends REFUSED and SAG is shown (R381). -/
theorem AtHead.sagRefuses {s : State} {op : Nat} {c : MgtCmd} {cs : List MgtCmd} (h : AtHead s op c cs)
    {f : MgtCmd → State → State} (runs : f c s.popCmd = s.popCmd.sagRefused c) :
    EndsAs c cs stRefused 0 [] s (s.serve op f) ∧ (s.serve op f).rf Reg.cfgStatus 6 6 = 1 ∧
      KeepsRegs (Reg.cfgStatus :: mailRegs) s (s.serve op f) ∧ OnlyTouches [.regs, .mgt, .msix] s (s.serve op f) := by
  obtain ⟨ends, frame, work⟩ := h.works (u := s.popCmd.raise Reg.cfgStatus 6 6 1) runs (frame_raise ..)
  refine ⟨ends, ?_, ?_, (work.pieces.mono (by decide)).trans frame.pieces⟩
  · rw [frame.rf (by decide)]
    exact rf_raise_bit _ _ 1 (by decide)
  · exact ((frame.mono (ps := [.regs, .mgt, .msix]) (rs := Reg.cfgStatus :: mailRegs) (own := by simp)).comp
      (work.mono (by decide) (by simp))).regs

/-! ## CONFIG_WRITE and CAL_WRITE (R380, R382) -/

/-- CONFIG_WRITE's work. -/
def configWriteWork (c : MgtCmd) (s : State) : State :=
  if 0x40000 < c.arg 1 then s.endCmd c stBad 0 []
  else s.withData c (c.arg 0) (c.arg 1) (fun bs s =>
    match parseEntries (bs.length / 8) bs with
    | none => s.endCmd c stBad 0 []
    | some es =>
      if 0x40000 < (cfgImage 0 (mergeEntries s.store es)).length then s.endCmd c stBad 0 []
      else if s.boot.sag then s.sagRefused c
      else s.writeStore (some c) es)

theorem exec_configWrite (s : State) : exec .configWrite s = .next (s.serve 5 configWriteWork) := rfl

theorem configWrite_entries {s : State} {c : MgtCmd} {bs : List Byte} {es : List (Nat × List Byte)} (short : c.arg 1 ≤ 0x40000)
    (clean : s.dramErr = []) (inside : s.staged c (c.arg 0) (c.arg 1) = true)
    (eb : bs = (if c.src.box.isNone then c.bytes else s.rd (c.arg 0) (c.arg 1))) (parsed : parseEntries (bs.length / 8) bs = some es)
    (fits : (cfgImage 0 (mergeEntries s.store es)).length ≤ 0x40000) :
    configWriteWork c s = if s.boot.sag then s.sagRefused c else s.writeStore (some c) es := by
  rw [configWriteWork, if_neg (by omega), withData_good inside (.inr clean) eb, parsed]
  exact if_neg (by omega)

theorem configWrite_bad {s : State} {c : MgtCmd} (bad : 0x40000 < c.arg 1 ∨ s.staged c (c.arg 0) (c.arg 1) = false ∨
    (s.dramErr = [] ∧ ∀ bs, bs = (if c.src.box.isNone then c.bytes else s.rd (c.arg 0) (c.arg 1)) →
      parseEntries (bs.length / 8) bs = none)) : configWriteWork c s = s.endCmd c stBad 0 [] := by
  by_cases long : 0x40000 < c.arg 1
  · exact if_pos long
  · rw [configWriteWork, if_neg long]
    by_cases inside : s.staged c (c.arg 0) (c.arg 1) = true
    · obtain ⟨clean, garbled⟩ := (bad.resolve_left long).resolve_left (by simp [inside])
      rw [withData_good inside (.inr clean) rfl, garbled _ rfl]
    · exact withData_refused (by simpa using inside) _

theorem cfgWinner_cases (s : State) : s.cfgWinner = none ∨ s.cfgWinner = some 0 ∨ s.cfgWinner = some 1 := by
  unfold State.cfgWinner
  dsimp only
  split
  · split
    · exact .inr (.inr rfl)
    · exact .inr (.inl rfl)
  · split
    · exact .inr (.inl rfl)
    · split
      · exact .inr (.inr rfl)
      · exact .inl rfl

/-- The store's new copy goes to the place of the copy that does not win, with the next number. -/
theorem writeStore_place (s : State) (cmd : Option MgtCmd) (new : List (Nat × List Byte)) : ∃ k seq, some k ≠ s.cfgWinner ∧ k ≤ 1 ∧
    (∀ w, s.cfgWinner = some w → seq = (cfgSeq (s.cfgBytes w) + 1) % 2 ^ 32) ∧
    s.writeStore cmd new = s.startWrite (.store k seq) cmd (cfgCopy k) 0x40000 (cfgImage seq (mergeEntries s.store new)) := by
  unfold State.writeStore
  rcases cfgWinner_cases s with none | zero | one
  · rw [none]
    exact ⟨0, 0, by simp, by decide, fun w h => absurd h (by simp), rfl⟩
  · rw [zero]
    exact ⟨1, _, by simp, by decide, fun w h => by rw [← Option.some.inj h], rfl⟩
  · rw [one]
    exact ⟨0, _, by simp, by decide, fun w h => by rw [← Option.some.inj h], rfl⟩

/-- CAL_WRITE's work. -/
def calWriteWork (c : MgtCmd) (s : State) : State :=
  s.withData c (c.arg 0) 65536 (fun bs s =>
    if bs.length ≠ 65536 ∨ shake256_256 (bs.take 65504) ≠ bs.drop 65504 then s.endCmd c stMismatch 0 []
    else if s.boot.sag then s.sagRefused c
    else
      let s := { s.setRf Reg.cfgStatus 3 3 0 with fuse := { s.fuse with calFactory := false } }
      s.startWrite .calibration (some c) 0x2080000 0x10000 bs)

theorem exec_calWrite (s : State) : exec .calWrite s = .next (s.serve 6 calWriteWork) := rfl

/-- CAL_WRITE on data that could be read. -/
theorem calWrite_data {s : State} {c : MgtCmd} {bs : List Byte} (clean : s.dramErr = []) (inside : s.staged c (c.arg 0) 65536 = true)
    (eb : bs = (if c.src.box.isNone then c.bytes else s.rd (c.arg 0) 65536)) :
    ((bs.length ≠ 65536 ∨ shake256_256 (bs.take 65504) ≠ bs.drop 65504) → calWriteWork c s = s.endCmd c stMismatch 0 []) ∧
    (bs.length = 65536 → shake256_256 (bs.take 65504) = bs.drop 65504 → s.boot.sag = true → calWriteWork c s = s.sagRefused c) ∧
    (bs.length = 65536 → shake256_256 (bs.take 65504) = bs.drop 65504 → s.boot.sag = false → calWriteWork c s =
      State.startWrite { s.setRf Reg.cfgStatus 3 3 0 with fuse := { s.fuse with calFactory := false } } .calibration (some c)
        0x2080000 0x10000 bs) := by
  rw [calWriteWork, withData_good inside (.inr clean) eb]
  obtain ⟨d, ed⟩ : ∃ d, shake256_256 (bs.take 65504) = d := ⟨_, rfl⟩
  rw [ed]
  refine ⟨fun bad => if_pos bad, fun length digest sag => ?_, fun length digest up => ?_⟩
  · rw [if_neg (by simp [length, digest]), if_pos sag]
  · rw [if_neg (by simp [length, digest]), if_neg (by simp [up])]

/-! ## Firmware (R387 to R390) -/

/-- FW_UPDATE's work. -/
def fwUpdateWork (host : List Byte) (c : MgtCmd) (s : State) : State :=
  if s.boot.bootRom ∧ c.src.box.isSome then s.updateFw c (host.take (c.arg 1))
  else s.withData c (c.arg 0) (c.arg 1) (fun bs s => s.updateFw c bs)

theorem exec_fwUpdate (host : List Byte) (s : State) : exec (.fwUpdate host) s = .next (s.serve 7 (fwUpdateWork host)) := rfl

/-- The image that FW_UPDATE takes. -/
theorem fwUpdate_image {s : State} {c : MgtCmd} {host img : List Byte}
    (image : (s.boot.bootRom = true ∧ c.src.box.isSome = true ∧ img = host.take (c.arg 1)) ∨
      (c.src.box.isNone = true ∧ img = c.bytes) ∨
      (s.boot.bootRom = false ∧ c.src.box.isSome = true ∧ s.dramErr = [] ∧ s.staged c (c.arg 0) (c.arg 1) = true ∧
        img = s.rd (c.arg 0) (c.arg 1))) : fwUpdateWork host c s = s.updateFw c img := by
  unfold fwUpdateWork
  rcases image with ⟨rom, box, rfl⟩ | ⟨net, rfl⟩ | ⟨rom, box, clean, inside, rfl⟩
  · exact if_pos ⟨rom, box⟩
  · rw [if_neg fun h => by rw [Option.isNone_iff_eq_none] at net; simp [net] at h]
    exact withData_good (bs := c.bytes) (by simp [State.staged, net]) (.inl net) (if_pos net).symm _
  · rw [if_neg (by simp [rom])]
    exact withData_good inside (.inr clean) (if_neg (by rw [Option.isNone_iff_eq_none]; exact fun none => by simp [none] at box)).symm _

/-- What FW_UPDATE does with an image. -/
theorem updateFw_spec (s : State) (c : MgtCmd) (img : List Byte) :
    ((s.imageSound (img.take 4096) (img.drop 4096) = false ∨ 64 < leAt (img.take 4096) 0x0C 4 ∨
      img.length < 4096 + leAt (img.take 4096) 0x10 4 ∨ 0x1000000 < img.length) → s.updateFw c img = s.endCmd c stMismatch 0 []) ∧
    (s.imageSound (img.take 4096) (img.drop 4096) = true → leAt (img.take 4096) 0x0C 4 ≤ 64 →
      4096 + leAt (img.take 4096) 0x10 4 ≤ img.length → img.length ≤ 0x1000000 →
      (leAt (img.take 4096) 0x0C 4 < s.rollback → s.updateFw c img = s.endCmd c stRefused 0 []) ∧
      (s.rollback ≤ leAt (img.take 4096) 0x0C 4 → s.boot.sag = true → s.updateFw c img = s.sagRefused c) ∧
      (s.rollback ≤ leAt (img.take 4096) 0x0C 4 → s.boot.sag = false → s.updateFw c img = s.startWrite (.slot 1) (some c) (fwSlot 1)
        0x1000000 (if s.boot.bootRom then padTo img.length (Config.secondPass s.clk.wall img) else img))) := by
  obtain ⟨sound, es⟩ : ∃ b, s.imageSound (img.take 4096) (img.drop 4096) = b := ⟨_, rfl⟩
  obtain ⟨version, ev⟩ : ∃ v, leAt (img.take 4096) 0x0C 4 = v := ⟨_, rfl⟩
  obtain ⟨length, el⟩ : ∃ l, leAt (img.take 4096) 0x10 4 = l := ⟨_, rfl⟩
  unfold State.updateFw
  dsimp only
  rw [es, ev, el]
  refine ⟨fun bad => if_pos ?_, fun good new whole fits => ?_⟩
  · rcases bad with unsound | bad
    · simp [unsound]
    · simp [bad]
  · rw [if_neg (by simp [good]; omega)]
    refine ⟨fun old => if_pos old, fun fresh sag => ?_, fun fresh up => ?_⟩
    · rw [if_neg (by omega), if_pos sag]
    · rw [if_neg (by omega), if_neg (by simp [up])]
      rfl

/-- FW_COMMIT's work. -/
def fwCommitWork (c : MgtCmd) (s : State) : State :=
  let want := s.rf Reg.mgtFwinfo 22 16
  if s.rollback = want then s.endCmd c stDone 0 []
  else if !([0, 1].all (fun k => s.slotValid k && decide (want ≤ leAt (s.slotHeader k) 0x0C 4))) then
    s.endCmd c stRefused 0 []
  else if s.boot.sag then s.sagRefused c
  else
    let s := { s with fuse := { s.fuse with rollback := max s.rollback want } }
    ((s.setRf Reg.mgtFwinfo 14 8 s.fuse.rollback).ghsEvent 4).endCmd c stDone 0 []

theorem exec_fwCommit (s : State) : exec .fwCommit s = .next (s.serve 8 fwCommitWork) := rfl

theorem fwCommit_spec {s : State} {c : MgtCmd} {want : Nat} (ew : want = s.rf Reg.mgtFwinfo 22 16) :
    (s.rollback = want → fwCommitWork c s = s.endCmd c stDone 0 []) ∧
    (s.rollback ≠ want → (∀ k, k < 2 → s.slotValid k = true ∧ want ≤ leAt (s.slotHeader k) 0x0C 4) →
      (s.boot.sag = true → fwCommitWork c s = s.sagRefused c) ∧
      (s.boot.sag = false → fwCommitWork c s = State.endCmd (State.ghsEvent (State.setRf
        { s with fuse := { s.fuse with rollback := max s.rollback want } } Reg.mgtFwinfo 14 8 (max s.rollback want)) 4)
          c stDone 0 [])) ∧
    (∀ k, s.rollback ≠ want → k < 2 → (s.slotValid k = false ∨ leAt (s.slotHeader k) 0x0C 4 < want) →
      fwCommitWork c s = s.endCmd c stRefused 0 []) := by
  unfold fwCommitWork
  dsimp only
  rw [← ew]
  refine ⟨fun same => if_pos same, fun other both => ?_, fun k other small bad => ?_⟩
  · have valid : [0, 1].all (fun k => s.slotValid k && decide (want ≤ leAt (s.slotHeader k) 0x0C 4)) = true := by
      rw [List.all_eq_true]
      intro k mem
      have small : k < 2 := by
        simp only [List.mem_cons, List.not_mem_nil, or_false] at mem
        omega
      obtain ⟨sound, fresh⟩ := both k small
      simp [sound, fresh]
    rw [if_neg other, valid, if_neg (by decide)]
    exact ⟨fun sag => if_pos sag, fun up => if_neg (by simp [up])⟩
  · have invalid : [0, 1].all (fun k => s.slotValid k && decide (want ≤ leAt (s.slotHeader k) 0x0C 4)) = false := by
      rw [List.all_eq_false]
      refine ⟨k, by simp; omega, ?_⟩
      rcases bad with unsound | old
      · simp [unsound]
      · simp [old]
    rw [if_neg other, invalid]
    exact if_pos rfl

/-! ## A quire's cores reset leave the registers but FLT_STAT alone -/

theorem frame_flushWrites (s : State) (n : Nat) (ws : List (Nat × List Byte)) :
    Frame [.regs, .mem, .sramErr, .flt] faultRegs s (s.flushWrites n ws) :=
  .foldl (fun _ _ => frame_wrSram ..) _ s

theorem frame_endTick (s : State) (n t : Nat) :
    Frame [.regs, .mem, .sramErr, .cores, .parts, .flt] faultRegs s (s.endTick n t) := by
  have flushed : Frame [.regs, .mem, .sramErr, .cores, .parts, .flt] faultRegs s (s.flushed n) :=
    (frame_flushWrites ..).mono.comp ((frame_flushWrites ..).mono.comp (frame_flushWrites ..).mono)
  have arrive (u : State) (sweepEnd hall : Bool) :
      Frame [.regs, .mem, .sramErr, .cores, .parts, .flt] faultRegs u (u.arrive n sweepEnd hall) :=
    (Frame.of_within (within_arrive ..)).mono (own := List.nil_subset _)
  have send (u : State) (e : Dir × LinkWord) :
      Frame [.regs, .mem, .sramErr, .cores, .parts, .flt] faultRegs u (u.sendWord n e.1 e.2) :=
    (Frame.of_within (within_sendWord ..)).mono (own := List.nil_subset _)
  unfold State.endTick
  dsimp only
  refine ((frame_updCore ..).mono (own := List.nil_subset _)).comp (Frame.trans ?_ (.foldl (fun _ _ => send ..) _ _))
  split
  · exact (arrive ..).comp flushed
  · exact flushed

theorem frame_resetCore (s : State) (n : Nat) :
    Frame [.regs, .mem, .sramErr, .cores, .parts, .flt] faultRegs s (s.resetCore n) := by
  have ticked : Frame [.regs, .mem, .sramErr, .cores, .parts, .flt] faultRegs s
      ((s.endTick n (s.tickOf n)).updCore n CoreState.afterReset) :=
    ((frame_updCore ..).mono (own := List.nil_subset _)).comp (frame_endTick ..)
  unfold State.resetCore
  split
  · exact .refl ..
  · dsimp only
    split
    · exact ((frame_updPart ..).mono (own := List.nil_subset _)).comp ticked
    · exact ticked

theorem frame_resetQuire (s : State) (x : Nat) :
    Frame [.regs, .mem, .sramErr, .cores, .parts, .flt] faultRegs s (s.resetQuire x) :=
  .foldl (fun _ _ => frame_resetCore ..) _ s

/-! ## Commands whose data cannot be read -/

/-- A command whose data lies on an access that cannot be corrected ends FAULTED. -/
theorem AtHead.faulted {s : State} {op : Nat} {c : MgtCmd} {cs : List MgtCmd} (h : AtHead s op c cs)
    {f : MgtCmd → State → State} {a n : Nat} (runs : f c s.popCmd = (s.popCmd.dramRead 127 a n).endCmd c stFaulted 0 []) :
    EndsAs c cs stFaulted 0 [] s (s.serve op f) ∧ KeepsRegs (mailRegs ++ dramRegs) s (s.serve op f) ∧
      OnlyTouches [.regs, .flt, .mgt, .msix] s (s.serve op f) := by
  obtain ⟨ends, frame, work⟩ := h.works runs (frame_dramRead ..)
  have all : Frame [.regs, .flt, .mgt, .msix] (mailRegs ++ dramRegs) s (s.serve op f) :=
    (frame.mono (own := List.subset_append_left ..)).comp (work.mono (own := List.subset_append_right ..))
  exact ⟨ends, all.regs, all.pieces⟩

/-- The frame of a command that only ends, as its statements give it. -/
theorem AtHead.onlyEnds {s : State} {op : Nat} {c : MgtCmd} {cs : List MgtCmd} (h : AtHead s op c cs)
    {f : MgtCmd → State → State} {status result : Nat} {data : List Byte}
    (runs : f c s.popCmd = s.popCmd.endCmd c status result data) (small : status < 256 := by decide) :
    EndsAs c cs status result data s (s.serve op f) ∧ KeepsRegs mailRegs s (s.serve op f) ∧
      OnlyTouches [.regs, .mgt, .msix] s (s.serve op f) := by
  obtain ⟨ends, frame, -⟩ := h.ends runs small
  exact ⟨ends, frame.regs, frame.pieces⟩

/-! ## A flash write goes on and ends (R380, R381, R389) -/

theorem flashRd_append (s : State) (a n m : Nat) : s.flashRd a (n + m) = s.flashRd a n ++ s.flashRd (a + n) m := by
  rw [← List.take_append_drop n (s.flashRd a (n + m))]
  congr 1
  · rw [State.flashRd, take_span, Nat.min_eq_left (Nat.le_add_right n m)]
    rfl
  · rw [State.flashRd, drop_span, Nat.add_sub_cancel_left]
    rfl

/-- A page programmed joins what stands of the image. -/
theorem flashRd_programPage {s : State} {j : FlashJob} (so : s.flashRd j.place j.next = j.image.take j.next) :
    (s.programPage j).flashRd j.place (min j.image.length (j.next + pageBytes)) = j.image.take (j.next + pageBytes) := by
  have within : j.next ≤ j.image.length := by
    have length := congrArg List.length so
    rw [State.flashRd, Table.span_length, List.length_take] at length
    omega
  obtain ⟨page, ep⟩ : ∃ page, slice j.image j.next pageBytes = page := ⟨_, rfl⟩
  have size : page.length = min j.image.length (j.next + pageBytes) - j.next := by
    rw [← ep, slice, List.length_take, List.length_drop]
    omega
  have written : (s.programPage j).flashRd (j.place + j.next) page.length = page := by
    rw [State.programPage, ep]
    exact Table.span_putSpan ..
  have before : (s.programPage j).flashRd j.place j.next = s.flashRd j.place j.next :=
    Table.span_putSpan_other _ _ _ _ _ _ (.inl (Nat.le_refl _))
  have whole : min j.image.length (j.next + pageBytes) = j.next + page.length := by omega
  rw [whole, flashRd_append, before, written, so, ← ep, slice, List.take_add]

theorem frame_programPage (s : State) (j : FlashJob) : Frame [.flash] [] s (s.programPage j) := .of_within (within_flashWr ..)

theorem flashCycle_next {s : State} {j : FlashJob} (job : s.mgt.job = some j) (running : s.mgt.halted = false)
    (due : j.pageAt ≤ s.clk.wall) (more : j.next + pageBytes < j.image.length) : s.flashCycle =
      { s.programPage j with mgt := { s.mgt with
          job := some { j with next := j.next + pageBytes, pageAt := s.clk.wall + pageTime } } } := by
  rw [State.flashCycle, job]
  refine (if_neg (by simp [running, due])).trans ?_
  exact if_neg (by omega)

theorem flashCycle_last {s : State} {j : FlashJob} (job : s.mgt.job = some j) (running : s.mgt.halted = false)
    (due : j.pageAt ≤ s.clk.wall) (last : j.image.length ≤ j.next + pageBytes) :
    s.flashCycle = (s.programPage j).wroteAll j := by
  rw [State.flashCycle, job]
  refine (if_neg (by simp [running, due])).trans ?_
  exact if_pos last

/-- A flash write's end: the write is over, CFG_STATUS shows none, and its command ends. -/
theorem endWrite_spec {s u : State} {ps : List Piece} {rs : List Nat} (work : Frame ps rs s u) (j : FlashJob) (status : Nat)
    (small : status < 256 := by decide) (apart : Reg.hstPortstat 0 ∉ rs ∧ Reg.hstPortstat 1 ∉ rs := by decide)
    (pieces : .msix ∉ ps ∧ .msixTable ∉ ps ∧ .mgt ∉ ps := by decide) :
    (∀ x, j.cmd = some x → EndsAs x s.mgt.queue status 0 [] s (u.endWrite j status)) ∧ (u.endWrite j status).mgt.job = none ∧
      (∀ hi lo, (hi < 4 ∨ 5 < lo) → (u.endWrite j status).rf Reg.cfgStatus hi lo = u.rf Reg.cfgStatus hi lo) ∧
      Frame [.regs, .mgt, .msix] (Reg.cfgStatus :: mailRegs) u (u.endWrite j status) := by
  obtain ⟨noMsix, noTable, noMgt⟩ := pieces
  obtain ⟨v, ev⟩ : ∃ v, u.setRf Reg.cfgStatus 5 4 0 = v := ⟨_, rfl⟩
  have set : Frame [.regs] [Reg.cfgStatus] u v := ev ▸ frame_setRf ..
  have mgtU : u.mgt = s.mgt := work.pieces .mgt noMgt
  obtain ⟨w, ew⟩ : ∃ w : State, { v with mgt := { u.mgt with job := none } } = w := ⟨_, rfl⟩
  have stopped : Frame [.mgt] [] v w := ew ▸ .of_within (within_mgt (s := v) _)
  have mgtW : w.mgt = { s.mgt with job := none } := by rw [← ew, ← mgtU]
  have kept (hi lo : Nat) (away : hi < 4 ∨ 5 < lo) : w.rf Reg.cfgStatus hi lo = u.rf Reg.cfgStatus hi lo := by
    rw [stopped.rf (by simp), ← ev]
    exact rf_setRf_apart _ _ _ (by decide) (by decide) (by omega)
  have run : u.endWrite j status = match j.cmd with | some c => w.endCmd c status 0 [] | none => w := by
    unfold State.endWrite
    dsimp only
    rw [ev, ew] <;> rfl
  have begun : Frame [.regs, .mgt, .msix] (Reg.cfgStatus :: mailRegs) u w :=
    (stopped.mono (own := List.nil_subset _)).comp (set.mono (own := by simp))
  rw [run]
  cases cmd : j.cmd with
  | none => exact ⟨fun x h => absurd h (by simp), by rw [mgtW], kept, begun⟩
  | some c =>
    obtain ⟨ends, ⟨out, mgt⟩, frame⟩ := endCmd_spec w c status 0 [] small
    refine ⟨fun x own => ?_, by rw [mgt, mgtW], fun hi lo away => ?_, (frame.mono (own := by simp)).comp begun⟩
    · obtain rfl := Option.some.inj own
      rw [mgtW] at ends
      exact ends.before
        (fun p => (stopped.reg (by simp)).trans ((set.reg (by cases p <;> decide)).trans (work.reg (portstat_not_mem apart p))))
        ((stopped.pieces .msix (by decide)).1.trans ((set.pieces .msix (by decide)).1.trans (work.pieces .msix noMsix).1))
        ((stopped.pieces .msixTable (by decide)).trans ((set.pieces .msixTable (by decide)).trans (work.pieces .msixTable noTable)))
        (by rw [mgtW])
    · exact (frame.rf (by decide) _ _).trans (kept hi lo away)

theorem frame_ghsEvent (s : State) (event : Nat) : Frame [.regs, .flt] faultRegs s (s.ghsEvent event) := frame_enterLog ..

theorem wroteAll_store {s : State} {j : FlashJob} {k seq : Nat} (goal : j.goal = .store k seq) : s.wroteAll j =
    (((s.setRf Reg.cfgStatus 0 0 k).setRf Reg.cfgStatus 1 1 1).setRf Reg.cfgStatus 39 8 seq).endWrite j stDone := by
  rw [State.wroteAll, goal] <;> rfl

theorem wroteAll_calibration {s : State} {j : FlashJob} (goal : j.goal = .calibration) :
    s.wroteAll j = (s.ghsEvent 3).endWrite j stDone := by
  rw [State.wroteAll, goal] <;> rfl

theorem wroteAll_slot {s : State} {j : FlashJob} {k : Nat} (goal : j.goal = .slot k) : s.wroteAll j =
    if !s.slotSound k then s.endWrite j stMismatch
    else if k = 0 then (s.ghsEvent 2).endWrite j stDone
    else if s.boot.sag then (s.raise Reg.cfgStatus 6 6 1).endWrite j stRefused
    else s.writeSlot 0 j.cmd j.image := by
  rw [State.wroteAll, goal] <;> rfl

/-- The fields of CFG_STATUS that the end of a write of the store sets. -/
theorem storeShown (u : State) (k seq : Nat) {v : State}
    (run : v = ((u.setRf Reg.cfgStatus 0 0 k).setRf Reg.cfgStatus 1 1 1).setRf Reg.cfgStatus 39 8 seq) :
    v.rf Reg.cfgStatus 0 0 = k % 2 ∧ v.rf Reg.cfgStatus 1 1 = 1 ∧ v.rf Reg.cfgStatus 39 8 = seq % 2 ^ 32 ∧
      Frame [.regs] [Reg.cfgStatus] u v := by
  subst run
  refine ⟨?_, ?_, rf_setRf_self _ _ _ (by decide) (by decide), (frame_setRf ..).comp ((frame_setRf ..).comp (frame_setRf ..))⟩
  · rw [rf_setRf_apart _ _ _ (by decide) (by decide) (.inr (by decide)),
      rf_setRf_apart _ _ _ (by decide) (by decide) (.inr (by decide)), rf_setRf_bit _ _ _ (by decide)]
  · rw [rf_setRf_apart _ _ _ (by decide) (by decide) (.inr (by decide)), rf_setRf_bit _ _ _ (by decide)]

/-- Settles O50: each command's work is taken apart by its checks, and the command then ends, or begins a flash write that ends it
after its last page. -/
theorem mailboxWritesComplete : Obligations.MailboxWritesComplete := by
  unfold Obligations.MailboxWritesComplete
  intro s c cs
  refine ⟨fun h b first blocks use eb ef en eu => ⟨fun bad => ?_, fun hb lo hi room => ⟨fun k free entry => ?_, fun full => ?_⟩⟩,
    fun h b k eb ek => ⟨fun st r ends => ?_, fun hb hk on own idle => ?_⟩,
    fun h => ⟨fun bad => ?_, fun p real held other => ?_, fun real may => ⟨fun alone => ?_, fun p held merged => ?_⟩⟩,
    fun bs es h short clean inside eb parsed fits => ⟨fun up => ?_, fun sag => ?_⟩,
    fun h bad => ?_,
    fun bs h clean inside eb => ⟨fun length digest up => ?_, fun length digest sag => ?_, fun bad => ?_⟩,
    fun i op a n host mem h box awake short inside bad => ?_,
    fun host img h image => ⟨fun bad => ?_, fun sound version whole fits => ⟨fun old => ?_, fun new sag => ?_, fun new up => ?_⟩⟩,
    fun want h ew => ⟨fun same => ?_, fun other both => ⟨fun up => ?_, fun sag => ?_⟩, fun k other small bad => ?_⟩,
    fun j job running due => ⟨fun more => ?_, fun k seq last goal => ?_, fun last goal sound up => ?_, fun x last goal own => ?_,
      fun x last goal sound sag own => ?_, fun k x last goal own unsound => ?_, fun x last goal own sound => ?_⟩⟩
  · exact ⟨_, exec_regionAlloc s, h.onlyEnds (regionAlloc_bad eb ef en eu bad)⟩
  · refine ⟨_, exec_regionAlloc s, h.setsRegion hb (freeEntry_lt entry) ((regionAlloc_good eb ef en eu (by omega)).trans ?_)⟩
    rw [allocAt_some (s := s.popCmd) free entry]
  · refine ⟨_, exec_regionAlloc s, h.onlyEnds ((regionAlloc_good eb ef en eu (by omega)).trans ?_)⟩
    rw [allocAt_none (s := s.popCmd) full]
  · obtain ⟨runs, small⟩ := regionFree_ends (s := s.popCmd) eb ek ends
    exact ⟨_, exec_regionFree s, h.onlyEnds runs small⟩
  · exact ⟨_, exec_regionFree s, h.setsRegion hb (by omega) (regionFree_frees eb ek hb hk on own idle)⟩
  · exact ⟨_, exec_quireReset s, h.onlyEnds (if_pos bad)⟩
  · exact ⟨_, exec_quireReset s, h.onlyEnds (quireReset_refused real held other)⟩
  · obtain ⟨ends, frame, work⟩ := h.works (quireReset_runs (s := s.popCmd) real may) (frame_resetQuire ..)
    obtain ⟨cores, parts⟩ := resetQuire_spec (s := s.popCmd) alone (c.arg 0)
    refine ⟨_, exec_quireReset s, ends, fun n mem => ?_, fun p held => ?_,
      (work.pieces.mono (by decide)).trans (frame.pieces.mono (by decide))⟩
    · rw [core_through frame.pieces]
      exact cores n mem
    · rw [part_through frame.pieces]
      exact parts p held
  · refine ⟨_, exec_quireReset s, h.onlyEnds ((quireReset_runs (s := s.popCmd) real may).trans ?_)⟩
    rw [resetQuire_merges (s := s.popCmd) held merged]
  · obtain ⟨k, seq, other, low, next, run⟩ := writeStore_place s.popCmd (some c) es
    have store : s.popCmd.store = s.store := store_of_flash rfl
    have winner : s.popCmd.cfgWinner = s.cfgWinner := cfgWinner_of_flash rfl
    rw [store] at run
    rw [winner] at other next
    have runs := (configWrite_entries (s := s.popCmd) short clean inside eb parsed (by rwa [store])).trans
      ((if_neg (by simp [show s.popCmd.boot.sag = false from up])).trans run)
    obtain ⟨mgt, erased, shown, -, frame, work⟩ := h.begins runs (.refl [] [] _)
    refine ⟨_, k, seq, exec_configWrite s, other, low, fun w own => ?_, mgt, erased, shown,
      (frame.comp (work.mono (own := List.nil_subset _))).regs, (frame.comp (work.mono (own := List.nil_subset _))).pieces⟩
    rw [← cfgBytes_of_flash (s := s) (t := s.popCmd) rfl]
    exact next w own
  · have store : s.popCmd.store = s.store := store_of_flash rfl
    exact ⟨_, exec_configWrite s, h.sagRefuses ((configWrite_entries (s := s.popCmd) short clean inside eb parsed (by rwa [store])).trans
      (if_pos sag))⟩
  · exact ⟨_, exec_configWrite s, h.onlyEnds (configWrite_bad (s := s.popCmd) bad)⟩
  · obtain ⟨u, eu⟩ : ∃ u, State.setRf s.popCmd Reg.cfgStatus 3 3 0 = u := ⟨_, rfl⟩
    have set : Frame [.regs] [Reg.cfgStatus] s.popCmd u := eu ▸ frame_setRf ..
    have cleared : u.rf Reg.cfgStatus 3 3 = 0 := eu ▸ rf_setRf_bit _ _ 0 (by decide)
    have runs := (calWrite_data (s := s.popCmd) clean inside eb).2.2 length digest up
    rw [eu] at runs
    have burnt : Frame [.regs, .fuse] [Reg.cfgStatus] s.popCmd { u with fuse := { s.popCmd.fuse with calFactory := false } } :=
      ((Frame.of_within (within_fuse (s := u) _)).mono (own := List.nil_subset _)).comp set.mono
    obtain ⟨mgt, -, shown, kept, frame, work⟩ := h.begins runs burnt
    have all := (frame.mono (ps := [.regs, .flash, .fuse, .mgt]) (rs := [Reg.cfgStatus])).comp (work.mono (by decide))
    exact ⟨_, exec_calWrite s, frame.pieces .fuse (by decide), mgt, (kept 3 3 (by decide)).trans cleared, shown, all.regs, all.pieces⟩
  · exact ⟨_, exec_calWrite s, h.sagRefuses ((calWrite_data (s := s.popCmd) clean inside eb).2.1 length digest sag)⟩
  · exact ⟨_, exec_calWrite s, h.onlyEnds ((calWrite_data (s := s.popCmd) clean inside eb).1 bad)⟩
  · have data (f : List Byte → State → State) :
        s.popCmd.withData c a n f = (s.popCmd.dramRead 127 a n).endCmd c stFaulted 0 [] := withData_faulted (s := s.popCmd) box inside bad f
    simp only [List.mem_cons, List.not_mem_nil, or_false, Prod.mk.injEq] at mem
    rcases mem with ⟨rfl, rfl, rfl, rfl⟩ | ⟨rfl, rfl, rfl, rfl⟩ | ⟨rfl, rfl, rfl, rfl⟩
    · exact ⟨_, exec_configWrite s, h.faulted ((if_neg (by have := short rfl; omega)).trans (data _))⟩
    · exact ⟨_, exec_calWrite s, h.faulted (data _)⟩
    · exact ⟨_, exec_fwUpdate host s, h.faulted ((if_neg (by simp [show s.popCmd.boot.bootRom = false from awake])).trans (data _))⟩
  · exact ⟨_, exec_fwUpdate host s, h.onlyEnds ((fwUpdate_image (s := s.popCmd) image).trans ((updateFw_spec s.popCmd c img).1 bad))⟩
  · exact ⟨_, exec_fwUpdate host s, h.onlyEnds ((fwUpdate_image (s := s.popCmd) image).trans
      (((updateFw_spec s.popCmd c img).2 sound version whole fits).1 old))⟩
  · exact ⟨_, exec_fwUpdate host s, h.sagRefuses ((fwUpdate_image (s := s.popCmd) image).trans
      (((updateFw_spec s.popCmd c img).2 sound version whole fits).2.1 new sag))⟩
  · obtain ⟨mgt, -, -, -, frame, work⟩ := h.begins ((fwUpdate_image (s := s.popCmd) image).trans
      (((updateFw_spec s.popCmd c img).2 sound version whole fits).2.2 new up)) (.refl [] [] _)
    have all := frame.comp (work.mono (own := List.nil_subset _))
    exact ⟨_, exec_fwUpdate host s, mgt, all.regs, all.pieces⟩
  · exact ⟨_, exec_fwCommit s, h.onlyEnds ((fwCommit_spec (s := s.popCmd) ew).1 same)⟩
  · have runs := ((fwCommit_spec (s := s.popCmd) (c := c) ew).2.1 other both).2 up
    obtain ⟨u, eu⟩ : ∃ u : State, { s.popCmd with fuse := { s.popCmd.fuse with rollback := max s.popCmd.rollback want } } = u := ⟨_, rfl⟩
    have burnt : Frame [.fuse] [] s.popCmd u := eu ▸ .of_within (within_fuse (s := s.popCmd) _)
    have fuse : u.fuse = { s.fuse with rollback := max s.rollback want } := by rw [← eu]; rfl
    have set := frame_setRf u Reg.mgtFwinfo 14 8 (max s.popCmd.rollback want)
    have shown := rf_setRf_self u Reg.mgtFwinfo (hi := 14) (lo := 8) (max s.popCmd.rollback want) (by decide) (by decide)
    rw [eu] at runs
    obtain ⟨v, ev⟩ : ∃ v, u.setRf Reg.mgtFwinfo 14 8 (max s.popCmd.rollback want) = v := ⟨_, rfl⟩
    rw [ev] at runs set shown
    have logged := frame_ghsEvent v 4
    obtain ⟨ends, frame, work⟩ := h.works (ps := [.regs, .fuse, .flt]) (rs := Reg.fltStat :: [Reg.mgtFwinfo]) runs
      ((logged.mono (own := by simp [faultRegs])).comp ((set.mono (own := by simp)).comp (burnt.mono (own := List.nil_subset _))))
    have all := (frame.mono (ps := [.regs, .fuse, .flt, .mgt, .msix]) (rs := Reg.fltStat :: Reg.mgtFwinfo :: mailRegs)
      (own := by simp)).comp (work.mono (by decide) (by simp))
    refine ⟨_, exec_fwCommit s, ends, ?_, ?_, all.regs, all.pieces⟩
    · exact (frame.pieces .fuse (by decide)).trans ((logged.pieces .fuse (by decide)).trans ((set.pieces .fuse (by decide)).trans fuse))
    · exact (frame.rf (by decide) _ _).trans ((logged.rf (by decide) _ _).trans shown)
  · exact ⟨_, exec_fwCommit s, h.sagRefuses (((fwCommit_spec (s := s.popCmd) ew).2.1 other both).1 sag)⟩
  · exact ⟨_, exec_fwCommit s, h.onlyEnds ((fwCommit_spec (s := s.popCmd) ew).2.2 k other small bad)⟩
  · have programmed := frame_programPage s j
    rw [flashCycle_next job running due more]
    refine ⟨rfl, fun so => ?_,
      (programmed.pieces.mono (by decide)).trans ((within_mgt (s := s.programPage j) _).touches.mono (by decide))⟩
    have page := flashRd_programPage so
    rwa [Nat.min_eq_right (by omega)] at page
  · rw [flashCycle_last job running due last, wroteAll_store goal]
    obtain ⟨v, ev⟩ : ∃ v, v = (((s.programPage j).setRf Reg.cfgStatus 0 0 k).setRf Reg.cfgStatus 1 1 1).setRf Reg.cfgStatus 39 8 seq :=
      ⟨_, rfl⟩
    obtain ⟨copy, valid, number, set⟩ := storeShown _ k seq ev
    rw [← ev]
    have work : Frame [.regs, .flash] [Reg.cfgStatus] s v := set.mono.comp ((frame_programPage s j).mono (own := List.nil_subset _))
    obtain ⟨ends, none, kept, frame⟩ := endWrite_spec work j stDone
    refine ⟨fun so => ?_, (kept 0 0 (by decide)).trans copy, (kept 1 1 (by decide)).trans valid, (kept 39 8 (by decide)).trans number,
      none, ends, (work.pieces.mono (by decide)).trans (frame.pieces.mono (by decide))⟩
    have page := flashRd_programPage so
    rw [Nat.min_eq_left last, List.take_of_length_le last] at page
    rw [State.flashRd, show _ = v.flash from frame.pieces .flash (by decide), show v.flash = _ from set.pieces .flash (by decide)]
    exact page
  · rw [flashCycle_last job running due last, wroteAll_slot goal, if_neg (by simp [sound]), if_neg (by decide),
      if_neg (by simp [show (s.programPage j).boot.sag = false from up])]
    exact congrArg Gatehouse.job (startWrite_spec (s.programPage j) (.slot 0) j.cmd (fwSlot 0) 0x1000000 j.image).1
  · rw [flashCycle_last job running due last, wroteAll_calibration goal]
    have work : Frame [.regs, .flt, .flash] faultRegs s ((s.programPage j).ghsEvent 3) :=
      (frame_ghsEvent ..).mono.comp ((frame_programPage s j).mono (own := List.nil_subset _))
    obtain ⟨ends, none, -⟩ := endWrite_spec work j stDone
    exact ⟨ends x own, none⟩
  · rw [flashCycle_last job running due last, wroteAll_slot goal, if_neg (by simp [sound]), if_neg (by decide),
      if_pos (show (s.programPage j).boot.sag = true from sag)]
    have work : Frame [.regs, .flt, .flash] [Reg.cfgStatus] s ((s.programPage j).raise Reg.cfgStatus 6 6 1) :=
      (frame_raise ..).mono.comp ((frame_programPage s j).mono (own := List.nil_subset _))
    obtain ⟨ends, -, kept, -⟩ := endWrite_spec work j stRefused
    exact ⟨ends x own, (kept 6 6 (by decide)).trans (rf_raise_bit _ _ 1 (by decide))⟩
  · rw [flashCycle_last job running due last, wroteAll_slot goal, if_pos (by simp [unsound])]
    obtain ⟨ends, none, -⟩ := endWrite_spec (frame_programPage s j) j stMismatch
    exact ⟨ends x own, none⟩
  · rw [flashCycle_last job running due last, wroteAll_slot goal, if_neg (by simp [sound]), if_pos rfl]
    have work : Frame [.regs, .flt, .flash] faultRegs s ((s.programPage j).ghsEvent 2) :=
      (frame_ghsEvent ..).mono.comp ((frame_programPage s j).mono (own := List.nil_subset _))
    obtain ⟨ends, none, -⟩ := endWrite_spec work j stDone
    exact ⟨ends x own, none⟩

end Sys2Proof.Machine
end

section
/-! PROOFS. Mailbox commands that read, and signing. -/

namespace Sys2Proof.Machine

open Sys2Proof

-- One theorem after another: many at once would need too many threads.
set_option Elab.async false

/-! ## LOG_READ (R395) -/

/-- LOG_READ's work. -/
def logReadWork (c : MgtCmd) (s : State) : State :=
  let bs := s.logRun (c.arg 0) (c.arg 1)
  let n := bs.length / 32
  if !s.staged c (c.arg 2) bs.length then s.endCmd c stBad 0 []
  else if c.src.box.isSome then (s.wrDram 127 (c.arg 2) bs).endCmd c stDone n []
  else s.endCmd c stDone n bs

theorem exec_logRead (s : State) : exec .logRead s = .next (s.serve 9 logReadWork) := rfl

theorem staged_network {s : State} {c : MgtCmd} (box : c.src.box.isNone = true) (a n : Nat) : s.staged c a n = true := by
  rw [State.staged, box, Bool.true_or]

theorem logRead_outside {s : State} {c : MgtCmd} (outside : s.staged c (c.arg 2) (s.logRun (c.arg 0) (c.arg 1)).length = false) :
    logReadWork c s = s.endCmd c stBad 0 [] := if_pos (by simp [outside])

theorem logRead_mailbox {s : State} {c : MgtCmd} {bs : List Byte} (eb : bs = s.logRun (c.arg 0) (c.arg 1))
    (box : c.src.box.isSome = true) (inside : s.staged c (c.arg 2) bs.length = true) :
    logReadWork c s = (s.wrDram 127 (c.arg 2) bs).endCmd c stDone (bs.length / 32) [] := by
  subst eb
  exact (if_neg (by simp [inside])).trans (if_pos box)

theorem logRead_network {s : State} {c : MgtCmd} {bs : List Byte} (eb : bs = s.logRun (c.arg 0) (c.arg 1))
    (box : c.src.box.isNone = true) : logReadWork c s = s.endCmd c stDone (bs.length / 32) bs := by
  subst eb
  rw [Option.isNone_iff_eq_none] at box
  exact (if_neg (by simp [State.staged, box])).trans (if_neg (by simp [box]))

/-! ## ATTEST (R394) -/

/-- ATTEST's work once its nonce is read. -/
def attestNonce (c : MgtCmd) (nonce : List Byte) (s : State) : State :=
  if !s.provisioned then s.endCmd c stRefused 0 []
  else if s.ent.state = .fatal then (s.count Reg.mgtHealth 31 16 1).endCmd c stEntropyFailed 0 []
  else if !s.ent.state.serves then s.endCmd c stNotReady 0 []
  else
    match s.askSign ⟨padTo 512 (padTo 32 nonce ++ s.attestFacts), c.arg 1, none, some c, none⟩ with
    | (true, t) => t
    | (false, t) => t.endCmd c stRefused 0 []

/-- ATTEST's work. -/
def attestWork (c : MgtCmd) (s : State) : State :=
  if !s.staged c (c.arg 1) 2048 then s.endCmd c stBad 0 []
  else s.withData c (c.arg 0) 32 (attestNonce c)

theorem exec_attest (s : State) : exec .attest s = .next (s.serve 10 attestWork) := rfl

theorem attest_outside {s : State} {c : MgtCmd} (outside : s.staged c (c.arg 1) 2048 = false ∨ s.staged c (c.arg 0) 32 = false) :
    attestWork c s = s.endCmd c stBad 0 [] := by
  by_cases report : s.staged c (c.arg 1) 2048 = true
  · exact (if_neg (by simp [report])).trans (withData_refused (outside.resolve_left (by simp [report])) _)
  · exact if_pos (by simp [report])

theorem attest_data {s : State} {c : MgtCmd} {nonce : List Byte} (report : s.staged c (c.arg 1) 2048 = true)
    (inside : s.staged c (c.arg 0) 32 = true) (clean : s.dramErr = [])
    (en : nonce = (if c.src.box.isNone then c.bytes else s.rd (c.arg 0) 32)) : attestWork c s = attestNonce c nonce s :=
  (if_neg (by simp [report])).trans (withData_good inside (.inr clean) en _)

theorem serves_not_fatal {s : State} (serves : s.ent.state.serves = true) : s.ent.state ≠ .fatal :=
  fun fatal => by rw [fatal] at serves; exact absurd serves (by decide)

theorem attest_asks {s : State} {c : MgtCmd} {nonce : List Byte} (key : s.provisioned = true) (serves : s.ent.state.serves = true)
    (room : s.mgt.sign.length < 64) : attestNonce c nonce s = { s with mgt := { s.mgt with
      sign := s.mgt.sign ++ [⟨padTo 512 (padTo 32 nonce ++ s.attestFacts), c.arg 1, none, some c, none⟩] } } := by
  have awake := serves_not_fatal serves
  obtain ⟨facts, ef⟩ : ∃ facts, s.attestFacts = facts := ⟨_, rfl⟩
  unfold attestNonce
  rw [if_neg (by simp [key]), if_neg awake, if_neg (by simp [serves]), State.askSign, if_neg (by simp [key]),
    if_neg (by simp [awake]; omega)]

/-- ATTEST without entropy, or with no room for its request, is counted. -/
theorem attest_counts {s : State} {c : MgtCmd} {nonce : List Byte} {st : Nat} (key : s.provisioned = true)
    (why : (s.ent.state = .fatal ∧ st = stEntropyFailed) ∨ (s.ent.state.serves = true ∧ 64 ≤ s.mgt.sign.length ∧ st = stRefused)) :
    attestNonce c nonce s = (s.count Reg.mgtHealth 31 16 1).endCmd c st 0 [] ∧ st < 256 := by
  unfold attestNonce
  rw [if_neg (by simp [key])]
  rcases why with ⟨fatal, rfl⟩ | ⟨serves, full, rfl⟩
  · exact ⟨if_pos fatal, by decide⟩
  · rw [if_neg (serves_not_fatal serves), if_neg (by simp [serves]), State.askSign, if_neg (by simp [key]), if_pos (.inl full)]
    exact ⟨rfl, by decide⟩

theorem attest_refused {s : State} {c : MgtCmd} {nonce : List Byte} {st : Nat}
    (why : (s.provisioned = false ∧ st = stRefused) ∨
      (s.provisioned = true ∧ s.ent.state ≠ .fatal ∧ s.ent.state.serves = false ∧ st = stNotReady)) :
    attestNonce c nonce s = s.endCmd c st 0 [] ∧ st < 256 := by
  unfold attestNonce
  rcases why with ⟨key, rfl⟩ | ⟨key, awake, off, rfl⟩
  · exact ⟨if_pos (by simp [key]), by decide⟩
  · rw [if_neg (by simp [key]), if_neg awake, if_pos (by simp [off])]
    exact ⟨rfl, by decide⟩

/-! ## Signing (R229, R394) -/

theorem takeFor_signing {s : State} (serves : s.ent.state.serves = true) (turn : s.turn .signing = true)
    (enough : 64 ≤ s.ent.out.length) : s.takeFor .signing 64 =
      some (s.ent.out.take 64, { s with ent := { s.ent with out := s.ent.out.drop 64 } }) := by
  rw [State.takeFor, if_pos turn, State.takeOut]
  dsimp only
  rw [show roundUp 64 16 = 64 by decide, if_pos (by simp [serves, enough]), Option.map_some]
  rfl

theorem takeFor_signing_waits {s : State} (waits : s.turn .signing = false ∨ s.ent.state.serves = false ∨ s.ent.out.length < 64) :
    s.takeFor .signing 64 = none := by
  rw [State.takeFor]
  split
  next turn =>
    rw [State.takeOut]
    dsimp only
    rw [show roundUp 64 16 = 64 by decide, if_neg, Option.map_none]
    rcases waits.resolve_left (by simp [turn]) with off | short
    · simp [off]
    · simp [short]
  next => rfl

/-- The state with the oldest request for a signature taken. -/
def State.nextSign (s : State) (js : List SignJob) : State := { s with mgt := { s.mgt with sign := js } }

/-- The state with a signature's entropy taken and its request gone. -/
def State.signing (s : State) (js : List SignJob) : State :=
  { s with ent := { s.ent with out := s.ent.out.drop 64 }, mgt := { s.mgt with sign := js } }

theorem sign_waits {s : State} (waits : s.mgt.sign = [] ∨ s.mgt.halted = true ∨ (s.ent.state ≠ .fatal ∧ s.turn .signing = false) ∨
    (s.ent.state ≠ .fatal ∧ (s.ent.state.serves = false ∨ s.ent.out.length < 64))) : exec .gatehouseSign s = .next s := by
  have step : exec .gatehouseSign s = execGatehouseSign s := rfl
  rw [step]
  unfold execGatehouseSign
  split
  next => rfl
  next j js asked =>
    dsimp only
    by_cases halted : s.mgt.halted = true
    · exact if_pos halted
    · have rest := (waits.resolve_left (by simp [asked])).resolve_left halted
      have none : s.takeFor .signing 64 = none := takeFor_signing_waits (by
        rcases rest with ⟨-, off⟩ | ⟨-, off⟩
        · exact .inl off
        · exact .inr off)
      have awake : s.ent.state ≠ .fatal := rest.elim And.left And.left
      rw [if_neg halted, if_neg awake, none]

theorem sign_fatal {s : State} {j : SignJob} {js : List SignJob} (asked : s.mgt.sign = j :: js) (running : s.mgt.halted = false)
    (fatal : s.ent.state = .fatal) :
    exec .gatehouseSign s = .next (((s.nextSign js).count Reg.mgtHealth 31 16 1).endSign j none) := by
  have step : exec .gatehouseSign s = execGatehouseSign s := rfl
  rw [step, execGatehouseSign, asked]
  exact (if_neg (by simp [running])).trans (if_pos fatal)

theorem sign_signs {s : State} {j : SignJob} {js : List SignJob} (asked : s.mgt.sign = j :: js) (running : s.mgt.halted = false)
    (serves : s.ent.state.serves = true) (turn : s.turn .signing = true) (enough : 64 ≤ s.ent.out.length) :
    exec .gatehouseSign s =
      .next ((s.signing js).endSign j (some (Config.falconSign j.message (s.ent.out.take 64)))) := by
  have step : exec .gatehouseSign s = execGatehouseSign s := rfl
  rw [step, execGatehouseSign, asked]
  dsimp only
  rw [if_neg (by simp [running]), if_neg (serves_not_fatal serves), takeFor_signing serves turn enough]
  rfl

/-- A run's record no longer waits for a signature. -/
def Partition.unsigned (d : DescRef) (p : Partition) : Partition :=
  { p with job := p.job.map (fun x => if x.desc = d then { x with sign := false } else x) }

theorem unsigned_job {p : Partition} {d : DescRef} {x : Job} (job : p.job = some x) (own : x.desc = d) :
    (p.unsigned d).job = some { x with sign := false } := by
  rw [Partition.unsigned, job, Option.map_some, if_pos own]

/-- The oldest record's end lets the run that asked for it complete. -/
theorem endSign_run {s : State} {j : SignJob} {q : Nat} {d : DescRef} (run : j.run = some (q, d)) (sig : Option (List Byte)) :
    s.endSign j sig = State.settleJob (State.updPart (match sig with
      | some g => (s.wrDram q j.dest j.message).wrDram q (j.dest + 0x100) (signatureArea g)
      | none => s) q (Partition.unsigned d)) q := by
  unfold State.endSign
  split
  next q' d' _ run' =>
    obtain ⟨rfl, rfl⟩ := Prod.mk.inj (Option.some.inj (run.symm.trans run'))
    rfl
  next none _ => exact absurd (run.symm.trans none) (by simp)
  next none _ => exact absurd (run.symm.trans none) (by simp)

/-- Settling a partition's run: the other partitions stay, and its own run stands or is done. -/
theorem settleJob_parts (s : State) (q : Nat) : KeepsParts [q] s (s.settleJob q) ∧
    (((s.settleJob q).part q).job = (s.part q).job ∨ ((s.settleJob q).part q).job = none) := by
  unfold State.settleJob
  split
  next => exact ⟨KeepsParts.refl _ _, .inl rfl⟩
  next =>
    split
    · exact ⟨KeepsParts.refl _ _, .inl rfl⟩
    · split
      · refine ⟨(keepsParts_updPart _ _ _).through (frame_complete _ _ _ _ _).pieces, .inr ?_⟩
        rw [part_through (frame_complete _ _ _ _ _).pieces, State.part_updPart_self]
      · exact ⟨KeepsParts.refl _ _, .inl rfl⟩

/-- A run whose record is no longer waited for. -/
theorem settled_unsigned {s : State} {q : Nat} {d : DescRef} {x : Job} (job : (s.part q).job = some x) (own : x.desc = d) :
    (∀ y, (((s.updPart q (Partition.unsigned d)).settleJob q).part q).job = some y → y.sign = false) ∧
      KeepsParts [q] s ((s.updPart q (Partition.unsigned d)).settleJob q) ∧
      Frame [.regs, .parts, .rings, .descs] hostRegs s ((s.updPart q (Partition.unsigned d)).settleJob q) := by
  obtain ⟨others, same⟩ := settleJob_parts (s.updPart q (Partition.unsigned d)) q
  refine ⟨fun y waits => ?_, (keepsParts_updPart _ _ _).trans others,
    (frame_settleJob ..).comp ((frame_updPart ..).mono (own := List.nil_subset _))⟩
  rw [State.part_updPart_self, unsigned_job job own] at same
  rcases same with stands | done
  · rw [← Option.some.inj (stands.symm.trans waits)]
  · exact absurd (waits.symm.trans done) (by simp)

/-- What a partition notes of a write leaves the descriptor of its run. -/
theorem noteWrite_desc {p : Partition} {x : Job} (job : p.job = some x) (a n : Nat) :
    ∃ y, (p.noteWrite a n).job = some y ∧ y.desc = x.desc := by
  unfold Partition.noteWrite
  split
  next => exact ⟨x, job, rfl⟩
  next b _ =>
    dsimp only
    rw [job, Option.map_some]
    split
    · exact ⟨x, rfl, rfl⟩
    · exact ⟨_, rfl, rfl⟩

/-- A signed record: the message at its place, the signature behind it, and the run no longer waits for it. -/
theorem signed_record {s : State} (clean : s.dramErr = []) {q dest : Nat} {d : DescRef} {x : Job} {m sig : List Byte} {t : State}
    (run : t = State.settleJob (State.updPart ((s.wrDram q dest m).wrDram q (dest + 0x100) sig) q (Partition.unsigned d)) q)
    (job : (s.part q).job = some x) (own : x.desc = d) :
    (m.length = 256 → t.rd dest 256 = m ∧ KeepsBytes dest (256 + sig.length) s t) ∧ t.rd (dest + 0x100) sig.length = sig ∧
      (∀ y, (t.part q).job = some y → y.sign = false) ∧ KeepsPartsSaveNotes [q] s t ∧
      OnlyTouches [.regs, .mem, .parts, .rings, .descs] s t := by
  have first : Stores s (s.wrDram q dest m) := stores_wrDram clean q dest m
  have reads : (s.wrDram q dest m).rd dest m.length = m := rd_wrDram_self clean q dest m
  have keeps : KeepsBytes dest m.length s (s.wrDram q dest m) := keepsBytes_wrDram clean q dest m
  obtain ⟨y, job1, own1⟩ : ∃ y, ((s.wrDram q dest m).part q).job = some y ∧ y.desc = x.desc := by
    rw [part_wrDram clean]
    exact noteWrite_desc job ..
  obtain ⟨u, eu⟩ : ∃ u, s.wrDram q dest m = u := ⟨_, rfl⟩
  rw [eu] at first reads keeps job1 run
  have good : u.dramErr = [] := first.good clean
  have second : Stores u (u.wrDram q (dest + 0x100) sig) := stores_wrDram good q (dest + 0x100) sig
  have reads' : (u.wrDram q (dest + 0x100) sig).rd (dest + 0x100) sig.length = sig := rd_wrDram_self good q (dest + 0x100) sig
  have keeps' : KeepsBytes (dest + 0x100) sig.length u (u.wrDram q (dest + 0x100) sig) :=
    keepsBytes_wrDram good q (dest + 0x100) sig
  obtain ⟨z, job2, own2⟩ : ∃ z, ((u.wrDram q (dest + 0x100) sig).part q).job = some z ∧ z.desc = y.desc := by
    rw [part_wrDram good]
    exact noteWrite_desc job1 ..
  obtain ⟨v, ev⟩ : ∃ v, u.wrDram q (dest + 0x100) sig = v := ⟨_, rfl⟩
  rw [ev] at second reads' keeps' job2 run
  obtain ⟨unsigned, others, frame⟩ := settled_unsigned job2 (own2.trans (own1.trans own))
  rw [← run] at unsigned others frame
  have mem : t.mem = v.mem := frame.pieces .mem (by decide)
  have stored := first.trans second
  refine ⟨fun whole => ⟨?_, ?_⟩, (rd_of_mem mem ..).trans reads', unsigned, fun p other => ?_,
    (stored.pieces.mono (by decide)).trans (frame.pieces.mono (by decide))⟩
  · rw [whole] at reads
    rw [rd_of_mem mem, keeps'.rd (.inl (Nat.le_refl _)), reads]
  · exact ((keeps.widen (Nat.le_refl _) (by omega)).trans (keeps'.widen (by omega) (by omega))).trans (.of_mem _ _ mem)
  · obtain ⟨c, j, part⟩ := stored.notes p
    rw [others p other, part]

theorem endSign_fails {s : State} {j : SignJob} {a : MgtCmd} (run : j.run = none) (cmd : j.cmd = some a) :
    s.endSign j none = s.endCmd a stEntropyFailed 0 [] := by
  rw [State.endSign, run, cmd]

theorem endSign_network {s : State} {j : SignJob} {a : MgtCmd} {g : List Byte} (run : j.run = none) (cmd : j.cmd = some a)
    (box : a.src.box.isNone = true) : s.endSign j (some g) = s.endCmd a stDone 0 (j.message ++ signatureArea g) := by
  rw [Option.isNone_iff_eq_none] at box
  rw [State.endSign, run, cmd]
  exact if_neg (by simp [box])

theorem endSign_mailbox {s : State} {j : SignJob} {a : MgtCmd} {g : List Byte} (run : j.run = none) (cmd : j.cmd = some a)
    (box : a.src.box.isSome = true) :
    s.endSign j (some g) = (s.wrDram 127 j.dest (j.message ++ signatureArea g)).endCmd a stDone 0 [] := by
  rw [State.endSign, run, cmd]
  exact if_pos box

theorem endSign_spdm {s : State} {j : SignJob} {req g : List Byte} (run : j.run = none) (cmd : j.cmd = none)
    (spdm : j.spdm = some req) : s.endSign j (some g) = s.mctpSend (Config.spdmReply req j.message g) := by
  rw [State.endSign, run, cmd]
  dsimp only
  rw [spdm]
  rfl

/-! ## The debug port (R392) -/

/-- DEBUG's work that opens the port. -/
def debugOpenWork (c : MgtCmd) (s : State) : State :=
  if (leAt ((s.storeEntry 7).getD []) 0 1).testBit 0 then { s with mgt := { s.mgt with debugOpen := true } }.endCmd c stDone 0 []
  else s.endCmd c stRefused 0 []

/-- DEBUG's work that closes the port. -/
def debugCloseWork (c : MgtCmd) (s : State) : State := { s with mgt := { s.mgt with debugOpen := false } }.endCmd c stDone 0 []

theorem exec_debugOpen {s : State} {c : MgtCmd} {cs : List MgtCmd} (queue : s.mgt.queue = c :: cs) (opens : c.arg 0 = 1) :
    exec .debugOpen s = .next (s.serve 11 debugOpenWork) := by
  have step : exec .debugOpen s = execDebugOpen s := rfl
  rw [step, execDebugOpen, queue]
  exact congrArg Host.Outcome.next (if_neg (by simp [opens]))

theorem exec_debugClose {s : State} {c : MgtCmd} {cs : List MgtCmd} (queue : s.mgt.queue = c :: cs) (closes : c.arg 0 = 0) :
    exec .debugClose s = .next (s.serve 11 debugCloseWork) := by
  have step : exec .debugClose s = execDebugClose s := rfl
  rw [step, execDebugClose, queue]
  exact congrArg Host.Outcome.next (if_neg (by simp [closes]))

/-- A command that sets the debug port ends DONE with the port so. -/
theorem AtHead.setsDebug {s : State} {op : Nat} {c : MgtCmd} {cs : List MgtCmd} (h : AtHead s op c cs) {f : MgtCmd → State → State}
    {b : Bool} (runs : f c s.popCmd = State.endCmd { s.popCmd with mgt := { s.popCmd.mgt with debugOpen := b } } c stDone 0 []) :
    EndsAs c cs stDone 0 [] s (s.serve op f) ∧ (s.serve op f).mgt.debugOpen = b ∧ KeepsRegs mailRegs s (s.serve op f) ∧
      OnlyTouches [.regs, .mgt, .msix] s (s.serve op f) := by
  obtain ⟨u, eu⟩ : ∃ u : State, { s.popCmd with mgt := { s.popCmd.mgt with debugOpen := b } } = u := ⟨_, rfl⟩
  have popped := h.popped
  have mgt : u.mgt = { s.mgt with queue := cs, debugOpen := b } := by rw [← eu, popped]
  have set : Frame [.mgt] [] s.popCmd u := eu ▸ .of_within (within_mgt (s := s.popCmd) _)
  have work : Frame [.mgt] [] s u := set.comp (.of_within (within_popCmd s))
  rw [eu] at runs
  obtain ⟨ends, frame, out, mgt'⟩ := h.worksOn runs work (by rw [mgt]) (by rw [mgt])
  exact ⟨ends, by rw [mgt', mgt], (frame.comp (work.mono (own := List.nil_subset _))).regs,
    (work.pieces.mono (by decide)).trans frame.pieces⟩

theorem frame_nextSign (s : State) (js : List SignJob) : Frame [.mgt] [] s (s.nextSign js) := .of_within (within_mgt (s := s) _)

theorem frame_signing (s : State) (js : List SignJob) : Frame [.ent, .mgt] [] s (s.signing js) :=
  ((Frame.of_within (within_mgt (s := { s with ent := { s.ent with out := s.ent.out.drop 64 } }) { s.mgt with sign := js })).mono
    (own := List.nil_subset _)).comp ((Frame.of_within (within_ent (s := s) _)).mono (own := List.nil_subset _))

/-- Settles O51: the commands' work by its checks, and a signature's end by what asked for it. -/
theorem mailboxReadsComplete : Obligations.MailboxReadsComplete := by
  unfold Obligations.MailboxReadsComplete
  intro s c cs
  refine ⟨fun bs h eb => ⟨fun outside => ?_, fun box inside clean => ?_, fun box => ?_⟩, fun h outside => ?_,
    fun h box report inside bad => ?_,
    fun nonce h report inside clean en => ⟨fun key serves room => ?_, fun st why => ?_, fun st why => ?_⟩,
    sign_waits,
    fun j js asked running fatal => ⟨fun q d x run job own => ?_, fun a run cmd => ?_⟩,
    fun j js sig asked running serves turn enough es => ⟨fun q d x clean run job own => ?_, fun a run cmd box => ?_,
      fun a clean run cmd box => ?_, fun req run cmd spdm => ?_⟩,
    fun h open_ => ⟨fun allowed => ?_, fun refused => ?_⟩, fun h close => ?_⟩
  · subst eb
    exact ⟨_, exec_logRead s, h.onlyEnds (logRead_outside (s := s.popCmd) outside)⟩
  · have stored : Stores s.popCmd (s.popCmd.wrDram 127 (c.arg 2) bs) := stores_wrDram (s := s.popCmd) clean _ _ _
    have reads : (s.popCmd.wrDram 127 (c.arg 2) bs).rd (c.arg 2) bs.length = bs := rd_wrDram_self (s := s.popCmd) clean _ _ _
    have keeps : KeepsBytes (c.arg 2) bs.length s.popCmd (s.popCmd.wrDram 127 (c.arg 2) bs) :=
      keepsBytes_wrDram (s := s.popCmd) clean _ _ _
    obtain ⟨ends, frame, work⟩ := h.works (logRead_mailbox (s := s.popCmd) eb box inside) stored.frame
    have mem := frame.pieces .mem (by decide)
    refine ⟨_, exec_logRead s, ends, (rd_of_mem mem ..).trans reads, keeps.trans (.of_mem _ _ mem), fun q _ => ?_,
      ((frame.mono (ps := [.regs, .mem, .parts, .mgt, .msix])).comp (work.mono (rs := mailRegs) (own := List.nil_subset _))).regs,
      (work.pieces.mono (by decide)).trans (frame.pieces.mono (by decide))⟩
    obtain ⟨k, j, part⟩ := stored.notes q
    rw [part_through frame.pieces, part]
    rfl
  · obtain ⟨ends, frame⟩ := h.ends_network (logRead_network (s := s.popCmd) eb box) (by rwa [Option.isNone_iff_eq_none] at box)
    exact ⟨_, exec_logRead s, ends, frame⟩
  · exact ⟨_, exec_attest s, h.onlyEnds (attest_outside (s := s.popCmd) outside)⟩
  · exact ⟨_, exec_attest s, h.faulted ((if_neg (by simp [show s.popCmd.staged c (c.arg 1) 2048 = true from report])).trans
      (withData_faulted (s := s.popCmd) box inside bad _))⟩
  · have runs := (attest_data (s := s.popCmd) report inside clean en).trans (attest_asks key serves room)
    have popped := h.popped
    rw [exec_attest, h.serve_ends runs (by rw [popped]) (by rw [popped]), popped]
    rfl
  · obtain ⟨runs, small⟩ := attest_counts (s := s.popCmd) (c := c) (nonce := nonce) (st := st)
      (why.elim And.left And.left) (why.imp And.right And.right)
    have counted := rf_count_self s.popCmd Reg.mgtHealth (hi := 31) (lo := 16) 1 (by decide) (by decide)
    obtain ⟨u, eu⟩ : ∃ u, s.popCmd.count Reg.mgtHealth 31 16 1 = u := ⟨_, rfl⟩
    have work : Frame [.regs] [Reg.mgtHealth] s.popCmd u := eu ▸ frame_count ..
    rw [eu] at runs counted
    have mgt : u.mgt = { s.mgt with queue := cs } := (work.pieces .mgt (by decide)).trans (by rw [h.popped])
    have all : Frame [.regs, .mgt] [Reg.mgtHealth] s u :=
      work.mono.comp ((Frame.of_within (within_popCmd s)).mono (own := List.nil_subset _))
    obtain ⟨ends, frame, out, mgt'⟩ := h.worksOn ((attest_data (s := s.popCmd) report inside clean en).trans runs) all
      (by rw [mgt]) (by rw [mgt]) (small := small)
    refine ⟨_, exec_attest s, ends, by rw [mgt', mgt], (frame.rf (by decide) _ _).trans counted,
      ((frame.mono (own := List.subset_cons_self ..)).comp (all.mono (ps := [.regs, .mgt, .msix]) (own := by simp))).regs,
      (all.pieces.mono (by decide)).trans frame.pieces⟩
  · obtain ⟨runs, small⟩ := attest_refused (s := s.popCmd) (c := c) (nonce := nonce) (st := st) why
    have runs' := (attest_data (s := s.popCmd) report inside clean en).trans runs
    obtain ⟨-, -, out, mgt⟩ := h.ends runs' small
    obtain ⟨ends, regs, pieces⟩ := h.onlyEnds runs' small
    exact ⟨_, exec_attest s, ends, by rw [mgt], regs, pieces⟩
  · have counted := rf_count_self (s.nextSign js) Reg.mgtHealth (hi := 31) (lo := 16) 1 (by decide) (by decide)
    have out := endSign_run run (s := (s.nextSign js).count Reg.mgtHealth 31 16 1) none
    have runs := sign_fatal asked running fatal
    obtain ⟨u, eu⟩ : ∃ u, (s.nextSign js).count Reg.mgtHealth 31 16 1 = u := ⟨_, rfl⟩
    have work : Frame [.regs] [Reg.mgtHealth] (s.nextSign js) u := eu ▸ frame_count ..
    rw [eu] at out runs counted
    have part (p : Nat) : u.part p = s.part p := (part_through work.pieces p).trans (part_through (frame_nextSign s js).pieces p)
    obtain ⟨unsigned, others, frame⟩ := settled_unsigned (s := u) (by rw [part, job]) own
    rw [show _ = u.endSign j none from out.symm] at unsigned others frame
    refine ⟨_, runs, ?_, unsigned, (frame.rf (by decide) _ _).trans counted, fun p no => (others p no).trans (part p),
      ((frame_nextSign s js).pieces.mono (by decide)).trans ((work.pieces.mono (by decide)).trans (frame.pieces.mono (by decide)))⟩
    exact (frame.pieces .mgt (by decide)).trans (work.pieces .mgt (by decide))
  · have counted := rf_count_self (s.nextSign js) Reg.mgtHealth (hi := 31) (lo := 16) 1 (by decide) (by decide)
    have runs := sign_fatal asked running fatal
    obtain ⟨u, eu⟩ : ∃ u, (s.nextSign js).count Reg.mgtHealth 31 16 1 = u := ⟨_, rfl⟩
    have work : Frame [.regs] [Reg.mgtHealth] (s.nextSign js) u := eu ▸ frame_count ..
    rw [eu, endSign_fails run cmd] at runs
    rw [eu] at counted
    have mgt : u.mgt = { s.mgt with sign := js } := work.pieces .mgt (by decide)
    have all : Frame [.regs, .mgt] [Reg.mgtHealth] s u := work.mono.comp ((frame_nextSign s js).mono (own := List.nil_subset _))
    obtain ⟨ends, frame⟩ := endCmd_after all a stEntropyFailed 0 [] (eth := by rw [mgt])
    obtain ⟨-, ⟨out, mgt'⟩, -⟩ := endCmd_spec u a stEntropyFailed 0 [] (by decide)
    rw [mgt] at ends
    exact ⟨_, runs, by rw [mgt', mgt], ends, (frame.rf (by decide) _ _).trans counted,
      ((frame.mono (own := List.subset_cons_self ..)).comp (all.mono (ps := [.regs, .mgt, .msix]) (own := by simp))).regs,
      (all.pieces.mono (by decide)).trans frame.pieces⟩
  · have runs := sign_signs asked running serves turn enough
    have ended := endSign_run (s := s.signing js) run (some (Config.falconSign j.message (s.ent.out.take 64)))
    obtain ⟨t, et⟩ : ∃ t, (s.signing js).endSign j (some (Config.falconSign j.message (s.ent.out.take 64))) = t := ⟨_, rfl⟩
    rw [et] at runs ended
    dsimp only at ended
    rw [← es] at ended
    obtain ⟨written, reads, unsigned, others, frame⟩ := signed_record (s := s.signing js) clean ended job own
    exact ⟨t, runs, frame .mgt (by decide), frame .ent (by decide), written, reads, unsigned, others,
      ((frame_signing s js).pieces.mono (by decide)).trans (frame.mono (by decide))⟩
  · have runs := sign_signs asked running serves turn enough
    rw [endSign_network run cmd box, ← es] at runs
    obtain ⟨ends, -⟩ := endCmd_after (frame_signing s js) a stDone 0 (j.message ++ sig) (eth := rfl)
    obtain ⟨out, ran, -⟩ := endCmd_network (s := s.signing js) (c := a) (by rwa [Option.isNone_iff_eq_none] at box) stDone 0
      (j.message ++ sig)
    refine ⟨_, runs, ?_, ?_, ends, ?_⟩
    · exact congrArg (fun u => u.mgt.sign) ran
    · exact congrArg State.ent ran
    · exact ran ▸ ((frame_signing s js).pieces.trans ((within_mgt (s := s.signing js) _).touches.mono (by decide)))
  · have runs := sign_signs asked running serves turn enough
    rw [endSign_mailbox run cmd box, ← es] at runs
    obtain ⟨bs, eb⟩ : ∃ bs, j.message ++ sig = bs := ⟨_, rfl⟩
    rw [eb] at runs ⊢
    have stored : Stores (s.signing js) ((s.signing js).wrDram 127 j.dest bs) := stores_wrDram (s := s.signing js) clean _ _ _
    have reads : ((s.signing js).wrDram 127 j.dest bs).rd j.dest bs.length = bs := rd_wrDram_self (s := s.signing js) clean _ _ _
    have keeps : KeepsBytes j.dest bs.length (s.signing js) ((s.signing js).wrDram 127 j.dest bs) :=
      keepsBytes_wrDram (s := s.signing js) clean _ _ _
    obtain ⟨u, eu⟩ : ∃ u, (s.signing js).wrDram 127 j.dest bs = u := ⟨_, rfl⟩
    rw [eu] at runs stored reads keeps
    have all : Frame [.mem, .parts, .ent, .mgt] [] s u := stored.frame.mono.comp (frame_signing s js).mono
    have mgt : u.mgt = { s.mgt with sign := js } := stored.pieces .mgt (by decide)
    obtain ⟨ends, frame⟩ := endCmd_after all a stDone 0 [] (eth := by rw [mgt])
    obtain ⟨-, ⟨out, mgt'⟩, -⟩ := endCmd_spec u a stDone 0 [] (by decide)
    rw [mgt] at ends
    have mem := frame.pieces .mem (by decide)
    refine ⟨_, runs, by rw [mgt', mgt], (frame.pieces .ent (by decide)).trans (stored.pieces .ent (by decide)), ends,
      (rd_of_mem mem ..).trans reads, KeepsBytes.trans keeps (.of_mem _ _ mem), fun q _ => ?_,
      ((frame.mono (ps := [.regs, .mem, .parts, .ent, .mgt, .msix])).comp (all.mono (rs := mailRegs) (own := List.nil_subset _))).regs,
      (all.pieces.mono (by decide)).trans (frame.pieces.mono (by decide))⟩
    obtain ⟨k, jb, part⟩ := stored.notes q
    rw [part_through frame.pieces, part]
    rfl
  · have runs := sign_signs asked running serves turn enough
    rw [endSign_spdm run cmd spdm] at runs
    exact runs
  · exact ⟨_, exec_debugOpen h.queue open_, h.setsDebug (if_pos (by rwa [storeEntry_of_flash (s := s) (t := s.popCmd) rfl]))⟩
  · have runs : debugOpenWork c s.popCmd = s.popCmd.endCmd c stRefused 0 [] :=
      if_neg (by rw [storeEntry_of_flash (s := s) (t := s.popCmd) rfl, refused]; decide)
    obtain ⟨-, -, out, mgt⟩ := h.ends runs
    obtain ⟨ends, regs, pieces⟩ := h.onlyEnds runs
    exact ⟨_, exec_debugOpen h.queue open_, ends, by rw [mgt], regs, pieces⟩
  · exact ⟨_, exec_debugClose h.queue close, h.setsDebug rfl⟩

end Sys2Proof.Machine
end

section
/-! PROOFS. Events of the Gatehouse. -/

namespace Sys2Proof.Machine

open Sys2Proof

-- One theorem after another: many at once would need too many threads.
set_option Elab.async false

/-! ## The persistent log (R395) -/

theorem flashRd_congr {s t : State} {a n : Nat}
    (same : ∀ k, a ≤ k → k < a + n → Table.look blankByte t.flash k = Table.look blankByte s.flash k) :
    t.flashRd a n = s.flashRd a n := by
  induction n generalizing a with
  | zero => rfl
  | succ n ih =>
    have first := same a (Nat.le_refl _) (by omega)
    have rest : t.flashRd (a + 1) n = s.flashRd (a + 1) n := ih fun k low high => same k (by omega) (by omega)
    rw [State.flashRd, Table.span, State.flashRd, Table.span]
    exact congr (congrArg List.cons first) rest

theorem length_logEntry (m : FaultMsg) (time : U64) (start seq : Nat) : (logEntry m time start seq).length = 32 := by
  simp [logEntry, zeros]

/-- Two entries of the log less than a sector apart lie apart, and the older one lies outside the newer one's sector. -/
theorem logAt_apart {k seq : Nat} (older : k < seq) (near : seq < k + 2048) :
    (logAt k + 32 ≤ logAt seq ∨ logAt seq + 32 ≤ logAt k) ∧
      (seq % 2048 = 0 → logAt k + 32 ≤ logAt seq ∨ logAt seq + 0x10000 ≤ logAt k) := by
  simp only [logAt, logEntries]
  omega

/-- An entry programmed reads back; the older ones nearby stay. -/
theorem programEntry_spec (s : State) (e : FaultMsg × U64) :
    (s.programEntry e).mgt.logSeq = s.mgt.logSeq + 1 ∧
    (s.programEntry e).flashRd (logAt s.mgt.logSeq) 32 = logEntry e.1 e.2 (s.rf Reg.genStarts 31 0) s.mgt.logSeq ∧
    (∀ k, k < s.mgt.logSeq → s.mgt.logSeq < k + 2048 → (s.programEntry e).flashRd (logAt k) 32 = s.flashRd (logAt k) 32) ∧
    OnlyTouches [.flash, .mgt] s (s.programEntry e) := by
  obtain ⟨bs, eb⟩ : ∃ bs, logEntry e.1 e.2 (s.rf Reg.genStarts 31 0) s.mgt.logSeq = bs := ⟨_, rfl⟩
  have size : bs.length = 32 := eb ▸ length_logEntry ..
  obtain ⟨u, eu⟩ : ∃ u, (if s.mgt.logSeq % 2048 = 0 then s.eraseSector (logAt s.mgt.logSeq) else s) = u := ⟨_, rfl⟩
  have flash : (s.programEntry e).flash = (u.flashWr (logAt s.mgt.logSeq) bs).flash := by
    rw [← eb, ← eu]
    unfold State.programEntry
    with_reducible rfl
  have kept (k : Nat) (older : k < s.mgt.logSeq) (near : s.mgt.logSeq < k + 2048) : u.flashRd (logAt k) 32 = s.flashRd (logAt k) 32 := by
    rw [← eu]
    split
    next begins =>
      refine flashRd_congr fun a low high => ?_
      rw [State.eraseSector, look_flashErase, if_neg]
      have := (logAt_apart older near).2 begins
      omega
    next => rfl
  have reads (a : Nat) : (s.programEntry e).flashRd a 32 = (u.flashWr (logAt s.mgt.logSeq) bs).flashRd a 32 := by
    rw [State.flashRd, flash, State.flashRd]
  refine ⟨rfl, ?_, fun k older near => ?_, (within_programEntry s e).touches⟩
  · rw [reads, eb, ← size]
    exact Table.span_putSpan blankByte u.flash _ bs
  · rw [reads, ← kept k older near]
    exact Table.span_putSpan_other blankByte u.flash _ bs _ _ (by rw [size]; exact (logAt_apart older near).1)

/-- Entries programmed one after another read back, when they fill no more than a sector's length. -/
theorem programEntries_spec (l : List (FaultMsg × U64)) : ∀ s : State,
    (l.foldl State.programEntry s).mgt.logSeq = s.mgt.logSeq + l.length ∧
    (∀ k, k < s.mgt.logSeq → s.mgt.logSeq + l.length ≤ k + 2048 →
      (l.foldl State.programEntry s).flashRd (logAt k) 32 = s.flashRd (logAt k) 32) ∧
    (∀ (k : Nat) x, l.length ≤ 2048 → l[k]? = some x → (l.foldl State.programEntry s).flashRd (logAt (s.mgt.logSeq + k)) 32 =
      logEntry x.1 x.2 (s.rf Reg.genStarts 31 0) (s.mgt.logSeq + k)) ∧
    OnlyTouches [.flash, .mgt] s (l.foldl State.programEntry s) := by
  induction l with
  | nil => exact fun s => ⟨rfl, fun _ _ _ => rfl, fun k x _ h => absurd h (by simp), .refl _ _⟩
  | cons e l ih =>
    intro s
    obtain ⟨seq, reads, kept, touches⟩ := programEntry_spec s e
    obtain ⟨seq', kept', reads', touches'⟩ := ih (s.programEntry e)
    rw [seq] at seq' kept' reads'
    rw [(Frame.of_within (within_programEntry s e)).rf (by simp)] at reads'
    rw [List.foldl_cons, List.length_cons]
    refine ⟨by rw [seq']; omega, fun k older near => ?_, fun k x short at_ => ?_, touches.trans touches'⟩
    · rw [kept' k (by omega) (by omega), kept k older (by omega)]
    · cases k with
      | zero =>
        obtain rfl := Option.some.inj at_
        rw [Nat.add_zero, kept' _ (by omega) (by omega), reads]
      | succ k =>
        rw [show s.mgt.logSeq + (k + 1) = s.mgt.logSeq + 1 + k by omega]
        exact reads' k x (by omega) at_

theorem logProgram_writes {s : State} {e : FaultMsg × U64} {es : List (FaultMsg × U64)} (log : s.flt.log = e :: es)
    (up : s.boot.sag = false) (running : s.mgt.halted = false) (due : 64 ≤ s.flt.log.length ∨ e.1.at_ + 80000000 ≤ s.mc) :
    exec .logProgram s = .next (s.flt.log.foldl State.programEntry { s with flt := { s.flt with log := [] } }) := by
  have step : exec .logProgram s = execLogProgram s := rfl
  rw [step]
  unfold execLogProgram
  split
  next none => exact absurd (log.symm.trans none) (by simp)
  next e' es' log' =>
    obtain ⟨rfl, rfl⟩ := List.cons.inj (log.symm.trans log')
    exact if_pos (by simp [up, running, due])

theorem logProgram_waits {s : State} (waits : s.flt.log = [] ∨ s.boot.sag = true ∨ s.mgt.halted = true ∨
    (∃ e es, s.flt.log = e :: es ∧ s.flt.log.length < 64 ∧ s.mc < e.1.at_ + 80000000)) : exec .logProgram s = .next s := by
  have step : exec .logProgram s = execLogProgram s := rfl
  rw [step]
  unfold execLogProgram
  split
  next => rfl
  next e es log =>
    refine if_neg ?_
    rcases waits with none | sag | halted | ⟨e', es', log', few, young⟩
    · exact absurd (log.symm.trans none) (by simp)
    · simp [sag]
    · simp [halted]
    · obtain ⟨rfl, rfl⟩ := List.cons.inj (log.symm.trans log')
      simp only [Bool.and_eq_true, Bool.or_eq_true, decide_eq_true_eq]
      omega

/-! ## Datagrams of the management network (R399) -/

theorem dropUnknown_unserved {s : State} {c : MgtCmd} (alone : s.mgt.queue = [c]) (unknown : s.serves c.opcode = false)
    (eth : c.src = .ethernet) : s.dropUnknown 1 = { s with mgt := { s.mgt with
      queue := [], ethOut := s.mgt.ethOut ++ ethReply c stBad [] } } := by
  unfold State.dropUnknown
  split
  next d ds queue =>
    obtain ⟨rfl, rfl⟩ := List.cons.inj (alone.symm.trans queue)
    rw [if_neg (by simp [unknown])]
    unfold State.dropUnknown State.endCmd
    rw [eth]
    rfl
  next none => exact absurd (alone.symm.trans none) (by simp)

theorem pushCmd_served {s : State} {c : MgtCmd}
    (served : ∀ y, (queueCmd { c with at_ := s.mc } s.mgt.queue).head? = some y → s.serves y.opcode = true) :
    s.pushCmd c = { s with mgt := { s.mgt with queue := queueCmd { c with at_ := s.mc } s.mgt.queue } } :=
  dropUnknown_served served _

theorem pushCmd_unserved {s : State} {c : MgtCmd} (empty : s.mgt.queue = []) (unknown : s.serves c.opcode = false)
    (eth : c.src = .ethernet) : s.pushCmd c = { s with mgt := { s.mgt with
      ethOut := s.mgt.ethOut ++ ethReply c stBad [] } } := by
  have pushed : s.pushCmd c = State.dropUnknown { s with mgt := { s.mgt with queue := [{ c with at_ := s.mc }] } } 1 := by
    unfold State.pushCmd
    dsimp only
    rw [empty]
    rfl
  rw [pushed]
  refine (dropUnknown_unserved (s := { s with mgt := { s.mgt with queue := [{ c with at_ := s.mc }] } }) rfl unknown eth).trans ?_
  rw [← empty]
  rfl

/-- The command that a datagram begins or joins. -/
theorem datagram_cmd {s : State} {bytes : List Byte} {x : MgtCmd} (long : 16 ≤ bytes.length) (short : bytes.length ≤ 1416)
    (started : s.boot.inReset = false) (running : s.mgt.halted = false)
    (cmd : (x = gramCmd bytes ∧ ∀ g, s.mgt.gram = some g → ¬ (g.seq = leAt bytes 0 4 ∧ g.opcode = leAt bytes 4 1)) ∨
      (∃ g, s.mgt.gram = some g ∧ g.seq = leAt bytes 0 4 ∧ g.opcode = leAt bytes 4 1 ∧
        x = { g with bytes := g.bytes ++ (bytes.drop 16).take (leAt bytes 6 2) })) :
    exec (.mgeDatagram bytes) s = if x.bytes.length < x.wants then .next { s with mgt := { s.mgt with gram := some x } }
      else .next (State.pushCmd { s with mgt := { s.mgt with gram := none } } x) := by
  have step : exec (.mgeDatagram bytes) s = execMgeDatagram bytes s := rfl
  have begun : x = (match s.mgt.gram with
      | some g =>
        if g.seq = leAt bytes 0 4 ∧ g.opcode = leAt bytes 4 1 then
          { g with bytes := g.bytes ++ (bytes.drop 16).take (leAt bytes 6 2) }
        else gramCmd bytes
      | none => gramCmd bytes) := by
    rcases cmd with ⟨rfl, other⟩ | ⟨g, gram, seq, op, rfl⟩
    · split
      next g gram => rw [if_neg (other g gram)]
      next => rfl
    · rw [gram]
      exact (if_pos ⟨seq, op⟩).symm
  rw [step, begun]
  exact if_neg (by simp [started, running]; omega)

/-! ## Messages of the management endpoint (R400) -/

theorem mctp_ignored {s : State} {bytes : List Byte}
    (idle : (s.boot.inReset = true ∧ s.boot.bootRom = false) ∨ s.mgt.halted = true ∨ s.mctpServes bytes = false) :
    exec (.mctpMessage bytes) s = .next s := by
  have step : exec (.mctpMessage bytes) s = execMctpMessage bytes s := rfl
  rw [step]
  refine if_pos ?_
  rcases idle with ⟨reset, rom⟩ | halted | off
  · simp [reset, rom]
  · simp [halted]
  · simp [off]

/-- What a message that is served leaves: the answer to it, or its report waiting for a signature. -/
def State.answered (s : State) (bytes : List Byte) : State :=
  let asked := asksMeasurements bytes && s.ent.state.serves
  let r := if asked then s.askSign ⟨padTo 512 (zeros 32 ++ s.attestFacts), 0, none, none, some bytes⟩ else (false, s)
  if r.1 then r.2 else r.2.mctpSend (Config.mctpReply bytes s.attestFacts (s.mgt.sensors.map sensorFacts))

/-- The update that a completed image becomes. -/
def imageCmd (img : List Byte) : MgtCmd :=
  { src := .smbus, opcode := 7, irq := false, vector := 0, args := [0, BitVec.ofNat 64 img.length], bytes := img }

theorem mctp_served {s : State} {bytes : List Byte} (awake : s.boot.inReset = false ∨ s.boot.bootRom = true)
    (running : s.mgt.halted = false) (served : s.mctpServes bytes = true) :
    exec (.mctpMessage bytes) s = .next (match Config.mctpImage (s.answered bytes).clk.wall bytes with
      | some img => (s.answered bytes).pushCmd (imageCmd img)
      | none => s.answered bytes) := by
  have step : exec (.mctpMessage bytes) s = execMctpMessage bytes s := rfl
  rw [step]
  refine (if_neg ?_).trans rfl
  rcases awake with on | rom
  · simp [on, running, served]
  · simp [rom, running, served]

theorem answered_replies {s : State} {bytes : List Byte}
    (plain : asksMeasurements bytes = false ∨ s.ent.state.serves = false ∨ s.provisioned = false) :
    s.answered bytes = s.mctpSend (Config.mctpReply bytes s.attestFacts (s.mgt.sensors.map sensorFacts)) := by
  obtain ⟨facts, ef⟩ : ∃ facts, s.attestFacts = facts := ⟨_, rfl⟩
  unfold State.answered
  dsimp only
  rw [ef]
  have none : (if (asksMeasurements bytes && s.ent.state.serves) = true then
      s.askSign ⟨padTo 512 (zeros 32 ++ facts), 0, none, none, some bytes⟩ else (false, s)) = (false, s) := by
    by_cases asked : (asksMeasurements bytes && s.ent.state.serves) = true
    · obtain ⟨asks, serves⟩ := Bool.and_eq_true_iff.mp asked
      have key := (plain.resolve_left (by simp [asks])).resolve_left (by simp [serves])
      rw [if_pos asked, State.askSign, if_pos (by simp [key])]
    · exact if_neg asked
  rw [none]
  exact if_neg Bool.false_ne_true

theorem answered_signs {s : State} {bytes : List Byte} (asks : asksMeasurements bytes = true) (serves : s.ent.state.serves = true)
    (key : s.provisioned = true) (room : s.mgt.sign.length < 64) : s.answered bytes = { s with mgt := { s.mgt with
      sign := s.mgt.sign ++ [⟨padTo 512 (zeros 32 ++ s.attestFacts), 0, none, none, some bytes⟩] } } := by
  have awake := serves_not_fatal serves
  obtain ⟨facts, ef⟩ : ∃ facts, s.attestFacts = facts := ⟨_, rfl⟩
  have signs (y : SignJob) : s.askSign y = (true, { s with mgt := { s.mgt with sign := s.mgt.sign ++ [y] } }) := by
    rw [State.askSign, if_neg (by simp [key]), if_neg (by simp [awake]; omega)]
  unfold State.answered
  dsimp only
  rw [ef, asks, serves, Bool.true_and, if_pos rfl, signs]
  exact if_pos rfl

/-- An update that comes by SMBus is one that the Gatehouse serves. -/
theorem serves_update (s : State) : s.serves 7 = true := by
  simp [State.serves, argShape]

/-! ## Sensors (R396, R397, R415, R416) -/

theorem sample_idle {s : State} {l : List (Fin 128 × U16)} (idle : s.boot.inReset = true ∨ s.mgt.halted = true ∨ l = []) :
    exec (.sensorSample l) s = .next s := by
  have step : exec (.sensorSample l) s = execSensorSample l s := rfl
  rw [step, execSensorSample]
  rcases idle with reset | halted | rfl
  · rw [if_pos (.inl reset)]
  · rw [if_pos (.inr halted)]
  · rw [List.foldl_nil, ite_self]

theorem sample_runs {s : State} (started : s.boot.inReset = false) (running : s.mgt.halted = false) (l : List (Fin 128 × U16)) :
    exec (.sensorSample l) s = .next (l.foldl State.takeSensor s) := by
  have step : exec (.sensorSample l) s = execSensorSample l s := rfl
  rw [step, execSensorSample, if_neg (by simp [started, running])]

theorem takeSensor_running (s : State) (x : Fin 128 × U16) :
    (s.takeSensor x).boot = s.boot ∧ (s.takeSensor x).mgt.halted = s.mgt.halted := by
  unfold State.takeSensor
  split
  · have frame := (within_railFailed s (x.1.val - 96)).touches
    exact ⟨frame .boot (by decide), congrArg Gatehouse.halted (frame .mgt (by decide))⟩
  · unfold State.sampleSensor
    extract_lets i v old
    obtain ⟨u, eu⟩ : ∃ u : State, { s with
      mgt := { s.mgt with sensors := Table.put (fun _ => []) s.mgt.sensors i ((v :: old).take 1000) }
      pwr := { s.pwr with temps := Table.put (fun _ => 0) s.pwr.temps i v } } = u := ⟨_, rfl⟩
    have frame := (within_warn u i).touches
    rw [eu]
    exact ⟨(frame .boot (by decide)).trans (by rw [← eu]),
      (congrArg Gatehouse.halted (frame .mgt (by decide))).trans (by rw [← eu])⟩

/-- Samples are taken one after another. -/
theorem sample_cons (s : State) (x : Fin 128 × U16) (l : List (Fin 128 × U16)) :
    ∃ t, exec (.sensorSample [x]) s = .next t ∧ exec (.sensorSample (x :: l)) s = exec (.sensorSample l) t := by
  by_cases idle : s.boot.inReset = true ∨ s.mgt.halted = true
  · have stays (m : List (Fin 128 × U16)) := sample_idle (s := s) (l := m) (idle.elim .inl (fun h => .inr (.inl h)))
    exact ⟨s, stays _, (stays _).trans (stays _).symm⟩
  · obtain ⟨started, running⟩ := not_or.mp idle
    obtain ⟨boot, halted⟩ := takeSensor_running s x
    exact ⟨s.takeSensor x, sample_runs (by simpa using started) (by simpa using running) _,
      (sample_runs (by simpa using started) (by simpa using running) _).trans
        (sample_runs (by rw [boot]; simpa using started) (by rw [halted]; simpa using running) _).symm⟩

/-- A rail that cannot be read is counted and reported. -/
theorem railFailed_spec (s : State) (k : Nat) :
    (s.railFailed k).rf Reg.mgtHealth 47 32 = satAdd (2 ^ 16 - 1) (s.rf Reg.mgtHealth 47 32) 1 ∧
    Reports [(blockSrc 7 (96 + k), 0x80, ofSigned 16 (s.temp (96 + k)))] 127 s (s.railFailed k) ∧
    Frame [.regs, .flt] (Reg.mgtHealth :: faultRegs) s (s.railFailed k) := by
  have counted := rf_count_self s Reg.mgtHealth (hi := 47) (lo := 32) 1 (by decide) (by decide)
  have first := frame_count s Reg.mgtHealth 47 32 1
  unfold State.railFailed State.ownLog
  obtain ⟨u, eu⟩ : ∃ u, s.count Reg.mgtHealth 47 32 1 = u := ⟨_, rfl⟩
  rw [eu] at counted first ⊢
  have second := frame_report u (blockSrc 7 (96 + k)) 0x80 (ofSigned 16 (s.temp (96 + k))) 127
  have told := (reports_report u (blockSrc 7 (96 + k)) 0x80 (ofSigned 16 (s.temp (96 + k))) 127).after
    (first.pieces .flt (by decide)) (first.pieces .clk (by decide))
  rw [← State.temp]
  obtain ⟨v, ev⟩ : ∃ v, u.report (blockSrc 7 (96 + k)) 0x80 (ofSigned 16 (s.temp (96 + k))) 127 = v := ⟨_, rfl⟩
  rw [ev] at second told ⊢
  have third := frame_enterLog v ⟨Config.ownEntry 6 k, 127, v.mc⟩
  have queue (m : FaultMsg) : (v.enterLog m).flt.queue = v.flt.queue := by
    unfold State.enterLog
    split
    · rfl
    · exact congrArg Faults.queue ((frame_count ..).pieces .flt (by decide))
  refine ⟨(third.rf (by decide) _ _).trans ((second.rf (by decide) _ _).trans counted), fun room x mem => ?_, ?_⟩
  · rw [queue]
    exact told room x mem
  · exact (third.mono (own := by simp [faultRegs])).comp ((second.mono (own := by simp [faultRegs])).comp
      (first.mono (own := by simp)))

/-- The warning of a sensor at its temperature: reported as it rises to WARN, and ready again 3 °C below. -/
theorem warn_spec {u : State} {i : Nat} {lim : Int}
    (el : lim = (if i < 71 then u.threshold (u.rf Reg.pwrTherm 7 0) else u.rf Reg.pwrTherm 7 0 * 16)) :
    (i < 112 → lim ≤ u.temp i → i ∉ u.pwr.warned → (u.warn i).pwr.warned = i :: u.pwr.warned ∧
      Reports [(blockSrc 7 i, 0x80, ofSigned 16 (u.temp i))] 127 u (u.warn i)) ∧
    ((112 ≤ i ∨ u.temp i < lim ∨ i ∈ u.pwr.warned) → (u.warn i).flt = u.flt ∧ (u.warn i).regs = u.regs) ∧
    (i < 112 → u.temp i < lim - 48 → (u.warn i).pwr.warned = u.pwr.warned.filter (· != i)) ∧
    (u.warn i).pwr.temps = u.pwr.temps ∧ Frame [.regs, .flt, .pwr] faultRegs u (u.warn i) := by
  obtain ⟨temp, et⟩ : ∃ temp, u.temp i = temp := ⟨_, rfl⟩
  unfold State.warn
  dsimp only
  rw [← el, et]
  by_cases high : 112 ≤ i
  · rw [if_pos high]
    exact ⟨fun low => absurd low (by omega), fun _ => ⟨rfl, rfl⟩, fun low => absurd low (by omega), rfl, .refl ..⟩
  · rw [if_neg high]
    by_cases rises : lim ≤ temp ∧ i ∉ u.pwr.warned
    · rw [if_pos rises]
      obtain ⟨v, ev⟩ : ∃ v : State, { u with pwr := { u.pwr with warned := i :: u.pwr.warned } } = v := ⟨_, rfl⟩
      have first : Frame [.pwr] [] u v := ev ▸ .of_within (within_pwr (s := u) _)
      have told := (reports_report v (blockSrc 7 i) 0x80 (ofSigned 16 temp) 127).after
        (first.pieces .flt (by decide)) (first.pieces .clk (by decide))
      have second := frame_report v (blockSrc 7 i) 0x80 (ofSigned 16 temp) 127
      have pwr := second.pieces .pwr (by decide)
      have pwr' : v.pwr = { u.pwr with warned := i :: u.pwr.warned } := by rw [← ev]
      rw [ev]
      refine ⟨fun _ _ _ => ⟨(congrArg Power.warned pwr).trans (by rw [pwr']), told⟩, fun quiet => ?_, fun _ low => ?_,
        (congrArg Power.temps pwr).trans (by rw [pwr']), second.mono.comp (first.mono (own := List.nil_subset _))⟩
      · rcases quiet with far | low | warned
        · exact absurd far high
        · omega
        · exact absurd warned rises.2
      · omega
    · rw [if_neg rises]
      by_cases falls : temp < lim - 48
      · rw [if_pos falls]
        exact ⟨fun _ hot cold => absurd ⟨hot, cold⟩ rises, fun _ => ⟨rfl, rfl⟩, fun _ _ => rfl, rfl,
          (Frame.of_within (within_pwr (s := u) _)).mono (own := List.nil_subset _)⟩
      · rw [if_neg falls]
        exact ⟨fun _ hot cold => absurd ⟨hot, cold⟩ rises, fun _ => ⟨rfl, rfl⟩, fun _ low => absurd low falls, rfl, .refl ..⟩

/-- The state with a sample in its window and its temperature. -/
def State.sampled (s : State) (i : Fin 128) (v : U16) : State :=
  { s with
    mgt := { s.mgt with
      sensors := Table.put (fun _ => []) s.mgt.sensors i.val
        ((v.toInt :: Table.look (fun _ => []) s.mgt.sensors i.val).take 1000) }
    pwr := { s.pwr with temps := Table.put (fun _ => 0) s.pwr.temps i.val v.toInt } }

theorem takeSensor_samples {s : State} {i : Fin 128} (v : U16)
    (read : ¬ (96 ≤ i.val ∧ i.val < 112 ∧ s.railLost (i.val - 96) = true)) : s.takeSensor (i, v) = (s.sampled i v).warn i.val := by
  unfold State.takeSensor
  exact if_neg read

theorem takeSensor_lost {s : State} {i : Fin 128} (v : U16) (lost : 96 ≤ i.val ∧ i.val < 112 ∧ s.railLost (i.val - 96) = true) :
    s.takeSensor (i, v) = s.railFailed (i.val - 96) := by
  unfold State.takeSensor
  exact if_pos lost

theorem touches_sampled (s : State) (i : Fin 128) (v : U16) : OnlyTouches [.mgt, .pwr] s (s.sampled i v) := by
  have first : OnlyTouches [.mgt, .pwr] s { s with mgt := (s.sampled i v).mgt } := (within_mgt (s := s) _).touches.mono (by decide)
  exact first.trans ((within_pwr (s := { s with mgt := (s.sampled i v).mgt }) (s.sampled i v).pwr).touches.mono (by decide))

/-- Settles O52: each event by its own conditions; the log's entries by induction over those that wait. -/
theorem gatehouseEventsAct : Obligations.GatehouseEventsAct := by
  unfold Obligations.GatehouseEventsAct
  intro s
  refine ⟨fun running => ?_, fun who v idle => ?_, fun e es log up running due => ?_, logProgram_waits,
    fun bytes => ⟨fun idle => ?_, fun x long short started running cmd => ⟨fun more => ?_, fun whole served => ?_,
      fun whole empty unknown eth => ?_⟩⟩,
    fun bytes => ⟨mctp_ignored, fun awake running served empty => ⟨fun plain => ?_, fun asks serves key room none => ?_⟩⟩,
    fun l idle => sample_idle idle, sample_cons s, fun i v started running => ⟨fun low high lost => ?_, fun lim read el => ?_⟩⟩
  · exact congrArg Host.Outcome.next (if_pos ⟨rfl, rfl, by simp [running]⟩)
  · refine congrArg Host.Outcome.next (if_neg fun ⟨own, value, running⟩ => ?_)
    rcases idle with other | wrong | halted
    · exact other own
    · exact wrong (BitVec.eq_of_toNat_eq value)
    · simp [halted] at running
  · obtain ⟨seq, -, reads, touches⟩ := programEntries_spec s.flt.log { s with flt := { s.flt with log := [] } }
    refine ⟨_, logProgram_writes log up running due, touches .flt (by decide), seq, fun k x => reads k x, ?_⟩
    exact ((within_flt (s := s) { s.flt with log := [] }).touches.mono (by decide)).trans (touches.mono (by decide))
  · exact if_pos (by simpa using idle)
  · rw [datagram_cmd long short started running cmd, if_pos more]
  · rw [datagram_cmd long short started running cmd, if_neg (by omega)]
    exact congrArg Host.Outcome.next (pushCmd_served (s := { s with mgt := { s.mgt with gram := none } }) served)
  · rw [datagram_cmd long short started running cmd, if_neg (by omega)]
    exact congrArg Host.Outcome.next (pushCmd_unserved (s := { s with mgt := { s.mgt with gram := none } }) empty unknown eth)
  · rw [mctp_served awake running served, answered_replies plain]
    obtain ⟨reply, er⟩ : ∃ reply, Config.mctpReply bytes s.attestFacts (s.mgt.sensors.map sensorFacts) = reply := ⟨_, rfl⟩
    rw [er, show (s.mctpSend reply).clk.wall = s.clk.wall from rfl]
    cases image : Config.mctpImage s.clk.wall bytes with
    | none =>
      dsimp only
      rw [← empty]
      rfl
    | some img =>
      have served : ∀ y, (queueCmd { imageCmd img with at_ := (s.mctpSend reply).mc } (s.mctpSend reply).mgt.queue).head? = some y →
          (s.mctpSend reply).serves y.opcode = true := fun y head => by
        rw [show (s.mctpSend reply).mgt.queue = [] from empty] at head
        rw [← Option.some.inj head]
        exact serves_update _
      refine congrArg Host.Outcome.next ((pushCmd_served served).trans ?_)
      rw [show (s.mctpSend reply).mgt.queue = [] from empty]
      rfl
  · rw [mctp_served awake running served, answered_signs asks serves key room]
    dsimp only
    rw [none]
  · have lost' : 96 ≤ i.val ∧ i.val < 112 ∧ s.railLost (i.val - 96) = true := ⟨low, high, lost⟩
    obtain ⟨counted, told, frame⟩ := railFailed_spec s (i.val - 96)
    rw [show 96 + (i.val - 96) = i.val by omega] at told
    refine ⟨_, (sample_runs started running _).trans (congrArg Host.Outcome.next (takeSensor_lost v lost')), counted, told, frame.regs,
      frame.pieces⟩
  · have run := (sample_runs started running [(i, v)]).trans (congrArg Host.Outcome.next (takeSensor_samples v read))
    obtain ⟨u, eu⟩ : ∃ u, s.sampled i v = u := ⟨_, rfl⟩
    have touches : OnlyTouches [.mgt, .pwr] s u := eu ▸ touches_sampled s i v
    have sensors : Table.look (fun _ => []) u.mgt.sensors i.val =
        (v.toInt :: Table.look (fun _ => []) s.mgt.sensors i.val).take 1000 := by
      rw [← eu, State.sampled]
      dsimp only
      exact Table.look_put_self (fun _ => []) s.mgt.sensors i.val _
    have own : u.temp i = v.toInt := by
      rw [← eu]
      exact Table.look_put_self (fun _ => 0) s.pwr.temps i.val _
    have others (n : Nat) (other : n ≠ i.val) : u.temp n = s.temp n := by
      rw [← eu]
      exact Table.look_put_other _ _ _ other
    have warned : u.pwr.warned = s.pwr.warned := by rw [← eu]; rfl
    have sampled : Frame [.mgt, .pwr] [] s u := .of_touches touches
    rw [eu] at run
    have el' : lim = (if i.val < 71 then u.threshold (u.rf Reg.pwrTherm 7 0) else u.rf Reg.pwrTherm 7 0 * 16) := by
      rw [el, State.threshold, State.threshold, sampled.rf (by simp), sampled.rf (by simp)]
    obtain ⟨rises, quiet, falls, temps, frame⟩ := warn_spec el'
    rw [own, warned] at rises quiet falls
    have all := (frame.mono (ps := [.regs, .flt, .mgt, .pwr])).comp (sampled.mono (rs := faultRegs) (own := List.nil_subset _))
    have temp (n : Nat) : (u.warn i).temp n = u.temp n := by rw [State.temp, temps, State.temp]
    refine ⟨_, run, (temp i).trans own, ?_, fun small hot cold => ?_, fun calm => ?_, falls,
      fun n other => (temp n).trans (others n other),
      all.regs, all.pieces⟩
    · rw [show (u.warn i).mgt = u.mgt from frame.pieces .mgt (by decide)]
      exact sensors
    · obtain ⟨noted, told⟩ := rises small hot cold
      exact ⟨noted, told.after (sampled.pieces .flt (by decide)) (sampled.pieces .clk (by decide))⟩
    · obtain ⟨flt, regs⟩ := quiet calm
      exact ⟨flt.trans (sampled.pieces .flt (by decide)), regs.trans (by rw [← eu]; rfl)⟩

end Sys2Proof.Machine
end

section
/-! PROOFS. Power states. -/

namespace Sys2Proof.Machine

open Sys2Proof

-- One theorem after another: many at once would need too many threads.
set_option Elab.async false

/-! ## A request for a power state, and the blocks it asks (R403, R404) -/

/-- What a block's refusal gives. -/
def Answer.refusal : Answer → Option (Nat × Nat)
  | .refuse c i => some (c, i)
  | _ => none

theorem refusal_none {a : Answer} : a.refusal = none ↔ ∀ c i, a ≠ .refuse c i := by
  cases a with
  | ack => simp [Answer.refusal]
  | defer => simp [Answer.refusal]
  | refuse c i => simp [Answer.refusal]

/-- The blocks that defer, each with how often it has. -/
def State.deferrals (s : State) (r : PowerRequest) (blocks : List Nat) : List (Nat × Nat) :=
  ((blocks.map (fun b => (b, s.answerNow r b))).filter (fun a => a.2 == .defer)).map (fun a =>
    (a.1, ((r.deferred.find? (fun x => x.1 == a.1)).map Prod.snd).getD 0 + 1))

/-- The state as an entry begins. -/
def State.entering (s : State) (target : Nat) : State :=
  let t := ((s.setRf Reg.pwrClk 40 40 0).setRf Reg.pwrStatus 15 8 stDone).payRefreshes
  { t with pwr := { t.pwr with request := none, entry := some (target, s.clk.wall) } }

/-- What a request does when no block refuses. -/
def State.askedOn (s : State) (r : PowerRequest) (deferred : List (Nat × Nat)) : State :=
  if deferred.any (fun d => decide (s.rf Reg.pwrCtrl 10 4 ≤ d.2)) then s.endRequest stTimeout
  else if deferred.isEmpty then s.entering r.target
  else { s with pwr := { s.pwr with request := some { r with deferred := deferred } } }

theorem askBlocks_eq (s : State) (r : PowerRequest) (blocks : List Nat) : s.askBlocks r blocks =
    match (blocks.map (fun b => (b, s.answerNow r b))).findSome? (fun a => a.2.refusal) with
    | some (c, i) => ((s.endRequest stRefused).setRf Reg.pwrStatus 21 16 c).setRf Reg.pwrStatus 29 22 i
    | none => s.askedOn r (s.deferrals r blocks) := rfl

theorem askBlocks_on {s : State} {r : PowerRequest} {blocks : List Nat}
    (willing : ∀ b ∈ blocks, ∀ c i, s.answerNow r b ≠ .refuse c i) : s.askBlocks r blocks = s.askedOn r (s.deferrals r blocks) := by
  have none : (blocks.map (fun b => (b, s.answerNow r b))).findSome? (fun a => a.2.refusal) = none := by
    rw [List.findSome?_eq_none_iff]
    intro a mem
    obtain ⟨b, here, rfl⟩ := List.mem_map.mp mem
    exact refusal_none.mpr (willing b here)
  rw [askBlocks_eq, none]

theorem askBlocks_refused {s : State} {r : PowerRequest} {before after : List Nat} {b c i : Nat}
    (earlier : ∀ x ∈ before, ∀ c i, s.answerNow r x ≠ .refuse c i) (refuses : s.answerNow r b = .refuse c i) :
    s.askBlocks r (before ++ b :: after) =
      ((s.endRequest stRefused).setRf Reg.pwrStatus 21 16 c).setRf Reg.pwrStatus 29 22 i := by
  have first : ((before ++ b :: after).map (fun b => (b, s.answerNow r b))).findSome? (fun a => a.2.refusal) = some (c, i) := by
    rw [List.findSome?_eq_some_iff]
    refine ⟨before.map (fun b => (b, s.answerNow r b)), (b, s.answerNow r b), _, by rw [List.map_append, List.map_cons], ?_, ?_⟩
    · rw [refuses]
      rfl
    · intro a mem
      obtain ⟨x, here, rfl⟩ := List.mem_map.mp mem
      exact refusal_none.mpr (earlier x here)
  rw [askBlocks_eq, first]

theorem deferrals_acked {s : State} {r : PowerRequest} {blocks : List Nat} (acked : ∀ b ∈ blocks, s.answerNow r b = .ack) :
    s.deferrals r blocks = [] := by
  unfold State.deferrals
  rw [List.map_eq_nil_iff, List.filter_eq_nil_iff]
  intro a mem
  obtain ⟨b, here, rfl⟩ := List.mem_map.mp mem
  rw [acked b here]
  simp

/-- The first time that blocks defer. -/
theorem deferrals_first (s : State) (target : Nat) (blocks : List Nat) : s.deferrals { target := target } blocks =
    (blocks.filter (fun b => s.answerNow { target := target } b == .defer)).map (·, 1) := by
  unfold State.deferrals
  rw [List.filter_map, List.map_map]
  rfl

/-- A request with no block that waits asks each as it is. -/
theorem answerNow_first (s : State) (target b : Nat) : s.answerNow { target := target } b = s.answer target b := by
  unfold State.answerNow
  exact if_neg (by simp)

theorem owed_payRefreshes (s : State) (c : Nat) : (s.payRefreshes.chan c).owed = 0 := by
  rw [State.chan, State.payRefreshes]
  exact (congrArg Channel.owed (look_map_value (fun _ => ({} : Channel)) (fun x => { x with owed := 0, emergency := none })
    (fun _ => rfl) s.chans c)).trans rfl

/-- An entry begins: no refresh is owed, and the Gatehouse is on its own oscillator. -/
theorem entering_spec (s : State) (target : Nat) :
    (s.entering target).pwr = { s.pwr with request := none, entry := some (target, s.clk.wall) } ∧
    (s.entering target).rf Reg.pwrClk 40 40 = 0 ∧ (s.entering target).rf Reg.pwrStatus 15 8 = stDone ∧
    (∀ c, ((s.entering target).chan c).owed = 0) ∧
    KeepsRegs [Reg.pwrClk, Reg.pwrStatus] s (s.entering target) ∧ OnlyTouches [.regs, .chans, .pwr] s (s.entering target) := by
  obtain ⟨u, eu⟩ : ∃ u, s.setRf Reg.pwrClk 40 40 0 = u := ⟨_, rfl⟩
  have first : Frame [.regs] [Reg.pwrClk] s u := eu ▸ frame_setRf ..
  have off : u.rf Reg.pwrClk 40 40 = 0 := eu ▸ rf_setRf_bit s _ 0 (by decide)
  obtain ⟨v, ev⟩ : ∃ v, u.setRf Reg.pwrStatus 15 8 stDone = v := ⟨_, rfl⟩
  have second : Frame [.regs] [Reg.pwrStatus] u v := ev ▸ frame_setRf ..
  have done : v.rf Reg.pwrStatus 15 8 = stDone := ev ▸ rf_setRf_self u _ _ (by decide) (by decide)
  obtain ⟨w, ew⟩ : ∃ w, v.payRefreshes = w := ⟨_, rfl⟩
  have third : Frame [.chans] [] v w := ew ▸ .of_within (within_chans (s := v) _)
  have paid (c : Nat) : (w.chan c).owed = 0 := ew ▸ owed_payRefreshes v c
  have pwr : w.pwr = s.pwr := (third.pieces .pwr (by decide)).trans
    ((second.pieces .pwr (by decide)).trans (first.pieces .pwr (by decide)))
  have run : s.entering target = { w with pwr := { s.pwr with request := none, entry := some (target, s.clk.wall) } } := by
    unfold State.entering
    dsimp only
    rw [eu, ev, ew, pwr]
  obtain ⟨t, et⟩ : ∃ t, s.entering target = t := ⟨_, rfl⟩
  rw [et] at run ⊢
  have fourth : Frame [.pwr] [] w t := run ▸ .of_within (within_pwr (s := w) _)
  have all : Frame [.regs, .chans, .pwr] [Reg.pwrClk, Reg.pwrStatus] s t :=
    (fourth.mono (own := List.nil_subset _)).comp ((third.mono (own := List.nil_subset _)).comp
      ((second.mono (own := by simp)).comp (first.mono (own := by simp))))
  refine ⟨by rw [run], ?_, ?_, fun c => by rw [run]; exact paid c, all.regs, all.pieces⟩
  · exact (fourth.rf (by simp) _ _).trans ((third.rf (by simp) _ _).trans ((second.rf (by decide) _ _).trans off))
  · exact (fourth.rf (by simp) _ _).trans ((third.rf (by simp) _ _).trans done)

theorem endRequest_spec (s : State) (status : Nat) (small : status < 256) :
    (s.endRequest status).pwr = { s.pwr with request := none, heldWake := none } ∧
    (s.endRequest status).rf Reg.pwrStatus 15 8 = status ∧ Frame [.regs, .pwr] [Reg.pwrStatus] s (s.endRequest status) := by
  obtain ⟨u, eu⟩ : ∃ u, s.setRf Reg.pwrStatus 15 8 status = u := ⟨_, rfl⟩
  have first : Frame [.regs] [Reg.pwrStatus] s u := eu ▸ frame_setRf ..
  have shown : u.rf Reg.pwrStatus 15 8 = status := by
    rw [← eu, rf_setRf_self _ _ _ (by decide) (by decide)]
    exact Nat.mod_eq_of_lt small
  have run : s.endRequest status = { u with pwr := { s.pwr with request := none, heldWake := none } } := by
    unfold State.endRequest
    rw [eu]
  obtain ⟨t, et⟩ : ∃ t, s.endRequest status = t := ⟨_, rfl⟩
  rw [et] at run ⊢
  have second : Frame [.pwr] [] u t := run ▸ .of_within (within_pwr (s := u) _)
  exact ⟨by rw [run], (second.rf (by simp) _ _).trans shown, (second.mono (own := List.nil_subset _)).comp first.mono⟩

/-- A refused request shows the refusing block. -/
theorem refused_spec (s : State) (c i : Nat) {t : State}
    (run : t = ((s.endRequest stRefused).setRf Reg.pwrStatus 21 16 c).setRf Reg.pwrStatus 29 22 i) :
    t.pwr = { s.pwr with request := none, heldWake := none } ∧ t.rf Reg.pwrStatus 15 8 = stRefused ∧
      t.rf Reg.pwrStatus 21 16 = c % 64 ∧ t.rf Reg.pwrStatus 29 22 = i % 256 ∧ Frame [.regs, .pwr] [Reg.pwrStatus] s t := by
  obtain ⟨pwr, status, frame⟩ := endRequest_spec s stRefused (by decide)
  subst run
  refine ⟨pwr, ?_, ?_, rf_setRf_self _ _ _ (by decide) (by decide), (frame_setRf ..).mono.comp ((frame_setRf ..).mono.comp frame)⟩
  · rw [rf_setRf_apart _ _ _ (by decide) (by decide) (.inr (by decide)),
      rf_setRf_apart _ _ _ (by decide) (by decide) (.inr (by decide)), status]
  · rw [rf_setRf_apart _ _ _ (by decide) (by decide) (.inr (by decide))]
    exact rf_setRf_self _ _ _ (by decide) (by decide)

theorem power_rejected {s : State} {who : Requester} {target : Nat} (not : s.mayPower who = false ∨ (3 ≤ target ∧ target ≤ 5 ∧
    (s.pwr.request.isSome ∨ s.pwr.entry.isSome ∨ s.asleep = true))) : s.powerGo who target = s.raise Reg.pwrCtrl 11 11 1 := by
  unfold State.powerGo
  by_cases may : s.mayPower who = true
  · obtain ⟨low, high, busy⟩ := not.resolve_left (by simp [may])
    rw [if_pos may, State.requestPower, if_neg (by omega), if_pos (by simpa [or_assoc] using busy)]
  · exact if_neg may

theorem power_asks {s : State} {who : Requester} {target : Nat} (may : s.mayPower who = true) (low : 3 ≤ target) (high : target ≤ 5)
    (noRequest : s.pwr.request = none) (noEntry : s.pwr.entry = none) (on : s.asleep = false) :
    s.powerGo who target = s.askBlocks { target := target } askedBlocks := by
  rw [State.powerGo, if_pos may, State.requestPower, if_neg (by omega), if_neg (by simp [noRequest, noEntry, on])]

theorem askedBlocks_split {b : Nat} (h : b < 7) : ∃ after, askedBlocks = List.range b ++ b :: after := by
  refine ⟨(List.range (6 - b)).map (· + (b + 1)), ?_⟩
  interval_cases b <;> rfl

theorem mem_askedBlocks {b : Nat} : b ∈ askedBlocks ↔ b < 7 := by
  simp only [askedBlocks, List.mem_cons, List.not_mem_nil, or_false]
  omega

/-! ## An entry ends, and what wakes the module (R406, R407, R409) -/

theorem entry_waits {s : State} {target u : Nat} (entry : s.pwr.entry = some (target, u)) (early : s.clk.wall < u + 288) :
    exec .powerEntryComplete s = .next s := by
  have step : exec .powerEntryComplete s = execPowerEntryComplete s := rfl
  rw [step, execPowerEntryComplete, entry]
  exact if_pos early

/-- The state with its entry over. -/
def State.enteredAs (s : State) (target : Nat) : State :=
  { s with pwr := { s.pwr with entry := none, heldWake := none, state := stateOf target } }

theorem entry_idle {s : State} {target u : Nat} (entry : s.pwr.entry = some (target, u)) (due : u + 288 ≤ s.clk.wall)
    (light : target ≠ 5) (none : s.pwr.heldWake.toList ++ s.pwr.level = []) :
    exec .powerEntryComplete s = .next (s.enteredAs target) := by
  have step : exec .powerEntryComplete s = execPowerEntryComplete s := rfl
  rw [step, execPowerEntryComplete, entry]
  refine (if_neg (by omega)).trans ?_
  dsimp only
  rw [if_neg light, none]
  rfl

theorem entry_wakes {s : State} {target u : Nat} {src : WakeSource} {rest : List WakeSource}
    (entry : s.pwr.entry = some (target, u)) (due : u + 288 ≤ s.clk.wall) (light : target ≠ 5)
    (held : s.pwr.heldWake.toList ++ s.pwr.level = src :: rest) :
    exec .powerEntryComplete s = .next ((s.enteredAs target).wakeUp src) := by
  have step : exec .powerEntryComplete s = execPowerEntryComplete s := rfl
  rw [step, execPowerEntryComplete, entry]
  refine (if_neg (by omega)).trans ?_
  dsimp only
  rw [if_neg light, held]
  rfl

theorem entry_deep_off {s : State} {u : Nat} (entry : s.pwr.entry = some (5, u)) (due : u + 288 ≤ s.clk.wall)
    (quiet : (s.pwr.heldWake.toList ++ s.pwr.level).find? (fun x => x == .wakeN || x == .pcie) = none) :
    exec .powerEntryComplete s = .next (s.enteredAs 5).powerOff := by
  have step : exec .powerEntryComplete s = execPowerEntryComplete s := rfl
  rw [step, execPowerEntryComplete, entry]
  refine (if_neg (by omega)).trans ?_
  dsimp only
  rw [if_pos rfl, quiet]
  rfl

theorem entry_deep_wakes {s : State} {u : Nat} {src : WakeSource} (entry : s.pwr.entry = some (5, u)) (due : u + 288 ≤ s.clk.wall)
    (wakes : (s.pwr.heldWake.toList ++ s.pwr.level).find? (fun x => x == .wakeN || x == .pcie) = some src) :
    exec .powerEntryComplete s = .next ((s.enteredAs 5).powerOff.restart src) := by
  have step : exec .powerEntryComplete s = execPowerEntryComplete s := rfl
  rw [step, execPowerEntryComplete, entry]
  refine (if_neg (by omega)).trans ?_
  dsimp only
  rw [if_pos rfl, wakes]
  rfl

/-- What a module reset leaves does not speak of the power supply's record. -/
theorem ResetLeaves.withPwr {keep : Bool} {last : U64} {s t : State} (h : ResetLeaves keep last s t) (p : Power) :
    ResetLeaves keep last s { t with pwr := p } where
  boot := h.boot
  regs := h.regs
  array := h.array
  units := h.units
  queues := h.queues
  kept := h.kept
  lost := h.lost
  sram := h.sram
  flash := h.flash
  outside := h.outside

/-- Power off: what a module reset that loses LPDDR6 leaves, in S3. -/
theorem powerOff_spec {s u : State} {p : Power} {last : U64} (same : OnlyTouches [.regs, .flt, .flash, .mgt, .msix] s u)
    (logSeq : u.mgt.logSeq = s.mgt.logSeq) (flash : u.stopWrite.flash = s.stopWrite.flash) (held : u.reg Reg.fltLastreset = last) :
    ResetLeaves false last s (State.powerOff { u with pwr := p }) ∧ (State.powerOff { u with pwr := p }).boot.cold = true ∧
      (State.powerOff { u with pwr := p }).pwr =
        { state := .s3, tripped := p.tripped, pulses := p.pulses, rails := p.rails } := by
  have leaves := underReset_leaves (s := s) (u := u) false true same logSeq flash held
  have run : State.powerOff { u with pwr := p } = { u.underReset false true with
      pwr := { state := .s3, tripped := p.tripped, pulses := p.pulses, rails := p.rails } } := by
    unfold State.powerOff State.underReset State.stopWrite
    dsimp only
    cases u.mgt.job with
    | none => rfl
    | some j => rfl
  rw [run]
  exact ⟨leaves.withPwr _, rfl, rfl⟩

/-- A restart out of S3. -/
theorem restart_spec (s : State) (src : WakeSource) :
    (s.restart src).pwr.state = .s0 ∧ (s.restart src).boot.inReset = true ∧ (s.restart src).boot.cold = true ∧
    (s.restart src).rf Reg.pwrWake 3 0 = src.cause ∧ (s.restart src).mem = [] ∧ (s.restart src).cores = [] ∧
    (s.restart src).parts = [] ∧ (s.mgt.job = none → (s.restart src).flash = s.flash) := by
  have cause : src.cause < 16 := by cases src <;> decide
  have leaves := underReset_leaves (s := s) (u := s) false true (.refl _ _) rfl rfl rfl
  have cold : (s.underReset false true).boot.cold = true := rfl
  obtain ⟨v, ev⟩ : ∃ v, s.underReset false true = v := ⟨_, rfl⟩
  rw [ev] at leaves cold
  obtain ⟨boot, -, array, -, -, -, lost, -, flash, -⟩ := leaves
  obtain ⟨w, ew⟩ : ∃ w : State, { v with pwr := { pulses := s.pwr.pulses, rails := s.pwr.rails } } = w := ⟨_, rfl⟩
  have first : Frame [.pwr] [] v w := ew ▸ .of_within (within_pwr (s := v) _)
  have state : w.pwr.state = .s0 := by rw [← ew]
  have second := frame_setRf w Reg.pwrWake 3 0 src.cause
  have shown := rf_setRf_self w Reg.pwrWake (hi := 3) (lo := 0) src.cause (by decide) (by decide)
  have run : s.restart src = w.setRf Reg.pwrWake 3 0 src.cause := by
    unfold State.restart
    rw [ev, ew]
  rw [← run] at second shown
  have all : Frame [.regs, .pwr] [Reg.pwrWake] v (s.restart src) := second.mono.comp (first.mono (own := List.nil_subset _))
  have boot' : (s.restart src).boot = v.boot := all.pieces .boot (by decide)
  refine ⟨(congrArg Power.state (second.pieces .pwr (by decide))).trans state, boot' ▸ boot.1, boot' ▸ cold,
    shown.trans (Nat.mod_eq_of_lt cause), (all.pieces .mem (by decide)).trans (lost rfl).1,
    (all.pieces .cores (by decide)).trans array.1, (all.pieces .parts (by decide)).trans array.2.1,
    fun idle => (all.pieces .flash (by decide)).trans (flash.1 idle)⟩

/-! ## The wake ends (R406, R408) -/

theorem look_map_all {α : Type} {P : α → Prop} {d : Nat → α} {f : α → α} (base : ∀ k, P (d k)) (made : ∀ x, P (f x)) (m : Table α)
    (k : Nat) : P (Table.look d (m.map (fun e => (e.1, f e.2))) k) := by
  induction m with
  | nil => exact base k
  | cons e m ih =>
    rw [List.map_cons, Table.look]
    split
    · exact made _
    · exact ih

theorem owed_memoryWakes (s : State) (c : Nat) : (s.memoryWakes.chan c).owed = 0 := by
  unfold State.memoryWakes
  obtain ⟨u, eu⟩ : ∃ u, s.setChannels s.wakeRecords = u := ⟨_, rfl⟩
  rw [eu, State.chan]
  dsimp only
  exact look_map_all (P := fun x : Channel => x.owed = 0) (d := fun _ => {}) (f := fun x => { x with
    owed := 0, emergency := none, owner := none, chosen := none, intervalAt := some u.clk.wall }) (fun _ => rfl) (fun _ => rfl) u.chans c

theorem run_resetPart_self (s : State) (q : Nat) : ((s.resetPart q).part q).run = .empty := by
  obtain ⟨p, j, e⟩ := part_resetPartFor s q none
  rw [State.resetPart, e]
  rfl

/-- No partition's reset takes another out of EMPTY. -/
theorem run_resetPart_empty {s : State} {p : Nat} (empty : (s.part p).run = .empty) (q : Nat) :
    ((s.resetPart q).part p).run = .empty := by
  have ends := ((ends_resetPartFor s q none).after (ends_resetEnded s q none)).parts p
  exact ends.run.elim (·.trans empty) id

theorem run_resetParts (l : List Nat) : ∀ s : State, ∀ p, (p ∈ l ∨ (s.part p).run = .empty) →
    ((l.foldl State.resetPart s).part p).run = .empty := by
  induction l with
  | nil => exact fun s p h => h.resolve_left List.not_mem_nil
  | cons q l ih =>
    intro s p h
    refine ih _ p ?_
    rcases h with mem | empty
    · rcases List.mem_cons.mp mem with rfl | later
      · exact .inr (run_resetPart_self s p)
      · exact .inl later
    · exact .inr (run_resetPart_empty empty q)

theorem afterS2_spec (s : State) : s.afterS2.cores = [] ∧ (∀ a, dramBytes ≤ a → s.afterS2.byteAt a = 0) ∧
    (∀ q ∈ s.partIds, (s.afterS2.part q).run = .empty) := by
  refine ⟨rfl, fun a high => ?_, fun q mem => run_resetParts s.partIds s q (.inl mem)⟩
  have kept := Table.look_filter zeroByte (fun k => decide (k < dramBytes)) (s.partIds.foldl State.resetPart s).mem a
  exact kept.trans (if_neg (by simpa using high))

theorem part_partIds {s t : State} (h : t.parts = s.parts) : t.partIds = s.partIds := by rw [State.partIds, h, State.partIds]

/-- A wake ends: the module is in S0 with its lanes unseeded, and after S2 its array is empty. -/
theorem awake_spec (s : State) (src : WakeSource) :
    (s.awake src).pwr.state = .s0 ∧ (s.awake src).pwr.waking = none ∧ (s.awake src).rf Reg.pwrWake 3 0 = src.cause ∧
    (s.awake src).rf Reg.pwrClk 40 40 = 0 ∧ (s.awake src).lanes = [] ∧ (s.awake src).ent.seeded = false ∧
    (∀ c, ((s.awake src).chan c).owed = 0) ∧
    (s.pwr.state = .s1 → (s.awake src).cores = s.cores ∧ (s.awake src).parts = s.parts ∧ (s.awake src).mem = s.mem) ∧
    (s.pwr.state = .s2 → (s.awake src).cores = [] ∧ (∀ a, dramBytes ≤ a → (s.awake src).byteAt a = 0) ∧
      ∀ q ∈ s.partIds, ((s.awake src).part q).run = .empty) := by
  have cause : src.cause < 16 := by cases src <;> decide
  obtain ⟨u, eu⟩ : ∃ u, (s.setRails false).memoryWakes = u := ⟨_, rfl⟩
  have first : OnlyTouches [.regs, .flt, .pwr, .boot, .chans] s u :=
    eu ▸ ((within_setRails s false).touches.mono (by decide)).trans ((within_memoryWakes _).touches.mono (by decide))
  have owed (c : Nat) : (u.chan c).owed = 0 := eu ▸ owed_memoryWakes _ c
  obtain ⟨v, ev⟩ : ∃ v, (if s.pwr.state = .s2 then u.afterS2.wakePathTest else u) = v := ⟨_, rfl⟩
  have chans : v.chans = u.chans := by
    rw [← ev]
    split
    · exact ((within_wakePathTest _).touches .chans (by decide)).trans ((within_afterS2 u).touches .chans (by decide))
    · rfl
  obtain ⟨w, ew⟩ : ∃ w, (v.setRf Reg.pwrWake 3 0 src.cause).setRf Reg.pwrClk 40 40 0 = w := ⟨_, rfl⟩
  have shown : w.rf Reg.pwrWake 3 0 = src.cause := by
    rw [← ew, rf_setRf_other _ _ _ _ (by decide), rf_setRf_self _ _ _ (by decide) (by decide)]
    exact Nat.mod_eq_of_lt cause
  have clock : w.rf Reg.pwrClk 40 40 = 0 := ew ▸ rf_setRf_bit _ _ 0 (by decide)
  have set : Frame [.regs] [Reg.pwrWake, Reg.pwrClk] v w :=
    ew ▸ ((frame_setRf ..).mono (own := by simp)).comp ((frame_setRf ..).mono (own := by simp))
  have run : s.awake src = { w with
      pwr := { w.pwr with state := .s0, waking := none, heldWake := none, level := [] }
      lanes := []
      ent := { w.ent with
        seeded := false, seedNext := 0, failedSeed := w.ent.state == .fatal, seeding := w.ent.state.serves } } := by
    unfold State.awake
    dsimp only
    rw [eu, ev, ew]
  obtain ⟨t, et⟩ : ∃ t, s.awake src = t := ⟨_, rfl⟩
  rw [et] at run ⊢
  have regs (o : Nat) : t.reg o = w.reg o := by rw [run]; rfl
  have cores : t.cores = v.cores := by rw [run]; exact set.pieces .cores (by decide)
  have parts : t.parts = v.parts := by rw [run]; exact set.pieces .parts (by decide)
  have mem : t.mem = v.mem := by rw [run]; exact set.pieces .mem (by decide)
  have chans' : t.chans = v.chans := by rw [run]; exact set.pieces .chans (by decide)
  refine ⟨by rw [run], by rw [run], (rf_of_reg (regs _) _ _).trans shown, (rf_of_reg (regs _) _ _).trans clock, by rw [run],
    by rw [run], fun c => ?_, fun light => ?_, fun deep => ?_⟩
  · rw [State.chan, chans', chans]
    exact owed c
  · have stays : v = u := by rw [← ev, if_neg (by rw [light]; decide)]
    rw [cores, parts, mem, stays]
    exact ⟨first .cores (by decide), first .parts (by decide), first .mem (by decide)⟩
  · have tested : v = u.afterS2.wakePathTest := by rw [← ev, if_pos deep]
    have same := (within_wakePathTest u.afterS2).touches
    obtain ⟨none, high, empty⟩ := afterS2_spec u
    rw [← tested] at same
    refine ⟨cores.trans ((same .cores (by decide)).trans none), fun a far => ?_, fun q mem => ?_⟩
    · rw [State.byteAt, mem, show v.mem = u.afterS2.mem from same .mem (by decide)]
      exact high a far
    · rw [part_of_parts parts, part_of_parts (same .parts (by decide))]
      exact empty q (by rwa [part_partIds (first .parts (by decide))])

theorem wakeCycle_waits {s : State} {u : Nat} {src : WakeSource} (waking : s.pwr.waking = some (u, src))
    (early : s.clk.wall < u + wakeTime s.pwr.state) : s.wakeCycle = s := by
  rw [State.wakeCycle, waking]
  exact if_neg (by omega)

theorem wakeCycle_wakes {s : State} {u : Nat} {src : WakeSource} (waking : s.pwr.waking = some (u, src))
    (due : u + wakeTime s.pwr.state ≤ s.clk.wall) : s.wakeCycle = s.awake src := by
  rw [State.wakeCycle, waking]
  exact if_pos due

/-- The cycle in which a wake's time has come ends it. -/
theorem cycle_wakes {s : State} {u : Nat} {src : WakeSource} (waking : s.pwr.waking = some (u, src))
    (due : u + wakeTime s.pwr.state ≤ s.clk.wall + 1) : s.cycle.pwr.state = .s0 ∧ s.cycle.pwr.waking = none := by
  obtain ⟨v, ev⟩ : ∃ v, s.endEdgeCycle.advanceClocks.1 = v := ⟨_, rfl⟩
  have wall : v.clk.wall = s.clk.wall + 1 := by
    rw [← ev, wall_advanceClocks]
    exact congrArg (fun c : Clocks => c.wall + 1) ((within_endEdgeCycle s).touches .clk (by decide))
  have pwr : v.pwr = s.pwr := by
    rw [← ev]
    exact ((within_advanceClocks s.endEdgeCycle).touches .pwr (by decide)).trans ((within_endEdgeCycle s).touches .pwr (by decide))
  obtain ⟨w, ew⟩ : ∃ w, v.flashCycle.sramCycle.endStart.storeCycle = w := ⟨_, rfl⟩
  have worked : Within [.regs, .flash, .flt, .mgt, .msix, .boot] v w :=
    ew ▸ (within_storeCycle ..).after ((within_endStart ..).after ((within_sramCycle ..).after ((within_flashCycle v).mono)))
  have pwr' : w.pwr = s.pwr := (worked.touches .pwr (by decide)).trans pwr
  have wall' : w.clk.wall = s.clk.wall + 1 := (congrArg Clocks.wall (worked.touches .clk (by decide))).trans wall
  have module : s.endEdgeCycle.advanceClocks.1.moduleCycle = w.awake src := by
    rw [ev, State.moduleCycle, ew]
    exact wakeCycle_wakes (by rw [pwr', waking]) (by rw [pwr', wall']; exact due)
  have parts := (within_cycle_parts s).touches .pwr (by decide)
  rw [module] at parts
  obtain ⟨state, awake, -⟩ := awake_spec w src
  exact ⟨(congrArg Power.state parts).trans state, (congrArg Power.waking parts).trans awake⟩

/-! ## Scheduled transitions (R420) -/

theorem freeCmp_lt {s : State} {k : Nat} (free : s.freeCmp = some k) : k < 8 := List.mem_range.mp (List.mem_of_find?_eq_some free)

theorem sched_apart {k : Nat} (small : k < 8) {o : Nat} (own : o = Reg.gtbCmp k ∨ o = Reg.gtbCmp k + 8) :
    o ≠ Reg.pwrSched ∧ o ≠ Reg.pwrSched + 8 ∧ o ≠ Reg.pwrStatus := by
  simp only [Reg.gtbCmp, Reg.pwrSched, Reg.pwrStatus] at own ⊢
  omega

theorem cmpPair_apart {k o : Nat} (time : Reg.gtbCmp k ≠ o) (own : Reg.gtbCmp k + 8 ≠ o) : o ∉ [Reg.gtbCmp k, Reg.gtbCmp k + 8] := by
  simp only [List.mem_cons, List.not_mem_nil, or_false, not_or]
  exact ⟨Ne.symm time, Ne.symm own⟩

/-- A transition scheduled: its registers, and its comparator armed for it. -/
theorem schedArm_spec {s : State} {k : Nat} (time target : Nat) (small : target < 8) (idle : s.rf (Reg.pwrSched + 8) 4 4 = 0)
    (free : s.freeCmp = some k) {t : State} (run : t = s.schedArm time target) :
    t.rf (Reg.pwrSched + 8) 4 4 = 1 ∧ t.reg Reg.pwrSched = BitVec.ofNat 64 time ∧ t.rf (Reg.pwrSched + 8) 2 0 = target ∧
    t.cmpOwner k = 3 ∧ t.cmpArmed k = true ∧ (t.reg (Reg.gtbCmp k)).toNat = time % 2 ^ 64 ∧ t.rf Reg.pwrStatus 15 8 = stDone ∧
    Frame [.regs] [Reg.pwrSched, Reg.pwrSched + 8, Reg.gtbCmp k, Reg.gtbCmp k + 8, Reg.pwrStatus] s t := by
  have low := freeCmp_lt free
  obtain ⟨timeS, timeS8, timeP⟩ := sched_apart low (o := Reg.gtbCmp k) (.inl rfl)
  obtain ⟨ownS, ownS8, ownP⟩ := sched_apart low (o := Reg.gtbCmp k + 8) (.inr rfl)
  obtain ⟨a, ea⟩ : ∃ a, s.setReg Reg.pwrSched (BitVec.ofNat 64 time) = a := ⟨_, rfl⟩
  have f1 : Frame [.regs] [Reg.pwrSched] s a := ea ▸ frame_setReg ..
  have v1 : a.reg Reg.pwrSched = BitVec.ofNat 64 time := ea ▸ State.reg_setReg_self ..
  obtain ⟨b, eb⟩ : ∃ b, a.setRf (Reg.pwrSched + 8) 2 0 target = b := ⟨_, rfl⟩
  have f2 : Frame [.regs] [Reg.pwrSched + 8] a b := eb ▸ frame_setRf ..
  have v2 : b.rf (Reg.pwrSched + 8) 2 0 = target := by
    rw [← eb, rf_setRf_self _ _ _ (by decide) (by decide)]
    exact Nat.mod_eq_of_lt small
  obtain ⟨f3, v3, armed, owner⟩ := setCmp_spec b k 3 target time true (by decide)
  obtain ⟨c, ec⟩ : ∃ c, b.setCmp k 3 target time true = c := ⟨_, rfl⟩
  rw [ec] at f3 v3 armed owner
  obtain ⟨d, ed⟩ : ∃ d, c.setRf (Reg.pwrSched + 8) 4 4 1 = d := ⟨_, rfl⟩
  have f4 : Frame [.regs] [Reg.pwrSched + 8] c d := ed ▸ frame_setRf ..
  have v4 : d.rf (Reg.pwrSched + 8) 4 4 = 1 := ed ▸ rf_setRf_bit c _ 1 (by decide)
  have v4' : d.rf (Reg.pwrSched + 8) 2 0 = c.rf (Reg.pwrSched + 8) 2 0 :=
    ed ▸ rf_setRf_apart c _ 1 (by decide) (by decide) (.inr (by decide))
  have f5 := frame_setRf d Reg.pwrStatus 15 8 stDone
  have v5 := rf_setRf_self d Reg.pwrStatus (hi := 15) (lo := 8) stDone (by decide) (by decide)
  have whole : t = d.setRf Reg.pwrStatus 15 8 stDone := by
    rw [run]
    unfold State.schedArm
    rw [if_neg (by rw [idle]; decide), free]
    dsimp only
    rw [ea, eb, ec, ed]
  rw [← whole] at f5 v5
  have cmp (o : Nat) (own : o = Reg.gtbCmp k ∨ o = Reg.gtbCmp k + 8) : t.reg o = c.reg o := by
    obtain ⟨-, s8, st⟩ := sched_apart low own
    exact (f5.reg (by simpa using st)).trans (f4.reg (by simpa using s8))
  have last : t.reg Reg.pwrSched = b.reg Reg.pwrSched :=
    (f5.reg (by decide)).trans ((f4.reg (by decide)).trans (f3.reg (cmpPair_apart timeS ownS)))
  refine ⟨(f5.rf (by decide) _ _).trans v4, last.trans ((f2.reg (by decide)).trans v1), ?_, ?_, ?_, ?_, v5, ?_⟩
  · exact (f5.rf (by decide) _ _).trans (v4'.trans ((f3.rf (cmpPair_apart timeS8 ownS8) _ _).trans v2))
  · rw [State.cmpOwner, cmp _ (.inr rfl)]
    exact owner
  · rw [State.cmpArmed, cmp _ (.inr rfl)]
    exact armed
  · rw [cmp _ (.inl rfl)]
    exact v3
  · exact (f5.mono (own := by simp)).comp ((f4.mono (own := by simp)).comp ((f3.mono (own := by simp)).comp
      ((f2.mono (own := by simp)).comp (f1.mono (own := by simp)))))

theorem frame_freeCmpAt (s : State) (k : Nat) : Frame [.regs] [Reg.gtbCmp k, Reg.gtbCmp k + 8] s (s.freeCmpAt k) :=
  (setCmp_spec s k 0 0 0 false (by decide)).1

theorem gtbCmp_mem {k : Nat} (small : k < 8) : [Reg.gtbCmp k, Reg.gtbCmp k + 8] ⊆ cmpRegs := by
  intro o mem
  exact List.mem_flatMap.mpr ⟨k, List.mem_range.mpr small, mem⟩

/-- Comparators freed one after another. -/
theorem freeCmps_spec (l : List Nat) : ∀ s : State, (∀ k ∈ l, k < 8) →
    Frame [.regs] cmpRegs s (l.foldl State.freeCmpAt s) ∧
    (∀ k, k < 8 → (k ∈ l ∨ (s.cmpOwner k = 0 ∧ s.cmpArmed k = false)) →
      (l.foldl State.freeCmpAt s).cmpOwner k = 0 ∧ (l.foldl State.freeCmpAt s).cmpArmed k = false) ∧
    (∀ k, k < 8 → k ∉ l → (l.foldl State.freeCmpAt s).reg (Reg.gtbCmp k + 8) = s.reg (Reg.gtbCmp k + 8)) := by
  induction l with
  | nil => exact fun s _ => ⟨.refl .., fun k _ h => h.resolve_left List.not_mem_nil, fun _ _ _ => rfl⟩
  | cons n l ih =>
    intro s small
    have low := small n List.mem_cons_self
    obtain ⟨frame, freed, kept⟩ := ih (s.freeCmpAt n) fun k mem => small k (List.mem_cons_of_mem _ mem)
    obtain ⟨first, -, armed, owner⟩ := setCmp_spec s n 0 0 0 false (by decide)
    have other (k : Nat) (h : k ≠ n) : (s.freeCmpAt n).reg (Reg.gtbCmp k + 8) = s.reg (Reg.gtbCmp k + 8) :=
      first.reg (by simp only [List.mem_cons, List.not_mem_nil, or_false, not_or, Reg.gtbCmp]; omega)
    refine ⟨frame.comp (first.mono (own := gtbCmp_mem low)), fun k real h => freed k real ?_, fun k real out => ?_⟩
    · by_cases own : k = n
      · subst own
        exact .inr ⟨owner, armed⟩
      · rcases h with mem | idle
        · exact .inl ((List.mem_cons.mp mem).resolve_left own)
        · rw [State.cmpOwner, State.cmpArmed, other k own]
          exact .inr idle
    · exact (kept k real fun mem => out (List.mem_cons_of_mem _ mem)).trans (other k fun own => out (own ▸ List.mem_cons_self))

/-- The schedule's end frees its comparators and no other. -/
theorem schedDisarm_spec {s : State} (armed : s.rf (Reg.pwrSched + 8) 4 4 = 1) {t : State} (run : t = s.schedDisarm) :
    t.rf (Reg.pwrSched + 8) 4 4 = 0 ∧ (∀ k, k < 8 → s.cmpOwner k = 3 → t.cmpOwner k = 0 ∧ t.cmpArmed k = false) ∧
    (∀ k, k < 8 → s.cmpOwner k ≠ 3 → t.cmpOwner k = s.cmpOwner k ∧ t.cmpArmed k = s.cmpArmed k) ∧
    KeepsRegs ((Reg.pwrSched + 8) :: cmpRegs) s t ∧ OnlyTouches [.regs] s t := by
  obtain ⟨l, el⟩ : ∃ l, (List.range 8).filter (fun k => s.cmpOwner k == 3) = l := ⟨_, rfl⟩
  have mem (k : Nat) : k ∈ l ↔ k < 8 ∧ s.cmpOwner k = 3 := by rw [← el]; simp
  obtain ⟨frame, freed, kept⟩ := freeCmps_spec l s fun k h => ((mem k).mp h).1
  obtain ⟨u, eu⟩ : ∃ u, l.foldl State.freeCmpAt s = u := ⟨_, rfl⟩
  rw [eu] at frame freed kept
  have whole : t = u.setRf (Reg.pwrSched + 8) 4 4 0 := by
    rw [run, State.schedDisarm, if_pos armed, el, eu]
  have last := frame_setRf u (Reg.pwrSched + 8) 4 4 0
  have cleared := rf_setRf_bit u (Reg.pwrSched + 8) (b := 4) 0 (by decide)
  rw [← whole] at last cleared
  have same (k : Nat) (low : k < 8) : t.reg (Reg.gtbCmp k + 8) = u.reg (Reg.gtbCmp k + 8) :=
    last.reg (by simpa using (sched_apart low (.inr rfl)).2.1)
  have all := (last.mono (ps := [.regs]) (rs := (Reg.pwrSched + 8) :: cmpRegs) (own := by simp)).comp
    (frame.mono (own := List.subset_cons_self ..))
  refine ⟨cleared, fun k low own => ?_, fun k low other => ?_, all.regs, all.pieces⟩
  · rw [State.cmpOwner, State.cmpArmed, same k low]
    exact freed k low (.inl ((mem k).mpr ⟨low, own⟩))
  · rw [State.cmpOwner, State.cmpArmed, same k low, kept k low fun h => other ((mem k).mp h).2]
    exact ⟨rfl, rfl⟩

/-- A flash write in progress ends the same way in states that agree on it. -/
theorem stopWrite_flash {s u : State} (mgt : u.mgt = s.mgt) (flash : u.flash = s.flash) : u.stopWrite.flash = s.stopWrite.flash := by
  rw [State.stopWrite, State.stopWrite, mgt]
  cases s.mgt.job with
  | none => exact flash
  | some j => exact congrArg (fun f => Table.putSpan blankByte f (j.place + j.next) (slice j.image j.next pageBytes)) flash

theorem wake_asleep {s : State} {src : WakeSource} (idle : s.boot.supplies = false ∨ s.pwr.state = .s3) : s.wakeBy src = s := by
  unfold State.wakeBy
  rcases idle with low | deep
  · rw [if_pos (by simp [low])]
  · rw [deep]
    split
    · rfl
    · exact (if_neg (by decide)).trans (if_neg (by decide))

theorem wakeBy_sleeping {s : State} {src : WakeSource} (up : s.boot.supplies = true) (sleeps : s.pwr.state = .s1 ∨ s.pwr.state = .s2) :
    s.wakeBy src = s.wakeUp src := by
  unfold State.wakeBy
  rw [if_neg (by simp [up]), if_pos sleeps]

theorem wakeBy_awake {s : State} {src : WakeSource} (up : s.boot.supplies = true) (on : s.pwr.state = .s0) : s.wakeBy src =
    if s.pwr.entry.isSome ∧ src.edge then s.count Reg.pwrWake 23 8 1
    else if s.pwr.entry.isSome ∨ s.pwr.request.isSome then
      { s with pwr := { s.pwr.addLevel src with heldWake := some (s.pwr.heldWake.getD src) } }
    else { s with pwr := s.pwr.addLevel src } := by
  unfold State.wakeBy
  rw [if_neg (by simp [up]), if_neg (by rw [on]; decide), if_pos on]

/-- What a block answers when a request begins and when it is asked again. -/
theorem asks_first {s : State} {who : Requester} {target : Nat} (may : s.mayPower who = true) (low : 3 ≤ target) (high : target ≤ 5)
    (noRequest : s.pwr.request = none) (noEntry : s.pwr.entry = none) (on : s.asleep = false)
    (willing : ∀ b c i, b < 7 → s.answer target b ≠ .refuse c i) :
    s.powerGo who target = s.askedOn { target := target } (s.deferrals { target := target } askedBlocks) := by
  rw [power_asks may low high noRequest noEntry on]
  refine askBlocks_on fun b mem c i => ?_
  rw [answerNow_first]
  exact willing b c i (mem_askedBlocks.mp mem)

/-- The one block that deferred, asked again, defers again. -/
theorem reask_defers {s : State} {r : PowerRequest} {b k : Nat} (one : r.deferred = [(b, k)]) (defers : s.answerNow r b = .defer) :
    s.askBlocks r (r.deferred.map Prod.fst) = s.askedOn r [(b, k + 1)] := by
  rw [askBlocks_on]
  · congr 1
    simp [State.deferrals, one, defers]
  · rw [one]
    intro x mem c i
    rw [List.mem_singleton.mp mem, defers]
    simp

/-- Settles O53: the answers of the blocks, the entry and the wake each by its own conditions; an array that wakes from S2 is reset
partition by partition. -/
theorem powerStatesEnterAndWake : Obligations.PowerStatesEnterAndWake := by
  unfold Obligations.PowerStatesEnterAndWake
  intro who s
  refine ⟨fun target => ⟨fun out => congrArg Host.Outcome.next (if_neg (by simp [out])), fun reach => ?request⟩,
    fun none => ?unasked, fun r asked => ⟨fun acked => ?acked, fun b k one defers => ⟨fun more => ?more, fun last => ?last⟩⟩,
    fun none => ?noEntry, fun target u held entry eh => ⟨entry_waits entry, fun due light => ⟨fun none => ?idle,
      fun src rest none some_ => ?wakes⟩, fun due deep => ⟨fun quiet => ?off, fun before src rest split_ wakes first => ?again⟩⟩,
    fun src => ⟨fun idle => congrArg Host.Outcome.next (wake_asleep idle), fun up sleeps => ⟨fun waking => ?waking, fun none => ?begins⟩,
      fun up on => ⟨fun entry edge => ?lost, fun busy level => ?held, fun noEntry noRequest => ?level⟩⟩,
    fun u src waking => ⟨wakeCycle_waits waking, fun due => by rw [wakeCycle_wakes waking due]; exact awake_spec s src⟩,
    fun u src pending issue waking due => ?cycle, fun src deep cool wakes => ?restart, fun src no => ?stays,
    fun sensor temp => ⟨fun no => ?cool, fun hot awake => ?trip⟩,
    fun time target => ⟨fun no => ?unarmed, fun reach idle => ⟨fun none => ?conflict, fun k free => ?armed⟩⟩, fun no => ?unscheduled,
    fun reach armed => ?disarmed⟩
  case request =>
    have run : exec (.powerStateRequest who target) s = .next (s.powerGo who target.toNat) := congrArg Host.Outcome.next (if_pos reach)
    rw [run]
    refine ⟨fun no => ?_, fun may => ⟨fun outside => ?_, fun low high noRequest noEntry on => ⟨fun acked => ?_,
      fun b c i real refuses earlier => ?_, fun willing ⟨b, real, defers⟩ => ?_⟩⟩⟩
    · have frame := frame_raise s Reg.pwrCtrl 11 11 1
      exact ⟨_, congrArg Host.Outcome.next (power_rejected no), rf_raise_bit _ _ 1 (by decide),
        rf_raise_apart _ _ 1 (by decide) (by decide) (.inr (by decide)), frame.regs, frame.pieces⟩
    · rw [State.powerGo, if_pos may, State.requestPower, if_pos outside]
    · have none := deferrals_acked (s := s) (r := { target := target.toNat }) (blocks := askedBlocks) fun b mem => by
        rw [answerNow_first]
        exact acked b (mem_askedBlocks.mp mem)
      have asked := asks_first may low high noRequest noEntry on fun b c i real => by rw [acked b real]; simp
      obtain ⟨pwr, clock, status, owed, regs, pieces⟩ := entering_spec s target.toNat
      rw [none] at asked
      refine ⟨_, congrArg Host.Outcome.next asked, ?_, clock, status, owed, regs, pieces⟩
      rw [← noRequest] at pwr
      exact pwr
    · obtain ⟨after, whole⟩ := askedBlocks_split real
      have asked : s.powerGo who target.toNat =
          ((s.endRequest stRefused).setRf Reg.pwrStatus 21 16 c).setRf Reg.pwrStatus 29 22 i := by
        rw [power_asks may low high noRequest noEntry on, whole]
        refine askBlocks_refused (fun x mem c i => ?_) (by rw [answerNow_first, refuses])
        rw [answerNow_first]
        exact earlier x c i (List.mem_range.mp mem)
      obtain ⟨pwr, status, cls, inst, frame⟩ := refused_spec s c i asked
      rw [← noRequest] at pwr
      exact ⟨_, rfl, pwr, status, cls, inst, frame.regs, frame.pieces⟩
    · have asked := asks_first may low high noRequest noEntry on fun b c i real => willing b c i real
      rw [deferrals_first] at asked
      obtain ⟨l, el⟩ : ∃ l, askedBlocks.filter (fun b => s.answerNow { target := target.toNat } b == .defer) = l := ⟨_, rfl⟩
      have same : askedBlocks.filter (fun b => s.answer target.toNat b == .defer) = l := by
        rw [← el]
        exact List.filter_congr fun b _ => by rw [answerNow_first]
      have here : b ∈ l := by
        rw [← same, List.mem_filter]
        exact ⟨mem_askedBlocks.mpr real, by rw [defers]; decide⟩
      rw [el] at asked
      refine ⟨fun room => ?_, fun out => ?_⟩
      · rw [asked, State.askedOn, if_neg (by simp; omega), if_neg (by simp [List.ne_nil_of_mem here]), same]
      · obtain ⟨pwr, status, frame⟩ := endRequest_spec s stTimeout (by decide)
        rw [← noRequest] at pwr
        refine ⟨_, congrArg Host.Outcome.next (asked.trans (if_pos ?_)), pwr, status, frame.regs, frame.pieces⟩
        simp only [List.any_map, List.any_eq_true]
        exact ⟨b, here, by simpa using out⟩
  case unasked =>
    have step : exec .handshakeReask s = execHandshakeReask s := rfl
    rw [step, execHandshakeReask, none]
  case acked =>
    have run : exec .handshakeReask s = .next (s.askBlocks r (r.deferred.map Prod.fst)) := by
      have step : exec .handshakeReask s = execHandshakeReask s := rfl
      rw [step, execHandshakeReask, asked]
    have all (b : Nat) (mem : b ∈ r.deferred.map Prod.fst) : s.answerNow r b = .ack := by
      obtain ⟨d, here, rfl⟩ := List.mem_map.mp mem
      exact acked d here
    rw [askBlocks_on fun b mem c i => by rw [all b mem]; simp, deferrals_acked all] at run
    obtain ⟨pwr, clock, status, owed, regs, pieces⟩ := entering_spec s r.target
    exact ⟨_, run, pwr, clock, status, owed, regs, pieces⟩
  case more =>
    have run : exec .handshakeReask s = .next (s.askBlocks r (r.deferred.map Prod.fst)) := by
      have step : exec .handshakeReask s = execHandshakeReask s := rfl
      rw [step, execHandshakeReask, asked]
    rw [run, reask_defers one defers, State.askedOn, if_neg (by simp; omega), if_neg (by simp)]
  case last =>
    have run : exec .handshakeReask s = .next (s.askBlocks r (r.deferred.map Prod.fst)) := by
      have step : exec .handshakeReask s = execHandshakeReask s := rfl
      rw [step, execHandshakeReask, asked]
    obtain ⟨pwr, status, frame⟩ := endRequest_spec s stTimeout (by decide)
    refine ⟨_, run.trans (congrArg Host.Outcome.next ?_), pwr, status, frame.regs, frame.pieces⟩
    rw [reask_defers one defers]
    exact if_pos (by simpa using last)
  case noEntry =>
    have step : exec .powerEntryComplete s = execPowerEntryComplete s := rfl
    rw [step, execPowerEntryComplete, none]
  case idle => exact entry_idle entry due light (eh.symm.trans none)
  case wakes =>
    rw [entry_wakes entry due light (eh.symm.trans some_)]
    exact congrArg Host.Outcome.next (if_neg (by simp [State.enteredAs, none]))
  case off =>
    subst deep
    have found : held.find? (fun x => x == .wakeN || x == .pcie) = none := by
      rw [List.find?_eq_none]
      exact fun x mem => by simp [quiet x mem]
    rw [eh] at found
    obtain ⟨leaves, cold, pwr⟩ := powerOff_spec (s := s) (u := s) (p := (s.enteredAs 5).pwr) (.refl _ _) rfl rfl rfl
    exact ⟨_, entry_deep_off entry due found, congrArg Power.state pwr, leaves, cold⟩
  case again =>
    subst deep
    have found : held.find? (fun x => x == .wakeN || x == .pcie) = some src := by
      rw [split_, List.find?_append, List.find?_eq_none.mpr fun x mem => by simp [first x mem], Option.none_or]
      rcases wakes with rfl | rfl
      · rfl
      · rfl
    rw [eh] at found
    obtain ⟨state, reset, cold, cause, mem, cores, parts, -⟩ := restart_spec (s.enteredAs 5).powerOff src
    exact ⟨_, entry_deep_wakes entry due found, state, reset, cold, cause, mem, cores, parts⟩
  case waking => exact congrArg Host.Outcome.next ((wakeBy_sleeping up sleeps).trans (if_pos waking))
  case begins => exact congrArg Host.Outcome.next ((wakeBy_sleeping up sleeps).trans (if_neg (by simp [none])))
  case lost =>
    have frame := frame_count s Reg.pwrWake 23 8 1
    exact ⟨_, congrArg Host.Outcome.next ((wakeBy_awake up on).trans (if_pos ⟨entry, edge⟩)),
      rf_count_self s Reg.pwrWake 1 (by decide) (by decide), frame.regs, frame.pieces⟩
  case held =>
    have kept : ¬ (s.pwr.entry.isSome = true ∧ src.edge = true) := fun ⟨entry, edge⟩ => by
      rcases level with none | flat
      · simp [none] at entry
      · simp [flat] at edge
    exact congrArg Host.Outcome.next ((wakeBy_awake up on).trans ((if_neg kept).trans (if_pos busy)))
  case level =>
    exact congrArg Host.Outcome.next ((wakeBy_awake up on).trans ((if_neg (by simp [noEntry])).trans
      (if_neg (by simp [noEntry, noRequest]))))
  case cycle =>
    obtain ⟨state, awake⟩ := cycle_wakes waking due
    refine ⟨s.cycle, ?_, state, awake⟩
    rw [step, pending, State.idle, issue]
    rfl
  case restart =>
    obtain ⟨state, reset, cold, cause, mem, -, -, flash⟩ := restart_spec s src
    exact ⟨_, congrArg Host.Outcome.next (if_pos ⟨deep, by simp [cool], wakes⟩), state, reset, cold, cause, mem, flash⟩
  case stays =>
    refine congrArg Host.Outcome.next (if_neg fun ⟨deep, cool, wakes⟩ => ?_)
    rcases no with other | tripped | ⟨noPin, noHost⟩
    · exact other deep
    · simp [tripped] at cool
    · exact wakes.elim noPin noHost
  case cool =>
    refine if_neg fun ⟨hot, awake⟩ => ?_
    rcases no with cool | deep
    · omega
    · exact awake deep
  case trip =>
    have unit : 12288 ≤ blockSrc 7 sensor ∧ blockSrc 7 sensor < 65536 := by
      have := sensor.isLt
      simp only [blockSrc]
      omega
    obtain ⟨told, held⟩ := fatalMsg_unit s unit.1 unit.2 0x81 temp.toNat
    have run : exec (.thermTrip sensor temp) s = .next (State.powerOff { s.fatalMsg (blockSrc 7 sensor) 0x81 temp.toNat with
        pwr := { (s.fatalMsg (blockSrc 7 sensor) 0x81 temp.toNat).pwr with tripped := true } }) := if_pos ⟨hot, awake⟩
    obtain ⟨u, eu⟩ : ∃ u, s.fatalMsg (blockSrc 7 sensor) 0x81 temp.toNat = u := ⟨_, rfl⟩
    rw [eu] at told held run
    have mgt : u.mgt = s.mgt := told .mgt (by decide)
    obtain ⟨leaves, -, pwr⟩ := powerOff_spec (p := { u.pwr with tripped := true }) (told.mono (by decide))
      (congrArg Gatehouse.logSeq mgt) (stopWrite_flash mgt (told .flash (by decide))) held
    exact ⟨_, run, by rw [pwr], by rw [pwr], leaves⟩
  case unarmed =>
    rcases no with out | armed
    · exact congrArg Host.Outcome.next (if_neg (by simp [out]))
    · refine congrArg Host.Outcome.next ?_
      split
      · exact if_pos armed
      · rfl
  case conflict =>
    have frame := frame_setRf s Reg.pwrStatus 15 8 stConflict
    refine ⟨_, congrArg Host.Outcome.next ((if_pos reach).trans ?_), rf_setRf_self s Reg.pwrStatus stConflict (by decide) (by decide),
      frame.regs, frame.pieces⟩
    rw [State.schedArm, if_neg (by rw [idle]; decide), none]
  case armed =>
    obtain ⟨armed, at_, goal, owner, on, cmp, done, frame⟩ := schedArm_spec time.toNat target.toNat target.isLt idle free rfl
    refine ⟨_, congrArg Host.Outcome.next (if_pos reach), armed, at_.trans (BitVec.eq_of_toNat_eq (by simp)), goal, owner, on, ?_, done,
      frame.regs,
      frame.pieces⟩
    exact BitVec.eq_of_toNat_eq (cmp.trans (Nat.mod_eq_of_lt time.isLt))
  case unscheduled =>
    refine congrArg Host.Outcome.next ?_
    rcases no with out | idle
    · exact if_neg (by simp [out])
    · split
      · exact if_neg (by rw [idle]; decide)
      · rfl
  case disarmed => exact ⟨_, congrArg Host.Outcome.next (if_pos reach), schedDisarm_spec armed rfl⟩

end Sys2Proof.Machine
end

section
/-! PROOFS. Drain records. -/

namespace Sys2Proof.Machine

open Sys2Proof

-- One theorem after another: many at once would need too many threads.
set_option Elab.async false

/-! ## What a drain record leaves of its partition (R184 to R186, R312) -/

/-- Memory and partitions alone have changed, and of a partition's rings and of its drain's records nothing. -/
structure Drains (q : Nat) (s t : State) : Prop where
  pieces : OnlyTouches [.mem, .hostB, .parts] s t
  rings  : (t.part q).rings = (s.part q).rings
  seq    : (t.part q).drain.seq = (s.part q).drain.seq
  stats  : (t.part q).drain.stats = (s.part q).drain.stats

theorem Drains.refl (q : Nat) (s : State) : Drains q s s := ⟨.refl _ _, rfl, rfl, rfl⟩

theorem Drains.trans {q : Nat} {s t u : State} (h : Drains q s t) (k : Drains q t u) : Drains q s u :=
  ⟨h.pieces.trans k.pieces, k.rings.trans h.rings, k.seq.trans h.seq, k.stats.trans h.stats⟩

theorem Drains.good {q : Nat} {s t : State} (h : Drains q s t) (clean : s.dramErr = []) : t.dramErr = [] :=
  (h.pieces .dramErr (by decide)).trans clean

/-- A partition's tail moved after writes that leave its rings and its drain. -/
theorem drains_tail {q : Nat} {s u : State} (pieces : OnlyTouches [.mem, .hostB, .parts] s u) (rings : (u.part q).rings = (s.part q).rings)
    (drain : (u.part q).drain = (s.part q).drain) {f : Drain → Drain} (seq : ∀ x, (f x).seq = x.seq)
    (stats : ∀ x, (f x).stats = x.stats) :
    Drains q s (u.updPart q (fun p => { p with drain := f p.drain })) ∧
      ((u.updPart q (fun p => { p with drain := f p.drain })).part q).drain = f (s.part q).drain := by
  refine ⟨⟨pieces.trans ((touches_updPart _ _ _).mono (by decide)), ?_, ?_, ?_⟩, ?_⟩
  · rw [State.part_updPart_self]
    exact rings
  · rw [State.part_updPart_self]
    exact (seq _).trans (congrArg Drain.seq drain)
  · rw [State.part_updPart_self]
    exact (stats _).trans (congrArg Drain.stats drain)
  · rw [State.part_updPart_self]
    exact congrArg f drain

theorem span_prefix {α : Type} {d : Nat → α} {m : Table α} {a : Nat} {x y : List α}
    (h : Table.span d m a (x ++ y).length = x ++ y) : Table.span d m a x.length = x := by
  have first := congrArg (List.take x.length) h
  rwa [take_span, List.length_append, Nat.min_eq_left (Nat.le_add_right ..), List.take_left'  rfl] at first

/-- A record, or a pad record, written at the tail of the drain ring in LPDDR6, and the tail after it. -/
theorem lDrainPut_spec {s : State} (clean : s.dramErr = []) (q base tail next : Nat) (bs : List Byte) :
    Drains q s (s.lDrainPut q base tail next bs) ∧
    ((s.lDrainPut q base tail next bs).part q).drain = { (s.part q).drain with lTail := next } ∧
    OnlyTouches [.mem, .parts] s (s.lDrainPut q base tail next bs) ∧
    (64 ≤ tail → (s.lDrainPut q base tail next bs).rd (base + tail) bs.length = bs) ∧
    (s.lDrainPut q base tail next bs).rd base 8 = leBytes 8 next := by
  have first : Stores s (s.wrDram q (base + tail) bs) := stores_wrDram clean ..
  have reads : (s.wrDram q (base + tail) bs).rd (base + tail) bs.length = bs := rd_wrDram_self clean ..
  unfold State.lDrainPut
  obtain ⟨u, eu⟩ : ∃ u, s.wrDram q (base + tail) bs = u := ⟨_, rfl⟩
  rw [eu] at first reads ⊢
  have good := first.good clean
  have second : Stores u (u.wrDram q base (leBytes 8 next ++ zeros 56)) := stores_wrDram good ..
  have head : (u.wrDram q base (leBytes 8 next ++ zeros 56)).rd base (leBytes 8 next ++ zeros 56).length = leBytes 8 next ++ zeros 56 :=
    rd_wrDram_self good ..
  have stays (far : 64 ≤ tail) : (u.wrDram q base (leBytes 8 next ++ zeros 56)).rd (base + tail) bs.length = bs := by
    rw [rd_wrDram_other good, reads]
    simp only [List.length_append, length_leBytes, zeros, List.length_replicate]
    omega
  obtain ⟨v, ev⟩ : ∃ v, u.wrDram q base (leBytes 8 next ++ zeros 56) = v := ⟨_, rfl⟩
  rw [ev] at second head stays ⊢
  obtain ⟨c, j, part⟩ := (first.trans second).notes q
  have pieces := (first.trans second).pieces
  obtain ⟨drains, drain⟩ := drains_tail (q := q) (s := s) (u := v) (f := fun x => { x with lTail := next }) (pieces.mono (by decide))
    (by rw [part]) (by rw [part]) (fun _ => rfl) (fun _ => rfl)
  have start := span_prefix head
  rw [length_leBytes] at start
  exact ⟨drains, drain, pieces.trans ((touches_updPart _ _ _).mono (by decide)), stays, start⟩

/-- The same at the tail of the host's drain ring behind port B. -/
theorem hDrainPut_spec (s : State) (q tail next : Nat) (bs : List Byte) {base : Nat} (eb : (s.hDrainRing q).1 = base) :
    Drains q s (s.hDrainPut q tail next bs) ∧
    ((s.hDrainPut q tail next bs).part q).drain = { (s.part q).drain with hTail := next } ∧
    OnlyTouches [.hostB, .parts] s (s.hDrainPut q tail next bs) ∧
    (64 ≤ tail → Table.span zeroByte (s.hDrainPut q tail next bs).hostB (base + tail) bs.length = bs) ∧
    Table.span zeroByte (s.hDrainPut q tail next bs).hostB base 8 = leBytes 8 next := by
  have reads : (s.wrHost .b (base + tail) bs).host .b (base + tail) bs.length = bs := host_wrHost_self ..
  have first := (within_wrHost_b s (base + tail) bs).touches
  unfold State.hDrainPut
  dsimp only
  rw [eb]
  obtain ⟨u, eu⟩ : ∃ u, s.wrHost .b (base + tail) bs = u := ⟨_, rfl⟩
  rw [eu] at first reads ⊢
  have second := (within_wrHost_b u base (leBytes 8 next ++ zeros 56)).touches
  have head : (u.wrHost .b base (leBytes 8 next ++ zeros 56)).host .b base (leBytes 8 next ++ zeros 56).length =
      leBytes 8 next ++ zeros 56 := host_wrHost_self ..
  have stays (far : 64 ≤ tail) : (u.wrHost .b base (leBytes 8 next ++ zeros 56)).host .b (base + tail) bs.length = bs := by
    rw [host_wrHost_other, reads]
    simp only [List.length_append, length_leBytes, zeros, List.length_replicate]
    omega
  obtain ⟨v, ev⟩ : ∃ v, u.wrHost .b base (leBytes 8 next ++ zeros 56) = v := ⟨_, rfl⟩
  rw [ev] at second head stays ⊢
  have pieces := first.trans second
  have part : v.part q = s.part q := part_of_parts (pieces .parts (by decide)) q
  obtain ⟨drains, drain⟩ := drains_tail (q := q) (s := s) (u := v) (f := fun x => { x with hTail := next }) (pieces.mono (by decide))
    (by rw [part]) (by rw [part]) (fun _ => rfl) (fun _ => rfl)
  have start := span_prefix head
  rw [length_leBytes] at start
  exact ⟨drains, drain, (pieces.mono (by decide)).trans ((touches_updPart _ _ _).mono (by decide)), stays, start⟩

/-! ## What a record feeds, and its end (R124, R204, R205) -/

theorem updOffer_eq (p : Partition) (pool sweep : Nat) (f : PoolOffer → PoolOffer) :
    ∃ o, p.updOffer pool sweep f = { p with offers := o } := by
  unfold Partition.updOffer
  split
  · exact ⟨_, rfl⟩
  · exact ⟨_, rfl⟩

theorem drains_updPart {q : Nat} (s : State) (p : Nat) {f : Partition → Partition}
    (same : ∀ x, (f x).rings = x.rings ∧ (f x).drain = x.drain) :
    Drains q s (s.updPart p f) ∧ ((s.updPart p f).part q).drain = (s.part q).drain := by
  have part : ((s.updPart p f).part q).rings = (s.part q).rings ∧ ((s.updPart p f).part q).drain = (s.part q).drain := by
    rw [State.part_updPart]
    split
    · next own => rw [own]; exact same _
    · exact ⟨rfl, rfl⟩
  exact ⟨⟨(touches_updPart _ _ _).mono (by decide), part.1, congrArg Drain.seq part.2, congrArg Drain.stats part.2⟩, part.2⟩

theorem drains_offer {q : Nat} (s : State) (p pool sweep : Nat) (f : PoolOffer → PoolOffer) :
    Drains q s (s.updPart p (fun x => x.updOffer pool sweep f)) ∧
      ((s.updPart p (fun x => x.updOffer pool sweep f)).part q).drain = (s.part q).drain :=
  drains_updPart s p fun x => by
    obtain ⟨o, e⟩ := updOffer_eq x pool sweep f
    rw [e]
    exact ⟨rfl, rfl⟩

/-- The pools' staging slots take a record's payload, and its offers are noted. -/
theorem feedPools_spec {s : State} (clean : s.dramErr = []) (q : Nat) (b : Binding) (w : Window) (wi i sweep : Nat) (r : WinRecord)
    (payload : List Byte) : Drains q s (s.feedPools q b w wi i sweep r payload) ∧
    ((s.feedPools q b w wi i sweep r payload).part q).drain = (s.part q).drain ∧
    (s.feedPools q b w wi i sweep r payload).hostB = s.hostB ∧
    (poolsOf b r.chain wi false = [] → (s.feedPools q b w wi i sweep r payload).mem = s.mem) := by
  unfold State.feedPools
  dsimp only
  have staged (l : List (Nat × PoolEntry)) : ∀ s : State, s.dramErr = [] → ∀ t : State,
      t = l.foldl (fun t e => (t.wrDram q (e.2.slotAt (t.staging e.2) + (chainOffset w i r.chain).1) payload).updPart q (fun p =>
        p.updOffer e.1 sweep (fun x => { x with begun := true, staged := x.staged || (chainOffset w i r.chain).2 }))) s →
      Drains q s t ∧ (t.part q).drain = (s.part q).drain ∧ t.hostB = s.hostB := by
    induction l with
    | nil =>
      rintro s clean t rfl
      exact ⟨Drains.refl q _, rfl, rfl⟩
    | cons e l ih =>
      intro s clean t run
      rw [List.foldl_cons] at run
      have stored : Stores s (s.wrDram q (e.2.slotAt (s.staging e.2) + (chainOffset w i r.chain).1) payload) := stores_wrDram clean ..
      obtain ⟨u, eu⟩ : ∃ u, s.wrDram q (e.2.slotAt (s.staging e.2) + (chainOffset w i r.chain).1) payload = u := ⟨_, rfl⟩
      rw [eu] at stored run
      obtain ⟨c, j, part⟩ := stored.notes q
      have wrote : Drains q s u := ⟨stored.pieces.mono (by decide), by rw [part], by rw [part], by rw [part]⟩
      obtain ⟨noted, drain⟩ := drains_offer (q := q) u q e.1 sweep
        (fun x => { x with begun := true, staged := x.staged || (chainOffset w i r.chain).2 })
      have both := wrote.trans noted
      obtain ⟨rest, drain', host⟩ := ih _ (both.good clean) t run
      exact ⟨both.trans rest, drain'.trans (drain.trans (by rw [part])), host.trans (stored.pieces .hostB (by decide))⟩
  have offered (l : List (Nat × PoolEntry)) : ∀ s t : State,
      t = l.foldl (fun t e => t.updPart q (fun p =>
        p.updOffer e.1 sweep (fun x => { x with energy := some (payload.take 16, leAt payload 16 1) }))) s →
      Drains q s t ∧ (t.part q).drain = (s.part q).drain ∧ t.hostB = s.hostB ∧ t.mem = s.mem := by
    induction l with
    | nil =>
      rintro s t rfl
      exact ⟨Drains.refl q _, rfl, rfl, rfl⟩
    | cons e l ih =>
      intro s t run
      rw [List.foldl_cons] at run
      obtain ⟨noted, drain⟩ := drains_offer (q := q) s q e.1 sweep
        (fun x => { x with energy := some (payload.take 16, leAt payload 16 1) })
      obtain ⟨rest, drain', host, mem⟩ := ih _ t run
      exact ⟨noted.trans rest, drain'.trans drain, host, mem⟩
  obtain ⟨first, drain, host⟩ := staged (poolsOf b r.chain wi false) s clean _ rfl
  obtain ⟨second, drain', host', mem⟩ := offered (poolsOf b r.chain wi true) _ _ rfl
  refine ⟨first.trans second, drain'.trans drain, host'.trans host, fun none => mem.trans ?_⟩
  rw [none]
  rfl

theorem statValues_of_regs {s t : State} (h : t.regs = s.regs) (b : Binding) (window record seq : Nat) (payload : List Byte) :
    t.statValues b window record seq payload = s.statValues b window record seq payload := by
  have det : t.det = s.det := by rw [State.det, rf_of_reg (State.reg_of_regs h _), State.det]
  rw [State.statValues, State.statValues, det]

/-- What a record's end shows: its ring's bytes are free, its window's number rises, and a statistics record's values are
derived. -/
def RecordCut (s : State) (q : Nat) (b : Binding) (ring : Nat) (c : Cut) (payload : List Byte) (t : State) : Prop :=
  (t.part q).ring ring = (let x := (s.part q).ring ring
    { x with fill := x.fill + c.rec_.payload, moved := x.moved + c.rec_.payload }) ∧
  Table.look (fun _ => 0) (t.part q).drain.seq c.window = c.seq + 1 ∧ (t.part q).drain.staged = none ∧
  (c.win.kind = 2 → Table.look (fun _ => []) (t.part q).drain.stats c.window =
    (Table.look (fun _ => []) (s.part q).drain.stats c.window).filter (fun v => v.record != c.index) ++
      s.statValues b c.window c.index c.seq payload) ∧
  OnlyTouches [.mem, .hostB, .parts] s t

theorem cutDone_spec {s u : State} (clean : s.dramErr = []) {q : Nat} (before : Drains q s u) (b : Binding) (ring : Nat) (c : Cut)
    (payload : List Byte) {t : State} (run : t = u.cutDone q b ring c payload) : RecordCut s q b ring c payload t ∧
    (t.part q).drain.lTail = (u.part q).drain.lTail ∧ (t.part q).drain.hTail = (u.part q).drain.hTail ∧ t.hostB = u.hostB ∧
    (poolsOf b c.rec_.chain c.window false = [] → t.mem = u.mem) := by
  obtain ⟨fed, fedDrain, fedHost, fedMem⟩ := feedPools_spec (before.good clean) q b c.win c.window c.index c.sweep c.rec_ payload
  unfold State.cutDone at run
  dsimp only at run
  obtain ⟨v, ev⟩ : ∃ v, u.feedPools q b c.win c.window c.index c.sweep c.rec_ payload = v := ⟨_, rfl⟩
  rw [ev] at fed fedDrain fedHost fedMem run
  have sofar := before.trans fed
  obtain ⟨w, ew⟩ : ∃ w, (if c.win.kind = 2 then v.reportStats q b c.window c.index c.seq payload else v) = w := ⟨_, rfl⟩
  rw [ew] at run
  have stats : OnlyTouches [.parts] v w ∧ (w.part q).rings = (v.part q).rings ∧
      (w.part q).drain = { (v.part q).drain with stats := (w.part q).drain.stats } ∧
      (c.win.kind = 2 → Table.look (fun _ => []) (w.part q).drain.stats c.window =
        (Table.look (fun _ => []) (v.part q).drain.stats c.window).filter (fun x => x.record != c.index) ++
          v.statValues b c.window c.index c.seq payload) := by
    rw [← ew]
    split
    next kind =>
      unfold State.reportStats
      dsimp only
      refine ⟨touches_updPart _ _ _, ?_, ?_, fun _ => ?_⟩
      · rw [State.part_updPart_self]
      · rw [State.part_updPart_self]
      · rw [State.part_updPart_self]
        exact Table.look_put_self ..
    next other => exact ⟨.refl _ _, rfl, rfl, fun kind => absurd kind other⟩
  obtain ⟨touches, rings, drain, values⟩ := stats
  have ring' : (w.part q).ring ring = (s.part q).ring ring := by
    rw [Partition.ring, rings, sofar.rings, Partition.ring]
  have pieces : OnlyTouches [.mem, .hostB, .parts] s t := by
    rw [run]
    exact sofar.pieces.trans ((touches.mono (by decide)).trans ((touches_updPart _ _ _).mono (by decide)))
  have part : t.part q = { (w.part q).updRing ring (fun x => { x with
      fill := x.fill + c.rec_.payload, moved := x.moved + c.rec_.payload }) with
    drain := { (w.part q).drain with
      seq := Table.put (fun _ => 0) (w.part q).drain.seq c.window (c.seq + 1), staged := none } } := by
    rw [run, State.part_updPart_self]
  have own : (t.part q).drain = { (w.part q).drain with
      seq := Table.put (fun _ => 0) (w.part q).drain.seq c.window (c.seq + 1), staged := none } := by rw [part]
  refine ⟨⟨?_, ?_, by rw [own], fun kind => ?_, pieces⟩, ?_, ?_, ?_, fun none => ?_⟩
  · rw [part, ← ring']
    exact ring_updRing_self (w.part q) ring fun x => { x with fill := x.fill + c.rec_.payload, moved := x.moved + c.rec_.payload }
  · rw [own]
    dsimp only
    exact Table.look_put_self (fun _ => 0) _ _ _
  · rw [own]
    refine (values kind).trans ?_
    rw [sofar.stats, statValues_of_regs (sofar.pieces .regs (by decide)).1]
  · rw [own, drain, ← fedDrain]
  · rw [own, drain, ← fedDrain]
  · rw [run]
    exact (touches .hostB (by decide)).trans fedHost
  · rw [run]
    exact (touches .mem (by decide)).trans (fedMem none)

/-! ## A record's way from its ring to its destination (R160, R184, R186, R312) -/

/-- The next record of a ring's takes stands whole in the ring, and its staging slots are free. -/
structure Cuttable (s : State) (q : QuireId) (ring : Fin 32) (b : Binding) (d : RingDesc) (c : Cut) : Prop where
  desc   : (s.part q).ringDesc ring = some (b, d)
  kind   : d.kind = 1
  runs   : ((s.part q).ring ring).stopped = false
  drain  : b.ringIsDrain ring = true
  place  : (b.ringPlace d).1 = 1
  next   : (s.part q).nextCut b ring = some c
  whole  : c.rec_.payload ≤ ((s.part q).ring ring).used - ((s.part q).ring ring).moved
  free   : (s.part q).stagingBusy b c = false

section
variable {s : State} {q : QuireId} {ring : Fin 32} {b : Binding} {d : RingDesc} {c : Cut} (ready : Cuttable s q ring b d c)
include ready

theorem exec_drainRecordWrite : exec (.drainRecordWrite q ring) s =
    if c.win.dest = 1 ∧ !bit (s.reg (Reg.hstDrain q)) 5 then .next (s.stopRing q ring)
    else
      let rd := s.ringRead b d ((s.part q).ring ring).moved c.rec_.payload
      if rd.1.isSome then .next (rd.2.2.stopRing q ring)
      else
        let rec_ := drainRecord c.rec_ c.win.kind c.window c.sweep c.seq rd.2.1
        .next (if c.win.dest = 1 then rd.2.2.cutToHost q b ring c rec_ rd.2.1 else rd.2.2.cutToMem q b ring c rec_ rd.2.1) := by
  rw [show exec (.drainRecordWrite q ring) s = execDrainRecordWrite q ring s from rfl, execDrainRecordWrite, ready.desc]
  dsimp only
  rw [ready.kind, ready.runs, ready.drain, ready.place, ready.next]
  have plain : ((1 != 1 || false || !true || (1 : Nat) != 1) : Bool) = false := rfl
  rw [if_neg (by decide)]
  dsimp only
  rw [ready.free, decide_eq_false (Nat.not_lt.mpr ready.whole), if_neg (by decide)]

/-- A host drain ring that is disabled stops the ring. -/
theorem exec_drainRecordWrite_disabled (dest : c.win.dest = 1) (off : bit (s.reg (Reg.hstDrain q)) 5 = false) :
    exec (.drainRecordWrite q ring) s = .next (s.stopRing q ring) := by
  rw [exec_drainRecordWrite ready, if_pos ⟨dest, by rw [off]; rfl⟩]

variable (allowed : c.win.dest = 1 → bit (s.reg (Reg.hstDrain q)) 5 = true)
include allowed

theorem exec_drainRecordWrite_read {e : Option Nat} {bytes : List Byte} {u : State}
    (read : s.ringRead b d ((s.part q).ring ring).moved c.rec_.payload = (e, bytes, u)) : exec (.drainRecordWrite q ring) s =
    if e.isSome then .next (u.stopRing q ring)
    else .next (if c.win.dest = 1 then
        u.cutToHost q b ring c (drainRecord c.rec_ c.win.kind c.window c.sweep c.seq bytes) bytes
      else u.cutToMem q b ring c (drainRecord c.rec_ c.win.kind c.window c.sweep c.seq bytes) bytes) := by
  rw [exec_drainRecordWrite ready, if_neg, read]
  rintro ⟨dest, off⟩
  rw [allowed dest] at off
  exact absurd off (by decide)

/-- On a buffer without an uncorrectable granule the record goes to its destination. -/
theorem exec_drainRecordWrite_good (good : s.sramGood) {payload : List Byte}
    (bytes : payload = (s.ringRead b d ((s.part q).ring ring).moved c.rec_.payload).2.1) : exec (.drainRecordWrite q ring) s =
    .next (if c.win.dest = 1 then
        s.cutToHost q b ring c (drainRecord c.rec_ c.win.kind c.window c.sweep c.seq payload) payload
      else s.cutToMem q b ring c (drainRecord c.rec_ c.win.kind c.window c.sweep c.seq payload) payload) := by
  obtain ⟨e, bs, u, read, -, -, quiet⟩ := ringRead_spec s b d ((s.part q).ring ring).moved c.rec_.payload
  obtain ⟨rfl, rfl⟩ := quiet good
  rw [exec_drainRecordWrite_read ready allowed read, bytes, read]
  rfl

end

/-- A ring that its access stops: its partition, the report, and nothing else. -/
theorem stopRing_after {s u : State} (read : Frame [.regs, .flt] faultRegs s u) (q ring : Nat) :
    (((u.stopRing q ring).part q).ring ring).stopped = true ∧ KeepsParts [q] s (u.stopRing q ring) ∧
      KeepsRegs faultRegs s (u.stopRing q ring) ∧ OnlyTouches [.regs, .parts, .flt] s (u.stopRing q ring) := by
  have all := (frame_stopRing u q ring).after (read.mono (ps := [.regs, .parts, .flt]) (rs := faultRegs))
  exact ⟨(part_stopRing u q ring).1, (read.pieces.keepsParts (by decide) _).trans (keepsParts_stopRing u q ring), all.regs, all.pieces⟩

/-! ### LPDDR6 -/

section
variable {s u : State} {q ring : Nat} {b : Binding} {c : Cut} {rec_ payload : List Byte} {base size : Nat}
  (place : b.ldrain = some (base, size)) (pad : s.lDrainPad q base size rec_.length = u)
include place pad

theorem cutToMem_room {next : Nat}
    (room : drainNext size (u.part q).drain.lHead (u.part q).drain.lTail rec_.length = some next) :
    s.cutToMem q b ring c rec_ payload = (u.lDrainPut q base (u.part q).drain.lTail next rec_).cutDone q b ring c payload := by
  rw [State.cutToMem, place]
  dsimp only
  rw [pad, State.lDrainWrite]
  rw [room]
  rfl

theorem cutToMem_waits (full : drainNext size (u.part q).drain.lHead (u.part q).drain.lTail rec_.length = none) :
    s.cutToMem q b ring c rec_ payload = u := by
  rw [State.cutToMem, place]
  dsimp only
  rw [pad, State.lDrainWrite]
  rw [full]
  rfl

end

theorem lDrainPad_not {s : State} {q base size len : Nat}
    (fits : drainPads size (s.part q).drain.lHead (s.part q).drain.lTail len = false) : s.lDrainPad q base size len = s := by
  rw [State.lDrainPad]
  rw [fits]
  rfl

theorem lDrainPad_pads {s : State} {q base size len : Nat}
    (pads : drainPads size (s.part q).drain.lHead (s.part q).drain.lTail len = true) : s.lDrainPad q base size len =
      s.lDrainPut q base (s.part q).drain.lTail 64 (padRecord (s.part q).drain.lTail (size - (s.part q).drain.lTail - 32)) := by
  rw [State.lDrainPad]
  rw [pads]
  rfl

/-- A record written at the tail in LPDDR6, and its end. -/
theorem lDrainPut_cutDone {s u : State} (clean : s.dramErr = []) {q : Nat} (before : Drains q s u) (b : Binding) (ring : Nat) (c : Cut)
    (payload rec_ : List Byte) {base tail next : Nat} (far : 64 ≤ tail) {t : State}
    (run : t = (u.lDrainPut q base tail next rec_).cutDone q b ring c payload) :
    RecordCut s q b ring c payload t ∧ (t.part q).drain.lTail = next ∧ t.hostB = u.hostB ∧
      (poolsOf b c.rec_.chain c.window false = [] → t.rd (base + tail) rec_.length = rec_ ∧ t.rd base 8 = leBytes 8 next) := by
  obtain ⟨wrote, drain, pieces, there, start⟩ := lDrainPut_spec (before.good clean) q base tail next rec_
  obtain ⟨done, lTail, -, host, mem⟩ := cutDone_spec clean (before.trans wrote) b ring c payload run
  refine ⟨done, lTail.trans (by rw [drain]), host.trans (pieces .hostB (by decide)), fun none => ?_⟩
  rw [rd_of_mem (mem none), rd_of_mem (mem none)]
  exact ⟨there far, start⟩

/-! ### The host memory behind port B -/

theorem hDrainPad_not {s : State} {q len : Nat}
    (fits : drainPads (s.hDrainRing q).2 (s.part q).drain.hHead (s.part q).drain.hTail len = false) : s.hDrainPad q len = s := by
  rw [State.hDrainPad]
  rw [fits]
  rfl

section
variable {s : State} {q ring : Nat} {b : Binding} {c : Cut} {rec_ payload : List Byte} {next : Nat}
  (fits : drainPads (s.hDrainRing q).2 (s.part q).drain.hHead (s.part q).drain.hTail rec_.length = false)
  (room : drainNext (s.hDrainRing q).2 (s.part q).drain.hHead (s.part q).drain.hTail rec_.length = some next)
include fits room

theorem cutToHost_direct (none : s.hostStaging = none) : s.cutToHost q b ring c rec_ payload =
    (s.hDrainPut q (s.part q).drain.hTail next rec_).cutDone q b ring c payload := by
  rw [State.cutToHost]
  dsimp only
  rw [hDrainPad_not fits, State.hDrainNext]
  rw [room]
  dsimp only
  rw [none]

variable {buf off space : Nat} (region : s.hostStaging = some (buf, off, space))
include region

theorem cutToHost_stages (other : (s.part q).drain.staged ≠ some (ring, rec_.length)) (holds : rec_.length ≤ space)
    (free : s.stagingHeld = false) : s.cutToHost q b ring c rec_ payload =
    (s.bufferWrite buf off rec_).updPart q (fun p => { p with drain := { p.drain with staged := some (ring, rec_.length) } }) := by
  rw [State.cutToHost]
  dsimp only
  rw [hDrainPad_not fits, State.hDrainNext]
  rw [room]
  dsimp only
  rw [region]
  dsimp only
  rw [if_neg other, if_pos holds, free]
  rfl

theorem cutToHost_staged (own : (s.part q).drain.staged = some (ring, rec_.length)) {e : Option Nat} {bytes : List Byte} {u : State}
    (read : s.bufferRead buf off rec_.length = (e, bytes, u)) : s.cutToHost q b ring c rec_ payload =
    if e.isSome then u.stopRing q ring else (u.hDrainPut q (s.part q).drain.hTail next bytes).cutDone q b ring c payload := by
  rw [State.cutToHost]
  dsimp only
  rw [hDrainPad_not fits, State.hDrainNext]
  rw [room]
  dsimp only
  rw [region]
  dsimp only
  rw [if_pos own, read]

end

/-- No partition has a record in the staging region. -/
theorem staged_of_not_held {s : State} (free : s.stagingHeld = false) (q : Nat) : (s.part q).drain.staged = none := by
  have every (m : Table Partition) (h : m.any (fun e => e.2.drain.staged.isSome) = false) :
      (Table.look (fun _ => ({} : Partition)) m q).drain.staged = none := by
    induction m with
    | nil => rfl
    | cons e m ih =>
      obtain ⟨first, rest⟩ := Bool.or_eq_false_iff.mp (List.any_cons.symm.trans h)
      rw [Table.look]
      split
      · exact Option.not_isSome_iff_eq_none.mp (by rw [first]; decide)
      · exact ih rest
  exact every s.parts free

/-- A record written at the tail in the host's memory, and its end. -/
theorem hDrainPut_cutDone {s : State} (clean : s.dramErr = []) (q : Nat) (b : Binding) (ring : Nat) (c : Cut)
    (payload rec_ : List Byte) {base tail next : Nat} (eb : (s.hDrainRing q).1 = base) (far : 64 ≤ tail) {t : State}
    (run : t = (s.hDrainPut q tail next rec_).cutDone q b ring c payload) :
    RecordCut s q b ring c payload t ∧ (t.part q).drain.hTail = next ∧
      Table.span zeroByte t.hostB (base + tail) rec_.length = rec_ ∧ Table.span zeroByte t.hostB base 8 = leBytes 8 next ∧
      (poolsOf b c.rec_.chain c.window false = [] → t.mem = s.mem) := by
  obtain ⟨wrote, drain, pieces, there, start⟩ := hDrainPut_spec s q tail next rec_ eb
  obtain ⟨done, -, hTail, host, mem⟩ := cutDone_spec clean wrote b ring c payload run
  rw [host]
  exact ⟨done, hTail.trans (by rw [drain]), there far, start, fun none => (mem none).trans (pieces .mem (by decide))⟩

/-- A read of a buffer leaves where a host drain ring and the staging region stand. -/
theorem hDrainRing_of_read {s u : State} (read : Frame [.regs, .flt] faultRegs s u) (q : QuireId) :
    u.hDrainRing q = s.hDrainRing q := by
  have own : u.reg (Reg.hstDrain q) = s.reg (Reg.hstDrain q) :=
    read.reg (by simp only [faultRegs, List.mem_singleton, Reg.hstDrain, Reg.fltStat]; omega)
  rw [State.hDrainRing, State.hDrainRing, own]

theorem hostStaging_of_read {s u : State} (read : Frame [.regs, .flt] faultRegs s u) : u.hostStaging = s.hostStaging := by
  have own (i : Nat) (h : i < 128) : u.reg (Reg.arrEbregion i) = s.reg (Reg.arrEbregion i) :=
    read.reg (by simp only [faultRegs, List.mem_singleton, Reg.arrEbregion, Reg.fltStat]; omega)
  have same : (List.range 128).find? (fun i => bit (u.reg (Reg.arrEbregion i)) 31 && fld (u.reg (Reg.arrEbregion i)) 27 24 == 5) =
      (List.range 128).find? (fun i => bit (s.reg (Reg.arrEbregion i)) 31 && fld (s.reg (Reg.arrEbregion i)) 27 24 == 5) :=
    List.find?_congr fun i h => by rw [own i (List.mem_range.mp h)]
  rw [State.hostStaging, State.hostStaging, same]
  refine Option.map_congr fun i found => ?_
  rw [own i (List.mem_range.mp (List.mem_of_find?_eq_some found))]

/-! ## The obligation -/

theorem length_padRecord (at_ left : Nat) : (padRecord at_ left).length = 32 := by
  rw [padRecord, List.length_map, List.length_range]

/-- The clauses of a record for LPDDR6. -/
theorem drainToMem_spec {s : State} {q : QuireId} {ring : Fin 32} {b : Binding} {c : Cut} {payload rec_ : List Byte}
    (run : exec (.drainRecordWrite q ring) s = .next (s.cutToMem q b ring c rec_ payload)) (clean : s.dramErr = [])
    {base size : Nat} (place : b.ldrain = some (base, size)) {dr : Drain} (own : dr = (s.part q).drain) (far : 64 ≤ dr.lTail) :
    (∀ next, drainPads size dr.lHead dr.lTail rec_.length = false →
      drainNext size dr.lHead dr.lTail rec_.length = some next →
      ∃ t, exec (.drainRecordWrite q ring) s = .next t ∧ RecordCut s q b ring c payload t ∧ (t.part q).drain.lTail = next ∧
        t.hostB = s.hostB ∧ (poolsOf b c.rec_.chain c.window false = [] →
          t.rd (base + dr.lTail) rec_.length = rec_ ∧ t.rd base 8 = leBytes 8 next)) ∧
    (∀ next, drainPads size dr.lHead dr.lTail rec_.length = true → drainNext size dr.lHead 64 rec_.length = some next →
      ∃ t, exec (.drainRecordWrite q ring) s = .next t ∧ RecordCut s q b ring c payload t ∧ (t.part q).drain.lTail = next ∧
        (poolsOf b c.rec_.chain c.window false = [] → t.rd (base + 64) rec_.length = rec_ ∧ t.rd base 8 = leBytes 8 next)) ∧
    (drainPads size dr.lHead dr.lTail rec_.length = true → drainNext size dr.lHead 64 rec_.length = none →
      ∃ t, exec (.drainRecordWrite q ring) s = .next t ∧ (t.part q).drain = { dr with lTail := 64 } ∧
        (t.part q).rings = (s.part q).rings ∧ t.rd base 8 = leBytes 8 64 ∧
        t.rd (base + dr.lTail) 32 = padRecord dr.lTail (size - dr.lTail - 32) ∧ OnlyTouches [.mem, .parts] s t) ∧
    (drainPads size dr.lHead dr.lTail rec_.length = false → drainNext size dr.lHead dr.lTail rec_.length = none →
      exec (.drainRecordWrite q ring) s = .next s) := by
  subst own
  obtain ⟨wrote, drain, pieces, there, start⟩ := lDrainPut_spec clean q base (s.part q).drain.lTail 64
    (padRecord (s.part q).drain.lTail (size - (s.part q).drain.lTail - 32))
  rw [length_padRecord] at there
  refine ⟨fun next fits room => ?_, fun next pads room => ?_, fun pads full => ?_, fun fits full => ?_⟩
  · rw [cutToMem_room place (lDrainPad_not fits) room] at run
    exact ⟨_, run, lDrainPut_cutDone clean (.refl q s) b ring c payload rec_ far rfl⟩
  · have pad := lDrainPad_pads (base := base) pads
    obtain ⟨u, eu⟩ : ∃ u, s.lDrainPut q base (s.part q).drain.lTail 64
      (padRecord (s.part q).drain.lTail (size - (s.part q).drain.lTail - 32)) = u := ⟨_, rfl⟩
    rw [eu] at pad wrote drain
    rw [cutToMem_room place pad (by rw [drain]; exact room)] at run
    have tail : (u.part q).drain.lTail = 64 := by rw [drain]
    rw [tail] at run
    obtain ⟨done, lTail, -, there⟩ := lDrainPut_cutDone clean wrote b ring c payload rec_ (base := base) (Nat.le_refl 64) rfl
    exact ⟨_, run, done, lTail, there⟩
  · rw [cutToMem_waits place (lDrainPad_pads pads) (by rw [drain]; exact full)] at run
    exact ⟨_, run, drain, wrote.rings, start, there far, pieces⟩
  · rw [run, cutToMem_waits place (lDrainPad_not fits) full]

/-- A record that the staging region takes: the region holds it, and the partition knows. -/
theorem stageRecord_spec {s : State} (good : s.sramGood) (q buf off : Nat) (rec_ : List Byte) (x : Option (Nat × Nat)) {t : State}
    (run : t = (s.bufferWrite buf off rec_).updPart q (fun p => { p with drain := { p.drain with staged := x } })) :
    (t.part q).rings = (s.part q).rings ∧ (t.part q).drain = { (s.part q).drain with staged := x } ∧
      t.rd (bufferBase buf + off) rec_.length = rec_ ∧ KeepsBytes (bufferBase buf + off) rec_.length s t ∧
      KeepsParts [q] s t ∧ OnlyTouches [.mem, .sramErr, .parts] s t := by
  obtain ⟨frame, reads, keeps⟩ := bufferWrite_good good buf off rec_
  obtain ⟨u, eu⟩ : ∃ u, s.bufferWrite buf off rec_ = u := ⟨_, rfl⟩
  rw [eu] at frame reads keeps run
  have same : u.part q = s.part q := part_of_parts (frame.pieces .parts (by decide)) q
  have part : t.part q = { s.part q with drain := { (s.part q).drain with staged := x } } := by
    rw [run, State.part_updPart_self, same]
  have mem : t.mem = u.mem := by rw [run]; exact touches_updPart _ _ _ .mem (by decide)
  refine ⟨by rw [part], by rw [part], (rd_of_mem mem ..).trans reads, fun a ha => ?_, ?_, ?_⟩
  · rw [State.byteAt, mem]
    exact keeps a ha
  · rw [run]
    exact (frame.pieces.keepsParts (by decide) _).trans (keepsParts_updPart _ _ _)
  · rw [run]
    exact (frame.pieces.mono (by decide)).trans ((touches_updPart _ _ _).mono (by decide))

/-- Settles O22: the record's bytes are read or its ring is stopped, and the record goes to LPDDR6, to the host, or by
way of the staging region. -/
theorem drainRecordsAppend : Obligations.DrainRecordsAppend := by
  rintro q ring s b d c payload rec_ desc kind runs drain place next whole free bytes er cut rfl
  have ready : Cuttable s q ring b d c := ⟨desc, kind, runs, drain, place, next, whole, free⟩
  refine ⟨fun allowed bad => ?_, fun dest off => ?_, fun base size dr dest good clean here own far => ?_,
    fun base size dr next dest on good clean here own far fits room =>
      ⟨fun none => ?_, fun buf off space region => ⟨fun holds free => ?_, fun staged => ?_⟩⟩,
    fun base size dr next buf off space dest on here own fits room region staged clear bad => ?_⟩
  · obtain ⟨e, bs, u, read, -, frame, -⟩ := ringRead_spec s b d ((s.part q).ring ring).moved c.rec_.payload
    have run := exec_drainRecordWrite_read ready allowed read
    rw [read] at bad
    rw [if_pos bad] at run
    exact ⟨_, run, stopRing_after frame q ring⟩
  · exact ⟨_, exec_drainRecordWrite_disabled ready dest off, (part_stopRing s q ring).1, keepsParts_stopRing s q ring,
      (frame_stopRing s q ring).pieces⟩
  · have run := exec_drainRecordWrite_good ready (fun h => absurd h dest) good bytes
    rw [if_neg dest, ← er] at run
    exact drainToMem_spec run clean here own far
  · have run := exec_drainRecordWrite_good ready (fun _ => on) good bytes
    rw [if_pos dest, ← er] at run
    subst own
    rw [cutToHost_direct (by rw [here]; exact fits) (by rw [here]; exact room) none] at run
    exact ⟨_, run, hDrainPut_cutDone clean q b ring c payload rec_ (by rw [here]) far rfl⟩
  · have run := exec_drainRecordWrite_good ready (fun _ => on) good bytes
    rw [if_pos dest, ← er] at run
    subst own
    have other : (s.part q).drain.staged ≠ some (ring.val, rec_.length) := by rw [staged_of_not_held free]; exact nofun
    rw [cutToHost_stages (by rw [here]; exact fits) (by rw [here]; exact room) region other holds free] at run
    exact ⟨_, run, stageRecord_spec good q buf off rec_ _ rfl⟩
  · have run := exec_drainRecordWrite_good ready (fun _ => on) good bytes
    rw [if_pos dest, ← er] at run
    subst own
    rw [cutToHost_staged (by rw [here]; exact fits) (by rw [here]; exact room) region staged
      (bufferRead_clean (cleanAt_of_good good _ _))] at run
    obtain ⟨done, hTail, there, start, -⟩ := hDrainPut_cutDone clean q b ring c payload
      (s.rd (bufferBase buf + off) rec_.length) (by rw [here]) far rfl
    rw [rd_length] at there
    exact ⟨_, run, done, hTail, there, start⟩
  · obtain ⟨e, bs, u, read, -, frame, -⟩ := ringRead_spec s b d ((s.part q).ring ring).moved c.rec_.payload
    have run := exec_drainRecordWrite_read ready (fun _ => on) read
    rw [read] at clear bytes
    subst own clear bytes
    rw [if_neg (by decide), if_pos dest, ← er] at run
    obtain ⟨v, second, again⟩ := bufferRead_spec u buf off rec_.length
    have part : u.part q = s.part q := part_of_parts (frame.pieces .parts (by decide)) q
    have ue : u.sramUe (bufferBase buf + off) rec_.length = s.sramUe (bufferBase buf + off) rec_.length := by
      rw [State.sramUe, State.sramUe, frame.pieces .sramErr (by decide)]
    rw [cutToHost_staged (by rw [hDrainRing_of_read frame, here, part]; exact fits)
      (by rw [hDrainRing_of_read frame, here, part]; exact room) ((hostStaging_of_read frame).trans region)
      (by rw [part]; exact staged) again, if_pos (by rw [Option.isSome_map, ue]; exact bad)] at run
    have both := frame.trans second
    obtain ⟨stopped, keeps, regs, pieces⟩ := stopRing_after both q ring
    exact ⟨_, run, stopped, pieces .hostB (by decide), keeps, regs, pieces⟩

end Sys2Proof.Machine
end
